-- ==== Sys2Proof/Word.lean ====
section
/-! DEFINITION. The word types of the SV-8192 model and their plainest arithmetic. -/

namespace Sys2Proof

/-- A host register word (R6: 32 bits for host registers). -/
abbrev Word := BitVec 32

/-- A Sprig or furrow word (R6: 16 bits in Sprig and Furrow contexts). -/
abbrev Half := BitVec 16

/-- A byte. -/
abbrev Byte := BitVec 8

/-- An overhead slot, (row << 11) | column (R54). -/
abbrev Slot := BitVec 15

end Sys2Proof
end

