-- ==== Sys2Proof/Syntax.lean ====
section
/-! DEFINITION. The commands of the SV-8192 block: one constructor of `Instr` per row of the
table of operations and events, with the operands the rule of that row names.  What the outside
world decides (a bit pattern received, a level on a pin, an instant inside an interval the manual
leaves to traffic) is an operand; everything else is read from the state. -/

namespace Sys2Proof

/-- Who issued a register access: the host, or a program of a physical bed (R7, R274). -/
inductive Origin where
  | host
  | program (bed : Fin 16)
deriving DecidableEq, Repr

/-- Where an update command came from (R340): MB0 or the twin link. -/
inductive Source where
  | host
  | mate
deriving DecidableEq, Repr

/-- The clocks that TOP watches, with SUNDIAL_CLK and OSC_IN of R149 (R24, R29). -/
inductive Clock where
  | core | engine | qdr | hostClk | sample | sundial | osc
deriving DecidableEq, Repr

/-- A hardware context: bed, engine of the bed, context of the engine (R195). -/
structure CtxId where
  bed : Fin 16
  eng : Fin 32
  ctx : Fin 4
deriving DecidableEq, Repr

/-- A receive or transmit framer, 0 to 191 line and 192 to 383 system (R2). -/
abbrev Chan := Fin 384

/-- What carries a program-defect register: a receive framer or a MAP tributary (R71). -/
inductive DefectSite where
  | framer (f : Chan)
  | trib (r : Fin 12) (t : Fin 80)
deriving DecidableEq, Repr

/-- What pointer interpretation saw of one AU-4 in a frame (R66). -/
inductive PtrIn where
  | allOnes
  | normal (value : Nat)
  | newData (value : Nat)
  | invalid
deriving DecidableEq, Repr

/-- What the line brings at a place where a hunter looks for its pattern (R32, R40, R47, R49). -/
structure MatchIn where
  /-- The last 74 bits received, the earliest in the highest place (R30). -/
  window : BitVec 74
  /-- First bit of the hunt, where it is not the bit after the last one known (R36). -/
  start : Nat
  /-- The byte after the FAS (R40). -/
  mfas : Byte
  /-- The byte at the candidate's B1 position, and BIP-8 over the frame before as received (R40). -/
  b1 : Byte
  bip : Byte
  /-- The words at the place of XYZ (R49). -/
  xyz : List (BitVec 10)
  /-- Line number, and per data stream the words that the line CRC covers with the CRC carried (R40). -/
  lineNo : Nat
  crcs : List (List (BitVec 10) × BitVec 18)
deriving DecidableEq, Repr

/-- One delivered frame as the line brings it (R37, R43, R56, R62). -/
structure FrameIn where
  /-- The 74 bits that end at the expected position of the pattern (R37). -/
  window : BitVec 74
  /-- Bytes of the frame as the line carries them, scrambled, by row and column; rows and columns count from 0 as those
  of R54, and row 12 holds the path overhead found by pointer interpretation.  A place that is not listed carries the
  scrambler's own byte, which is 0x00 before scrambling. -/
  bytes : List (Nat × Nat × Byte)
  /-- Symbols of an OTUk frame that the line changed, by row and column, with the bits changed (R45). -/
  errs : List (Nat × Nat × Byte)
  /-- BIP-8 over the VC-4 of each AU-4 that ended in the frame (R62). -/
  vc : List (Fin 64 × Byte)
  /-- Pointer interpretation per AU-4 (R66). -/
  au : List (Fin 64 × PtrIn)
  /-- SDI: per data stream the words that the line CRC covers, with the CRC carried (R62). -/
  crcs : List (List (BitVec 10) × BitVec 18)
  /-- SDI: the XYZ words of the line's TRS, and its line number (R49 to R51). -/
  xyz : List (BitVec 10)
  lineNo : Nat
  /-- The CSF bit, when a multiframe completes in this frame (R66). -/
  csf : Option Bool
  /-- An SDI payload ID seen in this frame (R59). -/
  payloadId : Option (BitVec 32)
  /-- Arrival of the FAS of this OTU4 frame on the logical lanes 0 to 19, in picoseconds, where MAP measures them anew;
  empty where they stand as they were (R48). -/
  arr : List Nat
  /-- b × UI of R178, in picoseconds. -/
  bitPs : Nat
  /-- OMFI of an ODU4 carrier (R94). -/
  omfi : Option Nat
deriving DecidableEq, Repr

/-- A bank word that the Cellar read with bytes in error: its bank, its address there (32 plots of 1,024 words), and
the number of wrong bytes among its 72 (R13, R126). -/
structure BankWord where
  bank : Fin 64
  addr : Fin 32768
  wrong : Fin 73
deriving DecidableEq, Repr

/-- What one pass of a buffer of the Cellar did: bank words written, words read as they were written, and words read with
bytes in error (R13, R126). -/
structure CelIn where
  written : Nat
  clean : Nat
  bad : List BankWord
deriving DecidableEq, Repr

/-- What the transmit side takes at one transmit frame (R74, R124, R177). -/
structure TxIn where
  /-- Fill of the slip buffer at the edge, in 1/128 frame (R124). -/
  fill : Nat
  /-- An SDI transmit framer has located line 1, and a payload ID in the stream that it sends (R72, R87, R177). -/
  line1 : Bool
  payloadId : Option (BitVec 32)
  cel : CelIn
deriving DecidableEq, Repr

/-- What MAP takes from one tributary frame (R89, R91, R102, R103). -/
structure TribIn where
  /-- GMP: Cm and the sum of C1D that the frame carries, with their CRCs (R87). -/
  cm : Nat
  crc8 : Byte
  c1d : Nat
  crc5 : BitVec 5
  /-- AMP: the three copies of the justification control (R91). -/
  jcs : List (BitVec 2)
  /-- Bytes that the demapper drops or repeats (R90, R91). -/
  slipBytes : Nat
  /-- Overhead bytes of the lower-order ODU, by slot column 0 to 15 of rows 12 to 15 (R54); unlisted ones are 0x00. -/
  bytes : List (Slot × Byte)
  /-- Payload bytes by row and column, counted from 0 (columns 16 to 3,823); unlisted ones are 0x00 (R62). -/
  body : List (Nat × Nat × Byte)
  csf : Option Bool
  /-- MFI of the frame and the SQ received (R101, R103). -/
  mfi : Nat
  sq : Nat
  /-- An MFI2 period ends here (R103). -/
  mfi2End : Bool
  /-- Arrival time A of the frame, in units of 0.1 ns (R102). -/
  arrival : Nat
  cel : CelIn
deriving DecidableEq, Repr

/-- What the sending half of a tributary has to justify in one frame (R87, R91). -/
structure TribOut where
  /-- GMP: bits of the client that came in since the last frame. -/
  bits : Nat
  /-- AMP, BMP: bits that came in beyond what a frame without justification carries. -/
  drift : Int
deriving DecidableEq, Repr

/-- A frame of a tributary (R84): taken in by its receive direction, or made by its transmit direction. -/
inductive TribFrame where
  | take (x : TribIn)
  | make (x : TribOut)
deriving DecidableEq, Repr

/-- A received time-transfer message (R186), short times as 48-bit words. -/
structure TtcIn where
  version : BitVec 3
  echoValid : Bool
  user : BitVec 4
  seq : Byte
  dep : BitVec 48
  echoSeq : Byte
  arr : BitVec 48
  crc : Byte
deriving DecidableEq, Repr

/-- The header of a received twin-link frame (R357). -/
structure TwinHdr where
  type : BitVec 4
  rel : Bool
  seq : Half
  ack : Half
deriving DecidableEq, Repr

/-- One dial's part of a DIAL frame (R361). -/
structure DialPart where
  dial : Fin 16
  state : BitVec 3
  selRef : BitVec 7
  step : Bool
  dep : BitVec 48
  arr : BitVec 48
deriving DecidableEq, Repr

/-- One mirrored field group of a MIRROR frame (R364). -/
inductive MirrorPart where
  | merge (pair : Fin 96) (bits : BitVec 7)
  | dial (n : Fin 16) (state : BitVec 3) (selRef : BitVec 7)
  | app (w : Fin 64) (v : Word)
deriving DecidableEq, Repr

/-- A tag record of R326, less what the state holds. -/
structure TagIn where
  eng : Fin 32
  ctx : Fin 4
  pc : BitVec 15
  long : Bool
  aborted : Bool
  kind : Byte
  major : BitVec 4
  sub : BitVec 4
  toIssue : Nat
  toDone : Nat
  ready : BitVec 4
  stall : BitVec 3
  /-- The tag was deferred past an instruction still in flight (R325). -/
  deferred : Nat
deriving DecidableEq, Repr

/-- What a boot step finds that the state does not decide (R380, R337, R338). -/
structure BootIn where
  /-- Calibration failures, bit 2d + port (R380). -/
  calFail : BitVec 16
  /-- Cellar self-test: corrected words, uncorrectable words, first failing plot (R337). -/
  celCorr : Nat
  celUncorr : Nat
  celPlot : Nat
  /-- A flash read of slot A, of slot B fails (LAST_BOOT_FAIL [3], [7]). -/
  readFailA : Bool
  readFailB : Bool
  /-- Negotiated PCIe speed code and width (R283). -/
  speed : BitVec 3
  width : BitVec 3
deriving DecidableEq, Repr

/-- The commands: one constructor per row of the table of operations and events. -/
inductive Instr where
  -- host interface
  /-- With `upper`, a write of 8 bytes (R266). -/
  | registerWrite (o : Origin) (addr : BitVec 26) (val : Word) (upper : Option Word)
  | key (addr : BitVec 26) (val : Word)
  | complementPairWrite (addr : BitVec 26) (val : Word)
  | sequenceClear (o : Origin) (addr : BitVec 26) (val : Word)
  | writeOnce (addr : BitVec 26) (val : Word)
  | pairedCounterRead (addr : BitVec 26) (len : Nat)
  | accessShape (bar : Fin 3) (read : Bool) (off : BitVec 26) (len : Nat) (partialBe : Bool)
  | accessTimeout (o : Origin) (read : Bool) (addr : BitVec 26)
  | bar2Read (off : BitVec 20) (len : Nat)
  | bar4Read (off : BitVec 24) (len : Nat)
  | bar4Write (off : BitVec 24) (data : List Byte)
  | linkDown
  | linkL0Timeout
  | functionLevelReset
  | msixPendingSend (v : Fin 64)
  | reqData (mb : Fin 5) (w : Word)
  | mbTimeout (mb : Fin 5)
  | mbAbort (mb : Fin 5)
  | rspAck (mb : Fin 5)
  | forget (mb : Fin 5)
  | rspLoad (mb : Fin 5)
  | mbCommandPublish (mb : Fin 5)
  | mbReplyItem (mb : Fin 5)
  -- Curator
  | reportIntake
  | ringCopy
  | ringHeaderWrite
  | logRd (val : Word)
  | nmiAck
  | blockResetEnd (src : Fin 1024)
  | shadowEnd (src : Fin 1024)
  | chipResetExecute
  | aliveStart
  | aliveResume (val : Word)
  | aliveToggle
  | aliveKickLost
  | srcForce (src : Fin 1024) (val : Word)
  | srcReset (src : Fin 1024) (val : Word)
  -- clocks and timing of transmit lanes
  | clockFailure (c : Clock)
  | clockRestored (c : Clock)
  | clkStatusFall (bit : Fin 4)
  | overTemp (tj : Half)
  | pinLatencyMeasure (srd : Fin 768) (ps : BitVec 20)
  | loopTimingHoldExpiry (f : Chan)
  | loopTiming (f : Chan)
  -- frame finding
  | formatChange (f : Chan) (fmt : BitVec 4)
  | rehunt (f : Chan)
  | huntMatch (f : Chan) (phase : Fin 5) (pos : Nat) (x : MatchIn)
  | huntWindowEnd (f : Chan) (phase : Fin 5)
  | deliveredFrame (f : Chan) (x : FrameIn)
  | flywheelFrame (f : Chan)
  | lof (f : Chan) (phase : Fin 5)
  | lofClear (f : Chan) (phase : Fin 5)
  | lom (f : Chan)
  | loflane (f : Chan) (phase : Fin 5)
  | otlReassembly (f : Chan) (arr : List Nat)
  | eavSpacingTimeout (f : Chan) (pos : Nat)
  -- defects, overhead
  | los (f : Chan) (since : Nat)
  | losClear (f : Chan) (since : Nat)
  | pdef (site : DefectSite) (val : Byte)
  | degradeWindowEnd (site : DefectSite) (i : Fin 2) (sf : Bool)
  | transmitFrame (f : Chan) (x : TxIn)
  | oneSecondLatch
  -- Trellis, MAP, Cellar
  | trlCommit (val : Word)
  | commitEvaluation
  | tributaryFrame (r : Fin 12) (t : Fin 80) (x : TribFrame)
  | steeringUpdate (r : Fin 12) (t : Fin 80)
  | fingerprintLookup (i : Fin 96) (copyB : Bool) (arrival : Nat)
  | perFrameDecision (i : Fin 96) (arrival : Nat) (cel : CelIn)
  | noMatch (i : Fin 96)
  -- Sundial
  | referenceEdge (ref : Fin 84) (time low high : Nat)
  | loss (ref : Fin 84)
  | swUpdate (k : Fin 4)
  | swTimeout (k : Fin 4)
  | measurementWindowEnd
  | holdoffExpiry (n : Fin 16)
  | lock (n : Fin 16)
  | holdoverExpired (n : Fin 16)
  | restart (n : Fin 16)
  | phaseDetectorUpdate (n : Fin 16)
  | holdoverRecord (n : Fin 16)
  | capture (n : Fin 16)
  | timeCaptureAll
  | timeSet (n : Fin 16)
  | timeAdj (n : Fin 16)
  | dialSecondBoundary (n : Fin 16)
  | generatorEdge (g : Fin 96) (rising : Bool)
  | ttcMessage (ch : Fin 192) (x : TtcIn)
  | ttcLoss (ch : Fin 192)
  -- Sieve
  | swap (i : Fin 16)
  | swapDone (i : Fin 16)
  | edgeDelivery (i : Fin 16)
  | windowIn (i : Fin 16)
  | windowOut (i : Fin 16)
  | peakBlockEnd (i : Fin 16)
  | gateLapse (i : Fin 16)
  -- beds and the Sprig instruction set
  | handlerStart (bed : Fin 16)
  | undefinedEncoding (c : CtxId)
  | spMov (c : CtxId) (rd ra : BitVec 4)
  | spAdd (c : CtxId) (rd ra : BitVec 4)
  | spAdc (c : CtxId) (rd ra : BitVec 4)
  | spSub (c : CtxId) (rd ra : BitVec 4)
  | spSbc (c : CtxId) (rd ra : BitVec 4)
  | spCmp (c : CtxId) (rd ra : BitVec 4)
  | spAnd (c : CtxId) (rd ra : BitVec 4)
  | spOr (c : CtxId) (rd ra : BitVec 4)
  | spXor (c : CtxId) (rd ra : BitVec 4)
  | spNot (c : CtxId) (rd ra : BitVec 4)
  | spShl (c : CtxId) (rd ra : BitVec 4)
  | spShr (c : CtxId) (rd ra : BitVec 4)
  | spAsr (c : CtxId) (rd ra : BitVec 4)
  | spRol (c : CtxId) (rd ra : BitVec 4)
  | spNeg (c : CtxId) (rd ra : BitVec 4)
  | spTst (c : CtxId) (rd ra : BitVec 4)
  | spAddi (c : CtxId) (rd : BitVec 4) (imm : Byte)
  | spMovi (c : CtxId) (rd : BitVec 4) (imm : Byte)
  | spMovhi (c : CtxId) (rd : BitVec 4) (imm : Byte)
  | spCmpi (c : CtxId) (rd : BitVec 4) (imm : Byte)
  | spLdl (c : CtxId) (rd ra disp : BitVec 4)
  | spStl (c : CtxId) (rd ra disp : BitVec 4)
  | spLdc (c : CtxId) (rd ra : BitVec 4) (disp : BitVec 3)
  | spStc (c : CtxId) (rd ra : BitVec 4) (disp : BitVec 3)
  | spBset (c : CtxId) (rd b : BitVec 4)
  | spBclr (c : CtxId) (rd b : BitVec 4)
  | spBtst (c : CtxId) (rd b : BitVec 4)
  | spBsetr (c : CtxId) (rd rb : BitVec 4)
  | spBclrr (c : CtxId) (rd rb : BitVec 4)
  | spBtstr (c : CtxId) (rd rb : BitVec 4)
  | spExt (c : CtxId) (rd ra : BitVec 4)
  | spIns (c : CtxId) (rd ra : BitVec 4)
  | spCrc16b (c : CtxId) (rd ra : BitVec 4)
  | spCrc32b (c : CtxId) (rd ra : BitVec 4)
  | spCrc32cb (c : CtxId) (rd ra : BitVec 4)
  | spCrc64b (c : CtxId) (rd ra : BitVec 4)
  | spCrc16w (c : CtxId) (rd ra : BitVec 4)
  | spCrc32w (c : CtxId) (rd ra : BitVec 4)
  | spCrc32cw (c : CtxId) (rd ra : BitVec 4)
  | spCrc64w (c : CtxId) (rd ra : BitVec 4)
  | spBip8 (c : CtxId) (rd ra : BitVec 4)
  | spPar (c : CtxId) (rd ra : BitVec 4)
  | spSinc (c : CtxId) (rd : BitVec 4)
  | spSadd (c : CtxId) (rd ra : BitVec 4)
  | spPopc (c : CtxId) (rd ra : BitVec 4)
  | spQhead (c : CtxId) (rd f : BitVec 4)
  | spQword (c : CtxId) (rd f : BitVec 4)
  | spQmark (c : CtxId) (f : BitVec 4)
  | spQrew (c : CtxId) (f : BitVec 4)
  | spQrel (c : CtxId) (f : BitVec 4)
  | spQpushh (c : CtxId) (rd g : BitVec 4)
  | spQpushw (c : CtxId) (rd g : BitVec 4)
  | spQend (c : CtxId) (g : BitVec 4)
  | spBr (c : CtxId) (disp : Byte)
  | spBz (c : CtxId) (disp : Byte)
  | spBnz (c : CtxId) (disp : Byte)
  | spBcy (c : CtxId) (disp : Byte)
  | spBncy (c : CtxId) (disp : Byte)
  | spBugt (c : CtxId) (disp : Byte)
  | spBule (c : CtxId) (disp : Byte)
  | spBsge (c : CtxId) (disp : Byte)
  | spBslt (c : CtxId) (disp : Byte)
  | spBsgt (c : CtxId) (disp : Byte)
  | spBsle (c : CtxId) (disp : Byte)
  | spBneg (c : CtxId) (disp : Byte)
  | spBpos (c : CtxId) (disp : Byte)
  | spBov (c : CtxId) (disp : Byte)
  | spBnov (c : CtxId) (disp : Byte)
  | spJmp (c : CtxId) (disp : BitVec 11)
  | spCall (c : CtxId) (disp : BitVec 11)
  | spEnd (c : CtxId)
  | spRet (c : CtxId)
  | spFence (c : CtxId)
  | spYield (c : CtxId)
  | spWait (c : CtxId) (ra : BitVec 4)
  | spPost (c : CtxId) (ra rb : BitVec 4)
  | spCond (c : CtxId) (ra rb : BitVec 4)
  | spCondc (c : CtxId) (ra rb : BitVec 4)
  | spTsrd (c : CtxId) (rd n : BitVec 4)
  | spNop (c : CtxId)
  | spOhr (c : CtxId) (rd ra : BitVec 4)
  | spOhw (c : CtxId) (rd ra : BitVec 4)
  | spOhrx (c : CtxId) (rd ra : BitVec 4)
  | spOhwx (c : CtxId) (rd ra : BitVec 4)
  | spLi16 (c : CtxId) (rd : BitVec 4) (imm : Half)
  | spAddl (c : CtxId) (rd : BitVec 4) (imm : Half)
  | spAdcl (c : CtxId) (rd : BitVec 4) (imm : Half)
  | spSubl (c : CtxId) (rd : BitVec 4) (imm : Half)
  | spSbcl (c : CtxId) (rd : BitVec 4) (imm : Half)
  | spCmpl (c : CtxId) (rd : BitVec 4) (imm : Half)
  | spAndl (c : CtxId) (rd : BitVec 4) (imm : Half)
  | spOrl (c : CtxId) (rd : BitVec 4) (imm : Half)
  | spXorl (c : CtxId) (rd : BitVec 4) (imm : Half)
  | spNotl (c : CtxId) (rd : BitVec 4) (imm : Half)
  | spShll (c : CtxId) (rd : BitVec 4) (imm : Half)
  | spShrl (c : CtxId) (rd : BitVec 4) (imm : Half)
  | spAsrl (c : CtxId) (rd : BitVec 4) (imm : Half)
  | spRoll (c : CtxId) (rd : BitVec 4) (imm : Half)
  | spNegl (c : CtxId) (rd : BitVec 4) (imm : Half)
  | spTstl (c : CtxId) (rd : BitVec 4) (imm : Half)
  | spMul (c : CtxId) (rd ra rb : BitVec 4) (signed : Bool)
  | spLdb (c : CtxId) (rd ra page : BitVec 4) (disp : BitVec 12)
  | spStb (c : CtxId) (rd ra page : BitVec 4) (disp : BitVec 12)
  | spLdf (c : CtxId) (rd ra : BitVec 4) (disp : Half)
  | spStf (c : CtxId) (rd ra : BitVec 4) (disp : Half)
  | spJmpl (c : CtxId) (target : BitVec 15)
  | spCalll (c : CtxId) (target : BitVec 15)
  | spJmpr (c : CtxId) (ra : BitVec 4) (imm : Half)
  | spCallr (c : CtxId) (ra : BitVec 4) (imm : Half)
  | farAccessComplete (c : CtxId)
  | registerWindowComplete (c : CtxId)
  | overheadReadComplete (c : CtxId)
  | waitExpiry (c : CtxId)
  | watchdogExpiry (c : CtxId)
  | commitWriteBack (c : CtxId)
  | backingFail (c : CtxId)
  | timerFire (bed : Fin 16) (k : Fin 512)
  | timerEnqueue (bed : Fin 16) (k : Fin 512)
  | fail (bed : Fin 16) (val : Word)
  | bedFault (bed : Fin 16) (cause : Fin 4)
  | takeoverLoad (spare : Fin 16)
  | takeoverDone (spare : Fin 16)
  | revive (bed : Fin 16)
  | reviveSelftestEnd (bed : Fin 16) (pass : Bool)
  | queueHwmReset (bed : Fin 16) (val : Word)
  -- furrows
  | noticeAgeExpiry (F : Fin 64)
  | flush (F : Fin 64)
  | flushExecute (F : Fin 64) (midItem : Nat)
  | hwmClr (F : Fin 64)
  | rowRoute (r : Fin 12) (val : Word)
  | routeChange (r : Fin 12)
  | unownedFurrowMove (F : Fin 64)
  | ohSet (r : Fin 12)
  -- check units
  | checkJobGo (u : Fin 32)
  | checkJobDone (u : Fin 32)
  | checkJobAbort (u : Fin 32)
  -- Inventory
  | cntCfg (c : Fin 344) (val : Word)
  | clear (c : Fin 344)
  | load (c : Fin 344)
  | clearAll
  | snapGo
  | run (val : Word)
  | snapshotCopy (dom : Fin 5)
  | snapDone
  | counterWrap (c : Fin 344) (eng : Fin 32) (ctx : Fin 4) (pc : BitVec 15)
  | tagRecord (bed : Fin 16) (x : TagIn)
  | sampleRd (bed : Fin 16) (tag : Bool) (val : Word)
  -- Rootstock
  | status (src : Source)
  | beginImg (src : Source)
  | block (src : Source)
  | commit (src : Source)
  | imageCommitDone (fail : Option (BitVec 32)) (wrong : List (BitVec 22 × Byte))
  | activate (src : Source)
  | abort (src : Source)
  | claimExpired
  | confirm (val : Word)
  | confirmWindowExpiry
  | rollbackNow
  | settingsCommit
  | settingsStatus (o : Origin) (val : Word)
  | activationImageCopied
  | migrationFreeze
  | migrationContextCopy
  | fallbackSpareTimeout
  -- power, reset, boot
  | powerOn
  | railOutOfTolerance
  | pinReset
  | bootStart (gpio : BitVec 3)
  | bootStage (x : BootIn)
  | softReset
  | boardRole (val : Word)
  -- twin link
  | laneLockChange (lane : Fin 4) (locked : Bool) (hiBer : Bool)
  /-- By lane: the lane number in its alignment block, and the block's place in the blocks received (R356). -/
  | alignmentBlock (lanes : List (Byte × Nat))
  | heartbeatTimeout
  | heartbeat (h : TwinHdr) (role : BitVec 2) (session : Half) (version : Word) (keeper : Bool)
      (alive : Bool)
  | nak (h : TwinHdr) (x : Half)
  | dial (h : TwinHdr) (echo : Half) (parts : List DialPart)
  | mirror (h : TwinHdr) (parts : List MirrorPart) (whole : Bool)
  | imageCmd (h : TwinHdr) (words : List Word)
  | imageRsp (h : TwinHdr) (words : List Word)
  /-- Header, LENGTH, body words, trailer. -/
  | crcDrop (h : TwinHdr) (len : Half) (body : List Word) (trailer : Word)
  | heartbeatSend
  | dialSend
  | mirrorSend
  | resendTimeout
  -- QDR memory
  | qdrRetrain (dev : Fin 8) (portB : Bool)
  | scrubRead (errBytes : List (Fin 72))
  | repair
  | pinErrClr (dev : Fin 8)
  -- SerDes, I2C, link, Sieve samples, GPIO
  | cdrLock (f : Chan) (ps : BitVec 20) (ctle : Byte)
  | prbsClr (srd : Fin 768)
  | i2cPointerWrite (bytes : List Byte)
  | i2cRead
  | returnToL0 (speed : BitVec 3) (width : BitVec 3)
  | prbsLock (srd : Fin 768) (words : List (BitVec 64))
  | queueUnderrun (f : Chan) (cycles : Nat)
  | overrun (f : Chan)
  | outputSample (i : Fin 16) (adc : List (BitVec 12))
  | gpioLevelChange (pin : Fin 16) (level : Bool)
deriving DecidableEq, Repr

end Sys2Proof
end

