-- ==== Sys2Proof/Decode.lean ====
section
/-! DEFINITION. The command that a word spells by the bits of the table of operations and events.
The table gives no row any bits: its rows are operations of a block, not encodings.  (The encoding
of the Sprig instructions, which a bed fetches from its program memory, is in
Machine/SprigCode.lean.) -/

namespace Sys2Proof

/-- No row of the table has bits, so no word spells a command. -/
def decodeTableWord (_nbits _w : Nat) : Option Instr := none

end Sys2Proof
end

