-- ==== Sys2Proof/Config.lean ====
section
/-! DEFINITION. What one part fixes and the manual does not give: the fuses, and the values that the
manual leaves open.  Each is a constant without a body,
so nothing can be proved of its value. -/

namespace Sys2Proof.Config

/-- Contents of the fuse that backs the register at this BAR0 address (R155, R261, R335, R421). -/
opaque fuse : Nat → Word

/-- KEY_HASH[k] of the OTP: SHA-384 of the k-th permitted public key (R334). -/
opaque keyHash : Nat → BitVec 384

/-- The fuse REVOKE[k] is blown (R334). -/
opaque keyRevoked : Nat → Bool

/-- The n-th value drawn where the manual leaves a value undefined and the machine goes on. -/
opaque freeValue : Nat → Nat

/-- Local scratch at handler start, by epoch and word (R197). -/
opaque freeScratch : Nat → Nat → Half

/-- Latency of the FEC decoder, by format, in ps: fixed, and not given (R45, R178). -/
opaque fecPs : Nat → Nat

/-- Transmit pipeline between the insertion of a frame edge and its lane word, by format, in ps: fixed, and not given
(R178). -/
opaque txPipePs : Nat → Nat

/-- Gains of the loop filter, proportional and integral, in 2^-32 of 1/256 ppb for each 2^-16 ns of phase
error, by effective bandwidth in mHz, DAMPING and update rate in mHz (R169, which gives no numbers). -/
opaque loopKp : Nat → Bool → Nat → Int
opaque loopKi : Nat → Bool → Nat → Int

/-- The low 12 bits of IDCODE: the manual gives the others (R411). -/
opaque idcodeLow : BitVec 12

/-- Level at a GPIO ball that nothing drives, by pin and instant (R409). -/
opaque floatingPin : Nat → Nat → Bool

end Sys2Proof.Config
end

