-- ==== Sys2Proof/Machine/RegMap.lean ====
section
/-! DEFINITION. The register map: the block regions of R417, the block header of R418, and every
register field of every block with its type and reset value, as the register tables of the chapters
give them (R52, R80, R81, R99, R107, R127, R128, R150, R166, R180, R191 to R194, R221, R260, R283,
R284, R303, R312, R329, R352, R353, R369, R370, R385, R394, R404, R414, R421). -/

namespace Sys2Proof.Machine

/-- Field types (R6, R269).  Beside those of the manual: `fuse`, read-only with the fuse's value;
`staged`, RW held back to the next accepted commit (R99); `img`, read-only to the host and written
by the standard image's programs; `sw`, RW of Sundial that is no policy (R135, R175); `level`, RW
clamped to the furrow's capacity (R260); `otl` and `sdi`, present on LRX and on SRX only; `srdTx`
and `srdRx`, present on transmit and on receive lanes only. -/
inductive FType where
  | ro | rw | sq | k | kc | wo | wt | key | fuse | sw | img | staged | otl | sdi | level
  | srdTx | srdRx
deriving DecidableEq, Repr

/-- One field of a register table: name, first offset, repetitions (count, stride), bits, type,
reset value, and the range that a written value is brought into. -/
structure FieldRow where
  name : String
  off : Nat
  reps : List (Nat × Nat)
  hi : Nat
  lo : Nat
  ty : FType
  reset : Nat
  clamp : Option (Nat × Nat)
deriving DecidableEq, Repr

/-- The blocks of R417. -/
inductive Blk where
  | top | hif | cur | inv | rts | chk | sdl | sve | lrx | ltx | srx | stx | map | trl | cel | fur
  | bed | srd | qdm | twn
deriving DecidableEq, Repr

def hdrRows : List FieldRow := [
  ⟨"BLOCK_ID.INSTANCE", 0x0, [], 15, 0, .ro, 0x0, none⟩,
  ⟨"BLOCK_ID.CODE", 0x0, [], 31, 16, .ro, 0x0, none⟩,
  ⟨"BLOCK_VER.STEP", 0x4, [], 7, 0, .ro, 0xb0, none⟩,
  ⟨"BLOCK_VER.REVISION", 0x4, [], 15, 8, .ro, 0x1, none⟩,
  ⟨"SUMMARY.SEQ", 0x8, [], 31, 24, .sq, 0x0, none⟩,
  ⟨"SUMMARY.EVENTS", 0x8, [], 23, 0, .sq, 0x0, none⟩,
  ⟨"KEY.ARMED", 0xfc, [], 0, 0, .key, 0x0, none⟩]

def topRows : List FieldRow := [
  ⟨"PART_ID.ID", 0x100, [], 31, 0, .ro, 0x819200b0, none⟩,
  ⟨"GRADE.CODE", 0x104, [], 0, 0, .fuse, 0x0, none⟩,
  ⟨"CLK_STATUS.CORE_PLL_LOCK", 0x108, [], 0, 0, .ro, 0x0, none⟩,
  ⟨"CLK_STATUS.MEM_PLL_LOCK", 0x108, [], 1, 1, .ro, 0x0, none⟩,
  ⟨"CLK_STATUS.SUNDIAL_PLL_LOCK", 0x108, [], 2, 2, .ro, 0x0, none⟩,
  ⟨"CLK_STATUS.OSC_ACTIVE", 0x108, [], 3, 3, .ro, 0x0, none⟩,
  ⟨"ROLLBACK_NOW.GO", 0x300, [], 0, 0, .kc, 0x0, none⟩,
  ⟨"ROLLBACK_NOW_COMPL", 0x304, [], 31, 0, .kc, 0xffffffff, none⟩,
  ⟨"SOFT_RESET.GO", 0x310, [], 0, 0, .kc, 0x0, none⟩,
  ⟨"SOFT_RESET_COMPL", 0x314, [], 31, 0, .kc, 0xffffffff, none⟩,
  ⟨"BOARD_ROLE.ROLE", 0x320, [], 1, 0, .wo, 0x0, none⟩,
  ⟨"RESET_CAUSE.KIND", 0x330, [], 1, 0, .ro, 0x0, none⟩,
  ⟨"RESET_CAUSE.SOURCE", 0x330, [], 25, 16, .ro, 0x0, none⟩,
  ⟨"OSC_SEL.CODE", 0x334, [], 2, 0, .ro, 0x0, none⟩,
  ⟨"OSC_SEL.INVALID", 0x334, [], 3, 3, .ro, 0x0, none⟩,
  ⟨"TEMP.TJ", 0x340, [], 15, 0, .ro, 0x0, none⟩,
  ⟨"TEMP.OVER_TEMP", 0x340, [], 16, 16, .ro, 0x0, none⟩,
  ⟨"TEMP_LIMIT", 0x344, [], 15, 0, .rw, 0x348, none⟩,
  ⟨"GPIO_OUT", 0x350, [], 15, 0, .rw, 0x0, none⟩,
  ⟨"GPIO_OE", 0x354, [], 15, 0, .rw, 0x0, none⟩,
  ⟨"GPIO_IN", 0x358, [], 15, 0, .ro, 0x0, none⟩,
  ⟨"INV_USER_EN.EN", 0x360, [], 0, 0, .kc, 0x0, none⟩,
  ⟨"INV_USER_EN_COMPL", 0x364, [], 31, 0, .kc, 0xffffffff, none⟩]

def hifRows0 : List FieldRow := [
  ⟨"HIF_STATUS.LINK_UP", 0x100, [], 0, 0, .ro, 0x0, none⟩,
  ⟨"HIF_STATUS.LINK_SPEED", 0x100, [], 3, 1, .ro, 0x0, none⟩,
  ⟨"HIF_STATUS.LINK_WIDTH", 0x100, [], 6, 4, .ro, 0x0, none⟩,
  ⟨"HIF_EVENTS.SEQ", 0x104, [], 31, 24, .sq, 0x0, none⟩,
  ⟨"HIF_EVENTS.EVENTS", 0x104, [], 6, 0, .sq, 0x0, none⟩,
  ⟨"SEQ_MISS", 0x108, [], 31, 0, .ro, 0x0, none⟩,
  ⟨"FAULT_COUNTS", 0x10c, [(5, 0x4)], 31, 0, .ro, 0x0, none⟩,
  ⟨"LAST_FAULT", 0x120, [], 31, 0, .ro, 0x0, none⟩,
  ⟨"QDR_PAGE.PAGE", 0x130, [], 2, 0, .rw, 0x0, none⟩,
  ⟨"PCI_ID.VENDOR_ID", 0x140, [], 15, 0, .fuse, 0x0, none⟩,
  ⟨"PCI_ID.DEVICE_ID", 0x140, [], 31, 16, .ro, 0x8192, none⟩,
  ⟨"PCI_SUBSYS", 0x144, [], 31, 0, .fuse, 0x0, none⟩,
  ⟨"MB_ROUTE.BED", 0x204, [(3, 0x4)], 3, 0, .k, 0x0, none⟩,
  ⟨"REQ_DATA.WORD", 0x1000, [(4, 0x1000)], 31, 0, .wt, 0x0, none⟩,
  ⟨"MB_CTRL.ABORT_RSP_ACK_FORGET", 0x1004, [(4, 0x1000)], 2, 0, .wt, 0x0, none⟩,
  ⟨"MB_STATUS.REQ_READY", 0x1008, [(4, 0x1000)], 0, 0, .ro, 0x1, none⟩,
  ⟨"MB_STATUS.RSP_READY", 0x1008, [(4, 0x1000)], 1, 1, .ro, 0x0, none⟩,
  ⟨"MB_STATUS.WORDS_RECEIVED", 0x1008, [(4, 0x1000)], 16, 8, .ro, 0x0, none⟩,
  ⟨"MB_STATUS.IN_FLIGHT", 0x1008, [(4, 0x1000)], 23, 17, .ro, 0x0, none⟩,
  ⟨"MB_EVENTS.SEQ", 0x100c, [(4, 0x1000)], 31, 24, .sq, 0x0, none⟩,
  ⟨"MB_EVENTS.EVENTS", 0x100c, [(4, 0x1000)], 3, 0, .sq, 0x0, none⟩,
  ⟨"MB_COUNTS", 0x1010, [(4, 0x1000), (5, 0x4)], 31, 0, .ro, 0x0, none⟩,
  ⟨"RSP", 0x1400, [(4, 0x1000), (257, 0x4)], 31, 0, .ro, 0x0, none⟩,
  ⟨"MSIX_ADDR_LO", 0x8000, [(64, 0x10)], 31, 2, .rw, 0x0, none⟩]

def hifRows1 : List FieldRow := [
  ⟨"MSIX_ADDR_HI", 0x8004, [(64, 0x10)], 31, 0, .rw, 0x0, none⟩,
  ⟨"MSIX_DATA", 0x8008, [(64, 0x10)], 31, 0, .rw, 0x0, none⟩,
  ⟨"MSIX_CTRL.MASK", 0x800c, [(64, 0x10)], 0, 0, .rw, 0x1, none⟩,
  ⟨"MSIX_PBA", 0x9000, [(2, 0x4)], 31, 0, .ro, 0x0, none⟩]

def hifRows : List FieldRow := hifRows0 ++ hifRows1

def curRows0 : List FieldRow := [
  ⟨"CUR_STATUS.ALIVE_RUNNING", 0x100, [], 0, 0, .ro, 0x0, none⟩,
  ⟨"CUR_STATUS.ALIVE_LEVEL", 0x100, [], 1, 1, .ro, 0x0, none⟩,
  ⟨"CUR_STATUS.NMI_ASSERTED", 0x100, [], 2, 2, .ro, 0x0, none⟩,
  ⟨"CUR_STATUS.INT_ASSERTED", 0x100, [], 3, 3, .ro, 0x0, none⟩,
  ⟨"CUR_STATUS.RING_READY", 0x100, [], 4, 4, .ro, 0x0, none⟩,
  ⟨"CUR_EVENTS.SEQ", 0x104, [], 31, 24, .sq, 0x0, none⟩,
  ⟨"CUR_EVENTS.EVENTS", 0x104, [], 4, 0, .sq, 0x0, none⟩,
  ⟨"LOG_WR", 0x108, [], 31, 0, .ro, 0x0, none⟩,
  ⟨"LOG_RD", 0x10c, [], 31, 0, .rw, 0x0, none⟩,
  ⟨"LOG_QBASE", 0x110, [], 26, 0, .ro, 0x0, none⟩,
  ⟨"SHADOW_SETTLE", 0x114, [], 9, 0, .rw, 0xa, some (0, 1000)⟩,
  ⟨"ALIVE_START.START", 0x118, [], 0, 0, .wt, 0x0, none⟩,
  ⟨"ALIVE_KICK_MS", 0x11c, [], 15, 0, .rw, 0x0, none⟩,
  ⟨"ALIVE_RESUME.RESUME", 0x120, [], 0, 0, .k, 0x0, none⟩,
  ⟨"NMI_ACK.ACK", 0x124, [], 0, 0, .wt, 0x0, none⟩,
  ⟨"FORCE_DETAIL", 0x128, [], 31, 0, .rw, 0x0, none⟩,
  ⟨"CUR_COUNTS", 0x130, [(6, 0x4)], 31, 0, .ro, 0x0, none⟩,
  ⟨"REACT_KINDS", 0x200, [(8, 0x4)], 31, 0, .rw, 0xffffffff, none⟩,
  ⟨"CONSEQ_KINDS0", 0x220, [], 31, 0, .rw, 0xe, none⟩,
  ⟨"CONSEQ_KINDS12", 0x224, [(2, 0x4)], 31, 0, .rw, 0x0, none⟩,
  ⟨"CONSEQ_KINDS3", 0x22c, [], 31, 0, .rw, 0x20000, none⟩,
  ⟨"CONSEQ_KINDS4", 0x230, [], 31, 0, .rw, 0x2, none⟩,
  ⟨"CONSEQ_KINDS567", 0x234, [(3, 0x4)], 31, 0, .rw, 0x0, none⟩,
  ⟨"SRC_REACT.INT_NMI_ALIVE_CLEAR", 0x8000, [(1024, 0x20)], 3, 0, .rw, 0x1, none⟩]

def curRows1 : List FieldRow := [
  ⟨"SRC_REACT.VECTOR", 0x8000, [(1024, 0x20)], 13, 8, .rw, 0x0, none⟩,
  ⟨"SRC_RESET.BLOCK_RESET", 0x8004, [(1024, 0x20)], 0, 0, .k, 0x0, none⟩,
  ⟨"SRC_RESET.CHIP_RESET", 0x8004, [(1024, 0x20)], 1, 1, .k, 0x0, none⟩,
  ⟨"SRC_RESET.REPEAT_REACT", 0x8004, [(1024, 0x20)], 10, 8, .k, 0x3, none⟩,
  ⟨"SRC_FORCE.KIND", 0x8008, [(1024, 0x20)], 7, 0, .rw, 0x0, none⟩,
  ⟨"SRC_FORCE.CLEAR", 0x8008, [(1024, 0x20)], 8, 8, .rw, 0x0, none⟩,
  ⟨"SRC_FORCE.GO", 0x8008, [(1024, 0x20)], 31, 31, .wt, 0x0, none⟩,
  ⟨"SRC_STATUS.SEQUENCE", 0x800c, [(1024, 0x20)], 7, 0, .ro, 0x0, none⟩,
  ⟨"SRC_STATUS.LAST_KIND", 0x800c, [(1024, 0x20)], 15, 8, .ro, 0x0, none⟩,
  ⟨"SRC_STATUS.SHADOWED", 0x800c, [(1024, 0x20)], 16, 16, .ro, 0x0, none⟩,
  ⟨"SRC_STATUS.ESCALATED", 0x800c, [(1024, 0x20)], 17, 17, .ro, 0x0, none⟩,
  ⟨"SRC_STATUS.RESETS_IN_WINDOW", 0x800c, [(1024, 0x20)], 19, 18, .ro, 0x0, none⟩,
  ⟨"SRC_COUNT_DROP", 0x8010, [(1024, 0x20), (2, 0x4)], 31, 0, .ro, 0x0, none⟩,
  ⟨"LOG", 0x4000, [(1024, 0x10), (4, 0x4)], 31, 0, .ro, 0x0, none⟩]

def curRows : List FieldRow := curRows0 ++ curRows1

def invRows0 : List FieldRow := [
  ⟨"INV_CTRL.SNAP_GO", 0x100, [], 0, 0, .wt, 0x0, none⟩,
  ⟨"INV_CTRL.CLEAR_ALL", 0x100, [], 1, 1, .wt, 0x0, none⟩,
  ⟨"INV_CTRL.RUN", 0x100, [], 4, 4, .rw, 0x1, none⟩,
  ⟨"INV_CTRL.SNAP_AUTO", 0x100, [], 8, 8, .rw, 0x0, none⟩,
  ⟨"INV_STATUS.SNAP_PENDING", 0x104, [], 0, 0, .ro, 0x0, none⟩,
  ⟨"INV_STATUS.RUN_PENDING", 0x104, [], 1, 1, .ro, 0x0, none⟩,
  ⟨"INV_STATUS.SNAP_STALE", 0x104, [], 12, 8, .ro, 0x0, none⟩,
  ⟨"INV_EVENTS.SEQ", 0x108, [], 31, 24, .sq, 0x0, none⟩,
  ⟨"INV_EVENTS.EVENTS", 0x108, [], 4, 0, .sq, 0x0, none⟩,
  ⟨"SNAP_SEQ_TS", 0x10c, [(4, 0x4)], 31, 0, .ro, 0x0, none⟩,
  ⟨"CNT_CFG.EVENT_MODE_EN_OVF_INT_SKID", 0x2000, [(344, 0x20)], 11, 0, .rw, 0x0, none⟩,
  ⟨"CNT_CFG.OVF", 0x2000, [(344, 0x20)], 12, 12, .ro, 0x0, none⟩,
  ⟨"CNT_CFG.SELECT", 0x2000, [(344, 0x20)], 23, 16, .rw, 0x0, none⟩,
  ⟨"THRESH", 0x2004, [(344, 0x20)], 15, 0, .rw, 0x0, none⟩,
  ⟨"COUNT_LO", 0x2008, [(344, 0x20)], 31, 0, .ro, 0x0, none⟩,
  ⟨"COUNT_HI", 0x200c, [(344, 0x20)], 15, 0, .ro, 0x0, none⟩,
  ⟨"SHADOW_LO", 0x2010, [(344, 0x20)], 31, 0, .ro, 0x0, none⟩,
  ⟨"SHADOW_HI", 0x2014, [(344, 0x20)], 15, 0, .ro, 0x0, none⟩,
  ⟨"PRELOAD_LO", 0x2018, [(344, 0x20)], 31, 0, .rw, 0x0, none⟩,
  ⟨"PRELOAD_HI", 0x201c, [(344, 0x20)], 15, 0, .rw, 0x0, none⟩,
  ⟨"TAG_CTRL.EN", 0x6000, [(16, 0x800)], 0, 0, .rw, 0x0, none⟩,
  ⟨"TAG_CTRL.TAG_K", 0x6000, [(16, 0x800)], 12, 8, .rw, 0x0, some (0, 20)⟩,
  ⟨"TAG_CTRL.TAG_ENGINE", 0x6000, [(16, 0x800)], 21, 16, .rw, 0x20, none⟩,
  ⟨"SKID_WR", 0x6004, [(16, 0x800)], 31, 0, .ro, 0x0, none⟩]

def invRows1 : List FieldRow := [
  ⟨"SKID_RD", 0x6008, [(16, 0x800)], 31, 0, .rw, 0x0, none⟩,
  ⟨"TAG_WR", 0x600c, [(16, 0x800)], 31, 0, .ro, 0x0, none⟩,
  ⟨"TAG_RD", 0x6010, [(16, 0x800)], 31, 0, .rw, 0x0, none⟩,
  ⟨"LOST_DEFER", 0x6014, [(16, 0x800), (3, 0x4)], 31, 0, .ro, 0x0, none⟩,
  ⟨"SKID", 0x6100, [(16, 0x800), (64, 0x8), (2, 0x4)], 31, 0, .ro, 0x0, none⟩,
  ⟨"TAG", 0x6400, [(16, 0x800), (64, 0x10), (4, 0x4)], 31, 0, .ro, 0x0, none⟩]

def invRows : List FieldRow := invRows0 ++ invRows1

def rtsRows0 : List FieldRow := [
  ⟨"RTS_STATE.BOOT_STAGE", 0x100, [], 3, 0, .ro, 0x0, none⟩,
  ⟨"RTS_STATE.RUNNING_SLOT", 0x100, [], 4, 4, .ro, 0x0, none⟩,
  ⟨"RTS_STATE.TRIAL", 0x100, [], 5, 5, .ro, 0x0, none⟩,
  ⟨"RTS_STATE.RECOVERY", 0x100, [], 6, 6, .ro, 0x0, none⟩,
  ⟨"RTS_STATE.ACT_STATE", 0x100, [], 10, 8, .ro, 0x0, none⟩,
  ⟨"RTS_STATE.ACT_BED", 0x100, [], 15, 12, .ro, 0x0, none⟩,
  ⟨"RTS_STATE.CLAIM", 0x100, [], 17, 16, .ro, 0x0, none⟩,
  ⟨"RTS_EVENTS.SEQ", 0x104, [], 31, 24, .sq, 0x0, none⟩,
  ⟨"RTS_EVENTS.EVENTS", 0x104, [], 5, 0, .sq, 0x0, none⟩,
  ⟨"RUNNING_VERSION", 0x108, [], 31, 0, .ro, 0x0, none⟩,
  ⟨"STAGED_VERSION", 0x10c, [], 31, 0, .ro, 0x0, none⟩,
  ⟨"MIN_LEVEL", 0x110, [], 6, 0, .fuse, 0x0, none⟩,
  ⟨"CONFIRM.VERSION", 0x114, [], 31, 0, .wt, 0x0, none⟩,
  ⟨"CONFIRM_WINDOW_S", 0x118, [], 16, 0, .k, 0x258, some (60, 86400)⟩,
  ⟨"WINDOW_REMAIN_S", 0x11c, [], 16, 0, .ro, 0x0, none⟩,
  ⟨"SETTINGS_STATUS.STATUS", 0x120, [], 1, 0, .rw, 0x0, none⟩,
  ⟨"SETTINGS_COMMIT.GO", 0x124, [], 0, 0, .wt, 0x0, none⟩,
  ⟨"SELFTEST.DONE", 0x128, [], 0, 0, .ro, 0x0, none⟩,
  ⟨"SELFTEST.CEL_FAIL", 0x128, [], 1, 1, .ro, 0x0, none⟩,
  ⟨"SELFTEST.UNCORR", 0x128, [], 15, 8, .ro, 0x0, none⟩,
  ⟨"SELFTEST.CORR", 0x128, [], 31, 16, .ro, 0x0, none⟩,
  ⟨"LAST_BOOT_FAIL", 0x12c, [], 7, 0, .ro, 0x0, none⟩,
  ⟨"FALLBACK_COUNT", 0x130, [], 31, 0, .ro, 0x0, none⟩,
  ⟨"LAST_FALLBACK_CAUSE", 0x134, [], 2, 0, .ro, 0x0, none⟩]

def rtsRows1 : List FieldRow := [
  ⟨"SLOT_STATE", 0x140, [(2, 0x4)], 2, 0, .ro, 0x0, none⟩,
  ⟨"SLOT_VERSION", 0x148, [(2, 0x4)], 31, 0, .ro, 0x0, none⟩]

def rtsRows : List FieldRow := rtsRows0 ++ rtsRows1

def chkRows : List FieldRow := [
  ⟨"CFG.POLY_FOLD_COMPARE", 0x1000, [(32, 0x100)], 3, 0, .rw, 0x2, none⟩,
  ⟨"FOLD", 0x1004, [(32, 0x100)], 31, 0, .rw, 0x0, none⟩,
  ⟨"START", 0x1008, [(32, 0x100)], 26, 0, .rw, 0x0, none⟩,
  ⟨"LEN", 0x100c, [(32, 0x100)], 27, 0, .rw, 0x0, none⟩,
  ⟨"EXPECT", 0x1010, [(32, 0x100), (2, 0x4)], 31, 0, .rw, 0x0, none⟩,
  ⟨"JOB_CTRL.GO_ABORT", 0x1018, [(32, 0x100)], 1, 0, .wt, 0x0, none⟩,
  ⟨"JOB_STATUS.BUSY", 0x101c, [(32, 0x100)], 0, 0, .ro, 0x0, none⟩,
  ⟨"JOB_STATUS.STATUS", 0x101c, [(32, 0x100)], 3, 1, .ro, 0x0, none⟩,
  ⟨"RESULT", 0x1020, [(32, 0x100), (2, 0x4)], 31, 0, .ro, 0x0, none⟩,
  ⟨"CHK_COUNTS", 0x1028, [(32, 0x100), (2, 0x4)], 31, 0, .ro, 0x0, none⟩,
  ⟨"CHK_EVENTS.SEQ", 0x1030, [(32, 0x100)], 31, 24, .sq, 0x0, none⟩,
  ⟨"CHK_EVENTS.EVENTS", 0x1030, [(32, 0x100)], 3, 0, .sq, 0x0, none⟩]

def sdlRows0 : List FieldRow := [
  ⟨"SDL_OSC_MODEL", 0x100, [], 31, 0, .rw, 0x0, none⟩,
  ⟨"SDL_WINDOW.WINDOW_SEQ", 0x104, [], 31, 0, .ro, 0x0, none⟩,
  ⟨"SDL_STATUS.WINDOW_REMAIN_MS", 0x108, [], 9, 0, .ro, 0x0, none⟩,
  ⟨"SDL_STATUS.POLICY_PENDING", 0x108, [], 16, 16, .ro, 0x0, none⟩,
  ⟨"REF_D_LVDS.PAIR", 0x10c, [], 23, 0, .rw, 0x0, none⟩,
  ⟨"SDL_EVENTS.SEQ", 0x110, [], 31, 24, .sq, 0x0, none⟩,
  ⟨"SDL_EVENTS.EVENTS", 0x110, [], 1, 0, .sq, 0x0, none⟩,
  ⟨"SDL_TIME_CAPTURE.ALL", 0x120, [], 0, 0, .wt, 0x0, none⟩,
  ⟨"SDL_TTC.TTC_BED", 0x124, [], 3, 0, .rw, 0xe, none⟩,
  ⟨"REF_CFG.EN", 0x10000, [(84, 0x80)], 0, 0, .rw, 0x0, none⟩,
  ⟨"REF_CFG.KIND", 0x10000, [(84, 0x80)], 7, 4, .rw, 0x0, none⟩,
  ⟨"REF_CFG.GLITCH_NS", 0x10000, [(84, 0x80)], 15, 8, .rw, 0x0, none⟩,
  ⟨"REF_CFG.QUAL_TIME", 0x10000, [(84, 0x80)], 23, 16, .rw, 0x3, none⟩,
  ⟨"REF_CFG.DRIFT_WINDOWS", 0x10000, [(84, 0x80)], 31, 24, .rw, 0x8, none⟩,
  ⟨"NOM_NUM", 0x10004, [(84, 0x80)], 31, 0, .rw, 0x0, none⟩,
  ⟨"NOM_DEN", 0x10008, [(84, 0x80)], 15, 0, .rw, 0x1, none⟩,
  ⟨"REF_TOL.TOL_PPB", 0x1000c, [(84, 0x80)], 19, 0, .rw, 0x11f8, none⟩,
  ⟨"REF_LOSS.LOSS_TIME_US", 0x10010, [(84, 0x80)], 23, 0, .rw, 0x0, none⟩,
  ⟨"REF_BRIEF.BRIEF_MS", 0x10014, [(84, 0x80)], 15, 0, .rw, 0x3e8, none⟩,
  ⟨"REF_STATUS.QSTATE", 0x10018, [(84, 0x80)], 2, 0, .ro, 0x0, none⟩,
  ⟨"REF_STATUS.DRIFT_WARNING", 0x10018, [(84, 0x80)], 3, 3, .ro, 0x0, none⟩,
  ⟨"REF_STATUS.ACTIVE", 0x10018, [(84, 0x80)], 4, 4, .ro, 0x0, none⟩,
  ⟨"REF_STATUS.MEASURED", 0x10018, [(84, 0x80)], 15, 8, .ro, 0x0, none⟩,
  ⟨"REF_STATUS.QUAL_RUN", 0x10018, [(84, 0x80)], 23, 16, .ro, 0x0, none⟩]

def sdlRows1 : List FieldRow := [
  ⟨"REF_STATUS.OUT_RUN", 0x10018, [(84, 0x80)], 31, 24, .ro, 0x0, none⟩,
  ⟨"FREQ_1S_10S_SLOPE_BAD_DISQUAL", 0x1001c, [(84, 0x80), (5, 0x4)], 31, 0, .ro, 0x0, none⟩,
  ⟨"REF_EVENTS.SEQ", 0x10030, [(84, 0x80)], 31, 24, .sq, 0x0, none⟩,
  ⟨"REF_EVENTS.EVENTS", 0x10030, [(84, 0x80)], 9, 0, .sq, 0x0, none⟩,
  ⟨"REC_SEL.LANE", 0x12040, [(16, 0x80)], 7, 0, .rw, 0x0, none⟩,
  ⟨"REC_SEL.SIDE", 0x12040, [(16, 0x80)], 8, 8, .rw, 0x0, none⟩,
  ⟨"REC_SEL.FAMILY_1001", 0x12040, [(16, 0x80)], 9, 9, .rw, 0x0, none⟩,
  ⟨"REC_SEL.QUAL_ON_LOF", 0x12040, [(16, 0x80)], 10, 10, .rw, 0x1, none⟩,
  ⟨"SW_FREQ", 0x12840, [(4, 0x80)], 31, 0, .sw, 0x0, none⟩,
  ⟨"SW_PHASE_ADJ", 0x12844, [(4, 0x80)], 31, 0, .sw, 0x0, none⟩,
  ⟨"SW_UPDATE.GO", 0x12848, [(4, 0x80)], 0, 0, .wt, 0x0, none⟩,
  ⟨"SW_TIMEOUT_MS", 0x1284c, [(4, 0x80)], 15, 0, .rw, 0x7d0, none⟩,
  ⟨"SW_PHASE_LIMIT", 0x12850, [(4, 0x80)], 15, 0, .rw, 0x3e8, none⟩,
  ⟨"SW_SEQ_REFUSED", 0x12854, [(4, 0x80), (2, 0x4)], 31, 0, .ro, 0x0, none⟩,
  ⟨"REF_PHASE", 0x10060, [(84, 0x80)], 31, 0, .rw, 0x0, none⟩,
  ⟨"DIAL_CTRL.REVERTIVE", 0x20000, [(16, 0x200)], 0, 0, .rw, 0x0, none⟩,
  ⟨"DIAL_CTRL.FORCE_HOLDOVER", 0x20000, [(16, 0x200)], 4, 4, .rw, 0x0, none⟩,
  ⟨"DIAL_CTRL.FORCE_ENTRY", 0x20000, [(16, 0x200)], 12, 8, .rw, 0x0, none⟩,
  ⟨"DIAL_CTRL.RESTART", 0x20000, [(16, 0x200)], 16, 16, .wt, 0x0, none⟩,
  ⟨"DIAL_TIMERS.HOLDOFF_MS", 0x20004, [(16, 0x200)], 15, 0, .rw, 0x12c, some (0, 10000)⟩,
  ⟨"DIAL_TIMERS.WTR_S", 0x20004, [(16, 0x200)], 31, 16, .rw, 0x12c, some (0, 3600)⟩,
  ⟨"DIAL_LOCK.LOCK_PHASE_NS", 0x20008, [(16, 0x200)], 15, 0, .rw, 0x32, none⟩,
  ⟨"DIAL_LOCK.LOCK_TIME_S", 0x20008, [(16, 0x200)], 23, 16, .rw, 0x5, none⟩,
  ⟨"HOLDOVER_MAX_S", 0x2000c, [(16, 0x200)], 31, 0, .rw, 0x15180, none⟩]

def sdlRows2 : List FieldRow := [
  ⟨"DIAL_STATE.STATE", 0x20010, [(16, 0x200)], 2, 0, .ro, 0x0, none⟩,
  ⟨"DIAL_STATE.HOLDOFF", 0x20010, [(16, 0x200)], 3, 3, .ro, 0x0, none⟩,
  ⟨"DIAL_STATE.EVER_LOCKED", 0x20010, [(16, 0x200)], 4, 4, .ro, 0x0, none⟩,
  ⟨"DIAL_STATE.DISPUTE", 0x20010, [(16, 0x200)], 5, 5, .ro, 0x0, none⟩,
  ⟨"DIAL_STATE.FORCED", 0x20010, [(16, 0x200)], 6, 6, .ro, 0x0, none⟩,
  ⟨"DIAL_STATE.SEL_ENTRY", 0x20010, [(16, 0x200)], 12, 8, .ro, 0x1f, none⟩,
  ⟨"DIAL_STATE.SEL_REF", 0x20010, [(16, 0x200)], 22, 16, .ro, 0x7f, none⟩,
  ⟨"HIST_S", 0x20014, [(16, 0x200)], 31, 0, .ro, 0x0, none⟩,
  ⟨"DIAL_EVENTS.SEQ", 0x20018, [(16, 0x200)], 31, 24, .sq, 0x0, none⟩,
  ⟨"DIAL_EVENTS.EVENTS", 0x20018, [(16, 0x200)], 5, 0, .sq, 0x0, none⟩,
  ⟨"SWITCH_DISPUTE_COUNT", 0x2001c, [(16, 0x200), (2, 0x4)], 31, 0, .ro, 0x0, none⟩,
  ⟨"ENTRY.REF", 0x20040, [(16, 0x200), (16, 0x4)], 6, 0, .rw, 0x0, none⟩,
  ⟨"ENTRY.PRIORITY", 0x20040, [(16, 0x200), (16, 0x4)], 11, 8, .rw, 0x0, none⟩,
  ⟨"ENTRY.AVAILABLE", 0x20040, [(16, 0x200), (16, 0x4)], 16, 16, .ro, 0x0, none⟩,
  ⟨"ENTRY.RESTORING", 0x20040, [(16, 0x200), (16, 0x4)], 17, 17, .ro, 0x0, none⟩,
  ⟨"ENTRY.WTR_REMAIN_S", 0x20040, [(16, 0x200), (16, 0x4)], 31, 20, .ro, 0x0, none⟩,
  ⟨"LOOP_CTRL.BW_MHZ", 0x20080, [(16, 0x200)], 16, 0, .rw, 0x64, some (0, 100000)⟩,
  ⟨"LOOP_CTRL.DAMPING", 0x20080, [(16, 0x200)], 24, 24, .rw, 0x1, none⟩,
  ⟨"LOOP_CTRL.VMARK_EN", 0x20080, [(16, 0x200)], 28, 28, .rw, 0x1, none⟩,
  ⟨"FREQ_LIMIT_PPB", 0x20084, [(16, 0x200)], 19, 0, .rw, 0x23f0, none⟩,
  ⟨"BUILDOUT_CTRL.STEP_EN", 0x20088, [(16, 0x200)], 0, 0, .rw, 0x1, none⟩,
  ⟨"BUILDOUT_CTRL.SLEW_NS_S", 0x20088, [(16, 0x200)], 31, 16, .rw, 0x0, none⟩,
  ⟨"HO_GUARD_S", 0x2008c, [(16, 0x200)], 5, 0, .rw, 0x2, some (0, 60)⟩,
  ⟨"PHASE_ERR_BUILDOUT_FREQ", 0x20090, [(16, 0x200), (5, 0x4)], 31, 0, .ro, 0x0, none⟩]

def sdlRows3 : List FieldRow := [
  ⟨"LOOP_STATUS.EFF_BW_MHZ", 0x200a4, [(16, 0x200)], 16, 0, .ro, 0x0, none⟩,
  ⟨"LOOP_STATUS.FREQ_LIMITED", 0x200a4, [(16, 0x200)], 20, 20, .ro, 0x0, none⟩,
  ⟨"HO_HIST_S", 0x200a8, [(16, 0x200)], 8, 0, .ro, 0x0, none⟩,
  ⟨"TIME_CTRL.CAPTURE_SET_ADJ", 0x200c0, [(16, 0x200)], 2, 0, .wt, 0x0, none⟩,
  ⟨"TIME_CTRL.SET_PENDING", 0x200c0, [(16, 0x200)], 8, 8, .ro, 0x0, none⟩,
  ⟨"TIME_CTRL.ADJ_PENDING", 0x200c0, [(16, 0x200)], 9, 9, .ro, 0x0, none⟩,
  ⟨"CAP", 0x200c4, [(16, 0x200), (4, 0x4)], 31, 0, .ro, 0x0, none⟩,
  ⟨"SET_ADJ", 0x200d4, [(16, 0x200), (4, 0x4)], 31, 0, .sw, 0x0, none⟩,
  ⟨"STEP_COUNT_LAST", 0x200e4, [(16, 0x200), (2, 0x4)], 31, 0, .ro, 0x0, none⟩,
  ⟨"TIME_EVENTS.SEQ", 0x200ec, [(16, 0x200)], 31, 24, .sq, 0x0, none⟩,
  ⟨"TIME_EVENTS.EVENTS", 0x200ec, [(16, 0x200)], 2, 0, .sq, 0x0, none⟩,
  ⟨"GEN_CTRL.EN", 0x30000, [(96, 0x40)], 0, 0, .rw, 0x0, none⟩,
  ⟨"GEN_CTRL.POLARITY", 0x30000, [(96, 0x40)], 2, 2, .rw, 0x0, none⟩,
  ⟨"GEN_CTRL.LVDS", 0x30000, [(96, 0x40)], 3, 3, .rw, 0x0, none⟩,
  ⟨"GEN_CTRL.DIAL", 0x30000, [(96, 0x40)], 11, 8, .rw, 0x0, none⟩,
  ⟨"GEN_CTRL.QUIET_STATES", 0x30000, [(96, 0x40)], 20, 16, .rw, 0x0, none⟩,
  ⟨"PER_NUM_LO", 0x30004, [(96, 0x40)], 31, 0, .rw, 0x0, none⟩,
  ⟨"PER_NUM_HI", 0x30008, [(96, 0x40)], 15, 0, .rw, 0x0, none⟩,
  ⟨"PER_DEN_LO", 0x3000c, [(96, 0x40)], 31, 0, .rw, 0x1, none⟩,
  ⟨"PER_DEN_HI", 0x30010, [(96, 0x40)], 15, 0, .rw, 0x0, none⟩,
  ⟨"PHASE_NS", 0x30014, [(96, 0x40)], 31, 0, .rw, 0x0, none⟩,
  ⟨"PHASE_SUB", 0x30018, [(96, 0x40)], 15, 0, .rw, 0x0, none⟩,
  ⟨"WIDTH_NS", 0x3001c, [(96, 0x40)], 31, 0, .rw, 0x0, none⟩,
  ⟨"OUT_ADJ_PS", 0x30020, [(96, 0x40)], 15, 0, .rw, 0x0, none⟩]

def sdlRows4 : List FieldRow := [
  ⟨"GEN_STATUS.RUNNING_INVALID", 0x30024, [(96, 0x40)], 1, 0, .ro, 0x0, none⟩,
  ⟨"EDGE_SKIP_NEXT", 0x30028, [(96, 0x40), (4, 0x4)], 31, 0, .ro, 0x0, none⟩,
  ⟨"TTC_CTRL.EN", 0x40000, [(192, 0x40)], 0, 0, .rw, 0x0, none⟩,
  ⟨"TTC_CTRL.DIAL", 0x40000, [(192, 0x40)], 7, 4, .rw, 0x0, none⟩,
  ⟨"TTC_CTRL.ITEM_LOG2", 0x40000, [(192, 0x40)], 11, 8, .rw, 0x6, none⟩,
  ⟨"TTC_CTRL.SLOT", 0x40000, [(192, 0x40)], 31, 16, .rw, 0x0, none⟩,
  ⟨"TTC_USER", 0x40004, [(192, 0x40)], 3, 0, .rw, 0x0, none⟩,
  ⟨"ASYM", 0x40008, [(192, 0x40)], 31, 0, .rw, 0x0, none⟩,
  ⟨"TTC_STATUS.RX_VALID", 0x4000c, [(192, 0x40)], 0, 0, .ro, 0x0, none⟩,
  ⟨"TTC_STATUS.PEER_USER", 0x4000c, [(192, 0x40)], 7, 4, .ro, 0x0, none⟩,
  ⟨"TTC_STATUS.LAST_SEQ", 0x4000c, [(192, 0x40)], 15, 8, .ro, 0x0, none⟩,
  ⟨"OFFSET_DELAY_SEQ", 0x40010, [(192, 0x40), (3, 0x4)], 31, 0, .img, 0x0, none⟩,
  ⟨"TTC_COUNTS", 0x4001c, [(192, 0x40), (6, 0x4)], 31, 0, .ro, 0x0, none⟩,
  ⟨"TTC_EVENTS.SEQ", 0x40034, [(192, 0x40)], 31, 24, .sq, 0x0, none⟩,
  ⟨"TTC_EVENTS.EVENTS", 0x40034, [(192, 0x40)], 3, 0, .sq, 0x0, none⟩]

def sdlRows : List FieldRow := sdlRows0 ++ sdlRows1 ++ sdlRows2 ++ sdlRows3 ++ sdlRows4

def sveRows0 : List FieldRow := [
  ⟨"SVE_STATUS.IN_WINDOW", 0x100, [], 15, 0, .ro, 0x0, none⟩,
  ⟨"IN_CTRL.TERM_75", 0x10000, [(16, 0x1000)], 0, 0, .rw, 0x0, none⟩,
  ⟨"BANK_CTRL.SWAP", 0x10004, [(16, 0x1000)], 0, 0, .wt, 0x0, none⟩,
  ⟨"BANK_CTRL.ACTIVE", 0x10004, [(16, 0x1000)], 8, 8, .ro, 0x0, none⟩,
  ⟨"BANK_CTRL.SWAP_PENDING", 0x10004, [(16, 0x1000)], 9, 9, .ro, 0x0, none⟩,
  ⟨"ENV_CTRL.ATTACK", 0x10008, [(16, 0x1000)], 3, 0, .rw, 0x0, none⟩,
  ⟨"ENV_CTRL.DECAY", 0x10008, [(16, 0x1000)], 11, 8, .rw, 0xe, none⟩,
  ⟨"ENV_CTRL.SLICE_FRAC", 0x10008, [(16, 0x1000)], 23, 16, .rw, 0x80, none⟩,
  ⟨"ENV_CTRL.GATE_OFF", 0x10008, [(16, 0x1000)], 24, 24, .rw, 0x0, none⟩,
  ⟨"DET_CTRL.PEAK_K", 0x1000c, [(16, 0x1000)], 4, 0, .rw, 0x10, some (0, 20)⟩,
  ⟨"AMP_MIN_WIDTH_MIN_GATE_DELAY", 0x10010, [(16, 0x1000), (3, 0x4)], 15, 0, .rw, 0x0, none⟩,
  ⟨"AMP_MAX_WIDTH_MAX_GATE_LEN", 0x10010, [(16, 0x1000), (3, 0x4)], 31, 16, .rw, 0x0, none⟩,
  ⟨"GD_STATUS.GD_TOTAL", 0x10020, [(16, 0x1000)], 23, 0, .fuse, 0x0, none⟩,
  ⟨"GD_STATUS.GD_UNKNOWN", 0x10020, [(16, 0x1000)], 24, 24, .ro, 0x0, none⟩,
  ⟨"FIXED_LAT", 0x10024, [(16, 0x1000)], 15, 0, .fuse, 0x0, none⟩,
  ⟨"IN_STATUS.IN_WINDOW", 0x10030, [(16, 0x1000)], 0, 0, .ro, 0x0, none⟩,
  ⟨"IN_STATUS.GATED", 0x10030, [(16, 0x1000)], 1, 1, .ro, 0x0, none⟩,
  ⟨"TOP_BOTTOM_PEAK", 0x10034, [(16, 0x1000), (2, 0x4)], 31, 0, .ro, 0x0, none⟩,
  ⟨"RMS", 0x1003c, [(16, 0x1000)], 15, 0, .ro, 0x0, none⟩,
  ⟨"SVE_COUNTS", 0x10040, [(16, 0x1000), (6, 0x4)], 31, 0, .ro, 0x0, none⟩,
  ⟨"IN_EVENTS.SEQ", 0x10060, [(16, 0x1000)], 31, 24, .sq, 0x0, none⟩,
  ⟨"IN_EVENTS.EVENTS", 0x10060, [(16, 0x1000)], 6, 0, .sq, 0x0, none⟩,
  ⟨"BANK_CFG.RANK_W", 0x10100, [(16, 0x1000), (2, 0x100)], 3, 0, .rw, 0x0, none⟩,
  ⟨"BANK_CFG.RANK_R", 0x10100, [(16, 0x1000), (2, 0x100)], 7, 4, .rw, 0x0, none⟩]

def sveRows1 : List FieldRow := [
  ⟨"BANK_CFG.NTAPS", 0x10100, [(16, 0x1000), (2, 0x100)], 14, 8, .rw, 0x0, some (0, 64)⟩,
  ⟨"BANK_CFG.DECIM", 0x10100, [(16, 0x1000), (2, 0x100)], 17, 16, .rw, 0x0, none⟩,
  ⟨"BANK_STATUS.SYM", 0x10104, [(16, 0x1000), (2, 0x100)], 0, 0, .ro, 0x1, none⟩,
  ⟨"BANK_STATUS.MEDIAN", 0x10104, [(16, 0x1000), (2, 0x100)], 1, 1, .ro, 0x1, none⟩,
  ⟨"GD_OVERRIDE", 0x10108, [(16, 0x1000), (2, 0x100)], 15, 0, .rw, 0x0, none⟩,
  ⟨"COEF", 0x10140, [(16, 0x1000), (2, 0x100), (32, 0x4)], 31, 0, .rw, 0x0, none⟩]

def sveRows : List FieldRow := sveRows0 ++ sveRows1

def rxRows0 : List FieldRow := [
  ⟨"FF_MODE.FORMAT", 0x100, [], 3, 0, .rw, 0x0, none⟩,
  ⟨"FF_CTRL.REHUNT", 0x104, [], 0, 0, .wt, 0x0, none⟩,
  ⟨"FF_CTRL.DESCRAMBLE_OFF", 0x104, [], 1, 1, .rw, 0x0, none⟩,
  ⟨"FF_PATTERN_MASK", 0x108, [(4, 0x4)], 31, 0, .rw, 0x0, none⟩,
  ⟨"FF_FRAME_LEN_ANCHOR", 0x118, [(2, 0x4)], 21, 0, .rw, 0x0, none⟩,
  ⟨"FF_COUNTS.PATTERN_CONFIRM", 0x120, [], 3, 0, .rw, 0x2, none⟩,
  ⟨"FF_COUNTS.LOSS_COUNT", 0x120, [], 11, 8, .rw, 0x5, none⟩,
  ⟨"FF_COUNTS.AMBIG_LIMIT", 0x120, [], 23, 16, .rw, 0x10, none⟩,
  ⟨"FF_TIMERS.LOF_TIME", 0x124, [], 15, 0, .rw, 0x1e, some (0, 1000)⟩,
  ⟨"FF_TIMERS.LOF_CLEAR_TIME", 0x124, [], 31, 16, .rw, 0x1e, some (0, 1000)⟩,
  ⟨"FF_STATE.STATE", 0x128, [], 1, 0, .ro, 0x0, none⟩,
  ⟨"FF_STATE.OOF", 0x128, [], 2, 2, .ro, 0x0, none⟩,
  ⟨"FF_STATE.LOF", 0x128, [], 3, 3, .ro, 0x0, none⟩,
  ⟨"FF_STATE.LIVE_CANDIDATES", 0x128, [], 7, 4, .ro, 0x0, none⟩,
  ⟨"FF_STATE.ERRORED_RUN", 0x128, [], 11, 8, .ro, 0x0, none⟩,
  ⟨"FF_STATE.IN_MF", 0x128, [], 16, 16, .ro, 0x0, none⟩,
  ⟨"FF_STATE.LOM", 0x128, [], 17, 17, .ro, 0x0, none⟩,
  ⟨"FF_STATE.LOL", 0x128, [], 18, 18, .ro, 0x0, none⟩,
  ⟨"FF_EVENTS.SEQ", 0x12c, [], 31, 24, .sq, 0x0, none⟩,
  ⟨"FF_EVENTS.EVENTS", 0x12c, [], 13, 0, .sq, 0x0, none⟩,
  ⟨"FF_ALIGN_STEP", 0x130, [], 31, 0, .ro, 0x0, none⟩,
  ⟨"FF_COUNTERS", 0x140, [(5, 0x4)], 31, 0, .ro, 0x0, none⟩,
  ⟨"MF_CTRL.LOM_TIME", 0x160, [], 15, 0, .rw, 0x0, some (0, 1000)⟩,
  ⟨"MF_VALUE.MFAS", 0x164, [], 7, 0, .ro, 0x0, none⟩]

def rxRows1 : List FieldRow := [
  ⟨"FEC_CTRL.FEC_MODE", 0x170, [], 1, 0, .rw, 0x0, none⟩,
  ⟨"FEC_LO", 0x178, [(3, 0x8)], 31, 0, .ro, 0x0, none⟩,
  ⟨"FEC_HI", 0x17c, [(3, 0x8)], 15, 0, .ro, 0x0, none⟩,
  ⟨"OTL_STATE.LANE_IN_FRAME", 0x190, [], 19, 0, .ro, 0x0, none⟩,
  ⟨"OTL_SKEW.SKEW_NS", 0x194, [], 15, 0, .ro, 0x0, none⟩,
  ⟨"OTL_LANES.LANE_AT_PHASE", 0x198, [], 24, 0, .otl, 0x1ffffff, none⟩,
  ⟨"SDI_CTRL.SDI_STREAMS", 0x1b0, [], 4, 0, .sdi, 0x2, none⟩,
  ⟨"SDI_CTRL.FRAME_LINES", 0x1b0, [], 27, 16, .sdi, 0x465, none⟩,
  ⟨"SDI_MEAS.EAV_SPACING", 0x1b4, [], 21, 0, .ro, 0x0, none⟩,
  ⟨"SDI_MEAS.VALID", 0x1b4, [], 31, 31, .ro, 0x0, none⟩,
  ⟨"LOS_CTRL.LOS_SET_TIME", 0x200, [], 9, 0, .rw, 0x64, some (1, 1000)⟩,
  ⟨"LOS_CTRL.LOS_CLEAR_TIME", 0x200, [], 25, 16, .rw, 0x7d, some (1, 1000)⟩,
  ⟨"DEFECT_RAW_ACTIVE", 0x204, [(2, 0x4)], 23, 0, .ro, 0x0, none⟩,
  ⟨"DEFECT_EVENTS.SEQ", 0x20c, [], 31, 24, .sq, 0x0, none⟩,
  ⟨"DEFECT_EVENTS.EVENTS", 0x20c, [], 23, 0, .sq, 0x0, none⟩,
  ⟨"AU_AIS_LOP_RDI", 0x210, [(6, 0x4)], 31, 0, .ro, 0x0, none⟩,
  ⟨"AU_MODE", 0x228, [(4, 0x4)], 31, 0, .rw, 0x0, none⟩,
  ⟨"PDEF", 0x238, [], 7, 0, .rw, 0x0, none⟩,
  ⟨"PDEF_ACT", 0x23c, [], 15, 0, .rw, 0xff, none⟩,
  ⟨"SD_WINDOW_SET", 0x240, [(2, 0x20), (2, 0x4)], 23, 0, .rw, 0x0, none⟩,
  ⟨"SD_CLEAR", 0x248, [(2, 0x20)], 23, 0, .rw, 0x0, none⟩,
  ⟨"SD_CLEAR_WINDOWS", 0x248, [(2, 0x20)], 27, 24, .rw, 0x0, none⟩,
  ⟨"SF_WINDOW_SET", 0x24c, [(2, 0x20), (2, 0x4)], 23, 0, .rw, 0x0, none⟩,
  ⟨"SF_CLEAR", 0x254, [(2, 0x20)], 23, 0, .rw, 0x0, none⟩]

def rxRows2 : List FieldRow := [
  ⟨"SF_CLEAR_WINDOWS", 0x254, [(2, 0x20)], 27, 24, .rw, 0x0, none⟩,
  ⟨"SF_ACT", 0x258, [(2, 0x20)], 0, 0, .rw, 0x0, none⟩,
  ⟨"PAR_BLK_REI", 0x280, [(6, 0x4)], 31, 0, .ro, 0x0, none⟩,
  ⟨"B3_ERR", 0x300, [(64, 0x4)], 31, 0, .ro, 0x0, none⟩,
  ⟨"OH_SEL.SLOT", 0x400, [(32, 0x4)], 15, 0, .rw, 0x0, none⟩,
  ⟨"OH_SEL.MODE", 0x400, [(32, 0x4)], 17, 16, .rw, 0x0, none⟩,
  ⟨"OH_CTRL.TS", 0x480, [], 0, 0, .rw, 0x0, none⟩,
  ⟨"OH_CTRL.PERSIST", 0x480, [], 7, 4, .rw, 0x3, none⟩,
  ⟨"LATCH_SET", 0x500, [(10, 0x4)], 31, 0, .ro, 0x0, none⟩,
  ⟨"L_DEFECT_SEC", 0x528, [], 23, 0, .ro, 0x0, none⟩,
  ⟨"L_FLAGS", 0x52c, [], 1, 0, .ro, 0x0, none⟩,
  ⟨"L_B3", 0x600, [(64, 0x4)], 31, 0, .ro, 0x0, none⟩,
  ⟨"TS_CTRL.DIAL", 0x700, [], 3, 0, .rw, 0x0, none⟩,
  ⟨"TS_PIN_LAT_PS", 0x704, [], 19, 0, .ro, 0x0, none⟩,
  ⟨"TS_ADJ_PS", 0x708, [], 31, 0, .rw, 0x0, none⟩,
  ⟨"TS_LAST_SEQ", 0x70c, [(4, 0x4)], 31, 0, .ro, 0x0, none⟩]

def rxRows : List FieldRow := rxRows0 ++ rxRows1 ++ rxRows2

def txRows : List FieldRow := [
  ⟨"TX_MODE.FORMAT", 0x100, [], 3, 0, .rw, 0x0, none⟩,
  ⟨"TX_SRC", 0x200, [], 4, 0, .rw, 0x0, none⟩,
  ⟨"TX_CTRL.LCK", 0x204, [], 0, 0, .rw, 0x0, none⟩,
  ⟨"TX_CTRL.OCI", 0x204, [], 1, 1, .rw, 0x0, none⟩,
  ⟨"TX_CTRL.FORCE_AIS", 0x204, [], 2, 2, .rw, 0x0, none⟩,
  ⟨"TX_CTRL.SDI_REPLACE", 0x204, [], 5, 4, .rw, 0x0, none⟩,
  ⟨"TRACE_CTRL.SM_LEN", 0x208, [], 1, 0, .rw, 0x0, none⟩,
  ⟨"TRACE_CTRL.PM_LEN", 0x208, [], 3, 2, .rw, 0x2, none⟩,
  ⟨"TRACE_SM", 0x240, [(16, 0x4)], 31, 0, .rw, 0x0, none⟩,
  ⟨"TRACE_PM", 0x280, [(16, 0x4)], 31, 0, .rw, 0x0, none⟩,
  ⟨"REI_SAT_COUNT", 0x2c0, [], 31, 0, .ro, 0x0, none⟩,
  ⟨"TX_TIMING.LOOP", 0x300, [], 0, 0, .rw, 0x0, none⟩,
  ⟨"TX_TIMING.DIAL", 0x300, [], 7, 4, .rw, 0x0, none⟩,
  ⟨"TS_CTRL.DIAL", 0x700, [], 3, 0, .rw, 0x0, none⟩,
  ⟨"TS_PIN_LAT_PS", 0x704, [], 19, 0, .ro, 0x0, none⟩,
  ⟨"TS_ADJ_PS", 0x708, [], 31, 0, .rw, 0x0, none⟩,
  ⟨"TS_LAST_SEQ", 0x70c, [(4, 0x4)], 31, 0, .ro, 0x0, none⟩]

def mapRows0 : List FieldRow := [
  ⟨"MAP_CTRL.SDI_PT", 0x100, [], 7, 0, .rw, 0x80, none⟩,
  ⟨"MAP_STATUS.PENDING", 0x104, [], 0, 0, .ro, 0x0, none⟩,
  ⟨"MAP_EVENTS.SEQ", 0x108, [], 31, 24, .sq, 0x0, none⟩,
  ⟨"MAP_EVENTS.EVENTS", 0x108, [], 1, 0, .sq, 0x0, none⟩,
  ⟨"CH_MODE.HO_MODE", 0x400, [(32, 0x40)], 0, 0, .staged, 0x0, none⟩,
  ⟨"CH_STATUS.SIZE", 0x404, [(32, 0x40)], 6, 0, .ro, 0x0, none⟩,
  ⟨"TS0", 0x1000, [(32, 0x80), (20, 0x4)], 6, 0, .staged, 0x7f, none⟩,
  ⟨"TS1", 0x1000, [(32, 0x80), (20, 0x4)], 14, 8, .staged, 0x7f, none⟩,
  ⟨"TS2", 0x1000, [(32, 0x80), (20, 0x4)], 22, 16, .staged, 0x7f, none⟩,
  ⟨"TS3", 0x1000, [(32, 0x80), (20, 0x4)], 30, 24, .staged, 0x7f, none⟩,
  ⟨"TRIB_MODE.MODE_EN_TYPE", 0x2000, [(80, 0x40)], 6, 0, .staged, 0x0, none⟩,
  ⟨"TRIB_MODE.SLOTS", 0x2000, [(80, 0x40)], 14, 8, .staged, 0x0, none⟩,
  ⟨"TRIB_MODE.CHAN", 0x2000, [(80, 0x40)], 20, 16, .staged, 0x0, none⟩,
  ⟨"TRIB_MODE.TPN", 0x2000, [(80, 0x40)], 30, 24, .staged, 0x0, none⟩,
  ⟨"TRIB_MAP.METHOD", 0x2004, [(80, 0x40)], 1, 0, .staged, 0x0, none⟩,
  ⟨"TRIB_MAP.TX_STEER", 0x2004, [(80, 0x40)], 2, 2, .staged, 0x1, none⟩,
  ⟨"TRIB_MAP.SQ", 0x2004, [(80, 0x40)], 11, 8, .staged, 0x0, none⟩,
  ⟨"TRIB_MAP.X", 0x2004, [(80, 0x40)], 20, 16, .staged, 0x0, none⟩,
  ⟨"TRIB_MAP.HEAD", 0x2004, [(80, 0x40)], 30, 24, .staged, 0x0, none⟩,
  ⟨"TRIB_DESKEW.PLOTS", 0x2008, [(80, 0x40)], 6, 0, .staged, 0x0, some (0, 64)⟩,
  ⟨"CM_LIMITS", 0x200c, [(80, 0x40)], 31, 0, .rw, 0x0, none⟩,
  ⟨"TRIB_STATUS.CM_LAST", 0x2010, [(80, 0x40)], 15, 0, .img, 0x0, none⟩,
  ⟨"TRIB_STATUS.ALIGNED", 0x2010, [(80, 0x40)], 16, 16, .img, 0x0, none⟩,
  ⟨"DELAY_DIFF", 0x2014, [(80, 0x40), (2, 0x4)], 31, 0, .img, 0x0, none⟩]

def mapRows1 : List FieldRow := [
  ⟨"DEFECT_RAW_ACTIVE", 0x4000, [(80, 0x100), (2, 0x4)], 25, 0, .ro, 0x0, none⟩,
  ⟨"DEFECT_EVENTS.SEQ", 0x4008, [(80, 0x100)], 31, 24, .sq, 0x0, none⟩,
  ⟨"DEFECT_EVENTS.EVENTS", 0x4008, [(80, 0x100)], 23, 0, .sq, 0x0, none⟩,
  ⟨"PDEF", 0x400c, [(80, 0x100)], 7, 0, .rw, 0x0, none⟩,
  ⟨"PDEF_ACT", 0x4010, [(80, 0x100)], 15, 0, .rw, 0xff, none⟩,
  ⟨"SD_WINDOW_SET", 0x4040, [(80, 0x100), (2, 0x4)], 23, 0, .rw, 0x0, none⟩,
  ⟨"SD_CLEAR", 0x4048, [(80, 0x100)], 27, 0, .rw, 0x0, none⟩,
  ⟨"SF_WINDOW_SET", 0x404c, [(80, 0x100), (2, 0x4)], 23, 0, .rw, 0x0, none⟩,
  ⟨"SF_CLEAR", 0x4054, [(80, 0x100)], 27, 0, .rw, 0x0, none⟩,
  ⟨"SF_ACT", 0x4058, [(80, 0x100)], 0, 0, .rw, 0x0, none⟩,
  ⟨"PAR_BLK_REI", 0x4060, [(80, 0x100), (3, 0x4)], 31, 0, .ro, 0x0, none⟩,
  ⟨"TRIB_COUNTS", 0x4070, [(80, 0x100), (5, 0x4)], 31, 0, .ro, 0x0, none⟩,
  ⟨"TRIB_LATCH", 0x40a0, [(80, 0x100), (7, 0x4)], 31, 0, .ro, 0x0, none⟩,
  ⟨"OH_SEL", 0x9000, [(128, 0x4)], 17, 0, .rw, 0x0, none⟩,
  ⟨"OH_CTRL.TS", 0x9200, [], 0, 0, .rw, 0x0, none⟩,
  ⟨"OH_CTRL.PERSIST", 0x9200, [], 7, 4, .rw, 0x3, none⟩,
  ⟨"PHASE_NS", 0xa000, [(32, 0x20)], 31, 0, .img, 0x0, none⟩,
  ⟨"PHASE.SAMPLES", 0xa004, [(32, 0x20)], 12, 0, .img, 0x0, none⟩,
  ⟨"PHASE.LINES", 0xa004, [(32, 0x20)], 27, 16, .img, 0x0, none⟩,
  ⟨"PHASE.EARLY", 0xa004, [(32, 0x20)], 31, 31, .img, 0x0, none⟩,
  ⟨"PHASE.VALID", 0xa008, [(32, 0x20)], 0, 0, .img, 0x0, none⟩,
  ⟨"PHASE.UPDATE_SEQ_PP_NS", 0xa008, [(32, 0x20)], 31, 8, .img, 0x0, none⟩,
  ⟨"ALIGN_ADJ_NS", 0xa00c, [(32, 0x20)], 31, 0, .rw, 0x0, none⟩,
  ⟨"SDI_PHASE.EN", 0xa010, [(32, 0x20)], 0, 0, .rw, 0x1, none⟩]

def mapRows2 : List FieldRow := [
  ⟨"SDI_PHASE.DIAL", 0xa010, [(32, 0x20)], 7, 4, .rw, 0x0, none⟩]

def mapRows : List FieldRow := mapRows0 ++ mapRows1 ++ mapRows2

def trlRows : List FieldRow := [
  ⟨"TRL_COMMIT.GO", 0x100, [], 0, 0, .wt, 0x0, none⟩,
  ⟨"TRL_COMMIT.ROWS", 0x100, [], 27, 16, .wt, 0x0, none⟩,
  ⟨"TRL_STATUS.STATUS", 0x104, [], 3, 0, .ro, 0x0, none⟩,
  ⟨"TRL_STATUS.BUSY", 0x104, [], 4, 4, .ro, 0x0, none⟩,
  ⟨"TRL_STATUS.INDEX", 0x104, [], 31, 16, .ro, 0x0, none⟩,
  ⟨"TRL_EVENTS.SEQ", 0x108, [], 31, 24, .sq, 0x0, none⟩,
  ⟨"TRL_EVENTS.EVENTS", 0x108, [], 2, 0, .sq, 0x0, none⟩,
  ⟨"COMMIT_COUNT", 0x10c, [], 31, 0, .ro, 0x0, none⟩,
  ⟨"IN_USED", 0x140, [(12, 0x4)], 9, 0, .ro, 0x0, none⟩,
  ⟨"OUT_USED", 0x140, [(12, 0x4)], 25, 16, .ro, 0x0, none⟩,
  ⟨"IN.ROW", 0x10000, [(4608, 0x4)], 3, 0, .rw, 0x0, none⟩,
  ⟨"IN.SIG", 0x10000, [(4608, 0x4)], 14, 8, .rw, 0x0, none⟩,
  ⟨"IN.SLOT", 0x10000, [(4608, 0x4)], 22, 16, .rw, 0x0, none⟩,
  ⟨"IN.EN", 0x10000, [(4608, 0x4)], 31, 31, .rw, 0x0, none⟩,
  ⟨"OUT", 0x20000, [(4608, 0x4)], 31, 0, .rw, 0x0, none⟩,
  ⟨"IN_ACTIVE", 0x40000, [(4608, 0x4)], 31, 0, .ro, 0x0, none⟩,
  ⟨"OUT_ACTIVE", 0x50000, [(4608, 0x4)], 31, 0, .ro, 0x0, none⟩]

def celRows0 : List FieldRow := [
  ⟨"CEL_STATUS.GRANTED_PLOTS", 0x100, [], 11, 0, .ro, 0x0, none⟩,
  ⟨"CEL_EVENTS.SEQ", 0x104, [], 31, 24, .sq, 0x0, none⟩,
  ⟨"CEL_EVENTS.EVENTS", 0x104, [], 3, 0, .sq, 0x0, none⟩,
  ⟨"CORR_UNCORR_COUNT", 0x108, [(2, 0x4)], 31, 0, .ro, 0x0, none⟩,
  ⟨"ROW_DESKEW.BASE", 0x200, [(12, 0x4)], 10, 0, .staged, 0x0, none⟩,
  ⟨"DESKEW.SIZE", 0x240, [(12, 0x4)], 12, 0, .ro, 0x0, none⟩,
  ⟨"DESKEW.GRANTED", 0x240, [(12, 0x4)], 31, 31, .ro, 0x0, none⟩,
  ⟨"MERGE_CTRL.EN_MODE_REMOTE", 0x1000, [(96, 0x40)], 2, 0, .staged, 0x0, none⟩,
  ⟨"MERGE_CTRL.CH_A", 0x1000, [(96, 0x40)], 12, 8, .staged, 0x0, none⟩,
  ⟨"MERGE_CTRL.CH_B", 0x1000, [(96, 0x40)], 20, 16, .staged, 0x0, none⟩,
  ⟨"MERGE_PLOTS.FIRST", 0x1004, [(96, 0x40)], 10, 0, .staged, 0x0, none⟩,
  ⟨"MERGE_PLOTS.PLOTS", 0x1004, [(96, 0x40)], 24, 16, .staged, 0x0, some (0, 256)⟩,
  ⟨"MERGE_CFG.MERGE_BIP_LIMIT", 0x1008, [(96, 0x40)], 15, 0, .rw, 0x0, none⟩,
  ⟨"MERGE_CFG.BIP_SEL", 0x1008, [(96, 0x40)], 16, 16, .rw, 0x1, none⟩,
  ⟨"MERGE_CFG.FORCE", 0x1008, [(96, 0x40)], 25, 24, .rw, 0x0, none⟩,
  ⟨"MERGE_STATUS.ALIGNED", 0x100c, [(96, 0x40)], 0, 0, .ro, 0x0, none⟩,
  ⟨"MERGE_STATUS.SEL", 0x100c, [(96, 0x40)], 1, 1, .ro, 0x0, none⟩,
  ⟨"MERGE_STATUS.B_LATER", 0x100c, [(96, 0x40)], 2, 2, .ro, 0x0, none⟩,
  ⟨"MERGE_STATUS.GRANTED", 0x100c, [(96, 0x40)], 3, 3, .ro, 0x0, none⟩,
  ⟨"MERGE_STATUS.NO_MATCH", 0x100c, [(96, 0x40)], 4, 4, .ro, 0x0, none⟩,
  ⟨"MERGE_STATUS.VALID_A", 0x100c, [(96, 0x40)], 5, 5, .ro, 0x0, none⟩,
  ⟨"MERGE_STATUS.VALID_B", 0x100c, [(96, 0x40)], 6, 6, .ro, 0x0, none⟩,
  ⟨"MERGE_STATUS.MATCH_RUN", 0x100c, [(96, 0x40)], 11, 8, .ro, 0x0, none⟩,
  ⟨"MERGE_STATUS.MISMATCH_RUN", 0x100c, [(96, 0x40)], 14, 12, .ro, 0x0, none⟩]

def celRows1 : List FieldRow := [
  ⟨"MERGE_COUNTS", 0x1010, [(96, 0x40), (8, 0x4)], 31, 0, .ro, 0x0, none⟩,
  ⟨"MERGE_EVENTS.SEQ", 0x1030, [(96, 0x40)], 31, 24, .sq, 0x0, none⟩,
  ⟨"MERGE_EVENTS.EVENTS", 0x1030, [(96, 0x40)], 4, 0, .sq, 0x0, none⟩,
  ⟨"SLIP_CTRL.EN", 0x3000, [(384, 0x40)], 0, 0, .staged, 0x0, none⟩,
  ⟨"SLIP_CTRL.FIRST", 0x3000, [(384, 0x40)], 26, 16, .staged, 0x0, none⟩,
  ⟨"SLIP_STATUS.GRANTED", 0x3004, [(384, 0x40)], 0, 0, .ro, 0x0, none⟩,
  ⟨"SLIP_STATUS.IN_USE", 0x3004, [(384, 0x40)], 1, 1, .ro, 0x0, none⟩,
  ⟨"SLIP_STATUS.FILL", 0x3004, [(384, 0x40)], 15, 8, .ro, 0x0, none⟩,
  ⟨"SLIP_COUNTS_TS", 0x3008, [(384, 0x40), (5, 0x4)], 31, 0, .ro, 0x0, none⟩,
  ⟨"SLIP_EVENTS.SEQ", 0x301c, [(384, 0x40)], 31, 24, .sq, 0x0, none⟩,
  ⟨"SLIP_EVENTS.EVENTS", 0x301c, [(384, 0x40)], 1, 0, .sq, 0x0, none⟩]

def celRows : List FieldRow := celRows0 ++ celRows1

def furRows : List FieldRow := [
  ⟨"ROW_ROUTE.BED", 0x200, [(12, 0x4)], 3, 0, .k, 0x1, none⟩,
  ⟨"ROW_ROUTE.PAIR", 0x200, [(12, 0x4)], 4, 4, .k, 0x0, none⟩,
  ⟨"ROW_ROUTE.ROUTE_PENDING", 0x200, [(12, 0x4)], 8, 8, .ro, 0x0, none⟩,
  ⟨"UNDERRUN_OVERRUN", 0x300, [(12, 0x8), (2, 0x4)], 31, 0, .ro, 0x0, none⟩,
  ⟨"FUR_CFG.NOTICE_LEVEL", 0x10000, [(64, 0x40)], 10, 0, .level, 0x0, none⟩,
  ⟨"FUR_CFG.NOTICE_AGE_US", 0x10000, [(64, 0x40)], 31, 16, .level, 0x0, none⟩,
  ⟨"FUR_CTRL.FLUSH_HWM_CLR", 0x10004, [(64, 0x40)], 1, 0, .wt, 0x0, none⟩,
  ⟨"FUR_STATUS.OCCUPANCY", 0x10008, [(64, 0x40)], 10, 0, .ro, 0x0, none⟩,
  ⟨"FUR_STATUS.NOTICED", 0x10008, [(64, 0x40)], 11, 11, .ro, 0x0, none⟩,
  ⟨"FUR_STATUS.OWNED", 0x10008, [(64, 0x40)], 12, 12, .ro, 0x0, none⟩,
  ⟨"FUR_STATUS.FLUSH_PENDING", 0x10008, [(64, 0x40)], 13, 13, .ro, 0x0, none⟩,
  ⟨"FUR_STATUS.CAPACITY", 0x10008, [(64, 0x40)], 26, 16, .ro, 0x0, none⟩,
  ⟨"HWM", 0x1000c, [(64, 0x40)], 10, 0, .ro, 0x0, none⟩,
  ⟨"FUR_COUNTS", 0x10010, [(64, 0x40), (6, 0x4)], 31, 0, .ro, 0x0, none⟩,
  ⟨"FUR_EVENTS.SEQ", 0x10028, [(64, 0x40)], 31, 24, .sq, 0x0, none⟩,
  ⟨"FUR_EVENTS.EVENTS", 0x10028, [(64, 0x40)], 3, 0, .sq, 0x0, none⟩]

def bedRows0 : List FieldRow := [
  ⟨"BED_CTRL.FAIL", 0x100, [], 0, 0, .k, 0x0, none⟩,
  ⟨"BED_CTRL.REVIVE", 0x100, [], 1, 1, .wt, 0x0, none⟩,
  ⟨"BED_CTRL.TAKEOVER_EN", 0x100, [], 4, 4, .k, 0x1, none⟩,
  ⟨"BED_STATUS.ROLE", 0x104, [], 2, 0, .ro, 0x0, none⟩,
  ⟨"BED_STATUS.LBED", 0x104, [], 7, 4, .ro, 0x0, none⟩,
  ⟨"BED_STATUS.RETIRED", 0x104, [], 13, 8, .ro, 0x0, none⟩,
  ⟨"BED_STATUS.REPLACED_BY", 0x104, [], 19, 16, .ro, 0x0, none⟩,
  ⟨"BED_EVENTS.SEQ", 0x108, [], 31, 24, .sq, 0x0, none⟩,
  ⟨"BED_EVENTS.EVENTS", 0x108, [], 7, 0, .sq, 0x0, none⟩,
  ⟨"WDOG.WDOG_US", 0x10c, [], 9, 0, .k, 0x14, some (0, 1000)⟩,
  ⟨"WDOG.WDOG_INIT_US", 0x10c, [], 29, 16, .k, 0x3e8, some (0, 10000)⟩,
  ⟨"FAULT_LIMITS.ENGINE_FAULT_LIMIT", 0x110, [], 7, 0, .k, 0x4, none⟩,
  ⟨"FAULT_LIMITS.BED_FAULT_LIMIT", 0x110, [], 13, 8, .k, 0x8, none⟩,
  ⟨"BACK_BASE_FAR_WIN", 0x114, [(3, 0x4)], 25, 0, .k, 0x0, none⟩,
  ⟨"REG_WIN", 0x120, [(4, 0x4)], 31, 0, .k, 0x0, none⟩,
  ⟨"BED_USEC", 0x130, [(2, 0x4)], 31, 0, .ro, 0x0, none⟩,
  ⟨"BED_COUNTS", 0x140, [(7, 0x4)], 31, 0, .ro, 0x0, none⟩,
  ⟨"QUEUE_HWM", 0x15c, [], 10, 0, .ro, 0x0, none⟩,
  ⟨"HTAB.ADDR", 0x1000, [(256, 0x4)], 14, 0, .k, 0x0, none⟩,
  ⟨"HTAB.EN_BIND", 0x1000, [(256, 0x4)], 18, 16, .k, 0x0, none⟩,
  ⟨"HTAB.FIXED_CTX", 0x1000, [(256, 0x4)], 29, 24, .k, 0x0, none⟩,
  ⟨"CTX_BIND.OBJ_KIND", 0x1400, [(64, 0x4)], 3, 0, .k, 0x0, none⟩,
  ⟨"CTX_BIND.OBJ_INDEX", 0x1400, [(64, 0x4)], 27, 8, .k, 0x0, none⟩,
  ⟨"CTX_BIND.VALID", 0x1400, [(64, 0x4)], 31, 31, .k, 0x0, none⟩]

def bedRows1 : List FieldRow := [
  ⟨"CTX_STATUS", 0x1600, [(64, 0x4)], 4, 0, .ro, 0x0, none⟩,
  ⟨"PROD_MAP.CTX", 0x1800, [(256, 0x4)], 5, 0, .k, 0x0, none⟩,
  ⟨"PROD_MAP.VALID", 0x1800, [(256, 0x4)], 7, 7, .k, 0x0, none⟩,
  ⟨"ENG.CTX_ACTIVE_RETIRED", 0x2000, [(32, 0x20)], 8, 0, .ro, 0x0, none⟩,
  ⟨"ENG.ABORTS", 0x2004, [(32, 0x20)], 31, 0, .ro, 0x0, none⟩,
  ⟨"ENG.LAST_FAULT", 0x2008, [(32, 0x20)], 19, 0, .ro, 0x0, none⟩,
  ⟨"PROGRAM", 0x40000, [(16384, 0x4)], 31, 0, .ro, 0x0, none⟩,
  ⟨"SHARED", 0x60000, [(32768, 0x4)], 31, 0, .rw, 0x0, none⟩,
  ⟨"CONTEXT", 0x80000, [(16384, 0x4)], 31, 0, .rw, 0x0, none⟩]

def bedRows : List FieldRow := bedRows0 ++ bedRows1

def srdRows : List FieldRow := [
  ⟨"SRD_CTRL.AMP", 0x100, [], 3, 0, .srdTx, 0xa, none⟩,
  ⟨"SRD_CTRL.PRE", 0x100, [], 11, 8, .srdTx, 0x0, none⟩,
  ⟨"SRD_CTRL.POST", 0x100, [], 20, 16, .srdTx, 0x0, none⟩,
  ⟨"SRD_CTRL.POL", 0x100, [], 24, 24, .rw, 0x0, none⟩,
  ⟨"SRD_CTRL.EQ_HOLD", 0x100, [], 25, 25, .srdRx, 0x0, none⟩,
  ⟨"SRD_CTRL.PRBS_SEL", 0x100, [], 30, 28, .rw, 0x0, none⟩,
  ⟨"SRD_CTRL.PRBS_CLR", 0x100, [], 31, 31, .wt, 0x0, none⟩,
  ⟨"SRD_STATUS.SIG_DET_CDR_PRBS", 0x104, [], 2, 0, .ro, 0x0, none⟩,
  ⟨"SRD_STATUS.CTLE_CODE", 0x104, [], 15, 8, .ro, 0x0, none⟩,
  ⟨"PRBS_ERR", 0x108, [], 31, 0, .ro, 0x0, none⟩]

def qdmRows : List FieldRow := [
  ⟨"QDM_CTRL.SCRUB_EN", 0x100, [], 0, 0, .rw, 0x1, none⟩,
  ⟨"QDM_CTRL.SCRUB_PERIOD_S", 0x100, [], 31, 16, .rw, 0x258, none⟩,
  ⟨"QDM_STATUS.CAL_OK", 0x104, [], 15, 0, .ro, 0x0, none⟩,
  ⟨"QDM_STATUS.DEV_FAIL", 0x104, [], 23, 16, .ro, 0x0, none⟩,
  ⟨"QDM_STATUS.READY", 0x104, [], 24, 24, .ro, 0x0, none⟩,
  ⟨"QDM_EVENTS.SEQ", 0x108, [], 31, 24, .sq, 0x0, none⟩,
  ⟨"QDM_EVENTS.EVENTS", 0x108, [], 5, 0, .sq, 0x0, none⟩,
  ⟨"HOST_WR_EN.REGIONS", 0x10c, [], 9, 0, .k, 0x300, none⟩,
  ⟨"REPAIR_ADDR", 0x110, [], 26, 6, .rw, 0x0, none⟩,
  ⟨"REPAIR.GO", 0x114, [], 0, 0, .wt, 0x0, none⟩,
  ⟨"SCRUB_PASS_COUNT", 0x118, [], 31, 0, .ro, 0x0, none⟩,
  ⟨"LAST_UNCORR_ADDR", 0x11c, [], 26, 0, .ro, 0x0, none⟩,
  ⟨"DEAD_PIN_LIMIT", 0x120, [], 15, 0, .rw, 0x40, none⟩,
  ⟨"DEV.CORR_UNCORR", 0x1000, [(8, 0x100), (2, 0x4)], 31, 0, .ro, 0x0, none⟩,
  ⟨"DEV.PIN_LO", 0x1008, [(8, 0x100), (4, 0x8)], 31, 0, .ro, 0x0, none⟩,
  ⟨"DEV.PIN_HI", 0x100c, [(8, 0x100), (4, 0x8)], 3, 0, .ro, 0x0, none⟩,
  ⟨"DEV_CTRL.PIN_ERR_CLR", 0x1028, [(8, 0x100)], 0, 0, .wt, 0x0, none⟩]

def twnRows0 : List FieldRow := [
  ⟨"TWN_CTRL.EN", 0x100, [], 0, 0, .rw, 0x1, none⟩,
  ⟨"TWN_CTRL.MIRROR_EN", 0x100, [], 8, 8, .rw, 0x1, none⟩,
  ⟨"TWN_CTRL.PUSH_EN", 0x100, [], 9, 9, .rw, 0x1, none⟩,
  ⟨"TWN_CTRL.HB_TIMEOUT_MS", 0x100, [], 15, 12, .rw, 0x3, none⟩,
  ⟨"TWN_STATUS.LINK_STATE", 0x104, [], 1, 0, .ro, 0x0, none⟩,
  ⟨"TWN_STATUS.LANE_LOCK", 0x104, [], 7, 4, .ro, 0x0, none⟩,
  ⟨"TWN_STATUS.ALIGNED", 0x104, [], 8, 8, .ro, 0x0, none⟩,
  ⟨"TWN_STATUS.MATE_ROLE", 0x104, [], 10, 9, .ro, 0x0, none⟩,
  ⟨"TWN_STATUS.MIRROR_VALID", 0x104, [], 11, 11, .ro, 0x0, none⟩,
  ⟨"TWN_STATUS.SESSION", 0x104, [], 31, 16, .ro, 0x0, none⟩,
  ⟨"TWN_EVENTS.SEQ", 0x108, [], 31, 24, .sq, 0x0, none⟩,
  ⟨"TWN_EVENTS.EVENTS", 0x108, [], 4, 0, .sq, 0x0, none⟩,
  ⟨"TWN_COUNTS", 0x110, [(9, 0x4)], 31, 0, .ro, 0x0, none⟩,
  ⟨"TWN_ASYM_ADJ", 0x140, [(2, 0x4)], 31, 0, .rw, 0x0, none⟩,
  ⟨"LINK_DELAY_MATE_VERSION", 0x148, [(2, 0x4)], 31, 0, .ro, 0x0, none⟩,
  ⟨"MATE_INFO", 0x150, [], 1, 0, .ro, 0x0, none⟩,
  ⟨"DIAL_EXCH.EXCH_EN", 0x200, [(16, 0x4)], 0, 0, .rw, 0x0, none⟩,
  ⟨"DIAL_EXCH.FEED_EN", 0x200, [(16, 0x4)], 4, 4, .rw, 0x0, none⟩,
  ⟨"DIAL_EXCH.FEED_SWREF", 0x200, [(16, 0x4)], 9, 8, .rw, 0x0, none⟩,
  ⟨"DIAL_EXCH.FEEDING", 0x200, [(16, 0x4)], 12, 12, .ro, 0x0, none⟩,
  ⟨"DIAL_EXCH.MATE_STATE", 0x200, [(16, 0x4)], 18, 16, .ro, 0x0, none⟩,
  ⟨"DIAL_EXCH.MATE_SEL_REF", 0x200, [(16, 0x4)], 30, 24, .ro, 0x7f, none⟩,
  ⟨"MATE_OFFSET", 0x280, [(16, 0x4)], 31, 0, .ro, 0x0, none⟩,
  ⟨"MATE_MERGE", 0x400, [(96, 0x4)], 6, 0, .ro, 0x0, none⟩]

def twnRows1 : List FieldRow := [
  ⟨"APP_TX", 0x800, [(64, 0x4)], 31, 0, .rw, 0x0, none⟩,
  ⟨"MATE_APP", 0xa00, [(64, 0x4)], 31, 0, .ro, 0x0, none⟩,
  ⟨"REQ_DATA.WORD", 0x1000, [], 31, 0, .wt, 0x0, none⟩,
  ⟨"MB_CTRL.ABORT_RSP_ACK_FORGET", 0x1004, [], 2, 0, .wt, 0x0, none⟩,
  ⟨"MB_STATUS.REQ_READY", 0x1008, [], 0, 0, .ro, 0x1, none⟩,
  ⟨"MB_STATUS.RSP_READY", 0x1008, [], 1, 1, .ro, 0x0, none⟩,
  ⟨"MB_STATUS.WORDS_RECEIVED", 0x1008, [], 16, 8, .ro, 0x0, none⟩,
  ⟨"MB_STATUS.IN_FLIGHT", 0x1008, [], 23, 17, .ro, 0x0, none⟩,
  ⟨"MB_EVENTS.SEQ", 0x100c, [], 31, 24, .sq, 0x0, none⟩,
  ⟨"MB_EVENTS.EVENTS", 0x100c, [], 3, 0, .sq, 0x0, none⟩,
  ⟨"MB_COUNTS", 0x1010, [(5, 0x4)], 31, 0, .ro, 0x0, none⟩,
  ⟨"RSP", 0x1400, [(257, 0x4)], 31, 0, .ro, 0x0, none⟩]

def twnRows : List FieldRow := twnRows0 ++ twnRows1

/-- The regions of R417: block, base, instances, stride (the region's size where there is one
instance). -/
def regions : List (Blk × Nat × Nat × Nat) := [
  (.top, 0x0000000, 1, 0x10000), (.hif, 0x0010000, 1, 0x10000), (.cur, 0x0020000, 1, 0x10000),
  (.inv, 0x0030000, 1, 0x10000), (.rts, 0x0040000, 1, 0x10000), (.chk, 0x0050000, 1, 0x10000),
  (.sdl, 0x0080000, 1, 0x80000), (.sve, 0x0100000, 1, 0x40000), (.lrx, 0x0200000, 192, 0x1000),
  (.ltx, 0x0300000, 192, 0x1000), (.srx, 0x0400000, 192, 0x1000), (.stx, 0x0500000, 192, 0x1000),
  (.map, 0x0600000, 12, 0x10000), (.trl, 0x0700000, 1, 0x100000), (.cel, 0x0800000, 1, 0x100000),
  (.fur, 0x0900000, 1, 0x100000), (.bed, 0x1000000, 16, 0x100000), (.srd, 0x2000000, 768, 0x1000),
  (.qdm, 0x3000000, 1, 0x100000), (.twn, 0x3100000, 1, 0x10000)]

/-- The first region of the list that holds `a`: block, instance, base of the instance. -/
def regionIn (a : Nat) : List (Blk × Nat × Nat × Nat) → Option (Blk × Nat × Nat)
  | [] => none
  | (b, base, n, stride) :: rest =>
    if base ≤ a ∧ a < base + n * stride then
      some (b, (a - base) / stride, base + (a - base) / stride * stride)
    else regionIn a rest

/-- The block instance that holds BAR0 address `a`, with its base; none for a reserved range. -/
def blockOf (a : Nat) : Option (Blk × Nat × Nat) := regionIn a regions

def rowsOf : Blk → List FieldRow
  | .top => topRows | .hif => hifRows | .cur => curRows | .inv => invRows | .rts => rtsRows
  | .chk => chkRows | .sdl => sdlRows | .sve => sveRows | .lrx => rxRows | .srx => rxRows
  | .ltx => txRows | .stx => txRows | .map => mapRows | .trl => trlRows | .cel => celRows
  | .fur => furRows | .bed => bedRows | .srd => srdRows | .qdm => qdmRows | .twn => twnRows

/-- Whether distance `d` from a row's first offset is one of its places. -/
def repMatch (d : Nat) : List (Nat × Nat) → Bool
  | [] => d == 0
  | (n, s) :: rest => decide (d / s < n) && repMatch (d % s) rest

def FieldRow.covers (r : FieldRow) (o : Nat) : Bool :=
  decide (r.off ≤ o) && repMatch (o - r.off) r.reps

/-- A type that only some instances of a block have (R52, R404). -/
def FType.present (t : FType) (b : Blk) (inst : Nat) : Bool :=
  match t with
  | .otl => b == .lrx
  | .sdi => b == .srx
  | .srdTx => decide (inst / 192 % 2 = 1)
  | .srdRx => decide (inst / 192 % 2 = 0)
  | _ => true

/-- The fields of the register at BAR0 byte address `a`; none at a reserved address. -/
def fieldsAt (a : Nat) : List FieldRow :=
  match blockOf a with
  | none => []
  | some (b, inst, base) =>
    (hdrRows ++ rowsOf b).filter (fun r => r.covers (a - base) && r.ty.present b inst)

/-- Furrow `F`'s capacity in words (R243). -/
def furCapacity (F : Nat) : Nat :=
  if 24 ≤ F ∧ F < 36 then 512 else if 43 ≤ F ∧ F < 48 then 0 else 1024

/-- CFG of check unit `u`: POLY, FOLD_EN, COMPARE_EN of its duty (R424). -/
def chkDuty (u : Nat) : Nat :=
  if u < 3 then 14 else if u = 3 then 6 else if u = 4 then 10 else 2

/-- Reset value of a field, where it depends on the instance (R418, R260, R221, R166, R312, R414)
or on a fuse; else the table's. -/
def fieldReset (a : Nat) (r : FieldRow) : Nat :=
  match blockOf a with
  | none => 0
  | some (b, inst, base) =>
    let o := a - base
    if o = 0 then
      if r.lo = 0 then inst
      else match regions.find? (fun e => e.1 == b) with
        | some e => e.2.1 / 65536
        | none => 0
    else match r.ty with
      | .fuse =>
        -- GD_TOTAL resets to FIXED_LAT (R157, R166)
        if r.name = "GD_STATUS.GD_TOTAL" then (Config.fuse (a + 4)).toNat % 2 ^ 16
        else (Config.fuse a).toNat / 2 ^ r.lo % 2 ^ (r.hi - r.lo + 1)
      | _ =>
        match b with
        | .fur =>
          if 0x200 ≤ o ∧ o < 0x230 ∧ r.lo = 0 then (o - 0x200) / 4 + 1
          else if 0x10000 ≤ o ∧ (o - 0x10000) % 0x40 = 8 ∧ r.lo = 16 then
            furCapacity ((o - 0x10000) / 0x40)
          else r.reset
        | .chk => if 0x1000 ≤ o ∧ (o - 0x1000) % 0x100 = 0 then chkDuty ((o - 0x1000) / 0x100) else r.reset
        | .bed => if o = 0x104 ∧ r.lo = 4 then inst else r.reset
        | .top => if o = 0x344 ∧ (Config.fuse 0x104).toNat % 2 = 1 then 880 else r.reset
        | _ => r.reset

/-- The word that a list of fields makes at reset. -/
def resetWord (a : Nat) : List FieldRow → Nat
  | [] => 0
  | r :: rest => fieldReset a r * 2 ^ r.lo + resetWord a rest

/-- What the register at `a` holds at reset (R392). -/
def regReset (a : Nat) : Word := BitVec.ofNat 32 (resetWord a (fieldsAt a))

end Sys2Proof.Machine
end

