-- ==== Sys2Proof/Machine/Tab.lean ====
section
/-! DEFINITION. Sparse tables: the one form in which every numbered collection of the part is kept.
A table lists (key, value) pairs with strictly rising keys and no pair equal to the value an
unlisted key reads as, so equal tables are equal data. -/

namespace Sys2Proof.Machine

/-- A sparse table from keys to values. -/
abbrev Tab (α : Type) := List (Nat × α)

/-- The value at key `k`; `d` is what an unlisted key reads as. -/
def Tab.get {α : Type} (t : Tab α) (d : α) (k : Nat) : α :=
  match t with
  | [] => d
  | (j, v) :: rest => if j = k then v else Tab.get rest d k

/-- `t` without key `k`. -/
def Tab.erase {α : Type} (t : Tab α) (k : Nat) : Tab α :=
  match t with
  | [] => []
  | (j, v) :: rest => if j = k then Tab.erase rest k else (j, v) :: Tab.erase rest k

/-- `t` with `v` at key `k`, kept in rising order. -/
def Tab.insert {α : Type} (t : Tab α) (k : Nat) (v : α) : Tab α :=
  match t with
  | [] => [(k, v)]
  | (j, u) :: rest =>
    if k < j then (k, v) :: (j, u) :: rest
    else if j = k then (k, v) :: rest
    else (j, u) :: Tab.insert rest k v

/-- `t` with `v` at key `k`; writing what an unlisted key reads as removes the entry. -/
def Tab.set {α : Type} [DecidableEq α] (t : Tab α) (d : α) (k : Nat) (v : α) : Tab α :=
  if v = d then Tab.erase t k else Tab.insert t k v

/-- The canonical form: strictly rising keys, and no entry equal to its key's unlisted value. -/
def Tab.wf {α : Type} [DecidableEq α] (d : Nat → α) (t : Tab α) : Bool :=
  match t with
  | [] => true
  | (j, v) :: rest => decide (v ≠ d j) && (rest.all (fun e => decide (j < e.1))) && Tab.wf d rest

end Sys2Proof.Machine
end

