-- ==== Sys2Proof/Machine/State.lean ====
section
/-! DEFINITION. The state of the SV-8192, as plain data.

Every register of BAR0, with every memory the manual gives an address in BAR0 (program, shared and
context memory, the on-die log, the completion buffers, the tables of Trellis, the sample rings),
lives in `State.regs`, keyed by its BAR0 byte address.  State the manual gives no address lives in
the structures of its block.  Times are in nanoseconds since power-on. -/

namespace Sys2Proof.Machine

/-- Why the machine stops with a fault.  No command of this part has an effect that the manual
leaves without a meaning, so the one constructor is raised by no meaning: safe. -/
inductive Fault where
  /-- Raised by no command: kept so that a repair has a name to use. Safe. -/
  | noEffectGiven
deriving DecidableEq, Repr

/-- Why a command has no meaning. -/
inductive Refusal where
  /-- Raised by an arm of `exec` whose command has no meaning yet. Safe. -/
  | notModelled (mnemonic : String)
deriving DecidableEq, Repr

/-- A condition report before it is logged (R285). -/
structure Report where
  src : Nat
  kind : Nat
  clear : Bool
  detail : Nat
  seq : Nat
  forced : Bool
  conseq : Bool
deriving DecidableEq, Repr

/-- A reset shadow (R297): `closesAt` is none while the block is still in reset. -/
structure Shadow where
  src : Nat
  covers : List Nat
  closesAt : Option Nat
  marked : Nat
deriving DecidableEq, Repr

/-- A block reset in progress (R296). -/
structure BlockReset where
  src : Nat
  endsAt : Nat
deriving DecidableEq, Repr

/-- Curator's state beside its registers (R285 to R303). -/
structure Cur where
  /-- Intake queues, by source (R287). -/
  intake : Tab (List Report)
  lastTaken : Nat
  /-- Sources whose next report carries OVERFLOW (R287). -/
  overflow : List Nat
  /-- Report words held before the ring is ready: REP_LO, REP_HI, TIME_NS, TIME_SEC (R290). -/
  held : List (Word × Word × Word × Word)
  /-- Next entry number to be copied to the ring (R289). -/
  ringNext : Nat
  /-- Per vector, one more than the number of the last entry that took INT (R294). -/
  lastInt : Tab Nat
  /-- Per source, the times of the block resets its reports caused (R298). -/
  resetTimes : Tab (List Nat)
  shadows : List Shadow
  blockResets : List BlockReset
  /-- ALIVE_START has been written since reset (R300). -/
  aliveStarted : Bool
  /-- A stop by an ALIVE_STOP reaction is in force (R300). -/
  aliveStopped : Bool
  /-- ALIVE stopped by a lost kick (R300). -/
  aliveLost : Bool
  /-- ALIVE stopped because CORE_CLK stopped (R300). -/
  aliveCore : Bool
  lastKick : Nat
  lastToggle : Nat
  /-- Time of the last NMI reaction, and an acknowledgement waiting for its 1 µs (R295). -/
  nmiAt : Nat
  nmiAckPending : Bool
  /-- A chip reset in progress: BOOT kind, causing source, and when it began (R299, R391). -/
  chipReset : Option (Nat × Nat × Nat)
  /-- Rate limits: start of the window and reports in it, by limited condition. -/
  rates : Tab (Nat × Nat)
  /-- Entries lost to the ring in the last second, newest first: ms and their number (R291, R302). -/
  overruns : List (Nat × Nat)
  spills : List (Nat × Nat)
deriving DecidableEq, Repr

/-- A mailbox completion: header, body (R275); `own` marks one of HIF's own (R280). -/
structure Cpl where
  status : Byte
  tag : Half
  body : List Word
  own : Bool
  /-- Ends its command's in-flight record (R280). -/
  ends : Bool
  /-- Enters the memory of the last 64 (R278). -/
  keeps : Bool
deriving DecidableEq, Repr

/-- The state of one mailbox (R276 to R280). -/
structure Mbox where
  partialCmd : List Word
  /-- Time of the last word, moved forward by the time the timer stood still. -/
  lastWord : Nat
  /-- Elapsed time of an inter-word timer that stands still (R276). -/
  stopped : Option Nat
  inFlight : List Half
  memory : List Cpl
  waiting : List Cpl
  /-- A complete command held for room in its request furrow (R250, R276). -/
  held : Option (List Word)
  /-- The reply being assembled: words so far and the next item index (R279). -/
  reply : List Word
  replyNext : Nat
  /-- Items are discarded until the next one of index 0 (R279). -/
  replySkip : Bool
deriving DecidableEq, Repr

/-- What the part put out on a link toward the outside. -/
inductive OutMsg where
  | readData (bytes : List Byte)
  | unsupportedRequest
  | msix (v : Nat)
  | twin (type : Nat) (seq : Nat) (words : List Word)
  | i2c (bytes : List Byte)
deriving DecidableEq, Repr

/-- A candidate alignment (R33, R40): last bit of its last match, matches, the last two evidence results, and the
MFAS, LLM or line number of its last match. -/
structure Cand where
  pos : Nat
  count : Nat
  ev : Option Bool
  evPrev : Option Bool
  tag : Nat
deriving DecidableEq, Repr

/-- FF_STATE.STATE (R35). -/
inductive FState where
  | disabled | hunt | ambiguous | inFrame
deriving DecidableEq, Repr

/-- One hunter: a receive framer, or one phase of an OTL4.4 lane (R32 to R42, R47). -/
structure Hunter where
  state : FState
  cands : List Cand
  heldByLos : Bool
  /-- Hunt start, where it is known, and windows ended since; the first bit not yet judged (R32, R36). -/
  start : Option Nat
  win : Nat
  bit : Nat
  ambigWindows : Nat
  errRun : Nat
  /-- Frame-finding registers as read at the last entry to HUNT (R36). -/
  frameLen : Nat
  anchor : Nat
  confirm : Nat
  lossCount : Nat
  ambigLimit : Nat
  pattern : Nat
  mask : Nat
  cfgBad : Bool
  /-- Alignment of the last IN_FRAME since the last FORMAT change (R38). -/
  lastAlign : Option Nat
  /-- Flywheel alignment (R36, R39). -/
  fly : Option Nat
  /-- Next pattern end to be checked, and the first of a frame that starts after the declaration (R37, R38). -/
  next : Nat
  firstAt : Nat
  /-- The flywheel frame in progress at the declaration has still to be delivered (R38). -/
  flyDue : Bool
  oof : Bool
  oofSince : Nat
  lofAcc : Nat
  inSince : Nat
  lane : Nat
deriving DecidableEq, Repr

/-- Multiframe machine (R44), also used for line numbers (R50), OMFI (R94) and MFI2 (R103). -/
structure Mf where
  inMf : Bool
  expected : Nat
  run : Nat
  good : Nat
  /-- The machine has to start in OOM at the next IN_FRAME. -/
  restart : Bool
  everIn : Bool
  oomSince : Nat
deriving DecidableEq, Repr

/-- Half of a degrade detector (R70). -/
structure Deg where
  frames : Nat
  count : Nat
  quiet : Nat
  on : Bool
deriving DecidableEq, Repr

/-- Overhead extraction state of a framer or a MAP table (R57, R58). -/
structure OhX where
  last : Tab (Option Byte)
  /-- Entries due in an item that was dropped (R58). -/
  owed : List Nat
  /-- Entries whose invalid slot has been reported (R55). -/
  reported : List Nat
deriving DecidableEq, Repr

/-- A receive framer beside its registers (R30 to R80). -/
structure Framer where
  hunters : Tab Hunter
  mf : Mf
  /-- First frame delivered after IN_FRAME is still to come (R57). -/
  firstIn : Bool
  captures : Tab Byte
  /-- The captures were made with descrambling off (R43, R52). -/
  capOff : Bool
  /-- Frames at this alignment, and by slot those of them before its byte last changed (R57). -/
  runFrames : Nat
  changed : Tab Nat
  oh : OhX
  frameCount : Nat
  /-- Consecutive frames that call for entry, and for exit, of each counted defect (R66). -/
  enter : Tab Nat
  leave : Tab Nat
  ptrVal : Tab Nat
  deg : Tab Deg
  pdefEff : Byte
  latchBase : Tab Nat
  latchTaken : Bool
  secSeen : Word
  payloadId : Option (BitVec 32)
  idCand : BitVec 32
  idRun : Nat
  /-- DEFECT_ACTIVE at the last frames delivered at this alignment, newest first (R63). -/
  hist : List Nat
  /-- Parity computed over the last frames, newest first: B1, or BIP-8 of the OPUk; B2 by byte; B3 by AU-4 (R62). -/
  bips : List Byte
  b2 : Tab Byte
  b3 : Tab Byte
  /-- The last frame delivered downstream: flagged OOF, flagged truncated (R38, R39). -/
  mark : Bool × Bool
  /-- Errored bits of SM or B2, and of PM, compared in the last frame delivered (R119). -/
  parA : Option Nat
  parB : Option Nat
  /-- When that frame was delivered (R119). -/
  parAt : Nat
  /-- Fingerprint of the last frame delivered, where a merge pair asks for it (R116). -/
  fp : Option Word
  /-- Reported LOFLANE phases, per-phase (R47). -/
  loflane : List Nat
  /-- The present LOL is a lane-number fault (R53). -/
  lolFault : Bool
  omfi : Mf
  trsSeen : Nat
  /-- Arrivals of the logical lanes at the last deskew, and as last measured, in ps (R48). -/
  skewRef : List Nat
  skewArr : List Nat
  /-- LOS detection (re)started (R67, R423). -/
  detSince : Nat
deriving DecidableEq, Repr

/-- What stands on an SDI lane: the client, black with a payload ID, or a static output (R72). -/
inductive SdiOut where
  | client
  | black (id : BitVec 32)
  | held
deriving DecidableEq, Repr

/-- What an ODU's rate follows (R85). -/
inductive RateRef where
  | osc
  | dial0
  | clientOf (f : Nat)
  | laneOf (f : Nat)
deriving DecidableEq, Repr

/-- Overhead a transmit frame carried (R60, R75). -/
structure Sent where
  /-- AIS: all ones in the multiplex section overhead with H1 to H3 and the path overhead, or in all of the ODU. -/
  ais : Bool
  oci : Bool
  /-- Program-written bytes that the frame carried, by slot; none under AIS (R21, R60). -/
  written : Tab Byte
  /-- The PSI byte of the frame, where the part sets it (R60, R86, R92, R93); else it is passed through. -/
  psi : Option Byte
  /-- SM IAE, which the part never sends. -/
  smIae : Bool
  sdi : SdiOut
  /-- Frequency of the lane against OSC_IN in 1/256 ppb; none on a lane that follows its receive lane (R28, R180). -/
  freq : Option Int
  /-- Bits 6 to 8 of K2. -/
  k2 : BitVec 3
  m1 : Byte
  smBei : BitVec 4
  smBdi : Bool
  pmBei : BitVec 4
  pmBdi : Bool
  pmStat : BitVec 3
  replacement : Bool
  smTrace : Byte
  pmTrace : Byte
  ttcByte : Option Byte
deriving DecidableEq, Repr

/-- What a transmit lane carries (R31, R404). -/
inductive LaneOut
  | off
  | prbs (sel : Nat)
  | frame (x : Sent)
deriving DecidableEq, Repr

/-- A transmit framer beside its registers (R60 to R65, R74, R177). -/
structure Tx where
  /-- Program-written bytes, by slot (R60, R61). -/
  slots : Tab Byte
  mfas : Nat
  traceIdx : Nat
  accM1 : Nat
  accSm : Nat
  accPm : Nat
  /-- Loop-timed lane is on dial 0 now, and since when its receive lane is free of LOS (R28). -/
  onDial0 : Bool
  backDue : Bool
  losFreeSince : Nat
  /-- TX_TIMING in effect (R180). -/
  timing : Word
  sent : Sent
  replacing : Bool
  /-- Slot space of the bytes in `slots` (R54, R60). -/
  space : Nat
  /-- Last payload ID in the stream sent since the format was set (R72). -/
  sdiId : Option (BitVec 32)
deriving DecidableEq, Repr

/-- What the last frame that a tributary made carried (R60, R84 to R93, R101). -/
structure TribSent where
  ais : Bool
  oci : Bool
  /-- The payload is generic AIS, with CSF in the OPU overhead (R72, R89). -/
  csf : Bool
  pt : Byte
  vcPt : Byte
  cm : Nat
  crc8 : Byte
  c1d : Nat
  crc5 : BitVec 5
  jc : BitVec 2
  pm : Byte
  /-- MFI1 and MFI2, SQ, and the control field of a group without LCAS (R101). -/
  mfi : Nat
  sq : Nat
  ctrl : Byte
  rate : RateRef
deriving DecidableEq, Repr

/-- A MAP tributary beside its registers (R83 to R104). -/
structure Trib where
  badRun : Nat
  goodRun : Nat
  los : Bool
  captures : Tab Byte
  frameCount : Nat
  enter : Tab Nat
  leave : Tab Nat
  deg : Tab Deg
  pdefEff : Byte
  /-- Active program-defect bits (R68). -/
  pdefAct : Nat
  latchBase : Tab Nat
  latchTaken : Bool
  secSeen : Word
  mfi : Mf
  mfiLast : Nat
  sqRun : Nat
  sqGood : Nat
  arrivals : Tab Nat
  loaClear : Nat
  slots : Tab Byte
  accPm : Nat
  /-- Steering offset of the transmit lane, in 1/256 ppb (R90). -/
  steer : Int
  fitReported : Bool
  /-- The next frame is the first at its carrier's alignment (R57). -/
  firstIn : Bool
  runFrames : Nat
  changed : Tab Nat
  /-- BIP-8 of the OPU of the last two frames, newest first (R62). -/
  bips : List Byte
  /-- Errored bits of PM compared in the last frame, when it came, and its fingerprint (R116, R119). -/
  parB : Option Nat
  parAt : Nat
  fp : Option Word
  /-- MFI of the last frame, counted on past its 16 bits (R103). -/
  mfiCount : Option Int
  /-- Bits that the mapper still holds, or lacks (R87, R91), and the next MFI (R101). -/
  held : Int
  nextMfi : Nat
  sent : TribSent
  /-- Mask words of the last frames at this alignment, newest first (R63). -/
  hist : List Nat
deriving DecidableEq, Repr

/-- A fingerprint kept by the Cellar (R117). -/
structure Fp where
  fp : Word
  at_ : Nat
  valid : Bool
deriving DecidableEq, Repr

/-- A merge pair beside its registers (R113 to R121). -/
structure Pair where
  cand : Int
  /-- Offset of the last match in ns, positive when copy B is later (R117). -/
  off : Int
  histA : List Fp
  histB : List Fp
  /-- Since when both copies have been valid without alignment (R117). -/
  validSince : Option Nat
  /-- The first frame has left the merge stage (R120). -/
  staged : Bool
deriving DecidableEq, Repr

/-- A reference beside its registers (R129 to R139).  Edge times are in 2^-16 ns since power-on. -/
structure Ref where
  /-- Last valid edge; none where the next edge is valid and sets the expectation (R133). -/
  lastEdge : Option Nat
  /-- Time in ns of the last valid edge, or of the entry into CHECKING with none yet (R133, R138). -/
  quietSince : Nat
  /-- Last valid edge of the previous window, and a LOSS or configuration change in the span (R136). -/
  winEdge : Option Nat
  spanBad : Bool
  /-- QSTATE was QUALIFIED before the present LOSS (R138). -/
  qualBefore : Bool
  /-- The last ten measurements, newest first, in 1/256 ppb (R136). -/
  freqs : List Int
  /-- The last 30 windows, newest first (R139). -/
  win30 : List (Option Int)
  /-- Updates since the boundary: last SW_FREQ and the sum of SW_PHASE_ADJ (R135). -/
  swPending : Option (Int × Int)
  /-- Last accepted update. -/
  swAt : Nat
  swApplied : Int
  /-- Instant of the next virtual edge, in 2^-16 ns of Sundial's time; none before the train's first (R135, R362). -/
  swNext : Option Nat
  /-- Level of a digital input behind its pulse filter (R132). -/
  high : Bool
deriving DecidableEq, Repr

/-- A restoring entry of a dial's table (R143). -/
structure Entry where
  restoring : Bool
  timer : Nat
  /-- When its reference left QUALIFIED into a LOSS that still goes on. -/
  leftAt : Option Nat
deriving DecidableEq, Repr

/-- A dial beside its registers (R140 to R147, R167 to R175). -/
structure Dial where
  entries : Tab Entry
  pickEntry : Nat
  pickRun : Nat
  /-- Entries whose CONFIG_INVALID stands (R129). -/
  badEntries : List Nat
  holdoffAt : Nat
  stateSince : Nat
  /-- Time spent LOCKED before the present LOCKED period (R147). -/
  lockedNs : Nat
  lockSince : Option Nat
  /-- Frequency relative to OSC_IN and the integrator, in 1/256 ppb (R169). -/
  y : Int
  integ : Int
  /-- Build-out in 2^-16 ns, and when it last moved (R168, R171). -/
  buildout : Int
  buildoutAt : Nat
  /-- Movement of B owed since, in 2^-16 ns / 10^9 (R171). -/
  slewRem : Nat
  /-- End of the last update interval (R168). -/
  updAt : Nat
  firstError : Bool
  /-- Raw errors since the last update, in 2^-16 ns: the last, unwrapped; their sum and number (R168). -/
  lastRaw : Option Int
  rawSum : Int
  rawN : Nat
  /-- Recorded seconds, newest first (R172). -/
  ho : List Int
  /-- Sum of y over the ns of the present second, and its start (R172). -/
  ySum : Int
  ySumFrom : Nat
  /-- Time at `since`, in units of 2^-16 ns / 256e9 (R174). -/
  timeU : Nat
  since : Nat
  /-- The last record that the time furrows sent before `since`: time in those units, and frequency (R176). -/
  record : Nat × Int
  /-- Second of this dial whose boundary has passed (R175). -/
  sec : Nat
  setArmed : Option Nat
  adjArmed : Option Nat
  /-- A time step since the last one-second latch (R79). -/
  stepped : Bool
  /-- Second of the last one-second latch, or that a time step came to (R76, R79). -/
  latchSec : Nat
  restartDue : Bool
  /-- First pair found to disagree (R144, R149). -/
  disagree : Nat × Nat
deriving DecidableEq, Repr

/-- An output generator beside its registers (R181 to R184). -/
structure Gen where
  /-- A pulse is in progress. -/
  level : Bool
  /-- When the output last changed, in 2^-16 ns of Sundial's time. -/
  lastEdge : Option Int
  /-- Index k of the next rising edge t_k. -/
  k : Int
  /-- Falling edge of the pulse in progress: the dial that times it, and its time there in 2^-16 ns as a fraction. -/
  fallDial : Nat
  fall : Int × Nat
  /-- A window boundary or a time step has moved the grid since the last rising edge (R184). -/
  moved : Bool
deriving DecidableEq, Repr

/-- A time-transfer channel beside its registers (R185 to R188). -/
structure Ttc where
  txSeq : Nat
  /-- Kept departures and arrivals, newest first: SEQ, time in 2^-16 ns, STEP_COUNT of the dial then (R187). -/
  deps : List (Nat × Nat × Nat)
  arrs : List (Nat × Nat × Nat)
  /-- Messages passed since the last item (R188). -/
  passed : Nat
  lastPass : Nat
  /-- Arrival of the frame that carries byte 0, and STEP_COUNT of the dial then (R187, R188). -/
  rxMfas0 : Nat
  rxSteps : Nat
  /-- A frame since was flywheeled, or LOF or LOM was active (R187). -/
  rxBad : Bool
  /-- The 16 bytes of the message being sent (R186). -/
  msg : List Byte
  /-- The channel runs (R185). -/
  running : Bool
  echoSeq : Option Nat
deriving DecidableEq, Repr

/-- An input of Sieve beside its registers (R151 to R164).  Ticks are of 1/256 input sample. -/
structure Sve where
  /-- Index of the next input sample; an index and the ns of Sundial's time at which its sample was taken; and that the
  next sample does not follow the last one, so that its instant is taken anew (R153). -/
  idx : Nat
  origin : Nat
  originIdx : Nat
  gap : Bool
  /-- Index from which the decimation counts (R156). -/
  phaseFrom : Nat
  /-- Input samples, newest first, as far back as the filters reach. -/
  raw : List Int
  /-- Last output sample: value, input index, bank. -/
  out : Option (Int × Nat × Nat)
  /-- The present detector block: samples, sum of squares, maximum, minimum, and its PEAK_K (R159). -/
  outCount : Nat
  sumSq : Nat
  max : Int
  min : Int
  kSeen : Nat
  /-- A complete block: maximum, minimum, RMS. -/
  block : Option (Int × Int × Nat)
  top : Int
  bottom : Int
  /-- The amplitude lies in the window, and since when it does or does not (R161). -/
  inside : Bool
  insideAt : Nat
  /-- Falling crossing of the pulse being measured: tick, whether it mixes two banks, IN_WINDOW then. -/
  fall : Option (Int × Bool × Bool)
  /-- Edges accepted and not yet delivered: tick and VMARK. -/
  ready : List (Int × Bool)
  /-- Accepted line syncs in a row, the time of the last, and its trailing edge (R162). -/
  syncRun : Nat
  lastSync : Nat
  trail : Int
  /-- A broad pulse came after the last accepted line sync (R163). -/
  vmarkNext : Bool
  /-- Clips of the last second, newest first: ms of Sundial's time and their number (R165). -/
  clips : List (Nat × Nat)
deriving DecidableEq, Repr

/-- An event of a bed: kind, argument, sender, and the BIND_ARG flag (R208, R210). -/
structure Ev where
  kind : Nat
  arg : Half
  sender : Half
  bindArg : Bool
  /-- The event of an aborted handler, dispatched once more (R205). -/
  again : Bool
deriving DecidableEq, Repr

/-- A timer (R210): its four words; the deadline, third word and argument it is armed with; and the
third word and argument of a firing that waits for room in the queue. -/
structure Timer where
  lo : Half
  hi : Half
  word2 : Half
  arg : Half
  armed : Option (Nat × Half × Half)
  fired : Option (Half × Half)
deriving DecidableEq, Repr

/-- What a hardware context waits for (R195). -/
inductive Wait where
  | none
  | far (addr : Nat) (rd : Nat)
  | winRead (addr : Nat) (rd : Nat)
  | overhead (value : Byte) (rd : Nat)
  | timed (until_ : Nat)
  | fence
  | commit
deriving DecidableEq, Repr

/-- A hardware context (R195, R196). -/
structure Ctx where
  active : Bool
  /-- W0 to W15 (R196). -/
  w : Tab Half
  z : Bool
  n : Bool
  c : Bool
  v : Bool
  pc : BitVec 15
  stack : List (BitVec 15)
  page : BitVec 14
  ev : Ev
  /-- The furrow whose event the handler was started for. -/
  evFur : Option Nat
  bound : Option Nat
  wait : Wait
  /-- Register-window writes issued and not yet performed, oldest first (R199, R201). -/
  winWrites : List (Nat × Word)
  winLatch : Half
  winBuf : Half
  usecLatch : Half
  /-- Marks of input furrows (R231): one more than item × 512 + offset; 0 for none. -/
  marks : Tab Nat
  /-- Open items on output furrows: header and words (R232). -/
  opens : Tab (Option (Half × List Half))
  started : Nat
  limitNs : Nat
  /-- Local scratch (R197); unlisted words have an undefined value, `epoch` names which. -/
  scratch : Tab (Option Half)
  epoch : Nat
  /-- Instructions issued since the handler started (R319). -/
  issued : Nat
  /-- When the write-back of the commit began (R204). -/
  commitAt : Nat
deriving DecidableEq, Repr

/-- A takeover or migration in progress on a loading bed (R215, R347). -/
structure Move where
  old : Nat
  /-- 1 loading, 2 INIT runs, 3 INIT ended. -/
  stage : Nat
  /-- 0 takeover, 1 live activation or live fallback, 2 settings check. -/
  why : Nat
  /-- When the program was loaded, and a receive frame edge of a row routed to the old bed since (R347 step 5). -/
  at_ : Nat
  edge : Bool
deriving DecidableEq, Repr

/-- An engine of a bed beside its contexts: the context that issued last, by context the cycle from which it can issue
again, and the contexts that a YIELD waits for with the cycle at which it ends (R195, R224, R234). -/
structure Engine where
  last : Nat
  readyAt : Tab Nat
  yields : Tab (List Nat × Nat)
deriving DecidableEq, Repr

/-- The ENGINE_CLK cycle in which a bed issued last (R195, R242). -/
structure Cycle where
  /-- One more than its nanosecond; 0 before the first. -/
  upTo : Nat
  /-- The engines that have issued in it, and one more than the highest of those that did not store to a semaphore. -/
  issued : List Nat
  high : Nat
  /-- By bed word address, what the word held before the stores of the cycle. -/
  before : Tab (Option Half)
  /-- A load from a semaphore has been served in it. -/
  semLoad : Bool
deriving DecidableEq, Repr

/-- A bed beside its registers (R196 to R216). -/
structure Bed where
  evq : List Ev
  timers : Tab Timer
  /-- Semaphores held: one more than the key of the context that took each (R200). -/
  sems : Tab Nat
  initPending : Option Half
  notice : Option Half
  /-- Pending kinds that an aborted handler left for their second dispatch (R205). -/
  redo : List Nat
  /-- PROGRAM_COND reports waiting for Curator: detail and CLEAR (R235). -/
  conds : List (Nat × Bool)
  /-- QDR image area of the image the bed runs (R348, R381). -/
  area : Nat
  /-- The self-test of REVIVE runs (R216). -/
  reviving : Bool
  startedAt : Nat
  fromQueue : Bool
  abortTimes : Tab (List Nat)
  parity : List Nat
  dirty : Tab Nat
  move : Option Move
deriving DecidableEq, Repr

/-- An item of a furrow (R246). -/
structure Item where
  header : Half
  prod : Nat
  words : List Half
  at_ : Nat
deriving DecidableEq, Repr

/-- A furrow beside its registers (R243 to R253). -/
structure Furrow where
  items : List Item
  /-- Items released by the owner and not yet committed; the read point (R231). -/
  rel : Nat
  rpItem : Nat
  rpOff : Nat
  /-- One more than the key of the owning context; 0 for none. -/
  owner : Nat
  dropped : List Nat
  /-- A flush has happened, and the producers that published since (R253). -/
  flushed : Bool
  sinceFlush : List Nat
  /-- Physical bed that consumes the furrow now, and PAIR in effect (R254). -/
  bed : Nat
  pair : Nat
  /-- Items dropped in the last second, newest first: ms and their number (R259). -/
  drops : List (Nat × Nat)
  /-- When the pending route of a row takes effect at the latest (R254). -/
  routeAt : Nat
deriving DecidableEq, Repr

/-- Rootstock beside its registers (R330 to R350). -/
structure Rts where
  queue : List (Source × List Word)
  claimAt : Nat
  header : List Word
  /-- Written words of the staged image, by word offset (R342). -/
  written : Tab Bool
  /-- COMMIT in progress: source and tag (R343). -/
  committing : Option (Source × Half)
  stagedSlot : Nat
  /-- Slot on trial has been booted (R338). -/
  trialBooted : Bool
  trialSlot : Option Nat
  windowEnds : Option Nat
  /-- ACTIVATE MODE 1 armed for the next reset. -/
  armedReset : Bool
  /-- QDR image area of the running image, 0 or 1 (R381). -/
  area : Nat
  /-- Beds still to move, in order, and the spare in use (R347). -/
  toMove : List Nat
  spare : Option Nat
  fallbackAt : Nat
  reverse : Bool
  /-- Old backing bases of the beds moved, by logical bed (R348). -/
  oldBack : Tab Nat
  mateMemory : List Cpl
  held350 : Bool
  minLevel : Nat
deriving DecidableEq, Repr

/-- Twin link beside its registers (R354 to R366). -/
structure Twn where
  /-- Unacknowledged frames: SEQ, TYPE, when last sent, body (R359). -/
  kept : List (Nat × Nat × Nat × List Word)
  /-- When ACK last advanced. -/
  keptAt : Nat
  nextSeq : Nat
  expected : Nat
  unrelTx : Nat
  /-- Last accepted unreliable count; none since TRAINING was entered (R360). -/
  unrelRx : Option Nat
  lastHb : Nat
  nakFor : Option (Nat × Nat)
  waitingTx : List (Nat × List Word)
  /-- Mirrored values as last sent: pair i at i, dial n at 96 + n, word w at 112 + w (R364). -/
  mirrorSent : Tab Nat
  /-- When the whole mirror was last sent; none when it is due. -/
  wholeAt : Option Nat
  hiBer : List Nat
  /-- By dial: departures of the last 16 DIAL frames sent, newest first, and the arrival of the last one
  received, as (count, time on the dial in 2^-16 ns) (R361). -/
  dialDep : Tab (List (Nat × Nat))
  dialArr : Tab (Nat × Nat)
  /-- When the last DIAL frame arrived, in ns, and whether counts have been missed since. -/
  dialAt : Nat
  dialGap : Bool
  /-- Dials that stepped since the previous DIAL frame, and between that and the one before (R361). -/
  stepFlag : List Nat
  stepSent : List Nat
  /-- By dial: offsets measured in the present window, and path delays of all dials (R361). -/
  theta : Tab (List Int)
  delays : List Int
  /-- By dial: departure of the mate's last known frame and its arrival here in ns, and the same at the
  last boundary (R362). -/
  obs : Tab (Int × Nat)
  obsPrev : Tab (Int × Nat)
  /-- By dial: mean offset of the previous window, in 2^-16 ns (R362). -/
  thetaPrev : Tab Int
  /-- Dials whose feed has made its first update (R362). -/
  fed : List Nat
  /-- By dial: one more than the STATE that the mate's last DIAL frame carried; 0 where it carried none. -/
  mateDial : Tab Nat
  /-- Frames dropped in the last second, newest first: ms and their number (R368). -/
  drops : List (Nat × Nat)
  /-- When the last HEARTBEAT and the last DIAL frame left; none when one is due at once (R358). -/
  hbAt : Option Nat
  dialSentAt : Option Nat
deriving DecidableEq, Repr

/-- QDR controller beside its registers (R371 to R380). -/
structure Qdm where
  /-- Erroneous bytes of a stored codeword (R374). -/
  errs : Tab (List Nat)
  scrubNext : Nat
  /-- When the last scrub read was made; none before the first (R378). -/
  scrubAt : Option Nat
  /-- Consecutive erroneous, and clean, reads of each pin: (device·2 + port)·36 + pin (R379). -/
  pinErr : Tab Nat
  pinOk : Tab Nat
  /-- When the present retraining of a port ends, by device·2 + port (R372). -/
  retraining : Tab Nat
  /-- By device, codewords corrected in the last second, newest first: ms and their number (R384). -/
  corrs : Tab (List (Nat × Nat))
deriving DecidableEq, Repr

/-- The PRBS checker of a receive lane: the last bits of its reference, newest lowest, and the runs of error-free and of
errored lane words that it has seen (R404). -/
structure Prbs where
  bits : Nat
  good : Nat
  bad : Nat
deriving DecidableEq, Repr

/-- The instruction in the test port (R411).  TRST_N low, as the board must hold it in service, leaves one of these two; for
any other the manual guarantees nothing, and no command loads one. -/
inductive TestInstr | idcode | bypass
deriving DecidableEq, Repr

/-- TOP beside its registers: clocks, reset, boot, pins (R27 to R29, R386 to R393). -/
structure Top where
  failed : List Clock
  /-- 0 in reset, 1 to 7 the step of R390 in progress, 8 booted, 9 recovery. -/
  boot : Nat
  /-- BOOT code and causing source for the BOOT report of this boot. -/
  bootKind : Nat
  bootSrc : Nat
  resetLow : Bool
  railBad : Bool
  /-- A KC value waiting for its complement: address and value (R272). -/
  kc : Option (Nat × Word)
  roleTaken : Bool
  latch : Tab Word
  i2cPtr : Nat
  /-- Levels that the board is known to give the GPIO balls (R409). -/
  pins : Tab (Option Bool)
  tout : Tab Bool
  /-- LINK_DOWN stands (R263). -/
  linkDown : Bool
  /-- When CORE_CLK failed (R29). -/
  coreAt : Nat
  /-- PRBS checkers, by SRD instance (R404). -/
  prbs : Tab Prbs
  /-- The instruction of the test port (R411). -/
  testIr : TestInstr
deriving DecidableEq, Repr

/-- Inventory beside its registers (R322 to R324).  Domains: 0 ENGINE_CLK, 1 CORE_CLK, 2 QDR_CLK,
3 SUNDIAL_CLK, 4 HOST_CLK. -/
structure Inv where
  /-- The instant S of a pending snapshot, in ns, and the domains that have copied. -/
  snapAt : Option Nat
  copied : List Nat
  /-- The instant S of the last change of RUN that some domain has still to take. -/
  runAt : Option Nat
  /-- RUN in effect, by domain. -/
  runOn : Tab Bool
  /-- Counters whose wrap owes a skid sample. -/
  skidDue : List Nat
deriving DecidableEq, Repr

/-- The whole part. -/
structure State where
  /-- Nanoseconds since power-on: the model's own clock. -/
  now : Nat
  /-- Counter of free values drawn: the model's own. -/
  free : Nat
  /-- Every register and memory window of BAR0, by byte address. -/
  regs : Tab Word
  /-- QDR main memory, by byte address (R371). -/
  qdr : List Host.Cell
  /-- Boot flash, by byte address (R330). -/
  flash : List Host.Cell
  top : Top
  cur : Cur
  mboxes : Tab Mbox
  framers : Tab Framer
  txs : Tab Tx
  /-- MAP and CEL staged registers as active, by BAR0 address (R99, R110). -/
  active : Tab Word
  tribs : Tab Trib
  mapOh : Tab OhX
  /-- Whole frames still to be taken by a changed sink, by row·128 + sink (R98). -/
  sinkHold : Tab Nat
  pairs : Tab Pair
  /-- Plots held by granted buffers, first and count: merge pair i at i, deskew region r at 96 + r, slip
  buffer s at 108 + s (R110). -/
  grants : Tab (Nat × Nat)
  commitRows : Half
  /-- SDL registers in effect (R141), and addresses awaiting the boundary. -/
  policy : Tab Word
  policyPending : List Nat
  winStart : Nat
  /-- Sundial's own time: ns that it had counted by `sdlFrom`; it stands while SUNDIAL_CLK does (R27, R136).  Times of
  Sundial and of Sieve count from it. -/
  sdlNs : Nat
  sdlFrom : Nat
  refs : Tab Ref
  dials : Tab Dial
  gens : Tab Gen
  ttcs : Tab Ttc
  sves : Tab Sve
  beds : Tab Bed
  ctxs : Tab Ctx
  /-- Engines, by bed · 32 + engine, and the present cycle of each bed (R195, R242). -/
  engines : Tab Engine
  cycles : Tab Cycle
  furs : Tab Furrow
  rts : Rts
  twn : Twn
  qdm : Qdm
  inv : Inv
  /-- What left the part on its links, oldest first: the model's own record. -/
  outbox : List OutMsg
  /-- Bases of the blocks whose SUMMARY has counted this command's cycle (R419); empty between
  commands: the model's own. -/
  sumCycle : List Nat
  /-- Commands waiting, first in, first out. -/
  pending : List Instr
deriving DecidableEq, Repr

/-! Values that unlisted entries of the tables read as: each structure as reset leaves it. -/

def Hunter.init : Hunter :=
  { state := .disabled, cands := [], heldByLos := false, start := none, win := 0, bit := 0,
    ambigWindows := 0, errRun := 0, frameLen := 0, anchor := 0, confirm := 2, lossCount := 5,
    ambigLimit := 16, pattern := 0, mask := 0, cfgBad := false, lastAlign := none, fly := none, next := 0, firstAt := 0, flyDue := false,
    oof := false, oofSince := 0, lofAcc := 0, inSince := 0, lane := 31 }

def Mf.init : Mf :=
  { inMf := false, expected := 0, run := 0, good := 0, restart := true, everIn := false,
    oomSince := 0 }

def Deg.init : Deg := { frames := 0, count := 0, quiet := 0, on := false }

def OhX.init : OhX := { last := [], owed := [], reported := [] }

/-- The entries of a MAP at reset: none was written, and a slot that names no tributary is not judged (R55). -/
def OhX.mapInit : OhX := { OhX.init with reported := List.range 128 }

def Framer.init : Framer :=
  { hunters := [], mf := Mf.init, firstIn := true, captures := [], capOff := false, runFrames := 0, changed := [],
    oh := OhX.init, frameCount := 0,
    enter := [], leave := [], ptrVal := [], deg := [], pdefEff := 0, latchBase := [],
    latchTaken := false, secSeen := 0, payloadId := none, idCand := 0, idRun := 0,
    hist := [], bips := [], b2 := [], b3 := [], mark := (false, false), parA := none, parB := none, parAt := 0, fp := none,
    lolFault := false, loflane := [], omfi := Mf.init, trsSeen := 0, skewRef := [], skewArr := [], detSince := 0 }

def Sent.init : Sent :=
  { ais := false, oci := false, written := [], psi := none, smIae := false, sdi := .client, freq := none, k2 := 0, m1 := 0, smBei := 0, smBdi := false, pmBei := 0,
    pmBdi := false, pmStat := 1, replacement := false, smTrace := 0, pmTrace := 0, ttcByte := none }

def Tx.init : Tx :=
  { slots := [], mfas := 0, traceIdx := 0, accM1 := 0, accSm := 0, accPm := 0, onDial0 := false,
    backDue := false, losFreeSince := 0, timing := 0, sent := Sent.init, replacing := false,
    space := 0, sdiId := none }

def TribSent.init : TribSent :=
  { ais := false, oci := false, csf := false, pt := 0, vcPt := 0, cm := 0, crc8 := 0, c1d := 0, crc5 := 0, jc := 0,
    pm := 1, mfi := 0, sq := 0, ctrl := 0, rate := .osc }

def Trib.init : Trib :=
  { badRun := 0, goodRun := 0, los := false, captures := [], frameCount := 0,
    enter := [], leave := [], deg := [], pdefEff := 0, pdefAct := 0, latchBase := [], latchTaken := false,
    secSeen := 0, mfi := Mf.init, mfiLast := 0, sqRun := 0, sqGood := 0, arrivals := [],
    loaClear := 0, slots := [], accPm := 0, steer := 0, fitReported := false,
    firstIn := true, runFrames := 0, changed := [], bips := [], parB := none, parAt := 0, fp := none, mfiCount := none, held := 0, nextMfi := 0,
    sent := TribSent.init, hist := [] }

def Pair.init : Pair :=
  { cand := 0, off := 0, histA := [], histB := [], validSince := none, staged := false }

def Ref.init : Ref :=
  { lastEdge := none, quietSince := 0, winEdge := none, spanBad := true, qualBefore := false, freqs := [],
    win30 := [], swPending := none, swAt := 0, swApplied := 0, swNext := none,
    high := false }

def Entry.init : Entry := { restoring := false, timer := 0, leftAt := none }

def Dial.init : Dial :=
  { entries := [], pickEntry := 31, pickRun := 0, badEntries := [], holdoffAt := 0, stateSince := 0,
    lockedNs := 0, lockSince := none, y := 0, integ := 0, buildout := 0, buildoutAt := 0,
    slewRem := 0, updAt := 0, firstError := true,
    lastRaw := none, rawSum := 0, rawN := 0, ho := [], ySum := 0, ySumFrom := 0, timeU := 0, since := 0,
    record := (0, 0), sec := 0,
    setArmed := none, adjArmed := none, stepped := false, latchSec := 0, restartDue := false, disagree := (127, 127) }

def Gen.init : Gen := { level := false, lastEdge := none, k := 0, fallDial := 0, fall := (0, 1), moved := false }

def Ttc.init : Ttc :=
  { txSeq := 0, deps := [], arrs := [], passed := 0, lastPass := 0, rxMfas0 := 0, rxSteps := 0, rxBad := false, msg := [], running := false,
    echoSeq := none }

def Sve.init : Sve :=
  { idx := 0, origin := 0, originIdx := 0, gap := true, phaseFrom := 0, raw := [], out := none, outCount := 0, sumSq := 0, max := 0, min := 0,
    kSeen := 16, block := none, top := 0, bottom := 0, inside := false, insideAt := 0, fall := none, ready := [],
    syncRun := 0, lastSync := 0, trail := 0, vmarkNext := false, clips := [] }

def Ev.init : Ev := { kind := 0, arg := 0, sender := 0, bindArg := false, again := false }

def Timer.init : Timer :=
  { lo := 0, hi := 0, word2 := 0, arg := 0, armed := none, fired := none }

def Ctx.init : Ctx :=
  { active := false, w := [], z := false, n := false, c := false, v := false, pc := 0, stack := [],
    page := 0, ev := Ev.init, evFur := none, bound := none, wait := .none, winWrites := [],
    winLatch := 0, winBuf := 0, usecLatch := 0, marks := [], opens := [], started := 0,
    limitNs := 0, scratch := [], epoch := 0, issued := 0, commitAt := 0 }

/-- The round robin begins with context 0. -/
def Engine.init : Engine := { last := 3, readyAt := [], yields := [] }

def Cycle.init : Cycle := { upTo := 0, issued := [], high := 0, before := [], semLoad := false }

def Bed.init : Bed :=
  { evq := [], timers := [], sems := [], initPending := none, notice := none, redo := [],
    conds := [], area := 0, reviving := false,
    startedAt := 0, fromQueue := false, abortTimes := [], parity := [], dirty := [], move := none }

/-- A furrow at reset; the row furrows feed bed r + 1 (R17), the Sundial furrow bed 14 (R191), the
mailbox furrows bed 0 (R283) and the mail furrows their own bed (R243). -/
def Furrow.init (F : Nat) : Furrow :=
  { items := [], rel := 0, rpItem := 0, rpOff := 0, owner := 0, dropped := [], flushed := false,
    sinceFlush := [],
    bed := if F < 36 then F % 12 + 1 else if F = 36 then 14 else if F < 48 then 0 else F - 48,
    pair := 0, drops := [], routeAt := 0 }

def Mbox.init : Mbox :=
  { partialCmd := [], lastWord := 0, stopped := none, inFlight := [], memory := [], waiting := [], held := none,
    reply := [], replyNext := 0, replySkip := false }

def Cur.init : Cur :=
  { intake := [], lastTaken := 1023, overflow := [], held := [], ringNext := 0, lastInt := [],
    resetTimes := [], shadows := [], blockResets := [], aliveStarted := false,
    aliveStopped := false, aliveLost := false, aliveCore := false, lastKick := 0, lastToggle := 0,
    nmiAt := 0, nmiAckPending := false, chipReset := none, rates := [], overruns := [],
    spills := [] }

def Top.init : Top :=
  { failed := [], boot := 0, bootKind := 0, bootSrc := 0, resetLow := true,
    railBad := false, kc := none, roleTaken := false, latch := [], i2cPtr := 0, pins := [],
    tout := [], linkDown := false, coreAt := 0, prbs := [], testIr := .idcode }

def Rts.init : Rts :=
  { queue := [], claimAt := 0, header := [], written := [], committing := none, stagedSlot := 0,
    trialBooted := false, trialSlot := none, windowEnds := none,
    armedReset := false, area := 0, toMove := [], spare := none, fallbackAt := 0, reverse := false,
    oldBack := [], mateMemory := [], held350 := false, minLevel := 0 }

def Twn.init : Twn :=
  { kept := [], keptAt := 0, nextSeq := 0, expected := 0, unrelTx := 0, unrelRx := none, lastHb := 0,
    nakFor := none, waitingTx := [], mirrorSent := [], wholeAt := none, hiBer := [],
    dialDep := [], dialArr := [], dialAt := 0, dialGap := true, stepFlag := [], stepSent := [], theta := [],
    delays := [], obs := [], obsPrev := [], thetaPrev := [], fed := [], mateDial := [], drops := [], hbAt := none, dialSentAt := none }

def Qdm.init : Qdm :=
  { errs := [], scrubNext := 0, scrubAt := none, pinErr := [], pinOk := [], retraining := [], corrs := [] }

def Inv.init : Inv := { snapAt := none, copied := [], runAt := none, runOn := [], skidDue := [] }

/-- The part after power-on with RESET_N low (R386, R389, R392): every register at its reset value,
nothing listed in any memory, no command waiting. -/
def State.reset : State :=
  { now := 0, free := 0, regs := [], qdr := [], flash := [], top := Top.init, cur := Cur.init,
    mboxes := [], framers := [], txs := [], active := [], tribs := [], mapOh := [], sinkHold := [],
    pairs := [], grants := [], commitRows := 0, policy := [], policyPending := [], winStart := 0, sdlNs := 0, sdlFrom := 0,
    refs := [],
    dials := [], gens := [], ttcs := [], sves := [], beds := [], ctxs := [], engines := [], cycles := [], furs := [],
    rts := Rts.init, twn := Twn.init, qdm := Qdm.init, inv := Inv.init, outbox := [],
    sumCycle := [], pending := [] }

end Sys2Proof.Machine
end

