-- ==== Sys2Proof/Machine/Ops.lean ====
section
/-! DEFINITION. The named operations that every meaning is written over: registers and their
fields, sequence-clear events, condition reports, free values, the bytes of QDR and flash. -/

namespace Sys2Proof.Machine

/-! ### The fields of the state, one update each -/

def State.setNow (s : State) (x : Nat) : State := { s with now := x }
def State.setFree (s : State) (x : Nat) : State := { s with free := x }
def State.setRegs (s : State) (x : Tab Word) : State := { s with regs := x }
def State.setQdr (s : State) (x : List Host.Cell) : State := { s with qdr := x }
def State.setFlash (s : State) (x : List Host.Cell) : State := { s with flash := x }
def State.setTop (s : State) (x : Top) : State := { s with top := x }
def State.setCur (s : State) (x : Cur) : State := { s with cur := x }
def State.setMboxes (s : State) (x : Tab Mbox) : State := { s with mboxes := x }
def State.setFramers (s : State) (x : Tab Framer) : State := { s with framers := x }
def State.setTxs (s : State) (x : Tab Tx) : State := { s with txs := x }
def State.setActive (s : State) (x : Tab Word) : State := { s with active := x }
def State.setTribs (s : State) (x : Tab Trib) : State := { s with tribs := x }
def State.setMapOhTab (s : State) (x : Tab OhX) : State := { s with mapOh := x }
def State.setSinkHold (s : State) (x : Tab Nat) : State := { s with sinkHold := x }
def State.setPairs (s : State) (x : Tab Pair) : State := { s with pairs := x }
def State.setGrants (s : State) (x : Tab (Nat × Nat)) : State := { s with grants := x }
def State.setCommitRows (s : State) (x : Half) : State := { s with commitRows := x }
def State.setPolicy (s : State) (x : Tab Word) : State := { s with policy := x }
def State.setPolicyPending (s : State) (x : List Nat) : State := { s with policyPending := x }
def State.setWinStart (s : State) (x : Nat) : State := { s with winStart := x }
def State.setSdl (s : State) (ns from_ : Nat) : State := { s with sdlNs := ns, sdlFrom := from_ }
def State.setRefs (s : State) (x : Tab Ref) : State := { s with refs := x }
def State.setDials (s : State) (x : Tab Dial) : State := { s with dials := x }
def State.setGens (s : State) (x : Tab Gen) : State := { s with gens := x }
def State.setTtcs (s : State) (x : Tab Ttc) : State := { s with ttcs := x }
def State.setSves (s : State) (x : Tab Sve) : State := { s with sves := x }
def State.setBeds (s : State) (x : Tab Bed) : State := { s with beds := x }
def State.setCtxs (s : State) (x : Tab Ctx) : State := { s with ctxs := x }
def State.setEngines (s : State) (x : Tab Engine) : State := { s with engines := x }
def State.setCycles (s : State) (x : Tab Cycle) : State := { s with cycles := x }
def State.setFurs (s : State) (x : Tab Furrow) : State := { s with furs := x }
def State.setRts (s : State) (x : Rts) : State := { s with rts := x }
def State.setTwn (s : State) (x : Twn) : State := { s with twn := x }
def State.setQdm (s : State) (x : Qdm) : State := { s with qdm := x }
def State.setInv (s : State) (x : Inv) : State := { s with inv := x }
def State.setOutbox (s : State) (x : List OutMsg) : State := { s with outbox := x }
def State.setSumCycle (s : State) (x : List Nat) : State := { s with sumCycle := x }
def State.setPending (s : State) (x : List Instr) : State := { s with pending := x }

/-! ### Numbers -/

/-- Bits `hi` down to `lo` of a number. -/
def bitsOf (w hi lo : Nat) : Nat := w / 2 ^ lo % 2 ^ (hi + 1 - lo)

/-- `w` with bits `hi` down to `lo` set to `v`, cut to the field's width. -/
def putBits (w hi lo v : Nat) : Nat :=
  w - bitsOf w hi lo * 2 ^ lo + v % 2 ^ (hi + 1 - lo) * 2 ^ lo

/-- The number that `n` bits spell in two's complement. -/
def signedOf (n w : Nat) : Int :=
  if w % 2 ^ n < 2 ^ (n - 1) then (w % 2 ^ n : Nat) else (w % 2 ^ n : Nat) - (2 ^ n : Nat)

/-- `n` bits of two's complement that spell `i` modulo 2^n. -/
def unsignedOf (n : Nat) (i : Int) : Nat := (i % (2 ^ n : Nat)).toNat

/-- `i` brought into the range from `lo` to `hi`. -/
def clampInt (lo hi i : Int) : Int := if i < lo then lo else if hi < i then hi else i

/-- Division rounded to the nearest, halves away from zero. -/
def divNear (a : Int) (b : Nat) : Int :=
  if 0 ≤ a then (a * 2 + b) / (2 * b) else -((-a * 2 + b) / (2 * b))

def usNs : Nat := 1000
def msNs : Nat := 1000000
def secNs : Nat := 1000000000

/-! ### Registers -/

/-- The register at BAR0 byte address `a`. -/
def State.rd (s : State) (a : Nat) : Word := Tab.get s.regs (regReset a) a

/-- `s` with `v` in the register at `a`. -/
def State.wr (s : State) (a : Nat) (v : Word) : State :=
  s.setRegs (Tab.set s.regs (regReset a) a v)

/-- The register at `a` as a number. -/
def State.nat (s : State) (a : Nat) : Nat := (s.rd a).toNat

def State.wrN (s : State) (a n : Nat) : State := s.wr a (BitVec.ofNat 32 n)

/-- Bits `hi` down to `lo` of the register at `a`. -/
def State.fld (s : State) (a hi lo : Nat) : Nat := bitsOf (s.nat a) hi lo

/-- `s` with bits `hi` down to `lo` of the register at `a` set to `v`. -/
def State.setFld (s : State) (a hi lo v : Nat) : State := s.wrN a (putBits (s.nat a) hi lo v)

/-- A staged register as the last accepted commit made it active (R99, R110). -/
def State.actv (s : State) (a : Nat) : Word := Tab.get s.active (regReset a) a

def State.actFld (s : State) (a hi lo : Nat) : Nat := bitsOf (s.actv a).toNat hi lo

def State.bit (s : State) (a n : Nat) : Bool := s.fld a n n == 1

def State.setBit (s : State) (a n : Nat) (b : Bool) : State := s.setFld a n n b.toNat

/-- Adds to a 32-bit counter, which wraps (R283). -/
def State.addTo (s : State) (a n : Nat) : State := s.wrN a (s.nat a + n)

def State.inc (s : State) (a : Nat) : State := s.addTo a 1

/-- Adds to a counter of `n` bits that stops at its top value. -/
def State.addSat (s : State) (a n v : Nat) : State := s.wrN a (min (s.nat a + v) (2 ^ n - 1))

/-- A counter of 48 bits held in two registers, low word first. -/
def State.nat48 (s : State) (lo hi : Nat) : Nat := s.nat lo + s.fld hi 15 0 * 2 ^ 32

def State.wr48 (s : State) (lo hi v : Nat) : State :=
  (s.wrN lo (v % 2 ^ 32)).wrN hi (v / 2 ^ 32 % 2 ^ 16)

def State.add48 (s : State) (lo hi v : Nat) : State := s.wr48 lo hi (s.nat48 lo hi + v)

/-- The register at `a` as a signed number of 32 bits. -/
def State.int (s : State) (a : Nat) : Int := signedOf 32 (s.nat a)

def State.wrI (s : State) (a : Nat) (i : Int) : State := s.wrN a (unsignedOf 32 i)

/-- Every register from `lo` up to `hi` as at reset. -/
def State.clearRegs (s : State) (lo hi : Nat) : State :=
  s.setRegs (s.regs.filter (fun e => decide (e.1 < lo ∨ hi ≤ e.1)))

/-- Words into consecutive registers from `a`. -/
def State.wrAll (s : State) (a : Nat) : List Word → State
  | [] => s
  | w :: rest => (s.wr a w).wrAll (a + 4) rest

/-! ### Bases of the blocks (R417, R422) -/

def topA (o : Nat) : Nat := o
def hifA (o : Nat) : Nat := 0x10000 + o
def curA (o : Nat) : Nat := 0x20000 + o
def invA (o : Nat) : Nat := 0x30000 + o
def rtsA (o : Nat) : Nat := 0x40000 + o
def chkA (u o : Nat) : Nat := 0x51000 + 0x100 * u + o
def sdlA (o : Nat) : Nat := 0x80000 + o
def refA (r o : Nat) : Nat := 0x90000 + 0x80 * r + o
def dialA (n o : Nat) : Nat := 0xA0000 + 0x200 * n + o
def genA (g o : Nat) : Nat := 0xB0000 + 0x40 * g + o
def ttcA (n o : Nat) : Nat := 0xC0000 + 0x40 * n + o
def sveA (i o : Nat) : Nat := 0x110000 + 0x1000 * i + o
def mapA (r o : Nat) : Nat := 0x600000 + 0x10000 * r + o
def trlA (o : Nat) : Nat := 0x700000 + o
def celA (o : Nat) : Nat := 0x800000 + o
def pairA (i o : Nat) : Nat := 0x801000 + 0x40 * i + o
def slipA (f o : Nat) : Nat := 0x803000 + 0x40 * f + o
def furA (f o : Nat) : Nat := 0x910000 + 0x40 * f + o
def bedA (b o : Nat) : Nat := 0x1000000 + 0x100000 * b + o
def srdA (n o : Nat) : Nat := 0x2000000 + 0x1000 * n + o
/-- SRD instance of the receive lane, and of the transmit lane, of framer `f` (R405). -/
def srdRx (f : Nat) : Nat := if f < 192 then f else 384 + (f - 192)
def srdTx (f : Nat) : Nat := if f < 192 then 192 + f else 576 + (f - 192)
def qdmA (o : Nat) : Nat := 0x3000000 + o
def twnA (o : Nat) : Nat := 0x3100000 + o
def srcA (n o : Nat) : Nat := 0x28000 + 0x20 * n + o

/-- Receive framer `f`: line 0 to 191, system 192 to 383. -/
def rxA (f o : Nat) : Nat := if f < 192 then 0x200000 + 0x1000 * f + o else 0x400000 + 0x1000 * (f - 192) + o

/-- Transmit framer `f`. -/
def txA (f o : Nat) : Nat := if f < 192 then 0x300000 + 0x1000 * f + o else 0x500000 + 0x1000 * (f - 192) + o

/-- MAP tributary `t` of row `r`. -/
def tribA (r t o : Nat) : Nat := mapA r (0x4000 + 0x100 * t + o)

/-- Mailbox `k`: 0 to 3 of HIF, 4 the twin link's push mailbox (R284, R365). -/
def mbA (k o : Nat) : Nat := if k < 4 then 0x11000 + 0x1000 * k + o else 0x3101000 + o

/-! ### Report sources -/

/-- Source of a receive framer: 256 + n line, 448 + n system. -/
def rxSrc (f : Nat) : Nat := 256 + f

/-! ### Sequence-clear events (R270, R419) -/

/-- The bit of [23:1] of SUMMARY that an event in the SQ register at offset `o` sets (R419). -/
def summaryBit (b : Blk) (o : Nat) : Nat :=
  match b with
  | .hif => if o = 0x104 then 1 else 2 + (o - 0x1000) / 0x1000
  | .chk => if o < 0x1500 then 1 else if o < 0x1800 then 2 else 3
  | .sdl =>
    if o < 0x10000 then 1 else if o < 0x20000 then 2
    else if o < 0x30000 then (if o % 0x200 = 0x18 then 3 else 4) else 5
  | .sve => 1 + (o - 0x10000) / 0x1000
  | .lrx => if o = 0x12C then 1 else 2
  | .srx => if o = 0x12C then 1 else 2
  | .map => if o = 0x108 then 1 else 2
  | .cel => if o = 0x104 then 1 else if o < 0x3000 then 2 else 3
  | .fur =>
    if o < 0x10900 then 1 + (o - 0x10000) / 0x40 % 12
    else if o < 0x10940 then 13 else if o < 0x10C00 then 14 else 15
  | .twn => if o = 0x108 then 1 else 2
  | _ => 1

/-- SUMMARY of the instance at `base` takes the event bits of `mask`; its SEQ counts once in a
cycle (R419). -/
def State.summary (s : State) (base mask : Nat) : State :=
  let a := base + 8
  let seq := if s.sumCycle.contains base then s.fld a 31 24 else s.fld a 31 24 + 1
  ((s.setFld a 31 24 seq).setFld a 23 0 (Nat.lor (s.fld a 23 0) mask)).setSumCycle (if s.sumCycle.contains base then s.sumCycle else base :: s.sumCycle)

/-- The SQ register at `a` takes an event on bit `b`, and SUMMARY of its instance with it
(R270, R419). -/
def State.event (s : State) (a b : Nat) : State :=
  let s1 := (s.setFld a 31 24 (s.fld a 31 24 + 1)).setFld a b b 1
  match blockOf a with
  | none => s1
  | some (blk, _, base) => s1.summary base (1 + 2 ^ summaryBit blk (a - base))

/-- A write of `v` to the SQ register at `a` (R270). -/
def State.sqWrite (s : State) (a : Nat) (v : Word) : State :=
  if v.toNat / 2 ^ 24 = s.fld a 31 24 then s.setFld a 23 0 0 else s.inc (hifA 0x108)

/-! ### Free values -/

/-- A value that the manual leaves undefined, and the state with it drawn. -/
def State.draw (s : State) : Nat × State := (Config.freeValue s.free, (s.setFree (s.free + 1)))

/-! ### Condition reports (R285 to R287, R297) -/

/-- The shadow is open: its block is in reset, or SHADOW_SETTLE has not passed since (R297). -/
def Shadow.open_ (h : Shadow) (t : Nat) : Bool := match h.closesAt with | none => true | some e => decide (t < e)

/-- Whether `src` lies under an open shadow (R297). -/
def State.shadowed (s : State) (src : Nat) : Bool :=
  s.cur.shadows.any (fun h => h.open_ s.now && h.covers.contains src)

/-- Bit `kind` of CONSEQ_KINDS (R297). -/
def State.conseqKind (s : State) (kind : Nat) : Bool := s.bit (curA (0x220 + kind / 32 * 4)) (kind % 32)

/-- Bit `kind` of REACT_KINDS (R292). -/
def State.reactKind (s : State) (kind : Nat) : Bool := s.bit (curA (0x200 + kind / 32 * 4)) (kind % 32)

/-- A report that finds its source's queue full is dropped (R287). -/
def State.dropReport (s : State) (src : Nat) : State :=
  let s := ((s.inc (srcA src 0x14)).inc (curA 0x130)).event (curA 0x104) 4
  s.setCur { s.cur with overflow := if s.cur.overflow.contains src then s.cur.overflow
                                            else src :: s.cur.overflow }

/-- Open shadows over `src` count a report marked CONSEQUENTIAL (R297, R302). -/
def markShadows (t src : Nat) (hs : List Shadow) : List Shadow :=
  hs.map (fun h => if h.open_ t && h.covers.contains src then { h with marked := h.marked + 1 } else h)

/-- `src` raises a report: SEQUENCE advances, and the report enters the intake queue of four or is
dropped (R286, R287). -/
def State.raiseAs (s : State) (src kind : Nat) (clear : Bool) (detail : Nat) (forced : Bool) : State :=
  let seq := s.fld (srcA src 0x0C) 7 0
  let q := Tab.get s.cur.intake [] src
  let conseq := s.shadowed src && s.conseqKind kind
  let s := s.setFld (srcA src 0x0C) 7 0 (seq + 1)
  if q.length ≥ 4 then s.dropReport src
  else
    let r : Report := { src := src, kind := kind, clear := clear, detail := detail % 2 ^ 32, seq := seq,
                        forced := forced, conseq := conseq }
    s.setCur { s.cur with
        intake := Tab.set s.cur.intake [] src (q ++ [r]),
        shadows := if conseq then markShadows s.now src s.cur.shadows else s.cur.shadows }

def State.raise (s : State) (src kind : Nat) (clear : Bool) (detail : Nat) : State :=
  s.raiseAs src kind clear detail false

/-- Whether a condition reported at most `n` times a second may be reported now, with the state that
counts it.  A second begins at the first report in it (assumption 4). -/
def State.rate (s : State) (key n : Nat) : Bool × State :=
  let (start, k) := Tab.get s.cur.rates (0, 0) key
  if k = 0 ∨ start + secNs ≤ s.now then
    (true, (s.setCur { s.cur with rates := Tab.set s.cur.rates (0, 0) key (s.now, 1) }))
  else if k < n then
    (true, (s.setCur { s.cur with rates := Tab.set s.cur.rates (0, 0) key (start, k + 1) }))
  else (false, s)

/-- A report of a kind that is reported at most `n` times a second; `sub` tells apart the objects of
one source that are limited each for itself.  Occurrences past the limit are not raised (R286). -/
def State.raiseLim (s : State) (n sub src kind : Nat) (clear : Bool) (detail : Nat) : State :=
  match s.rate ((sub * 1024 + src) * 256 + kind) n with
  | (true, s) => s.raise src kind clear detail
  | (false, s) => s

/-- Occurrences of the last second, newest first, by ms and number; one more at `t` ms. -/
def secondAt (t : Nat) (l : List (Nat × Nat)) : List (Nat × Nat) :=
  let l := l.filter (fun e => decide (t < e.1 + 1000))
  match l with
  | (u, n) :: rest => if u = t then (t, n + 1) :: rest else (t, 1) :: l
  | [] => [(t, 1)]

/-- How many they are. -/
def secondCount (l : List (Nat × Nat)) : Nat := (l.map (·.2)).sum

/-! ### Bytes of QDR and of the boot flash -/

/-- What a QDR byte that nothing has written reads as. DESIGN CHOICE (assumption 2). -/
def qdrEmpty : Byte := 0x00

/-- What a flash byte that nothing has written reads as. DESIGN CHOICE (assumption 2). -/
def flashEmpty : Byte := 0xFF

/-- The canonical form of a byte memory. -/
def Memory.wf (empty : Byte) (m : List Host.Cell) : Bool := Tab.wf (fun _ => empty) m

def Memory.read (empty : Byte) (m : List Host.Cell) (a : Nat) : Byte := Tab.get m empty a

def Memory.write (empty : Byte) (m : List Host.Cell) (a : Nat) (v : Byte) : List Host.Cell :=
  Tab.set m empty a v

/-- The bytes `bs` written from `a` upward. -/
def Memory.writeAll (empty : Byte) (m : List Host.Cell) (a : Nat) : List Byte → List Host.Cell
  | [] => m
  | b :: rest => Memory.writeAll empty (Memory.write empty m a b) (a + 1) rest

def Memory.readAll (empty : Byte) (m : List Host.Cell) (a : Nat) : Nat → List Byte
  | 0 => []
  | n + 1 => Memory.read empty m a :: Memory.readAll empty m (a + 1) n

/-- The 128 MiB of QDR (R371). -/
def qdrSize : Nat := 2 ^ 27

def State.qdrByte (s : State) (a : Nat) : Byte := Memory.read qdrEmpty s.qdr (a % qdrSize)

def State.qdrSet (s : State) (a : Nat) (v : Byte) : State :=
  s.setQdr (Memory.write qdrEmpty s.qdr (a % qdrSize) v)

/-- Bytes written to QDR from `a` upward. -/
def State.qdrPut (s : State) (a : Nat) (bs : List Byte) : State :=
  s.setQdr (Memory.writeAll qdrEmpty s.qdr a bs)

def State.qdrGet (s : State) (a n : Nat) : List Byte := Memory.readAll qdrEmpty s.qdr a n

def State.flashPut (s : State) (a : Nat) (bs : List Byte) : State :=
  s.setFlash (Memory.writeAll flashEmpty s.flash a bs)

def State.flashGet (s : State) (a n : Nat) : List Byte := Memory.readAll flashEmpty s.flash a n

/-- A 32-bit word as four bytes, least significant first, and back. -/
def leBytes (w : Nat) : List Byte :=
  [BitVec.ofNat 8 w, BitVec.ofNat 8 (w / 256), BitVec.ofNat 8 (w / 65536),
   BitVec.ofNat 8 (w / 16777216)]

def beBytes (w : Nat) : List Byte := (leBytes w).reverse

def leNat : List Byte → Nat
  | [] => 0
  | b :: rest => b.toNat + 256 * leNat rest

def beNat (bs : List Byte) : Nat := leNat bs.reverse

/-! ### What leaves the part, and how a command ends -/

def State.emit (s : State) (m : OutMsg) : State := s.setOutbox (s.outbox ++ [m])

/-- A command's outcome: its effect on everything but the queue and the part's own clock. -/
def done (s t : State) : Host.Outcome State Fault Refusal :=
  .next (((t.setNow s.now).setPending s.pending).setSumCycle [])

end Sys2Proof.Machine
end

