-- ==== Sys2Proof/Machine/InvOps.lean ====
section
/-! DEFINITION. Inventory: counters, what a counter may be set to count, counting, wraps, and the
scheduled instant (R315 to R324). -/

namespace Sys2Proof.Machine

def cntA (c o : Nat) : Nat := invA (0x2000 + 0x20 * c + o)

/-- The clock domain of counter `c` (R315). -/
def cntDomain (c : Nat) : Nat :=
  if c < 128 then 0 else if c < 232 then 1 else if c < 240 then 2 else if c < 336 then 1 else if c < 340 then 3 else 4

def State.count (s : State) (c : Nat) : Nat := s.nat48 (cntA c 8) (cntA c 0xC)
def State.setCount (s : State) (c n : Nat) : State := s.wr48 (cntA c 8) (cntA c 0xC) n

/-- Events that the block of counter `c` lists, the occupancies among them, and the largest SELECT; 255 of
the Cellar means all (R317, R319). -/
def cntEvents (c : Nat) : Nat × List Nat :=
  if c < 128 then (22, [15, 16]) else if c < 224 then (13, [13]) else if c < 232 then (11, [11])
  else if c < 240 then (8, [7, 8]) else if c < 336 then (7, [7]) else if c < 340 then (8, []) else (9, [])

def selectOk (c ev sel : Nat) : Bool :=
  if c < 128 then ev == 15 || decide (sel ≤ 32)
  else if c < 224 then decide (6 ≤ ev ∧ ev ≤ 9) || decide (sel < 32 ∨ sel = 32)
  else if c < 232 then decide (2 ≤ ev ∧ ev ≤ 5) || ev == 11 || decide (sel < 96 ∨ sel = 255)
  else if c < 240 then decide (sel ≤ 8)
  else if c < 336 then decide (sel ≤ 3)
  else if c < 340 then
    (if ev = 2 ∨ ev = 3 then decide (sel < 84) else if ev = 5 ∨ ev = 6 then decide (sel < 16)
     else if ev = 7 ∨ ev = 8 then decide (sel < 96) else true)
  else decide (2 ≤ ev ∧ ev ≤ 5) || decide (sel ≤ 4)

/-- The setting of counter `c` is not refused (R317). -/
def State.cntValid (s : State) (c : Nat) : Bool :=
  let w := s.nat (cntA c 0)
  let ev := bitsOf w 7 0
  let (top, occ) := cntEvents c
  decide (ev ≤ top) && (bitsOf w 8 8 == 0 || occ.contains ev || ev == 0) && (ev == 0 || selectOk c ev (bitsOf w 23 16))

/-- The counter counts: EN, RUN in effect, a setting that is not refused (R317). -/
def State.cntOn (s : State) (c : Nat) : Bool :=
  s.bit (cntA c 0) 9 && Tab.get s.inv.runOn true (cntDomain c) && s.cntValid c

/-- The flag, event and report of a wrap (R323). -/
def State.cntWrapNote (s : State) (c : Nat) : State :=
  let s := (s.setBit (cntA c 0) 12 true).event (invA 0x108) 1
  if s.bit (cntA c 0) 10 then s.raiseLim 1000 0 98 0xA8 false c else s

/-- A wrap; with SKID a bed counter takes PRELOAD and owes a sample (R323). -/
def State.cntWrap (s : State) (c : Nat) : State :=
  let s := s.cntWrapNote c
  if c < 128 ∧ s.bit (cntA c 0) 11 then
    let s := s.setCount c (s.nat48 (cntA c 0x18) (cntA c 0x1C))
    s.setInv { s.inv with skidDue := s.inv.skidDue ++ [c] }
  else s

/-- Counter `c` adds `n`. -/
def State.cntAdd (s : State) (c n : Nat) : State :=
  let v := s.count c + n
  let s := s.setCount c (v % 2 ^ 48)
  if v < 2 ^ 48 then s else s.cntWrap c

/-- Whether counter `c` counts an event `ev` on the unit that `sel` names first; `sel` names second the SELECT
that means every unit, and is none where SELECT is ignored (R317, R319). -/
def State.tallies (s : State) (c ev : Nat) (sel : Option (Nat × Nat)) : Bool :=
  s.cntOn c && s.fld (cntA c 0) 7 0 == ev && !s.bit (cntA c 0) 8 &&
    (match sel with
     | some (x, all) => s.fld (cntA c 0) 23 16 == x || s.fld (cntA c 0) 23 16 == all
     | none => true)

/-- `n` events `ev` of the block whose `k` counters begin at `base` (R317, R319). -/
def State.tally (s : State) (base k ev n : Nat) (sel : Option (Nat × Nat)) : State :=
  if n = 0 then s
  else (List.range k).foldl (fun s i => if s.tallies (base + i) ev sel then s.cntAdd (base + i) n else s) s

/-- Events of a bed, by engine (R319). -/
def State.tallyBed (s : State) (b eng ev n : Nat) : State := s.tally (8 * b) 8 ev n (some (eng, 32))
/-- Events of a row, by row channel index (R83). -/
def State.tallyRow (s : State) (r j ev n : Nat) : State := s.tally (128 + 8 * r) 8 ev n (some (j, 32))
/-- Bus words of a row, whatever SELECT says. -/
def State.tallyBus (s : State) (r ev n : Nat) : State := s.tally (128 + 8 * r) 8 ev n none
/-- Events of a merge pair. -/
def State.tallyPair (s : State) (i ev n : Nat) : State := s.tally 224 8 ev n (some (i, 255))
/-- Bank events of the Cellar and slips, whatever SELECT says. -/
def State.tallyCel (s : State) (ev n : Nat) : State := s.tally 224 8 ev n none
def State.tallyQdm (s : State) (d ev n : Nat) : State := s.tally 232 8 ev n (some (d, 8))
def State.tallySdl (s : State) (unit ev n : Nat) : State := s.tally 336 4 ev n (some (unit, 256))
def State.tallyHif (s : State) (ev n : Nat) : State := s.tally 340 4 ev n none
def State.tallyMb (s : State) (k ev n : Nat) : State := if k < 4 then s.tally 340 4 ev n (some (k, 4)) else s

/-- Events of furrow `F` in its row's group (R315, R319). -/
def State.tallyFur (s : State) (F ev n : Nat) : State :=
  if F < 36 then s.tally (240 + 8 * (F % 12)) 8 ev n (some (F / 12, 3)) else s

/-! ### Settings (R317, R318) -/

/-- A write of CNT_CFG. -/
def State.cntCfgWrite (s : State) (c : Nat) (v : Word) : State :=
  let a := cntA c 0
  let old := s.nat a
  let new := putBits (putBits old 11 0 v.toNat) 23 16 (v.toNat / 65536)
  let new := if c < 128 then new else putBits new 11 11 0
  let s := s.wrN a new
  let s := if bitsOf old 8 0 = bitsOf new 8 0 ∧ bitsOf old 23 16 = bitsOf new 23 16 then s else s.setCount c 0
  if s.cntValid c then s else (s.event (invA 0x108) 4).raise 98 0x0B false a

/-- CNT_CTRL: CLEAR, then LOAD; either clears OVF (R318, R323). -/
def State.cntClear (s : State) (c : Nat) : State := (s.setCount c 0).setBit (cntA c 0) 12 false
def State.cntLoad (s : State) (c : Nat) : State :=
  (s.setCount c (s.nat48 (cntA c 0x18) (cntA c 0x1C))).setBit (cntA c 0) 12 false
def State.cntClearAll (s : State) : State := (List.range 344).foldl (fun s c => s.cntClear c) s

/-! ### The scheduled instant (R322) -/

/-- Whether the domain's clock runs (R27). -/
def State.domainRuns (s : State) (d : Nat) : Bool :=
  match d with
  | 0 => !s.top.failed.contains .engine
  | 1 => !s.top.failed.contains .core
  | 2 => !s.top.failed.contains .qdr
  | 3 => !s.top.failed.contains .sundial && !s.top.failed.contains .osc
  | _ => !s.top.failed.contains .hostClk

/-- A snapshot is due at S, `lead` ns from now; ignored while one is pending. -/
def State.snapAsk (s : State) (lead : Nat) : State :=
  if s.inv.snapAt.isSome then s
  else (s.setInv { s.inv with snapAt := some (s.now + lead), copied := [] }).setBit (invA 0x104) 0 true

/-- A write of INV_CTRL.RUN; one that changes it takes effect at S. -/
def State.runAsk (s : State) (on : Bool) : State :=
  if s.bit (invA 0x100) 4 = on then s
  else
    ((s.setInv { s.inv with runAt := some (s.now + 2 * usNs) }).setBit (invA 0x100) 4 on).setBit
      (invA 0x104) 1 true

/-- A scheduled instant has come. -/
def State.instantPast (s : State) (t : Option Nat) : Bool := match t with | some t => decide (t ≤ s.now) | none => false

/-- Step 3 in domain `d`: its counters copy into their shadows, and take the new RUN. -/
def State.snapDomain (s : State) (d : Nat) : State :=
  let s := if s.instantPast s.inv.snapAt && !s.inv.copied.contains d then
      let s := ((List.range 344).filter (fun c => cntDomain c == d)).foldl
        (fun s c => s.wr48 (cntA c 0x10) (cntA c 0x14) (s.count c)) s
      s.setInv { s.inv with copied := d :: s.inv.copied }
    else s
  if s.instantPast s.inv.runAt then
    s.setInv { s.inv with runOn := Tab.set s.inv.runOn true d (s.bit (invA 0x100) 4) }
  else s

/-- The domains that still have the old RUN. -/
def State.runLate (s : State) : List Nat :=
  (List.range 5).filter (fun d => Tab.get s.inv.runOn true d != s.bit (invA 0x100) 4)

/-- Step 4 for a change of RUN. -/
def State.runDone (s : State) : State :=
  match s.inv.runAt with
  | none => s
  | some t =>
    let late := s.runLate
    let s := if late.isEmpty then (s.setInv { s.inv with runAt := none }) else s
    if late.isEmpty ∨ t + 10 * usNs ≤ s.now then s.setBit (invA 0x104) 1 false else s

/-- Step 4 for a snapshot whose domains have copied or had their 10 µs; `ts` is the time of dial 0 at S. -/
def State.snapFinish (s : State) (putTs : State → State) : State :=
  let stale := (List.range 5).filter (fun d => !s.inv.copied.contains d)
  let mask := (stale.map (fun d => 2 ^ (8 + d))).sum
  let s := putTs (s.inc (invA 0x10C))
  let s := (s.event (invA 0x108) 0).setFld (invA 0x104) 12 8 (mask / 256)
  let s := if stale.isEmpty then s else (s.event (invA 0x108) 2).raise 98 0xA9 false mask
  (s.setInv { s.inv with snapAt := none, copied := [] }).setBit (invA 0x104) 0 false

/-- A block reset of Inventory: counts and their OVF flags, shadows, both rings of every bed with their positions, status
and SNAP_TS (R296, R316; that RD returns to 0 with WR is DEDUCED, assumption 53). -/
def State.invReset (s : State) : State :=
  let s := (List.range 344).foldl (fun s c => ((s.cntClear c).wrN (cntA c 0x10) 0).wrN (cntA c 0x14) 0) s
  let s := (List.range 16).foldl (fun s b =>
    (s.clearRegs (invA (0x6004 + 0x800 * b)) (invA (0x6014 + 0x800 * b))).clearRegs (invA (0x6100 + 0x800 * b)) (invA (0x6800 + 0x800 * b))) s
  let s := (s.clearRegs (invA 0x104) (invA 0x108)).clearRegs (invA 0x110) (invA 0x11C)
  let on := s.bit (invA 0x100) 4
  let runOn := (List.range 5).foldl (fun t d => Tab.set t true d on) ([] : Tab Bool)
  s.setInv { Inv.init with runOn := runOn }

end Sys2Proof.Machine
end

