-- ==== Sys2Proof/Machine/HifOps.lean ====
section
/-! DEFINITION. What every access shares: blocks held in reset, the reports of HIF, MSI-X vectors
(R264, R267, R274, R282, R390). -/

namespace Sys2Proof.Machine

/-- Boot step after which the block has left reset (R390): the value of `top.boot` from which it
answers. -/
def leavesReset (b : Blk) : Nat :=
  match b with
  | .top => 2
  | .hif => 2
  | .rts => 2
  | .cur => 2
  | .qdm => 4
  | .cel => 5
  | _ => 7

/-- Whether a block reset of source `src` holds the register at `a` in reset (R296). -/
def resetCovers (src a : Nat) : Bool :=
  match blockOf a with
  | none => false
  | some (b, inst, base) =>
    let o := a - base
    match b with
    | .hif => src == 64
    | .chk => decide (66 ≤ src) && decide (src < 98) && decide (0x1000 ≤ o) && (o - 0x1000) / 0x100 == src - 66
    | .inv => src == 98
    | .sve => decide (228 ≤ src) && decide (src < 244) && decide (0x10000 ≤ o) && (o - 0x10000) / 0x1000 == src - 228
    | .lrx => src == 256 + inst
    | .srx => src == 448 + inst
    | .qdm => decide (656 ≤ src) && decide (src < 672)
    | .map => src == 672 + inst
    | .ltx => src == 672 + inst / 16
    | .stx => src == 672 + inst / 16
    | .trl => src == 684
    | .cel => src == 685
    | .twn => decide (800 ≤ src) && decide (src < 832)
    | _ => false

/-- The register at `a` belongs to a block held in reset (R267). -/
def State.inReset (s : State) (a : Nat) : Bool :=
  match blockOf a with
  | none => false
  | some (b, _, _) =>
    decide (s.top.boot < leavesReset b) || (s.rts.held350 && decide (2 < leavesReset b)) ||
      s.cur.blockResets.any (fun r => resetCovers r.src a)

/-- HIF is out of reset. -/
def State.hifLive (s : State) : Bool := !s.inReset (hifA 0)

/-- The link carries messages: up, and HOST_CLK runs (R264). -/
def State.linkCarries (s : State) : Bool := s.bit (hifA 0x100) 0 && !s.top.failed.contains .hostClk

/-- The cause of vector `v` rises: sent, or held pending while masked or while the link cannot carry
it; nothing while HIF is in reset (R264). -/
def State.msix (s : State) (v : Nat) : State :=
  if s.hifLive = false then s
  else if s.bit (hifA (0x800C + 16 * v)) 0 || !s.linkCarries then s.setBit (hifA (0x9000 + v / 32 * 4)) (v % 32) true
  else (s.emit (.msix v)).tallyHif 7 1

/-- An event of HIF_EVENTS; vector 10 follows where its bit was 0 and so sets (R264, R270, R283). -/
def State.hifEvent (s : State) (b : Nat) : State :=
  if s.bit (hifA 0x104) b then s.event (hifA 0x104) b else (s.event (hifA 0x104) b).msix 10

/-- Kinds 0x80 to 0x84 of R282: event bit, counter, LAST_FAULT, and the report, at most 1,000 times a
second. -/
def State.hifReport (s : State) (kind detail : Nat) : State :=
  let k := kind - 0x80
  ((((s.hifEvent k).inc (hifA (0x10C + 4 * k))).wrN (hifA 0x120) detail).tallyHif 6 1).raiseLim 1000 0 64 kind false detail

/-- Detail of a report about BAR0 byte address `a`, with the origin of the access (R274, R282). -/
def accessDetail (o : Origin) (a : Nat) : Nat :=
  match o with
  | .host => a % 2 ^ 26
  | .program b => a % 2 ^ 26 + 2 ^ 26 + b.val * 2 ^ 27

def State.accessShape (s : State) (detail : Nat) : State := s.hifReport 0x80 detail
def State.accessTimeout (s : State) (o : Origin) (a : Nat) : State := s.hifReport 0x81 (accessDetail o a)
def State.lockedWrite (s : State) (o : Origin) (a : Nat) : State := s.hifReport 0x82 (accessDetail o a)

/-- The register at `a` holds a field of the types that programs may not write (R201). -/
def guarded (a : Nat) : Bool :=
  (fieldsAt a).any (fun r => r.ty == .k || r.ty == .kc || r.ty == .wo || r.ty == .key)

end Sys2Proof.Machine
end

