-- ==== Sys2Proof/Machine/Access.lean ====
section
/-! DEFINITION. Register writes by type: reachability, keys, and the field rules of R269, R271. -/

namespace Sys2Proof.Machine

/-- A request of the host reaches the part: HIF is out of reset and the link carries it (R263). -/
def State.hostReaches (s : State) : Bool := s.hifLive && s.linkCarries

/-- A host write to the register at `a` that passed the shape rules: unanswered where the host does not
reach the part (R263); in the TOP region, discarded with a pending complement pair that it breaks
(R272); discarded and reported where the block is in reset (R267); else `f`. -/
def State.hostTo (s : State) (a : Nat) (f : State → State) : State :=
  if !s.hostReaches then s
  else
    let s := s.tallyHif 3 1
    if decide (a < 0x10000) && s.top.kc.isSome then
      (s.setTop { s.top with kc := none }).hifReport 0x84 a
    else if s.inReset a then s.accessTimeout .host a
    else f s

/-- KEY of the block at `base` is armed (R271). -/
def State.armed (s : State) (base : Nat) : Bool := s.bit (base + 0xFC) 0

def State.setArm (s : State) (base : Nat) (b : Bool) : State := s.setBit (base + 0xFC) 0 b

/-- Base of the block instance that `a` lies in. -/
def baseOf (a : Nat) : Nat := match blockOf a with | some (_, _, base) => base | none => 0

/-- A write to a register that holds K fields: it consumes the arm, or meets the lock and is reported
(R269, R271).  True when the K fields act. -/
def State.kGate (s : State) (o : Origin) (a : Nat) : Bool × State :=
  if s.armed (baseOf a) then (true, s.setArm (baseOf a) false) else (false, s.lockedWrite o a)

/-- A written value brought into the field's range (R42, R67, R260, R352). -/
def FieldRow.brought (r : FieldRow) (v : Nat) : Nat :=
  match r.clamp with
  | none => v
  | some (lo, hi) => if v < lo then lo else if hi < v then hi else v

/-- Whether a plain write stores into the field; K fields only with the arm (R269). -/
def FType.stores (t : FType) (armed : Bool) : Bool :=
  match t with
  | .rw => true
  | .sw => true
  | .staged => true
  | .sdi => true
  | .level => true
  | .srdTx => true
  | .srdRx => true
  | .k => armed
  | _ => false

/-- The register's fields that a write of `v` changes, applied field by field (R269). -/
def writeFields (armed : Bool) (v : Nat) : List FieldRow → Nat → Nat
  | [], old => old
  | r :: rest, old =>
    writeFields armed v rest
      (if r.ty.stores armed then putBits old r.hi r.lo (r.brought (bitsOf v r.hi r.lo)) else old)

/-- The RW (and, with `armed`, K) fields at `a` take the written value (R269). -/
def State.store (s : State) (a : Nat) (v : Word) (armed : Bool) : State :=
  s.wrN a (writeFields armed v.toNat (fieldsAt a) (s.nat a))

end Sys2Proof.Machine
end

