-- ==== Sys2Proof/Machine/Furrows.lean ====
section
/-! DEFINITION. Furrows: items, admission, notices, flush and routing (R243 to R257). -/

namespace Sys2Proof.Machine

def State.fur (s : State) (F : Nat) : Furrow := Tab.get s.furs (Furrow.init F) F

def State.setFur (s : State) (F : Nat) (f : Furrow) : State :=
  s.setFurs (Tab.set s.furs (Furrow.init F) F f)

/-- The source that reports for furrow `F` (R259). -/
def furSrc (F : Nat) : Nat :=
  if F < 36 then 736 + F % 12 else if F = 36 then 748 else if F < 43 then 749 + (F - 37) % 3
  else 752 + (F - 48)

/-- Whether `F` names a furrow (R243). -/
def furExists (F : Nat) : Bool := decide (F < 43 ∨ 48 ≤ F ∧ F < 64)

/-- Words of published items not yet freed (R246). -/
def occupancy (items : List Item) : Nat := (items.map (fun i => 1 + i.words.length)).sum

/-- The items of `F` that are not released (R207). -/
def Furrow.unreleased (f : Furrow) : List Item := f.items.drop f.rel

/-- Writes what FUR_STATUS and HWM show of the furrow (R260). -/
def State.showFur (s : State) (F : Nat) : State :=
  let n := occupancy (s.fur F).items
  let s := (s.setFld (furA F 0x08) 10 0 n).setBit (furA F 0x08) 12 ((s.fur F).owner != 0)
  if s.fld (furA F 0x0C) 10 0 < n then s.setFld (furA F 0x0C) 10 0 n else s

def State.noticed (s : State) (F : Nat) : Bool := s.bit (furA F 0x08) 11

/-- A notice (R251, R252). -/
def State.notice (s : State) (F : Nat) : State :=
  (((s.setBit (furA F 0x08) 11 true).inc (furA F 0x20)).event (furA F 0x28) 0).tallyFur F 5 1

/-- The event kind of furrow `F` in the bed that it feeds (R206, R244). -/
def furKind (f : Furrow) (F : Nat) : Nat :=
  if F < 12 then 0x10 + 2 * f.pair else if F < 24 then 0x11 + 2 * f.pair
  else if F = 36 then 0x19 else if F < 40 then 5 + (F - 37) else 0x18

/-- NOTICED clears, and with it what a first aborted run left (R252, R205). -/
def State.unnotice (s : State) (F : Nat) : State :=
  let f := s.fur F
  let b := Tab.get s.beds Bed.init f.bed
  (s.setBit (furA F 0x08) 11 false).setBeds (Tab.set s.beds Bed.init f.bed { b with redo := b.redo.filter (· ≠ furKind f F) })

/-- An item that does not fit is dropped whole (R249). -/
def State.dropItem (s : State) (F prod len : Nat) : State :=
  let f := s.fur F
  let s := (((s.inc (furA F 0x14)).addTo (furA F 0x18) (1 + len)).event (furA F 0x28) 1).tallyFur F 4 1
  let f := { f with dropped := if f.dropped.contains prod then f.dropped else prod :: f.dropped,
                    drops := secondAt (s.now / msNs) f.drops }
  (s.setFur F f).raiseLim 1 F (furSrc F) 0x70 false (F + min (secondCount f.drops) 65535 * 65536)

/-- Free words of furrow `F`. -/
def State.furRoom (s : State) (F : Nat) : Nat := furCapacity F - occupancy (s.fur F).items

/-- Producer `prod` publishes an item of KIND `kind`; FLAGS[9:8] are set here (R246, R249, R251,
R253).  True when it was published. -/
def State.publish (s : State) (F prod kind : Nat) (stamped : Bool) (words : List Half) : Bool × State :=
  let f := s.fur F
  let len := words.length
  if s.furRoom F < 1 + len then (false, s.dropItem F prod len)
  else
    let fl9 := f.dropped.contains prod
    let fl8 := f.flushed && !f.sinceFlush.contains prod
    let hdr := kind % 16 * 4096 + stamped.toNat * 1024 + fl9.toNat * 512 + fl8.toNat * 256 + len
    let item : Item := { header := BitVec.ofNat 16 hdr, prod := prod, words := words, at_ := s.now }
    let before := occupancy f.items
    let level := s.fld (furA F 0x00) 10 0
    let f := { f with items := f.items ++ [item], dropped := f.dropped.filter (· ≠ prod),
                      sinceFlush := if fl8 then prod :: f.sinceFlush else f.sinceFlush }
    let s := ((((s.setFur F f).showFur F).inc (furA F 0x10)).tallyFur F 2 1).tallyFur F 3 (1 + len)
    (true, if before ≤ level ∧ level < before + 1 + len then s.notice F else s)

/-- The commit of the owner's releases: words return to the producers (R204), ownership ends, and
NOTICED clears where R252 says; `own` is true for a handler of the furrow's own kind. -/
def State.commitFur (s : State) (own : Bool) (F : Nat) : State :=
  let f := s.fur F
  let left := f.items.drop f.rel
  let s := (s.setFur F { f with items := left, rel := 0, rpItem := 0, rpOff := 0, owner := 0 }).showFur F
  if left.isEmpty && (own || decide (0 < occupancy f.items)) then s.unnotice F else s

/-- An abort rewinds the furrow to the last committed release (R205). -/
def State.rewindFur (s : State) (F : Nat) : State :=
  (s.setFur F { s.fur F with rel := 0, rpItem := 0, rpOff := 0, owner := 0 }).showFur F

/-- The furrows that context `key` owns. -/
def State.owned (s : State) (key : Nat) : List Nat :=
  (List.range 64).filter (fun F => (s.fur F).owner == key + 1)

def State.framer (s : State) (f : Nat) : Framer := Tab.get s.framers Framer.init f
def State.setFramer (s : State) (f : Nat) (x : Framer) : State :=
  s.setFramers (Tab.set s.framers Framer.init f x)

def State.mapOhOf (s : State) (r : Nat) : OhX := Tab.get s.mapOh OhX.mapInit r
def State.setMapOh (s : State) (r : Nat) (x : OhX) : State :=
  s.setMapOhTab (Tab.set s.mapOh OhX.mapInit r x)

/-- A flush of an overhead furrow forgets what its producers last delivered (R253, R57). -/
def State.forgetOh (s : State) (F : Nat) : State :=
  if 24 ≤ F then s
  else
    let base := if F < 12 then 16 * F else 192 + 16 * (F - 12)
    let s := (List.range 16).foldl (fun s j =>
      let x := s.framer (base + j)
      s.setFramer (base + j) { x with oh := { x.oh with last := [] } }) s
    if F < 12 then s.setMapOh F { s.mapOhOf F with last := [] } else s

/-- Hardware producers of a furrow, each of which may be mid-item: a program's items are built outside it (R243,
R253). -/
def hwProducers (F : Nat) : Nat := if F < 12 then 96 else if F < 24 then 16 else if 36 ≤ F ∧ F < 40 then 1 else 0

/-- Steps 3 to 5 of a flush (R253); `mid` items of producers that were mid-item are discarded. -/
def State.flushNow (s : State) (F mid : Nat) : State :=
  let f := s.fur F
  let n := f.items.length + min mid (hwProducers F)
  let s := s.setFur F { f with items := [], rel := 0, rpItem := 0, rpOff := 0, dropped := [],
                               flushed := true, sinceFlush := [] }
  let s := ((((s.showFur F).addTo (furA F 0x1C) n).unnotice F).forgetOh F).tallyFur F 6 1
  ((s.setBit (furA F 0x08) 13 false).event (furA F 0x28) 2).raise (furSrc F) 0x73 false
    (F + min n 65535 * 65536)

/-- FLUSH written: FLUSH_PENDING sets (R253 step 1). -/
def State.flushAsk (s : State) (F : Nat) : State :=
  if furExists F && !s.bit (furA F 0x08) 13 then s.setBit (furA F 0x08) 13 true else s

/-- FUR_CTRL.HWM_CLR: HWM takes the present occupancy (R260). -/
def State.hwmClr (s : State) (F : Nat) : State :=
  if furExists F then s.setFld (furA F 0x0C) 10 0 (occupancy (s.fur F).items) else s

def routeA (r : Nat) : Nat := 0x900200 + 4 * r

/-- ROUTE written for row `r`: refused while one is pending or where another row has the same
written BED and PAIR (R254). -/
def State.routeWrite (s : State) (r bed pair : Nat) : State :=
  let clash := (List.range 12).any (fun q => q != r && s.fld (routeA q) 3 0 == bed && s.fld (routeA q) 4 4 == pair)
  if clash || s.bit (routeA r) 8 then s.raise (furSrc r) 0x0B false (routeA r)
  else
    let f := s.fur r
    (((s.setFld (routeA r) 3 0 bed).setFld (routeA r) 4 4 pair).setBit (routeA r) 8 (f.bed != bed || f.pair != pair)).setFur r
      { f with routeAt := s.now + msNs }

/-- A takeover or activation rewrites the BED of row `r`, keeping PAIR; never refused (R254). -/
def State.routeForce (s : State) (r bed : Nat) : State :=
  let f := s.fur r
  let was := s.bit (routeA r) 8
  ((s.setFld (routeA r) 3 0 bed).setBit (routeA r) 8 (f.bed != bed || f.pair != s.fld (routeA r) 4 4)).setFur r
    { f with routeAt := if was then f.routeAt else s.now + msNs }

/-- The written route of row `r` can take effect: no other row still has that bed and pair in effect,
and no handler owns the row's overhead furrows (R254). -/
def State.routeFree (s : State) (r : Nat) : Bool :=
  let bed := s.fld (routeA r) 3 0
  let pair := s.fld (routeA r) 4 4
  !(List.range 12).any (fun q => q != r && (s.fur q).bed == bed && (s.fur q).pair == pair) &&
    (s.fur r).owner == 0 && (s.fur (12 + r)).owner == 0

/-- Points furrow `F` at its new consumer; it is NOTICED at once if it holds an item (R254). -/
def State.moveFur (s : State) (F bed pair : Nat) : State :=
  let s := s.setFur F { s.fur F with bed := bed, pair := pair }
  if (s.fur F).items.isEmpty || s.noticed F then s else s.notice F

/-- The bed now written for a Sundial or mailbox request furrow (R191, R281). -/
def State.writtenBed (s : State) (F : Nat) : Option Nat :=
  if F = 36 then some (s.fld (sdlA 0x124) 3 0)
  else if 37 ≤ F ∧ F < 40 then some (s.fld (hifA (0x200 + 4 * (F - 36))) 3 0)
  else none

/-- A Sundial or mailbox furrow moves to the bed written for it, where no handler owns it and no flush waits (R254). -/
def State.moveUnowned (s : State) (F : Nat) : State :=
  match s.writtenBed F with
  | none => s
  | some b =>
    if b ≠ (s.fur F).bed ∧ (s.fur F).owner = 0 ∧ s.bit (furA F 0x08) 13 = false then s.moveFur F b 0 else s

/-- The pending route of row `r` takes effect (R254). -/
def State.routeNow (s : State) (r : Nat) : State :=
  let bed := s.fld (routeA r) 3 0
  let pair := s.fld (routeA r) 4 4
  let s := (s.moveFur r bed pair).moveFur (12 + r) bed pair
  (s.setFur (24 + r) { s.fur (24 + r) with bed := bed, pair := pair }).setBit (routeA r) 8 false

/-- The route takes effect if its time has come, nothing holds it, and no flush waits with it (R254). -/
def State.routeTry (s : State) (r : Nat) : State :=
  if s.bit (routeA r) 8 && decide ((s.fur r).routeAt ≤ s.now) && s.routeFree r && !s.bit (furA r 0x08) 13 &&
      !s.bit (furA (12 + r) 0x08) 13 then s.routeNow r else s

/-- A move of a bed to which row `r` is routed notes the frame edge (R347 step 5). -/
def State.moveEdge (s : State) (r : Nat) : State :=
  s.beds.foldl (fun s e => match e.2.move with
    | some m => if m.why = 1 ∧ m.stage = 1 ∧ (s.fur r).bed = m.old then
        s.setBeds (Tab.set s.beds Bed.init e.1 { e.2 with move := some { m with edge := true } }) else s
    | none => s) s

/-- A frame edge delivered by a framer of row `r`: a route written before it takes effect from now on (R254, R347). -/
def State.routeEdge (s : State) (r : Nat) : State :=
  let s := s.moveEdge r
  if s.bit (routeA r) 8 then (s.setFur r { s.fur r with routeAt := min (s.fur r).routeAt s.now }).routeTry r else s

/-- Input furrow `f` of bed `b`, with its number F (R244). -/
def State.inFur (s : State) (b f : Nat) : Option Nat :=
  if f < 4 then
    ((List.range 12).map (· + f % 2 * 12)).find? (fun F => (s.fur F).bed == b && (s.fur F).pair == f / 2)
  else if f = 8 then some (48 + b)
  else if f = 9 then (if (s.fur 36).bed = b then some 36 else none)
  else if 13 ≤ f ∧ f < 16 then (if (s.fur (24 + f)).bed = b then some (24 + f) else none)
  else none

/-- Output furrow `g` of bed `b`, the mail furrows apart (R244). -/
def State.outFur (s : State) (b g : Nat) : Option Nat :=
  if g < 2 then
    ((List.range 12).map (· + 24)).find? (fun F => (s.fur F).bed == b && (s.fur F).pair == g)
  else if 13 ≤ g ∧ g < 16 then (if (s.fur (24 + g)).bed = b then some (27 + g) else none)
  else none

/-- The producer index that the consumer of furrow `F` reads for local number `p` (R245). -/
def producerIndex (f : Furrow) (F p : Nat) : Nat := if F < 24 ∧ p < 112 then 128 * f.pair + p else p

end Sys2Proof.Machine
end

