-- ==== Sys2Proof/Machine/Qdr.lean ====
section
/-! DEFINITION. QDR main memory: codewords and their errors, the ports, reads and writes
(R371 to R380). -/

namespace Sys2Proof.Machine

/-- Codeword number of a byte address, and its device (R371). -/
def codewordOf (a : Nat) : Nat := a / 64
def deviceOf (cw : Nat) : Nat := cw % 8

def devA (d o : Nat) : Nat := qdmA (0x1000 + 0x100 * d + o)

/-- QDM answers: it has left reset and QDR_CLK runs (R27, R380). -/
def State.qdrUp (s : State) : Bool := s.bit (qdmA 0x104) 24 && !s.top.failed.contains .qdr

/-- The port, 0 A or 1 B, that an access meant for port `p` of device `d` uses: the other one while
`p` retrains or when it failed calibration (R372, R380). -/
def State.portOf (s : State) (d p : Nat) : Nat :=
  if s.now < Tab.get s.qdm.retraining 0 (2 * d + p) ∨ s.bit (qdmA 0x104) (2 * d + p) = false then 1 - p
  else p

/-- Erroneous bytes of codeword `cw`. -/
def State.cwErrs (s : State) (cw : Nat) : List Nat := Tab.get s.qdm.errs [] cw

/-- The codeword cannot be corrected: more than four bytes err, or its device has failed (R374,
R380). -/
def State.cwBad (s : State) (cw : Nat) : Bool :=
  decide (4 < (s.cwErrs cw).length) || s.bit (qdmA 0x104) (16 + deviceOf cw)

def State.setErrs (s : State) (cw : Nat) (es : List Nat) : State :=
  s.setQdm { s.qdm with errs := Tab.set s.qdm.errs [] cw es }

/-- One pin's record of one read through port `p` of device `d` (R379). -/
def State.pinRead (s : State) (d p : Nat) (errPins : List Nat) (pin : Nat) : State :=
  let key := (2 * d + p) * 36 + pin
  let errA := devA d (0x08 + 8 * p + pin / 32 * 4)
  let deadA := devA d (0x18 + 8 * p + pin / 32 * 4)
  let dead := s.bit deadA (pin % 32)
  if errPins.contains pin then
    let n := Tab.get s.qdm.pinErr 0 key + 1
    let s := s.setBit errA (pin % 32) true
    let s := s.setQdm { s.qdm with pinErr := Tab.set s.qdm.pinErr 0 key n,
                                          pinOk := Tab.set s.qdm.pinOk 0 key 0 }
    if !dead && decide (max 1 (s.fld (qdmA 0x120) 15 0) ≤ n) then
      ((s.setBit deadA (pin % 32) true).event (qdmA 0x108) 2).raise (656 + d) 0xD2 false (pin + 64 * p)
    else s
  else
    let n := Tab.get s.qdm.pinOk 0 key + 1
    let s := s.setQdm { s.qdm with pinErr := Tab.set s.qdm.pinErr 0 key 0 }
    if dead then
      if 4096 ≤ n then
        ((s.setQdm { s.qdm with pinOk := Tab.set s.qdm.pinOk 0 key 0 }).setBit deadA (pin % 32)
          false).raise (656 + d) 0xD2 true (pin + 64 * p)
      else s.setQdm { s.qdm with pinOk := Tab.set s.qdm.pinOk 0 key n }
    else s

/-- A read of codeword `cw` through port `p` is recorded by QDM: pins, corrected and uncorrectable
codewords (R375, R376, R379). -/
def State.cwRead (s : State) (cw p : Nat) : State :=
  let d := deviceOf cw
  let q := s.portOf d p
  let es := s.cwErrs cw
  let s := s.tallyQdm d 2 1
  if s.cwBad cw then
    let s := s.tallyQdm d 5 1
    (((s.inc (devA d 0x04)).wrN (qdmA 0x11C) (cw * 64)).event (qdmA 0x108) 1).raiseLim 1000 0 (656 + d)
      0xD1 false (cw * 64)
  else
    let s := (List.range 36).foldl (fun s pin => s.pinRead d q (es.map (· / 2)) pin) s
    if es.isEmpty then s
    else
      let s := ((s.inc (devA d 0x00)).event (qdmA 0x108) 0).tallyQdm d 4 1
      let l := secondAt (s.now / msNs) (Tab.get s.qdm.corrs [] d)
      (s.setQdm { s.qdm with corrs := Tab.set s.qdm.corrs [] d l }).raiseLim 1 0 (656 + d) 0xD0 false
        (min (secondCount l) (2 ^ 32 - 1))

/-- The data of a read within one codeword as the device gives them: where the codeword cannot be corrected, the bytes in
error, all of a failed device, are free values (R268, R376). -/
def State.asRead (s : State) (a : Nat) : Nat → List Byte × State
  | 0 => ([], s)
  | n + 1 =>
    let cw := codewordOf a
    let bad := s.cwBad cw && ((s.cwErrs cw).contains (a % 64) || s.bit (qdmA 0x104) (16 + deviceOf cw))
    let (v, s) := if bad then let (r, s) := s.draw; (BitVec.ofNat 8 r, s) else (s.qdrByte a, s)
    let (bs, s) := s.asRead (a + 1) n
    (v :: bs, s)

/-- A partial write within one codeword: read, corrected, merged and written back; discarded where
the codeword is uncorrectable (R375, R376). -/
def State.cwWrite (s : State) (p a : Nat) (bs : List Byte) : State :=
  let cw := codewordOf a
  let bad := s.cwBad cw
  let s := s.cwRead cw p
  if bad then s else ((s.setErrs cw []).qdrPut a bs).tallyQdm (deviceOf cw) 3 1

/-- A write of the whole codeword at byte address `64·cw`, without a read (R375). -/
def State.cwWriteWhole (s : State) (cw : Nat) (bs : List Byte) : State :=
  ((s.setErrs cw []).qdrPut (64 * cw) (bs.take 64)).tallyQdm (deviceOf cw) 3 1

/-- Far word `w` of R197: bits [7:0] at byte 2w (R371). -/
def State.farWord (s : State) (w : Nat) : Half :=
  BitVec.ofNat 16 ((s.qdrByte (2 * w)).toNat + 256 * (s.qdrByte (2 * w + 1)).toNat)

def halfBytes (h : Half) : List Byte := [h.setWidth 8, (h >>> 8).setWidth 8]

/-- A 32-bit little-endian word of QDR. -/
def State.qdrWord (s : State) (a : Nat) : Nat := leNat (s.qdrGet a 4)

/-- LOG_QBASE and the other fixed regions of R381. -/
def imageArea (k : Nat) : Nat := 0x0400000 * k
def stagingBase : Nat := 0x0800000
def mirrorBase : Nat := 0x0C00000
def ringBase : Nat := 0x0D00000
/-- Word base of context backing area `k` (R382). -/
def backingWord (k : Nat) : Nat := 0x0780000 + 0x080000 * k

/-- The region of R381 that a byte address lies in. -/
def qdrRegion (a : Nat) : Nat :=
  if a < 0x0400000 then 0 else if a < 0x0800000 then 1 else if a < 0x0C00000 then 2
  else if a < 0x0D00000 then 3 else if a < 0x0F00000 then 4 else if a < 0x1000000 then 5
  else if a < 0x1100000 then 6 else if a < 0x3000000 then 7 else if a < 0x4000000 then 8 else 9

end Sys2Proof.Machine
end

