-- ==== Sys2Proof/Machine/Time.lean ====
section
/-! DEFINITION. Dial time, as the state holds it between changes of a dial's frequency
(R174, R176): exact, in units of 2^-16 ns divided by 256·10^9. -/

namespace Sys2Proof.Machine

/-- Units in 2^-16 ns. -/
def unitsPerSub : Nat := 256000000000

def State.dial (s : State) (n : Nat) : Dial := Tab.get s.dials Dial.init n

def State.setDial (s : State) (n : Nat) (d : Dial) : State :=
  s.setDials (Tab.set s.dials Dial.init n d)

/-- Whether Sundial runs: step 1 of the boot is over, OSC_SEL is valid, and neither SUNDIAL_CLK nor
OSC_IN has failed (R390, R387, R27). -/
def State.sundialRuns (s : State) : Bool :=
  decide (2 ≤ s.top.boot) && !s.bit (topA 0x334) 3 && !s.top.failed.contains .sundial &&
    !s.top.failed.contains .osc

/-- Sundial's own time in ns: SUNDIAL_CLK cycles of 1.25 ns since it started (R136, R174). -/
def State.sdlNow (s : State) : Nat := if s.sundialRuns then s.sdlNs + (s.now - s.sdlFrom) else s.sdlNs

/-- The 24-bit count of SUNDIAL_CLK cycles that the rows receive (R176). -/
def State.count24 (s : State) : Nat := s.sdlNow * 4 / 5 % 2 ^ 24

/-- ns between two records on the time furrows, 2^16 cycles (R176). -/
def recordNs : Nat := 81920

/-- A policy register of SDL as in effect (R141). -/
def State.pol (s : State) (a : Nat) : Word := Tab.get s.policy (regReset a) a

def State.polFld (s : State) (a hi lo : Nat) : Nat := bitsOf (s.pol a).toNat hi lo

/-- Time of dial `n`, in the units of this file, at `t` ns of Sundial's time, for the frequency it has now. -/
def Dial.unitsAt (d : Dial) (t : Nat) : Nat := d.timeU + (t - d.since) * 65536 * (unitsPerSub + d.y).toNat

/-- Time of dial `n` in the units of this file. -/
def State.dialUnits (s : State) (n : Nat) : Nat := (s.dial n).unitsAt s.sdlNow

/-- The last record that the time furrows sent of dial `n`, at a count that is a multiple of 2^16: its time and its
frequency.  A row reconstructs from it what `dialUnits` gives (R176). -/
def State.timeRecord (s : State) (n : Nat) : Nat × Int :=
  let d := s.dial n
  let at_ := s.sdlNow / recordNs * recordNs
  if d.since ≤ at_ then (d.unitsAt at_, d.y) else d.record

/-- Time of dial `n` in 2^-16 ns. -/
def State.dialSub (s : State) (n : Nat) : Nat := s.dialUnits n / unitsPerSub

/-- Time of dial `n` in ns. -/
def State.dialNs (s : State) (n : Nat) : Nat := s.dialSub n / 65536

/-- Brings the time of dial `n`, and its frequency sum (R172), up to now, so that its frequency can change. -/
def State.rebase (s : State) (n : Nat) : State :=
  let d := s.dial n
  s.setDial n { d with timeU := s.dialUnits n, since := s.sdlNow, record := s.timeRecord n,
                       ySum := d.ySum + d.y * ((s.sdlNow - d.since : Nat) : Int) }

/-- Sets the time of dial `n`. -/
def State.setDialUnits (s : State) (n u : Nat) : State :=
  let s := s.rebase n
  s.setDial n { s.dial n with timeU := u }

/-- Sets the frequency of dial `n`, in 1/256 ppb. -/
def State.setY (s : State) (n : Nat) (y : Int) : State :=
  let s := s.rebase n
  s.setDial n { s.dial n with y := y }

/-- Time of dial `n` in 2^-16 ns at an instant given in 2^-16 ns of Sundial's time (R174). -/
def State.dialAt (s : State) (n at_ : Nat) : Int :=
  let d := s.dial n
  ((d.timeU : Int) + ((at_ : Int) - d.since * 65536) * (unitsPerSub + d.y)) / unitsPerSub

/-- The six words TS0 to TS5 of a time in 2^-16 ns (R236). -/
def tsWords (sub : Nat) : List Half :=
  let ns := sub / 65536
  let sec := ns / secNs
  [BitVec.ofNat 16 sub, BitVec.ofNat 16 (ns % secNs), BitVec.ofNat 16 (ns % secNs / 65536),
   BitVec.ofNat 16 sec, BitVec.ofNat 16 (sec / 65536), BitVec.ofNat 16 (sec / 4294967296)]

/-- A short time: seconds [7:0], nanoseconds, sub-nanoseconds [15:6] (R186). -/
def shortTime (sub : Nat) : Nat :=
  let ns := sub / 65536
  ns / secNs % 256 * 2 ^ 40 + ns % secNs * 2 ^ 10 + sub % 65536 / 64

/-- TIME_NS and TIME_SEC of a log entry, with LAP 0 (R288). -/
def State.logTime (s : State) : Nat × Nat :=
  let ns := s.dialNs 0
  (ns % secNs, ns / secNs % 2 ^ 32)

end Sys2Proof.Machine
end

