-- ==== Sys2Proof/Machine/Beds.lean ====
section
/-! DEFINITION. Beds: contexts, their backing, aborts, bed faults and takeover (R195 to R216), and
the moves of a live activation, which work on the same beds (R347, R348). -/

namespace Sys2Proof.Machine

/-! ### Beds and contexts -/

def State.bed (s : State) (b : Nat) : Bed := Tab.get s.beds Bed.init b
def State.setBed (s : State) (b : Nat) (x : Bed) : State := s.setBeds (Tab.set s.beds Bed.init b x)

/-- Key of a hardware context: (bed · 32 + engine) · 4 + context. -/
def keyOf (c : CtxId) : Nat := (c.bed.val * 32 + c.eng.val) * 4 + c.ctx.val

def keyBed (k : Nat) : Nat := k / 128
def keyEng (k : Nat) : Nat := k / 4 % 32

def State.ctx (s : State) (k : Nat) : Ctx := Tab.get s.ctxs Ctx.init k
def State.setCtx (s : State) (k : Nat) (x : Ctx) : State := s.setCtxs (Tab.set s.ctxs Ctx.init k x)

/-- Engine `g` = bed · 32 + engine, and the present cycle of bed `b` (R195, R242). -/
def State.engine (s : State) (g : Nat) : Engine := Tab.get s.engines Engine.init g
def State.setEngine (s : State) (g : Nat) (x : Engine) : State := s.setEngines (Tab.set s.engines Engine.init g x)
def State.cycle (s : State) (b : Nat) : Cycle := Tab.get s.cycles Cycle.init b
def State.setCycle (s : State) (b : Nat) (x : Cycle) : State := s.setCycles (Tab.set s.cycles Cycle.init b x)

/-- BED_STATUS.ROLE (R221): 0 EMPTY, 1 SPARE, 2 RUNNING, 3 LOADING, 4 FAULTED, 5 MIGRATING. -/
def State.role (s : State) (b : Nat) : Nat := s.fld (bedA b 0x104) 2 0
def State.setRole (s : State) (b r : Nat) : State := s.setFld (bedA b 0x104) 2 0 r
def State.lbed (s : State) (b : Nat) : Nat := s.fld (bedA b 0x104) 7 4
def State.setLbed (s : State) (b l : Nat) : State := s.setFld (bedA b 0x104) 7 4 l

/-- The bed RUNNING under logical number `l` (R209). -/
def State.byLbed (s : State) (l : Nat) : Option Nat :=
  (List.range 16).find? (fun b => s.role b == 2 && s.lbed b == l)

/-- The spare that a takeover or a move uses: the lowest-numbered bed with ROLE SPARE (R215, R347). -/
def State.spareBed (s : State) : Option Nat := (List.range 16).find? (fun b => s.role b == 1)

/-- Programs run: the boot is over and ENGINE_CLK runs (R27, R390). -/
def State.enginesRun (s : State) : Bool := s.top.boot == 8 && !s.top.failed.contains .engine

def State.retired (s : State) (b e : Nat) : Bool := s.bit (bedA b (0x2000 + 0x20 * e)) 8

/-- The keys of bed `b`'s contexts that hold a handler. -/
def State.activeKeys (s : State) (b : Nat) : List Nat :=
  ((List.range 128).map (· + 128 * b)).filter (fun k => (s.ctx k).active)

/-- Microseconds since the bed last started (R198). -/
def State.bedUsec (s : State) (b : Nat) : Nat := (s.now - (s.bed b).startedAt) / usNs

/-! ### Memories of a bed (R197, R221): two words a register, the lower in bits [15:0] -/

def State.half (s : State) (a w : Nat) : Half :=
  BitVec.ofNat 16 (if w % 2 = 0 then s.fld (a + w / 2 * 4) 15 0 else s.fld (a + w / 2 * 4) 31 16)

def State.setHalf (s : State) (a w : Nat) (v : Half) : State :=
  if w % 2 = 0 then s.setFld (a + w / 2 * 4) 15 0 v.toNat else s.setFld (a + w / 2 * 4) 31 16 v.toNat

def State.progWord (s : State) (b w : Nat) : Half := s.half (bedA b 0x40000) (w % 32768)
def State.sharedWord (s : State) (b w : Nat) : Half := s.half (bedA b 0x60000) w
def State.ctxWord (s : State) (b w : Nat) : Half := s.half (bedA b 0x80000) w

/-- A store to word `i` of context `c`; the line is marked dirty (R204, R228). -/
def State.setCtxWord (s : State) (b c i : Nat) (v : Half) : State :=
  let s := (s.setHalf (bedA b 0x80000) (512 * c + i) v).setBit (bedA b (0x1600 + 4 * c)) 1 true
  let x := s.bed b
  s.setBed b { x with dirty := Tab.set x.dirty 0 c (Nat.lor (Tab.get x.dirty 0 c) (2 ^ (i / 32))) }

/-- `len` bytes of QDR from `q` into the registers from `a`, each word little-endian. -/
def State.copyIn (s : State) (q a len : Nat) : State :=
  (List.range ((len + 3) / 4)).foldl (fun s k =>
    s.wrN (a + 4 * k) (leNat (s.qdrGet (q + 4 * k) (min 4 (len - 4 * k))))) s

/-- Registers `a` to `a + 4n − 4` of one bed into another. -/
def State.copyRegs (s : State) (src dst n : Nat) : State :=
  (List.range n).foldl (fun s k => s.wr (dst + 4 * k) (s.rd (src + 4 * k))) s

/-! ### Loading from an image in QDR (R333, R339) -/

/-- Entry of logical bed `l` in the image at QDR byte address `base`. -/
def bedEntry (base l : Nat) : Nat := base + 0x100 + 0x80 * l

/-- Program memory and handler table (R333). -/
def State.loadCode (s : State) (b base l : Nat) : State :=
  let e := bedEntry base l
  let s := (s.clearRegs (bedA b 0x40000) (bedA b 0x50000)).clearRegs (bedA b 0x1000) (bedA b 0x1400)
  let s := s.copyIn (base + s.qdrWord e) (bedA b 0x40000) (s.qdrWord (e + 4))
  s.copyIn (base + s.qdrWord (e + 8)) (bedA b 0x1000) (s.qdrWord (e + 12))

/-- WDOG clamped as R211 stores it. -/
def wdogValue (v : Nat) : Nat := min (bitsOf v 9 0) 1000 + min (bitsOf v 29 16) 10000 * 65536

/-- The bed settings of an entry; `back` is the backing area's word base (R333, R382). -/
def State.loadSettings (s : State) (b base l back : Nat) : State :=
  let e := bedEntry base l
  let s := s.wrN (bedA b 0x10C) (wdogValue (s.qdrWord (e + 0x28)))
  let s := s.wrN (bedA b 0x110) (s.qdrWord (e + 0x2C) % 2 ^ 14)
  let s := s.setFld (bedA b 0x100) 4 4 (s.qdrWord (e + 0x30) / 16)
  let s := s.setFld (bedA b 0x114) 25 0 (back + s.qdrWord (e + 0x34))
  let s := (s.setFld (bedA b 0x118) 25 0 (s.qdrWord (e + 0x38))).setFld (bedA b 0x11C) 25 0 (s.qdrWord (e + 0x3C))
  s.copyIn (e + 0x40) (bedA b 0x120) 16

/-- CTX_BIND and PROD_MAP of an entry; a length of 0 leaves them at reset (R333). -/
def State.loadTables (s : State) (b base l : Nat) : State :=
  let e := bedEntry base l
  let s := (s.clearRegs (bedA b 0x1400) (bedA b 0x1500)).clearRegs (bedA b 0x1800) (bedA b 0x1C00)
  let s := s.copyIn (base + s.qdrWord (e + 0x10)) (bedA b 0x1400) (s.qdrWord (e + 0x14))
  s.copyIn (base + s.qdrWord (e + 0x18)) (bedA b 0x1800) (s.qdrWord (e + 0x1C))

/-- The initial shared memory of an entry, loaded for INIT with argument 0 only (R333). -/
def State.loadShared (s : State) (b base l : Nat) : State :=
  let e := bedEntry base l
  (s.clearRegs (bedA b 0x60000) (bedA b 0x80000)).copyIn (base + s.qdrWord (e + 0x20)) (bedA b 0x60000)
    (s.qdrWord (e + 0x24))

/-- All 64 contexts from backing copies at far word `w` (R215). -/
def State.loadContexts (s : State) (b w : Nat) : State := s.copyIn (2 * w) (bedA b 0x80000) 65536

/-- Context `c` of bed `b` from its backing copy (R205). -/
def State.restoreCtx (s : State) (b c : Nat) : State :=
  s.copyIn (2 * (s.fld (bedA b 0x114) 25 0 + 512 * c)) (bedA b (0x80000 + 0x400 * c)) 1024

/-- The 64 bytes of line `ln` of context `c`. -/
def State.lineBytes (s : State) (b c ln : Nat) : List Byte :=
  (List.range 32).flatMap (fun i => halfBytes (s.ctxWord b (512 * c + 32 * ln + i)))

/-- Writes the lines of `mask` of context `c` to the backing copy (R204 step 2). -/
def State.writeLines (s : State) (b c mask : Nat) : State :=
  (List.range 16).foldl (fun s ln =>
    if mask.testBit ln then
      s.cwWriteWhole (2 * (s.fld (bedA b 0x114) 25 0 + 512 * c + 32 * ln) / 64) (s.lineBytes b c ln)
    else s) s

/-- The bed starts anew: engines unretired, event queue, timers and semaphores empty, BED_USEC from
now, and INIT pending with `arg` (R206, R213, R215). -/
def State.startBed (s : State) (b arg : Nat) (mv : Option Move) (area : Nat) : State :=
  let s := s.clearRegs (bedA b 0x2000) (bedA b 0x2400)
  let s := s.setFld (bedA b 0x104) 13 8 0
  s.setBed b { Bed.init with initPending := some (BitVec.ofNat 16 arg), startedAt := s.now, move := mv,
                             area := area }

/-! ### The end of a handler (R200, R204, R205) -/

/-- Semaphores that context `key` holds are released and counted (R200). -/
def State.releaseSems (s : State) (b key : Nat) : State :=
  let x := s.bed b
  let held := x.sems.filter (fun e => e.2 == key + 1)
  (s.setBed b { x with sems := x.sems.filter (fun e => e.2 != key + 1) }).addTo (bedA b 0x154) held.length

/-- The hardware context becomes idle and its channel context free (R204 step 4). -/
def State.idleCtx (s : State) (key : Nat) : State :=
  let b := keyBed key
  let x := s.ctx key
  let s := match x.bound with
    | some c => (s.setBit (bedA b (0x1600 + 4 * c)) 0 false).setBit (bedA b (0x1600 + 4 * c)) 2 false
    | none => s
  (s.setBit (bedA b (0x2000 + 0x20 * keyEng key)) (key % 4) false).setCtx key
    { Ctx.init with epoch := x.epoch, winWrites := x.winWrites }

/-- Whether a handler of the pending kind `kind` is active in bed `b` (R207). -/
def State.kindActive (s : State) (b kind : Nat) : Bool :=
  (s.activeKeys b).any (fun k => (s.ctx k).ev.kind == kind)

/-! ### Chip reset and halting, as a bed fault can ask for them (R299, R348) -/

/-- A chip reset begins: BOOT kind and causing source (R299, R391).  One in progress stands
(R393). -/
def State.askReset (s : State) (kind src : Nat) : State :=
  match s.cur.chipReset with
  | some _ => s
  | none => s.setCur { s.cur with chipReset := some (kind, src, s.now) }

def State.actState (s : State) : Nat := s.fld (rtsA 0x100) 10 8
def State.setAct (s : State) (v : Nat) : State := s.setFld (rtsA 0x100) 10 8 v

/-- The bed that is being loaded by a live activation or fallback. -/
def State.movingBed (s : State) : Option Nat :=
  (List.range 16).find? (fun b => match (s.bed b).move with | some m => m.why != 0 | none => false)

/-- The step in progress is abandoned: the loaded bed is cleared to SPARE unless it is the faulted
one, and an old bed in MIGRATING resumes dispatch (R348). -/
def State.abandonMove (s : State) (faulted nb : Nat) : State :=
  match (s.bed nb).move with
  | none => s
  | some m =>
    let s := s.setBed nb { s.bed nb with move := none, initPending := none }
    let s := if nb = faulted then s else s.setRole nb 1
    if m.why = 1 ∧ m.old ≠ faulted ∧ s.role m.old = 5 then s.setRole m.old 2 else s

/-- A bed fault during steps 2 to 8 of a live activation halts it (R348). -/
def State.haltFor (s : State) (b : Nat) : State :=
  if s.actState = 1 ∨ s.actState = 2 then
    let s := match s.movingBed with
      | some nb =>
        let old := match (s.bed nb).move with | some m => m.old | none => 16
        if nb = b ∨ old = b then s.abandonMove b nb else s
      | none => s
    ((s.setAct 5).event (rtsA 0x104) 5).raise 65 0xBB false (s.fld (rtsA 0x100) 15 12)
  else s

/-! ### Takeover (R215, R216, R255) -/

def State.takeoverImpossible (s : State) (b reason : Nat) : State :=
  (s.event (bedA b 0x108) 4).raise (640 + b) 0x27 false reason

/-- A faulted bed that held a program is taken over, or the reason is reported why not
(R215, R216). -/
def State.tryTakeover (s : State) (b : Nat) : State :=
  if s.actState = 4 then (s.takeoverImpossible b 3).askReset 2 65
  else if s.bit (bedA b 0x100) 4 = false then s.takeoverImpossible b 2
  else match s.spareBed with
    | none => s.takeoverImpossible b 1
    | some sp =>
      let s := (s.setRole sp 3).setLbed sp (s.lbed b)
      let s := s.setBed sp { Bed.init with move := some { old := b, stage := 1, why := 0, at_ := s.now, edge := false } }
      s.flushAsk (48 + b)

/-! ### Abort (R205, R212, R213) -/

/-- What an abort does to a context besides its report: furrow reads rewound, semaphores released,
the bound channel context restored or marked TORN, everything else abandoned (R205). -/
def State.dropHandler (s : State) (key : Nat) : State :=
  let b := keyBed key
  let x := s.ctx key
  let s := (s.tallyBed b (keyEng key) 8 1).tallyBed b (keyEng key) 9 x.issued
  let s := (s.owned key).foldl State.rewindFur s
  let s := s.releaseSems b key
  let s := match x.bound with
    | none => s
    | some c =>
      let st := bedA b (0x1600 + 4 * c)
      if s.bit st 3 then s.setBit st 4 true
      else
        let y := s.bed b
        ((s.restoreCtx b c).setBed b { y with dirty := Tab.set y.dirty 0 c 0 }).setBit st 1 false
  s.idleCtx key

/-- The event of an aborted handler is dispatched once more: a queue event returns to the front of
the queue, a pending kind stays pending (R205). -/
def State.redispatch (s : State) (b : Nat) (x : Ctx) : State :=
  let y := s.bed b
  if 0x40 ≤ x.ev.kind then s.setBed b { y with evq := { x.ev with again := true } :: y.evq }
  else if x.ev.kind = 1 then s.setBed b { y with notice := some x.ev.arg, redo := 1 :: y.redo }
  else s.setBed b { y with redo := x.ev.kind :: y.redo }

/-- Engine `e` is retired (R213); true when that is one more than the bed bears (R214). -/
def State.retire (s : State) (b e : Nat) : State :=
  if s.retired b e then s
  else
    let s := (s.setBit (bedA b (0x2000 + 0x20 * e)) 8 true).setFld (bedA b 0x104) 13 8 (s.fld (bedA b 0x104) 13 8 + 1)
    (s.event (bedA b 0x108) 1).raise (640 + b) 0x24 false e

/-- A bed fault (R214).  Cause 0 is an uncorrectable shared-memory word: reported, ROLE unchanged. -/
def State.bedFault (s : State) (b cause : Nat) : State :=
  if cause = 0 then (s.event (bedA b 0x108) 2).raise (640 + b) 0x25 false 0
  else if s.role b = 4 then s
  else
    let old := s.role b
    let mv := (s.bed b).move
    let s := s.setRole b 4
    let s := (s.activeKeys b).foldl (fun s k => (s.dropHandler k).inc (bedA b 0x144)) s
    let y := s.bed b
    let s := s.setBed b { y with evq := [], timers := [], initPending := none, notice := none, redo := [] }
    let s := (s.event (bedA b 0x108) 2).raise (640 + b) 0x25 false cause
    let s := s.haltFor b
    match old, mv with
    | 3, some m =>
      let s := s.setBed b { s.bed b with move := none }
      if m.why = 0 then s.takeoverImpossible m.old 1
      else if s.actState = 4 then s.tryTakeover b else s
    | _, _ => if old = 2 ∨ old = 5 then s.tryTakeover b else s

/-- A handler fault with cause `cause` at `pc` (R205, R212, R213, R214). -/
def State.abortCtx (s : State) (key cause : Nat) : State :=
  let b := keyBed key
  let e := keyEng key
  let x := s.ctx key
  let dropped := x.ev.again
  let s := s.dropHandler key
  let s := ((s.inc (bedA b (0x2004 + 0x20 * e))).inc (bedA b 0x144)).wrN (bedA b (0x2008 + 0x20 * e))
    (x.pc.toNat + cause * 65536)
  let s := (s.event (bedA b 0x108) 0).raiseLim 1 e (640 + b) 0x23 false
    (x.pc.toNat + cause * 2 ^ 16 + e * 2 ^ 20 + (dropped && x.ev.kind != 0).toNat * 2 ^ 25)
  let s :=
    if x.ev.kind = 0 then s
    else if dropped then
      match x.evFur with | some F => s.unnotice F | none => s
    else s.redispatch b x
  let y := s.bed b
  let ts := s.now :: (Tab.get y.abortTimes [] e).filter (fun t => decide (s.now < t + secNs))
  let again := cause == 10 && y.parity.contains key
  let s := s.setBed b { y with abortTimes := Tab.set y.abortTimes [] e ts,
                               parity := if cause = 10 then key :: y.parity else y.parity }
  let s := if decide (max 1 (s.fld (bedA b 0x110) 7 0) ≤ ts.length) || again then s.retire b e else s
  if x.ev.kind = 0 then s.bedFault b 4
  else if max 1 (s.fld (bedA b 0x110) 13 8) < s.fld (bedA b 0x104) 13 8 then s.bedFault b 1
  else s

/-! ### Moves of a live activation and fallback (R347, R348) -/

/-- Fields that name bed `old` come to name `nb`: routes, TTC_BED and MB_ROUTE (R215 step 5). -/
def State.rewriteBed (s : State) (old nb : Nat) : State :=
  let s := (List.range 12).foldl (fun s r => if s.fld (routeA r) 3 0 = old then s.routeForce r nb else s) s
  let s := if s.fld (sdlA 0x124) 3 0 = old then (s.setFld (sdlA 0x124) 3 0 nb).moveUnowned 36 else s
  [1, 2, 3].foldl (fun s k =>
    if s.fld (hifA (0x200 + 4 * k)) 3 0 = old then (s.setFld (hifA (0x200 + 4 * k)) 3 0 nb).moveUnowned (36 + k) else s) s

/-- The area of the image that moves load: the incoming one, or the running one in a fallback. -/
def State.moveArea (s : State) : Nat := if s.rts.reverse then s.rts.area else 1 - s.rts.area

/-- Backing area of the moves: the one the running image does not use, or in a fallback the
running image's (R382).  The backing area goes with the image area. -/
def State.moveBacking (s : State) : Nat := s.moveArea

/-- RUNNING_SLOT and RUNNING_VERSION name slot `k` (R352). -/
def State.showRunning (s : State) (k : Nat) : State :=
  (s.setFld (rtsA 0x100) 4 4 k).wrN (rtsA 0x108) (s.nat (rtsA (0x148 + 4 * k)))

/-- Every bed of the trial is back: the trial slot is REJECTED already, the fallback is over and is
reported (R346, R348). -/
def State.endFallback (s : State) : State :=
  let s := match s.rts.trialSlot with | some k => s.showRunning (1 - k) | none => s
  let s := s.setAct 0
  let s := s.setRts { s.rts with reverse := false, toMove := [], trialSlot := none }
  (s.event (rtsA 0x104) 2).raise 65 0xB3 false (s.fld (rtsA 0x134) 2 0)

/-- The next logical bed is moved: its program is loaded into the spare (R347 step 4); with none left
the sequence ends (step 9).  A fallback with no spare waits (R348). -/
def State.nextMove (s : State) : State :=
  match s.rts.toMove with
  | [] =>
    if s.rts.reverse then s.endFallback
    else match s.rts.trialSlot with
      | some k => (s.showRunning k).setAct 3
      | none => s.setAct 3
  | l :: _ =>
    match s.byLbed l, s.spareBed with
    | some old, some sp =>
      let base := imageArea s.moveArea
      let s := ((s.setRole sp 3).setFld (rtsA 0x100) 15 12 l).loadCode sp base l
      s.setBed sp { Bed.init with move := some { old := old, stage := 1, why := 1, at_ := s.now, edge := false }, area := s.moveArea }
    | _, _ => s

/-- The old bed of a move is cleared and becomes SPARE (R347 step 8). -/
def State.freeOld (s : State) (old : Nat) : State :=
  ((s.clearRegs (bedA old 0x40000) (bedA old 0x50000)).setRole old 1).setBed old Bed.init

/-- All 64 contexts of a bed are written to their backing copies (R347 step 7). -/
def State.writeAllContexts (s : State) (b : Nat) : State :=
  (List.range 64).foldl (fun s c => s.writeLines b c 65535) s

def State.dropMove (s : State) : State := s.setRts { s.rts with toMove := s.rts.toMove.drop 1 }

/-- Step 8 of a move: the new bed takes over the routes and runs, the old one becomes SPARE, and the
next bed follows (R347). -/
def State.finishMove (s : State) (nb old : Nat) : State :=
  let s := ((s.writeAllContexts nb).rewriteBed old nb).setRole nb 2
  let s := s.setBed nb { s.bed nb with move := none, dirty := [] }
  let s := (s.freeOld old).dropMove
  if s.actState = 2 then s.nextMove
  else if s.actState = 4 then (if s.rts.toMove.isEmpty then s.endFallback else s.nextMove)
  else s

/-- INIT of bed `b` has ended: what follows depends on why it ran (R215 step 5, R347 steps 3, 8). -/
def State.initEnded (s : State) (b : Nat) : State :=
  match (s.bed b).move with
  | none => s
  | some m =>
    if m.why = 0 then
      (s.rewriteBed m.old b).setBed b { s.bed b with move := some { m with stage := 3 } }
    else if m.why = 1 then s.finishMove b m.old
    else
      -- The settings check: only READ_OK lets the beds move (R347 step 3).
      let s := (s.clearRegs (bedA b 0x40000) (bedA b 0x50000)).setRole b 1
      let s := s.setBed b Bed.init
      if s.fld (rtsA 0x120) 1 0 = 1 then (s.setAct 2).nextMove
      else (s.event (rtsA 0x104) 3).raise 65 0xB4 false (s.nat (rtsA (0x148 + 4 * (s.rts.trialSlot.getD 0))))

/-- Steps 3 and 4 of a commit (R204): released words return, open items are discarded, ownership
ends, the hardware context becomes idle; the end of INIT is acted on. -/
def State.finishHandler (s : State) (key : Nat) : State :=
  let b := keyBed key
  let x := s.ctx key
  let s := (s.owned key).foldl (fun s F => s.commitFur (x.evFur == some F) F) s
  let s := (s.releaseSems b key).idleCtx key
  if x.ev.kind = 0 then s.initEnded b else s

/-- The commit's write-back completes (R204 step 2). -/
def State.writeBack (s : State) (key : Nat) : State :=
  let b := keyBed key
  match (s.ctx key).bound with
  | none => s
  | some c =>
    let st := bedA b (0x1600 + 4 * c)
    let y := s.bed b
    let was := s.bit st 3
    let s := s.writeLines b c (Tab.get y.dirty 0 c)
    let s := s.setBed b { y with dirty := Tab.set y.dirty 0 c 0 }
    let s := ((s.setBit st 1 false).setBit st 2 false).setBit st 3 false |>.setBit st 4 false
    if was && !(List.range 64).any (fun c => s.bit (bedA b (0x1600 + 4 * c)) 3) then
      s.raise (640 + b) 0x2A true c
    else s

/-! ### Dispatch (R202, R203, R206 to R208) -/

def htabA (b kind : Nat) : Nat := bedA b (0x1000 + 4 * kind)

/-- The channel context that an event binds; the second part is true where the binding that the
entry names cannot be made, which is reported (R202, R210). -/
def State.bindOf (s : State) (b : Nat) (ev : Ev) (prod : Option Nat) : Option Nat × Bool :=
  let bind := if ev.bindArg then 2 else s.fld (htabA b ev.kind) 18 17
  let valid := fun c => if s.bit (bedA b (0x1400 + 4 * c)) 31 then (some c, false) else (none, true)
  match bind with
  | 0 => (none, false)
  | 1 => valid (s.fld (htabA b ev.kind) 29 24)
  | 2 => valid (ev.arg.toNat % 64)
  | _ =>
    match prod with
    | none => (none, true)
    | some p =>
      let m := bedA b (0x1800 + 4 * (p % 256))
      if s.bit m 7 then valid (s.fld m 5 0) else (none, true)

/-- Whether the channel context is free for a new handler (R203). -/
def State.ctxFree (s : State) (b : Nat) (c : Option Nat) : Bool :=
  match c with
  | none => true
  | some c => !s.bit (bedA b (0x1600 + 4 * c)) 0 && !s.bit (bedA b (0x1600 + 4 * c)) 2

/-- An event chosen for dispatch: the event, its furrow, the head item's producer, and the bed with
the event taken out. -/
structure Pick where
  ev : Ev
  fur : Option Nat
  prod : Option Nat
  bed : Bed

/-- Input furrows of a bed in ascending order of their event kind: mailboxes, then f. -/
def furOrder : List Nat := [13, 14, 15, 0, 1, 2, 3, 8, 9]

/-- The pending kinds of bed `b` that can be dispatched, in ascending kind: the notice of a faulted
bed, then the furrow kinds that are NOTICED, hold an unreleased item and are not being handled
(R206, R207, R252). -/
def State.pendPicks (s : State) (b : Nat) : List Pick :=
  let y := s.bed b
  let one : List Pick := match y.notice with
    | some a =>
      [{ ev := { Ev.init with kind := 1, arg := a, again := y.redo.contains 1 }, fur := none, prod := none,
         bed := { y with notice := none, redo := y.redo.filter (· ≠ 1) } }]
    | none => []
  one ++ furOrder.filterMap (fun f =>
    match s.inFur b f with
    | none => none
    | some F =>
      let fu := s.fur F
      let kind := furKind fu F
      match fu.unreleased with
      | [] => none
      | it :: _ =>
        if s.noticed F && fu.owner == 0 && !s.kindActive b kind then
          let p := producerIndex fu F it.prod
          some { ev := { Ev.init with kind := kind, sender := BitVec.ofNat 16 p,
                                      arg := BitVec.ofNat 16 (if 13 ≤ f then f - 12 else f),
                                      again := y.redo.contains kind },
                 fur := some F, prod := some p,
                 bed := { y with redo := y.redo.filter (· ≠ kind) } }
        else none)

/-- The events of the queue, each with the queue less it. -/
def queuePicks (y : Bed) : List Ev → List Ev → List Pick
  | _, [] => []
  | before, e :: rest =>
    { ev := e, fur := none, prod := none, bed := { y with evq := before ++ rest } } ::
      queuePicks y (before ++ [e]) rest

/-- The first event of a list that can start now: its entry is not enabled (it will be discarded) or
its context is free (R203, R208). -/
def State.firstPick (s : State) (b : Nat) (ps : List Pick) : Option Pick :=
  ps.find? (fun p => !s.bit (htabA b p.ev.kind) 16 || s.ctxFree b (s.bindOf b p.ev p.prod).1)

/-- The event that bed `b` dispatches next: INIT alone while it waits or runs; else the pending kinds
and the queue in turn (R206, R208). -/
def State.pick (s : State) (b : Nat) : Option (Pick × Bool) :=
  let y := s.bed b
  match y.initPending with
  | some a =>
    some ({ ev := { Ev.init with arg := a }, fur := none, prod := none, bed := { y with initPending := none } }, y.fromQueue)
  | none =>
    if s.kindActive b 0 then none
    else
      let p := s.firstPick b (s.pendPicks b)
      let q := s.firstPick b (queuePicks y [] y.evq)
      match p, q with
      | some p, some q => some (if y.fromQueue then (p, false) else (q, true))
      | some p, none => some (p, false)
      | none, some q => some (q, true)
      | none, none => none

/-- Busy contexts of engine `e`. -/
def State.busyCount (s : State) (b e : Nat) : Nat :=
  ((List.range 4).filter (fun c => (s.ctx (128 * b + 4 * e + c)).active)).length

/-- The engine with the fewest busy contexts, and its lowest idle context (R208). -/
def State.idlePlace (s : State) (b : Nat) : Option Nat :=
  let ok := (List.range 32).filter (fun e => !s.retired b e && decide (s.busyCount b e < 4))
  let best := ok.foldl (fun (m : Option Nat) e =>
    match m with
    | none => some e
    | some e' => if s.busyCount b e < s.busyCount b e' then some e else some e') none
  match best with
  | none => none
  | some e => (((List.range 4).map (· + (128 * b + 4 * e))).find? (fun k => !(s.ctx k).active))

/-- UNHANDLED_EVENT: the event bit and the report (R202, R208). -/
def State.unhandled (s : State) (b kind : Nat) : State :=
  (s.event (bedA b 0x108) 6).raiseLim 1 0 (640 + b) 0x29 false kind

/-- A handler starts on context `key` with the registers of R196. -/
def State.startHandler (s : State) (b key : Nat) (p : Pick) : State :=
  let (c, bad) := s.bindOf b p.ev p.prod
  let w3 : Half := match c with | some c => BitVec.ofNat 16 c | none => 0xFFFF
  let w2 : Half := p.ev.sender
  let lim := if p.ev.kind = 0 then s.fld (bedA b 0x10C) 29 16 else s.fld (bedA b 0x10C) 9 0
  let w := Tab.set (Tab.set (Tab.set (Tab.set [] 0 0 p.ev.arg) 0 1 (BitVec.ofNat 16 p.ev.kind)) 0 2 w2) 0 3 w3
  let x : Ctx := { Ctx.init with active := true, w := w, pc := BitVec.ofNat 15 (s.fld (htabA b p.ev.kind) 14 0),
                                 ev := p.ev, evFur := p.fur, bound := c, started := s.now,
                                 limitNs := max 1 lim * usNs, epoch := s.free,
                                 winWrites := (s.ctx key).winWrites }
  let s := s.setFree (s.free + 1)
  let s := s.setCtx key x
  let e := s.engine (key / 4)
  let s := s.setEngine (key / 4) { e with readyAt := Tab.set e.readyAt 0 (key % 4) 0, yields := Tab.set e.yields ([], 0) (key % 4) ([], 0) }
  let s := s.setBit (bedA b (0x2000 + 0x20 * keyEng key)) (key % 4) true
  let s := match c with | some c => s.setBit (bedA b (0x1600 + 4 * c)) 0 true | none => s
  let s := match p.fur with
    | some F => (s.setFur F { s.fur F with owner := key + 1, rel := 0, rpItem := 0, rpOff := 0 }).showFur F
    | none => s
  let s := if bad then s.unhandled b p.ev.kind else s
  (s.inc (bedA b 0x140)).tallyBed b (keyEng key) 7 1

/-- An event goes to the end of the bed's queue, which has room (R208). -/
def State.enqueue (s : State) (b : Nat) (e : Ev) : State :=
  let y := s.bed b
  let s := s.setBed b { y with evq := y.evq ++ [e] }
  if s.fld (bedA b 0x15C) 10 0 < y.evq.length + 1 then s.setFld (bedA b 0x15C) 10 0 (y.evq.length + 1) else s

def State.queueFull (s : State) (b : Nat) : Bool := decide (1024 ≤ (s.bed b).evq.length)

/-! ### Timers (R210) -/

/-- A fired timer's event: {KIND, ARG} with BIND_ARG. -/
def timerEvent (w2 arg : Half) : Ev :=
  { Ev.init with kind := w2.toNat % 256, arg := arg, bindArg := w2.getLsbD 15 }

/-- The deadline has come, or lay more than 2^31 µs ahead and has passed (R210). -/
def State.timerDue (s : State) (b dl : Nat) : Bool := decide ((s.bedUsec b + 2 ^ 32 - dl % 2 ^ 32) % 2 ^ 32 < 2 ^ 31)

/-- Puts a fired timer's event in the queue.  A KIND below 0x40 names no event of the queue and is
discarded (assumption 12). -/
def State.timerQueue (s : State) (b : Nat) (w2 arg : Half) : State :=
  if w2.toNat % 256 < 0x40 then s else s.enqueue b (timerEvent w2 arg)

/-- Timer `k` fires if it is armed and due: it is disarmed, and its event enters the queue or waits for room. -/
def State.timerFire (s : State) (b k : Nat) : State :=
  let y := s.bed b
  let t := Tab.get y.timers Timer.init k
  match t.armed with
  | none => s
  | some (dl, w2, arg) =>
    if s.enginesRun && s.timerDue b dl then
      let full := s.queueFull b
      let t := { t with armed := none, fired := if full then some (w2, arg) else t.fired }
      let s := s.setBed b { y with timers := Tab.set y.timers Timer.init k t }
      if full then s else s.timerQueue b w2 arg
    else s

/-! ### PROGRAM_COND (R235) -/

/-- Moves the next waiting PROGRAM_COND report into the source's intake queue while it has room. -/
def State.feedConds (s : State) (b : Nat) : State :=
  let y := s.bed b
  match y.conds with
  | [] => s
  | (d, c) :: rest =>
    if (Tab.get s.cur.intake [] (640 + b)).length < 4 then (s.setBed b { y with conds := rest }).raise (640 + b) 0x2F c d
    else s

end Sys2Proof.Machine
end

