-- ==== Sys2Proof/Machine/BedCommands.lean ====
section
/-! DEFINITION. Commands on beds and furrows: timers, faults, takeover, flush and routes (R210, R214
to R216, R221, R251 to R254). -/

namespace Sys2Proof.Machine

/-! ### Timers (R210) -/

def execTimerFire (bed : Fin 16) (k : Fin 512) (s : State) : Host.Outcome State Fault Refusal :=
  done s (s.timerFire bed.val k.val)

/-- A timer that found the queue full enters it as soon as an entry frees. -/
def execTimerEnqueue (bed : Fin 16) (k : Fin 512) (s : State) : Host.Outcome State Fault Refusal :=
  let b := bed.val
  let y := s.bed b
  let t := Tab.get y.timers Timer.init k.val
  done s (match t.fired with
    | none => s
    | some (w2, arg) =>
      if s.queueFull b then s
      else (s.setBed b { y with timers := Tab.set y.timers Timer.init k.val { t with fired := none } }).timerQueue b
        w2 arg)

/-! ### Bed faults, takeover and revival (R214 to R216) -/

/-- REVIVE starts the memory self-test of a faulted bed (R216). -/
def State.revive (s : State) (b : Nat) : State :=
  if s.role b = 4 then s.setBed b { s.bed b with reviving := true } else s

/-- A host write of BED_CTRL: FAIL and TAKEOVER_EN are K, REVIVE acts without the key (R221, R271). -/
def State.bedCtrlWrite (s : State) (o : Origin) (b : Nat) (v : Word) : State :=
  let a := bedA b 0x100
  let (ok, s) := s.kGate o a
  let s := if ok then s.setBit a 4 (v.getLsbD 4) else s
  let s := if v.getLsbD 1 then s.revive b else s
  if ok && v.getLsbD 0 then s.bedFault b 5 else s

def execFail (bed : Fin 16) (val : Word) (s : State) : Host.Outcome State Fault Refusal :=
  done s (s.hostTo (bedA bed.val 0x100) (fun s => s.bedCtrlWrite .host bed.val val))

/-- BED_CTRL written with REVIVE at 1 and its other fields as they stand. -/
def execRevive (bed : Fin 16) (s : State) : Host.Outcome State Fault Refusal :=
  let a := bedA bed.val 0x100
  done s (s.hostTo a (fun s => s.bedCtrlWrite .host bed.val (BitVec.ofNat 32 (2 + s.fld a 4 4 * 16))))

/-- A bed fault that the bed itself finds: 0 shared memory, 2 program memory, 3 dispatcher; cause 1
holds while more engines are retired than BED_FAULT_LIMIT (R214). -/
def execBedFault (bed : Fin 16) (cause : Fin 4) (s : State) : Host.Outcome State Fault Refusal :=
  let b := bed.val
  done s (if s.enginesRun && (cause.val != 1 ||
      decide (max 1 (s.fld (bedA b 0x110) 13 8) < s.fld (bedA b 0x104) 13 8)) then
    s.bedFault b cause.val else s)

/-- Steps 2 to 4 of a takeover: program and handler table from the image the faulted bed ran, the rest
from the faulted bed, contexts from their backing copies, and INIT with argument 1 (R215). -/
def State.takeoverLoad (s : State) (sp : Nat) (m : Move) : State :=
  let old := m.old
  let area := (s.bed old).area
  let s := s.loadCode sp (imageArea area) (s.lbed sp)
  let s := s.copyRegs (bedA old 0x10C) (bedA sp 0x10C) 2
  let s := s.setBit (bedA sp 0x100) 4 (s.bit (bedA old 0x100) 4)
  let s := s.copyRegs (bedA old 0x114) (bedA sp 0x114) 7
  let s := s.copyRegs (bedA old 0x1400) (bedA sp 0x1400) 64
  let s := s.copyRegs (bedA old 0x1800) (bedA sp 0x1800) 256
  let s := s.loadContexts sp (s.fld (bedA sp 0x114) 25 0)
  let s := (List.range 64).foldl (fun s c =>
    let st := s.fld (bedA old (0x1600 + 4 * c)) 4 3
    s.wrN (bedA sp (0x1600 + 4 * c)) (st * 8)) s
  let s := s.clearRegs (bedA sp 0x60000) (bedA sp 0x80000)
  s.startBed sp 1 (some { m with stage := 2 }) area

def execTakeoverLoad (spare : Fin 16) (s : State) : Host.Outcome State Fault Refusal :=
  let b := spare.val
  done s (match (s.bed b).move with
    | none => s
    | some m =>
      if s.enginesRun && s.role b == 3 && m.why == 0 && m.stage == 1 then s.takeoverLoad b m else s)

/-- Step 6 of a takeover, once no route to the new bed is pending: RUNNING, TAKEOVER_DONE and
BED_FAULT_NOTICE (R215). -/
def execTakeoverDone (spare : Fin 16) (s : State) : Host.Outcome State Fault Refusal :=
  let b := spare.val
  done s (match (s.bed b).move with
    | none => s
    | some m =>
      if s.role b == 3 && m.why == 0 && m.stage == 3 &&
          !(List.range 12).any (fun r => s.fld (routeA r) 3 0 == b && s.bit (routeA r) 8) then
        let s := (s.setRole b 2).setBed b { s.bed b with move := none }
        let s := (s.setFld (bedA m.old 0x104) 19 16 b).clearRegs (bedA m.old 0x40000) (bedA m.old 0x50000)
        let s := (s.event (bedA m.old 0x108) 3).raise (640 + m.old) 0x26 false b
        match s.byLbed 0 with
        | none => s
        | some k => s.setBed k { s.bed k with notice := some (BitVec.ofNat 16 (s.lbed b)) }
      else s)

/-- The self-test ends: SPARE if it passed, else FAULTED still (R216). -/
def execReviveSelftestEnd (bed : Fin 16) (pass : Bool) (s : State) : Host.Outcome State Fault Refusal :=
  let b := bed.val
  done s (if (s.bed b).reviving then
    let s := s.setBed b { s.bed b with reviving := false }
    if pass && s.role b == 4 then
      let s := s.setRole b 1
      -- A live fallback that waits for a spare goes on with this one (R348).
      if s.actState = 4 ∧ s.movingBed = none then s.nextMove else s
    else s
    else s)

/-- QUEUE_HWM written with any value takes the present occupancy (R221). -/
def execQueueHwmReset (bed : Fin 16) (_val : Word) (s : State) : Host.Outcome State Fault Refusal :=
  let b := bed.val
  done s (s.hostTo (bedA b 0x15C) (fun s => s.setFld (bedA b 0x15C) 10 0 (s.bed b).evq.length))

/-! ### Furrows (R251 to R254) -/

/-- The oldest unreleased item has been visible for NOTICE_AGE_US (R251). -/
def execNoticeAgeExpiry (F : Fin 64) (s : State) : Host.Outcome State Fault Refusal :=
  let age := s.fld (furA F.val 0) 31 16
  done s (match (s.fur F.val).unreleased with
    | [] => s
    | it :: _ =>
      if age ≠ 0 ∧ s.noticed F.val = false ∧ it.at_ + age * usNs ≤ s.now then s.notice F.val else s)

def execFlush (F : Fin 64) (s : State) : Host.Outcome State Fault Refusal :=
  done s (s.hostTo (furA F.val 0x04) (fun s => s.flushAsk F.val))

/-- The flush acts once no handler owns the furrow; `midItem` items were being written (R253). -/
def execFlushExecute (F : Fin 64) (midItem : Nat) (s : State) : Host.Outcome State Fault Refusal :=
  done s (if s.bit (furA F.val 0x08) 13 && (s.fur F.val).owner == 0 then s.flushNow F.val midItem else s)

def execHwmClr (F : Fin 64) (s : State) : Host.Outcome State Fault Refusal :=
  done s (s.hostTo (furA F.val 0x04) (fun s => s.hwmClr F.val))

/-- A host write of ROW_ROUTE (R254, R260). -/
def State.rowRouteWrite (s : State) (o : Origin) (r : Nat) (v : Word) : State :=
  match s.kGate o (routeA r) with
  | (false, s) => s
  | (true, s) => s.routeWrite r (bitsOf v.toNat 3 0) (bitsOf v.toNat 4 4)

def execRowRoute (r : Fin 12) (val : Word) (s : State) : Host.Outcome State Fault Refusal :=
  done s (s.hostTo (routeA r.val) (fun s => s.rowRouteWrite .host r.val val))

/-- A pending route takes effect once its frame edge, or 1 ms, has come and nothing holds it any longer (R254). -/
def execRouteChange (r : Fin 12) (s : State) : Host.Outcome State Fault Refusal :=
  done s (s.routeTry r.val)

/-- A Sundial or mailbox furrow moves to its newly written bed once no handler owns it (R254). -/
def execUnownedFurrowMove (F : Fin 64) (s : State) : Host.Outcome State Fault Refusal := done s (s.moveUnowned F.val)

end Sys2Proof.Machine
end

