-- ==== Sys2Proof/Machine/Signals.lean ====
section
/-! DEFINITION. Formats and places of framers, MAP's tributaries, signals and sinks, and the signal that MAP sees on a
channel (R30, R31, R54, R83, R84, R95, R98, R113 to R120). -/

namespace Sys2Proof.Machine

/-! ### Formats and places (R30, R31, R54) -/

/-- Format family: 1 SDH, 2 OTN, 3 SDI, 0 none (R30). -/
def famOf (fmt : Nat) : Nat :=
  if fmt = 0 then 0 else if fmt ≤ 2 then 1 else if fmt ≤ 6 then 2 else if 8 ≤ fmt ∧ fmt ≤ 11 then 3 else 0

/-- Whether the side of channel `f` accepts a format code (R30, R31). -/
def fmtOk (f fmt : Nat) : Bool :=
  if f < 192 then decide (fmt ≤ 6) else decide (fmt ≤ 5) || decide (8 ≤ fmt ∧ fmt ≤ 11)

def State.rxFmt (s : State) (f : Nat) : Nat := s.fld (rxA f 0x100) 3 0
def State.tx (s : State) (f : Nat) : Tx := Tab.get s.txs Tx.init f
def State.setTx (s : State) (f : Nat) (x : Tx) : State := s.setTxs (Tab.set s.txs Tx.init f x)
def State.txFmt (s : State) (f : Nat) : Nat := s.fld (txA f 0x100) 3 0
def State.rawBit (s : State) (f b : Nat) : Bool := s.bit (rxA f 0x204) b
def State.setRaw (s : State) (f b : Nat) (on : Bool) : State := s.setBit (rxA f 0x204) b on

def rowOfCh (f : Nat) : Nat := f % 192 / 16

/-- Overhead furrow and local producer number of a receive framer (R243, R245). -/
def ohFur (f : Nat) : Nat := if f < 192 then rowOfCh f else 12 + rowOfCh f
def ohProd (f : Nat) : Nat := if f < 192 then f % 16 else 16 + f % 16

def State.coreRuns (s : State) : Bool := !s.top.failed.contains .core

/-- The framer is out of reset, and the clocks that drive its rows run (R27). -/
def State.rxRuns (s : State) (f : Nat) : Bool := s.coreRuns && !s.inReset (rxA f 0)

/-- AU-4s of an STM-N (R54). -/
def auN (fmt : Nat) : Nat := if fmt = 1 then 16 else 64

def State.auMode (s : State) (f k : Nat) : Nat :=
  s.fld (rxA f (0x228 + k / 16 * 4)) (2 * (k % 16) + 1) (2 * (k % 16))

/-- Row and column of a slot (R54). -/
def slotRow (slot : Nat) : Nat := slot / 2048
def slotCol (slot : Nat) : Nat := slot % 2048

/-- A slot is valid on a receive framer (R54, R55). -/
def State.rxSlotOk (s : State) (f slot : Nat) : Bool :=
  let fmt := s.rxFmt f
  let r := slotRow slot
  let c := slotCol slot
  match famOf fmt with
  | 1 => (decide (r ≤ 8) && decide (c < 9 * auN fmt)) ||
      (r == 12 && decide (c % 16 ≤ 8) && decide (c / 16 < auN fmt) && s.auMode f (c / 16) != 0)
  | 2 => decide (r ≤ 3) && decide (c < 16)
  | 3 => r == 0 && decide (c < 4)
  | _ => false

/-! ### Tributaries and channels of a row (R83, R84, R86, R100, R106) -/

def State.trib (s : State) (r t : Nat) : Trib := Tab.get s.tribs Trib.init (80 * r + t)

def State.setTrib (s : State) (r t : Nat) (x : Trib) : State :=
  s.setTribs (Tab.set s.tribs Trib.init (80 * r + t) x)

def mapSrc (r : Nat) : Nat := 672 + r

/-- The framer of row channel `j` of row `r` (R83). -/
def chanOf (r j : Nat) : Nat := if j < 16 then 16 * r + j else 192 + 16 * r + (j - 16)

/-- The row channel index of framer `f`. -/
def idxOf (f : Nat) : Nat := if f < 192 then f % 16 else 16 + f % 16

/-- Presets of a format: pattern, mask, FRAME_LEN, ANCHOR (R30). -/
def presetOf (fmt : Nat) : Nat × Nat × Nat × Nat :=
  match fmt with
  | 1 => (0xF6F6F6282828, 0x0000FFFFFFFFFFFF, 311040, 408)
  | 2 => (0xF6F6F6282828, 0x0000FFFFFFFFFFFF, 1244160, 1560)
  | 3 => (0xF6F6F6282828, 0x0000FFFFFFFFFFFF, 130560, 48)
  | 4 => (0xF6F6F6282828, 0x0000FFFFFFFFFFFF, 130560, 48)
  | 5 => (0xF6F6F6282828, 0x0000FFFFFFFFFFFF, 130560, 48)
  | 6 => (0xF6F6F6282800, 0x0000FFFFFFFFFF00, 130560, 48)
  | 8 => (0x0FFFFF0000000000, 0x0FFFFFFFFFFFFFFF, 44000, 0)
  | 9 => (0x0FFFFF0000000000, 0x0FFFFFFFFFFFFFFF, 44000, 0)
  | _ => (0x0FFFFF0000000000, 0x0FFFFFFFFFFFFFFF, 88000, 0)

/-- Bus words of 512 bits that a frame of a format takes, each frame begun in a word of its own (R11, R319; DESIGN CHOICE,
assumption 21). -/
def frameWords (fmt : Nat) : Nat := ((presetOf fmt).2.2.1 + 511) / 512

/-- A received frame is counted under event `ev`, with its bus words (R319). -/
def State.tallyFrame (s : State) (f ev : Nat) : State :=
  (s.tallyRow (rowOfCh f) (idxOf f) ev 1).tallyRow (rowOfCh f) (idxOf f) 4 (frameWords (s.rxFmt f))

def tmA (r t : Nat) : Nat := mapA r (0x2000 + 0x40 * t)

/-- Fields of the active tributary registers (R84, R86, R100, R106). -/
def State.tMode (s : State) (r t : Nat) : Nat := s.actFld (tmA r t) 2 0
def State.tIng (s : State) (r t : Nat) : Bool := s.actFld (tmA r t) 3 3 == 1
def State.tEgr (s : State) (r t : Nat) : Bool := s.actFld (tmA r t) 4 4 == 1
def State.tType (s : State) (r t : Nat) : Nat := s.actFld (tmA r t) 6 5
def State.tChan (s : State) (r t : Nat) : Nat := s.actFld (tmA r t) 20 16
def State.tMethod (s : State) (r t : Nat) : Nat := s.actFld (tmA r t + 4) 1 0
def State.tSq (s : State) (r t : Nat) : Nat := s.actFld (tmA r t + 4) 11 8
def State.tX (s : State) (r t : Nat) : Nat := s.actFld (tmA r t + 4) 20 16
def State.tHead (s : State) (r t : Nat) : Nat := s.actFld (tmA r t + 4) 30 24

def State.hoMode (s : State) (r j : Nat) : Bool := s.actFld (mapA r (0x400 + 0x40 * j)) 0 0 == 1

/-- The receive half of a tributary runs (R84). -/
def State.tTakes (s : State) (r t : Nat) : Bool :=
  match s.tMode r t with
  | 0 => false
  | 1 => s.tIng r t
  | _ => s.tEgr r t

/-! ### Sizes (R83, R114) -/

/-- Slots of the whole ODUk of a channel with format `fmt` (R83). -/
def oduSize (fmt f : Nat) : Nat :=
  match fmt with
  | 3 => 2
  | 4 => 8
  | 5 => 8
  | 6 => if f % 4 = 0 then 80 else 0
  | _ => 0

/-- Size of a tributary's ODU. -/
def State.tSize (s : State) (r t : Nat) : Nat :=
  match s.tType r t with
  | 0 => 2
  | 1 => 8
  | 2 => 8
  | _ => s.actFld (tmA r t) 14 8

def modeOn (m : Nat) : Bool := decide (1 ≤ m ∧ m ≤ 4)

/-- Size of signal `sig` of row `r`. -/
def State.sigSize (s : State) (r sig : Nat) : Nat :=
  if sig < 80 then (if modeOn (s.tMode r sig) && s.tIng r sig then s.tSize r sig else 0)
  else if sig < 112 then
    let f := chanOf r (sig - 80)
    if s.hoMode r (sig - 80) then 0 else oduSize (s.rxFmt f) f
  else 0

/-- Fields of the active MERGE_CTRL of pair `i` (R127). -/
def State.mEn (s : State) (i : Nat) : Bool := s.actFld (pairA i 0) 0 0 == 1
def State.mSelector (s : State) (i : Nat) : Bool := s.actFld (pairA i 0) 1 1 == 1
def State.mRemote (s : State) (i : Nat) : Bool := s.actFld (pairA i 0) 2 2 == 1
def State.mChanA (s : State) (i : Nat) : Nat := chanOf (i / 8) (s.actFld (pairA i 0) 12 8)
def State.mChanB (s : State) (i : Nat) : Nat := chanOf (i / 8) (s.actFld (pairA i 0) 20 16)

/-- Size of sink `sink` of row `r`. -/
def State.sinkSize (s : State) (r sink : Nat) : Nat :=
  if sink < 80 then (if modeOn (s.tMode r sink) && s.tEgr r sink then s.tSize r sink else 0)
  else if sink < 112 then
    let f := chanOf r (sink - 80)
    if s.hoMode r (sink - 80) then 0 else oduSize (s.txFmt f) f
  else if sink < 120 then
    let i := 8 * r + (sink - 112)
    if s.mEn i && s.mRemote i then oduSize (s.rxFmt (s.mChanA i)) (s.mChanA i) else 0
  else 0

/-! ### Connections in use (R95, R98) -/

def outActA (q : Nat) : Nat := trlA (0x50000 + 4 * q)
def inActA (p : Nat) : Nat := trlA (0x40000 + 4 * p)

/-- The active OUT entry that feeds slot 0 of sink `sink` of row `r` (R95). -/
def State.outFor (s : State) (r sink : Nat) : Option Word :=
  (s.regs.find? (fun e => decide (outActA 0 ≤ e.1 ∧ e.1 < outActA 4608) && e.2.msb &&
    bitsOf e.2.toNat 16 13 == r && bitsOf e.2.toNat 23 17 == sink && bitsOf e.2.toNat 30 24 == 0)).map (·.2)

/-- Row and signal that sink `sink` of row `r` is connected to (R95). -/
def State.sourceOf (s : State) (r sink : Nat) : Option (Nat × Nat) :=
  (s.outFor r sink).map (fun w =>
    let p := bitsOf w.toNat 12 0
    (s.fld (inActA p) 3 0, s.fld (inActA p) 14 8))

/-- Whole frames a sink still takes before its source reaches it; 3 once the source has lost its committed
size. -/
def State.hold (s : State) (r sink : Nat) : Nat := Tab.get s.sinkHold 0 (128 * r + sink)

def State.setHold (s : State) (r sink n : Nat) : State :=
  s.setSinkHold (Tab.set s.sinkHold 0 (128 * r + sink) n)

/-- What sink `sink` of row `r` is fed with: none connected, replaced, or a signal (R98). -/
inductive Feed where
  | open
  | replaced
  | signal (r sig : Nat)
deriving DecidableEq, Repr

def State.feed (s : State) (r sink : Nat) : Feed :=
  match s.sourceOf r sink with
  | none => .open
  | some (q, sig) =>
    if s.hold r sink != 0 || s.sigSize q sig != s.sinkSize r sink then .replaced else .signal q sig

/-- A word has one of the named bits. -/
def anyBit (w : Nat) (bs : List Nat) : Bool := bs.any w.testBit

/-! ### Merge pairs, and the signal that MAP sees (R113, R115, R119, R120) -/

def celSrc : Nat := 685
def State.celRuns (s : State) : Bool := s.coreRuns && !s.inReset (celA 0)

def State.pair (s : State) (i : Nat) : Pair := Tab.get s.pairs Pair.init i
def State.setPair (s : State) (i : Nat) (p : Pair) : State := s.setPairs (Tab.set s.pairs Pair.init i p)

/-- The formats of the copies keep the rules of R113. -/
def State.mOk (s : State) (i : Nat) : Bool :=
  let a := s.mChanA i
  let b := s.mChanB i
  let fa := s.rxFmt a
  let okA := decide (1 ≤ fa ∧ fa ≤ 5) || (fa == 6 && a % 4 == 0)
  okA && (if s.mRemote i then famOf fa == 2 else s.rxFmt b == fa && (fa != 6 || b % 4 == 0))

def mergeSink (i : Nat) : Nat := 112 + i % 8

def State.granted (s : State) (key : Nat) : Bool := (Tab.get s.grants (0, 0) key).2 != 0

/-- The pair makes decisions: enabled, with good formats, and a selector or granted (R109, R113, R121). -/
def State.mRuns (s : State) (i : Nat) : Bool :=
  s.celRuns && s.mEn i && s.mOk i && (s.mSelector i || s.granted i)

def State.mAligned (s : State) (i : Nat) : Bool := s.bit (pairA i 0xC) 0
def State.mSel (s : State) (i : Nat) : Bool := s.bit (pairA i 0xC) 1

/-- The framer of a copy, where it has one; a remote copy comes through its merge sink (R113). -/
def State.copyChan (s : State) (i : Nat) (b : Bool) : Option Nat :=
  if !b then some (s.mChanA i)
  else if !s.mRemote i then some (s.mChanB i)
  else match s.sourceOf (i / 8) (mergeSink i) with
    | some (q, sig) => if 80 ≤ sig then some (chanOf q (sig - 80)) else none
    | none => none

/-- A copy reaches the Cellar, and no LOM, LOL, ODU-AIS or MS-AIS is active on its channel (R98, R119). -/
def State.copyClear (s : State) (i : Nat) (b : Bool) : Bool :=
  let free := fun act => !anyBit act (if famOf (s.rxFmt (s.mChanA i)) = 1 then [3, 4, 6] else [3, 4, 15])
  let chan := match s.copyChan i b with | some f => free (s.nat (rxA f 0x208)) | none => true
  if b && s.mRemote i then
    match s.feed (i / 8) (mergeSink i) with
    | .signal q sig => chan && (decide (80 ≤ sig) || free (s.nat (tribA q sig 4)))
    | _ => false
  else chan

/-- Rate of the signal stored, in 10 kb/s (R112). -/
def storedRate (fmt : Nat) : Nat :=
  match fmt with
  | 1 => 248832
  | 2 => 995328
  | 3 => 266606
  | 4 => 1070922
  | 5 => 1109572
  | _ => 11181000

/-- Period of a frame in ps, by format. -/
def framePs (fmt : Nat) : Nat :=
  (match fmt with | 1 => 311040 | 2 => 1244160 | _ => 130560) * 100000000 / storedRate fmt

/-- The pair whose MERGE_CTRL lies at `a`. -/
def pairAt (a : Nat) : Option Nat :=
  if 0x801000 ≤ a ∧ a < 0x802800 ∧ a % 0x40 = 0 then some ((a - 0x801000) / 0x40) else none

/-- The enabled pairs, in order. -/
def State.enabledPairs (s : State) : List Nat := (s.active.filterMap (fun e => pairAt e.1)).filter s.mEn

/-- The pair whose merged signal replaces the received signal of channel `f` in MAP, once its first frame has left the
merge stage (R115, R120).  Where several enabled pairs name one CH_A it is the lowest of them (DESIGN CHOICE,
assumption 82). -/
def State.pairOn (s : State) (f : Nat) : Option Nat :=
  s.enabledPairs.find? (fun i => s.mChanA i == f && s.mRuns i && (s.pair i).staged)

/-- The same where the merged signal is copy B. -/
def State.mergedB (s : State) (f : Nat) : Option Nat := (s.pairOn f).filter s.mSel

/-- The framer whose signal the consumers of channel `f` in MAP have, and whether nothing of it arrives
(R98, R115). -/
def State.seenChan (s : State) (f : Nat) : Option Nat × Bool :=
  match s.mergedB f with
  | none => (some f, false)
  | some i =>
    let cut := s.mRemote i && (match s.feed (i / 8) (mergeSink i) with | .signal _ _ => false | _ => true)
    match s.copyChan i true with
    | some g => (some g, cut)
    | none => (none, cut || !s.copyClear i true)

/-! ### The lane that a signal arrived on (R12, R120, R178) -/

/-- The delay of Trellis in ps (R12). -/
def trellisPs : Nat := 409600

/-- What the merge stage of pair `i` and the Cellar delay the selected copy by, in ps (R118, R120). -/
def State.mergePs (s : State) (i : Nat) : Nat :=
  let fmt := s.rxFmt (s.mChanA i)
  let off := (s.pair i).off
  let held := if !s.mAligned i then 0 else if s.mSel i then (-off).toNat else off.toNat
  (if famOf fmt = 1 then 2 else 3) * framePs fmt + held * 1000

/-- The receive lane that the signal of channel `f` in MAP arrived on, and its delay since in ps (R178). -/
def State.chanPath (s : State) (f : Nat) : Option (Nat × Nat) :=
  let fec := Config.fecPs (s.rxFmt f)
  match s.pairOn f with
  | none => some (f, fec)
  | some i =>
    let ps := fec + s.mergePs i
    if !s.mSel i then some (f, ps)
    else if !s.mRemote i then some (s.mChanB i, ps)
    else match s.sourceOf (i / 8) (mergeSink i) with
      | some (q, sig) =>
        if 80 ≤ sig then some (chanOf q (sig - 80), ps + trellisPs)
        else if s.tMode q sig = 1 then some (chanOf q (s.tChan q sig), ps + trellisPs)
        else none
      | none => none

/-- The same of the ODU that tributary `t` takes in. -/
def State.tribPath (s : State) (r t : Nat) : Option (Nat × Nat) :=
  if s.tMode r t = 1 then s.chanPath (chanOf r (s.tChan r t))
  else match s.sourceOf r t with
    | none => none
    | some (q, sig) =>
      let via := fun f => (s.chanPath f).map (fun e => (e.1, e.2 + trellisPs))
      if 80 ≤ sig then via (chanOf q (sig - 80))
      else if s.tMode q sig = 1 then via (chanOf q (s.tChan q sig))
      else none

/-- The tributary whose TRIB_MODE register lies at `a`. -/
def tribAt (a : Nat) : Option (Nat × Nat) :=
  let o := a % 0x10000
  if 0x600000 ≤ a ∧ a < 0x6C0000 ∧ 0x2000 ≤ o ∧ o < 0x3400 ∧ o % 0x40 = 0 then
    some ((a - 0x600000) / 0x10000, (o - 0x2000) / 0x40)
  else none

/-- The tributaries whose TRIB_MODE is not at reset, and those of them that take an ODU in. -/
def State.activeTribs (s : State) : List (Nat × Nat) := s.active.filterMap (fun e => tribAt e.1)
def State.takingTribs (s : State) : List (Nat × Nat) := s.activeTribs.filter (fun e => s.tTakes e.1 e.2)

end Sys2Proof.Machine
end

