-- ==== Sys2Proof/Machine/Defects.lean ====
section
/-! DEFINITION. Receive stamps, items of the overhead furrows, the masking of
defects, and the defects of MAP tributaries (R59, R66, R68, R82, R103, R108, R177 to R179). -/

namespace Sys2Proof.Machine

/-! ### Stamps (R174, R177 to R179) -/

/-- Picoseconds in 2^-16 ns. -/
def psSub (p : Int) : Int := p * 65536 / 1000

/-- TS_LO, TS_MID and TS_HI of a time, at `a` (R174). -/
def State.putTs (s : State) (a sub : Nat) : State :=
  let w := fun i => ((tsWords sub).getD i 0).toNat
  ((s.wrN a (w 0 + w 1 * 65536)).wrN (a + 4) (w 2 + w 3 * 65536)).wrN (a + 8) (w 4 + w 5 * 65536)

/-- Crossing of the lane, in ps, from fuses (R178). -/
def crossPs (a : Nat) : Int := (Config.fuse (a + 0x700)).toNat

/-- The receive stamp of an edge at this moment on the time of a dial (R178). -/
def State.rxStampOn (s : State) (dial f bitPs deskewPs : Nat) : Nat :=
  let adj : Int := s.int (rxA f 0x708) - s.fld (rxA f 0x704) 19 0 - crossPs (rxA f 0) - bitPs - deskewPs
  (((s.dialSub dial : Nat) : Int) + psSub adj).toNat

/-- The same on the framer's own dial (R177). -/
def State.rxStamp (s : State) (f bitPs deskewPs : Nat) : Nat :=
  s.rxStampOn (s.fld (rxA f 0x700) 3 0) f bitPs deskewPs

/-- The stamp is taken: TS_LAST and TS_SEQ (R179). -/
def State.putStamp (s : State) (base sub : Nat) : State :=
  if s.sundialRuns then (s.putTs (base + 0x70C) sub).inc (base + 0x718) else s

/-- An item of a receive framer; `ts` is the stamp it begins with, if any (R59). -/
def State.rxPublish (s : State) (f kind : Nat) (ts : Option Nat) (words : List Half) : Bool × State :=
  (s.tallyRow (rowOfCh f) (ohProd f) 11 1).publish (ohFur f) (ohProd f) kind ts.isSome ((match ts with | some t => tsWords t | none => []) ++ words)

/-- The two data words of a 32-bit value, low word first. -/
def wordPair (v : Nat) : List Half := [BitVec.ofNat 16 v, BitVec.ofNat 16 (v / 65536)]

/-! ### Defects (R66, R68) -/

/-- A 64-bit map held in two registers. -/
def State.map64 (s : State) (a : Nat) : Nat := s.nat a + s.nat (a + 4) * 2 ^ 32

def State.setMap64 (s : State) (a k : Nat) (b : Bool) : State := s.setBit (a + k / 32 * 4) (k % 32) b

/-- Single defects with the bits of those that mask them, maskers first (R68, R80). -/
def maskOrder : List (Nat × List Nat) := [
  (0, []), (1, [0]), (2, [0]), (4, [0]), (5, [0]), (3, [0, 2]), (6, [0, 2]), (20, [0, 2]),
  (21, [0, 2]), (18, [0, 2]), (15, [0, 2]), (12, [0, 2]), (11, [0, 2, 12]), (7, [0, 2, 6]),
  (8, [0, 2, 6]), (9, [0, 2, 6]), (16, [0, 2, 3, 15]), (17, [0, 2, 3, 15]), (19, [0, 2, 3, 15]),
  (22, [0, 2, 3, 15]), (14, [0, 2, 3, 15]), (13, [0, 2, 3, 15, 14])]

/-- Active bits of a raw word, the per-AU-4 and program defects apart; `carrier` are masks from
outside (R68). -/
def activeWord (raw : Nat) (carried : Bool) : Nat :=
  maskOrder.foldl (fun act e => if raw.testBit e.1 && !carried && !anyBit act e.2 then act + 2 ^ e.1 else act) 0

/-- Active program-defect bits (R68). -/
def pdefActive (act pdef : Nat) (carried : Bool) : Nat :=
  (List.range 8).foldl (fun p b =>
    let m := if b = 0 then [0, 2] else [0, 2, 3, 15, 16, 17]
    if pdef.testBit b && !carried && !anyBit act m then p + 2 ^ b else p) 0

/-! ### MAP tributaries: places and defects (R83, R84, R103, R106, R108) -/

/-- The stamp of a tributary's item: the ball of the lane that its frame arrived on, less what delayed it since (R12,
R178); without such a lane the time of dial 0. -/
def State.tribStamp (s : State) (r t : Nat) : Nat :=
  match s.tribPath r t with
  | some (f, ps) => s.rxStamp f ps 0
  | none => s.dialSub 0

/-- An item of MAP tributary `t` (R243, R245). -/
def State.tribPublish (s : State) (r t kind : Nat) (stamped : Bool) (words : List Half) : Bool × State :=
  s.publish r (32 + t) kind stamped ((if stamped then tsWords (s.tribStamp r t) else []) ++ words)

/-- The signal that carries tributary `t` has an active defect (R68). -/
def State.tribCarried (s : State) (r t : Nat) : Bool :=
  match s.tribPath r t with
  | some (f, _) => s.nat (rxA f 0x208) != 0
  | none => false

/-- Active bits of a tributary's raw word (R68, R103). -/
def tribActive (raw pdef : Nat) (carried : Bool) : Nat × Nat :=
  let a := activeWord raw carried
  let p := pdefActive a pdef carried
  let a := putBits a 23 23 (p != 0).toNat
  let a := putBits a 24 24 (raw.testBit 24).toNat
  (putBits a 25 25 (raw.testBit 25 && !carried && !anyBit a [3, 15, 16, 17]).toNat, p)

/-- Report kinds of a tributary's defects (R82, R103, R108). -/
def tribKinds : List (Nat × Nat) := [
  (0, 0x01), (3, 0x04), (13, 0x15), (14, 0x16), (15, 0x17), (16, 0x18), (17, 0x19), (19, 0x1B), (22, 0x1E),
  (24, 0x20), (25, 0x21)]

/-- Detail of a tributary's report (R82, R108). -/
def State.tribDetail (s : State) (r t b : Nat) : Nat :=
  match b with
  | 0 => t * 256
  | 3 => t * 256 + (s.trib r t).mfi.expected % 256
  | 13 => t * 256 + 1
  | 14 => t * 256 + 1
  | 24 => t * 256
  | 25 => t * 256 + (s.trib r t).mfiLast / 65536 * 65536
  | _ => t

/-- A change of DEFECT_ACTIVE counts in DEFECT_EVENTS; bits 24 and 25 of R106 lie under SEQ, and count
without a bit of their own. -/
def State.tribEvent (s : State) (r t b : Nat) : State :=
  let a := tribA r t 8
  if b < 24 then s.event a b
  else (s.setFld a 31 24 (s.fld a 31 24 + 1)).summary (mapA r 0) 5

/-- Registers, events, reports and the DEFECT item after a change of a tributary's defects; `old` are the raw
and active words and the active program defects before (R59, R68, R77, R82). -/
def State.tribDefects (s : State) (r t : Nat) (old : Nat × Nat × Nat) : State :=
  let x := s.trib r t
  let raw := putBits (s.fld (tribA r t 0) 25 0) 23 23 (x.pdefEff != 0).toNat
  let (act, p) := tribActive raw x.pdefEff.toNat (s.tribCarried r t)
  let s := (s.setFld (tribA r t 0) 25 0 raw).setFld (tribA r t 4) 25 0 act
  let s := tribKinds.foldl (fun s e =>
    if old.2.1.testBit e.1 == act.testBit e.1 then s
    else s.raise (mapSrc r) e.2 (!act.testBit e.1) (s.tribDetail r t e.1)) s
  let s := (List.range 8).foldl (fun s b =>
    if old.2.2.testBit b == p.testBit b then s else s.raise (mapSrc r) 0x1F (!p.testBit b) (t * 256 + b)) s
  let s := (List.range 26).foldl (fun s b =>
    if old.2.1.testBit b == act.testBit b then s else s.tribEvent r t b) s
  let x := s.trib r t
  let s := s.setTrib r t { x with secSeen := BitVec.ofNat 32 (Nat.lor x.secSeen.toNat act), pdefAct := p }
  if old.1 = raw ∧ old.2.1 = act then s
  else (s.tribPublish r t 3 true (BitVec.ofNat 16 t :: wordPair raw ++ wordPair act)).2

/-- A change of a tributary with the defect changes that it brings. -/
def State.withTrib (s : State) (r t : Nat) (g : State → State) : State :=
  (g s).tribDefects r t (s.fld (tribA r t 0) 25 0, s.fld (tribA r t 4) 25 0, (s.trib r t).pdefAct)

/-- The tributaries whose ODU arrived on framer `f`. -/
def State.carriedBy (s : State) (f : Nat) : List (Nat × Nat) :=
  s.takingTribs.filter (fun e => (s.tribPath e.1 e.2).any (·.1 == f))

/-- The tributaries that framer `f` carries follow a change of its active defects (R68, R74). -/
def State.carriedFollow (s : State) (f : Nat) : State :=
  (s.carriedBy f).foldl (fun s e => s.withTrib e.1 e.2 id) s

/-- Framer `f` is IN_FRAME at an alignment: for the tributaries it carries the next frame is the first (R57, R63). -/
def State.carriedAlign (s : State) (f : Nat) : State :=
  (s.carriedBy f).foldl (fun s e =>
    s.setTrib e.1 e.2 { s.trib e.1 e.2 with firstIn := true, hist := [] }) s

/-- Every tributary follows a change of what carries it (R68, R115). -/
def State.allFollow (s : State) : State := s.takingTribs.foldl (fun s e => s.withTrib e.1 e.2 id) s

end Sys2Proof.Machine
end

