-- ==== Sys2Proof/Machine/Inventory.lean ====
section
/-! DEFINITION. Commands of Inventory: settings, snapshots, wraps, samples (R315 to R329). -/

namespace Sys2Proof.Machine

def State.invRuns (s : State) : Bool := !s.inReset (invA 0)

def execCntCfg (c : Fin 344) (val : Word) (s : State) : Host.Outcome State Fault Refusal :=
  done s (s.hostTo (cntA c.val 0) (fun s => s.cntCfgWrite c.val val))

def execClear (c : Fin 344) (s : State) : Host.Outcome State Fault Refusal :=
  done s (s.hostTo (cntA c.val 8) (fun s => s.cntClear c.val))

def execLoad (c : Fin 344) (s : State) : Host.Outcome State Fault Refusal :=
  done s (s.hostTo (cntA c.val 8) (fun s => s.cntLoad c.val))

/-- A write of CNT_CTRL: CLEAR, then LOAD (R318). -/
def State.cntCtrlWrite (s : State) (c : Nat) (v : Word) : State :=
  let s := if v.getLsbD 0 then s.cntClear c else s
  if v.getLsbD 1 then s.cntLoad c else s

/-- A write of INV_CTRL; a snapshot and a change of RUN written together share one S (R322). -/
def State.invCtrlWrite (s : State) (v : Word) : State :=
  let s := if v.getLsbD 1 then s.cntClearAll else s
  let s := if v.getLsbD 0 then s.snapAsk (2 * usNs) else s
  (s.setBit (invA 0x100) 8 (v.getLsbD 8)).runAsk (v.getLsbD 4)

def execClearAll (s : State) : Host.Outcome State Fault Refusal :=
  done s (s.hostTo (invA 0x100) State.cntClearAll)

def execSnapGo (s : State) : Host.Outcome State Fault Refusal :=
  done s (s.hostTo (invA 0x100) (fun s => s.snapAsk (2 * usNs)))

/-- A host write of INV_CTRL that changes RUN. -/
def execRun (val : Word) (s : State) : Host.Outcome State Fault Refusal :=
  done s (s.hostTo (invA 0x100) (fun s => s.invCtrlWrite val))

def execSnapshotCopy (dom : Fin 5) (s : State) : Host.Outcome State Fault Refusal :=
  done s (if s.invRuns && s.domainRuns dom.val then s.snapDomain dom.val else s)

/-- SNAP_TS takes the time of dial 0 at S. -/
def State.snapStamp (s : State) (at_ : Nat) : State :=
  s.putTs (invA 0x110) (s.dialAt 0 ((at_ - (s.now - s.sdlNow)) * 65536)).toNat

/-- Step 4 of R322, once every domain has acted or 10 µs after S. -/
def execSnapDone (s : State) : Host.Outcome State Fault Refusal :=
  done s (if !s.invRuns then s
    else
      let s := match s.inv.snapAt with
        | some t =>
          if 5 ≤ s.inv.copied.length ∨ t + 10 * usNs ≤ s.now then s.snapFinish (fun s => s.snapStamp t) else s
        | none => s
      s.runDone)

/-! ### Sample rings (R324 to R326) -/

def sampA (b o : Nat) : Nat := invA (0x6000 + 0x800 * b + o)

/-- A record into the skid ring, or the tag ring, of bed `b`. -/
def State.sample (s : State) (b : Nat) (tag : Bool) (ws : List Nat) : State :=
  let k := tag.toNat
  let wr := s.nat (sampA b (0x04 + 8 * k))
  let full := decide (64 ≤ (wr + 2 ^ 32 - s.nat (sampA b (0x08 + 8 * k))) % 2 ^ 32)
  let s := if full then
      ((s.inc (sampA b (0x14 + 4 * k))).event (invA 0x108) 3).raiseLim 1 (b + 16 * k) 98 0xAA false (b + 16 * k)
    else s
  let s := s.wrAll (sampA b ((if tag then 0x400 else 0x100) + (if tag then 16 else 8) * (wr % 64))) (ws.map (BitVec.ofNat 32))
  s.inc (sampA b (0x04 + 8 * k))

/-- Events of queues and buses inside a block whose course the manual does not give: Trellis words, DATA_FILL, BANKS_BUSY,
RDQ and WRQ.  Only their wraps show here (assumption 21). -/
def unseenEvent (c ev : Nat) : Bool :=
  if 128 ≤ c ∧ c < 224 then [6, 7, 13].contains ev
  else if 224 ≤ c ∧ c < 232 then ev == 11
  else if 232 ≤ c ∧ c < 240 then [7, 8].contains ev
  else false

/-- A counter on such an event wraps, or one at its top value does. -/
def State.wrapsNow (s : State) (c : Nat) : Bool :=
  s.cntOn c && (unseenEvent c (s.fld (cntA c 0) 7 0) || s.count c == 2 ^ 48 - 1)

/-- COUNTER_WRAP, and the skid sample that a wrap owes: the PC comes from the engine (R323, R324). -/
def State.counterWrap (s : State) (c eng ctx pc : Nat) : State :=
  let s := if s.inv.skidDue.contains c || !s.wrapsNow c then s else (s.setCount c 0).cntWrap c
  if s.inv.skidDue.contains c then
    let s := s.setInv { s.inv with skidDue := s.inv.skidDue.filter (· ≠ c) }
    s.sample (c / 8) false [pc + eng * 2 ^ 16 + ctx * 2 ^ 22 + c % 8 * 2 ^ 24, s.bedUsec (c / 8) % 2 ^ 32]
  else s

def execCounterWrap (c : Fin 344) (eng : Fin 32) (ctx : Fin 4) (pc : BitVec 15) (s : State) : Host.Outcome State Fault Refusal :=
  done s (if s.invRuns then s.counterWrap c.val eng.val ctx.val pc.toNat else s)

/-- The words of a tag record; BED_USEC is that of the issue, `toDone` cycles of 1 ns ago (R326). -/
def State.tagWords (s : State) (b : Nat) (x : TagIn) : List Nat :=
  let usec := (s.now - x.toDone - (s.bed b).startedAt) / usNs
  [x.pc.toNat + x.eng.val * 2 ^ 16 + x.ctx.val * 2 ^ 22 + x.aborted.toNat * 2 ^ 24 + x.long.toNat * 2 ^ 25,
   x.kind.toNat + x.major.toNat * 2 ^ 8 + x.sub.toNat * 2 ^ 12 + usec % 65536 * 2 ^ 16,
   min x.toIssue 65535 + (if x.aborted then 65535 else min x.toDone 65535) * 2 ^ 16,
   x.ready.toNat + x.stall.toNat * 2 ^ 8]

/-- Whether tag mode of bed `b` follows engine `e` (R325). -/
def State.tagsEngine (s : State) (b e : Nat) : Bool :=
  let t := s.fld (sampA b 0) 21 16
  s.bit (sampA b 0) 0 && (decide (32 ≤ t) || t == e)

/-- A tagged instruction has completed (R325, R326). -/
def State.tagRecord (s : State) (b : Nat) (x : TagIn) : State :=
  let s := (s.addTo (sampA b 0x1C) x.deferred).tallyBed b x.eng.val 17 1
  s.sample b true (s.tagWords b x)

def execTagRecord (bed : Fin 16) (x : TagIn) (s : State) : Host.Outcome State Fault Refusal :=
  done s (if s.invRuns && s.enginesRun && s.tagsEngine bed.val x.eng.val then s.tagRecord bed.val x else s)

/-- A read position written to `v`: one beyond the write count stores the write count (R291, R326). -/
def clampRd (rd wr v : Nat) : Nat :=
  if (wr + 2 ^ 32 - rd) % 2 ^ 32 < (v + 2 ^ 32 - rd) % 2 ^ 32 then wr else v

def State.sampleRdWrite (s : State) (b : Nat) (tag : Bool) (v : Word) : State :=
  let a := sampA b (0x08 + 8 * tag.toNat)
  s.wrN a (clampRd (s.nat a) (s.nat (a - 4)) v.toNat)

def execSampleRd (bed : Fin 16) (tag : Bool) (val : Word) (s : State) : Host.Outcome State Fault Refusal :=
  done s (s.hostTo (sampA bed.val (0x08 + 8 * tag.toNat)) (fun s => s.sampleRdWrite bed.val tag val))

end Sys2Proof.Machine
end

