-- ==== Sys2Proof/Machine/Signature.lean ====
section
/-! DEFINITION. The signature of an image (R334): SHA-384, ECDSA over the curve P-384, the fused key hashes and the
revocation fuses.  The manual names the algorithms by FIPS 186-4; their arithmetic is the standards' own
(FIPS 180-4, FIPS 186-4; PRESUMED, assumption 7). -/

namespace Sys2Proof.Machine

/-! ### SHA-384 -/

abbrev Lane64 := BitVec 64

/-- The round constants: fractional parts of the cube roots of the first 80 primes. -/
def sha512K : List Lane64 :=
  [0x428A2F98D728AE22, 0x7137449123EF65CD, 0xB5C0FBCFEC4D3B2F, 0xE9B5DBA58189DBBC,
   0x3956C25BF348B538, 0x59F111F1B605D019, 0x923F82A4AF194F9B, 0xAB1C5ED5DA6D8118,
   0xD807AA98A3030242, 0x12835B0145706FBE, 0x243185BE4EE4B28C, 0x550C7DC3D5FFB4E2,
   0x72BE5D74F27B896F, 0x80DEB1FE3B1696B1, 0x9BDC06A725C71235, 0xC19BF174CF692694,
   0xE49B69C19EF14AD2, 0xEFBE4786384F25E3, 0x0FC19DC68B8CD5B5, 0x240CA1CC77AC9C65] ++
  [0x2DE92C6F592B0275, 0x4A7484AA6EA6E483, 0x5CB0A9DCBD41FBD4, 0x76F988DA831153B5,
   0x983E5152EE66DFAB, 0xA831C66D2DB43210, 0xB00327C898FB213F, 0xBF597FC7BEEF0EE4,
   0xC6E00BF33DA88FC2, 0xD5A79147930AA725, 0x06CA6351E003826F, 0x142929670A0E6E70,
   0x27B70A8546D22FFC, 0x2E1B21385C26C926, 0x4D2C6DFC5AC42AED, 0x53380D139D95B3DF,
   0x650A73548BAF63DE, 0x766A0ABB3C77B2A8, 0x81C2C92E47EDAEE6, 0x92722C851482353B] ++
  [0xA2BFE8A14CF10364, 0xA81A664BBC423001, 0xC24B8B70D0F89791, 0xC76C51A30654BE30,
   0xD192E819D6EF5218, 0xD69906245565A910, 0xF40E35855771202A, 0x106AA07032BBD1B8,
   0x19A4C116B8D2D0C8, 0x1E376C085141AB53, 0x2748774CDF8EEB99, 0x34B0BCB5E19B48A8,
   0x391C0CB3C5C95A63, 0x4ED8AA4AE3418ACB, 0x5B9CCA4F7763E373, 0x682E6FF3D6B2B8A3,
   0x748F82EE5DEFB2FC, 0x78A5636F43172F60, 0x84C87814A1F0AB72, 0x8CC702081A6439EC] ++
  [0x90BEFFFA23631E28, 0xA4506CEBDE82BDE9, 0xBEF9A3F7B2C67915, 0xC67178F2E372532B,
   0xCA273ECEEA26619C, 0xD186B8C721C0C207, 0xEADA7DD6CDE0EB1E, 0xF57D4F7FEE6ED178,
   0x06F067AA72176FBA, 0x0A637DC5A2C898A6, 0x113F9804BEF90DAE, 0x1B710B35131C471B,
   0x28DB77F523047D84, 0x32CAAB7B40C72493, 0x3C9EBE0A15C9BEBC, 0x431D67C49C100D4C,
   0x4CC5D4BECB3E42B6, 0x597F299CFC657E2A, 0x5FCB6FAB3AD6FAEC, 0x6C44198C4A475817]

/-- The start of the chain: fractional parts of the square roots of the 9th to 16th primes. -/
def sha384Start : List Lane64 :=
  [0xCBBB9D5DC1059ED8, 0x629A292A367CD507, 0x9159015A3070DD17, 0x152FECD8F70E5939,
   0x67332667FFC00B31, 0x8EB44A8768581511, 0xDB0C2E0D64F98FA7, 0x47B5481DBEFA4FA4]

/-- A number from its bytes, the most significant first. -/
def bigEndian (bs : List Byte) : Nat := bs.foldl (fun n b => n * 256 + b.toNat) 0

/-- One word more of the message schedule, of which the last 16 words are given, newest first. -/
def sha512Next (w : List Lane64) : Lane64 :=
  let x := w.getD 1 0
  let y := w.getD 14 0
  let s1 := (x.rotateRight 19) ^^^ (x.rotateRight 61) ^^^ (x >>> 6)
  let s0 := (y.rotateRight 1) ^^^ (y.rotateRight 8) ^^^ (y >>> 7)
  s1 + w.getD 6 0 + s0 + w.getD 15 0

/-- `n` words more, oldest first at the end. -/
def sha512Schedule : Nat → List Lane64 → List Lane64
  | 0, w => w
  | n + 1, w => sha512Schedule n (sha512Next w :: w)

/-- The eight working variables after a round with constant `k` and word `w`. -/
def sha512Round (v : List Lane64) (k w : Lane64) : List Lane64 :=
  match v with
  | [a, b, c, d, e, f, g, h] =>
    let s1 := (e.rotateRight 14) ^^^ (e.rotateRight 18) ^^^ (e.rotateRight 41)
    let t1 := h + s1 + ((e &&& f) ^^^ (~~~e &&& g)) + k + w
    let s0 := (a.rotateRight 28) ^^^ (a.rotateRight 34) ^^^ (a.rotateRight 39)
    let t2 := s0 + ((a &&& b) ^^^ (a &&& c) ^^^ (b &&& c))
    [t1 + t2, a, b, c, d + t1, e, f, g]
  | _ => v

/-- The 16 words of a block of 128 bytes. -/
def sha512Words (block : List Byte) : List Lane64 :=
  (List.range 16).map (fun i => BitVec.ofNat 64 (bigEndian ((block.drop (8 * i)).take 8)))

/-- One block joins the chain. -/
def sha512Block (chain : List Lane64) (block : List Byte) : List Lane64 :=
  let w := (sha512Schedule 64 (sha512Words block).reverse).reverse
  let v := (sha512K.zip w).foldl (fun v e => sha512Round v e.1 e.2) chain
  (chain.zip v).map (fun e => e.1 + e.2)

/-- `n` blocks join the chain. -/
def sha512Blocks : Nat → List Lane64 → List Byte → List Lane64
  | 0, chain, _ => chain
  | n + 1, chain, bs => sha512Blocks n (sha512Block chain (bs.take 128)) (bs.drop 128)

/-- The message with its padding: a one bit, zeros, and the length in bits in 16 bytes. -/
def sha512Padded (m : List Byte) : List Byte :=
  let bits := 8 * m.length
  m ++ [0x80] ++ List.replicate ((256 - (m.length + 17) % 128) % 128) 0 ++
    (List.range 16).map (fun i => BitVec.ofNat 8 (bits / 256 ^ (15 - i)))

/-- SHA-384 of a string of bytes, as a number of 384 bits. -/
def sha384 (m : List Byte) : Nat :=
  let bs := sha512Padded m
  ((sha512Blocks (bs.length / 128) sha384Start bs).take 6).foldl (fun n w => n * 2 ^ 64 + w.toNat) 0

/-! ### The curve P-384 -/

/-- 2^384 − 2^128 − 2^96 + 2^32 − 1. -/
def p384 : Nat := 0xFFFFFFFFFFFFFFFFFFFFFFFFFFFFFFFFFFFFFFFFFFFFFFFFFFFFFFFFFFFFFFFEFFFFFFFF0000000000000000FFFFFFFF

/-- The order of the base point. -/
def p384N : Nat := 0xFFFFFFFFFFFFFFFFFFFFFFFFFFFFFFFFFFFFFFFFFFFFFFFFC7634D81F4372DDF581A0DB248B0A77AECEC196ACCC52973

def p384B : Nat := 0xB3312FA7E23EE7E4988E056BE3F82D19181D9C6EFE8141120314088F5013875AC656398D8A2ED19D2A85C8EDD3EC2AEF

def p384G : Nat × Nat :=
  (0xAA87CA22BE8B05378EB1C71EF320AD746E1D3B628BA79B9859F741E082542A385502F25DBF55296C3A545E3872760AB7,
   0x3617DE4A96262C6F5D9E98BF9292DC29F8F41DBD289A147CE9DA3113B5F0B8C00A60B1CE1D7E819D7A431D7C90EA0E5F)

/-- x to the power e modulo m, for e of at most `k` bits. -/
def powMod (m x : Nat) : Nat → Nat → Nat
  | 0, _ => 1 % m
  | k + 1, e =>
    let h := powMod m x k (e / 2)
    if e % 2 = 1 then h * h % m * x % m else h * h % m

/-- The inverse modulo the prime m below 2^384. -/
def invMod (m x : Nat) : Nat := powMod m (x % m) 384 (m - 2)

def subMod (a b : Nat) : Nat := (a + (p384 - b % p384)) % p384

/-- The third point of the line of slope `l` through P and Q, reflected. -/
def chord (l : Nat) (P Q : Nat × Nat) : Nat × Nat :=
  let x := subMod (subMod (l * l) P.1) Q.1
  (x, subMod (l * subMod P.1 x) P.2)

/-- The sum of two points of the curve; none is the point at infinity. -/
def addPoint (P Q : Option (Nat × Nat)) : Option (Nat × Nat) :=
  match P, Q with
  | none, Q => Q
  | P, none => P
  | some P, some Q =>
    if P.1 = Q.1 then
      if P.2 = Q.2 ∧ P.2 ≠ 0 then
        some (chord (subMod (3 * P.1 * P.1) 3 * invMod p384 (2 * P.2) % p384) P Q)
      else none
    else some (chord (subMod Q.2 P.2 * invMod p384 (subMod Q.1 P.1) % p384) P Q)

/-- k times P, for k of at most the given number of bits. -/
def mulPoint (P : Option (Nat × Nat)) : Nat → Nat → Option (Nat × Nat)
  | 0, _ => none
  | n + 1, k =>
    let h := mulPoint P n (k / 2)
    let d := addPoint h h
    if k % 2 = 1 then addPoint d P else d

/-- The point lies on the curve, with its coordinates reduced. -/
def onP384 (Q : Nat × Nat) : Bool :=
  decide (Q.1 < p384 ∧ Q.2 < p384) && Q.2 * Q.2 % p384 == (subMod (Q.1 * Q.1 * Q.1) (3 * Q.1) + p384B) % p384

/-- The ECDSA signature (r, s) of the hash `e` checks under the public key Q. -/
def ecdsaOk (Q : Nat × Nat) (e r s : Nat) : Bool :=
  let w := invMod p384N s
  decide (1 ≤ r ∧ r < p384N ∧ 1 ≤ s ∧ s < p384N) && onP384 Q &&
    (match addPoint (mulPoint (some p384G) 384 (e * w % p384N)) (mulPoint (some Q) 384 (r * w % p384N)) with
      | none => false
      | some R => R.1 % p384N == r)

/-! ### The signature block -/

/-- The signature block (second argument) verifies the image bytes (first argument): KEY_ID names one of the four
keys, which is not revoked; the hash of the public key is the fused one; the signature checks (R334). -/
def signatureOk (image block : List Byte) : Bool :=
  let id := bigEndian (block.take 4).reverse
  let key := (block.drop 4).take 97
  let num := fun off => bigEndian ((block.drop off).take 48)
  decide (id < 4) && !Config.keyRevoked id && sha384 key == (Config.keyHash id).toNat &&
    key.headD 0 == 0x04 && ecdsaOk (num 5, num 53) (sha384 image) (num 101) (num 149)

end Sys2Proof.Machine
end

