-- ==== Sys2Proof/Machine/Crc.lean ====
section
/-! DEFINITION. The four checks of R305 and the fold of R307, as check units and the check
instructions of R230 compute them. -/

namespace Sys2Proof.Machine

/-- One bit of a check whose bytes go least significant bit first (R305, POLY 1 and 2). -/
def crcBitLow (poly s : BitVec 32) : BitVec 32 :=
  if s.getLsbD 0 then (s >>> 1) ^^^ poly else s >>> 1

/-- One bit of a check whose bytes go most significant bit first (R305, POLY 0 and 3). -/
def crcBitHigh {w : Nat} (poly s : BitVec w) : BitVec w :=
  if s.msb then (s <<< 1) ^^^ poly else s <<< 1

/-- `f` applied `n` times. -/
def times {α : Type} (n : Nat) (f : α → α) (a : α) : α :=
  match n with
  | 0 => a
  | n + 1 => times n f (f a)

def crcByteLow (poly s : BitVec 32) (b : Byte) : BitVec 32 :=
  times 8 (crcBitLow poly) (s ^^^ b.setWidth 32)

def crcByteHigh {w : Nat} (poly s : BitVec w) (b : Byte) : BitVec w :=
  times 8 (crcBitHigh poly) (s ^^^ (b.setWidth w <<< (w - 8)))

def crc16Byte (s : BitVec 16) (b : Byte) : BitVec 16 := crcByteHigh 0x1021 s b
def crc32Byte (s : BitVec 32) (b : Byte) : BitVec 32 := crcByteLow 0xEDB88320 s b
def crc32cByte (s : BitVec 32) (b : Byte) : BitVec 32 := crcByteLow 0x82F63B78 s b
def crc64Byte (s : BitVec 64) (b : Byte) : BitVec 64 := crcByteHigh 0x42F0E1EBA9EA3693 s b

/-- One byte into the state of the check that POLY selects, held in 64 bits (R305, R306). -/
def checkByte (poly : Nat) (s : BitVec 64) (b : Byte) : BitVec 64 :=
  match poly with
  | 0 => (crc16Byte (s.setWidth 16) b).setWidth 64
  | 1 => (crc32Byte (s.setWidth 32) b).setWidth 64
  | 2 => (crc32cByte (s.setWidth 32) b).setWidth 64
  | _ => crc64Byte s b

def checkBytes (poly : Nat) (s : BitVec 64) (bs : List Byte) : BitVec 64 :=
  bs.foldl (checkByte poly) s

/-- Initial value (R305). -/
def checkInit (poly : Nat) : BitVec 64 :=
  match poly with
  | 0 => 0xFFFF
  | 1 => 0xFFFFFFFF
  | 2 => 0xFFFFFFFF
  | _ => 0

/-- The result: the state after the final exclusive-or (R306). -/
def checkFinal (poly : Nat) (s : BitVec 64) : BitVec 64 :=
  match poly with
  | 1 => s ^^^ 0xFFFFFFFF
  | 2 => s ^^^ 0xFFFFFFFF
  | _ => s

def wordBytesHigh (w : Word) : List Byte :=
  [(w >>> 24).setWidth 8, (w >>> 16).setWidth 8, (w >>> 8).setWidth 8, w.setWidth 8]

/-- CRC-32C of the bytes (R305). -/
def crc32c (bs : List Byte) : Word :=
  (checkFinal 2 (checkBytes 2 (checkInit 2) bs)).setWidth 32

/-- CRC-32C with a fold word before the bytes (R307). -/
def crc32cFold (fold : Word) (bs : List Byte) : Word := crc32c (wordBytesHigh fold ++ bs)

/-- The trailer of a command or completion: the tag as fold word, then the header and the body,
most significant byte of each word first (R275). -/
def cmdTrailer (ws : List Word) : Word :=
  crc32cFold ((ws.headD 0).setWidth 16 |>.setWidth 32) (ws.flatMap wordBytesHigh)

/-- CRC-8, polynomial x^8 + x^2 + x + 1, initial value 0, most significant bit first (R186). -/
def crc8 (bs : List Byte) : Byte := bs.foldl (fun (s : Byte) b => times 8 (crcBitHigh (0x07 : Byte)) (s ^^^ b)) 0

end Sys2Proof.Machine
end

