-- ==== Sys2Proof/Machine/Checks.lean ====
section
/-! DEFINITION. Check units: items of the fixed duties, and host jobs (R304 to R314). -/

namespace Sys2Proof.Machine

/-- An item of a fixed-duty unit without a mismatch: counted, its 32-bit result in RESULT (R308, R314). -/
def State.chkItem (s : State) (u result : Nat) : State := ((s.inc (chkA u 0x28)).wrN (chkA u 0x20) result).wrN (chkA u 0x24) 0

/-- A mismatch in unit `u` with this result: counted, its event, and its report, at most once per second
from a fixed-duty unit (R308, R313). -/
def State.chkMismatch (s : State) (u result : Nat) : State :=
  let s := (s.inc (chkA u 0x2C)).event (chkA u 0x30) 1
  if 5 ≤ u ∧ u < 8 then s.raise (66 + u) 0xA0 false result else s.raiseLim 1 0 (66 + u) 0xA0 false result

/-- A compared item of a fixed-duty unit. -/
def State.chkCompare (s : State) (u : Nat) (ok : Bool) (result : Nat) : State :=
  if ok then s.chkItem u result else (s.chkItem u result).chkMismatch u result

def State.jobBusy (s : State) (u : Nat) : Bool := s.bit (chkA u 0x1C) 0

/-- Units that serve host jobs (R304). -/
def hostUnit (u : Nat) : Bool := decide (5 ≤ u ∧ u < 8)

/-- CONFIG_INVALID of unit `u` about the register at `a` (R312, R313). -/
def State.chkInvalid (s : State) (u a : Nat) : State := (s.event (chkA u 0x30) 3).raise (66 + u) 0x0B false a

/-- JOB_CTRL.GO: ignored while BUSY, refused out of range, else BUSY (R311, R312). -/
def State.jobGo (s : State) (u : Nat) : State :=
  if !hostUnit u || s.jobBusy u then s
  else if 2 ^ 27 < s.fld (chkA u 0x08) 26 0 + s.fld (chkA u 0x0C) 27 0 then
    (s.setFld (chkA u 0x1C) 3 1 6).chkInvalid u (chkA u 0x18)
  else (s.setFld (chkA u 0x1C) 3 1 0).setBit (chkA u 0x1C) 0 true

/-- A job ends with `status`: BUSY clears and the DONE event sets (R311, R314). -/
def State.jobEnd (s : State) (u status : Nat) : State :=
  ((s.setFld (chkA u 0x1C) 3 1 status).setBit (chkA u 0x1C) 0 false).event (chkA u 0x30) 0

/-- JOB_CTRL.ABORT, or a block reset of the unit (R312). -/
def State.jobAbort (s : State) (u : Nat) : State :=
  if hostUnit u && s.jobBusy u then s.jobEnd u 5 else s

/-- A block reset of the unit: its job is aborted, and without one STATUS returns to 0; RESULT returns to 0 (R296,
R312). -/
def State.chkReset (s : State) (u : Nat) : State :=
  let s := if hostUnit u && s.jobBusy u then s.jobEnd u 5 else s.setFld (chkA u 0x1C) 3 1 0
  (s.wrN (chkA u 0x20) 0).wrN (chkA u 0x24) 0

/-- The low bits of a 64-bit value that take part in a comparison (R308). -/
def checkWidth (poly : Nat) : Nat := match poly with | 0 => 16 | 3 => 64 | _ => 32

/-- The codewords that bytes `a` to `a + n − 1` lie in. -/
def codewords (a n : Nat) : List Nat :=
  if n = 0 then [] else (List.range ((a + n - 1) / 64 - a / 64 + 1)).map (· + a / 64)

/-- The result of a job over the bytes read (R305 to R307, R311). -/
def State.jobResult (s : State) (u : Nat) : Nat :=
  let poly := s.fld (chkA u 0x00) 1 0
  let fold := if s.bit (chkA u 0x00) 2 then wordBytesHigh (s.rd (chkA u 0x04)) else []
  let data := s.qdrGet (s.fld (chkA u 0x08) 26 0) (s.fld (chkA u 0x0C) 27 0)
  (checkFinal poly (checkBytes poly (checkInit poly) (fold ++ data))).toNat

/-- The job's last byte: RESULT and STATUS, or the first uncorrectable word ends it (R311). -/
def State.jobDone (s : State) (u : Nat) : State :=
  let cws := codewords (s.fld (chkA u 0x08) 26 0) (s.fld (chkA u 0x0C) 27 0)
  match cws.find? s.cwBad with
  | some cw =>
    let s := (cws.takeWhile (· ≠ cw) ++ [cw]).foldl (fun s w => s.cwRead w 1) s
    ((s.jobEnd u 4).event (chkA u 0x30) 2).raise (66 + u) 0xA1 false (max (64 * cw) (s.fld (chkA u 0x08) 26 0))
  | none =>
    let r := s.jobResult u
    let w := 2 ^ checkWidth (s.fld (chkA u 0x00) 1 0)
    let same := r % w == (s.nat (chkA u 0x10) + s.nat (chkA u 0x14) * 2 ^ 32) % w
    let cmp := s.bit (chkA u 0x00) 3
    let s := cws.foldl (fun s cw => s.cwRead cw 1) s
    let s := ((s.wrN (chkA u 0x20) r).wrN (chkA u 0x24) (r / 2 ^ 32)).inc (chkA u 0x28)
    let s := s.jobEnd u (if cmp then (if same then 2 else 3) else 1)
    if cmp && !same then s.chkMismatch u (r % 2 ^ 32) else s

def execCheckJobGo (u : Fin 32) (s : State) : Host.Outcome State Fault Refusal :=
  done s (s.hostTo (chkA u.val 0x18) (fun s => s.jobGo u.val))

def execCheckJobDone (u : Fin 32) (s : State) : Host.Outcome State Fault Refusal :=
  done s (if hostUnit u.val && s.jobBusy u.val && s.qdrUp then s.jobDone u.val else s)

def execCheckJobAbort (u : Fin 32) (s : State) : Host.Outcome State Fault Refusal :=
  done s (s.hostTo (chkA u.val 0x18) (fun s => s.jobAbort u.val))

end Sys2Proof.Machine
end

