-- ==== Sys2Proof/Machine/MboxOps.lean ====
section
/-! DEFINITION. Mailboxes: status, completions, replies (R263, R275 to R280, R365).  Mailboxes 0 to 3
are HIF's, 4 is the push mailbox of the twin link. -/

namespace Sys2Proof.Machine

def State.mbox (s : State) (k : Nat) : Mbox := Tab.get s.mboxes Mbox.init k
def State.setMbox (s : State) (k : Nat) (m : Mbox) : State :=
  s.setMboxes (Tab.set s.mboxes Mbox.init k m)

/-- HIF's own completions that wait (R276, R280). -/
def Mbox.ownWaiting (m : Mbox) : Nat := (m.waiting.filter (·.own)).length

/-- REQ_READY (R276). -/
def Mbox.ready (m : Mbox) : Bool :=
  m.held.isNone && decide (m.inFlight.length < 64) && decide (m.ownWaiting < 4)

/-- Mailbox `k` is out of reset and its clock runs. -/
def State.mbRuns (s : State) (k : Nat) : Bool :=
  if k < 4 then s.hifLive && !s.top.failed.contains .hostClk
  else !s.inReset (twnA 0) && !s.top.failed.contains .core

/-- The inter-word timer stands still while REQ_READY is 0 or the clock is stopped (R276). -/
def State.mbTimer (s : State) (k : Nat) : State :=
  let m := s.mbox k
  let runs := m.ready && s.mbRuns k
  match m.stopped with
  | none => if runs || m.partialCmd.isEmpty then s else s.setMbox k { m with stopped := some (s.now - m.lastWord) }
  | some e => if runs then s.setMbox k { m with stopped := none, lastWord := s.now - e } else s

/-- MB_STATUS follows the mailbox; vector 6 + k goes out when REQ_READY rises (R264, R284). -/
def State.mbShow (s : State) (k : Nat) : State :=
  let m := s.mbox k
  let a := mbA k 0x08
  let was := s.bit a 0
  let s := (s.setFld a 23 17 m.inFlight.length).setFld a 16 8 m.partialCmd.length
  let s := s.setBit a 0 m.ready
  let s := if !was && m.ready && decide (k < 4) then s.msix (6 + k) else s
  s.mbTimer k

/-- Changes mailbox `k` and shows it. -/
def State.mbSet (s : State) (k : Nat) (m : Mbox) : State := (s.setMbox k m).mbShow k

/-- A completion becomes ready (R280). -/
def State.mbReady (s : State) (k : Nat) (c : Cpl) : State :=
  let m := s.mbox k
  s.mbSet k { m with waiting := m.waiting ++ [c] }

/-- A completion of the mailbox's own: no body, and the tag is not recorded unless it ends one. -/
def ownCpl (status : Nat) (tag : Half) : Cpl :=
  { status := BitVec.ofNat 8 status, tag := tag, body := [], own := true, ends := false, keeps := false }

/-- A server's completion. -/
def serverCpl (status : Nat) (tag : Half) (body : List Word) : Cpl :=
  { status := BitVec.ofNat 8 status, tag := tag, body := body, own := false, ends := true, keeps := true }

/-- Header and body of a completion (R275). -/
def Cpl.words (c : Cpl) : List Word :=
  BitVec.ofNat 32 (c.status.toNat * 2 ^ 24 + c.body.length % 256 * 2 ^ 16 + c.tag.toNat) :: c.body

/-- RSP is emptied (R280); its words read 0 from then on (assumption 13). -/
def State.rspEmpty (s : State) (k : Nat) : State :=
  (s.clearRegs (mbA k 0x400) (mbA k 0x804)).setBit (mbA k 0x08) 1 false

/-- The next waiting completion is loaded: registers with the trailer, RSP_READY, its event and vector;
a server's ends its in-flight record and is remembered, 64 at most (R278, R280). -/
def State.rspLoad (s : State) (k : Nat) : State :=
  let m := s.mbox k
  match m.waiting with
  | [] => s
  | c :: rest =>
    let m := { m with waiting := rest,
                      inFlight := if c.ends then m.inFlight.filter (· ≠ c.tag) else m.inFlight,
                      memory := if c.keeps then (c :: m.memory.filter (fun d => d.tag ≠ c.tag)).take 64
                                else m.memory }
    let sum := cmdTrailer c.words
    let s := (s.chkItem 0 sum.toNat).wrAll (mbA k 0x400) (c.words ++ [sum])
    let s := ((s.setBit (mbA k 0x08) 1 true).event (mbA k 0x0C) 0).mbSet k m
    if k < 4 then s.msix (2 + k) else s

/-- What a HIF reset leaves of a mailbox: completions of its server, in the reply furrow as far as they have come, and
a command held for the request furrow (R263; DEDUCED, assumption 17). -/
def Mbox.afterReset (m : Mbox) : Mbox :=
  { Mbox.init with waiting := m.waiting.filter (!·.own), held := m.held, reply := m.reply, replyNext := m.replyNext,
                   replySkip := m.replySkip }

/-- Mailbox `k` is left as `m`, with RSP empty and its event bits clear; counters and SEQ are kept (R263). -/
def State.mbReset (s : State) (k : Nat) (m : Mbox) : State :=
  (((s.setMbox k m).rspEmpty k).setFld (mbA k 0x0C) 23 0 0).wrN (mbA k 0x08) m.ready.toNat

/-! ### Commands in items (R279) -/

/-- The items that carry the words: word lists of at most 64, with the item's number from `i`. -/
def chunks (fuel : Nat) (i : Nat) (ws : List Word) : List (List Half) :=
  match fuel with
  | 0 => []
  | fuel + 1 =>
    let part := ws.take 64
    let last := decide (ws.length ≤ 64)
    let item := BitVec.ofNat 16 (last.toNat * 32768 + i * 256 + part.length) ::
      part.flatMap (fun (w : Word) => [(w >>> 16).setWidth 16, w.setWidth 16])
    if last then [item] else item :: chunks fuel (i + 1) (ws.drop 64)

def cmdItems (ws : List Word) : List (List Half) := chunks 4 0 ws

/-- Publishes all items of a command if they fit together (R250). -/
def State.publishCmd (s : State) (k : Nat) (ws : List Word) : Bool × State :=
  let items := cmdItems ws
  if s.furRoom (36 + k) < (items.map (fun i => 1 + i.length)).sum then (false, s)
  else (true, items.foldl (fun s i => (s.publish (36 + k) (112 + k) 7 false i).2) s)

/-- Words back from pairs of data words, bits [31:16] first. -/
def pairWords : List Half → List Word
  | h :: l :: rest => (h ++ l) :: pairWords rest
  | _ => []

/-- A reply breaks R279: MALFORMED_REPLY with the tag of its first word, if one came; items are
skipped up to the next of index 0. -/
def State.mbMalformed (s : State) (k : Nat) : State :=
  let m := s.mbox k
  let c := match m.reply with
    | w :: _ => { ownCpl 5 (w.setWidth 16) with ends := true, keeps := true }
    | [] => ownCpl 5 0
  (s.setMbox k { m with reply := [], replyNext := 0, replySkip := true }).mbReady k c

/-- A well-formed item of the index awaited joins the reply; the last one completes it, if the words are
as many as the header says (R279). -/
def State.mbJoin (s : State) (k : Nat) (last : Bool) (ws : List Word) : State :=
  let m := s.mbox k
  let all := m.reply ++ ws
  let s := s.setMbox k { m with reply := all, replyNext := m.replyNext + 1, replySkip := false }
  if !last then s
  else
    match all with
    | h :: body =>
      if body.length = bitsOf h.toNat 23 16 then
        (s.setMbox k { s.mbox k with reply := [], replyNext := 0 }).mbReady k
          (serverCpl (bitsOf h.toNat 31 24) (h.setWidth 16) body)
      else s.mbMalformed k
    | [] => s.mbMalformed k

/-- One item of a reply furrow (R279): KIND, and its data words. -/
def State.mbItem (s : State) (k kind : Nat) (words : List Half) : State :=
  let d0 := (words.headD 0).toNat
  let n := bitsOf d0 7 0
  let idx := bitsOf d0 9 8
  let m := s.mbox k
  if m.replySkip && idx != 0 then s
  else if kind ≠ 7 ∨ words.length ≠ 1 + 2 * n ∨ n = 0 ∨ 64 < n then s.mbMalformed k
  else if idx = m.replyNext ∧ m.replyNext < 4 then s.mbJoin k (bitsOf d0 15 15 == 1) (pairWords (words.drop 1))
  else if idx = 0 then (s.mbMalformed k).mbJoin k (bitsOf d0 15 15 == 1) (pairWords (words.drop 1))
  else s.mbMalformed k

end Sys2Proof.Machine
end

