-- ==== Sys2Proof/Machine/TwnOps.lean ====
section
/-! DEFINITION. The twin link: states, frames, the reliable sequence (R354 to R360, R365, R366). -/

namespace Sys2Proof.Machine

/-- LINK_STATE: 0 DOWN, 1 TRAINING, 2 UP, 3 ROLE_CLASH (R355). -/
def State.linkState (s : State) : Nat := s.fld (twnA 0x104) 1 0
def State.setLinkState (s : State) (v : Nat) : State := s.setFld (twnA 0x104) 1 0 v

/-- BOARD_ROLE.ROLE (R354). -/
def State.boardRole (s : State) : Nat := s.fld (topA 0x320) 1 0

/-- TWN_CTRL.EN is set, the role is set, all four lanes are in block lock and none reports hi_ber
(R355). -/
def State.lanesGood (s : State) : Bool :=
  s.bit (twnA 0x100) 0 && decide (1 ≤ s.boardRole ∧ s.boardRole ≤ 2) && s.fld (twnA 0x104) 7 4 == 15 &&
    s.twn.hiBer.isEmpty

/-- The block runs: out of reset with CORE_CLK (R27, R267). -/
def State.twnRuns (s : State) : Bool := !s.inReset (twnA 0) && !s.top.failed.contains .core

/-! ### Sending (R357 to R360) -/

/-- Header words of a frame (R357). -/
def twnHead (type seq ack len : Nat) (rel : Bool) : List Word :=
  [BitVec.ofNat 32 (type * 2 ^ 28 + rel.toNat * 2 ^ 24 + seq % 65536), BitVec.ofNat 32 (ack % 65536 * 65536 + len % 65536)]

/-- The trailer over header and body, with SEQ as fold word (R357). -/
def twnSum (seq : Nat) (ws : List Word) : Word := crc32cFold (BitVec.ofNat 32 (seq % 65536)) (ws.flatMap wordBytesHigh)

/-- The words of a frame: header, body, trailer. -/
def twnWords (type seq ack : Nat) (rel : Bool) (body : List Word) : List Word :=
  let ws := twnHead type seq ack (4 * body.length) rel ++ body
  ws ++ [twnSum seq ws]

/-- A frame leaves; unit 3 computes its trailer (R357). -/
def State.twnEmit (s : State) (type seq : Nat) (rel : Bool) (body : List Word) : State :=
  let ws := twnWords type seq s.twn.expected rel body
  ((s.inc (twnA 0x110)).chkItem 3 (ws.getLastD 0).toNat).emit (.twin type seq ws)

/-- An unreliable frame, with its own count (R360). -/
def State.twnUnrel (s : State) (type : Nat) (body : List Word) : State :=
  let q := s.twn.unrelTx
  (s.setTwn { s.twn with unrelTx := (q + 1) % 65536 }).twnEmit type q false body

/-- A reliable frame is sent and kept; while 256 are kept it waits (R359). -/
def State.twnRel (s : State) (type : Nat) (body : List Word) : State :=
  let t := s.twn
  if 256 ≤ t.kept.length then s.setTwn { t with waitingTx := t.waitingTx ++ [(type, body)] }
  else
    (s.setTwn { t with kept := t.kept ++ [(t.nextSeq, type, s.now, body)],
                       nextSeq := (t.nextSeq + 1) % 65536 }).twnEmit type t.nextSeq true body

/-- Waiting frames go out as room is made: `n` at most. -/
def State.twnDrain (s : State) : Nat → State
  | 0 => s
  | n + 1 =>
    match s.twn.waitingTx with
    | [] => s
    | (ty, b) :: rest =>
      if 256 ≤ s.twn.kept.length then s
      else ((s.setTwn { s.twn with waitingTx := rest }).twnRel ty b).twnDrain n

/-- ACK `x` frees every kept frame before it (R359). -/
def State.twnAck (s : State) (x : Nat) : State :=
  let t := s.twn
  let kept := t.kept.filter (fun e => decide ((e.1 + 65536 - x) % 65536 < 32768))
  if kept.length = t.kept.length then s
  else (s.setTwn { t with kept := kept, keptAt := s.now }).twnDrain t.waitingTx.length

/-- Every kept frame from place `i` of the list onward is sent again, in order (R359). -/
def State.twnResend (s : State) (i : Nat) : State :=
  let again := s.twn.kept.drop i
  let s := s.setTwn { s.twn with kept := s.twn.kept.take i ++ again.map (fun e => (e.1, e.2.1, s.now, e.2.2.2)) }
  let s := again.foldl (fun s e => s.twnEmit e.2.1 e.1 true e.2.2.2) s
  if again.isEmpty then s else (s.addTo (twnA 0x124) again.length).event (twnA 0x108) 4

/-- NAK(expected), at most one for any one expected value within 100 µs (R359). -/
def State.twnNak (s : State) : State :=
  let e := s.twn.expected
  let recent := match s.twn.nakFor with
    | some (x, t) => decide (x = e ∧ s.now < t + 100 * usNs)
    | none => false
  if recent then s
  else (s.setTwn { s.twn with nakFor := some (e, s.now) }).twnUnrel 0 [BitVec.ofNat 32 e]

/-! ### States (R355) -/

/-- FEEDING clears for every dial (R362, R366). -/
def State.stopFeeds (s : State) : State :=
  let s := (List.range 16).foldl (fun s n => s.setBit (twnA (0x200 + 4 * n)) 12 false) s
  s.setTwn { s.twn with fed := [] }

/-- The push mailbox answers every command in flight BUSY; these answers are not remembered, since
the command is resent under its tag (R365). -/
def State.pushBusy (s : State) : State :=
  let m := s.mbox 4
  s.mbSet 4 { m with inFlight := [], waiting := m.waiting ++ m.inFlight.map (ownCpl 7) }

/-- The link leaves UP (R359, R364 to R366, R368). -/
def State.leaveUp (s : State) : State :=
  if s.linkState ≠ 2 then s
  else
    let s := s.setTwn { s.twn with kept := [], waitingTx := [], mateDial := [], dialSentAt := none }
    let s := ((s.setBit (twnA 0x104) 11 false).stopFeeds).pushBusy
    (s.event (twnA 0x108) 1).raise 800 0xC0 true (s.fld (twnA 0x104) 31 16)

/-- The link leaves ROLE_CLASH (R368). -/
def State.leaveClash (s : State) : State :=
  if s.linkState = 3 then s.raise 800 0xC1 true (s.fld (twnA 0x104) 10 9) else s

def State.linkDown (s : State) : State := (s.leaveUp.leaveClash).setLinkState 0

/-- DOWN is left for TRAINING when its conditions hold (R355). -/
def State.linkTrain (s : State) : State :=
  if s.linkState = 0 ∧ s.lanesGood then
    (s.setTwn { s.twn with unrelRx := none, lastHb := s.now, hbAt := none }).setLinkState 1
  else s

/-- Lanes, EN or role changed: DOWN while the conditions fail, else out of it (R355). -/
def State.linkCheck (s : State) : State :=
  if s.lanesGood then s.linkTrain else if s.linkState = 0 then s else s.linkDown

/-- A new session (R355, R364, R365). -/
def State.enterUp (s : State) : State :=
  let s := s.leaveClash.setFld (twnA 0x104) 31 16 (s.fld (twnA 0x104) 31 16 + 1)
  let s := s.setTwn { s.twn with kept := [], waitingTx := [], nextSeq := 0, expected := 0, nakFor := none,
                                 wholeAt := none }
  let s := s.setRts { s.rts with mateMemory := [] }
  ((s.setLinkState 2).event (twnA 0x108) 0).raise 800 0xC0 false (s.fld (twnA 0x104) 31 16)

/-! ### Receiving (R357, R359, R360) -/

/-- Header words of a received frame whose LENGTH is `len`. -/
def twinHead (h : TwinHdr) (len : Nat) : List Word := twnHead h.type.toNat h.seq.toNat h.ack.toNat len h.rel

/-- A frame with this body that passed R357: counted, its item in unit 2, its ACK taken. -/
def State.twnArrive (s : State) (h : TwinHdr) (body : List Word) : State :=
  let s := (s.inc (twnA 0x114)).chkItem 2 (twnSum h.seq.toNat (twinHead h (4 * body.length) ++ body)).toNat
  if s.linkState = 2 then s.twnAck h.ack.toNat else s

/-- An unreliable frame is accepted, or discarded as a duplicate; `lost` is the counter that takes the
gap in counts, if the frame's type has one (R360). -/
def State.twnCount (s : State) (h : TwinHdr) (lost : Option Nat) : Bool × State :=
  let q := h.seq.toNat
  match s.twn.unrelRx with
  | none => (true, s.setTwn { s.twn with unrelRx := some q })
  | some last =>
    let d := (q + 65536 - last) % 65536
    if d = 0 ∨ 32768 ≤ d then (false, s.inc (twnA 0x120))
    else
      let s := s.setTwn { s.twn with unrelRx := some q, dialGap := s.twn.dialGap || d != 1 }
      (true, match lost with | some o => s.addTo (twnA o) (d - 1) | none => s)

/-- A reliable frame is accepted, or discarded as ahead or behind (R359). -/
def State.twnSeq (s : State) (h : TwinHdr) : Bool × State :=
  let d := (h.seq.toNat + 65536 - s.twn.expected) % 65536
  if d = 0 then (true, s.setTwn { s.twn with expected := (s.twn.expected + 1) % 65536 })
  else if d < 32768 then (false, (s.inc (twnA 0x11C)).twnNak)
  else (false, s.inc (twnA 0x120))

/-- A reliable frame of the link: what `f` does happens if it is accepted while the link is UP. -/
def State.twnReliable (s : State) (h : TwinHdr) (body : List Word) (f : State → State) : State :=
  if s.twnRuns && decide (s.linkState ≠ 0) then
    let s := s.twnArrive h body
    if s.linkState ≠ 2 then s
    else match s.twnSeq h with
      | (true, s) => f s
      | (false, s) => s
  else s

/-- A frame sent every 1 ms is due (R358). -/
def State.everyMs (s : State) (last : Option Nat) : Bool := match last with | none => true | some t => decide (t + msNs ≤ s.now)

/-- A block reset of the link: DOWN, with its conditions reported cleared; sequences, status, what was shown of the mate
and the push mailbox as at reset, so that lanes lock anew.  Counters and APP_TX are kept (R296, R368; assumption 53). -/
def State.twnReset (s : State) : State :=
  let s := (s.linkDown.wrN (twnA 0x104) 0).clearRegs (twnA 0x148) (twnA 0x154)
  let s := (List.range 16).foldl (fun s n => (s.setBit (twnA (0x200 + 4 * n)) 12 false).setFld (twnA (0x200 + 4 * n)) 30 16 0x7F00) s
  let s := ((s.clearRegs (twnA 0x280) (twnA 0x2C0)).clearRegs (twnA 0x400) (twnA 0x580)).clearRegs (twnA 0xA00) (twnA 0xB00)
  (s.mbReset 4 Mbox.init).setTwn { Twn.init with drops := s.twn.drops }

end Sys2Proof.Machine
end

