-- ==== Sys2Proof/Machine/RtsOps.lean ====
section
/-! DEFINITION. Rootstock: directory, image rules, update commands, confirmation, fallback, settings
(R330 to R350). -/

namespace Sys2Proof.Machine

/-! ### Flash (R330, R331) -/

def dirBase (c : Nat) : Nat := 0x1000 * c
def bankBase (b : Nat) : Nat := 0x010000 + 0x078000 * b
def slotBase (k : Nat) : Nat := 0x100000 + 0x400000 * k

def State.flashWord (s : State) (a : Nat) : Nat := leNat (s.flashGet a 4)

/-- CRC-32C of `n` bytes of flash (R305, no fold). -/
def State.flashCrc (s : State) (a n : Nat) : Nat := (crc32c (s.flashGet a n)).toNat

/-- GENERATION of a directory copy, if the copy is valid (R331; word order: assumption 14). -/
def State.dirGen (s : State) (c : Nat) : Option Nat :=
  let a := dirBase c
  if s.flashWord a = 0x52444952 ∧ s.flashWord (a + 24) = s.flashCrc a 24 then some (s.flashWord (a + 4))
  else none

/-- The valid copy with the higher GENERATION. -/
def State.dirNow (s : State) : Option Nat :=
  match s.dirGen 0, s.dirGen 1 with
  | some g, some h => some (if g < h then 1 else 0)
  | some _, none => some 0
  | none, some _ => some 1
  | none, none => none

def State.slotState (s : State) (k : Nat) : Nat := s.fld (rtsA (0x140 + 4 * k)) 2 0
def State.slotVersion (s : State) (k : Nat) : Nat := s.nat (rtsA (0x148 + 4 * k))

/-- The copy with the lower GENERATION is written with the higher one plus 1 (R331). -/
def State.writeDir (s : State) : State :=
  let c := match s.dirNow with | some c => 1 - c | none => 0
  let g := match s.dirNow with | some c => (s.dirGen c).getD 0 + 1 | none => 1
  let bs := [0x52444952, g, s.slotState 0, s.slotVersion 0, s.slotState 1, s.slotVersion 1].flatMap leBytes
  s.flashPut (dirBase c) (bs ++ leBytes (crc32c bs).toNat)

/-- STATE of a slot changes, in the registers and in the directory. -/
def State.setSlot (s : State) (k st : Nat) : State := (s.setFld (rtsA (0x140 + 4 * k)) 2 0 st).writeDir

/-- The slot in state `st`. -/
def State.slotIn (s : State) (st : Nat) : Option Nat := [0, 1].find? (fun k => s.slotState k == st)

/-! ### Image rules (R332, R333, R335) -/

/-- A little-endian word of a header given as bytes. -/
def hdrWord (bs : List Byte) (o : Nat) : Nat := leNat ((bs.drop o).take 4)

/-- The field rules of header bytes 0x000 to 0x0FF, TARGET apart (R332). -/
def hdrFieldsOk (bs : List Byte) : Bool :=
  let w := hdrWord bs
  w 0 == 0x5343494F && w 4 == 1 && decide (w 0x0C ≤ 63) &&
    decide (w 0x10 % 4096 = 0 ∧ 8192 ≤ w 0x10 ∧ w 0x10 ≤ 4190208) &&
    decide (1 ≤ w 0x14 ∧ w 0x14 ≤ 65535) && decide (w 0x20 < 65536) &&
    (w 0x28 == 0 || decide (60 ≤ w 0x28 ∧ w 0x28 ≤ 86400)) &&
    ((bs.drop 0x2C).take 0xD0).all (· == 0) &&
    w 0xFC == (crc32c (bs.take 0xFC)).toNat

/-- TARGET names step B0 (R332). -/
def hdrTargetOk (bs : List Byte) : Bool := hdrWord bs 0x24 == 0x819200B0

/-- A table or memory image of an entry lies within the content blocks (R333). -/
def partOk (len off n : Nat) : Bool := n == 0 || (off % 4 == 0 && decide (4096 ≤ off ∧ off + n ≤ len))

/-- The rules of one bed-table entry, given as its 128 bytes (R333). -/
def entryOk (len : Nat) (e : List Byte) : Bool :=
  let w := hdrWord e
  w 0x7C == (crc32c (e.take 0x7C)).toNat &&
    w 0x04 % 2 == 0 && decide (2 ≤ w 0x04 ∧ w 0x04 ≤ 65536) && partOk len (w 0x00) (w 0x04) &&
    w 0x0C == 1024 && partOk len (w 0x08) 1024 &&
    (w 0x14 == 0 || w 0x14 == 256) && partOk len (w 0x10) (w 0x14) &&
    (w 0x1C == 0 || w 0x1C == 1024) && partOk len (w 0x18) (w 0x1C) &&
    w 0x24 % 2 == 0 && decide (w 0x24 ≤ 131072) && partOk len (w 0x20) (w 0x24) &&
    (w 0x30 == 0 || w 0x30 == 16) && decide (w 0x34 < 2 ^ 19) && decide (w 0x3C < 2 ^ 26) &&
    decide (w 0x38 ≤ w 0x3C) && ((e.drop 0x50).take 0x2C).all (· == 0)

/-- The header rules for a whole image of which `read` gives `n` bytes from an offset (R332, R333). -/
def imageHdrOk (read : Nat → Nat → List Byte) : Bool :=
  let h := read 0 256
  hdrFieldsOk h && hdrTargetOk h && (read 0x900 0x700).all (· == 0) &&
    (List.range 16).all (fun l => !(hdrWord h 0x20).testBit l || entryOk (hdrWord h 0x10) (read (0x100 + 0x80 * l) 128))

/-- The signature over the image at QDR address `a` verifies (R334). -/
def State.imageSigned (s : State) (a : Nat) : Bool :=
  let len := s.qdrWord (a + 0x10)
  signatureOk (s.qdrGet a len) (s.qdrGet (a + len) 4096)

def State.minLevel (s : State) : Nat := s.fld (rtsA 0x110) 6 0

/-! ### QDR as Rootstock writes it: port B, codeword by codeword (R372, R375) -/

def State.qdrStore (s : State) (p a : Nat) (bs : List Byte) : Nat → State
  | 0 => s
  | fuel + 1 =>
    if bs.isEmpty then s
    else
      let n := min (64 - a % 64) bs.length
      let s := if n = 64 then s.cwWriteWhole (a / 64) bs else s.cwWrite p a (bs.take n)
      s.qdrStore p (a + n) (bs.drop n) fuel

def State.rtsStore (s : State) (a : Nat) (bs : List Byte) : State := s.qdrStore 1 a bs (bs.length + 1)

/-! ### Answers (R275, R340, R365) -/

/-- The command is answered: on MB0, or by an IMAGE_RSP frame while the link is UP; a mate's completion
is remembered (R278, R365). -/
def State.rtsReply (s : State) (src : Source) (c : Cpl) : State :=
  match src with
  | .host => s.mbReady 0 c
  | .mate =>
    let s := if c.keeps then
      s.setRts { s.rts with mateMemory := (c :: s.rts.mateMemory.filter (fun d => d.tag ≠ c.tag)).take 64 } else s
    if s.linkState = 2 then s.twnRel 5 c.words else s

/-- A refusal is reported and answered (R351). -/
def State.rtsRefuse (s : State) (src : Source) (tag : Half) (status : Nat) : State :=
  let s := (s.event (rtsA 0x104) 4).raise 65 0xB5 false (status + match src with | .host => 0 | .mate => 256)
  s.rtsReply src (serverCpl status tag [])

/-- An accepted command of the claimant keeps the claim for 60 s more (R344). -/
def State.rtsOk (s : State) (src : Source) (tag : Half) (body : List Word) : State :=
  let code := match src with | .host => 1 | .mate => 2
  let s := if s.fld (rtsA 0x100) 17 16 = code then s.setRts { s.rts with claimAt := s.now } else s
  s.rtsReply src (serverCpl 0 tag body)

/-- Lengths that the opcodes take (R340); none for an opcode not served to the source. -/
def rtsLengths (src : Source) (op : Nat) : Option (Nat × Nat) :=
  match op with
  | 0x01 => some (0, 0)
  | 0x10 => some (64, 64)
  | 0x11 => some (4, 255)
  | 0x12 => some (0, 0)
  | 0x13 => match src with | .host => some (2, 2) | .mate => none
  | 0x14 => some (0, 0)
  | _ => none

def cmdOp (ws : List Word) : Nat := bitsOf (ws.headD 0).toNat 31 24
def cmdTag (ws : List Word) : Half := (ws.headD 0).setWidth 16

/-- A command is delivered to Rootstock: header and body (R277, R340). -/
def State.rtsDeliver (s : State) (src : Source) (ws : List Word) : State :=
  match rtsLengths src (cmdOp ws) with
  | none => s.rtsRefuse src (cmdTag ws) 0x06
  | some (lo, hi) =>
    let n := ws.length - 1
    if n < lo ∨ hi < n then s.rtsRefuse src (cmdTag ws) 0x02
    else s.setRts { s.rts with queue := s.rts.queue ++ [(src, ws)] }

/-- Rootstock can serve opcode `op` now: BEGIN, BLOCK and COMMIT need QDR, but for the hold of R350, in which
none of them reaches it (R336, R341). -/
def State.rtsServes (s : State) (op : Nat) : Bool :=
  decide (2 ≤ s.top.boot) && (decide (op < 0x10 ∨ 0x12 < op) || s.qdrUp || s.rts.held350)

/-- The command at the head of Rootstock's queue, if it comes from `src` and has opcode `op`. -/
def State.rtsTake (s : State) (src : Source) (op : Nat) : Option (List Word × State) :=
  match s.rts.queue with
  | (src', ws) :: rest =>
    if src' = src ∧ cmdOp ws = op ∧ s.rtsServes op then
      some (ws, s.setRts { s.rts with queue := rest })
    else none
  | [] => none

/-! ### Claims and staging (R341 to R344) -/

def srcCode (src : Source) : Nat := match src with | .host => 1 | .mate => 2
def State.claim (s : State) : Nat := s.fld (rtsA 0x100) 17 16

/-- The claim is released and the staged data discarded. -/
def State.dropClaim (s : State) : State :=
  (s.setFld (rtsA 0x100) 17 16 0).setRts { s.rts with header := [], written := [], committing := none }

/-- An activation is in progress or a slot is TRIAL (R341). -/
def State.trialPending (s : State) : Bool := (s.slotIn 4).isSome || s.actState != 0

/-- The slot not holding the CONFIRMED image; with none CONFIRMED the one not running
(assumption 15). -/
def State.stagingSlot (s : State) : Nat :=
  match s.slotIn 2 with
  | some k => 1 - k
  | none => 1 - s.fld (rtsA 0x100) 4 4

/-- Words as the bytes they stage: little-endian, as the image's own words are (R332). -/
def imageBytes (ws : List Word) : List Byte := ws.flatMap (fun w => leBytes w.toNat)

def State.rtsBegin (s : State) (src : Source) (tag : Half) (body : List Word) : State :=
  let bs := imageBytes body
  if (s.claim ≠ 0 ∧ s.claim ≠ srcCode src) ∨ s.rts.committing.isSome then s.rtsRefuse src tag 0x07
  else if s.trialPending then s.rtsRefuse src tag 0x8C
  else if !hdrFieldsOk bs then s.rtsRefuse src tag 0x80
  else if !hdrTargetOk bs then s.rtsRefuse src tag 0x81
  else if hdrWord bs 0x0C < s.minLevel then s.rtsRefuse src tag 0x82
  else if s.claim = srcCode src ∧ s.rts.header = body then s.rtsOk src tag []
  else
    let k := s.stagingSlot
    let s := s.setFld (rtsA 0x100) 17 16 (srcCode src)
    let s := s.setRts { s.rts with header := body, stagedSlot := k,
                                   written := (List.range 64).map (fun i => (i, true)) }
    let s := (s.setSlot k 0).wrN (rtsA 0x10C) 0
    (s.rtsStore stagingBase bs).rtsOk src tag []

/-- LENGTH of the claimed header. -/
def State.stagedLen (s : State) : Nat := (s.rts.header.getD 4 0).toNat

def State.rtsBlock (s : State) (src : Source) (tag : Half) (body : List Word) : State :=
  let off := (body.getD 0 0).toNat
  let len := (body.getD 1 0).toNat
  let n := body.length - 3
  let data := (body.drop 2).take n
  let bs := imageBytes data
  let crc := body.getD (n + 2) 0
  let sum := crc32cFold (body.getD 0 0) bs
  if s.claim ≠ srcCode src then s.rtsRefuse src tag 0x83
  else if s.rts.committing.isSome then s.rtsRefuse src tag 0x07
  else if len = 0 ∨ len ≠ 4 * n then s.rtsRefuse src tag 0x02
  else if off % 4 ≠ 0 ∨ s.stagedLen + 4096 < off + len then s.rtsRefuse src tag 0x85
  else
    let s := s.chkCompare 1 (sum == crc) sum.toNat
    if sum ≠ crc then s.rtsRefuse src tag 0x86
    else
      let same := (List.range n).all (fun i =>
        !Tab.get s.rts.written false (off / 4 + i) ||
          s.qdrWord (stagingBase + off + 4 * i) == (data.getD i 0).toNat)
      if !same then s.rtsRefuse src tag 0x84
      else
        let w := (List.range n).foldl (fun t i => Tab.set t false (off / 4 + i) true) s.rts.written
        ((s.setRts { s.rts with written := w }).rtsStore (stagingBase + off) bs).rtsOk src tag []

/-- A commit that fails: the slot stays EMPTY, the claim is released, the staged data discarded. -/
def State.commitFail (s : State) (src : Source) (tag : Half) (status : Nat) : State :=
  s.dropClaim.rtsRefuse src tag status

def State.rtsCommit (s : State) (src : Source) (tag : Half) : State :=
  if s.claim ≠ srcCode src then s.rtsRefuse src tag 0x83
  else if s.rts.committing.isSome then s.rtsRefuse src tag 0x07
  else if !(List.range ((s.stagedLen + 4096) / 4)).all (fun i => Tab.get s.rts.written false i) then
    s.commitFail src tag 0x87
  else if !s.imageSigned stagingBase then s.commitFail src tag 0x88
  else s.setRts { s.rts with committing := some (src, tag) }

/-! ### Settings (R349) -/

/-- The mirror's words. -/
def State.mirrorWords (s : State) : List Nat := (List.range 0x40000).map (fun i => s.qdrWord (mirrorBase + 4 * i))

/-- The records of a list of words: each header, length in bytes, data, CRC; they end at a header of 0
or at one that does not fit (assumption 16). -/
def settingsRecords (fuel : Nat) (ws : List Nat) : List (List Nat) :=
  match fuel, ws with
  | fuel + 1, h :: len :: rest =>
    let n := (len + 3) / 4 + 1
    if h = 0 ∨ rest.length < n then []
    else (h :: len :: rest.take n) :: settingsRecords fuel (rest.drop n)
  | _, _ => []

/-- Records are kept where `keep` says so of their format; the others are deleted and the rest moves
up. -/
def State.filterSettings (s : State) (keep : Nat → Bool) : State :=
  let recs := settingsRecords 0x40000 s.mirrorWords
  let left := recs.filter (fun r => keep (r.headD 0 / 65536))
  if left.length = recs.length then s
  else
    let used := recs.flatten.length
    let ws := left.flatten
    s.rtsStore mirrorBase ((ws ++ List.replicate (used - ws.length) 0).flatMap leBytes)

/-- SETTINGS_FORMAT, CTX_FORMAT, VERSION, ARB_LEVEL of the image in slot `k`. -/
def State.slotField (s : State) (k o : Nat) : Nat := s.flashWord (slotBase k + o)

/-- Bytes of the mirror that a bank holds, after its generation and CRC (assumption 16). -/
def bankBytes : Nat := 0x78000 - 8

def State.bankGen (s : State) (b : Nat) : Option Nat :=
  let a := bankBase b
  if s.flashWord (a + 4) = (crc32c (leBytes (s.flashWord a) ++ s.flashGet (a + 8) bankBytes)).toNat then
    some (s.flashWord a)
  else none

/-- The bank with the valid higher generation. -/
def State.bankNow (s : State) : Option Nat :=
  match s.bankGen 0, s.bankGen 1 with
  | some g, some h => some (if g < h then 1 else 0)
  | some _, none => some 0
  | none, some _ => some 1
  | none, none => none

/-- SETTINGS_COMMIT: the mirror goes to the other bank with the next generation. -/
def State.settingsCommit (s : State) : State :=
  let b := match s.bankNow with | some b => 1 - b | none => 0
  let g := match s.bankNow with | some b => (s.bankGen b).getD 0 + 1 | none => 1
  let data := s.qdrGet mirrorBase bankBytes
  s.flashPut (bankBase b) (leBytes g ++ leBytes (crc32c (leBytes g ++ data)).toNat ++ data)

/-! ### Confirmation and fallback (R345, R346, R348) -/

/-- The confirmation window of the image in slot `k`, in seconds (R346). -/
def State.windowOf (s : State) (k : Nat) : Nat :=
  if s.slotField k 0x28 = 0 then s.fld (rtsA 0x118) 16 0 else s.slotField k 0x28

/-- The slot on trial is in service: all beds of a live activation run, or its boot has happened. -/
def State.trialRuns (s : State) : Bool := s.actState == 3 || (s.rts.trialBooted && s.actState == 0)

/-- Slot `k` becomes CONFIRMED (R345). -/
def State.confirmSlot (s : State) (k : Nat) : State :=
  let other := s.slotState (1 - k)
  let s := s.setFld (rtsA (0x140 + 4 * k)) 2 0 2
  let s := if other = 0 ∨ other = 5 then s.writeDir else s.setSlot (1 - k) 3
  let lvl := max s.minLevel (s.slotField k 0x0C)
  let s := s.setFld (rtsA 0x110) 6 0 lvl
  let f := s.slotField k 0x14
  let s := s.filterSettings (· == f)
  let s := (s.setAct 0).setBit (rtsA 0x100) 5 false
  let s := s.setRts { s.rts with trialSlot := none, trialBooted := false, windowEnds := none, minLevel := lvl }
  (s.event (rtsA 0x104) 1).raise 65 0xB2 false (s.slotVersion k)

/-- A write of CONFIRM (R338, R345). -/
def State.confirm (s : State) (v : Nat) : State :=
  let run := s.fld (rtsA 0x100) 4 4
  match s.slotIn 4 with
  | some k =>
    if s.slotVersion k = v ∧ s.trialRuns then
      let s := if s.actState = 3 then s.setRts { s.rts with area := 1 - s.rts.area } else s
      s.confirmSlot k
    else s.raise 65 0xB9 false v
  | none =>
    if (s.slotIn 2).isNone ∧ s.top.boot = 8 ∧ s.slotState run = 1 ∧ s.slotVersion run = v ∧ s.actState = 0 then
      s.confirmSlot run
    else s.raise 65 0xB9 false v

/-- A bed being loaded is given up: its handlers are dropped and it is SPARE again. -/
def State.giveUpMove (s : State) : State :=
  match s.movingBed with
  | none => s
  | some nb =>
    let s := (s.activeKeys nb).foldl (fun s k => s.dropHandler k) s
    s.abandonMove 16 nb

/-- Beds that run the image of the trial, in the order of the way back (R348). -/
def State.bedsToReturn (s : State) : List Nat :=
  [0, 15, 14, 13, 12, 11, 10, 9, 8, 7, 6, 5, 4, 3, 2, 1].filter (fun l =>
    match s.byLbed l with
    | some b => (s.bed b).area == 1 - s.rts.area
    | none => false)

/-- FALLBACK is reported (R346, R351). -/
def State.fallbackReport (s : State) : State :=
  (s.event (rtsA 0x104) 2).raise 65 0xB3 false (s.fld (rtsA 0x134) 2 0)

/-- Fallback of the trial in slot `k` (R346). -/
def State.fallback (s : State) (k cause : Nat) : State :=
  let s := (s.inc (rtsA 0x130)).setFld (rtsA 0x134) 2 0 cause
  let s := s.setSlot k 5
  let f := s.slotField k 0x14
  let s := if f = s.slotField (1 - k) 0x14 then s else s.filterSettings (· != f)
  let s := (s.setBit (rtsA 0x100) 5 false).setRts { s.rts with windowEnds := none }
  if s.actState = 0 then (s.fallbackReport).askReset 2 65
  else
    let s := s.giveUpMove.setAct 4
    let s := s.setRts { s.rts with reverse := true, toMove := s.bedsToReturn, fallbackAt := s.now }
    if s.rts.toMove.isEmpty then s.endFallback else s.nextMove

/-- ROLLBACK_NOW takes effect (R346). -/
def State.rollback (s : State) : State :=
  match s.slotIn 4 with
  | some k => s.fallback k 2
  | none => s.raise 65 0xBA false 0

/-- UNREADABLE on a reset trial: every bed stops and the part is held with its registers at reset; TOP,
HIF, RTS and CUR go on (R350). -/
def State.hold350 (s : State) : State :=
  let s := s.setRegs (s.regs.filter (fun e => decide (e.1 < 0x30000 ∨ 0x40000 ≤ e.1 ∧ e.1 < 0x50000)))
  let s := (s.setBit (curA 0x100) 0 false).setBit (curA 0x100) 1 false
  s.setRts { s.rts with held350 := true }
    |>.setCur { s.cur with aliveStarted := false, aliveStopped := false, aliveLost := false }
    |>.setFramers [] |>.setTxs [] |>.setActive [] |>.setTribs [] |>.setMapOhTab [] |>.setSinkHold []
    |>.setPairs [] |>.setGrants [] |>.setCommitRows 0 |>.setSdl 0 s.now |>.setWinStart 0 |>.setPolicy [] |>.setPolicyPending [] |>.setRefs []
    |>.setDials [] |>.setGens [] |>.setTtcs [] |>.setSves [] |>.setBeds [] |>.setCtxs [] |>.setEngines [] |>.setCycles [] |>.setFurs []
    |>.setInv Inv.init |>.setTwn Twn.init |>.setMboxes (s.mboxes.filter (fun e => decide (e.1 < 4)))

/-- SETTINGS_STATUS has been written (R347, R350). -/
def State.settingsWritten (s : State) : State :=
  if s.fld (rtsA 0x120) 1 0 = 2 ∧ s.actState = 0 ∧ s.rts.trialBooted ∧ (s.slotIn 4).isSome then
    ((s.event (rtsA 0x104) 3).raise 65 0xB4 false (s.slotVersion ((s.slotIn 4).getD 0))).hold350
  else s

end Sys2Proof.Machine
end

