-- ==== Sys2Proof/Machine/Mailbox.lean ====
section
/-! DEFINITION. The mailbox commands (R250, R276 to R280, R365). -/

namespace Sys2Proof.Machine

/-- The delivered command counts, and is in flight until its completion is loaded (R277, R280). -/
def State.mbDelivered (s : State) (k : Nat) (tag : Half) : State :=
  let m := s.mbox k
  ((s.inc (mbA k 0x10)).tallyMb k 8 1).mbSet k { m with inFlight := m.inFlight ++ [tag] }

/-- A checked command goes to its server: Rootstock, a request furrow (held there while it does not
fit), or the mate (R250, R279, R365). -/
def State.mbDeliver (s : State) (k : Nat) (ws : List Word) : State :=
  if k = 0 then (s.mbDelivered 0 (cmdTag ws)).rtsDeliver .host ws
  else if k = 4 then
    if s.linkState = 2 then (s.mbDelivered 4 (cmdTag ws)).twnRel 4 ws
    else s.mbReady 4 (ownCpl 7 (cmdTag ws))
  else
    match s.publishCmd k ws with
    | (true, s) => s.mbDelivered k (cmdTag ws)
    | (false, s) => s.mbSet k { s.mbox k with held := some ws }

/-- The checks of R277 on a whole command: header, body, and its trailer. -/
def State.mbCheck (s : State) (k : Nat) (ws : List Word) (trailer : Word) : State :=
  let sum := cmdTrailer ws
  let tag := cmdTag ws
  let s := s.chkCompare 0 (sum == trailer) sum.toNat
  if sum ≠ trailer then
    ((s.inc (mbA k 0x20)).event (mbA k 0x0C) 3).mbReady k (ownCpl 1 tag)
  else
    match (s.mbox k).memory.find? (fun c => c.tag == tag) with
    | some c => ((s.inc (mbA k 0x14)).tallyMb k 9 1).mbReady k { c with own := true, ends := false, keeps := false }
    | none =>
      if (s.mbox k).inFlight.contains tag then s.mbReady k (ownCpl 4 tag) else s.mbDeliver k ws

/-- 10 ms have passed in HOST_CLK without a further word of an incomplete command (R276). -/
def State.mbTimedOut (s : State) (k : Nat) : Bool :=
  let m := s.mbox k
  !m.partialCmd.isEmpty && s.mbRuns k && m.stopped.isNone && m.ready && decide (m.lastWord + 10 * msNs ≤ s.now)

/-- The incomplete command is discarded, counted, answered with TIMEOUT and reported (R276, R282). -/
def State.mbTimeout (s : State) (k : Nat) : State :=
  let tag := (s.mbox k).partialCmd.headD 0
  let s := (s.inc (mbA k 0x18)).event (mbA k 0x0C) 1
  let s := s.mbSet k { s.mbox k with partialCmd := [] }
  let s := s.mbReady k (ownCpl 3 (tag.setWidth 16))
  if k < 4 then (s.hifEvent 6).raiseLim 1000 0 64 0x86 false (k + bitsOf tag.toNat 15 0 * 65536) else s

/-- A word written to REQ_DATA; one that comes when the timeout has run out is a header (R276). -/
def State.reqData (s : State) (k : Nat) (w : Word) : State :=
  let s := if s.mbTimedOut k then s.mbTimeout k else s
  let m := s.mbox k
  if !m.ready then
    let s := (s.inc (mbA k 0x1C)).event (mbA k 0x0C) 2
    if k < 4 then s.raiseLim 1 k 64 0x87 false k else s
  else
    let ws := m.partialCmd ++ [w]
    let len := bitsOf (ws.headD 0).toNat 23 16
    if ws.length = len + 2 then
      (s.mbSet k { m with partialCmd := [] }).mbCheck k (ws.take (len + 1)) w
    else s.mbSet k { m with partialCmd := ws, lastWord := s.now, stopped := none }

/-- MB_CTRL, bit by bit: ABORT, RSP_ACK, FORGET (R276, R278, R280). -/
def State.mbAbort (s : State) (k : Nat) : State := s.mbSet k { s.mbox k with partialCmd := [], stopped := none }

def State.mbForget (s : State) (k : Nat) : State := s.setMbox k { s.mbox k with memory := [] }

def execReqData (mb : Fin 5) (w : Word) (s : State) : Host.Outcome State Fault Refusal :=
  done s (s.hostTo (mbA mb.val 0) (fun s => s.reqData mb.val w))

/-- 10 ms without a further word (R276, R282). -/
def execMbTimeout (mb : Fin 5) (s : State) : Host.Outcome State Fault Refusal :=
  done s (if s.mbTimedOut mb.val then s.mbTimeout mb.val else s)

def execMbAbort (mb : Fin 5) (s : State) : Host.Outcome State Fault Refusal :=
  done s (s.hostTo (mbA mb.val 4) (fun s => s.mbAbort mb.val))

def execRspAck (mb : Fin 5) (s : State) : Host.Outcome State Fault Refusal :=
  done s (s.hostTo (mbA mb.val 4) (fun s => s.rspEmpty mb.val))

def execForget (mb : Fin 5) (s : State) : Host.Outcome State Fault Refusal :=
  done s (s.hostTo (mbA mb.val 4) (fun s => s.mbForget mb.val))

def execRspLoad (mb : Fin 5) (s : State) : Host.Outcome State Fault Refusal :=
  let k := mb.val
  done s (if s.mbRuns k && !s.bit (mbA k 0x08) 1 then s.rspLoad k else s)

/-- A held command is published once all its items fit (R250). -/
def execMbCommandPublish (mb : Fin 5) (s : State) : Host.Outcome State Fault Refusal :=
  let k := mb.val
  done s (match (s.mbox k).held with
    | none => s
    | some ws =>
      if s.mbRuns k then
        match s.publishCmd k ws with
        | (true, s) => (s.setMbox k { s.mbox k with held := none }).mbDelivered k (cmdTag ws)
        | (false, _) => s
      else s)

/-- HIF takes the head item of a reply furrow, while no completion of the server waits and it has
place for one of its own (R279, R280; assumption 17). -/
def State.mbReplyItem (s : State) (k : Nat) : State :=
  let F := 39 + k
  let f := s.fur F
  let m := s.mbox k
  match f.items with
  | [] => s
  | it :: rest =>
    if m.waiting.any (fun c => !c.own) ∨ 4 ≤ m.ownWaiting then s
    else
      let s := (s.setFur F { f with items := rest }).showFur F
      let s := if rest.isEmpty then s.unnotice F else s
      s.mbItem k (it.header.toNat / 4096) it.words

def execMbReplyItem (mb : Fin 5) (s : State) : Host.Outcome State Fault Refusal :=
  let k := mb.val
  done s (if 1 ≤ k ∧ k < 4 ∧ s.mbRuns k then s.mbReplyItem k else s)

end Sys2Proof.Machine
end

