-- ==== Sys2Proof/Machine/Line.lean ====
section
/-! DEFINITION. The bits of a received line: scramblers, the words of a TRS, the line CRC of SDI, the RS(255,239)
decoder as it acts on what the line did to a frame, and the parities of a frame (R30, R40, R43, R45, R49, R62).

A frame is given by the bytes that the line carries at places (row, column), counted from 0 as R54 counts them; a place
that is not listed carries the scrambler's own byte, which is 0x00 before scrambling.  The generator of a scrambler's
sequence, the place of a codeword's symbols and the words of SDI are those of G.709, G.707 and ST 292-1 (assumption 80). -/

namespace Sys2Proof.Machine

/-! ### Scramblers (R30, R43) -/

/-- `a` times z in the field of the polynomial `p` of degree `d`. -/
def gfShift (p d a : Nat) : Nat := if a.testBit (d - 1) then Nat.xor (a * 2) p else a * 2

/-- `a` times `b`, from the top bit of `b` down; `n` bits of `b` are left. -/
def gfMul (p d a b : Nat) : Nat → Nat → Nat
  | 0, acc => acc
  | n + 1, acc =>
    let acc := gfShift p d acc
    gfMul p d a b n (if b.testBit n then Nat.xor acc a else acc)

/-- The power `e` of z; `n` bits of `e` are left. -/
def gfPow (p d e : Nat) : Nat → Nat → Nat
  | 0, acc => acc
  | n + 1, acc =>
    let acc := gfMul p d acc acc d 0
    gfPow p d e n (if e.testBit n then gfShift p d acc else acc)

def parityOf (d a : Nat) : Bool := (List.range d).foldl (fun b i => b != a.testBit i) false

/-- Number of bits set. -/
def popCount (w : Nat) (a : Nat) : Nat := ((List.range w).filter a.testBit).length

/-- Eight bits of a scrambler's sequence from `a` = z^(8m) on, the first in the highest place: every stage is one at
the start, so a bit is the parity of its power of z. -/
def scramByte (p d a : Nat) : Nat → Nat → Nat
  | 0, acc => acc
  | n + 1, acc => scramByte p d (gfShift p d a) n (acc * 2 + (parityOf d a).toNat)

/-- The scrambler of a format: polynomial of its sequence, and degree.  x^7 + x^6 + 1 for SDH, x^16 + x^12 + x^3 + x + 1
for OTN, as recurrences of the sequence. -/
def scrambler (fmt : Nat) : Nat × Nat := if fmt ≤ 2 then (0x83, 7) else (0x1A011, 16)

/-- Columns of a frame row. -/
def frameCols (fmt : Nat) : Nat := match fmt with | 1 => 4320 | 2 => 17280 | _ => 4080

/-- The first byte that is scrambled: after the first row of section overhead, or the MFAS (R43). -/
def scramFrom (fmt : Nat) : Nat := match fmt with | 1 => 144 | 2 => 576 | _ => 6

/-- The scrambler's byte at byte `m` of a frame. -/
def keyAt (fmt m : Nat) : Byte :=
  if m < scramFrom fmt then 0
  else
    let (p, d) := scrambler fmt
    BitVec.ofNat 8 (scramByte p d (gfPow p d (8 * (m - scramFrom fmt)) 24 1) 8 0)

def keyByte (fmt row col : Nat) : Byte := keyAt fmt (row * frameCols fmt + col)

/-- The place of a byte as one number; slots of R54 lie at their row and column. -/
def placeOf (row col : Nat) : Nat := row * 32768 + col
def slotPlace (slot : Nat) : Nat := placeOf (slot / 2048) (slot % 2048)

/-- The 64 bits that a hunter compares, of the last 74 that the line brought: SDI is NRZI and self-synchronising,
x + 1 after x^9 + x^4 + 1, unless descrambling is off; the pattern of SDH and OTN is not scrambled (R30, R32). -/
def seenBits (fmt : Nat) (off : Bool) (w : BitVec 74) : BitVec 64 :=
  let b := w ^^^ (w >>> 1)
  (if decide (8 ≤ fmt) && !off then b ^^^ (b >>> 4) ^^^ (b >>> 9) else w).setWidth 64

/-! ### RS(255,239) (R45) -/

/-- The codeword that holds the symbol at a place: sixteen are interleaved in a row. -/
def fecWordOf (place : Nat) : Nat := place / 32768 * 16 + place % 32768 % 16

/-- The symbols that the line changed, by place. -/
def errTab (errs : List (Nat × Nat × Byte)) : Tab Byte :=
  errs.foldl (fun t e => Tab.set t 0 (placeOf e.1 e.2.1) (Tab.get t 0 (placeOf e.1 e.2.1) ^^^ e.2.2)) []

/-- Symbols in error of codeword `k`. -/
def codewordErrs (t : Tab Byte) (k : Nat) : Tab Byte := t.filter (fun e => fecWordOf e.1 == k)

/-- The codewords in error. -/
def errCodewords (t : Tab Byte) : List Nat := (List.range 64).filter (fun k => !(codewordErrs t k).isEmpty)

/-- A codeword with at most 8 symbols in error can be corrected (R45). -/
def correctable (t : Tab Byte) (k : Nat) : Bool := decide ((codewordErrs t k).length ≤ 8)

/-- What the decoder leaves of the line's errors: mode 0 corrects, modes 1 to 3 pass the data as received. -/
def fecLeft (mode : Nat) (t : Tab Byte) : Tab Byte :=
  if mode = 0 then t.filter (fun e => !correctable t (fecWordOf e.1)) else t

/-- Corrected bits, corrected symbols, uncorrectable codewords, and codewords with a correction. -/
def fecCounts (t : Tab Byte) : Nat × Nat × Nat × Nat :=
  let good := t.filter (fun e => correctable t (fecWordOf e.1))
  let ks := errCodewords t
  let bad := (ks.filter (fun k => !correctable t k)).length
  ((good.map (fun e => popCount 8 e.2.toNat)).sum, good.length, bad, ks.length - bad)

/-! ### The frame after alignment, descrambling and decoding (R43) -/

/-- The bytes of a frame by place, each descrambled unless `off`; the path overhead of R54 (row 12) is given as pointer
interpretation finds it. -/
def lineTab (fmt : Nat) (off : Bool) (bs : List (Nat × Nat × Byte)) : Tab Byte :=
  bs.foldl (fun t e =>
    let key := if off || decide (9 ≤ e.1) || decide (8 ≤ fmt) then 0 else keyByte fmt e.1 e.2.1
    Tab.insert t (placeOf e.1 e.2.1) (e.2.2 ^^^ key)) []

/-- A place that is not listed: 0x00, or what the scrambler left where descrambling is off. -/
def unlisted (fmt : Nat) (off : Bool) (place : Nat) : Byte :=
  if off && decide (place < placeOf 9 0) && decide (fmt < 8) then keyByte fmt (place / 32768) (place % 32768) else 0

/-- The byte at a place. -/
def placeByte (fmt : Nat) (off : Bool) (t : Tab Byte) (place : Nat) : Byte := Tab.get t (unlisted fmt off place) place

/-- The frame with the errors that the decoder leaves. -/
def decoded (fmt : Nat) (off : Bool) (t left : Tab Byte) : Tab Byte :=
  left.foldl (fun u e => Tab.insert u e.1 (placeByte fmt off t e.1 ^^^ e.2)) t

/-! ### Parities (R62) -/

/-- Exclusive or of the scrambler's bytes at the places of `n` rows that `cov` names. -/
def keyParity (fmt n : Nat) (cov : Nat → Nat → Bool) : Byte :=
  (List.range n).foldl (fun b r => (List.range (frameCols fmt)).foldl (fun b c =>
    if cov r c then b ^^^ keyByte fmt r c else b) b) 0

/-- Exclusive or of the bytes of a frame at the places that `cov` names. -/
def parityAt (fmt n : Nat) (off : Bool) (t : Tab Byte) (cov : Nat → Nat → Bool) : Byte :=
  let listed := t.foldl (fun b e =>
    let r := e.1 / 32768
    let c := e.1 % 32768
    if r < 9 ∧ cov r c then b ^^^ e.2 ^^^ (if off then keyByte fmt r c else 0) else b) 0
  if off then listed ^^^ keyParity fmt n cov else listed

/-- SM and PM BIP-8 of a frame: the OPUk, columns 15 to 3,824. -/
def opuParity (fmt : Nat) (off : Bool) (t : Tab Byte) : Byte :=
  parityAt fmt 4 off t (fun _ c => decide (14 ≤ c ∧ c < 3824))

/-- B1 of a frame: all its bytes as the line carried them.  The scrambler's sequence repeats after 127 bytes, whose
exclusive or is 0. -/
def b1Parity (fmt : Nat) (t : Tab Byte) (off : Bool) : Byte :=
  let body := parityAt fmt 9 false t (fun _ _ => true)
  let keys := (List.range ((9 * frameCols fmt - scramFrom fmt) % 127)).foldl (fun b i => b ^^^ keyAt fmt (scramFrom fmt + i)) 0
  if off then body ^^^ (t.foldl (fun b e => if e.1 / 32768 < 9 then b ^^^ keyByte fmt (e.1 / 32768) (e.1 % 32768) else b) 0) ^^^ keys
  else body ^^^ keys

/-- The columns of B2 of an STM-N: 3N bytes. -/
def b2Cols (fmt : Nat) : Nat := frameCols fmt / 90

/-- Byte `k` of B2 of a frame: the frame before scrambling, less rows 1 to 3 of the section overhead. -/
def b2Parity (fmt k : Nat) (off : Bool) (t : Tab Byte) : Byte :=
  parityAt fmt 9 off t (fun r c => c % b2Cols fmt == k && (decide (3 ≤ r) || decide (3 * b2Cols fmt ≤ c)))

/-- B2 of a frame, by byte; without descrambling every byte has scrambler's bits in it. -/
def b2Tab (fmt : Nat) (off : Bool) (t : Tab Byte) : Tab Byte :=
  if off then (List.range (b2Cols fmt)).foldl (fun u k => Tab.set u 0 k (b2Parity fmt k off t)) []
  else
    t.foldl (fun u e =>
      let r := e.1 / 32768
      let c := e.1 % 32768
      if r < 9 ∧ (3 ≤ r ∨ 3 * b2Cols fmt ≤ c) then
        Tab.set u 0 (c % b2Cols fmt) (Tab.get u 0 (c % b2Cols fmt) ^^^ e.2)
      else u) []

/-- Errored bits between a kept B2 and the B2 bytes of a frame: row 5, columns 1 to 3N. -/
def b2Errors (fmt : Nat) (off : Bool) (kept t : Tab Byte) : Nat :=
  ((List.range (b2Cols fmt)).map (fun k =>
    popCount 8 (Tab.get kept 0 k ^^^ placeByte fmt off t (placeOf 4 k)).toNat)).sum

/-! ### SDI words (R40, R49, R62) -/

/-- One bit of CRC-18, x^18 + x^5 + x^4 + 1. -/
def crc18Bit (reg : Nat) (b : Bool) : Nat :=
  let fb := reg.testBit 17 != b
  let r := reg * 2 % 2 ^ 18
  if fb then Nat.xor r 0x31 else r

/-- A 10-bit word, least significant bit first (R30). -/
def crc18Word (reg : Nat) (w : BitVec 10) : Nat := (List.range 10).foldl (fun r i => crc18Bit r (w.getLsbD i)) reg

/-- The CRC that a stream carries is that of its words. -/
def crc18Ok (e : List (BitVec 10) × BitVec 18) : Bool := (e.1.foldl crc18Word 0) == e.2.toNat

/-- An XYZ word of an EAV: bit 9 is 1, bits 1:0 are 0, the protection bits fit F, V and H, and H is 1 (R49). -/
def xyzEav (w : BitVec 10) : Bool :=
  let f := w.getLsbD 8
  let v := w.getLsbD 7
  let h := w.getLsbD 6
  w.getLsbD 9 && h && !w.getLsbD 1 && !w.getLsbD 0 && w.getLsbD 5 == (v != h) && w.getLsbD 4 == (f != h) &&
    w.getLsbD 3 == (f != v) && w.getLsbD 2 == ((f != v) != h)

/-- The XYZ words of `k` streams are identical and valid (R49). -/
def xyzValid (k : Nat) (ws : List (BitVec 10)) : Bool :=
  ws.length == k && (match ws with | w :: rest => xyzEav w && rest.all (· == w) | [] => false)

end Sys2Proof.Machine
end

