-- ==== Sys2Proof/Machine/SdlOps.lean ====
section
/-! DEFINITION. Sundial: policy, references, selection, dial states, output generators
(R129 to R149, R167 to R173, R181 to R185). -/

namespace Sys2Proof.Machine

/-- TTC_EVENTS of channel `n` takes an event; SUMMARY of the line receive framer takes it beside Sundial's (R419). -/
def State.ttcEvent (s : State) (n b : Nat) : State :=
  let t := s.event (ttcA n 0x34) b
  if t.inReset (rxA n 0) then t else t.summary (rxA n 0) 8

def State.ref (s : State) (r : Nat) : Ref := Tab.get s.refs Ref.init r
def State.setRef (s : State) (r : Nat) (x : Ref) : State := s.setRefs (Tab.set s.refs Ref.init r x)

/-- OSC_MODEL_PPB, in 1/256 ppb (R136). -/
def State.oscModel (s : State) : Int := signedOf 32 (s.pol (sdlA 0x100)).toNat

/-- An instant in 2^-16 ns since power-on as Sundial counts it (assumption 85). -/
def State.toSdl (s : State) (time : Nat) : Nat := time - (s.now - s.sdlNow) * 65536

/-- CONFIG_INVALID of a reference, with SDL_EVENTS[0]; of a dial's entry or of a generator, by the dial's source, which
sets no bit of SDL_EVENTS (R149, R150, R190). -/
def State.refInvalid (s : State) (r a : Nat) : State :=
  ((s.event (refA r 0x30) 8).event (sdlA 0x110) 0).raise (144 + r) 0x0B false a

def State.dialInvalid (s : State) (n a : Nat) : State := s.raise (128 + n) 0x0B false a

/-! ### Policy writes (R131, R134, R141) -/

/-- The register at `a` is policy of SDL. -/
def sdlPolicy (a : Nat) : Bool :=
  decide (0x80000 ≤ a ∧ a < 0x100000) && a != sdlA 0x124 && (fieldsAt a).any (fun r => r.ty == .rw)

/-- A KIND that the reference number allows (R131). -/
def kindOk (r kind : Nat) : Bool :=
  match kind with
  | 0 => true
  | 1 => decide (r < 16) | 2 => decide (r < 16) | 3 => decide (r < 16)
  | 4 => decide (16 ≤ r ∧ r < 64) | 5 => decide (16 ≤ r ∧ r < 64) | 6 => decide (16 ≤ r ∧ r < 64)
  | 7 => decide (16 ≤ r ∧ r < 64) | 8 => decide (16 ≤ r ∧ r < 64)
  | 9 => decide (64 ≤ r ∧ r < 80)
  | 10 => decide (80 ≤ r)
  | _ => false

/-- Presets of a KIND (R131): NOM_NUM and NOM_DEN, TOL_PPB, LOSS_TIME_US, GLITCH_NS. -/
def kindPreset (kind : Nat) : Option (Nat × Nat) × Nat × Option Nat × Option Nat :=
  match kind with
  | 1 => (some (15625, 1), 2000, some 1000, none)
  | 2 => (some (15750000, 1001), 2000, some 1000, none)
  | 3 => (some (33750000, 1001), 2000, some 1000, none)
  | 4 => (some (1, 1), 4600, some 1100000, some 20)
  | 5 => (some (10000000, 1), 4600, some 100, some 10)
  | 6 => (some (48000, 1), 4600, some 1000, some 20)
  | 7 => (some (96000, 1), 4600, some 1000, some 20)
  | 8 => (none, 4600, some 1000, some 20)
  | 9 => (none, 4600, none, none)
  | 10 => (some (1, 1), 4600, none, none)
  | _ => (some (0, 1), 4600, some 0, some 0)

/-- A written policy register waits for the window boundary. -/
def State.polPend (s : State) (a : Nat) : State :=
  (s.setBit (sdlA 0x108) 16 true).setPolicyPending (if s.policyPending.contains a then s.policyPending else s.policyPending ++ [a])

/-- Presets of the KIND that REF_CFG now holds. -/
def State.refPresets (s : State) (r : Nat) : State :=
  let (nom, tol, loss, glitch) := kindPreset (s.fld (refA r 0) 7 4)
  let s := match nom with
    | some (n, d) => (((s.wrN (refA r 4) n).polPend (refA r 4)).wrN (refA r 8) d).polPend (refA r 8)
    | none => s
  let s := (s.setFld (refA r 0xC) 19 0 tol).polPend (refA r 0xC)
  let s := match loss with | some v => (s.setFld (refA r 0x10) 23 0 v).polPend (refA r 0x10) | none => s
  match glitch with | some v => s.setFld (refA r 0) 15 8 v | none => s

/-- A write that changes KIND loads its presets; a KIND that is not allowed is stored as 0.  A write of REF_CFG with the KIND
that stands loads none: GLITCH_NS lies in the same word, and each preset can be overwritten after KIND is written (R131). -/
def State.kindWritten (s : State) (r old : Nat) : State :=
  let bad := !kindOk r (s.fld (refA r 0) 7 4)
  let s := if bad then (s.setFld (refA r 0) 7 4 0).refInvalid r (refA r 0) else s
  if s.fld (refA r 0) 7 4 = old then s else s.refPresets r

/-- A write of `v` to a policy register: it reads back at once and waits for its boundary.  NOM_NUM and
NOM_DEN of a tap ignore it (R134). -/
def State.polWrite (s : State) (a : Nat) (v : Word) : State :=
  let r := (a - refA 0 0) / 0x80
  let o := (a - refA 0 0) % 0x80
  let isRef := decide (refA 0 0 ≤ a ∧ a < refA 84 0)
  if isRef && decide (64 ≤ r ∧ r < 80) && (o == 4 || o == 8) then s
  else
    let old := s.fld a 7 4
    let s := (s.wrN a (writeFields false v.toNat (fieldsAt a) (s.nat a))).polPend a
    if isRef && o == 0 then s.kindWritten r old else s

/-! ### References (R129 to R138) -/

def State.refKind (s : State) (r : Nat) : Nat := s.polFld (refA r 0) 7 4

/-- The receive framer that a tap follows (R134). -/
def State.tapLane (s : State) (r : Nat) : Option Nat :=
  let l := s.polFld (refA r 0x40) 7 0
  if l < 192 then some (l + 192 * s.polFld (refA r 0x40) 8 8) else none

/-- Nominal bit rate of a lane by its format, as a fraction (R31, R134). -/
def laneRate (fmt : Nat) (fam1001 : Bool) : Option (Nat × Nat) :=
  let sdi := fun (hz : Nat) => if fam1001 then some (hz * 1000, 1001) else some (hz, 1)
  match fmt with
  | 1 => some (2488320000, 1)
  | 2 => some (9953280000, 1)
  | 3 => some (2488320000 * 255, 238)
  | 4 => some (9953280000 * 255, 237)
  | 5 => some (10312500000 * 255, 237)
  | 6 => some (27950000000, 1)
  | 8 => sdi 1485000000
  | 9 => sdi 2970000000
  | 10 => sdi 5940000000
  | 11 => sdi 11880000000
  | _ => none

/-- Edges per second of a reference, as a fraction; none where its configuration is invalid under R132 or
R134 (R130 to R135). -/
def State.refRate (s : State) (r : Nat) : Option (Nat × Nat) :=
  if 64 ≤ r ∧ r < 80 then
    match s.tapLane r with
    | some f => (laneRate (s.rxFmt f) (s.polFld (refA r 0x40) 9 9 == 1)).map (fun p => (p.1, p.2 * 262144))
    | none => none
  else
    let n := (s.pol (refA r 4)).toNat
    let d := s.polFld (refA r 8) 15 0
    if n = 0 ∨ d = 0 ∨ 20000000 * d < n then none else some (n, d)

/-- A period of the reference in 2^-16 ns, as a fraction (R132). -/
def State.refPeriod (s : State) (r : Nat) : Option (Nat × Nat) :=
  (s.refRate r).map (fun p => (p.2 * secNs * 65536, p.1))

/-- The second input of an LVDS pair (R130). -/
def State.lvdsOff (s : State) (r : Nat) : Bool :=
  decide (17 ≤ r ∧ r < 64) && r % 2 == 1 && s.polFld (sdlA 0x10C) ((r - 17) / 2) ((r - 17) / 2) == 1

/-- The tap is in LOSS with its lane (R134). -/
def State.tapLost (s : State) (r : Nat) : Bool :=
  match s.tapLane r with
  | some f => s.rawBit f 0 || (s.polFld (refA r 0x40) 10 10 == 1 && s.rawBit f 2)
  | none => false

def State.qstate (s : State) (r : Nat) : Nat := s.fld (refA r 0x18) 2 0

/-- FREQ_1S and a tolerance in 1/256 ppb; TOL_PPB 0 acts as 1 (R136, R138). -/
def State.freq1 (s : State) (r : Nat) : Int := s.int (refA r 0x1C)
def State.freq10 (s : State) (r : Nat) : Int := s.int (refA r 0x20)
def State.refTol (s : State) (r : Nat) : Int := (max 1 (s.polFld (refA r 0xC) 19 0) : Nat) * 256

/-- The entry of a LOSS that has outlasted HOLDOFF_MS, in ns, is restoring (R143). -/
def Entry.expire (x : Entry) (now holdoff : Nat) : Entry :=
  match x.leftAt with
  | some t => if t + holdoff < now then { x with restoring := true, timer := 0, leftAt := none } else x
  | none => x

/-- An entry when its reference's QSTATE goes from `old` to `q` (R143). -/
def Entry.follow (x : Entry) (old q now holdoff : Nat) : Entry :=
  if old = 3 then
    if q = 1 ∧ holdoff ≠ 0 then { x with leftAt := some now } else { x with restoring := true, timer := 0, leftAt := none }
  else match x.leftAt with
    | some t =>
      if q = 3 ∧ now ≤ t + holdoff then { x with leftAt := none }
      else { x with restoring := true, timer := 0, leftAt := none }
    | none => x

def entryA (n e : Nat) : Nat := dialA n (0x40 + 4 * e)
def State.entRef (s : State) (n e : Nat) : Nat := s.polFld (entryA n e) 6 0
def State.entPrio (s : State) (n e : Nat) : Nat := s.polFld (entryA n e) 11 8
def State.holdoffNs (s : State) (n : Nat) : Nat := s.polFld (dialA n 4) 15 0 * msNs
def Dial.entry (d : Dial) (e : Nat) : Entry := Tab.get d.entries Entry.init e

/-- Entry `e` of dial `n` at this instant (R143). -/
def State.entryNow (s : State) (n e : Nat) : Entry := ((s.dial n).entry e).expire s.sdlNow (s.holdoffNs n)

/-- The entries that name reference `r` follow its QSTATE (R143). -/
def State.entriesFollow (s : State) (r old q : Nat) : State :=
  (List.range 16).foldl (fun s n =>
    let d := s.dial n
    let es := (List.range 16).foldl (fun t e =>
      if s.entRef n e = r ∧ (s.entPrio n e ≠ 0 ∨ (d.entry e).leftAt ≠ none) then
        Tab.set t Entry.init e ((d.entry e).follow old q s.sdlNow (s.holdoffNs n))
      else t) d.entries
    if es = d.entries then s else s.setDial n { d with entries := es }) s

/-- DRIFT_WARNING (R139). -/
def State.setWarning (s : State) (r : Nat) (on : Bool) : State :=
  if s.bit (refA r 0x18) 3 = on then s
  else ((s.setBit (refA r 0x18) 3 on).event (refA r 0x30) (if on then 6 else 7)).raise (144 + r) 0x44 (!on)
    (unsignedOf 32 (divNear (s.int (refA r 0x24)) 256))

/-- No measurement counts from before now (R136). -/
def State.restartMeas (s : State) (r : Nat) : State :=
  (s.setFld (refA r 0x18) 15 8 0).setRef r { s.ref r with spanBad := true, freqs := [] }

/-- QSTATE becomes `q`: events, reports, runs and entries (R138, R143, R149). -/
def State.setQ (s : State) (r q : Nat) : State :=
  let old := s.qstate r
  if q = old then s
  else
    let ppb := unsignedOf 32 (divNear (s.freq1 r) 256)
    let s := s.setFld (refA r 0x18) 2 0 q
    let s := if old = 1 then
        (s.event (refA r 0x30) 1).raise (144 + r) 0x40 true ((s.sdlNow - (s.ref r).quietSince) / msNs)
      else s
    let s := if old = 3 then
        ((s.event (refA r 0x30) 3).raise (144 + r) 0x41 true q).setWarning r false
      else s
    let s := match q with
      | 1 =>
        let s := s.restartMeas r
        let s := s.setRef r { s.ref r with qualBefore := old == 3, lastEdge := none }
        (s.event (refA r 0x30) 0).raise (144 + r) 0x40 false 0
      | 2 => s.setFld (refA r 0x18) 23 16 0
      | 3 => ((s.setFld (refA r 0x18) 31 24 (if old = 1 then s.fld (refA r 0x18) 31 24 else 0)).event (refA r 0x30) 2).raise
          (144 + r) 0x41 false 0
      | 4 => ((s.inc (refA r 0x2C)).event (refA r 0x30) 4).raise (144 + r) 0x42 false ppb
      | 5 => ((s.inc (refA r 0x2C)).event (refA r 0x30) 5).raise (144 + r) 0x43 false ppb
      | _ => s
    let s := s.entriesFollow r old q
    s.setBit (refA r 0x18) 4 ((q == 2 || decide (3 ≤ q ∧ q ≤ 5)) && (s.ref r).lastEdge.isSome)

/-- A period of the virtual edges for a frequency in 1/256 ppb (R135). -/
def swPeriod (f : Int) : Nat := ((65536 * secNs : Nat) * (unitsPerSub : Int) / (unitsPerSub + f)).toNat

/-- The train of a software reference goes on while it delivers no edges: its next edge is the first one not past (R135). -/
def State.swCatchUp (s : State) (r : Nat) : State :=
  let x := s.ref r
  match x.swNext with
  | none => s
  | some p =>
    let per := swPeriod x.swApplied
    let k := (s.sdlNow * 65536 - p + per - 1) / per
    s.setRef r { x with swNext := some (p + k * per) }

/-- QSTATE as the configuration and the lane make it, LOSS of other inputs apart (R130, R132, R134, R138).  The table of
R138 has no row out of INVALID; a reference whose configuration is valid again goes to CHECKING, as one that leaves OFF does
(DESIGN CHOICE, assumption 82). -/
def State.refEval (s : State) (r : Nat) : State :=
  let q := s.qstate r
  let enabled := s.polFld (refA r 0) 0 0 == 1
  if s.lvdsOff r then s.setQ r 6
  else if !enabled then s.setQ r 0
  else if s.refKind r = 0 ∨ s.refRate r = none then
    let s := if q ≠ 6 ∧ (r < 64 ∨ 80 ≤ r ∨ s.refKind r = 0) then s.refInvalid r (refA r (if s.polFld (refA r 8) 15 0 = 0 then 8 else 4)) else s
    s.setQ r 6
  else
    let s := if q = 0 ∨ q = 6 then
        let s := s.restartMeas r
        ((s.setRef r { s.ref r with lastEdge := none, winEdge := none, quietSince := s.sdlNow, swAt := s.sdlNow,
                                    high := false }).swCatchUp r).setQ r 2
      else s
    if decide (64 ≤ r ∧ r < 80) && s.tapLost r && s.qstate r != 1 then s.setQ r 1 else s

/-! ### Holdover model and loop (R169 to R173) -/

/-- The seconds that the model averages (R172). -/
def State.modelSecs (s : State) (n : Nat) : List Int := (((s.dial n).ho).drop (s.polFld (dialA n 0x8C) 5 0)).take 300

/-- The holdover model frequency, in 1/256 ppb (R172). -/
def State.model (s : State) (n : Nat) : Int :=
  let l := s.modelSecs n
  if l = [] then (s.dial n).y else divNear l.sum l.length

def State.dialState (s : State) (n : Nat) : Nat := s.fld (dialA n 0x10) 2 0
def State.selRef (s : State) (n : Nat) : Nat := s.fld (dialA n 0x10) 22 16
def State.selEntry (s : State) (n : Nat) : Nat := s.fld (dialA n 0x10) 12 8

/-- Loop update rate in mHz (R167). -/
def State.updateRate (s : State) (r : Nat) : Nat :=
  match s.refKind r with
  | 4 => 1000
  | 10 => 1000
  | 8 => match s.refRate r with | some (n, d) => min 1000000 (n * 1000 / d) | none => 1000000
  | _ => 1000000

/-- EFF_BW of a dial that follows `r` (R169). -/
def State.effBw (s : State) (n r : Nat) : Nat := min (max 1 (s.polFld (dialA n 0x80) 16 0)) (s.updateRate r / 10)

/-- B at this instant, and the movement then owed, in 2^-16 ns / 10^9: it moves toward 0 at SLEW_NS_S (R171). -/
def State.buildoutNow (s : State) (n : Nat) : Int × Nat :=
  let d := s.dial n
  let owed := s.polFld (dialA n 0x88) 31 16 * 65536 * (s.sdlNow - d.buildoutAt) + d.slewRem
  let m : Int := (owed / secNs : Nat)
  (if 0 ≤ d.buildout then max 0 (d.buildout - m) else min 0 (d.buildout + m), owed % secNs)

/-- B is brought up to this instant (R171). -/
def State.slewB (s : State) (n : Nat) : State :=
  let (b, rest) := s.buildoutNow n
  s.setDial n { s.dial n with buildout := b, buildoutAt := s.sdlNow, slewRem := rest }

/-- B becomes `b` (R170). -/
def State.setB (s : State) (n : Nat) (b : Int) : State :=
  s.setDial n { s.dial n with buildout := b, buildoutAt := s.sdlNow, slewRem := 0 }

/-- What the dial's loop registers show (R169, R172, R173). -/
def State.showDial (s : State) (n : Nat) : State :=
  let d := s.dial n
  let s := (s.wrI (dialA n 0x9C) (d.y + s.oscModel)).wrI (dialA n 0xA0) (s.model n + s.oscModel)
  let s := s.setFld (dialA n 0xA4) 16 0 (if s.selRef n < 84 then s.effBw n (s.selRef n) else 0)
  let s := s.setFld (dialA n 0xA8) 8 0 (s.modelSecs n).length
  let b := unsignedOf 64 (s.buildoutNow n).1
  (s.wrN (dialA n 0x94) (b % 2 ^ 32)).wrN (dialA n 0x98) (b / 2 ^ 32)

/-- The clamp of y, with its condition (R169). -/
def State.setLimited (s : State) (n : Nat) (on : Bool) : State :=
  if s.bit (dialA n 0xA4) 20 = on then s
  else ((s.setBit (dialA n 0xA4) 20 on).event (dialA n 0xEC) (if on then 1 else 2)).raise (128 + n) 0x56 (!on)
    (unsignedOf 32 (divNear (s.dial n).y 256))

/-- y becomes `y`, clamped to ±FREQ_LIMIT_PPB (R169). -/
def State.steerY (s : State) (n : Nat) (y : Int) : State :=
  let lim : Int := (max 1 (s.polFld (dialA n 0x84) 19 0) : Nat) * 256
  let s := s.setY n (clampInt (-lim) lim y)
  (s.setLimited n (y ≤ -lim || lim ≤ y)).showDial n

/-- The dial runs on its holdover model, within the clamp (R146, R169, R173). -/
def State.onModel (s : State) (n : Nat) : State := s.steerY n (s.model n)

/-- The dial holds the model's frequency: in hold-off, HOLDOVER and LOST (R173). -/
def State.holds (s : State) (n : Nat) : Bool := s.bit (dialA n 0x10) 3 || s.dialState n == 3 || s.dialState n == 4

/-- Entry to ACQUIRING, or resumption after hold-off (R170); a `fresh` selection wraps its first raw error anew (R168). -/
def State.acquire (s : State) (n : Nat) (fresh : Bool) : State :=
  let s := if (s.dial n).ho = [] then s else s.steerY n (s.model n)
  let d := s.dial n
  s.setDial n { d with integ := if d.ho = [] then d.integ else s.model n, firstError := true,
                       lastRaw := if fresh then none else d.lastRaw,
                       rawSum := 0, rawN := 0, lockSince := none, updAt := s.sdlNow }

/-! ### Output generators (R181 to R184) -/

/-- Period of generator `g` in ns as a fraction (R181, R182). -/
def State.genPeriod (s : State) (g : Nat) : Nat × Nat :=
  ((s.pol (genA g 4)).toNat + s.polFld (genA g 8) 15 0 * 2 ^ 32,
   max 1 ((s.pol (genA g 0xC)).toNat + s.polFld (genA g 0x10) 15 0 * 2 ^ 32))

def State.genDial (s : State) (g : Nat) : Nat := s.polFld (genA g 0) 11 8

/-- The period is shorter than 5 ns (R182). -/
def State.genShort (s : State) (g : Nat) : Bool :=
  let (p, d) := s.genPeriod g
  decide (p ≠ 0 ∧ p < 5 * d)

/-- TOUT[g] is the second ball of an LVDS pair (R182). -/
def State.genSlave (s : State) (g : Nat) : Bool := g % 2 == 1 && s.polFld (genA (g - 1) 0) 3 3 == 1

/-- Edges are driven (R182, R192). -/
def State.genRuns (s : State) (g : Nat) : Bool :=
  s.sundialRuns && s.polFld (genA g 0) 0 0 == 1 && (s.genPeriod g).1 != 0 && !s.genShort g && !s.genSlave g &&
    s.polFld (genA g 0) (16 + s.dialState (s.genDial g)) (16 + s.dialState (s.genDial g)) == 0

/-- PHASE in 2^-16 ns (R181). -/
def State.genPhase (s : State) (g : Nat) : Int :=
  signedOf 32 (s.pol (genA g 0x14)).toNat * 65536 + s.polFld (genA g 0x18) 15 0

/-- The rising edge t_k on the dial's time in 2^-16 ns, as an exact fraction (R181). -/
def State.genTime (s : State) (g : Nat) (k : Int) : Int × Nat :=
  let (p, d) := s.genPeriod g
  (s.genPhase g * d + k * (p * 65536), d)

/-- The least k for which t_k is not before `x`, in 2^-16 ns (R181). -/
def State.genFrom (s : State) (g : Nat) (x : Int) : Int :=
  let (p, d) := s.genPeriod g
  Int.neg ((s.genPhase g - x) * d / (p * 65536 : Nat))

/-- The falling edge of the pulse that t_k starts, as an exact fraction: after WIDTH_NS or P/2, no less than 2.5 ns, no more
than P − 2.5 ns (R181, R182). -/
def State.genFall (s : State) (g : Nat) (k : Int) : Int × Nat :=
  let (p, d) := s.genPeriod g
  let (t, _) := s.genTime g k
  let w := (s.pol (genA g 0x1C)).toNat * 65536 * (2 * d)
  let w := min (max (if w = 0 then p * 65536 else w) (163840 * (2 * d))) (p * 131072 - 163840 * (2 * d))
  (2 * t + w, 2 * d)

def State.gen (s : State) (g : Nat) : Gen := Tab.get s.gens Gen.init g
def State.setGen (s : State) (g : Nat) (x : Gen) : State := s.setGens (Tab.set s.gens Gen.init g x)

/-- OUT_ADJ_PS in 2^-16 ns (R181). -/
def State.outAdj (s : State) (g : Nat) : Int := psSub (signedOf 16 (s.pol (genA g 0x20)).toNat)

/-- The output latency of the ball, from fuses, in 2^-16 ns (R181; assumption 67). -/
def outLatency (g : Nat) : Int := psSub (Config.fuse (genA g 0x20)).toNat

/-- When the edge due at time `t` of dial `n` crosses the ball of generator `g`, in 2^-16 ns of Sundial's time: it leaves
Sundial at the nearest 1/64 cycle (19.53 ps) to that instant with OUT_ADJ_PS, less the output latency, which then passes
(R181). -/
def State.placeEdge (s : State) (g n : Nat) (t : Int × Nat) : Int :=
  let d := s.dial n
  let den := t.2 * (unitsPerSub + d.y).toNat
  let num := t.1 * unitsPerSub - (d.timeU * t.2 : Nat) + ((d.since * 65536 : Nat) + s.outAdj g - outLatency g) * (den : Int)
  divNear num (den * 1280) * 1280 + outLatency g

/-- The pair bit of an even generator (R182). -/
def State.genPair (s : State) (g : Nat) : Bool := g % 2 == 0 && s.polFld (genA g 0) 3 3 == 1

/-- The ball TOUT[g]: the level with POLARITY; a generator that is held drives 0.  An LVDS pair carries the level and its
complement (R181, R182; assumption 67). -/
def State.drive (s : State) (g : Nat) : State :=
  if s.genSlave g then s
  else
    let lvl := (s.genRuns g || (s.gen g).level) && ((s.gen g).level != (s.polFld (genA g 0) 2 2 == 1))
    let t := Tab.set s.top.tout false g lvl
    s.setTop { s.top with tout := if s.genPair g then Tab.set t false (g + 1) (!lvl) else t }

/-- NEXT shows the next rising edge, its fraction truncated (R184). -/
def State.showNext (s : State) (g : Nat) : State :=
  let (t, d) := s.genTime g (s.gen g).k
  s.putTs (genA g 0x2C) (t / d).toNat

/-- The generator starts, stops or goes on, after a change of the dial's state, or, where `fresh`, after a policy write or a
time step: then its next edge is the first of the grid from `delay` ns on, and the pulse in progress completes
(R175, R182, R183). -/
def State.genFollow (s : State) (g : Nat) (fresh : Bool) (delay : Nat) : State :=
  let was := s.bit (genA g 0x24) 0
  let runs := s.genRuns g
  let short := s.genShort g
  let s := if short && !s.bit (genA g 0x24) 1 then s.dialInvalid (s.genDial g) (genA g 4) else s
  let s := (s.setBit (genA g 0x24) 1 short).setBit (genA g 0x24) 0 runs
  let x := s.gen g
  let s := if runs && (fresh || !was) then
      (s.setGen g { x with k := s.genFrom g (((s.dialSub (s.genDial g) : Nat) : Int) + delay * 65536),
                           moved := x.moved || fresh }).showNext g
    else if !runs && !fresh then s.setGen g { x with level := false } else s
  s.drive g

/-- The generators that name dial `n`. -/
def State.gensOf (s : State) (n : Nat) : List Nat := (List.range 96).filter (fun g => s.genDial g == n)

/-! ### Dial states (R144 to R147) -/

/-- Seconds LOCKED since EVER_LOCKED was last cleared (R147). -/
def State.histS (s : State) (n : Nat) : Nat :=
  let d := s.dial n
  let run := if s.dialState n = 2 then s.sdlNow - d.stateSince else 0
  min ((d.lockedNs + run) / secNs) (2 ^ 32 - 1)

/-- STATE becomes `q` (R147, R149, R172). -/
def State.setState (s : State) (n q : Nat) : State :=
  let old := s.dialState n
  if q = old then s
  else
    let s := s.rebase n
    let d := s.dial n
    let locked := if old = 2 then d.lockedNs + (s.sdlNow - d.stateSince) else d.lockedNs
    let d := { d with stateSince := s.sdlNow, lockedNs := if q = 0 then 0 else locked, lockSince := none,
                      ySum := 0, ySumFrom := s.sdlNow, ho := if q = 0 then [] else d.ho }
    let s := s.setDial n d
    let s := s.setFld (dialA n 0x10) 2 0 q
    let s := if q = 2 then s.setBit (dialA n 0x10) 4 true else if q = 0 then s.setBit (dialA n 0x10) 4 false else s
    let s := s.wrN (dialA n 0x14) (s.histS n)
    let s := (s.event (dialA n 0x18) 0).raise (128 + n) 0x48 false (q + old * 16 + s.selRef n * 256)
    let s := if q = 0 then s.steerY n 0 else if q = 3 ∨ q = 4 then s.onModel n else s.showDial n
    (s.gensOf n).foldl (fun s g => s.genFollow g false 0) s

/-- HOLDOFF ends, with its clearing report (R146, R149). -/
def State.endHoldoff (s : State) (n : Nat) : State :=
  if s.bit (dialA n 0x10) 3 then
    let s := s.rebase n
    ((s.setDial n { s.dial n with ySum := 0, ySumFrom := s.sdlNow }).setBit (dialA n 0x10) 3 false).raise
      (128 + n) 0x4D true (s.selRef n)
  else s

/-- A change of selection takes effect (R145, R149); 31 and 127 for none. -/
def State.announce (s : State) (n e r cause : Nat) : State :=
  let old := s.selRef n
  let s := (s.setFld (dialA n 0x10) 12 8 e).setFld (dialA n 0x10) 22 16 r
  (((s.inc (dialA n 0x1C)).tallySdl n 6 1).event (dialA n 0x18) 1).raise (128 + n) 0x49 false (r + old * 256 + cause * 65536)

/-- DISPUTE, reported at each change (R144, R149). -/
def State.setDispute (s : State) (n : Nat) (pair : Option (Nat × Nat)) (chosen : Nat) : State :=
  let on := pair.isSome
  let s := match pair with | some p => s.setDial n { s.dial n with disagree := p } | none => s
  if s.bit (dialA n 0x10) 5 = on then s
  else
    let (a, b) := (s.dial n).disagree
    let s := if on then s.inc (dialA n 0x20) else s
    ((s.setBit (dialA n 0x10) 5 on).event (dialA n 0x18) (if on then 2 else 3)).raise (128 + n) 0x4A (!on)
      (a + b * 256 + chosen * 65536)

/-- The entries of a dial: number, reference, priority, and whether it is no reserved, off or repeated
one (R129, R140). -/
def State.entryList (s : State) (n : Nat) : List (Nat × Nat × Nat × Bool) :=
  (List.range 16).map (fun e =>
    let r := s.entRef n e
    let named := fun k => decide (s.entPrio n k ≠ 0) && s.entRef n k == r && s.refKind r != 0
    (e, r, s.entPrio n e, decide (r < 84) && s.refKind r != 0 && !(List.range e).any named))

/-- The entry is available (R143). -/
def State.available (s : State) (n : Nat) (x : Nat × Nat × Nat × Bool) : Bool :=
  x.2.2.1 != 0 && x.2.2.2 && s.qstate x.2.1 == 3 && !(s.entryNow n x.1).restoring

/-- A forced entry is active (R145). -/
def State.forceable (s : State) (r : Nat) : Bool :=
  decide (r < 84) && s.qstate r != 0 && s.qstate r != 1 && s.qstate r != 6

/-- FORCE_ENTRY, 0 for none (R140). -/
def State.forceEntry (s : State) (n : Nat) : Nat :=
  let v := s.polFld (dialA n 0) 12 8
  if v ≤ 16 then v else 0

/-- The member with the lowest reference number. -/
def lowestRef (g : List (Nat × Nat)) : Nat :=
  (g.foldl (fun (b : Nat × Nat) x => if x.2 < b.2 then x else b) (31, 128)).1

/-- Two references disagree (R144). -/
def State.disagrees (s : State) (a b : Nat) : Bool :=
  decide (min (s.refTol a) (s.refTol b) < |s.freq10 a - s.freq10 b|)

def State.witness (s : State) (x y : Nat) : Bool := decide (|s.freq10 y - s.freq10 x| ≤ s.refTol x)

/-- pick(G) of R144 over (entry, reference) pairs, `all` the available entries, with DISPUTE's pair. -/
def State.pickOf (s : State) (n : Nat) (g all : List (Nat × Nat)) (cur : Nat) : Nat × Option (Nat × Nat) :=
  match g with
  | [x] => (x.1, none)
  | _ =>
    let stay := fun (l : List (Nat × Nat)) => if l.any (fun x => x.1 == cur) then cur else lowestRef l
    match (g.flatMap (fun a => (g.filter (fun b => decide (a.1 < b.1))).map (fun b => (a.2, b.2)))).find?
        (fun p => s.disagrees p.1 p.2) with
    | none => (stay g, none)
    | some p =>
      let score := fun (x : Nat × Nat) => (all.filter (fun y => y.1 != x.1 && s.witness x.2 y.2)).length
      let top := (g.map score).foldl max 0
      match g.filter (fun x => score x == top) with
      | [x] => (x.1, some p)
      | t =>
        let agrees := fun (x : Nat × Nat) => decide (300 ≤ s.histS n) &&
          decide (|s.model n + s.oscModel - s.freq10 x.2| ≤ s.refTol x.2)
        match t.filter agrees with
        | [x] => (x.1, some p)
        | _ => (stay t, some p)

/-- HOLDOFF sets: the dial runs on its model at once (R146). -/
def State.startHoldoff (s : State) (n : Nat) : State :=
  let s := s.onModel n
  ((s.setDial n { s.dial n with holdoffAt := s.sdlNow }).setBit (dialA n 0x10) 3 true).raise (128 + n) 0x4D false (s.selRef n)

/-- The state change that a new selection brings (R147). -/
def State.selected (s : State) (n e r cause : Nat) : State :=
  let s := s.announce n e r cause
  let s := s.setDial n { s.dial n with pickEntry := 31, pickRun := 0 }
  if e = 31 then
    if s.dialState n = 1 ∨ s.dialState n = 2 then
      if s.bit (dialA n 0x10) 4 then s.setState n (if 60 ≤ s.histS n then 3 else 4) else s.setState n 0
    else s
  else
    let again := s.dialState n == 1
    let s := (s.acquire n true).setState n 1
    if again then s.showDial n else s

/-- What ENTRY and DIAL_STATE show after a selection (R143, R150). -/
def State.showEntries (s : State) (n : Nat) : State :=
  (s.entryList n).foldl (fun s x =>
    let y := s.entryNow n x.1
    let wtr := s.polFld (dialA n 4) 31 16
    let a := entryA n x.1
    let s := (s.setBit a 16 (s.available n x)).setBit a 17 y.restoring
    s.setFld a 31 20 (if y.restoring then wtr - y.timer else 0)) s

/-- The group of the highest priority among the available entries `av`, as (entry, reference) pairs (R145). -/
def groupOf (av : List (Nat × Nat × Nat × Bool)) : List (Nat × Nat) :=
  let best := (av.map (fun x => x.2.2.1)).foldl min 16
  (av.filter (fun x => x.2.2.1 == best)).map (fun x => (x.1, x.2.1))

/-- The reference that entry `e` names; 127 for none. -/
def State.refOf (s : State) (n e : Nat) : Nat := if e < 16 then s.entRef n e else 127

/-- FORCE_HOLDOVER, or a forced entry (R145). -/
def State.forced (s : State) (n : Nat) : Bool := s.polFld (dialA n 0) 4 4 == 1 || s.forceEntry n != 0

/-- pick over the available entries `av`, with DISPUTE as it leaves it; a forced dial, and one with no available entry,
evaluate no group and show no dispute (R144, R145). -/
def State.pickNow (s : State) (n : Nat) (av : List (Nat × Nat × Nat × Bool)) : Nat × State :=
  if s.forced n || av.isEmpty then (31, s.setDispute n none 127)
  else
    let (cand, pair) := s.pickOf n (groupOf av) (av.map (fun x => (x.1, x.2.1))) (s.selEntry n)
    (cand, s.setDispute n pair (s.refOf n cand))

/-- No pick has begun to move the dial within its group (R145). -/
def State.forgetPick (s : State) (n : Nat) : State := s.setDial n { s.dial n with pickEntry := 31, pickRun := 0 }

/-- The selected entry is usable: available, or, for a forced one, active (R146). -/
def State.selUsable (s : State) (n : Nat) (wasForced : Bool) : Bool :=
  if wasForced then s.forceable (s.selRef n)
  else s.qstate (s.selRef n) == 3 && !(s.entryNow n (s.selEntry n)).restoring

/-- What asks for a selection: a window boundary, policy of the dial in effect with it, a loss that policy caused, the end
of a hold-off (R142, R146). -/
structure SelectCause where
  atB : Bool
  policy : Bool
  byPolicy : Bool
  after : Bool
deriving DecidableEq, Repr

/-- Selection of dial `n`, not in hold-off (R145 to R147). -/
def State.selectFree (s : State) (n : Nat) (c : SelectCause) : State :=
  let es := s.entryList n
  let fe := s.forceEntry n
  let fh := s.polFld (dialA n 0) 4 4 == 1
  let cur := s.selEntry n
  if fe = 0 ∧ es.all (fun x => x.2.2.1 == 0) then
    let s := (s.setDispute n none 127).setBit (dialA n 0x10) 6 fh
    let s := if cur = 31 then s else s.announce n 31 127 4
    (s.setState n 0).showEntries n
  else
    let lost := cur != 31 && !s.selUsable n (s.bit (dialA n 0x10) 6)
    let s := s.setBit (dialA n 0x10) 6 (s.forced n)
    let av := es.filter (fun x => s.available n x)
    let inG := (groupOf av).any (fun x => x.1 == cur)
    let curAv := av.any (fun x => x.1 == cur) && s.refOf n cur == s.selRef n
    let (cand, s) := s.pickNow n av
    let sel :=
      if fh then 31
      else if fe ≠ 0 then (if s.forceable (s.entRef n (fe - 1)) then fe - 1 else 31)
      else if av.isEmpty then 31
      else if curAv && s.polFld (dialA n 0) 0 0 == 0 then (if inG then cand else cur)
      else cand
    if sel = cur ∧ s.refOf n sel = s.selRef n then (if c.atB then s.forgetPick n else s).showEntries n
    else if lost && !c.after && !c.byPolicy && !fh && (s.dialState n == 1 || s.dialState n == 2) && s.holdoffNs n != 0 then
      ((s.forgetPick n).startHoldoff n).showEntries n
    else if !s.forced n && curAv && inG then
      if !c.atB then s.showEntries n
      else
        let d := s.dial n
        let run := if d.pickEntry = sel then d.pickRun + 1 else 1
        let s := s.setDial n { d with pickEntry := sel, pickRun := run }
        (if run < 3 then s else s.selected n sel (s.refOf n sel) 2).showEntries n
    else
      let cause := if s.forced n then 3 else if c.byPolicy then 4 else if lost then 0 else if curAv then 1
        else if c.policy then 4 else 0
      (s.selected n sel (s.refOf n sel) cause).showEntries n

/-- The hold-off of dial `n` has run its time (R146). -/
def State.holdoffDone (s : State) (n : Nat) : Bool :=
  s.bit (dialA n 0x10) 3 && decide ((s.dial n).holdoffAt + s.holdoffNs n ≤ s.sdlNow)

/-- Entries whose reference left QUALIFIED for HOLDOFF_MS are restoring (R143). -/
def State.restoreLeft (s : State) (n : Nat) : State :=
  let es := (List.range 16).foldl (fun t e =>
    Tab.set t Entry.init e ((Tab.get t Entry.init e).expire (s.sdlNow + 1) (s.holdoffNs n))) (s.dial n).entries
  s.setDial n { s.dial n with entries := es }

/-- Hold-off is over: the same entry is resumed, or selection runs (R146). -/
def State.holdoffOver (s : State) (n : Nat) (c : SelectCause) : State :=
  let cur := s.selEntry n
  let s := (s.endHoldoff n).restoreLeft n
  let fe := s.forceEntry n
  let held := s.polFld (dialA n 0) 4 4 == 1
  let usable := if fe = cur + 1 then s.forceable (s.entRef n cur)
    else fe == 0 && (s.entryList n).any (fun x => x.1 == cur && s.available n x)
  if !held && s.entRef n cur == s.selRef n && usable then ((s.acquire n false).showDial n).showEntries n
  else s.selectFree n { c with after := true }

/-- Policy ends a hold-off before its time: a force of something else, or the entry's PRIORITY or REF (R145, R146). -/
def State.holdoffMoot (s : State) (n : Nat) : Bool :=
  let cur := s.selEntry n
  let fe := s.forceEntry n
  s.polFld (dialA n 0) 4 4 == 1 || (fe != 0 && fe != cur + 1) ||
    (fe == 0 && (s.entPrio n cur == 0 || s.entRef n cur != s.selRef n || s.qstate (s.selRef n) == 0))

/-- Selection of dial `n` (R145, R146).  In hold-off the loss is not acted on: FORCED and DISPUTE are evaluated, and only a
force or policy of the entry itself changes the selection. -/
def State.selectDial (s : State) (n : Nat) (c : SelectCause) : State :=
  if !s.bit (dialA n 0x10) 3 then s.selectFree n c
  else if s.holdoffMoot n then (s.endHoldoff n).selectFree n { c with after := true, byPolicy := !s.forced n }
  else if s.holdoffDone n then s.holdoffOver n c
  else
    let s := s.setBit (dialA n 0x10) 6 (s.forced n)
    ((s.pickNow n ((s.entryList n).filter (fun x => s.available n x))).2.forgetPick n).showEntries n

/-- A change between boundaries. -/
def SelectCause.now : SelectCause := { atB := false, policy := false, byPolicy := false, after := false }

/-- Selection runs at once for the dials that name reference `r` (R142). -/
def State.dialsSelect (s : State) (r : Nat) : State :=
  (List.range 16).foldl (fun s n =>
    if s.selRef n = r ∨ (List.range 16).any (fun e => s.entRef n e == r) then s.selectDial n .now else s) s

/-- QSTATE changes between boundaries, and selection with it. -/
def State.setQNow (s : State) (r q : Nat) : State := if s.qstate r = q then s else (s.setQ r q).dialsSelect r

/-- The taps of lane `f` follow its format, LOS and LOF (R134). -/
def State.tapsFollow (s : State) (f : Nat) : State :=
  if !s.sundialRuns then s
  else ((List.range 16).map (· + 64)).foldl (fun s r =>
    if s.tapLane r = some f then
      let q := s.qstate r
      let s := s.refEval r
      if s.qstate r = q then s else s.dialsSelect r
    else s) s

/-! ### Samples of Sieve (R151, R153) -/

def State.sve (s : State) (i : Nat) : Sve := Tab.get s.sves Sve.init i
def State.setSve (s : State) (i : Nat) (x : Sve) : State := s.setSves (Tab.set s.sves Sve.init i x)

/-- The samples of input `i` break off: the ADC is powered down, SAMPLE_CLK stops, or the input is reset.  What was not
delivered is lost, and no crossing spans the break (R151, R153, R164). -/
def State.sveBreak (s : State) (i : Nat) : State :=
  s.setSve i { s.sve i with gap := true, out := none, fall := none, ready := [] }

/-- A KIND in effect: one that Sieve does not process powers the ADC down; the gate of a KIND whose default is Off is not
in force (R151, R162). -/
def State.sveKind (s : State) (i : Nat) : State :=
  let k := s.refKind i
  let s := if k = 1 ∨ k = 2 then s else (s.setSve i { s.sve i with syncRun := 0 }).setBit (sveA i 0x30) 1 false
  if 1 ≤ k ∧ k ≤ 3 then s else s.sveBreak i

/-! ### Time-transfer channels (R185, R187) -/

/-- A slot that a time-transfer channel may use: program-written under R60, other than APS/PCC (R185). -/
def ttcSlotOk (slot : Nat) : Bool :=
  let r := slotRow slot
  let c := slotCol slot
  decide (r ≤ 3 ∧ c ≤ 13) && !(r == 0 && decide (c ≤ 9)) && !(r == 2 && decide (9 ≤ c ∧ c ≤ 11)) &&
    !(r == 3 && decide (4 ≤ c ∧ c ≤ 7))

/-- The formats of a line channel carry a time-transfer channel (R185). -/
def State.ttcFormats (s : State) (n : Nat) : Bool :=
  let ok := fun fmt => decide (3 ≤ fmt ∧ fmt ≤ 5) || (fmt == 6 && n % 4 == 0)
  ok (s.rxFmt n) && ok (s.txFmt n)

def State.ttc (s : State) (n : Nat) : Ttc := Tab.get s.ttcs Ttc.init n
def State.setTtc (s : State) (n : Nat) (c : Ttc) : State := s.setTtcs (Tab.set s.ttcs Ttc.init n c)

/-- The time-transfer channel of line channel `n` runs (R185). -/
def State.ttcRuns (s : State) (n : Nat) : Bool :=
  decide (n < 192) && s.sundialRuns && s.polFld (ttcA n 0) 0 0 == 1 && s.ttcFormats n &&
    ttcSlotOk (s.polFld (ttcA n 0) 31 16)

/-- STEP_COUNT of the channel's dial, which tells apart the two sides of a time step (R188). -/
def State.ttcSteps (s : State) (n : Nat) : Nat := s.nat (dialA (s.polFld (ttcA n 0) 7 4) 0xE4)

def keptAt (l : List (Nat × Nat × Nat)) (seq : Nat) : Option (Nat × Nat) :=
  (l.find? (fun e => e.1 == seq)).map (·.2)

/-- The channel starts or stops with its policy and formats; one that is enabled and cannot run raises
CONFIG_INVALID, at a write of its policy (`written`) or when it stops (R185, R190). -/
def State.ttcCheck (s : State) (n : Nat) (written : Bool) : State :=
  let en := s.polFld (ttcA n 0) 0 0 == 1
  let ok := en && s.ttcFormats n && ttcSlotOk (s.polFld (ttcA n 0) 31 16)
  let s := if en && !ok && (written || (s.ttc n).running) then (s.ttcEvent n 3).raise (832 + n) 0x0B false (ttcA n 0) else s
  s.setTtc n { s.ttc n with running := ok }

/-- What follows a change of a lane's receive or transmit format (R134, R185). -/
def State.formatSeen (s : State) (f : Nat) : State :=
  let s := s.tapsFollow f
  if f < 192 ∧ s.sundialRuns then s.ttcCheck f false else s

end Sys2Proof.Machine
end

