-- ==== Sys2Proof/Machine/RxOps.lean ====
section
/-! DEFINITION. Receive framers: defects, hunting, alignment, formats (R30 to R51, R66 to R71). -/

namespace Sys2Proof.Machine

/-- The hunters of a format (R47). -/
def phasesOf (fmt : Nat) : List Nat := if fmt = 6 then [0, 1, 2, 3, 4] else [0]

def State.hunter (s : State) (f p : Nat) : Hunter := Tab.get (s.framer f).hunters Hunter.init p

def State.setHunter (s : State) (f p : Nat) (h : Hunter) : State :=
  s.setFramer f { s.framer f with hunters := Tab.set (s.framer f).hunters Hunter.init p h }

/-- What of a framer's defects can be seen: the raw and active words, and the parts of the defects that
have several. -/
structure DefView where
  raw : Nat
  act : Nat
  oof : Nat
  lanes : List Nat
  ais : Nat
  lop : Nat
  rdi : Nat
  pdef : Nat

def DefView.none : DefView := { raw := 0, act := 0, oof := 0, lanes := [], ais := 0, lop := 0, rdi := 0, pdef := 0 }

/-- The defects of framer `f` as its state gives them. -/
def State.defView (s : State) (f : Nat) : DefView :=
  let fmt := s.rxFmt f
  if fmt = 0 then DefView.none
  else
    let x := s.framer f
    let ais := s.map64 (rxA f 0x210)
    let lop := s.map64 (rxA f 0x218)
    let rdi := s.map64 (rxA f 0x220)
    let pd := x.pdefEff.toNat
    let oofs := (phasesOf fmt ++ if fmt = 6 ∧ f % 4 = 0 then [5] else []).filter (fun p => (s.hunter f p).oof)
    let oof := !oofs.isEmpty
    let r := s.fld (rxA f 0x204) 23 0
    let r := putBits (putBits r 1 1 oof.toNat) 5 5 (!x.loflane.isEmpty).toNat
    let r := putBits (putBits r 8 8 (ais != 0).toNat) 9 9 (lop != 0).toNat
    let r := putBits (putBits r 10 10 (rdi != 0).toNat) 23 23 (pd != 0).toNat
    let a := activeWord r false
    let ok := !anyBit a [0, 2, 6]
    let rdiA := (List.range 64).foldl (fun m k =>
      if rdi.testBit k && ok && !ais.testBit k && !lop.testBit k then m + 2 ^ k else m) 0
    let pdA := pdefActive a pd false
    { raw := r, act := putBits (putBits a 10 10 (rdiA != 0).toNat) 23 23 (pdA != 0).toNat,
      oof := if a.testBit 0 then 0 else oofs.foldl (fun m p => m + 2 ^ p) 0,
      lanes := if a.testBit 0 then [] else x.loflane,
      ais := if ok then ais else 0, lop := if ok then lop else 0, rdi := rdiA, pdef := pdA }

/-- Report kinds of the defects with one state each (R53, R82). -/
def defectKinds : List (Nat × Nat) := [
  (0, 0x01), (2, 0x03), (3, 0x04), (4, 0x09), (6, 0x10), (7, 0x11), (11, 0x15), (12, 0x16), (13, 0x15),
  (14, 0x16), (15, 0x17), (16, 0x18), (17, 0x19), (18, 0x1A), (19, 0x1B), (20, 0x1C), (21, 0x1D), (22, 0x1E)]

/-- Detail of a report of framer `f`.  LOF names the lowest phase that is out of frame (assumption 81); a LOM that
OMFI caused clears with the last MFAS, as R94 names a detail for its onset alone (DESIGN CHOICE, assumption 82). -/
def State.defDetail (s : State) (f b : Nat) : Nat :=
  match b with
  | 2 => ((phasesOf (s.rxFmt f)).find? (fun p => (s.hunter f p).oof)).getD 0
  | 3 =>
    let x := s.framer f
    if x.omfi.everIn && !x.omfi.inMf && x.mf.inMf then 0x10000 + x.omfi.expected % 80 else s.fld (rxA f 0x164) 7 0
  | 4 => if (s.framer f).lolFault then 0xFFFFFFFF else s.fld (rxA f 0x194) 15 0
  | 13 => 1
  | 14 => 1
  | _ => 0

/-- Event bit in FF_EVENTS of an onset, which the clearing follows (R52). -/
def ffEventBit (b : Nat) : Option Nat :=
  match b with
  | 2 => some 2
  | 3 => some 8
  | 4 => some 10
  | _ => none

/-- One onset or clearing: the FF event where the defect has one, and the report. -/
def State.defReport (s : State) (f kind : Nat) (on : Bool) (detail : Nat) (ev : Option Nat) : State :=
  let s := match ev with
    | some e => s.event (rxA f 0x12C) (if on then e else e + 1)
    | none => s
  s.raise (rxSrc f) kind (!on) detail

/-- Onsets and clearings of a bit map of `n` members. -/
def State.mapReports (s : State) (f kind n old new : Nat) (ev : Option Nat) : State :=
  (List.range n).foldl (fun s k =>
    if old.testBit k == new.testBit k then s else s.defReport f kind (new.testBit k) k ev) s

/-- Everything a change of defects brings with it: registers, events, reports, the defect seconds and
the DEFECT item (R59, R68, R77, R82). -/
def State.defectsFrom (s : State) (f : Nat) (old : DefView) : State :=
  let v := s.defView f
  let s := (s.setFld (rxA f 0x204) 23 0 v.raw).setFld (rxA f 0x208) 23 0 v.act
  let s := (List.range 6).foldl (fun s k =>
    if old.oof.testBit k == v.oof.testBit k then s else s.defReport f 0x02 (v.oof.testBit k) (k % 5) (some 0)) s
  let s := defectKinds.foldl (fun s e =>
    if old.act.testBit e.1 == v.act.testBit e.1 then s
    else s.defReport f e.2 (v.act.testBit e.1) (s.defDetail f e.1) (ffEventBit e.1)) s
  let lane := fun p => (s.hunter f p).lane
  let s := v.lanes.foldl (fun s p => if old.lanes.contains p then s else s.defReport f 0x0A true (lane p) none) s
  let s := old.lanes.foldl (fun s p => if v.lanes.contains p then s else s.defReport f 0x0A false (lane p) none) s
  let s := ((s.mapReports f 0x12 64 old.ais v.ais none).mapReports f 0x13 64 old.lop v.lop none)
  let s := (s.mapReports f 0x14 64 old.rdi v.rdi none).mapReports f 0x1F 8 old.pdef v.pdef none
  let s := (List.range 24).foldl (fun s b =>
    if old.act.testBit b == v.act.testBit b then s else s.event (rxA f 0x20C) b) s
  let s := s.setFramer f { s.framer f with secSeen := BitVec.ofNat 32 (Nat.lor (s.framer f).secSeen.toNat v.act) }
  let s := (s.setBit (rxA f 0x128) 2 (v.raw.testBit 1)).setBit (rxA f 0x128) 3 (v.raw.testBit 2)
  let s := (s.setBit (rxA f 0x128) 17 (v.raw.testBit 3)).setBit (rxA f 0x128) 18 (v.raw.testBit 4)
  let s := if old.raw = v.raw ∧ old.act = v.act then s
    else (s.rxPublish f 3 (some (s.rxStamp f 0 0)) (wordPair v.raw ++ wordPair v.act)).2
  let s := if (old.act = 0) = (v.act = 0) then s else s.carriedFollow f
  if old.raw = v.raw then s else s.tapsFollow f

/-- A change of framer `f` with the defect changes that it brings. -/
def State.withDefects (s : State) (f : Nat) (g : State → State) : State := (g s).defectsFrom f (s.defView f)

/-- LOF is declared: degrade windows restart (R70). -/
def State.setLof (s : State) (f : Nat) (on : Bool) : State :=
  let s := s.setRaw f 2 on
  if on then
    let x := s.framer f
    let deg := [0, 1, 2, 3].foldl (fun t i =>
      Tab.set t Deg.init i { Deg.init with on := (Tab.get t Deg.init i).on }) x.deg
    s.setFramer f { x with deg := deg }
  else s

/-! ### States of a hunter (R32 to R42, R47) -/

def FState.code : FState → Nat
  | .disabled => 0 | .hunt => 1 | .ambiguous => 2 | .inFrame => 3

/-- FF_STATE shows the hunter, or in OTL4.4 the lowest of the five (R35, R47, R52). -/
def State.showFrame (s : State) (f : Nat) : State :=
  let fmt := s.rxFmt f
  let h := (phasesOf fmt).foldl (fun (h : Hunter) p =>
    if (s.hunter f p).state.code < h.state.code then s.hunter f p else h) (s.hunter f 0)
  let a := rxA f 0x128
  let s := (s.setFld a 1 0 (if fmt = 0 then 0 else h.state.code)).setFld a 7 4 h.cands.length
  (s.setFld a 11 8 (min h.errRun 15)).setBit a 16 (s.framer f).mf.inMf

def lofKey (fmt : Nat) : Nat := if fmt = 6 then 5 else 0
def State.lofTime (s : State) (f : Nat) : Nat := s.fld (rxA f 0x124) 15 0 * 100 * usNs
def State.lofClearTime (s : State) (f : Nat) : Nat := s.fld (rxA f 0x124) 31 16 * 100 * usNs

/-- LOF of what hunter `p` times: the channel's LOF, or in OTL4.4 the LOFLANE of a phase; key 5 is the
reassembled OTU4 (R42, R47, R48). -/
def State.setLofOf (s : State) (f p : Nat) (on : Bool) : State :=
  if p = lofKey (s.rxFmt f) then s.setLof f on
  else
    let x := s.framer f
    let others := x.loflane.filter (· ≠ p)
    s.setFramer f { x with loflane := if on then others ++ [p] else others }

/-- Hunter `p` goes out of frame; with LOF_TIME 0 LOF is declared at once (R42). -/
def State.goOof (s : State) (f p : Nat) : State :=
  let h := s.hunter f p
  if h.oof then s
  else
    let s := s.setHunter f p { h with oof := true, oofSince := s.now }
    if s.lofTime f = 0 then s.setLofOf f p true else s

/-- IN_FRAME has lasted LOF_CLEAR_TIME at hunter `p` (R42). -/
def State.lofOver (s : State) (f p : Nat) : Bool :=
  let h := s.hunter f p
  s.rxRuns f && s.rxFmt f != 0 && !h.oof && decide (h.inSince + s.lofClearTime f ≤ s.now)

/-- LOF of what hunter `p` times clears once IN_FRAME has lasted (R42).  A member of an OTL4.4 group that does not lead
has LOF from a FORMAT change or a block reset alone, and it clears with its five hunters (DESIGN CHOICE,
assumption 81). -/
def State.clearLof (s : State) (f p : Nat) : State :=
  if s.lofOver f p then
    let s := (s.setHunter f p { s.hunter f p with lofAcc := 0 }).setLofOf f p false
    if s.rxFmt f = 6 ∧ f % 4 ≠ 0 ∧ (phasesOf 6).all (fun q => s.lofOver f q) then s.setLof f false else s
  else s

/-- OOF ends at hunter `p`; with LOF_CLEAR_TIME 0 LOF clears at once (R42). -/
def State.endOof (s : State) (f p : Nat) : State :=
  let h := s.hunter f p
  let s := s.setHunter f p { h with oof := false, lofAcc := h.lofAcc + (s.now - h.oofSince), inSince := s.now }
  if s.lofClearTime f = 0 then s.clearLof f p else s

/-- Interleaved data streams of an SDI signal (R49). -/
def State.streams (s : State) (f : Nat) : Nat :=
  let k := s.fld (rxA f 0x1B0) 4 0
  if k = 4 ∨ k = 8 ∨ k = 16 then k else 2

/-- ANCHOR in effect: set by hardware for SDI (R49). -/
def State.anchorOf (s : State) (f : Nat) : Nat :=
  if famOf (s.rxFmt f) = 3 then 10 * (s.streams f + 4) else s.fld (rxA f 0x11C) 21 0

def State.descrambleOff (s : State) (f : Nat) : Bool := s.bit (rxA f 0x104) 1

/-- HUNT begins at bit `start`, or where none is given at the next bit: candidates cleared, the frame-finding
registers read (R31, R36). -/
def State.enterHunt (s : State) (f p : Nat) (start : Option Nat) : State :=
  let len := s.fld (rxA f 0x118) 21 0
  let anchor := s.anchorOf f
  let badLen := decide (len < 4096 ∨ 2097152 < len)
  let badAnchor := decide (len < anchor)
  let h := s.hunter f p
  let s := s.setHunter f p { h with
    state := .hunt, cands := [], heldByLos := s.rawBit f 0, start := start, win := 0,
    bit := max h.bit (start.getD 0), ambigWindows := 0, errRun := 0, frameLen := len,
    anchor := anchor, confirm := s.fld (rxA f 0x120) 3 0, lossCount := max 1 (s.fld (rxA f 0x120) 11 8),
    ambigLimit := max 1 (s.fld (rxA f 0x120) 23 16), pattern := s.map64 (rxA f 0x108),
    mask := s.map64 (rxA f 0x110), cfgBad := badLen || badAnchor }
  if badLen || badAnchor then
    (s.event (rxA f 0x12C) 12).raise (rxSrc f) 0x0B false (rxA f (if badLen then 0x118 else 0x11C))
  else s

/-! ### OTL4.4 groups (R46 to R48) -/

def leadOf (f : Nat) : Nat := f / 4 * 4

/-- The twenty hunters of a group: channel and phase. -/
def groupHunters (lead : Nat) : List (Nat × Nat) :=
  [0, 1, 2, 3].flatMap (fun j => [0, 1, 2, 3, 4].map (fun p => (lead + j, p)))

/-- All four channels have FORMAT 6, none has LOS, and all 20 logical lanes are in frame. -/
def State.groupFramed (s : State) (lead : Nat) : Bool :=
  [0, 1, 2, 3].all (fun j => s.rxFmt (lead + j) == 6 && !s.rawBit (lead + j) 0) &&
    (groupHunters lead).all (fun e => (s.hunter e.1 e.2).state == .inFrame)

/-- The lane numbers 0 to 19 each appear exactly once. -/
def State.lanesComplete (s : State) (lead : Nat) : Bool :=
  (List.range 20).all (fun l => ((groupHunters lead).filter (fun e => (s.hunter e.1 e.2).lane == l)).length == 1)

/-- OTL_STATE of the lead and OTL_LANES of a member. -/
def State.showLanes (s : State) (f : Nat) : State :=
  let lead := leadOf f
  let m := (groupHunters lead).foldl (fun m e =>
    let h := s.hunter e.1 e.2
    if s.rxFmt e.1 == 6 && h.state == .inFrame && decide (h.lane < 20) then Nat.lor m (2 ^ h.lane) else m) 0
  let s := s.setFld (rxA lead 0x190) 19 0 (if s.rxFmt lead = 6 then m else 0)
  [0, 1, 2, 3, 4].foldl (fun s p =>
    let h := s.hunter f p
    s.setFld (rxA f 0x198) (5 * p + 4) (5 * p) (if s.rxFmt f = 6 ∧ h.state = .inFrame then h.lane else 31)) s

/-- LOL is declared and the reassembled OTU4 is out of frame (R48). -/
def State.declareLol (s : State) (lead : Nat) (fault : Bool) : State :=
  if s.rxFmt lead ≠ 6 ∨ s.rawBit lead 4 then s
  else s.withDefects lead (fun s =>
    let s := s.setFramer lead { s.framer lead with lolFault := fault }
    ((s.setRaw lead 4 true).goOof lead 5))

/-- After a change of a member: the lanes shown, and LOL where a condition of R48 fails. -/
def State.groupCheck (s : State) (f : Nat) : State :=
  if 192 ≤ f then s
  else
    let lead := leadOf f
    let s := if s.rxFmt f = 6 ∨ s.rxFmt lead = 6 then s.showLanes f else s
    if s.rxFmt lead = 6 ∧ !s.groupFramed lead then s.declareLol lead false
    else if s.rxFmt lead = 6 ∧ !s.lanesComplete lead then s.declareLol lead true
    else s

/-! ### Multiframe and line numbers (R44, R50) -/

/-- The machine's next state on a received value; `next` is the successor of a value.  The second part
says that OOM was entered from IN_MF, or that its first five frames are over without IN_MF. -/
def Mf.step (m : Mf) (next : Nat → Nat) (v now : Nat) : Mf × Bool :=
  if m.inMf then
    let e := next m.expected
    if v = e then ({ m with expected := e, run := 0 }, false)
    else if m.run + 1 < 5 then ({ m with expected := e, run := m.run + 1 }, false)
    else ({ m with inMf := false, expected := v, run := 0, good := 0, restart := false, everIn := true, oomSince := now }, true)
  else if m.restart then
    ({ m with expected := v, run := 1, good := 0, restart := false, everIn := false }, false)
  else
    let good := if v = next m.expected then m.good + 1 else 0
    if 2 ≤ good then ({ m with inMf := true, expected := v, run := 0, good := 0, everIn := false }, false)
    else if m.everIn then ({ m with expected := v, good := good }, false)
    else
      let due := decide (5 ≤ m.run + 1)
      ({ m with expected := v, good := good, run := m.run + 1, everIn := due,
                oomSince := if due then now else m.oomSince }, due)

/-- A flywheel frame advances the expectation of the suspended machine (R44). -/
def Mf.coast (m : Mf) (next : Nat → Nat) : Mf := { m with expected := next m.expected }

def nextMfas (v : Nat) : Nat := (v + 1) % 256

/-- Line numbers run from 1 to FRAME_LINES (R50). -/
def State.nextLine (s : State) (f v : Nat) : Nat :=
  if s.fld (rxA f 0x1B0) 27 16 ≤ v then 1 else v + 1

def State.mfNext (s : State) (f : Nat) : Nat → Nat :=
  if famOf (s.rxFmt f) = 3 then s.nextLine f else nextMfas

def State.lomTime (s : State) (f : Nat) : Nat := s.fld (rxA f 0x160) 15 0 * 100 * usNs

/-- Back IN_FRAME: the machine resumes at the same alignment, with its timer moved past the time out of
frame, and else starts in OOM (R44). -/
def State.mfResume (s : State) (f : Nat) (same : Bool) (oofSince : Nat) : State :=
  let x := s.framer f
  let m := x.mf
  if same && !m.restart then s.setFramer f { x with mf := { m with oomSince := m.oomSince + (s.now - oofSince) } }
  else s.setFramer f { x with mf := Mf.init }

/-! ### Declaring and losing alignment (R34, R36 to R41) -/

/-- A frame delivered flagged OOF, as Inventory counts it (R39, R319). -/
def State.tallyOof (s : State) (f : Nat) : State := s.tallyFrame f 3

/-- The flywheel frame in progress when IN_FRAME is declared: at the same alignment it is still to complete; at a new
one it is cut short and delivered, flagged truncated (R38). -/
def State.flyCut (s : State) (f : Nat) (flew same : Bool) : State :=
  if !flew then s
  else if same then s.setHunter f 0 { s.hunter f 0 with flyDue := true }
  else (s.tallyOof f).setFramer f { s.framer f with mark := (true, true) }

/-- IN_FRAME at a candidate's alignment, declared at bit `e` (R34, R38, R44). -/
def State.declareIn (s : State) (f p e : Nat) (c : Cand) : State :=
  let h := s.hunter f p
  let len := max 1 h.frameLen
  let align := (((c.pos + 1 : Nat) : Int) - h.anchor) % (len : Int) |>.toNat
  let step := match h.lastAlign with
    | none => 0
    | some a => ((align : Int) - a + (len / 2 : Nat)) % (len : Int) - (len / 2 : Nat)
  let same := h.fly == some align
  let s := if step = 0 then s
    else
      let s := (s.wrI (rxA f 0x130) step).inc (rxA f 0x14C)
      (s.event (rxA f 0x12C) 6).raise (rxSrc f) 0x07 false (unsignedOf 32 step)
  let next := c.pos + (e + len - 1 - c.pos) / len * len
  let s := s.setHunter f p { h with
    state := .inFrame, cands := [], errRun := 0, lastAlign := some align, fly := some align, lane := c.tag % 20,
    start := none, next := next, firstAt := if next + 1 < e + h.anchor then next + len else next, flyDue := false }
  let s := s.endOof f p
  if s.rxFmt f = 6 then s
  else
    let s := (s.mfResume f same h.oofSince).flyCut f (h.fly.isSome && !s.rawBit f 0) same
    (s.setFramer f { s.framer f with firstIn := true, hist := [] }).carriedAlign f

/-- The end of an AMBIGUOUS episode without a decision; the next bit is `e` (R36, R41). -/
def State.unresolved (s : State) (f p e : Nat) : State :=
  let n := (s.hunter f p).cands.length
  let s := (s.inc (rxA f 0x144)).event (rxA f 0x12C) 5
  (s.raise (rxSrc f) 0x06 false n).enterHunt f p (some e)

/-- The candidates that satisfy the tie-breaker (R40). -/
def Hunter.winners (h : Hunter) : List Cand := h.cands.filter (fun c => c.ev == some true && c.evPrev == some true)

/-- Exactly one candidate satisfies the tie-breaker: IN_FRAME there (R36, R41). -/
def State.tieBreak (s : State) (f p e : Nat) : Option State :=
  match (s.hunter f p).winners with
  | [c] => some (s.declareIn f p e c)
  | _ => none

/-- The end, at bit `e`, of a hunt window (R34, R36). -/
def State.windowJudge (s : State) (f p e : Nat) : State :=
  let h := s.hunter f p
  match h.state with
  | .hunt =>
    match h.cands.filter (fun c => decide (1 + h.confirm ≤ c.count)) with
    | [] => s
    | [c] => s.declareIn f p e c
    | cs =>
      let s := s.setHunter f p { h with state := .ambiguous, cands := cs, ambigWindows := 0 }
      let s := (s.inc (rxA f 0x140)).event (rxA f 0x12C) 4
      let s := s.raise (rxSrc f) 0x05 false cs.length
      (s.tieBreak f p e).getD s
  | .ambiguous =>
    let n := h.ambigWindows + 1
    let s := s.setHunter f p { h with ambigWindows := n }
    match s.tieBreak f p e with
    | some s => s
    | none => if h.cands.isEmpty ∨ h.ambigLimit ≤ n then s.unresolved f p e else s
  | _ => s

/-- The first bit after the present hunt window (R32). -/
def Hunter.windowEnd (h : Hunter) (start : Nat) : Nat := start + (h.win + 1) * h.frameLen

/-- A hunt window ends once every expected position in it has been judged (R32, R33). -/
def State.windowEnd (s : State) (f p : Nat) : State :=
  let h := s.hunter f p
  match h.start with
  | none => s
  | some st =>
    let e := h.windowEnd st
    if h.cands.all (fun c => decide (e ≤ c.pos + h.frameLen)) then
      (s.setHunter f p { h with win := h.win + 1, bit := e }).windowJudge f p e
    else s

/-- The bits of the match are those that the mask selects of the pattern (R32, R37). -/
def State.patternAt (s : State) (f p : Nat) (window : BitVec 74) : Bool :=
  let h := s.hunter f p
  ((seenBits (s.rxFmt f) (s.descrambleOff f) window ^^^ BitVec.ofNat 64 h.pattern) &&& BitVec.ofNat 64 h.mask) == 0

/-- The byte `m` of an aligned frame after descrambling (R40, R43). -/
def State.clearByte (s : State) (f m : Nat) (b : Byte) : Byte :=
  if s.descrambleOff f then b else b ^^^ keyAt (s.rxFmt f) m

/-- What a match brings for the tie-breaker: MFAS, LLM or line number (R40). -/
def State.matchTag (s : State) (f : Nat) (x : MatchIn) : Nat :=
  match famOf (s.rxFmt f) with
  | 2 => if s.rxFmt f = 6 then x.window.toNat % 256 else (s.clearByte f 6 x.mfas).toNat
  | 3 => x.lineNo
  | _ => 0

/-- The evidence of a match of candidate `c` after its first (R40). -/
def State.evidence (s : State) (f : Nat) (c : Cand) (x : MatchIn) : Bool :=
  let fmt := s.rxFmt f
  let v := s.matchTag f x
  match famOf fmt with
  | 1 => s.clearByte f (frameCols fmt) x.b1 == x.bip
  | 2 => if fmt = 6 then v % 20 == c.tag % 20 && v == (c.tag + 20) % 240 else v == nextMfas c.tag
  | 3 => xyzValid (s.streams f) x.xyz && v == s.nextLine f c.tag &&
      x.crcs.length == s.streams f && x.crcs.all crc18Ok
  | _ => false

/-- A pattern match, or a failed match at a candidate's expected position (R33, R40, R49). -/
def State.judgeMatch (s : State) (f p pos : Nat) (x : MatchIn) : State :=
  let h := s.hunter f p
  let isMatch := s.patternAt f p x.window
  match h.cands.find? (fun c => c.pos + h.frameLen == pos) with
  | some c =>
    let others := h.cands.filter (fun d => d != c)
    if isMatch then
      let c' := { c with pos := pos, count := c.count + 1, ev := some (s.evidence f c x), evPrev := c.ev,
                         tag := s.matchTag f x }
      s.setHunter f p { h with cands := h.cands.map (fun d => if d = c then c' else d) }
    else
      let s := s.setHunter f p { h with cands := others }
      if h.state == .ambiguous && others.isEmpty then s.unresolved f p (pos + 1) else s
  | none =>
    if !isMatch || h.state != .hunt || (famOf (s.rxFmt f) == 3 && !xyzValid (s.streams f) x.xyz) then s
    else if h.cands.length < 8 then
      s.setHunter f p { h with cands := h.cands ++ [{ pos := pos, count := 1, ev := none, evPrev := none,
                                                       tag := s.matchTag f x }] }
    else ((s.inc (rxA f 0x148)).event (rxA f 0x12C) 7).raise (rxSrc f) 0x08 false 0

/-- What the line brings at bit `pos`.  It is judged in the order of the bits: after the last bit judged, in the
present window, and not past a position that a candidate expects (R32, R33; assumption 83). -/
def State.huntMatch (s : State) (f p pos : Nat) (x : MatchIn) : State :=
  let h := s.hunter f p
  let st := h.start.getD (max h.bit (min x.start pos))
  let win := if h.cands.isEmpty then max h.win ((pos - st) / max 1 h.frameLen) else h.win
  let h' := { h with start := some st, win := win }
  if h.bit ≤ pos ∧ pos < h'.windowEnd st ∧ h.cands.all (fun c => decide (pos ≤ c.pos + h.frameLen)) then
    (s.setHunter f p { h' with bit := pos + 1 }).judgeMatch f p pos x
  else s

/-- LOSS_COUNT consecutive errored patterns, the last ending at bit `pos`: OOF, and HUNT from the next bit (R36). -/
def State.loseFrame (s : State) (f p pos : Nat) : State :=
  let s := (s.goOof f p).inc (rxA f 0x150)
  s.enterHunt f p (some (pos + 1))

/-- The pattern at the expected position of a frame (R37). -/
def State.patternSeen (s : State) (f p : Nat) (ok : Bool) : State :=
  let h := s.hunter f p
  let s := s.setHunter f p { h with errRun := if ok then 0 else h.errRun + 1, next := h.next + h.frameLen,
                                    bit := h.next + 1 }
  if !ok && decide (h.lossCount ≤ h.errRun + 1) then s.loseFrame f p h.next else s

/-! ### FORMAT, REHUNT, LOS (R30, R36, R67) -/

/-- SDI_STREAMS and FRAME_LINES presets (R49, R50). -/
def sdiPreset (fmt : Nat) : Nat × Nat :=
  match fmt with
  | 10 => (4, 2250)
  | 11 => (8, 2250)
  | _ => (2, 1125)

/-- Presets loaded on selecting a format (R30, R49, R50). -/
def State.loadPresets (s : State) (f fmt : Nat) : State :=
  let (pat, mask, len, anchor) := presetOf fmt
  let s := ((s.wrN (rxA f 0x108) pat).wrN (rxA f 0x10C) (pat / 2 ^ 32)).wrN (rxA f 0x110) mask
  let s := (s.wrN (rxA f 0x114) (mask / 2 ^ 32)).wrN (rxA f 0x118) len
  let s := if famOf fmt = 3 then s else s.wrN (rxA f 0x11C) anchor
  let s := ((s.setFld (rxA f 0x120) 3 0 2).setFld (rxA f 0x120) 11 8 5).setFld (rxA f 0x120) 23 16 16
  let s := ((s.setFld (rxA f 0x124) 15 0 30).setFld (rxA f 0x124) 31 16 30).setFld (rxA f 0x160) 15 0 0
  let s := if famOf fmt = 2 then s.setFld (rxA f 0x170) 1 0 0 else s
  if famOf fmt = 3 then
    let (k, n) := sdiPreset fmt
    (s.setFld (rxA f 0x1B0) 4 0 k).setFld (rxA f 0x1B0) 27 16 n
  else s

/-- The framer's detectors as at reset; counters, captures' count and the latches are kept. -/
def Framer.cleared (x : Framer) : Framer :=
  { Framer.init with frameCount := x.frameCount, latchBase := x.latchBase, secSeen := x.secSeen,
                     detSince := x.detSince }

/-- A hunter without its candidates; its bits go on counting (R32). -/
def State.freshHunters (s : State) (f : Nat) (fmt : Nat) (keepAlign : Bool) : Tab Hunter :=
  (phasesOf fmt).foldl (fun t p =>
    let h := s.hunter f p
    Tab.set t Hunter.init p { Hunter.init with bit := h.bit, lastAlign := if keepAlign then h.lastAlign else none }) []

/-- The end of LOS on a lane as loop timing sees it (R28). -/
def State.losOver (s : State) (f : Nat) : State :=
  if s.rawBit f 0 then s.setTx f { s.tx f with losFreeSince := s.now } else s

/-- FORMAT becomes 0 (R36). -/
def State.disableRx (s : State) (f : Nat) : State :=
  let s := (s.losOver f).setFld (rxA f 0x100) 3 0 0
  let s := s.setFramer f { (s.framer f).cleared with hunters := s.freshHunters f 1 false }
  let s := (((s.wrN (rxA f 0x204) 0).wrN (rxA f 0x208) 0).wrN (rxA f 0x128) 0).clearRegs (rxA f 0x210) (rxA f 0x228)
  ((s.clearRegs (rxA f 0x190) (rxA f 0x194)).clearRegs (rxA f 0x198) (rxA f 0x19C)).carriedFollow f

/-- OOF and LOF at once, and HUNT at the next bit: a new FORMAT, and the end of a block reset (R36, R423). -/
def State.startHunt (s : State) (f : Nat) : State :=
  let fmt := s.rxFmt f
  let s := (phasesOf fmt).foldl (fun s p => (s.goOof f p).enterHunt f p none) s
  (if fmt = 6 ∧ f % 4 = 0 then (s.goOof f 5).setRaw f 4 true else s).setLof f true

/-- FORMAT becomes another valid code (R36).  Every raw defect but LOS is dropped, beyond those that the rule names,
as the frames of the old format that set them are over (DESIGN CHOICE, assumption 82). -/
def State.enableRx (s : State) (f fmt : Nat) : State :=
  s.withDefects f (fun s =>
    let los := s.rawBit f 0
    let x := s.framer f
    let off := s.rxFmt f = 0
    let s := ((s.setFld (rxA f 0x100) 3 0 fmt).loadPresets f fmt).setFramer f { x.cleared with
      hunters := s.freshHunters f fmt false, pdefEff := x.pdefEff, detSince := if off then s.now else x.detSince }
    let s := ((s.wrN (rxA f 0x204) 0).clearRegs (rxA f 0x210) (rxA f 0x228)).clearRegs (rxA f 0x198) (rxA f 0x19C)
    let s := (s.clearRegs (rxA f 0x190) (rxA f 0x194)).setRaw f 0 los
    s.startHunt f)

/-- A write of FF_MODE.FORMAT (R31, R36). -/
def State.formatWrite (s : State) (f fmt : Nat) : State :=
  let bad := !fmtOk f fmt
  let s := if bad then (s.event (rxA f 0x12C) 12).raise (rxSrc f) 0x0B false (rxA f 0x100) else s
  let fmt := if bad then 0 else fmt
  if fmt = s.rxFmt f then s
  else
    let s := if fmt = 0 then s.disableRx f else s.enableRx f fmt
    (s.showFrame f).groupCheck f

/-- Every hunter of the framer back to HUNT (R36). -/
def State.huntAgain (s : State) (f : Nat) : State :=
  let x := s.framer f
  let s := s.setFramer f { x with mf := { x.mf with restart := true } }
  (phasesOf (s.rxFmt f)).foldl (fun s p => (s.goOof f p).enterHunt f p none) s

/-- FF_CTRL.REHUNT (R36). -/
def State.rehunt (s : State) (f : Nat) : State :=
  if s.rxFmt f = 0 then s
  else ((s.withDefects f (fun s => s.huntAgain f)).showFrame f).groupCheck f

/-- LOS declared (R36, R67). -/
def State.declareLos (s : State) (f : Nat) : State :=
  ((s.withDefects f (fun s => (s.setRaw f 0 true).huntAgain f)).showFrame f).groupCheck f

/-- LOS clears: the hunters are held no longer, and their hunt starts at the next bit (R36). -/
def State.clearLos (s : State) (f : Nat) : State :=
  let s := s.losOver f
  let s := s.withDefects f (fun s =>
    (phasesOf (s.rxFmt f)).foldl (fun s p =>
      s.setHunter f p { s.hunter f p with heldByLos := false, start := none }) (s.setRaw f 0 false))
  s.showFrame f

end Sys2Proof.Machine
end

