-- ==== Sys2Proof/Machine/Detect.lean ====
section
/-! DEFINITION. What receive framers and MAP tributaries detect alike: runs of frames, degrade windows,
due extraction entries, pointer interpretation (R57, R66, R70). -/

namespace Sys2Proof.Machine

/-! ### Runs of frames (R66) -/

/-- A detector that enters after `nIn` consecutive frames that meet its criterion and leaves after `nOut`
that do not: new state, and the two runs. -/
def runStep (on cond : Bool) (e l nIn nOut : Nat) : Bool × Nat × Nat :=
  if cond then (on || decide (nIn ≤ e + 1), min nIn (e + 1), 0)
  else (on && !decide (nOut ≤ l + 1), 0, min nOut (l + 1))

/-- The bytes of a tributary's overhead as a table; a slot that is not listed carries 0x00. -/
def byteTab (bs : List (Slot × Byte)) : Tab Byte := bs.foldl (fun t e => Tab.set t 0 e.1.toNat e.2) []

/-- Defects of a multiplex section, by bits 6 to 8 of K2: bit, criterion, frames to enter and to leave (R66). -/
def sdhCriteria (k2 : Nat) : List (Nat × Bool × Nat × Nat) := [(6, k2 % 8 == 7, 3, 3), (7, k2 % 8 == 6, 5, 5)]

/-- Defects of an ODU path, by its PM byte 3 (R66). -/
def pmCriteria (pm : Nat) : List (Nat × Bool × Nat × Nat) :=
  [(15, pm % 8 == 7, 3, 3), (16, pm % 8 == 6, 3, 3), (17, pm % 8 == 5, 3, 3), (19, pm / 8 % 2 == 1, 5, 5)]

/-- Defects of an OTU section, by its SM byte 3 (R66). -/
def smCriteria (sm : Nat) : List (Nat × Bool × Nat × Nat) :=
  [(18, sm / 8 % 2 == 1, 5, 5), (20, sm / 4 % 2 == 1, 5, 5), (21, sm / 16 == 11, 3, 3)]

/-! ### Degrade detectors (R70) -/

/-- Thresholds of a half at register `a`: window, set, clear, quiet windows that clear (R70, R80). -/
def State.degLimits (s : State) (a : Nat) : Nat × Nat × Nat × Nat :=
  (s.fld a 23 0, s.fld (a + 4) 23 0, s.fld (a + 8) 23 0, max 1 (s.fld (a + 8) 27 24))

/-- SET 0 or WINDOW 0 disables the half (R70); a defect that it had declared ends with it. -/
def State.degOn (s : State) (a : Nat) : Bool := s.fld a 23 0 != 0 && s.fld (a + 4) 23 0 != 0

/-- The end of a window (R70). -/
def Deg.ended (d : Deg) (lim : Nat × Nat × Nat × Nat) : Deg :=
  if lim.2.1 ≤ d.count then { frames := 0, count := 0, quiet := 0, on := true }
  else if d.on && decide (d.count < lim.2.2.1) then
    if lim.2.2.2 ≤ d.quiet + 1 then Deg.init else { frames := 0, count := 0, quiet := d.quiet + 1, on := true }
  else { frames := 0, count := 0, quiet := 0, on := d.on }

/-- A window that has all its frames ends (R70). -/
def State.degDue (s : State) (a : Nat) (d : Deg) : Deg :=
  if !s.degOn a then Deg.init
  else if decide (s.fld a 23 0 ≤ d.frames) then d.ended (s.degLimits a) else d

/-- A frame in which the count was compared (R70). -/
def State.degAdd (s : State) (a n : Nat) (d : Deg) : Deg :=
  if s.degOn a then
    let d := s.degDue a d
    { d with frames := d.frames + 1, count := d.count + n }
  else Deg.init

/-- Both halves of detector `i` take a compared count; `a` is the detector's first register. -/
def State.degFrame (s : State) (a i n : Nat) (t : Tab Deg) : Tab Deg :=
  let t := Tab.set t Deg.init (2 * i) (s.degAdd a n (Tab.get t Deg.init (2 * i)))
  Tab.set t Deg.init (2 * i + 1) (s.degAdd (a + 0xC) n (Tab.get t Deg.init (2 * i + 1)))

/-! ### Extraction entries (R57, R58) -/

/-- An extraction entry in a frame: its index and mode, the byte of its slot, and the consecutive frames that the byte
has held. -/
structure Extract where
  entry : Nat
  mode : Nat
  byte : Byte
  run : Nat

/-- The entry is due in this frame (R57). -/
def OhX.isDue (x : OhX) (persist : Nat) (first : Bool) (e : Extract) : Bool :=
  let last := Tab.get x.last none e.entry
  match e.mode with
  | 0 => false
  | 1 => true
  | 2 => first || last != some e.byte || x.owed.contains e.entry
  | _ => decide (max 1 persist ≤ e.run) && last != some e.byte

/-- The due entries of a frame with their bytes, in order. -/
def OhX.due (x : OhX) (persist : Nat) (first : Bool) (es : List Extract) : List (Nat × Byte) :=
  (es.filter (x.isDue persist first)).map (fun e => (e.entry, e.byte))

/-- By slot, the frames of this alignment before the byte last changed: `n` frames came before this one, and every
slot of `slots` has the byte `old` before and `new` now (R57). -/
def changesOf (changed : Tab Nat) (n : Nat) (slots : List Nat) (old new : Nat → Byte) : Tab Nat :=
  slots.foldl (fun t k => if old k = new k then t else Tab.set t 0 k n) changed

/-- After the item: delivered values are remembered, or the entries stay due (R58). -/
def OhX.sent (x : OhX) (ok : Bool) (ds : List (Nat × Byte)) : OhX :=
  if ok then { x with last := ds.foldl (fun t e => Tab.set t none e.1 (some e.2)) x.last, owed := [] }
  else { x with owed := ds.map (·.1) ++ x.owed.filter (fun j => !(ds.map (·.1)).contains j) }

/-- An entry is written: its last value and the report of its slot are forgotten (R55, R57). -/
def OhX.written (x : OhX) (j : Nat) : OhX :=
  { x with last := Tab.set x.last none j none,
           owed := x.owed.filter (· ≠ j), reported := x.reported.filter (· ≠ j) }

/-- The data words of due entries (R59). -/
def dueWords (ds : List (Nat × Byte)) : List Half := ds.map (fun e => BitVec.ofNat 16 (e.1 * 256 + e.2.toNat))

/-! ### Pointers (R66) -/

/-- Runs of one AU-4, in the order all ones, invalid, new data flag, equal normal. -/
structure PtrRun where
  ais : Nat
  inv : Nat
  ndf : Nat
  norm : Nat
  val : Nat
deriving DecidableEq, Repr

/-- The runs after one frame. -/
def PtrRun.step (r : PtrRun) : PtrIn → PtrRun
  | .allOnes => { r with ais := min 3 (r.ais + 1), inv := 0, ndf := 0, norm := 0 }
  | .invalid => { r with ais := 0, inv := min 8 (r.inv + 1), ndf := 0, norm := 0 }
  | .newData v => { ais := 0, inv := 0, ndf := min 8 (r.ndf + 1), norm := 0, val := v }
  | .normal v =>
    { ais := 0, inv := 0, ndf := 0, norm := if r.norm ≠ 0 ∧ r.val = v then min 3 (r.norm + 1) else 1, val := v }

/-- AU-AIS and AU-LOP after the frame (R66). -/
def PtrRun.defects (r : PtrRun) (p : PtrIn) (ais lop : Bool) : Bool × Bool :=
  let normal := decide (3 ≤ r.norm)
  let ndf := match p with | .newData _ => true | _ => false
  let aisIn := decide (3 ≤ r.ais)
  (aisIn || (ais && !normal && !ndf),
    (decide (8 ≤ r.inv) || decide (8 ≤ r.ndf)) || (lop && !normal && !aisIn))

/-! ### Tributaries (R70, R71) -/

/-- MAP of the row is out of reset, and its clock runs (R27). -/
def State.mapRuns (s : State) (r : Nat) : Bool := s.coreRuns && !s.inReset (mapA r 0)

/-- A frame edge of tributary `t` takes the program defects as written (R71). -/
def State.pdefTribEdge (s : State) (r t : Nat) : State :=
  s.setTrib r t { s.trib r t with pdefEff := BitVec.ofNat 8 (s.fld (tribA r t 0xC) 7 0) }

/-- SD and SF of a tributary follow detector 1 (R70, R106). -/
def State.tribShowDeg (s : State) (r t : Nat) : State :=
  let on := fun i => (Tab.get (s.trib r t).deg Deg.init i).on
  (s.setBit (tribA r t 0) 13 (on 2)).setBit (tribA r t 0) 14 (on 3)

end Sys2Proof.Machine
end

