-- ==== Sys2Proof/Machine/RxFrames.lean ====
section
/-! DEFINITION. What a receive framer takes from a frame it delivers: multiframe, FEC, overhead defects,
pointers, parity, reverse counts, degrade, overhead items, stamps (R43 to R45, R50, R56 to R70, R94, R177). -/

namespace Sys2Proof.Machine

/-! ### Multiframe (R44, R50, R94) -/

/-- OOM of a machine has lasted LOM_TIME (R44). -/
def Mf.lomDue (m : Mf) (t now : Nat) : Bool := !m.inMf && m.everIn && decide (m.oomSince + t ≤ now)

/-- The framer follows OMFI: the lead of an ODU4 carrier, or of the other copy of one (R94, R115). -/
def State.omfiRuns (s : State) (f : Nat) : Bool :=
  s.rxFmt f == 6 && f % 4 == 0 && (s.hoMode (rowOfCh f) (idxOf f) ||
    s.enabledPairs.any (fun i => s.copyChan i true == some f &&
      s.hoMode (rowOfCh (s.mChanA i)) (idxOf (s.mChanA i))))

/-- LOM is declared where OOM has lasted LOM_TIME, and ends with the entry to IN_MF (R44, R94). -/
def State.lomState (s : State) (f : Nat) : State :=
  if famOf (s.rxFmt f) ≠ 2 then s
  else
    let x := s.framer f
    let t := s.lomTime f
    let b := s.omfiRuns f && x.omfi.lomDue t s.now
    s.setRaw f 3 (x.mf.lomDue t s.now || b || (s.rawBit f 3 && !x.mf.inMf))

def nextOmfi (v : Nat) : Nat := (v + 1) % 80

/-- The multiframe or line number of a delivered frame (R44, R50).  Where HO_MODE is turned off and on again the OMFI
machine goes on from the state it had (DESIGN CHOICE, assumption 82). -/
def State.mfFrame (s : State) (f mfas : Nat) (x : FrameIn) : State :=
  let fam := famOf (s.rxFmt f)
  if fam = 1 then s
  else
    let y := s.framer f
    let v := if fam = 2 then mfas else x.lineNo
    let s := s.setFramer f { y with mf := (y.mf.step (s.mfNext f) v s.now).1 }
    let s := if fam = 2 then s.setFld (rxA f 0x164) 7 0 v else s
    let s := match x.omfi with
      | some o =>
        let y := s.framer f
        if s.omfiRuns f then s.setFramer f { y with omfi := (y.omfi.step nextOmfi o s.now).1 } else s
      | none => s
    s.lomState f

/-- A flywheel frame passes the suspended machine (R44). -/
def State.mfCoast (s : State) (f : Nat) : State :=
  let y := s.framer f
  if famOf (s.rxFmt f) = 1 then s
  else s.setFramer f { y with mf := y.mf.coast (s.mfNext f), omfi := y.omfi.coast nextOmfi }

/-! ### Descrambling and FEC (R43, R45) -/

/-- The frame after alignment, descrambling and decoding, in this order (R43). -/
def State.frameTab (s : State) (f : Nat) (x : FrameIn) : Tab Byte :=
  let fmt := s.rxFmt f
  let off := s.descrambleOff f
  let t := lineTab fmt off x.bytes
  if famOf fmt = 2 then decoded fmt off t (fecLeft (s.fld (rxA f 0x170) 1 0) (errTab x.errs)) else t

/-- The byte of a frame at a slot. -/
def State.slotByte (s : State) (f : Nat) (t : Tab Byte) (slot : Nat) : Byte :=
  placeByte (s.rxFmt f) (s.descrambleOff f) t (slotPlace slot)

def State.fecFrame (s : State) (f : Nat) (x : FrameIn) : State :=
  if famOf (s.rxFmt f) = 2 ∧ s.fld (rxA f 0x170) 1 0 ≤ 1 then
    let (bits, syms, bad, good) := fecCounts (errTab x.errs)
    let s := (s.add48 (rxA f 0x178) (rxA f 0x17C) bits).add48 (rxA f 0x180) (rxA f 0x184) syms
    let s := (s.add48 (rxA f 0x188) (rxA f 0x18C) bad).tallyRow (rowOfCh f) (idxOf f) 10 good
    if bad = 0 then s
    else (s.event (rxA f 0x12C) 13).raiseLim 1 0 (rxSrc f) 0x0C false 0
  else s

/-! ### Overhead defects and pointers (R66) -/

/-- One detector of consecutive frames: bit, criterion, frames to enter and to leave. -/
def State.rxRun (s : State) (f : Nat) (e : Nat × Bool × Nat × Nat) : State :=
  let x := s.framer f
  let r := runStep (s.rawBit f e.1) e.2.1 (Tab.get x.enter 0 e.1) (Tab.get x.leave 0 e.1) e.2.2.1 e.2.2.2
  (s.setFramer f { x with enter := Tab.set x.enter 0 e.1 r.2.1, leave := Tab.set x.leave 0 e.1 r.2.2 }).setRaw f e.1 r.1

/-- The criteria that a frame's overhead gives, by format; CSF is judged where the part terminates the ODU. -/
def State.rxCriteria (s : State) (f : Nat) (t : Tab Byte) (csf : Option Bool) : List (Nat × Bool × Nat × Nat) :=
  let fmt := s.rxFmt f
  match famOf fmt with
  | 1 => sdhCriteria (s.slotByte f t (4 * 2048 + 6 * auN fmt)).toNat
  | 2 =>
    pmCriteria (s.slotByte f t 0x100B).toNat ++ smCriteria (s.slotByte f t 0x0009).toNat ++
      (match csf with
        | some b => if s.hoMode (rowOfCh f) (idxOf f) then [(22, b, 3, 3)] else []
        | none => [])
  | _ => []

/-- Runs of AU-4 `k`, kept beside those of the whole channel. -/
def Framer.ptrRun (x : Framer) (k : Nat) : PtrRun :=
  { ais := Tab.get x.enter 0 (32 + k), inv := Tab.get x.enter 0 (96 + k), ndf := Tab.get x.leave 0 (32 + k),
    norm := Tab.get x.leave 0 (96 + k), val := Tab.get x.ptrVal 0 k }

def Framer.setPtrRun (x : Framer) (k : Nat) (r : PtrRun) : Framer :=
  { x with enter := Tab.set (Tab.set x.enter 0 (32 + k) r.ais) 0 (96 + k) r.inv,
           leave := Tab.set (Tab.set x.leave 0 (32 + k) r.ndf) 0 (96 + k) r.norm,
           ptrVal := Tab.set x.ptrVal 0 k r.val }

/-- What pointer interpretation sees of AU-4 `k`: an invalid concatenation indication on a follower counts as
an invalid pointer of its head (R66). -/
def State.auSees (s : State) (f : Nat) (au : List (Fin 64 × PtrIn)) (k : Nat) : Option PtrIn :=
  let own := (au.find? (fun e => e.1.val == k)).map (·.2)
  let head := fun j => !((List.range j).any (fun i => decide (k < i) && s.auMode f i != 3))
  let bad := s.auMode f k == 2 && au.any (fun e => decide (k < e.1.val) && s.auMode f e.1.val == 3 && head e.1.val &&
    e.2 == .invalid)
  if bad then some .invalid else own

/-- Pointer interpretation and HP-RDI of AU-4 `k` in a frame; a follower or an AU-4 that is not monitored has
none of its own (R66). -/
def State.auFrame (s : State) (f : Nat) (x : FrameIn) (t : Tab Byte) (k : Nat) : State :=
  if s.auMode f k = 1 ∨ s.auMode f k = 2 then
    let s := match s.auSees f x.au k with
      | none => s
      | some p =>
        let y := s.framer f
        let r := (y.ptrRun k).step p
        let d := r.defects p ((s.map64 (rxA f 0x210)).testBit k) ((s.map64 (rxA f 0x218)).testBit k)
        ((s.setFramer f (y.setPtrRun k r)).setMap64 (rxA f 0x210) k d.1).setMap64 (rxA f 0x218) k d.2
    let y := s.framer f
    let rdi := (s.slotByte f t (12 * 2048 + 16 * k + 3)).toNat / 8 % 2 == 1
    let r := runStep ((s.map64 (rxA f 0x220)).testBit k) rdi (Tab.get y.enter 0 (160 + k)) (Tab.get y.leave 0 (160 + k)) 5 5
    (s.setFramer f { y with enter := Tab.set y.enter 0 (160 + k) r.2.1,
                            leave := Tab.set y.leave 0 (160 + k) r.2.2 }).setMap64 (rxA f 0x220) k r.1
  else s

/-- The overhead defects of a frame. -/
def State.rxDetect (s : State) (f : Nat) (x : FrameIn) (t : Tab Byte) : State :=
  let s := (s.rxCriteria f t x.csf).foldl (fun s e => s.rxRun f e) s
  if famOf (s.rxFmt f) = 1 then (List.range (auN (s.rxFmt f))).foldl (fun s k => s.auFrame f x t k) s else s

/-! ### Parity and reverse counts (R62 to R64) -/

/-- Frames between the covered frame and the one that carries its check (R62). -/
def parityGap (fam : Nat) : Nat := if fam = 1 then 1 else if fam = 2 then 2 else 0

/-- The AU-4s whose B3 cannot be compared across a frame: in AU-AIS or AU-LOP, or with a new data flag. -/
def State.auBlocked (s : State) (f : Nat) (x : FrameIn) : Nat :=
  x.au.foldl (fun m e => match e.2 with | .newData _ => Nat.lor m (2 ^ e.1.val) | _ => m)
    (Nat.lor (s.map64 (rxA f 0x210)) (s.map64 (rxA f 0x218)))

/-- What masks parity in a frame: the active defects, and above them the blocked AU-4s. -/
def State.maskWord (s : State) (f : Nat) (x : FrameIn) : Nat := s.fld (rxA f 0x208) 23 0 + s.auBlocked f x * 2 ^ 24

/-- A check is compared when the frames it spans were delivered at one alignment with nothing that masks it
(R63); `now` is the mask word of the carrying frame. -/
def Framer.compared (x : Framer) (gap now : Nat) (mask : List Nat) : Bool :=
  !anyBit now mask && (gap == 0 || (match x.hist[gap - 1]? with | some h => !anyBit h mask | none => false))

/-- Errored bits and blocks of a compared check. -/
def State.parAdd (s : State) (par blk n : Nat) (blocks : Bool) : State :=
  let s := s.addTo par n
  if blocks && n != 0 then s.inc blk else s

/-- The transmit framer `f` takes counts of its receive channel: its format is of the same family (R65). -/
def State.reverseTakes (s : State) (f : Nat) : Bool := famOf (s.txFmt f) == famOf (s.rxFmt f)

/-- BEI values above 8 count as 0 (R64). -/
def beiValue (b : Byte) : Nat := if b.toNat / 16 ≤ 8 then b.toNat / 16 else 0

def State.degA (f i : Nat) : Nat := rxA f (0x240 + 0x20 * i)

/-- A detector of the framer takes a compared count (R70). -/
def State.rxDeg (s : State) (f i n : Nat) : State :=
  let x := s.framer f
  s.setFramer f { x with deg := s.degFrame (State.degA f i) i n x.deg }

/-- Errored bits between the kept parity of `gap` frames before and the byte that carries it. -/
def Framer.bipErrs (x : Framer) (gap : Nat) (b : Byte) : Nat := popCount 8 (x.bips.getD (gap - 1) 0 ^^^ b).toNat

/-- Place of M1 in an STM-N: row 9, column 3N + 3, as S(9,4,3) of G.707 (R54, R64; assumption 23). -/
def m1Slot (fmt : Nat) : Nat := 8 * 2048 + 3 * auN fmt + 2

/-- SDH checks of a frame (R62 to R64). -/
def State.sdhParity (s : State) (f : Nat) (t : Tab Byte) (now : Nat) : State :=
  let y := s.framer f
  let fmt := s.rxFmt f
  let off := s.descrambleOff f
  let n := auN fmt
  let s := s.setFramer f { y with parA := none, parB := none }
  let s := if y.compared 1 now [0, 2] then
      s.parAdd (rxA f 0x280) (rxA f 0x288) (y.bipErrs 1 (s.slotByte f t 0x0800)) true
    else s
  let s := if y.compared 1 now [0, 2, 6] then
      let e := b2Errors fmt off y.b2 t
      let s := (s.parAdd (rxA f 0x284) (rxA f 0x28C) e true).addTo (rxA f 0x290) (s.slotByte f t (m1Slot fmt)).toNat
      let s := if s.reverseTakes f then s.setTx f { s.tx f with accM1 := (s.tx f).accM1 + e } else s
      (s.setFramer f { s.framer f with parA := some e }).rxDeg f 0 e
    else s
  (List.range n).foldl (fun s k =>
    if (s.auMode f k == 1 || s.auMode f k == 2) && y.compared 1 now [0, 2, 6, 24 + k] then
      s.addTo (rxA f (0x300 + 4 * k)) (popCount 8 (Tab.get y.b3 0 k ^^^ s.slotByte f t (12 * 2048 + 16 * k + 1)).toNat)
    else s) s

/-- OTN checks of a frame (R62 to R64). -/
def State.otnParity (s : State) (f : Nat) (t : Tab Byte) (now : Nat) : State :=
  let y := s.framer f
  let s := s.setFramer f { y with parA := none, parB := none }
  let s := if y.compared 2 now [0, 2] then
      let e := y.bipErrs 2 (s.slotByte f t 0x0008)
      let s := (s.parAdd (rxA f 0x280) (rxA f 0x288) e true).addTo (rxA f 0x290) (beiValue (s.slotByte f t 0x0009))
      let s := if s.reverseTakes f then s.setTx f { s.tx f with accSm := (s.tx f).accSm + e } else s
      (s.setFramer f { s.framer f with parA := some e }).rxDeg f 0 (e != 0).toNat
    else s
  if y.compared 2 now [0, 2, 3, 15] then
    let e := y.bipErrs 2 (s.slotByte f t 0x100A)
    let s := (s.parAdd (rxA f 0x284) (rxA f 0x28C) e true).addTo (rxA f 0x294) (beiValue (s.slotByte f t 0x100B))
    let s := if s.reverseTakes f then s.setTx f { s.tx f with accPm := (s.tx f).accPm + e } else s
    (s.setFramer f { s.framer f with parB := some e }).rxDeg f 1 (e != 0).toNat
  else s

/-- The line CRC of an SDI line: one of its streams is wrong (R62). -/
def State.sdiParity (s : State) (f : Nat) (x : FrameIn) (now : Nat) : State :=
  if (s.framer f).compared 0 now [0, 2] then
    let e := (x.crcs.any (fun c => !crc18Ok c)).toNat
    (s.parAdd (rxA f 0x280) (rxA f 0x288) e false).rxDeg f 0 e
  else s

def State.rxParity (s : State) (f : Nat) (x : FrameIn) (t : Tab Byte) (now : Nat) : State :=
  match famOf (s.rxFmt f) with
  | 1 => s.sdhParity f t now
  | 2 => s.otnParity f t now
  | _ => s.sdiParity f x now

/-- The parities of this frame, kept for the frames that carry them (R62). -/
def State.keepParity (s : State) (f : Nat) (x : FrameIn) (t : Tab Byte) : State :=
  let y := s.framer f
  let fmt := s.rxFmt f
  let off := s.descrambleOff f
  match famOf fmt with
  | 1 => s.setFramer f { y with
      bips := [b1Parity fmt t off], b2 := b2Tab fmt off t,
      b3 := x.vc.foldl (fun t e => Tab.set t 0 e.1.val e.2) [] }
  | 2 => s.setFramer f { y with bips := opuParity fmt off t :: y.bips.take 1 }
  | _ => s

/-- SD and SF follow their detectors (R70). -/
def State.rxShowDeg (s : State) (f : Nat) : State :=
  let on := fun i => (Tab.get (s.framer f).deg Deg.init i).on
  (((s.setRaw f 11 (on 0)).setRaw f 12 (on 1)).setRaw f 13 (on 2)).setRaw f 14 (on 3)

/-! ### Captures, extraction items, stamps (R54 to R59, R177) -/

/-- The capture of a slot: a slot that is not listed held what an unlisted place of its frame holds (R56). -/
def State.captured (s : State) (f slot : Nat) : Byte :=
  Tab.get (s.framer f).captures (unlisted (s.rxFmt f) (s.framer f).capOff (slotPlace slot)) slot

/-- The valid slots of a frame, by slot. -/
def State.slotsOf (s : State) (f : Nat) (t : Tab Byte) : Tab Byte :=
  ((t.filter (fun e => decide (e.1 % 32768 < 2048))).map (fun e => (e.1 / 32768 * 2048 + e.1 % 32768, e.2))).filter (fun e =>
    s.rxSlotOk f e.1 &&
      e.2 != unlisted (s.rxFmt f) (s.descrambleOff f) (slotPlace e.1))

/-- The slots of a frame as the captures, with the run of each byte; an SDI line changes them only with a payload ID
(R56, R57). -/
def State.rxCapture (s : State) (f : Nat) (x : FrameIn) (t : Tab Byte) (first : Bool) : State :=
  let y := s.framer f
  let new := match famOf (s.rxFmt f) with
    | 3 =>
      match x.payloadId with
      | none => y.captures
      | some v => (beBytes v.toNat).zipIdx.foldl (fun t e => Tab.set t 0 e.2 e.1) y.captures
    | _ => s.slotsOf f t
  let s' := s.setFramer f { y with captures := new, capOff := s.descrambleOff f }
  let n := if first then 0 else y.runFrames
  let changed := if first then [] else
    changesOf y.changed n ((y.captures ++ new).map (·.1)) (s.captured f) (s'.captured f)
  s'.setFramer f { s'.framer f with runFrames := n + 1, changed := changed }

/-- An entry holds an invalid slot: reported once (R55). -/
def State.rxBadSlot (s : State) (f j : Nat) : State :=
  let x := s.framer f
  if x.oh.reported.contains j then s
  else
    let s := s.setFramer f { x with oh := { x.oh with reported := x.oh.reported ++ [j] } }
    (s.event (rxA f 0x12C) 12).raise (rxSrc f) 0x0B false (rxA f (0x400 + 4 * j))

/-- The OH_FRAME item of a frame (R55, R57 to R59). -/
def State.rxItems (s : State) (f tag : Nat) (first : Bool) (stamp : Nat) : State :=
  let slot := fun j => s.fld (rxA f (0x400 + 4 * j)) 15 0
  let bad := (List.range 32).filter (fun j => !s.rxSlotOk f (slot j))
  let s := bad.foldl (fun s j => s.rxBadSlot f j) s
  let x := s.framer f
  let es := ((List.range 32).filter (fun j => !bad.contains j)).map (fun j =>
    { entry := j, mode := s.fld (rxA f (0x400 + 4 * j)) 17 16, byte := s.captured f (slot j),
      run := x.runFrames - Tab.get x.changed 0 (slot j) : Extract })
  let d := x.oh.due (s.fld (rxA f 0x480) 7 4) first es
  if d.isEmpty then s
  else
    let p := s.rxPublish f 1 (if s.bit (rxA f 0x480) 0 then some stamp else none)
      (BitVec.ofNat 16 tag :: dueWords d)
    p.2.setFramer f { p.2.framer f with oh := x.oh.sent p.1 d }

/-- The SDI_ID item: a new payload ID that has held for 3 frames (R59). -/
def State.rxPayloadId (s : State) (f : Nat) (x : FrameIn) (first : Bool) : State :=
  let y := s.framer f
  let run := if first then 0 else y.idRun
  match x.payloadId with
  | none => s.setFramer f { y with idRun := run }
  | some v =>
    let run := if run ≠ 0 ∧ y.idCand = v then min 3 (run + 1) else 1
    let s := s.setFramer f { y with idRun := run, idCand := v }
    if run = 3 ∧ y.payloadId ≠ some v then
      let p := s.rxPublish f 5 none [BitVec.ofNat 16 (v.toNat / 65536), BitVec.ofNat 16 v.toNat]
      if p.1 then p.2.setFramer f { p.2.framer f with payloadId := some v } else p.2
    else s

/-- The lane on whose ball the edge of a frame lies: of an OTU4 the physical lane that carries logical lane 0 (R177). -/
def State.edgeLane (s : State) (f : Nat) : Nat :=
  if s.rxFmt f = 6 then ((groupHunters (leadOf f)).find? (fun e => (s.hunter e.1 e.2).lane == 0)).elim f (·.1) else f

/-- How long the deskew of an OTU4 holds logical lane 0 (R178). -/
def State.deskewPs (s : State) (f : Nat) : Nat :=
  let a := (s.framer f).skewArr
  a.foldl max 0 - a.headD 0

/-- The stamp of the edge of a frame that framer `f` delivers, on a dial (R177, R178). -/
def State.edgeStamp (s : State) (dial f bitPs : Nat) : Nat :=
  s.rxStampOn dial (s.edgeLane f) bitPs (if s.rxFmt f = 6 then s.deskewPs f else 0)

def State.frameStamp (s : State) (f bitPs : Nat) : Nat :=
  s.edgeStamp (s.fld (rxA (s.edgeLane f) 0x700) 3 0) f bitPs

/-- The time-transfer channel of an LRX sees a frame: what a message that it belongs to must be free of, and with the
frame of byte 0 its arrival (R187, R188). -/
def State.ttcSees (s : State) (f bitPs mfas : Nat) (fly : Bool) : State :=
  if famOf (s.rxFmt f) = 2 ∧ f < 192 then
    let c := Tab.get s.ttcs Ttc.init f
    let bad := fly || anyBit (s.nat (rxA f 0x208)) [2, 3]
    let c := if mfas % 16 = 0 ∧ !fly then
        { c with rxMfas0 := s.edgeStamp (s.polFld (ttcA f 0) 7 4) f bitPs, rxSteps := s.ttcSteps f, rxBad := bad }
      else { c with rxBad := c.rxBad || bad }
    s.setTtcs (Tab.set s.ttcs Ttc.init f c)
  else s

/-- The stamp of the frame edge, where the format has one in this frame (R177). -/
def State.rxEdge (s : State) (f mfas : Nat) (x : FrameIn) : State :=
  let edge := famOf (s.rxFmt f) != 3 || ((s.framer f).mf.inMf && x.lineNo == 1)
  let s := if edge then s.putStamp (rxA (s.edgeLane f) 0) (s.frameStamp f x.bitPs) else s
  s.ttcSees f x.bitPs mfas false

/-! ### The frame (R37, R39, R71) -/

/-- The reassembled OTU4 is in frame at its lead, and any other framer has its alignment, with no flywheel frame of it
still to complete (R37, R38, R48). -/
def State.rxDelivers (s : State) (f : Nat) : Bool :=
  let h := s.hunter f 0
  s.rxRuns f && s.rxFmt f != 0 &&
    (if s.rxFmt f = 6 then decide (f % 4 = 0) && !s.rawBit f 4 && !(s.hunter f 5).oof
     else h.state == .inFrame && !h.flyDue)

/-- The framer delimits flywheel frames (R35, R38, R39); LOS ends them (R71). -/
def State.rxFlies (s : State) (f : Nat) : Bool :=
  let h := s.hunter f (lofKey (s.rxFmt f))
  s.rxRuns f && s.rxFmt f != 0 && h.fly.isSome && !s.rawBit f 0 && (h.oof || h.flyDue)

/-- The framer delivers frame edges now (R71). -/
def State.rxEdges (s : State) (f : Nat) : Bool := s.rxDelivers f || s.rxFlies f

/-- A frame edge takes the program defects as written (R71). -/
def State.pdefEdge (s : State) (f : Nat) : State :=
  s.setFramer f { s.framer f with pdefEff := BitVec.ofNat 8 (s.fld (rxA f 0x238) 7 0) }

/-- A frame delivered with OOF: no parity, overhead or items; the multiframe machine only advances
(R38, R39, R44, R58). -/
def State.flyFrame (s : State) (f : Nat) : State :=
  let p := lofKey (s.rxFmt f)
  let s := s.setHunter f p { s.hunter f p with flyDue := false }
  let s := ((((s.routeEdge (rowOfCh f)).pdefEdge f).mfCoast f).tallyOof f).ttcSees f 0 0 true
  s.setFramer f { s.framer f with hist := [], mark := (true, false), parA := none, parB := none }

/-- A frame delivered IN_FRAME.  TAG carries the count of the frames before it, so the first carries 0 (DESIGN CHOICE,
assumption 82). -/
def State.goodFrame (s : State) (f : Nat) (x : FrameIn) : State :=
  let s := ((s.routeEdge (rowOfCh f)).pdefEdge f).tallyFrame f 2
  let now := s.maskWord f x
  let t := s.frameTab f x
  let mfas := (s.slotByte f t 6).toNat
  let first := (s.framer f).firstIn
  let s := ((s.fecFrame f x).mfFrame f mfas x).rxDetect f x t
  let s := (((s.rxParity f x t now).keepParity f x t).rxShowDeg f).rxCapture f x t first
  let y := s.framer f
  let tag := (if famOf (s.rxFmt f) = 2 then mfas * 256 else 0) + y.frameCount
  let s := (s.rxItems f tag first (s.frameStamp f x.bitPs)).rxPayloadId f x first
  let y := s.framer f
  (s.setFramer f { y with firstIn := false, frameCount := (y.frameCount + 1) % 256, hist := now :: y.hist.take 1,
                          mark := (false, false), parAt := s.now }).rxEdge f mfas x

/-- 64 bytes of a logical lane of OTL4.4 in ps: 64 × 8 × 20 bits of an OTU4 of 255/227 × 99.5328 Gb/s (R48). -/
def skewLimitPs : Nat := 91583

/-- MAP measures the arrivals of the logical lanes: OTL_SKEW in ns (R48). -/
def State.measureSkew (s : State) (lead : Nat) (arr : List Nat) : State :=
  let d := arr.foldl max 0 - arr.foldl min (arr.headD 0)
  (s.setFld (rxA lead 0x194) 15 0 (min 65535 (d / 1000))).setFramer lead { s.framer lead with skewArr := arr }

def skewOk (arr : List Nat) : Bool := decide (arr.foldl max 0 ≤ arr.foldl min (arr.headD 0) + 2000000)

/-- No lane has moved by more than 64 bytes against lane 0 since the last deskew (R48; assumption 81). -/
def skewHeld (ref arr : List Nat) : Bool :=
  (ref.zip arr).all (fun e =>
    decide (((e.2 : Int) - arr.headD 0 - (e.1 - ref.headD 0)).natAbs ≤ skewLimitPs))

/-- A frame of a reassembled OTU4: new arrivals that the deskew cannot hold declare LOL, and the frame is flagged OOF. -/
def State.rxFrame6 (s : State) (f : Nat) (x : FrameIn) : State :=
  let s := if x.arr.isEmpty then s else s.measureSkew f x.arr
  if x.arr.isEmpty || (skewOk x.arr && skewHeld (s.framer f).skewRef x.arr) then
    s.withDefects f (fun s => s.goodFrame f x)
  else (s.declareLol f false).withDefects f (fun s => s.flyFrame f)

/-- An EAV-qualified TRS, its pattern ending at bit `pos`: the spacing from the one before (R51); `trsSeen` is one more
than its position. -/
def State.trsSeen (s : State) (f pos : Nat) : State :=
  let last := (s.framer f).trsSeen
  if pos < last then s
  else
    let s := if last = 0 ∨ last + 4194304 ≤ pos + 1 then s.setBit (rxA f 0x1B4) 31 false
      else (s.setFld (rxA f 0x1B4) 21 0 (pos + 1 - last)).setBit (rxA f 0x1B4) 31 true
    s.setFramer f { s.framer f with trsSeen := pos + 1 }

/-- DELIVERED_FRAME: the pattern at the expected position, then the frame if it starts after the declaration; the frame
whose pattern loses the alignment is flagged OOF (R36 to R38, R48). -/
def State.rxFrame (s : State) (f : Nat) (x : FrameIn) : State :=
  if !s.rxDelivers f then s
  else
    (if s.rxFmt f = 6 then s.rxFrame6 f x
     else s.withDefects f (fun s =>
       let h := s.hunter f 0
       let ok := s.patternAt f 0 x.window
       let s := if ok && famOf (s.rxFmt f) == 3 && xyzValid (s.streams f) x.xyz then s.trsSeen f h.next else s
       let s := s.patternSeen f 0 ok
       if (s.hunter f 0).state != .inFrame then s.flyFrame f
       else if h.next < h.firstAt then s else s.goodFrame f x)).showFrame f

end Sys2Proof.Machine
end

