-- ==== Sys2Proof/Machine/MapOps.lean ====
section
/-! DEFINITION. MAP and Trellis: staged registers, sizes, the checks of a commit, connections
(R83 to R88, R92 to R100, R110, R114). -/

namespace Sys2Proof.Machine

/-! ### Staged registers (R99, R110) -/

/-- The row whose staged register lies at `a`. -/
def stagedRow (a : Nat) : Option Nat :=
  if 0x600000 ≤ a ∧ a < 0x6C0000 then
    let o := a % 0x10000
    let yes := (decide (0x400 ≤ o ∧ o < 0xC00) && o % 0x40 == 0) ||
      (decide (0x1000 ≤ o ∧ o < 0x2000) && decide (o % 0x80 < 80)) ||
      (decide (0x2000 ≤ o ∧ o < 0x3400) && decide (o % 0x40 ≤ 8))
    if yes then some ((a - 0x600000) / 0x10000) else none
  else if 0x800200 ≤ a ∧ a < 0x800230 then some ((a - 0x800200) / 4)
  else if 0x801000 ≤ a ∧ a < 0x802800 ∧ a % 0x40 ≤ 4 then some ((a - 0x801000) / 0x40 / 8)
  else if 0x803000 ≤ a ∧ a < 0x809000 ∧ a % 0x40 = 0 then some ((a - 0x803000) / 0x40 / 32)
  else none

/-- A staged register of row `r` differs from its active value (R99). -/
def State.rowPending (s : State) (r : Nat) : Bool :=
  (s.regs.any (fun e => stagedRow e.1 == some r && e.2 != s.actv e.1)) ||
    s.active.any (fun e => stagedRow e.1 == some r && e.2 != s.rd e.1)

def State.showPending (s : State) (r : Nat) : State := s.setBit (mapA r 0x104) 0 (s.rowPending r)

def inRows (rows : Nat) (a : Nat) : Bool := match stagedRow a with | some r => rows.testBit r | none => false

/-- The staged registers of the named rows become active (R96 step 3). -/
def State.takeStaged (s : State) (rows : Nat) : State :=
  let kept := s.active.filter (fun e => !inRows rows e.1)
  s.setActive (s.regs.foldl (fun t e => if inRows rows e.1 then Tab.set t (regReset e.1) e.1 e.2 else t) kept)

/-! ### Sizes (R83, R114) -/

/-- CH_STATUS.SIZE of the channels of row `r` (R83). -/
def State.showSizes (s : State) (r : Nat) : State :=
  (List.range 32).foldl (fun s j => s.setFld (mapA r (0x404 + 0x40 * j)) 6 0 (s.sigSize r (80 + j))) s

/-! ### Clients, groups, carriers (R86, R88, R92, R93, R100) -/

/-- Smallest ODUflex, ODU1-Xv and ODU2-Xv for an SDI format (R88). -/
def sdiMin (fmt : Nat) : Nat × Nat × Nat :=
  match fmt with
  | 8 => (2, 1, 1)
  | 9 => (3, 2, 1)
  | 10 => (5, 3, 1)
  | _ => (10, 5, 2)

/-- The fields of a client tributary form a row of R86, large enough under R88. -/
def clientFits (mode type method slots x fmt : Nat) : Bool :=
  if mode = 2 then
    match famOf fmt with
    | 1 => decide (type + 1 = fmt) && (method == 1 || method == 2)
    | 3 => type == 3 && method == 0 && decide ((sdiMin fmt).1 ≤ slots)
    | _ => false
  else
    match famOf fmt with
    | 1 => fmt == 2 && type == 0 && method == 1 && x == 4
    | 3 => decide (type ≤ 1) && method == 0 && decide ((if type = 0 then (sdiMin fmt).2.1 else (sdiMin fmt).2.2) ≤ x)
    | _ => false

/-- Client tributary `t` fits a format of its channel (R86). -/
def State.tFits (s : State) (r t fmt : Nat) : Bool :=
  clientFits (s.tMode r t) (s.tType r t) (s.tMethod r t) (s.actFld (tmA r t) 14 8) (s.tX r t) fmt

/-- The members of the group that tributary `h` heads, in order (R100). -/
def State.members (s : State) (r h : Nat) : List Nat :=
  (List.range 80).filter (fun t => s.tMode r t == 4 && s.tHead r t == h)

/-- A lower-order type allowed in an ODU2 or ODU4 carrier; a format that is no carrier's is found with the
carrier (R92, R97). -/
def loFits (fmt type : Nat) : Bool := fmt != 4 || type == 0

/-- The MAP_INVALID checks of tributary `t` (R97). -/
def State.tribValid (s : State) (r t : Nat) : Bool :=
  let mode := s.tMode r t
  let type := s.tType r t
  let f := chanOf r (s.tChan r t)
  let flexOk := type != 3 || decide (1 ≤ s.tSize r t ∧ s.tSize r t ≤ 80)
  let clientOk := (!s.tIng r t || s.tFits r t (s.rxFmt f)) && (!s.tEgr r t || s.tFits r t (s.txFmt f)) &&
    [1, 2, 8, 9, 10, 11].any (s.tFits r t)
  (mode == 4 || s.tMethod r t != 3) && match mode with
  | 0 => true
  | 1 =>
    flexOk && s.hoMode r (s.tChan r t) && (!s.tIng r t || loFits (s.rxFmt f) type) &&
      (!s.tEgr r t || loFits (s.txFmt f) type)
  | 2 => flexOk && clientOk
  | 3 =>
    decide (type ≤ 1) && clientOk && decide (1 ≤ s.tX r t ∧ s.tX r t ≤ 16) && s.tSq r t == 0 &&
      (s.members r t).length + 1 == s.tX r t
  | 4 =>
    let h := s.tHead r t
    decide (h < 80) && s.tMode r h == 3 && type == s.tType r h && s.tIng r t == s.tIng r h &&
      s.tEgr r t == s.tEgr r h && decide (1 ≤ s.tSq r t ∧ s.tSq r t < s.tX r h) &&
      !(List.range t).any (fun u => s.tMode r u == 4 && s.tHead r u == h && s.tSq r u == s.tSq r t)
  | _ => false

/-- Owner of slot `k` of carrier `j` (R93). -/
def State.tsOwner (s : State) (r j k : Nat) : Nat :=
  s.actFld (mapA r (0x1000 + 0x80 * j + k / 4 * 4)) (8 * (k % 4) + 6) (8 * (k % 4))

/-- The MAP_INVALID checks of carrier `j` (R92, R93).  A carrier whose two FORMATs differ in kind is judged as an ODU4
for both directions, and one whose tributaries have neither half enabled as an ODU2 (DESIGN CHOICE, assumption 82). -/
def State.carrierValid (s : State) (r j : Nat) : Bool :=
  let f := chanOf r j
  let mine := (List.range 80).filter (fun t => s.tMode r t == 1 && s.tChan r t == j)
  let fits := fun fmt => fmt == 4 || (fmt == 6 && f % 4 == 0)
  let ing := mine.any (s.tIng r)
  let egr := mine.any (s.tEgr r)
  let four := (ing && s.rxFmt f == 6) || (egr && s.txFmt f == 6)
  let n := if four then 80 else 8
  let owners := (List.range n).map (s.tsOwner r j)
  (!ing || fits (s.rxFmt f)) && (!egr || fits (s.txFmt f)) &&
    owners.all (fun o => o == 0x7F || mine.contains o) &&
    mine.all (fun t =>
      let tpn := s.actFld (tmA r t) 30 24
      (owners.filter (· == t)).length == s.tSize r t && decide (1 ≤ tpn ∧ tpn ≤ (if four then 80 else 4)) &&
        !mine.any (fun u => decide (u < t) && s.actFld (tmA r u) 30 24 == tpn))

/-- The first fault of row `r`, as the low byte of INDEX (R97). -/
def State.mapFault (s : State) (r : Nat) : Option Nat :=
  match (List.range 80).find? (fun t => !s.tribValid r t) with
  | some t => some t
  | none =>
    match (List.range 32).find? (fun j => s.hoMode r j && !s.carrierValid r j) with
    | some j => some (0x80 + j)
    | none => none

/-! ### Tables of Trellis (R95, R97) -/

/-- An enabled IN entry. -/
structure InE where
  port : Nat
  row : Nat
  sig : Nat
  slot : Nat
deriving DecidableEq, Repr

/-- An enabled OUT entry. -/
structure OutE where
  port : Nat
  input : Nat
  row : Nat
  sink : Nat
  slot : Nat
deriving DecidableEq, Repr

def trlPorts : Nat := 4608

/-- The enabled entries of a table at `base`, by ascending port, with their words. -/
def State.trlTable (s : State) (base : Nat) : List (Nat × Nat) :=
  (s.regs.filter (fun e => decide (base ≤ e.1 ∧ e.1 < base + 4 * trlPorts) && e.2.msb)).map (fun e =>
    ((e.1 - base) / 4, e.2.toNat))

def State.inTable (s : State) (base : Nat) : List InE :=
  (s.trlTable base).map (fun e => { port := e.1, row := bitsOf e.2 3 0, sig := bitsOf e.2 14 8, slot := bitsOf e.2 22 16 })

def State.outTable (s : State) (base : Nat) : List OutE :=
  (s.trlTable base).map (fun e =>
    { port := e.1, input := bitsOf e.2 12 0, row := bitsOf e.2 16 13, sink := bitsOf e.2 23 17, slot := bitsOf e.2 30 24 })

/-- INDEX of an OUT entry (R97). -/
def outIndex (q : Nat) : Nat := q + 0x8000

/-- BAD_ENTRY (R97). -/
def State.badEntry (s : State) (ins : List InE) (outs : List OutE) : Option Nat :=
  match ins.find? (fun e => decide (11 < e.row) || decide (s.sigSize e.row e.sig ≤ e.slot)) with
  | some e => some e.port
  | none =>
    (outs.find? (fun e => decide (11 < e.row) || decide (s.sinkSize e.row e.sink ≤ e.slot) ||
      !ins.any (fun i => i.port == e.input))).map (fun e => outIndex e.port)

/-- DOUBLE_SOURCE (R97). -/
def doubleSource (ins : List InE) : Option Nat :=
  (ins.find? (fun e => ins.any (fun i => decide (i.port < e.port) && i.row == e.row && i.sig == e.sig &&
    i.slot == e.slot))).map (·.port)

/-- SINK_CONFLICT (R97). -/
def sinkConflict (outs : List OutE) : Option Nat :=
  (outs.find? (fun e => outs.any (fun o => decide (o.port < e.port) && o.row == e.row && o.sink == e.sink &&
    o.slot == e.slot))).map (fun e => outIndex e.port)

/-- Row and signal that an OUT entry takes. -/
def OutE.source (e : OutE) (ins : List InE) : Option (Nat × Nat) :=
  (ins.find? (fun i => i.port == e.input)).map (fun i => (i.row, i.sig))

/-- An OUT entry breaks R95: another slot, another size, another signal than the sink's lowest-numbered entry,
or a sink only partly fed, found at its lowest-numbered entry. -/
def State.orderBad (s : State) (ins : List InE) (outs : List OutE) (e : OutE) : Bool :=
  let mates := outs.filter (fun o => o.row == e.row && o.sink == e.sink)
  let n := s.sinkSize e.row e.sink
  let src := e.source ins
  let first := mates.headD e
  (first.port == e.port && mates.length != n) ||
    !ins.any (fun i => i.port == e.input && i.slot == e.slot) ||
    (match src with | some (r, g) => s.sigSize r g != n | none => true) ||
    first.source ins != src

def State.orderFault (s : State) (ins : List InE) (outs : List OutE) : Option Nat :=
  (outs.find? (s.orderBad ins outs)).map (fun e => outIndex e.port)

/-- FANOUT (R97). -/
def fanoutFault (ins : List InE) (outs : List OutE) : Option Nat :=
  (ins.find? (fun i => decide (4 < (outs.filter (fun o => o.input == i.port)).length))).map (·.port)

def rowLimit (count : Nat → Nat) : Option Nat := (List.range 12).find? (fun r => decide (480 < count r))

/-- The far end of a group member's connection is a whole OTU1 or OTU2 channel or a mode 1 tributary of the
group's type (R100). -/
def State.farFits (s : State) (type row n : Nat) (isSink : Bool) : Bool :=
  if n < 80 then s.tMode row n == 1 && s.tType row n == type
  else if n < 112 then
    let f := chanOf row (n - 80)
    (if isSink then s.txFmt f else s.rxFmt f) == type + 3
  else false

/-- The connections: source row and signal, sink row and sink. -/
def connections (ins : List InE) (outs : List OutE) : List ((Nat × Nat) × (Nat × Nat)) :=
  outs.filterMap (fun e => (e.source ins).map (fun src => (src, (e.row, e.sink))))

/-- GROUP_ROUTE (R97, R100). -/
def State.routeFault (s : State) (ins : List InE) (outs : List OutE) : Option Nat :=
  let cs := connections ins outs
  let tribs := (List.range 12).flatMap (fun r => (List.range 80).map (fun t => (r, t)))
  (tribs.find? (fun e =>
    (s.tMode e.1 e.2 == 3 || s.tMode e.1 e.2 == 4) &&
      cs.any (fun c => (c.1 == e && !s.farFits (s.tType e.1 e.2) c.2.1 c.2.2 true) ||
        (c.2 == e && !s.farFits (s.tType e.1 e.2) c.1.1 c.1.2 false)))).map (fun e => e.1 * 256 + e.2)

/-- The checks of a commit in their order, on the state with the staged rows taken: STATUS and INDEX of the first
that fails (R97). -/
def State.commitFault (s : State) : Option (Nat × Nat) :=
  let ins := s.inTable (trlA 0x10000)
  let outs := s.outTable (trlA 0x20000)
  let mapF := (List.range 12).findSome? (fun r => (s.mapFault r).map (fun i => r * 256 + i))
  [(3, mapF), (4, s.badEntry ins outs), (5, doubleSource ins), (6, sinkConflict outs), (7, s.orderFault ins outs),
    (8, fanoutFault ins outs), (9, rowLimit (fun r => (ins.filter (fun e => e.row == r)).length)),
    (10, rowLimit (fun r => (outs.filter (fun e => e.row == r)).length)), (11, s.routeFault ins outs)].findSome?
      (fun e => e.2.map (fun i => (e.1, i)))

/-! ### Connections in use (R98) -/

/-- Frames of tributary `t`'s ODU arrive: its source delivers frame edges, or is an ODU that the part generates
(R71, R98). -/
def State.tribFed (s : State) (r t : Nat) : Bool :=
  match s.tribPath r t with
  | some (f, _) => s.rxEdges f && (s.tMode r t == 1 || s.hold r t != 3)
  | none =>
    match s.sourceOf r t with
    | some (q, sig) => s.hold r t != 3 && decide (2 ≤ s.tMode q sig) && s.tIng q sig
    | none => false

/-- The tributary has frame edges: frames arrive, and it is not in LOS (R71). -/
def State.tribEdges (s : State) (r t : Nat) : Bool := s.tribFed r t && !s.bit (tribA r t 0) 0

/-- The frames are whole and their carrier is IN_FRAME (R56, R98). -/
def State.tribWhole (s : State) (r t : Nat) : Bool :=
  match s.tribPath r t with
  | some (f, _) => s.rxDelivers f
  | none => true

/-- A frame of signal `sig` of row `r`: sinks that wait for whole frames of it take one, or start again
(R98). -/
def State.sinksTake (s : State) (r sig : Nat) (whole : Bool) : State :=
  s.sinkHold.foldl (fun s e =>
    if e.2 < 3 ∧ s.sourceOf (e.1 / 128) (e.1 % 128) = some (r, sig) then
      s.setHold (e.1 / 128) (e.1 % 128) (if whole then e.2 - 1 else 2)
    else s) s

/-- Signal `sig` of row `r` has lost its committed size: its sinks carry nothing of it until a later commit
changes the connection (R98). -/
def State.sinksLose (s : State) (r sig : Nat) : State :=
  (s.outTable (trlA 0x50000)).foldl (fun s e =>
    if e.slot = 0 ∧ s.sourceOf e.row e.sink = some (r, sig) then s.setHold e.row e.sink 3 else s) s

/-! ### Formats that no longer fit (R86, R113) -/

/-- CONFIG_INVALID of a client tributary whose channel's FORMAT has come not to fit, once (R86). -/
def State.fitCheck (s : State) (r t : Nat) : State :=
  let m := s.tMode r t
  if m ≠ 2 ∧ m ≠ 3 then s
  else
    let f := chanOf r (s.tChan r t)
    let ok := (!s.tIng r t || s.tFits r t (s.rxFmt f)) && (!s.tEgr r t || s.tFits r t (s.txFmt f))
    let x := s.trib r t
    if ok = !x.fitReported then s
    else
      let s := s.setTrib r t { x with fitReported := !ok }
      if ok then s else (s.event (mapA r 0x108) 0).raise (mapSrc r) 0x0B false (tmA r t)

/-- What the FORMAT of a framer of channel `f`, receive or transmit, brings to MAP and Trellis. -/
def State.formatFollow (s : State) (f : Nat) (rx : Bool) : State :=
  let r := rowOfCh f
  let s := (List.range 80).foldl (fun s t => if s.tChan r t = idxOf f then s.fitCheck r t else s) s
  if rx then s.showSizes r else s

end Sys2Proof.Machine
end

