-- ==== Sys2Proof/Machine/CelOps.lean ====
section
/-! DEFINITION. The Cellar: claims and grants of plots, merge pairs, bank word errors
(R109 to R121, R126 to R128). -/

namespace Sys2Proof.Machine

/-! ### Pairs (R113, R115, R119) -/

/-- The frame that a copy brought last: its errored bits, where it was delivered IN_FRAME and whole and its parity was
compared; when it came; and its fingerprint.  BIP_SEL chooses PM or SM; a copy that comes from a mode 1 tributary has
PM alone (R116, R119). -/
def State.copyFrame (s : State) (i : Nat) (b : Bool) : Option Nat × Nat × Option Word :=
  let otn := famOf (s.rxFmt (s.mChanA i)) == 2
  match s.copyChan i b with
  | some f =>
    let x := s.framer f
    let par := if otn && s.bit (pairA i 8) 16 then x.parB else x.parA
    (if s.rxDelivers f && x.mark == (false, false) then par else none, x.parAt, x.fp)
  | none =>
    match s.sourceOf (i / 8) (mergeSink i) with
    | some (q, sig) =>
      let x := s.trib q sig
      (if s.tribFed q sig && s.tribWhole q sig then x.parB else none, x.parAt, x.fp)
    | none => (none, 0, none)

/-- The frame that a copy brought last is valid (R119). -/
def State.frameValid (s : State) (i : Nat) (b : Bool) : Bool :=
  (match (s.copyFrame i b).1 with | some e => decide (e ≤ s.fld (pairA i 8) 15 0) | none => false) && s.copyClear i b

/-- An event of a pair (R127). -/
def State.mEvent (s : State) (i b : Nat) : State := (s.event (pairA i 0x30) b).event (celA 0x104) 2

/-- NO_MATCH ends (R117, R128). -/
def State.clearNoMatch (s : State) (i : Nat) : State :=
  if s.bit (pairA i 0xC) 4 then (s.setBit (pairA i 0xC) 4 false).raise celSrc 0x3B true i else s

/-- The pair aligns (R117, R118); `off` is positive when copy B is later. -/
def State.mAlign (s : State) (i : Nat) (off : Int) : State :=
  let a := pairA i 0xC
  let s := ((s.setBit a 0 true).setBit a 2 (decide (0 < off))).setFld a 14 12 0
  let s := (((s.mEvent i 0).raise celSrc 0x38 false i).clearNoMatch i)
  let s := s.setPair i { s.pair i with validSince := none }
  let earlier := if s.mSel i then decide (off < 0) else decide (0 < off)
  if earlier then s.inc (pairA i 0x2C) else s

/-- The pair leaves alignment; a loss by tracking is counted (R117). -/
def State.mUnalign (s : State) (i : Nat) (counted : Bool) : State :=
  if s.mAligned i then
    let a := pairA i 0xC
    let s := ((s.setBit a 0 false).setBit a 2 false).setFld a 11 8 0
    let s := if counted then s.inc (pairA i 0x20) else s
    (s.mEvent i 1).raise celSrc 0x38 true i
  else s

/-- A pair starts as at enable: not aligned, SEL A, runs at 0 (R110, R120); a NO_MATCH that stood is reported cleared
(DESIGN CHOICE, assumption 82). -/
def State.mRestart (s : State) (i : Nat) : State :=
  let s := (s.mUnalign i false).clearNoMatch i
  let granted := s.bit (pairA i 0xC) 3
  let s := ((s.wrN (pairA i 0xC) 0).setBit (pairA i 0xC) 3 granted).wrN (pairA i 0x10) 0
  s.setPair i Pair.init

/-! ### Fingerprints (R112, R116, R117) -/

/-- The low `n` bits of `v` in the opposite order. -/
def reflect (n v : Nat) : Nat := (List.range n).foldl (fun a i => if v.testBit i then a + 2 ^ (n - 1 - i) else a) 0

/-- CRC-32C of `n` bytes of which those listed, by index, are not zero: every byte is carried past those after it by a
power of x. -/
def sparseCrc32c (n : Nat) (bs : List (Nat × Byte)) : Word :=
  let p := 0x11EDC6F41
  let past := fun v e => gfMul p 32 v (gfPow p 32 e 32 1) 32 0
  let m := bs.foldl (fun acc e => Nat.xor acc (past (reflect 8 e.2.toNat) (8 * (n - 1 - e.1) + 32)))
    (past 0xFFFFFFFF (8 * n))
  ~~~ BitVec.ofNat 32 (reflect 32 m)

/-- Number of bytes under the fingerprint of a frame, and the index of a place among them (R116).  Of an STM the
columns 1 to 9N of row 4 hold the AU pointers and are covered. -/
def fpBytes (fmt : Nat) : Nat :=
  if famOf fmt = 1 then 9 * (frameCols fmt - 9 * auN fmt) + 9 * auN fmt else 4 * 3810

def fpIndex (fmt place : Nat) : Option Nat :=
  let r := place / 32768
  let c := place % 32768
  if famOf fmt = 1 then
    let soh := 9 * auN fmt
    let w := frameCols fmt - soh
    if 9 ≤ r then none
    else if r = 3 then some (3 * w + c)
    else if c < soh then none
    else some (r * w + (if 3 < r then soh else 0) + (c - soh))
  else if r < 4 ∧ 14 ≤ c ∧ c < 3824 then some (r * 3810 + (c - 14)) else none

/-- The fingerprint of a frame after descrambling and FEC (R116). -/
def fingerprint (fmt : Nat) (t : Tab Byte) : Word :=
  sparseCrc32c (fpBytes fmt) (t.filterMap (fun e => (fpIndex fmt e.1).map (fun k => (k, e.2))))

/-- The fingerprint of an ODU that a tributary brings: its OPU overhead in columns 15 and 16, and its payload (R116). -/
def tribFp (t : Nat) (b : Tab Byte) (body : List (Nat × Nat × Byte)) : Word :=
  let oh := b.filter (fun e => decide (12 ≤ slotRow e.1) && slotCol e.1 / 16 == t && decide (14 ≤ slotCol e.1 % 16))
  sparseCrc32c (4 * 3810) (oh.map (fun e => ((slotRow e.1 - 12) * 3810 + (slotCol e.1 % 16 - 14), e.2)) ++
    body.map (fun e => (e.1 * 3810 + (e.2.1 - 14), e.2.2)))

/-- Tributary `t` of row `r` is the remote copy B of some enabled pair (R113). -/
def State.isRemote (s : State) (r t : Nat) : Bool :=
  s.enabledPairs.any (fun i => s.mRemote i && s.sourceOf (i / 8) (mergeSink i) == some (r, t))

/-- The row check unit that takes the fingerprints of a copy of pair `i` (R304). -/
def fpUnit (i : Nat) (copyB : Bool) : Nat := 8 + 2 * (i / 8) + copyB.toNat

/-- A row check unit takes the fingerprint of a frame of framer `f`, which is a copy of some enabled pair (R116). -/
def State.takeFp (s : State) (f : Nat) (x : FrameIn) : State :=
  if s.enabledPairs.any (fun i => !s.mSelector i && (s.mChanA i == f || s.copyChan i true == some f)) then
    s.setFramer f { s.framer f with fp := some (fingerprint (s.rxFmt f) (s.frameTab f x)) }
  else s

/-- Nanoseconds that `plots` plots hold of a signal of format `fmt` (R112). -/
def plotsNs (plots fmt : Nat) : Nat := plots * 524288 * 100000 / storedRate fmt

/-- Frames of a history that lie within its capacity of the arriving frame (R117). -/
def recent (h : List Fp) (now span : Nat) : List Fp := h.filter (fun o => decide (now ≤ o.at_ + span))

/-- The frame of a history nearest to a time, within half a frame of it. -/
def frameAt (h : List Fp) (t : Int) (frame : Nat) : Option Fp :=
  h.find? (fun o => decide (2 * ((o.at_ : Int) - t) < frame ∧ -(frame : Int) ≤ 2 * ((o.at_ : Int) - t)))

/-- Offset of a match, positive when copy B is later (R117). -/
def matchOffset (copyB : Bool) (own other : Nat) : Int := if copyB then (own : Int) - other else (other : Int) - own

/-- Acquisition with a match at `off` (R117). -/
def State.mAcquire (s : State) (i frame : Nat) (off : Int) : State :=
  let p := s.pair i
  let n := divNear off (max 1 frame)
  let run := if p.cand = n ∧ s.fld (pairA i 0xC) 11 8 ≠ 0 then s.fld (pairA i 0xC) 11 8 + 1 else 1
  let s := (s.setFld (pairA i 0xC) 11 8 (min 8 run)).setPair i { p with cand := n, off := off }
  let s := s.wrI (pairA i 0x10) off
  if run = 8 then s.mAlign i off else s

/-- Tracking against the frame that lies the aligned offset apart (R117). -/
def State.mTrack (s : State) (i : Nat) (copyB : Bool) (frame : Nat) (own : Fp) (h : List Fp) : State :=
  let p := s.pair i
  let t := (own.at_ : Int) + (if copyB then -(p.cand * frame) else p.cand * frame)
  match frameAt h t frame with
  | none => s
  | some o =>
    if !o.valid then s
    else if o.fp = own.fp then
      let off := matchOffset copyB own.at_ o.at_
      let s := ((s.setFld (pairA i 0xC) 14 12 0).setPair i { p with off := off }).wrI (pairA i 0x10) off
      s.setBit (pairA i 0xC) 2 (decide (0 < off))
    else
      let miss := s.fld (pairA i 0xC) 14 12 + 1
      let s := (s.setFld (pairA i 0xC) 14 12 miss).inc (pairA i 0x28)
      if miss = 4 then s.mUnalign i true else s

/-- A frame of a copy is looked up in the other's history, and kept in its own (R117). -/
def State.mLookup (s : State) (i : Nat) (copyB : Bool) (own : Fp) (frame : Nat) : State :=
  let span := plotsNs (Tab.get s.grants (0, 0) i).2 (s.rxFmt (s.mChanA i)) + frame
  let p := s.pair i
  let h := recent (if copyB then p.histA else p.histB) own.at_ span
  let kept := recent (if copyB then p.histB else p.histA) own.at_ span ++ [own]
  let s := s.setPair i (if copyB then { p with histB := kept } else { p with histA := kept })
  if !own.valid then s
  else
    let eqs := h.filter (fun o => o.fp == own.fp)
    let s := s.tallyPair i 6 1
    let s := if 2 ≤ eqs.length then (s.inc (pairA i 0x24)).tallyPair i 7 1 else s
    if s.mAligned i then s.mTrack i copyB frame own h
    else match eqs with
      | [o] => if o.valid then s.mAcquire i frame (matchOffset copyB own.at_ o.at_) else s
      | _ => s

/-! ### The decision (R120, R121) -/

/-- FORCE as it acts: 3 acts as 0 (R121). -/
def State.mForce (s : State) (i : Nat) : Nat := s.fld (pairA i 8) 25 24 % 3

/-- A switch of the selection. -/
def State.mSwitch (s : State) (i : Nat) (toB : Bool) : State :=
  let al := s.mAligned i
  let s := ((s.setBit (pairA i 0xC) 1 toB).inc (pairA i 0x14)).tallyPair i 8 1
  let s := if al then s else s.inc (pairA i 0x1C)
  (s.mEvent i 2).raiseLim 1 i celSrc 0x39 false (i + 256 * toB.toNat + 512 * al.toNat)

/-- Neither copy is valid: the output stays. -/
def State.mDoubleBad (s : State) (i : Nat) : State :=
  (((s.inc (pairA i 0x18)).tallyPair i 9 1).mEvent i 3).raiseLim 1 i celSrc 0x3A false i

/-- The validities of the frames judged with an output frame that arrived at `arrival` on the timing of the later copy:
while the pair is aligned the frames that lie the offset apart, and else the last frame of each copy, if it came within
one frame period (R119). -/
def State.judged (s : State) (i arrival : Nat) : Bool × Bool :=
  let p := s.pair i
  let frame := framePs (s.rxFmt (s.mChanA i)) / 1000
  if s.mAligned i then
    let at_ := fun (h : List Fp) (d : Int) => match frameAt h ((arrival : Int) - d) frame with
      | some o => o.valid
      | none => false
    (at_ p.histA (max 0 p.off), at_ p.histB (max 0 (-p.off)))
  else
    let last := fun b => s.frameValid i b && decide (s.now ≤ (s.copyFrame i b).2.1 + frame)
    (last false, last true)

/-- The decision for one output frame; `va` and `vb` are the validities of the frames judged.  A change of the selection
by FORCE is no switch: it raises no event and no report (DESIGN CHOICE, assumption 82). -/
def State.mDecide (s : State) (i : Nat) (va vb : Bool) : State :=
  let old := s.mSel i
  let s := (s.setBit (pairA i 0xC) 5 va).setBit (pairA i 0xC) 6 vb
  let p := s.pair i
  let since := if va && vb && !s.mAligned i && !s.mSelector i then some (p.validSince.getD s.now) else none
  let s := s.setPair i { p with staged := true, validSince := since }
  let s := match s.mForce i with
    | 1 => s.setBit (pairA i 0xC) 1 false
    | 2 => s.setBit (pairA i 0xC) 1 true
    | _ =>
      if (if old then vb else va) then s
      else if (if old then va else vb) then s.mSwitch i (!old)
      else s.mDoubleBad i
  if s.mSel i = old ∧ p.staged then s else s.allFollow

/-! ### Bank words (R126) -/

/-- The plot that a bank word lies in: plot p stands in bank p mod 64 at index p div 64, 1,024 words each (R13). -/
def bankPlot (w : BankWord) : Nat := w.addr.val / 1024 * 64 + w.bank.val

/-- RS(72,64) corrects up to four wrong bytes of a codeword (R13, R126). -/
def bankFixed (w : BankWord) : Bool := decide (1 ≤ w.wrong.val ∧ w.wrong.val ≤ 4)
def bankLost (w : BankWord) : Bool := decide (4 < w.wrong.val)

/-- A pass of a buffer of row `r` that holds plots `c.1` to `c.1 + c.2 − 1`; bank words of other plots are none of its.
A bank word carries one bus word (R13, R319). -/
def State.celRead (s : State) (r : Nat) (c : Nat × Nat) (x : CelIn) : State :=
  if c.2 = 0 then s
  else
    let bad := x.bad.filter (fun w => decide (c.1 ≤ bankPlot w ∧ bankPlot w < c.1 + c.2))
    let corr := (bad.filter bankFixed).length
    let lost := bad.filter bankLost
    let s := (s.tallyCel 2 (x.clean + bad.length)).tallyCel 3 x.written
    let s := (s.tallyBus r 9 (x.clean + bad.length)).tallyBus r 8 x.written
    let s := ((s.addTo (celA 0x108) corr).tallyCel 4 corr).tallyCel 5 lost.length
    lost.foldl (fun s w =>
      ((s.inc (celA 0x10C)).event (celA 0x104) 1).raiseLim 1 0 celSrc 0x3E false (bankPlot w)) s

/-! ### Claims and grants (R109 to R111) -/

/-- Deskew plots of tributary `t`: in modes 3 and 4 (R109). -/
def State.tPlots (s : State) (r t : Nat) : Nat :=
  if s.tMode r t = 3 ∨ s.tMode r t = 4 then s.actFld (tmA r t + 8) 6 0 else 0

def State.mergeClaim (s : State) (i : Nat) : Nat × Nat :=
  (s.actFld (pairA i 4) 10 0,
    if s.mEn i && !s.mSelector i && s.mOk i then s.actFld (pairA i 4) 24 16 else 0)

def State.deskewClaim (s : State) (r : Nat) : Nat × Nat :=
  (s.actFld (celA (0x200 + 4 * r)) 10 0, ((List.range 80).map (s.tPlots r)).sum)

/-- The transmit framer of slip buffer `b` = 32r + j. -/
def slipChan (b : Nat) : Nat := chanOf (b / 32) (b % 32)

def State.slipClaim (s : State) (b : Nat) : Nat × Nat :=
  (s.actFld (slipA b 0) 26 16,
    if s.actFld (slipA b 0) 0 0 = 1 then (match s.txFmt (slipChan b) with | 1 => 2 | 2 => 5 | _ => 0) else 0)

/-- All claims in the order of R110: key, first plot, count. -/
def State.claims (s : State) : List (Nat × Nat × Nat) :=
  (List.range 96).map (fun i => (i, s.mergeClaim i)) ++ (List.range 12).map (fun r => (96 + r, s.deskewClaim r)) ++
    (List.range 384).map (fun b => (108 + b, s.slipClaim b))

/-- Kind and index of a buffer in the detail of PLOT_CONFLICT (R128). -/
def claimDetail (key : Nat) : Nat :=
  if key < 96 then 1024 + key else if key < 108 then 2048 + (key - 96) else 3072 + (key - 108)

def plotsMeet (a b : Nat × Nat) : Bool := decide (a.1 < b.1 + b.2 ∧ b.1 < a.1 + a.2)

/-- One claim is tried: granted whole or not at all (R110 step 4). -/
def State.tryClaim (s : State) (c : Nat × Nat × Nat) : State :=
  if s.granted c.1 || c.2.2 == 0 then s
  else if c.2.1 + c.2.2 ≤ 2048 ∧ !s.grants.any (fun g => plotsMeet g.2 c.2) then
    s.setGrants (Tab.set s.grants (0, 0) c.1 c.2)
  else (s.event (celA 0x104) 0).raise celSrc 0x3C false (claimDetail c.1)

/-- GRANTED bits and the totals (R127). -/
def State.showGrants (s : State) : State :=
  let s := (List.range 96).foldl (fun s i => s.setBit (pairA i 0xC) 3 (s.granted i)) s
  let s := (List.range 12).foldl (fun s r =>
    (s.setFld (celA (0x240 + 4 * r)) 12 0 (s.deskewClaim r).2).setBit (celA (0x240 + 4 * r)) 31 (s.granted (96 + r))) s
  let s := (List.range 384).foldl (fun s b => s.setBit (slipA b 4) 0 (s.granted (108 + b))) s
  s.setFld (celA 0x100) 11 0 ((s.grants.map (fun g => g.2.2)).sum)

/-- The Cellar's part of step 3 of a commit (R110): changed claims are released, and then tried in order. -/
def State.grantPlots (s : State) : State :=
  let cs := s.claims
  let s := s.setGrants (s.grants.filter (fun g => cs.any (fun c => c == g)))
  (cs.foldl State.tryClaim s).showGrants

/-- Place and count of tributary `t`'s deskew buffer in its row's region (R111). -/
def State.deskewPlace (s : State) (r t : Nat) : Nat × Nat :=
  ((s.deskewClaim r).1 + ((List.range t).map (s.tPlots r)).sum, s.tPlots r t)

/-! ### A write of FORMAT (R86, R98, R113) -/

/-- Merge pairs whose FORMATs a write has made to break R113: the pair stops, is not aligned, selects A, and is
reported; `s` is the state after the write, `old` the one before. -/
def State.pairsFollow (s old : State) : State :=
  (s.enabledPairs.filter (fun i => old.mOk i && !s.mOk i)).foldl (fun s i =>
    ((s.mRestart i).raise celSrc 0x0B false (pairA i 0)).allFollow) s

/-- A write of FF_MODE.FORMAT with what follows from it in MAP. -/
def State.rxFormatWrite (s : State) (f fmt : Nat) : State :=
  let t := s.formatWrite f fmt
  let r := rowOfCh f
  let sig := 80 + idxOf f
  if t.rxFmt f = s.rxFmt f then t
  else
    let t := if s.sigSize r sig = t.sigSize r sig then t else t.sinksLose r sig
    ((t.formatFollow f true).pairsFollow s).formatSeen f

end Sys2Proof.Machine
end

