-- ==== Sys2Proof/Machine/MapFrames.lean ====
section
/-! DEFINITION. What MAP takes from a tributary frame: justification, overhead, parity, items, groups
(R54 to R71, R87 to R91, R101 to R104). -/

namespace Sys2Proof.Machine

/-! ### Justification (R87, R89, R91) -/

/-- Client bit rates of the SDI formats (R88). -/
def sdiRate (fmt : Nat) : Nat :=
  match fmt with
  | 8 => 1485000000
  | 9 => 2970000000
  | 10 => 5940000000
  | _ => 11880000000

/-- Rate of an ODU in bit/s, as numerator and denominator (R86, R87, R91). -/
def oduRate (type slots : Nat) : Nat × Nat :=
  match type with
  | 0 => (2488320000 * 239, 238)
  | 1 => (9953280000 * 239, 237)
  | 2 => (10312500000 * 239, 237)
  | _ => (slots * 1301709251, 1)

/-- The Cm window that hardware uses where both limits are 0 (R87). -/
def cmAuto (fmt type slots : Nat) : Nat × Nat :=
  let c := sdiRate fmt * 15296
  let (n, d) := oduRate type slots
  let n := max 1 n
  (c * 1000 * 9998 * d / (1001 * 10000 * n), (c * 10002 * d + 10000 * n - 1) / (10000 * n))

/-- Tributary `t` is justified by GMP (R86, R92). -/
def State.tGmp (s : State) (r t : Nat) : Bool :=
  match s.tMode r t with
  | 1 => s.rxFmt (chanOf r (s.tChan r t)) == 6
  | 4 => false
  | _ => s.tMethod r t == 0

/-- Tributary `t` is justified by AMP (R86, R92). -/
def State.tAmp (s : State) (r t : Nat) : Bool :=
  match s.tMode r t with
  | 1 => s.rxFmt (chanOf r (s.tChan r t)) != 6
  | 4 => false
  | _ => s.tMethod r t == 1

/-- Cm lies in its window (R87); a mode 1 tributary with both limits 0 has none. -/
def State.cmInWindow (s : State) (r t cm : Nat) : Bool :=
  let lo := s.fld (tmA r t + 0xC) 15 0
  let hi := s.fld (tmA r t + 0xC) 31 16
  if lo = 0 ∧ hi = 0 then
    if s.tMode r t = 1 then true
    else
      let w := cmAuto (s.txFmt (chanOf r (s.tChan r t))) (s.tType r t) (s.actFld (tmA r t) 14 8)
      decide (w.1 ≤ cm ∧ cm ≤ w.2)
  else decide (lo ≤ cm ∧ cm ≤ hi)

/-- Tributary LOS after eight bad or eight good frames (R89). -/
def State.tribJcRun (s : State) (r t : Nat) (bad : Bool) : State :=
  let x := s.trib r t
  let r' := runStep (s.bit (tribA r t 0) 0) bad x.badRun x.goodRun 8 8
  (s.setTrib r t { x with badRun := r'.2.1, goodRun := r'.2.2 }).setBit (tribA r t 0) 0 r'.1

/-- CRC with the generator `poly` of degree `w` over the bits of `v` below `n`, the highest first, from 0. -/
def crcOf (w poly v : Nat) : Nat → Nat → Nat
  | 0, acc => acc
  | n + 1, acc =>
    let r := acc * 2 % 2 ^ w
    crcOf w poly v n (if acc.testBit (w - 1) != v.testBit n then Nat.xor r poly else r)

/-- CRC-8 over Cm, x^8 + x^3 + x^2 + 1, and CRC-5 over the sum of C1D, x^5 + x + 1 (R87).  PRESUMED, from G.709
(assumption 84). -/
def cmCrc (cm : Nat) : Byte := BitVec.ofNat 8 (crcOf 8 0x0D cm 32 0)
def c1dCrc (c1d : Nat) : BitVec 5 := BitVec.ofNat 5 (crcOf 5 0x03 c1d 10 0)

/-- Two of three copies of a justification control agree (R91). -/
def majority (js : List (BitVec 2)) : Option (BitVec 2) :=
  match js with
  | [a, b, c] => if a = b ∨ a = c then some a else if b = c then some b else none
  | _ => none

/-- Justifications, negative and positive, that a control stands for.  PRESUMED, from G.709: 01 is one negative, 11 one
positive, and in an ODTU 10 is two positive (assumption 84). -/
def jcCount (odtu : Bool) (j : BitVec 2) : Nat × Nat :=
  if j = 1 then (1, 0) else if j = 3 then (0, 1) else if j = 2 ∧ odtu then (0, 2) else (0, 0)

/-- The justification control of a frame (R89, R91). -/
def State.tribJc (s : State) (r t : Nat) (x : TribIn) : State :=
  if s.tGmp r t then
    let jcOk := x.crc8 == cmCrc x.cm && x.crc5 == c1dCrc x.c1d
    let bad := !jcOk || !s.cmInWindow r t x.cm
    let s := if !jcOk then s.inc (tribA r t 0x70) else if bad then s.inc (tribA r t 0x74) else s
    let s := s.tribJcRun r t bad
    if bad then s
    else s.setFld (tmA r t + 0x10) 15 0 x.cm
  else if s.tAmp r t then
    match majority x.jcs with
    | some j =>
      let n := jcCount (s.tMode r t == 1) j
      (s.addTo (tribA r t 0x78) n.1).addTo (tribA r t 0x7C) n.2
    | none => s.inc (tribA r t 0x70)
  else s

/-- A granted slip buffer carries the client of tributary `t` (R124). -/
def State.slipCarries (s : State) (r t : Nat) : Bool :=
  let j := s.tChan r t
  s.tMode r t == 2 && s.actFld (tmA r t + 4) 2 2 == 0 && famOf (s.txFmt (chanOf r j)) == 1 && s.tEgr r t &&
    s.granted (108 + 32 * r + j)

/-- IN_USE of slip buffer `b` (R124). -/
def State.showInUse (s : State) (b : Nat) : State :=
  s.setBit (slipA b 4) 1 ((List.range 80).any (fun n => s.tChan (b / 32) n == b % 32 && s.slipCarries (b / 32) n))

/-- Bytes that the mapper lost or repeated (R91). -/
def State.mapperSlip (s : State) (r t n : Nat) : State :=
  if n = 0 then s
  else ((s.addTo (tribA r t 0x80) n).event (mapA r 0x108) 1).raiseLim 1 t (mapSrc r) 0x22 false (t * 256)

/-- Bytes lost or repeated (R90, R91, R125). -/
def State.tribSlip (s : State) (r t n : Nat) : State :=
  if n = 0 ∨ s.slipCarries r t then s
  else s.mapperSlip r t n

/-! ### Overhead, parity and degrade (R54, R62 to R66, R70) -/

/-- Slot of overhead row `row` and column `col` of tributary `t` (R54). -/
def tribSlot (t row col : Nat) : Nat := (12 + row) * 2048 + 16 * t + col

def State.tribRun (s : State) (r t : Nat) (e : Nat × Bool × Nat × Nat) : State :=
  let x := s.trib r t
  let on := s.bit (tribA r t 0) e.1
  let q := runStep on e.2.1 (Tab.get x.enter 0 e.1) (Tab.get x.leave 0 e.1) e.2.2.1 e.2.2.2
  (s.setTrib r t { x with enter := Tab.set x.enter 0 e.1 q.2.1, leave := Tab.set x.leave 0 e.1 q.2.2 }).setBit
    (tribA r t 0) e.1 q.1

/-- Mask word of a tributary frame: its active defects, and bit 26 for those of its carrier (R63, R68). -/
def State.tribMask (s : State) (r t : Nat) : Nat := s.fld (tribA r t 4) 25 0 + (s.tribCarried r t).toNat * 2 ^ 26

/-- BIP-8 of the OPU of a tributary frame: columns 15 to 3,824 (R62). -/
def tribBip (t : Nat) (b : Tab Byte) (body : List (Nat × Nat × Byte)) : Byte :=
  let pay := body.foldl (fun u e => Tab.insert u (e.1 * 4096 + e.2.1) e.2.2) ([] : Tab Byte)
  let oh := b.filter (fun e => slotCol e.1 / 16 == t && decide (14 ≤ slotCol e.1 % 16))
  (pay ++ oh).foldl (fun x e => x ^^^ e.2) 0

/-- PM parity of a tributary: `err` are the errored bits of the BIP-8 that the frame carries (R62 to R64). -/
def State.tribParity (s : State) (r t err now : Nat) (pm : Byte) : State :=
  let s := s.setTrib r t { s.trib r t with parB := none, parAt := s.now }
  let x := s.trib r t
  let mask := [0, 2, 3, 15, 26]
  let compared := !anyBit now mask && (match x.hist[1]? with | some h => !anyBit h mask | none => false)
  if !compared then s
  else
    let e := err
    let s := (s.parAdd (tribA r t 0x60) (tribA r t 0x64) e true).addTo (tribA r t 0x68) (beiValue pm)
    let x := s.trib r t
    (s.setTrib r t { x with accPm := x.accPm + e, parB := some e, deg := s.degFrame (tribA r t 0x40) 1 (e != 0).toNat x.deg }).tribShowDeg r t

/-! ### Extraction items (R55 to R59) -/

def ohSelA (r e : Nat) : Nat := mapA r (0x9000 + 4 * e)

/-- A slot names an overhead byte of a tributary that takes in frames (R54, R55). -/
def State.mapSlotOk (s : State) (r slot : Nat) : Bool :=
  decide (12 ≤ slotRow slot ∧ slotRow slot ≤ 15 ∧ slotCol slot < 1280) && s.tTakes r (slotCol slot / 16)

def State.mapBadSlot (s : State) (r e : Nat) : State :=
  let o := s.mapOhOf r
  if o.reported.contains e then s
  else
    let s := s.setMapOh r { o with reported := o.reported ++ [e] }
    (s.event (mapA r 0x108) 0).raise (mapSrc r) 0x0B false (ohSelA r e)

/-- The OH_TRIB item of a frame (R55, R57 to R59). -/
def State.tribItems (s : State) (r t tag : Nat) (first : Bool) : State :=
  let slotOf := fun e => s.fld (ohSelA r e) 15 0
  let bad := (List.range 128).filter (fun e => !s.mapSlotOk r (slotOf e))
  let s := bad.foldl (fun s e => s.mapBadSlot r e) s
  let x := s.trib r t
  let mine := (List.range 128).filter (fun e => s.mapSlotOk r (slotOf e) && slotCol (slotOf e) / 16 == t)
  let es := mine.map (fun e => { entry := e, mode := s.fld (ohSelA r e) 17 16, byte := Tab.get x.captures 0 (slotOf e),
                                 run := x.runFrames - Tab.get x.changed 0 (slotOf e) : Extract })
  let o := s.mapOhOf r
  let d := o.due (s.fld (mapA r 0x9200) 7 4) first es
  if d.isEmpty then s
  else
    let p := s.tribPublish r t 2 (s.bit (mapA r 0x9200) 0)
      (BitVec.ofNat 16 tag :: BitVec.ofNat 16 t :: dueWords d)
    p.2.setMapOh r (o.sent p.1 d)

/-! ### Groups (R101 to R104) -/

/-- The head of the group that tributary `t` belongs to. -/
def State.headOf (s : State) (r t : Nat) : Option Nat :=
  match s.tMode r t with
  | 3 => some t
  | 4 => some (s.tHead r t)
  | _ => none

/-- Capacity of a member's deskew buffer in 0.1 ns (R102). -/
def State.deskewCap (s : State) (r t : Nat) : Nat :=
  if s.granted (96 + r) then s.tPlots r t * 5242880 * 100000 / storedRate (s.tType r t + 3) else 0

/-- LOA of head `h` (R103).  ALIGNED, DELAY_NS, GROUP_DIFF_NS and CM_LAST are written here by MAP itself, and not by
the standard image as R106 has it (DESIGN CHOICE, assumption 82). -/
def State.setLoa (s : State) (r h : Nat) (on : Bool) : State :=
  s.withTrib r h (fun s => (s.setBit (tribA r h 0) 24 on).setBit (tmA r h + 0x10) 16 (!on))

/-- The frames of all members for one MFI value have come: delays, and the conditions of LOA (R102, R103). -/
def State.groupFrame (s : State) (r h v : Nat) : State :=
  let ms := h :: s.members r h
  let at_ := fun m => Tab.get (s.trib r m).arrivals 0 v
  let counts := ms.filterMap (fun m => (s.trib r m).mfiCount)
  let apart := counts.any (fun a => counts.any (fun b => decide (32768 < a - b)))
  let lom := ms.any (fun m => s.bit (tribA r m 0) 3)
  let all := ms.all (fun m => at_ m != 0)
  let last := (ms.map at_).foldl max 0
  let far := ms.any (fun m => decide (s.deskewCap r m < last - at_ m))
  let bad := lom || apart || (all && far)
  let s := if all then
      let s := ms.foldl (fun s m =>
        let x := s.trib r m
        (s.wrN (tmA r m + 0x14) ((last - at_ m) / 10)).setTrib r m { x with arrivals := Tab.erase x.arrivals v }) s
      s.wrN (tmA r h + 0x18) ((ms.map (fun m => last - at_ m)).foldl max 0 / 10)
    else s
  let x := s.trib r h
  if bad then (s.setTrib r h { x with loaClear := 0 }).setLoa r h true
  else if !all || !s.bit (tribA r h 0) 24 then s
  else
    let s := s.setTrib r h { x with loaClear := min 16 (x.loaClear + 1) }
    if 16 ≤ x.loaClear + 1 then s.setLoa r h false else s

def nextMfi2 (v : Nat) : Nat := (v + 1) % 256

/-- MFI2 and SQ of a member, once in a period of MFI2 (R103). -/
def State.memberPeriod (s : State) (r t : Nat) (x : TribIn) : State :=
  let y := s.trib r t
  let m := (y.mfi.step nextMfi2 (x.mfi / 256 % 256) s.now).1
  let q := runStep (s.bit (tribA r t 0) 25) (x.sq != s.tSq r t) y.sqRun y.sqGood 3 3
  let s := s.setTrib r t { y with mfi := m, sqRun := q.2.1, sqGood := q.2.2, mfiLast := x.mfi % 65536 + x.sq * 65536 }
  let lom := m.lomDue 0 s.now || (s.bit (tribA r t 0) 3 && !m.inMf)
  (s.setBit (tribA r t 0) 25 q.1).setBit (tribA r t 0) 3 lom

/-! ### The frame (R59, R71, R89) -/

/-- The overhead of a tributary frame as the captures, with the run of each byte (R56, R57). -/
def State.tribCapture (s : State) (r t : Nat) (b : Tab Byte) : State :=
  let y := s.trib r t
  let new := b.filter (fun e => decide (12 ≤ slotRow e.1 ∧ slotRow e.1 ≤ 15) && slotCol e.1 / 16 == t)
  let n := if y.firstIn then 0 else y.runFrames
  let changed := if y.firstIn then [] else
    changesOf y.changed n ((y.captures ++ new).map (·.1)) (Tab.get y.captures 0) (Tab.get new 0)
  s.setTrib r t { y with captures := new, runFrames := n + 1, changed := changed }

/-- What a tributary takes from a frame that its carrier delivers IN_FRAME, justification apart. -/
def State.tribGood (s : State) (r t now : Nat) (x : TribIn) : State :=
  let b := byteTab x.bytes
  let pm := Tab.get b 0 (tribSlot t 2 11)
  let s := (pmCriteria pm.toNat ++ (match x.csf with | some c => [(22, c, 3, 3)] | none => [])).foldl
    (fun s e => s.tribRun r t e) s
  let err := popCount 8 ((s.trib r t).bips.getD 1 0 ^^^ Tab.get b 0 (tribSlot t 2 10)).toNat
  let s := s.tribParity r t err now pm
  let s := if (s.headOf r t).isSome && x.mfi2End then s.memberPeriod r t x else s
  let first := (s.trib r t).firstIn
  let s := s.tribCapture r t b
  let s := s.tribItems r t (x.mfi % 256 * 256 + (s.trib r t).frameCount) first
  let y := s.trib r t
  s.setTrib r t { y with frameCount := (y.frameCount + 1) % 256, hist := now :: y.hist.take 1, firstIn := false,
                         bips := tribBip t b x.body :: y.bips.take 1 }

/-- A tributary frame, its group apart.  The data of a flywheel frame pass as received, but give no overhead, parity
or items (R56, R58, R59, R63, R69). -/
def State.tribTake (s : State) (r t : Nat) (x : TribIn) (good : Bool) : State :=
  let s := s.pdefTribEdge r t
  let now := s.tribMask r t
  let s := (s.tribJc r t x).tribSlip r t x.slipBytes
  if good then s.tribGood r t now x
  else s.setTrib r t { s.trib r t with hist := [] }

/-- The MFI of a member's frame, counted on past its 16 bits: the count nearest to the group's furthest member
(R103; assumption 60). -/
def State.countMfi (s : State) (r h t mfi : Nat) : State :=
  let counts := (h :: s.members r h).filterMap (fun m => (s.trib r m).mfiCount)
  let n := match counts with
    | [] => (mfi : Int)
    | c :: cs =>
      let top := cs.foldl max c
      top + signedOf 16 (unsignedOf 16 (mfi - top))
  s.setTrib r t { s.trib r t with mfiCount := some n }

/-- A frame that a tributary takes in (R89 and the rules that act on it); A of R102 is measured to 0.8 ns. -/
def State.tribFrame (s : State) (r t : Nat) (x : TribIn) : State :=
  let s := if s.granted (96 + r) then s.celRead r (s.deskewPlace r t) x.cel else s
  let good := s.tribWhole r t
  let s := s.withTrib r t (fun s => s.tribTake r t x good)
  let s := if s.isRemote r t then
      s.setTrib r t { s.trib r t with fp := if good then some (tribFp t (byteTab x.bytes) x.body) else none }
    else s
  let s := if s.tMode r t = 1 then s.sinksTake r t good else s
  match s.headOf r t with
  | none => s
  | some h =>
    let y := s.trib r t
    let mfi := x.mfi % 65536
    let s := s.setTrib r t { y with arrivals := Tab.set y.arrivals 0 mfi (x.arrival / 8 * 8 + 1) }
    (s.countMfi r h t mfi).groupFrame r h mfi

end Sys2Proof.Machine
end

