-- ==== Sys2Proof/Machine/TxOps.lean ====
section
/-! DEFINITION. Transmit framers: formats, program-written slots, consequent actions, the overhead of a frame,
slips, the time-transfer message (R28, R60, R61, R64, R65, R72 to R75, R81, R98, R124, R177, R180, R185 to R187). -/

namespace Sys2Proof.Machine

/-! ### Format and slots (R60, R61, R81, R238) -/

/-- The row of the lane is out of reset, and its clock runs (R27). -/
def State.txRuns (s : State) (f : Nat) : Bool := s.coreRuns && !s.inReset (txA f 0)

/-- The slot space of a format (R54). -/
def slotSpace (fmt : Nat) : Nat := match famOf fmt with | 1 => fmt | 2 => 3 | 3 => 4 | _ => 0

/-- S1's slot, and its value while no program has written it (R60). -/
def s1Slot : Nat := 8 * 2048

/-- Trace presets (R60, R81): SDH a length of 1 with byte 0x01; OTN 64 bytes of 0x00. -/
def State.tracePresets (s : State) (f fmt : Nat) : State :=
  match famOf fmt with
  | 1 => ((s.clearRegs (txA f 0x240) (txA f 0x2C0)).setFld (txA f 0x208) 1 0 0).wrN (txA f 0x240) 1
  | 2 => ((s.clearRegs (txA f 0x240) (txA f 0x2C0)).setFld (txA f 0x208) 1 0 2).setFld (txA f 0x208) 3 2 2
  | _ => s

/-- A write of TX_MODE.FORMAT (R31, R65, R81, R86). -/
def State.txFormatWrite (s : State) (f fmt : Nat) : State :=
  let old := s.txFmt f
  let bad := !fmtOk f fmt
  let s := if bad then s.raise (mapSrc (rowOfCh f)) 0x0B false (txA f 0x100) else s
  let fmt := if bad then 0 else fmt
  if fmt = old then s
  else
    let x := s.tx f
    let keep := fmt = 0 ∨ slotSpace fmt = x.space
    let s := s.setTx f { Tx.init with
      slots := if keep then x.slots else [], space := if fmt = 0 then x.space else slotSpace fmt,
      onDial0 := x.onDial0, backDue := x.backDue, losFreeSince := x.losFreeSince, timing := x.timing }
    let s := ((s.setFld (txA f 0x100) 3 0 fmt).tracePresets f fmt).formatFollow f false
    (s.showInUse (32 * rowOfCh f + idxOf f)).formatSeen f

/-- Place of K2 in an STM-N (R54, R60). -/
def k2Slot (fmt : Nat) : Nat := 4 * 2048 + 6 * auN fmt

/-- The bits of a slot that a program write reaches: a valid position, and neither hardware-only nor hardware-sourced
now (R21, R55, R60, R61, R185, R238). -/
def State.txMask (s : State) (f slot : Nat) : Byte :=
  let fmt := s.txFmt f
  let r := slotRow slot
  let c := slotCol slot
  let src := fun b => s.bit (txA f 0x200) b
  let all := fun (b : Bool) => if b then (0xFF : Byte) else 0
  match famOf fmt with
  | 1 =>
    let n := auN fmt
    all (decide (r ≤ 8 ∧ c < 9 * n) && !(r == 0 && decide (c ≤ 6 * n)) && !(r == 1 && c == 0) &&
      !(r == 4 && decide (c < 3 * n)) && r != 3 && (slot != m1Slot fmt || src 0))
  | 2 =>
    if slot = 0x0009 then (if src 2 then 0xF8 else 0) ||| 0x03
    else if slot = 0x100B then (if src 3 then 0xF8 else 0) ||| (if src 4 then 0x07 else 0)
    else all (decide (r ≤ 3 ∧ c ≤ 13) && !(r == 0 && decide (c ≤ 8)) && !(r == 2 && (c == 9 || c == 10)) &&
      !(s.ttcRuns f && slot == s.polFld (ttcA f 0) 31 16))
  | _ => 0

def State.txTakes (s : State) (f slot : Nat) : Bool := s.txMask f slot != 0

/-- The value of a program-written slot while no program has written it (R60). -/
def slotStart (fmt slot : Nat) : Byte :=
  if famOf fmt = 1 ∧ slot = s1Slot then 0x0F else if famOf fmt = 2 ∧ slot = 0x100B then 0x01 else 0

/-- The value of a program-written slot (R60). -/
def State.txSlot (s : State) (f slot : Nat) : Byte := Tab.get (s.tx f).slots (slotStart (s.txFmt f) slot) slot

/-- A program write to a transmit slot; false where it is discarded (R61, R238). -/
def State.txWrite (s : State) (f slot : Nat) (b : Byte) : Bool × State :=
  let m := s.txMask f slot
  if m = 0 then (false, s)
  else
    let v := (s.txSlot f slot &&& ~~~m) ||| (b &&& m)
    (true, s.setTx f { s.tx f with slots := Tab.set (s.tx f).slots (slotStart (s.txFmt f) slot) slot v })

/-- A program write to the transmit half of a tributary: the ODU overhead of an ODU that the tributary generates,
its PM bytes apart (R60, R84, R238). -/
def State.tribTakesSlot (s : State) (r t slot : Nat) : Bool :=
  let row := slotRow slot
  let c := slotCol slot % 16
  decide (2 ≤ s.tMode r t) && s.tIng r t && slotCol slot / 16 == t && decide (13 ≤ row ∧ row ≤ 15 ∧ c ≤ 13) &&
    !(row == 14 && decide (9 ≤ c ∧ c ≤ 11))

def State.tribWrite (s : State) (r t slot : Nat) (b : Byte) : Bool × State :=
  if s.tribTakesSlot r t slot then
    (true, s.setTrib r t { s.trib r t with slots := Tab.set (s.trib r t).slots 0 slot b })
  else (false, s)

/-! ### Causes (R71 to R73) -/

/-- Program defects with their downstream (`up` false) or upstream action, of the given bits. -/
def pdefActs (pdef acts : Nat) (up : Bool) (bits : List Nat) : Bool :=
  bits.any (fun b => pdef.testBit b && acts.testBit (2 * b + up.toNat))

def State.rxPdef (s : State) (f : Nat) (up : Bool) (bits : List Nat) : Bool :=
  pdefActs (s.defView f).pdef (s.nat (rxA f 0x23C)) up bits

def State.rxAct (s : State) (f : Nat) (bits : List Nat) : Bool := anyBit (s.nat (rxA f 0x208)) bits

/-- SF of detector `i` with its action (R70). -/
def State.rxSf (s : State) (f i : Nat) : Bool := s.rxAct f [12 + 2 * i] && s.bit (rxA f (0x258 + 0x20 * i)) 0

/-- Causes at the section of framer `f`, down or up (R72, R73). -/
def State.sectionCause (s : State) (f : Nat) (up : Bool) : Bool :=
  match famOf (s.rxFmt f) with
  | 1 => s.rxAct f [0, 2, 6] || s.rxPdef f up [0, 4, 5, 6, 7] || s.rxSf f 0
  | 2 => s.rxAct f [0, 2, 3, 4] || s.rxPdef f up [0] || s.rxSf f 0
  | 3 => s.rxAct f [0, 2]
  | _ => false

/-- Causes at the ODU path received on framer `f` (R72, R73). -/
def State.pathCause (s : State) (f : Nat) (up : Bool) : Bool :=
  famOf (s.rxFmt f) == 2 &&
    (s.rxAct f (if up then [15, 16, 17] else [15, 16, 17, 22]) || s.rxPdef f up [1, 2, 3, 4, 5, 6, 7] || s.rxSf f 1)

/-- Causes of tributary `t`'s own, down or up (R72, R73, R104). -/
def State.tribCause (s : State) (r t : Nat) (up : Bool) : Bool :=
  let act := s.nat (tribA r t 4)
  anyBit act (if up then [3, 15, 16, 17] else [0, 3, 15, 16, 17, 22]) ||
    pdefActs (s.trib r t).pdefAct (s.nat (tribA r t 0x10)) up [1, 2, 3, 4, 5, 6, 7] ||
    (anyBit act [14] && s.bit (tribA r t 0x58) 0)

/-! ### Signals as MAP and Trellis see them (R72, R89, R94, R115) -/

/-- The section of the signal seen on channel `f` has failed: ODU-AIS or MS-AIS stands in for it (R72). -/
def State.chanFails (s : State) (f : Nat) : Bool :=
  let (g, cut) := s.seenChan f
  cut || (match g with | some g => s.sectionCause g false | none => false)

/-- The ODU seen on channel `f` has failed for what is demultiplexed or demapped from it (R72). -/
def State.oduFails (s : State) (f : Nat) : Bool :=
  s.chanFails f || (match (s.seenChan f).1 with | some g => s.pathCause g false | none => false)

/-- The OMFI of the signal seen on channel `f` is not locked (R94). -/
def State.omfiLost (s : State) (f : Nat) : Bool :=
  match (s.seenChan f).1 with
  | some g => s.omfiRuns g && !(s.framer g).omfi.inMf
  | none => false

/-- The ODU that signal `sig` of row `r` carries is ODU-AIS: its section or carrier has failed, and of a mode 1
tributary its justification control or a program defect with its action (R20, R71, R72, R89, R94). -/
def State.signalAis (s : State) (r sig : Nat) : Bool :=
  if 80 ≤ sig then s.chanFails (chanOf r (sig - 80))
  else if s.tMode r sig = 1 then
    let f := chanOf r (s.tChan r sig)
    anyBit (s.nat (tribA r sig 4)) [0] || s.oduFails f || s.omfiLost f ||
      pdefActs (s.trib r sig).pdefAct (s.nat (tribA r sig 0x10)) false [1, 2, 3, 4, 5, 6, 7]
  else false

/-- PM byte 3 of an ODU that tributary `t` generates (R60, R64, R73, R104). -/
def State.tribPm (s : State) (r t : Nat) : Nat :=
  let group := match s.headOf r t with
    | some h => s.bit (tribA r h 4) 24 || (h :: s.members r h).any (fun m => s.bit (tribA r m 4) 25)
    | none => false
  let carrier := match s.tribPath r t with | some (f, _) => s.sectionCause f true || s.pathCause f true | none => false
  let bdi := group || s.tribCause r t true || carrier
  min 8 (s.trib r t).accPm * 16 + bdi.toNat * 8 + 1

/-- PM byte 3 that an ODU switched whole carries from its source (R64, R98). -/
def State.signalPm (s : State) (r sig : Nat) : Nat :=
  if 80 ≤ sig then
    match (s.seenChan (chanOf r (sig - 80))).1 with
    | some g => (s.captured g 0x100B).toNat
    | none => 1
  else if s.tMode r sig = 1 then (Tab.get (s.trib r sig).captures 0 (tribSlot sig 2 11)).toNat
  else (s.trib r sig).sent.pm.toNat

/-- What feeds tributary `t` gives no client (R72, R98). -/
def State.feedFails (s : State) (r t : Nat) : Bool :=
  match s.feed r t with
  | .signal q sig => s.signalAis q sig || (decide (80 ≤ sig) && s.oduFails (chanOf q (sig - 80)))
  | _ => true

/-- The client demapped by tributary `t` is replaced; a group needs every member (R72, R98, R104). -/
def State.clientReplaced (s : State) (r t : Nat) : Bool :=
  s.feedFails r t || s.tribCause r t false ||
    (s.tMode r t == 3 && (s.bit (tribA r t 4) 24 || s.bit (tribA r t 4) 25 ||
      (s.members r t).any (fun m => s.feedFails r m || s.bit (tribA r m 4) 25 || s.tribCause r m false)))

/-- The tributary whose client channel `f` sends, its format fitting (R84, R86). -/
def State.clientOf (s : State) (f : Nat) : Option Nat :=
  let r := rowOfCh f
  (List.range 80).find? (fun t => (s.tMode r t == 2 || s.tMode r t == 3) && s.tEgr r t && s.tChan r t == idxOf f &&
    s.tFits r t (s.txFmt f))

/-! ### Loop timing (R28, R180) -/

/-- TX_TIMING takes effect at a frame edge (R180). -/
def State.timingEdge (s : State) (f : Nat) : State :=
  let w := s.rd (txA f 0x300)
  let x := s.tx f
  s.setTx f { x with timing := w, onDial0 := x.onDial0 && w.getLsbD 0 }

/-- The dial that the lane follows (R28, R180).  A loop-timed lane has none of its own, and what needs one takes dial 0
(DESIGN CHOICE, assumption 82). -/
def State.laneDial (s : State) (f : Nat) : Nat :=
  let x := s.tx f
  if x.timing.getLsbD 0 then 0 else bitsOf x.timing.toNat 7 4

/-- Frequency of the lane against OSC_IN: its dial's, plus the steering of the tributary whose client it sends (R90,
R180). -/
def State.laneFreq (s : State) (f : Nat) : Option Int :=
  let x := s.tx f
  if x.timing.getLsbD 0 && !x.onDial0 then none
  else
    let steer := match s.clientOf f with
      | some t => if s.actFld (tmA (rowOfCh f) t + 4) 2 2 = 1 then (s.trib (rowOfCh f) t).steer else 0
      | none => 0
    some ((s.dial (s.laneDial f)).y + steer)

/-- LOOP_TIMING: a loop-timed lane moves to dial 0 or back, and reports it (R28, R29). -/
def State.loopMove (s : State) (f : Nat) : State :=
  let x := s.tx f
  let los := s.rawBit f 0
  let det := f % 192 + (f / 192) * 256
  if !x.timing.getLsbD 0 then s
  else if !x.onDial0 && los then
    (s.setTx f { x with onDial0 := true, backDue := false }).raise (mapSrc (rowOfCh f)) 0x33 false (det + 512)
  else if x.onDial0 && x.backDue && !los then
    (s.setTx f { x with onDial0 := false, backDue := false }).raise (mapSrc (rowOfCh f)) 0x33 false det
  else s

/-! ### Reverse indications (R64, R65, R73) -/

/-- Bytes of a trace: the TRACE registers hold the lowest index in the lowest byte (R81). -/
def State.traceByte (s : State) (a i : Nat) : Byte :=
  BitVec.ofNat 8 (s.fld (a + i / 4 * 4) (8 * (i % 4) + 7) (8 * (i % 4)))

def traceLen (code : Nat) : Nat := match code with | 0 => 1 | 1 => 16 | _ => 64

/-- Counts beyond what the field carries (R65). -/
def State.reiSat (s : State) (f n cap : Nat) : State := s.addTo (txA f 0x2C0) (n - min n cap)

/-- The overhead of an SDH frame (R60, R64, R73, R75). -/
def State.sendSdh (s : State) (f : Nat) (ais : Bool) : State :=
  let x := s.tx f
  let fmt := s.txFmt f
  let rev := s.reverseTakes f
  let src := fun b => s.bit (txA f 0x200) b
  let n := if rev then x.accM1 else 0
  let rdi := rev && s.sectionCause f true && !src 1
  let k2 : BitVec 3 := if ais then 7 else if rdi then 6 else (s.txSlot f (k2Slot fmt)).setWidth 3
  let m1 : Byte := if ais then 0xFF else if src 0 then s.txSlot f (m1Slot fmt) else BitVec.ofNat 8 (min n 255)
  let len := traceLen (s.fld (txA f 0x208) 1 0)
  let sent := { x.sent with ais := ais, oci := false, k2 := k2, m1 := m1, written := if ais then [] else x.slots,
                            freq := s.laneFreq f,
                            smTrace := s.traceByte (txA f 0x240) (x.traceIdx % len) }
  let s := s.setTx f { x with sent := sent, accM1 := 0, accSm := 0, accPm := 0, traceIdx := (x.traceIdx + 1) % 64 }
  if src 0 || ais then s else s.reiSat f n 255

/-- What an OTN lane sends at the ODU: its PM byte 3 before TX_CTRL, whether it is ODU-AIS, whether it is
unconnected, and whether the part terminates it (R64, R98). -/
def State.oduSent (s : State) (f : Nat) : Nat × Bool × Bool × Bool :=
  let r := rowOfCh f
  let x := s.tx f
  if s.hoMode r (idxOf f) then
    let rev := s.reverseTakes f
    let bdi := rev && (s.sectionCause f true || s.pathCause f true)
    ((if rev then min 8 x.accPm else 0) * 16 + bdi.toNat * 8 + 1, false, false, true)
  else match s.feed r (80 + idxOf f) with
    | .open => (6, false, true, false)
    | .replaced => (0xFF, true, false, false)
    | .signal q sig => (s.signalPm q sig, s.signalAis q sig, false, false)

/-- PM byte 3 as sent: TX_SRC, OCI, LCK and AIS over what the ODU carries (R21, R60, R75). -/
def State.pmSent (s : State) (f pm : Nat) (ais oci : Bool) : Nat :=
  let prog := (s.txSlot f 0x100B).toNat
  let pm := if s.bit (txA f 0x200) 3 then putBits pm 7 3 (prog / 8) else pm
  let pm := if s.bit (txA f 0x200) 4 then putBits pm 2 0 prog else pm
  let pm := if oci || s.bit (txA f 0x204) 1 then putBits pm 2 0 6 else pm
  let pm := if s.bit (txA f 0x204) 0 then putBits pm 2 0 5 else pm
  if ais then 0xFF else pm

/-- The MSI of carrier `j`, from its TS table: of an ODU2 the ODTU12 type and TPN - 1 of each slot, of an ODU4 the
occupied bit and TPN - 1 (R93).  PRESUMED layout, from G.709 (assumption 84). -/
def State.msiByte (s : State) (r j k : Nat) : Byte :=
  let o := s.tsOwner r j k
  let tpn := s.actFld (tmA r o) 30 24
  if s.txFmt (chanOf r j) = 6 then (if o = 0x7F then 0 else BitVec.ofNat 8 (0x80 + (tpn - 1)))
  else if o = 0x7F then 0xFF else BitVec.ofNat 8 (tpn - 1)

/-- The PSI byte `i` that lane `f` sends: of a carrier PT 0x21 and the MSI, of an ODU that the part maps its PT, vcPT and
CSF; none where the ODU is switched whole (R60, R86, R92, R93). -/
def State.psiByte (s : State) (f i : Nat) : Option Byte :=
  let r := rowOfCh f
  let j := idxOf f
  if s.hoMode r j then
    let n := if s.txFmt f = 6 then 80 else 8
    some (if i = 0 then 0x21 else if 2 ≤ i ∧ i < 2 + n then s.msiByte r j (i - 2) else 0)
  else match s.feed r (80 + j) with
    | .signal q sig =>
      let x := (s.trib q sig).sent
      if sig < 80 ∧ 2 ≤ s.tMode q sig then
        some (if i = 0 then x.pt else if i = 1 then x.vcPt else if i = 2 ∧ x.csf then 0x80 else 0)
      else none
    | _ => none

/-- The overhead of an OTN frame (R60, R64, R73, R75). -/
def State.sendOtn (s : State) (f : Nat) (forced : Bool) : State :=
  let x := s.tx f
  let rev := s.reverseTakes f
  let (pm0, ais0, oci, term) := s.oduSent f
  let ais := forced || ais0
  let pm := s.pmSent f pm0 ais oci
  let prog := (s.txSlot f 0x0009).toNat
  let own := s.bit (txA f 0x200) 2
  let n := if rev then x.accSm else 0
  let iae := rev && s.rxAct f [20]
  let bei := if own then prog / 16 else if iae then 11 else min n 8
  let bdi := if own then prog.testBit 3 else rev && s.sectionCause f true
  let smLen := traceLen (s.fld (txA f 0x208) 1 0)
  let pmLen := traceLen (s.fld (txA f 0x208) 3 2)
  let c := s.ttc f
  let byte := if s.ttcRuns f then some (if ais then 0xFF else c.msg.getD (x.mfas % 16) 0) else none
  let oduRow := fun (e : Nat × Byte) => decide (1 ≤ slotRow e.1)
  let sent : Sent :=
    { ais := ais, oci := !ais && pm % 8 == 6, written := if ais then x.slots.filter (fun e => !oduRow e) else x.slots,
      psi := if ais then some 0xFF else s.psiByte f x.mfas, smIae := false, sdi := .client, freq := s.laneFreq f,
      k2 := 0, m1 := 0, smBei := BitVec.ofNat 4 bei, smBdi := bdi,
      pmBei := BitVec.ofNat 4 (pm / 16), pmBdi := pm.testBit 3, pmStat := BitVec.ofNat 3 pm, replacement := false,
      smTrace := s.traceByte (txA f 0x240) (x.mfas % 64 % smLen),
      pmTrace := if ais then 0xFF else s.traceByte (txA f 0x280) (x.mfas % 64 % pmLen), ttcByte := byte }
  let surplus := if term && rev && !ais && !s.bit (txA f 0x200) 3 then x.accPm - min x.accPm 8 else 0
  let s := s.setTx f { x with sent := sent, accM1 := 0, accSm := 0, accPm := 0, mfas := (x.mfas + 1) % 256 }
  (if own || iae then s else s.reiSat f n 8).addTo (txA f 0x2C0) surplus

/-! ### The stamp of a transmit edge (R177, R178) -/

/-- The transmit stamp of an edge now, on a dial (R178). -/
def State.txStamp (s : State) (dial f : Nat) : Nat :=
  let adj : Int := s.int (txA f 0x708) + s.fld (txA f 0x704) 19 0 + crossPs (txA f 0) + Config.txPipePs (s.txFmt f)
  (((s.dialSub dial : Nat) : Int) + psSub adj).toNat

/-! ### Slips (R124, R125) -/

/-- A slip of the buffer of lane `f` (R124, R127, R128). -/
def State.slip (s : State) (f b : Nat) (rep : Bool) : State :=
  let s := (s.inc (slipA b (if rep then 0xC else 8))).tallyCel 10 1
  let s := s.putTs (slipA b 0x10) (s.txStamp (s.laneDial f) f)
  let s := (s.event (slipA b 0x1C) rep.toNat).event (celA 0x104) 3
  s.raiseLim 1 b celSrc 0x3D false (b + rep.toNat * 65536)

/-- The slip buffer at a transmit frame edge; bypassed while the client is replaced (R124, R125). -/
def State.slipEdge (s : State) (f fill : Nat) (replaced : Bool) : State :=
  let r := rowOfCh f
  let b := 32 * r + idxOf f
  match s.clientOf f with
  | none => s
  | some t =>
    if !s.slipCarries r t then s
    else if replaced then s
    else if (s.tx f).replacing then s.setFld (slipA b 4) 15 8 128
    else
      let s := s.setFld (slipA b 4) 15 8 (min fill 255)
      if 192 < fill then s.slip f b false else if fill < 64 then s.slip f b true else s

/-! ### The time-transfer message (R186, R187) -/

def bytes48 (w : Nat) : List Byte := (List.range 6).map (fun i => BitVec.ofNat 8 (w / 2 ^ (8 * (5 - i))))

/-- A message begins with the frame of byte 0: its bytes, and its departure kept (R186, R187). -/
def State.ttcBegin (s : State) (n dep : Nat) : State :=
  let c := s.ttc n
  let seq := (c.txSeq + 1) % 256
  let arr := (c.echoSeq.bind (keptAt c.arrs)).map (·.1)
  let prev := ((keptAt c.deps ((seq + 255) % 256)).map (·.1)).getD 0
  let head : Byte := BitVec.ofNat 8 (32 + arr.isSome.toNat * 16 + s.polFld (ttcA n 4) 3 0)
  let body := [head, BitVec.ofNat 8 seq] ++ bytes48 (shortTime prev) ++ [BitVec.ofNat 8 (c.echoSeq.getD 0)] ++
    bytes48 (shortTime (arr.getD 0))
  (s.setTtc n { c with txSeq := seq, deps := (seq, dep, s.ttcSteps n) :: c.deps.take 15, msg := body ++ [crc8 body] }).inc
    (ttcA n 0x1C)

/-! ### The frame (R74, R177, R178) -/

/-- Client replacement of the lane at this frame: it begins at a boundary, and for SDI ends with line 1
(R72, R74). -/
def State.replacedNow (s : State) (f : Nat) (line1 : Bool) : Bool :=
  let cause := match s.clientOf f with | some t => s.clientReplaced (rowOfCh f) t | none => false
  cause || (famOf (s.txFmt f) == 3 && (s.tx f).replacing && !line1)

/-- What an SDI lane sends: the client, or its replacement by SDI_REPLACE; black needs a payload ID that has been seen
since the format was set (R72). -/
def State.sdiSent (s : State) (f : Nat) (rep : Bool) : SdiOut :=
  if !rep then .client
  else if s.fld (txA f 0x204) 5 4 = 1 then .held
  else match (s.tx f).sdiId with
    | some id => .black id
    | none => .held

/-- The lanes that send a frame of framer `f`: of an OTL4.4 link all four (R46, R180). -/
def State.lanesOf (s : State) (f : Nat) : List Nat :=
  if s.txFmt f = 6 then (List.range 4).map (· + f) else [f]

/-- PRBS_SEL of an SRD, 6 and 7 acting as 0 (R405). -/
def State.prbsSel (s : State) (srd : Nat) : Nat :=
  let v := s.fld (srdA srd 0x100) 30 28
  if v < 6 then v else 0

/-- What the driver of lane `f` sends: PRBS in place of the framer's output, whatever FORMAT holds; else the frame, and
with FORMAT 0 it is off (R31, R404). -/
def State.laneOut (s : State) (f : Nat) : LaneOut :=
  match s.prbsSel (srdTx f) with
  | 0 => if s.txFmt f = 0 then .off else .frame (s.tx f).sent
  | n => .prbs n

/-- TRANSMIT_FRAME: under PRBS the framer runs and stamps no edge (R404). -/
def State.transmit (s : State) (f : Nat) (x : TxIn) : State :=
  let fam := famOf (s.txFmt f)
  let s := ((s.lanesOf f).foldl State.timingEdge s).tallyRow (rowOfCh f) (idxOf f) 5 (frameWords (s.txFmt f))
  let s := s.celRead (rowOfCh f) (Tab.get s.grants (0, 0) (108 + (rowOfCh f * 32 + idxOf f))) x.cel
  let rep := s.replacedNow f x.line1
  let s := s.slipEdge f x.fill rep
  let y := s.tx f
  let s := s.setTx f { y with replacing := rep, sdiId := if rep then y.sdiId else x.payloadId.or y.sdiId }
  let forced := s.bit (txA f 0x204) 2
  let stamp := s.txStamp (s.fld (txA f 0x700) 3 0) f
  let s := if (fam != 3 || x.line1) && s.prbsSel (srdTx f) == 0 then s.putStamp (txA f 0) stamp else s
  match fam with
  | 1 =>
    let s := s.sendSdh f (forced || rep)
    let x := s.tx f
    s.setTx f { x with sent := { x.sent with replacement := rep } }
  | 2 =>
    let s := if s.ttcRuns f && (s.tx f).mfas % 16 == 0 then s.ttcBegin f (s.txStamp (s.polFld (ttcA f 0) 7 4) f)
      else s
    s.sendOtn f forced
  | _ => s.setTx f { s.tx f with sent := { Sent.init with replacement := rep, sdi := s.sdiSent f rep,
                                                          freq := s.laneFreq f } }

end Sys2Proof.Machine
end

