-- ==== Sys2Proof/Machine/MapSend.lean ====
section
/-! DEFINITION. What a tributary sends: ODUs that it generates from a client or a group, and the ODU that it places in its
carrier (R64, R65, R72, R84 to R93, R98, R101). -/

namespace Sys2Proof.Machine

/-- The sending half of a tributary runs; the members of a group leave with their head (R84, R101). -/
def State.tMakes (s : State) (r t : Nat) : Bool :=
  match s.tMode r t with
  | 0 => false
  | 1 => s.tEgr r t
  | 4 => false
  | _ => s.tIng r t

/-- The client that an ingress half maps is in LOS or LOF, or has a FORMAT that no longer fits (R72, R86, R89). -/
def State.clientLost (s : State) (r t : Nat) : Bool :=
  let f := chanOf r (s.tChan r t)
  s.chanFails f || !s.tFits r t (s.rxFmt f)

/-- PT and vcPT of a mapping (R86). -/
def State.ptSent (s : State) (r t : Nat) : Byte × Byte :=
  let fam := famOf (s.rxFmt (chanOf r (s.tChan r t)))
  let sdi := BitVec.ofNat 8 (s.fld (mapA r 0x100) 7 0)
  if s.tMode r t = 3 then (0x06, if fam = 1 then 0x02 else sdi)
  else if s.tMethod r t = 0 then (sdi, 0)
  else if s.tMethod r t = 1 then (0x02, 0)
  else (0x03, 0)

/-- What the rate of an ODU follows (R85). -/
def State.rateRef (s : State) (r t : Nat) : RateRef :=
  let f := chanOf r (s.tChan r t)
  if s.tMode r t = 1 then .laneOf f
  else if s.tMethod r t = 2 then .clientOf f
  else if s.dialState 0 = 0 then .osc
  else .dial0

/-- Justification of a frame: GMP, AMP or none (R86, R91, R92). -/
def State.makesBy (s : State) (r t : Nat) : Nat :=
  if s.tMode r t = 1 then (if s.txFmt (chanOf r (s.tChan r t)) = 6 then 0 else 1) else s.tMethod r t

/-- Cm of a client at its nominal rate in an ODU of nominal rate (R87, R89).  DEDUCED (assumption 84). -/
def cmNominal (fmt type slots : Nat) : Nat :=
  let (n, d) := oduRate type slots
  sdiRate fmt * 15296 * d / max 1 n

/-- Cm, the sum of C1D in bits, and the bits held over; a lost client has the nominal Cm (R87, R89). -/
def State.gmpSent (s : State) (r t bits : Nat) (lost : Bool) : Nat × Nat × Int :=
  let held := (s.trib r t).held.toNat
  if lost then (cmNominal (s.rxFmt (chanOf r (s.tChan r t))) (s.tType r t) (s.actFld (tmA r t) 14 8), 0, 0)
  else ((held + bits) / 8, (held + bits) % 8, ((held + bits) % 8 : Nat))

/-- The justification control of AMP, the bytes lost or repeated, and the bits held over: one byte either way in a frame
(R91). -/
def ampSent (held drift : Int) : BitVec 2 × Nat × Int :=
  let d := held + drift
  let j : Int := if 8 ≤ d then 1 else if d ≤ -8 then -1 else 0
  let left := d - 8 * j
  let slip := left.natAbs / 8
  (if j = 1 then 1 else if j = -1 then 3 else 0, slip, if 0 ≤ left then left - 8 * slip else left + 8 * slip)

/-- A BMP frame justifies nothing: inside a carrier the ODTU absorbs the difference, and an ODU sent whole loses or
repeats bytes (R91). -/
def State.bmpSent (s : State) (r t : Nat) (drift : Int) : Nat × Int :=
  let d := (s.trib r t).held + drift
  let whole := (s.outTable (trlA 0x50000)).any (fun e =>
    decide (80 ≤ e.sink) && s.sourceOf e.row e.sink == some (r, t))
  if whole then (d.natAbs / 8, if 0 ≤ d then d - 8 * (d.natAbs / 8) else d + 8 * (d.natAbs / 8)) else (0, 0)

/-- The lanes that carry the ODU which tributary `t` generates: whole, or inside a carrier (R65). -/
def State.lanesCarrying (s : State) (r t : Nat) : List Nat :=
  ((s.outTable (trlA 0x50000)).filter (fun e => e.slot == 0 && s.sourceOf e.row e.sink == some (r, t))).filterMap
    (fun e =>
      if 80 ≤ e.sink ∧ e.sink < 112 then some (chanOf e.row (e.sink - 80))
      else if e.sink < 80 ∧ s.tMode e.row e.sink = 1 then some (chanOf e.row (s.tChan e.row e.sink))
      else none)

/-- The PM of a generated ODU leaves with the frame: the counts are taken, and the surplus goes to REI_SAT_COUNT of the
lanes that carry the ODU (R64, R65). -/
def State.takePm (s : State) (r t : Nat) : Byte × State :=
  let n := (s.trib r t).accPm
  let pm := BitVec.ofNat 8 (s.tribPm r t)
  let s := (s.lanesCarrying r t).foldl (fun s f => s.reiSat f n 8) s
  (pm, s.setTrib r t { s.trib r t with accPm := 0 })

/-- The frame of tributary `m`, which is `h` itself or a member of its group, with what the mapping of `h` gives it
(R60, R72, R101). -/
def State.makeOdu (s : State) (r h m : Nat) (sent : TribSent) : State :=
  let (pm, s) := s.takePm r m
  let x := s.trib r m
  let s := s.setTrib r m { x with sent := { sent with pm := pm, sq := if m = h then 0 else s.tSq r m } }
  s.sinksTake r m true

/-- A generated ODU, or the frames of all members of a group, which carry one MFI (R86 to R91, R101). -/
def State.makeClient (s : State) (r t : Nat) (x : TribOut) : State :=
  let y := s.trib r t
  let lost := s.clientLost r t
  let (pt, vcPt) := s.ptSent r t
  let method := s.makesBy r t
  let (cm, c1d, heldG) := s.gmpSent r t x.bits lost
  let (jc, slipA, heldA) := ampSent y.held (if lost then 0 else x.drift)
  let (slipB, heldB) := s.bmpSent r t (if lost then 0 else x.drift)
  let sent : TribSent :=
    { ais := false, oci := false, csf := lost, pt := pt, vcPt := vcPt, cm := if method = 0 then cm else 0,
      crc8 := if method = 0 then cmCrc cm else 0, c1d := if method = 0 then c1d else 0,
      crc5 := if method = 0 then c1dCrc c1d else 0, jc := if method = 1 then jc else 0, pm := 1, mfi := y.nextMfi, sq := 0,
      ctrl := 0, rate := s.rateRef r t }
  let s := s.setTrib r t { y with
    held := if method = 0 then heldG else if method = 1 then heldA else heldB, nextMfi := (y.nextMfi + 1) % 65536 }
  let s := s.mapperSlip r t (if method = 1 then slipA else if method = 2 then slipB else 0)
  let ms := if s.tMode r t = 3 then t :: s.members r t else [t]
  ms.foldl (fun s m => s.makeOdu r t m sent) s

/-- The ODU that a mode 1 tributary places in its carrier: that of its sink, ODU-AIS or ODU-OCI (R84, R92, R98). -/
def State.makeOdtu (s : State) (r t : Nat) (x : TribOut) : State :=
  let y := s.trib r t
  let gmp := s.makesBy r t = 0
  let (ais, oci, pm) : Bool × Bool × Nat := match s.feed r t with
    | .open => (false, true, 6)
    | .replaced => (true, false, 0xFF)
    | .signal q sig => if s.signalAis q sig then (true, false, 0xFF) else (false, false, s.signalPm q sig)
  let (cm, c1d, heldG) := s.gmpSent r t x.bits false
  let (jc, slip, heldA) := ampSent y.held x.drift
  let sent : TribSent := { TribSent.init with
    ais := ais, oci := oci, pm := BitVec.ofNat 8 pm, cm := if gmp then cm else 0, crc8 := if gmp then cmCrc cm else 0,
    c1d := if gmp then c1d else 0, crc5 := if gmp then c1dCrc c1d else 0, jc := if gmp then 0 else jc,
    rate := s.rateRef r t }
  (s.setTrib r t { y with held := if gmp then heldG else heldA, sent := sent }).mapperSlip r t (if gmp then 0 else slip)

/-- TRIBUTARY_FRAME of the sending half. -/
def State.makeFrame (s : State) (r t : Nat) (x : TribOut) : State :=
  if s.tMode r t = 1 then s.makeOdtu r t x else s.makeClient r t x

end Sys2Proof.Machine
end

