-- ==== Sys2Proof/Machine/MapCommands.lean ====
section
/-! DEFINITION. The commands of MAP, Trellis and the Cellar (R84 to R121). -/

namespace Sys2Proof.Machine

/-! ### Commits (R96 to R98, R110, R111, R120) -/

def trlSrc : Nat := 684

/-- A write of TRL_COMMIT with GO: BUSY sets, or the GO is ignored (R96, R97). -/
def State.trlGo (s : State) (v : Nat) : State :=
  if v % 2 = 0 then s
  else if s.bit (trlA 0x104) 4 then (s.setFld (trlA 0x104) 3 0 2).setFld (trlA 0x104) 31 16 0
  else (s.setBit (trlA 0x104) 4 true).setCommitRows (BitVec.ofNat 16 (bitsOf v 27 16))

def execTrlCommit (val : Word) (s : State) : Host.Outcome State Fault Refusal :=
  done s (s.hostTo (trlA 0x100) (fun s => s.trlGo val.toNat))

/-- STATUS and INDEX at the end of a commit (R97). -/
def State.trlResult (s : State) (status index : Nat) : State :=
  s.wrN (trlA 0x104) (status + index % 65536 * 65536)

/-- A shadow table becomes the active one. -/
def State.copyTable (s : State) (src dst : Nat) : State :=
  let kept := s.regs.filter (fun e => decide (e.1 < dst ∨ dst + 4 * trlPorts ≤ e.1))
  s.setRegs (s.regs.foldl (fun t e =>
      if src ≤ e.1 ∧ e.1 < src + 4 * trlPorts then Tab.set t 0 (e.1 - src + dst) e.2 else t) kept)

/-- IN_USED and OUT_USED (R107). -/
def State.showUsed (s : State) : State :=
  let ins := s.inTable (trlA 0x40000)
  let outs := s.outTable (trlA 0x50000)
  (List.range 12).foldl (fun s r =>
    (s.setFld (trlA (0x140 + 4 * r)) 9 0 ((ins.filter (fun e => e.row == r)).length)).setFld (trlA (0x140 + 4 * r)) 25 16
      ((outs.filter (fun e => e.row == r)).length)) s

/-- The staged registers at the given addresses differ between two states. -/
def stagedChanged (s t : State) (as : List Nat) : Bool := as.any (fun a => s.actv a != t.actv a)

def tribRegs (r t : Nat) : List Nat := [tmA r t, tmA r t + 4, tmA r t + 8]
def tsRegs (r j : Nat) : List Nat := (List.range 20).map (fun m => mapA r (0x1000 + 0x80 * j + 4 * m))

/-- The configuration of a signal or sink changed with a commit (R98). -/
def cfgChanged (s t : State) (r n : Nat) : Bool :=
  if n < 80 then
    stagedChanged s t (tribRegs r n) || (s.tMode r n == 1 && stagedChanged s t (tsRegs r (s.tChan r n))) ||
      (t.tMode r n == 1 && stagedChanged s t (tsRegs r (t.tChan r n)))
  else if n < 112 then stagedChanged s t (mapA r (0x400 + 0x40 * (n - 80)) :: tsRegs r (n - 80))
  else false

/-- What each sink does after a commit: `s` is the state before, `t` the one with the new tables (R98). -/
def State.restartSinks (s t : State) : State :=
  let sinks := ((t.outTable (trlA 0x50000)).filter (fun e => e.slot == 0)).map (fun e => (e.row, e.sink))
  let t := t.setSinkHold (t.sinkHold.filter (fun e => sinks.contains (e.1 / 128, e.1 % 128)))
  sinks.foldl (fun t e =>
    let same := s.sourceOf e.1 e.2 == t.sourceOf e.1 e.2
    let kept := decide (112 ≤ e.2) || !(cfgChanged s t e.1 e.2 ||
      (match t.sourceOf e.1 e.2 with | some (q, g) => cfgChanged s t q g | none => false))
    if same && kept then t else t.setHold e.1 e.2 2) t

/-- A tributary whose configuration changed starts anew: its detectors as at reset, its counts, program defects
and transmit bytes kept. -/
def State.tribRestart (s : State) (r t : Nat) : State :=
  let s := s.withTrib r t (fun s =>
    let x := s.trib r t
    let x' := { Trib.init with
      frameCount := x.frameCount, pdefEff := if s.tTakes r t then x.pdefEff else 0, pdefAct := x.pdefAct,
      latchBase := x.latchBase, latchTaken := x.latchTaken, secSeen := x.secSeen, slots := x.slots }
    (s.setFld (tribA r t 0) 25 0 0).setTrib r t x')
  let o := s.mapOhOf r
  let mine := (List.range 128).filter (fun e => slotCol (s.fld (ohSelA r e) 15 0) / 16 == t)
  s.setMapOh r (mine.foldl OhX.written o)

def State.restartTribs (s t : State) (rows : Nat) : State :=
  (List.range 12).foldl (fun t r =>
    if rows.testBit r then
      (List.range 80).foldl (fun t n => if stagedChanged s t (tribRegs r n) then t.tribRestart r n else t) t
    else t) t

/-- Pairs whose staged registers changed, and newly granted ones, start; a pair with formats that break R113 is
reported (R110, R113, R120). -/
def State.restartPairs (s t : State) (rows : Nat) : State :=
  (List.range 96).foldl (fun t i =>
    let named := rows.testBit (i / 8)
    let changed := stagedChanged s t [pairA i 0, pairA i 4]
    let fresh := t.granted i && Tab.get s.grants (0, 0) i != Tab.get t.grants (0, 0) i
    let t := if changed || fresh then t.mRestart i else t
    if named && changed && t.mEn i && !t.mOk i then t.raise celSrc 0x0B false (pairA i 0) else t) t

/-- Slip buffers newly granted begin at one frame; IN_USE (R124, R125). -/
def State.showSlips (s t : State) : State :=
  (List.range 384).foldl (fun t b =>
    let k := 108 + b
    let fresh := t.granted k && Tab.get s.grants (0, 0) k != Tab.get t.grants (0, 0) k
    let t := t.showInUse b
    if fresh then t.setFld (slipA b 4) 15 8 128 else t) t

/-- Groups whose deskew buffers moved, or whose region was granted or lost, declare LOA (R110, R111). -/
def State.restartDeskew (s t : State) : State :=
  (List.range 12).foldl (fun t r =>
    let moved := fun n => s.deskewPlace r n != t.deskewPlace r n || s.granted (96 + r) != t.granted (96 + r)
    (List.range 80).foldl (fun t n =>
      if (s.tPlots r n ≠ 0 ∨ t.tPlots r n ≠ 0) ∧ moved n then
        match t.headOf r n with
        | some h => (t.setTrib r h { t.trib r h with loaClear := 0 }).setLoa r h true
        | none => t
      else t) t) t

/-- ALIGNED of the heads of row `r`: LOA is clear (R106). -/
def State.showAligned (s : State) (r : Nat) : State :=
  (s.activeTribs.filter (·.1 == r)).foldl (fun s e =>
    s.setBit (tmA r e.2 + 0x10) 16 (s.tMode r e.2 == 3 && !s.bit (tribA r e.2 0) 24)) s

/-- Steps 3 and 4 of an accepted commit; `t` has the staged rows taken (R96). -/
def State.acceptCommit (s t : State) (rows : Nat) : State :=
  let t := ((t.copyTable (trlA 0x10000) (trlA 0x40000)).copyTable (trlA 0x20000) (trlA 0x50000)).showUsed
  let t := s.restartSinks t
  let t := s.restartTribs t rows
  let t := t.grantPlots
  let t := s.restartDeskew (s.showSlips (s.restartPairs t rows))
  let t := (List.range 12).foldl (fun t r => ((t.showPending r).showSizes r).showAligned r) t.allFollow
  let t := (t.trlResult 1 0).inc (trlA 0x10C)
  (t.event (trlA 0x108) 0).raise trlSrc 0x30 false rows

/-- The evaluation of the commit in progress (R96, R97). -/
def State.commitNow (s : State) : State :=
  let rows := s.commitRows.toNat
  let t := s.takeStaged rows
  match t.commitFault with
  | some (code, i) => ((s.trlResult code i).event (trlA 0x108) 1).raise trlSrc 0x31 false (code * 65536 + i)
  | none => s.acceptCommit t rows

def execCommitEvaluation (s : State) : Host.Outcome State Fault Refusal :=
  done s (if s.coreRuns && !s.inReset (trlA 0) && s.bit (trlA 0x104) 4 then s.commitNow else s)

/-! ### Tributaries (R89, R90) -/

def execTributaryFrame (r : Fin 12) (t : Fin 80) (x : TribFrame) (s : State) : Host.Outcome State Fault Refusal :=
  done s (match x with
    | .take x => if s.mapRuns r && s.tTakes r t && s.tribFed r t then s.tribFrame r t x else s
    | .make x => if s.mapRuns r && s.tMakes r t then s.makeFrame r t x else s)

/-- 200 ppm in 1/256 ppb (R90). -/
def steerLimit : Int := 51200000

/-- The steering loop sets the lane's offset: within ±200 ppm, at a value that the manual does not give
(R90). -/
def execSteeringUpdate (r : Fin 12) (t : Fin 80) (s : State) : Host.Outcome State Fault Refusal :=
  let m := s.tMode r t
  done s (if s.mapRuns r && (m == 2 || m == 3) && s.tEgr r t && s.actFld (tmA r t + 4) 2 2 == 1 then
    let (v, s) := s.draw
    s.setTrib r t { s.trib r t with steer := ((v % 102400001 : Nat) : Int) - steerLimit }
    else s)

/-! ### Merge pairs (R117 to R121) -/

/-- A frame arriving on a copy of pair `i`, when its parity is known (R117). -/
def execFingerprintLookup (i : Fin 96) (copyB : Bool) (arrival : Nat) (s : State) : Host.Outcome State Fault Refusal :=
  done s (match (s.copyFrame i copyB).2.2 with
    | some fp =>
      if s.mRuns i && !s.mSelector i && !s.inReset (chkA (fpUnit i copyB) 0) then
        (s.chkItem (fpUnit i copyB) fp.toNat).mLookup i copyB { fp := fp, at_ := arrival, valid := s.frameValid i copyB }
          (framePs (s.rxFmt (s.mChanA i)) / 1000)
      else s
    | none => s)

/-- A frame of the merge output, which arrived at `arrival` on the timing of the later copy (R118 to R120). -/
def execPerFrameDecision (i : Fin 96) (arrival : Nat) (cel : CelIn) (s : State) : Host.Outcome State Fault Refusal :=
  done s (if s.mRuns i then
    let v := s.judged i arrival
    (s.celRead (i.val / 8) (Tab.get s.grants (0, 0) i) cel).mDecide i v.1 v.2
    else s)

/-- Both copies have been valid for 1 s without alignment (R117). -/
def execNoMatch (i : Fin 96) (s : State) : Host.Outcome State Fault Refusal :=
  let due := match (s.pair i).validSince with | some t => decide (t + secNs ≤ s.now) | none => false
  done s (if s.mRuns i && !s.mSelector i && !s.mAligned i && due && !s.bit (pairA i 0xC) 4 then
    ((s.setBit (pairA i 0xC) 4 true).mEvent i 4).raise celSrc 0x3B false i
    else s)

end Sys2Proof.Machine
end

