-- ==== Sys2Proof/Machine/QdmCommands.lean ====
section
/-! DEFINITION. The commands of QDR memory: retraining, scrubbing, repair, BAR4 (R268, R372 to R383). -/

namespace Sys2Proof.Machine

/-- How long a port retrains: at most 2 µs, modelled as 2 µs (assumption 20). -/
def retrainNs : Nat := 2 * usNs

def State.retrain (s : State) (d p : Nat) : State :=
  s.setQdm { s.qdm with retraining := Tab.set s.qdm.retraining 0 (2 * d + p) (s.now + retrainNs) }

/-- 50 ms have passed since the port last began to retrain (R372). -/
def State.retrainDue (s : State) (d p : Nat) : Bool :=
  decide (Tab.get s.qdm.retraining 0 (2 * d + p) + 50 * msNs ≤ s.now + retrainNs)

def execQdrRetrain (dev : Fin 8) (portB : Bool) (s : State) : Host.Outcome State Fault Refusal :=
  done s (if s.qdrUp && s.retrainDue dev.val portB.toNat then s.retrain dev.val portB.toNat else s)

/-- Bytes of codeword `cw` are found in error from now on. -/
def State.addErrs (s : State) (cw : Nat) (es : List (Fin 72)) : State :=
  s.setErrs cw (es.foldl (fun l e => if l.contains e.val then l else l ++ [e.val]) (s.cwErrs cw))

/-- The next codeword of the scrub: read through port B, written back if it was corrected; a full pass
counts (R378).  `errBytes` are the bytes that the device gives back wrong. -/
def State.scrub (s : State) (errBytes : List (Fin 72)) : State :=
  let cw := s.qdm.scrubNext
  let s := s.addErrs cw errBytes
  let bad := s.cwBad cw
  let s := (s.cwRead cw 1).tallyQdm (deviceOf cw) 6 1
  let s := if bad then s else s.setErrs cw []
  let s := s.setQdm { s.qdm with scrubNext := (cw + 1) % 2 ^ 21, scrubAt := some s.now }
  if cw + 1 = 2 ^ 21 then s.inc (qdmA 0x118) else s

/-- The next scrub read is due: 2^21 of them are spread over SCRUB_PERIOD_S, of which 0 acts as 1 (R378, R385). -/
def State.scrubDue (s : State) : Bool :=
  match s.qdm.scrubAt with
  | none => true
  | some t => decide (t + max 1 (s.fld (qdmA 0x100) 31 16) * secNs / 2 ^ 21 ≤ s.now)

def execScrubRead (errBytes : List (Fin 72)) (s : State) : Host.Outcome State Fault Refusal :=
  done s (if s.qdrUp && s.bit (qdmA 0x100) 0 && s.scrubDue then s.scrub errBytes else s)

/-- REPAIR.GO: zero data and valid check bytes (R376). -/
def State.repair (s : State) : State :=
  let cw := s.fld (qdmA 0x110) 26 6
  let s := s.cwWriteWhole cw (List.replicate 64 0)
  (s.event (qdmA 0x108) 4).raise 664 0xD4 false (64 * cw)

def execRepair (s : State) : Host.Outcome State Fault Refusal := done s (s.hostTo (qdmA 0x114) (fun s => if s.qdrUp then s.repair else s))

/-- DEV_CTRL.PIN_ERR_CLR clears PIN_ERR_A and PIN_ERR_B (R385). -/
def State.pinErrClr (s : State) (d : Nat) : State :=
  (((s.wrN (devA d 0x08) 0).wrN (devA d 0x0C) 0).wrN (devA d 0x10) 0).wrN (devA d 0x14) 0

def execPinErrClr (dev : Fin 8) (s : State) : Host.Outcome State Fault Refusal :=
  done s (s.hostTo (devA dev.val 0x28) (fun s => s.pinErrClr dev.val))

/-! ### BAR4 (R268, R376, R380, R383) -/

/-- A read of 1 to 8 bytes within one aligned 8-byte unit (R265). -/
def readShapeOk (off len : Nat) : Bool := decide (1 ≤ len ∧ off % 8 + len ≤ 8)

/-- A BAR4 write that acts: aligned, of 2, 4 or 8 bytes. -/
def bar4WriteShapeOk (off len : Nat) : Bool := (len == 2 || len == 4 || len == 8) && off % len == 0

/-- QDR byte address of BAR4 offset `o`. -/
def State.bar4Addr (s : State) (o : Nat) : Nat := s.fld (hifA 0x130) 2 0 * 2 ^ 24 + o

def State.badShapeRead (s : State) (detail : Nat) : State := (s.emit .unsupportedRequest).accessShape detail

/-- Detail of a report about a BAR offset (R282). -/
def barDetail (off : Nat) : Nat := 2 ^ 31 + off

def State.bar4ReadNow (s : State) (off len : Nat) : State :=
  let s := s.tallyHif 5 1
  if !readShapeOk off len then s.badShapeRead (barDetail off)
  else if !s.qdrUp then (s.emit (.readData (List.replicate len 0))).hifReport 0x81 (barDetail off)
  else
    let a := s.bar4Addr off
    let (bs, s) := (s.cwRead (codewordOf a) 0).asRead a len
    s.emit (.readData bs)

def execBar4Read (off : BitVec 24) (len : Nat) (s : State) : Host.Outcome State Fault Refusal :=
  done s (if s.hostReaches then s.bar4ReadNow off.toNat len else s)

def State.bar4WriteNow (s : State) (off : Nat) (data : List Byte) : State :=
  let s := s.tallyHif 5 1
  if !bar4WriteShapeOk off data.length then s.accessShape (barDetail off)
  else if !s.qdrUp then s.hifReport 0x81 (barDetail off)
  else
    let a := s.bar4Addr off
    if s.bit (qdmA 0x10C) (qdrRegion a) then s.cwWrite 0 a data else s.accessShape (barDetail off)

def execBar4Write (off : BitVec 24) (data : List Byte) (s : State) : Host.Outcome State Fault Refusal :=
  done s (if s.hostReaches then s.bar4WriteNow off.toNat data else s)

end Sys2Proof.Machine
end

