-- ==== Sys2Proof/Machine/RxCommands.lean ====
section
/-! DEFINITION. The commands of the receive framers and the one-second latches
(R30 to R51, R67, R70, R71, R76 to R79, R423). -/

namespace Sys2Proof.Machine

/-! ### Format and hunting -/

def execFormatChange (f : Chan) (fmt : BitVec 4) (s : State) : Host.Outcome State Fault Refusal :=
  done s (s.hostTo (rxA f 0x100) (fun s => s.rxFormatWrite f fmt.toNat))

def execRehunt (f : Chan) (s : State) : Host.Outcome State Fault Refusal :=
  done s (s.hostTo (rxA f 0x104) (fun s => s.rehunt f))

/-- Hunter `p` judges matches: hunting, not held by LOS or by a wrong configuration, with a mask (R31, R33, R36). -/
def State.hunts (s : State) (f p : Nat) : Bool :=
  let h := s.hunter f p
  (h.state == .hunt || h.state == .ambiguous) && !h.heldByLos && !h.cfgBad && h.mask != 0

/-- HUNT_MATCH: what the line brings at bit `pos` of a hunter.  A hunter of OTL4.4 that is in frame looks at its
expected positions only (R33, R37, R47, R51). -/
def State.lineMatch (s : State) (f p pos : Nat) (x : MatchIn) : State :=
  let h := s.hunter f p
  let s := if famOf (s.rxFmt f) = 3 && s.patternAt f p x.window && xyzValid (s.streams f) x.xyz then s.trsSeen f pos
    else s
  let s := if s.hunts f p then s.withDefects f (fun s => s.huntMatch f p pos x)
    else if s.rxFmt f = 6 && h.state == .inFrame && pos == h.next then
      s.withDefects f (fun s => s.patternSeen f p (s.patternAt f p x.window))
    else s
  (s.showFrame f).groupCheck f

def execHuntMatch (f : Chan) (phase : Fin 5) (pos : Nat) (x : MatchIn) (s : State) : Host.Outcome State Fault Refusal :=
  done s (if s.rxRuns f && (phasesOf (s.rxFmt f)).contains phase.val && s.rxFmt f != 0 then s.lineMatch f phase pos x
    else s)

def execHuntWindowEnd (f : Chan) (phase : Fin 5) (s : State) : Host.Outcome State Fault Refusal :=
  done s (if s.rxRuns f && (phasesOf (s.rxFmt f)).contains phase.val && s.hunts f phase then
    ((s.withDefects f (fun s => s.windowEnd f phase)).showFrame f).groupCheck f
    else s)

/-! ### Frames -/

/-- Sinks fed with the ODU of framer `f` take a frame, whole where it is IN_FRAME (R98). -/
def State.oduFrame (s : State) (f : Nat) : State :=
  if famOf (s.rxFmt f) = 2 then s.sinksTake (rowOfCh f) (80 + idxOf f) (s.framer f).mark.1.not else s

def execDeliveredFrame (f : Chan) (x : FrameIn) (s : State) : Host.Outcome State Fault Refusal :=
  done s (if s.rxDelivers f then ((s.rxFrame f x).takeFp f x).oduFrame f else s)

def execFlywheelFrame (f : Chan) (s : State) : Host.Outcome State Fault Refusal :=
  done s (if s.rxFlies f then (s.withDefects f (fun s => s.flyFrame f)).oduFrame f else s)

/-! ### Loss of frame, of multiframe, of lane (R42, R44, R47) -/

/-- OOF time of hunter `p` has come to LOF_TIME (R42). -/
def State.lofDue (s : State) (f p : Nat) : Bool :=
  let h := s.hunter f p
  s.rxRuns f && s.rxFmt f != 0 && h.oof && decide (s.lofTime f ≤ h.lofAcc + (s.now - h.oofSince))

/-- LOF of the framer; in OTL4.4 that of the reassembled OTU4, at the lead (R42, R48). -/
def execLof (f : Chan) (_phase : Fin 5) (s : State) : Host.Outcome State Fault Refusal :=
  let p := lofKey (s.rxFmt f)
  done s (if s.lofDue f p && !s.rawBit f 2 && (p == 0 || f.val % 4 == 0) then
    s.withDefects f (fun s => s.setLof f true)
    else s)

def execLofClear (f : Chan) (phase : Fin 5) (s : State) : Host.Outcome State Fault Refusal :=
  let p := lofKey (s.rxFmt f)
  done s (s.withDefects f (fun s =>
    let s := if p = 5 then s.clearLof f phase else s
    if p = 0 ∨ f.val % 4 = 0 then s.clearLof f p else s))

def execLoflane (f : Chan) (phase : Fin 5) (s : State) : Host.Outcome State Fault Refusal :=
  done s (if s.rxFmt f == 6 && s.lofDue f phase && !(s.framer f).loflane.contains phase.val then
    s.withDefects f (fun s => s.setLofOf f phase true)
    else s)

/-- The multiframe machine that declares LOM is not suspended (R44). -/
def State.mfLive (s : State) (f : Nat) : Bool :=
  s.rxRuns f && famOf (s.rxFmt f) == 2 && !(s.hunter f (lofKey (s.rxFmt f))).oof

def execLom (f : Chan) (s : State) : Host.Outcome State Fault Refusal :=
  done s (if s.mfLive f then s.withDefects f (fun s => s.lomState f) else s)

/-! ### OTL4.4 and SDI measurement (R48, R51) -/

/-- Reassembly begins with a deskew: LOL and the OOF of the OTU4 end, and its multiframe machines start in OOM
(R48). -/
def State.reassemble (s : State) (lead : Nat) : State :=
  let s := (s.setRaw lead 4 false).endOof lead 5
  let s := s.setHunter lead 5 { s.hunter lead 5 with fly := some 0 }
  let x := s.framer lead
  (s.setFramer lead { x with mf := Mf.init, omfi := Mf.init, firstIn := true, hist := [], lolFault := false,
                             skewRef := x.skewArr }).carriedAlign lead

def execOtlReassembly (f : Chan) (arr : List Nat) (s : State) : Host.Outcome State Fault Refusal :=
  let lead := leadOf f
  done s (if s.rxRuns lead && decide (f.val < 192) && s.groupFramed lead && s.lanesComplete lead then
    let s := s.measureSkew lead arr
    (if !skewOk arr then s.declareLol lead false
     else if s.rawBit lead 4 then s.withDefects lead (fun s => s.reassemble lead)
     else s).showFrame lead
    else s)

/-- EAV_SPACING_TIMEOUT: 4,194,304 bits have passed without a qualified TRS; `pos` is the last of them (R51). -/
def execEavSpacingTimeout (f : Chan) (pos : Nat) (s : State) : Host.Outcome State Fault Refusal :=
  let last := (s.framer f).trsSeen
  done s (if s.rxRuns f && famOf (s.rxFmt f) == 3 && decide (last ≠ 0 ∧ last + 4194304 ≤ pos + 1) then
    (s.setBit (rxA f 0x1B4) 31 false).setFramer f { s.framer f with trsSeen := 0 }
    else s)

/-! ### Loss of signal (R28, R67) -/

/-- What LOS detection has seen since `since` has lasted the time that LOS_CTRL gives at `lo`; what came before
detection started, or before LOS last changed, does not count (R67, R423). -/
def State.losLasted (s : State) (f since lo : Nat) : Bool :=
  decide (max since (s.framer f).detSince + s.fld (rxA f 0x200) (lo + 9) lo * usNs ≤ s.now)

def State.restartLos (s : State) (f : Nat) : State := s.setFramer f { s.framer f with detSince := s.now }

/-- LOS: signal detect low, or too few transitions, since `since`. -/
def execLos (f : Chan) (since : Nat) (s : State) : Host.Outcome State Fault Refusal :=
  done s (if s.rxRuns f && s.rxFmt f != 0 && !s.rawBit f 0 && s.losLasted f since 0 then
    let s := ((s.declareLos f).restartLos f).setFld (srdA (srdRx f) 0x104) 1 0 0
    s.setTx f { s.tx f with backDue := false }
    else s)

/-- LOS_CLEAR: signal detect high with transitions since `since`. -/
def execLosClear (f : Chan) (since : Nat) (s : State) : Host.Outcome State Fault Refusal :=
  done s (if s.rxRuns f && s.rawBit f 0 && s.losLasted f since 16 then
    ((s.clearLos f).restartLos f).setBit (srdA (srdRx f) 0x104) 0 true
    else s)

/-! ### Program defects and degrade (R70, R71) -/

/-- A write of PDEF of framer `f` (R71). -/
def State.pdefRx (s : State) (f v : Nat) : State :=
  let s := s.setFld (rxA f 0x238) 7 0 v
  if s.rxFmt f = 0 || s.rxEdges f then s else s.withDefects f (fun s => s.pdefEdge f)

/-- A write of PDEF of tributary `t`; at once while it has no frame edges (R71). -/
def State.pdefTrib (s : State) (r t v : Nat) : State :=
  let s := s.setFld (tribA r t 0xC) 7 0 v
  if s.tTakes r t && !s.tribEdges r t then s.withTrib r t (fun s => s.pdefTribEdge r t) else s

def siteA : DefectSite → Nat
  | .framer f => rxA f 0x238
  | .trib r t => tribA r t 0xC

def State.pdefSite (s : State) (site : DefectSite) (v : Nat) : State :=
  match site with
  | .framer f => s.pdefRx f v
  | .trib r t => s.pdefTrib r t v

def execPdef (site : DefectSite) (val : Byte) (s : State) : Host.Outcome State Fault Refusal :=
  done s (s.hostTo (siteA site) (fun s => s.pdefSite site val.toNat))

/-- A half of a detector ends a window that has all its frames (R70). -/
def State.rxDegEnd (s : State) (f i : Nat) (sf : Bool) : State :=
  let x := s.framer f
  let k := 2 * i + sf.toNat
  let d := s.degDue (State.degA f i + 0xC * sf.toNat) (Tab.get x.deg Deg.init k)
  (s.setFramer f { x with deg := Tab.set x.deg Deg.init k d }).rxShowDeg f

def State.tribDegEnd (s : State) (r t : Nat) (sf : Bool) : State :=
  let x := s.trib r t
  let k := 2 + sf.toNat
  let d := s.degDue (tribA r t (0x40 + 0xC * sf.toNat)) (Tab.get x.deg Deg.init k)
  (s.setTrib r t { x with deg := Tab.set x.deg Deg.init k d }).tribShowDeg r t

def execDegradeWindowEnd (site : DefectSite) (i : Fin 2) (sf : Bool) (s : State) : Host.Outcome State Fault Refusal :=
  done s (match site with
    | .framer f => if s.rxRuns f && s.rxFmt f != 0 then s.withDefects f (fun s => s.rxDegEnd f i sf) else s
    | .trib r t =>
      if s.mapRuns r && s.tTakes r t && i == 1 then s.withTrib r t (fun s => s.tribDegEnd r t sf) else s)

/-! ### One-second latches (R76 to R79) -/

/-- The counters that a receive framer latches: key, value, modulus. -/
def State.latchCounters (s : State) (f : Nat) : List (Nat × Nat × Nat) :=
  (List.range 6).map (fun i => (i, s.nat (rxA f (0x280 + 4 * i)), 2 ^ 32)) ++
    [(6, s.nat48 (rxA f 0x178) (rxA f 0x17C), 2 ^ 48), (7, s.nat48 (rxA f 0x188) (rxA f 0x18C), 2 ^ 48)] ++
    (List.range 64).map (fun k => (16 + k, s.nat (rxA f (0x300 + 4 * k)), 2 ^ 32))

/-- Increase of a counter since the boundary before. -/
def latchDelta (base : Tab Nat) (e : Nat × Nat × Nat) : Nat := (e.2.1 + e.2.2 - Tab.get base 0 e.1) % e.2.2

/-- The boundary's values as the next second's base. -/
def latchRebase (base : Tab Nat) (es : List (Nat × Nat × Nat)) : Tab Nat :=
  es.foldl (fun t e => Tab.set t 0 e.1 e.2.1) base

/-- Register that counter `k` is latched into. -/
def latchReg (k : Nat) : Nat :=
  if k < 6 then 0x508 + 4 * k else if k = 6 then 0x520 else if k = 7 then 0x524 else 0x600 + 4 * (k - 16)

/-- The latch of a receive framer (R77); a framer with FORMAT 0 takes none (R76). -/
def State.latchRx (s : State) (sec : Nat) (step : Bool) (f : Nat) : State :=
  let x := s.framer f
  let es := s.latchCounters f
  let x' := { x with latchBase := latchRebase x.latchBase es, secSeen := s.rd (rxA f 0x208) }
  if !s.rxRuns f then s
  else if s.rxFmt f = 0 then s.setFramer f x'
  else
    let otn := famOf (s.rxFmt f) = 2
    let s := (s.inc (rxA f 0x500)).wrN (rxA f 0x504) sec
    let s := es.foldl (fun s e =>
      let d := latchDelta x.latchBase e
      s.wrN (rxA f (latchReg e.1)) (if e.1 = 6 ∨ e.1 = 7 then (if otn then min d (2 ^ 32 - 1) else 0) else d)) s
    let s := s.wr (rxA f 0x528) x.secSeen
    let s := s.wrN (rxA f 0x52C) (step.toNat + 2 * (!x.latchTaken).toNat)
    let s := s.setFramer f { x' with latchTaken := true }
    let words := (List.range 12).flatMap (fun i => wordPair (s.nat (rxA f (0x500 + 4 * i))))
    (s.rxPublish f 4 (some (sec * secNs * 65536)) words).2

/-- The latch of a MAP tributary (R77, R106). -/
def State.latchTrib (s : State) (sec : Nat) (step : Bool) (r t : Nat) : State :=
  let x := s.trib r t
  let es := (List.range 3).map (fun i => (i, s.nat (tribA r t (0x60 + 4 * i)), 2 ^ 32))
  let s := (s.inc (tribA r t 0xA0)).wrN (tribA r t 0xA4) sec
  let s := es.foldl (fun s e => s.wrN (tribA r t (0xA8 + 4 * e.1)) (latchDelta x.latchBase e)) s
  let s := s.wr (tribA r t 0xB4) x.secSeen
  let s := s.wrN (tribA r t 0xB8) (step.toNat + 2 * (!x.latchTaken).toNat)
  s.setTrib r t { x with latchBase := latchRebase x.latchBase es, secSeen := s.rd (tribA r t 4), latchTaken := true }

/-- A second boundary of dial 0 has been crossed that no latch has taken; a time step crosses none (R76, R79). -/
def State.latchDue (s : State) : Bool := decide ((s.dial 0).latchSec < s.dialNs 0 / secNs)

/-- ONE_SECOND_LATCH at a second boundary of dial 0 (R76). -/
def State.latchAll (s : State) : State :=
  let sec := s.dialNs 0 / secNs
  let step := (s.dial 0).stepped
  let s := (List.range 384).foldl (fun s f => s.latchRx (sec % 2 ^ 48) step f) s
  let s := (List.range 12).foldl (fun s r =>
    if s.mapRuns r then (List.range 80).foldl (fun s t => s.latchTrib sec step r t) s else s) s
  s.setDial 0 { s.dial 0 with stepped := false, latchSec := sec }

def execOneSecondLatch (s : State) : Host.Outcome State Fault Refusal :=
  done s (if s.coreRuns && s.sundialRuns && s.latchDue then s.latchAll else s)

/-! ### Block reset of a receive framer (R296, R423) -/

/-- The start of the reset: detectors and their registers as at reset, with no events or reports. -/
def State.rxResetStart (s : State) (f : Nat) : State :=
  let s := s.losOver f
  let s := s.setFramer f { (s.framer f).cleared with hunters := s.freshHunters f (s.rxFmt f) true, frameCount := 0 }
  let s := ((((s.wrN (rxA f 0x204) 0).wrN (rxA f 0x208) 0).wrN (rxA f 0x128) 0).wrN (rxA f 0x12C) 0).wrN (rxA f 0x20C) 0
  let s := (s.clearRegs (rxA f 0x210) (rxA f 0x228)).clearRegs (rxA f 0x190) (rxA f 0x194)
  (s.clearRegs (rxA f 0x198) (rxA f 0x19C)).carriedFollow f

/-- On leaving reset: HUNT, with OOF and LOF set at once; LOS detection restarts (R423). -/
def State.rxResetEnd (s : State) (f : Nat) : State :=
  if s.rxFmt f = 0 then s
  else
    let s := s.withDefects f (fun s => ((s.pdefEdge f).restartLos f).startHunt f)
    (s.showFrame f).groupCheck f

end Sys2Proof.Machine
end

