-- ==== Sys2Proof/Machine/SdlCommands.lean ====
section
/-! DEFINITION. Commands of Sundial: reference edges and losses, window boundaries, dial states and loops,
time, output generators, time-transfer messages (R133 to R147, R167 to R188). -/

namespace Sys2Proof.Machine

/-! ### Time steps and captures (R174, R175) -/

/-- A change of dial time by `d`, in 2^-16 ns, with all that it brings (R175). -/
def State.timeStep (s : State) (n : Nat) (d : Int) : State :=
  if d = 0 then s
  else
    let u := ((s.dialUnits n : Nat) : Int) + d * unitsPerSub
    let s := (s.setDialUnits n (if 0 ≤ u then u.toNat else 0)).tallySdl n 5 1
    let ns := unsignedOf 32 (clampInt (-(2 ^ 31)) (2 ^ 31 - 1) (Int.tdiv d 65536))
    let s := ((((s.inc (dialA n 0xE4)).wrN (dialA n 0xE8) ns).event (dialA n 0xEC) 0).raise (128 + n) 0x55 false ns)
    let s := s.setDial n { s.dial n with sec := s.dialNs n / secNs }
    let s := if n = 0 then s.setDial 0 { s.dial 0 with stepped := true, latchSec := s.dialNs 0 / secNs } else s
    let s := s.setTwn { s.twn with stepFlag := if s.twn.stepFlag.contains n then s.twn.stepFlag else n :: s.twn.stepFlag }
    (List.range 96).foldl (fun s g =>
      let x := s.gen g
      let s := if x.level ∧ x.fallDial = n then s.setGen g { x with fall := (x.fall.1 + d * x.fall.2, x.fall.2) } else s
      if s.genDial g = n then s.genFollow g true 0 else s) s

/-- CAP takes the dial's time (R174). -/
def State.captureDial (s : State) (n : Nat) : State := (s.putTs (dialA n 0xC4) (s.dialSub n)).inc (dialA n 0xD0)

def execCapture (n : Fin 16) (s : State) : Host.Outcome State Fault Refusal :=
  done s (s.hostTo (dialA n.val 0xC0) (fun s => s.captureDial n.val))

def State.captureAll (s : State) : State := (List.range 16).foldl (fun s n => s.captureDial n) s

def execTimeCaptureAll (s : State) : Host.Outcome State Fault Refusal :=
  done s (s.hostTo (sdlA 0x120) (fun s => s.captureAll))

def State.timeSetArm (s : State) (n : Nat) : State :=
  (s.setDial n { s.dial n with setArmed := some s.sdlNow }).setBit (dialA n 0xC0) 8 true

def State.timeAdjArm (s : State) (n : Nat) : State :=
  (s.setDial n { s.dial n with adjArmed := some s.sdlNow }).setBit (dialA n 0xC0) 9 true

def execTimeSet (n : Fin 16) (s : State) : Host.Outcome State Fault Refusal :=
  done s (s.hostTo (dialA n.val 0xC0) (fun s => s.timeSetArm n.val))

def execTimeAdj (n : Fin 16) (s : State) : Host.Outcome State Fault Refusal :=
  done s (s.hostTo (dialA n.val 0xC0) (fun s => s.timeAdjArm n.val))

/-- An action armed at `t` applies at a second boundary at instant `at_`, in 2^-16 ns of Sundial's time: it falls at least
1 ms after the write (R175). -/
def armDue (t : Option Nat) (at_ : Int) : Bool :=
  match t with | some t => decide (((t + msNs) * 65536 : Nat) ≤ at_) | none => false

/-- When dial `n` carried `x`, in 2^-16 ns of its time, at the frequency it has now (R174). -/
def State.instantOf (s : State) (n : Nat) (x : Int) : Int :=
  let d := s.dial n
  (d.since * 65536 : Nat) + (x * unitsPerSub - d.timeU) / (unitsPerSub + d.y)

/-- A second in 2^-16 ns. -/
def secSub : Nat := secNs * 65536

/-- The time that SET_LO, SET_MID and SET_HI hold, in 2^-16 ns (R174, R175). -/
def State.setTime (s : State) (n : Nat) : Nat :=
  let lo := s.nat (dialA n 0xD4)
  let mid := s.nat (dialA n 0xD8)
  let hi := s.nat (dialA n 0xDC)
  let sec := bitsOf mid 31 16 + bitsOf hi 15 0 * 2 ^ 16 + bitsOf hi 31 16 * 2 ^ 32
  let ns := bitsOf lo 31 16 + bitsOf mid 13 0 * 2 ^ 16
  (sec * secNs + ns) * 65536 + bitsOf lo 15 0

/-- DIAL_SECOND_BOUNDARY: the dial has come to a new second; the armed actions apply to the time of the boundary, in order,
SET and then ADJ (R175). -/
def State.secondBoundary (s : State) (n : Nat) : State :=
  let d := s.dial n
  let sec := s.dialNs n / secNs
  if sec ≤ d.sec then s
  else
    let cur : Int := (sec * secSub : Nat)
    let at_ := s.instantOf n cur
    let set := armDue d.setArmed at_
    let adj := armDue d.adjArmed at_
    let t : Int := if set then (s.setTime n : Nat) else cur
    let t := if adj then t + s.int (dialA n 0xE0) * 256 else t
    let s := s.setDial n { d with sec := sec, setArmed := if set then none else d.setArmed,
                                  adjArmed := if adj then none else d.adjArmed }
    let s := if set then s.setBit (dialA n 0xC0) 8 false else s
    let s := if adj then s.setBit (dialA n 0xC0) 9 false else s
    let s := if n = 0 ∧ s.bit (invA 0x100) 8 ∧ !s.inReset (invA 0) then s.snapAsk 0 else s
    s.timeStep n (t - cur)

def execDialSecondBoundary (n : Fin 16) (s : State) : Host.Outcome State Fault Refusal :=
  done s (if s.sundialRuns then s.secondBoundary n.val else s)

/-! ### Reference edges (R133 to R135, R138, R167, R168) -/

/-- Distance of `x` from the nearest grid instant, in [−G/2, G/2), for G = a/b (R168). -/
def gridErr (x : Int) (a b : Nat) : Int :=
  let r := (x * b) % a
  (if (a : Int) ≤ 2 * r then r - a else r) / b

/-- Grid period of a reference; the field period of a black burst where `field` (R167). -/
def State.refGrid (s : State) (r : Nat) (field : Bool) : Option (Nat × Nat) :=
  match s.refKind r with
  | 1 => if field then some (20 * msNs * 65536, 1) else s.refPeriod r
  | 2 => if field then some (1001 * secNs * 65536, 60000) else s.refPeriod r
  | 4 => some (secNs * 65536, 1)
  | 10 => some (secNs * 65536, 1)
  | _ => s.refPeriod r

/-- The first error after a selection of reference `r` is taken on a vertical mark (R167). -/
def State.needsMark (s : State) (n r : Nat) : Bool :=
  (s.refKind r == 1 || s.refKind r == 2) && s.polFld (dialA n 0x80) 28 28 == 1

/-- A raw error of dial `n` from a valid edge at `te` (R168). -/
def State.dialEdge (s : State) (n r te : Nat) (mark : Bool) : State :=
  let d := s.dial n
  let first := d.lastRaw.isNone
  if first && s.needsMark n r && !mark then s
  else
    match s.refGrid r (first && s.needsMark n r) with
    | none => s
    | some (a, b) =>
      let x := s.dialAt n te - signedOf 32 (s.pol (refA r 0x60)).toNat * 256
      let w := gridErr x a b
      let raw := match d.lastRaw with
        | none => w
        | some l => w + divNear ((l - w) * b) a * a / b
      s.setDial n { d with lastRaw := some raw, rawSum := d.rawSum + raw, rawN := d.rawN + 1 }

/-- The dial follows its reference: ACQUIRING or LOCKED, not in hold-off (R146). -/
def State.follows (s : State) (n r : Nat) : Bool :=
  s.selRef n == r && (s.dialState n == 1 || s.dialState n == 2) && !s.bit (dialA n 0x10) 3

/-- Valid edges resume after LOSS (R138). -/
def State.resumeRef (s : State) (r : Nat) : State :=
  let x := s.ref r
  let brief := x.qualBefore && decide (s.sdlNow ≤ x.quietSince + s.polFld (refA r 0x14) 15 0 * msNs)
  s.setQNow r (if brief then 3 else 2)

/-- A valid edge (R133). -/
def State.goodEdge (s : State) (r te : Nat) (mark : Bool) : State :=
  let s := (s.setRef r { s.ref r with lastEdge := some te }).tallySdl r 2 1
  let s := if s.qstate r = 1 then s.resumeRef r else s
  let s := (s.setRef r { s.ref r with quietSince := s.sdlNow }).setBit (refA r 0x18) 4 true
  (List.range 16).foldl (fun s n => if s.follows n r then s.dialEdge n r te mark else s) s

/-- `te` lies within ±T/8 of a whole number of periods, at least one, after `last` (R133). -/
def edgeFits (last te a b : Nat) : Bool :=
  let d := (te - last) * b
  let k := (2 * d + a) / (2 * a)
  decide (1 ≤ k ∧ 8 * d ≤ 8 * k * a + a ∧ 8 * k * a ≤ 8 * d + a)

/-- An edge of reference `r` reaches Sundial (R133). -/
def State.refEdge (s : State) (r te : Nat) (mark : Bool) : State :=
  if s.qstate r = 0 ∨ s.qstate r = 6 then s
  else match (s.ref r).lastEdge, s.refPeriod r with
    | some last, some (a, b) => if edgeFits last te a b then s.goodEdge r te mark else (s.inc (refA r 0x28)).tallySdl r 3 1
    | none, some _ => s.goodEdge r te mark
    | _, none => s

/-- A rising edge of a digital input whose level was low for `low` before it and is high for `high` after it, in ns: pulses
shorter than GLITCH_NS are removed, so the edge counts where the filtered level was low and the new level lasts (R132). -/
def State.glitchPass (s : State) (r low high : Nat) : Bool × State :=
  let g := s.polFld (refA r 0) 15 8
  let x := s.ref r
  let wasLow := !x.high || decide (g ≤ low)
  (wasLow && decide (g ≤ high), s.setRef r { x with high := decide (g ≤ high) || !wasLow })

/-- The next edge of a software reference's own train, which `te` only starts (R135). -/
def State.swEdge (s : State) (r te : Nat) : State :=
  let x := s.ref r
  let p := x.swNext.getD te
  if s.qstate r = 0 ∨ s.qstate r = 1 ∨ s.qstate r = 6 ∨ s.sdlNow * 65536 + 65535 < p then s
  else (s.setRef r { x with swNext := some (p + swPeriod x.swApplied) }).refEdge r p false

/-- REFERENCE_EDGE, at `time` in 2^-16 ns since power-on.  Edges of analog inputs come with EDGE_DELIVERY.  A digital edge is
timed to 1/64 of a SUNDIAL_CLK cycle (1,280 of 2^-16 ns), less its input latency; a tap's to the cycle
(R132, R134, R135, R167; assumption 85). -/
def State.referenceEdge (s : State) (r time low high : Nat) : State :=
  let te := min (s.toSdl time) (s.sdlNow * 65536 + 65535)
  if r < 16 then s
  else if r < 64 then
    match s.glitchPass r low high with
    | (true, s) => s.refEdge r (te / 1280 * 1280 - (Config.fuse (refA r 0)).toNat) false
    | (false, s) => s
  else if r < 80 then (if s.tapLost r then s else s.refEdge r (te / 81920 * 81920) false)
  else s.swEdge r te

def execReferenceEdge (ref : Fin 84) (time low high : Nat) (s : State) : Host.Outcome State Fault Refusal :=
  done s (if s.sundialRuns then s.referenceEdge ref.val time low high else s)

/-- The condition of LOSS holds (R133 to R135). -/
def State.lossDue (s : State) (r : Nat) : Bool :=
  let q := s.qstate r
  q != 0 && q != 1 && q != 6 &&
    (if r < 64 then decide ((s.ref r).quietSince + max 1 (s.polFld (refA r 0x10) 23 0) * usNs ≤ s.sdlNow)
     else if r < 80 then s.tapLost r
     else decide ((s.ref r).swAt + max 1 (s.polFld (refA r 0x4C) 15 0) * msNs ≤ s.sdlNow))

def execLoss (ref : Fin 84) (s : State) : Host.Outcome State Fault Refusal :=
  done s (if s.sundialRuns && s.lossDue ref.val then s.setQNow ref.val 1 else s)

def execSwTimeout (k : Fin 4) (s : State) : Host.Outcome State Fault Refusal :=
  done s (if s.sundialRuns && s.lossDue (80 + k.val) then s.setQNow (80 + k.val) 1 else s)

/-! ### Software references (R135, R362) -/

/-- A feed of the twin link owns software reference 80 + `k` (R362). -/
def State.swFed (s : State) (k : Nat) : Bool :=
  s.fld (topA 0x320) 1 0 == 2 && (List.range 16).any (fun n =>
    s.bit (twnA (0x200 + 4 * n)) 4 && s.fld (twnA (0x200 + 4 * n)) 9 8 == k)

/-- An update is accepted (R135). -/
def State.swAccept (s : State) (r : Nat) (freq adj : Int) : State :=
  let x := s.ref r
  let sum := match x.swPending with | some (_, a) => a | none => 0
  let s := s.setRef r { x with swPending := some (freq, sum + adj), swAt := s.sdlNow }
  if s.qstate r = 1 then (s.swCatchUp r).resumeRef r else s

/-- SW_UPDATE.GO (R135). -/
def State.swUpdate (s : State) (k : Nat) : State :=
  let r := 80 + k
  let adj := s.int (refA r 0x44)
  if (s.polFld (refA r 0x50) 15 0 * 65536 : Nat) < |adj| then
    ((s.inc (refA r 0x58)).event (refA r 0x30) 9).raise (144 + r) 0x45 false (s.nat (refA r 0x44))
  else s.swAccept r (s.int (refA r 0x40)) adj

/-- The write of SW_UPDATE: discarded and reported while a feed owns the reference (R362). -/
def State.swUpdateWrite (s : State) (o : Origin) (k : Nat) : State :=
  if s.swFed k then s.lockedWrite o (refA (80 + k) 0x48) else s.swUpdate k

def execSwUpdate (k : Fin 4) (s : State) : Host.Outcome State Fault Refusal :=
  done s (s.hostTo (refA (80 + k.val) 0x48) (fun s => s.swUpdateWrite .host k.val))

/-- At a boundary: the last SW_FREQ, from now on; the sum of the phase steps, a positive one moving the next edge earlier, as
the use of R362 has it; and SW_SEQ (R135). -/
def State.swApply (s : State) (r : Nat) : State :=
  match (s.ref r).swPending with
  | none => s
  | some (f, a) =>
    let x := s.ref r
    let now : Int := (s.sdlNow * 65536 : Nat)
    let moved := x.swNext.map (fun p =>
      (now + ((p : Int) - now) * swPeriod f / swPeriod x.swApplied - a).toNat)
    (s.setRef r { x with swPending := none, swApplied := f, swNext := moved }).inc (refA r 0x54)

/-! ### Window boundaries (R136 to R142) -/

/-- The measurement that the window yields, in 1/256 ppb before OSC_MODEL_PPB (R136). -/
def State.measured (s : State) (r : Nat) : Option Int :=
  let x := s.ref r
  let q := s.qstate r
  if q = 0 ∨ q = 1 ∨ q = 6 ∨ x.spanBad then none
  else if 80 ≤ r then some x.swApplied
  else match x.winEdge, x.lastEdge, s.refPeriod r with
    | some w, some l, some (a, b) =>
      let span := (l - w) * b
      let k := (2 * span + a) / (2 * a)
      if span = 0 ∨ k = 0 then none
      else some (divNear (((k * a : Nat) - (span : Nat) : Int) * (256 * secNs : Nat)) span)
    | _, _, _ => none

/-- The moves of QSTATE that a measurement `f` brings (R138). -/
def State.judge (s : State) (r : Nat) (f : Int) : State :=
  let tol := s.refTol r
  let a := |f|
  match s.qstate r with
  | 3 =>
    if 2 * tol < a then s.setQ r 4
    else if tol < a then
      let run := min 255 (s.fld (refA r 0x18) 31 24 + 1)
      let s := s.setFld (refA r 0x18) 31 24 run
      if max 1 (s.polFld (refA r 0) 31 24) ≤ run then s.setQ r 5 else s
    else s.setFld (refA r 0x18) 31 24 0
  | 2 =>
    if 2 * tol < a then s.setQ r 4
    else if 10 * a ≤ 8 * tol then
      let run := min 255 (s.fld (refA r 0x18) 23 16 + 1)
      let s := s.setFld (refA r 0x18) 23 16 run
      if max 1 (s.polFld (refA r 0) 23 16) ≤ run then s.setQ r 3 else s
    else s.setFld (refA r 0x18) 23 16 0
  | 4 => if 10 * a ≤ 8 * tol then s.setQ r 2 else s
  | 5 => if 10 * a ≤ 8 * tol then s.setQ r 2 else s
  | _ => s

/-- Measurements with their window, the newest at 0 and older ones below. -/
def slopePoints (l : List (Option Int)) : List (Int × Int) :=
  (l.zipIdx).filterMap (fun p => p.1.map (fun f => (-(p.2 : Int), f)))

/-- Least-squares slope in 1/256 ppb/s (R139). -/
def slopeOf (ps : List (Int × Int)) : Int :=
  let n : Int := ps.length
  let sx := (ps.map (·.1)).sum
  let sf := (ps.map (·.2)).sum
  let num := n * (ps.map (fun p => p.1 * p.2)).sum - sx * sf
  let den := n * (ps.map (fun p => p.1 * p.1)).sum - sx * sx
  divNear num den.toNat

/-- SLOPE and DRIFT_WARNING of a QUALIFIED reference (R139). -/
def State.slopeCheck (s : State) (r : Nat) : State :=
  let ps := slopePoints (s.ref r).win30
  if s.qstate r ≠ 3 ∨ ps.length < 10 then s
  else
    let sl := slopeOf ps
    let s := s.wrI (refA r 0x24) sl
    let f := s.freq1 r
    let left := s.refTol r - |f|
    let same := decide (0 < f * sl)
    if same ∧ left < 60 * |sl| then s.setWarning r true
    else if !same ∨ 120 * |sl| ≤ left then s.setWarning r false
    else s

/-- Step 1 of a boundary for one reference (R136, R138, R139). -/
def State.refWindow (s : State) (r : Nat) : State :=
  let m := (s.measured r).map (· + s.oscModel)
  let x := s.ref r
  let s := match m with
    | none => s.setRef r { x with winEdge := x.lastEdge, spanBad := false, win30 := (none :: x.win30).take 30 }
    | some f =>
      let fs := (f :: x.freqs).take 10
      let s := s.setRef r { x with winEdge := x.lastEdge, spanBad := false, freqs := fs, win30 := (some f :: x.win30).take 30 }
      let s := (s.wrI (refA r 0x1C) f).wrI (refA r 0x20) (divNear fs.sum fs.length)
      (s.setFld (refA r 0x18) 15 8 (min 255 (s.fld (refA r 0x18) 15 8 + 1))).judge r f
  s.slopeCheck r

/-- A policy register of reference `r` whose change is a configuration change (R136). -/
def State.configMoved (s : State) (r a : Nat) (old : Word) : Bool :=
  let new := s.pol a
  if a = refA r 0 then (old.toNat % 65536) != (new.toNat % 65536)
  else (a == refA r 4 || a == refA r 8 || (a == refA r 0x40 && decide (64 ≤ r ∧ r < 80))) && old != new

/-- REF_D_LVDS changes what digital input `r` receives (R130, R136). -/
def State.pairMoved (s : State) (r a : Nat) (old : Word) : Bool :=
  a == sdlA 0x10C && decide (16 ≤ r ∧ r < 64) && old.getLsbD ((r - 16) / 2) != (s.pol a).getLsbD ((r - 16) / 2)

/-- FREQ_LIMIT_PPB or HO_GUARD_S of dial `n`. -/
def loopLimits (n a : Nat) : Bool := a == dialA n 0x84 || a == dialA n 0x8C

/-- y follows a new clamp, and the model of a dial that holds it (R169, R173). -/
def State.loopFollow (s : State) (n : Nat) : State := if s.holds n then s.onModel n else s.steerY n (s.dial n).y

/-- Step 2: pending policy takes effect together (R141). -/
def State.policyEffect (s : State) : State :=
  let s := (List.range 16).foldl (fun s n => if s.policyPending.contains (dialA n 0x88) then s.slewB n else s) s
  let ps := s.policyPending.map (fun a => (a, s.pol a))
  let s := (s.setPolicy (ps.foldl (fun t (p : Nat × Word) => Tab.set t (regReset p.1) p.1 (s.rd p.1)) s.policy)).setPolicyPending []
  let s := s.setBit (sdlA 0x108) 16 false
  let s := (List.range 84).foldl (fun s r =>
    let mine := ps.filter (fun p => decide (refA r 0 ≤ p.1 ∧ p.1 < refA (r + 1) 0) || s.pairMoved r p.1 p.2)
    if mine.isEmpty then s
    else
      let s := if mine.any (fun p => s.configMoved r p.1 p.2 || s.pairMoved r p.1 p.2) then s.restartMeas r else s
      s.refEval r) s
  let s := (List.range 16).foldl (fun s i => if ps.any (fun p => p.1 == refA i 0) then s.sveKind i else s) s
  let s := (List.range 16).foldl (fun s n => if ps.any (fun p => loopLimits n p.1) then s.loopFollow n else s) s
  let s := (List.range 16).foldl (fun s n => (List.range 16).foldl (fun s e =>
    if ps.any (fun p => p.1 == entryA n e) then
      let d := s.dial n
      s.setDial n { d with entries := Tab.set d.entries Entry.init e Entry.init }
    else s) s) s
  let s := (List.range 96).foldl (fun (s : State) (g : Nat) =>
    if ps.any (fun (p : Nat × Word) => decide (genA g 0 ≤ p.1 ∧ p.1 < genA (g + 1) 0) || (g % 2 == 1 && p.1 == genA (g - 1) 0)) then
      s.genFollow g true 2000
    else s) s
  (List.range 192).foldl (fun s n =>
    if ps.any (fun p => p.1 == ttcA n 0) then s.ttcCheck n true else s) s

/-- Restore timers of dial `n` (R143). -/
def State.restoreStep (s : State) (n : Nat) : State :=
  let wtr := s.polFld (dialA n 4) 31 16
  let hold := s.holdoffNs n
  let es := (List.range 16).foldl (fun t e =>
    let x := (Tab.get t Entry.init e).expire s.sdlNow hold
    let x :=
      if !x.restoring then x
      else
        let r := s.entRef n e
        let good := decide (r < 84) && s.qstate r == 3 && decide (10 * |s.freq1 r| ≤ 8 * s.refTol r)
        let tm := if good then x.timer + 1 else 0
        if wtr ≤ tm then Entry.init else { x with timer := tm }
    Tab.set t Entry.init e x) (s.dial n).entries
  s.setDial n { s.dial n with entries := es }

/-- CONFIG_INVALID of entries that name a reserved, off or repeated reference, once while it stands
(R129). -/
def State.checkEntries (s : State) (n : Nat) : State :=
  let bad := (s.entryList n).filterMap (fun x => if x.2.2.1 ≠ 0 ∧ !x.2.2.2 then some x.1 else none)
  let old := (s.dial n).badEntries
  let s := bad.foldl (fun s e => if old.contains e then s else s.dialInvalid n (entryA n e)) s
  s.setDial n { s.dial n with badEntries := bad }

/-- RESTART at its boundary (R147, R171, R172). -/
def State.restartDial (s : State) (n : Nat) : State :=
  let s := s.endHoldoff n
  let s := if s.selEntry n = 31 then s else s.announce n 31 127 4
  let d := s.dial n
  let s := (s.setDial n { d with restartDue := false, integ := 0, ho := [], lockedNs := 0,
                                 pickEntry := 31, pickRun := 0 }).setB n 0
  let s := (s.setBit (dialA n 0x10) 4 false).setState n 0
  ((s.setDial n { s.dial n with stateSince := s.sdlNow }).wrN (dialA n 0x14) 0).showDial n

/-! ### Dial states (R146, R147) -/

/-- A return of reference `r` waits in the queue: it is taken before a hold-off that expires with it (R142). -/
def State.returnWaits (s : State) (r : Nat) : Bool :=
  s.qstate r == 1 && s.pending.any (fun c => match c with
    | .referenceEdge k time _ _ => k.val == r && decide (s.toSdl time ≤ s.sdlNow * 65536 + 65535)
    | .edgeDelivery i => i.val == r
    | .swUpdate k => 80 + k.val == r
    | _ => false)

/-- HOLDOFF_EXPIRY; where a return waits, the selection that the return brings ends the hold-off (R142, R146). -/
def execHoldoffExpiry (n : Fin 16) (s : State) : Host.Outcome State Fault Refusal :=
  let n := n.val
  done s (if s.sundialRuns && s.holdoffDone n && !s.returnWaits (s.selRef n) then s.holdoffOver n .now else s)

/-- LOCK: the phase error has stayed within LOCK_PHASE_NS for LOCK_TIME_S (R147). -/
def State.lockDue (s : State) (n : Nat) : Bool :=
  s.dialState n == 1 && !s.bit (dialA n 0x10) 3 &&
    (match (s.dial n).lockSince with
     | some t => decide (t + max 1 (s.polFld (dialA n 8) 23 16) * secNs ≤ s.sdlNow)
     | none => false)

def execLock (n : Fin 16) (s : State) : Host.Outcome State Fault Refusal :=
  done s (if s.sundialRuns && s.lockDue n.val then s.setState n.val 2 else s)

def execHoldoverExpired (n : Fin 16) (s : State) : Host.Outcome State Fault Refusal :=
  let n := n.val
  let since := (s.dial n).stateSince
  let lim := (s.pol (dialA n 0xC)).toNat
  done s (if s.sundialRuns && s.dialState n == 3 && lim != 0 && decide (since + lim * secNs ≤ s.sdlNow) then
      ((s.setState n 4).event (dialA n 0x18) 4).raise (128 + n) 0x4B false ((s.sdlNow - since) / secNs)
    else s)

/-- RESTART written with 1: it acts at the next boundary (R147). -/
def State.restartAsk (s : State) (n : Nat) : State := s.setDial n { s.dial n with restartDue := true }

def execRestart (n : Fin 16) (s : State) : Host.Outcome State Fault Refusal :=
  done s (s.hostTo (dialA n.val 0) (fun s => s.restartAsk n.val))

/-! ### The loop (R168 to R172) -/

/-- A SET or ADJ falls due at the second boundary nearest to dial time `x`, in 2^-16 ns (R170, R175). -/
def State.setNear (s : State) (n : Nat) (x : Int) : Bool :=
  let at_ := s.instantOf n (divNear x secSub * secSub)
  armDue (s.dial n).setArmed at_ || armDue (s.dial n).adjArmed at_

/-- The first corrected error after an entry to ACQUIRING (R170). -/
def State.firstErr (s : State) (n r : Nat) (raw : Int) : State :=
  let d := s.dial n
  let long := match s.refGrid r (s.needsMark n r) with | some (a, b) => decide (msNs * 65536 * b ≤ a) | none => false
  let step := !s.bit (dialA n 0x10) 4 && s.polFld (dialA n 0x88) 0 0 == 1 && long && !s.setNear n (s.dialSub n)
  if step then
    let s := (s.timeStep n (-raw)).setB n 0
    let d := s.dial n
    s.setDial n { d with firstError := false, lastRaw := d.lastRaw.map (· - raw) }
  else (s.setDial n { d with firstError := false }).setB n raw

/-- Lock detection on the corrected error (R147). -/
def State.judgeLock (s : State) (n : Nat) (e : Int) : State :=
  let lp : Int := (max 1 (s.polFld (dialA n 8) 15 0) * 65536 : Nat)
  let d := s.dial n
  if s.dialState n = 2 then
    if 4 * lp < |e| then
      let s := (s.setState n 1).acquire n false
      (s.event (dialA n 0x18) 5).raise (128 + n) 0x4C false (unsignedOf 32 (Int.tdiv e 65536))
    else s
  else
    let since := if |e| ≤ lp then some (d.lockSince.getD s.sdlNow) else none
    s.setDial n { d with lockSince := since }

/-- ns between updates of the loop that follows `r` (R167). -/
def State.updateNs (s : State) (r : Nat) : Nat := 1000 * secNs / s.updateRate r

/-- An error is ready: of each edge where the reference is no faster than f_u, else at the end of each interval of 1/f_u
(R167, R168). -/
def State.updateDue (s : State) (n r : Nat) : Bool :=
  (s.dial n).rawN != 0 &&
    ((match s.refRate r with | some (a, b) => decide (1000 * a ≤ s.updateRate r * b) | none => false) ||
      decide ((s.dial n).updAt + s.updateNs r ≤ s.sdlNow))

/-- PHASE_DETECTOR_UPDATE: the mean of the interval's raw errors, corrected by B, drives the loop. -/
def State.phaseUpdate (s : State) (n : Nat) : State :=
  let r := s.selRef n
  let d := s.dial n
  let raw := divNear d.rawSum d.rawN
  let first := d.firstError
  let s := s.setDial n { d with rawSum := 0, rawN := 0, updAt := s.sdlNow - (s.sdlNow - d.updAt) % s.updateNs r }
  let s := if first then s.firstErr n r raw else s.slewB n
  let e := if first then 0 else raw - (s.dial n).buildout
  let s := s.wrI (dialA n 0x90) (clampInt (-(2 ^ 31)) (2 ^ 31 - 1) (e / 256))
  let bw := s.effBw n r
  let damp := s.polFld (dialA n 0x80) 24 24 == 1
  let ki := Config.loopKi bw damp (s.updateRate r)
  let kp := Config.loopKp bw damp (s.updateRate r)
  let integ := (s.dial n).integ + divNear (ki * e) (2 ^ 32)
  let s := s.setDial n { s.dial n with integ := integ }
  (s.steerY n (integ + divNear (kp * e) (2 ^ 32))).judgeLock n e

def execPhaseDetectorUpdate (n : Fin 16) (s : State) : Host.Outcome State Fault Refusal :=
  let n := n.val
  done s (if s.sundialRuns && s.follows n (s.selRef n) && s.updateDue n (s.selRef n) then s.phaseUpdate n else s)

/-- HOLDOVER_RECORD: the mean of y over a whole second spent LOCKED (R172). -/
def State.hoRecord (s : State) (n : Nat) : State :=
  let s := s.rebase n
  let d := s.dial n
  let m := divNear d.ySum (s.sdlNow - d.ySumFrom)
  let keep := 300 + s.polFld (dialA n 0x8C) 5 0
  let s := s.setDial n { d with ho := (m :: d.ho).take keep, ySum := 0, ySumFrom := s.sdlNow }
  (s.wrN (dialA n 0x14) (s.histS n)).showDial n

def execHoldoverRecord (n : Fin 16) (s : State) : Host.Outcome State Fault Refusal :=
  let n := n.val
  done s (if s.sundialRuns && s.dialState n == 2 && !s.bit (dialA n 0x10) 3 &&
      decide ((s.dial n).ySumFrom + secNs ≤ s.sdlNow) then s.hoRecord n else s)

/-! ### Output generators (R181 to R184) -/

/-- The edge that crosses the ball at `at_` has come. -/
def State.edgeDue (s : State) (at_ : Int) : Bool := decide (at_ ≤ (s.sdlNow * 65536 + 65535 : Nat))

/-- A rising edge that would leave a low time shorter than 2.5 ns, or that falls into the pulse in progress (R184). -/
def Gen.soon (x : Gen) (at_ : Int) : Bool :=
  x.level || (x.moved && (match x.lastEdge with | some l => decide (at_ < l + 163840) | none => false))

/-- The falling edge due before a rising edge at `at_` ends the pulse. -/
def State.genEnd (s : State) (g : Nat) (at_ : Int) : Gen :=
  let x := s.gen g
  let f := s.placeEdge g x.fallDial x.fall
  if x.level && decide (f ≤ at_) then { x with level := false, lastEdge := some f } else x

/-- The rising edge t_k, driven or skipped (R181, R184). -/
def State.genRise (s : State) (g : Nat) : State :=
  let at_ := s.placeEdge g (s.genDial g) (s.genTime g (s.gen g).k)
  if !s.edgeDue at_ then s
  else
    let x := s.genEnd g at_
    let next := { x with k := x.k + 1 }
    if x.soon at_ then (((s.setGen g next).showNext g).inc (genA g 0x28)).tallySdl g 8 1
    else
      (((s.setGen g { next with level := true, lastEdge := some at_, moved := false, fallDial := s.genDial g,
                                fall := s.genFall g x.k }).showNext g).tallySdl g 7 1).drive g

/-- The falling edge of the pulse in progress: no less than 2.5 ns after the rising one, by `genFall` (R181, R183). -/
def State.genDrop (s : State) (g : Nat) : State :=
  let x := s.gen g
  let at_ := s.placeEdge g x.fallDial x.fall
  if x.level && s.edgeDue at_ then (s.setGen g { x with level := false, lastEdge := some at_ }).drive g else s

/-- GENERATOR_EDGE; a pulse in progress ends also where the generator has been stopped (R183). -/
def execGeneratorEdge (g : Fin 96) (rising : Bool) (s : State) : Host.Outcome State Fault Refusal :=
  done s (if rising then (if s.genRuns g.val then s.genRise g.val else s)
    else if s.sundialRuns then s.genDrop g.val else s)

/-! ### Time-transfer messages (R186 to R188) -/

/-- A short time completed to the value nearest `sec` local seconds, in 2^-16 ns (R186, R187). -/
def fullTime (w : Nat) (sec : Nat) : Int :=
  let d : Int := ((w / 2 ^ 40 : Nat) - (sec : Int)) % 256
  let full : Int := sec + (if d < 128 then d else d - 256)
  (full * secNs + (w / 2 ^ 10 % 2 ^ 30 : Nat)) * 65536 + (w % 2 ^ 10 * 64 : Nat)

/-- The bytes of a received message (R186). -/
def ttcBytes (x : TtcIn) : List Byte :=
  let b48 := fun (w : BitVec 48) => (List.range 6).map (fun i => BitVec.ofNat 8 (w.toNat / 2 ^ (8 * (5 - i))))
  [BitVec.ofNat 8 (x.version.toNat * 32 + x.echoValid.toNat * 16 + x.user.toNat), x.seq] ++ b48 x.dep ++ [x.echoSeq] ++ b48 x.arr

/-- The message's arrival is kept, and what it says of the peer (R187). -/
def State.ttcKeep (s : State) (n : Nat) (x : TtcIn) (at_ : Nat) : State :=
  let c := s.ttc n
  let s := s.setTtc n { c with arrs := (x.seq.toNat, at_, c.rxSteps) :: c.arrs.take 15, echoSeq := some x.seq.toNat }
  (s.setFld (ttcA n 0xC) 7 4 x.user.toNat).setFld (ttcA n 0xC) 15 8 x.seq.toNat

/-- A message that passes: RX_COUNT, RX_VALID, and the TTC item of every 2^ITEM_LOG2 (R187, R188). -/
def State.ttcPass (s : State) (n : Nat) (x : TtcIn) (t1 t4 : Nat × Nat) (t2 t3 : Int) : State :=
  let s := s.inc (ttcA n 0x20)
  let s := if s.bit (ttcA n 0xC) 0 then s
    else ((s.setBit (ttcA n 0xC) 0 true).ttcEvent n 0).raise (832 + n) 0x60 true 0
  let c := s.ttc n
  let k := c.passed + 1
  let due := decide (2 ^ s.polFld (ttcA n 0) 11 8 ≤ k)
  let s := s.setTtc n { c with passed := if due then 0 else k, lastPass := s.sdlNow }
  if due then
    let head := [BitVec.ofNat 16 n, BitVec.ofNat 16 (x.seq.toNat + (t1.2 != t4.2).toNat * 256)]
    (s.publish 36 112 6 false (head ++ tsWords t1.1 ++ tsWords t2.toNat ++ tsWords t3.toNat ++ tsWords t4.1)).2
  else s

/-- The checks of R187 in order. -/
def State.ttcTake (s : State) (n : Nat) (x : TtcIn) : State :=
  let c := s.ttc n
  let arrive := c.rxMfas0
  let sec := arrive / 65536 / secNs
  let one : Int := (secNs * 65536 : Nat)
  let dep := fullTime x.dep.toNat sec
  let arr := fullTime x.arr.toNat sec
  let t1 := if x.echoValid then keptAt c.deps x.echoSeq.toNat else none
  let far := fun (a : Int) (b : Nat) => |a - (b : Int)|
  let off := max (far dep arrive) (match t1 with | some (t, _) => far arr t | none => 0)
  if c.rxBad || anyBit (s.nat (rxA n 0x208)) [2, 3] then s.inc (ttcA n 0x24)
  else if crc8 (ttcBytes x) ≠ x.crc ∨ x.version ≠ 1 then s.inc (ttcA n 0x28)
  else if one < off then
    ((s.inc (ttcA n 0x2C)).ttcEvent n 2).raiseLim 1 0 (832 + n) 0x61 false
      (min (off / (msNs * 65536 : Nat)).toNat (2 ^ 32 - 1))
  else
    let t4 := keptAt c.arrs ((x.seq.toNat + 255) % 256)
    let s := s.ttcKeep n x arrive
    match t1, t4 with
    | some t1, some t4 => s.ttcPass n x t1 t4 arr dep
    | _, _ => s.inc (ttcA n 0x30)

def execTtcMessage (ch : Fin 192) (x : TtcIn) (s : State) : Host.Outcome State Fault Refusal :=
  done s (if s.ttcRuns ch.val then s.ttcTake ch.val x else s)

/-- Sixteen message periods, of 16 frames each, in ns; 0 where the lane carries no OTU (R187). -/
def State.ttcSpan (s : State) (n : Nat) : Nat :=
  let fmt := s.rxFmt n
  match laneRate fmt false with
  | some (num, den) => if 3 ≤ fmt ∧ fmt ≤ 6 then 256 * 130560 * secNs * den / (num * (if fmt = 6 then 4 else 1)) else 0
  | none => 0

/-- TTC_LOSS: no message has passed for 16 message periods (R187, R190). -/
def execTtcLoss (ch : Fin 192) (s : State) : Host.Outcome State Fault Refusal :=
  let n := ch.val
  done s (if s.sundialRuns && s.bit (ttcA n 0xC) 0 && decide ((s.ttc n).lastPass + s.ttcSpan n ≤ s.sdlNow) then
      ((s.setBit (ttcA n 0xC) 0 false).ttcEvent n 1).raise (832 + n) 0x60 false 0
    else s)

end Sys2Proof.Machine
end

