-- ==== Sys2Proof/Machine/Sieve.lean ====
section
/-! DEFINITION. Sieve: filters, banks, detectors, sync separator, edges (R151 to R166). -/

namespace Sys2Proof.Machine

def bankA (i b o : Nat) : Nat := sveA i (0x100 + 0x100 * b + o)

def State.activeBank (s : State) (i : Nat) : Nat := s.fld (sveA i 4) 8 8

/-- SAMPLE_CLK runs, and Sundial with it (R27, R153). -/
def State.sampleRuns (s : State) (i : Nat) : Bool :=
  s.sundialRuns && !s.top.failed.contains .sample && !s.inReset (sveA i 0)

/-- Sieve processes the input (R151). -/
def State.sieves (s : State) (i : Nat) : Bool :=
  s.sampleRuns i && decide (1 ≤ s.refKind i ∧ s.refKind i ≤ 3)

/-! ### Banks and group delay (R154 to R158) -/

def State.rankW (s : State) (i b : Nat) : Nat := s.fld (bankA i b 0) 3 0
def State.rankR (s : State) (i b : Nat) : Nat := s.fld (bankA i b 0) 7 4
def State.ntaps (s : State) (i b : Nat) : Nat := s.fld (bankA i b 0) 14 8

/-- D, 1 when NTAPS is 0 (R151). -/
def State.decim (s : State) (i b : Nat) : Nat := if s.ntaps i b = 0 then 1 else 2 ^ s.fld (bankA i b 0) 17 16

/-- COEF[m] in Q1.15 (R155). -/
def State.coef (s : State) (i b m : Nat) : Int :=
  signedOf 16 (s.fld (bankA i b (0x40 + m / 2 * 4)) (16 * (m % 2) + 15) (16 * (m % 2)))

def State.symmetric (s : State) (i b : Nat) : Bool :=
  let n := s.ntaps i b
  (List.range n).all (fun m => s.coef i b m == s.coef i b (n - 1 - m))

def State.isMedian (s : State) (i b : Nat) : Bool :=
  let w := s.rankW i b
  w == 0 || s.rankR i b == 0 || s.rankR i b == (w + 1) / 2

def State.gdUnknown (s : State) (i b : Nat) : Bool := !(s.symmetric i b && s.isMedian i b)

/-- GD_TOTAL of a bank, in ticks (R157). -/
def State.gdTotal (s : State) (i b : Nat) : Nat :=
  let lat := s.fld (sveA i 0x24) 15 0
  if s.gdUnknown i b then s.fld (bankA i b 8) 15 0 + lat
  else 128 * (s.rankW i b - 1) + 128 * (s.ntaps i b - 1) + lat

/-- CONFIG_INVALID of an input (R165). -/
def State.sveInvalid (s : State) (i a : Nat) : State := (s.event (sveA i 0x60) 6).raise (228 + i) 0x0B false a

/-- A write into bank `b` of input `i`: ignored and reported while that bank is active or a swap is
pending; ranges of R154 and R155. -/
def State.bankWrite (s : State) (i b a : Nat) (v : Word) : State :=
  if b = s.activeBank i ∨ s.bit (sveA i 4) 9 then (s.event (sveA i 0x60) 5).raise (228 + i) 0x54 false a
  else
    let s := s.store a v false
    let s := if a = bankA i b 0 then
        let s := if [0, 3, 5, 7, 9].contains (s.rankW i b) then s else (s.setFld a 3 0 0).sveInvalid i a
        if s.rankW i b < s.rankR i b then s.setFld a 7 4 (s.rankW i b) else s
      else s
    (s.setBit (bankA i b 4) 0 (s.symmetric i b)).setBit (bankA i b 4) 1 (s.isMedian i b)

/-- BANK_CTRL.SWAP (R156). -/
def State.sveSwap (s : State) (i : Nat) : State := s.setBit (sveA i 4) 9 true

def execSwap (i : Fin 16) (s : State) : Host.Outcome State Fault Refusal :=
  done s (s.hostTo (sveA i.val 4) (fun s => s.sveSwap i.val))

/-- The pending bank becomes active (R156 step 3, R158). -/
def State.sveSwapDone (s : State) (i : Nat) : State :=
  let b := 1 - s.activeBank i
  let was := s.bit (sveA i 0x20) 24
  let unknown := s.gdUnknown i b
  let gd := s.gdTotal i b
  let s := (s.setFld (sveA i 4) 8 8 b).setBit (sveA i 4) 9 false
  let s := (s.setFld (sveA i 0x20) 23 0 gd).setBit (sveA i 0x20) 24 unknown
  let s := s.setSve i { s.sve i with phaseFrom := (s.sve i).idx }
  let s := ((s.inc (sveA i 0x54)).event (sveA i 0x60) 3).raise (228 + i) 0x53 false (b + gd * 256)
  if unknown then (s.event (sveA i 0x60) 4).raise (228 + i) 0x52 false (s.fld (bankA i b 8) 15 0)
  else if was then s.raise (228 + i) 0x52 true (s.fld (bankA i b 8) 15 0) else s

/-- The next input sample is an output-sample boundary of the active bank's D; an input that Sieve does not process takes no
samples and waits for none (R156). -/
def State.outBoundary (s : State) (i : Nat) : Bool :=
  !s.sieves i || ((s.sve i).idx - (s.sve i).phaseFrom) % s.decim i (s.activeBank i) == 0

/-- SWAP_DONE. -/
def execSwapDone (i : Fin 16) (s : State) : Host.Outcome State Fault Refusal :=
  done s (if s.sampleRuns i.val && s.bit (sveA i.val 4) 9 && s.outBoundary i.val then s.sveSwapDone i.val else s)

/-! ### Filters (R152, R154, R155) -/

/-- Insertion into a rising list. -/
def insertInt (v : Int) : List Int → List Int
  | [] => [v]
  | x :: rest => if v ≤ x then v :: x :: rest else x :: insertInt v rest

/-- Samples that were never taken read 0. -/
def firstN (n : Nat) (l : List Int) : List Int := l.take n ++ List.replicate (n - l.length) 0

/-- Rank-filter output over samples, newest first (R154). -/
def rankOut (w r : Nat) (l : List Int) : Int :=
  if w = 0 then l.headD 0
  else ((firstN w l).foldr insertInt []).getD ((if r = 0 then (w + 1) / 2 else r) - 1) 0

/-- FIR output before rounding, in 2^-15 (R155). -/
def State.firSum (s : State) (i b : Nat) (raw : List Int) : Int :=
  ((List.range (s.ntaps i b)).map (fun m => s.coef i b m * rankOut (s.rankW i b) (s.rankR i b) (raw.drop m))).sum

/-- The output sample, and whether it saturated. -/
def State.firOut (s : State) (i b : Nat) (raw : List Int) : Int × Bool :=
  if s.ntaps i b = 0 then (rankOut (s.rankW i b) (s.rankR i b) raw, false)
  else
    let y := divNear (s.firSum i b raw) 32768
    (clampInt (-32768) 32767 y, decide (y < -32768 ∨ 32767 < y))

/-- CLIP_COUNT counts a code of 0 or 4,095; CLIP tells its increase over the last second (R152, R165). -/
def State.clip (s : State) (i : Nat) : State :=
  let s := (s.inc (sveA i 0x48)).event (sveA i 0x60) 2
  let l := secondAt (s.sdlNow / msNs) (s.sve i).clips
  (s.setSve i { s.sve i with clips := l }).raiseLim 1 0 (228 + i) 0x51 false (secondCount l)

/-! ### Detectors and window (R159 to R161) -/

/-- One sample into the detector block (R159). -/
def Sve.detect (v : Sve) (k : Nat) (x : Int) : Sve :=
  let v := if v.kSeen = k then v else { v with kSeen := k, outCount := 0 }
  let v := if v.outCount = 0 then { v with max := x, min := x, sumSq := 0 } else v
  let v := { v with max := Max.max v.max x, min := Min.min v.min x, sumSq := v.sumSq + (x * x).toNat,
                    outCount := v.outCount + 1 }
  if 2 ^ k ≤ v.outCount then { v with block := some (v.max, v.min, Nat.sqrt (v.sumSq / 2 ^ k)), outCount := 0 } else v

/-- PEAK_BLOCK_END. -/
def execPeakBlockEnd (i : Fin 16) (s : State) : Host.Outcome State Fault Refusal :=
  let i := i.val
  let v := s.sve i
  done s (if s.sampleRuns i then
      match v.block with
      | some (mx, mn, rms) =>
        ((s.setSve i { v with block := none }).wrN (sveA i 0x38) (unsignedOf 16 mx + unsignedOf 16 mn * 65536)).setFld
          (sveA i 0x3C) 15 0 rms
      | none => s
    else s)

/-- The envelope trackers (R160). -/
def trackTop (top x : Int) (a d : Nat) : Int :=
  if top < x then top + (x - top) / 2 ^ a else top - (top - x) / 2 ^ d

def trackBottom (bottom x : Int) (a d : Nat) : Int :=
  if x < bottom then bottom - (bottom - x) / 2 ^ a else bottom + (x - bottom) / 2 ^ d

/-- The gate is open at `tick`: from GATE_DELAY_NS to GATE_DELAY_NS + GATE_LEN_NS after the trailing edge
(R162). -/
def State.inGate (s : State) (i : Nat) (tick : Int) : Bool :=
  let delay := s.fld (sveA i 0x18) 15 0
  let len := s.fld (sveA i 0x18) 31 16
  let from_ : Nat := if delay = 0 then 3400 else delay
  let to_ : Nat := from_ + (if len = 0 then 1000 else len)
  let t := (tick - (s.sve i).trail) * 1000
  decide ((from_ * 55296 : Nat) ≤ t ∧ t ≤ (to_ * 55296 : Nat))

/-- The slice level (R160). -/
def State.slice (s : State) (i : Nat) : Int :=
  let v := s.sve i
  let f := s.fld (sveA i 8) 23 16
  v.bottom + (v.top - v.bottom) * (if f = 0 then 128 else f : Nat) / 256

/-- Amplitude in whole mV (R165). -/
def State.ampMv (s : State) (i : Nat) : Nat := ((s.sve i).top - (s.sve i).bottom).toNat * 2000 / 65536

/-- A field value, or the KIND's default where it is 0. -/
def orDefault (v d : Nat) : Nat := if v = 0 then d else v

/-- The amplitude lies inside the window (R161, R162). -/
def State.ampInside (s : State) (i : Nat) : Bool :=
  let sd := s.refKind i != 3
  let lo := orDefault (s.fld (sveA i 0x10) 15 0) (if sd then 150 else 300)
  let hi := orDefault (s.fld (sveA i 0x10) 31 16) (if sd then 450 else 900)
  let a : Int := ((s.sve i).top - (s.sve i).bottom) * 2000
  decide ((lo * 65536 : Nat) ≤ a ∧ a ≤ (hi * 65536 : Nat))

def State.inWindow (s : State) (i : Nat) : Bool := s.bit (sveA i 0x30) 0

def State.setWindow (s : State) (i : Nat) (on : Bool) : State :=
  (((s.setBit (sveA i 0x30) 0 on).setBit 0x100100 i on).event (sveA i 0x60) (if on then 0 else 1)).raise
    (228 + i) 0x50 on (s.ampMv i)

def execWindowIn (i : Fin 16) (s : State) : Host.Outcome State Fault Refusal :=
  let i := i.val
  let v := s.sve i
  done s (if s.sieves i && !s.inWindow i && v.inside && decide (v.insideAt + msNs ≤ s.sdlNow) then s.setWindow i true else s)

def execWindowOut (i : Fin 16) (s : State) : Host.Outcome State Fault Refusal :=
  let i := i.val
  let v := s.sve i
  done s (if s.sieves i && s.inWindow i && !v.inside && decide (v.insideAt + 100 * usNs ≤ s.sdlNow) then s.setWindow i false else s)

/-! ### Sync separator (R162 to R164) -/

/-- The tick of a crossing between two output samples (R164). -/
def crossTick (n d gd : Nat) (x0 x1 slice : Int) : Int :=
  256 * n + divNear (256 * (x0 - slice) * (if x0 < x1 then -1 else 1)) (x0 - x1).natAbs * d - gd

/-- A pulse of `width` ticks whose delivered crossing is at `edge` (R162 to R164). -/
def State.pulse (s : State) (i : Nat) (edge width trail : Int) (mixed inWin : Bool) : State :=
  let v := s.sve i
  let sd := s.refKind i != 3
  let lo := orDefault (s.fld (sveA i 0x14) 15 0) (if sd then 3500 else 300)
  let hi := orDefault (s.fld (sveA i 0x14) 31 16) (if sd then 6000 else 900)
  let within := fun (lo hi : Nat) => decide ((lo * 55296 : Nat) ≤ width * 1000 ∧ width * 1000 ≤ (hi * 55296 : Nat))
  if within lo hi then
    let run := v.syncRun + 1
    let v := { v with syncRun := run, lastSync := s.sdlNow, trail := trail }
    let broad := sd && within 20000 30000
    let s := if 16 ≤ run ∧ sd ∧ !s.bit (sveA i 8) 24 then s.setBit (sveA i 0x30) 1 true else s
    let v' := { v with vmarkNext := broad }
    if mixed then (s.setSve i v').inc (sveA i 0x50)
    else if inWin then s.setSve i { v' with ready := v.ready ++ [(edge, v.vmarkNext && sd)] }
    else s.setSve i v'
  else
    (s.setSve i { v with syncRun := 0, vmarkNext := v.vmarkNext || (sd && within 20000 30000) }).inc (sveA i 0x44)

/-- Slicer: crossings between the last output sample and `x` at input index `n` of bank `b`. -/
def State.slicer (s : State) (i b n : Nat) (x : Int) : State :=
  let v := s.sve i
  let sl := s.slice i
  let s' := s.setSve i { v with out := some (x, n, b) }
  match v.out with
  | none => s'
  | some (x0, n0, b0) =>
    let t := crossTick n0 (n - n0) (s.gdTotal i b) x0 x sl
    let mixed := b0 != b
    if sl ≤ x0 ∧ x < sl then s'.setSve i { s'.sve i with fall := some (t, mixed, s.inWindow i) }
    else if x0 < sl ∧ sl ≤ x then
      match v.fall with
      | none => s'
      | some (f, fm, fw) =>
        let s' := s'.setSve i { s'.sve i with fall := none }
        if s.refKind i = 3 then s'.pulse i t (t - f) t mixed (s.inWindow i)
        else s'.pulse i f (t - f) t fm (fw && s.inWindow i)
    else s'

/-- One output sample `x`, at input index `n` (R159 to R162). -/
def State.outSample (s : State) (i b n : Nat) (x : Int) : State :=
  let a := s.fld (sveA i 8) 3 0
  let d := s.fld (sveA i 8) 11 8
  let s := if s.bit (sveA i 8) 24 then s.setBit (sveA i 0x30) 1 false else s
  let gated := s.bit (sveA i 0x30) 1
  let v := (s.sve i).detect (s.fld (sveA i 0xC) 4 0) x
  let upd := !gated || s.inGate i (256 * n - s.gdTotal i b)
  let v := { v with top := if upd then trackTop v.top x a d else v.top, bottom := trackBottom v.bottom x a d }
  let s := s.setSve i v
  let s := s.wrN (sveA i 0x34) (unsignedOf 16 v.top + unsignedOf 16 v.bottom * 65536)
  let ins := s.ampInside i
  let s := if ins = v.inside then s else s.setSve i { v with inside := ins, insideAt := s.sdlNow }
  s.slicer i b n x

/-- One ADC code, and the output sample that falls at its index (R152 to R155). -/
def State.adcSample (s : State) (i : Nat) (c : BitVec 12) : State :=
  let s := if c = 0 ∨ c = 4095 then s.clip i else s
  let v := s.sve i
  let n := v.idx
  let v := { v with raw := (((c.toNat : Int) - 2048) * 16 :: v.raw).take 80, idx := n + 1, gap := false,
                    origin := if v.gap then s.sdlNow else v.origin, originIdx := if v.gap then n else v.originIdx }
  let s := s.setSve i v
  let b := s.activeBank i
  if (n - v.phaseFrom) % s.decim i b ≠ 0 then s
  else
    let (x, sat) := s.firOut i b v.raw
    (if sat then s.inc (sveA i 0x4C) else s).outSample i b n x

def execOutputSample (i : Fin 16) (adc : List (BitVec 12)) (s : State) : Host.Outcome State Fault Refusal :=
  done s (if s.sieves i.val then adc.foldl (fun s c => s.adcSample i.val c) s else s)

/-- An accepted edge in Sundial's time, in 2^-16 ns (R153). -/
def State.tickTime (s : State) (i : Nat) (tick : Int) : Nat :=
  let v := s.sve i
  ((v.origin * 65536 : Nat) + (tick - 256 * v.originIdx) * 65536000 / 55296).toNat

/-- EDGE_DELIVERY: the oldest accepted edge reaches Sundial, in order (R164). -/
def State.edgeOut (s : State) (i : Nat) : State :=
  let v := s.sve i
  match v.ready with
  | [] => s
  | (tick, mark) :: rest =>
    ((s.setSve i { v with ready := rest }).inc (sveA i 0x40)).refEdge i (s.tickTime i tick) mark

def execEdgeDelivery (i : Fin 16) (s : State) : Host.Outcome State Fault Refusal :=
  done s (if s.sieves i.val then s.edgeOut i.val else s)

/-- GATE_LAPSE: 2 ms without an accepted line sync (R162). -/
def execGateLapse (i : Fin 16) (s : State) : Host.Outcome State Fault Refusal :=
  let i := i.val
  let v := s.sve i
  done s (if s.sampleRuns i && s.bit (sveA i 0x30) 1 && decide (v.lastSync + 2 * msNs ≤ s.sdlNow) then
      (s.setSve i { v with syncRun := 0 }).setBit (sveA i 0x30) 1 false
    else s)

end Sys2Proof.Machine
end

