-- ==== Sys2Proof/Machine/Twin.lean ====
section
/-! DEFINITION. The commands of the twin link, the DIAL frames apart (R354 to R360, R364, R365). -/

namespace Sys2Proof.Machine

/-- A write of BOARD_ROLE (R273, R354). -/
def State.boardRoleWrite (s : State) (o : Origin) (v : Nat) : State :=
  let role := bitsOf v 1 0
  if s.top.roleTaken then s.lockedWrite o (topA 0x320)
  else if role = 0 ∨ role = 3 then s.raise 800 0x0B false (topA 0x320)
  else ((s.setTop { s.top with roleTaken := true }).setFld (topA 0x320) 1 0 role).linkCheck

def execBoardRole (val : Word) (s : State) : Host.Outcome State Fault Refusal :=
  done s (s.hostTo (topA 0x320) (fun s => s.boardRoleWrite .host val.toNat))

/-- A lane gains or loses block lock, or its hi_ber changes (R355). -/
def execLaneLockChange (lane : Fin 4) (locked hiBer : Bool) (s : State) : Host.Outcome State Fault Refusal :=
  done s (if s.twnRuns then
    let s := s.setBit (twnA 0x104) (4 + lane.val) locked
    let others := s.twn.hiBer.filter (· ≠ lane.val)
    let s := s.setTwn { s.twn with hiBer := if hiBer then lane.val :: others else others }
    let s := if locked && !hiBer then s else s.setBit (twnA 0x104) 8 false
    s.linkCheck
    else s)

/-- The lanes can be deskewed: each lane number once, and at most 32 blocks between the first alignment block and the last
(R356). -/
def lanesAlign (lanes : List (Byte × Nat)) : Bool :=
  let ps := lanes.map (·.2)
  (List.range 4).all (fun k => (lanes.map (fun e => e.1.toNat)).contains k) &&
    decide (ps.foldl max 0 ≤ ps.foldl min (ps.headD 0) + 32)

/-- Alignment blocks of the four lanes: ALIGNED, or the link is held in TRAINING (R356). -/
def execAlignmentBlock (lanes : List (Byte × Nat)) (s : State) : Host.Outcome State Fault Refusal :=
  done s (if s.twnRuns && s.lanesGood then
    let s := s.linkTrain
    let ok := lanesAlign lanes
    let s := s.setBit (twnA 0x104) 8 ok
    if ok ∨ s.linkState < 2 then s
    else
      let s := s.leaveUp.leaveClash.setLinkState 1
      s.setTwn { s.twn with unrelRx := none }
    else s)

/-- No valid heartbeat for HB_TIMEOUT_MS (R355, R368). -/
def execHeartbeatTimeout (s : State) : Host.Outcome State Fault Refusal :=
  done s (if s.twnRuns && decide (s.linkState ≠ 0) &&
      decide (s.twn.lastHb + max 1 (s.fld (twnA 0x100) 15 12) * msNs ≤ s.now) then
    (s.raise 800 0xC3 false (s.nat (twnA 0x128))).linkDown else s)

/-- What an accepted heartbeat shows of the mate, and the state it brings the link to (R355, R358). -/
def State.heartbeat (s : State) (role : Nat) (version : Word) (keeper alive : Bool) : State :=
  let s := s.setTwn { s.twn with lastHb := s.now }
  if role = s.boardRole then
    if s.linkState = 3 then s
    else
      let s := (s.leaveUp.setLinkState 3).setFld (twnA 0x104) 10 9 role
      let s := ((s.wr (twnA 0x14C) version).setBit (twnA 0x150) 0 keeper).setBit (twnA 0x150) 1 alive
      (s.event (twnA 0x108) 2).raise 800 0xC1 false role
  else
    let other := decide (1 ≤ role ∧ role ≤ 2)
    let s := if s.linkState = 3 then (s.leaveClash).setLinkState 1 else s
    let s := s.setFld (twnA 0x104) 10 9 role
    let s := ((s.wr (twnA 0x14C) version).setBit (twnA 0x150) 0 keeper).setBit (twnA 0x150) 1 alive
    if other && s.linkState == 1 && s.bit (twnA 0x104) 8 then s.enterUp else s

/-- Body of a HEARTBEAT (R358; word order: assumption 19). -/
def heartbeatBody (role session : Nat) (version : Word) (keeper alive : Bool) : List Word :=
  [BitVec.ofNat 32 role, BitVec.ofNat 32 session, version, BitVec.ofNat 32 (keeper.toNat + 2 * alive.toNat)]

def execHeartbeat (h : TwinHdr) (role : BitVec 2) (session : Half) (version : Word) (keeper alive : Bool) (s : State) :
    Host.Outcome State Fault Refusal :=
  done s (if s.twnRuns then
    let s := s.linkTrain
    if s.linkState = 0 then s
    else match (s.twnArrive h (heartbeatBody role.toNat session.toNat version keeper alive)).twnCount h (some 0x128) with
      | (true, s) => s.heartbeat role.toNat version keeper alive
      | (false, s) => s
    else s)

/-- NAK(x): the kept frames from x onward again, or the link drops (R359). -/
def execNak (h : TwinHdr) (x : Half) (s : State) : Host.Outcome State Fault Refusal :=
  done s (if s.twnRuns && s.linkState == 2 then
    match (s.twnArrive h [x.setWidth 32]).twnCount h none with
    | (true, s) =>
      match s.twn.kept.findIdx? (fun e => e.1 == x.toNat) with
      | some i => s.twnResend i
      | none => s.linkDown
    | (false, s) => s
    else s)

/-- A frame breaks R357: its trailer, its LENGTH or its TYPE. -/
def frameBroken (h : TwinHdr) (len : Nat) (body : List Word) (trailer : Word) : Bool :=
  twnSum h.seq.toNat (twinHead h len ++ body) != trailer || decide (1024 < len ∨ len ≠ 4 * body.length ∨ 5 < h.type.toNat)

/-- A frame that breaks R357: checked by unit 2, discarded, counted, reported, and NAKed if it was a reliable one. -/
def State.frameDrop (s : State) (h : TwinHdr) (len : Nat) (body : List Word) (trailer : Word) : State :=
  let sum := twnSum h.seq.toNat (twinHead h len ++ body)
  let s := (s.inc (twnA 0x114)).chkCompare 2 (sum == trailer) sum.toNat
  let s := (s.inc (twnA 0x118)).event (twnA 0x108) 3
  let l := secondAt (s.now / msNs) s.twn.drops
  let s := (s.setTwn { s.twn with drops := l }).raiseLim 1 0 800 0xC2 false (secondCount l)
  if h.rel && s.linkState == 2 then s.twnNak else s

def execCrcDrop (h : TwinHdr) (len : Half) (body : List Word) (trailer : Word) (s : State) : Host.Outcome State Fault Refusal :=
  done s (if s.twnRuns && s.linkState != 0 && frameBroken h len.toNat body trailer then s.frameDrop h len.toNat body trailer
    else s)

/-- The heartbeat of every 1 ms while the link is not DOWN (R358). -/
def execHeartbeatSend (s : State) : Host.Outcome State Fault Refusal :=
  done s (if s.twnRuns then
    let s := s.linkTrain
    if s.linkState = 0 ∨ !s.everyMs s.twn.hbAt then s
    else (s.setTwn { s.twn with hbAt := some s.now }).twnUnrel 1
      (heartbeatBody s.boardRole (s.fld (twnA 0x104) 31 16) (s.rd (rtsA 0x108)) s.cur.aliveStarted (s.bit (curA 0x100) 0))
    else s)

/-- ACK has not advanced for 1 ms since the oldest kept frame was sent (R359). -/
def execResendTimeout (s : State) : Host.Outcome State Fault Refusal :=
  done s (if s.twnRuns && s.linkState == 2 then
    match s.twn.kept with
    | [] => s
    | e :: _ => if max e.2.2.1 s.twn.keptAt + msNs ≤ s.now then s.twnResend 0 else s
    else s)

/-! ### State mirror (R364) -/

/-- The mirrored values: pair i at i, in the layout of MATE_MERGE; dial n at 96 + n, STATE in [2:0] and
SEL_REF in [14:8]; APP_TX word w at 112 + w. -/
def State.mirrorValue (s : State) (i : Nat) : Nat :=
  if i < 96 then
    s.actFld (pairA i 0) 0 0 + s.fld (pairA i 0x0C) 1 0 * 2 + s.fld (pairA i 0x08) 25 24 * 8 +
      s.fld (pairA i 0x0C) 6 5 * 32
  else if i < 112 then s.fld (dialA (i - 96) 0x10) 2 0 + s.fld (dialA (i - 96) 0x10) 22 16 * 256
  else s.nat (twnA (0x800 + 4 * (i - 112)))

/-- Bodies of MIRROR frames: a word that is 1 in the last frame of a whole mirror, then index and value
of each entry, 127 entries at most (assumption 19). -/
def mirrorBodies (whole : Bool) (fuel : Nat) (es : List (Nat × Nat)) : List (List Word) :=
  match fuel with
  | 0 => []
  | fuel + 1 =>
    let last := decide (es.length ≤ 127)
    let b := BitVec.ofNat 32 (whole && last).toNat ::
      (es.take 127).flatMap (fun e => [BitVec.ofNat 32 e.1, BitVec.ofNat 32 e.2])
    if last then [b] else b :: mirrorBodies whole fuel (es.drop 127)

/-- What changed since it was last sent goes out; the whole mirror once a session and every second
(R364). -/
def State.mirrorSend (s : State) : State :=
  let all := (List.range 176).map (fun i => (i, s.mirrorValue i))
  let due := match s.twn.wholeAt with | none => true | some t => decide (t + secNs ≤ s.now)
  let es := if due then all else all.filter (fun e => Tab.get s.twn.mirrorSent 0 e.1 != e.2)
  if es.isEmpty then s
  else
    let sent := es.foldl (fun t e => Tab.set t 0 e.1 e.2) s.twn.mirrorSent
    let s := s.setTwn { s.twn with mirrorSent := sent, wholeAt := if due then some s.now else s.twn.wholeAt }
    (mirrorBodies due 2 es).foldl (fun s b => s.twnRel 3 b) s

def execMirrorSend (s : State) : Host.Outcome State Fault Refusal :=
  done s (if s.twnRuns && s.linkState == 2 && s.bit (twnA 0x100) 8 then s.mirrorSend else s)

/-- One mirrored entry as the mate shows it (R364, R369). -/
def State.mirrorTake (s : State) (p : MirrorPart) : State :=
  match p with
  | .merge i bits => s.setFld (twnA (0x400 + 4 * i.val)) 6 0 bits.toNat
  | .dial n st ref =>
    (s.setFld (twnA (0x200 + 4 * n.val)) 18 16 st.toNat).setFld (twnA (0x200 + 4 * n.val)) 30 24 ref.toNat
  | .app w v => s.wr (twnA (0xA00 + 4 * w.val)) v

/-- Index and value of a mirrored entry, as `mirrorValue` numbers them. -/
def mirrorEntry (p : MirrorPart) : Nat × Word :=
  match p with
  | .merge i bits => (i.val, bits.setWidth 32)
  | .dial n st ref => (96 + n.val, BitVec.ofNat 32 (st.toNat + ref.toNat * 256))
  | .app w v => (112 + w.val, v)

/-- Body of a MIRROR frame (assumption 19). -/
def mirrorBody (parts : List MirrorPart) (whole : Bool) : List Word :=
  BitVec.ofNat 32 whole.toNat :: parts.flatMap (fun p => [BitVec.ofNat 32 (mirrorEntry p).1, (mirrorEntry p).2])

def execMirror (h : TwinHdr) (parts : List MirrorPart) (whole : Bool) (s : State) : Host.Outcome State Fault Refusal :=
  done s (s.twnReliable h (mirrorBody parts whole) (fun s =>
    let s := parts.foldl State.mirrorTake s
    if whole then s.setBit (twnA 0x104) 11 true else s))

/-! ### Image push (R365) -/

/-- A command of the mate, header and body: only the opcodes that R340 permits, only with PUSH_EN; a
remembered tag is answered again, one in hand is a duplicate (R277, R278). -/
def State.mateCmd (s : State) (ws : List Word) : State :=
  let tag := cmdTag ws
  if s.bit (twnA 0x100) 9 = false ∨ (rtsLengths .mate (cmdOp ws)).isNone then
    ((s.event (rtsA 0x104) 4).raise 65 0xB5 false (0x06 + 256)).rtsReply .mate (ownCpl 6 tag)
  else match s.rts.mateMemory.find? (fun c => c.tag == tag) with
    | some c => s.rtsReply .mate { c with keeps := false }
    | none =>
      if s.rts.queue.any (fun e => e.1 == Source.mate && cmdTag e.2 == tag) ∨ s.rts.committing = some (.mate, tag) then
        s.rtsReply .mate (ownCpl 4 tag)
      else s.rtsDeliver .mate ws

def execImageCmd (h : TwinHdr) (words : List Word) (s : State) : Host.Outcome State Fault Refusal :=
  done s (s.twnReliable h words (fun s => s.mateCmd words))

/-- A completion of the mate's Rootstock, header and body, becomes ready in the push mailbox. -/
def execImageRsp (h : TwinHdr) (words : List Word) (s : State) : Host.Outcome State Fault Refusal :=
  done s (s.twnReliable h words (fun s => s.mbReady 4 (serverCpl (cmdOp words) (cmdTag words) (words.drop 1))))

end Sys2Proof.Machine
end

