-- ==== Sys2Proof/Machine/BlockResets.lean ====
section
/-! DEFINITION. Block resets by a reaction, and their shadows (R263, R296, R297, R423). -/

namespace Sys2Proof.Machine

/-! ### What a source stands for (R296) -/

/-- The first source of the block that `src` resets; none where a block reset is not available, as for the sources that the
table of R296 does not list, which no block has (DESIGN CHOICE, assumption 53). -/
def resetBlock (src : Nat) : Option Nat :=
  if src = 64 ∨ 66 ≤ src ∧ src ≤ 98 ∨ 128 ≤ src ∧ src < 244 ∨ 256 ≤ src ∧ src < 656 then some src
  else if 656 ≤ src ∧ src < 672 then some 656
  else if 672 ≤ src ∧ src < 686 ∨ 736 ≤ src ∧ src < 768 then some src
  else if 800 ≤ src ∧ src < 832 then some 800
  else if 832 ≤ src ∧ src < 1024 then some src
  else none

/-- The `n` sources from `a` up. -/
def srcRange (a n : Nat) : List Nat := (List.range n).map (a + ·)

/-- The sources that the shadow of a block reset covers (R296). -/
def shadowCovers (src : Nat) : List Nat :=
  if 144 ≤ src ∧ src < 228 then src :: srcRange 128 16
  else if 228 ≤ src ∧ src < 244 then [src, 144 + (src - 228)]
  else if 256 ≤ src ∧ src < 640 then
    let r := (src - 256) % 192 / 16
    [src, 672 + r, 685, 736 + r]
  else if 640 ≤ src ∧ src < 656 then src :: srcRange 736 32
  else if 656 ≤ src ∧ src < 672 then srcRange 640 32
  else if 672 ≤ src ∧ src < 684 then
    let r := src - 672
    srcRange 672 12 ++ [685] ++ srcRange (256 + 16 * r) 16 ++ srcRange (448 + 16 * r) 16 ++ [736 + r]
  else if src = 684 then srcRange 672 14
  else if src = 685 then srcRange 672 12 ++ [685]
  else if 800 ≤ src ∧ src < 832 then srcRange 800 32
  else [src]

/-- The furrows of a furrow source (R259, R296). -/
def furrowsOf (src : Nat) : List Nat :=
  if src < 748 then [src - 736, 12 + (src - 736), 24 + (src - 736)]
  else if src = 748 then [36]
  else if src < 752 then [37 + (src - 749), 40 + (src - 749)]
  else [48 + (src - 752)]

/-- How long the block is held, in ns, where that is a time (R296). -/
def resetNs (src : Nat) : Nat :=
  if src = 64 then 10 * usNs
  else if 656 ≤ src ∧ src < 672 then 10 * msNs
  else if 800 ≤ src ∧ src < 832 then msNs
  else usNs

/-! ### What the reset does -/

/-- The event bits of the SQ registers that `p` names clear, those of SUMMARY among them; SEQ is no event bit and is
kept (R296; DEDUCED, assumption 53). -/
def State.clearSq (s : State) (p : Nat → Bool) : State :=
  (s.regs.filter (fun e => p e.1 && (fieldsAt e.1).any (fun r => r.ty == .sq))).foldl (fun s e => s.setFld e.1 23 0 0) s

/-- The KEY registers that `p` names are disarmed (R263, R271). -/
def State.disarm (s : State) (p : Nat → Bool) : State :=
  s.setRegs (s.regs.filter (fun e => !(p e.1 && (fieldsAt e.1).any (fun r => r.ty == .key))))

/-- HIF: mailboxes, the MSI-X table and pending bits, QDR_PAGE, key arms, a pending complement pair
(R263). -/
def State.hifReset (s : State) : State :=
  let s := [0, 1, 2, 3].foldl (fun s k => s.mbReset k (s.mbox k).afterReset) s
  let s := ((s.clearRegs (hifA 0x8000) (hifA 0x8400)).clearRegs (hifA 0x9000) (hifA 0x9008)).wrN (hifA 0x130) 0
  let s := s.disarm (fun _ => true)
  s.setTop { s.top with kc := none }

/-- A Sieve input: detectors and separator restart, banks and the samples in the filters stay (R296). -/
def State.sveReset (s : State) (i : Nat) : State :=
  let v := s.sve i
  let s := s.setSve i { Sve.init with idx := v.idx, phaseFrom := v.phaseFrom, raw := v.raw, clips := v.clips }
  let s := (s.setFld (sveA i 0x30) 1 0 0).setBit 0x100100 i false
  s.clearRegs (sveA i 0x34) (sveA i 0x40)

/-- QDM: pins' records and retraining as at reset, READY down until recalibrated (R379, R380). -/
def State.qdmReset (s : State) : State :=
  let s := s.setQdm { s.qdm with pinErr := [], pinOk := [], retraining := [] }
  let s := (List.range 8).foldl (fun s d => s.clearRegs (devA d 0x08) (devA d 0x28)) s
  s.setBit (qdmA 0x104) 24 false

/-- MAP, LTX and STX of row `r`: pipelines and status as at reset; counters, program-written bytes and the active
configuration stay (R296; what is status: assumption 53). -/
def State.rowReset (s : State) (r : Nat) : State :=
  let s := (List.range 80).foldl (fun s t =>
    let x := s.trib r t
    let s := s.setTrib r t { Trib.init with latchBase := x.latchBase, secSeen := x.secSeen, slots := x.slots,
                                            pdefEff := x.pdefEff }
    (s.setFld (tribA r t 0) 25 0 0).setFld (tribA r t 4) 25 0 0) s
  let s := (List.range 80).foldl (fun s t => s.clearRegs (tmA r t + 0x10) (tmA r t + 0x1C)) s
  let s := (List.range 32).foldl (fun s j => s.clearRegs (mapA r (0xA000 + 0x20 * j)) (mapA r (0xA00C + 0x20 * j))) s
  let s := s.setMapOh r OhX.mapInit
  let s := ((List.range 32).map (chanOf r)).foldl (fun s f =>
    let x := s.tx f
    (s.setTx f { Tx.init with slots := x.slots, timing := x.timing }).clearRegs (txA f 0x70C) (txA f 0x718)) s
  ((List.range 128).filter (fun k => (s.sourceOf r k).isSome)).foldl (fun s k => s.setHold r k 2) s

/-- Trellis: a commit in progress is abandoned, every connection restarts, the active tables stay (R98,
R296). -/
def State.trlReset (s : State) : State :=
  let s := s.wrN (trlA 0x104) 0
  (s.outTable (trlA 0x50000)).foldl (fun s e => if e.slot == 0 then s.setHold e.row e.sink 2 else s) s

/-- Cellar: every pair leaves alignment, every buffer restarts; groups in deskew declare LOA (R111, R117,
R296). -/
def State.celReset (s : State) : State :=
  let s := (List.range 96).foldl (fun s i => s.mRestart i) s
  let s := (List.range 384).foldl (fun s b => if s.granted (108 + b) then s.setFld (slipA b 4) 15 8 128 else s) s
  (List.range 12).foldl (fun s r => (List.range 80).foldl (fun s n =>
    if s.tPlots r n ≠ 0 then
      match s.headOf r n with
      | some h => (s.setTrib r h { s.trib r h with loaClear := 0 }).setLoa r h true
      | none => s
    else s) s) s

/-- A time-transfer channel (R187, R296). -/
def State.ttcReset (s : State) (n : Nat) : State :=
  let c := s.ttc n
  (s.setTtc n { c with deps := [], arrs := [], passed := 0, msg := [], rxMfas0 := 0 }).setFld (ttcA n 0xC) 15 0 0

/-- A reference: CHECKING with its runs cleared (R138, R296). -/
def State.refReset (s : State) (r : Nat) : State :=
  if s.qstate r = 0 ∨ s.qstate r = 6 then s
  else
    let s := ((s.restartMeas r).setQNow r 2).clearRegs (refA r 0x1C) (refA r 0x28)
    (s.setFld (refA r 0x18) 31 16 0).setRef r { s.ref r with lastEdge := none, winEdge := none, quietSince := s.sdlNow }

/-- The register at `a` belongs to what a block reset of `src` acts on: the block held in reset, or a dial, a reference,
a bed, the furrows or a time-transfer channel, which answer throughout (R296). -/
def resetTouches (src a : Nat) : Bool :=
  resetCovers src a ||
    (if 128 ≤ src ∧ src < 144 then decide (dialA (src - 128) 0 ≤ a ∧ a < dialA (src - 128) 0x200)
     else if 144 ≤ src ∧ src < 228 then decide (refA (src - 144) 0 ≤ a ∧ a < refA (src - 144) 0x80)
     else if 640 ≤ src ∧ src < 656 then decide (bedA (src - 640) 0 ≤ a ∧ a < bedA (src - 640) 0x100000)
     else if 736 ≤ src ∧ src < 768 then (furrowsOf src).any (fun F => decide (furA F 0 ≤ a ∧ a < furA F 0x40))
     else if 832 ≤ src ∧ src < 1024 then decide (ttcA (src - 832) 0 ≤ a ∧ a < ttcA (src - 832) 0x40)
     else false)

/-- The start of the block reset of `src` (R263, R271, R296). -/
def State.resetStart (s : State) (src : Nat) : State :=
  if src = 64 then s.hifReset
  else
    let s := (s.clearSq (resetTouches src)).disarm (resetTouches src)
    if 66 ≤ src ∧ src < 98 then s.chkReset (src - 66)
    else if src = 98 then s.invReset
    else if 128 ≤ src ∧ src < 144 then s.restartAsk (src - 128)
    else if 144 ≤ src ∧ src < 228 then s.refReset (src - 144)
    else if 228 ≤ src ∧ src < 244 then s.sveReset (src - 228)
    else if 256 ≤ src ∧ src < 640 then s.rxResetStart (src - 256)
    else if 640 ≤ src ∧ src < 656 then s.bedFault (src - 640) 5
    else if 656 ≤ src ∧ src < 672 then s.qdmReset
    else if 672 ≤ src ∧ src < 684 then s.rowReset (src - 672)
    else if src = 684 then s.trlReset
    else if src = 685 then s.celReset
    else if 736 ≤ src ∧ src < 768 then (furrowsOf src).foldl State.flushAsk s
    else if 800 ≤ src ∧ src < 832 then s.twnReset
    else if 832 ≤ src ∧ src < 1024 then s.ttcReset (src - 832)
    else s

/-- The block leaves reset (R296, R355, R380, R423). -/
def State.resetEnd (s : State) (src : Nat) : State :=
  if 256 ≤ src ∧ src < 640 then s.rxResetEnd (src - 256)
  else if 656 ≤ src ∧ src < 672 then s.setBit (qdmA 0x104) 24 true
  else if 800 ≤ src ∧ src < 832 then s.linkCheck
  else s

/-- The block reset of `src` has run its course (R296). -/
def State.resetOver (s : State) (r : BlockReset) : Bool :=
  if 128 ≤ r.src ∧ r.src < 144 then !(s.dial (r.src - 128)).restartDue
  else if 640 ≤ r.src ∧ r.src < 656 then
    !(List.range 16).any (fun b => match (s.bed b).move with
      | some m => m.why == 0 && m.old == r.src - 640
      | none => false)
  else if 736 ≤ r.src ∧ r.src < 768 then !(furrowsOf r.src).any (fun F => s.bit (furA F 0x08) 13)
  else decide (r.endsAt ≤ s.now)

/-- The block of `src` is in reset under a reaction (R293). -/
def State.beingReset (s : State) (src : Nat) : Bool :=
  s.cur.blockResets.any (fun r => resetBlock r.src == resetBlock src)

/-! ### Shadows (R297) -/

/-- SHADOWED of the sources of a list (R303). -/
def State.showShadows (s : State) (srcs : List Nat) : State :=
  srcs.foldl (fun s x => s.setBit (srcA x 0x0C) 16 (s.shadowed x)) s

/-- A block reset starts: its shadow opens with it (R296, R297). -/
def State.blockReset (s : State) (src : Nat) : State :=
  let c := s.cur
  let hist := s.now :: (Tab.get c.resetTimes [] src).filter (fun t => decide (s.now < t + 10 * secNs))
  let s := s.setCur { c with
    blockResets := c.blockResets ++ [({ src := src, endsAt := s.now + resetNs src } : BlockReset)],
    shadows := c.shadows ++ [({ src := src, covers := shadowCovers src, closesAt := none, marked := 0 } : Shadow)],
    resetTimes := Tab.set c.resetTimes [] src hist }
  ((s.inc (curA 0x13C)).showShadows (shadowCovers src)).resetStart src

/-- BLOCK_RESET_END: the block leaves reset and its shadow settles. -/
def State.blockResetEnd (s : State) (src : Nat) : State :=
  match s.cur.blockResets.find? (fun r => r.src == src) with
  | none => s
  | some r =>
    if !s.resetOver r then s
    else
      let settle := s.now + s.fld (curA 0x114) 9 0 * 100 * usNs
      let c := s.cur
      let s := s.setCur { c with
        blockResets := c.blockResets.filter (fun x => x.src != src),
        shadows := c.shadows.map (fun (h : Shadow) =>
          if h.src = src ∧ h.closesAt = none then { h with closesAt := some settle } else h) }
      s.resetEnd src

/-- SHADOW_END (R297, R302). -/
def State.shadowEnd (s : State) (src : Nat) : State :=
  match s.cur.shadows.find? (fun h => h.src == src &&
      (match h.closesAt with | some t => decide (t ≤ s.now) | none => false)) with
  | none => s
  | some h =>
    let s := s.setCur { s.cur with shadows := s.cur.shadows.erase h }
    ((s.showShadows h.covers).event (curA 0x104) 0).raise 99 0x91 false (src + min h.marked 65535 * 65536)

end Sys2Proof.Machine
end

