-- ==== Sys2Proof/Machine/Curator.lean ====
section
/-! DEFINITION. Curator: intake, the logs, reactions, ALIVE (R285 to R303). -/

namespace Sys2Proof.Machine

def State.curRuns (s : State) : Bool := s.coreRuns && !s.inReset (curA 0)

def State.ringReady (s : State) : Bool := s.bit (curA 0x100) 4

/-! ### The logs (R285, R288, R289) -/

/-- REP_HI of a report (R285). -/
def Report.hi (r : Report) (rep ovf : Bool) : Nat :=
  r.src * 2 ^ 22 + r.kind % 64 * 2 ^ 16 + r.seq % 256 * 2 ^ 8 + r.kind / 64 % 4 * 2 ^ 6 + rep.toNat * 16 +
    ovf.toNat * 8 + r.forced.toNat * 4 + r.conseq.toNat * 2 + r.clear.toNat

/-- An entry joins the on-die log at LOG_WR (R288, R289). -/
def State.logAppend (s : State) (lo hi ns sec : Word) : State :=
  let n := s.nat (curA 0x108)
  let ns' := BitVec.ofNat 32 (putBits ns.toNat 31 30 (n / 1024))
  (s.wrAll (curA (0x4000 + 16 * (n % 1024))) [lo, hi, ns', sec]).inc (curA 0x108)

def State.ringSlot (s : State) (n : Nat) : Nat := s.fld (curA 0x110) 26 0 + 64 + 16 * (n % 65536)

/-- Entries logged and not yet in the ring. -/
def State.uncopied (s : State) : Nat := (s.nat (curA 0x108) + 2 ^ 32 - s.cur.ringNext) % 2 ^ 32

def State.ringAdvance (s : State) : State :=
  s.setCur { s.cur with ringNext := (s.cur.ringNext + 1) % 2 ^ 32 }

/-- A counted loss of entries, reported at most once a second with the number lost in the second (R291, R302). -/
def State.ringLoss (s : State) (countA kind : Nat) (get : Cur → List (Nat × Nat)) (put : Cur → List (Nat × Nat) → Cur) : State :=
  let l := secondAt (s.now / msNs) (get s.cur)
  ((s.inc countA).setCur (put s.cur l)).raiseLim 1 0 99 kind false (min (secondCount l) (2 ^ 32 - 1))

/-- The next entry goes to its slot of the ring, or was overwritten on die and is lost to it
(R289, R291). -/
def State.ringCopy (s : State) : State :=
  let n := s.cur.ringNext
  if 1024 < s.uncopied then
    (s.ringLoss (curA 0x138) 0x94 (fun c => c.spills) (fun c l => { c with spills := l })).ringAdvance
  else
    let at_ := curA (0x4000 + 16 * (n % 1024))
    let w := fun i => (s.rd (at_ + 4 * i)).toNat
    let s' := s.qdrStore 1 (s.ringSlot n)
      (leBytes (w 0) ++ leBytes (w 1) ++ leBytes (putBits (w 2) 31 30 (n / 65536)) ++ leBytes (w 3)) 2
    let s' := if 65536 ≤ (n + 2 ^ 32 - s.nat (curA 0x10C)) % 2 ^ 32 ∧ (n + 2 ^ 32 - s.nat (curA 0x10C)) % 2 ^ 32 < 2 ^ 31 then
        (s'.event (curA 0x104) 2).ringLoss (curA 0x134) 0x92 (fun c => c.overruns)
          (fun c l => { c with overruns := l })
      else s'
    s'.ringAdvance

def execRingCopy (s : State) : Host.Outcome State Fault Refusal :=
  done s (if s.curRuns && s.ringReady && s.qdrUp && s.uncopied != 0 then s.ringCopy else s)

def ringMagic : Nat := 0x4355524C

/-- The header names the next entry that goes to the ring; unit 4 computes its check (R289, R424). -/
def State.ringHeader (s : State) : State :=
  let bs := leBytes ringMagic ++ leBytes s.cur.ringNext
  let crc := (checkFinal 2 (checkBytes 2 (checkInit 2) bs)).toNat
  (s.chkItem 4 crc).qdrStore 1 (s.fld (curA 0x110) 26 0) (bs ++ leBytes crc ++ List.replicate 52 0) 2

def execRingHeaderWrite (s : State) : Host.Outcome State Fault Refusal :=
  done s (if s.curRuns && s.ringReady && s.qdrUp then s.ringHeader else s)

/-! ### INT and NMI (R294, R295) -/

/-- Marks an entry that is held without a number, by its place among the held ones. -/
def heldMark (i : Nat) : Nat := 2 ^ 32 + 1 + i

/-- Vector `v` is pending: its last INT entry is held, or lies at or above LOG_RD. -/
def State.intPending (s : State) (v : Nat) : Bool :=
  let k := Tab.get s.cur.lastInt 0 v
  let wr := s.nat (curA 0x108)
  k != 0 && (decide (2 ^ 32 < k) ||
    decide ((wr + 2 ^ 32 - (k - 1)) % 2 ^ 32 ≤ (wr + 2 ^ 32 - s.nat (curA 0x10C)) % 2 ^ 32))

/-- INT_ASSERTED. -/
def State.showInt (s : State) : State :=
  s.setBit (curA 0x100) 3 (s.cur.lastInt.any (fun e => s.intPending e.1))

/-- The vector of source `src` (R294). -/
def State.intVector (s : State) (src : Nat) : Nat :=
  let v := s.fld (srcA src 0) 13 8
  if 11 ≤ v then v else 0

/-- An entry, `mark` one more than its number, took INT; `was` whether its vector was pending before it. -/
def State.takeInt (s : State) (v mark : Nat) (was : Bool) : State :=
  let s := s.setCur { s.cur with lastInt := Tab.set s.cur.lastInt 0 v mark }
  let s := s.showInt
  if was then s else s.msix v

/-- An acknowledgement that had to wait for its 1 µs has taken effect by now (R295). -/
def State.nmiSettle (s : State) : State :=
  if s.cur.nmiAckPending && decide (s.cur.nmiAt + usNs ≤ s.now) then
    (s.setCur { s.cur with nmiAckPending := false }).setBit (curA 0x100) 2 false
  else s

/-- An NMI reaction. -/
def State.takeNmi (s : State) : State :=
  let s := s.nmiSettle
  let s := s.setCur { s.cur with nmiAt := s.now }
  if s.bit (curA 0x100) 2 then s else (s.setBit (curA 0x100) 2 true).msix 1

def State.nmiAckWrite (s : State) : State :=
  (s.setCur { s.cur with nmiAckPending := true }).nmiSettle

def execNmiAck (s : State) : Host.Outcome State Fault Refusal :=
  done s (s.hostTo (curA 0x124) State.nmiAckWrite)

/-! ### ALIVE (R300) -/

def State.aliveRuns (s : State) : Bool :=
  s.cur.aliveStarted && !s.cur.aliveStopped && !s.cur.aliveLost && !s.cur.aliveCore

/-- A change of what holds ALIVE: a stop sets its event, a start begins a period. -/
def State.aliveSet (s : State) (f : Cur → Cur) : State :=
  let was := s.aliveRuns
  let s := s.setCur (f s.cur)
  let s := if !was && s.aliveRuns then (s.setCur { s.cur with lastToggle := s.now }) else s
  let s := if was && !s.aliveRuns then s.event (curA 0x104) 3 else s
  s.setBit (curA 0x100) 0 s.aliveRuns

def State.aliveStart (s : State) : State :=
  s.aliveSet (fun c => { c with aliveStarted := true, aliveLost := false, lastKick := s.now })

def execAliveStart (s : State) : Host.Outcome State Fault Refusal :=
  done s (s.hostTo (curA 0x118) State.aliveStart)

/-- A write of ALIVE_RESUME, a K register (R271, R300). -/
def State.aliveResumeWrite (s : State) (o : Origin) (v : Word) : State :=
  let (ok, s) := s.kGate o (curA 0x120)
  if ok && v.getLsbD 0 && s.cur.aliveStopped then s.aliveSet (fun c => { c with aliveStopped := false }) else s

def execAliveResume (val : Word) (s : State) : Host.Outcome State Fault Refusal :=
  done s (s.hostTo (curA 0x120) (fun s => s.aliveResumeWrite .host val))

/-- 500 µs of CORE_CLK at one level. -/
def execAliveToggle (s : State) : Host.Outcome State Fault Refusal :=
  done s (if s.curRuns && s.aliveRuns && decide (s.cur.lastToggle + 500 * usNs ≤ s.now) then
      (s.setCur { s.cur with lastToggle := s.cur.lastToggle + 500 * usNs }).setBit (curA 0x100) 1
        (!s.bit (curA 0x100) 1)
    else s)

def execAliveKickLost (s : State) : Host.Outcome State Fault Refusal :=
  let ms := s.fld (curA 0x11C) 15 0
  done s (if s.curRuns && s.cur.aliveStarted && !s.cur.aliveLost && ms != 0 &&
      decide (s.cur.lastKick + ms * msNs ≤ s.now) then
      (s.aliveSet (fun c => { c with aliveLost := true })).raise 99 0x93 false ms
    else s)

/-! ### Intake and reactions (R287, R292, R293, R298) -/

/-- The next source in round-robin order. -/
def nextSource (t : Tab (List Report)) (last : Nat) : Option Nat :=
  match t.find? (fun e => decide (last < e.1)) with
  | some e => some e.1
  | none => t.head?.map (fun e => e.1)

/-- The reactions of a report. -/
structure Reacts where
  aliveStop : Bool
  nmi : Bool
  int : Bool
  block : Bool
  chip : Bool
  /-- It met the repeat limit. -/
  rep : Bool
  /-- Its source has no block reset. -/
  missing : Bool
deriving DecidableEq, Repr

/-- Resets that a source's reports caused within the last 10 s (R298). -/
def State.recentResets (s : State) (src : Nat) : Nat :=
  ((Tab.get s.cur.resetTimes [] src).filter (fun t => decide (s.now < t + 10 * secNs))).length

def State.reacts (s : State) (r : Report) : Reacts :=
  let w := s.nat (srcA r.src 0)
  let z := s.nat (srcA r.src 4)
  let on := s.reactKind r.kind && !r.conseq
  let onset := on && !r.clear
  let wants := onset && z.testBit 0 && !z.testBit 1 && !s.bit (srcA r.src 0x0C) 17
  let avail := (resetBlock r.src).isSome
  let free := wants && avail && !s.beingReset r.src
  let rep := free && decide (3 ≤ s.recentResets r.src)
  { aliveStop := onset && (w.testBit 2 || rep && z.testBit 9)
    nmi := onset && (w.testBit 1 || rep && z.testBit 8)
    int := on && w.testBit 0 && (!r.clear || w.testBit 3)
    block := free && !rep
    chip := onset && (z.testBit 1 || rep && z.testBit 10)
    rep := rep
    missing := wants && !avail }

/-- ESCALATED (R298). -/
def State.escalate (s : State) (src : Nat) : State :=
  ((s.setBit (srcA src 0x0C) 17 true).inc (curA 0x140)).event (curA 0x104) 1

/-- The reactions in the order of R293; `mark` names the entry for INT. -/
def State.react (s : State) (src : Nat) (x : Reacts) (mark : Nat) (was : Bool) : State :=
  let s := if x.rep then s.escalate src else s
  let s := if x.aliveStop then s.aliveSet (fun c => { c with aliveStopped := true }) else s
  let s := if x.nmi then s.takeNmi else s
  let s := if x.int then s.takeInt (s.intVector src) mark was else s
  let s := if x.missing then s.raise 99 0x0B false src else s
  let s := if x.block then s.blockReset src else s
  if x.chip then s.askReset 2 src else s

/-- The report that is taken: logged, or held until the ring is ready (R288, R290). -/
def State.logReport (s : State) (r : Report) (rep ovf : Bool) : State :=
  let (ns, sec) := s.logTime
  let lo := BitVec.ofNat 32 r.detail
  let hi := BitVec.ofNat 32 (r.hi rep ovf)
  if s.ringReady then s.logAppend lo hi (BitVec.ofNat 32 ns) (BitVec.ofNat 32 sec)
  else s.setCur { s.cur with held := s.cur.held ++ [(lo, hi, BitVec.ofNat 32 ns, BitVec.ofNat 32 sec)] }

/-- What the taking of a report does beside the queues (R287, R288, R297). -/
def State.takeReport (s : State) (r : Report) : State :=
  let ovf := s.cur.overflow.contains r.src
  let s := s.setCur { s.cur with overflow := s.cur.overflow.filter (· ≠ r.src) }
  let s := (s.inc (srcA r.src 0x10)).setFld (srcA r.src 0x0C) 15 8 r.kind
  let s := if r.conseq then s.inc (curA 0x144) else s
  let x := s.reacts r
  let was := s.intPending (s.intVector r.src)
  let mark := if s.ringReady then s.nat (curA 0x108) + 1 else heldMark s.cur.held.length
  (s.logReport r x.rep ovf).react r.src x mark was

/-- REPORT_INTAKE. -/
def State.intakeNext (s : State) : State :=
  match nextSource s.cur.intake s.cur.lastTaken with
  | none => s
  | some src =>
    match Tab.get s.cur.intake [] src with
    | [] => s
    | r :: rest =>
      let s := s.setCur { s.cur with intake := Tab.set s.cur.intake [] src rest, lastTaken := src }
      let s := if 640 ≤ src ∧ src < 656 then s.feedConds (src - 640) else s
      if !s.ringReady && decide (1023 ≤ s.cur.held.length) then s.dropReport src else s.nmiSettle.takeReport r

def execReportIntake (s : State) : Host.Outcome State Fault Refusal :=
  done s (if s.curRuns then s.intakeNext else s)

/-! ### Host writes of Curator's registers -/

/-- LOG_RD: clamped to LOG_WR; the vectors that it passes are acknowledged (R291, R294). -/
def State.logRdWrite (s : State) (v : Word) : State :=
  (s.wrN (curA 0x10C) (clampRd (s.nat (curA 0x10C)) (s.nat (curA 0x108)) v.toNat)).showInt

def execLogRd (val : Word) (s : State) : Host.Outcome State Fault Refusal :=
  done s (s.hostTo (curA 0x10C) (fun s => s.logRdWrite val))

/-- SRC_FORCE (R301). -/
def State.srcForceWrite (s : State) (src : Nat) (v : Word) : State :=
  let s := s.setFld (srcA src 8) 8 0 v.toNat
  if v.getLsbD 31 && v.toNat % 256 != 0 then
    s.raiseAs src (v.toNat % 256) (v.getLsbD 8) (s.nat (curA 0x128)) true
  else s

def execSrcForce (src : Fin 1024) (val : Word) (s : State) : Host.Outcome State Fault Refusal :=
  done s (s.hostTo (srcA src.val 8) (fun s => s.srcForceWrite src.val val))

/-- SRC_RESET, a K register: a write that acts clears ESCALATED and the history (R298). -/
def State.srcResetWrite (s : State) (o : Origin) (src : Nat) (v : Word) : State :=
  let (ok, s) := s.kGate o (srcA src 4)
  if ok then
    let s := (s.store (srcA src 4) v true).setBit (srcA src 0x0C) 17 false
    s.setCur { s.cur with resetTimes := Tab.set s.cur.resetTimes [] src [] }
  else s

def execSrcReset (src : Fin 1024) (val : Word) (s : State) : Host.Outcome State Fault Refusal :=
  done s (s.hostTo (srcA src.val 4) (fun s => s.srcResetWrite .host src.val val))

/-! ### The ends of block resets and shadows -/

def execBlockResetEnd (src : Fin 1024) (s : State) : Host.Outcome State Fault Refusal :=
  done s (if s.curRuns then s.blockResetEnd src.val else s)

def execShadowEnd (src : Fin 1024) (s : State) : Host.Outcome State Fault Refusal :=
  done s (if s.curRuns then s.shadowEnd src.val else s)

end Sys2Proof.Machine
end

