-- ==== Sys2Proof/Machine/Pins.lean ====
section
/-! DEFINITION. Clocks, the PCI Express link, SerDes lanes, lane data furrows, I2C, GPIO and temperature
(R27, R29, R178, R258, R263, R264, R404, R405, R410, R413, R414, R421). -/

namespace Sys2Proof.Machine

/-- TOP answers: it has left reset (R390). -/
def State.topRuns (s : State) : Bool := !s.inReset (topA 0x100)

/-! ### Clocks (R27, R29, R149, R421) -/

def State.sundialDown (s : State) : Bool := s.top.failed.contains .sundial || s.top.failed.contains .osc

/-- Kind of the report of a clock that TOP watches from source 1; CORE_CLK's is raised on its return (R29). -/
def clockKind (c : Clock) : Option Nat :=
  match c with
  | .engine => some 0xE1
  | .qdr => some 0xE2
  | .hostClk => some 0xE3
  | .sample => some 0xE5
  | _ => none

/-- Sundial has no clock from now on, or has it again: its own time, and dial time with it, stands still in between; the
failure is reported from source 244 (R27, R149). -/
def State.sundialMoved (s t : State) : State :=
  let t := t.setSdl s.sdlNow s.now
  if s.sundialDown = t.sundialDown then t
  else if t.sundialDown then (t.event (sdlA 0x110) 1).raise 244 0x4F false 0
  else t.raise 244 0x4F true 0

/-- The mailbox timers follow HOST_CLK (R276). -/
def State.hostTimers (s : State) : State := [0, 1, 2, 3].foldl State.mbTimer s

/-- SAMPLE_CLK stops, by itself or with SUNDIAL_CLK: every input of Sieve takes no samples (R27, R153, R164). -/
def State.samplesStop (s : State) : State := (List.range 16).foldl State.sveBreak s

/-- What a stopped clock brings at once (R27, R300). -/
def State.clockGone (s : State) (c : Clock) : State :=
  match c with
  | .core => (s.setTop { s.top with coreAt := s.now }).aliveSet (fun x => { x with aliveCore := true })
  | .hostClk => s.hostTimers
  | .sample => (List.range 16).foldl (fun s r =>
      if 2 ≤ s.qstate r ∧ s.qstate r ≤ 5 then s.setQNow r 1 else s) s.samplesStop
  | .sundial => s.samplesStop
  | .osc => s.samplesStop
  | _ => s

/-- A clock is declared failed. -/
def State.clockFails (s : State) (c : Clock) : State :=
  if s.top.failed.contains c then s
  else
    let t := s.setTop { s.top with failed := s.top.failed ++ [c] }
    let t := match clockKind c with | some k => t.raise 1 k false 0 | none => t
    (s.sundialMoved t).clockGone c

def execClockFailure (c : Clock) (s : State) : Host.Outcome State Fault Refusal :=
  done s (if s.topRuns then s.clockFails c else s)

/-- The CLK_STATUS bit of a clock's PLL, and the clocks that it feeds (R421). -/
def clockBit (c : Clock) : Option Nat :=
  match c with
  | .core => some 0
  | .engine => some 0
  | .qdr => some 1
  | .sundial => some 2
  | .sample => some 2
  | .osc => some 3
  | .hostClk => none

def bitClocks (b : Nat) : List Clock :=
  match b with
  | 0 => [.core, .engine]
  | 1 => [.qdr]
  | 2 => [.sundial, .sample]
  | _ => [.osc]

/-- A clock is declared restored; the PLL bit is set again once all that it feeds is back. -/
def State.clockReturns (s : State) (c : Clock) : State :=
  if !s.top.failed.contains c then s
  else
    let t := s.setTop { s.top with failed := s.top.failed.filter (fun x => x != c) }
    let t := match clockKind c with | some k => t.raise 1 k true 0 | none => t
    let t := if c = .core then
        let us := min ((s.now - s.top.coreAt) / usNs) (2 ^ 32 - 1)
        (t.raise 1 0xE4 false us).raise 1 0xE4 true us
      else t
    let t := match clockBit c with
      | some b => if (bitClocks b).any (fun x => t.top.failed.contains x) then t else t.setBit (topA 0x108) b true
      | none => t
    let t := if c = .hostClk then t.hostTimers else t
    s.sundialMoved t

def execClockRestored (c : Clock) (s : State) : Host.Outcome State Fault Refusal :=
  done s (if s.topRuns then s.clockReturns c else s)

/-- A PLL loses lock, or OSC_IN stops toggling: the clocks it feeds fail with it (R419, R421). -/
def State.clkStatusFall (s : State) (b : Nat) : State :=
  if s.bit (topA 0x108) b then
    (bitClocks b).foldl State.clockFails ((s.setBit (topA 0x108) b false).summary (topA 0) 8)
  else s

def execClkStatusFall (bit : Fin 4) (s : State) : Host.Outcome State Fault Refusal :=
  done s (if s.topRuns then s.clkStatusFall bit.val else s)

/-! ### The PCI Express link (R263, R264) -/

/-- The block reset of HIF that the link or an FLR brings: no reaction, no shadow (R263, R296). -/
def State.hifResetNow (s : State) : State :=
  if s.beingReset 64 then s
  else
    (s.setCur { s.cur with
        blockResets := s.cur.blockResets ++ [({ src := 64, endsAt := s.now + resetNs 64 } : BlockReset)] }).resetStart 64

/-- LINK_DOWN is raised unless it stands. -/
def State.linkLost (s : State) : State :=
  let s := s.setBit (hifA 0x100) 0 false
  if s.top.linkDown then s
  else ((s.setTop { s.top with linkDown := true }).hifEvent 5).raiseLim 1000 0 64 0x85 false 0

def execLinkDown (s : State) : Host.Outcome State Fault Refusal :=
  done s (if s.topRuns then s.hifResetNow.linkLost else s)

def execLinkL0Timeout (s : State) : Host.Outcome State Fault Refusal :=
  done s (if s.topRuns then s.linkLost else s)

def execFunctionLevelReset (s : State) : Host.Outcome State Fault Refusal :=
  done s (if s.topRuns then s.hifResetNow else s)

/-- LINK_UP, and the end of LINK_DOWN (R263). -/
def State.linkBack (s : State) (speed width : Nat) : State :=
  let s := s.setFld (hifA 0x100) 6 0 (1 + speed * 2 + width * 16)
  if s.top.linkDown then (s.setTop { s.top with linkDown := false }).raiseLim 1000 0 64 0x85 true 0 else s

def execReturnToL0 (speed : BitVec 3) (width : BitVec 3) (s : State) : Host.Outcome State Fault Refusal :=
  done s (if s.topRuns then s.linkBack speed.toNat width.toNat else s)

def State.pendingBit (s : State) (v : Nat) : Bool := s.bit (hifA (0x9000 + v / 32 * 4)) (v % 32)

/-- A pending message goes once its vector is unmasked and the link carries it. -/
def execMsixPendingSend (v : Fin 64) (s : State) : Host.Outcome State Fault Refusal :=
  let v := v.val
  done s (if s.hifLive && s.pendingBit v && !s.bit (hifA (0x800C + 16 * v)) 0 && s.linkCarries then
      (s.setBit (hifA (0x9000 + v / 32 * 4)) (v % 32) false).msix v
    else s)

/-! ### SerDes lanes (R178, R404, R405) -/

/-- A change in the SRD of framer `f`'s lane is seen while the framer's block is out of reset. -/
def State.laneRuns (s : State) (f : Nat) : Bool := s.coreRuns && !s.inReset (rxA f 0)

/-- CDR_LOCK: signal, lock, equaliser, and the latency measured with it. -/
def State.cdrLock (s : State) (f ps ctle : Nat) : State :=
  let a := srdA (srdRx f) 0x104
  let hold := s.bit (srdA (srdRx f) 0x100) 25
  let s := s.setFld a 1 0 3
  let s := if hold then s else s.setFld a 15 8 (min ctle 200)
  s.setFld (rxA f 0x704) 19 0 ps

def execCdrLock (f : Chan) (ps : BitVec 20) (ctle : Byte) (s : State) : Host.Outcome State Fault Refusal :=
  done s (if s.laneRuns f.val then s.cdrLock f.val ps.toNat ctle.toNat else s)

/-- The framer register that holds the latency of an SRD instance (R178, R405). -/
def pinLatA (srd : Nat) : Nat :=
  if srd < 192 then rxA srd 0x704
  else if srd < 384 then txA (srd - 192) 0x704
  else if srd < 576 then rxA (192 + (srd - 384)) 0x704
  else txA (192 + (srd - 576)) 0x704

def execPinLatencyMeasure (srd : Fin 768) (ps : BitVec 20) (s : State) : Host.Outcome State Fault Refusal :=
  done s (if s.coreRuns && !s.inReset (pinLatA srd.val) then s.setFld (pinLatA srd.val) 19 0 ps.toNat else s)

def srdIsRx (srd : Nat) : Bool := decide (srd < 192 ∨ 384 ≤ srd ∧ srd < 576)

/-- The polynomial x^n + x^k + 1 of a PRBS_SEL code, by ITU-T O.150 (R404; the numbers are the Recommendation's, log 87). -/
def prbsPoly (sel : Nat) : Nat × Nat :=
  match sel with
  | 1 => (7, 6)
  | 2 => (9, 5)
  | 3 => (15, 14)
  | 4 => (23, 18)
  | _ => (31, 28)

/-- The next bit of the sequence after the bits in `r`; the sequence never holds n zeros, so a one must follow them. -/
def prbsNext (p : Nat × Nat) (r : Nat) : Bool :=
  decide (r % 2 ^ p.1 = 0) || (r.testBit (p.1 - 1) != r.testBit (p.2 - 1))

/-- One lane word against the reference from the bits `r`: the reference after it, and the errored bits.  A locked reference
runs by itself, an unlocked one follows the bits received (log 87). -/
def prbsWord (p : Nat × Nat) (locked : Bool) (r : Nat) (w : BitVec 64) : Nat × Nat :=
  (List.range 64).foldl (fun (x : Nat × Nat) i =>
    let b := w.getLsbD (63 - i)
    let want := prbsNext p x.1
    ((2 * x.1 + (if locked then want else b).toNat) % 2 ^ p.1, x.2 + (want != b).toNat)) (r, 0)

def State.prbsAt (s : State) (srd : Nat) : Prbs := Tab.get s.top.prbs { bits := 0, good := 0, bad := 0 } srd
def State.setPrbs (s : State) (srd : Nat) (x : Prbs) : State :=
  s.setTop { s.top with prbs := Tab.set s.top.prbs { bits := 0, good := 0, bad := 0 } srd x }

/-- PRBS_LOCK after a lane word, from the runs of error-free and of errored words (R404). -/
def lockAfter (locked : Bool) (good bad : Nat) : Bool := if locked then decide (bad < 64) else decide (64 ≤ good)

/-- The checker takes a lane word: the runs, PRBS_LOCK, and errored bits counted while locked (R404). -/
def State.prbsTake (s : State) (srd : Nat) (w : BitVec 64) : State :=
  let a := srdA srd 0x104
  let x := s.prbsAt srd
  let r := prbsWord (prbsPoly (s.prbsSel srd)) (s.bit a 2) x.bits w
  let good := if r.2 = 0 then x.good + 1 else 0
  let bad := if r.2 = 0 then 0 else x.bad + 1
  let t := if s.bit a 2 then s.addTo (srdA srd 0x108) r.2 else s
  (t.setPrbs srd { bits := r.1, good := good, bad := bad }).setBit a 2 (lockAfter (s.bit a 2) good bad)

def execPrbsLock (srd : Fin 768) (words : List (BitVec 64)) (s : State) : Host.Outcome State Fault Refusal :=
  done s (if srdIsRx srd.val && s.prbsSel srd.val != 0 && !s.inReset (srdA srd.val 0) then
      words.foldl (fun s w => s.prbsTake srd.val w) s
    else s)

/-- A change of PRBS_SEL starts the checker anew (log 87). -/
def State.prbsFresh (s : State) (srd : Nat) : State :=
  if srdIsRx srd then s.setPrbs srd { bits := 0, good := 0, bad := 0 } else s

def State.prbsClr (s : State) (srd : Nat) : State := if srdIsRx srd then s.wrN (srdA srd 0x108) 0 else s

def execPrbsClr (srd : Fin 768) (s : State) : Host.Outcome State Fault Refusal :=
  done s (s.hostTo (srdA srd.val 0x100) (fun s => s.prbsClr srd.val))

/-! ### Lane data furrows (R258) -/

def chanDetail (f : Nat) : Nat := f % 192 + f / 192 * 256

/-- The receive data furrow of framer `f` is found empty for `cycles` cycles. -/
def State.underrun (s : State) (f cycles : Nat) : State :=
  let r := rowOfCh f
  let s := (s.addTo (0x900300 + 8 * r) cycles).tallyRow r (ohProd f) 12 cycles
  s.raiseLim 1 f (736 + r) 0x71 false (chanDetail f)

def execQueueUnderrun (f : Chan) (cycles : Nat) (s : State) : Host.Outcome State Fault Refusal :=
  done s (if s.laneRuns f.val then s.underrun f.val cycles else s)

def execOverrun (f : Chan) (s : State) : Host.Outcome State Fault Refusal :=
  done s (if s.coreRuns && !s.inReset (txA f.val 0) then s.inc (0x900304 + 8 * rowOfCh f.val) else s)

/-! ### Temperature and GPIO (R409, R413, R414) -/

/-- A new junction temperature: onset above TEMP_LIMIT, clearing 5 °C below it. -/
def State.newTemp (s : State) (tj : Nat) : State :=
  let was := s.bit (topA 0x340) 16
  let t := signedOf 16 tj
  let lim := signedOf 16 (s.fld (topA 0x344) 15 0)
  let s := s.setFld (topA 0x340) 15 0 tj
  let d := unsignedOf 32 t
  if !was && decide (lim < t) then ((s.setBit (topA 0x340) 16 true).summary (topA 0) 2).raise 2 0xE0 false d
  else if was && decide (t < lim - 40) then (s.setBit (topA 0x340) 16 false).raise 2 0xE0 true d
  else s

def execOverTemp (tj : Half) (s : State) : Host.Outcome State Fault Refusal :=
  done s (if s.topRuns then s.newTemp tj.toNat else s)

/-- Level at GPIO ball `k`: what the part drives, else what the board gives, else undefined (R409, R414). -/
def State.gpioLevel (s : State) (k : Nat) : Bool :=
  if s.topRuns && s.bit (topA 0x354) k then s.bit (topA 0x350) k
  else (Tab.get s.top.pins none k).getD (Config.floatingPin k s.now)

def State.gpioIn (s : State) : Nat := ((List.range 16).map (fun k => (s.gpioLevel k).toNat * 2 ^ k)).sum

def execGpioLevelChange (pin : Fin 16) (level : Bool) (s : State) : Host.Outcome State Fault Refusal :=
  done s (s.setTop { s.top with pins := Tab.set s.top.pins none pin.val (some level) })

/-! ### I2C (R410) -/

/-- A write of one byte moves the pointer; a longer one changes nothing. -/
def execI2cPointerWrite (bytes : List Byte) (s : State) : Host.Outcome State Fault Refusal :=
  done s (match bytes with
    | [p] => if s.topRuns then s.setTop { s.top with i2cPtr := p.toNat } else s
    | _ => s)

/-! ### The test port (R411) -/

/-- IDCODE: step B0 and the part number; bits [11:0] are not given. -/
def idcode : BitVec 32 := ((0x1#4 ++ 0x8192#16) ++ Config.idcodeLow)

/-- The register between TDI and TDO: its bits, the first out lowest.  BYPASS is one bit of zero, by IEEE 1149.1 (log 87). -/
def State.testRegister (s : State) : List Bool :=
  match s.top.testIr with
  | .idcode => (List.range 32).map idcode.getLsbD
  | .bypass => [false]

end Sys2Proof.Machine
end

