-- ==== Sys2Proof/Machine/Rootstock.lean ====
section
/-! DEFINITION. The commands of Rootstock (R340 to R350). -/

namespace Sys2Proof.Machine

/-- STATUS: RTS_STATE, RUNNING_VERSION, STAGED_VERSION, MIN_LEVEL (R340). -/
def execStatus (src : Source) (s : State) : Host.Outcome State Fault Refusal :=
  done s (match s.rtsTake src 0x01 with
    | some (ws, s) => s.rtsOk src (cmdTag ws) [s.rd (rtsA 0x100), s.rd (rtsA 0x108), s.rd (rtsA 0x10C), s.rd (rtsA 0x110)]
    | none => s)

def execBeginImg (src : Source) (s : State) : Host.Outcome State Fault Refusal :=
  done s (match s.rtsTake src 0x10 with
    | some (ws, s) => s.rtsBegin src (cmdTag ws) (ws.drop 1)
    | none => s)

def execBlock (src : Source) (s : State) : Host.Outcome State Fault Refusal :=
  done s (match s.rtsTake src 0x11 with
    | some (ws, s) => s.rtsBlock src (cmdTag ws) (ws.drop 1)
    | none => s)

def execCommit (src : Source) (s : State) : Host.Outcome State Fault Refusal :=
  done s (match s.rtsTake src 0x12 with
    | some (ws, s) => s.rtsCommit src (cmdTag ws)
    | none => s)

/-- The slot is erased, and programmed from the staged copy up to flash address `stop` (R343). -/
def State.programSlot (s : State) (k n stop : Nat) : State :=
  let a := slotBase k
  let s := (codewords stagingBase n).foldl (fun s cw => s.cwRead cw 1) s
  let s := s.setFlash (s.flash.filter (fun e => decide (e.1 < a ∨ a + 0x400000 ≤ e.1)))
  s.flashPut a ((s.qdrGet stagingBase n).take (stop - a))

/-- The slot has been programmed and reads back as the flash now holds it: unit 1 compares it with the staged copy (R343,
R351, R424). -/
def State.readBack (s : State) (src : Source) (tag : Half) (k n failAddr : Nat) : State :=
  let v := s.rts.header.getD 2 0
  let sum := s.flashCrc (slotBase k) n
  let same := sum == (crc32c (s.qdrGet stagingBase n)).toNat
  let s := s.chkCompare 1 same sum
  if same then
    (((s.wr (rtsA (0x148 + 4 * k)) v).wr (rtsA 0x10C) v).setSlot k 1).dropClaim.rtsOk src tag []
  else (s.raise 65 0xB8 false failAddr).commitFail src tag 0x89

/-- Erasing, programming and read-back of the staging slot are over: `fail` is the address at which erasing or programming
failed, beyond which the slot stays erased (DESIGN CHOICE, assumption 18); `wrong` are the bytes that the flash took
otherwise than written. -/
def execImageCommitDone (fail : Option (BitVec 32)) (wrong : List (BitVec 22 × Byte)) (s : State) :
    Host.Outcome State Fault Refusal :=
  done s (match s.rts.committing with
    | none => s
    | some (src, tag) =>
      let n := s.stagedLen + 4096
      let k := s.rts.stagedSlot
      if !s.qdrUp then s
      else match fail with
        | some a => ((s.programSlot k n a.toNat).raise 65 0xB8 false a.toNat).commitFail src tag 0x89
        | none =>
          let s := s.programSlot k n (slotBase k + n)
          let s := wrong.foldl (fun s e => s.flashPut (slotBase k + e.1.toNat) [e.2]) s
          s.readBack src tag k n (slotBase k + (wrong.headD (0, 0)).1.toNat))

/-- A live activation of slot `k` is permitted (R347). -/
def State.liveAllowed (s : State) (k : Nat) : Bool :=
  let run := s.fld (rtsA 0x100) 4 4
  let mask := s.slotField k 0x20
  s.top.boot == 8 && s.slotField k 0x1C != 0 && decide (s.slotField k 0x1C ≤ s.nat (rtsA 0x108)) &&
    mask == s.slotField run 0x20 && s.spareBed.isSome && (List.range 16).all (fun b => s.role b != 4) &&
    (List.range 16).all (fun l => !mask.testBit l ||
      match s.byLbed l with | some b => s.bit (bedA b 0x100) 4 | none => false)

/-- The slot that ACTIVATE names: VALID, with that VERSION, and not the one that runs (R340). -/
def State.stagedSlotOf (s : State) (v : Nat) : Option Nat :=
  [0, 1].find? (fun k => s.slotState k == 1 && s.slotVersion k == v &&
    (s.bit (rtsA 0x100) 6 || s.fld (rtsA 0x100) 4 4 != k))

/-- The activation is accepted: the slot is TRIAL, SETTINGS_STATUS is cleared, ACTIVATED is raised
(R345, R347, R352). -/
def State.activated (s : State) (k : Nat) : State :=
  let s := (s.setSlot k 4).setBit (rtsA 0x100) 5 true
  let s := (s.setFld (rtsA 0x120) 1 0 0).wrN (rtsA 0x10C) 0
  (s.event (rtsA 0x104) 0).raise 65 0xB1 false (s.slotVersion k)

def State.rtsActivate (s : State) (tag : Half) (v mode : Nat) : State :=
  if s.trialPending then s.rtsRefuse .host tag 0x8C
  else match s.stagedSlotOf v with
    | none => s.rtsRefuse .host tag 0x8A
    | some k =>
      if s.slotField k 0x0C < s.minLevel then s.rtsRefuse .host tag 0x82
      else if mode = 0 then
        if s.liveAllowed k then
          let s := (s.activated k).setAct 1
          let s := s.setRts { s.rts with trialSlot := some k, trialBooted := false, spare := none,
                                         reverse := false, toMove := [],
                                         windowEnds := some (s.now + s.windowOf k * secNs) }
          s.rtsOk .host tag []
        else s.rtsRefuse .host tag 0x8B
      else if mode = 1 then
        let s := s.activated k
        (s.setRts { s.rts with trialSlot := some k, trialBooted := false, armedReset := true }).rtsOk .host tag []
      else s.rtsRefuse .host tag 0x8B

def execActivate (src : Source) (s : State) : Host.Outcome State Fault Refusal :=
  done s (match s.rtsTake src 0x13 with
    | some (ws, s) => s.rtsActivate (cmdTag ws) (ws.getD 1 0).toNat (ws.getD 2 0).toNat
    | none => s)

/-- ABORT from the claimant (R344). -/
def execAbort (src : Source) (s : State) : Host.Outcome State Fault Refusal :=
  done s (match s.rtsTake src 0x14 with
    | some (ws, s) =>
      if s.claim ≠ srcCode src then s.rtsRefuse src (cmdTag ws) 0x83
      else if s.rts.committing.isSome then s.rtsRefuse src (cmdTag ws) 0x07
      else s.dropClaim.rtsOk src (cmdTag ws) []
    | none => s)

/-- No accepted command of the claimant for 60 s (R344). -/
def execClaimExpired (s : State) : Host.Outcome State Fault Refusal :=
  done s (if s.claim ≠ 0 ∧ s.rts.committing.isNone ∧ s.rts.claimAt + 60 * secNs ≤ s.now then
    s.dropClaim.raise 65 0xB6 false (s.claim - 1) else s)

def execConfirm (val : Word) (s : State) : Host.Outcome State Fault Refusal :=
  done s (s.hostTo (rtsA 0x114) (fun s => s.confirm val.toNat))

/-- The window expires: cause 4 where the image could not read its settings, else 1 (R346, R350). -/
def execConfirmWindowExpiry (s : State) : Host.Outcome State Fault Refusal :=
  done s (match s.rts.windowEnds, s.slotIn 4 with
    | some t, some k =>
      if t ≤ s.now then s.fallback k (if s.actState = 0 ∧ s.fld (rtsA 0x120) 1 0 = 2 then 4 else 1) else s
    | _, _ => s)

def execSettingsCommit (s : State) : Host.Outcome State Fault Refusal :=
  done s (s.hostTo (rtsA 0x124) (fun s => s.settingsCommit))

/-! ### Live activation (R347, R348) -/

/-- Step 1 ends and step 2 begins: the image is copied and verified again, and logical bed 0's program
is loaded into the spare for the settings check.  An image that no longer verifies halts the activation
(assumption 18). -/
def State.imageCopied (s : State) (k sp : Nat) : State :=
  let area := 1 - s.rts.area
  let base := imageArea area
  let n := s.slotField k 0x10 + 4096
  let s := s.rtsStore base (s.flashGet (slotBase k) n)
  if !s.imageSigned base then
    ((s.setAct 5).event (rtsA 0x104) 5).raise 65 0xBB false (s.fld (rtsA 0x100) 15 12)
  else
    let order := [1, 2, 3, 4, 5, 6, 7, 8, 9, 10, 11, 12, 13, 14, 15, 0].filter (s.qdrWord (base + 0x20)).testBit
    let s := s.setRts { s.rts with spare := some sp, toMove := order }
    let s := ((s.setRole sp 3).setLbed sp 0).loadCode sp base 0
    let s := (s.loadSettings sp base 0 (backingWord area)).clearRegs (bedA sp 0x1400) (bedA sp 0x1500)
    let s := (s.clearRegs (bedA sp 0x1800) (bedA sp 0x1C00)).clearRegs (bedA sp 0x60000) (bedA sp 0x80000)
    s.startBed sp 2 (some { old := sp, stage := 2, why := 2, at_ := s.now, edge := false }) area

def execActivationImageCopied (s : State) : Host.Outcome State Fault Refusal :=
  done s (match s.rts.trialSlot, s.spareBed with
    | some k, some sp =>
      if s.actState = 1 ∧ s.rts.spare = none ∧ s.qdrUp then s.imageCopied k sp else s
    | _, _ => s)

/-- Step 5 is due: a receive frame edge of a row routed to the old bed has come, or none is routed to it and 1 ms has
passed (R347). -/
def State.freezeDue (s : State) (m : Move) : Bool :=
  m.edge || (!(List.range 12).any (fun r => (s.fur r).bed == m.old) && decide (m.at_ + msNs ≤ s.now))

/-- Step 5: the old bed of the bed being moved becomes MIGRATING and dispatches nothing further. -/
def execMigrationFreeze (s : State) : Host.Outcome State Fault Refusal :=
  done s (match s.movingBed with
    | none => s
    | some nb =>
      match (s.bed nb).move with
      | some m =>
        if m.why = 1 ∧ m.stage = 1 ∧ s.role m.old = 2 ∧ s.freezeDue m then
          (s.setRole m.old 5).setBed nb { s.bed nb with move := some { m with stage := 2 } }
        else s
      | none => s)

/-- Steps 6 and 7: tables and contexts are copied to the spare, which takes the LBED and the new
BACK_BASE, and INIT with argument 2 is pending.  On the way back with another CTX_FORMAT the contexts
come from the backing copies left by the forward move (R348). -/
def State.migrate (s : State) (nb : Nat) (m : Move) : State :=
  let old := m.old
  let l := s.lbed old
  let area := s.moveArea
  let base := imageArea area
  let other := imageArea (1 - area)
  let s := s.loadSettings nb base l (backingWord s.moveBacking)
  let s := s.copyRegs (bedA old 0x1400) (bedA nb 0x1400) 64
  let s := s.copyRegs (bedA old 0x1800) (bedA nb 0x1800) 256
  let changed := s.qdrWord (base + 0x18) != s.qdrWord (other + 0x18)
  let s := if s.rts.reverse && changed then s.loadContexts nb (Tab.get s.rts.oldBack 0 l)
    else s.copyRegs (bedA old 0x80000) (bedA nb 0x80000) 16384
  let s := if s.rts.reverse then s
    else s.setRts { s.rts with oldBack := Tab.set s.rts.oldBack 0 l (s.fld (bedA old 0x114) 25 0) }
  let s := (s.clearRegs (bedA nb 0x60000) (bedA nb 0x80000)).setLbed nb l
  s.startBed nb 2 (some { m with stage := 3 }) area

def execMigrationContextCopy (s : State) : Host.Outcome State Fault Refusal :=
  done s (match s.movingBed with
    | none => s
    | some nb =>
      match (s.bed nb).move with
      | some m =>
        if m.why = 1 ∧ m.stage = 2 ∧ (s.activeKeys m.old).isEmpty ∧ s.qdrUp then s.migrate nb m else s
      | none => s)

/-- No bed became SPARE for 60 s: the fallback completes by chip reset (R348). -/
def execFallbackSpareTimeout (s : State) : Host.Outcome State Fault Refusal :=
  done s (if s.actState = 4 ∧ s.spareBed = none ∧ s.movingBed = none ∧ s.rts.fallbackAt + 60 * secNs ≤ s.now then
    (s.fallbackReport).askReset 2 65 else s)

end Sys2Proof.Machine
end

