-- ==== Sys2Proof/Machine/Boot.lean ====
section
/-! DEFINITION. Rails, RESET_N, the reset kinds and the boot (R290, R299, R336 to R339, R380, R386 to R393). -/

namespace Sys2Proof.Machine

/-! ### The reset kinds (R392) -/

/-- The part enters the reset of a kind: 0 power-on, 1 pin, 2 chip reset by reaction, 3 host soft reset.
Registers take their reset values, except that kinds 2 and 3 keep WO fields and the sampled OSC_SEL; QDR is
lost with the power only; fuses and the boot flash are kept.  After a rail left its tolerance the next boot is
a power-on (R393). -/
def State.intoReset (s : State) (kind src : Nat) : State :=
  let lost := kind == 0 || s.top.railBad
  let warm := decide (2 ≤ kind) && !s.top.railBad
  let pin := decide (kind < 2)
  { State.reset with
    now := s.now, free := s.free, outbox := s.outbox, pending := s.pending, flash := s.flash,
    regs := if warm then s.regs.filter (fun e => e.1 == topA 0x320 || e.1 == topA 0x334) else [],
    qdr := if lost then [] else s.qdr,
    qdm := if lost then Qdm.init else { Qdm.init with errs := s.qdm.errs },
    rts := { Rts.init with armedReset := s.rts.armedReset, minLevel := s.rts.minLevel },
    top := { Top.init with resetLow := pin, boot := if pin then 0 else 1, bootKind := if lost then 0 else kind,
                           bootSrc := if lost then 0 else src, pins := s.top.pins,
                           roleTaken := warm && s.top.roleTaken } }

/-- The rails have risen (R386). -/
def execPowerOn (s : State) : Host.Outcome State Fault Refusal := done s (s.intoReset 0 0)

def execRailOutOfTolerance (s : State) : Host.Outcome State Fault Refusal :=
  done s (s.setTop { s.top with railBad := true })

/-- RESET_N has been low for 5 µs (R388, R393). -/
def execPinReset (s : State) : Host.Outcome State Fault Refusal :=
  done s (if s.top.resetLow then s else s.intoReset 1 0)

/-- Step 2 of R299: the entries not yet in the ring, and the header. -/
def State.ringFlush (s : State) : State :=
  ((List.range s.uncopied).foldl (fun s _ => s.ringCopy) s).ringHeader

/-- CHIP_RESET_EXECUTE (R299, R391): at once with QDR and a ready ring, else when 20 µs have passed. -/
def State.chipReset (s : State) : State :=
  match s.cur.chipReset with
  | none => s
  | some (kind, src, t) =>
    if s.ringReady && s.qdrUp then s.ringFlush.intoReset kind src
    else if t + 20 * usNs ≤ s.now then s.intoReset kind src
    else s

def execChipResetExecute (s : State) : Host.Outcome State Fault Refusal :=
  done s (if s.coreRuns then s.chipReset else s)

/-! ### The start (R387, R390) -/

/-- RESET_N rises: GPIO[2:0] are sampled, step 1 begins. -/
def execBootStart (gpio : BitVec 3) (s : State) : Host.Outcome State Fault Refusal :=
  done s (if s.top.resetLow then
      let g := gpio.toNat
      let pins := [0, 1, 2].foldl (fun t k => Tab.set t none k (some (g.testBit k))) s.top.pins
      let s := s.setTop { s.top with resetLow := false, boot := 1, pins := pins }
      s.wrN (topA 0x334) (g + (decide (5 ≤ g)).toNat * 8)
    else s)

/-! ### Step 1 (R387, R390, R421) -/

/-- PLLs lock, fuses are read, RESET_CAUSE is set; Sundial starts unless OSC_SEL is invalid. -/
def State.bootClocks (s : State) : State :=
  let bad := s.bit (topA 0x334) 3
  let s := s.setTop { s.top with boot := 2 }
  let s := s.wrN (topA 0x330) (s.top.bootKind + s.top.bootSrc * 2 ^ 16)
  let s := s.setFld (topA 0x108) 3 0 (if bad then 11 else 15)
  let s := s.setFld (rtsA 0x110) 6 0 (max s.minLevel s.rts.minLevel)
  let s := s.setSdl 0 s.now
  if bad then ((s.summary (topA 0) 4).event (sdlA 0x110) 1).raise 244 0x4F false 0 else s

/-! ### Steps 2 to 4 (R337, R380) -/

def State.bootLink (s : State) (x : BootIn) : State :=
  (s.linkBack x.speed.toNat x.width.toNat).setFld (rtsA 0x100) 3 0 1

/-- One port of a device fails its calibration. -/
def State.calPort (s : State) (p : Nat) : State :=
  ((s.setBit (qdmA 0x104) p false).event (qdmA 0x108) 3).raise (656 + p / 2) 0xD3 false (p % 2)

/-- QDR is calibrated: CAL_OK, DEV_FAIL, READY. -/
def State.bootQdr (s : State) (calFail : Nat) : State :=
  let s := (s.setFld (qdmA 0x104) 15 0 0xFFFF).setBit (qdmA 0x104) 24 true
  let s := ((List.range 16).filter calFail.testBit).foldl State.calPort s
  let s := ((List.range 8).filter (fun d => calFail.testBit (2 * d) && calFail.testBit (2 * d + 1))).foldl
    (fun s d => s.setBit (qdmA 0x104) (16 + d) true) s
  s.setFld (rtsA 0x100) 3 0 2

/-- The Cellar self-test. -/
def State.bootCellar (s : State) (x : BootIn) : State :=
  let bad := decide (0 < x.celUncorr)
  let s := s.wrN (rtsA 0x128) (1 + bad.toNat * 2 + min x.celUncorr 255 * 2 ^ 8 + min x.celCorr 65535 * 2 ^ 16)
  let s := if bad then s.raise 65 0xB7 false x.celPlot else s
  s.setFld (rtsA 0x100) 3 0 3

/-! ### Step 5: the Curator ring and the BOOT report (R290) -/

def State.ringHeaderOk (s : State) : Bool :=
  s.qdrWord ringBase == ringMagic &&
    s.qdrWord (ringBase + 8) == (crc32c (s.qdrGet ringBase 8)).toNat && !s.cwBad (codewordOf ringBase)

/-- Slot of entry `n` continues the sequence: its LAP, and a REP_HI that is not zero. -/
def State.slotContinues (s : State) (n : Nat) : Bool :=
  let a := ringBase + 64 + 16 * (n % 65536)
  s.qdrWord (a + 4) != 0 && bitsOf (s.qdrWord (a + 8)) 31 30 == n / 65536 % 4

/-- The part advances from entry `n` over the slots that continue the sequence, `fuel` at most. -/
def State.ringScan (s : State) (n : Nat) : Nat → Nat
  | 0 => n
  | fuel + 1 => if s.slotContinues n then s.ringScan ((n + 1) % 2 ^ 32) fuel else n

/-- Bytes `a` to `a + n − 1` of QDR written 0, whole codewords. -/
def State.qdrZero (s : State) (a n : Nat) : State :=
  (s.setQdr (s.qdr.filter (fun e => decide (e.1 < a ∨ a + n ≤ e.1)))).setQdm { s.qdm with errs := s.qdm.errs.filter (fun e => decide (e.1 < a / 64 ∨ (a + n) / 64 ≤ e.1)) }

/-- A mark of a held entry becomes one more than the number that the entry now has. -/
def ownMark (first m : Nat) : Nat := if 2 ^ 32 < m then (first + (m - (2 ^ 32 + 1))) % 2 ^ 32 + 1 else m

/-- The ring is ready at LOG_WR `n`: the BOOT report is numbered first, then the held reports in the order
taken; LOG_RD is the number of the BOOT entry. -/
def State.ringOpen (s : State) (n : Nat) (fresh : Bool) : State :=
  let s := (s.setBit (curA 0x100) 4 true).setFld (curA 0x110) 26 0 ringBase
  let s := (s.wrN (curA 0x108) n).wrN (curA 0x10C) n
  let held := s.cur.held
  let marks := s.cur.lastInt.map (fun (e : Nat × Nat) => (e.1, ownMark (n + 1) e.2))
  let s := s.setCur { s.cur with ringNext := n, held := [] }
  let seq := s.fld (srcA 99 0x0C) 7 0
  let r : Report := { src := 99, kind := 0x90, clear := false, seq := seq, forced := false, conseq := false,
                      detail := s.top.bootKind + fresh.toNat * 4 + s.top.bootSrc * 2 ^ 16 }
  let s := (s.setFld (srcA 99 0x0C) 7 0 (seq + 1)).takeReport r
  let s := held.foldl (fun s e => s.logAppend e.1 e.2.1 e.2.2.1 e.2.2.2) s
  (s.setCur { s.cur with
    lastInt := marks.foldl (fun (t : Tab Nat) (e : Nat × Nat) => Tab.set t 0 e.1 e.2) s.cur.lastInt }).showInt

/-- Unit 4 compares the check of a ring header that is there (R290, R424; assumption 38). -/
def State.ringChecked (s : State) : State :=
  let sum := (crc32c (s.qdrGet ringBase 8)).toNat
  if s.qdrWord ringBase = ringMagic then s.chkCompare 4 (s.qdrWord (ringBase + 8) == sum) sum else s

def State.bootRing (s : State) : State :=
  let s := (s.cwRead (codewordOf ringBase) 1).ringChecked
  let s := if s.ringHeaderOk then s.ringOpen (s.ringScan (s.qdrWord (ringBase + 4)) 65536) false
    else (s.qdrZero ringBase (64 + 16 * 65536)).ringOpen 0 true
  s.setFld (rtsA 0x100) 3 0 4

/-! ### Step 6: the slot (R331, R335, R338, R346, R349) -/

/-- Unit 1 compares the checks of the directory copies that are there, and of the settings banks that are not erased
(R331, R349, R424; assumption 38). -/
def State.dirChecked (s : State) : State :=
  [0, 1].foldl (fun s c =>
    if s.flashWord (dirBase c) = 0x52444952 then s.chkCompare 1 (s.dirGen c).isSome (s.flashCrc (dirBase c) 24) else s) s

def State.banksChecked (s : State) : State :=
  [0, 1].foldl (fun s b =>
    if s.flashWord (bankBase b) = 0xFFFFFFFF then s
    else s.chkCompare 1 (s.bankGen b).isSome
      (crc32c (leBytes (s.flashWord (bankBase b)) ++ s.flashGet (bankBase b + 8) bankBytes)).toNat) s

/-- STATE and VERSION of the slots as the directory gives them; with no valid copy both are VALID. -/
def State.readDir (s : State) : State :=
  [0, 1].foldl (fun s k =>
    match s.dirNow with
    | some c =>
      let a := dirBase c + 8 + 8 * k
      (s.setFld (rtsA (0x140 + 4 * k)) 2 0 (s.flashWord a)).wrN (rtsA (0x148 + 4 * k)) (s.flashWord (a + 4))
    | none =>
      (s.setFld (rtsA (0x140 + 4 * k)) 2 0 1).wrN (rtsA (0x148 + 4 * k)) (s.slotField k 0x08)) s

/-- A trial that a reset ends falls back with cause 3 (R338, R346). -/
def State.trialLost (s : State) (k : Nat) : State :=
  let s := ((s.inc (rtsA 0x130)).setFld (rtsA 0x134) 2 0 3).setSlot k 5
  let f := s.slotField k 0x14
  let s := if f = s.slotField (1 - k) 0x14 then s else s.filterSettings (· != f)
  s.fallbackReport

def slotUsable (st : Nat) : Bool := st == 1 || st == 3

/-- The candidates in order (R338). -/
def State.candidates (s : State) (lost : Option Nat) : List Nat :=
  match lost, s.slotIn 4, s.slotIn 2 with
  | some k, _, _ => [1 - k].filter (fun j => s.slotState j == 2 || s.slotState j == 3)
  | none, some k, _ => [k]
  | none, none, some k => k :: [1 - k].filter (fun j => slotUsable (s.slotState j))
  | none, none, none =>
    (if s.slotVersion 0 < s.slotVersion 1 then [1, 0] else [0, 1]).filter (fun j => slotUsable (s.slotState j))

def State.readFails (x : BootIn) (k : Nat) : Bool := if k = 0 then x.readFailA else x.readFailB

/-- Why the image of slot `k` cannot be booted, as a bit of LAST_BOOT_FAIL; with the image in image area 0 if
its header holds and its level is permitted. -/
def State.trySlot (s : State) (x : BootIn) (k : Nat) : Option Nat × State :=
  if State.readFails x k then (some 3, s)
  else if !imageHdrOk (fun off n => s.flashGet (slotBase k + off) n) then (some 0, s)
  else
    let s := s.rtsStore (imageArea 0) (s.flashGet (slotBase k) (s.slotField k 0x10 + 4096))
    if s.slotField k 0x0C < s.minLevel then (some 1, s)
    else if !s.imageSigned (imageArea 0) then (some 2, s)
    else (none, s)

/-- The first candidate that boots, with LAST_BOOT_FAIL marked for those before it. -/
def State.tryAll (s : State) (x : BootIn) : List Nat → Option Nat × State
  | [] => (none, s)
  | k :: rest =>
    match s.trySlot x k with
    | (none, s) => (some k, s)
    | (some b, s) => (s.setBit (rtsA 0x12C) (4 * k + b) true).tryAll x rest

/-- The settings bank with the valid higher generation is copied into the mirror (R349). -/
def State.loadMirror (s : State) : State :=
  match s.bankNow with
  | some b => s.rtsStore mirrorBase (s.flashGet (bankBase b + 8) bankBytes)
  | none => s

/-- The trial of slot `k` boots: its window starts (R338, R346). -/
def State.trialBoot (s : State) (k : Nat) : State :=
  (s.setBit (rtsA 0x100) 5 true).setRts
    { s.rts with armedReset := false, trialBooted := true, trialSlot := some k,
                 windowEnds := some (s.now + s.windowOf k * secNs) }

/-- Slot `k` is chosen; a CONFIRMED one completes a burn of MIN_LEVEL that was cut short (R335, R338). -/
def State.chosen (s : State) (k first : Nat) : State :=
  let s := s.showRunning k
  let s := if s.slotState k = 4 then s.trialBoot k else s
  let lvl := max s.minLevel (s.slotField k 0x0C)
  let s := if s.slotState k = 2 then (s.setFld (rtsA 0x110) 6 0 lvl).setRts { s.rts with minLevel := lvl } else s
  let s := s.raise 65 0xB0 false (k + (decide (k ≠ first)).toNat * 2 + s.fld (rtsA 0x12C) 7 0 * 2 ^ 8)
  (s.setTop { s.top with boot := 7 }).setFld (rtsA 0x100) 3 0 5

/-- RECOVERY: no bed is started (R338). -/
def State.recovery (s : State) : State :=
  let s := (s.setBit (rtsA 0x100) 6 true).setTop { s.top with boot := 9 }
  s.raise 65 0xB0 false (4 + s.fld (rtsA 0x12C) 7 0 * 2 ^ 8)

/-- The slot on trial that this reset ends: one whose first boot is not now (R338). -/
def State.lostTrial (s : State) : Option Nat := if s.rts.armedReset then none else s.slotIn 4

/-- The slot that a boot from the candidates found, if any, is started (R338). -/
def State.settle (first : Nat) (r : Option Nat × State) : State :=
  match r.1 with
  | some k => r.2.chosen k first
  | none => r.2.recovery

/-- The trial that this reset ends, if one does, falls back. -/
def State.dropTrial (s : State) : State :=
  match s.lostTrial with
  | some k => s.trialLost k
  | none => s

/-- The candidates; a failed QDR device leaves no image to boot (R380). -/
def State.bootable (s : State) (lost : Option Nat) : List Nat :=
  if s.fld (qdmA 0x104) 23 16 = 0 then s.candidates lost else []

/-- Every remaining block leaves reset with the slot chosen. -/
def State.bootSlot (s : State) (x : BootIn) : State :=
  let t := s.dirChecked.readDir.banksChecked.loadMirror
  let u := t.dropTrial
  let cs := u.bootable t.lostTrial
  State.settle (cs.headD 0) (u.tryAll x cs)

/-! ### Step 7: the beds (R339) -/

/-- Bed `l` takes logical bed `l` of the image in image area 0, or becomes SPARE. -/
def State.bootBed (s : State) (mask l : Nat) : State :=
  if mask.testBit l then
    let b := imageArea 0
    let s := ((s.loadCode l b l).loadSettings l b l (backingWord 0)).loadTables l b l
    (((s.loadShared l b l).setRole l 2).setLbed l l).startBed l 0 none 0
  else s.setRole l 1

def State.bootBeds (s : State) : State :=
  let s := (List.range 16).foldl (fun s l => s.bootBed (s.qdrWord (imageArea 0 + 0x20)) l) s
  s.setTop { s.top with boot := 8 }

/-- The boot step in progress ends and the next begins. -/
def State.bootNext (s : State) (x : BootIn) : State :=
  match s.top.boot with
  | 1 => s.bootClocks
  | 2 => (s.bootLink x).setTop { s.top with boot := 3 }
  | 3 => let s := s.setTop { s.top with boot := 4 }
         s.bootQdr x.calFail.toNat
  | 4 => let s := s.setTop { s.top with boot := 5 }
         s.bootCellar x
  | 5 => let s := s.setTop { s.top with boot := 6 }
         s.bootRing
  | 6 => s.bootSlot x
  | 7 => s.bootBeds
  | _ => s

def execBootStage (x : BootIn) (s : State) : Host.Outcome State Fault Refusal := done s (s.bootNext x)

end Sys2Proof.Machine
end

