-- ==== Sys2Proof/Machine/SprigCode.lean ====
section
/-! DEFINITION. The encoding of the Sprig instructions (R222, R223, R226 to R239): the decoder, total
on any two words, and the encoder, both from the encoding tables of the manual. -/

namespace Sys2Proof.Machine

/-- Fields of an instruction word (R223). -/
def fRd (w : Half) : BitVec 4 := w.extractLsb' 8 4
def fRa (w : Half) : BitVec 4 := w.extractLsb' 4 4
def fRb (w : Half) : BitVec 4 := w.extractLsb' 0 4
def fImm (w : Half) : Byte := w.extractLsb' 0 8

/-- A word from its four fields of four bits. -/
def word4 (a b c d : BitVec 4) : Half := a ++ b ++ c ++ d

/-- A word from a major opcode, rd and eight bits. -/
def word8 (a b : BitVec 4) (i : Byte) : Half := a ++ b ++ i

/-- Even, for pairs; a multiple of four, for quadruples (R223). -/
def isPair (r : BitVec 4) : Bool := r.toNat % 2 == 0
def isQuad (r : BitVec 4) : Bool := r.toNat % 4 == 0

/-- Major 0x0 (R226). -/
def decAlu (c : CtxId) (w : Half) : Option Instr :=
  match (fRb w).toNat with
  | 0 => some (.spMov c (fRd w) (fRa w))
  | 1 => some (.spAdd c (fRd w) (fRa w))
  | 2 => some (.spAdc c (fRd w) (fRa w))
  | 3 => some (.spSub c (fRd w) (fRa w))
  | 4 => some (.spSbc c (fRd w) (fRa w))
  | 5 => some (.spCmp c (fRd w) (fRa w))
  | 6 => some (.spAnd c (fRd w) (fRa w))
  | 7 => some (.spOr c (fRd w) (fRa w))
  | 8 => some (.spXor c (fRd w) (fRa w))
  | 9 => some (.spNot c (fRd w) (fRa w))
  | 10 => some (.spShl c (fRd w) (fRa w))
  | 11 => some (.spShr c (fRd w) (fRa w))
  | 12 => some (.spAsr c (fRd w) (fRa w))
  | 13 => some (.spRol c (fRd w) (fRa w))
  | 14 => some (.spNeg c (fRd w) (fRa w))
  | 15 => some (.spTst c (fRd w) (fRa w))
  | _ => none

/-- Major 0x8 (R229): op 8 to 15 undefined. -/
def decBit (c : CtxId) (w : Half) : Option Instr :=
  match (fRa w).toNat with
  | 0 => some (.spBset c (fRd w) (fRb w))
  | 1 => some (.spBclr c (fRd w) (fRb w))
  | 2 => some (.spBtst c (fRd w) (fRb w))
  | 3 => some (.spBsetr c (fRd w) (fRb w))
  | 4 => some (.spBclrr c (fRd w) (fRb w))
  | 5 => some (.spBtstr c (fRd w) (fRb w))
  | 6 => some (.spExt c (fRd w) (fRb w))
  | 7 => some (.spIns c (fRd w) (fRb w))
  | _ => none

/-- Major 0x9 (R230): fn 13 to 15 and misaligned pairs and quadruples undefined. -/
def decCheck (c : CtxId) (w : Half) : Option Instr :=
  match (fRb w).toNat with
  | 0 => some (.spCrc16b c (fRd w) (fRa w))
  | 1 => if isPair (fRd w) then some (.spCrc32b c (fRd w) (fRa w)) else none
  | 2 => if isPair (fRd w) then some (.spCrc32cb c (fRd w) (fRa w)) else none
  | 3 => if isQuad (fRd w) then some (.spCrc64b c (fRd w) (fRa w)) else none
  | 4 => some (.spCrc16w c (fRd w) (fRa w))
  | 5 => if isPair (fRd w) then some (.spCrc32w c (fRd w) (fRa w)) else none
  | 6 => if isPair (fRd w) then some (.spCrc32cw c (fRd w) (fRa w)) else none
  | 7 => if isQuad (fRd w) then some (.spCrc64w c (fRd w) (fRa w)) else none
  | 8 => some (.spBip8 c (fRd w) (fRa w))
  | 9 => some (.spPar c (fRd w) (fRa w))
  | 10 => some (.spSinc c (fRd w))
  | 11 => some (.spSadd c (fRd w) (fRa w))
  | 12 => some (.spPopc c (fRd w) (fRa w))
  | _ => none

/-- Major 0xA (R231): fn 8 to 15 and an odd rd in QHEAD undefined. -/
def decQueue (c : CtxId) (w : Half) : Option Instr :=
  match (fRb w).toNat with
  | 0 => if isPair (fRd w) then some (.spQhead c (fRd w) (fRa w)) else none
  | 1 => some (.spQword c (fRd w) (fRa w))
  | 2 => some (.spQmark c (fRa w))
  | 3 => some (.spQrew c (fRa w))
  | 4 => some (.spQrel c (fRa w))
  | 5 => some (.spQpushh c (fRd w) (fRa w))
  | 6 => some (.spQpushw c (fRd w) (fRa w))
  | 7 => some (.spQend c (fRa w))
  | _ => none

/-- Major 0xB (R233, R225): cond 15 undefined. -/
def decBranch (c : CtxId) (w : Half) : Option Instr :=
  match (fRd w).toNat with
  | 0 => some (.spBr c (fImm w))
  | 1 => some (.spBz c (fImm w))
  | 2 => some (.spBnz c (fImm w))
  | 3 => some (.spBcy c (fImm w))
  | 4 => some (.spBncy c (fImm w))
  | 5 => some (.spBugt c (fImm w))
  | 6 => some (.spBule c (fImm w))
  | 7 => some (.spBsge c (fImm w))
  | 8 => some (.spBslt c (fImm w))
  | 9 => some (.spBsgt c (fImm w))
  | 10 => some (.spBsle c (fImm w))
  | 11 => some (.spBneg c (fImm w))
  | 12 => some (.spBpos c (fImm w))
  | 13 => some (.spBov c (fImm w))
  | 14 => some (.spBnov c (fImm w))
  | _ => none

/-- Major 0xD (R234): fn 10 to 15 and TSRD with rd above 10 undefined. -/
def decSys (c : CtxId) (w : Half) : Option Instr :=
  match (fRd w).toNat with
  | 0 => some (.spEnd c)
  | 1 => some (.spRet c)
  | 2 => some (.spFence c)
  | 3 => some (.spYield c)
  | 4 => some (.spWait c (fRa w))
  | 5 => some (.spPost c (fRa w) (fRb w))
  | 6 => some (.spCond c (fRa w) (fRb w))
  | 7 => some (.spCondc c (fRa w) (fRb w))
  | 8 => if (fRa w).toNat ≤ 10 then some (.spTsrd c (fRa w) (fRb w)) else none
  | 9 => some (.spNop c)
  | _ => none

/-- Major 0xE (R237): fn 4 to 15 undefined. -/
def decOh (c : CtxId) (w : Half) : Option Instr :=
  match (fRb w).toNat with
  | 0 => some (.spOhr c (fRd w) (fRa w))
  | 1 => some (.spOhw c (fRd w) (fRa w))
  | 2 => some (.spOhrx c (fRd w) (fRa w))
  | 3 => some (.spOhwx c (fRd w) (fRa w))
  | _ => none

/-- Sub-op 0 of major 0xF: the long ALU forms and LI16 (R239). -/
def decLong (c : CtxId) (w v : Half) : Option Instr :=
  match (fRb w).toNat with
  | 0 => some (.spLi16 c (fRa w) v)
  | 1 => some (.spAddl c (fRa w) v)
  | 2 => some (.spAdcl c (fRa w) v)
  | 3 => some (.spSubl c (fRa w) v)
  | 4 => some (.spSbcl c (fRa w) v)
  | 5 => some (.spCmpl c (fRa w) v)
  | 6 => some (.spAndl c (fRa w) v)
  | 7 => some (.spOrl c (fRa w) v)
  | 8 => some (.spXorl c (fRa w) v)
  | 9 => some (.spNotl c (fRa w) v)
  | 10 => some (.spShll c (fRa w) v)
  | 11 => some (.spShrl c (fRa w) v)
  | 12 => some (.spAsrl c (fRa w) v)
  | 13 => some (.spRoll c (fRa w) v)
  | 14 => some (.spNegl c (fRa w) v)
  | 15 => some (.spTstl c (fRa w) v)
  | _ => none

/-- Major 0xF (R239): sub-op 10 to 15, an odd rd in MUL and an odd ra in LDF and STF undefined. -/
def decWide (c : CtxId) (w v : Half) : Option Instr :=
  match (fRd w).toNat with
  | 0 => decLong c w v
  | 1 => if isPair (fRa w) then some (.spMul c (fRa w) (fRb w) (v.extractLsb' 12 4) (v.getLsbD 0)) else none
  | 2 => some (.spLdb c (fRa w) (fRb w) (v.extractLsb' 12 4) (v.extractLsb' 0 12))
  | 3 => some (.spStb c (fRa w) (fRb w) (v.extractLsb' 12 4) (v.extractLsb' 0 12))
  | 4 => if isPair (fRb w) then some (.spLdf c (fRa w) (fRb w) v) else none
  | 5 => if isPair (fRb w) then some (.spStf c (fRa w) (fRb w) v) else none
  | 6 => some (.spJmpl c (v.extractLsb' 0 15))
  | 7 => some (.spCalll c (v.extractLsb' 0 15))
  | 8 => some (.spJmpr c (fRb w) v)
  | 9 => some (.spCallr c (fRb w) v)
  | _ => none

/-- The instruction that word `w`, with `v` the word after it, spells for context `c`; none for an
undefined encoding (R223). -/
def decodeSprig (c : CtxId) (w v : Half) : Option Instr :=
  match (w.extractLsb' 12 4).toNat with
  | 0 => decAlu c w
  | 1 => some (.spAddi c (fRd w) (fImm w))
  | 2 => some (.spMovi c (fRd w) (fImm w))
  | 3 => some (.spMovhi c (fRd w) (fImm w))
  | 4 => some (.spCmpi c (fRd w) (fImm w))
  | 5 => some (.spLdl c (fRd w) (fRa w) (fRb w))
  | 6 => some (.spStl c (fRd w) (fRa w) (fRb w))
  | 7 => if w.getLsbD 3 then some (.spStc c (fRd w) (fRa w) (w.extractLsb' 0 3))
         else some (.spLdc c (fRd w) (fRa w) (w.extractLsb' 0 3))
  | 8 => decBit c w
  | 9 => decCheck c w
  | 10 => decQueue c w
  | 11 => decBranch c w
  | 12 => if w.getLsbD 11 then some (.spCall c (w.extractLsb' 0 11)) else some (.spJmp c (w.extractLsb' 0 11))
  | 13 => decSys c w
  | 14 => decOh c w
  | _ => decWide c w v

/-- The word or words of an instruction, unused fields 0; none for a command that is no Sprig
instruction. -/
def encodeSprig (i : Instr) : Option (Half × Option Half) :=
  match i with
  | .spMov _ rd ra => some (word4 0 rd ra 0, none)
  | .spAdd _ rd ra => some (word4 0 rd ra 1, none)
  | .spAdc _ rd ra => some (word4 0 rd ra 2, none)
  | .spSub _ rd ra => some (word4 0 rd ra 3, none)
  | .spSbc _ rd ra => some (word4 0 rd ra 4, none)
  | .spCmp _ rd ra => some (word4 0 rd ra 5, none)
  | .spAnd _ rd ra => some (word4 0 rd ra 6, none)
  | .spOr _ rd ra => some (word4 0 rd ra 7, none)
  | .spXor _ rd ra => some (word4 0 rd ra 8, none)
  | .spNot _ rd ra => some (word4 0 rd ra 9, none)
  | .spShl _ rd ra => some (word4 0 rd ra 10, none)
  | .spShr _ rd ra => some (word4 0 rd ra 11, none)
  | .spAsr _ rd ra => some (word4 0 rd ra 12, none)
  | .spRol _ rd ra => some (word4 0 rd ra 13, none)
  | .spNeg _ rd ra => some (word4 0 rd ra 14, none)
  | .spTst _ rd ra => some (word4 0 rd ra 15, none)
  | .spAddi _ rd i => some (word8 1 rd i, none)
  | .spMovi _ rd i => some (word8 2 rd i, none)
  | .spMovhi _ rd i => some (word8 3 rd i, none)
  | .spCmpi _ rd i => some (word8 4 rd i, none)
  | .spLdl _ rd ra d => some (word4 5 rd ra d, none)
  | .spStl _ rd ra d => some (word4 6 rd ra d, none)
  | .spLdc _ rd ra d => some (word4 7 rd ra ((0 : BitVec 1) ++ d), none)
  | .spStc _ rd ra d => some (word4 7 rd ra ((1 : BitVec 1) ++ d), none)
  | .spBset _ rd x => some (word4 8 rd 0 x, none)
  | .spBclr _ rd x => some (word4 8 rd 1 x, none)
  | .spBtst _ rd x => some (word4 8 rd 2 x, none)
  | .spBsetr _ rd x => some (word4 8 rd 3 x, none)
  | .spBclrr _ rd x => some (word4 8 rd 4 x, none)
  | .spBtstr _ rd x => some (word4 8 rd 5 x, none)
  | .spExt _ rd x => some (word4 8 rd 6 x, none)
  | .spIns _ rd x => some (word4 8 rd 7 x, none)
  | .spCrc16b _ rd ra => some (word4 9 rd ra 0, none)
  | .spCrc32b _ rd ra => some (word4 9 rd ra 1, none)
  | .spCrc32cb _ rd ra => some (word4 9 rd ra 2, none)
  | .spCrc64b _ rd ra => some (word4 9 rd ra 3, none)
  | .spCrc16w _ rd ra => some (word4 9 rd ra 4, none)
  | .spCrc32w _ rd ra => some (word4 9 rd ra 5, none)
  | .spCrc32cw _ rd ra => some (word4 9 rd ra 6, none)
  | .spCrc64w _ rd ra => some (word4 9 rd ra 7, none)
  | .spBip8 _ rd ra => some (word4 9 rd ra 8, none)
  | .spPar _ rd ra => some (word4 9 rd ra 9, none)
  | .spSinc _ rd => some (word4 9 rd 0 10, none)
  | .spSadd _ rd ra => some (word4 9 rd ra 11, none)
  | .spPopc _ rd ra => some (word4 9 rd ra 12, none)
  | .spQhead _ rd f => some (word4 10 rd f 0, none)
  | .spQword _ rd f => some (word4 10 rd f 1, none)
  | .spQmark _ f => some (word4 10 0 f 2, none)
  | .spQrew _ f => some (word4 10 0 f 3, none)
  | .spQrel _ f => some (word4 10 0 f 4, none)
  | .spQpushh _ rd f => some (word4 10 rd f 5, none)
  | .spQpushw _ rd f => some (word4 10 rd f 6, none)
  | .spQend _ f => some (word4 10 0 f 7, none)
  | .spBr _ i => some (word8 11 0 i, none)
  | .spBz _ i => some (word8 11 1 i, none)
  | .spBnz _ i => some (word8 11 2 i, none)
  | .spBcy _ i => some (word8 11 3 i, none)
  | .spBncy _ i => some (word8 11 4 i, none)
  | .spBugt _ i => some (word8 11 5 i, none)
  | .spBule _ i => some (word8 11 6 i, none)
  | .spBsge _ i => some (word8 11 7 i, none)
  | .spBslt _ i => some (word8 11 8 i, none)
  | .spBsgt _ i => some (word8 11 9 i, none)
  | .spBsle _ i => some (word8 11 10 i, none)
  | .spBneg _ i => some (word8 11 11 i, none)
  | .spBpos _ i => some (word8 11 12 i, none)
  | .spBov _ i => some (word8 11 13 i, none)
  | .spBnov _ i => some (word8 11 14 i, none)
  | .spJmp _ d => some ((12 : BitVec 4) ++ (0 : BitVec 1) ++ d, none)
  | .spCall _ d => some ((12 : BitVec 4) ++ (1 : BitVec 1) ++ d, none)
  | .spEnd _ => some (word4 13 0 0 0, none)
  | .spRet _ => some (word4 13 1 0 0, none)
  | .spFence _ => some (word4 13 2 0 0, none)
  | .spYield _ => some (word4 13 3 0 0, none)
  | .spWait _ a => some (word4 13 4 a 0, none)
  | .spPost _ a b => some (word4 13 5 a b, none)
  | .spCond _ a b => some (word4 13 6 a b, none)
  | .spCondc _ a b => some (word4 13 7 a b, none)
  | .spTsrd _ a b => some (word4 13 8 a b, none)
  | .spNop _ => some (word4 13 9 0 0, none)
  | .spOhr _ rd ra => some (word4 14 rd ra 0, none)
  | .spOhw _ rd ra => some (word4 14 rd ra 1, none)
  | .spOhrx _ rd ra => some (word4 14 rd ra 2, none)
  | .spOhwx _ rd ra => some (word4 14 rd ra 3, none)
  | .spLi16 _ rd v => some (word4 15 0 rd 0, some v)
  | .spAddl _ rd v => some (word4 15 0 rd 1, some v)
  | .spAdcl _ rd v => some (word4 15 0 rd 2, some v)
  | .spSubl _ rd v => some (word4 15 0 rd 3, some v)
  | .spSbcl _ rd v => some (word4 15 0 rd 4, some v)
  | .spCmpl _ rd v => some (word4 15 0 rd 5, some v)
  | .spAndl _ rd v => some (word4 15 0 rd 6, some v)
  | .spOrl _ rd v => some (word4 15 0 rd 7, some v)
  | .spXorl _ rd v => some (word4 15 0 rd 8, some v)
  | .spNotl _ rd v => some (word4 15 0 rd 9, some v)
  | .spShll _ rd v => some (word4 15 0 rd 10, some v)
  | .spShrl _ rd v => some (word4 15 0 rd 11, some v)
  | .spAsrl _ rd v => some (word4 15 0 rd 12, some v)
  | .spRoll _ rd v => some (word4 15 0 rd 13, some v)
  | .spNegl _ rd v => some (word4 15 0 rd 14, some v)
  | .spTstl _ rd v => some (word4 15 0 rd 15, some v)
  | .spMul _ rd ra rb sg => some (word4 15 1 rd ra, some (rb ++ (0 : BitVec 11) ++ BitVec.ofBool sg))
  | .spLdb _ rd ra p d => some (word4 15 2 rd ra, some (p ++ d))
  | .spStb _ rd ra p d => some (word4 15 3 rd ra, some (p ++ d))
  | .spLdf _ rd ra d => some (word4 15 4 rd ra, some d)
  | .spStf _ rd ra d => some (word4 15 5 rd ra, some d)
  | .spJmpl _ t => some (word4 15 6 0 0, some ((0 : BitVec 1) ++ t))
  | .spCalll _ t => some (word4 15 7 0 0, some ((0 : BitVec 1) ++ t))
  | .spJmpr _ ra v => some (word4 15 8 0 ra, some v)
  | .spCallr _ ra v => some (word4 15 9 0 ra, some v)
  | _ => none

/-- Words of the instruction: 2 under major opcode 0xF, else 1 (R222). -/
def sprigLen (w : Half) : Nat := if (w.extractLsb' 12 4).toNat = 15 then 2 else 1

/-- The operand restrictions of R223: pairs, quadruples, and rd of TSRD. -/
def sprigAligned (i : Instr) : Bool :=
  match i with
  | .spCrc32b _ rd _ | .spCrc32cb _ rd _ | .spCrc32w _ rd _ | .spCrc32cw _ rd _ => isPair rd
  | .spCrc64b _ rd _ | .spCrc64w _ rd _ => isQuad rd
  | .spQhead _ rd _ => isPair rd
  | .spTsrd _ rd _ => decide (rd.toNat ≤ 10)
  | .spMul _ rd _ _ _ => isPair rd
  | .spLdf _ _ ra _ | .spStf _ _ ra _ => isPair ra
  | _ => true

end Sys2Proof.Machine
end

