-- ==== Sys2Proof/Machine/Operands.lean ====
section
/-! DEFINITION. Operand forms of the Sprig instructions: registers, pairs, quadruples, immediates,
addresses (R196, R223, R228, R229, R240). -/

namespace Sys2Proof.Machine

/-- W(i) (R196). -/
def Ctx.reg (x : Ctx) (i : BitVec 4) : Half := Tab.get x.w 0 i.toNat

def Ctx.setReg (x : Ctx) (i : BitVec 4) (v : Half) : Ctx := { x with w := Tab.set x.w 0 i.toNat v }

/-- The pair Wk:Wk+1, W(k) the less significant half (R223). -/
def Ctx.pair (x : Ctx) (k : BitVec 4) : BitVec 32 := x.reg (k + 1) ++ x.reg k

def Ctx.setPair (x : Ctx) (k : BitVec 4) (v : BitVec 32) : Ctx :=
  (x.setReg k (v.setWidth 16)).setReg (k + 1) ((v >>> 16).setWidth 16)

/-- The quadruple from Wk, least significant quarter first (R223). -/
def Ctx.quad (x : Ctx) (k : BitVec 4) : BitVec 64 :=
  x.reg (k + 3) ++ x.reg (k + 2) ++ x.reg (k + 1) ++ x.reg k

def Ctx.setQuad (x : Ctx) (k : BitVec 4) (v : BitVec 64) : Ctx :=
  (((x.setReg k (v.setWidth 16)).setReg (k + 1) ((v >>> 16).setWidth 16)).setReg (k + 2)
    ((v >>> 32).setWidth 16)).setReg (k + 3) ((v >>> 48).setWidth 16)

/-- simm8: the immediate sign-extended to 16 bits (R223). -/
def simm8 (i : Byte) : Half := i.signExtend 16

/-- The local or context address W(ra) + disp, without wrap (R228). -/
def Ctx.plainAddr (x : Ctx) (ra : BitVec 4) (disp : Nat) : Nat := (x.reg ra).toNat + disp

/-- The bed address of LDB and STB (R240). -/
def Ctx.bedAddr (x : Ctx) (ra page : BitVec 4) (disp : BitVec 12) : Nat :=
  page.toNat * 65536 + ((x.reg ra).toNat + disp.toNat) % 65536

/-- The far word address of LDF and STF (R240). -/
def Ctx.farAddr (x : Ctx) (ra : BitVec 4) (disp : Half) : Nat :=
  (((x.reg ra).toNat % 1024 * 65536 + (x.reg (ra + 1)).toNat : Nat) + disp.toInt).emod (2 ^ 26) |>.toNat

/-- Field position p = W15[3:0] and width w = W15[7:4] + 1 of EXT and INS (R229). -/
def Ctx.fieldPos (x : Ctx) : Nat := (x.reg 15).toNat % 16
def Ctx.fieldWidth (x : Ctx) : Nat := (x.reg 15).toNat / 16 % 16 + 1

/-- The bits of a field, cut at bit 15 (R229). -/
def fieldMask (p w : Nat) : Half := BitVec.ofNat 16 ((2 ^ w - 1) * 2 ^ p)

/-- The target of a relative branch from address `a`: (a + 1 + disp) mod 2^15 (R233). -/
def relTarget (a : BitVec 15) (disp : BitVec 15) : BitVec 15 := a + 1 + disp

/-- JMPR's target: (W(ra) + imm16) mod 2^15 (R239). -/
def Ctx.regTarget (x : Ctx) (ra : BitVec 4) (imm : Half) : BitVec 15 := (x.reg ra + imm).setWidth 15

/-! ### The bed address space (R198) -/

/-- The regions of the bed address space. -/
inductive BedPlace where
  | shared (w : Nat)
  | context (w : Nat)
  | program (w : Nat)
  | usecLo | usecHi | ident | pageLo | pageHi
  | sem (k : Nat)
  | timer (k i : Nat)
  | window (w : Nat)
  | unassigned
deriving DecidableEq, Repr

/-- What a bed word address names (R198). -/
def bedPlace (a : Nat) : BedPlace :=
  if a < 0x10000 then .shared a
  else if a < 0x18000 then .context (a - 0x10000)
  else if 0x20000 ≤ a ∧ a < 0x28000 then .program (a - 0x20000)
  else if a = 0x30000 then .usecLo
  else if a = 0x30001 then .usecHi
  else if a = 0x30002 then .ident
  else if a = 0x30010 then .pageLo
  else if a = 0x30011 then .pageHi
  else if 0x30040 ≤ a ∧ a < 0x30080 then .sem (a - 0x30040)
  else if 0x30800 ≤ a ∧ a < 0x31000 then .timer ((a - 0x30800) / 4) ((a - 0x30800) % 4)
  else if 0x40000 ≤ a ∧ a < 0x40800 then .window (a - 0x40000)
  else .unassigned

end Sys2Proof.Machine
end

