-- ==== Sys2Proof/Machine/Flags.lean ====
section
/-! DEFINITION. Flags Z, N, C and V: how results set them, the arithmetic functions of R226 with
their flags, and the conditions of R225. -/

namespace Sys2Proof.Machine

/-- Z and N from a result (R225). -/
def Ctx.flagsZN (x : Ctx) (r : Half) : Ctx := { x with z := r == 0, n := r.msb }

def Ctx.flagZ (x : Ctx) (b : Bool) : Ctx := { x with z := b }
def Ctx.flagC (x : Ctx) (b : Bool) : Ctx := { x with c := b }
def Ctx.flagV (x : Ctx) (b : Bool) : Ctx := { x with v := b }

/-- Sum with a carry in, in 17 bits. -/
def sum17 (a b : Half) (cin : Bool) : Nat := a.toNat + b.toNat + cin.toNat

/-- Flags of an addition: C the carry out of bit 15, V signed overflow (R225). -/
def Ctx.flagsAdd (x : Ctx) (a b : Half) (cin : Bool) : Ctx :=
  let r := BitVec.ofNat 16 (sum17 a b cin)
  { x.flagsZN r with c := decide (65536 ≤ sum17 a b cin), v := a.msb == b.msb && r.msb != a.msb }

/-- a − b − (1 − cin) (R226). -/
def diff16 (a b : Half) (cin : Bool) : Half := a - b - BitVec.ofNat 16 (!cin).toNat

/-- Flags of a subtraction: C is 1 when no borrow occurs, V signed overflow (R225). -/
def Ctx.flagsSub (x : Ctx) (a b : Half) (cin : Bool) : Ctx :=
  let r := diff16 a b cin
  { x.flagsZN r with c := decide (b.toNat + (!cin).toNat ≤ a.toNat), v := a.msb != b.msb && r.msb != a.msb }

/-- Flags of a shift or rotate: C the last bit out, V 0 (R226). -/
def Ctx.flagsShift (x : Ctx) (r : Half) (out : Bool) : Ctx := { x.flagsZN r with c := out, v := false }

/-- The functions of R226. -/
inductive Alu where
  | mov | add | adc | sub | sbc | cmp | and | or | xor | not | shl | shr | asr | rol | neg | tst
deriving DecidableEq, Repr

/-- Result and flags of a function on rd's value `a` and the second operand `b` (R226). -/
def Alu.eval (f : Alu) (x : Ctx) (a b : Half) : Half × Ctx :=
  let k := b.toNat % 16
  match f with
  | .mov => (b, x.flagsZN b)
  | .add => (a + b, x.flagsAdd a b false)
  | .adc => (BitVec.ofNat 16 (sum17 a b x.c), x.flagsAdd a b x.c)
  | .sub => (a - b, x.flagsSub a b true)
  | .sbc => (diff16 a b x.c, x.flagsSub a b x.c)
  | .cmp => (a, x.flagsSub a b true)
  | .and => (a &&& b, x.flagsZN (a &&& b))
  | .or => (a ||| b, x.flagsZN (a ||| b))
  | .xor => (a ^^^ b, x.flagsZN (a ^^^ b))
  | .not => (~~~b, x.flagsZN (~~~b))
  | .shl => (a <<< k, x.flagsShift (a <<< k) (decide (0 < k) && a.getLsbD (16 - k)))
  | .shr => (a >>> k, x.flagsShift (a >>> k) (decide (0 < k) && a.getLsbD (k - 1)))
  | .asr => (a.sshiftRight k, x.flagsShift (a.sshiftRight k) (decide (0 < k) && a.getLsbD (k - 1)))
  | .rol => (a.rotateLeft k, x.flagsShift (a.rotateLeft k) (decide (0 < k) && a.getLsbD (16 - k)))
  | .neg => (0 - b, x.flagsSub 0 b true)
  | .tst => (a, x.flagsZN (a &&& b))

/-- A function of R226 on context `x`: rd takes the result, the flags as given. -/
def Alu.run (f : Alu) (rd : BitVec 4) (b : Half) (x : Ctx) : Ctx :=
  let e := f.eval x (x.reg rd) b
  e.2.setReg rd e.1

/-- The conditions of R225, by code. -/
def Ctx.holds (x : Ctx) (cond : Nat) : Bool :=
  match cond with
  | 0 => true
  | 1 => x.z
  | 2 => !x.z
  | 3 => x.c
  | 4 => !x.c
  | 5 => x.c && !x.z
  | 6 => !x.c || x.z
  | 7 => x.n == x.v
  | 8 => x.n != x.v
  | 9 => !x.z && x.n == x.v
  | 10 => x.z || x.n != x.v
  | 11 => x.n
  | 12 => !x.n
  | 13 => x.v
  | 14 => !x.v
  | _ => false

end Sys2Proof.Machine
end

