-- ==== Sys2Proof/Machine/Ledger.lean ====
section
/-! DEFINITION. What Inventory counts while time passes: cycles, occupancies and the slots in which nothing issues
(R315, R317, R319, R320). -/

namespace Sys2Proof.Machine

/-- Cycles that clock domain `d` has begun `t` ns after power-on: 1.0, 1.25, 1.066, 0.8 and 0.25 GHz (R25, R315). -/
def domCycles (d t : Nat) : Nat :=
  match d with
  | 0 => t
  | 1 => t * 5 / 4
  | 2 => t * 533 / 500
  | 3 => t * 4 / 5
  | _ => t / 4

/-- Words in furrow `F` (R319). -/
def State.furWords (s : State) (F : Nat) : Nat := occupancy (s.fur F).items

/-- The occupancy that event `ev` of counter `c` counts, for SELECT `sel`; none where the event is no occupancy, or one of
a queue inside a block that the manual does not describe (R319; assumption 21). -/
def State.occOf (s : State) (c ev sel : Nat) : Option Nat :=
  if c < 128 then
    let b := c / 8
    if ev = 15 then some (s.bed b).evq.length
    else if ev = 16 then
      some ((s.activeKeys b).filter (fun k => sel == 32 || keyEng k == sel)).length
    else none
  else if 240 ≤ c ∧ c < 336 ∧ ev = 7 then
    let r := (c - 240) / 8
    some (if sel < 3 then s.furWords (12 * sel + r) else max (s.furWords r) (max (s.furWords (12 + r)) (s.furWords (24 + r))))
  else none

/-- What the charged context waits for, as the event number of its stall class (R320): 18 NEAR, 19 FAR, 20 WINDOW,
21 TIMED, 22 COMMIT.  A context that waits for nothing but its Ready count, or that could issue and was given no command,
is charged to NEAR, in the hold of a YIELD to TIMED (assumption 21). -/
def State.stallOf (s : State) (key : Nat) : Nat :=
  let x := s.ctx key
  match x.wait with
  | .none => if s.now < (Tab.get (s.engine (key / 4)).yields ([], 0) (key % 4)).2 then 21 else 18
  | .far _ _ => 19
  | .winRead _ _ => 20
  | .overhead _ _ => 20
  | .timed _ => 21
  | .fence => 20
  | .commit => if x.winWrites.isEmpty then 22 else 20

/-- The context that the round-robin order would take next, of those of engine `g` that hold a handler (R195, R320). -/
def State.charged (s : State) (g : Nat) : Option Nat :=
  let last := (s.engine g).last
  ([(last + 1) % 4, (last + 2) % 4, (last + 3) % 4, last % 4].map (4 * g + ·)).find? (fun k => (s.ctx k).active)

/-- The class of a slot of engine `g` in which nothing issues counts under event `ev`: 5 EMPTY, 6 STALLED, 18 to 22 the
stall classes. -/
def State.slotCounts (s : State) (g ev : Nat) : Bool :=
  match s.charged g with
  | none => ev == 5
  | some k => ev == 6 || ev == s.stallOf k

/-- Slots of engine `g` up to time `t` in which nothing issued: all but that of the present cycle if it has been used. -/
def State.idleSlots (s : State) (g t : Nat) : Nat :=
  let y := s.cycle (g / 32)
  t - s.now - (if y.upTo = s.now + 1 ∧ y.issued.contains (g % 32) then 1 else 0)

/-- What event `ev` of bed counter `c` adds up to time `t` for slots in which nothing issues. -/
def State.slotsPassed (s : State) (c ev sel t : Nat) : Nat :=
  ((List.range 32).map (fun e =>
    let g := c / 8 * 32 + e
    if (sel == e || sel == 32) && s.slotCounts g ev then s.idleSlots g t else 0)).sum

/-- What counter `c` adds of its own until time `t` (R317, R319). -/
def State.passed (s : State) (c t : Nat) : Nat :=
  let w := s.nat (cntA c 0)
  let ev := bitsOf w 7 0
  let sel := bitsOf w 23 16
  let n := domCycles (cntDomain c) t - domCycles (cntDomain c) s.now
  match s.occOf c ev sel with
  | some v => if bitsOf w 8 8 = 0 then v * n else if s.nat (cntA c 4) < v then n else 0
  | none => if ev = 1 then n else if c < 128 then s.slotsPassed c ev sel t else 0

/-- The counters whose settings have been written. -/
def State.counters (s : State) : List Nat :=
  (s.regs.filter (fun e => decide (cntA 0 0 ≤ e.1 ∧ e.1 < cntA 344 0) && (e.1 - cntA 0 0) % 0x20 == 0)).map
    (fun e => (e.1 - cntA 0 0) / 0x20)

/-- What Inventory counts until time `t`, in the domains whose clocks run (R27, R317). -/
def State.countTo (s : State) (t : Nat) : State :=
  s.counters.foldl (fun u c =>
    let n := if u.cntOn c && s.domainRuns (cntDomain c) then s.passed c t else 0
    if n = 0 then u else u.cntAdd c n) s

/-- The part's own clock comes to `t`. -/
def State.passTo (s : State) (t : Nat) : State := (s.countTo t).setNow t

end Sys2Proof.Machine
end

