-- ==== Sys2Proof/Machine/Sprig.lean ====
section
/-! DEFINITION. Issue of Sprig instructions, and the instructions that work on a context's registers
alone: arithmetic, immediates, bit fields, checks, branches (R195, R222 to R233, R239). -/

namespace Sys2Proof.Machine

/-! ### Issue (R195, R224, R242): a cycle of ENGINE_CLK is one nanosecond -/

/-- The cycle from which a context can issue by its own state: it holds a handler, waits for nothing, the Ready
count of its last instruction is over, and so is a YIELD (R195, R224, R234).  FAULTED and cleared beds hold no
handler. -/
def State.readyTime (s : State) (key : Nat) : Option Nat :=
  let x := s.ctx key
  let e := s.engine (key / 4)
  if s.enginesRun && x.active && x.wait == .none then
    some (max (Tab.get e.readyAt 0 (key % 4)) (Tab.get e.yields ([], 0) (key % 4)).2)
  else none

/-- A context is ready now, its watchdog not run out (R195, R211). -/
def State.ready (s : State) (key : Nat) : Bool :=
  match s.readyTime key with
  | some t => decide (t ≤ s.now) && decide (s.now < (s.ctx key).started + (s.ctx key).limitNs)
  | none => false

/-- The first cycle from now in which engine `g` can issue: an engine issues once in a cycle, and the engines of a bed
in ascending order (assumption 26). -/
def State.slotFrom (s : State) (g : Nat) : Nat :=
  let y := s.cycle (g / 32)
  if y.upTo = s.now + 1 ∧ (y.issued.contains (g % 32) ∨ g % 32 < y.high) then s.now + 1 else s.now

/-- The first cycle from now in which context `key` is ready and its engine free. -/
def State.issueTime (s : State) (key : Nat) : Option Nat :=
  match s.readyTime key with
  | some t =>
    let t := max t (s.slotFrom (key / 4))
    if t < (s.ctx key).started + (s.ctx key).limitNs then some t else none
  | none => none

/-- What engine `g` issues next: the cycle, and the first context ready then after the one that issued last
(R195). -/
def State.nextIssue (s : State) (g : Nat) : Option (Nat × Nat) :=
  let last := (s.engine g).last
  [(last + 1) % 4, (last + 2) % 4, (last + 3) % 4, last % 4].foldl (fun m k =>
    match s.issueTime (4 * g + k), m with
    | none, m => m
    | some t, none => some (t, k)
    | some t, some (u, j) => if t < u then some (t, k) else some (u, j)) none

/-- What the words at the context's PC spell (R222). -/
def State.fetched (s : State) (c : CtxId) : Option Instr :=
  let pc := (s.ctx (keyOf c)).pc.toNat
  decodeSprig c (s.progWord c.bed.val pc) (s.progWord c.bed.val (pc + 1))

/-- A store to a semaphore, which is served before the loads of its cycle (R242). -/
def storesSem (x : Ctx) : Instr → Bool
  | .spStb _ _ ra page disp => match bedPlace (x.bedAddr ra page disp) with | .sem _ => true | _ => false
  | _ => false

/-- The cycle in which context `c` issues instruction `i`, if it is the one that its engine issues next. -/
def State.issueCycle (s : State) (c : CtxId) (i : Instr) : Option Nat :=
  match s.nextIssue (keyOf c / 4) with
  | none => none
  | some (t, k) =>
    let y := s.cycle c.bed.val
    if k ≠ c.ctx.val then none
    else if storesSem (s.ctx (keyOf c)) i && y.semLoad && y.upTo == t + 1 then some (t + 1)
    else some t

/-- Context `c` issues instruction `i` next on its engine: it is its turn and `i` stands at its PC. -/
def State.issues (s : State) (c : CtxId) (i : Instr) : Bool := (s.issueCycle c i).isSome && s.fetched c == some i

/-- The state in the cycle in which `c` issues `i`: the part's own clock has come to it (assumption 26). -/
def State.atIssue (s : State) (c : CtxId) (i : Instr) : State :=
  match s.issueCycle c i with
  | some t => if t = s.now then s else s.passTo t
  | none => s

/-- Ready counts above 1 of the instructions that need no result from outside the engine; a taken branch sets its
own (R224). -/
def readyCount : Instr → Nat
  | .spLdc _ _ _ _ => 2
  | .spQhead _ _ _ => 2
  | .spQword _ _ _ => 2
  | .spCrc64b _ _ _ => 2
  | .spCrc16w _ _ _ => 2
  | .spCrc32w _ _ _ => 2
  | .spCrc32cw _ _ _ => 2
  | .spCrc64w _ _ _ => 3
  | .spMul _ _ _ _ _ => 2
  | .spLdb _ _ _ _ _ => 3
  | .spTsrd _ _ _ => 4
  | _ => 1

/-- Context `c` can issue again `n` cycles after this one at the earliest (R224). -/
def State.readyAfter (s : State) (c : CtxId) (n : Nat) : State :=
  let g := keyOf c / 4
  let e := s.engine g
  s.setEngine g { e with readyAt := Tab.set e.readyAt 0 c.ctx.val (s.now + n) }

/-- A YIELD that waited for context `k` waits for it no longer; with none left it ends. -/
def yieldLess (k : Nat) (y : List Nat × Nat) : List Nat × Nat :=
  let l := y.1.filter (· ≠ k)
  (l, if l = [] then 0 else y.2)

/-- The engine's slot of this cycle is taken by context `c` (R195, R234, R242). -/
def State.tookSlot (s : State) (c : CtxId) (i : Instr) : State :=
  let g := keyOf c / 4
  let e := s.engine g
  let k := c.ctx.val
  let yields := [0, 1, 2, 3].foldl (fun t j =>
    Tab.set t ([], 0) j (if j = k then ([], 0) else yieldLess k (Tab.get t ([], 0) j))) e.yields
  let y := s.cycle c.bed.val
  let y := if y.upTo = s.now + 1 then y else { Cycle.init with upTo := s.now + 1 }
  let y := { y with issued := c.eng.val :: y.issued,
                    high := if storesSem (s.ctx (keyOf c)) i then y.high else max y.high (c.eng.val + 1) }
  ((s.setEngine g { e with last := k, yields := yields }).readyAfter c (readyCount i)).setCycle c.bed.val y

/-- PC after `n` words (R222). -/
def Ctx.next (x : Ctx) (n : Nat) : Ctx := { x with pc := x.pc + BitVec.ofNat 15 n }

/-- The instructions whose slot the ledger enters as YIELDED (R320). -/
def yieldsSlot : Instr → Bool
  | .spNop _ => true
  | .spYield _ => true
  | .spWait _ _ => true
  | _ => false

/-- One event of the context's engine (R319). -/
def State.bedEv (s : State) (c : CtxId) (ev : Nat) : State := s.tallyBed c.bed.val c.eng.val ev 1

/-- What the issue of an instruction counts: the instruction, its slot, and the handler's own count
(R319, R320). -/
def State.issued (s : State) (c : CtxId) (i : Instr) : State :=
  let s := ((s.bedEv c 2).bedEv c (if yieldsSlot i then 4 else 3)).tookSlot c i
  let x := s.ctx (keyOf c)
  s.setCtx (keyOf c) { x with issued := x.issued + 1 }

/-- An instruction: its effect when the context can issue it; else nothing happens. -/
def sprig (c : CtxId) (i : Instr) (s : State) (f : State → State) : Host.Outcome State Fault Refusal :=
  if s.issues c i then done (s.atIssue c i) (f ((s.atIssue c i).issued c i)) else done s s

/-- An instruction whose effect stands in order behind the context's register-window writes: it issues
once those are performed (R199, R241). -/
def ordered (c : CtxId) (i : Instr) (s : State) (f : State → State) : Host.Outcome State Fault Refusal :=
  if (s.ctx (keyOf c)).winWrites.isEmpty then sprig c i s f else done s s

/-- An instruction of `n` words that works on its context alone. -/
def onCtx (c : CtxId) (i : Instr) (s : State) (n : Nat) (f : Ctx → Ctx) : Host.Outcome State Fault Refusal :=
  sprig c i s (fun s => s.setCtx (keyOf c) ((f (s.ctx (keyOf c))).next n))

/-- A word at the PC that spells no instruction is a handler fault with cause 2 (R223, R212). -/
def execUndefinedEncoding (c : CtxId) (s : State) : Host.Outcome State Fault Refusal :=
  let i := Instr.undefinedEncoding c
  if (s.issueCycle c i).isSome && s.fetched c == none then
    done (s.atIssue c i) (((s.atIssue c i).tookSlot c i).abortCtx (keyOf c) 2)
  else done s s

/-! ### Register arithmetic (R226) and the long forms (R239) -/
def execSpMov (c : CtxId) (rd ra : BitVec 4) (s : State) : Host.Outcome State Fault Refusal :=
  onCtx c (.spMov c rd ra) s 1 (fun x => Alu.run .mov rd (x.reg ra) x)

def execSpAdd (c : CtxId) (rd ra : BitVec 4) (s : State) : Host.Outcome State Fault Refusal :=
  onCtx c (.spAdd c rd ra) s 1 (fun x => Alu.run .add rd (x.reg ra) x)

def execSpAdc (c : CtxId) (rd ra : BitVec 4) (s : State) : Host.Outcome State Fault Refusal :=
  onCtx c (.spAdc c rd ra) s 1 (fun x => Alu.run .adc rd (x.reg ra) x)

def execSpSub (c : CtxId) (rd ra : BitVec 4) (s : State) : Host.Outcome State Fault Refusal :=
  onCtx c (.spSub c rd ra) s 1 (fun x => Alu.run .sub rd (x.reg ra) x)

def execSpSbc (c : CtxId) (rd ra : BitVec 4) (s : State) : Host.Outcome State Fault Refusal :=
  onCtx c (.spSbc c rd ra) s 1 (fun x => Alu.run .sbc rd (x.reg ra) x)

def execSpCmp (c : CtxId) (rd ra : BitVec 4) (s : State) : Host.Outcome State Fault Refusal :=
  onCtx c (.spCmp c rd ra) s 1 (fun x => Alu.run .cmp rd (x.reg ra) x)

def execSpAnd (c : CtxId) (rd ra : BitVec 4) (s : State) : Host.Outcome State Fault Refusal :=
  onCtx c (.spAnd c rd ra) s 1 (fun x => Alu.run .and rd (x.reg ra) x)

def execSpOr (c : CtxId) (rd ra : BitVec 4) (s : State) : Host.Outcome State Fault Refusal :=
  onCtx c (.spOr c rd ra) s 1 (fun x => Alu.run .or rd (x.reg ra) x)

def execSpXor (c : CtxId) (rd ra : BitVec 4) (s : State) : Host.Outcome State Fault Refusal :=
  onCtx c (.spXor c rd ra) s 1 (fun x => Alu.run .xor rd (x.reg ra) x)

def execSpNot (c : CtxId) (rd ra : BitVec 4) (s : State) : Host.Outcome State Fault Refusal :=
  onCtx c (.spNot c rd ra) s 1 (fun x => Alu.run .not rd (x.reg ra) x)

def execSpShl (c : CtxId) (rd ra : BitVec 4) (s : State) : Host.Outcome State Fault Refusal :=
  onCtx c (.spShl c rd ra) s 1 (fun x => Alu.run .shl rd (x.reg ra) x)

def execSpShr (c : CtxId) (rd ra : BitVec 4) (s : State) : Host.Outcome State Fault Refusal :=
  onCtx c (.spShr c rd ra) s 1 (fun x => Alu.run .shr rd (x.reg ra) x)

def execSpAsr (c : CtxId) (rd ra : BitVec 4) (s : State) : Host.Outcome State Fault Refusal :=
  onCtx c (.spAsr c rd ra) s 1 (fun x => Alu.run .asr rd (x.reg ra) x)

def execSpRol (c : CtxId) (rd ra : BitVec 4) (s : State) : Host.Outcome State Fault Refusal :=
  onCtx c (.spRol c rd ra) s 1 (fun x => Alu.run .rol rd (x.reg ra) x)

def execSpNeg (c : CtxId) (rd ra : BitVec 4) (s : State) : Host.Outcome State Fault Refusal :=
  onCtx c (.spNeg c rd ra) s 1 (fun x => Alu.run .neg rd (x.reg ra) x)

def execSpTst (c : CtxId) (rd ra : BitVec 4) (s : State) : Host.Outcome State Fault Refusal :=
  onCtx c (.spTst c rd ra) s 1 (fun x => Alu.run .tst rd (x.reg ra) x)

def execSpLi16 (c : CtxId) (rd : BitVec 4) (imm : Half) (s : State) : Host.Outcome State Fault Refusal :=
  onCtx c (.spLi16 c rd imm) s 2 (Alu.run .mov rd imm)

def execSpAddl (c : CtxId) (rd : BitVec 4) (imm : Half) (s : State) : Host.Outcome State Fault Refusal :=
  onCtx c (.spAddl c rd imm) s 2 (Alu.run .add rd imm)

def execSpAdcl (c : CtxId) (rd : BitVec 4) (imm : Half) (s : State) : Host.Outcome State Fault Refusal :=
  onCtx c (.spAdcl c rd imm) s 2 (Alu.run .adc rd imm)

def execSpSubl (c : CtxId) (rd : BitVec 4) (imm : Half) (s : State) : Host.Outcome State Fault Refusal :=
  onCtx c (.spSubl c rd imm) s 2 (Alu.run .sub rd imm)

def execSpSbcl (c : CtxId) (rd : BitVec 4) (imm : Half) (s : State) : Host.Outcome State Fault Refusal :=
  onCtx c (.spSbcl c rd imm) s 2 (Alu.run .sbc rd imm)

def execSpCmpl (c : CtxId) (rd : BitVec 4) (imm : Half) (s : State) : Host.Outcome State Fault Refusal :=
  onCtx c (.spCmpl c rd imm) s 2 (Alu.run .cmp rd imm)

def execSpAndl (c : CtxId) (rd : BitVec 4) (imm : Half) (s : State) : Host.Outcome State Fault Refusal :=
  onCtx c (.spAndl c rd imm) s 2 (Alu.run .and rd imm)

def execSpOrl (c : CtxId) (rd : BitVec 4) (imm : Half) (s : State) : Host.Outcome State Fault Refusal :=
  onCtx c (.spOrl c rd imm) s 2 (Alu.run .or rd imm)

def execSpXorl (c : CtxId) (rd : BitVec 4) (imm : Half) (s : State) : Host.Outcome State Fault Refusal :=
  onCtx c (.spXorl c rd imm) s 2 (Alu.run .xor rd imm)

def execSpNotl (c : CtxId) (rd : BitVec 4) (imm : Half) (s : State) : Host.Outcome State Fault Refusal :=
  onCtx c (.spNotl c rd imm) s 2 (Alu.run .not rd imm)

def execSpShll (c : CtxId) (rd : BitVec 4) (imm : Half) (s : State) : Host.Outcome State Fault Refusal :=
  onCtx c (.spShll c rd imm) s 2 (Alu.run .shl rd imm)

def execSpShrl (c : CtxId) (rd : BitVec 4) (imm : Half) (s : State) : Host.Outcome State Fault Refusal :=
  onCtx c (.spShrl c rd imm) s 2 (Alu.run .shr rd imm)

def execSpAsrl (c : CtxId) (rd : BitVec 4) (imm : Half) (s : State) : Host.Outcome State Fault Refusal :=
  onCtx c (.spAsrl c rd imm) s 2 (Alu.run .asr rd imm)

def execSpRoll (c : CtxId) (rd : BitVec 4) (imm : Half) (s : State) : Host.Outcome State Fault Refusal :=
  onCtx c (.spRoll c rd imm) s 2 (Alu.run .rol rd imm)

def execSpNegl (c : CtxId) (rd : BitVec 4) (imm : Half) (s : State) : Host.Outcome State Fault Refusal :=
  onCtx c (.spNegl c rd imm) s 2 (Alu.run .neg rd imm)

def execSpTstl (c : CtxId) (rd : BitVec 4) (imm : Half) (s : State) : Host.Outcome State Fault Refusal :=
  onCtx c (.spTstl c rd imm) s 2 (Alu.run .tst rd imm)

/-! ### Immediates (R227) -/

def execSpAddi (c : CtxId) (rd : BitVec 4) (imm : Byte) (s : State) : Host.Outcome State Fault Refusal :=
  onCtx c (.spAddi c rd imm) s 1 (Alu.run .add rd (simm8 imm))

/-- No flag changes (R227). -/
def execSpMovi (c : CtxId) (rd : BitVec 4) (imm : Byte) (s : State) : Host.Outcome State Fault Refusal :=
  onCtx c (.spMovi c rd imm) s 1 (fun x => x.setReg rd (imm.setWidth 16))

/-- No flag changes (R227). -/
def execSpMovhi (c : CtxId) (rd : BitVec 4) (imm : Byte) (s : State) : Host.Outcome State Fault Refusal :=
  onCtx c (.spMovhi c rd imm) s 1 (fun x => x.setReg rd (imm ++ (x.reg rd).setWidth 8))

def execSpCmpi (c : CtxId) (rd : BitVec 4) (imm : Byte) (s : State) : Host.Outcome State Fault Refusal :=
  onCtx c (.spCmpi c rd imm) s 1 (Alu.run .cmp rd (simm8 imm))

/-! ### Bit fields (R229) -/

/-- Bit `b` of rd written. -/
def Ctx.putBit (x : Ctx) (rd : BitVec 4) (b : Nat) (v : Bool) : Ctx :=
  let m : Half := BitVec.ofNat 16 (2 ^ b)
  x.setReg rd (if v then x.reg rd ||| m else x.reg rd &&& ~~~m)

def execSpBset (c : CtxId) (rd b : BitVec 4) (s : State) : Host.Outcome State Fault Refusal :=
  onCtx c (.spBset c rd b) s 1 (fun x => x.putBit rd b.toNat true)

def execSpBclr (c : CtxId) (rd b : BitVec 4) (s : State) : Host.Outcome State Fault Refusal :=
  onCtx c (.spBclr c rd b) s 1 (fun x => x.putBit rd b.toNat false)

/-- Z := 1 if the bit is 0. -/
def execSpBtst (c : CtxId) (rd b : BitVec 4) (s : State) : Host.Outcome State Fault Refusal :=
  onCtx c (.spBtst c rd b) s 1 (fun x => x.flagZ (!(x.reg rd).getLsbD b.toNat))

def execSpBsetr (c : CtxId) (rd rb : BitVec 4) (s : State) : Host.Outcome State Fault Refusal :=
  onCtx c (.spBsetr c rd rb) s 1 (fun x => x.putBit rd ((x.reg rb).toNat % 16) true)

def execSpBclrr (c : CtxId) (rd rb : BitVec 4) (s : State) : Host.Outcome State Fault Refusal :=
  onCtx c (.spBclrr c rd rb) s 1 (fun x => x.putBit rd ((x.reg rb).toNat % 16) false)

def execSpBtstr (c : CtxId) (rd rb : BitVec 4) (s : State) : Host.Outcome State Fault Refusal :=
  onCtx c (.spBtstr c rd rb) s 1 (fun x => x.flagZ (!(x.reg rd).getLsbD ((x.reg rb).toNat % 16)))

/-- EXT reads zeros above bit 15 of its source. -/
def execSpExt (c : CtxId) (rd ra : BitVec 4) (s : State) : Host.Outcome State Fault Refusal :=
  onCtx c (.spExt c rd ra) s 1 (fun x =>
    let r := (x.reg ra >>> x.fieldPos) &&& fieldMask 0 x.fieldWidth
    (x.flagsZN r).setReg rd r)

/-- INS writes only the bits of the field below 16. -/
def execSpIns (c : CtxId) (rd ra : BitVec 4) (s : State) : Host.Outcome State Fault Refusal :=
  onCtx c (.spIns c rd ra) s 1 (fun x =>
    let m := fieldMask x.fieldPos x.fieldWidth
    x.setReg rd ((x.reg rd &&& ~~~m) ||| ((x.reg ra <<< x.fieldPos) &&& m)))

/-! ### Check instructions (R230) -/

/-- The bytes a check step takes from W(ra): the low byte, or the high byte and then the low. -/
def checkOperand (wide : Bool) (v : Half) : List Byte :=
  if wide then [(v >>> 8).setWidth 8, v.setWidth 8] else [v.setWidth 8]

/-- A CRC-16 step on W(rd); Z when the whole state is zero. -/
def Ctx.crc16 (x : Ctx) (rd ra : BitVec 4) (wide : Bool) : Ctx :=
  let r := (checkOperand wide (x.reg ra)).foldl crc16Byte (x.reg rd)
  (x.flagZ (r == 0)).setReg rd r

/-- A step of a 32-bit check on pair rd. -/
def Ctx.crc32 (x : Ctx) (f : BitVec 32 → Byte → BitVec 32) (rd ra : BitVec 4) (wide : Bool) : Ctx :=
  let r := (checkOperand wide (x.reg ra)).foldl f (x.pair rd)
  (x.flagZ (r == 0)).setPair rd r

/-- A step of the 64-bit check on quadruple rd. -/
def Ctx.crc64 (x : Ctx) (rd ra : BitVec 4) (wide : Bool) : Ctx :=
  let r := (checkOperand wide (x.reg ra)).foldl crc64Byte (x.quad rd)
  (x.flagZ (r == 0)).setQuad rd r

def execSpCrc16b (c : CtxId) (rd ra : BitVec 4) (s : State) : Host.Outcome State Fault Refusal :=
  onCtx c (.spCrc16b c rd ra) s 1 (fun x => x.crc16 rd ra false)

def execSpCrc32b (c : CtxId) (rd ra : BitVec 4) (s : State) : Host.Outcome State Fault Refusal :=
  onCtx c (.spCrc32b c rd ra) s 1 (fun x => x.crc32 crc32Byte rd ra false)

def execSpCrc32cb (c : CtxId) (rd ra : BitVec 4) (s : State) : Host.Outcome State Fault Refusal :=
  onCtx c (.spCrc32cb c rd ra) s 1 (fun x => x.crc32 crc32cByte rd ra false)

def execSpCrc64b (c : CtxId) (rd ra : BitVec 4) (s : State) : Host.Outcome State Fault Refusal :=
  onCtx c (.spCrc64b c rd ra) s 1 (fun x => x.crc64 rd ra false)

def execSpCrc16w (c : CtxId) (rd ra : BitVec 4) (s : State) : Host.Outcome State Fault Refusal :=
  onCtx c (.spCrc16w c rd ra) s 1 (fun x => x.crc16 rd ra true)

def execSpCrc32w (c : CtxId) (rd ra : BitVec 4) (s : State) : Host.Outcome State Fault Refusal :=
  onCtx c (.spCrc32w c rd ra) s 1 (fun x => x.crc32 crc32Byte rd ra true)

def execSpCrc32cw (c : CtxId) (rd ra : BitVec 4) (s : State) : Host.Outcome State Fault Refusal :=
  onCtx c (.spCrc32cw c rd ra) s 1 (fun x => x.crc32 crc32cByte rd ra true)

def execSpCrc64w (c : CtxId) (rd ra : BitVec 4) (s : State) : Host.Outcome State Fault Refusal :=
  onCtx c (.spCrc64w c rd ra) s 1 (fun x => x.crc64 rd ra true)

/-- The number of ones in a word. -/
def ones (v : Half) : Nat := ((List.range 16).filter (fun i => v.getLsbD i)).length

/-- A result that sets Z alone. -/
def Ctx.resultZ (x : Ctx) (rd : BitVec 4) (r : Half) : Ctx := (x.flagZ (r == 0)).setReg rd r

def execSpBip8 (c : CtxId) (rd ra : BitVec 4) (s : State) : Host.Outcome State Fault Refusal :=
  onCtx c (.spBip8 c rd ra) s 1 (fun x =>
    x.resultZ rd (((x.reg rd).setWidth 8 ^^^ (x.reg ra >>> 8).setWidth 8 ^^^ (x.reg ra).setWidth 8 : Byte).setWidth 16))

def execSpPar (c : CtxId) (rd ra : BitVec 4) (s : State) : Host.Outcome State Fault Refusal :=
  onCtx c (.spPar c rd ra) s 1 (fun x => x.resultZ rd (BitVec.ofNat 16 (ones (x.reg ra) % 2)))

/-- The sum saturating at 0xFFFF; C := 1 if saturated. -/
def Ctx.satAdd (x : Ctx) (rd : BitVec 4) (b : Nat) : Ctx :=
  let t := (x.reg rd).toNat + b
  (x.flagC (decide (65535 < t))).setReg rd (BitVec.ofNat 16 (min t 65535))

def execSpSinc (c : CtxId) (rd : BitVec 4) (s : State) : Host.Outcome State Fault Refusal :=
  onCtx c (.spSinc c rd) s 1 (fun x => x.satAdd rd 1)

def execSpSadd (c : CtxId) (rd ra : BitVec 4) (s : State) : Host.Outcome State Fault Refusal :=
  onCtx c (.spSadd c rd ra) s 1 (fun x => x.satAdd rd (x.reg ra).toNat)

def execSpPopc (c : CtxId) (rd ra : BitVec 4) (s : State) : Host.Outcome State Fault Refusal :=
  onCtx c (.spPopc c rd ra) s 1 (fun x => x.resultZ rd (BitVec.ofNat 16 (ones (x.reg ra))))

/-! ### Branches, jumps and calls (R233, R239): no flag changes -/

/-- A jump to `t`. -/
def Ctx.jump (x : Ctx) (t : BitVec 15) : Ctx := { x with pc := t }

/-- A taken branch or jump (R233, R319). -/
def State.jumpTo (s : State) (c : CtxId) (t : BitVec 15) : State :=
  ((s.setCtx (keyOf c) ((s.ctx (keyOf c)).jump t)).bedEv c 13).readyAfter c 2

/-- A conditional branch. -/
def branch (c : CtxId) (i : Instr) (cond : Nat) (disp : Byte) (s : State) : Host.Outcome State Fault Refusal :=
  sprig c i s (fun s =>
    let x := s.ctx (keyOf c)
    if x.holds cond then s.jumpTo c (relTarget x.pc (disp.signExtend 15))
    else s.setCtx (keyOf c) (x.next 1))

def execSpBr (c : CtxId) (disp : Byte) (s : State) : Host.Outcome State Fault Refusal := branch c (.spBr c disp) 0 disp s

def execSpBz (c : CtxId) (disp : Byte) (s : State) : Host.Outcome State Fault Refusal := branch c (.spBz c disp) 1 disp s

def execSpBnz (c : CtxId) (disp : Byte) (s : State) : Host.Outcome State Fault Refusal := branch c (.spBnz c disp) 2 disp s

def execSpBcy (c : CtxId) (disp : Byte) (s : State) : Host.Outcome State Fault Refusal := branch c (.spBcy c disp) 3 disp s

def execSpBncy (c : CtxId) (disp : Byte) (s : State) : Host.Outcome State Fault Refusal := branch c (.spBncy c disp) 4 disp s

def execSpBugt (c : CtxId) (disp : Byte) (s : State) : Host.Outcome State Fault Refusal := branch c (.spBugt c disp) 5 disp s

def execSpBule (c : CtxId) (disp : Byte) (s : State) : Host.Outcome State Fault Refusal := branch c (.spBule c disp) 6 disp s

def execSpBsge (c : CtxId) (disp : Byte) (s : State) : Host.Outcome State Fault Refusal := branch c (.spBsge c disp) 7 disp s

def execSpBslt (c : CtxId) (disp : Byte) (s : State) : Host.Outcome State Fault Refusal := branch c (.spBslt c disp) 8 disp s

def execSpBsgt (c : CtxId) (disp : Byte) (s : State) : Host.Outcome State Fault Refusal := branch c (.spBsgt c disp) 9 disp s

def execSpBsle (c : CtxId) (disp : Byte) (s : State) : Host.Outcome State Fault Refusal := branch c (.spBsle c disp) 10 disp s

def execSpBneg (c : CtxId) (disp : Byte) (s : State) : Host.Outcome State Fault Refusal := branch c (.spBneg c disp) 11 disp s

def execSpBpos (c : CtxId) (disp : Byte) (s : State) : Host.Outcome State Fault Refusal := branch c (.spBpos c disp) 12 disp s

def execSpBov (c : CtxId) (disp : Byte) (s : State) : Host.Outcome State Fault Refusal := branch c (.spBov c disp) 13 disp s

def execSpBnov (c : CtxId) (disp : Byte) (s : State) : Host.Outcome State Fault Refusal := branch c (.spBnov c disp) 14 disp s

/-- A call of `n` words to `t`: the return address is pushed; with eight entries on the return stack it
is a handler fault with cause 3 (R196, R233). -/
def State.call (s : State) (c : CtxId) (n : Nat) (t : BitVec 15) : State :=
  let x := s.ctx (keyOf c)
  if 8 ≤ x.stack.length then s.abortCtx (keyOf c) 3
  else (s.setCtx (keyOf c) { x with pc := t, stack := (x.pc + BitVec.ofNat 15 n) :: x.stack }).bedEv c 13 |>.readyAfter c 2

def execSpJmp (c : CtxId) (disp : BitVec 11) (s : State) : Host.Outcome State Fault Refusal :=
  sprig c (.spJmp c disp) s (fun s =>
    s.jumpTo c (relTarget (s.ctx (keyOf c)).pc (disp.signExtend 15)))

def execSpCall (c : CtxId) (disp : BitVec 11) (s : State) : Host.Outcome State Fault Refusal :=
  sprig c (.spCall c disp) s (fun s => s.call c 1 (relTarget (s.ctx (keyOf c)).pc (disp.signExtend 15)))

def execSpJmpl (c : CtxId) (target : BitVec 15) (s : State) : Host.Outcome State Fault Refusal :=
  sprig c (.spJmpl c target) s (fun s => s.jumpTo c target)

def execSpCalll (c : CtxId) (target : BitVec 15) (s : State) : Host.Outcome State Fault Refusal :=
  sprig c (.spCalll c target) s (fun s => s.call c 2 target)

def execSpJmpr (c : CtxId) (ra : BitVec 4) (imm : Half) (s : State) : Host.Outcome State Fault Refusal :=
  sprig c (.spJmpr c ra imm) s (fun s =>
    s.jumpTo c ((s.ctx (keyOf c)).regTarget ra imm))

def execSpCallr (c : CtxId) (ra : BitVec 4) (imm : Half) (s : State) : Host.Outcome State Fault Refusal :=
  sprig c (.spCallr c ra imm) s (fun s => s.call c 2 ((s.ctx (keyOf c)).regTarget ra imm))

/-- RET with an empty return stack is a handler fault with cause 3 (R196, R233). -/
def execSpRet (c : CtxId) (s : State) : Host.Outcome State Fault Refusal :=
  sprig c (.spRet c) s (fun s =>
    let x := s.ctx (keyOf c)
    match x.stack with
    | [] => s.abortCtx (keyOf c) 3
    | t :: rest => ((s.setCtx (keyOf c) { x with pc := t, stack := rest }).bedEv c 13).readyAfter c 2)

/-! ### Product (R239) -/

/-- Z from 32 bits, N bit 31, C and V 0. -/
def execSpMul (c : CtxId) (rd ra rb : BitVec 4) (signed : Bool) (s : State) : Host.Outcome State Fault Refusal :=
  onCtx c (.spMul c rd ra rb signed) s 2 (fun x =>
    let r : BitVec 32 := if signed then BitVec.ofInt 32 ((x.reg ra).toInt * (x.reg rb).toInt)
                         else BitVec.ofNat 32 ((x.reg ra).toNat * (x.reg rb).toNat)
    { x with z := r == 0, n := r.msb, c := false, v := false }.setPair rd r)

end Sys2Proof.Machine
end

