-- ==== Sys2Proof/Machine/Overhead.lean ====
section
/-! DEFINITION. Overhead access by programs, and the row command items (R237, R238, R241, R256). -/

namespace Sys2Proof.Machine

/-- What an overhead access is aimed at (R238). -/
inductive OhObj where
  | chan (f : Nat)
  | trib (r t : Nat)
deriving DecidableEq, Repr

def tribObj (r t : Nat) : Option OhObj := if r < 12 ∧ t < 80 then some (.trib r t) else none

/-- The object of the bound context, by its CTX_BIND (R202, R238). -/
def State.boundObj (s : State) (c : CtxId) : Option OhObj :=
  match (s.ctx (keyOf c)).bound with
  | none => none
  | some k =>
    let w := (s.rd (bedA c.bed.val (0x1400 + 4 * k))).toNat
    let i := bitsOf w 27 8
    let kind := bitsOf w 3 0
    if kind = 1 ∨ kind = 5 then (if i < 192 then some (.chan i) else none)
    else if kind = 2 then (if i < 192 then some (.chan (192 + i)) else none)
    else if kind = 3 then tribObj (bitsOf i 19 16) (bitsOf i 15 8)
    else none

/-- The object that a word in the layout of W14 names (R238). -/
def namedObj (w : Half) : Option OhObj :=
  let n := w.toNat
  let i := n % 256
  match n / 16384 with
  | 0 => if i < 192 then some (.chan i) else none
  | 1 => if i < 192 then some (.chan (192 + i)) else none
  | 2 => tribObj (bitsOf n 11 8) (bitsOf n 6 0)
  | _ => none

/-- The captured byte of a slot; none where V is set (R56, R238). -/
def State.ohCaptured (s : State) (o : Option OhObj) (slot : Nat) : Option Byte :=
  match o with
  | none => none
  | some (.chan f) => if s.rxSlotOk f slot then some (s.captured f slot) else none
  | some (.trib r t) =>
    if s.mapSlotOk r slot && slotCol slot / 16 == t then some (Tab.get (s.trib r t).captures 0 slot) else none

/-- A byte into a transmit slot; false where V is set (R61, R238). -/
def State.ohPut (s : State) (o : Option OhObj) (slot : Nat) (b : Byte) : Bool × State :=
  match o with
  | none => (false, s)
  | some (.chan f) => s.txWrite f slot b
  | some (.trib r t) => s.tribWrite r t slot b

/-- The context waits about 40 cycles for the byte; flags come with the issue. -/
def State.ohRead (s : State) (c : CtxId) (rd ra : BitVec 4) (o : Option OhObj) : State :=
  let x := s.ctx (keyOf c)
  let v := s.ohCaptured o (x.reg ra).toNat
  let b := v.getD 0
  s.setCtx (keyOf c) { ((x.flagsZN (b.setWidth 16)).flagV v.isNone).next 1 with wait := .overhead b rd.toNat }

def State.ohWrite (s : State) (c : CtxId) (rd ra : BitVec 4) (o : Option OhObj) : State :=
  let x := s.ctx (keyOf c)
  let p := s.ohPut o (x.reg ra).toNat ((x.reg rd).setWidth 8)
  p.2.setCtx (keyOf c) ((x.flagV (!p.1)).next 1)

def execSpOhr (c : CtxId) (rd ra : BitVec 4) (s : State) : Host.Outcome State Fault Refusal :=
  sprig c (.spOhr c rd ra) s (fun s => s.ohRead c rd ra (s.boundObj c))

def execSpOhw (c : CtxId) (rd ra : BitVec 4) (s : State) : Host.Outcome State Fault Refusal :=
  ordered c (.spOhw c rd ra) s (fun s => s.ohWrite c rd ra (s.boundObj c))

def execSpOhrx (c : CtxId) (rd ra : BitVec 4) (s : State) : Host.Outcome State Fault Refusal :=
  sprig c (.spOhrx c rd ra) s (fun s => s.ohRead c rd ra (namedObj ((s.ctx (keyOf c)).reg 14)))

def execSpOhwx (c : CtxId) (rd ra : BitVec 4) (s : State) : Host.Outcome State Fault Refusal :=
  ordered c (.spOhwx c rd ra) s (fun s => s.ohWrite c rd ra (namedObj ((s.ctx (keyOf c)).reg 14)))

/-- OVERHEAD_READ_COMPLETE: rd takes the byte. -/
def execOverheadReadComplete (c : CtxId) (s : State) : Host.Outcome State Fault Refusal :=
  let x := s.ctx (keyOf c)
  done s (match x.wait with
    | .overhead b rd =>
      if s.enginesRun then s.setCtx (keyOf c) ({ x with wait := .none }.setReg (BitVec.ofNat 4 rd) (b.setWidth 16))
      else s
    | _ => s)

/-! ### Row command items (R256) -/

def objRow (o : OhObj) : Nat := match o with | .chan f => rowOfCh f | .trib r _ => r

/-- A rejected item or pair, reported at most once a second (R256, R259). -/
def State.ohReject (s : State) (F kind : Nat) : State :=
  ((s.inc (furA F 0x24)).event (furA F 0x28) 3).raiseLim 1 F (furSrc F) 0x72 false (F + kind * 65536)

/-- The pairs of an item, in order. -/
def State.ohPairs (s : State) (F : Nat) (o : OhObj) : List Half → State
  | slot :: b :: rest =>
    let p := s.ohPut (some o) slot.toNat (b.setWidth 8)
    (if p.1 then p.2 else p.2.ohReject F 8).ohPairs F o rest
  | _ => s

/-- The item at the head of row `r`'s command furrow. -/
def State.ohSet (s : State) (r : Nat) : State :=
  let F := 24 + r
  let f := s.fur F
  match f.items with
  | [] => s
  | it :: rest =>
    let s := (s.setFur F { f with items := rest }).showFur F
    let s := if rest.isEmpty && s.noticed F then s.unnotice F else s
    let kind := it.header.toNat / 4096
    match it.words with
    | w :: ps =>
      match namedObj w with
      | some o =>
        if kind = 8 ∧ objRow o = r ∧ ps.length % 2 = 0 then s.ohPairs F o ps else s.ohReject F kind
      | none => s.ohReject F kind
    | [] => s.ohReject F kind

/-- The command furrow of a row is taken by its transmit side while CORE_CLK runs and the row's MAP, LTX and STX
are out of reset (R27, R256). -/
def execOhSet (r : Fin 12) (s : State) : Host.Outcome State Fault Refusal :=
  done s (if s.coreRuns && !s.inReset (mapA r.val 0) then s.ohSet r.val else s)

end Sys2Proof.Machine
end

