-- ==== Sys2Proof/Machine/SprigMemory.lean ====
section
/-! DEFINITION. Loads and stores of the Sprig instruction set, and the five spaces they reach
(R197 to R201, R210, R228, R239, R240). -/

namespace Sys2Proof.Machine

/-! ### Accesses of one cycle (R242) -/

/-- What a load in this cycle sees of bed word `a`, which holds `v` now: the value before the cycle's stores (R242). -/
def State.seen (s : State) (b a : Nat) (v : Half) : Half :=
  let y := s.cycle b
  if y.upTo = s.now + 1 then (Tab.get y.before none a).getD v else v

/-- A store of this cycle to bed word `a`, which holds `v` (R242). -/
def State.noteStore (s : State) (b a : Nat) (v : Half) : State :=
  let y := s.cycle b
  s.setCycle b { y with before := Tab.set y.before none a (some ((Tab.get y.before none a).getD v)) }

/-- A load from a semaphore is served in this cycle (R242). -/
def State.noteSemLoad (s : State) (b : Nat) : State := s.setCycle b { s.cycle b with semLoad := true }

/-! ### Local scratch and the context window (R228): no flag changes -/

/-- A word of local scratch; one that the handler has not written is undefined (R197). -/
def Ctx.local (x : Ctx) (a : Nat) : Half :=
  match Tab.get x.scratch none a with
  | some v => v
  | none => Config.freeScratch x.epoch a

def execSpLdl (c : CtxId) (rd ra disp : BitVec 4) (s : State) : Host.Outcome State Fault Refusal :=
  sprig c (.spLdl c rd ra disp) s (fun s =>
    let x := s.ctx (keyOf c)
    let a := x.plainAddr ra disp.toNat
    if 1023 < a then s.abortCtx (keyOf c) 4
    else s.setCtx (keyOf c) ((x.setReg rd (x.local a)).next 1))

def execSpStl (c : CtxId) (rd ra disp : BitVec 4) (s : State) : Host.Outcome State Fault Refusal :=
  sprig c (.spStl c rd ra disp) s (fun s =>
    let x := s.ctx (keyOf c)
    let a := x.plainAddr ra disp.toNat
    if 1023 < a then s.abortCtx (keyOf c) 4
    else s.setCtx (keyOf c) ({ x with scratch := Tab.set x.scratch none a (some (x.reg rd)) }.next 1))

def execSpLdc (c : CtxId) (rd ra : BitVec 4) (disp : BitVec 3) (s : State) : Host.Outcome State Fault Refusal :=
  sprig c (.spLdc c rd ra disp) s (fun s =>
    let x := s.ctx (keyOf c)
    let a := x.plainAddr ra disp.toNat
    match x.bound with
    | none => s.abortCtx (keyOf c) 5
    | some k =>
      if 511 < a then s.abortCtx (keyOf c) 5
      else s.setCtx (keyOf c) ((x.setReg rd (s.ctxWord c.bed.val (512 * k + a))).next 1))

def execSpStc (c : CtxId) (rd ra : BitVec 4) (disp : BitVec 3) (s : State) : Host.Outcome State Fault Refusal :=
  sprig c (.spStc c rd ra disp) s (fun s =>
    let x := s.ctx (keyOf c)
    let a := x.plainAddr ra disp.toNat
    match x.bound with
    | none => s.abortCtx (keyOf c) 5
    | some k =>
      if 511 < a then s.abortCtx (keyOf c) 5
      else ((s.noteStore c.bed.val (0x10000 + 512 * k + a) (s.ctxWord c.bed.val (512 * k + a))).setCtxWord c.bed.val k a (x.reg rd)).setCtx (keyOf c) (x.next 1))

/-! ### The bed address space (R198) -/

/-- BAR0 byte address of word `w` of the register window (R198, R201). -/
def winAddr (page : BitVec 14) (w : Nat) : Nat := page.toNat * 4096 + w / 2 * 4

/-- REG_WIN of bed `b` permits the region of 512 KiB that `a` lies in (R221). -/
def State.winPermits (s : State) (b a : Nat) : Bool :=
  s.bit (bedA b (0x120 + a / 0x80000 / 32 * 4)) (a / 0x80000 % 32)

def Bed.timer (y : Bed) (k : Nat) : Timer := Tab.get y.timers Timer.init k

/-- A word of a timer as a load reads it (R210). -/
def Timer.word (t : Timer) (i : Nat) : Half :=
  match i with
  | 0 => t.lo
  | 1 => t.hi
  | 2 => t.word2
  | _ => t.arg

/-- A store to a word of a timer: DEADLINE_LO disarms it, ARG arms it with the values held then
(R210). -/
def Timer.store (t : Timer) (i : Nat) (v : Half) : Timer :=
  match i with
  | 0 => { t with lo := v, armed := none }
  | 1 => { t with hi := v }
  | 2 => { t with word2 := v &&& 0x80FF }
  | _ => { t with arg := v, armed := some (t.hi.toNat * 65536 + t.lo.toNat, t.word2, v) }

/-- The effect of a load from a bed address; the context's PC is past the instruction already. -/
def State.bedLoad (s : State) (c : CtxId) (rd : BitVec 4) (a : Nat) : State :=
  let b := c.bed.val
  let x := s.ctx (keyOf c)
  let give := fun (s : State) (v : Half) => s.setCtx (keyOf c) ((s.ctx (keyOf c)).setReg rd v)
  match bedPlace a with
  | .shared w => give s (s.seen b a (s.sharedWord b w))
  | .context w => give s (s.seen b a (s.ctxWord b w))
  | .program w => give s (s.progWord b w)
  | .usecLo =>
    let u := s.bedUsec b
    s.setCtx (keyOf c) ({ x with usecLatch := BitVec.ofNat 16 (u / 65536) }.setReg rd (BitVec.ofNat 16 u))
  | .usecHi => give s x.usecLatch
  | .ident => give s (BitVec.ofNat 16 (s.lbed b + c.eng.val * 16 + c.ctx.val * 4096))
  | .pageLo => give s (x.page.setWidth 16)
  | .pageHi => give s 0
  | .sem k =>
    let s := s.noteSemLoad b
    let y := s.bed b
    if Tab.get y.sems 0 k = 0 then
      give (s.setBed b { y with sems := Tab.set y.sems 0 k (keyOf c + 1) }) 1
    else give (s.bedEv c 14) 0
  | .timer k i => give s (s.seen b a (((s.bed b).timer k).word i))
  | .window w =>
    if w % 2 = 1 then give s x.winLatch
    else s.setCtx (keyOf c) { x with wait := .winRead (winAddr x.page w) rd.toNat }
  | .unassigned => give s 0

/-- A register-window access that the load or store of address `a` issues, counted: loads of even words and
stores of odd ones (R201, R319). -/
def State.winEv (s : State) (c : CtxId) (a odd : Nat) : State :=
  match bedPlace a with
  | .window w => if w % 2 = odd then s.bedEv c 11 else s
  | _ => s

/-- A load from the register window that REG_WIN refuses (R201, R274). -/
def State.winRefusesLoad (s : State) (c : CtxId) (a : Nat) : Bool :=
  match bedPlace a with
  | .window w => w % 2 == 0 && !s.winPermits c.bed.val (winAddr (s.ctx (keyOf c)).page w)
  | _ => false

def execSpLdb (c : CtxId) (rd ra page : BitVec 4) (disp : BitVec 12) (s : State) :
    Host.Outcome State Fault Refusal :=
  sprig c (.spLdb c rd ra page disp) s (fun s =>
    let x := s.ctx (keyOf c)
    let a := x.bedAddr ra page disp
    let s := s.winEv c a 0
    if s.winRefusesLoad c a then
      (s.accessShape (accessDetail (.program c.bed) (winAddr x.page (a - 0x40000)))).abortCtx (keyOf c) 8
    else (s.setCtx (keyOf c) (x.next 2)).bedLoad c rd a)

/-- A store to a bed address; the context's PC still names the store, as a fault reports it. -/
def State.bedStore (s : State) (c : CtxId) (v : Half) (a : Nat) : State :=
  let b := c.bed.val
  let x := s.ctx (keyOf c)
  let fin := fun (s : State) => s.setCtx (keyOf c) ((s.ctx (keyOf c)).next 2)
  match bedPlace a with
  | .shared w => fin ((s.noteStore b a (s.sharedWord b w)).setHalf (bedA b 0x60000) w v)
  | .pageLo => fin (s.setCtx (keyOf c) { x with page := v.setWidth 14 })
  | .pageHi => fin s
  | .sem k =>
    let y := s.bed b
    fin (s.setBed b { y with sems := Tab.set y.sems 0 k 0 })
  | .timer k i =>
    let s := (s.noteStore b a (((s.bed b).timer k).word i)).timerFire b k
    let y := s.bed b
    fin (s.setBed b { y with timers := Tab.set y.timers Timer.init k ((y.timer k).store i v) })
  | .window w =>
    let ra := winAddr x.page w
    if w % 2 = 0 then fin (s.setCtx (keyOf c) { x with winBuf := v })
    else if !s.winPermits b ra then
      (s.accessShape (accessDetail (.program c.bed) ra)).abortCtx (keyOf c) 8
    else if guarded ra then (s.lockedWrite (.program c.bed) ra).abortCtx (keyOf c) 8
    else fin (s.setCtx (keyOf c) { x with winWrites := x.winWrites ++ [(ra, v ++ x.winBuf)] })
  | _ => s.abortCtx (keyOf c) 7

def execSpStb (c : CtxId) (rd ra page : BitVec 4) (disp : BitVec 12) (s : State) :
    Host.Outcome State Fault Refusal :=
  sprig c (.spStb c rd ra page disp) s (fun s =>
    let x := s.ctx (keyOf c)
    (s.winEv c (x.bedAddr ra page disp) 1).bedStore c (x.reg rd) (x.bedAddr ra page disp))

/-! ### Far memory (R197, R240) -/

/-- The context waits at the load for FAR_ACCESS_COMPLETE. -/
def execSpLdf (c : CtxId) (rd ra : BitVec 4) (disp : Half) (s : State) : Host.Outcome State Fault Refusal :=
  sprig c (.spLdf c rd ra disp) s (fun s =>
    let s := s.bedEv c 10
    let x := s.ctx (keyOf c)
    s.setCtx (keyOf c) { x with wait := .far (x.farAddr ra disp) rd.toNat })

/-- A store outside the far window, or with QDR stopped, is a handler fault with cause 6; a partial
write of an uncorrectable codeword is discarded (R197, R376). -/
def execSpStf (c : CtxId) (rd ra : BitVec 4) (disp : Half) (s : State) : Host.Outcome State Fault Refusal :=
  ordered c (.spStf c rd ra disp) s (fun s =>
    let b := c.bed.val
    let s := s.bedEv c 10
    let x := s.ctx (keyOf c)
    let a := x.farAddr ra disp
    if s.fld (bedA b 0x118) 25 0 ≤ a ∧ a ≤ s.fld (bedA b 0x11C) 25 0 ∧ s.qdrUp then
      (s.cwWrite 0 (2 * a) (halfBytes (x.reg rd))).setCtx (keyOf c) (x.next 2)
    else s.abortCtx (keyOf c) 6)

/-- A far load returns its word, or is a handler fault on an uncorrectable word or a stopped QDR
(R197, R376). -/
def execFarAccessComplete (c : CtxId) (s : State) : Host.Outcome State Fault Refusal :=
  let k := keyOf c
  let x := s.ctx k
  done s (match x.wait with
    | .far a rd =>
      if !s.enginesRun then s
      else if s.qdrUp then
        let bad := s.cwBad (codewordOf (2 * a))
        let t := s.cwRead (codewordOf (2 * a)) 0
        if bad then t.abortCtx k 6
        else t.setCtx k (({ x with wait := .none }.setReg (BitVec.ofNat 4 rd) (s.farWord a)).next 2)
      else s.abortCtx k 6
    | _ => s)

end Sys2Proof.Machine
end

