-- ==== Sys2Proof/Machine/Reads.lean ====
section
/-! DEFINITION. Reads of registers: values that follow time, paired counters, BAR2, the I2C port, and the
completion of a program's read (R201, R265, R267, R268, R321, R327, R410). -/

namespace Sys2Proof.Machine

/-! ### What a register reads -/

def ceilDiv (a b : Nat) : Nat := (a + b - 1) / b

/-- TOP: complements of the KC registers, and the levels at the GPIO balls (R272, R414). -/
def State.liveTop (s : State) (o : Nat) : Option Word :=
  if o = 0x304 ∨ o = 0x314 ∨ o = 0x364 then some (~~~ s.rd (topA (o - 4)))
  else if o = 0x358 then some (BitVec.ofNat 32 s.gpioIn)
  else none

/-- A dial: HIST_S, BUILDOUT, and the entries as a LOSS that outlasts HOLDOFF_MS makes them (R143, R147, R171). -/
def State.liveDial (s : State) (n o a : Nat) : Option Word :=
  if o = 0x14 then some (BitVec.ofNat 32 (s.histS n))
  else if o = 0x94 then some (BitVec.ofNat 32 (unsignedOf 64 (s.buildoutNow n).1))
  else if o = 0x98 then some (BitVec.ofNat 32 (unsignedOf 64 (s.buildoutNow n).1 / 2 ^ 32))
  else if 0x40 ≤ o ∧ o < 0x80 then some ((s.showEntries n).rd a)
  else none

/-- SDL: the rest of the window in ms, what a dial shows, and the nominal rate that a tap computes (R134, R147, R150). -/
def State.liveSdl (s : State) (a : Nat) : Option Word :=
  if a = sdlA 0x108 ∧ s.sundialRuns then
    some (BitVec.ofNat 32 (putBits (s.nat a) 9 0 (min 999 ((s.winStart + secNs - s.sdlNow) / msNs))))
  else if refA 64 0 ≤ a ∧ a < refA 80 0 then
    let r := (a - refA 0 0) / 0x80
    match (a - refA 0 0) % 0x80, s.refRate r with
    | 4, some (n, d) => some (BitVec.ofNat 32 ((2 * n + d) / (2 * d)))
    | 4, none => some 0
    | 8, _ => some 1
    | _, _ => none
  else if dialA 0 0 ≤ a ∧ a < dialA 16 0 then s.liveDial ((a - dialA 0 0) / 0x200) ((a - dialA 0 0) % 0x200) a
  else none

/-- Microseconds since bed `b` last started; 0 of a bed that never did (R198). -/
def State.usecRead (s : State) (b : Nat) : Nat := if (s.bed b).startedAt = 0 then 0 else s.bedUsec b

/-- Fields of a receive framer that read zero because its format is of another family: AU_MODE, the AU maps, B3_ERR and
L_B3 outside SDH, REI_B and L_REI_B outside OTN; a disabled framer keeps what it had (R76, R80). -/
def State.rxReads (s : State) (f o : Nat) : Option Word :=
  let fam := famOf (s.rxFmt f)
  let sdh := decide ((0x210 ≤ o ∧ o < 0x238) ∨ (0x300 ≤ o ∧ o < 0x400) ∨ (0x600 ≤ o ∧ o < 0x700))
  let otn := o == 0x294 || o == 0x51C
  if fam != 0 && ((sdh && fam != 1) || (otn && fam != 2)) then some 0 else none

/-- The registers of `liveRead` that lie in other blocks. -/
def State.liveOther (s : State) (blk : Blk) (inst o a : Nat) : Option Word :=
  match blk with
  | .cur =>
    if o = 0x100 then some (s.nmiSettle.rd a)
    else if 0x8000 ≤ o ∧ o % 0x20 = 0x0C then
      let src := (o - 0x8000) / 0x20
      some (BitVec.ofNat 32 (putBits (putBits (s.nat a) 19 18 (min 3 (s.recentResets src))) 16 16 (s.shadowed src).toNat))
    else none
  | .lrx => s.rxReads inst o
  | .srx => s.rxReads (192 + inst) o
  | .rts =>
    if o = 0x11C then
      some (BitVec.ofNat 32 (match s.rts.windowEnds with | some t => ceilDiv (t - s.now) secNs | none => 0))
    else none
  | .bed =>
    if o = 0x130 then some (BitVec.ofNat 32 (s.usecRead inst))
    else if o = 0x134 then some (BitVec.ofNat 32 (s.usecRead inst / 2 ^ 32))
    else none
  | _ => none

/-- What a read of the register at `a` finds: the stored word, or the value that follows time. -/
def State.liveRead (s : State) (a : Nat) : Word :=
  match blockOf a with
  | none => 0
  | some (blk, inst, base) =>
    ((match blk with
      | .top => s.liveTop (a - base)
      | .sdl => s.liveSdl a
      | _ => s.liveOther blk inst (a - base) a)).getD (s.rd a)

/-- Low words of the paired counters: Inventory's counts and shadows, BED_USEC, the FEC counts (R52, R198,
R265, R321). -/
def pairedLow (a : Nat) : Bool :=
  match blockOf a with
  | none => false
  | some (blk, _, base) =>
    let o := a - base
    match blk with
    | .inv => decide (0x2000 ≤ o ∧ o < 0x4B00) && (o % 0x20 == 8 || o % 0x20 == 0x10)
    | .bed => o == 0x130
    | .lrx => o == 0x178 || o == 0x180 || o == 0x188
    | .srx => o == 0x178 || o == 0x180 || o == 0x188
    | _ => false

/-- A read of the register at `a`: the low word of a pair latches its high word, which reads the latched
value (R265). -/
def State.readReg (s : State) (a : Nat) : Word × State :=
  if pairedLow a then
    (s.liveRead a, s.setTop { s.top with latch := Tab.set s.top.latch 0 (a + 4) (s.liveRead (a + 4)) })
  else if 4 ≤ a && pairedLow (a - 4) then (Tab.get s.top.latch 0 a, s)
  else (s.liveRead a, s)

/-- The bytes of the `n` words from offset `o`, lower first, each in the register that `reg` names; a word that shows
no register is 0. -/
def State.wordBytes (s : State) (reg : Nat → Option Nat) (o : Nat) : Nat → List Byte × State
  | 0 => ([], s)
  | n + 1 =>
    let (v, s) := match reg o with | some a => s.readReg a | none => (0, s)
    let (bs, s) := s.wordBytes reg (o + 4) n
    (leBytes v.toNat ++ bs, s)

/-- A read of `len` bytes from offset `off` answers the addressed bytes (R265). -/
def State.answerRead (s : State) (reg : Nat → Option Nat) (off len : Nat) : State :=
  let lo := off / 4 * 4
  let (bs, s) := s.wordBytes reg lo ((off + len - 1) / 4 - off / 4 + 1)
  s.emit (.readData ((bs.drop (off - lo)).take len))

/-! ### BAR0 reads of the host -/

/-- A read of 1 to 8 bytes within an aligned unit of 8; of a block in reset it reads zero and is reported (R265,
R267). -/
def State.hostRead (s : State) (a len : Nat) : State :=
  let s := s.tallyHif 2 1
  if !readShapeOk a len then s.badShapeRead a
  else if s.inReset a then (s.emit (.readData (List.replicate len 0))).accessTimeout .host a
  else s.answerRead some a len

def execPairedCounterRead (addr : BitVec 26) (len : Nat) (s : State) : Host.Outcome State Fault Refusal :=
  done s (if s.hostReaches then s.hostRead addr.toNat len else s)

/-! ### BAR2 (R268, R327) -/

/-- The BAR0 register that a word of BAR2 shows. -/
def bar2Reg (o : Nat) : Option Nat :=
  if o < 0xAC0 then some (cntA (o / 8) (8 + o % 8))
  else if 0x1000 ≤ o ∧ o < 0x1AC0 then some (cntA ((o - 0x1000) / 8) (0x10 + o % 8))
  else if 0x2000 ≤ o ∧ o < 0x2010 then some (invA (0x10C + (o - 0x2000)))
  else if o = 0x2010 then some (invA 0x104)
  else if 0x3000 ≤ o ∧ o < 0x3560 then some (cntA ((o - 0x3000) / 4) 0)
  else if 0x8000 ≤ o ∧ o < 0x10000 then some (invA (0x6000 + (o - 0x8000)))
  else none

def State.bar2Read (s : State) (off len : Nat) : State :=
  let s := s.tallyHif 4 1
  if !readShapeOk off len then s.badShapeRead (barDetail off)
  else if !s.bit (topA 0x360) 0 then s.emit (.readData (List.replicate len 0))
  else if s.inReset (invA 0) then (s.emit (.readData (List.replicate len 0))).hifReport 0x81 (barDetail off)
  else s.answerRead bar2Reg off len

def execBar2Read (off : BitVec 20) (len : Nat) (s : State) : Host.Outcome State Fault Refusal :=
  done s (if s.hostReaches then s.bar2Read off.toNat len else s)

/-! ### The I2C port (R410) -/

def State.i2cRead (s : State) : State :=
  let p := s.top.i2cPtr
  (s.emit (.i2c (leBytes (s.liveRead (topA (4 * p))).toNat))).setTop { s.top with i2cPtr := (p + 1) % 256 }

def execI2cRead (s : State) : Host.Outcome State Fault Refusal := done s (if s.topRuns then s.i2cRead else s)

/-! ### Accesses that are refused (R265 to R268) -/

/-- A host access of a shape that its BAR accepts; BAR2 takes no write. -/
def shapeOk (bar : Nat) (read : Bool) (off len : Nat) (partialBe : Bool) : Bool :=
  if read then readShapeOk off len
  else match bar with
    | 0 => !partialBe && (len == 4 || len == 8) && off % len == 0
    | 1 => false
    | _ => !partialBe && bar4WriteShapeOk off len

/-- A refused write in the TOP region breaks a pending complement pair (R272). -/
def State.breakPair (s : State) (a : Nat) : State :=
  if decide (a < 0x10000) && s.top.kc.isSome then (s.setTop { s.top with kc := none }).hifReport 0x84 a else s

def State.badShape (s : State) (bar : Nat) (read : Bool) (off : Nat) : State :=
  let s := match bar with | 0 => s.tallyHif (if read then 2 else 3) 1 | 1 => if read then s.tallyHif 4 1 else s | _ => s.tallyHif 5 1
  let d := if bar = 0 then off else barDetail off
  if read then s.badShapeRead d
  else
    let s := s.accessShape d
    if bar = 0 then s.breakPair off else s

def execAccessShape (bar : Fin 3) (read : Bool) (off : BitVec 26) (len : Nat) (partialBe : Bool) (s : State) :
    Host.Outcome State Fault Refusal :=
  done s (if s.hostReaches && !shapeOk bar.val read off.toNat len partialBe then s.badShape bar.val read off.toNat else s)

/-- ACCESS_TIMEOUT: an access, by the host or by a program, to a block held in reset (R267, R274). -/
def State.timedOut (s : State) (o : Origin) (read : Bool) (a : Nat) : State :=
  match o with
  | .host =>
    let s := s.tallyHif (if read then 2 else 3) 1
    (if read then s.emit (.readData (List.replicate 4 0)) else s).accessTimeout o a
  | .program _ => s.accessTimeout o a

def execAccessTimeout (o : Origin) (read : Bool) (addr : BitVec 26) (s : State) : Host.Outcome State Fault Refusal :=
  let reach := match o with | .host => s.hostReaches | .program _ => s.enginesRun
  done s (if reach && s.inReset addr.toNat then s.timedOut o read addr.toNat else s)

end Sys2Proof.Machine
end

