-- ==== Sys2Proof/Machine/TwinDial.lean ====
section
/-! DEFINITION. Dial exchange over the twin link, its feeds, and the window boundary of Sundial with them
(R142, R361, R362). -/

namespace Sys2Proof.Machine

def exchA (n : Nat) : Nat := twnA (0x200 + 4 * n)

/-- A frame edge now on the time of a dial, at the lane 0 ball: TWN_ADJ_PS added, the crossing subtracted on
receive and added on transmit (R178, R361). -/
def State.twinStamp (s : State) (n : Nat) (rx : Bool) : Nat :=
  let cross : Int := (Config.fuse (twnA 0x144)).toNat
  let adj := s.int (twnA 0x144) + (if rx then -cross else cross)
  (((s.dialSub n : Nat) : Int) + psSub adj).toNat

/-- The words of one dial's part (R361; word order: assumption 19). -/
def dialPartWords (n st ref : Nat) (step : Bool) (dep arr : Nat) : List Word :=
  [BitVec.ofNat 32 (n + st * 2 ^ 8 + ref * 2 ^ 16 + step.toNat * 2 ^ 24),
   BitVec.ofNat 32 (dep / 2 ^ 16), BitVec.ofNat 32 (dep % 2 ^ 16 * 2 ^ 16 + arr / 2 ^ 32), BitVec.ofNat 32 arr]

def State.dialWords (s : State) (n : Nat) : List Word :=
  let t := s.twn
  let dep := match Tab.get t.dialDep [] n with | e :: _ => shortTime e.2 | [] => 0
  dialPartWords n (s.dialState n) (s.selRef n) (t.stepFlag.contains n) dep (shortTime (Tab.get t.dialArr (0, 0) n).2)

/-- Body of a DIAL frame (R361). -/
def dialBody (echo : Half) (parts : List DialPart) : List Word :=
  echo.setWidth 32 :: parts.flatMap (fun p =>
    dialPartWords p.dial.val p.state.toNat p.selRef.toNat p.step p.dep.toNat p.arr.toNat)

/-- A DIAL frame goes out, and its departure is kept on every dial that it names (R361). -/
def State.dialSend (s : State) : State :=
  let ns := (List.range 16).filter (fun n => s.bit (exchA n) 0)
  let q := s.twn.unrelTx
  let echo := ns.foldl (fun _ n => (Tab.get s.twn.dialArr (0, 0) n).1) 0
  let body := BitVec.ofNat 32 echo :: ns.flatMap (fun n => s.dialWords n)
  let deps := ns.foldl (fun t n => Tab.set t [] n (((q, s.twinStamp n false) :: Tab.get t [] n).take 16)) s.twn.dialDep
  let s := s.setTwn { s.twn with dialDep := deps, stepSent := s.twn.stepFlag, stepFlag := [], dialSentAt := some s.now }
  s.twnUnrel 2 body

def execDialSend (s : State) : Host.Outcome State Fault Refusal :=
  done s (if s.twnRuns && s.linkState == 2 && s.everyMs s.twn.dialSentAt then s.dialSend else s)

/-- One dial of a received DIAL frame: offset and delay, where it can be used (R189, R361). -/
def State.dialPart (s : State) (echo : Nat) (p : DialPart) : State :=
  let n := p.dial.val
  let t := s.twn
  let s := s.setTwn { t with mateDial := Tab.set t.mateDial 0 n (p.state.toNat + 1) }
  let stepped := p.step || t.stepFlag.contains n || t.stepSent.contains n
  match (Tab.get t.dialDep [] n).find? (fun e => e.1 == echo) with
  | none => s
  | some (_, t1) =>
    let t4 := (Tab.get t.dialArr (0, 0) n).2
    let sec := s.dialNs n / secNs
    let t2 := fullTime p.arr.toNat sec
    let t3 := fullTime p.dep.toNat sec
    let one : Int := (secNs * 65536 : Nat)
    if !s.bit (exchA n) 0 || stepped || t.dialGap then s
    else if one < |t2 - t1| ∨ one < |t3 - t4| then
      (s.inc (twnA 0x130)).raiseLim 1 0 800 0xC4 false n
    else
      let theta := ((t2 - t1) - (t4 - t3)) / 2 - psSub (s.int (twnA 0x140))
      let d := ((t2 - t1) + (t4 - t3)) / 2
      let x := s.twn
      s.setTwn { x with theta := Tab.set x.theta [] n (theta :: Tab.get x.theta [] n), delays := d :: x.delays,
                        obs := Tab.set x.obs (0, 0) n (t3, t.dialAt) }

/-- A DIAL frame that is accepted (R361). -/
def State.dialTake (s : State) (q echo : Nat) (parts : List DialPart) : State :=
  let s := s.setTwn { s.twn with mateDial := [] }
  let s := parts.foldl (fun s p => s.dialPart echo p) s
  let arr := (List.range 16).foldl (fun t n => Tab.set t (0, 0) n (q, s.twinStamp n true)) s.twn.dialArr
  s.setTwn { s.twn with dialArr := arr, dialAt := s.sdlNow, dialGap := false }

def execDial (h : TwinHdr) (echo : Half) (parts : List DialPart) (s : State) : Host.Outcome State Fault Refusal :=
  done s (if s.twnRuns && s.linkState == 2 then
    match (s.twnArrive h (dialBody echo parts)).twnCount h (some 0x12C) with
    | (true, s) => s.dialTake h.seq.toNat echo.toNat parts
    | (false, s) => s
    else s)

/-! ### Window boundaries (R361, R362) -/

/-- The feed of dial `n` runs (R362). -/
def State.feedRuns (s : State) (n : Nat) : Bool :=
  s.boardRole == 2 && s.bit (exchA n) 4 && s.linkState == 2 &&
    (Tab.get s.twn.mateDial 0 n == 3 || Tab.get s.twn.mateDial 0 n == 4)

/-- Frequency of the mate's dial against OSC_IN over the window, in 1/256 ppb (R362). -/
def State.mateFreq (s : State) (n : Nat) : Int :=
  let (d1, a1) := Tab.get s.twn.obs (0, 0) n
  let (d0, a0) := Tab.get s.twn.obsPrev (0, 0) n
  if a1 ≤ a0 then (s.dial n).y
  else
    let el : Int := ((a1 - a0) * 65536 : Nat)
    divNear ((d1 - d0 - el) * (256 * secNs : Nat)) ((a1 - a0) * 65536)

/-- The update of one window for the reference that dial `n` feeds: `theta` is the window's mean offset. -/
def State.feedUpdate (s : State) (n : Nat) (theta : Int) : State :=
  let r := 80 + s.fld (exchA n) 9 8
  let f := s.mateFreq n
  let first := !s.twn.fed.contains n
  let predicted := Tab.get s.twn.thetaPrev 0 n + (f - (s.dial n).y) * 65536 / 256
  let adj := if first then 0 else theta - predicted
  let freq := f - s.oscModel
  let s := (s.wrI (refA r 0x40) freq).wrI (refA r 0x44) adj
  let mate := ((s.dialSub n : Nat) : Int) + theta
  let rem := (-mate) % (secNs * 65536 : Nat)
  let s := if first then
      let x := s.ref r
      s.setRef r { x with swNext := some (s.sdlNow * 65536 + rem.toNat * swPeriod x.swApplied / secSub), lastEdge := none }
    else s
  let s := s.setTwn { s.twn with fed := if first then n :: s.twn.fed else s.twn.fed }
  (s.setBit (exchA n) 12 true).swAccept r freq adj

/-- What a window boundary does to one dial of the link. -/
def State.twinDialWindow (s : State) (n : Nat) : State :=
  let l := Tab.get s.twn.theta [] n
  let s := if !s.feedRuns n then
      (s.setBit (exchA n) 12 false).setTwn { s.twn with fed := s.twn.fed.filter (· ≠ n) }
    else s
  if l = [] then s
  else
    let mean := divNear l.sum l.length
    let s := s.wrI (twnA (0x280 + 4 * n)) (divNear mean 256)
    let s := if s.feedRuns n then s.feedUpdate n mean else s
    let t := s.twn
    s.setTwn { t with thetaPrev := Tab.set t.thetaPrev 0 n mean, theta := Tab.set t.theta [] n [],
                      obsPrev := Tab.set t.obsPrev (0, 0) n (Tab.get t.obs (0, 0) n) }

/-- MATE_OFFSET, LINK_DELAY and the feeds at a window boundary. -/
def State.twinWindow (s : State) : State :=
  if !s.twnRuns then s
  else
    let l := s.twn.delays
    let s := if l = [] then s else s.wrI (twnA 0x148) (divNear (l.sum * 1000) (l.length * 65536))
    (List.range 16).foldl (fun s n => s.twinDialWindow n) (s.setTwn { s.twn with delays := [] })

/-- FEED_EN, FEED_SWREF and EXCH_EN written: a reference that another dial feeds is refused (R362). -/
def State.exchWrite (s : State) (n : Nat) (v : Word) : State :=
  let k := bitsOf v.toNat 9 8
  let clash := v.getLsbD 4 && (List.range 16).any (fun m => m != n && s.bit (exchA m) 4 && s.fld (exchA m) 9 8 == k)
  if clash then s.raise 800 0x0B false (exchA n) else s.store (exchA n) v false

/-- MEASUREMENT_WINDOW_END: the order of R142. -/
def State.exchWindowEnd (s : State) : State :=
  let s := (s.inc (sdlA 0x104)).tally 336 4 4 1 none
  let s := s.setWinStart (s.winStart + secNs)
  let s := (List.range 84).foldl (fun s r => s.refWindow r) s
  let touched := (List.range 16).filter (fun n =>
    s.policyPending.any (fun a => decide (dialA n 0 ≤ a ∧ a < dialA (n + 1) 0)))
  let usable := (List.range 16).filter (fun n => s.selUsable n (s.bit (dialA n 0x10) 6))
  let s := s.policyEffect
  let s := [80, 81, 82, 83].foldl (fun s r => s.swApply r) s.twinWindow
  let s := (List.range 16).foldl (fun s n => (s.restoreStep n).checkEntries n) s
  (List.range 16).foldl (fun s n =>
    if (s.dial n).restartDue then (s.restartDial n).showEntries n
    else
      let byPolicy := usable.contains n && !s.selUsable n (s.bit (dialA n 0x10) 6)
      (s.selectDial n { atB := true, policy := touched.contains n, byPolicy := byPolicy, after := false }).showDial n) s

def execMeasurementWindowEnd (s : State) : Host.Outcome State Fault Refusal :=
  done s (if s.sundialRuns && decide (s.winStart + secNs ≤ s.sdlNow) then s.exchWindowEnd else s)

end Sys2Proof.Machine
end

