-- ==== Sys2Proof/Machine/TxCommands.lean ====
section
/-! DEFINITION. Commands of the transmit framers: frames and loop timing (R28, R74, R124, R177). -/

namespace Sys2Proof.Machine

/-- TRANSMIT_FRAME: no frame is sent on a disabled framer, and an OTL4.4 link sends on its lead lane (R31, R46). -/
def execTransmitFrame (f : Chan) (x : TxIn) (s : State) : Host.Outcome State Fault Refusal :=
  let f := f.val
  done s (if s.txRuns f && s.txFmt f != 0 && (s.txFmt f != 6 || f % 4 == 0) then s.transmit f x else s)

/-- LOOP_TIMING_HOLD_EXPIRY: the receive lane has been free of LOS for 10 ms (R28). -/
def execLoopTimingHoldExpiry (f : Chan) (s : State) : Host.Outcome State Fault Refusal :=
  let f := f.val
  let x := s.tx f
  done s (if s.txRuns f && x.onDial0 && !s.rawBit f 0 && decide (x.losFreeSince + 10 * msNs ≤ s.now) then
      s.setTx f { x with backDue := true }
    else s)

/-- LOOP_TIMING: the move at a frame edge (R28). -/
def execLoopTiming (f : Chan) (s : State) : Host.Outcome State Fault Refusal :=
  done s (if s.txRuns f.val then s.loopMove f.val else s)

end Sys2Proof.Machine
end

