-- ==== Sys2Proof/Machine/Router.lean ====
section
/-! DEFINITION. Writes of registers, from the host or from a program: what each register of BAR0 does when it is
written (R201, R266 to R274), and the commands that are such writes. -/

namespace Sys2Proof.Machine

/-! ### Plain stores -/

/-- A write of a register's fields: programs also write the fields that the standard image keeps (R106, R194). -/
def writeFieldsOf (prog armed : Bool) (v : Nat) : List FieldRow → Nat → Nat
  | [], old => old
  | r :: rest, old =>
    writeFieldsOf prog armed v rest
      (if r.ty.stores armed || (prog && r.ty == .img) then putBits old r.hi r.lo (r.brought (bitsOf v r.hi r.lo))
       else old)

def fromProgram : Origin → Bool
  | .host => false
  | .program _ => true

def holdsK (a : Nat) : Bool := (fieldsAt a).any (fun r => r.ty == .k)

/-- The fields of the register at `a` take the written value, K fields only with the arm (R269, R271). -/
def State.plainWrite (s : State) (o : Origin) (a : Nat) (v : Word) : State :=
  let (ok, s) := if holdsK a then s.kGate o a else (false, s)
  s.wrN a (writeFieldsOf (fromProgram o) ok v.toNat (fieldsAt a) (s.nat a))

/-- KEY (R271). -/
def State.keyWrite (s : State) (a : Nat) (v : Word) : State :=
  if v = 0x5EED then s.setArm (a - 0xFC) true else (s.setArm (a - 0xFC) false).hifReport 0x83 a

/-- Applies `f` where bit `n` of the written word is 1: a WT field of one bit (R269). -/
def State.onBit (s : State) (v : Word) (n : Nat) (f : State → State) : State := if v.getLsbD n then f s else s

/-! ### Registers that act, by block -/

def State.hifWrite (s : State) (o : Origin) (a off : Nat) (v : Word) : State :=
  if 0x1000 ≤ off ∧ off < 0x5000 ∧ off % 0x1000 = 0 then s.reqData ((off - 0x1000) / 0x1000) v
  else if 0x1000 ≤ off ∧ off < 0x5000 ∧ off % 0x1000 = 4 then
    let k := (off - 0x1000) / 0x1000
    ((s.onBit v 0 (fun s => s.mbAbort k)).onBit v 1 (fun s => s.rspEmpty k)).onBit v 2 (fun s => s.mbForget k)
  else if 0x204 ≤ off ∧ off < 0x210 ∧ off % 4 = 0 then (s.plainWrite o a v).moveUnowned (36 + (off - 0x200) / 4)
  else s.plainWrite o a v

def State.curWrite (s : State) (o : Origin) (a off : Nat) (v : Word) : State :=
  if off = 0x10C then s.logRdWrite v
  else if off = 0x118 then s.onBit v 0 State.aliveStart
  else if off = 0x120 then s.aliveResumeWrite o v
  else if off = 0x124 then s.onBit v 0 State.nmiAckWrite
  else if 0x8000 ≤ off ∧ off % 0x20 = 4 then s.srcResetWrite o ((off - 0x8000) / 0x20) v
  else if 0x8000 ≤ off ∧ off % 0x20 = 8 then s.srcForceWrite ((off - 0x8000) / 0x20) v
  else s.plainWrite o a v

def State.invWrite (s : State) (o : Origin) (a off : Nat) (v : Word) : State :=
  if off = 0x100 then s.invCtrlWrite v
  else if 0x2000 ≤ off ∧ off < 0x4B00 ∧ off % 0x20 = 0 then s.cntCfgWrite ((off - 0x2000) / 0x20) v
  else if 0x2000 ≤ off ∧ off < 0x4B00 ∧ off % 0x20 = 8 then s.cntCtrlWrite ((off - 0x2000) / 0x20) v
  else if 0x6000 ≤ off ∧ off < 0xE000 ∧ off % 0x800 = 8 then s.sampleRdWrite ((off - 0x6000) / 0x800) false v
  else if 0x6000 ≤ off ∧ off < 0xE000 ∧ off % 0x800 = 0x10 then s.sampleRdWrite ((off - 0x6000) / 0x800) true v
  else s.plainWrite o a v

def State.rtsWrite (s : State) (o : Origin) (a off : Nat) (v : Word) : State :=
  if off = 0x114 then s.confirm v.toNat
  else if off = 0x120 then (s.plainWrite o a v).settingsWritten
  else if off = 0x124 then s.onBit v 0 State.settingsCommit
  else s.plainWrite o a v

/-- A check unit's settings are refused while its job runs, and those of a fixed-duty unit ignore writes (R312, R314). -/
def State.chkWrite (s : State) (o : Origin) (a off : Nat) (v : Word) : State :=
  let u := (off - 0x1000) / 0x100
  let p := off % 0x100
  if off < 0x1000 then s.plainWrite o a v
  else if !hostUnit u then s
  else if p = 0x18 then (s.onBit v 1 (fun s => s.jobAbort u)).onBit v 0 (fun s => s.jobGo u)
  else if p < 0x18 ∧ s.jobBusy u then s.chkInvalid u a
  else s.plainWrite o a v

/-- SW_FREQ, SW_PHASE_ADJ and SW_UPDATE of software reference 80 + `k` (R135, R362). -/
def State.swWrite (s : State) (o : Origin) (k a : Nat) (v : Word) : State :=
  if a = refA (80 + k) 0x48 then s.onBit v 0 (fun s => s.swUpdateWrite o k)
  else if s.swFed k then s.lockedWrite o a
  else s.plainWrite o a v

/-- TIME_CTRL of dial `n` (R174, R175). -/
def State.timeCtrlWrite (s : State) (n : Nat) (v : Word) : State :=
  ((s.onBit v 0 (fun s => s.captureDial n)).onBit v 1 (fun s => s.timeSetArm n)).onBit v 2 (fun s => s.timeAdjArm n)

def State.sdlWrite (s : State) (o : Origin) (a : Nat) (v : Word) : State :=
  if a = sdlA 0x120 then s.onBit v 0 State.captureAll
  else if refA 80 0 ≤ a ∧ a < refA 84 0 ∧ 0x40 ≤ a % 0x80 ∧ a % 0x80 ≤ 0x48 then s.swWrite o ((a - refA 80 0) / 0x80) a v
  else if dialA 0 0 ≤ a ∧ a < dialA 16 0 ∧ (a - dialA 0 0) % 0x200 = 0xC0 then s.timeCtrlWrite ((a - dialA 0 0) / 0x200) v
  else
    let s := if sdlPolicy a then s.polWrite a v else s.plainWrite o a v
    let s := if a = sdlA 0x124 then s.moveUnowned 36 else s
    if dialA 0 0 ≤ a ∧ a < dialA 16 0 ∧ (a - dialA 0 0) % 0x200 = 0 then
      s.onBit v 16 (fun s => s.restartAsk ((a - dialA 0 0) / 0x200))
    else s

def State.sveWrite (s : State) (o : Origin) (a off : Nat) (v : Word) : State :=
  let i := (off - 0x10000) / 0x1000
  let p := off % 0x1000
  if off < 0x10000 then s.plainWrite o a v
  else if p = 4 then s.onBit v 0 (fun s => s.sveSwap i)
  else if 0x100 ≤ p ∧ p < 0x300 then
    if (fieldsAt a).any (fun r => r.ty == .rw) then s.bankWrite i ((p - 0x100) / 0x100) a v else s
  else s.plainWrite o a v

/-- AU_MODE of the 16 AU-4s of word `w` has changed: slots are judged anew, and an AU-4 that is no longer interpreted on
its own has no defects; these are reported cleared (R55, R66; assumption 82). -/
def State.auModeMoved (s : State) (f w : Nat) : State :=
  let x := s.framer f
  let s := s.setFramer f { x with oh := { x.oh with reported := [] } }
  s.withDefects f (fun s =>
    ((List.range 16).map (· + 16 * w)).foldl (fun s k =>
      if s.auMode f k = 1 ∨ s.auMode f k = 2 then s
      else (((s.setMap64 (rxA f 0x210) k false).setMap64 (rxA f 0x218) k false).setMap64 (rxA f 0x220) k false).setFramer f
        ((s.framer f).setPtrRun k { ais := 0, inv := 0, ndf := 0, norm := 0, val := 0 })) s)

/-- A written threshold may disable a half of a detector, which ends the defect that it declared (R70). -/
def degMoved (on : Nat → Bool) (t : Tab Deg) : Tab Deg := t.filter (fun e => on e.1)

def State.rxDegMoved (s : State) (f : Nat) : State :=
  let x := s.framer f
  (s.setFramer f { x with deg := degMoved (fun k => s.degOn (State.degA f (k / 2) + 0xC * (k % 2))) x.deg }).rxShowDeg f

def State.tribDegMoved (s : State) (r t : Nat) : State :=
  let x := s.trib r t
  (s.setTrib r t { x with deg := degMoved (fun k => s.degOn (tribA r t (0x40 + 0xC * (k % 2)))) x.deg }).tribShowDeg r t

/-- The extraction entries of framer `f` are watched while OH_SEL and AU_MODE are written (R55, R57). -/
def State.rxWrite (s : State) (o : Origin) (f a off : Nat) (v : Word) : State :=
  if off = 0x100 then s.rxFormatWrite f (bitsOf v.toNat 3 0)
  else if off = 0x104 then (s.plainWrite o a v).onBit v 0 (fun s => s.rehunt f)
  else if off = 0x238 then s.pdefRx f (bitsOf v.toNat 7 0)
  else if 0x400 ≤ off ∧ off < 0x480 then
    let s := s.plainWrite o a v
    let x := s.framer f
    s.setFramer f { x with oh := x.oh.written ((off - 0x400) / 4) }
  else if 0x228 ≤ off ∧ off < 0x238 then
    let t := s.plainWrite o a v
    if t.nat a = s.nat a then t else t.auModeMoved f ((off - 0x228) / 4)
  else if 0x240 ≤ off ∧ off < 0x280 then
    (s.plainWrite o a v).withDefects f (fun s => s.rxDegMoved f)
  else s.plainWrite o a v

def State.txRegWrite (s : State) (o : Origin) (f a off : Nat) (v : Word) : State :=
  if off = 0x100 then s.txFormatWrite f (bitsOf v.toNat 3 0) else s.plainWrite o a v

/-- A write ignored because a commit is in progress (R97). -/
def State.lostWrite (s : State) (a : Nat) : State := (s.event (trlA 0x108) 2).raise trlSrc 0x32 false a

def State.commitBusy (s : State) : Bool := s.bit (trlA 0x104) 4

/-- A staged register of row `r`, held back to the next commit (R97, R99). -/
def State.stagedWrite (s : State) (o : Origin) (r a : Nat) (v : Word) : State :=
  if s.commitBusy && s.commitRows.getLsbD r then s.lostWrite a else (s.plainWrite o a v).showPending r

def State.mapWrite (s : State) (o : Origin) (r a off : Nat) (v : Word) : State :=
  if 0x4000 ≤ off ∧ off < 0x9000 ∧ off % 0x100 = 0xC then s.pdefTrib r ((off - 0x4000) / 0x100) (bitsOf v.toNat 7 0)
  else if 0x9000 ≤ off ∧ off < 0x9200 then
    let s := s.plainWrite o a v
    s.setMapOh r ((s.mapOhOf r).written ((off - 0x9000) / 4))
  else if 0x4000 ≤ off ∧ off < 0x9000 ∧ 0x40 ≤ off % 0x100 ∧ off % 0x100 < 0x5C then
    let t := (off - 0x4000) / 0x100
    (s.plainWrite o a v).withTrib r t (fun s => s.tribDegMoved r t)
  else s.plainWrite o a v

def State.trlWrite (s : State) (o : Origin) (a off : Nat) (v : Word) : State :=
  if off = 0x100 then s.trlGo v.toNat
  else if 0x10000 ≤ off ∧ off < 0x30000 ∧ s.commitBusy then s.lostWrite a
  else s.plainWrite o a v

def State.furWrite (s : State) (o : Origin) (a off : Nat) (v : Word) : State :=
  if 0x200 ≤ off ∧ off < 0x230 then s.rowRouteWrite o ((off - 0x200) / 4) v
  else if 0x10000 ≤ off ∧ off % 0x40 = 4 then
    let F := (off - 0x10000) / 0x40
    (s.onBit v 0 (fun s => s.flushAsk F)).onBit v 1 (fun s => s.hwmClr F)
  else if 0x10000 ≤ off ∧ off % 0x40 = 0 then
    let s := s.plainWrite o a v
    s.setFld a 10 0 (min (s.fld a 10 0) (furCapacity ((off - 0x10000) / 0x40)))
  else s.plainWrite o a v

def State.bedWrite (s : State) (o : Origin) (b a off : Nat) (v : Word) : State :=
  if off = 0x100 then s.bedCtrlWrite o b v
  else if off = 0x15C then s.setFld a 10 0 (s.bed b).evq.length
  else s.plainWrite o a v

def State.qdmWrite (s : State) (o : Origin) (a off : Nat) (v : Word) : State :=
  if off = 0x114 then s.onBit v 0 (fun s => if s.qdrUp then s.repair else s)
  else if 0x1000 ≤ off ∧ off % 0x100 = 0x28 then s.onBit v 0 (fun s => s.pinErrClr ((off - 0x1000) / 0x100))
  else s.plainWrite o a v

def State.twnWrite (s : State) (o : Origin) (a off : Nat) (v : Word) : State :=
  if off = 0x100 then (s.plainWrite o a v).linkCheck
  else if 0x200 ≤ off ∧ off < 0x240 then s.exchWrite ((off - 0x200) / 4) v
  else if off = 0x1000 then s.reqData 4 v
  else if off = 0x1004 then
    ((s.onBit v 0 (fun s => s.mbAbort 4)).onBit v 1 (fun s => s.rspEmpty 4)).onBit v 2 (fun s => s.mbForget 4)
  else s.plainWrite o a v

def State.srdWrite (s : State) (o : Origin) (n a off : Nat) (v : Word) : State :=
  let t := s.plainWrite o a v
  let t := if t.prbsSel n = s.prbsSel n then t else t.prbsFresh n
  if off = 0x100 then t.onBit v 31 (fun s => s.prbsClr n) else t

/-- TOP, apart from the KC registers (R273). -/
def State.topWrite (s : State) (o : Origin) (a off : Nat) (v : Word) : State :=
  if off = 0x320 then s.boardRoleWrite o v.toNat else s.plainWrite o a v

/-- What a write does at the register `off` of the block instance, of a register that is no KEY and no SQ. -/
def State.blockWrite (s : State) (o : Origin) (b : Blk) (inst a off : Nat) (v : Word) : State :=
  match b with
  | .top => s.topWrite o a off v
  | .hif => s.hifWrite o a off v
  | .cur => s.curWrite o a off v
  | .inv => s.invWrite o a off v
  | .rts => s.rtsWrite o a off v
  | .chk => s.chkWrite o a off v
  | .sdl => s.sdlWrite o a v
  | .sve => s.sveWrite o a off v
  | .lrx => s.rxWrite o inst a off v
  | .srx => s.rxWrite o (192 + inst) a off v
  | .ltx => s.txRegWrite o inst a off v
  | .stx => s.txRegWrite o (192 + inst) a off v
  | .map => s.mapWrite o inst a off v
  | .trl => s.trlWrite o a off v
  | .cel => s.plainWrite o a v
  | .fur => s.furWrite o a off v
  | .bed => s.bedWrite o inst a off v
  | .srd => s.srdWrite o inst a off v
  | .qdm => s.qdmWrite o a off v
  | .twn => s.twnWrite o a off v

/-- A write reaches the register at `a` of a block out of reset; reserved addresses ignore it (R267). -/
def State.applyWrite (s : State) (o : Origin) (a : Nat) (v : Word) : State :=
  match blockOf a with
  | none => s
  | some (b, inst, base) =>
    let fs := fieldsAt a
    if fs.isEmpty then s
    else if fs.any (fun r => r.ty == .key) then s.keyWrite a v
    else if fs.any (fun r => r.ty == .sq) then s.sqWrite a v
    else match stagedRow a with
      | some r => if fs.any (fun r => r.ty == .staged) then s.stagedWrite o r a v else s.blockWrite o b inst a (a - base) v
      | none => s.blockWrite o b inst a (a - base) v

/-! ### Complement pairs (R272) -/

def kcLow (a : Nat) : Bool := a == topA 0x300 || a == topA 0x310 || a == topA 0x360
def kcHigh (a : Nat) : Bool := 4 ≤ a && kcLow (a - 4)

/-- A KC value takes effect: ROLLBACK_NOW, SOFT_RESET, INV_USER_EN (R327, R346, R391). -/
def State.kcTake (s : State) (a : Nat) (v : Word) : State :=
  if a = topA 0x360 then s.setBit a 0 (v.getLsbD 0)
  else if v.getLsbD 0 = false then s
  else if a = topA 0x300 then s.rollback
  else s.askReset 3 0

/-- A host write whose address lies in the TOP region. -/
def State.topHostWrite (s : State) (a : Nat) (v : Word) : State :=
  match s.top.kc with
  | some (k, x) =>
    let s := s.setTop { s.top with kc := none }
    if a = k + 4 ∧ v = ~~~ x then s.kcTake k x else s.hifReport 0x84 a
  | none =>
    if kcLow a then s.setTop { s.top with kc := some (a, v) }
    else if kcHigh a then s.hifReport 0x84 a
    else s.applyWrite .host a v

/-! ### Writes of the host and of programs -/

/-- An aligned 4-byte write of the host (R263, R266, R267). -/
def State.hostWrite (s : State) (a : Nat) (v : Word) : State :=
  if !s.hostReaches then s
  else
    let s := s.tallyHif 3 1
    if a < 0x10000 then s.topHostWrite a v
    else if s.inReset a then s.accessTimeout .host a
    else s.applyWrite .host a v

/-- A program's write comes to its register (R201, R267). -/
def State.progWrite (s : State) (b : Fin 16) (a : Nat) (v : Word) : State :=
  if s.inReset a then s.accessTimeout (.program b) a else s.applyWrite (.program b) a v

/-- A write of either origin; a program's outside REG_WIN, or aimed at a guarded register, is refused whole
(R201, R274). -/
def State.anyWrite (s : State) (o : Origin) (a : Nat) (v : Word) : State :=
  match o with
  | .host => s.hostWrite a v
  | .program b =>
    if !s.enginesRun then s
    else if !s.winPermits b.val a then s.accessShape (accessDetail o a)
    else if guarded a then s.lockedWrite o a
    else s.progWrite b a v

/-- A write of the host of 4 or, with an upper word, of 8 bytes: it acts where it is aligned to its length, the lower
word first (R266). -/
def State.hostPut (s : State) (a : Nat) (val : Word) (upper : Option Word) : State :=
  match upper with
  | none => if a % 4 = 0 then s.hostWrite a val else if s.hostReaches then s.badShape 0 false a else s
  | some u =>
    if a % 8 = 0 then (s.hostWrite a val).hostWrite (a + 4) u
    else if s.hostReaches then s.badShape 0 false a else s

/-- A write of either origin; a program's is one word of the register window, whose address is a register's (R201). -/
def State.put (s : State) (o : Origin) (a : Nat) (val : Word) (upper : Option Word) : State :=
  match o with
  | .host => s.hostPut a val upper
  | .program b => s.anyWrite (.program b) (a / 4 * 4) val

def execRegisterWrite (o : Origin) (addr : BitVec 26) (val : Word) (upper : Option Word) (s : State) :
    Host.Outcome State Fault Refusal :=
  done s (s.put o addr.toNat val upper)

def execKey (addr : BitVec 26) (val : Word) (s : State) : Host.Outcome State Fault Refusal :=
  done s (s.hostPut addr.toNat val none)

def execComplementPairWrite (addr : BitVec 26) (val : Word) (s : State) : Host.Outcome State Fault Refusal :=
  done s (s.hostPut addr.toNat val none)

def execSequenceClear (o : Origin) (addr : BitVec 26) (val : Word) (s : State) : Host.Outcome State Fault Refusal :=
  done s (s.put o addr.toNat val none)

def execWriteOnce (addr : BitVec 26) (val : Word) (s : State) : Host.Outcome State Fault Refusal :=
  done s (s.hostPut addr.toNat val none)

def execSettingsStatus (o : Origin) (val : Word) (s : State) : Host.Outcome State Fault Refusal :=
  done s (s.anyWrite o (rtsA 0x120) val)

/-- The recommended form: an aligned 8-byte write of 1 and its complement (R272). -/
def State.pairWrite (s : State) (a : Nat) : State := s.hostPut a 1 (some (~~~ 1))

def execRollbackNow (s : State) : Host.Outcome State Fault Refusal := done s (s.pairWrite (topA 0x300))

def execSoftReset (s : State) : Host.Outcome State Fault Refusal := done s (s.pairWrite (topA 0x310))

/-! ### The register window (R201) -/

/-- The oldest write of context `key` is performed; with the last one a FENCE ends. -/
def State.winWrite (s : State) (b : Fin 16) (key a : Nat) (v : Word) (rest : List (Nat × Word)) : State :=
  let x := s.ctx key
  let w := if rest.isEmpty && x.wait == .fence then .none else x.wait
  (s.setCtx key { x with winWrites := rest, wait := w, commitAt := s.now }).progWrite b a v

/-- The read that context `key` waits for returns; a block in reset gives 0. -/
def State.winReadDone (s : State) (b : Fin 16) (key a rd : Nat) : State :=
  let (v, s) := if s.inReset a then ((0 : Word), s.accessTimeout (.program b) a) else s.readReg a
  let x := s.ctx key
  s.setCtx key ({ x with wait := .none, winLatch := (v >>> 16).setWidth 16 }.setReg (BitVec.ofNat 4 rd) (v.setWidth 16))

/-- The next access of a context through the register window comes to its end. -/
def execRegisterWindowComplete (c : CtxId) (s : State) : Host.Outcome State Fault Refusal :=
  let x := s.ctx (keyOf c)
  done s (if s.enginesRun then
    match x.winWrites, x.wait with
    | (a, v) :: rest, _ => s.winWrite c.bed (keyOf c) a v rest
    | [], .winRead a rd => s.winReadDone c.bed (keyOf c) a rd
    | [], _ => s
    else s)

end Sys2Proof.Machine
end

