-- ==== Sys2Proof/Machine/SprigQueue.lean ====
section
/-! DEFINITION. The queue instructions (R231, R232, R244, R257). -/

namespace Sys2Proof.Machine

/-- The input furrow `f` of context `c`, when the context owns it or takes it over now (R231). -/
def State.takeFur (s : State) (c : CtxId) (f : BitVec 4) : Option (Nat × State) :=
  match s.inFur c.bed.val f.toNat with
  | none => none
  | some F =>
    let fu := s.fur F
    if fu.owner = keyOf c + 1 then some (F, s)
    else if fu.owner = 0 then
      some (F, (s.setFur F { fu with owner := keyOf c + 1, rel := 0, rpItem := 0, rpOff := 0 }).showFur F)
    else none

/-- A reading instruction of one word: `f` on the owned furrow; `g` on the context alone where the
number names no furrow or another handler owns it, with C set (R231, R244). -/
def reading (c : CtxId) (i : Instr) (f : BitVec 4) (s : State) (g : Ctx → Ctx)
    (h : Nat → Furrow → Ctx → Furrow × Ctx) : Host.Outcome State Fault Refusal :=
  sprig c i s (fun s =>
    match s.takeFur c f with
    | none => s.setCtx (keyOf c) (((g (s.ctx (keyOf c))).flagC true).next 1)
    | some (F, s) =>
      let (fu, x) := h F (s.fur F) (s.ctx (keyOf c))
      (s.setFur F fu).setCtx (keyOf c) (x.next 1))

/-- The index of the item at which the next QHEAD looks: past the current item when the read point is
inside one (R231). -/
def Furrow.headIndex (fu : Furrow) : Nat := if fu.rpOff = 0 then fu.rpItem else fu.rpItem + 1

def execSpQhead (c : CtxId) (rd f : BitVec 4) (s : State) : Host.Outcome State Fault Refusal :=
  reading c (.spQhead c rd f) f s
    (fun x => (x.setReg rd 0).setReg (rd + 1) 0xFFFF)
    (fun F fu x =>
      match fu.items[fu.headIndex]? with
      | some it =>
        ({ fu with rpItem := fu.headIndex, rpOff := 1 },
          (((x.setReg rd it.header).setReg (rd + 1) (BitVec.ofNat 16 (producerIndex fu F it.prod))).flagC false))
      | none =>
        ({ fu with rpItem := fu.headIndex, rpOff := 0 }, ((x.setReg rd 0).setReg (rd + 1) 0xFFFF).flagC true))

/-- The next data word of the current item, if one is left (R231). -/
def Furrow.nextWord (fu : Furrow) : Option Half :=
  if fu.rpOff = 0 then none
  else match fu.items[fu.rpItem]? with
    | some it => it.words[fu.rpOff - 1]?
    | none => none

def execSpQword (c : CtxId) (rd f : BitVec 4) (s : State) : Host.Outcome State Fault Refusal :=
  reading c (.spQword c rd f) f s
    (fun x => (x.flagsZN 0).setReg rd 0)
    (fun _ fu x =>
      match fu.nextWord with
      | some v => ({ fu with rpOff := fu.rpOff + 1 }, (((x.flagsZN v).setReg rd v).flagC false))
      | none => (fu, ((x.flagsZN 0).setReg rd 0).flagC true))

/-- A read point as a mark: one more than item · 512 + offset. -/
def Furrow.point (fu : Furrow) : Nat := fu.rpItem * 512 + fu.rpOff + 1

def execSpQmark (c : CtxId) (f : BitVec 4) (s : State) : Host.Outcome State Fault Refusal :=
  reading c (.spQmark c f) f s id
    (fun F fu x => (fu, { x with marks := Tab.set x.marks 0 F fu.point }))

/-- To the mark, or to the last release if no mark was set or the mark lies behind it. -/
def execSpQrew (c : CtxId) (f : BitVec 4) (s : State) : Host.Outcome State Fault Refusal :=
  reading c (.spQrew c f) f s id
    (fun F fu x =>
      let m := Tab.get x.marks 0 F
      if m = 0 ∨ (m - 1) / 512 < fu.rel then ({ fu with rpItem := fu.rel, rpOff := 0 }, x)
      else ({ fu with rpItem := (m - 1) / 512, rpOff := (m - 1) % 512 }, x))

/-- Releases through the end of the current item, or everything before the read point. -/
def execSpQrel (c : CtxId) (f : BitVec 4) (s : State) : Host.Outcome State Fault Refusal :=
  reading c (.spQrel c f) f s id
    (fun _ fu x => ({ fu with rel := fu.headIndex, rpItem := fu.headIndex, rpOff := 0 }, x))

/-! ### Building items (R232) -/

/-- Whether output number `g` names a furrow of the bed (R244). -/
def State.hasOut (s : State) (b g : Nat) : Bool := g == 8 || (s.outFur b g).isSome

/-- KIND and FLAGS[10] alone come from W(rd); an item already open on `g` is discarded, with C set. -/
def execSpQpushh (c : CtxId) (rd g : BitVec 4) (s : State) : Host.Outcome State Fault Refusal :=
  sprig c (.spQpushh c rd g) s (fun s =>
    let x := s.ctx (keyOf c)
    if s.hasOut c.bed.val g.toNat then
      let was := (Tab.get x.opens none g.toNat).isSome
      s.setCtx (keyOf c)
        (({ x with opens := Tab.set x.opens none g.toNat (some (x.reg rd &&& 0xF400, [])) }.flagC was).next 1)
    else s.setCtx (keyOf c) ((x.flagC true).next 1))

/-- With no open item, or beyond 255 words, the word is discarded and C set; otherwise C is cleared. -/
def execSpQpushw (c : CtxId) (rd g : BitVec 4) (s : State) : Host.Outcome State Fault Refusal :=
  sprig c (.spQpushw c rd g) s (fun s =>
    let x := s.ctx (keyOf c)
    s.setCtx (keyOf c) ((match Tab.get x.opens none g.toNat with
      | none => x.flagC true
      | some (h, ws) =>
        if 255 ≤ ws.length then x.flagC true
        else { x with opens := Tab.set x.opens none g.toNat (some (h, ws ++ [x.reg rd])) }.flagC false).next 1))

/-- The bed mail furrow that an item goes to: of the bed RUNNING under [3:0] of data word 0 (R257). -/
def State.mailTo (s : State) (ws : List Half) : Option Nat :=
  match ws with
  | [] => none
  | w :: _ => (s.byLbed (w.toNat % 16)).map (48 + ·)

/-- An item that has no bed to go to is not delivered and counted as rejected (R257, R259). -/
def State.mailReject (s : State) (b kind : Nat) : State :=
  let F := 48 + b
  ((s.inc (furA F 0x24)).event (furA F 0x28) 3).raiseLim 1 F (furSrc F) 0x72 false (F + kind * 65536)

/-- An open item handed to its furrow; true when it was published (R232, R249, R257). -/
def State.handOver (s : State) (b g : Nat) (h : Half) (ws : List Half) : Bool × State :=
  let prod := 240 + s.lbed b
  let kind := h.toNat / 4096
  let stamped := h.getLsbD 10
  if g = 8 then
    match s.mailTo ws with
    | some F => s.publish F prod kind stamped ws
    | none => (false, s.mailReject b kind)
  else match s.outFur b g with
    | some F => s.publish F prod kind stamped ws
    | none => (false, s)

/-- With no open item C is set and nothing happens; C is set where the item was not published. -/
def execSpQend (c : CtxId) (g : BitVec 4) (s : State) : Host.Outcome State Fault Refusal :=
  ordered c (.spQend c g) s (fun s =>
    let x := s.ctx (keyOf c)
    match Tab.get x.opens none g.toNat with
    | none => s.setCtx (keyOf c) ((x.flagC true).next 1)
    | some (h, ws) =>
      let (ok, s) := s.handOver c.bed.val g.toNat h ws
      s.setCtx (keyOf c) (({ x with opens := Tab.set x.opens none g.toNat none }.flagC (!ok)).next 1))

end Sys2Proof.Machine
end

