-- ==== Sys2Proof/Machine/SprigSystem.lean ====
section
/-! DEFINITION. System instructions of the Sprig (R234 to R236), the end of waits and handlers, the
watchdog, and the dispatcher (R195, R204, R205, R208, R211). -/

namespace Sys2Proof.Machine

/-- Whether the handler on `key` has dirty lines to write back (R204). -/
def State.dirtyLines (s : State) (key : Nat) : Bool :=
  match (s.ctx key).bound with
  | none => false
  | some c => Tab.get (s.bed (keyBed key)).dirty 0 c != 0

/-- END includes a FENCE.  With no access outstanding and no dirty line the commit is done at once;
else the context waits for COMMIT_WRITE_BACK (R199, R204). -/
def execSpEnd (c : CtxId) (s : State) : Host.Outcome State Fault Refusal :=
  sprig c (.spEnd c) s (fun s =>
    let k := keyOf c
    let x := s.ctx k
    if x.winWrites.isEmpty && !s.dirtyLines k then s.finishHandler k
    else
      let s := s.setCtx k { x.next 1 with wait := .commit, commitAt := s.now }
      match x.bound with
      | some b => if s.dirtyLines k then s.setBit (bedA c.bed.val (0x1600 + 4 * b)) 2 true else s
      | none => s)

/-- Waits while a register-window write of the context is outstanding (R199, R241). -/
def execSpFence (c : CtxId) (s : State) : Host.Outcome State Fault Refusal :=
  sprig c (.spFence c) s (fun s =>
    let x := s.ctx (keyOf c)
    s.setCtx (keyOf c) { x.next 1 with wait := if x.winWrites.isEmpty then .none else .fence })

/-- The other contexts of the engine that are ready now. -/
def State.readyOthers (s : State) (c : CtxId) : List Nat :=
  [0, 1, 2, 3].filter (fun k => k != c.ctx.val && s.ready (keyOf c / 4 * 4 + k))

/-- YIELD waits until each context of `l` has issued, or for 8 cycles (R234). -/
def State.yieldTo (s : State) (c : CtxId) (l : List Nat) : State :=
  let g := keyOf c / 4
  let e := s.engine g
  s.setEngine g { e with yields := Tab.set e.yields ([], 0) c.ctx.val (l, if l = [] then 0 else s.now + 8) }

def execSpYield (c : CtxId) (s : State) : Host.Outcome State Fault Refusal :=
  sprig c (.spYield c) s (fun t =>
    (t.setCtx (keyOf c) ((t.ctx (keyOf c)).next 1)).yieldTo c ((s.atIssue c (.spYield c)).readyOthers c))

/-- Not ready for W(a) cycles of 1 ns after its own; W(a) = 0 does not wait. -/
def execSpWait (c : CtxId) (ra : BitVec 4) (s : State) : Host.Outcome State Fault Refusal :=
  sprig c (.spWait c ra) s (fun s =>
    let x := s.ctx (keyOf c)
    let n := (x.reg ra).toNat
    s.setCtx (keyOf c) { x.next 1 with wait := if n = 0 then .none else .timed (s.now + n + 1) })

/-- Delivers a POST or refuses it (R209). -/
def State.post (s : State) (b lb kind : Nat) (arg : Half) : Bool × State :=
  let refuse := fun (s : State) =>
    ((s.inc (bedA b 0x148)).event (bedA b 0x108) 5).raiseLim 1 0 (640 + b) 0x28 false (kind + lb * 256)
  match s.byLbed lb with
  | none => (false, refuse s)
  | some t =>
    if s.queueFull t then (false, refuse s)
    else (true, s.enqueue t { Ev.init with kind := kind, arg := arg, sender := BitVec.ofNat 16 (s.lbed b) })

/-- A kind below 0x40 is a handler fault with cause 9 (R209). -/
def execSpPost (c : CtxId) (ra rb : BitVec 4) (s : State) : Host.Outcome State Fault Refusal :=
  ordered c (.spPost c ra rb) s (fun s =>
    let x := s.ctx (keyOf c)
    let kind := (x.reg rb).toNat % 256
    if kind < 0x40 then s.abortCtx (keyOf c) 9
    else
      let (ok, s) := (s.bedEv c 12).post c.bed.val ((x.reg rb).toNat / 256 % 16) kind (x.reg ra)
      s.setCtx (keyOf c) ((x.flagC (!ok)).next 1))

/-- Raises a PROGRAM_COND; with 16 waiting it is not raised and C is set (R235). -/
def State.cond (s : State) (c : CtxId) (ra rb : BitVec 4) (clear : Bool) : State :=
  let b := c.bed.val
  let x := s.ctx (keyOf c)
  let y := s.bed b
  let d := (x.reg ra).toNat * 65536 + (x.reg rb).toNat
  if 16 ≤ y.conds.length then s.setCtx (keyOf c) ((x.flagC true).next 1)
  else ((s.setBed b { y with conds := y.conds ++ [(d, clear)] }).feedConds b).setCtx (keyOf c) ((x.flagC false).next 1)

def execSpCond (c : CtxId) (ra rb : BitVec 4) (s : State) : Host.Outcome State Fault Refusal :=
  sprig c (.spCond c ra rb) s (fun s => s.cond c ra rb false)

def execSpCondc (c : CtxId) (ra rb : BitVec 4) (s : State) : Host.Outcome State Fault Refusal :=
  sprig c (.spCondc c ra rb) s (fun s => s.cond c ra rb true)

/-- A list of words into registers from `rd` up. -/
def Ctx.setRegs (x : Ctx) (rd : BitVec 4) : List Half → Ctx
  | [] => x
  | v :: rest => (x.setReg rd v).setRegs (rd + 1) rest

/-- The six words of dial n's time, taken at one instant (R236). -/
def execSpTsrd (c : CtxId) (rd n : BitVec 4) (s : State) : Host.Outcome State Fault Refusal :=
  sprig c (.spTsrd c rd n) s (fun s =>
    s.setCtx (keyOf c) (((s.ctx (keyOf c)).setRegs rd (tsWords (s.dialSub n.toNat))).next 1))

def execSpNop (c : CtxId) (s : State) : Host.Outcome State Fault Refusal := onCtx c (.spNop c) s 1 id

/-! ### The end of a wait, of a commit, and the watchdog -/

/-- The end of WAIT (R195, R234). -/
def execWaitExpiry (c : CtxId) (s : State) : Host.Outcome State Fault Refusal :=
  let x := s.ctx (keyOf c)
  done s (match x.wait with
    | .timed t => if s.enginesRun && decide (t ≤ s.now) then s.setCtx (keyOf c) { x with wait := .none } else s
    | _ => s)

/-- The handler has run past its limit: a handler fault with cause 1 (R211, R212).  A context that
has reached its commit has executed END. -/
def execWatchdogExpiry (c : CtxId) (s : State) : Host.Outcome State Fault Refusal :=
  let x := s.ctx (keyOf c)
  done s (if s.enginesRun && x.active && x.wait != .commit && decide (x.started + x.limitNs ≤ s.now) then
    s.abortCtx (keyOf c) 1 else s)

/-- A waiting commit completes: dirty lines written back, released space returned, the context idle
(R204). -/
def execCommitWriteBack (c : CtxId) (s : State) : Host.Outcome State Fault Refusal :=
  let k := keyOf c
  let x := s.ctx k
  done s (if s.enginesRun && x.active && x.wait == .commit && x.winWrites.isEmpty && (s.qdrUp || !s.dirtyLines k) then
    (s.writeBack k).finishHandler k else s)

/-- The write-back has not completed within 50 µs of its begin, which follows the FENCE of step 1: UNBACKED, and the commit goes on with step 3
(R204, R220). -/
def execBackingFail (c : CtxId) (s : State) : Host.Outcome State Fault Refusal :=
  let k := keyOf c
  let x := s.ctx k
  let b := c.bed.val
  done s (if s.enginesRun && x.active && x.wait == .commit && x.winWrites.isEmpty && s.dirtyLines k &&
      decide (x.commitAt + 50 * usNs ≤ s.now) then
    match x.bound with
    | none => s
    | some ch =>
      let s := s.setBit (bedA b (0x1600 + 4 * ch)) 3 true
      let s := (s.inc (bedA b 0x150)).event (bedA b 0x108) 7
      (s.raise (640 + b) 0x2A false ch).finishHandler k
    else s)

/-! ### The dispatcher (R208) -/

/-- The next event of the bed starts on an idle context, or is discarded where its handler-table entry
is not enabled (R208).  Only RUNNING beds dispatch; a LOADING bed dispatches INIT alone (R206). -/
def execHandlerStart (bed : Fin 16) (s : State) : Host.Outcome State Fault Refusal :=
  let b := bed.val
  done s (if s.enginesRun && (s.role b == 2 || s.role b == 3) then
    match s.pick b, s.idlePlace b with
    | some (p, fromQ), some key =>
      if s.role b == 3 && p.ev.kind != 0 then s
      else
        let s := s.setBed b { p.bed with fromQueue := fromQ }
        if s.bit (htabA b p.ev.kind) 16 then s.startHandler b key p
        else
          let s := (s.inc (bedA b 0x14C)).unhandled b p.ev.kind
          let s := match p.fur with | some F => s.unnotice F | none => s
          if p.ev.kind = 0 then s.initEnded b else s
    | _, _ => s
    else s)

end Sys2Proof.Machine
end

