-- ==== Sys2Proof/Machine/Dispatch.lean ====
section
/-! DEFINITION. The meaning of every command: one arm per constructor of `Instr`. -/

namespace Sys2Proof.Machine

def exec (i : Instr) (s : State) : Host.Outcome State Fault Refusal :=
  match i with
  | .registerWrite o addr val upper => Sys2Proof.Machine.execRegisterWrite o addr val upper s
  | .key addr val => Sys2Proof.Machine.execKey addr val s
  | .complementPairWrite addr val => Sys2Proof.Machine.execComplementPairWrite addr val s
  | .sequenceClear o addr val => Sys2Proof.Machine.execSequenceClear o addr val s
  | .writeOnce addr val => Sys2Proof.Machine.execWriteOnce addr val s
  | .pairedCounterRead addr len => Sys2Proof.Machine.execPairedCounterRead addr len s
  | .accessShape bar read off len partialBe => Sys2Proof.Machine.execAccessShape bar read off len partialBe s
  | .accessTimeout o read addr => Sys2Proof.Machine.execAccessTimeout o read addr s
  | .bar2Read off len => Sys2Proof.Machine.execBar2Read off len s
  | .bar4Read off len => Sys2Proof.Machine.execBar4Read off len s
  | .bar4Write off data => Sys2Proof.Machine.execBar4Write off data s
  | .linkDown => Sys2Proof.Machine.execLinkDown s
  | .linkL0Timeout => Sys2Proof.Machine.execLinkL0Timeout s
  | .functionLevelReset => Sys2Proof.Machine.execFunctionLevelReset s
  | .msixPendingSend v => Sys2Proof.Machine.execMsixPendingSend v s
  | .reqData mb w => Sys2Proof.Machine.execReqData mb w s
  | .mbTimeout mb => Sys2Proof.Machine.execMbTimeout mb s
  | .mbAbort mb => Sys2Proof.Machine.execMbAbort mb s
  | .rspAck mb => Sys2Proof.Machine.execRspAck mb s
  | .forget mb => Sys2Proof.Machine.execForget mb s
  | .rspLoad mb => Sys2Proof.Machine.execRspLoad mb s
  | .mbCommandPublish mb => Sys2Proof.Machine.execMbCommandPublish mb s
  | .mbReplyItem mb => Sys2Proof.Machine.execMbReplyItem mb s
  | .reportIntake => Sys2Proof.Machine.execReportIntake s
  | .ringCopy => Sys2Proof.Machine.execRingCopy s
  | .ringHeaderWrite => Sys2Proof.Machine.execRingHeaderWrite s
  | .logRd val => Sys2Proof.Machine.execLogRd val s
  | .nmiAck => Sys2Proof.Machine.execNmiAck s
  | .blockResetEnd src => Sys2Proof.Machine.execBlockResetEnd src s
  | .shadowEnd src => Sys2Proof.Machine.execShadowEnd src s
  | .chipResetExecute => Sys2Proof.Machine.execChipResetExecute s
  | .aliveStart => Sys2Proof.Machine.execAliveStart s
  | .aliveResume val => Sys2Proof.Machine.execAliveResume val s
  | .aliveToggle => Sys2Proof.Machine.execAliveToggle s
  | .aliveKickLost => Sys2Proof.Machine.execAliveKickLost s
  | .srcForce src val => Sys2Proof.Machine.execSrcForce src val s
  | .srcReset src val => Sys2Proof.Machine.execSrcReset src val s
  | .clockFailure c => Sys2Proof.Machine.execClockFailure c s
  | .clockRestored c => Sys2Proof.Machine.execClockRestored c s
  | .clkStatusFall bit => Sys2Proof.Machine.execClkStatusFall bit s
  | .overTemp tj => Sys2Proof.Machine.execOverTemp tj s
  | .pinLatencyMeasure srd ps => Sys2Proof.Machine.execPinLatencyMeasure srd ps s
  | .loopTimingHoldExpiry f => Sys2Proof.Machine.execLoopTimingHoldExpiry f s
  | .loopTiming f => Sys2Proof.Machine.execLoopTiming f s
  | .formatChange f fmt => Sys2Proof.Machine.execFormatChange f fmt s
  | .rehunt f => Sys2Proof.Machine.execRehunt f s
  | .huntMatch f phase pos x => Sys2Proof.Machine.execHuntMatch f phase pos x s
  | .huntWindowEnd f phase => Sys2Proof.Machine.execHuntWindowEnd f phase s
  | .deliveredFrame f x => Sys2Proof.Machine.execDeliveredFrame f x s
  | .flywheelFrame f => Sys2Proof.Machine.execFlywheelFrame f s
  | .lof f phase => Sys2Proof.Machine.execLof f phase s
  | .lofClear f phase => Sys2Proof.Machine.execLofClear f phase s
  | .lom f => Sys2Proof.Machine.execLom f s
  | .loflane f phase => Sys2Proof.Machine.execLoflane f phase s
  | .otlReassembly f arr => Sys2Proof.Machine.execOtlReassembly f arr s
  | .eavSpacingTimeout f pos => Sys2Proof.Machine.execEavSpacingTimeout f pos s
  | .los f since => Sys2Proof.Machine.execLos f since s
  | .losClear f since => Sys2Proof.Machine.execLosClear f since s
  | .pdef site val => Sys2Proof.Machine.execPdef site val s
  | .degradeWindowEnd site k sf => Sys2Proof.Machine.execDegradeWindowEnd site k sf s
  | .transmitFrame f x => Sys2Proof.Machine.execTransmitFrame f x s
  | .oneSecondLatch => Sys2Proof.Machine.execOneSecondLatch s
  | .trlCommit val => Sys2Proof.Machine.execTrlCommit val s
  | .commitEvaluation => Sys2Proof.Machine.execCommitEvaluation s
  | .tributaryFrame r t x => Sys2Proof.Machine.execTributaryFrame r t x s
  | .steeringUpdate r t => Sys2Proof.Machine.execSteeringUpdate r t s
  | .fingerprintLookup k copyB arrival => Sys2Proof.Machine.execFingerprintLookup k copyB arrival s
  | .perFrameDecision k arrival cel => Sys2Proof.Machine.execPerFrameDecision k arrival cel s
  | .noMatch k => Sys2Proof.Machine.execNoMatch k s
  | .referenceEdge ref time low high => Sys2Proof.Machine.execReferenceEdge ref time low high s
  | .loss ref => Sys2Proof.Machine.execLoss ref s
  | .swUpdate k => Sys2Proof.Machine.execSwUpdate k s
  | .swTimeout k => Sys2Proof.Machine.execSwTimeout k s
  | .measurementWindowEnd => Sys2Proof.Machine.execMeasurementWindowEnd s
  | .holdoffExpiry n => Sys2Proof.Machine.execHoldoffExpiry n s
  | .lock n => Sys2Proof.Machine.execLock n s
  | .holdoverExpired n => Sys2Proof.Machine.execHoldoverExpired n s
  | .restart n => Sys2Proof.Machine.execRestart n s
  | .phaseDetectorUpdate n => Sys2Proof.Machine.execPhaseDetectorUpdate n s
  | .holdoverRecord n => Sys2Proof.Machine.execHoldoverRecord n s
  | .capture n => Sys2Proof.Machine.execCapture n s
  | .timeCaptureAll => Sys2Proof.Machine.execTimeCaptureAll s
  | .timeSet n => Sys2Proof.Machine.execTimeSet n s
  | .timeAdj n => Sys2Proof.Machine.execTimeAdj n s
  | .dialSecondBoundary n => Sys2Proof.Machine.execDialSecondBoundary n s
  | .generatorEdge g rising => Sys2Proof.Machine.execGeneratorEdge g rising s
  | .ttcMessage ch x => Sys2Proof.Machine.execTtcMessage ch x s
  | .ttcLoss ch => Sys2Proof.Machine.execTtcLoss ch s
  | .swap k => Sys2Proof.Machine.execSwap k s
  | .swapDone k => Sys2Proof.Machine.execSwapDone k s
  | .edgeDelivery k => Sys2Proof.Machine.execEdgeDelivery k s
  | .windowIn k => Sys2Proof.Machine.execWindowIn k s
  | .windowOut k => Sys2Proof.Machine.execWindowOut k s
  | .peakBlockEnd k => Sys2Proof.Machine.execPeakBlockEnd k s
  | .gateLapse k => Sys2Proof.Machine.execGateLapse k s
  | .handlerStart bed => Sys2Proof.Machine.execHandlerStart bed s
  | .undefinedEncoding c => Sys2Proof.Machine.execUndefinedEncoding c s
  | .spMov c rd ra => Sys2Proof.Machine.execSpMov c rd ra s
  | .spAdd c rd ra => Sys2Proof.Machine.execSpAdd c rd ra s
  | .spAdc c rd ra => Sys2Proof.Machine.execSpAdc c rd ra s
  | .spSub c rd ra => Sys2Proof.Machine.execSpSub c rd ra s
  | .spSbc c rd ra => Sys2Proof.Machine.execSpSbc c rd ra s
  | .spCmp c rd ra => Sys2Proof.Machine.execSpCmp c rd ra s
  | .spAnd c rd ra => Sys2Proof.Machine.execSpAnd c rd ra s
  | .spOr c rd ra => Sys2Proof.Machine.execSpOr c rd ra s
  | .spXor c rd ra => Sys2Proof.Machine.execSpXor c rd ra s
  | .spNot c rd ra => Sys2Proof.Machine.execSpNot c rd ra s
  | .spShl c rd ra => Sys2Proof.Machine.execSpShl c rd ra s
  | .spShr c rd ra => Sys2Proof.Machine.execSpShr c rd ra s
  | .spAsr c rd ra => Sys2Proof.Machine.execSpAsr c rd ra s
  | .spRol c rd ra => Sys2Proof.Machine.execSpRol c rd ra s
  | .spNeg c rd ra => Sys2Proof.Machine.execSpNeg c rd ra s
  | .spTst c rd ra => Sys2Proof.Machine.execSpTst c rd ra s
  | .spAddi c rd imm => Sys2Proof.Machine.execSpAddi c rd imm s
  | .spMovi c rd imm => Sys2Proof.Machine.execSpMovi c rd imm s
  | .spMovhi c rd imm => Sys2Proof.Machine.execSpMovhi c rd imm s
  | .spCmpi c rd imm => Sys2Proof.Machine.execSpCmpi c rd imm s
  | .spLdl c rd ra disp => Sys2Proof.Machine.execSpLdl c rd ra disp s
  | .spStl c rd ra disp => Sys2Proof.Machine.execSpStl c rd ra disp s
  | .spLdc c rd ra disp => Sys2Proof.Machine.execSpLdc c rd ra disp s
  | .spStc c rd ra disp => Sys2Proof.Machine.execSpStc c rd ra disp s
  | .spBset c rd b => Sys2Proof.Machine.execSpBset c rd b s
  | .spBclr c rd b => Sys2Proof.Machine.execSpBclr c rd b s
  | .spBtst c rd b => Sys2Proof.Machine.execSpBtst c rd b s
  | .spBsetr c rd rb => Sys2Proof.Machine.execSpBsetr c rd rb s
  | .spBclrr c rd rb => Sys2Proof.Machine.execSpBclrr c rd rb s
  | .spBtstr c rd rb => Sys2Proof.Machine.execSpBtstr c rd rb s
  | .spExt c rd ra => Sys2Proof.Machine.execSpExt c rd ra s
  | .spIns c rd ra => Sys2Proof.Machine.execSpIns c rd ra s
  | .spCrc16b c rd ra => Sys2Proof.Machine.execSpCrc16b c rd ra s
  | .spCrc32b c rd ra => Sys2Proof.Machine.execSpCrc32b c rd ra s
  | .spCrc32cb c rd ra => Sys2Proof.Machine.execSpCrc32cb c rd ra s
  | .spCrc64b c rd ra => Sys2Proof.Machine.execSpCrc64b c rd ra s
  | .spCrc16w c rd ra => Sys2Proof.Machine.execSpCrc16w c rd ra s
  | .spCrc32w c rd ra => Sys2Proof.Machine.execSpCrc32w c rd ra s
  | .spCrc32cw c rd ra => Sys2Proof.Machine.execSpCrc32cw c rd ra s
  | .spCrc64w c rd ra => Sys2Proof.Machine.execSpCrc64w c rd ra s
  | .spBip8 c rd ra => Sys2Proof.Machine.execSpBip8 c rd ra s
  | .spPar c rd ra => Sys2Proof.Machine.execSpPar c rd ra s
  | .spSinc c rd => Sys2Proof.Machine.execSpSinc c rd s
  | .spSadd c rd ra => Sys2Proof.Machine.execSpSadd c rd ra s
  | .spPopc c rd ra => Sys2Proof.Machine.execSpPopc c rd ra s
  | .spQhead c rd f => Sys2Proof.Machine.execSpQhead c rd f s
  | .spQword c rd f => Sys2Proof.Machine.execSpQword c rd f s
  | .spQmark c f => Sys2Proof.Machine.execSpQmark c f s
  | .spQrew c f => Sys2Proof.Machine.execSpQrew c f s
  | .spQrel c f => Sys2Proof.Machine.execSpQrel c f s
  | .spQpushh c rd g => Sys2Proof.Machine.execSpQpushh c rd g s
  | .spQpushw c rd g => Sys2Proof.Machine.execSpQpushw c rd g s
  | .spQend c g => Sys2Proof.Machine.execSpQend c g s
  | .spBr c disp => Sys2Proof.Machine.execSpBr c disp s
  | .spBz c disp => Sys2Proof.Machine.execSpBz c disp s
  | .spBnz c disp => Sys2Proof.Machine.execSpBnz c disp s
  | .spBcy c disp => Sys2Proof.Machine.execSpBcy c disp s
  | .spBncy c disp => Sys2Proof.Machine.execSpBncy c disp s
  | .spBugt c disp => Sys2Proof.Machine.execSpBugt c disp s
  | .spBule c disp => Sys2Proof.Machine.execSpBule c disp s
  | .spBsge c disp => Sys2Proof.Machine.execSpBsge c disp s
  | .spBslt c disp => Sys2Proof.Machine.execSpBslt c disp s
  | .spBsgt c disp => Sys2Proof.Machine.execSpBsgt c disp s
  | .spBsle c disp => Sys2Proof.Machine.execSpBsle c disp s
  | .spBneg c disp => Sys2Proof.Machine.execSpBneg c disp s
  | .spBpos c disp => Sys2Proof.Machine.execSpBpos c disp s
  | .spBov c disp => Sys2Proof.Machine.execSpBov c disp s
  | .spBnov c disp => Sys2Proof.Machine.execSpBnov c disp s
  | .spJmp c disp => Sys2Proof.Machine.execSpJmp c disp s
  | .spCall c disp => Sys2Proof.Machine.execSpCall c disp s
  | .spEnd c => Sys2Proof.Machine.execSpEnd c s
  | .spRet c => Sys2Proof.Machine.execSpRet c s
  | .spFence c => Sys2Proof.Machine.execSpFence c s
  | .spYield c => Sys2Proof.Machine.execSpYield c s
  | .spWait c ra => Sys2Proof.Machine.execSpWait c ra s
  | .spPost c ra rb => Sys2Proof.Machine.execSpPost c ra rb s
  | .spCond c ra rb => Sys2Proof.Machine.execSpCond c ra rb s
  | .spCondc c ra rb => Sys2Proof.Machine.execSpCondc c ra rb s
  | .spTsrd c rd n => Sys2Proof.Machine.execSpTsrd c rd n s
  | .spNop c => Sys2Proof.Machine.execSpNop c s
  | .spOhr c rd ra => Sys2Proof.Machine.execSpOhr c rd ra s
  | .spOhw c rd ra => Sys2Proof.Machine.execSpOhw c rd ra s
  | .spOhrx c rd ra => Sys2Proof.Machine.execSpOhrx c rd ra s
  | .spOhwx c rd ra => Sys2Proof.Machine.execSpOhwx c rd ra s
  | .spLi16 c rd imm => Sys2Proof.Machine.execSpLi16 c rd imm s
  | .spAddl c rd imm => Sys2Proof.Machine.execSpAddl c rd imm s
  | .spAdcl c rd imm => Sys2Proof.Machine.execSpAdcl c rd imm s
  | .spSubl c rd imm => Sys2Proof.Machine.execSpSubl c rd imm s
  | .spSbcl c rd imm => Sys2Proof.Machine.execSpSbcl c rd imm s
  | .spCmpl c rd imm => Sys2Proof.Machine.execSpCmpl c rd imm s
  | .spAndl c rd imm => Sys2Proof.Machine.execSpAndl c rd imm s
  | .spOrl c rd imm => Sys2Proof.Machine.execSpOrl c rd imm s
  | .spXorl c rd imm => Sys2Proof.Machine.execSpXorl c rd imm s
  | .spNotl c rd imm => Sys2Proof.Machine.execSpNotl c rd imm s
  | .spShll c rd imm => Sys2Proof.Machine.execSpShll c rd imm s
  | .spShrl c rd imm => Sys2Proof.Machine.execSpShrl c rd imm s
  | .spAsrl c rd imm => Sys2Proof.Machine.execSpAsrl c rd imm s
  | .spRoll c rd imm => Sys2Proof.Machine.execSpRoll c rd imm s
  | .spNegl c rd imm => Sys2Proof.Machine.execSpNegl c rd imm s
  | .spTstl c rd imm => Sys2Proof.Machine.execSpTstl c rd imm s
  | .spMul c rd ra rb signed => Sys2Proof.Machine.execSpMul c rd ra rb signed s
  | .spLdb c rd ra page disp => Sys2Proof.Machine.execSpLdb c rd ra page disp s
  | .spStb c rd ra page disp => Sys2Proof.Machine.execSpStb c rd ra page disp s
  | .spLdf c rd ra disp => Sys2Proof.Machine.execSpLdf c rd ra disp s
  | .spStf c rd ra disp => Sys2Proof.Machine.execSpStf c rd ra disp s
  | .spJmpl c target => Sys2Proof.Machine.execSpJmpl c target s
  | .spCalll c target => Sys2Proof.Machine.execSpCalll c target s
  | .spJmpr c ra imm => Sys2Proof.Machine.execSpJmpr c ra imm s
  | .spCallr c ra imm => Sys2Proof.Machine.execSpCallr c ra imm s
  | .farAccessComplete c => Sys2Proof.Machine.execFarAccessComplete c s
  | .registerWindowComplete c => Sys2Proof.Machine.execRegisterWindowComplete c s
  | .overheadReadComplete c => Sys2Proof.Machine.execOverheadReadComplete c s
  | .waitExpiry c => Sys2Proof.Machine.execWaitExpiry c s
  | .watchdogExpiry c => Sys2Proof.Machine.execWatchdogExpiry c s
  | .commitWriteBack c => Sys2Proof.Machine.execCommitWriteBack c s
  | .backingFail c => Sys2Proof.Machine.execBackingFail c s
  | .timerFire bed k => Sys2Proof.Machine.execTimerFire bed k s
  | .timerEnqueue bed k => Sys2Proof.Machine.execTimerEnqueue bed k s
  | .fail bed val => Sys2Proof.Machine.execFail bed val s
  | .bedFault bed cause => Sys2Proof.Machine.execBedFault bed cause s
  | .takeoverLoad spare => Sys2Proof.Machine.execTakeoverLoad spare s
  | .takeoverDone spare => Sys2Proof.Machine.execTakeoverDone spare s
  | .revive bed => Sys2Proof.Machine.execRevive bed s
  | .reviveSelftestEnd bed pass => Sys2Proof.Machine.execReviveSelftestEnd bed pass s
  | .queueHwmReset bed val => Sys2Proof.Machine.execQueueHwmReset bed val s
  | .noticeAgeExpiry F => Sys2Proof.Machine.execNoticeAgeExpiry F s
  | .flush F => Sys2Proof.Machine.execFlush F s
  | .flushExecute F midItem => Sys2Proof.Machine.execFlushExecute F midItem s
  | .hwmClr F => Sys2Proof.Machine.execHwmClr F s
  | .rowRoute r val => Sys2Proof.Machine.execRowRoute r val s
  | .routeChange r => Sys2Proof.Machine.execRouteChange r s
  | .unownedFurrowMove F => Sys2Proof.Machine.execUnownedFurrowMove F s
  | .ohSet r => Sys2Proof.Machine.execOhSet r s
  | .checkJobGo u => Sys2Proof.Machine.execCheckJobGo u s
  | .checkJobDone u => Sys2Proof.Machine.execCheckJobDone u s
  | .checkJobAbort u => Sys2Proof.Machine.execCheckJobAbort u s
  | .cntCfg c val => Sys2Proof.Machine.execCntCfg c val s
  | .clear c => Sys2Proof.Machine.execClear c s
  | .load c => Sys2Proof.Machine.execLoad c s
  | .clearAll => Sys2Proof.Machine.execClearAll s
  | .snapGo => Sys2Proof.Machine.execSnapGo s
  | .run val => Sys2Proof.Machine.execRun val s
  | .snapshotCopy dom => Sys2Proof.Machine.execSnapshotCopy dom s
  | .snapDone => Sys2Proof.Machine.execSnapDone s
  | .counterWrap c eng ctx pc => Sys2Proof.Machine.execCounterWrap c eng ctx pc s
  | .tagRecord bed x => Sys2Proof.Machine.execTagRecord bed x s
  | .sampleRd bed tag val => Sys2Proof.Machine.execSampleRd bed tag val s
  | .status src => Sys2Proof.Machine.execStatus src s
  | .beginImg src => Sys2Proof.Machine.execBeginImg src s
  | .block src => Sys2Proof.Machine.execBlock src s
  | .commit src => Sys2Proof.Machine.execCommit src s
  | .imageCommitDone fail wrong => Sys2Proof.Machine.execImageCommitDone fail wrong s
  | .activate src => Sys2Proof.Machine.execActivate src s
  | .abort src => Sys2Proof.Machine.execAbort src s
  | .claimExpired => Sys2Proof.Machine.execClaimExpired s
  | .confirm val => Sys2Proof.Machine.execConfirm val s
  | .confirmWindowExpiry => Sys2Proof.Machine.execConfirmWindowExpiry s
  | .rollbackNow => Sys2Proof.Machine.execRollbackNow s
  | .settingsCommit => Sys2Proof.Machine.execSettingsCommit s
  | .settingsStatus o val => Sys2Proof.Machine.execSettingsStatus o val s
  | .activationImageCopied => Sys2Proof.Machine.execActivationImageCopied s
  | .migrationFreeze => Sys2Proof.Machine.execMigrationFreeze s
  | .migrationContextCopy => Sys2Proof.Machine.execMigrationContextCopy s
  | .fallbackSpareTimeout => Sys2Proof.Machine.execFallbackSpareTimeout s
  | .powerOn => Sys2Proof.Machine.execPowerOn s
  | .railOutOfTolerance => Sys2Proof.Machine.execRailOutOfTolerance s
  | .pinReset => Sys2Proof.Machine.execPinReset s
  | .bootStart gpio => Sys2Proof.Machine.execBootStart gpio s
  | .bootStage x => Sys2Proof.Machine.execBootStage x s
  | .softReset => Sys2Proof.Machine.execSoftReset s
  | .boardRole val => Sys2Proof.Machine.execBoardRole val s
  | .laneLockChange lane locked hiBer => Sys2Proof.Machine.execLaneLockChange lane locked hiBer s
  | .alignmentBlock lanes => Sys2Proof.Machine.execAlignmentBlock lanes s
  | .heartbeatTimeout => Sys2Proof.Machine.execHeartbeatTimeout s
  | .heartbeat h role session version keeper alive => Sys2Proof.Machine.execHeartbeat h role session version keeper alive s
  | .nak h x => Sys2Proof.Machine.execNak h x s
  | .dial h echo parts => Sys2Proof.Machine.execDial h echo parts s
  | .mirror h parts whole => Sys2Proof.Machine.execMirror h parts whole s
  | .imageCmd h words => Sys2Proof.Machine.execImageCmd h words s
  | .imageRsp h words => Sys2Proof.Machine.execImageRsp h words s
  | .crcDrop h len body trailer => Sys2Proof.Machine.execCrcDrop h len body trailer s
  | .heartbeatSend => Sys2Proof.Machine.execHeartbeatSend s
  | .dialSend => Sys2Proof.Machine.execDialSend s
  | .mirrorSend => Sys2Proof.Machine.execMirrorSend s
  | .resendTimeout => Sys2Proof.Machine.execResendTimeout s
  | .qdrRetrain dev portB => Sys2Proof.Machine.execQdrRetrain dev portB s
  | .scrubRead errBytes => Sys2Proof.Machine.execScrubRead errBytes s
  | .repair => Sys2Proof.Machine.execRepair s
  | .pinErrClr dev => Sys2Proof.Machine.execPinErrClr dev s
  | .cdrLock f ps ctle => Sys2Proof.Machine.execCdrLock f ps ctle s
  | .prbsClr srd => Sys2Proof.Machine.execPrbsClr srd s
  | .i2cPointerWrite bytes => Sys2Proof.Machine.execI2cPointerWrite bytes s
  | .i2cRead => Sys2Proof.Machine.execI2cRead s
  | .returnToL0 speed width => Sys2Proof.Machine.execReturnToL0 speed width s
  | .prbsLock srd words => Sys2Proof.Machine.execPrbsLock srd words s
  | .queueUnderrun f cycles => Sys2Proof.Machine.execQueueUnderrun f cycles s
  | .overrun f => Sys2Proof.Machine.execOverrun f s
  | .outputSample k adc => Sys2Proof.Machine.execOutputSample k adc s
  | .gpioLevelChange pin level => Sys2Proof.Machine.execGpioLevelChange pin level s

end Sys2Proof.Machine
end

