-- ==== Sys2Proof/Machine/Step.lean ====
section
/-! DEFINITION. One step of the part: the command at the front of the queue, or, with none
waiting, one nanosecond of time. -/

namespace Sys2Proof.Machine

/-- The length of the tick that an idle step takes, in nanoseconds. DESIGN CHOICE (assumption 1). -/
def tickNs : Nat := 1

/-- The machine's step: the front command's effect on the state with the rest of the queue; with
an empty queue the part's own clock advances, and Inventory counts its cycles (assumptions 1, 21). -/
def step (s : State) : Host.Outcome State Fault Refusal :=
  match s.pending with
  | [] => .next (s.passTo (s.now + tickNs))
  | c :: rest => exec c { s with pending := rest }

/-- `s` with the command that the word spells put at the front of its queue.  The table of
operations gives no row any bits, so no word spells a command. -/
def State.withFetchWord (s : State) (nbits w : Nat) : State :=
  match decodeTableWord nbits w with
  | some c => { s with pending := c :: s.pending }
  | none => s

end Sys2Proof.Machine
end

