-- ==== Sys2Proof/Certificates/Slice0/Vocabulary.lean ====
section
/-! DEFINITION. The words that the statements are written in: what it is for a command to complete, which
parts of the state a command leaves alone, and the arithmetic of the Sprig instructions as the manual gives
it, on numbers. -/

namespace Sys2Proof.Cert

open Sys2Proof.Machine

/-- The command answers a next state, and `P` holds of it. -/
def completes (i : Instr) (s : State) (P : State → Prop) : Prop := ∃ t, exec i s = .next t ∧ P t

/-! ### What stays -/

/-- The parts of the state, the registers and the model's SUMMARY cycle apart. -/
inductive Part where
  | now | free | qdr | flash | top | cur | mboxes | framers | txs | active | tribs | mapOh | sinkHold | pairs
  | grants | commitRows | policy | policyPending | winStart | sdlNs | sdlFrom | refs | dials | gens | ttcs | sves
  | beds | ctxs | engines | cycles | furs | rts | twn | qdm | inv | outbox | pending
deriving DecidableEq, Repr

/-- The part is the same in both states. -/
def Part.same (p : Part) (s t : State) : Prop :=
  match p with
  | .now => t.now = s.now
  | .free => t.free = s.free
  | .qdr => t.qdr = s.qdr
  | .flash => t.flash = s.flash
  | .top => t.top = s.top
  | .cur => t.cur = s.cur
  | .mboxes => t.mboxes = s.mboxes
  | .framers => t.framers = s.framers
  | .txs => t.txs = s.txs
  | .active => t.active = s.active
  | .tribs => t.tribs = s.tribs
  | .mapOh => t.mapOh = s.mapOh
  | .sinkHold => t.sinkHold = s.sinkHold
  | .pairs => t.pairs = s.pairs
  | .grants => t.grants = s.grants
  | .commitRows => t.commitRows = s.commitRows
  | .policy => t.policy = s.policy
  | .policyPending => t.policyPending = s.policyPending
  | .winStart => t.winStart = s.winStart
  | .sdlNs => t.sdlNs = s.sdlNs
  | .sdlFrom => t.sdlFrom = s.sdlFrom
  | .refs => t.refs = s.refs
  | .dials => t.dials = s.dials
  | .gens => t.gens = s.gens
  | .ttcs => t.ttcs = s.ttcs
  | .sves => t.sves = s.sves
  | .beds => t.beds = s.beds
  | .ctxs => t.ctxs = s.ctxs
  | .engines => t.engines = s.engines
  | .cycles => t.cycles = s.cycles
  | .furs => t.furs = s.furs
  | .rts => t.rts = s.rts
  | .twn => t.twn = s.twn
  | .qdm => t.qdm = s.qdm
  | .inv => t.inv = s.inv
  | .outbox => t.outbox = s.outbox
  | .pending => t.pending = s.pending

/-- Every part but those of the list is the same. -/
def sameBut (parts : List Part) (s t : State) : Prop := ∀ p : Part, p ∉ parts → p.same s t

/-- Every register but those of `P` reads the same. -/
def regsBut (P : Nat → Prop) (s t : State) : Prop := ∀ a, ¬ P a → t.rd a = s.rd a

/-- The registers that counting may change: whatever happens may be counted, and a counter that wraps sets its flag and
an event and is reported from source 98 (R317, R323): the counters of Inventory, INV_EVENTS, SUMMARY of Inventory, and
of Curator SUMMARY, CUR_EVENTS, the count of dropped reports, and the two registers of source 98. -/
def counting (a : Nat) : Prop :=
  (0x32000 ≤ a ∧ a < 0x34B00) ∨ a = invA 0x108 ∨ a = invA 8 ∨ a = srcA 98 0x0C ∨ a = srcA 98 0x14 ∨ a = curA 0x130 ∨
    a = curA 0x104 ∨ a = curA 8

/-- The registers that reports may change besides: those of Curator (R286, R287). -/
def reporting (a : Nat) : Prop := counting a ∨ 0x20000 ≤ a ∧ a < 0x30000

/-- Every part but those of the list, and but what counting and reporting change, is the same. -/
def keeps (parts : List Part) (s t : State) : Prop := sameBut (.cur :: .inv :: parts) s t

/-- No counter of Inventory counts. -/
def uncounted (s : State) : Prop := ∀ n, s.cntOn n = false

/-! ### Sprig instructions -/

/-- Two contexts with the same registers and the same everything else. -/
def sameCtx (x y : Ctx) : Prop := (∀ i, x.reg i = y.reg i) ∧ { x with w := [] } = { y with w := [] }

/-- Of everything that may happen to context `c` between its instructions, only that context differs. -/
structure OnlyCtx (c : CtxId) (s t : State) : Prop where
  parts : sameBut [.ctxs] s t
  regs : t.regs = s.regs
  others : ∀ k, k ≠ keyOf c → t.ctx k = s.ctx k

/-- The instruction has taken the slot of its engine in the cycle in which it issued, and the part's clock stands there;
no other engine and no other bed's cycle has moved (R195, R242; assumption 26). -/
structure SlotTaken (i : Instr) (c : CtxId) (s t : State) : Prop where
  clock : s.issueCycle c i = some t.now
  turn : (t.engine (keyOf c / 4)).last = c.ctx.val
  engines : ∀ g, g ≠ keyOf c / 4 → t.engine g = s.engine g
  cycles : ∀ b, b ≠ c.bed.val → t.cycle b = s.cycle b

/-- Every part but those of the list, the slot, and what counting and reporting change, is the same. -/
def issueKeeps (i : Instr) (c : CtxId) (parts : List Part) (s t : State) : Prop :=
  SlotTaken i c s t ∧ keeps (.now :: .engines :: .cycles :: parts) s t

/-- Of everything an instruction of context `c` may change, only that context, the slot and the counts differ. -/
structure OnlyIssue (i : Instr) (c : CtxId) (s t : State) : Prop where
  parts : issueKeeps i c [.ctxs] s t
  regs : regsBut counting s t
  others : ∀ k, k ≠ keyOf c → t.ctx k = s.ctx k
  quiet : uncounted s →
    t = ((((s.setNow t.now).setEngines t.engines).setCycles t.cycles).setCtx (keyOf c) (t.ctx (keyOf c))).setSumCycle []

/-- The instruction completes, context `c` is then `y`, and nothing else has changed. -/
def leads (i : Instr) (c : CtxId) (s : State) (y : Ctx) : Prop :=
  completes i s (fun t => sameCtx (t.ctx (keyOf c)) y ∧ OnlyIssue i c s t)

/-- What context `c` waited for has come: the context is then `y`, and nothing else has changed. -/
def resumes (i : Instr) (c : CtxId) (s : State) (y : Ctx) : Prop :=
  completes i s (fun t => sameCtx (t.ctx (keyOf c)) y ∧ OnlyCtx c s t)

/-- A context past an instruction of `n` words (R222, R319). -/
def past (x : Ctx) (n : Nat) : Ctx := { x with pc := x.pc + BitVec.ofNat 15 n, issued := x.issued + 1 }

/-- A context at address `a` after an instruction that jumps (R222, R319). -/
def jumped (x : Ctx) (a : BitVec 15) : Ctx := { x with pc := a, issued := x.issued + 1 }

/-- What an arithmetic instruction leaves: a result, if it writes one, and the four flags. -/
structure Out where
  result : Option Nat
  z : Bool
  n : Bool
  c : Bool
  v : Bool

/-- A 16-bit number as a signed one. -/
def signed16 (a : Nat) : Int := if a < 32768 then a else (a : Int) - 65536

/-- A signed number outside 16 bits. -/
def overflows (i : Int) : Bool := decide (i < -32768 ∨ 32767 < i)

def zero16 (r : Nat) : Bool := decide (r % 65536 = 0)
def minus16 (r : Nat) : Bool := decide (32768 ≤ r % 65536)

/-- a + b + carry (R225, R226). -/
def sumOut (a b carry : Nat) : Out :=
  { result := some ((a + b + carry) % 65536), z := zero16 (a + b + carry), n := minus16 (a + b + carry),
    c := decide (65536 ≤ a + b + carry), v := overflows (signed16 a + signed16 b + carry) }

/-- a − b − borrow (R225, R226). -/
def diffOut (a b borrow : Nat) : Out :=
  let r := a + 131072 - b - borrow
  { result := some (r % 65536), z := zero16 r, n := minus16 r, c := decide (b + borrow ≤ a),
    v := overflows (signed16 a - signed16 b - borrow) }

/-- A result that sets Z and N and leaves C and V (R225, R226). -/
def logicOut (x : Ctx) (r : Nat) : Out := { result := some r, z := zero16 r, n := minus16 r, c := x.c, v := x.v }

/-- A shift or rotate: C is the last bit out, V is 0 (R226). -/
def shiftOut (r : Nat) (out : Bool) : Out := { result := some (r % 65536), z := zero16 r, n := minus16 r, c := out, v := false }

/-- The sixteen functions of R226 on rd's value `a` and the operand `b`. -/
def aluOut (f : Alu) (x : Ctx) (a b : Nat) : Out :=
  let k := b % 16
  match f with
  | .mov => logicOut x b
  | .add => sumOut a b 0
  | .adc => sumOut a b x.c.toNat
  | .sub => diffOut a b 0
  | .sbc => diffOut a b (1 - x.c.toNat)
  | .cmp => { diffOut a b 0 with result := none }
  | .and => logicOut x (Nat.land a b)
  | .or => logicOut x (Nat.lor a b)
  | .xor => logicOut x (Nat.xor a b)
  | .not => logicOut x (65535 - b)
  | .shl => shiftOut (a * 2 ^ k) (a * 2 ^ k / 65536 % 2 == 1)
  | .shr => shiftOut (a / 2 ^ k) (k != 0 && a / 2 ^ (k - 1) % 2 == 1)
  | .asr => shiftOut ((signed16 a / (2 ^ k : Nat)) % 65536).toNat (k != 0 && a / 2 ^ (k - 1) % 2 == 1)
  | .rol => shiftOut (a * 2 ^ k + a / 2 ^ (16 - k)) (k != 0 && (a / 2 ^ (16 - k)) % 2 == 1)
  | .neg => diffOut 0 b 0
  | .tst => { logicOut x (Nat.land a b) with result := none }

/-- A context after an arithmetic instruction of `n` words with destination rd. -/
def Out.into (o : Out) (x : Ctx) (rd : BitVec 4) (n : Nat) : Ctx :=
  let y := match o.result with
    | some r => x.setReg rd (BitVec.ofNat 16 r)
    | none => x
  past { y with z := o.z, n := o.n, c := o.c, v := o.v } n

/-- The instruction of a function in its short form, on registers (R226). -/
def aluShort (f : Alu) (c : CtxId) (rd ra : BitVec 4) : Instr :=
  match f with
  | .mov => .spMov c rd ra
  | .add => .spAdd c rd ra
  | .adc => .spAdc c rd ra
  | .sub => .spSub c rd ra
  | .sbc => .spSbc c rd ra
  | .cmp => .spCmp c rd ra
  | .and => .spAnd c rd ra
  | .or => .spOr c rd ra
  | .xor => .spXor c rd ra
  | .not => .spNot c rd ra
  | .shl => .spShl c rd ra
  | .shr => .spShr c rd ra
  | .asr => .spAsr c rd ra
  | .rol => .spRol c rd ra
  | .neg => .spNeg c rd ra
  | .tst => .spTst c rd ra

/-- The instruction of a function in its long form, with an immediate of 16 bits (R239). -/
def aluLong (f : Alu) (c : CtxId) (rd : BitVec 4) (imm : Half) : Instr :=
  match f with
  | .mov => .spLi16 c rd imm
  | .add => .spAddl c rd imm
  | .adc => .spAdcl c rd imm
  | .sub => .spSubl c rd imm
  | .sbc => .spSbcl c rd imm
  | .cmp => .spCmpl c rd imm
  | .and => .spAndl c rd imm
  | .or => .spOrl c rd imm
  | .xor => .spXorl c rd imm
  | .not => .spNotl c rd imm
  | .shl => .spShll c rd imm
  | .shr => .spShrl c rd imm
  | .asr => .spAsrl c rd imm
  | .rol => .spRoll c rd imm
  | .neg => .spNegl c rd imm
  | .tst => .spTstl c rd imm

/-- A signed displacement or immediate as a number modulo 2^16 (R223). -/
def simm16 (i : Byte) : Nat := if i.toNat < 128 then i.toNat else i.toNat + 65280

/-- The conditional branches with what each tests (R225, R233). -/
def branches (c : CtxId) (x : Ctx) : List ((Byte → Instr) × Bool) :=
  [(.spBr c, true), (.spBz c, x.z), (.spBnz c, !x.z), (.spBcy c, x.c), (.spBncy c, !x.c), (.spBugt c, x.c && !x.z),
   (.spBule c, !x.c || x.z), (.spBsge c, x.n == x.v), (.spBslt c, x.n != x.v), (.spBsgt c, !x.z && (x.n == x.v)),
   (.spBsle c, x.z || (x.n != x.v)), (.spBneg c, x.n), (.spBpos c, !x.n), (.spBov c, x.v), (.spBnov c, !x.v)]

/-- What instruction `i` on furrow `F` leaves alone (R231). -/
def FurrowOnly (i : Instr) (c : CtxId) (F : Nat) (s t : State) : Prop :=
  issueKeeps i c [.ctxs, .furs] s t ∧ regsBut counting s t ∧ (∀ k, k ≠ keyOf c → t.ctx k = s.ctx k) ∧
    (∀ G, G ≠ F → t.fur G = s.fur G)

/-- What the model keeps of every context: it is bound to one of the bed's 64 channel contexts or to none (R202), and
its open items have at most 255 words (R232). -/
def ContextsOk (s : State) : Prop :=
  ∀ k, (∀ ch, (s.ctx k).bound = some ch → ch < 64) ∧
    ∀ g h ws, Tab.get (s.ctx k).opens none g = some (h, ws) → ws.length ≤ 255

/-- A context is idle: it holds no handler, owns no furrow and holds no semaphore (R204, R205). -/
def Released (c : CtxId) (t : State) : Prop :=
  (t.ctx (keyOf c)).active = false ∧ (∀ F, F < 64 → (t.fur F).owner ≠ keyOf c + 1) ∧
    ∀ k, Tab.get (t.bed c.bed.val).sems 0 k ≠ keyOf c + 1

/-! ### The host interface -/

/-- A host write to the register at `a` outside TOP acts: the host reaches the part, and the block is out of reset
(R263, R267). -/
def hostAt (s : State) (a : Nat) : Prop := s.hostReaches = true ∧ 0x10000 ≤ a ∧ s.inReset a = false

/-- A write of either origin acts on the register at `a` outside TOP (R201, R263, R267, R274). -/
def reaches (o : Origin) (s : State) (a : Nat) : Prop :=
  match o with
  | .host => hostAt s a
  | .program b => s.enginesRun = true ∧ s.winPermits b.val a = true ∧ guarded a = false ∧ s.inReset a = false ∧ 0x10000 ≤ a

/-- Registers that only hold what is written to them: those of the Cellar, of the transmit framers less FORMAT, of the
controller of QDR less its commands, and of the beds less BED_CTRL and QUEUE_HWM. -/
def plainBlock (a : Nat) : Prop :=
  ∃ inst base, blockOf a = some (.cel, inst, base) ∨
    (blockOf a = some (.ltx, inst, base) ∨ blockOf a = some (.stx, inst, base)) ∧ a - base ≠ 0x100 ∨
    blockOf a = some (.qdm, inst, base) ∧ a - base < 0x1000 ∧ a - base ≠ 0x114 ∨
    blockOf a = some (.bed, inst, base) ∧ a - base ≠ 0x100 ∧ a - base ≠ 0x15C

/-- HIF has reported a fault of kind 0x80 + `k` about `d`: its event bit, its count, and LAST_FAULT (R282, R283). -/
def hifReported (k d : Nat) (s t : State) : Prop :=
  t.bit (hifA 0x104) k = true ∧ t.nat (hifA (0x10C + 4 * k)) = (s.nat (hifA (0x10C + 4 * k)) + 1) % 2 ^ 32 ∧
    t.nat (hifA 0x120) = d

/-! ### Rootstock and the twin link -/

/-- Rootstock takes the command at the head of its queue, when it can serve it. -/
def RtsHead (s : State) (src : Source) (op : Nat) (ws : List Word) (rest : List (Source × List Word)) : Prop :=
  s.rts.queue = (src, ws) :: rest ∧ cmdOp ws = op ∧ s.rtsServes op = true

/-- A frame whose count is new (R360). -/
def FreshCount (s : State) (h : TwinHdr) : Prop :=
  ∀ last, s.twn.unrelRx = some last → 0 < (h.seq.toNat + 65536 - last) % 65536 ∧
    (h.seq.toNat + 65536 - last) % 65536 < 32768

/-! ### The invariant -/

/-- What every step keeps, in every state: see StepKeepsInvariant. -/
structure StateOk (s : State) : Prop where
  qdr : Memory.wf qdrEmpty s.qdr = true
  flash : Memory.wf flashEmpty s.flash = true
  ctxs : ContextsOk s

end Sys2Proof.Cert
end

