-- ==== Sys2Proof/Certificates/Slice0/Obligations.lean ====
section
/-! DEFINITION. The statements about the SV-8192 that are to be proved. -/

open Sys2Proof Sys2Proof.Machine Sys2Proof.Cert

/-! ### Sprig instructions (R222 to R241) -/

/-- The sixteen functions of R226 between two registers: result, flags, PC, and nothing else. -/
def Obligations.SprigRegisterArithmetic : Prop :=
  ∀ (f : Alu) (c : CtxId) (rd ra : BitVec 4) (s : State), s.issues c (aluShort f c rd ra) = true →
    leads (aluShort f c rd ra) c s
      ((aluOut f (s.ctx (keyOf c)) ((s.ctx (keyOf c)).reg rd).toNat ((s.ctx (keyOf c)).reg ra).toNat).into
        (s.ctx (keyOf c)) rd 1)

/-- The same functions with an immediate of 16 bits, in two words (R239, sub-op 0). -/
def Obligations.SprigLongArithmetic : Prop :=
  ∀ (f : Alu) (c : CtxId) (rd : BitVec 4) (imm : Half) (s : State), s.issues c (aluLong f c rd imm) = true →
    leads (aluLong f c rd imm) c s
      ((aluOut f (s.ctx (keyOf c)) ((s.ctx (keyOf c)).reg rd).toNat imm.toNat).into (s.ctx (keyOf c)) rd 2)

/-- ADDI, MOVI, MOVHI and CMPI (R227) and the product of R239. -/
def Obligations.SprigImmediatesAndProduct : Prop :=
  ∀ (c : CtxId) (s : State), let x := s.ctx (keyOf c)
    (∀ rd imm, s.issues c (.spAddi c rd imm) = true →
      leads (.spAddi c rd imm) c s ((sumOut (x.reg rd).toNat (simm16 imm) 0).into x rd 1)) ∧
    (∀ rd imm, s.issues c (.spMovi c rd imm) = true →
      leads (.spMovi c rd imm) c s (past (x.setReg rd (BitVec.ofNat 16 imm.toNat)) 1)) ∧
    (∀ rd imm, s.issues c (.spMovhi c rd imm) = true →
      leads (.spMovhi c rd imm) c s
        (past (x.setReg rd (BitVec.ofNat 16 (imm.toNat * 256 + (x.reg rd).toNat % 256))) 1)) ∧
    (∀ rd imm, s.issues c (.spCmpi c rd imm) = true →
      leads (.spCmpi c rd imm) c s
        (Out.into { diffOut (x.reg rd).toNat (simm16 imm) 0 with result := none } x rd 1)) ∧
    (∀ rd ra rb, s.issues c (.spMul c rd ra rb false) = true →
      let p := (x.reg ra).toNat * (x.reg rb).toNat
      leads (.spMul c rd ra rb false) c s
        (past { (x.setReg rd (BitVec.ofNat 16 p)).setReg (rd + 1) (BitVec.ofNat 16 (p / 65536)) with
                  z := decide (p = 0), n := decide (2 ^ 31 ≤ p), c := false, v := false } 2)) ∧
    (∀ rd ra rb, s.issues c (.spMul c rd ra rb true) = true →
      let p := signed16 (x.reg ra).toNat * signed16 (x.reg rb).toNat
      leads (.spMul c rd ra rb true) c s
        (past { (x.setReg rd (BitVec.ofInt 16 p)).setReg (rd + 1) (BitVec.ofInt 16 (p / 65536)) with
                  z := decide (p = 0), n := decide (p < 0), c := false, v := false } 2))

/-- The bit-field instructions (R229): the bit written or tested, the field of W15 extracted or inserted, cut at
bit 15. -/
def Obligations.SprigBitFields : Prop :=
  ∀ (c : CtxId) (rd x4 : BitVec 4) (s : State), let x := s.ctx (keyOf c)
    let p := (x.reg 15).toNat % 16
    let w := (x.reg 15).toNat / 16 % 16 + 1
    let b := (x.reg x4).toNat % 16
    let putBit := fun (b : Nat) (v : Bool) (y : Half) =>
      ∀ j, j < 16 → y.getLsbD j = if j = b then v else (x.reg rd).getLsbD j
    (s.issues c (.spBset c rd x4) = true →
      ∃ y, putBit x4.toNat true y ∧ leads (.spBset c rd x4) c s (past (x.setReg rd y) 1)) ∧
    (s.issues c (.spBclr c rd x4) = true →
      ∃ y, putBit x4.toNat false y ∧ leads (.spBclr c rd x4) c s (past (x.setReg rd y) 1)) ∧
    (s.issues c (.spBtst c rd x4) = true →
      leads (.spBtst c rd x4) c s (past { x with z := !(x.reg rd).getLsbD x4.toNat } 1)) ∧
    (s.issues c (.spBsetr c rd x4) = true →
      ∃ y, putBit b true y ∧ leads (.spBsetr c rd x4) c s (past (x.setReg rd y) 1)) ∧
    (s.issues c (.spBclrr c rd x4) = true →
      ∃ y, putBit b false y ∧ leads (.spBclrr c rd x4) c s (past (x.setReg rd y) 1)) ∧
    (s.issues c (.spBtstr c rd x4) = true →
      leads (.spBtstr c rd x4) c s (past { x with z := !(x.reg rd).getLsbD b } 1)) ∧
    (s.issues c (.spExt c rd x4) = true →
      ∃ y : Half, (∀ j, j < 16 → y.getLsbD j = (decide (j < w) && (x.reg x4).getLsbD (p + j))) ∧
        leads (.spExt c rd x4) c s
          (past { x.setReg rd y with z := decide (y = 0), n := y.getLsbD 15 } 1)) ∧
    (s.issues c (.spIns c rd x4) = true →
      ∃ y : Half, (∀ j, j < 16 → y.getLsbD j =
          if p ≤ j ∧ j < p + w then (x.reg x4).getLsbD (j - p) else (x.reg rd).getLsbD j) ∧
        leads (.spIns c rd x4) c s (past (x.setReg rd y) 1))

/-- BIP8, PAR, POPC and the saturating counts (R230). -/
def Obligations.SprigParityAndCounts : Prop :=
  ∀ (c : CtxId) (rd ra : BitVec 4) (s : State), let x := s.ctx (keyOf c)
    let a := x.reg rd
    let b := x.reg ra
    let n := ((List.range 16).filter (fun j => b.getLsbD j)).length
    let result := fun (y : Half) => past { x.setReg rd y with z := decide (y = 0) } 1
    let saturated := fun (t : Nat) =>
      past { x.setReg rd (BitVec.ofNat 16 (min t 65535)) with c := decide (65535 < t) } 1
    (s.issues c (.spBip8 c rd ra) = true →
      ∃ y : Half, (∀ j, j < 16 → y.getLsbD j =
          (decide (j < 8) && Bool.xor (a.getLsbD j) (Bool.xor (b.getLsbD (j + 8)) (b.getLsbD j)))) ∧
        leads (.spBip8 c rd ra) c s (result y)) ∧
    (s.issues c (.spPar c rd ra) = true → leads (.spPar c rd ra) c s (result (BitVec.ofNat 16 (n % 2)))) ∧
    (s.issues c (.spPopc c rd ra) = true → leads (.spPopc c rd ra) c s (result (BitVec.ofNat 16 n))) ∧
    (s.issues c (.spSinc c rd) = true → leads (.spSinc c rd) c s (saturated (a.toNat + 1))) ∧
    (s.issues c (.spSadd c rd ra) = true → leads (.spSadd c rd ra) c s (saturated (a.toNat + b.toNat)))

/-- The check instructions (R230): the byte forms step the check by W(ra)[7:0], the word forms by [15:8] and then
[7:0], on a register, a pair or a quadruple; Z is 1 when the whole state is zero. -/
def Obligations.SprigCheckSteps : Prop :=
  ∀ (c : CtxId) (rd ra : BitVec 4) (s : State), let x := s.ctx (keyOf c)
    let lo : Byte := BitVec.ofNat 8 (x.reg ra).toNat
    let hi : Byte := BitVec.ofNat 8 ((x.reg ra).toNat / 256)
    let one := fun (r : Half) => past { x.setReg rd r with z := decide (r = 0) } 1
    let two := fun (r : BitVec 32) => past { (x.setReg rd (BitVec.ofNat 16 r.toNat)).setReg (rd + 1)
      (BitVec.ofNat 16 (r.toNat / 2 ^ 16)) with z := decide (r = 0) } 1
    let four := fun (r : BitVec 64) => past { (((x.setReg rd (BitVec.ofNat 16 r.toNat)).setReg (rd + 1)
      (BitVec.ofNat 16 (r.toNat / 2 ^ 16))).setReg (rd + 2) (BitVec.ofNat 16 (r.toNat / 2 ^ 32))).setReg (rd + 3)
      (BitVec.ofNat 16 (r.toNat / 2 ^ 48)) with z := decide (r = 0) } 1
    let pair : BitVec 32 := BitVec.ofNat 32 ((x.reg rd).toNat + (x.reg (rd + 1)).toNat * 2 ^ 16)
    let quad : BitVec 64 := BitVec.ofNat 64 ((x.reg rd).toNat + (x.reg (rd + 1)).toNat * 2 ^ 16 +
      (x.reg (rd + 2)).toNat * 2 ^ 32 + (x.reg (rd + 3)).toNat * 2 ^ 48)
    (s.issues c (.spCrc16b c rd ra) = true → leads (.spCrc16b c rd ra) c s (one (crc16Byte (x.reg rd) lo))) ∧
    (s.issues c (.spCrc16w c rd ra) = true →
      leads (.spCrc16w c rd ra) c s (one (crc16Byte (crc16Byte (x.reg rd) hi) lo))) ∧
    (s.issues c (.spCrc32b c rd ra) = true → leads (.spCrc32b c rd ra) c s (two (crc32Byte pair lo))) ∧
    (s.issues c (.spCrc32w c rd ra) = true →
      leads (.spCrc32w c rd ra) c s (two (crc32Byte (crc32Byte pair hi) lo))) ∧
    (s.issues c (.spCrc32cb c rd ra) = true → leads (.spCrc32cb c rd ra) c s (two (crc32cByte pair lo))) ∧
    (s.issues c (.spCrc32cw c rd ra) = true →
      leads (.spCrc32cw c rd ra) c s (two (crc32cByte (crc32cByte pair hi) lo))) ∧
    (s.issues c (.spCrc64b c rd ra) = true → leads (.spCrc64b c rd ra) c s (four (crc64Byte quad lo))) ∧
    (s.issues c (.spCrc64w c rd ra) = true →
      leads (.spCrc64w c rd ra) c s (four (crc64Byte (crc64Byte quad hi) lo)))

/-- A branch whose condition holds goes to (A + 1 + simm8) mod 2^15, another to the next word (R225, R233). -/
def Obligations.SprigBranches : Prop :=
  ∀ (c : CtxId) (d : Byte) (s : State), let x := s.ctx (keyOf c)
    ∀ b ∈ branches c x, s.issues c (b.1 d) = true →
      leads (b.1 d) c s (if b.2 then jumped x (BitVec.ofInt 15 (x.pc.toNat + 1 + d.toInt)) else past x 1)

/-- Jumps, calls and RET (R233, R234, R239): the target, the address pushed, the address popped. -/
def Obligations.SprigJumpsAndCalls : Prop :=
  ∀ (c : CtxId) (s : State), let x := s.ctx (keyOf c)
    let rel := fun (d : BitVec 11) => BitVec.ofInt 15 (x.pc.toNat + 1 + d.toInt)
    let reg := fun (ra : BitVec 4) (imm : Half) => BitVec.ofNat 15 ((x.reg ra).toNat + imm.toNat)
    let call := fun (n : Nat) (t : BitVec 15) => { jumped x t with stack := (x.pc + BitVec.ofNat 15 n) :: x.stack }
    (∀ d, s.issues c (.spJmp c d) = true → leads (.spJmp c d) c s (jumped x (rel d))) ∧
    (∀ t, s.issues c (.spJmpl c t) = true → leads (.spJmpl c t) c s (jumped x t)) ∧
    (∀ ra i, s.issues c (.spJmpr c ra i) = true → leads (.spJmpr c ra i) c s (jumped x (reg ra i))) ∧
    (x.stack.length < 8 →
      (∀ d, s.issues c (.spCall c d) = true → leads (.spCall c d) c s (call 1 (rel d))) ∧
      (∀ t, s.issues c (.spCalll c t) = true → leads (.spCalll c t) c s (call 2 t)) ∧
      (∀ ra i, s.issues c (.spCallr c ra i) = true → leads (.spCallr c ra i) c s (call 2 (reg ra i)))) ∧
    (∀ t rest, x.stack = t :: rest → s.issues c (.spRet c) = true →
      leads (.spRet c) c s { jumped x t with stack := rest })

/-- Local scratch (R197, R228): a store up to word 1,023 is kept for the handler, a load answers the word that the
handler stored there. -/
def Obligations.SprigLocalScratch : Prop :=
  ∀ (c : CtxId) (rd ra d : BitVec 4) (s : State), let x := s.ctx (keyOf c)
    let a := (x.reg ra).toNat + d.toNat
    a ≤ 1023 →
    (s.issues c (.spStl c rd ra d) = true →
      leads (.spStl c rd ra d) c s (past { x with scratch := Tab.set x.scratch none a (some (x.reg rd)) } 1)) ∧
    (s.issues c (.spLdl c rd ra d) = true →
      ∃ v, (∀ u, Tab.get x.scratch none a = some u → v = u) ∧ leads (.spLdl c rd ra d) c s (past (x.setReg rd v) 1))

/-- The context window (R228): word W(ra) + disp of the bound context, 512 words of it, is loaded, or stored with its
line marked dirty. -/
def Obligations.SprigContextWindow : Prop :=
  ∀ (c : CtxId) (rd ra : BitVec 4) (d : BitVec 3) (s : State) (k : Nat), let x := s.ctx (keyOf c)
    let b := c.bed.val
    let a := (x.reg ra).toNat + d.toNat
    let w := 512 * k + a
    x.bound = some k → k < 64 → a ≤ 511 →
    (s.issues c (.spLdc c rd ra d) = true →
      leads (.spLdc c rd ra d) c s (past (x.setReg rd (s.ctxWord b w)) 1)) ∧
    (s.issues c (.spStc c rd ra d) = true →
      completes (.spStc c rd ra d) s (fun t =>
        sameCtx (t.ctx (keyOf c)) (past x 1) ∧ t.ctxWord b w = x.reg rd ∧
        (∀ v, v < 32768 → v ≠ w → t.ctxWord b v = s.ctxWord b v) ∧
        t.bit (bedA b (0x1600 + 4 * k)) 1 = true ∧ (Tab.get (t.bed b).dirty 0 k).testBit (a / 32) = true ∧
        (∀ j, j ≠ k → Tab.get (t.bed b).dirty 0 j = Tab.get (s.bed b).dirty 0 j) ∧
        regsBut (fun r => counting r ∨ r = bedA b (0x80000 + w / 2 * 4) ∨ r = bedA b (0x1600 + 4 * k)) s t ∧
        issueKeeps (.spStc c rd ra d) c [.ctxs, .beds] s t ∧ (∀ j, j ≠ keyOf c → t.ctx j = s.ctx j) ∧
        (∀ j, j ≠ b → t.bed j = s.bed j)))

/-- Loads from the bed address space (R198, R240), by the region of the address; in the cycle `n` of its issue a load sees
what a word held before the stores of that cycle (R242). -/
def Obligations.SprigBedLoads : Prop :=
  ∀ (c : CtxId) (rd ra page : BitVec 4) (disp : BitVec 12) (s : State),
    let x := s.ctx (keyOf c)
    let b := c.bed.val
    let i := Instr.spLdb c rd ra page disp
    let a := page.toNat * 65536 + ((x.reg ra).toNat + disp.toNat) % 65536
    let gives := fun (v : Half) => leads i c s (past (x.setReg rd v) 2)
    ∀ n, s.issues c i = true → s.issueCycle c i = some n →
    let seen := fun (v : Half) => if (s.cycle b).upTo = n + 1 then (Tab.get (s.cycle b).before none a).getD v else v
    let usec := (n - (s.bed b).startedAt) / 1000
    (a < 0x10000 → gives (seen (s.sharedWord b a))) ∧
    (0x10000 ≤ a → a < 0x18000 → gives (seen (s.ctxWord b (a - 0x10000)))) ∧
    (0x20000 ≤ a → a < 0x28000 → gives (s.progWord b (a - 0x20000))) ∧
    (a = 0x30000 → leads i c s
      (past { x.setReg rd (BitVec.ofNat 16 usec) with usecLatch := BitVec.ofNat 16 (usec / 65536) } 2)) ∧
    (a = 0x30001 → gives x.usecLatch) ∧
    (a = 0x30002 → gives (BitVec.ofNat 16 (s.lbed b + 16 * c.eng.val + 4096 * c.ctx.val))) ∧
    (a = 0x30010 → gives (BitVec.ofNat 16 x.page.toNat)) ∧
    (0x30800 ≤ a → a < 0x31000 → (a - 0x30800) % 4 = 0 →
      gives (seen (Tab.get (s.bed b).timers Timer.init ((a - 0x30800) / 4)).lo)) ∧
    (0x40000 ≤ a → a < 0x40800 → a % 2 = 1 → gives x.winLatch) ∧
    (0x40000 ≤ a → a < 0x40800 → a % 2 = 0 →
      s.winPermits b (x.page.toNat * 4096 + (a - 0x40000) / 2 * 4) = true →
      leads i c s { past x 2 with wait := .winRead (x.page.toNat * 4096 + (a - 0x40000) / 2 * 4) rd.toNat }) ∧
    (0x40800 ≤ a ∨ 0x18000 ≤ a ∧ a < 0x20000 ∨ 0x28000 ≤ a ∧ a < 0x30000 → gives 0)

/-- Semaphores (R200): a load of a free one takes it and answers 1, of a held one answers 0, a store frees it.  What a
handler holds at END, at the end of its commit, or at an abort that does not bring a bed fault with it, is freed and
counted in SEM_LEAK; every other semaphore stays. -/
def Obligations.SprigSemaphores : Prop :=
  ∀ (c : CtxId) (rd ra page : BitVec 4) (disp : BitVec 12) (s : State) (k : Nat),
    let x := s.ctx (keyOf c)
    let b := c.bed.val
    let sems := (s.bed b).sems
    k < 64 → page.toNat * 65536 + ((x.reg ra).toNat + disp.toNat) % 65536 = 0x30040 + k →
    (s.issues c (.spLdb c rd ra page disp) = true → Tab.get sems 0 k ≠ 0 →
      leads (.spLdb c rd ra page disp) c s (past (x.setReg rd 0) 2)) ∧
    (s.issues c (.spLdb c rd ra page disp) = true → Tab.get sems 0 k = 0 →
      completes (.spLdb c rd ra page disp) s (fun t =>
        sameCtx (t.ctx (keyOf c)) (past (x.setReg rd 1) 2) ∧
        t.bed b = { s.bed b with sems := Tab.set sems 0 k (keyOf c + 1) } ∧ (∀ j, j ≠ b → t.bed j = s.bed j) ∧
        regsBut counting s t ∧ issueKeeps (.spLdb c rd ra page disp) c [.ctxs, .beds] s t)) ∧
    (s.issues c (.spStb c rd ra page disp) = true →
      completes (.spStb c rd ra page disp) s (fun t =>
        sameCtx (t.ctx (keyOf c)) (past x 2) ∧
        t.bed b = { s.bed b with sems := Tab.set sems 0 k 0 } ∧ (∀ j, j ≠ b → t.bed j = s.bed j) ∧
        regsBut counting s t ∧ issueKeeps (.spStb c rd ra page disp) c [.ctxs, .beds] s t)) ∧
    (let me := keyOf c + 1
     let freed := fun (t : State) =>
       (∀ j, Tab.get (t.bed b).sems 0 j ≠ me ∧
         (Tab.get sems 0 j ≠ me → Tab.get (t.bed b).sems 0 j = Tab.get sems 0 j)) ∧
       t.nat (bedA b 0x154) = (s.nat (bedA b 0x154) + (sems.filter (fun e => e.2 == me)).length) % 2 ^ 32
     ContextsOk s →
     (s.issues c (.spEnd c) = true → x.winWrites = [] → s.dirtyLines (keyOf c) = false →
       (x.ev.kind ≠ 0 ∨ (s.bed b).move = none) → completes (.spEnd c) s freed) ∧
     (s.enginesRun = true → x.active = true → x.wait = .commit → x.winWrites = [] → s.qdrUp = true →
       (x.ev.kind ≠ 0 ∨ (s.bed b).move = none) → completes (.commitWriteBack c) s freed) ∧
     (s.enginesRun = true → x.active = true → x.wait ≠ .commit → x.started + x.limitNs ≤ s.now → x.ev.kind ≠ 0 →
       s.fld (bedA b 0x104) 13 8 < max 1 (s.fld (bedA b 0x110) 13 8) → completes (.watchdogExpiry c) s freed))

/-- Stores to the bed address space (R198, R201, R210, R240), issued in cycle `n`: shared memory, REG_PAGE, a timer that is
not due, the two halves of a register-window write. -/
def Obligations.SprigBedStores : Prop :=
  ∀ (c : CtxId) (rd ra page : BitVec 4) (disp : BitVec 12) (s : State),
    let x := s.ctx (keyOf c)
    let b := c.bed.val
    let v := x.reg rd
    let i := Instr.spStb c rd ra page disp
    let a := page.toNat * 65536 + ((x.reg ra).toNat + disp.toNat) % 65536
    let r := x.page.toNat * 4096 + (a - 0x40000) / 2 * 4
    ∀ n, s.issues c i = true → s.issueCycle c i = some n →
    (a < 0x10000 → completes i s (fun t =>
      sameCtx (t.ctx (keyOf c)) (past x 2) ∧ t.sharedWord b a = v ∧
      (∀ w, w < 65536 → w ≠ a → t.sharedWord b w = s.sharedWord b w) ∧
      regsBut (fun q => counting q ∨ q = bedA b (0x60000 + a / 2 * 4)) s t ∧ issueKeeps i c [.ctxs] s t)) ∧
    (a = 0x30010 → leads i c s (past { x with page := BitVec.ofNat 14 v.toNat } 2)) ∧
    (a = 0x30011 → leads i c s (past x 2)) ∧
    (let k := (a - 0x30800) / 4
     let was := Tab.get (s.bed b).timers Timer.init k
     0x30800 ≤ a → a < 0x31000 → (∀ e, was.armed = some e → (s.setNow n).timerDue b e.1 = false) → completes i s (fun t =>
      let tm := Tab.get (t.bed b).timers Timer.init k
      sameCtx (t.ctx (keyOf c)) (past x 2) ∧
      (a % 4 = 0 → tm = { was with lo := v, armed := none }) ∧
      (a % 4 = 1 → tm = { was with hi := v }) ∧
      (a % 4 = 2 → tm = { was with word2 := BitVec.ofNat 16 (v.toNat % 256 + v.toNat / 32768 * 32768) }) ∧
      (a % 4 = 3 → tm = { was with arg := v, armed := some (was.hi.toNat * 65536 + was.lo.toNat, was.word2, v) }) ∧
      (∀ j, j ≠ k → Tab.get (t.bed b).timers Timer.init j = Tab.get (s.bed b).timers Timer.init j) ∧
      regsBut counting s t ∧ issueKeeps i c [.ctxs, .beds] s t)) ∧
    (0x40000 ≤ a → a < 0x40800 → a % 2 = 0 → leads i c s (past { x with winBuf := v } 2)) ∧
    (0x40000 ≤ a → a < 0x40800 → a % 2 = 1 → s.winPermits b r = true → guarded r = false →
      leads i c s (past { x with winWrites := x.winWrites ++
        [(r, BitVec.ofNat 32 (v.toNat * 65536 + x.winBuf.toNat))] } 2))

/-- The reading instructions on a furrow that the handler owns (R231): what they answer, where the read point and
the release point go. -/
def Obligations.SprigFurrowReads : Prop :=
  ∀ (c : CtxId) (rd f : BitVec 4) (s : State) (F : Nat),
    let x := s.ctx (keyOf c)
    let fu := s.fur F
    let head := if fu.rpOff = 0 then fu.rpItem else fu.rpItem + 1
    let does := fun (i : Instr) (fu' : Furrow) (x' : Ctx) =>
      completes i s (fun t => sameCtx (t.ctx (keyOf c)) (past x' 1) ∧ t.fur F = fu' ∧ FurrowOnly i c F s t)
    s.inFur c.bed.val f.toNat = some F → fu.owner = keyOf c + 1 →
    (s.issues c (.spQhead c rd f) = true →
      (∀ it, fu.items[head]? = some it → does (.spQhead c rd f) { fu with rpItem := head, rpOff := 1 }
        { (x.setReg rd it.header).setReg (rd + 1) (BitVec.ofNat 16 (producerIndex fu F it.prod)) with c := false }) ∧
      (fu.items[head]? = none → does (.spQhead c rd f) { fu with rpItem := head, rpOff := 0 }
        { (x.setReg rd 0).setReg (rd + 1) 0xFFFF with c := true })) ∧
    (s.issues c (.spQword c rd f) = true →
      (∀ it v, fu.rpOff ≠ 0 → fu.items[fu.rpItem]? = some it → it.words[fu.rpOff - 1]? = some v →
        does (.spQword c rd f) { fu with rpOff := fu.rpOff + 1 }
          { x.setReg rd v with z := decide (v = 0), n := v.getLsbD 15, c := false }) ∧
      (fu.rpOff = 0 ∨ (∃ it, fu.items[fu.rpItem]? = some it ∧ it.words.length < fu.rpOff) →
        does (.spQword c rd f) fu { x.setReg rd 0 with z := true, n := false, c := true })) ∧
    (s.issues c (.spQmark c f) = true →
      does (.spQmark c f) fu { x with marks := Tab.set x.marks 0 F (fu.rpItem * 512 + fu.rpOff + 1) }) ∧
    (s.issues c (.spQrew c f) = true →
      (Tab.get x.marks 0 F = 0 → does (.spQrew c f) { fu with rpItem := fu.rel, rpOff := 0 } x) ∧
      (∀ i o, o < 512 → fu.rel ≤ i → Tab.get x.marks 0 F = i * 512 + o + 1 →
        does (.spQrew c f) { fu with rpItem := i, rpOff := o } x) ∧
      (∀ i o, o < 512 → i < fu.rel → Tab.get x.marks 0 F = i * 512 + o + 1 →
        does (.spQrew c f) { fu with rpItem := fu.rel, rpOff := 0 } x)) ∧
    (s.issues c (.spQrel c f) = true → does (.spQrel c f) { fu with rel := head, rpItem := head, rpOff := 0 } x)

/-- A handler's first reading instruction on a furrow that nobody owns takes it over, with the read point at the last
release; on a furrow of another handler, or on a number that names none, a reading instruction finds no item and sets
C, and QMARK, QREW and QREL do nothing else (R231, R244). -/
def Obligations.SprigFurrowOwnership : Prop :=
  ∀ (c : CtxId) (rd f : BitVec 4) (s : State), let x := s.ctx (keyOf c)
    (∀ F, s.inFur c.bed.val f.toNat = some F → (s.fur F).owner = 0 → s.issues c (.spQmark c f) = true →
      completes (.spQmark c f) s (fun t =>
        t.fur F = { s.fur F with owner := keyOf c + 1, rel := 0, rpItem := 0, rpOff := 0 } ∧
        t.bit (furA F 0x08) 12 = true ∧ (∀ G, G ≠ F → t.fur G = s.fur G) ∧ issueKeeps (.spQmark c f) c [.ctxs, .furs] s t)) ∧
    ((∀ F, s.inFur c.bed.val f.toNat = some F → (s.fur F).owner ≠ 0 ∧ (s.fur F).owner ≠ keyOf c + 1) →
      (s.issues c (.spQhead c rd f) = true → leads (.spQhead c rd f) c s
        (past { (x.setReg rd 0).setReg (rd + 1) 0xFFFF with c := true } 1)) ∧
      (s.issues c (.spQword c rd f) = true → leads (.spQword c rd f) c s
        (past { x.setReg rd 0 with z := true, n := false, c := true } 1)) ∧
      (s.issues c (.spQmark c f) = true → leads (.spQmark c f) c s (past { x with c := true } 1)) ∧
      (s.issues c (.spQrew c f) = true → leads (.spQrew c f) c s (past { x with c := true } 1)) ∧
      (s.issues c (.spQrel c f) = true → leads (.spQrel c f) c s (past { x with c := true } 1)))

/-- Building items (R232): QPUSHH opens one with KIND and FLAGS[10] of W(rd), QPUSHW appends up to 255 words, QEND hands it
to the furrow, which appends it with its LENGTH where it has room.  QPUSHH with an item open discards that item and sets
C (R232); that it then opens the new one is the model's reading (assumption 29). -/
def Obligations.SprigItemBuilding : Prop :=
  ∀ (c : CtxId) (rd g : BitVec 4) (s : State), ContextsOk s → let x := s.ctx (keyOf c)
    let b := c.bed.val
    let opened := Tab.get x.opens none g.toNat
    (s.issues c (.spQpushh c rd g) = true → s.hasOut b g.toNat = true →
      leads (.spQpushh c rd g) c s (past { x with
        opens := Tab.set x.opens none g.toNat (some (BitVec.ofNat 16 ((x.reg rd).toNat / 4096 * 4096 +
          (x.reg rd).toNat / 1024 % 2 * 1024), [])), c := opened.isSome } 1)) ∧
    (s.issues c (.spQpushw c rd g) = true →
      (∀ h ws, opened = some (h, ws) → ws.length < 255 → leads (.spQpushw c rd g) c s (past { x with
        opens := Tab.set x.opens none g.toNat (some (h, ws ++ [x.reg rd])), c := false } 1)) ∧
      (opened = none ∨ (∃ h ws, opened = some (h, ws) ∧ 255 ≤ ws.length) →
        leads (.spQpushw c rd g) c s (past { x with c := true } 1))) ∧
    (s.issues c (.spQend c g) = true → x.winWrites = [] →
      (opened = none → leads (.spQend c g) c s (past { x with c := true } 1)) ∧
      (∀ h ws F, opened = some (h, ws) → g.toNat ≠ 8 → s.outFur b g.toNat = some F →
        (1 + ws.length ≤ s.furRoom F → completes (.spQend c g) s (fun t =>
          sameCtx (t.ctx (keyOf c)) (past { x with opens := Tab.set x.opens none g.toNat none, c := false } 1) ∧
          (∃ it, (t.fur F).items = (s.fur F).items ++ [it] ∧ it.words = ws ∧ it.prod = 240 + s.lbed b ∧
            it.header.toNat / 4096 = h.toNat / 4096 ∧ it.header.toNat / 1024 % 4 = h.toNat / 1024 % 2 ∧
            it.header.toNat % 256 = ws.length % 256) ∧
          (∀ G, G ≠ F → t.fur G = s.fur G) ∧ issueKeeps (.spQend c g) c [.ctxs, .furs] s t)) ∧
        (s.furRoom F < 1 + ws.length → completes (.spQend c g) s (fun t =>
          sameCtx (t.ctx (keyOf c)) (past { x with opens := Tab.set x.opens none g.toNat none, c := true } 1) ∧
          (t.fur F).items = (s.fur F).items ∧ (∀ G, G ≠ F → t.fur G = s.fur G) ∧
          issueKeeps (.spQend c g) c [.ctxs, .furs] s t))))

/-- FENCE, YIELD, WAIT, NOP and TSRD (R199, R234, R236), issued in cycle `n`, and the end of a WAIT. -/
def Obligations.SprigWaitsAndTime : Prop :=
  ∀ (c : CtxId) (s : State), let x := s.ctx (keyOf c)
    (s.issues c (.spNop c) = true → leads (.spNop c) c s (past x 1)) ∧
    (s.issues c (.spYield c) = true → leads (.spYield c) c s (past x 1)) ∧
    (s.issues c (.spFence c) = true → leads (.spFence c) c s
      { past x 1 with wait := if x.winWrites = [] then .none else .fence }) ∧
    (∀ ra n, s.issues c (.spWait c ra) = true → s.issueCycle c (.spWait c ra) = some n → leads (.spWait c ra) c s
      { past x 1 with wait := if (x.reg ra).toNat = 0 then .none else .timed (n + (x.reg ra).toNat + 1) }) ∧
    (∀ t, x.wait = .timed t → s.enginesRun = true → t ≤ s.now →
      resumes (.waitExpiry c) c s { x with wait := .none }) ∧
    (∀ rd d n, s.issues c (.spTsrd c rd d) = true → s.issueCycle c (.spTsrd c rd d) = some n → rd.toNat ≤ 10 →
      let sub := (s.setNow n).dialSub d.toNat
      let ns := sub / 65536 % 1000000000
      let sec := sub / 65536 / 1000000000
      leads (.spTsrd c rd d) c s (past ((((((x.setReg rd (BitVec.ofNat 16 sub)).setReg (rd + 1)
        (BitVec.ofNat 16 ns)).setReg (rd + 2) (BitVec.ofNat 16 (ns / 65536))).setReg (rd + 3)
        (BitVec.ofNat 16 sec)).setReg (rd + 4) (BitVec.ofNat 16 (sec / 65536))).setReg (rd + 5)
        (BitVec.ofNat 16 (sec / 65536 / 65536))) 1))

/-- POST (R209): the event goes to the end of the queue of the bed RUNNING under W(b)[11:8] and C clears; where there is no
such bed or its queue is full, C sets and no queue changes.  With a window write of the context outstanding it issues
behind that write: the model's reading (assumption 26), not stated here. -/
def Obligations.SprigPost : Prop :=
  ∀ (c : CtxId) (ra rb : BitVec 4) (s : State), let x := s.ctx (keyOf c)
    let kind := (x.reg rb).toNat % 256
    let lb := (x.reg rb).toNat / 256 % 16
    let ev := Ev.mk kind (x.reg ra) (BitVec.ofNat 16 (s.lbed c.bed.val)) false false
    s.issues c (.spPost c ra rb) = true → x.winWrites = [] → 0x40 ≤ kind →
    (∀ tb, s.byLbed lb = some tb → (s.bed tb).evq.length < 1024 →
      completes (.spPost c ra rb) s (fun t =>
        sameCtx (t.ctx (keyOf c)) (past { x with c := false } 1) ∧
        t.bed tb = { s.bed tb with evq := (s.bed tb).evq ++ [ev] } ∧
        (∀ j, j ≠ tb → t.bed j = s.bed j) ∧ regsBut (fun r => counting r ∨ r = bedA tb 0x15C) s t ∧
        issueKeeps (.spPost c ra rb) c [.ctxs, .beds] s t)) ∧
    ((∀ tb, s.byLbed lb = some tb → 1024 ≤ (s.bed tb).evq.length) →
      completes (.spPost c ra rb) s (fun t =>
        sameCtx (t.ctx (keyOf c)) (past { x with c := true } 1) ∧
        t.nat (bedA c.bed.val 0x148) = (s.nat (bedA c.bed.val 0x148) + 1) % 2 ^ 32 ∧
        issueKeeps (.spPost c ra rb) c [.ctxs] s t))

/-- COND and CONDC (R235): with fewer than 16 waiting C clears and the report, of kind 0x2F with W(a) above W(b), joins
those that wait in the bed, of which the first enters the intake queue of the bed's source where that has room; with
16 waiting C sets and no report is raised.  That reports wait in the bed while the intake queue is full, and count beside
it, is the model's reading (assumption 33). -/
def Obligations.SprigProgramConditions : Prop :=
  ∀ (c : CtxId) (ra rb : BitVec 4) (s : State) (clear : Bool), let x := s.ctx (keyOf c)
    let b := c.bed.val
    let i := if clear then Instr.spCondc c ra rb else Instr.spCond c ra rb
    let q := Tab.get s.cur.intake [] (640 + b)
    s.issues c i = true →
    let waiting := (s.bed b).conds ++ [((x.reg ra).toNat * 65536 + (x.reg rb).toNat, clear)]
    ((s.bed b).conds.length < 16 → completes i s (fun t =>
      sameCtx (t.ctx (keyOf c)) (past { x with c := false } 1) ∧ (∀ j, j ≠ b → t.bed j = s.bed j) ∧
      (4 ≤ q.length → t.bed b = { s.bed b with conds := waiting } ∧ Tab.get t.cur.intake [] (640 + b) = q) ∧
      (∀ d k rest, q.length < 4 → waiting = (d, k) :: rest → t.bed b = { s.bed b with conds := rest } ∧
        ∃ r, Tab.get t.cur.intake [] (640 + b) = q ++ [r] ∧ r.src = 640 + b ∧ r.kind = 0x2F ∧ r.clear = k ∧
          r.detail = d % 2 ^ 32) ∧
      issueKeeps i c [.ctxs, .beds] s t)) ∧
    (16 ≤ (s.bed b).conds.length → leads i c s (past { x with c := true } 1))

/-- Overhead reads (R56, R237, R238): the byte captured at the slot comes with V clear; without an object or a valid slot, 0
with V set.  The context waits, and OVERHEAD_READ_COMPLETE writes rd: the byte captured at the issue, the model's reading
(assumption 27). -/
def Obligations.SprigOverheadReads : Prop :=
  ∀ (c : CtxId) (rd ra : BitVec 4) (s : State), let x := s.ctx (keyOf c)
    let waits := fun (o : Option Byte) =>
      let v := (o.getD 0).toNat
      { past { x with z := decide (v = 0), n := false, v := o.isNone } 1 with wait := .overhead (o.getD 0) rd.toNat }
    (s.issues c (.spOhr c rd ra) = true →
      leads (.spOhr c rd ra) c s (waits (s.ohCaptured (s.boundObj c) (x.reg ra).toNat))) ∧
    (s.issues c (.spOhrx c rd ra) = true →
      leads (.spOhrx c rd ra) c s (waits (s.ohCaptured (namedObj (x.reg 14)) (x.reg ra).toNat))) ∧
    (∀ v r, x.wait = .overhead v r → s.enginesRun = true →
      resumes (.overheadReadComplete c) c s
        { x.setReg (BitVec.ofNat 4 r) (BitVec.ofNat 16 v.toNat) with wait := .none })

/-- Overhead writes (R61, R237, R238): W(rd)[7:0] is kept for the transmit slot of the object, in the bits that a program
sources there, and V clears; where the position takes no program bit, or there is no object, nothing is written and V sets. -/
def Obligations.SprigOverheadWrites : Prop :=
  ∀ (c : CtxId) (rd ra : BitVec 4) (s : State), let x := s.ctx (keyOf c)
    let slot := (x.reg ra).toNat
    let byte : Byte := BitVec.ofNat 8 (x.reg rd).toNat
    ∀ i o, (i = Instr.spOhw c rd ra ∧ o = s.boundObj c ∨ i = Instr.spOhwx c rd ra ∧ o = namedObj (x.reg 14)) →
    s.issues c i = true → x.winWrites = [] →
    (∀ f, o = some (.chan f) → s.txTakes f slot = true → completes i s (fun t =>
      sameCtx (t.ctx (keyOf c)) (past { x with v := false } 1) ∧
      (∀ d, (∀ j, j ≠ slot → Tab.get (t.tx f).slots d j = Tab.get (s.tx f).slots d j)) ∧
      (∀ j, j < 8 → (t.txSlot f slot).getLsbD j =
        if (s.txMask f slot).getLsbD j then byte.getLsbD j else (s.txSlot f slot).getLsbD j) ∧
      (∀ g, g ≠ f → t.tx g = s.tx g) ∧ regsBut counting s t ∧ issueKeeps i c [.ctxs, .txs] s t)) ∧
    (∀ r t', o = some (.trib r t') → s.tribTakesSlot r t' slot = true → completes i s (fun t =>
      sameCtx (t.ctx (keyOf c)) (past { x with v := false } 1) ∧
      t.trib r t' = { s.trib r t' with slots := Tab.set (s.trib r t').slots 0 slot byte } ∧
      regsBut counting s t ∧ issueKeeps i c [.ctxs, .tribs] s t)) ∧
    ((o = none ∨ (∃ f, o = some (.chan f) ∧ s.txTakes f slot = false) ∨
        ∃ r t, o = some (.trib r t) ∧ s.tribTakesSlot r t slot = false) →
      leads i c s (past { x with v := true } 1))

/-- Far memory (R197, R240, R371): a store inside the window writes its two bytes and no others; a load waits, and
FAR_ACCESS_COMPLETE writes the word to rd and moves past the instruction.  That the store is performed at its issue, and
issues behind the context's window writes, is the model's reading (assumptions 26, 27). -/
def Obligations.SprigFarMemory : Prop :=
  ∀ (c : CtxId) (rd ra : BitVec 4) (disp : Half) (s : State), let x := s.ctx (keyOf c)
    let b := c.bed.val
    let a := (((x.reg ra).toNat % 1024 * 65536 + (x.reg (ra + 1)).toNat + disp.toInt) % 2 ^ 26).toNat
    (s.issues c (.spLdf c rd ra disp) = true →
      leads (.spLdf c rd ra disp) c s { x with wait := .far a rd.toNat, issued := x.issued + 1 }) ∧
    (s.issues c (.spStf c rd ra disp) = true → x.winWrites = [] → s.fld (bedA b 0x118) 25 0 ≤ a →
      a ≤ s.fld (bedA b 0x11C) 25 0 → s.qdrUp = true → s.cwBad (2 * a / 64) = false →
      completes (.spStf c rd ra disp) s (fun t =>
        sameCtx (t.ctx (keyOf c)) (past x 2) ∧
        (t.qdrByte (2 * a)).toNat = (x.reg rd).toNat % 256 ∧ (t.qdrByte (2 * a + 1)).toNat = (x.reg rd).toNat / 256 ∧
        (∀ q, q < 2 ^ 27 → q ≠ 2 * a → q ≠ 2 * a + 1 → t.qdrByte q = s.qdrByte q) ∧
        regsBut (fun r => reporting r ∨ 0x3000000 ≤ r ∧ r < 0x3100000) s t ∧
        issueKeeps (.spStf c rd ra disp) c [.ctxs, .qdr, .qdm] s t)) ∧
    (∀ w r, x.wait = .far w r → s.enginesRun = true → s.qdrUp = true → s.cwBad (2 * w / 64) = false →
      completes (.farAccessComplete c) s (fun t =>
        sameCtx (t.ctx (keyOf c)) { x.setReg (BitVec.ofNat 4 r) (s.farWord w) with
          wait := .none, pc := x.pc + 2 } ∧
        regsBut (fun q => reporting q ∨ 0x3000000 ≤ q ∧ q < 0x3100000) s t ∧ keeps [.ctxs, .qdm] s t))

/-- END with no access outstanding and no dirty line commits at once; with dirty lines the context waits, and
COMMIT_WRITE_BACK, or BACKING_FAIL 50 µs after the write-back began with UNBACKED set, ends the handler (R204).  The
words released on each owned furrow return to its producers. -/
def Obligations.SprigCommit : Prop :=
  ∀ (c : CtxId) (s : State), let x := s.ctx (keyOf c)
    let b := c.bed.val
    let k := keyOf c
    ContextsOk s → x.ev.kind ≠ 0 →
    (s.issues c (.spEnd c) = true → x.winWrites = [] → s.dirtyLines k = false →
      completes (.spEnd c) s (fun t => Released c t ∧ (t.qdr = s.qdr ∧ t.flash = s.flash) ∧
        (∀ F, F < 64 → (s.fur F).owner = k + 1 → (t.fur F).items = (s.fur F).items.drop (s.fur F).rel) ∧
        (∀ F, F < 64 → (s.fur F).owner ≠ k + 1 → t.fur F = s.fur F))) ∧
    (s.issues c (.spEnd c) = true → (x.winWrites ≠ [] ∨ s.dirtyLines k = true) →
      completes (.spEnd c) s (fun t => sameCtx (t.ctx k) { past x 1 with wait := .commit, commitAt := t.now } ∧
        SlotTaken (.spEnd c) c s t)) ∧
    (s.enginesRun = true → x.active = true → x.wait = .commit → x.winWrites = [] →
      (s.qdrUp = true → completes (.commitWriteBack c) s (fun t => Released c t ∧
        (∀ F, F < 64 → (s.fur F).owner = k + 1 → (t.fur F).items = (s.fur F).items.drop (s.fur F).rel) ∧
        (∀ ch, x.bound = some ch → Tab.get (t.bed b).dirty 0 ch = 0 ∧ t.bit (bedA b (0x1600 + 4 * ch)) 0 = false))) ∧
      (∀ ch, x.bound = some ch → s.dirtyLines k = true → x.commitAt + 50000 ≤ s.now →
        completes (.backingFail c) s (fun t => Released c t ∧ t.bit (bedA b (0x1600 + 4 * ch)) 3 = true ∧
          t.nat (bedA b 0x150) = (s.nat (bedA b 0x150) + 1) % 2 ^ 32)))

/-- A handler fault (R212): the handler is gone, and the engine's FAULT_INFO holds the PC of the instruction and the cause;
2 for a word that spells no instruction, 1 for a handler that ran past its limit. -/
def Obligations.HandlerFaults : Prop :=
  ∀ (c : CtxId) (s : State), ContextsOk s → let x := s.ctx (keyOf c)
    let faulted := fun (cause : Nat) (t : State) => (t.ctx (keyOf c)).active = false ∧
      t.nat (bedA c.bed.val (0x2008 + 0x20 * c.eng.val)) = x.pc.toNat + cause * 65536
    (∀ n, s.issueCycle c (.undefinedEncoding c) = some n → s.fetched c = none →
      completes (.undefinedEncoding c) s (faulted 2)) ∧
    (s.enginesRun = true → x.active = true → x.wait ≠ .commit → x.started + x.limitNs ≤ s.now →
      completes (.watchdogExpiry c) s (faulted 1)) ∧
    (∀ d, s.issues c (.spCall c d) = true → 8 ≤ x.stack.length → completes (.spCall c d) s (faulted 3)) ∧
    (s.issues c (.spRet c) = true → x.stack = [] → completes (.spRet c) s (faulted 3)) ∧
    (∀ rd ra d, s.issues c (.spLdl c rd ra d) = true → 1023 < (x.reg ra).toNat + d.toNat →
      completes (.spLdl c rd ra d) s (faulted 4)) ∧
    (∀ rd ra d, s.issues c (.spStl c rd ra d) = true → 1023 < (x.reg ra).toNat + d.toNat →
      completes (.spStl c rd ra d) s (faulted 4)) ∧
    (∀ rd ra d, s.issues c (.spLdc c rd ra d) = true → (x.bound = none ∨ 511 < (x.reg ra).toNat + d.toNat) →
      completes (.spLdc c rd ra d) s (faulted 5)) ∧
    (∀ ra rb, s.issues c (.spPost c ra rb) = true → x.winWrites = [] → (x.reg rb).toNat % 256 < 0x40 →
      completes (.spPost c ra rb) s (faulted 9))

/-- The dispatcher (R196, R208): the event chosen starts on the context chosen, with W0 the argument, W1 the kind, W2 the
sender and PC at the entry of the handler table.  Where R208 leaves the choice open it is the model's (assumption 30). -/
def Obligations.HandlerStarts : Prop :=
  ∀ (bed : Fin 16) (s : State) (p : Pick) (q : Bool) (key : Nat), let b := bed.val
    s.enginesRun = true → (s.role b = 2 ∨ s.role b = 3 ∧ p.ev.kind = 0) → s.pick b = some (p, q) →
    s.idlePlace b = some key → s.bit (htabA b p.ev.kind) 16 = true →
    completes (.handlerStart bed) s (fun t => let y := t.ctx key
      y.active = true ∧ y.pc.toNat = s.fld (htabA b p.ev.kind) 14 0 ∧ y.reg 0 = p.ev.arg ∧
      y.reg 1 = BitVec.ofNat 16 p.ev.kind ∧ y.reg 2 = p.ev.sender ∧ y.stack = [] ∧ y.wait = .none ∧ y.started = s.now ∧
      (y.bound = none → y.reg 3 = 0xFFFF) ∧ (∀ ch, y.bound = some ch → y.reg 3 = BitVec.ofNat 16 ch) ∧
      (∀ F, p.fur = some F → (t.fur F).owner = key + 1) ∧ (∀ k, k ≠ key → t.ctx k = s.ctx k) ∧
      (t.qdr = s.qdr ∧ t.flash = s.flash))

/-! ### The host interface (R261 to R284) -/

/-- Registers of one RW field: a host write stores the field, brought into its range, and nothing else (R269); a program's
does so where REG_WIN permits it (R201).  A host write of 8 bytes stores both words, the lower first; one that is not
aligned to its length changes no register and is reported as ACCESS_SHAPE (R266).  A write to a reserved address is
ignored (R267); one that does not reach the part does nothing at all (R263). -/
def Obligations.RegisterWriteStoresField : Prop :=
  ∀ (o : Origin) (a : BitVec 26) (v u : Word) (s : State),
    let plain := fun (q : Nat) (f : FieldRow) => plainBlock q ∧ fieldsAt q = [f] ∧ f.ty = .rw ∧ stagedRow q = none
    let stored := fun (q : Nat) (f : FieldRow) (w : Word) (t : State) =>
      t.nat q = putBits (s.nat q) f.hi f.lo (f.brought (bitsOf w.toNat f.hi f.lo)) % 2 ^ 32
    (∀ f, a.toNat % 4 = 0 → reaches o s a.toNat → plain a.toNat f →
      completes (.registerWrite o a v none) s (fun t => stored a.toNat f v t ∧
        regsBut (fun r => counting r ∨ r = a.toNat) s t ∧ keeps [] s t)) ∧
    (∀ f g, a.toNat % 8 = 0 → hostAt s a.toNat → hostAt s (a.toNat + 4) → plain a.toNat f → plain (a.toNat + 4) g →
      completes (.registerWrite .host a v (some u)) s (fun t => stored a.toNat f v t ∧ stored (a.toNat + 4) g u t ∧
        regsBut (fun r => counting r ∨ r = a.toNat ∨ r = a.toNat + 4) s t ∧ keeps [] s t)) ∧
    (∀ w, s.hostReaches = true → (w = none ∧ a.toNat % 4 ≠ 0 ∨ w = some u ∧ a.toNat % 8 ≠ 0) →
      (s.top.kc = none ∨ 0x10000 ≤ a.toNat) → completes (.registerWrite .host a v w) s (fun t =>
        hifReported 0 a.toNat s t ∧ regsBut (fun r => reporting r ∨ 0x10000 ≤ r ∧ r < 0x20000) s t ∧
        keeps [.outbox] s t)) ∧
    (a.toNat % 4 = 0 → reaches o s a.toNat → fieldsAt a.toNat = [] →
      completes (.registerWrite o a v none) s (fun t => regsBut counting s t ∧ keeps [] s t)) ∧
    (∀ w, s.hostReaches = false →
      completes (.registerWrite .host a v w) s (fun t => regsBut (fun _ => False) s t ∧ sameBut [] s t))

/-- A sequence-clear register (R270): an event sets its bit, leaves the others and adds 1 to SEQ modulo 256, and bit 0 of
SUMMARY with it; a write that names SEQ clears every event bit and keeps SEQ, another changes nothing and counts in
SEQ_MISS. -/
def Obligations.SequenceClearRegisters : Prop :=
  (∀ (s : State) (a b base inst : Nat) (blk : Blk), b < 24 → blockOf a = some (blk, inst, base) → a ≠ base + 8 →
    (s.event a b).bit a b = true ∧ (∀ c, c < 24 → c ≠ b → (s.event a b).bit a c = s.bit a c) ∧
    (s.event a b).fld a 31 24 = (s.fld a 31 24 + 1) % 256 ∧ (s.event a b).bit (base + 8) 0 = true) ∧
  (∀ (o : Origin) (a : BitVec 26) (v : Word) (s : State), a.toNat % 4 = 0 → reaches o s a.toNat →
    (fieldsAt a.toNat).any (fun r => r.ty == .sq) = true → (fieldsAt a.toNat).any (fun r => r.ty == .key) = false →
    (¬ counting a.toNat ∨ uncounted s) →
    completes (.sequenceClear o a v) s (fun t =>
      t.fld a.toNat 31 24 = s.fld a.toNat 31 24 ∧ keeps [] s t ∧
      (v.toNat / 2 ^ 24 = s.fld a.toNat 31 24 → t.fld a.toNat 23 0 = 0 ∧ t.nat (hifA 0x108) = s.nat (hifA 0x108)) ∧
      (v.toNat / 2 ^ 24 ≠ s.fld a.toNat 31 24 → t.rd a.toNat = s.rd a.toNat ∧
        t.nat (hifA 0x108) = (s.nat (hifA 0x108) + 1) % 2 ^ 32) ∧
      regsBut (fun r => counting r ∨ r = a.toNat ∨ r = hifA 0x108) s t))

/-- KEY (R271): 0x5EED arms the block; any other value disarms it and is reported as KEY_MISMATCH. -/
def Obligations.KeyArmsBlock : Prop :=
  ∀ (a : BitVec 26) (v : Word) (s : State), a.toNat % 256 = 0xFC → 0x10000 ≤ a.toNat → hostAt s a.toNat →
    ¬ counting a.toNat → (fieldsAt a.toNat).any (fun r => r.ty == .key) = true →
    (v = 0x5EED → completes (.key a v) s (fun t => t.bit a.toNat 0 = true ∧
      regsBut (fun r => counting r ∨ r = a.toNat) s t ∧ keeps [] s t)) ∧
    (v ≠ 0x5EED → completes (.key a v) s (fun t => t.bit a.toNat 0 = false ∧ hifReported 3 a.toNat s t))

/-- Complement pairs of TOP (R272, R353, R391): the first half waits and changes nothing; its complement, as the next TOP
write, makes it take effect; anything else discards both and is reported as COMPLEMENT_MISMATCH. -/
def Obligations.ComplementPairs : Prop :=
  ∀ (a : BitVec 26) (v : Word) (s : State), a.toNat % 4 = 0 → a.toNat < 0x10000 → s.hostReaches = true →
    (s.top.kc = none → kcLow a.toNat = true → completes (.complementPairWrite a v) s (fun t =>
      t.top = { s.top with kc := some (a.toNat, v) } ∧ regsBut counting s t ∧ keeps [.top] s t)) ∧
    (s.top.kc = none → kcHigh a.toNat = true → kcLow a.toNat = false →
      completes (.complementPairWrite a v) s (fun t => t.top.kc = none ∧ hifReported 4 a.toNat s t)) ∧
    (∀ k x, s.top.kc = some (k, x) → (a.toNat ≠ k + 4 ∨ v ≠ ~~~ x) →
      completes (.complementPairWrite a v) s (fun t => t.top.kc = none ∧ hifReported 4 a.toNat s t ∧
        t.rd (topA 0x360) = s.rd (topA 0x360) ∧ t.rts = s.rts ∧ t.cur.chipReset = s.cur.chipReset)) ∧
    (∀ x, s.top.kc = some (topA 0x360, x) → a.toNat = topA 0x364 → v = ~~~ x →
      completes (.complementPairWrite a v) s (fun t => t.top.kc = none ∧ t.bit (topA 0x360) 0 = x.getLsbD 0)) ∧
    (∀ x, s.top.kc = some (topA 0x310, x) → a.toNat = topA 0x314 → v = ~~~ x → x.getLsbD 0 = true →
      s.cur.chipReset = none →
      completes (.complementPairWrite a v) s (fun t => t.top.kc = none ∧ t.cur.chipReset = some (3, 0, s.now)))

/-- A host soft reset is asked for by the pair of TOP.SOFT_RESET, and runs as a chip reset of kind 3 from source 0 (R299,
R391).  CHIP_RESET_EXECUTE runs the reset that has been asked for, of any kind and source, as soon as the ring and QDR
stand or 20 µs have passed: registers take their reset values, TOP.BOARD_ROLE and the OSC_SEL sampled at boot apart in
kinds 2 and 3, flash is kept, and the boot begins (R388, R390 to R393). -/
def Obligations.SoftResetRuns : Prop :=
  (∀ (s : State), s.hostReaches = true → s.top.kc = none → s.cur.chipReset = none →
    completes .softReset s (fun t => t.cur.chipReset = some (3, 0, s.now) ∧ t.top.kc = none ∧ keeps [.top] s t ∧
      (s.coreRuns = true → ∀ u, u = { t with now := s.now + 20000 } →
        completes .chipResetExecute u (fun w => w.top.boot = 1 ∧ w.top.bootKind = (if s.top.railBad then 0 else 3) ∧
          w.top.bootSrc = 0)))) ∧
  ∀ (s : State) (kind src at_ : Nat), s.coreRuns = true → s.cur.chipReset = some (kind, src, at_) →
    s.ringReady = true ∧ s.qdrUp = true ∨ at_ + 20000 ≤ s.now →
    completes .chipResetExecute s (fun t =>
      t.top.boot = (if kind < 2 then 0 else 1) ∧ t.top.bootKind = (if s.top.railBad then 0 else kind) ∧
      t.top.bootSrc = (if kind = 0 ∨ s.top.railBad = true then 0 else src) ∧ t.cur = State.reset.cur ∧
      t.flash = s.flash ∧ t.now = s.now ∧ t.pending = s.pending ∧
      ∀ a, t.rd a = if 2 ≤ kind ∧ s.top.railBad = false ∧ (a = topA 0x320 ∨ a = topA 0x334) then s.rd a
        else State.reset.rd a)

/-- TOP.BOARD_ROLE, the one WO field, is write-once (R273): the first write of 1 or 2 after a reset is taken; a write of 0
or 3 before it leaves the field unset and is reported as CONFIG_INVALID from source 800 (R354); every write after it
changes nothing and is reported as LOCKED_WRITE and nothing else. -/
def Obligations.BoardRoleWriteOnce : Prop :=
  ∀ (v : Word) (s : State) (i : Instr), (i = .boardRole v ∨ i = .writeOnce (BitVec.ofNat 26 (topA 0x320)) v) →
    s.hostReaches = true → s.top.kc = none → s.inReset (topA 0x320) = false →
    (s.top.roleTaken = false → v.toNat % 4 = 1 ∨ v.toNat % 4 = 2 →
      completes i s (fun t => t.fld (topA 0x320) 1 0 = v.toNat % 4 ∧ t.top.roleTaken = true)) ∧
    (s.top.roleTaken = false → v.toNat % 4 = 0 ∨ v.toNat % 4 = 3 →
      completes i s (fun t => t.rd (topA 0x320) = s.rd (topA 0x320) ∧ t.top.roleTaken = false ∧
        t.fld (srcA 800 0x0C) 7 0 = (s.fld (srcA 800 0x0C) 7 0 + 1) % 256 ∧
        ((Tab.get s.cur.intake [] 800).length < 4 → ∃ r : Report, Tab.get t.cur.intake [] 800 =
          Tab.get s.cur.intake [] 800 ++ [r] ∧ r.kind = 0x0B ∧ r.clear = false) ∧
        regsBut reporting s t ∧ keeps [] s t)) ∧
    (s.top.roleTaken = true →
      completes i s (fun t => t.rd (topA 0x320) = s.rd (topA 0x320) ∧ hifReported 2 (topA 0x320) s t ∧
        regsBut (fun r => reporting r ∨ 0x10000 ≤ r ∧ r < 0x20000) s t ∧ keeps [.outbox] s t)) ∧
    State.reset.top.roleTaken = false ∧ completes .powerOn s (fun t => t.top.roleTaken = false)

/-- Reads of the host: a paired counter's low word latches its high word, whose read gives the latched value (R265); BAR2
gives zero while INV_USER_EN is 0 (R268); BAR4 reads and writes the QDR bytes at QDR_PAGE × 16 MiB + o (R268), and a byte
in error of a codeword that cannot be corrected reads as any value (R376). -/
def Obligations.HostWindows : Prop :=
  ∀ (s : State), s.hostReaches = true →
    (∀ a : BitVec 26, a.toNat % 4 = 0 → s.inReset a.toNat = false → pairedLow a.toNat = true →
      completes (.pairedCounterRead a 4) s (fun t => keeps [.top, .outbox] s t ∧ regsBut counting s t ∧
        ∃ w, t.outbox = s.outbox ++ [.readData (leBytes w)] ∧
          (uncounted s → w = (s.liveRead a.toNat).toNat ∧
            Tab.get t.top.latch 0 (a.toNat + 4) = s.liveRead (a.toNat + 4)))) ∧
    (∀ a : BitVec 26, a.toNat % 4 = 0 → s.inReset a.toNat = false → pairedLow a.toNat = false → 4 ≤ a.toNat →
      pairedLow (a.toNat - 4) = true → completes (.pairedCounterRead a 4) s (fun t =>
        t.outbox = s.outbox ++ [.readData (leBytes (Tab.get s.top.latch 0 a.toNat).toNat)])) ∧
    (∀ (a : BitVec 26) (n : Nat), (n = 0 ∨ 8 < a.toNat % 8 + n) → completes (.pairedCounterRead a n) s (fun t =>
        hifReported 0 a.toNat s t ∧ .unsupportedRequest ∈ t.outbox)) ∧
    (∀ (off : BitVec 20) (n : Nat), 1 ≤ n → off.toNat % 8 + n ≤ 8 →
      (s.bit (topA 0x360) 0 = false → completes (.bar2Read off n) s (fun t =>
        t.outbox = s.outbox ++ [.readData (List.replicate n 0)] ∧ keeps [.outbox] s t)) ∧
      (s.bit (topA 0x360) 0 = true → s.inReset (invA 0) = false → uncounted s → n = 4 → off.toNat % 4 = 0 →
        ∀ r, bar2Reg off.toNat = some r → pairedLow r = true → completes (.bar2Read off n) s (fun t =>
          t.outbox = s.outbox ++ [.readData (leBytes (s.liveRead r).toNat)] ∧ keeps [.top, .outbox] s t))) ∧
    (∀ (off : BitVec 24) (n : Nat), 1 ≤ n → off.toNat % 8 + n ≤ 8 → s.qdrUp = true →
      let q := s.fld (hifA 0x130) 2 0 * 2 ^ 24 + off.toNat
      (s.cwBad (q / 64) = false → completes (.bar4Read off n) s (fun t =>
        t.outbox = s.outbox ++ [.readData (s.qdrGet q n)] ∧ keeps [.outbox, .qdm] s t)) ∧
      (s.cwBad (q / 64) = true → completes (.bar4Read off n) s (fun t =>
        ∃ bs, t.outbox = s.outbox ++ [.readData bs] ∧ bs.length = n ∧ (∀ i, i < n →
          (q + i) % 64 ∉ s.cwErrs (q / 64) → s.bit (qdmA 0x104) (16 + q / 64 % 8) = false →
            bs.getD i 0 = s.qdrByte (q + i)) ∧
        t.nat (qdmA 0x11C) = q / 64 * 64 ∧ t.bit (qdmA 0x108) 1 = true ∧ keeps [.free, .outbox] s t))) ∧
    (∀ (off : BitVec 24) (data : List Byte), (data.length = 2 ∨ data.length = 4 ∨ data.length = 8) →
      off.toNat % data.length = 0 → s.qdrUp = true → let q := s.fld (hifA 0x130) 2 0 * 2 ^ 24 + off.toNat
      s.bit (qdmA 0x10C) (qdrRegion q) = true → s.cwBad (q / 64) = false →
      completes (.bar4Write off data) s (fun t =>
        (∀ i, i < data.length → t.qdrByte (q + i) = data.getD i 0) ∧
        (∀ p, p < 2 ^ 27 → p < q ∨ q + data.length ≤ p → t.qdrByte p = s.qdrByte p) ∧ keeps [.qdr, .qdm] s t))

/-- Refused accesses (R265 to R268, R274): a shape that the BAR does not take is reported as ACCESS_SHAPE and writes nothing,
a read of it completes as an Unsupported Request; an access to a block in reset is reported as ACCESS_TIMEOUT, and a
host read of it gives zero. -/
def Obligations.RefusedAccessesReported : Prop :=
  ∀ (s : State),
    (∀ (bar : Fin 3) (read : Bool) (off : BitVec 26) (n : Nat) (be : Bool), s.hostReaches = true →
      shapeOk bar.val read off.toNat n be = false →
      completes (.accessShape bar read off n be) s (fun t =>
        hifReported 0 (if bar.val = 0 then off.toNat else 2 ^ 31 + off.toNat) s t ∧ t.qdr = s.qdr ∧ t.flash = s.flash ∧
        regsBut (fun r => reporting r ∨ 0x10000 ≤ r ∧ r < 0x20000) s t ∧
        (read = true → .unsupportedRequest ∈ t.outbox))) ∧
    (∀ (o : Origin) (read : Bool) (a : BitVec 26), s.inReset a.toNat = true → s.inReset (hifA 0) = false →
      (o = .host → s.hostReaches = true) → (o ≠ .host → s.enginesRun = true) →
      completes (.accessTimeout o read a) s (fun t => hifReported 1 (accessDetail o a.toNat) s t ∧
        (o = .host → read = true → .readData [0, 0, 0, 0] ∈ t.outbox) ∧ t.qdr = s.qdr ∧ t.flash = s.flash ∧
        regsBut (fun r => reporting r ∨ 0x10000 ≤ r ∧ r < 0x20000) s t))

/-- The link and the vectors (R263, R264).  While TOP answers, each of these commands completes: DL_Down takes LINK_UP down,
raises LINK_DOWN and resets HIF; 1 ms out of L0 does the same without the reset; an FLR resets HIF and leaves the link;
the return to L0 shows speed and width and ends LINK_DOWN.  The reset of HIF leaves no partial command, no record of
tags, no waiting completion of HIF's own, QDR_PAGE 0 and no pending complement pair.  A pending message whose vector is
unmasked goes once HIF is out of reset and the link carries it, and its pending bit clears. -/
def Obligations.LinkAndVectors : Prop :=
  let hifClear := fun (s t : State) =>
    (∀ k, k < 4 → (t.mbox k).partialCmd = [] ∧ (t.mbox k).inFlight = [] ∧ (t.mbox k).memory = [] ∧
      (t.mbox k).waiting = (s.mbox k).waiting.filter (fun c => !c.own) ∧ (t.mbox k).held = (s.mbox k).held) ∧
    t.nat (hifA 0x130) = 0 ∧ t.top.kc = none ∧ t.inReset (hifA 0) = true
  (∀ s : State, s.topRuns = true → ∃ t, exec .linkDown s = .next t ∧ t.bit (hifA 0x100) 0 = false ∧
    t.top.linkDown = true ∧ (s.top.linkDown = false → t.bit (hifA 0x104) 5 = true) ∧
    (s.beingReset 64 = false → hifClear s t)) ∧
  (∀ s : State, s.topRuns = true → ∃ t, exec .linkL0Timeout s = .next t ∧ t.bit (hifA 0x100) 0 = false ∧
    t.top.linkDown = true ∧ (s.top.linkDown = false → t.bit (hifA 0x104) 5 = true) ∧ t.mboxes = s.mboxes ∧
    keeps [.top, .outbox] s t) ∧
  (∀ s : State, s.topRuns = true → ∃ t, exec .functionLevelReset s = .next t ∧
    t.rd (hifA 0x100) = s.rd (hifA 0x100) ∧ t.top.linkDown = s.top.linkDown ∧
    (s.beingReset 64 = false → hifClear s t) ∧ keeps [.top, .mboxes] s t) ∧
  (∀ (s : State) (speed width : BitVec 3), s.topRuns = true → ∃ t, exec (.returnToL0 speed width) s = .next t ∧
    t.fld (hifA 0x100) 6 0 = 1 + 2 * speed.toNat + 16 * width.toNat ∧ t.top.linkDown = false ∧ keeps [.top] s t) ∧
  (∀ (s : State) (v : Fin 64), s.hifLive = true → s.linkCarries = true → s.pendingBit v.val = true →
    s.bit (hifA (0x800C + 16 * v.val)) 0 = false → ∃ t, exec (.msixPendingSend v) s = .next t ∧
    t.outbox = s.outbox ++ [.msix v.val] ∧ t.pendingBit v.val = false ∧ keeps [.outbox] s t)

/-- The register window (R201): the oldest write of the context is performed, and the last one ends a FENCE; a read gives rd
the low half of the register and the latch the high half, or 0 from a block in reset. -/
def Obligations.RegisterWindowAccesses : Prop :=
  ∀ (c : CtxId) (s : State), let x := s.ctx (keyOf c)
    s.enginesRun = true →
    (∀ a v rest f, x.winWrites = (a, v) :: rest → s.inReset a = false → plainBlock a → fieldsAt a = [f] → f.ty = .rw →
      stagedRow a = none →
      completes (.registerWindowComplete c) s (fun t =>
        sameCtx (t.ctx (keyOf c)) { x with
          winWrites := rest, wait := if rest = [] ∧ x.wait = .fence then .none else x.wait, commitAt := s.now } ∧
        t.nat a = putBits (s.nat a) f.hi f.lo (f.brought (bitsOf v.toNat f.hi f.lo)) % 2 ^ 32 ∧
        regsBut (fun r => r = a) s t ∧ keeps [.ctxs] s t ∧ (∀ j, j ≠ keyOf c → t.ctx j = s.ctx j))) ∧
    (∀ a rd, x.winWrites = [] → x.wait = .winRead a rd → s.inReset a = false → pairedLow a = false →
      (4 ≤ a → pairedLow (a - 4) = false) → let v := (s.liveRead a).toNat
      resumes (.registerWindowComplete c) c s { x.setReg (BitVec.ofNat 4 rd) (BitVec.ofNat 16 v) with
        wait := .none, winLatch := BitVec.ofNat 16 (v / 65536) }) ∧
    (∀ a rd, x.winWrites = [] → x.wait = .winRead a rd → s.inReset a = true →
      completes (.registerWindowComplete c) s (fun t =>
        sameCtx (t.ctx (keyOf c)) { x.setReg (BitVec.ofNat 4 rd) 0 with wait := .none, winLatch := 0 } ∧
        (s.inReset (hifA 0) = false → hifReported 1 (accessDetail (.program c.bed) a) s t)))

/-! ### Mailboxes (R275 to R280) -/

/-- Words of a command (R276, R277): a word joins the partial command; one that finds REQ_READY at 0 is dropped and counted;
the last word, with a trailer that does not match, brings the completion BAD_CRC; ABORT and the 10 ms timer
discard the partial command, the timer with a completion TIMEOUT. -/
def Obligations.MailboxRequests : Prop :=
  ∀ (mb : Fin 5) (s : State), let k := mb.val
    let m := s.mbox k
    hostAt s (mbA k 0) → hostAt s (mbA k 4) →
    (∀ w : Word, let ws := m.partialCmd ++ [w]
      let len := bitsOf (ws.headD 0).toNat 23 16
      (m.ready = true → ws.length ≠ len + 2 → completes (.reqData mb w) s (fun t =>
        (t.mbox k).partialCmd = ws ∧ (t.mbox k).inFlight = m.inFlight ∧ (t.mbox k).waiting = m.waiting ∧
        t.fld (mbA k 8) 16 8 = ws.length % 512 ∧ keeps [.mboxes, .outbox] s t)) ∧
      (m.ready = false → completes (.reqData mb w) s (fun t =>
        t.mbox k = m ∧ t.nat (mbA k 0x1C) = (s.nat (mbA k 0x1C) + 1) % 2 ^ 32 ∧ t.bit (mbA k 0x0C) 2 = true ∧
        keeps [] s t)) ∧
      (m.ready = true → ws.length = len + 2 → cmdTrailer (ws.take (len + 1)) ≠ w → completes (.reqData mb w) s (fun t =>
        (t.mbox k).partialCmd = [] ∧ (t.mbox k).waiting = m.waiting ++ [ownCpl 1 (cmdTag (ws.take (len + 1)))] ∧
        t.nat (mbA k 0x20) = (s.nat (mbA k 0x20) + 1) % 2 ^ 32)) ∧
      (k = 0 → m.ready = true → ws.length = len + 2 → cmdTrailer (ws.take (len + 1)) = w →
        (∀ d ∈ m.memory, d.tag ≠ cmdTag (ws.take (len + 1))) → m.inFlight.contains (cmdTag (ws.take (len + 1))) = false →
        completes (.reqData mb w) s (fun t => (t.mbox k).partialCmd = [] ∧
          (t.mbox k).inFlight = m.inFlight ++ [cmdTag (ws.take (len + 1))] ∧
          t.nat (mbA k 0x10) = (s.nat (mbA k 0x10) + 1) % 2 ^ 32))) ∧
    (∀ h rest, m.partialCmd = h :: rest → s.mbRuns k = true → m.stopped = none → m.ready = true →
      m.lastWord + 10000000 ≤ s.now → completes (.mbTimeout mb) s (fun t =>
        (t.mbox k).partialCmd = [] ∧ (t.mbox k).waiting = m.waiting ++ [ownCpl 3 (BitVec.ofNat 16 h.toNat)] ∧
        t.nat (mbA k 0x18) = (s.nat (mbA k 0x18) + 1) % 2 ^ 32)) ∧
    completes (.mbAbort mb) s (fun t => (t.mbox k).partialCmd = [] ∧ (t.mbox k).inFlight = m.inFlight ∧
      (t.mbox k).memory = m.memory ∧ (t.mbox k).waiting = m.waiting) ∧
    completes (.rspAck mb) s (fun t => t.bit (mbA k 8) 1 = false ∧ keeps [] s t) ∧
    completes (.forget mb) s (fun t => t.mbox k = { m with memory := [] } ∧ keeps [.mboxes] s t ∧ regsBut counting s t)

/-- Completions (R250, R278 to R280): the next waiting completion is loaded into RSP with RSP_READY and leaves the queue, a
server's ends its in-flight record and is remembered; a held command is published when its items fit; a reply of one
item becomes a completion. -/
def Obligations.MailboxCompletions : Prop :=
  ∀ (mb : Fin 5) (s : State), let k := mb.val
    let m := s.mbox k
    s.mbRuns k = true →
    (∀ c rest, m.waiting = c :: rest → s.bit (mbA k 8) 1 = false → completes (.rspLoad mb) s (fun t =>
      t.bit (mbA k 8) 1 = true ∧ t.bit (mbA k 0x0C) 0 = true ∧ (t.mbox k).waiting = rest ∧
      (c.ends = true → c.tag ∉ (t.mbox k).inFlight) ∧ (c.keeps = true → c ∈ (t.mbox k).memory) ∧
      (∀ i w, i ≤ 256 → c.words[i]? = some w → t.rd (mbA k (0x400 + 4 * i)) = w))) ∧
    (∀ ws u, m.held = some ws → s.publishCmd k ws = (true, u) → completes (.mbCommandPublish mb) s (fun t =>
      (t.mbox k).held = none ∧ (t.mbox k).inFlight = m.inFlight ++ [cmdTag ws] ∧ t.furs = u.furs)) ∧
    (∀ it rest h body d0, 1 ≤ k → k < 4 → (s.fur (39 + k)).items = it :: rest → m.waiting.any (fun c => !c.own) = false →
      m.ownWaiting < 4 → m.reply = [] → m.replyNext = 0 → m.replySkip = false → it.header.toNat / 4096 = 7 →
      it.words.head? = some d0 → d0.toNat / 256 = 128 → it.words.length = 1 + 2 * (d0.toNat % 256) →
      1 ≤ d0.toNat % 256 → d0.toNat % 256 ≤ 64 → pairWords (it.words.drop 1) = h :: body →
      body.length = bitsOf h.toNat 23 16 → completes (.mbReplyItem mb) s (fun t =>
        (t.fur (39 + k)).items = rest ∧ (t.mbox k).waiting = m.waiting ++
          [serverCpl (bitsOf h.toNat 31 24) (BitVec.ofNat 16 h.toNat) body]))

/-! ### QDR main memory (R371 to R385) -/

/-- QDM: a retraining, due 50 ms after the port's last, holds its port for 2 µs (assumption 20); a scrub read, due at its
place in the pass, corrects its codeword and moves on; REPAIR.GO writes the codeword with zeros, PIN_ERR_CLR clears the pin
errors (R372, R376, R378, R385). -/
def Obligations.QdrMaintenance : Prop :=
  ∀ (s : State),
    (∀ (d : Fin 8) (b : Bool), s.qdrUp = true →
      Tab.get s.qdm.retraining 0 (2 * d.val + b.toNat) + 50000000 ≤ s.now + 2000 → completes (.qdrRetrain d b) s (fun t =>
      Tab.get t.qdm.retraining 0 (2 * d.val + b.toNat) = s.now + 2000 ∧ regsBut (fun _ => False) s t ∧
      sameBut [.qdm] s t)) ∧
    (∀ es, s.qdrUp = true → s.bit (qdmA 0x100) 0 = true →
      (∀ at_, s.qdm.scrubAt = some at_ → at_ + max 1 (s.fld (qdmA 0x100) 31 16) * 10 ^ 9 / 2 ^ 21 ≤ s.now) →
      completes (.scrubRead es) s (fun t =>
      let cw := s.qdm.scrubNext
      t.qdm.scrubNext = (cw + 1) % 2 ^ 21 ∧ t.qdr = s.qdr ∧
      ((s.addErrs cw es).cwBad cw = false → t.cwErrs cw = []) ∧
      (cw + 1 = 2 ^ 21 → t.nat (qdmA 0x118) = (s.nat (qdmA 0x118) + 1) % 2 ^ 32) ∧ keeps [.qdm] s t)) ∧
    (hostAt s (qdmA 0x114) → s.qdrUp = true → completes .repair s (fun t => let cw := s.fld (qdmA 0x110) 26 6
      (∀ i, i < 64 → t.qdrByte (64 * cw + i) = 0) ∧ t.cwErrs cw = [] ∧ t.bit (qdmA 0x108) 4 = true ∧
      (∀ p, p < 2 ^ 27 → p / 64 ≠ cw → t.qdrByte p = s.qdrByte p) ∧ keeps [.qdr, .qdm] s t)) ∧
    (∀ d : Fin 8, hostAt s (devA d.val 0x28) → completes (.pinErrClr d) s (fun t =>
      (∀ o, o = 0x08 ∨ o = 0x0C ∨ o = 0x10 ∨ o = 0x14 → t.nat (devA d.val o) = 0) ∧
      regsBut (fun r => counting r ∨ devA d.val 8 ≤ r ∧ r ≤ devA d.val 0x14) s t ∧ keeps [] s t))

/-! ### Clocks, lanes and pins -/

/-- Clocks (R27, R29, R421): a clock declared failed is failed until it is declared restored; while SUNDIAL_CLK or OSC_IN
has failed, dial time stands where it stood; a PLL that loses lock fails the clocks it feeds. -/
def Obligations.ClocksFailAndReturn : Prop :=
  ∀ (s : State), s.topRuns = true →
    (∀ c, s.top.failed.contains c = false → completes (.clockFailure c) s (fun t =>
      t.top.failed = s.top.failed ++ [c] ∧ (c = .sundial ∨ c = .osc →
        t.sundialRuns = false ∧ ∀ n, n < 16 → t.dialSub n = s.dialSub n))) ∧
    (∀ c, s.top.failed.contains c = true → completes (.clockRestored c) s (fun t =>
      t.top.failed = s.top.failed.filter (fun x => x != c) ∧
      (c = .sundial ∨ c = .osc → ∀ n, n < 16 → t.dialSub n = s.dialSub n))) ∧
    (∀ b : Fin 4, s.bit (topA 0x108) b.val = true → completes (.clkStatusFall b) s (fun t =>
      t.bit (topA 0x108) b.val = false ∧ ∀ c ∈ bitClocks b.val, t.top.failed.contains c = true))

/-- SerDes lanes (R178, R404, R405): lock sets SIG_DET and CDR_LOCK and the measured latency, the PRBS checker
locks with the 64th error-free lane word in a row, loses lock with the 64th errored one, and counts errored bits while it
is locked, PRBS_CLR clears its count; an empty or full lane data furrow is counted (R258). -/
def Obligations.SerdesLanes : Prop :=
  ∀ (s : State),
    (∀ (f : Chan) (ps : BitVec 20) (q : Byte), s.laneRuns f.val = true → completes (.cdrLock f ps q) s (fun t =>
      t.fld (srdA (srdRx f.val) 0x104) 1 0 = 3 ∧ t.fld (rxA f.val 0x704) 19 0 = ps.toNat ∧
      regsBut (fun r => r = srdA (srdRx f.val) 0x104 ∨ r = rxA f.val 0x704) s t ∧ sameBut [] s t)) ∧
    (∀ (n : Fin 768) (ps : BitVec 20), s.coreRuns = true → s.inReset (pinLatA n.val) = false →
      completes (.pinLatencyMeasure n ps) s (fun t => t.fld (pinLatA n.val) 19 0 = ps.toNat ∧
        regsBut (fun r => r = pinLatA n.val) s t ∧ sameBut [] s t)) ∧
    (∀ n : Fin 768, srdIsRx n.val = true → s.prbsSel n.val ≠ 0 → s.inReset (srdA n.val 0) = false →
      let locked := s.bit (srdA n.val 0x104) 2
      let x := s.prbsAt n.val
      let errs := fun w => (prbsWord (prbsPoly (s.prbsSel n.val)) locked x.bits w).2
      (∀ w, completes (.prbsLock n [w]) s (fun t => ∃ good bad,
        (errs w = 0 → good = x.good + 1 ∧ bad = 0) ∧ (errs w ≠ 0 → good = 0 ∧ bad = x.bad + 1) ∧
        (t.prbsAt n.val).good = good ∧ (t.prbsAt n.val).bad = bad ∧
        t.bit (srdA n.val 0x104) 2 = (if locked then decide (bad < 64) else decide (64 ≤ good)) ∧
        t.nat (srdA n.val 0x108) = (s.nat (srdA n.val 0x108) + (if locked then errs w else 0)) % 2 ^ 32)) ∧
      (∀ ws, completes (.prbsLock n ws) s (fun t => sameBut [.top] s t ∧ t.top.failed = s.top.failed ∧
        (∀ m, m ≠ n.val → t.prbsAt m = s.prbsAt m) ∧
        regsBut (fun r => r = srdA n.val 0x104 ∨ r = srdA n.val 0x108) s t))) ∧
    (∀ n : Fin 768, hostAt s (srdA n.val 0x100) → srdIsRx n.val = true → completes (.prbsClr n) s (fun t =>
      t.nat (srdA n.val 0x108) = 0 ∧ regsBut (fun r => counting r ∨ r = srdA n.val 0x108) s t ∧ keeps [] s t)) ∧
    (∀ (f : Chan) (n : Nat), s.laneRuns f.val = true → completes (.queueUnderrun f n) s (fun t =>
      t.nat (0x900300 + 8 * rowOfCh f.val) = (s.nat (0x900300 + 8 * rowOfCh f.val) + n) % 2 ^ 32 ∧ keeps [] s t)) ∧
    (∀ f : Chan, s.coreRuns = true → s.inReset (txA f.val 0) = false → completes (.overrun f) s (fun t =>
      t.nat (0x900304 + 8 * rowOfCh f.val) = (s.nat (0x900304 + 8 * rowOfCh f.val) + 1) % 2 ^ 32 ∧ sameBut [] s t))

/-- Temperature, GPIO and the I2C port (R409, R410, R413, R414): TJ takes the measurement, OVER_TEMP stands from above the limit
to 5 °C below it and is reported from source 2 at both ends; a write of one byte sets the pointer, a longer one changes
nothing, and a read returns the TOP register at the pointer and moves it on by one.  TEMP_LIMIT is taken below 2^15:
what a larger value means the manual does not say. -/
def Obligations.TemperatureAndPins : Prop :=
  ∀ (s : State),
    (∀ tj : Half, s.topRuns = true → s.fld (topA 0x344) 15 0 < 2 ^ 15 → let lim : Int := s.fld (topA 0x344) 15 0
      completes (.overTemp tj) s (fun t => t.fld (topA 0x340) 15 0 = tj.toNat ∧
        (lim < signed16 tj.toNat → t.bit (topA 0x340) 16 = true) ∧
        (signed16 tj.toNat < lim - 40 → t.bit (topA 0x340) 16 = false) ∧
        (lim - 40 ≤ signed16 tj.toNat → signed16 tj.toNat ≤ lim → t.bit (topA 0x340) 16 = s.bit (topA 0x340) 16) ∧
        (let q := Tab.get s.cur.intake [] 2
         let was := s.bit (topA 0x340) 16
         ∀ clear : Bool, was = clear → (if clear then signed16 tj.toNat < lim - 40 else lim < signed16 tj.toNat) →
           q.length < 4 → ∃ r : Report, Tab.get t.cur.intake [] 2 = q ++ [r] ∧ r.kind = 0xE0 ∧ r.clear = clear ∧
             (tj.toNat < 2 ^ 15 → r.detail = tj.toNat)) ∧
        keeps [] s t)) ∧
    (∀ (p : Fin 16) (b : Bool), completes (.gpioLevelChange p b) s (fun t =>
      Tab.get t.top.pins none p.val = some b ∧
      (s.topRuns = true → s.bit (topA 0x354) p.val = false → t.gpioLevel p.val = b) ∧
      regsBut (fun _ => False) s t ∧ sameBut [.top] s t)) ∧
    (∀ p : Byte, s.topRuns = true → completes (.i2cPointerWrite [p]) s (fun t =>
      t.top = { s.top with i2cPtr := p.toNat } ∧ regsBut (fun _ => False) s t ∧ sameBut [.top] s t)) ∧
    (∀ (p q : Byte) (more : List Byte), completes (.i2cPointerWrite (p :: q :: more)) s (fun t => t = s.setSumCycle [])) ∧
    (s.topRuns = true → completes .i2cRead s (fun t =>
      t.outbox = s.outbox ++ [.i2c (leBytes (s.liveRead (topA (4 * s.top.i2cPtr))).toNat)] ∧
      t.top = { s.top with i2cPtr := (s.top.i2cPtr + 1) % 256 } ∧ sameBut [.top, .outbox] s t))

/-! ### Curator (R285 to R303) -/

/-- The logs (R287 to R291, R299): a report that is taken gets the next entry of the on-die log, a CHIP reaction begins a
chip reset; an entry goes to its slot of the ring unless it was overwritten; the ring's header names the
next entry; LOG_RD is clamped to LOG_WR. -/
def Obligations.CuratorLogs : Prop :=
  ∀ (s : State),
    (∀ src r rest, s.curRuns = true → s.ringReady = true → nextSource s.cur.intake s.cur.lastTaken = some src →
      Tab.get s.cur.intake [] src = r :: rest → r.src = src → src < 1024 → (s.reacts r).block = false →
      completes .reportIntake s (fun t => let n := s.nat (curA 0x108)
        t.nat (curA 0x108) = (n + 1) % 2 ^ 32 ∧ t.cur.lastTaken = src ∧
        t.rd (curA (0x4000 + 16 * (n % 1024))) = BitVec.ofNat 32 r.detail ∧
        t.nat (srcA src 0x10) = (s.nat (srcA src 0x10) + 1) % 2 ^ 32 ∧
        (src ≠ 99 → (src < 640 ∨ 656 ≤ src) → Tab.get t.cur.intake [] src = rest) ∧
        ((s.reacts r).chip = true → s.cur.chipReset = none → t.cur.chipReset = some (2, src, s.now)) ∧
        regsBut (fun a => reporting a ∨ 0x10000 ≤ a ∧ a < 0x20000) s t ∧ keeps [.beds, .outbox] s t)) ∧
    (s.curRuns = true → s.ringReady = true → s.qdrUp = true → s.fld (curA 0x110) 26 0 = ringBase →
      (let n := s.cur.ringNext
       let a := ringBase + 64 + 16 * (n % 65536)
       let w := fun i => s.nat (curA (0x4000 + 16 * (n % 1024) + 4 * i))
       1 ≤ s.uncopied → s.uncopied ≤ 1024 → s.cwBad (a / 64) = false → completes .ringCopy s (fun t =>
         t.qdrGet a 16 = [w 0, w 1, putBits (w 2) 31 30 (n / 65536), w 3].flatMap leBytes ∧
         t.cur.ringNext = (n + 1) % 2 ^ 32 ∧ (∀ p, p < 2 ^ 27 → p < a ∨ a + 16 ≤ p → t.qdrByte p = s.qdrByte p) ∧
         keeps [.qdr, .qdm] s t)) ∧
      (1024 < s.uncopied → completes .ringCopy s (fun t => t.cur.ringNext = (s.cur.ringNext + 1) % 2 ^ 32 ∧
        t.nat (curA 0x138) = (s.nat (curA 0x138) + 1) % 2 ^ 32 ∧ keeps [] s t)) ∧
      completes .ringHeaderWrite s (fun t =>
        t.qdrGet ringBase 8 = leBytes 0x4355524C ++ leBytes s.cur.ringNext ∧
        (∀ p, p < 2 ^ 27 → p < ringBase ∨ ringBase + 64 ≤ p → t.qdrByte p = s.qdrByte p) ∧ t.cwErrs (ringBase / 64) = [] ∧
        keeps [.qdr, .qdm] s t)) ∧
    (∀ v : Word, hostAt s (curA 0x10C) → completes (.logRd v) s (fun t =>
      let rd := s.nat (curA 0x10C)
      let wr := s.nat (curA 0x108)
      t.nat (curA 0x10C) = (if (wr + 2 ^ 32 - rd) % 2 ^ 32 < (v.toNat + 2 ^ 32 - rd) % 2 ^ 32 then wr else v.toNat) ∧
      regsBut (fun r => counting r ∨ r = curA 0x10C ∨ r = curA 0x100) s t ∧ keeps [] s t))

/-- INT, NMI, ALIVE and the controls of sources (R294, R295, R297 to R301): an acknowledgement of NMI acts 1 µs after its
onset; a block reset ends with its entry, its shadow with the report SHADOW_END; ALIVE starts, is resumed
under the key, toggles after 500 µs and stops when kicks are lost; a forced report; a write of SRC_RESET clears
ESCALATED and the history. -/
def Obligations.CuratorControls : Prop :=
  ∀ (s : State),
    (hostAt s (curA 0x124) → completes .nmiAck s (fun t =>
      (s.cur.nmiAt + 1000 ≤ s.now → t.cur.nmiAckPending = false ∧ t.bit (curA 0x100) 2 = false) ∧
      (s.now < s.cur.nmiAt + 1000 → t.cur.nmiAckPending = true ∧ t.rd (curA 0x100) = s.rd (curA 0x100)) ∧
      regsBut (fun r => counting r ∨ r = curA 0x100) s t ∧ keeps [] s t)) ∧
    (∀ src : Fin 1024, s.curRuns = true →
      (∀ r, s.cur.blockResets.find? (fun r => r.src == src.val) = some r → s.resetOver r = true →
        completes (.blockResetEnd src) s (fun t =>
          t.cur.blockResets = s.cur.blockResets.filter (fun x => x.src != src.val) ∧
          ∀ h ∈ t.cur.shadows, h.src = src.val → h.closesAt ≠ none)) ∧
      (∀ h, s.cur.shadows.find? (fun h => h.src == src.val && (match h.closesAt with
          | some t => decide (t ≤ s.now)
          | none => false)) = some h →
        completes (.shadowEnd src) s (fun t => t.cur.shadows.length + 1 = s.cur.shadows.length ∧
          t.bit (curA 0x104) 0 = true ∧ (∀ x ∈ h.covers, t.bit (srcA x 0x0C) 16 = t.shadowed x) ∧ keeps [] s t))) ∧
    (hostAt s (curA 0x118) → completes .aliveStart s (fun t =>
      t.cur.aliveStarted = true ∧ t.cur.aliveLost = false ∧ t.cur.lastKick = s.now ∧
      t.bit (curA 0x100) 0 = (!s.cur.aliveStopped && !s.cur.aliveCore) ∧
      regsBut (fun r => counting r ∨ r = curA 0x100) s t ∧ keeps [] s t)) ∧
    (∀ v : Word, hostAt s (curA 0x120) →
      (s.armed (curA 0) = true → v.getLsbD 0 = true → s.cur.aliveStopped = true → completes (.aliveResume v) s (fun t =>
        t.cur.aliveStopped = false ∧ t.armed (curA 0) = false ∧
        t.bit (curA 0x100) 0 = (s.cur.aliveStarted && !s.cur.aliveLost && !s.cur.aliveCore))) ∧
      (s.armed (curA 0) = false → completes (.aliveResume v) s (fun t =>
        t.cur.aliveStopped = s.cur.aliveStopped ∧ hifReported 2 (curA 0x120) s t))) ∧
    (s.curRuns = true → s.aliveRuns = true → s.cur.lastToggle + 500000 ≤ s.now → completes .aliveToggle s (fun t =>
      t.bit (curA 0x100) 1 = !s.bit (curA 0x100) 1 ∧ t.cur.lastToggle = s.cur.lastToggle + 500000 ∧
      regsBut (fun r => r = curA 0x100) s t ∧ sameBut [.cur] s t)) ∧
    (s.curRuns = true → s.cur.aliveStarted = true → s.cur.aliveLost = false → s.fld (curA 0x11C) 15 0 ≠ 0 →
      s.cur.lastKick + s.fld (curA 0x11C) 15 0 * 1000000 ≤ s.now → completes .aliveKickLost s (fun t =>
        t.cur.aliveLost = true ∧ t.bit (curA 0x100) 0 = false ∧
        t.fld (srcA 99 0x0C) 7 0 = (s.fld (srcA 99 0x0C) 7 0 + 1) % 256 ∧ keeps [] s t)) ∧
    (∀ (src : Fin 1024) (v : Word), (src.val = 98 → uncounted s) →
      (hostAt s (srcA src.val 8) → completes (.srcForce src v) s (fun t =>
        t.fld (srcA src.val 8) 8 0 = v.toNat % 512 ∧ keeps [] s t ∧
        (v.getLsbD 31 = true → v.toNat % 256 ≠ 0 →
          t.fld (srcA src.val 0x0C) 7 0 = (s.fld (srcA src.val 0x0C) 7 0 + 1) % 256 ∧
          ((Tab.get s.cur.intake [] src.val).length < 4 → ∃ r : Report,
            Tab.get t.cur.intake [] src.val = Tab.get s.cur.intake [] src.val ++ [r] ∧ r.kind = v.toNat % 256 ∧
            r.clear = v.getLsbD 8 ∧ r.detail = s.nat (curA 0x128) ∧ r.forced = true)))) ∧
      (hostAt s (srcA src.val 4) → s.armed (curA 0) = true → completes (.srcReset src v) s (fun t =>
        t.bit (srcA src.val 0x0C) 17 = false ∧ Tab.get t.cur.resetTimes [] src.val = [] ∧ t.armed (curA 0) = false ∧
        (∀ n, n = 0 ∨ n = 1 ∨ n = 8 ∨ n = 9 ∨ n = 10 → t.bit (srcA src.val 4) n = v.getLsbD n) ∧ keeps [] s t)))

/-! ### Receive framers (R30 to R82) -/

/-- Frame finding (R30, R32 to R34, R36, R40): a format loads its presets, declares OOF and LOF and hunts, and REHUNT hunts
again; at the next bit to be judged in the window, a pattern that matches under its mask becomes a candidate or confirms
one with its evidence, and one that does not drops its candidate; a window ends with one confirmed candidate in frame,
with several AMBIGUOUS, which the tie-breaker or the limit ends.  That a place out of the order of the bits is passed over
is the model's reading (assumption 83), as is the bit at which a hunt starts where no rule fixes it. -/
def Obligations.FrameFinding : Prop :=
  ∀ (f : Chan) (s : State), let g := f.val
    (∀ fmt : BitVec 4, hostAt s (rxA g 0x100) →
      (fmtOk g fmt.toNat = true → fmt ≠ 0 → fmt.toNat ≠ s.rxFmt g → completes (.formatChange f fmt) s (fun t =>
        t.rxFmt g = fmt.toNat ∧ t.nat (rxA g 0x118) = (presetOf fmt.toNat).2.2.1 ∧ t.rawBit g 2 = true ∧
        ∀ p ∈ phasesOf fmt.toNat, (t.hunter g p).state = .hunt ∧ (t.hunter g p).oof = true)) ∧
      ((fmtOk g fmt.toNat = false ∨ fmt = 0) → completes (.formatChange f fmt) s (fun t => t.rxFmt g = 0))) ∧
    (hostAt s (rxA g 0x104) → s.rxFmt g ≠ 0 → completes (.rehunt f) s (fun t =>
      ∀ p ∈ phasesOf (s.rxFmt g), (t.hunter g p).state = .hunt ∧ (t.hunter g p).cands = [] ∧
        (t.hunter g p).oof = true)) ∧
    (∀ (p : Fin 5), s.rxRuns g = true → p.val ∈ phasesOf (s.rxFmt g) → s.rxFmt g ≠ 0 → s.hunts g p.val = true →
      let h := s.hunter g p.val
      let at_ := fun (t : State) => t.hunter g p.val
      (∀ (pos : Nat) (x : MatchIn),
        let st := h.start.getD (max h.bit (min x.start pos))
        let win := if h.cands = [] then max h.win ((pos - st) / max 1 h.frameLen) else h.win
        let expects := fun (c : Cand) => c.pos + h.frameLen == pos
        let isMatch := s.patternAt g p.val x.window
        h.bit ≤ pos → pos < st + (win + 1) * h.frameLen → (∀ c ∈ h.cands, pos ≤ c.pos + h.frameLen) →
        (h.cands.find? expects = none → isMatch = true → h.state = .hunt →
          (famOf (s.rxFmt g) = 3 → xyzValid (s.streams g) x.xyz = true) → completes (.huntMatch f p pos x) s (fun t =>
            (at_ t).bit = pos + 1 ∧
            (h.cands.length < 8 → (at_ t).cands = h.cands ++
              [{ pos := pos, count := 1, ev := none, evPrev := none, tag := s.matchTag g x }]) ∧
            (8 ≤ h.cands.length → (at_ t).cands = h.cands ∧
              t.nat (rxA g 0x148) = (s.nat (rxA g 0x148) + 1) % 2 ^ 32))) ∧
        (h.cands.find? expects = none → (isMatch = false ∨ h.state = .ambiguous ∨
            famOf (s.rxFmt g) = 3 ∧ xyzValid (s.streams g) x.xyz = false) → completes (.huntMatch f p pos x) s (fun t =>
          (at_ t).bit = pos + 1 ∧ (at_ t).state = h.state ∧ (at_ t).cands = h.cands)) ∧
        (∀ c, h.cands.find? expects = some c →
          (isMatch = true → completes (.huntMatch f p pos x) s (fun t => (at_ t).cands = h.cands.map (fun d =>
            if d = c then { c with pos := pos, count := c.count + 1, ev := some (s.evidence g c x), evPrev := c.ev,
                                   tag := s.matchTag g x } else d))) ∧
          (isMatch = false → h.state = .hunt ∨ h.cands.filter (fun d => d != c) ≠ [] →
            completes (.huntMatch f p pos x) s (fun t => (at_ t).cands = h.cands.filter (fun d => d != c))) ∧
          (isMatch = false → h.state = .ambiguous → h.cands.filter (fun d => d != c) = [] →
            completes (.huntMatch f p pos x) s (fun t => (at_ t).state = .hunt ∧ (at_ t).start = some (pos + 1) ∧
              t.nat (rxA g 0x144) = (s.nat (rxA g 0x144) + 1) % 2 ^ 32)))) ∧
      (∀ st, h.start = some st → let e := st + (h.win + 1) * h.frameLen
        (∀ c ∈ h.cands, e ≤ c.pos + h.frameLen) →
        (h.state = .hunt → let cs := h.cands.filter (fun c => decide (1 + h.confirm ≤ c.count))
          (cs = [] → completes (.huntWindowEnd f p) s (fun t => (at_ t).state = .hunt ∧ (at_ t).cands = h.cands ∧
            (at_ t).win = h.win + 1)) ∧
          (∀ c, cs = [c] → completes (.huntWindowEnd f p) s (fun t => (at_ t).state = .inFrame ∧ (at_ t).oof = false ∧
            (at_ t).lastAlign = some ((((c.pos + 1 : Nat) : Int) - h.anchor) % (max 1 h.frameLen : Nat)).toNat)) ∧
          (2 ≤ cs.length → (∀ c ∈ cs, c.ev ≠ some true) → completes (.huntWindowEnd f p) s (fun t =>
            (at_ t).state = .ambiguous ∧ (at_ t).cands = cs ∧
            t.nat (rxA g 0x140) = (s.nat (rxA g 0x140) + 1) % 2 ^ 32))) ∧
        (h.state = .ambiguous →
          (∀ c, h.winners = [c] → completes (.huntWindowEnd f p) s (fun t => (at_ t).state = .inFrame)) ∧
          (h.winners.length ≠ 1 → h.cands ≠ [] → h.ambigWindows + 1 < h.ambigLimit →
            completes (.huntWindowEnd f p) s (fun t => (at_ t).state = .ambiguous ∧
              (at_ t).ambigWindows = h.ambigWindows + 1)) ∧
          (h.winners.length ≠ 1 → h.ambigLimit ≤ h.ambigWindows + 1 → completes (.huntWindowEnd f p) s (fun t =>
            (at_ t).state = .hunt ∧ t.nat (rxA g 0x144) = (s.nat (rxA g 0x144) + 1) % 2 ^ 32)))))

/-- Frames and losses (R35 to R39, R42 to R44, R47, R48, R51, R56, R67, R70, R71, R76, R77): a frame that starts after the
declaration counts and is captured, descrambled and decoded; a missed pattern adds to the run of errored ones, which
LOSS_COUNT ends in HUNT with that frame flagged OOF; a flywheel frame carries nothing; LOF, LOM, LOFLANE, LOL and
LOS begin and end; the second's latches.  The limit on a change of skew, taken against lane 0, and LOF of a
member that does not lead are the model's readings (assumption 81). -/
def Obligations.FramesAndLosses : Prop :=
  ∀ (f : Chan) (s : State), let g := f.val
    let h := s.hunter g 0
    (∀ x : FrameIn, s.rxDelivers g = true →
      let delivered := fun (t : State) => (t.framer g).frameCount = ((s.framer g).frameCount + 1) % 256 ∧
        (t.framer g).firstIn = false ∧ (t.framer g).mark = (false, false) ∧
        (famOf (s.rxFmt g) ≠ 3 → ∀ slot, slot < 32768 → s.rxSlotOk g slot = true →
          t.captured g slot = s.slotByte g (s.frameTab g x) slot)
      let flagged := fun (t : State) => (t.framer g).frameCount = (s.framer g).frameCount ∧
        (t.framer g).mark = (true, false)
      (s.rxFmt g ≠ 6 → let ok := s.patternAt g 0 x.window
        (ok = true ∨ h.errRun + 1 < h.lossCount → completes (.deliveredFrame f x) s (fun t =>
          (t.hunter g 0).state = .inFrame ∧ (t.hunter g 0).errRun = (if ok then 0 else h.errRun + 1) ∧
          (t.hunter g 0).next = h.next + h.frameLen ∧ (h.firstAt ≤ h.next → delivered t) ∧
          (h.next < h.firstAt → (t.framer g).frameCount = (s.framer g).frameCount))) ∧
        (ok = false → h.lossCount ≤ h.errRun + 1 → completes (.deliveredFrame f x) s (fun t =>
          (t.hunter g 0).state = .hunt ∧ (t.hunter g 0).oof = true ∧ (t.hunter g 0).start = some (h.next + 1) ∧
          t.nat (rxA g 0x150) = (s.nat (rxA g 0x150) + 1) % 2 ^ 32 ∧ flagged t))) ∧
      (s.rxFmt g = 6 → let held := skewOk x.arr && skewHeld (s.framer g).skewRef x.arr
        (x.arr = [] ∨ held = true → completes (.deliveredFrame f x) s delivered) ∧
        (x.arr ≠ [] → held = false → completes (.deliveredFrame f x) s (fun t => t.rawBit g 4 = true ∧ flagged t)))) ∧
    (s.rxFlies g = true → completes (.flywheelFrame f) s (fun t => (t.framer g).hist = [] ∧
      (t.framer g).mark = (true, false) ∧ (t.framer g).frameCount = (s.framer g).frameCount ∧
      (t.framer g).captures = (s.framer g).captures ∧ (t.hunter g (lofKey (s.rxFmt g))).flyDue = false)) ∧
    (∀ p : Fin 5, s.lofDue g (lofKey (s.rxFmt g)) = true → s.rawBit g 2 = false → (lofKey (s.rxFmt g) = 0 ∨ g % 4 = 0) →
      completes (.lof f p) s (fun t => t.rawBit g 2 = true)) ∧
    (∀ p : Fin 5, s.lofOver g (lofKey (s.rxFmt g)) = true → (lofKey (s.rxFmt g) = 0 ∨ g % 4 = 0) →
      completes (.lofClear f p) s (fun t => t.rawBit g 2 = false)) ∧
    (∀ p : Fin 5, s.rxFmt g = 6 → s.lofOver g p.val = true → completes (.lofClear f p) s (fun t =>
      p.val ∉ (t.framer g).loflane ∧
      (g % 4 ≠ 0 → (∀ q, q < 5 → s.lofOver g q = true) → t.rawBit g 2 = false))) ∧
    (∀ p : Fin 5, s.rxFmt g = 6 → s.lofDue g p.val = true → completes (.loflane f p) s (fun t =>
      p.val ∈ (t.framer g).loflane)) ∧
    (s.mfLive g = true →
      ((s.framer g).mf.lomDue (s.lomTime g) s.now = true ∨
          s.omfiRuns g = true ∧ (s.framer g).omfi.lomDue (s.lomTime g) s.now = true →
        completes (.lom f) s (fun t => t.rawBit g 3 = true)) ∧
      ((s.framer g).mf.inMf = true → s.omfiRuns g = false → completes (.lom f) s (fun t => t.rawBit g 3 = false))) ∧
    (∀ arr : List Nat, g < 192 → s.rxRuns (leadOf g) = true → s.groupFramed (leadOf g) = true →
      s.lanesComplete (leadOf g) = true → completes (.otlReassembly f arr) s (fun t =>
        let skew := arr.foldl max 0 - arr.foldl min (arr.headD 0)
        t.fld (rxA (leadOf g) 0x194) 15 0 = min 65535 (skew / 1000) ∧
        t.rawBit (leadOf g) 4 = decide (2000000 < skew))) ∧
    (∀ pos : Nat, s.rxRuns g = true → famOf (s.rxFmt g) = 3 → (s.framer g).trsSeen ≠ 0 →
      (s.framer g).trsSeen + 4194304 ≤ pos + 1 → completes (.eavSpacingTimeout f pos) s (fun t =>
      t.bit (rxA g 0x1B4) 31 = false ∧ (t.framer g).trsSeen = 0 ∧ sameBut [.framers] s t ∧
      regsBut (fun r => r = rxA g 0x1B4) s t)) ∧
    (∀ since : Nat, let lasts := fun lo => max since (s.framer g).detSince + s.fld (rxA g 0x200) (lo + 9) lo * 1000 ≤ s.now
      s.rxRuns g = true → s.rxFmt g ≠ 0 →
      (s.rawBit g 0 = false → lasts 0 → completes (.los f since) s (fun t =>
        t.rawBit g 0 = true ∧ t.fld (srdA (srdRx g) 0x104) 1 0 = 0 ∧ (t.framer g).detSince = s.now ∧
        ∀ p ∈ phasesOf (s.rxFmt g), (t.hunter g p).state = .hunt ∧ (t.hunter g p).heldByLos = true)) ∧
      (s.rawBit g 0 = true → lasts 16 → completes (.losClear f since) s (fun t =>
        t.rawBit g 0 = false ∧ t.bit (srdA (srdRx g) 0x104) 0 = true ∧ (t.tx g).losFreeSince = s.now ∧
        (t.framer g).detSince = s.now ∧ ∀ p ∈ phasesOf (s.rxFmt g), (t.hunter g p).heldByLos = false))) ∧
    (∀ v : Byte,
      (hostAt s (rxA g 0x238) → completes (.pdef (.framer f) v) s (fun t =>
        t.fld (rxA g 0x238) 7 0 = v.toNat ∧
        (t.framer g).pdefEff = (if s.rxFmt g = 0 ∨ s.rxEdges g = true then (s.framer g).pdefEff else v))) ∧
      (∀ (r : Fin 12) (k : Fin 80), hostAt s (tribA r.val k.val 0xC) → completes (.pdef (.trib r k) v) s (fun t =>
        t.fld (tribA r.val k.val 0xC) 7 0 = v.toNat ∧ (t.trib r.val k.val).pdefEff =
          (if s.tTakes r.val k.val = true ∧ s.tribEdges r.val k.val = false then v
           else (s.trib r.val k.val).pdefEff)))) ∧
    (∀ (i : Fin 2) (sf : Bool), let k := 2 * i.val + sf.toNat
      let ended := fun (a : Nat) (d : Deg) => if s.degOn a = false then Deg.init
        else if s.fld a 23 0 ≤ d.frames then d.ended (s.degLimits a) else d
      (s.rxRuns g = true → s.rxFmt g ≠ 0 → completes (.degradeWindowEnd (.framer f) i sf) s (fun t =>
        Tab.get (t.framer g).deg Deg.init k =
          ended (rxA g (0x240 + 0x20 * i.val + 0xC * sf.toNat)) (Tab.get (s.framer g).deg Deg.init k))) ∧
      (∀ (r : Fin 12) (j : Fin 80), i = 1 → s.mapRuns r.val = true → s.tTakes r.val j.val = true →
        completes (.degradeWindowEnd (.trib r j) i sf) s (fun t => Tab.get (t.trib r.val j.val).deg Deg.init k =
          ended (tribA r.val j.val (0x40 + 0xC * sf.toNat)) (Tab.get (s.trib r.val j.val).deg Deg.init k)))) ∧
    (s.coreRuns = true → s.sundialRuns = true → (s.dial 0).latchSec < s.dialNs 0 / 1000000000 → s.rxRuns g = true →
      s.rxFmt g ≠ 0 → completes .oneSecondLatch s (fun t =>
        t.nat (rxA g 0x500) = (s.nat (rxA g 0x500) + 1) % 2 ^ 32 ∧ (t.framer g).latchTaken = true ∧
        (t.dial 0).stepped = false ∧ (t.dial 0).latchSec = s.dialNs 0 / 1000000000))

/-! ### Transmit framers, Trellis, MAP and the Cellar (R28, R60 to R65, R74, R84 to R121, R177) -/

/-- Transmit frames, loop timing and commits (R28, R60, R64, R65, R96, R97, R180, R404): a frame takes TX_TIMING, advances its
multiframe or trace, sends the counts of its receive channel and, where no PRBS goes out in its place, stamps its edge; a
loop-timed lane moves to dial 0 under LOS and back after 10 ms; GO sets BUSY, and the evaluation ends the commit or leaves
all as it was. -/
def Obligations.TransmitAndCommit : Prop :=
  ∀ (s : State),
    (∀ (f : Chan) (x : TxIn), s.txRuns f.val = true → s.txFmt f.val ≠ 0 → (s.txFmt f.val ≠ 6 ∨ f.val % 4 = 0) →
      completes (.transmitFrame f x) s (fun t => let u := s.tx f.val
        let v := t.tx f.val
        v.timing = s.rd (txA f.val 0x300) ∧ v.onDial0 = (u.onDial0 && v.timing.getLsbD 0) ∧
        (s.txFmt f.val = 6 → ∀ j, j < 4 → (t.tx (f.val + j)).timing = s.rd (txA (f.val + j) 0x300)) ∧
        (let rev := s.reverseTakes f.val
         (famOf (s.txFmt f.val) = 1 → v.traceIdx = (u.traceIdx + 1) % 64 ∧ v.accM1 = 0 ∧
          (v.sent.ais = false → s.bit (txA f.val 0x200) 0 = false →
            v.sent.m1.toNat = if rev then min u.accM1 255 else 0)) ∧
         (famOf (s.txFmt f.val) = 2 → v.mfas = (u.mfas + 1) % 256 ∧ v.accSm = 0 ∧ v.accPm = 0 ∧
          (s.bit (txA f.val 0x200) 2 = false → s.rxAct f.val [20] = false →
            v.sent.smBei.toNat = if rev then min u.accSm 8 else 0))) ∧
        (s.sundialRuns = true → s.prbsSel (srdTx f.val) = 0 → (famOf (s.txFmt f.val) ≠ 3 ∨ x.line1 = true) →
          t.nat (txA f.val 0x718) = (s.nat (txA f.val 0x718) + 1) % 2 ^ 32))) ∧
    (∀ f : Chan, s.txRuns f.val = true → let x := s.tx f.val
      (x.onDial0 = true → s.rawBit f.val 0 = false → x.losFreeSince + 10000000 ≤ s.now →
        completes (.loopTimingHoldExpiry f) s (fun t => t.tx f.val = { x with backDue := true } ∧ sameBut [.txs] s t ∧
          regsBut (fun _ => False) s t)) ∧
      (x.timing.getLsbD 0 = true → x.onDial0 = false → s.rawBit f.val 0 = true → completes (.loopTiming f) s (fun t =>
        t.tx f.val = { x with onDial0 := true, backDue := false } ∧ keeps [.txs] s t ∧ regsBut reporting s t)) ∧
      (x.timing.getLsbD 0 = true → x.onDial0 = true → x.backDue = true → s.rawBit f.val 0 = false →
        completes (.loopTiming f) s (fun t => t.tx f.val = { x with onDial0 := false, backDue := false } ∧
          keeps [.txs] s t ∧ regsBut reporting s t))) ∧
    (∀ v : Word, hostAt s (trlA 0x100) → v.getLsbD 0 = true →
      (s.bit (trlA 0x104) 4 = false → completes (.trlCommit v) s (fun t => t.bit (trlA 0x104) 4 = true ∧
        t.commitRows = BitVec.ofNat 16 (bitsOf v.toNat 27 16) ∧ keeps [.commitRows] s t ∧
        regsBut (fun r => counting r ∨ r = trlA 0x104) s t)) ∧
      (s.bit (trlA 0x104) 4 = true → completes (.trlCommit v) s (fun t => t.fld (trlA 0x104) 3 0 = 2 ∧
        t.bit (trlA 0x104) 4 = true ∧ keeps [] s t ∧ regsBut (fun r => counting r ∨ r = trlA 0x104) s t))) ∧
    (s.coreRuns = true → s.inReset (trlA 0) = false → s.bit (trlA 0x104) 4 = true →
      (∀ code i, (s.takeStaged s.commitRows.toNat).commitFault = some (code, i) → completes .commitEvaluation s (fun t =>
        t.nat (trlA 0x104) = (code + i % 65536 * 65536) % 2 ^ 32 ∧ t.bit (trlA 0x108) 1 = true ∧ keeps [] s t ∧
        regsBut (fun r => reporting r ∨ r = trlA 0x104 ∨ r = trlA 0x108 ∨ r = trlA 8) s t)) ∧
      ((s.takeStaged s.commitRows.toNat).commitFault = none → completes .commitEvaluation s (fun t =>
        t.nat (trlA 0x104) = 1 ∧ t.nat (trlA 0x10C) = (s.nat (trlA 0x10C) + 1) % 2 ^ 32 ∧ t.bit (trlA 0x108) 0 = true)))

/-- Tributaries and merge pairs (R64, R86, R87, R89 to R92, R98, R101, R116, R117, R119 to R121): a frame with good
justification control gives Cm or its justifications, one with bad control is counted; a frame sent carries what its
mapping gives it, and the members of a group one MFI; the steering offset stays within 200 ppm; a copy's fingerprint is
kept, and the eighth match at one offset aligns the pair; the decision keeps, forces or switches the selection, or counts
a double fault.  The generators of the two CRCs and the reading of an AMP control are the model's (assumption 84). -/
def Obligations.TributariesAndPairs : Prop :=
  ∀ (s : State),
    (∀ (r : Fin 12) (t : Fin 80), s.mapRuns r.val = true → let y := s.trib r.val t.val
      (∀ x : TribIn, s.tTakes r.val t.val = true → s.tribFed r.val t.val = true →
        completes (.tributaryFrame r t (.take x)) s (fun u =>
          let jcOk := x.crc8 == cmCrc x.cm && x.crc5 == c1dCrc x.c1d
          let adds := fun a n => u.nat (tribA r.val t.val a) = (s.nat (tribA r.val t.val a) + n) % 2 ^ 32
          (u.trib r.val t.val).frameCount =
            (if s.tribWhole r.val t.val then (y.frameCount + 1) % 256 else y.frameCount) ∧
          (s.tGmp r.val t.val = true →
            (jcOk = true → s.cmInWindow r.val t.val x.cm = true →
              u.fld (tmA r.val t.val + 0x10) 15 0 = x.cm % 65536 ∧ adds 0x70 0 ∧ adds 0x74 0) ∧
            (jcOk = false → adds 0x70 1) ∧
            (jcOk = true → s.cmInWindow r.val t.val x.cm = false → adds 0x74 1)) ∧
          (s.tAmp r.val t.val = true →
            (∀ j, majority x.jcs = some j → let n := jcCount (s.tMode r.val t.val == 1) j
              adds 0x78 n.1 ∧ adds 0x7C n.2) ∧
            (majority x.jcs = none → adds 0x70 1)))) ∧
      (∀ x : TribOut, s.tMakes r.val t.val = true → completes (.tributaryFrame r t (.make x)) s (fun u =>
        let v := (u.trib r.val t.val).sent
        (s.tMode r.val t.val ≠ 1 → (v.pt, v.vcPt) = s.ptSent r.val t.val ∧ v.csf = s.clientLost r.val t.val ∧
          (u.trib r.val t.val).accPm = 0 ∧
          (s.makesBy r.val t.val = 0 → s.clientLost r.val t.val = false →
            v.cm * 8 + v.c1d = y.held.toNat + x.bits ∧ v.c1d < 8 ∧ v.crc8 = cmCrc v.cm ∧ v.crc5 = c1dCrc v.c1d)) ∧
        (s.tMode r.val t.val = 3 → v.mfi = y.nextMfi ∧ v.sq = 0 ∧ ∀ m ∈ s.members r.val t.val,
          (u.trib r.val m).sent.mfi = y.nextMfi ∧ (u.trib r.val m).sent.sq = s.tSq r.val m) ∧
        (s.tMode r.val t.val = 1 →
          (s.feed r.val t.val = .open → v.oci = true ∧ v.ais = false) ∧
          (s.feed r.val t.val = .replaced → v.oci = false ∧ v.ais = true) ∧
          (∀ q sig, s.feed r.val t.val = .signal q sig → v.oci = false ∧ v.ais = s.signalAis q sig))))) ∧
    (∀ (r : Fin 12) (t : Fin 80), s.mapRuns r.val = true → (s.tMode r.val t.val = 2 ∨ s.tMode r.val t.val = 3) →
      s.tEgr r.val t.val = true → s.actFld (tmA r.val t.val + 4) 2 2 = 1 → completes (.steeringUpdate r t) s (fun u =>
        -51200000 ≤ (u.trib r.val t.val).steer ∧ (u.trib r.val t.val).steer ≤ 51200000 ∧ u.free = s.free + 1 ∧
        regsBut (fun _ => False) s u ∧ sameBut [.tribs, .free] s u)) ∧
    (∀ (i : Fin 96) (b : Bool) (fp : Word) (arr : Nat), s.mRuns i.val = true → s.mSelector i.val = false →
      let unit := fpUnit i.val b
      (s.copyFrame i.val b).2.2 = some fp → s.inReset (chkA unit 0) = false →
      completes (.fingerprintLookup i b arr) s (fun u =>
        let frame := framePs (s.rxFmt (s.mChanA i.val)) / 1000
        let own : Fp := { fp := fp, at_ := arr, valid := s.frameValid i.val b }
        let p := s.pair i.val
        let h := recent (if b then p.histA else p.histB) arr
          (plotsNs (Tab.get s.grants (0, 0) i.val).2 (s.rxFmt (s.mChanA i.val)) + frame)
        (own ∈ (if b then (u.pair i.val).histB else (u.pair i.val).histA)) ∧ u.nat (chkA unit 0x20) = fp.toNat ∧
        u.nat (chkA unit 0x28) = (s.nat (chkA unit 0x28) + 1) % 2 ^ 32 ∧
        (own.valid = false → regsBut (fun a => a = chkA unit 0x20 ∨ a = chkA unit 0x24 ∨ a = chkA unit 0x28) s u) ∧
        (∀ o, own.valid = true → s.mAligned i.val = false → h.filter (fun o => o.fp == fp) = [o] → o.valid = true →
          let off := matchOffset b arr o.at_
          (u.pair i.val).off = off ∧ (p.cand = divNear off (max 1 frame) → s.fld (pairA i.val 0xC) 11 8 = 7 →
            u.mAligned i.val = true)))) ∧
    (∀ (i : Fin 96) (arrival : Nat) (c : CelIn), s.mRuns i.val = true →
      completes (.perFrameDecision i arrival c) s (fun u =>
        let va := (s.judged i.val arrival).1
        let vb := (s.judged i.val arrival).2
        let sel := s.mSel i.val
        (u.pair i.val).staged = true ∧ u.bit (pairA i.val 0xC) 5 = va ∧ u.bit (pairA i.val 0xC) 6 = vb ∧
        (s.mForce i.val = 1 → u.mSel i.val = false) ∧ (s.mForce i.val = 2 → u.mSel i.val = true) ∧
        (s.mForce i.val = 0 → (if sel then vb else va) = true → u.mSel i.val = sel) ∧
        (s.mForce i.val = 0 → (if sel then vb else va) = false → (if sel then va else vb) = true →
          u.mSel i.val = !sel ∧ u.nat (pairA i.val 0x14) = (s.nat (pairA i.val 0x14) + 1) % 2 ^ 32) ∧
        (s.mForce i.val = 0 → va = false → vb = false →
          u.mSel i.val = sel ∧ u.nat (pairA i.val 0x18) = (s.nat (pairA i.val 0x18) + 1) % 2 ^ 32))) ∧
    (∀ (i : Fin 96) (t : Nat), s.mRuns i.val = true → s.mSelector i.val = false → s.mAligned i.val = false →
      (s.pair i.val).validSince = some t → t + 1000000000 ≤ s.now → s.bit (pairA i.val 0xC) 4 = false →
      completes (.noMatch i) s (fun u => u.bit (pairA i.val 0xC) 4 = true ∧ u.bit (pairA i.val 0x30) 4 = true ∧
        keeps [] s u))

/-! ### Sundial (R129 to R192) -/

/-- References (R132 to R135, R138, R139, R167): an edge of a digital input counts where GLITCH_NS passes it, a tap's where
its lane is not lost, a software reference's at its own period; a valid edge sets the next expectation, a bad one is
counted; without edges the reference goes to LOSS; an update within the limit waits for the boundary, one beyond it is
refused.  Sundial's own time, and edges of an analog input as Sieve delivers them, are the model's (assumption 85). -/
def Obligations.SundialReferences : Prop :=
  ∀ (s : State),
    (∀ (ref : Fin 84) (time low high : Nat), s.sundialRuns = true → s.qstate ref.val ≠ 0 → s.qstate ref.val ≠ 6 →
      let r := ref.val
      let i := Instr.referenceEdge ref time low high
      let x := s.ref r
      let at_ := min (s.toSdl time) (s.sdlNow * 65536 + 65535)
      let fits := fun (te a b : Nat) => s.refPeriod r = some (a, b) ∧ ∀ l, x.lastEdge = some l → edgeFits l te a b = true
      let taken := fun (te : Nat) (t : State) => (t.ref r).lastEdge = some te ∧ (t.ref r).quietSince = s.sdlNow ∧
        t.bit (refA r 0x18) 4 = true ∧ (s.qstate r = 1 → t.qstate r = (if x.qualBefore = true ∧
          s.sdlNow ≤ x.quietSince + s.polFld (refA r 0x14) 15 0 * 1000000 then 3 else 2))
      (r < 16 → completes i s (fun t => t.refs = s.refs ∧ t.dials = s.dials)) ∧
      (16 ≤ r → r < 64 → let te := at_ / 1280 * 1280 - (Config.fuse (refA r 0)).toNat
        let g := s.polFld (refA r 0) 15 8
        let passes := decide ((x.high = false ∨ g ≤ low) ∧ g ≤ high)
        (passes = true → ∀ a b, fits te a b → completes i s (taken te)) ∧
        (passes = true → ∀ a b l, s.refPeriod r = some (a, b) → x.lastEdge = some l → edgeFits l te a b = false →
          completes i s (fun t => t.nat (refA r 0x28) = (s.nat (refA r 0x28) + 1) % 2 ^ 32 ∧
            t.ref r = { x with high := true } ∧ (∀ k, k ≠ r → t.ref k = s.ref k) ∧ keeps [.refs] s t ∧
            regsBut (fun a => counting a ∨ a = refA r 0x28) s t)) ∧
        (passes = false → completes i s (fun t => (t.ref r).lastEdge = x.lastEdge ∧ keeps [.refs] s t ∧
          regsBut (fun _ => False) s t))) ∧
      (64 ≤ r → r < 80 →
        (s.tapLost r = true → completes i s (fun t => t.refs = s.refs ∧ t.dials = s.dials)) ∧
        (s.tapLost r = false → ∀ a b, fits (at_ / 81920 * 81920) a b → completes i s (taken (at_ / 81920 * 81920)))) ∧
      (80 ≤ r → s.qstate r ≠ 1 → let p := x.swNext.getD at_
        p ≤ s.sdlNow * 65536 + 65535 → completes i s (fun t =>
          (t.ref r).swNext = some (p + swPeriod x.swApplied) ∧ (∀ a b, fits p a b → (t.ref r).lastEdge = some p)))) ∧
    (∀ r : Fin 84, s.sundialRuns = true → s.lossDue r.val = true → completes (.loss r) s (fun t => t.qstate r.val = 1 ∧
      (t.ref r.val).lastEdge = none ∧ (t.ref r.val).freqs = [] ∧ t.fld (refA r.val 0x18) 15 8 = 0)) ∧
    (∀ k : Fin 4, s.sundialRuns = true → s.lossDue (80 + k.val) = true → completes (.swTimeout k) s (fun t =>
      t.qstate (80 + k.val) = 1)) ∧
    (∀ k : Fin 4, let r := 80 + k.val
      hostAt s (refA r 0x48) → s.swFed k.val = false →
      (|s.int (refA r 0x44)| ≤ (s.polFld (refA r 0x50) 15 0 * 65536 : Nat) → completes (.swUpdate k) s (fun t =>
        (t.ref r).swPending = some (s.int (refA r 0x40), (match (s.ref r).swPending with
          | some (_, a) => a
          | none => 0) + s.int (refA r 0x44)) ∧ (t.ref r).swAt = s.sdlNow)) ∧
      ((s.polFld (refA r 0x50) 15 0 * 65536 : Nat) < |s.int (refA r 0x44)| → completes (.swUpdate k) s (fun t =>
        t.refs = s.refs ∧ t.nat (refA r 0x58) = (s.nat (refA r 0x58) + 1) % 2 ^ 32 ∧ t.bit (refA r 0x30) 9 = true ∧
        keeps [] s t)))

/-- Windows, dials, time and outputs (R141, R142, R146, R147, R168, R172, R174, R175, R181, R184, R187, R190): pending policy
takes effect at a boundary; hold-off, lock and holdover end as they must; RESTART waits; the detector's sums are taken; a
capture reads the dial; SET and ADJ are armed and step the time at a second, SET first; an edge is driven when it is due at
its ball, or skipped and counted; messages.  Where an edge is placed, and its latency, are the model's readings
(assumption 67). -/
def Obligations.SundialDials : Prop :=
  ∀ (s : State),
    (s.sundialRuns = true → s.winStart + 1000000000 ≤ s.sdlNow → completes .measurementWindowEnd s (fun t =>
      t.policyPending = [] ∧ t.winStart = s.winStart + 1000000000 ∧
      (∀ a ∈ s.policyPending, sdlPolicy a = true → t.pol a = s.rd a))) ∧
    (∀ n : Fin 16, s.sundialRuns = true → let d := s.dial n.val
      (s.bit (dialA n.val 0x10) 3 = true → d.holdoffAt + s.holdoffNs n.val ≤ s.sdlNow →
        (s.returnWaits (s.selRef n.val) = false →
          completes (.holdoffExpiry n) s (fun t => t.bit (dialA n.val 0x10) 3 = false)) ∧
        (s.returnWaits (s.selRef n.val) = true →
          completes (.holdoffExpiry n) s (fun t => regsBut (fun _ => False) s t ∧ sameBut [] s t))) ∧
      (s.lockDue n.val = true → completes (.lock n) s (fun t => t.dialState n.val = 2 ∧ t.bit (dialA n.val 0x10) 4 = true ∧
        t.bit (dialA n.val 0x18) 0 = true)) ∧
      (s.dialState n.val = 3 → s.pol (dialA n.val 0xC) ≠ 0 →
        d.stateSince + (s.pol (dialA n.val 0xC)).toNat * 1000000000 ≤ s.sdlNow →
        completes (.holdoverExpired n) s (fun t => t.dialState n.val = 4 ∧ t.bit (dialA n.val 0x18) 4 = true)) ∧
      (s.follows n.val (s.selRef n.val) = true → s.updateDue n.val (s.selRef n.val) = true →
        completes (.phaseDetectorUpdate n) s (fun t => (t.dial n.val).rawSum = 0 ∧ (t.dial n.val).rawN = 0 ∧
          ((t.dial n.val).firstError = false ∨ s.dialState n.val = 2 ∧ t.dialState n.val = 1))) ∧
      (s.dialState n.val = 2 → s.bit (dialA n.val 0x10) 3 = false → d.ySumFrom + 1000000000 ≤ s.sdlNow →
        completes (.holdoverRecord n) s (fun t => (t.dial n.val).ho.length =
          min (d.ho.length + 1) (300 + s.polFld (dialA n.val 0x8C) 5 0) ∧
          (t.dial n.val).ySumFrom = s.sdlNow ∧ (t.dial n.val).ySum = 0 ∧ sameBut [.dials] s t)) ∧
      (let sec := s.dialNs n.val / 1000000000
       let cur : Int := (sec * (1000000000 * 65536) : Nat)
       let set := armDue d.setArmed (s.instantOf n.val cur)
       let adj := armDue d.adjArmed (s.instantOf n.val cur)
       let step : Int := (if set then (s.setTime n.val : Int) - cur else 0) +
         (if adj then s.int (dialA n.val 0xE0) * 256 else 0)
       (sec ≤ d.sec → completes (.dialSecondBoundary n) s (fun t => regsBut (fun _ => False) s t ∧ sameBut [] s t)) ∧
       (d.sec < sec → 0 ≤ (s.dialSub n.val : Int) + step → completes (.dialSecondBoundary n) s (fun t =>
         (t.dialSub n.val : Int) = s.dialSub n.val + step ∧
         (t.dial n.val).setArmed = (if set then none else d.setArmed) ∧
         (t.dial n.val).adjArmed = (if adj then none else d.adjArmed) ∧
         t.bit (dialA n.val 0xC0) 8 = (!set && s.bit (dialA n.val 0xC0) 8) ∧
         t.bit (dialA n.val 0xC0) 9 = (!adj && s.bit (dialA n.val 0xC0) 9))))) ∧
    (∀ n : Fin 16,
      (hostAt s (dialA n.val 0) → completes (.restart n) s (fun t =>
        t.dial n.val = { s.dial n.val with restartDue := true } ∧ keeps [.dials] s t ∧ regsBut counting s t)) ∧
      (hostAt s (dialA n.val 0xC0) →
        completes (.capture n) s (fun t => let d := s.dialSub n.val
          t.nat (dialA n.val 0xC4) = ((tsWords d).getD 0 0).toNat + ((tsWords d).getD 1 0).toNat * 65536 ∧
          t.nat (dialA n.val 0xD0) = (s.nat (dialA n.val 0xD0) + 1) % 2 ^ 32 ∧ keeps [] s t) ∧
        completes (.timeSet n) s (fun t => (t.dial n.val).setArmed = some s.sdlNow ∧ t.bit (dialA n.val 0xC0) 8 = true ∧
          keeps [.dials] s t ∧ regsBut (fun r => counting r ∨ r = dialA n.val 0xC0) s t) ∧
        completes (.timeAdj n) s (fun t => (t.dial n.val).adjArmed = some s.sdlNow ∧ t.bit (dialA n.val 0xC0) 9 = true ∧
          keeps [.dials] s t ∧ regsBut (fun r => counting r ∨ r = dialA n.val 0xC0) s t))) ∧
    (hostAt s (sdlA 0x120) → completes .timeCaptureAll s (fun t => ∀ n, n < 16 →
      t.nat (dialA n 0xD0) = (s.nat (dialA n 0xD0) + 1) % 2 ^ 32)) ∧
    (∀ g : Fin 96, let now : Int := (s.sdlNow * 65536 + 65535 : Nat)
      (s.genRuns g.val = true → let at_ := s.placeEdge g.val (s.genDial g.val) (s.genTime g.val (s.gen g.val).k)
        at_ ≤ now → let x := s.genEnd g.val at_
        (x.soon at_ = false → completes (.generatorEdge g true) s (fun t => (t.gen g.val).level = true ∧
          (t.gen g.val).lastEdge = some at_ ∧ (t.gen g.val).k = x.k + 1 ∧
          Tab.get t.top.tout false g.val = (s.polFld (genA g.val 0) 2 2 == 0) ∧
          (s.genPair g.val = true → Tab.get t.top.tout false (g.val + 1) = (s.polFld (genA g.val 0) 2 2 == 1)))) ∧
        (x.soon at_ = true → completes (.generatorEdge g true) s (fun t => (t.gen g.val).level = x.level ∧
          (t.gen g.val).k = x.k + 1 ∧ t.nat (genA g.val 0x28) = (s.nat (genA g.val 0x28) + 1) % 2 ^ 32))) ∧
      (s.sundialRuns = true → (s.gen g.val).level = true →
        let at_ := s.placeEdge g.val (s.gen g.val).fallDial (s.gen g.val).fall
        at_ ≤ now → completes (.generatorEdge g false) s (fun t => (t.gen g.val).level = false ∧
          (t.gen g.val).lastEdge = some at_))) ∧
    (∀ (ch : Fin 192) (x : TtcIn), s.ttcRuns ch.val = true → let c := s.ttc ch.val
      let i := Instr.ttcMessage ch x
      let adds := fun (a : Nat) (t : State) => t.nat (ttcA ch.val a) = (s.nat (ttcA ch.val a) + 1) % 2 ^ 32
      let bad := c.rxBad || anyBit (s.nat (rxA ch.val 0x208)) [2, 3]
      let at_ := c.rxMfas0
      let dep := fullTime x.dep.toNat (at_ / 65536 / 1000000000)
      let arr := fullTime x.arr.toNat (at_ / 65536 / 1000000000)
      let near := fun (a : Int) (b : Nat) => |a - (b : Int)| ≤ 65536000000000
      let kept := (x.seq.toNat, at_, c.rxSteps) :: c.arrs.take 15
      (bad = true → completes i s (fun t => adds 0x24 t ∧ sameBut [] s t)) ∧
      (bad = false → (crc8 (ttcBytes x) ≠ x.crc ∨ x.version ≠ 1) → completes i s (fun t => adds 0x28 t ∧ sameBut [] s t)) ∧
      (bad = false → crc8 (ttcBytes x) = x.crc → x.version = 1 →
        (¬ near dep at_ → completes i s (fun t => adds 0x2C t ∧ t.ttcs = s.ttcs)) ∧
        (near dep at_ → x.echoValid = false → completes i s (fun t =>
          (t.ttc ch.val).arrs = kept ∧ adds 0x30 t ∧ sameBut [.ttcs] s t)) ∧
        (∀ t1 t4, near dep at_ → x.echoValid = true → keptAt c.deps x.echoSeq.toNat = some t1 → near arr t1.1 →
          keptAt c.arrs ((x.seq.toNat + 255) % 256) = some t4 → completes i s (fun t =>
            (t.ttc ch.val).arrs = kept ∧ adds 0x20 t ∧ t.bit (ttcA ch.val 0xC) 0 = true)))) ∧
    (∀ ch : Fin 192, s.sundialRuns = true → s.bit (ttcA ch.val 0xC) 0 = true →
      (s.ttc ch.val).lastPass + s.ttcSpan ch.val ≤ s.sdlNow → completes (.ttcLoss ch) s (fun t =>
        t.bit (ttcA ch.val 0xC) 0 = false ∧ t.bit (ttcA ch.val 0x34) 1 = true ∧ keeps [] s t))

/-! ### Sieve (R151 to R166) -/

/-- Sieve: a swap waits for an output sample and then makes the other bank active with its group delay; samples move the
filters on and count clipped codes; blocks, windows and the gate end as R156 to R162 say; edges are delivered in order (R164). -/
def Obligations.SieveInputs : Prop :=
  ∀ (i : Fin 16) (s : State), let k := i.val
    let v := s.sve k
    (hostAt s (sveA k 4) → completes (.swap i) s (fun t => t.bit (sveA k 4) 9 = true ∧ keeps [] s t ∧
      regsBut (fun r => counting r ∨ r = sveA k 4) s t)) ∧
    (s.sampleRuns k = true → s.bit (sveA k 4) 9 = true →
      (s.sieves k = true → (v.idx - v.phaseFrom) % s.decim k (s.activeBank k) = 0) → completes (.swapDone i) s (fun t =>
        let b := 1 - s.activeBank k
      t.activeBank k = b ∧ t.bit (sveA k 4) 9 = false ∧ t.fld (sveA k 0x20) 23 0 = s.gdTotal k b % 2 ^ 24 ∧
      t.bit (sveA k 0x20) 24 = s.gdUnknown k b ∧ (t.sve k).phaseFrom = v.idx ∧
      t.nat (sveA k 0x54) = (s.nat (sveA k 0x54) + 1) % 2 ^ 32 ∧ keeps [.sves] s t)) ∧
    (s.sieves k = true →
      (∀ tick mark rest, v.ready = (tick, mark) :: rest → completes (.edgeDelivery i) s (fun t =>
        (t.sve k).ready = rest ∧ t.nat (sveA k 0x40) = (s.nat (sveA k 0x40) + 1) % 2 ^ 32)) ∧
      (s.inWindow k = false → v.inside = true → v.insideAt + 1000000 ≤ s.sdlNow → completes (.windowIn i) s (fun t =>
        t.inWindow k = true ∧ t.bit 0x100100 k = true ∧ t.bit (sveA k 0x60) 0 = true ∧ keeps [] s t)) ∧
      (s.inWindow k = true → v.inside = false → v.insideAt + 100000 ≤ s.sdlNow → completes (.windowOut i) s (fun t =>
        t.inWindow k = false ∧ t.bit 0x100100 k = false ∧ t.bit (sveA k 0x60) 1 = true ∧ keeps [] s t)) ∧
      (∀ adc : List (BitVec 12), completes (.outputSample i adc) s (fun t => (t.sve k).idx = v.idx + adc.length ∧
        t.nat (sveA k 0x48) =
          (s.nat (sveA k 0x48) + (adc.filter (fun c => decide (c = 0 ∨ c = 4095))).length) % 2 ^ 32))) ∧
    (s.sampleRuns k = true →
      (∀ mx mn rms, v.block = some (mx, mn, rms) → completes (.peakBlockEnd i) s (fun t =>
        t.sve k = { v with block := none } ∧ t.fld (sveA k 0x38) 15 0 = unsignedOf 16 mx ∧
        t.fld (sveA k 0x38) 31 16 = unsignedOf 16 mn ∧ t.fld (sveA k 0x3C) 15 0 = rms % 65536 ∧ sameBut [.sves] s t)) ∧
      (s.bit (sveA k 0x30) 1 = true → v.lastSync + 2000000 ≤ s.sdlNow → completes (.gateLapse i) s (fun t =>
        t.bit (sveA k 0x30) 1 = false ∧ t.sve k = { v with syncRun := 0 } ∧ sameBut [.sves] s t)))

/-! ### Beds and furrows (R210, R214 to R216, R221, R243 to R260) -/

/-- Timers, bed faults, takeover and revival (R210, R214 to R216, R221, R271): a due timer enters the queue or waits for room;
FAIL acts under the key alone; a fault makes the bed FAULTED; a takeover loads the spare and then makes it RUNNING;
REVIVE runs the self-test, which ends SPARE if it passed. -/
def Obligations.BedCommands : Prop :=
  ∀ (bed : Fin 16) (s : State), let b := bed.val
    let y := s.bed b
    (∀ (k : Fin 512) dl w2 arg, (Tab.get y.timers Timer.init k.val).armed = some (dl, w2, arg) → s.enginesRun = true →
      s.timerDue b dl = true → completes (.timerFire bed k) s (fun t =>
        (Tab.get (t.bed b).timers Timer.init k.val).armed = none ∧
        (1024 ≤ y.evq.length → (t.bed b).evq = y.evq ∧
          (Tab.get (t.bed b).timers Timer.init k.val).fired = some (w2, arg)) ∧
        (y.evq.length < 1024 → 64 ≤ w2.toNat % 256 → (t.bed b).evq = y.evq ++ [timerEvent w2 arg]) ∧
        keeps [.beds] s t)) ∧
    (∀ (k : Fin 512) w2 arg, (Tab.get y.timers Timer.init k.val).fired = some (w2, arg) → y.evq.length < 1024 →
      completes (.timerEnqueue bed k) s (fun t => (Tab.get (t.bed b).timers Timer.init k.val).fired = none ∧
        (64 ≤ w2.toNat % 256 → (t.bed b).evq = y.evq ++ [timerEvent w2 arg]) ∧ keeps [.beds] s t)) ∧
    (hostAt s (bedA b 0x100) →
      (∀ v : Word, s.armed (bedA b 0) = true → v.getLsbD 0 = true → completes (.fail bed v) s (fun t => t.role b = 4 ∧
        t.bit (bedA b 0x100) 4 = v.getLsbD 4 ∧ t.armed (bedA b 0) = false)) ∧
      (∀ v : Word, s.armed (bedA b 0) = false → completes (.fail bed v) s (fun t => t.role b = s.role b ∧
        t.rd (bedA b 0x100) = s.rd (bedA b 0x100) ∧ hifReported 2 (bedA b 0x100) s t)) ∧
      (s.role b = 4 → completes (.revive bed) s (fun t => (t.bed b).reviving = true ∧ t.role b = 4))) ∧
    (s.enginesRun = true →
      completes (.bedFault bed 0) s (fun t => t.role b = s.role b ∧ t.bit (bedA b 0x108) 2 = true ∧ keeps [] s t) ∧
      (∀ c : Fin 4, c = 2 ∨ c = 3 ∨ (c = 1 ∧ max 1 (s.fld (bedA b 0x110) 13 8) < s.fld (bedA b 0x104) 13 8) →
        completes (.bedFault bed c) s (fun t => t.role b = 4 ∧ (s.role b ≠ 4 → (t.bed b).evq = [])))) ∧
    (∀ m, y.move = some m → m.why = 0 → m.old < 16 → m.old ≠ b → s.role b = 3 →
      (s.enginesRun = true → m.stage = 1 → completes (.takeoverLoad bed) s (fun t =>
        (t.bed b).initPending = some 1 ∧ (t.bed b).move = some { m with stage := 2 } ∧ (t.bed b).startedAt = s.now ∧
        t.role b = 3 ∧ t.lbed b = s.lbed b)) ∧
      (m.stage = 3 → (∀ r, r < 12 → s.fld (routeA r) 3 0 = b → s.bit (routeA r) 8 = false) →
        completes (.takeoverDone bed) s (fun t => t.role b = 2 ∧ (t.bed b).move = none ∧
          t.fld (bedA m.old 0x104) 19 16 = b ∧ t.bit (bedA m.old 0x108) 3 = true))) ∧
    (y.reviving = true → s.role b = 4 →
      completes (.reviveSelftestEnd bed false) s (fun t => t.role b = 4 ∧ (t.bed b).reviving = false) ∧
      (s.actState ≠ 4 → completes (.reviveSelftestEnd bed true) s (fun t => t.role b = 1 ∧
        (t.bed b).reviving = false))) ∧
    (∀ v : Word, hostAt s (bedA b 0x15C) → completes (.queueHwmReset bed v) s (fun t =>
      t.fld (bedA b 0x15C) 10 0 = y.evq.length % 2048 ∧ keeps [] s t ∧
      regsBut (fun r => counting r ∨ r = bedA b 0x15C) s t))

/-- Furrows, routes and check units (R251 to R256, R260, R311, R312): an item's age brings a notice; a flush waits for the owner
and empties the furrow; a route is written under the key and refused in a clash; a command item leaves its furrow;
a job is started, ended with its result or an uncorrectable word, or aborted. -/
def Obligations.FurrowsAndChecks : Prop :=
  ∀ (s : State),
    (∀ F : Fin 64, let f := s.fur F.val
      (∀ it rest, f.unreleased = it :: rest → s.fld (furA F.val 0) 31 16 ≠ 0 → s.noticed F.val = false →
        it.at_ + s.fld (furA F.val 0) 31 16 * 1000 ≤ s.now → completes (.noticeAgeExpiry F) s (fun t =>
          t.noticed F.val = true ∧ t.nat (furA F.val 0x20) = (s.nat (furA F.val 0x20) + 1) % 2 ^ 32 ∧ keeps [] s t)) ∧
      (hostAt s (furA F.val 4) → furExists F.val = true →
        completes (.flush F) s (fun t => t.bit (furA F.val 8) 13 = true ∧ keeps [] s t ∧
          regsBut (fun r => counting r ∨ r = furA F.val 8) s t) ∧
        completes (.hwmClr F) s (fun t => t.fld (furA F.val 0xC) 10 0 = occupancy f.items % 2048 ∧ keeps [] s t ∧
          regsBut (fun r => counting r ∨ r = furA F.val 0xC) s t)) ∧
      (∀ mid, s.bit (furA F.val 8) 13 = true → f.owner = 0 → completes (.flushExecute F mid) s (fun t =>
        (t.fur F.val).items = [] ∧ (t.fur F.val).flushed = true ∧ t.bit (furA F.val 8) 13 = false ∧
        t.nat (furA F.val 0x1C) = (s.nat (furA F.val 0x1C) + f.items.length + min mid (hwProducers F.val)) % 2 ^ 32 ∧
        keeps [.furs, .beds, .framers, .mapOh] s t)) ∧
      (∀ b, s.writtenBed F.val = some b → b ≠ f.bed → f.owner = 0 → s.bit (furA F.val 8) 13 = false →
        completes (.unownedFurrowMove F) s (fun t => (t.fur F.val).bed = b ∧ (t.fur F.val).items = f.items ∧
          keeps [.furs] s t))) ∧
    (∀ (r : Fin 12) (v : Word), hostAt s (routeA r.val) →
      (s.armed (baseOf (routeA r.val)) = true → s.bit (routeA r.val) 8 = false →
        (∀ q, q < 12 → q ≠ r.val → ¬(s.fld (routeA q) 3 0 = bitsOf v.toNat 3 0 ∧ s.fld (routeA q) 4 4 = bitsOf v.toNat 4 4)) →
        completes (.rowRoute r v) s (fun t => t.fld (routeA r.val) 3 0 = bitsOf v.toNat 3 0 ∧
          t.fld (routeA r.val) 4 4 = bitsOf v.toNat 4 4 ∧ t.bit (routeA r.val) 8 =
            ((s.fur r.val).bed != bitsOf v.toNat 3 0 || (s.fur r.val).pair != bitsOf v.toNat 4 4) ∧
          (t.fur r.val).routeAt = s.now + 1000000 ∧ keeps [.furs] s t)) ∧
      (s.armed (baseOf (routeA r.val)) = true → s.bit (routeA r.val) 8 = true → completes (.rowRoute r v) s (fun t =>
        t.rd (routeA r.val) = s.rd (routeA r.val) ∧ t.armed (baseOf (routeA r.val)) = false ∧ keeps [] s t)) ∧
      (s.armed (baseOf (routeA r.val)) = false → completes (.rowRoute r v) s (fun t =>
        t.rd (routeA r.val) = s.rd (routeA r.val) ∧ hifReported 2 (routeA r.val) s t))) ∧
    (∀ r : Fin 12,
      (s.bit (routeA r.val) 8 = true → (s.fur r.val).routeAt ≤ s.now → s.routeFree r.val = true →
        s.bit (furA r.val 8) 13 = false → s.bit (furA (12 + r.val) 8) 13 = false → completes (.routeChange r) s (fun t => t.bit (routeA r.val) 8 = false ∧
          (∀ F, F = r.val ∨ F = 12 + r.val ∨ F = 24 + r.val → (t.fur F).bed = s.fld (routeA r.val) 3 0 ∧
            (t.fur F).pair = s.fld (routeA r.val) 4 4) ∧ keeps [.furs] s t)) ∧
      (∀ it rest, s.coreRuns = true → s.inReset (mapA r.val 0) = false → (s.fur (24 + r.val)).items = it :: rest →
        completes (.ohSet r) s (fun t => (t.fur (24 + r.val)).items = rest ∧
          ∀ w o slot b, it.words = [w, slot, b] → namedObj w = some o → it.header.toNat / 4096 = 8 → objRow o = r.val →
            (s.ohPut (some o) slot.toNat (b.setWidth 8)).1 = true →
            t.txs = (s.ohPut (some o) slot.toNat (b.setWidth 8)).2.txs ∧
            t.tribs = (s.ohPut (some o) slot.toNat (b.setWidth 8)).2.tribs))) ∧
    (∀ u : Fin 32, let range := s.fld (chkA u.val 8) 26 0 + s.fld (chkA u.val 0xC) 27 0
      let cws := codewords (s.fld (chkA u.val 8) 26 0) (s.fld (chkA u.val 0xC) 27 0)
      (hostAt s (chkA u.val 0x18) → 5 ≤ u.val → u.val < 8 →
        (s.jobBusy u.val = false → range ≤ 2 ^ 27 → completes (.checkJobGo u) s (fun t => t.jobBusy u.val = true ∧
          t.fld (chkA u.val 0x1C) 3 1 = 0 ∧ keeps [] s t)) ∧
        (s.jobBusy u.val = false → 2 ^ 27 < range → completes (.checkJobGo u) s (fun t => t.jobBusy u.val = false ∧
          t.fld (chkA u.val 0x1C) 3 1 = 6 ∧ t.bit (chkA u.val 0x30) 3 = true ∧ keeps [] s t)) ∧
        (s.jobBusy u.val = true → completes (.checkJobAbort u) s (fun t => t.jobBusy u.val = false ∧
          t.fld (chkA u.val 0x1C) 3 1 = 5 ∧ t.bit (chkA u.val 0x30) 0 = true ∧ keeps [] s t))) ∧
      (5 ≤ u.val → u.val < 8 → s.jobBusy u.val = true → s.qdrUp = true →
        (cws.find? s.cwBad = none → completes (.checkJobDone u) s (fun t => t.jobBusy u.val = false ∧
          t.nat (chkA u.val 0x20) = s.jobResult u.val % 2 ^ 32 ∧
          t.nat (chkA u.val 0x24) = s.jobResult u.val / 2 ^ 32 % 2 ^ 32 ∧
          (s.bit (chkA u.val 0) 3 = false → t.fld (chkA u.val 0x1C) 3 1 = 1) ∧ t.bit (chkA u.val 0x30) 0 = true)) ∧
        (∀ cw, cws.find? s.cwBad = some cw → completes (.checkJobDone u) s (fun t => t.jobBusy u.val = false ∧
          t.fld (chkA u.val 0x1C) 3 1 = 4 ∧ t.bit (chkA u.val 0x30) 2 = true))))

/-! ### Inventory (R315 to R326) -/

/-- Inventory: a setting is stored, a new event or unit clears the count, CLEAR and LOAD act on COUNT and OVF; a snapshot and
a change of RUN are scheduled 2 µs ahead, each domain copies and takes RUN, and the end shows the stale domains;
a wrap sets OVF and its event and owes a sample; tags are recorded; a read position is clamped. -/
def Obligations.InventoryCounters : Prop :=
  ∀ (s : State),
    (∀ c : Fin 344, let k := c.val
      (∀ v : Word, hostAt s (cntA k 0) → completes (.cntCfg c v) s (fun t =>
        t.fld (cntA k 0) 10 0 = v.toNat % 2048 ∧ t.bit (cntA k 0) 11 = (decide (k < 128) && v.getLsbD 11) ∧
        t.fld (cntA k 0) 23 16 = bitsOf v.toNat 23 16 ∧
        ((s.fld (cntA k 0) 8 0 ≠ v.toNat % 512 ∨ s.fld (cntA k 0) 23 16 ≠ bitsOf v.toNat 23 16) → t.count k = 0) ∧
        (t.cntValid k = false → t.bit (invA 0x108) 4 = true) ∧ keeps [] s t)) ∧
      (hostAt s (cntA k 8) →
        completes (.clear c) s (fun t => t.count k = 0 ∧ t.bit (cntA k 0) 12 = false ∧ keeps [] s t) ∧
        completes (.load c) s (fun t => t.count k = s.nat48 (cntA k 0x18) (cntA k 0x1C) ∧
          t.bit (cntA k 0) 12 = false ∧ keeps [] s t)) ∧
      (∀ (eng : Fin 32) (ctx : Fin 4) (pc : BitVec 15), s.invRuns = true → s.wrapsNow k = true →
        s.inv.skidDue.contains k = false → completes (.counterWrap c eng ctx pc) s (fun t =>
          t.bit (cntA k 0) 12 = true ∧ t.bit (invA 0x108) 1 = true ∧ t.inv.skidDue = s.inv.skidDue ∧
          ((128 ≤ k ∨ s.bit (cntA k 0) 11 = false) → t.count k = 0) ∧
          (k < 128 → s.bit (cntA k 0) 11 = true → t.count k = s.nat48 (cntA k 0x18) (cntA k 0x1C) ∧
            t.nat (sampA (k / 8) 4) = (s.nat (sampA (k / 8) 4) + 1) % 2 ^ 32) ∧ keeps [] s t))) ∧
    (hostAt s (invA 0x100) →
      completes .clearAll s (fun t => (∀ k, k < 344 → t.count k = 0 ∧ t.bit (cntA k 0) 12 = false) ∧ keeps [] s t) ∧
      completes .snapGo s (fun t => (s.inv.snapAt = none → t.inv.snapAt = some (s.now + 2000) ∧ t.inv.copied = [] ∧
        t.bit (invA 0x104) 0 = true) ∧ (s.inv.snapAt ≠ none → t.inv.snapAt = s.inv.snapAt) ∧ keeps [] s t) ∧
      (∀ v : Word, completes (.run v) s (fun t => t.bit (invA 0x100) 4 = v.getLsbD 4 ∧
        t.bit (invA 0x100) 8 = v.getLsbD 8 ∧ (s.bit (invA 0x100) 4 ≠ v.getLsbD 4 →
          t.inv.runAt = some (s.now + 2000) ∧ t.bit (invA 0x104) 1 = true) ∧ keeps [] s t))) ∧
    (s.invRuns = true →
      (∀ d : Fin 5, s.domainRuns d.val = true →
        (s.instantPast s.inv.snapAt = true → d.val ∉ s.inv.copied → completes (.snapshotCopy d) s (fun t =>
          t.inv.copied = d.val :: s.inv.copied ∧ (∀ k, k < 344 → cntDomain k = d.val →
            t.nat48 (cntA k 0x10) (cntA k 0x14) = s.count k ∧ t.count k = s.count k) ∧ keeps [] s t)) ∧
        (s.instantPast s.inv.runAt = true → completes (.snapshotCopy d) s (fun t =>
          Tab.get t.inv.runOn true d.val = s.bit (invA 0x100) 4))) ∧
      (∀ at_, s.inv.snapAt = some at_ → (5 ≤ s.inv.copied.length ∨ at_ + 10000 ≤ s.now) → completes .snapDone s (fun t =>
        t.inv.snapAt = none ∧ t.bit (invA 0x104) 0 = false ∧ t.bit (invA 0x108) 0 = true ∧
        t.nat (invA 0x10C) = (s.nat (invA 0x10C) + 1) % 2 ^ 32 ∧
        (∀ d, d < 5 → t.bit (invA 0x104) (8 + d) = !s.inv.copied.contains d) ∧ keeps [] s t))) ∧
    (∀ (b : Fin 16),
      (∀ x : TagIn, s.invRuns = true → s.enginesRun = true → s.tagsEngine b.val x.eng.val = true →
        completes (.tagRecord b x) s (fun t => let wr := s.nat (sampA b.val 0xC)
          t.nat (sampA b.val 0xC) = (wr + 1) % 2 ^ 32 ∧
          t.nat (sampA b.val 0x1C) = (s.nat (sampA b.val 0x1C) + x.deferred) % 2 ^ 32 ∧
          (∀ i w, i < 4 → (s.tagWords b.val x)[i]? = some w →
            t.rd (sampA b.val (0x400 + 16 * (wr % 64) + 4 * i)) = BitVec.ofNat 32 w) ∧ keeps [] s t)) ∧
      (∀ (tag : Bool) (v : Word), let a := sampA b.val (8 + 8 * tag.toNat)
        hostAt s a → completes (.sampleRd b tag v) s (fun t => let rd := s.nat a
          let wr := s.nat (a - 4)
          t.nat a = (if (wr + 2 ^ 32 - rd) % 2 ^ 32 < (v.toNat + 2 ^ 32 - rd) % 2 ^ 32 then wr else v.toNat) ∧
          keeps [] s t ∧ regsBut (fun r => counting r ∨ r = a) s t)))

/-! ### Rootstock (R330 to R352) -/

/-- Rootstock (R331, R338, R340 to R350): STATUS is answered; BEGIN takes the claim and empties the slot, BLOCK stages its words,
COMMIT and its end program the slot, ABORT and 60 s release the claim; ACTIVATE makes a slot TRIAL, CONFIRM
CONFIRMED, and a fallback REJECTED; the steps of a live activation; settings go to the other bank. -/
def Obligations.RootstockUpdates : Prop :=
  ∀ (s : State),
    (∀ src ws rest,
      (RtsHead s src 0x01 ws rest → completes (.status src) s (fun t => t.rts.queue = rest ∧
        (src = .host → (t.mbox 0).waiting = (s.mbox 0).waiting ++
          [serverCpl 0 (cmdTag ws) [s.rd (rtsA 0x100), s.rd (rtsA 0x108), s.rd (rtsA 0x10C), s.rd (rtsA 0x110)]]))) ∧
      (RtsHead s src 0x10 ws rest → s.claim = 0 → s.rts.committing = none → s.trialPending = false →
        hdrFieldsOk (imageBytes (ws.drop 1)) = true → hdrTargetOk (imageBytes (ws.drop 1)) = true →
        s.minLevel ≤ hdrWord (imageBytes (ws.drop 1)) 0x0C → completes (.beginImg src) s (fun t => t.rts.queue = rest ∧
          t.claim = srcCode src ∧ t.rts.header = ws.drop 1 ∧ t.slotState s.stagingSlot = 0 ∧ t.nat (rtsA 0x10C) = 0)) ∧
      (RtsHead s src 0x11 ws rest → let body := ws.drop 1
        let off := (body.getD 0 0).toNat
        let n := body.length - 3
        let data := (body.drop 2).take n
        s.claim = srcCode src → s.rts.committing = none → 0 < n → (body.getD 1 0).toNat = 4 * n → off % 4 = 0 →
        off + 4 * n ≤ s.stagedLen + 4096 → crc32cFold (body.getD 0 0) (imageBytes data) = body.getD (n + 2) 0 →
        (∀ i, i < n → Tab.get s.rts.written false (off / 4 + i) = false) → completes (.block src) s (fun t =>
          t.rts.queue = rest ∧ t.rts.claimAt = s.now ∧ ∀ i, i < n → Tab.get t.rts.written false (off / 4 + i) = true)) ∧
      (RtsHead s src 0x12 ws rest → s.claim = srcCode src → s.rts.committing = none →
        ((∀ i, i < (s.stagedLen + 4096) / 4 → Tab.get s.rts.written false i = true) →
          completes (.commit src) s (fun t => t.rts.queue = rest ∧
            (s.imageSigned stagingBase = true → t.rts.committing = some (src, cmdTag ws)) ∧
            (s.imageSigned stagingBase = false → t.claim = 0 ∧ t.rts.header = []))) ∧
        (∀ i, i < (s.stagedLen + 4096) / 4 → Tab.get s.rts.written false i = false →
          completes (.commit src) s (fun t => t.rts.queue = rest ∧ t.claim = 0 ∧ t.rts.header = []))) ∧
      (RtsHead s src 0x13 ws rest → ∀ k, s.trialPending = false → s.stagedSlotOf (ws.getD 1 0).toNat = some k →
        s.minLevel ≤ s.slotField k 0x0C →
        ((ws.getD 2 0).toNat = 1 → completes (.activate src) s (fun t => t.rts.queue = rest ∧ t.slotState k = 4 ∧
          t.rts.trialSlot = some k ∧ t.rts.armedReset = true ∧ t.actState = 0)) ∧
        ((ws.getD 2 0).toNat = 0 → s.liveAllowed k = true → completes (.activate src) s (fun t => t.rts.queue = rest ∧
          t.slotState k = 4 ∧ t.rts.trialSlot = some k ∧ t.actState = 1))) ∧
      (RtsHead s src 0x14 ws rest → s.claim = srcCode src → s.rts.committing = none →
        completes (.abort src) s (fun t => t.rts.queue = rest ∧ t.claim = 0 ∧ t.rts.header = [] ∧ t.flash = s.flash))) ∧
    (∀ src tag, s.rts.committing = some (src, tag) → s.qdrUp = true → s.rts.stagedSlot < 2 → let k := s.rts.stagedSlot
      completes (.imageCommitDone none []) s (fun t => t.claim = 0 ∧ t.rts.committing = none ∧ t.slotState k = 1 ∧
        t.rd (rtsA (0x148 + 4 * k)) = s.rts.header.getD 2 0 ∧ t.rd (rtsA 0x10C) = s.rts.header.getD 2 0) ∧
      ∀ (a : BitVec 32) wrong, completes (.imageCommitDone (some a) wrong) s (fun t => t.claim = 0 ∧
        t.rts.committing = none ∧ t.rts.header = [] ∧ t.slotState k = s.slotState k)) ∧
    (s.claim ≠ 0 → s.rts.committing = none → s.rts.claimAt + 60000000000 ≤ s.now → completes .claimExpired s (fun t =>
      t.claim = 0 ∧ t.rts.header = [] ∧ keeps [.rts] s t)) ∧
    (∀ v : Word, hostAt s (rtsA 0x114) →
      (∀ k, s.slotIn 4 = some k → s.slotVersion k = v.toNat → s.trialRuns = true → completes (.confirm v) s (fun t =>
        t.slotState k = 2 ∧ t.actState = 0 ∧ t.rts.trialSlot = none ∧ t.rts.windowEnds = none ∧
        t.minLevel = max s.minLevel (s.slotField k 0x0C) % 128)) ∧
      (∀ k, s.slotIn 4 = some k → s.slotVersion k ≠ v.toNat → completes (.confirm v) s (fun t => t.rts = s.rts ∧
        t.flash = s.flash ∧ t.slotState k = 4 ∧ keeps [] s t))) ∧
    (∀ k, s.slotIn 4 = some k → s.actState = 0 →
      (∀ at_, s.rts.windowEnds = some at_ → at_ ≤ s.now → completes .confirmWindowExpiry s (fun t => t.slotState k = 5 ∧
        t.nat (rtsA 0x130) = (s.nat (rtsA 0x130) + 1) % 2 ^ 32 ∧
        t.fld (rtsA 0x134) 2 0 = (if s.fld (rtsA 0x120) 1 0 = 2 then 4 else 1) ∧ t.cur.chipReset ≠ none)) ∧
      (s.hostReaches = true → s.top.kc = none → completes .rollbackNow s (fun t => t.slotState k = 5 ∧
        t.fld (rtsA 0x134) 2 0 = 2 ∧ t.cur.chipReset ≠ none))) ∧
    (hostAt s (rtsA 0x124) → completes .settingsCommit s (fun t =>
      (match s.bankNow with
        | some b => t.flashWord (bankBase (1 - b)) = ((s.bankGen b).getD 0 + 1) % 2 ^ 32
        | none => t.flashWord (bankBase 0) = 1) ∧ keeps [.flash] s t ∧ regsBut counting s t)) ∧
    (∀ (o : Origin) (v : Word), reaches o s (rtsA 0x120) → completes (.settingsStatus o v) s (fun t =>
      t.fld (rtsA 0x120) 1 0 = v.toNat % 4 ∧
      (v.toNat % 4 = 2 → s.actState = 0 → s.rts.trialBooted = true → s.slotIn 4 ≠ none → t.rts.held350 = true))) ∧
    (∀ k sp, s.rts.trialSlot = some k → s.spareBed = some sp → s.actState = 1 → s.rts.spare = none → s.qdrUp = true →
      let area := 1 - s.rts.area
      let ok := (s.rtsStore (imageArea area) (s.flashGet (slotBase k) (s.slotField k 0x10 + 4096))).imageSigned (imageArea area)
      completes .activationImageCopied s (fun t => (ok = false → t.actState = 5) ∧
        (ok = true → t.rts.spare = some sp ∧ t.actState = 1 ∧ (t.bed sp).initPending = some 2))) ∧
    (∀ nb m, s.movingBed = some nb → (s.bed nb).move = some m → m.why = 1 → m.old < 16 → m.old ≠ nb →
      (m.stage = 1 → s.role m.old = 2 → s.freezeDue m = true → completes .migrationFreeze s (fun t => t.role m.old = 5 ∧
        (t.bed nb).move = some { m with stage := 2 } ∧ sameBut [.beds] s t)) ∧
      (m.stage = 2 → s.activeKeys m.old = [] → s.qdrUp = true → completes .migrationContextCopy s (fun t =>
        (t.bed nb).move = some { m with stage := 3 } ∧ (t.bed nb).initPending = some 2 ∧ t.lbed nb = s.lbed m.old))) ∧
    (s.actState = 4 → s.spareBed = none → s.movingBed = none → s.rts.fallbackAt + 60000000000 ≤ s.now →
      completes .fallbackSpareTimeout s (fun t => t.cur.chipReset ≠ none ∧ t.bit (rtsA 0x104) 2 = true ∧ keeps [] s t))

/-! ### Power, reset and boot (R386 to R393) -/

/-- Reset and boot (R299, R337, R338, R386 to R393): a power-on loses QDR and keeps the flash, RESET_N keeps QDR unless a rail
was out of tolerance; BOOT_START samples OSC_SEL; each step of the boot ends and the next begins. -/
def Obligations.ResetAndBoot : Prop :=
  ∀ (s : State),
    completes .powerOn s (fun t => t.top.boot = 0 ∧ t.top.resetLow = true ∧ t.top.bootKind = 0 ∧ t.regs = [] ∧
      t.qdr = [] ∧ t.flash = s.flash ∧ t.cur = Cur.init ∧ t.beds = [] ∧ t.ctxs = [] ∧ t.furs = []) ∧
    completes .railOutOfTolerance s (fun t => t.top = { s.top with railBad := true } ∧ sameBut [.top] s t ∧
      regsBut (fun _ => False) s t) ∧
    (s.top.resetLow = false → completes .pinReset s (fun t => t.top.boot = 0 ∧ t.top.resetLow = true ∧ t.regs = [] ∧
      t.flash = s.flash ∧ t.qdr = (if s.top.railBad then [] else s.qdr) ∧
      t.top.bootKind = (if s.top.railBad then 0 else 1))) ∧
    (∀ g : BitVec 3, s.top.resetLow = true → completes (.bootStart g) s (fun t => t.top.boot = 1 ∧
      t.top.resetLow = false ∧ t.fld (topA 0x334) 2 0 = g.toNat ∧ t.bit (topA 0x334) 3 = decide (5 ≤ g.toNat) ∧
      regsBut (fun r => r = topA 0x334) s t ∧ sameBut [.top] s t)) ∧
    (∀ x : BootIn,
      (s.top.boot = 1 → completes (.bootStage x) s (fun t => t.top.boot = 2 ∧
        t.nat (topA 0x330) = (s.top.bootKind + s.top.bootSrc * 2 ^ 16) % 2 ^ 32 ∧
        t.fld (topA 0x108) 3 0 = (if s.bit (topA 0x334) 3 then 11 else 15) ∧ t.sdlNs = 0 ∧ t.sdlFrom = s.now)) ∧
      (s.top.boot = 2 → completes (.bootStage x) s (fun t => t.top.boot = 3 ∧
        t.fld (hifA 0x100) 6 0 = 1 + 2 * x.speed.toNat + 16 * x.width.toNat ∧ t.fld (rtsA 0x100) 3 0 = 1)) ∧
      (s.top.boot = 3 → completes (.bootStage x) s (fun t => t.top.boot = 4 ∧ t.bit (qdmA 0x104) 24 = true ∧
        (∀ p, p < 16 → t.bit (qdmA 0x104) p = !x.calFail.getLsbD p) ∧ t.fld (rtsA 0x100) 3 0 = 2)) ∧
      (s.top.boot = 4 → completes (.bootStage x) s (fun t => t.top.boot = 5 ∧ t.bit (rtsA 0x128) 0 = true ∧
        t.bit (rtsA 0x128) 1 = decide (0 < x.celUncorr) ∧ t.fld (rtsA 0x100) 3 0 = 3)) ∧
      (s.top.boot = 5 → s.ringHeaderOk = false → completes (.bootStage x) s (fun t => t.top.boot = 6 ∧
        t.bit (curA 0x100) 4 = true ∧ t.fld (curA 0x110) 26 0 = ringBase ∧ t.nat (curA 0x10C) = 0 ∧
        t.cur.held = [] ∧ t.nat (curA 0x108) = (1 + s.cur.held.length) % 2 ^ 32)) ∧
      (s.top.boot = 6 → s.fld (qdmA 0x104) 23 16 ≠ 0 → completes (.bootStage x) s (fun t => t.top.boot = 9 ∧
        t.bit (rtsA 0x100) 6 = true)) ∧
      (s.top.boot = 7 → completes (.bootStage x) s (fun t => t.top.boot = 8 ∧ ∀ l, l < 16 →
        ((s.qdrWord (imageArea 0 + 0x20)).testBit l = true → (t.bed l).initPending = some 0) ∧
        ((s.qdrWord (imageArea 0 + 0x20)).testBit l = false → t.role l = 1))))

/-! ### The twin link (R354 to R366) -/

/-- The twin link (R355 to R366): lanes and alignment move it between DOWN and TRAINING, a heartbeat of the other role on aligned
lanes to UP and of the same role to ROLE_CLASH, its absence to DOWN; reliable frames are taken in sequence and
resent on a NAK or after 1 ms; what DIAL, MIRROR and image frames carry. -/
def Obligations.TwinLink : Prop :=
  ∀ (s : State), s.twnRuns = true →
    (∀ (l : Fin 4) (locked hi : Bool), completes (.laneLockChange l locked hi) s (fun t =>
      t.bit (twnA 0x104) (4 + l.val) = locked ∧ ((locked = false ∨ hi = true) → t.linkState = 0))) ∧
    (∀ lanes : List (Byte × Nat), s.lanesGood = true →
      let aligned := (∀ k : Fin 4, ∃ e ∈ lanes, e.1.toNat = k.val) ∧ ∀ e ∈ lanes, ∀ g ∈ lanes, e.2 ≤ g.2 + 32
      (aligned → completes (.alignmentBlock lanes) s (fun t => t.bit (twnA 0x104) 8 = true ∧
        t.linkState = max 1 s.linkState)) ∧
      (¬aligned → completes (.alignmentBlock lanes) s (fun t => t.bit (twnA 0x104) 8 = false ∧ t.linkState = 1))) ∧
    (s.linkState ≠ 0 → s.twn.lastHb + max 1 (s.fld (twnA 0x100) 15 12) * 1000000 ≤ s.now →
      completes .heartbeatTimeout s (fun t => t.linkState = 0)) ∧
    (s.linkState ≠ 0 →
      (∀ h role sess ver keeper alive, FreshCount s h →
        completes (.heartbeat h role sess ver keeper alive) s (fun t => t.twn.lastHb = s.now ∧
          t.twn.unrelRx = some h.seq.toNat ∧ (role.toNat = s.boardRole → t.linkState = 3) ∧
          (role.toNat ≠ s.boardRole → 1 ≤ role.toNat → role.toNat ≤ 2 → s.linkState = 1 → s.bit (twnA 0x104) 8 = true →
            t.linkState = 2 ∧ t.fld (twnA 0x104) 31 16 = (s.fld (twnA 0x104) 31 16 + 1) % 65536 ∧ t.twn.nextSeq = 0 ∧
            t.twn.expected = 0))) ∧
      (∀ h (len : Half) body trailer, frameBroken h len.toNat body trailer = true →
        completes (.crcDrop h len body trailer) s (fun t => t.nat (twnA 0x114) = (s.nat (twnA 0x114) + 1) % 2 ^ 32 ∧
          t.nat (twnA 0x118) = (s.nat (twnA 0x118) + 1) % 2 ^ 32 ∧ t.bit (twnA 0x108) 3 = true ∧
          t.twn.expected = s.twn.expected ∧ t.twn.kept = s.twn.kept ∧ t.linkState = s.linkState)) ∧
      (s.everyMs s.twn.hbAt = true → completes .heartbeatSend s (fun t =>
        t.twn.unrelTx = (s.twn.unrelTx + 1) % 65536 ∧ t.twn.hbAt = some s.now ∧
        t.outbox = s.outbox ++ [.twin 1 s.twn.unrelTx (twnWords 1 s.twn.unrelTx s.twn.expected false
          (heartbeatBody s.boardRole (s.fld (twnA 0x104) 31 16) (s.rd (rtsA 0x108)) s.cur.aliveStarted
            (s.bit (curA 0x100) 0)))]))) ∧
    (s.linkState = 2 →
      (∀ h (x : Half), FreshCount s h → let kept := (s.twnArrive h [x.setWidth 32]).twn.kept
        (kept.findIdx? (fun e => e.1 == x.toNat) = none → completes (.nak h x) s (fun t => t.linkState = 0)) ∧
        (∀ i, kept.findIdx? (fun e => e.1 == x.toNat) = some i → completes (.nak h x) s (fun t =>
          t.linkState = 2 ∧ t.twn.kept.length = kept.length ∧
          t.nat (twnA 0x124) = (s.nat (twnA 0x124) + (kept.length - i)) % 2 ^ 32))) ∧
      (∀ e rest, s.twn.kept = e :: rest → max e.2.2.1 s.twn.keptAt + 1000000 ≤ s.now →
        completes .resendTimeout s (fun t => t.twn.kept.length = s.twn.kept.length ∧
          t.nat (twnA 0x124) = (s.nat (twnA 0x124) + s.twn.kept.length) % 2 ^ 32)) ∧
      (s.everyMs s.twn.dialSentAt = true → completes .dialSend s (fun t =>
        t.twn.unrelTx = (s.twn.unrelTx + 1) % 65536 ∧ t.twn.stepFlag = [] ∧ t.twn.stepSent = s.twn.stepFlag ∧
        t.twn.dialSentAt = some s.now)) ∧
      (s.bit (twnA 0x100) 8 = true → completes .mirrorSend s (fun t => ∀ i, i < 176 →
        Tab.get t.twn.mirrorSent 0 i = s.mirrorValue i)) ∧
      (∀ h echo parts, FreshCount s h → completes (.dial h echo parts) s (fun t => t.twn.dialAt = s.sdlNow ∧
        t.twn.dialGap = false ∧ ∀ n, n < 16 → Tab.get t.twn.dialArr (0, 0) n = (h.seq.toNat, s.twinStamp n true))) ∧
      (∀ h : TwinHdr, h.seq.toNat = s.twn.expected →
        (∀ parts whole, completes (.mirror h parts whole) s (fun t => t.twn.expected = (s.twn.expected + 1) % 65536 ∧
          (whole = true → t.bit (twnA 0x104) 11 = true) ∧
          (∀ w v, parts = [.app w v] → t.rd (twnA (0xA00 + 4 * w.val)) = v))) ∧
        (∀ ws lo hi, s.bit (twnA 0x100) 9 = true → rtsLengths .mate (cmdOp ws) = some (lo, hi) →
          lo ≤ ws.length - 1 → ws.length - 1 ≤ hi → (∀ c ∈ s.rts.mateMemory, c.tag ≠ cmdTag ws) →
          (∀ e ∈ s.rts.queue, e.1 = .mate → cmdTag e.2 ≠ cmdTag ws) → s.rts.committing ≠ some (.mate, cmdTag ws) →
          completes (.imageCmd h ws) s (fun t => t.rts.queue = s.rts.queue ++ [(.mate, ws)])) ∧
        (∀ ws, completes (.imageRsp h ws) s (fun t => (t.mbox 4).waiting =
          (s.mbox 4).waiting ++ [serverCpl (cmdOp ws) (cmdTag ws) (ws.drop 1)]))) ∧
      (∀ (h : TwinHdr) parts whole, let d := (h.seq.toNat + 65536 - s.twn.expected) % 65536
        0 < d → completes (.mirror h parts whole) s (fun t => t.twn.expected = s.twn.expected ∧
          (d < 32768 → t.nat (twnA 0x11C) = (s.nat (twnA 0x11C) + 1) % 2 ^ 32) ∧
          (32768 ≤ d → t.nat (twnA 0x120) = (s.nat (twnA 0x120) + 1) % 2 ^ 32))))

/-! ### The machine as a whole -/

/-- A step takes the command at the front of the queue and is its effect on the state with the rest of the queue; every
command answers a next state, leaves the queue alone, and takes no time, but that an instruction of Sprig brings the part's
clock to the cycle in which it issues.  With no command waiting the clock advances by 1 ns: the model's choices
(assumptions 1, 26). -/
def Obligations.StepRunsTheQueue : Prop :=
  (∀ (c : Instr) (rest : List Instr) (s : State), s.pending = c :: rest → step s = exec c (s.setPending rest)) ∧
  (∀ (c : Instr) (s : State), completes c s (fun t => t.pending = s.pending ∧ s.now ≤ t.now ∧
    (encodeSprig c = none → (∀ x, c ≠ .undefinedEncoding x) → t.now = s.now))) ∧
  (∀ s : State, s.pending = [] → ∃ t, step s = .next t ∧ t.pending = [] ∧ t.now = s.now + 1 ∧
    sameBut [.now, .cur, .inv] s t ∧ regsBut counting s t)

/-- What reset leaves (R260, R283, R303, R352, R369, R386, R389, R414, R421): no command waits, RESET_N is low and no block
has left reset, no handler runs and no furrow holds an item; registers as their tables say; and the invariant of
StepKeepsInvariant holds. -/
def Obligations.ResetState : Prop :=
  let s := State.reset
  s.pending = [] ∧ s.top.boot = 0 ∧ s.top.resetLow = true ∧ s.enginesRun = false ∧ s.hostReaches = false ∧
    (∀ k, (s.ctx k).active = false) ∧ (∀ F, (s.fur F).items = [] ∧ (s.fur F).owner = 0) ∧
    (∀ a, s.rd a = regReset a) ∧ (∀ a, a < 2 ^ 27 → s.qdrByte a = qdrEmpty) ∧
    s.nat (topA 0x100) = 0x819200B0 ∧ s.nat (topA 4) = 0x1B0 ∧ s.nat (topA 0x310) = 0 ∧ s.nat (topA 0x314) = 0xFFFFFFFF ∧
    s.fld (topA 0x320) 1 0 = 0 ∧ (∀ k, k < 4 → s.nat (mbA k 8) = 1) ∧ s.fld (curA 0x114) 9 0 = 10 ∧
    s.nat (curA 0x200) = 0xFFFFFFFF ∧ s.fld (srcA 5 0) 3 0 = 1 ∧ s.bit (invA 0x100) 4 = true ∧
    s.fld (rtsA 0x118) 16 0 = 600 ∧ s.fld (routeA 3) 3 0 = 4 ∧ s.bit (bedA 2 0x100) 4 = true ∧
    s.fld (bedA 2 0x10C) 9 0 = 20 ∧ s.fld (bedA 2 0x10C) 29 16 = 1000 ∧ s.role 2 = 0 ∧ s.lbed 2 = 2 ∧
    s.fld (qdmA 0x10C) 9 0 = 0x300 ∧ s.fld (twnA 0x100) 15 12 = 3 ∧ s.linkState = 0 ∧ s.fld (furA 0 8) 26 16 = 1024 ∧
    s.fld (dialA 1 4) 15 0 = 300 ∧ s.dialState 1 = 0 ∧ s.rxFmt 7 = 0 ∧ StateOk s

/-- Decode and encode agree for every Sprig instruction (R222 to R239): an aligned instruction is what its words spell, and
what words spell is aligned, has an encoding, and is as long as the words. -/
def Obligations.SprigRoundTrip : Prop :=
  (∀ (i : Instr) (w : Half) (v : Option Half), encodeSprig i = some (w, v) → sprigAligned i = true →
    v.isSome = decide (sprigLen w = 2) ∧ ∃ c, ∀ x, decodeSprig c w (v.getD x) = some i) ∧
  (∀ (c : CtxId) (w v : Half) (i : Instr), decodeSprig c w v = some i → sprigAligned i = true ∧
    ∃ w' v', encodeSprig i = some (w', v') ∧ v'.isSome = decide (sprigLen w = 2) ∧
      decodeSprig c w' (v'.getD 0) = some i)

/-- Every step keeps the invariant: QDR and the boot flash in their one canonical form, every context bound to one of
the 64 channel contexts of its bed or to none (R202), no open item longer than 255 words (R232). -/
def Obligations.StepKeepsInvariant : Prop :=
  ∀ s t : State, StateOk s → step s = .next t → StateOk t
end

