-- ==== Sys2Proof/Laws/Tab.lean ====
section
/-! SUPPORT. Laws of the sparse tables and of the byte memories: a read after a write, and the canonical
form, which every operation keeps. -/

namespace Sys2Proof.Machine

variable {α : Type}

@[simp] theorem Tab.get_nil (d : α) (k : Nat) : Tab.get ([] : Tab α) d k = d := rfl

theorem Tab.get_erase_same (t : Tab α) (d : α) (k : Nat) : Tab.get (Tab.erase t k) d k = d := by
  induction t with
  | nil => rfl
  | cons e rest ih =>
    obtain ⟨j, v⟩ := e
    by_cases h : j = k <;> simp [Tab.erase, Tab.get, h, ih]

theorem Tab.get_erase_ne (t : Tab α) (d : α) {k j : Nat} (h : j ≠ k) :
    Tab.get (Tab.erase t k) d j = Tab.get t d j := by
  induction t with
  | nil => rfl
  | cons e rest ih =>
    obtain ⟨i, v⟩ := e
    by_cases hi : i = k
    · subst hi
      simp [Tab.erase, Tab.get, ih, Ne.symm h]
    · simp only [Tab.erase, if_neg hi, Tab.get, ih]

theorem Tab.get_insert_same (t : Tab α) (d : α) (k : Nat) (v : α) : Tab.get (Tab.insert t k v) d k = v := by
  induction t with
  | nil => simp [Tab.insert, Tab.get]
  | cons e rest ih =>
    obtain ⟨j, u⟩ := e
    by_cases h : k < j
    · simp [Tab.insert, Tab.get, h]
    · by_cases hj : j = k <;> simp [Tab.insert, Tab.get, h, hj, ih]

theorem Tab.get_insert_ne (t : Tab α) (d : α) {k j : Nat} (v : α) (h : j ≠ k) :
    Tab.get (Tab.insert t k v) d j = Tab.get t d j := by
  induction t with
  | nil => simp [Tab.insert, Tab.get, Ne.symm h]
  | cons e rest ih =>
    obtain ⟨i, u⟩ := e
    by_cases hk : k < i
    · simp [Tab.insert, Tab.get, hk, Ne.symm h]
    · by_cases hi : i = k
      · subst hi
        simp [Tab.insert, Tab.get, Ne.symm h]
      · simp only [Tab.insert, if_neg hk, if_neg hi, Tab.get, ih]

/-- A read after a write to the same key gives the value written. -/
@[simp] theorem Tab.get_set_same [DecidableEq α] (t : Tab α) (d : α) (k : Nat) (v : α) :
    Tab.get (Tab.set t d k v) d k = v := by
  unfold Tab.set
  split
  · next h => rw [Tab.get_erase_same, h]
  · exact Tab.get_insert_same t d k v

/-- A write leaves every other key alone. -/
theorem Tab.get_set_ne [DecidableEq α] (t : Tab α) (d d' : α) {k j : Nat} (v : α) (h : j ≠ k) :
    Tab.get (Tab.set t d k v) d' j = Tab.get t d' j := by
  unfold Tab.set
  split
  · exact Tab.get_erase_ne t d' h
  · exact Tab.get_insert_ne t d' v h

theorem Tab.get_set [DecidableEq α] (t : Tab α) (d : α) (k j : Nat) (v : α) :
    Tab.get (Tab.set t d k v) d j = if j = k then v else Tab.get t d j := by
  split
  · next h => rw [h, Tab.get_set_same]
  · next h => exact Tab.get_set_ne t d d v h

/-! ### The canonical form -/

theorem Tab.wf_cons [DecidableEq α] (d : Nat → α) (j : Nat) (v : α) (t : Tab α) :
    Tab.wf d ((j, v) :: t) = true ↔ v ≠ d j ∧ (∀ e ∈ t, j < e.1) ∧ Tab.wf d t = true := by
  simp [Tab.wf, and_assoc]

theorem Tab.mem_erase (t : Tab α) (k : Nat) {e : Nat × α} (h : e ∈ Tab.erase t k) : e ∈ t := by
  induction t with
  | nil => simp [Tab.erase] at h
  | cons x rest ih =>
    obtain ⟨j, v⟩ := x
    by_cases hj : j = k
    · simp only [Tab.erase, hj, if_true] at h
      exact List.mem_cons_of_mem _ (ih h)
    · simp only [Tab.erase, hj, if_false, List.mem_cons] at h
      rcases h with rfl | h
      · exact List.mem_cons_self
      · exact List.mem_cons_of_mem _ (ih h)

theorem Tab.mem_insert (t : Tab α) (k : Nat) (v : α) {e : Nat × α} (h : e ∈ Tab.insert t k v) :
    e.1 = k ∨ e ∈ t := by
  induction t with
  | nil => simp [Tab.insert] at h; simp [h]
  | cons x rest ih =>
    obtain ⟨j, u⟩ := x
    by_cases hk : k < j
    · simp only [Tab.insert, hk, if_true, List.mem_cons] at h
      rcases h with rfl | h
      · exact .inl rfl
      · exact .inr (by simpa using h)
    · by_cases hj : j = k
      · simp only [Tab.insert, if_neg hk, if_pos hj, List.mem_cons] at h
        rcases h with rfl | h
        · exact .inl rfl
        · exact .inr (List.mem_cons_of_mem _ h)
      · simp only [Tab.insert, hk, hj, if_false, List.mem_cons] at h
        rcases h with rfl | h
        · exact .inr List.mem_cons_self
        · rcases ih h with h | h
          · exact .inl h
          · exact .inr (List.mem_cons_of_mem _ h)

theorem Tab.wf_erase [DecidableEq α] (d : Nat → α) (t : Tab α) (k : Nat) (h : Tab.wf d t = true) :
    Tab.wf d (Tab.erase t k) = true := by
  induction t with
  | nil => rfl
  | cons x rest ih =>
    obtain ⟨j, v⟩ := x
    rw [Tab.wf_cons] at h
    by_cases hj : j = k
    · simpa [Tab.erase, hj] using ih h.2.2
    · simp only [Tab.erase, hj, if_false]
      rw [Tab.wf_cons]
      exact ⟨h.1, fun e he => h.2.1 e (Tab.mem_erase rest k he), ih h.2.2⟩

theorem Tab.wf_insert [DecidableEq α] (d : Nat → α) (t : Tab α) (k : Nat) (v : α) (hv : v ≠ d k)
    (h : Tab.wf d t = true) : Tab.wf d (Tab.insert t k v) = true := by
  induction t with
  | nil => simp [Tab.insert, Tab.wf, hv]
  | cons x rest ih =>
    obtain ⟨j, u⟩ := x
    have h' := h
    rw [Tab.wf_cons] at h
    by_cases hk : k < j
    · simp only [Tab.insert, hk, if_true]
      rw [Tab.wf_cons]
      refine ⟨hv, fun e he => ?_, h'⟩
      rcases List.mem_cons.1 he with rfl | he
      · exact hk
      · exact lt_trans hk (h.2.1 e he)
    · by_cases hj : j = k
      · subst hj
        simp only [Tab.insert, lt_irrefl, if_true, if_false]
        rw [Tab.wf_cons]
        exact ⟨hv, h.2.1, h.2.2⟩
      · simp only [Tab.insert, hk, hj, if_false]
        rw [Tab.wf_cons]
        refine ⟨h.1, fun e he => ?_, ih h.2.2⟩
        rcases Tab.mem_insert rest k v he with he | he
        · omega
        · exact h.2.1 e he

/-- Every write keeps the canonical form. -/
theorem Tab.wf_set [DecidableEq α] (d : Nat → α) (t : Tab α) (k : Nat) (v : α) (h : Tab.wf d t = true) :
    Tab.wf d (Tab.set t (d k) k v) = true := by
  unfold Tab.set
  split
  · exact Tab.wf_erase d t k h
  · next hv => exact Tab.wf_insert d t k v hv h

theorem Tab.wf_filter [DecidableEq α] (d : Nat → α) (t : Tab α) (p : Nat × α → Bool) (h : Tab.wf d t = true) :
    Tab.wf d (t.filter p) = true := by
  induction t with
  | nil => rfl
  | cons x rest ih =>
    obtain ⟨j, v⟩ := x
    rw [Tab.wf_cons] at h
    by_cases hp : p (j, v)
    · rw [List.filter_cons_of_pos hp, Tab.wf_cons]
      exact ⟨h.1, fun e he => h.2.1 e (List.mem_of_mem_filter he), ih h.2.2⟩
    · rw [List.filter_cons_of_neg (by simpa using hp)]
      exact ih h.2.2

/-! ### Byte memories -/

theorem Memory.wf_write (empty : Byte) (m : List Host.Cell) (a : Nat) (v : Byte) (h : Memory.wf empty m = true) :
    Memory.wf empty (Memory.write empty m a v) = true := Tab.wf_set (fun _ => empty) m a v h

theorem Memory.wf_writeAll (empty : Byte) (bs : List Byte) (m : List Host.Cell) (a : Nat)
    (h : Memory.wf empty m = true) : Memory.wf empty (Memory.writeAll empty m a bs) = true := by
  induction bs generalizing m a with
  | nil => exact h
  | cons b rest ih => exact ih _ _ (Memory.wf_write empty m a b h)

theorem Memory.wf_filter (empty : Byte) (m : List Host.Cell) (p : Host.Cell → Bool) (h : Memory.wf empty m = true) :
    Memory.wf empty (m.filter p) = true := Tab.wf_filter (fun _ => empty) m p h

@[simp] theorem Memory.read_write_same (empty : Byte) (m : List Host.Cell) (a : Nat) (v : Byte) :
    Memory.read empty (Memory.write empty m a v) a = v := Tab.get_set_same m empty a v

theorem Memory.read_write_ne (empty : Byte) (m : List Host.Cell) {a b : Nat} (v : Byte) (h : b ≠ a) :
    Memory.read empty (Memory.write empty m a v) b = Memory.read empty m b := Tab.get_set_ne m empty empty v h

theorem Memory.read_writeAll_out (empty : Byte) (bs : List Byte) (m : List Host.Cell) (a b : Nat)
    (h : b < a ∨ a + bs.length ≤ b) :
    Memory.read empty (Memory.writeAll empty m a bs) b = Memory.read empty m b := by
  induction bs generalizing m a with
  | nil => rfl
  | cons x rest ih =>
    simp only [List.length_cons] at h
    rw [Memory.writeAll, ih _ _ (by omega), Memory.read_write_ne empty m x (by omega)]

theorem Memory.read_writeAll_in (empty : Byte) (bs : List Byte) (m : List Host.Cell) (a i : Nat)
    (h : i < bs.length) : Memory.read empty (Memory.writeAll empty m a bs) (a + i) = bs[i] := by
  induction bs generalizing m a i with
  | nil => simp at h
  | cons x rest ih =>
    cases i with
    | zero =>
      rw [Memory.writeAll, Memory.read_writeAll_out empty rest _ _ _ (by omega)]
      simp
    | succ i =>
      have h' : i < rest.length := by simpa using h
      have e : a + (i + 1) = (a + 1) + i := by omega
      rw [Memory.writeAll, e, ih _ _ _ h']
      rfl

theorem State.reset_qdr_wf : Memory.wf qdrEmpty State.reset.qdr = true := rfl
theorem State.reset_flash_wf : Memory.wf flashEmpty State.reset.flash = true := rfl

end Sys2Proof.Machine
end

