-- ==== Sys2Proof/Laws/State.lean ====
section
/-! SUPPORT. What each elementary update of the state leaves of each field: one lemma per field per update,
so that no proof unfolds a record update. -/

namespace Sys2Proof.Machine

@[simp] theorem State.setNow_now (s : State) (x : Nat) : (s.setNow x).now = x := by rfl
@[simp] theorem State.setNow_free (s : State) (x : Nat) : (s.setNow x).free = s.free := by rfl
@[simp] theorem State.setNow_regs (s : State) (x : Nat) : (s.setNow x).regs = s.regs := by rfl
@[simp] theorem State.setNow_qdr (s : State) (x : Nat) : (s.setNow x).qdr = s.qdr := by rfl
@[simp] theorem State.setNow_flash (s : State) (x : Nat) : (s.setNow x).flash = s.flash := by rfl
@[simp] theorem State.setNow_top (s : State) (x : Nat) : (s.setNow x).top = s.top := by rfl
@[simp] theorem State.setNow_cur (s : State) (x : Nat) : (s.setNow x).cur = s.cur := by rfl
@[simp] theorem State.setNow_mboxes (s : State) (x : Nat) : (s.setNow x).mboxes = s.mboxes := by rfl
@[simp] theorem State.setNow_framers (s : State) (x : Nat) : (s.setNow x).framers = s.framers := by rfl
@[simp] theorem State.setNow_txs (s : State) (x : Nat) : (s.setNow x).txs = s.txs := by rfl
@[simp] theorem State.setNow_active (s : State) (x : Nat) : (s.setNow x).active = s.active := by rfl
@[simp] theorem State.setNow_tribs (s : State) (x : Nat) : (s.setNow x).tribs = s.tribs := by rfl
@[simp] theorem State.setNow_mapOh (s : State) (x : Nat) : (s.setNow x).mapOh = s.mapOh := by rfl
@[simp] theorem State.setNow_sinkHold (s : State) (x : Nat) : (s.setNow x).sinkHold = s.sinkHold := by rfl
@[simp] theorem State.setNow_pairs (s : State) (x : Nat) : (s.setNow x).pairs = s.pairs := by rfl
@[simp] theorem State.setNow_grants (s : State) (x : Nat) : (s.setNow x).grants = s.grants := by rfl
@[simp] theorem State.setNow_commitRows (s : State) (x : Nat) : (s.setNow x).commitRows = s.commitRows := by rfl
@[simp] theorem State.setNow_policy (s : State) (x : Nat) : (s.setNow x).policy = s.policy := by rfl
@[simp] theorem State.setNow_policyPending (s : State) (x : Nat) : (s.setNow x).policyPending = s.policyPending := by rfl
@[simp] theorem State.setNow_winStart (s : State) (x : Nat) : (s.setNow x).winStart = s.winStart := by rfl
@[simp] theorem State.setNow_sdlNs (s : State) (x : Nat) : (s.setNow x).sdlNs = s.sdlNs := by rfl
@[simp] theorem State.setNow_sdlFrom (s : State) (x : Nat) : (s.setNow x).sdlFrom = s.sdlFrom := by rfl
@[simp] theorem State.setNow_refs (s : State) (x : Nat) : (s.setNow x).refs = s.refs := by rfl
@[simp] theorem State.setNow_dials (s : State) (x : Nat) : (s.setNow x).dials = s.dials := by rfl
@[simp] theorem State.setNow_gens (s : State) (x : Nat) : (s.setNow x).gens = s.gens := by rfl
@[simp] theorem State.setNow_ttcs (s : State) (x : Nat) : (s.setNow x).ttcs = s.ttcs := by rfl
@[simp] theorem State.setNow_sves (s : State) (x : Nat) : (s.setNow x).sves = s.sves := by rfl
@[simp] theorem State.setNow_beds (s : State) (x : Nat) : (s.setNow x).beds = s.beds := by rfl
@[simp] theorem State.setNow_ctxs (s : State) (x : Nat) : (s.setNow x).ctxs = s.ctxs := by rfl
@[simp] theorem State.setNow_engines (s : State) (x : Nat) : (s.setNow x).engines = s.engines := by rfl
@[simp] theorem State.setNow_cycles (s : State) (x : Nat) : (s.setNow x).cycles = s.cycles := by rfl
@[simp] theorem State.setNow_furs (s : State) (x : Nat) : (s.setNow x).furs = s.furs := by rfl
@[simp] theorem State.setNow_rts (s : State) (x : Nat) : (s.setNow x).rts = s.rts := by rfl
@[simp] theorem State.setNow_twn (s : State) (x : Nat) : (s.setNow x).twn = s.twn := by rfl
@[simp] theorem State.setNow_qdm (s : State) (x : Nat) : (s.setNow x).qdm = s.qdm := by rfl
@[simp] theorem State.setNow_inv (s : State) (x : Nat) : (s.setNow x).inv = s.inv := by rfl
@[simp] theorem State.setNow_outbox (s : State) (x : Nat) : (s.setNow x).outbox = s.outbox := by rfl
@[simp] theorem State.setNow_sumCycle (s : State) (x : Nat) : (s.setNow x).sumCycle = s.sumCycle := by rfl
@[simp] theorem State.setNow_pending (s : State) (x : Nat) : (s.setNow x).pending = s.pending := by rfl

@[simp] theorem State.setFree_now (s : State) (x : Nat) : (s.setFree x).now = s.now := by rfl
@[simp] theorem State.setFree_free (s : State) (x : Nat) : (s.setFree x).free = x := by rfl
@[simp] theorem State.setFree_regs (s : State) (x : Nat) : (s.setFree x).regs = s.regs := by rfl
@[simp] theorem State.setFree_qdr (s : State) (x : Nat) : (s.setFree x).qdr = s.qdr := by rfl
@[simp] theorem State.setFree_flash (s : State) (x : Nat) : (s.setFree x).flash = s.flash := by rfl
@[simp] theorem State.setFree_top (s : State) (x : Nat) : (s.setFree x).top = s.top := by rfl
@[simp] theorem State.setFree_cur (s : State) (x : Nat) : (s.setFree x).cur = s.cur := by rfl
@[simp] theorem State.setFree_mboxes (s : State) (x : Nat) : (s.setFree x).mboxes = s.mboxes := by rfl
@[simp] theorem State.setFree_framers (s : State) (x : Nat) : (s.setFree x).framers = s.framers := by rfl
@[simp] theorem State.setFree_txs (s : State) (x : Nat) : (s.setFree x).txs = s.txs := by rfl
@[simp] theorem State.setFree_active (s : State) (x : Nat) : (s.setFree x).active = s.active := by rfl
@[simp] theorem State.setFree_tribs (s : State) (x : Nat) : (s.setFree x).tribs = s.tribs := by rfl
@[simp] theorem State.setFree_mapOh (s : State) (x : Nat) : (s.setFree x).mapOh = s.mapOh := by rfl
@[simp] theorem State.setFree_sinkHold (s : State) (x : Nat) : (s.setFree x).sinkHold = s.sinkHold := by rfl
@[simp] theorem State.setFree_pairs (s : State) (x : Nat) : (s.setFree x).pairs = s.pairs := by rfl
@[simp] theorem State.setFree_grants (s : State) (x : Nat) : (s.setFree x).grants = s.grants := by rfl
@[simp] theorem State.setFree_commitRows (s : State) (x : Nat) : (s.setFree x).commitRows = s.commitRows := by rfl
@[simp] theorem State.setFree_policy (s : State) (x : Nat) : (s.setFree x).policy = s.policy := by rfl
@[simp] theorem State.setFree_policyPending (s : State) (x : Nat) : (s.setFree x).policyPending = s.policyPending := by rfl
@[simp] theorem State.setFree_winStart (s : State) (x : Nat) : (s.setFree x).winStart = s.winStart := by rfl
@[simp] theorem State.setFree_sdlNs (s : State) (x : Nat) : (s.setFree x).sdlNs = s.sdlNs := by rfl
@[simp] theorem State.setFree_sdlFrom (s : State) (x : Nat) : (s.setFree x).sdlFrom = s.sdlFrom := by rfl
@[simp] theorem State.setFree_refs (s : State) (x : Nat) : (s.setFree x).refs = s.refs := by rfl
@[simp] theorem State.setFree_dials (s : State) (x : Nat) : (s.setFree x).dials = s.dials := by rfl
@[simp] theorem State.setFree_gens (s : State) (x : Nat) : (s.setFree x).gens = s.gens := by rfl
@[simp] theorem State.setFree_ttcs (s : State) (x : Nat) : (s.setFree x).ttcs = s.ttcs := by rfl
@[simp] theorem State.setFree_sves (s : State) (x : Nat) : (s.setFree x).sves = s.sves := by rfl
@[simp] theorem State.setFree_beds (s : State) (x : Nat) : (s.setFree x).beds = s.beds := by rfl
@[simp] theorem State.setFree_ctxs (s : State) (x : Nat) : (s.setFree x).ctxs = s.ctxs := by rfl
@[simp] theorem State.setFree_engines (s : State) (x : Nat) : (s.setFree x).engines = s.engines := by rfl
@[simp] theorem State.setFree_cycles (s : State) (x : Nat) : (s.setFree x).cycles = s.cycles := by rfl
@[simp] theorem State.setFree_furs (s : State) (x : Nat) : (s.setFree x).furs = s.furs := by rfl
@[simp] theorem State.setFree_rts (s : State) (x : Nat) : (s.setFree x).rts = s.rts := by rfl
@[simp] theorem State.setFree_twn (s : State) (x : Nat) : (s.setFree x).twn = s.twn := by rfl
@[simp] theorem State.setFree_qdm (s : State) (x : Nat) : (s.setFree x).qdm = s.qdm := by rfl
@[simp] theorem State.setFree_inv (s : State) (x : Nat) : (s.setFree x).inv = s.inv := by rfl
@[simp] theorem State.setFree_outbox (s : State) (x : Nat) : (s.setFree x).outbox = s.outbox := by rfl
@[simp] theorem State.setFree_sumCycle (s : State) (x : Nat) : (s.setFree x).sumCycle = s.sumCycle := by rfl
@[simp] theorem State.setFree_pending (s : State) (x : Nat) : (s.setFree x).pending = s.pending := by rfl

@[simp] theorem State.setRegs_now (s : State) (x : Tab Word) : (s.setRegs x).now = s.now := by rfl
@[simp] theorem State.setRegs_free (s : State) (x : Tab Word) : (s.setRegs x).free = s.free := by rfl
@[simp] theorem State.setRegs_regs (s : State) (x : Tab Word) : (s.setRegs x).regs = x := by rfl
@[simp] theorem State.setRegs_qdr (s : State) (x : Tab Word) : (s.setRegs x).qdr = s.qdr := by rfl
@[simp] theorem State.setRegs_flash (s : State) (x : Tab Word) : (s.setRegs x).flash = s.flash := by rfl
@[simp] theorem State.setRegs_top (s : State) (x : Tab Word) : (s.setRegs x).top = s.top := by rfl
@[simp] theorem State.setRegs_cur (s : State) (x : Tab Word) : (s.setRegs x).cur = s.cur := by rfl
@[simp] theorem State.setRegs_mboxes (s : State) (x : Tab Word) : (s.setRegs x).mboxes = s.mboxes := by rfl
@[simp] theorem State.setRegs_framers (s : State) (x : Tab Word) : (s.setRegs x).framers = s.framers := by rfl
@[simp] theorem State.setRegs_txs (s : State) (x : Tab Word) : (s.setRegs x).txs = s.txs := by rfl
@[simp] theorem State.setRegs_active (s : State) (x : Tab Word) : (s.setRegs x).active = s.active := by rfl
@[simp] theorem State.setRegs_tribs (s : State) (x : Tab Word) : (s.setRegs x).tribs = s.tribs := by rfl
@[simp] theorem State.setRegs_mapOh (s : State) (x : Tab Word) : (s.setRegs x).mapOh = s.mapOh := by rfl
@[simp] theorem State.setRegs_sinkHold (s : State) (x : Tab Word) : (s.setRegs x).sinkHold = s.sinkHold := by rfl
@[simp] theorem State.setRegs_pairs (s : State) (x : Tab Word) : (s.setRegs x).pairs = s.pairs := by rfl
@[simp] theorem State.setRegs_grants (s : State) (x : Tab Word) : (s.setRegs x).grants = s.grants := by rfl
@[simp] theorem State.setRegs_commitRows (s : State) (x : Tab Word) : (s.setRegs x).commitRows = s.commitRows := by rfl
@[simp] theorem State.setRegs_policy (s : State) (x : Tab Word) : (s.setRegs x).policy = s.policy := by rfl
@[simp] theorem State.setRegs_policyPending (s : State) (x : Tab Word) : (s.setRegs x).policyPending = s.policyPending := by rfl
@[simp] theorem State.setRegs_winStart (s : State) (x : Tab Word) : (s.setRegs x).winStart = s.winStart := by rfl
@[simp] theorem State.setRegs_sdlNs (s : State) (x : Tab Word) : (s.setRegs x).sdlNs = s.sdlNs := by rfl
@[simp] theorem State.setRegs_sdlFrom (s : State) (x : Tab Word) : (s.setRegs x).sdlFrom = s.sdlFrom := by rfl
@[simp] theorem State.setRegs_refs (s : State) (x : Tab Word) : (s.setRegs x).refs = s.refs := by rfl
@[simp] theorem State.setRegs_dials (s : State) (x : Tab Word) : (s.setRegs x).dials = s.dials := by rfl
@[simp] theorem State.setRegs_gens (s : State) (x : Tab Word) : (s.setRegs x).gens = s.gens := by rfl
@[simp] theorem State.setRegs_ttcs (s : State) (x : Tab Word) : (s.setRegs x).ttcs = s.ttcs := by rfl
@[simp] theorem State.setRegs_sves (s : State) (x : Tab Word) : (s.setRegs x).sves = s.sves := by rfl
@[simp] theorem State.setRegs_beds (s : State) (x : Tab Word) : (s.setRegs x).beds = s.beds := by rfl
@[simp] theorem State.setRegs_ctxs (s : State) (x : Tab Word) : (s.setRegs x).ctxs = s.ctxs := by rfl
@[simp] theorem State.setRegs_engines (s : State) (x : Tab Word) : (s.setRegs x).engines = s.engines := by rfl
@[simp] theorem State.setRegs_cycles (s : State) (x : Tab Word) : (s.setRegs x).cycles = s.cycles := by rfl
@[simp] theorem State.setRegs_furs (s : State) (x : Tab Word) : (s.setRegs x).furs = s.furs := by rfl
@[simp] theorem State.setRegs_rts (s : State) (x : Tab Word) : (s.setRegs x).rts = s.rts := by rfl
@[simp] theorem State.setRegs_twn (s : State) (x : Tab Word) : (s.setRegs x).twn = s.twn := by rfl
@[simp] theorem State.setRegs_qdm (s : State) (x : Tab Word) : (s.setRegs x).qdm = s.qdm := by rfl
@[simp] theorem State.setRegs_inv (s : State) (x : Tab Word) : (s.setRegs x).inv = s.inv := by rfl
@[simp] theorem State.setRegs_outbox (s : State) (x : Tab Word) : (s.setRegs x).outbox = s.outbox := by rfl
@[simp] theorem State.setRegs_sumCycle (s : State) (x : Tab Word) : (s.setRegs x).sumCycle = s.sumCycle := by rfl
@[simp] theorem State.setRegs_pending (s : State) (x : Tab Word) : (s.setRegs x).pending = s.pending := by rfl

@[simp] theorem State.setQdr_now (s : State) (x : List Host.Cell) : (s.setQdr x).now = s.now := by rfl
@[simp] theorem State.setQdr_free (s : State) (x : List Host.Cell) : (s.setQdr x).free = s.free := by rfl
@[simp] theorem State.setQdr_regs (s : State) (x : List Host.Cell) : (s.setQdr x).regs = s.regs := by rfl
@[simp] theorem State.setQdr_qdr (s : State) (x : List Host.Cell) : (s.setQdr x).qdr = x := by rfl
@[simp] theorem State.setQdr_flash (s : State) (x : List Host.Cell) : (s.setQdr x).flash = s.flash := by rfl
@[simp] theorem State.setQdr_top (s : State) (x : List Host.Cell) : (s.setQdr x).top = s.top := by rfl
@[simp] theorem State.setQdr_cur (s : State) (x : List Host.Cell) : (s.setQdr x).cur = s.cur := by rfl
@[simp] theorem State.setQdr_mboxes (s : State) (x : List Host.Cell) : (s.setQdr x).mboxes = s.mboxes := by rfl
@[simp] theorem State.setQdr_framers (s : State) (x : List Host.Cell) : (s.setQdr x).framers = s.framers := by rfl
@[simp] theorem State.setQdr_txs (s : State) (x : List Host.Cell) : (s.setQdr x).txs = s.txs := by rfl
@[simp] theorem State.setQdr_active (s : State) (x : List Host.Cell) : (s.setQdr x).active = s.active := by rfl
@[simp] theorem State.setQdr_tribs (s : State) (x : List Host.Cell) : (s.setQdr x).tribs = s.tribs := by rfl
@[simp] theorem State.setQdr_mapOh (s : State) (x : List Host.Cell) : (s.setQdr x).mapOh = s.mapOh := by rfl
@[simp] theorem State.setQdr_sinkHold (s : State) (x : List Host.Cell) : (s.setQdr x).sinkHold = s.sinkHold := by rfl
@[simp] theorem State.setQdr_pairs (s : State) (x : List Host.Cell) : (s.setQdr x).pairs = s.pairs := by rfl
@[simp] theorem State.setQdr_grants (s : State) (x : List Host.Cell) : (s.setQdr x).grants = s.grants := by rfl
@[simp] theorem State.setQdr_commitRows (s : State) (x : List Host.Cell) : (s.setQdr x).commitRows = s.commitRows := by rfl
@[simp] theorem State.setQdr_policy (s : State) (x : List Host.Cell) : (s.setQdr x).policy = s.policy := by rfl
@[simp] theorem State.setQdr_policyPending (s : State) (x : List Host.Cell) : (s.setQdr x).policyPending = s.policyPending := by rfl
@[simp] theorem State.setQdr_winStart (s : State) (x : List Host.Cell) : (s.setQdr x).winStart = s.winStart := by rfl
@[simp] theorem State.setQdr_sdlNs (s : State) (x : List Host.Cell) : (s.setQdr x).sdlNs = s.sdlNs := by rfl
@[simp] theorem State.setQdr_sdlFrom (s : State) (x : List Host.Cell) : (s.setQdr x).sdlFrom = s.sdlFrom := by rfl
@[simp] theorem State.setQdr_refs (s : State) (x : List Host.Cell) : (s.setQdr x).refs = s.refs := by rfl
@[simp] theorem State.setQdr_dials (s : State) (x : List Host.Cell) : (s.setQdr x).dials = s.dials := by rfl
@[simp] theorem State.setQdr_gens (s : State) (x : List Host.Cell) : (s.setQdr x).gens = s.gens := by rfl
@[simp] theorem State.setQdr_ttcs (s : State) (x : List Host.Cell) : (s.setQdr x).ttcs = s.ttcs := by rfl
@[simp] theorem State.setQdr_sves (s : State) (x : List Host.Cell) : (s.setQdr x).sves = s.sves := by rfl
@[simp] theorem State.setQdr_beds (s : State) (x : List Host.Cell) : (s.setQdr x).beds = s.beds := by rfl
@[simp] theorem State.setQdr_ctxs (s : State) (x : List Host.Cell) : (s.setQdr x).ctxs = s.ctxs := by rfl
@[simp] theorem State.setQdr_engines (s : State) (x : List Host.Cell) : (s.setQdr x).engines = s.engines := by rfl
@[simp] theorem State.setQdr_cycles (s : State) (x : List Host.Cell) : (s.setQdr x).cycles = s.cycles := by rfl
@[simp] theorem State.setQdr_furs (s : State) (x : List Host.Cell) : (s.setQdr x).furs = s.furs := by rfl
@[simp] theorem State.setQdr_rts (s : State) (x : List Host.Cell) : (s.setQdr x).rts = s.rts := by rfl
@[simp] theorem State.setQdr_twn (s : State) (x : List Host.Cell) : (s.setQdr x).twn = s.twn := by rfl
@[simp] theorem State.setQdr_qdm (s : State) (x : List Host.Cell) : (s.setQdr x).qdm = s.qdm := by rfl
@[simp] theorem State.setQdr_inv (s : State) (x : List Host.Cell) : (s.setQdr x).inv = s.inv := by rfl
@[simp] theorem State.setQdr_outbox (s : State) (x : List Host.Cell) : (s.setQdr x).outbox = s.outbox := by rfl
@[simp] theorem State.setQdr_sumCycle (s : State) (x : List Host.Cell) : (s.setQdr x).sumCycle = s.sumCycle := by rfl
@[simp] theorem State.setQdr_pending (s : State) (x : List Host.Cell) : (s.setQdr x).pending = s.pending := by rfl

@[simp] theorem State.setFlash_now (s : State) (x : List Host.Cell) : (s.setFlash x).now = s.now := by rfl
@[simp] theorem State.setFlash_free (s : State) (x : List Host.Cell) : (s.setFlash x).free = s.free := by rfl
@[simp] theorem State.setFlash_regs (s : State) (x : List Host.Cell) : (s.setFlash x).regs = s.regs := by rfl
@[simp] theorem State.setFlash_qdr (s : State) (x : List Host.Cell) : (s.setFlash x).qdr = s.qdr := by rfl
@[simp] theorem State.setFlash_flash (s : State) (x : List Host.Cell) : (s.setFlash x).flash = x := by rfl
@[simp] theorem State.setFlash_top (s : State) (x : List Host.Cell) : (s.setFlash x).top = s.top := by rfl
@[simp] theorem State.setFlash_cur (s : State) (x : List Host.Cell) : (s.setFlash x).cur = s.cur := by rfl
@[simp] theorem State.setFlash_mboxes (s : State) (x : List Host.Cell) : (s.setFlash x).mboxes = s.mboxes := by rfl
@[simp] theorem State.setFlash_framers (s : State) (x : List Host.Cell) : (s.setFlash x).framers = s.framers := by rfl
@[simp] theorem State.setFlash_txs (s : State) (x : List Host.Cell) : (s.setFlash x).txs = s.txs := by rfl
@[simp] theorem State.setFlash_active (s : State) (x : List Host.Cell) : (s.setFlash x).active = s.active := by rfl
@[simp] theorem State.setFlash_tribs (s : State) (x : List Host.Cell) : (s.setFlash x).tribs = s.tribs := by rfl
@[simp] theorem State.setFlash_mapOh (s : State) (x : List Host.Cell) : (s.setFlash x).mapOh = s.mapOh := by rfl
@[simp] theorem State.setFlash_sinkHold (s : State) (x : List Host.Cell) : (s.setFlash x).sinkHold = s.sinkHold := by rfl
@[simp] theorem State.setFlash_pairs (s : State) (x : List Host.Cell) : (s.setFlash x).pairs = s.pairs := by rfl
@[simp] theorem State.setFlash_grants (s : State) (x : List Host.Cell) : (s.setFlash x).grants = s.grants := by rfl
@[simp] theorem State.setFlash_commitRows (s : State) (x : List Host.Cell) : (s.setFlash x).commitRows = s.commitRows := by rfl
@[simp] theorem State.setFlash_policy (s : State) (x : List Host.Cell) : (s.setFlash x).policy = s.policy := by rfl
@[simp] theorem State.setFlash_policyPending (s : State) (x : List Host.Cell) : (s.setFlash x).policyPending = s.policyPending := by rfl
@[simp] theorem State.setFlash_winStart (s : State) (x : List Host.Cell) : (s.setFlash x).winStart = s.winStart := by rfl
@[simp] theorem State.setFlash_sdlNs (s : State) (x : List Host.Cell) : (s.setFlash x).sdlNs = s.sdlNs := by rfl
@[simp] theorem State.setFlash_sdlFrom (s : State) (x : List Host.Cell) : (s.setFlash x).sdlFrom = s.sdlFrom := by rfl
@[simp] theorem State.setFlash_refs (s : State) (x : List Host.Cell) : (s.setFlash x).refs = s.refs := by rfl
@[simp] theorem State.setFlash_dials (s : State) (x : List Host.Cell) : (s.setFlash x).dials = s.dials := by rfl
@[simp] theorem State.setFlash_gens (s : State) (x : List Host.Cell) : (s.setFlash x).gens = s.gens := by rfl
@[simp] theorem State.setFlash_ttcs (s : State) (x : List Host.Cell) : (s.setFlash x).ttcs = s.ttcs := by rfl
@[simp] theorem State.setFlash_sves (s : State) (x : List Host.Cell) : (s.setFlash x).sves = s.sves := by rfl
@[simp] theorem State.setFlash_beds (s : State) (x : List Host.Cell) : (s.setFlash x).beds = s.beds := by rfl
@[simp] theorem State.setFlash_ctxs (s : State) (x : List Host.Cell) : (s.setFlash x).ctxs = s.ctxs := by rfl
@[simp] theorem State.setFlash_engines (s : State) (x : List Host.Cell) : (s.setFlash x).engines = s.engines := by rfl
@[simp] theorem State.setFlash_cycles (s : State) (x : List Host.Cell) : (s.setFlash x).cycles = s.cycles := by rfl
@[simp] theorem State.setFlash_furs (s : State) (x : List Host.Cell) : (s.setFlash x).furs = s.furs := by rfl
@[simp] theorem State.setFlash_rts (s : State) (x : List Host.Cell) : (s.setFlash x).rts = s.rts := by rfl
@[simp] theorem State.setFlash_twn (s : State) (x : List Host.Cell) : (s.setFlash x).twn = s.twn := by rfl
@[simp] theorem State.setFlash_qdm (s : State) (x : List Host.Cell) : (s.setFlash x).qdm = s.qdm := by rfl
@[simp] theorem State.setFlash_inv (s : State) (x : List Host.Cell) : (s.setFlash x).inv = s.inv := by rfl
@[simp] theorem State.setFlash_outbox (s : State) (x : List Host.Cell) : (s.setFlash x).outbox = s.outbox := by rfl
@[simp] theorem State.setFlash_sumCycle (s : State) (x : List Host.Cell) : (s.setFlash x).sumCycle = s.sumCycle := by rfl
@[simp] theorem State.setFlash_pending (s : State) (x : List Host.Cell) : (s.setFlash x).pending = s.pending := by rfl

@[simp] theorem State.setTop_now (s : State) (x : Top) : (s.setTop x).now = s.now := by rfl
@[simp] theorem State.setTop_free (s : State) (x : Top) : (s.setTop x).free = s.free := by rfl
@[simp] theorem State.setTop_regs (s : State) (x : Top) : (s.setTop x).regs = s.regs := by rfl
@[simp] theorem State.setTop_qdr (s : State) (x : Top) : (s.setTop x).qdr = s.qdr := by rfl
@[simp] theorem State.setTop_flash (s : State) (x : Top) : (s.setTop x).flash = s.flash := by rfl
@[simp] theorem State.setTop_top (s : State) (x : Top) : (s.setTop x).top = x := by rfl
@[simp] theorem State.setTop_cur (s : State) (x : Top) : (s.setTop x).cur = s.cur := by rfl
@[simp] theorem State.setTop_mboxes (s : State) (x : Top) : (s.setTop x).mboxes = s.mboxes := by rfl
@[simp] theorem State.setTop_framers (s : State) (x : Top) : (s.setTop x).framers = s.framers := by rfl
@[simp] theorem State.setTop_txs (s : State) (x : Top) : (s.setTop x).txs = s.txs := by rfl
@[simp] theorem State.setTop_active (s : State) (x : Top) : (s.setTop x).active = s.active := by rfl
@[simp] theorem State.setTop_tribs (s : State) (x : Top) : (s.setTop x).tribs = s.tribs := by rfl
@[simp] theorem State.setTop_mapOh (s : State) (x : Top) : (s.setTop x).mapOh = s.mapOh := by rfl
@[simp] theorem State.setTop_sinkHold (s : State) (x : Top) : (s.setTop x).sinkHold = s.sinkHold := by rfl
@[simp] theorem State.setTop_pairs (s : State) (x : Top) : (s.setTop x).pairs = s.pairs := by rfl
@[simp] theorem State.setTop_grants (s : State) (x : Top) : (s.setTop x).grants = s.grants := by rfl
@[simp] theorem State.setTop_commitRows (s : State) (x : Top) : (s.setTop x).commitRows = s.commitRows := by rfl
@[simp] theorem State.setTop_policy (s : State) (x : Top) : (s.setTop x).policy = s.policy := by rfl
@[simp] theorem State.setTop_policyPending (s : State) (x : Top) : (s.setTop x).policyPending = s.policyPending := by rfl
@[simp] theorem State.setTop_winStart (s : State) (x : Top) : (s.setTop x).winStart = s.winStart := by rfl
@[simp] theorem State.setTop_sdlNs (s : State) (x : Top) : (s.setTop x).sdlNs = s.sdlNs := by rfl
@[simp] theorem State.setTop_sdlFrom (s : State) (x : Top) : (s.setTop x).sdlFrom = s.sdlFrom := by rfl
@[simp] theorem State.setTop_refs (s : State) (x : Top) : (s.setTop x).refs = s.refs := by rfl
@[simp] theorem State.setTop_dials (s : State) (x : Top) : (s.setTop x).dials = s.dials := by rfl
@[simp] theorem State.setTop_gens (s : State) (x : Top) : (s.setTop x).gens = s.gens := by rfl
@[simp] theorem State.setTop_ttcs (s : State) (x : Top) : (s.setTop x).ttcs = s.ttcs := by rfl
@[simp] theorem State.setTop_sves (s : State) (x : Top) : (s.setTop x).sves = s.sves := by rfl
@[simp] theorem State.setTop_beds (s : State) (x : Top) : (s.setTop x).beds = s.beds := by rfl
@[simp] theorem State.setTop_ctxs (s : State) (x : Top) : (s.setTop x).ctxs = s.ctxs := by rfl
@[simp] theorem State.setTop_engines (s : State) (x : Top) : (s.setTop x).engines = s.engines := by rfl
@[simp] theorem State.setTop_cycles (s : State) (x : Top) : (s.setTop x).cycles = s.cycles := by rfl
@[simp] theorem State.setTop_furs (s : State) (x : Top) : (s.setTop x).furs = s.furs := by rfl
@[simp] theorem State.setTop_rts (s : State) (x : Top) : (s.setTop x).rts = s.rts := by rfl
@[simp] theorem State.setTop_twn (s : State) (x : Top) : (s.setTop x).twn = s.twn := by rfl
@[simp] theorem State.setTop_qdm (s : State) (x : Top) : (s.setTop x).qdm = s.qdm := by rfl
@[simp] theorem State.setTop_inv (s : State) (x : Top) : (s.setTop x).inv = s.inv := by rfl
@[simp] theorem State.setTop_outbox (s : State) (x : Top) : (s.setTop x).outbox = s.outbox := by rfl
@[simp] theorem State.setTop_sumCycle (s : State) (x : Top) : (s.setTop x).sumCycle = s.sumCycle := by rfl
@[simp] theorem State.setTop_pending (s : State) (x : Top) : (s.setTop x).pending = s.pending := by rfl

@[simp] theorem State.setCur_now (s : State) (x : Cur) : (s.setCur x).now = s.now := by rfl
@[simp] theorem State.setCur_free (s : State) (x : Cur) : (s.setCur x).free = s.free := by rfl
@[simp] theorem State.setCur_regs (s : State) (x : Cur) : (s.setCur x).regs = s.regs := by rfl
@[simp] theorem State.setCur_qdr (s : State) (x : Cur) : (s.setCur x).qdr = s.qdr := by rfl
@[simp] theorem State.setCur_flash (s : State) (x : Cur) : (s.setCur x).flash = s.flash := by rfl
@[simp] theorem State.setCur_top (s : State) (x : Cur) : (s.setCur x).top = s.top := by rfl
@[simp] theorem State.setCur_cur (s : State) (x : Cur) : (s.setCur x).cur = x := by rfl
@[simp] theorem State.setCur_mboxes (s : State) (x : Cur) : (s.setCur x).mboxes = s.mboxes := by rfl
@[simp] theorem State.setCur_framers (s : State) (x : Cur) : (s.setCur x).framers = s.framers := by rfl
@[simp] theorem State.setCur_txs (s : State) (x : Cur) : (s.setCur x).txs = s.txs := by rfl
@[simp] theorem State.setCur_active (s : State) (x : Cur) : (s.setCur x).active = s.active := by rfl
@[simp] theorem State.setCur_tribs (s : State) (x : Cur) : (s.setCur x).tribs = s.tribs := by rfl
@[simp] theorem State.setCur_mapOh (s : State) (x : Cur) : (s.setCur x).mapOh = s.mapOh := by rfl
@[simp] theorem State.setCur_sinkHold (s : State) (x : Cur) : (s.setCur x).sinkHold = s.sinkHold := by rfl
@[simp] theorem State.setCur_pairs (s : State) (x : Cur) : (s.setCur x).pairs = s.pairs := by rfl
@[simp] theorem State.setCur_grants (s : State) (x : Cur) : (s.setCur x).grants = s.grants := by rfl
@[simp] theorem State.setCur_commitRows (s : State) (x : Cur) : (s.setCur x).commitRows = s.commitRows := by rfl
@[simp] theorem State.setCur_policy (s : State) (x : Cur) : (s.setCur x).policy = s.policy := by rfl
@[simp] theorem State.setCur_policyPending (s : State) (x : Cur) : (s.setCur x).policyPending = s.policyPending := by rfl
@[simp] theorem State.setCur_winStart (s : State) (x : Cur) : (s.setCur x).winStart = s.winStart := by rfl
@[simp] theorem State.setCur_sdlNs (s : State) (x : Cur) : (s.setCur x).sdlNs = s.sdlNs := by rfl
@[simp] theorem State.setCur_sdlFrom (s : State) (x : Cur) : (s.setCur x).sdlFrom = s.sdlFrom := by rfl
@[simp] theorem State.setCur_refs (s : State) (x : Cur) : (s.setCur x).refs = s.refs := by rfl
@[simp] theorem State.setCur_dials (s : State) (x : Cur) : (s.setCur x).dials = s.dials := by rfl
@[simp] theorem State.setCur_gens (s : State) (x : Cur) : (s.setCur x).gens = s.gens := by rfl
@[simp] theorem State.setCur_ttcs (s : State) (x : Cur) : (s.setCur x).ttcs = s.ttcs := by rfl
@[simp] theorem State.setCur_sves (s : State) (x : Cur) : (s.setCur x).sves = s.sves := by rfl
@[simp] theorem State.setCur_beds (s : State) (x : Cur) : (s.setCur x).beds = s.beds := by rfl
@[simp] theorem State.setCur_ctxs (s : State) (x : Cur) : (s.setCur x).ctxs = s.ctxs := by rfl
@[simp] theorem State.setCur_engines (s : State) (x : Cur) : (s.setCur x).engines = s.engines := by rfl
@[simp] theorem State.setCur_cycles (s : State) (x : Cur) : (s.setCur x).cycles = s.cycles := by rfl
@[simp] theorem State.setCur_furs (s : State) (x : Cur) : (s.setCur x).furs = s.furs := by rfl
@[simp] theorem State.setCur_rts (s : State) (x : Cur) : (s.setCur x).rts = s.rts := by rfl
@[simp] theorem State.setCur_twn (s : State) (x : Cur) : (s.setCur x).twn = s.twn := by rfl
@[simp] theorem State.setCur_qdm (s : State) (x : Cur) : (s.setCur x).qdm = s.qdm := by rfl
@[simp] theorem State.setCur_inv (s : State) (x : Cur) : (s.setCur x).inv = s.inv := by rfl
@[simp] theorem State.setCur_outbox (s : State) (x : Cur) : (s.setCur x).outbox = s.outbox := by rfl
@[simp] theorem State.setCur_sumCycle (s : State) (x : Cur) : (s.setCur x).sumCycle = s.sumCycle := by rfl
@[simp] theorem State.setCur_pending (s : State) (x : Cur) : (s.setCur x).pending = s.pending := by rfl

@[simp] theorem State.setMboxes_now (s : State) (x : Tab Mbox) : (s.setMboxes x).now = s.now := by rfl
@[simp] theorem State.setMboxes_free (s : State) (x : Tab Mbox) : (s.setMboxes x).free = s.free := by rfl
@[simp] theorem State.setMboxes_regs (s : State) (x : Tab Mbox) : (s.setMboxes x).regs = s.regs := by rfl
@[simp] theorem State.setMboxes_qdr (s : State) (x : Tab Mbox) : (s.setMboxes x).qdr = s.qdr := by rfl
@[simp] theorem State.setMboxes_flash (s : State) (x : Tab Mbox) : (s.setMboxes x).flash = s.flash := by rfl
@[simp] theorem State.setMboxes_top (s : State) (x : Tab Mbox) : (s.setMboxes x).top = s.top := by rfl
@[simp] theorem State.setMboxes_cur (s : State) (x : Tab Mbox) : (s.setMboxes x).cur = s.cur := by rfl
@[simp] theorem State.setMboxes_mboxes (s : State) (x : Tab Mbox) : (s.setMboxes x).mboxes = x := by rfl
@[simp] theorem State.setMboxes_framers (s : State) (x : Tab Mbox) : (s.setMboxes x).framers = s.framers := by rfl
@[simp] theorem State.setMboxes_txs (s : State) (x : Tab Mbox) : (s.setMboxes x).txs = s.txs := by rfl
@[simp] theorem State.setMboxes_active (s : State) (x : Tab Mbox) : (s.setMboxes x).active = s.active := by rfl
@[simp] theorem State.setMboxes_tribs (s : State) (x : Tab Mbox) : (s.setMboxes x).tribs = s.tribs := by rfl
@[simp] theorem State.setMboxes_mapOh (s : State) (x : Tab Mbox) : (s.setMboxes x).mapOh = s.mapOh := by rfl
@[simp] theorem State.setMboxes_sinkHold (s : State) (x : Tab Mbox) : (s.setMboxes x).sinkHold = s.sinkHold := by rfl
@[simp] theorem State.setMboxes_pairs (s : State) (x : Tab Mbox) : (s.setMboxes x).pairs = s.pairs := by rfl
@[simp] theorem State.setMboxes_grants (s : State) (x : Tab Mbox) : (s.setMboxes x).grants = s.grants := by rfl
@[simp] theorem State.setMboxes_commitRows (s : State) (x : Tab Mbox) : (s.setMboxes x).commitRows = s.commitRows := by rfl
@[simp] theorem State.setMboxes_policy (s : State) (x : Tab Mbox) : (s.setMboxes x).policy = s.policy := by rfl
@[simp] theorem State.setMboxes_policyPending (s : State) (x : Tab Mbox) : (s.setMboxes x).policyPending = s.policyPending := by rfl
@[simp] theorem State.setMboxes_winStart (s : State) (x : Tab Mbox) : (s.setMboxes x).winStart = s.winStart := by rfl
@[simp] theorem State.setMboxes_sdlNs (s : State) (x : Tab Mbox) : (s.setMboxes x).sdlNs = s.sdlNs := by rfl
@[simp] theorem State.setMboxes_sdlFrom (s : State) (x : Tab Mbox) : (s.setMboxes x).sdlFrom = s.sdlFrom := by rfl
@[simp] theorem State.setMboxes_refs (s : State) (x : Tab Mbox) : (s.setMboxes x).refs = s.refs := by rfl
@[simp] theorem State.setMboxes_dials (s : State) (x : Tab Mbox) : (s.setMboxes x).dials = s.dials := by rfl
@[simp] theorem State.setMboxes_gens (s : State) (x : Tab Mbox) : (s.setMboxes x).gens = s.gens := by rfl
@[simp] theorem State.setMboxes_ttcs (s : State) (x : Tab Mbox) : (s.setMboxes x).ttcs = s.ttcs := by rfl
@[simp] theorem State.setMboxes_sves (s : State) (x : Tab Mbox) : (s.setMboxes x).sves = s.sves := by rfl
@[simp] theorem State.setMboxes_beds (s : State) (x : Tab Mbox) : (s.setMboxes x).beds = s.beds := by rfl
@[simp] theorem State.setMboxes_ctxs (s : State) (x : Tab Mbox) : (s.setMboxes x).ctxs = s.ctxs := by rfl
@[simp] theorem State.setMboxes_engines (s : State) (x : Tab Mbox) : (s.setMboxes x).engines = s.engines := by rfl
@[simp] theorem State.setMboxes_cycles (s : State) (x : Tab Mbox) : (s.setMboxes x).cycles = s.cycles := by rfl
@[simp] theorem State.setMboxes_furs (s : State) (x : Tab Mbox) : (s.setMboxes x).furs = s.furs := by rfl
@[simp] theorem State.setMboxes_rts (s : State) (x : Tab Mbox) : (s.setMboxes x).rts = s.rts := by rfl
@[simp] theorem State.setMboxes_twn (s : State) (x : Tab Mbox) : (s.setMboxes x).twn = s.twn := by rfl
@[simp] theorem State.setMboxes_qdm (s : State) (x : Tab Mbox) : (s.setMboxes x).qdm = s.qdm := by rfl
@[simp] theorem State.setMboxes_inv (s : State) (x : Tab Mbox) : (s.setMboxes x).inv = s.inv := by rfl
@[simp] theorem State.setMboxes_outbox (s : State) (x : Tab Mbox) : (s.setMboxes x).outbox = s.outbox := by rfl
@[simp] theorem State.setMboxes_sumCycle (s : State) (x : Tab Mbox) : (s.setMboxes x).sumCycle = s.sumCycle := by rfl
@[simp] theorem State.setMboxes_pending (s : State) (x : Tab Mbox) : (s.setMboxes x).pending = s.pending := by rfl

@[simp] theorem State.setFramers_now (s : State) (x : Tab Framer) : (s.setFramers x).now = s.now := by rfl
@[simp] theorem State.setFramers_free (s : State) (x : Tab Framer) : (s.setFramers x).free = s.free := by rfl
@[simp] theorem State.setFramers_regs (s : State) (x : Tab Framer) : (s.setFramers x).regs = s.regs := by rfl
@[simp] theorem State.setFramers_qdr (s : State) (x : Tab Framer) : (s.setFramers x).qdr = s.qdr := by rfl
@[simp] theorem State.setFramers_flash (s : State) (x : Tab Framer) : (s.setFramers x).flash = s.flash := by rfl
@[simp] theorem State.setFramers_top (s : State) (x : Tab Framer) : (s.setFramers x).top = s.top := by rfl
@[simp] theorem State.setFramers_cur (s : State) (x : Tab Framer) : (s.setFramers x).cur = s.cur := by rfl
@[simp] theorem State.setFramers_mboxes (s : State) (x : Tab Framer) : (s.setFramers x).mboxes = s.mboxes := by rfl
@[simp] theorem State.setFramers_framers (s : State) (x : Tab Framer) : (s.setFramers x).framers = x := by rfl
@[simp] theorem State.setFramers_txs (s : State) (x : Tab Framer) : (s.setFramers x).txs = s.txs := by rfl
@[simp] theorem State.setFramers_active (s : State) (x : Tab Framer) : (s.setFramers x).active = s.active := by rfl
@[simp] theorem State.setFramers_tribs (s : State) (x : Tab Framer) : (s.setFramers x).tribs = s.tribs := by rfl
@[simp] theorem State.setFramers_mapOh (s : State) (x : Tab Framer) : (s.setFramers x).mapOh = s.mapOh := by rfl
@[simp] theorem State.setFramers_sinkHold (s : State) (x : Tab Framer) : (s.setFramers x).sinkHold = s.sinkHold := by rfl
@[simp] theorem State.setFramers_pairs (s : State) (x : Tab Framer) : (s.setFramers x).pairs = s.pairs := by rfl
@[simp] theorem State.setFramers_grants (s : State) (x : Tab Framer) : (s.setFramers x).grants = s.grants := by rfl
@[simp] theorem State.setFramers_commitRows (s : State) (x : Tab Framer) : (s.setFramers x).commitRows = s.commitRows := by rfl
@[simp] theorem State.setFramers_policy (s : State) (x : Tab Framer) : (s.setFramers x).policy = s.policy := by rfl
@[simp] theorem State.setFramers_policyPending (s : State) (x : Tab Framer) : (s.setFramers x).policyPending = s.policyPending := by rfl
@[simp] theorem State.setFramers_winStart (s : State) (x : Tab Framer) : (s.setFramers x).winStart = s.winStart := by rfl
@[simp] theorem State.setFramers_sdlNs (s : State) (x : Tab Framer) : (s.setFramers x).sdlNs = s.sdlNs := by rfl
@[simp] theorem State.setFramers_sdlFrom (s : State) (x : Tab Framer) : (s.setFramers x).sdlFrom = s.sdlFrom := by rfl
@[simp] theorem State.setFramers_refs (s : State) (x : Tab Framer) : (s.setFramers x).refs = s.refs := by rfl
@[simp] theorem State.setFramers_dials (s : State) (x : Tab Framer) : (s.setFramers x).dials = s.dials := by rfl
@[simp] theorem State.setFramers_gens (s : State) (x : Tab Framer) : (s.setFramers x).gens = s.gens := by rfl
@[simp] theorem State.setFramers_ttcs (s : State) (x : Tab Framer) : (s.setFramers x).ttcs = s.ttcs := by rfl
@[simp] theorem State.setFramers_sves (s : State) (x : Tab Framer) : (s.setFramers x).sves = s.sves := by rfl
@[simp] theorem State.setFramers_beds (s : State) (x : Tab Framer) : (s.setFramers x).beds = s.beds := by rfl
@[simp] theorem State.setFramers_ctxs (s : State) (x : Tab Framer) : (s.setFramers x).ctxs = s.ctxs := by rfl
@[simp] theorem State.setFramers_engines (s : State) (x : Tab Framer) : (s.setFramers x).engines = s.engines := by rfl
@[simp] theorem State.setFramers_cycles (s : State) (x : Tab Framer) : (s.setFramers x).cycles = s.cycles := by rfl
@[simp] theorem State.setFramers_furs (s : State) (x : Tab Framer) : (s.setFramers x).furs = s.furs := by rfl
@[simp] theorem State.setFramers_rts (s : State) (x : Tab Framer) : (s.setFramers x).rts = s.rts := by rfl
@[simp] theorem State.setFramers_twn (s : State) (x : Tab Framer) : (s.setFramers x).twn = s.twn := by rfl
@[simp] theorem State.setFramers_qdm (s : State) (x : Tab Framer) : (s.setFramers x).qdm = s.qdm := by rfl
@[simp] theorem State.setFramers_inv (s : State) (x : Tab Framer) : (s.setFramers x).inv = s.inv := by rfl
@[simp] theorem State.setFramers_outbox (s : State) (x : Tab Framer) : (s.setFramers x).outbox = s.outbox := by rfl
@[simp] theorem State.setFramers_sumCycle (s : State) (x : Tab Framer) : (s.setFramers x).sumCycle = s.sumCycle := by rfl
@[simp] theorem State.setFramers_pending (s : State) (x : Tab Framer) : (s.setFramers x).pending = s.pending := by rfl

@[simp] theorem State.setTxs_now (s : State) (x : Tab Tx) : (s.setTxs x).now = s.now := by rfl
@[simp] theorem State.setTxs_free (s : State) (x : Tab Tx) : (s.setTxs x).free = s.free := by rfl
@[simp] theorem State.setTxs_regs (s : State) (x : Tab Tx) : (s.setTxs x).regs = s.regs := by rfl
@[simp] theorem State.setTxs_qdr (s : State) (x : Tab Tx) : (s.setTxs x).qdr = s.qdr := by rfl
@[simp] theorem State.setTxs_flash (s : State) (x : Tab Tx) : (s.setTxs x).flash = s.flash := by rfl
@[simp] theorem State.setTxs_top (s : State) (x : Tab Tx) : (s.setTxs x).top = s.top := by rfl
@[simp] theorem State.setTxs_cur (s : State) (x : Tab Tx) : (s.setTxs x).cur = s.cur := by rfl
@[simp] theorem State.setTxs_mboxes (s : State) (x : Tab Tx) : (s.setTxs x).mboxes = s.mboxes := by rfl
@[simp] theorem State.setTxs_framers (s : State) (x : Tab Tx) : (s.setTxs x).framers = s.framers := by rfl
@[simp] theorem State.setTxs_txs (s : State) (x : Tab Tx) : (s.setTxs x).txs = x := by rfl
@[simp] theorem State.setTxs_active (s : State) (x : Tab Tx) : (s.setTxs x).active = s.active := by rfl
@[simp] theorem State.setTxs_tribs (s : State) (x : Tab Tx) : (s.setTxs x).tribs = s.tribs := by rfl
@[simp] theorem State.setTxs_mapOh (s : State) (x : Tab Tx) : (s.setTxs x).mapOh = s.mapOh := by rfl
@[simp] theorem State.setTxs_sinkHold (s : State) (x : Tab Tx) : (s.setTxs x).sinkHold = s.sinkHold := by rfl
@[simp] theorem State.setTxs_pairs (s : State) (x : Tab Tx) : (s.setTxs x).pairs = s.pairs := by rfl
@[simp] theorem State.setTxs_grants (s : State) (x : Tab Tx) : (s.setTxs x).grants = s.grants := by rfl
@[simp] theorem State.setTxs_commitRows (s : State) (x : Tab Tx) : (s.setTxs x).commitRows = s.commitRows := by rfl
@[simp] theorem State.setTxs_policy (s : State) (x : Tab Tx) : (s.setTxs x).policy = s.policy := by rfl
@[simp] theorem State.setTxs_policyPending (s : State) (x : Tab Tx) : (s.setTxs x).policyPending = s.policyPending := by rfl
@[simp] theorem State.setTxs_winStart (s : State) (x : Tab Tx) : (s.setTxs x).winStart = s.winStart := by rfl
@[simp] theorem State.setTxs_sdlNs (s : State) (x : Tab Tx) : (s.setTxs x).sdlNs = s.sdlNs := by rfl
@[simp] theorem State.setTxs_sdlFrom (s : State) (x : Tab Tx) : (s.setTxs x).sdlFrom = s.sdlFrom := by rfl
@[simp] theorem State.setTxs_refs (s : State) (x : Tab Tx) : (s.setTxs x).refs = s.refs := by rfl
@[simp] theorem State.setTxs_dials (s : State) (x : Tab Tx) : (s.setTxs x).dials = s.dials := by rfl
@[simp] theorem State.setTxs_gens (s : State) (x : Tab Tx) : (s.setTxs x).gens = s.gens := by rfl
@[simp] theorem State.setTxs_ttcs (s : State) (x : Tab Tx) : (s.setTxs x).ttcs = s.ttcs := by rfl
@[simp] theorem State.setTxs_sves (s : State) (x : Tab Tx) : (s.setTxs x).sves = s.sves := by rfl
@[simp] theorem State.setTxs_beds (s : State) (x : Tab Tx) : (s.setTxs x).beds = s.beds := by rfl
@[simp] theorem State.setTxs_ctxs (s : State) (x : Tab Tx) : (s.setTxs x).ctxs = s.ctxs := by rfl
@[simp] theorem State.setTxs_engines (s : State) (x : Tab Tx) : (s.setTxs x).engines = s.engines := by rfl
@[simp] theorem State.setTxs_cycles (s : State) (x : Tab Tx) : (s.setTxs x).cycles = s.cycles := by rfl
@[simp] theorem State.setTxs_furs (s : State) (x : Tab Tx) : (s.setTxs x).furs = s.furs := by rfl
@[simp] theorem State.setTxs_rts (s : State) (x : Tab Tx) : (s.setTxs x).rts = s.rts := by rfl
@[simp] theorem State.setTxs_twn (s : State) (x : Tab Tx) : (s.setTxs x).twn = s.twn := by rfl
@[simp] theorem State.setTxs_qdm (s : State) (x : Tab Tx) : (s.setTxs x).qdm = s.qdm := by rfl
@[simp] theorem State.setTxs_inv (s : State) (x : Tab Tx) : (s.setTxs x).inv = s.inv := by rfl
@[simp] theorem State.setTxs_outbox (s : State) (x : Tab Tx) : (s.setTxs x).outbox = s.outbox := by rfl
@[simp] theorem State.setTxs_sumCycle (s : State) (x : Tab Tx) : (s.setTxs x).sumCycle = s.sumCycle := by rfl
@[simp] theorem State.setTxs_pending (s : State) (x : Tab Tx) : (s.setTxs x).pending = s.pending := by rfl

@[simp] theorem State.setActive_now (s : State) (x : Tab Word) : (s.setActive x).now = s.now := by rfl
@[simp] theorem State.setActive_free (s : State) (x : Tab Word) : (s.setActive x).free = s.free := by rfl
@[simp] theorem State.setActive_regs (s : State) (x : Tab Word) : (s.setActive x).regs = s.regs := by rfl
@[simp] theorem State.setActive_qdr (s : State) (x : Tab Word) : (s.setActive x).qdr = s.qdr := by rfl
@[simp] theorem State.setActive_flash (s : State) (x : Tab Word) : (s.setActive x).flash = s.flash := by rfl
@[simp] theorem State.setActive_top (s : State) (x : Tab Word) : (s.setActive x).top = s.top := by rfl
@[simp] theorem State.setActive_cur (s : State) (x : Tab Word) : (s.setActive x).cur = s.cur := by rfl
@[simp] theorem State.setActive_mboxes (s : State) (x : Tab Word) : (s.setActive x).mboxes = s.mboxes := by rfl
@[simp] theorem State.setActive_framers (s : State) (x : Tab Word) : (s.setActive x).framers = s.framers := by rfl
@[simp] theorem State.setActive_txs (s : State) (x : Tab Word) : (s.setActive x).txs = s.txs := by rfl
@[simp] theorem State.setActive_active (s : State) (x : Tab Word) : (s.setActive x).active = x := by rfl
@[simp] theorem State.setActive_tribs (s : State) (x : Tab Word) : (s.setActive x).tribs = s.tribs := by rfl
@[simp] theorem State.setActive_mapOh (s : State) (x : Tab Word) : (s.setActive x).mapOh = s.mapOh := by rfl
@[simp] theorem State.setActive_sinkHold (s : State) (x : Tab Word) : (s.setActive x).sinkHold = s.sinkHold := by rfl
@[simp] theorem State.setActive_pairs (s : State) (x : Tab Word) : (s.setActive x).pairs = s.pairs := by rfl
@[simp] theorem State.setActive_grants (s : State) (x : Tab Word) : (s.setActive x).grants = s.grants := by rfl
@[simp] theorem State.setActive_commitRows (s : State) (x : Tab Word) : (s.setActive x).commitRows = s.commitRows := by rfl
@[simp] theorem State.setActive_policy (s : State) (x : Tab Word) : (s.setActive x).policy = s.policy := by rfl
@[simp] theorem State.setActive_policyPending (s : State) (x : Tab Word) : (s.setActive x).policyPending = s.policyPending := by rfl
@[simp] theorem State.setActive_winStart (s : State) (x : Tab Word) : (s.setActive x).winStart = s.winStart := by rfl
@[simp] theorem State.setActive_sdlNs (s : State) (x : Tab Word) : (s.setActive x).sdlNs = s.sdlNs := by rfl
@[simp] theorem State.setActive_sdlFrom (s : State) (x : Tab Word) : (s.setActive x).sdlFrom = s.sdlFrom := by rfl
@[simp] theorem State.setActive_refs (s : State) (x : Tab Word) : (s.setActive x).refs = s.refs := by rfl
@[simp] theorem State.setActive_dials (s : State) (x : Tab Word) : (s.setActive x).dials = s.dials := by rfl
@[simp] theorem State.setActive_gens (s : State) (x : Tab Word) : (s.setActive x).gens = s.gens := by rfl
@[simp] theorem State.setActive_ttcs (s : State) (x : Tab Word) : (s.setActive x).ttcs = s.ttcs := by rfl
@[simp] theorem State.setActive_sves (s : State) (x : Tab Word) : (s.setActive x).sves = s.sves := by rfl
@[simp] theorem State.setActive_beds (s : State) (x : Tab Word) : (s.setActive x).beds = s.beds := by rfl
@[simp] theorem State.setActive_ctxs (s : State) (x : Tab Word) : (s.setActive x).ctxs = s.ctxs := by rfl
@[simp] theorem State.setActive_engines (s : State) (x : Tab Word) : (s.setActive x).engines = s.engines := by rfl
@[simp] theorem State.setActive_cycles (s : State) (x : Tab Word) : (s.setActive x).cycles = s.cycles := by rfl
@[simp] theorem State.setActive_furs (s : State) (x : Tab Word) : (s.setActive x).furs = s.furs := by rfl
@[simp] theorem State.setActive_rts (s : State) (x : Tab Word) : (s.setActive x).rts = s.rts := by rfl
@[simp] theorem State.setActive_twn (s : State) (x : Tab Word) : (s.setActive x).twn = s.twn := by rfl
@[simp] theorem State.setActive_qdm (s : State) (x : Tab Word) : (s.setActive x).qdm = s.qdm := by rfl
@[simp] theorem State.setActive_inv (s : State) (x : Tab Word) : (s.setActive x).inv = s.inv := by rfl
@[simp] theorem State.setActive_outbox (s : State) (x : Tab Word) : (s.setActive x).outbox = s.outbox := by rfl
@[simp] theorem State.setActive_sumCycle (s : State) (x : Tab Word) : (s.setActive x).sumCycle = s.sumCycle := by rfl
@[simp] theorem State.setActive_pending (s : State) (x : Tab Word) : (s.setActive x).pending = s.pending := by rfl

@[simp] theorem State.setTribs_now (s : State) (x : Tab Trib) : (s.setTribs x).now = s.now := by rfl
@[simp] theorem State.setTribs_free (s : State) (x : Tab Trib) : (s.setTribs x).free = s.free := by rfl
@[simp] theorem State.setTribs_regs (s : State) (x : Tab Trib) : (s.setTribs x).regs = s.regs := by rfl
@[simp] theorem State.setTribs_qdr (s : State) (x : Tab Trib) : (s.setTribs x).qdr = s.qdr := by rfl
@[simp] theorem State.setTribs_flash (s : State) (x : Tab Trib) : (s.setTribs x).flash = s.flash := by rfl
@[simp] theorem State.setTribs_top (s : State) (x : Tab Trib) : (s.setTribs x).top = s.top := by rfl
@[simp] theorem State.setTribs_cur (s : State) (x : Tab Trib) : (s.setTribs x).cur = s.cur := by rfl
@[simp] theorem State.setTribs_mboxes (s : State) (x : Tab Trib) : (s.setTribs x).mboxes = s.mboxes := by rfl
@[simp] theorem State.setTribs_framers (s : State) (x : Tab Trib) : (s.setTribs x).framers = s.framers := by rfl
@[simp] theorem State.setTribs_txs (s : State) (x : Tab Trib) : (s.setTribs x).txs = s.txs := by rfl
@[simp] theorem State.setTribs_active (s : State) (x : Tab Trib) : (s.setTribs x).active = s.active := by rfl
@[simp] theorem State.setTribs_tribs (s : State) (x : Tab Trib) : (s.setTribs x).tribs = x := by rfl
@[simp] theorem State.setTribs_mapOh (s : State) (x : Tab Trib) : (s.setTribs x).mapOh = s.mapOh := by rfl
@[simp] theorem State.setTribs_sinkHold (s : State) (x : Tab Trib) : (s.setTribs x).sinkHold = s.sinkHold := by rfl
@[simp] theorem State.setTribs_pairs (s : State) (x : Tab Trib) : (s.setTribs x).pairs = s.pairs := by rfl
@[simp] theorem State.setTribs_grants (s : State) (x : Tab Trib) : (s.setTribs x).grants = s.grants := by rfl
@[simp] theorem State.setTribs_commitRows (s : State) (x : Tab Trib) : (s.setTribs x).commitRows = s.commitRows := by rfl
@[simp] theorem State.setTribs_policy (s : State) (x : Tab Trib) : (s.setTribs x).policy = s.policy := by rfl
@[simp] theorem State.setTribs_policyPending (s : State) (x : Tab Trib) : (s.setTribs x).policyPending = s.policyPending := by rfl
@[simp] theorem State.setTribs_winStart (s : State) (x : Tab Trib) : (s.setTribs x).winStart = s.winStart := by rfl
@[simp] theorem State.setTribs_sdlNs (s : State) (x : Tab Trib) : (s.setTribs x).sdlNs = s.sdlNs := by rfl
@[simp] theorem State.setTribs_sdlFrom (s : State) (x : Tab Trib) : (s.setTribs x).sdlFrom = s.sdlFrom := by rfl
@[simp] theorem State.setTribs_refs (s : State) (x : Tab Trib) : (s.setTribs x).refs = s.refs := by rfl
@[simp] theorem State.setTribs_dials (s : State) (x : Tab Trib) : (s.setTribs x).dials = s.dials := by rfl
@[simp] theorem State.setTribs_gens (s : State) (x : Tab Trib) : (s.setTribs x).gens = s.gens := by rfl
@[simp] theorem State.setTribs_ttcs (s : State) (x : Tab Trib) : (s.setTribs x).ttcs = s.ttcs := by rfl
@[simp] theorem State.setTribs_sves (s : State) (x : Tab Trib) : (s.setTribs x).sves = s.sves := by rfl
@[simp] theorem State.setTribs_beds (s : State) (x : Tab Trib) : (s.setTribs x).beds = s.beds := by rfl
@[simp] theorem State.setTribs_ctxs (s : State) (x : Tab Trib) : (s.setTribs x).ctxs = s.ctxs := by rfl
@[simp] theorem State.setTribs_engines (s : State) (x : Tab Trib) : (s.setTribs x).engines = s.engines := by rfl
@[simp] theorem State.setTribs_cycles (s : State) (x : Tab Trib) : (s.setTribs x).cycles = s.cycles := by rfl
@[simp] theorem State.setTribs_furs (s : State) (x : Tab Trib) : (s.setTribs x).furs = s.furs := by rfl
@[simp] theorem State.setTribs_rts (s : State) (x : Tab Trib) : (s.setTribs x).rts = s.rts := by rfl
@[simp] theorem State.setTribs_twn (s : State) (x : Tab Trib) : (s.setTribs x).twn = s.twn := by rfl
@[simp] theorem State.setTribs_qdm (s : State) (x : Tab Trib) : (s.setTribs x).qdm = s.qdm := by rfl
@[simp] theorem State.setTribs_inv (s : State) (x : Tab Trib) : (s.setTribs x).inv = s.inv := by rfl
@[simp] theorem State.setTribs_outbox (s : State) (x : Tab Trib) : (s.setTribs x).outbox = s.outbox := by rfl
@[simp] theorem State.setTribs_sumCycle (s : State) (x : Tab Trib) : (s.setTribs x).sumCycle = s.sumCycle := by rfl
@[simp] theorem State.setTribs_pending (s : State) (x : Tab Trib) : (s.setTribs x).pending = s.pending := by rfl

@[simp] theorem State.setMapOhTab_now (s : State) (x : Tab OhX) : (s.setMapOhTab x).now = s.now := by rfl
@[simp] theorem State.setMapOhTab_free (s : State) (x : Tab OhX) : (s.setMapOhTab x).free = s.free := by rfl
@[simp] theorem State.setMapOhTab_regs (s : State) (x : Tab OhX) : (s.setMapOhTab x).regs = s.regs := by rfl
@[simp] theorem State.setMapOhTab_qdr (s : State) (x : Tab OhX) : (s.setMapOhTab x).qdr = s.qdr := by rfl
@[simp] theorem State.setMapOhTab_flash (s : State) (x : Tab OhX) : (s.setMapOhTab x).flash = s.flash := by rfl
@[simp] theorem State.setMapOhTab_top (s : State) (x : Tab OhX) : (s.setMapOhTab x).top = s.top := by rfl
@[simp] theorem State.setMapOhTab_cur (s : State) (x : Tab OhX) : (s.setMapOhTab x).cur = s.cur := by rfl
@[simp] theorem State.setMapOhTab_mboxes (s : State) (x : Tab OhX) : (s.setMapOhTab x).mboxes = s.mboxes := by rfl
@[simp] theorem State.setMapOhTab_framers (s : State) (x : Tab OhX) : (s.setMapOhTab x).framers = s.framers := by rfl
@[simp] theorem State.setMapOhTab_txs (s : State) (x : Tab OhX) : (s.setMapOhTab x).txs = s.txs := by rfl
@[simp] theorem State.setMapOhTab_active (s : State) (x : Tab OhX) : (s.setMapOhTab x).active = s.active := by rfl
@[simp] theorem State.setMapOhTab_tribs (s : State) (x : Tab OhX) : (s.setMapOhTab x).tribs = s.tribs := by rfl
@[simp] theorem State.setMapOhTab_mapOh (s : State) (x : Tab OhX) : (s.setMapOhTab x).mapOh = x := by rfl
@[simp] theorem State.setMapOhTab_sinkHold (s : State) (x : Tab OhX) : (s.setMapOhTab x).sinkHold = s.sinkHold := by rfl
@[simp] theorem State.setMapOhTab_pairs (s : State) (x : Tab OhX) : (s.setMapOhTab x).pairs = s.pairs := by rfl
@[simp] theorem State.setMapOhTab_grants (s : State) (x : Tab OhX) : (s.setMapOhTab x).grants = s.grants := by rfl
@[simp] theorem State.setMapOhTab_commitRows (s : State) (x : Tab OhX) : (s.setMapOhTab x).commitRows = s.commitRows := by rfl
@[simp] theorem State.setMapOhTab_policy (s : State) (x : Tab OhX) : (s.setMapOhTab x).policy = s.policy := by rfl
@[simp] theorem State.setMapOhTab_policyPending (s : State) (x : Tab OhX) : (s.setMapOhTab x).policyPending = s.policyPending := by rfl
@[simp] theorem State.setMapOhTab_winStart (s : State) (x : Tab OhX) : (s.setMapOhTab x).winStart = s.winStart := by rfl
@[simp] theorem State.setMapOhTab_sdlNs (s : State) (x : Tab OhX) : (s.setMapOhTab x).sdlNs = s.sdlNs := by rfl
@[simp] theorem State.setMapOhTab_sdlFrom (s : State) (x : Tab OhX) : (s.setMapOhTab x).sdlFrom = s.sdlFrom := by rfl
@[simp] theorem State.setMapOhTab_refs (s : State) (x : Tab OhX) : (s.setMapOhTab x).refs = s.refs := by rfl
@[simp] theorem State.setMapOhTab_dials (s : State) (x : Tab OhX) : (s.setMapOhTab x).dials = s.dials := by rfl
@[simp] theorem State.setMapOhTab_gens (s : State) (x : Tab OhX) : (s.setMapOhTab x).gens = s.gens := by rfl
@[simp] theorem State.setMapOhTab_ttcs (s : State) (x : Tab OhX) : (s.setMapOhTab x).ttcs = s.ttcs := by rfl
@[simp] theorem State.setMapOhTab_sves (s : State) (x : Tab OhX) : (s.setMapOhTab x).sves = s.sves := by rfl
@[simp] theorem State.setMapOhTab_beds (s : State) (x : Tab OhX) : (s.setMapOhTab x).beds = s.beds := by rfl
@[simp] theorem State.setMapOhTab_ctxs (s : State) (x : Tab OhX) : (s.setMapOhTab x).ctxs = s.ctxs := by rfl
@[simp] theorem State.setMapOhTab_engines (s : State) (x : Tab OhX) : (s.setMapOhTab x).engines = s.engines := by rfl
@[simp] theorem State.setMapOhTab_cycles (s : State) (x : Tab OhX) : (s.setMapOhTab x).cycles = s.cycles := by rfl
@[simp] theorem State.setMapOhTab_furs (s : State) (x : Tab OhX) : (s.setMapOhTab x).furs = s.furs := by rfl
@[simp] theorem State.setMapOhTab_rts (s : State) (x : Tab OhX) : (s.setMapOhTab x).rts = s.rts := by rfl
@[simp] theorem State.setMapOhTab_twn (s : State) (x : Tab OhX) : (s.setMapOhTab x).twn = s.twn := by rfl
@[simp] theorem State.setMapOhTab_qdm (s : State) (x : Tab OhX) : (s.setMapOhTab x).qdm = s.qdm := by rfl
@[simp] theorem State.setMapOhTab_inv (s : State) (x : Tab OhX) : (s.setMapOhTab x).inv = s.inv := by rfl
@[simp] theorem State.setMapOhTab_outbox (s : State) (x : Tab OhX) : (s.setMapOhTab x).outbox = s.outbox := by rfl
@[simp] theorem State.setMapOhTab_sumCycle (s : State) (x : Tab OhX) : (s.setMapOhTab x).sumCycle = s.sumCycle := by rfl
@[simp] theorem State.setMapOhTab_pending (s : State) (x : Tab OhX) : (s.setMapOhTab x).pending = s.pending := by rfl

@[simp] theorem State.setSinkHold_now (s : State) (x : Tab Nat) : (s.setSinkHold x).now = s.now := by rfl
@[simp] theorem State.setSinkHold_free (s : State) (x : Tab Nat) : (s.setSinkHold x).free = s.free := by rfl
@[simp] theorem State.setSinkHold_regs (s : State) (x : Tab Nat) : (s.setSinkHold x).regs = s.regs := by rfl
@[simp] theorem State.setSinkHold_qdr (s : State) (x : Tab Nat) : (s.setSinkHold x).qdr = s.qdr := by rfl
@[simp] theorem State.setSinkHold_flash (s : State) (x : Tab Nat) : (s.setSinkHold x).flash = s.flash := by rfl
@[simp] theorem State.setSinkHold_top (s : State) (x : Tab Nat) : (s.setSinkHold x).top = s.top := by rfl
@[simp] theorem State.setSinkHold_cur (s : State) (x : Tab Nat) : (s.setSinkHold x).cur = s.cur := by rfl
@[simp] theorem State.setSinkHold_mboxes (s : State) (x : Tab Nat) : (s.setSinkHold x).mboxes = s.mboxes := by rfl
@[simp] theorem State.setSinkHold_framers (s : State) (x : Tab Nat) : (s.setSinkHold x).framers = s.framers := by rfl
@[simp] theorem State.setSinkHold_txs (s : State) (x : Tab Nat) : (s.setSinkHold x).txs = s.txs := by rfl
@[simp] theorem State.setSinkHold_active (s : State) (x : Tab Nat) : (s.setSinkHold x).active = s.active := by rfl
@[simp] theorem State.setSinkHold_tribs (s : State) (x : Tab Nat) : (s.setSinkHold x).tribs = s.tribs := by rfl
@[simp] theorem State.setSinkHold_mapOh (s : State) (x : Tab Nat) : (s.setSinkHold x).mapOh = s.mapOh := by rfl
@[simp] theorem State.setSinkHold_sinkHold (s : State) (x : Tab Nat) : (s.setSinkHold x).sinkHold = x := by rfl
@[simp] theorem State.setSinkHold_pairs (s : State) (x : Tab Nat) : (s.setSinkHold x).pairs = s.pairs := by rfl
@[simp] theorem State.setSinkHold_grants (s : State) (x : Tab Nat) : (s.setSinkHold x).grants = s.grants := by rfl
@[simp] theorem State.setSinkHold_commitRows (s : State) (x : Tab Nat) : (s.setSinkHold x).commitRows = s.commitRows := by rfl
@[simp] theorem State.setSinkHold_policy (s : State) (x : Tab Nat) : (s.setSinkHold x).policy = s.policy := by rfl
@[simp] theorem State.setSinkHold_policyPending (s : State) (x : Tab Nat) : (s.setSinkHold x).policyPending = s.policyPending := by rfl
@[simp] theorem State.setSinkHold_winStart (s : State) (x : Tab Nat) : (s.setSinkHold x).winStart = s.winStart := by rfl
@[simp] theorem State.setSinkHold_sdlNs (s : State) (x : Tab Nat) : (s.setSinkHold x).sdlNs = s.sdlNs := by rfl
@[simp] theorem State.setSinkHold_sdlFrom (s : State) (x : Tab Nat) : (s.setSinkHold x).sdlFrom = s.sdlFrom := by rfl
@[simp] theorem State.setSinkHold_refs (s : State) (x : Tab Nat) : (s.setSinkHold x).refs = s.refs := by rfl
@[simp] theorem State.setSinkHold_dials (s : State) (x : Tab Nat) : (s.setSinkHold x).dials = s.dials := by rfl
@[simp] theorem State.setSinkHold_gens (s : State) (x : Tab Nat) : (s.setSinkHold x).gens = s.gens := by rfl
@[simp] theorem State.setSinkHold_ttcs (s : State) (x : Tab Nat) : (s.setSinkHold x).ttcs = s.ttcs := by rfl
@[simp] theorem State.setSinkHold_sves (s : State) (x : Tab Nat) : (s.setSinkHold x).sves = s.sves := by rfl
@[simp] theorem State.setSinkHold_beds (s : State) (x : Tab Nat) : (s.setSinkHold x).beds = s.beds := by rfl
@[simp] theorem State.setSinkHold_ctxs (s : State) (x : Tab Nat) : (s.setSinkHold x).ctxs = s.ctxs := by rfl
@[simp] theorem State.setSinkHold_engines (s : State) (x : Tab Nat) : (s.setSinkHold x).engines = s.engines := by rfl
@[simp] theorem State.setSinkHold_cycles (s : State) (x : Tab Nat) : (s.setSinkHold x).cycles = s.cycles := by rfl
@[simp] theorem State.setSinkHold_furs (s : State) (x : Tab Nat) : (s.setSinkHold x).furs = s.furs := by rfl
@[simp] theorem State.setSinkHold_rts (s : State) (x : Tab Nat) : (s.setSinkHold x).rts = s.rts := by rfl
@[simp] theorem State.setSinkHold_twn (s : State) (x : Tab Nat) : (s.setSinkHold x).twn = s.twn := by rfl
@[simp] theorem State.setSinkHold_qdm (s : State) (x : Tab Nat) : (s.setSinkHold x).qdm = s.qdm := by rfl
@[simp] theorem State.setSinkHold_inv (s : State) (x : Tab Nat) : (s.setSinkHold x).inv = s.inv := by rfl
@[simp] theorem State.setSinkHold_outbox (s : State) (x : Tab Nat) : (s.setSinkHold x).outbox = s.outbox := by rfl
@[simp] theorem State.setSinkHold_sumCycle (s : State) (x : Tab Nat) : (s.setSinkHold x).sumCycle = s.sumCycle := by rfl
@[simp] theorem State.setSinkHold_pending (s : State) (x : Tab Nat) : (s.setSinkHold x).pending = s.pending := by rfl

@[simp] theorem State.setPairs_now (s : State) (x : Tab Pair) : (s.setPairs x).now = s.now := by rfl
@[simp] theorem State.setPairs_free (s : State) (x : Tab Pair) : (s.setPairs x).free = s.free := by rfl
@[simp] theorem State.setPairs_regs (s : State) (x : Tab Pair) : (s.setPairs x).regs = s.regs := by rfl
@[simp] theorem State.setPairs_qdr (s : State) (x : Tab Pair) : (s.setPairs x).qdr = s.qdr := by rfl
@[simp] theorem State.setPairs_flash (s : State) (x : Tab Pair) : (s.setPairs x).flash = s.flash := by rfl
@[simp] theorem State.setPairs_top (s : State) (x : Tab Pair) : (s.setPairs x).top = s.top := by rfl
@[simp] theorem State.setPairs_cur (s : State) (x : Tab Pair) : (s.setPairs x).cur = s.cur := by rfl
@[simp] theorem State.setPairs_mboxes (s : State) (x : Tab Pair) : (s.setPairs x).mboxes = s.mboxes := by rfl
@[simp] theorem State.setPairs_framers (s : State) (x : Tab Pair) : (s.setPairs x).framers = s.framers := by rfl
@[simp] theorem State.setPairs_txs (s : State) (x : Tab Pair) : (s.setPairs x).txs = s.txs := by rfl
@[simp] theorem State.setPairs_active (s : State) (x : Tab Pair) : (s.setPairs x).active = s.active := by rfl
@[simp] theorem State.setPairs_tribs (s : State) (x : Tab Pair) : (s.setPairs x).tribs = s.tribs := by rfl
@[simp] theorem State.setPairs_mapOh (s : State) (x : Tab Pair) : (s.setPairs x).mapOh = s.mapOh := by rfl
@[simp] theorem State.setPairs_sinkHold (s : State) (x : Tab Pair) : (s.setPairs x).sinkHold = s.sinkHold := by rfl
@[simp] theorem State.setPairs_pairs (s : State) (x : Tab Pair) : (s.setPairs x).pairs = x := by rfl
@[simp] theorem State.setPairs_grants (s : State) (x : Tab Pair) : (s.setPairs x).grants = s.grants := by rfl
@[simp] theorem State.setPairs_commitRows (s : State) (x : Tab Pair) : (s.setPairs x).commitRows = s.commitRows := by rfl
@[simp] theorem State.setPairs_policy (s : State) (x : Tab Pair) : (s.setPairs x).policy = s.policy := by rfl
@[simp] theorem State.setPairs_policyPending (s : State) (x : Tab Pair) : (s.setPairs x).policyPending = s.policyPending := by rfl
@[simp] theorem State.setPairs_winStart (s : State) (x : Tab Pair) : (s.setPairs x).winStart = s.winStart := by rfl
@[simp] theorem State.setPairs_sdlNs (s : State) (x : Tab Pair) : (s.setPairs x).sdlNs = s.sdlNs := by rfl
@[simp] theorem State.setPairs_sdlFrom (s : State) (x : Tab Pair) : (s.setPairs x).sdlFrom = s.sdlFrom := by rfl
@[simp] theorem State.setPairs_refs (s : State) (x : Tab Pair) : (s.setPairs x).refs = s.refs := by rfl
@[simp] theorem State.setPairs_dials (s : State) (x : Tab Pair) : (s.setPairs x).dials = s.dials := by rfl
@[simp] theorem State.setPairs_gens (s : State) (x : Tab Pair) : (s.setPairs x).gens = s.gens := by rfl
@[simp] theorem State.setPairs_ttcs (s : State) (x : Tab Pair) : (s.setPairs x).ttcs = s.ttcs := by rfl
@[simp] theorem State.setPairs_sves (s : State) (x : Tab Pair) : (s.setPairs x).sves = s.sves := by rfl
@[simp] theorem State.setPairs_beds (s : State) (x : Tab Pair) : (s.setPairs x).beds = s.beds := by rfl
@[simp] theorem State.setPairs_ctxs (s : State) (x : Tab Pair) : (s.setPairs x).ctxs = s.ctxs := by rfl
@[simp] theorem State.setPairs_engines (s : State) (x : Tab Pair) : (s.setPairs x).engines = s.engines := by rfl
@[simp] theorem State.setPairs_cycles (s : State) (x : Tab Pair) : (s.setPairs x).cycles = s.cycles := by rfl
@[simp] theorem State.setPairs_furs (s : State) (x : Tab Pair) : (s.setPairs x).furs = s.furs := by rfl
@[simp] theorem State.setPairs_rts (s : State) (x : Tab Pair) : (s.setPairs x).rts = s.rts := by rfl
@[simp] theorem State.setPairs_twn (s : State) (x : Tab Pair) : (s.setPairs x).twn = s.twn := by rfl
@[simp] theorem State.setPairs_qdm (s : State) (x : Tab Pair) : (s.setPairs x).qdm = s.qdm := by rfl
@[simp] theorem State.setPairs_inv (s : State) (x : Tab Pair) : (s.setPairs x).inv = s.inv := by rfl
@[simp] theorem State.setPairs_outbox (s : State) (x : Tab Pair) : (s.setPairs x).outbox = s.outbox := by rfl
@[simp] theorem State.setPairs_sumCycle (s : State) (x : Tab Pair) : (s.setPairs x).sumCycle = s.sumCycle := by rfl
@[simp] theorem State.setPairs_pending (s : State) (x : Tab Pair) : (s.setPairs x).pending = s.pending := by rfl

@[simp] theorem State.setGrants_now (s : State) (x : Tab (Nat × Nat)) : (s.setGrants x).now = s.now := by rfl
@[simp] theorem State.setGrants_free (s : State) (x : Tab (Nat × Nat)) : (s.setGrants x).free = s.free := by rfl
@[simp] theorem State.setGrants_regs (s : State) (x : Tab (Nat × Nat)) : (s.setGrants x).regs = s.regs := by rfl
@[simp] theorem State.setGrants_qdr (s : State) (x : Tab (Nat × Nat)) : (s.setGrants x).qdr = s.qdr := by rfl
@[simp] theorem State.setGrants_flash (s : State) (x : Tab (Nat × Nat)) : (s.setGrants x).flash = s.flash := by rfl
@[simp] theorem State.setGrants_top (s : State) (x : Tab (Nat × Nat)) : (s.setGrants x).top = s.top := by rfl
@[simp] theorem State.setGrants_cur (s : State) (x : Tab (Nat × Nat)) : (s.setGrants x).cur = s.cur := by rfl
@[simp] theorem State.setGrants_mboxes (s : State) (x : Tab (Nat × Nat)) : (s.setGrants x).mboxes = s.mboxes := by rfl
@[simp] theorem State.setGrants_framers (s : State) (x : Tab (Nat × Nat)) : (s.setGrants x).framers = s.framers := by rfl
@[simp] theorem State.setGrants_txs (s : State) (x : Tab (Nat × Nat)) : (s.setGrants x).txs = s.txs := by rfl
@[simp] theorem State.setGrants_active (s : State) (x : Tab (Nat × Nat)) : (s.setGrants x).active = s.active := by rfl
@[simp] theorem State.setGrants_tribs (s : State) (x : Tab (Nat × Nat)) : (s.setGrants x).tribs = s.tribs := by rfl
@[simp] theorem State.setGrants_mapOh (s : State) (x : Tab (Nat × Nat)) : (s.setGrants x).mapOh = s.mapOh := by rfl
@[simp] theorem State.setGrants_sinkHold (s : State) (x : Tab (Nat × Nat)) : (s.setGrants x).sinkHold = s.sinkHold := by rfl
@[simp] theorem State.setGrants_pairs (s : State) (x : Tab (Nat × Nat)) : (s.setGrants x).pairs = s.pairs := by rfl
@[simp] theorem State.setGrants_grants (s : State) (x : Tab (Nat × Nat)) : (s.setGrants x).grants = x := by rfl
@[simp] theorem State.setGrants_commitRows (s : State) (x : Tab (Nat × Nat)) : (s.setGrants x).commitRows = s.commitRows := by rfl
@[simp] theorem State.setGrants_policy (s : State) (x : Tab (Nat × Nat)) : (s.setGrants x).policy = s.policy := by rfl
@[simp] theorem State.setGrants_policyPending (s : State) (x : Tab (Nat × Nat)) : (s.setGrants x).policyPending = s.policyPending := by rfl
@[simp] theorem State.setGrants_winStart (s : State) (x : Tab (Nat × Nat)) : (s.setGrants x).winStart = s.winStart := by rfl
@[simp] theorem State.setGrants_sdlNs (s : State) (x : Tab (Nat × Nat)) : (s.setGrants x).sdlNs = s.sdlNs := by rfl
@[simp] theorem State.setGrants_sdlFrom (s : State) (x : Tab (Nat × Nat)) : (s.setGrants x).sdlFrom = s.sdlFrom := by rfl
@[simp] theorem State.setGrants_refs (s : State) (x : Tab (Nat × Nat)) : (s.setGrants x).refs = s.refs := by rfl
@[simp] theorem State.setGrants_dials (s : State) (x : Tab (Nat × Nat)) : (s.setGrants x).dials = s.dials := by rfl
@[simp] theorem State.setGrants_gens (s : State) (x : Tab (Nat × Nat)) : (s.setGrants x).gens = s.gens := by rfl
@[simp] theorem State.setGrants_ttcs (s : State) (x : Tab (Nat × Nat)) : (s.setGrants x).ttcs = s.ttcs := by rfl
@[simp] theorem State.setGrants_sves (s : State) (x : Tab (Nat × Nat)) : (s.setGrants x).sves = s.sves := by rfl
@[simp] theorem State.setGrants_beds (s : State) (x : Tab (Nat × Nat)) : (s.setGrants x).beds = s.beds := by rfl
@[simp] theorem State.setGrants_ctxs (s : State) (x : Tab (Nat × Nat)) : (s.setGrants x).ctxs = s.ctxs := by rfl
@[simp] theorem State.setGrants_engines (s : State) (x : Tab (Nat × Nat)) : (s.setGrants x).engines = s.engines := by rfl
@[simp] theorem State.setGrants_cycles (s : State) (x : Tab (Nat × Nat)) : (s.setGrants x).cycles = s.cycles := by rfl
@[simp] theorem State.setGrants_furs (s : State) (x : Tab (Nat × Nat)) : (s.setGrants x).furs = s.furs := by rfl
@[simp] theorem State.setGrants_rts (s : State) (x : Tab (Nat × Nat)) : (s.setGrants x).rts = s.rts := by rfl
@[simp] theorem State.setGrants_twn (s : State) (x : Tab (Nat × Nat)) : (s.setGrants x).twn = s.twn := by rfl
@[simp] theorem State.setGrants_qdm (s : State) (x : Tab (Nat × Nat)) : (s.setGrants x).qdm = s.qdm := by rfl
@[simp] theorem State.setGrants_inv (s : State) (x : Tab (Nat × Nat)) : (s.setGrants x).inv = s.inv := by rfl
@[simp] theorem State.setGrants_outbox (s : State) (x : Tab (Nat × Nat)) : (s.setGrants x).outbox = s.outbox := by rfl
@[simp] theorem State.setGrants_sumCycle (s : State) (x : Tab (Nat × Nat)) : (s.setGrants x).sumCycle = s.sumCycle := by rfl
@[simp] theorem State.setGrants_pending (s : State) (x : Tab (Nat × Nat)) : (s.setGrants x).pending = s.pending := by rfl

@[simp] theorem State.setCommitRows_now (s : State) (x : Half) : (s.setCommitRows x).now = s.now := by rfl
@[simp] theorem State.setCommitRows_free (s : State) (x : Half) : (s.setCommitRows x).free = s.free := by rfl
@[simp] theorem State.setCommitRows_regs (s : State) (x : Half) : (s.setCommitRows x).regs = s.regs := by rfl
@[simp] theorem State.setCommitRows_qdr (s : State) (x : Half) : (s.setCommitRows x).qdr = s.qdr := by rfl
@[simp] theorem State.setCommitRows_flash (s : State) (x : Half) : (s.setCommitRows x).flash = s.flash := by rfl
@[simp] theorem State.setCommitRows_top (s : State) (x : Half) : (s.setCommitRows x).top = s.top := by rfl
@[simp] theorem State.setCommitRows_cur (s : State) (x : Half) : (s.setCommitRows x).cur = s.cur := by rfl
@[simp] theorem State.setCommitRows_mboxes (s : State) (x : Half) : (s.setCommitRows x).mboxes = s.mboxes := by rfl
@[simp] theorem State.setCommitRows_framers (s : State) (x : Half) : (s.setCommitRows x).framers = s.framers := by rfl
@[simp] theorem State.setCommitRows_txs (s : State) (x : Half) : (s.setCommitRows x).txs = s.txs := by rfl
@[simp] theorem State.setCommitRows_active (s : State) (x : Half) : (s.setCommitRows x).active = s.active := by rfl
@[simp] theorem State.setCommitRows_tribs (s : State) (x : Half) : (s.setCommitRows x).tribs = s.tribs := by rfl
@[simp] theorem State.setCommitRows_mapOh (s : State) (x : Half) : (s.setCommitRows x).mapOh = s.mapOh := by rfl
@[simp] theorem State.setCommitRows_sinkHold (s : State) (x : Half) : (s.setCommitRows x).sinkHold = s.sinkHold := by rfl
@[simp] theorem State.setCommitRows_pairs (s : State) (x : Half) : (s.setCommitRows x).pairs = s.pairs := by rfl
@[simp] theorem State.setCommitRows_grants (s : State) (x : Half) : (s.setCommitRows x).grants = s.grants := by rfl
@[simp] theorem State.setCommitRows_commitRows (s : State) (x : Half) : (s.setCommitRows x).commitRows = x := by rfl
@[simp] theorem State.setCommitRows_policy (s : State) (x : Half) : (s.setCommitRows x).policy = s.policy := by rfl
@[simp] theorem State.setCommitRows_policyPending (s : State) (x : Half) : (s.setCommitRows x).policyPending = s.policyPending := by rfl
@[simp] theorem State.setCommitRows_winStart (s : State) (x : Half) : (s.setCommitRows x).winStart = s.winStart := by rfl
@[simp] theorem State.setCommitRows_sdlNs (s : State) (x : Half) : (s.setCommitRows x).sdlNs = s.sdlNs := by rfl
@[simp] theorem State.setCommitRows_sdlFrom (s : State) (x : Half) : (s.setCommitRows x).sdlFrom = s.sdlFrom := by rfl
@[simp] theorem State.setCommitRows_refs (s : State) (x : Half) : (s.setCommitRows x).refs = s.refs := by rfl
@[simp] theorem State.setCommitRows_dials (s : State) (x : Half) : (s.setCommitRows x).dials = s.dials := by rfl
@[simp] theorem State.setCommitRows_gens (s : State) (x : Half) : (s.setCommitRows x).gens = s.gens := by rfl
@[simp] theorem State.setCommitRows_ttcs (s : State) (x : Half) : (s.setCommitRows x).ttcs = s.ttcs := by rfl
@[simp] theorem State.setCommitRows_sves (s : State) (x : Half) : (s.setCommitRows x).sves = s.sves := by rfl
@[simp] theorem State.setCommitRows_beds (s : State) (x : Half) : (s.setCommitRows x).beds = s.beds := by rfl
@[simp] theorem State.setCommitRows_ctxs (s : State) (x : Half) : (s.setCommitRows x).ctxs = s.ctxs := by rfl
@[simp] theorem State.setCommitRows_engines (s : State) (x : Half) : (s.setCommitRows x).engines = s.engines := by rfl
@[simp] theorem State.setCommitRows_cycles (s : State) (x : Half) : (s.setCommitRows x).cycles = s.cycles := by rfl
@[simp] theorem State.setCommitRows_furs (s : State) (x : Half) : (s.setCommitRows x).furs = s.furs := by rfl
@[simp] theorem State.setCommitRows_rts (s : State) (x : Half) : (s.setCommitRows x).rts = s.rts := by rfl
@[simp] theorem State.setCommitRows_twn (s : State) (x : Half) : (s.setCommitRows x).twn = s.twn := by rfl
@[simp] theorem State.setCommitRows_qdm (s : State) (x : Half) : (s.setCommitRows x).qdm = s.qdm := by rfl
@[simp] theorem State.setCommitRows_inv (s : State) (x : Half) : (s.setCommitRows x).inv = s.inv := by rfl
@[simp] theorem State.setCommitRows_outbox (s : State) (x : Half) : (s.setCommitRows x).outbox = s.outbox := by rfl
@[simp] theorem State.setCommitRows_sumCycle (s : State) (x : Half) : (s.setCommitRows x).sumCycle = s.sumCycle := by rfl
@[simp] theorem State.setCommitRows_pending (s : State) (x : Half) : (s.setCommitRows x).pending = s.pending := by rfl

@[simp] theorem State.setPolicy_now (s : State) (x : Tab Word) : (s.setPolicy x).now = s.now := by rfl
@[simp] theorem State.setPolicy_free (s : State) (x : Tab Word) : (s.setPolicy x).free = s.free := by rfl
@[simp] theorem State.setPolicy_regs (s : State) (x : Tab Word) : (s.setPolicy x).regs = s.regs := by rfl
@[simp] theorem State.setPolicy_qdr (s : State) (x : Tab Word) : (s.setPolicy x).qdr = s.qdr := by rfl
@[simp] theorem State.setPolicy_flash (s : State) (x : Tab Word) : (s.setPolicy x).flash = s.flash := by rfl
@[simp] theorem State.setPolicy_top (s : State) (x : Tab Word) : (s.setPolicy x).top = s.top := by rfl
@[simp] theorem State.setPolicy_cur (s : State) (x : Tab Word) : (s.setPolicy x).cur = s.cur := by rfl
@[simp] theorem State.setPolicy_mboxes (s : State) (x : Tab Word) : (s.setPolicy x).mboxes = s.mboxes := by rfl
@[simp] theorem State.setPolicy_framers (s : State) (x : Tab Word) : (s.setPolicy x).framers = s.framers := by rfl
@[simp] theorem State.setPolicy_txs (s : State) (x : Tab Word) : (s.setPolicy x).txs = s.txs := by rfl
@[simp] theorem State.setPolicy_active (s : State) (x : Tab Word) : (s.setPolicy x).active = s.active := by rfl
@[simp] theorem State.setPolicy_tribs (s : State) (x : Tab Word) : (s.setPolicy x).tribs = s.tribs := by rfl
@[simp] theorem State.setPolicy_mapOh (s : State) (x : Tab Word) : (s.setPolicy x).mapOh = s.mapOh := by rfl
@[simp] theorem State.setPolicy_sinkHold (s : State) (x : Tab Word) : (s.setPolicy x).sinkHold = s.sinkHold := by rfl
@[simp] theorem State.setPolicy_pairs (s : State) (x : Tab Word) : (s.setPolicy x).pairs = s.pairs := by rfl
@[simp] theorem State.setPolicy_grants (s : State) (x : Tab Word) : (s.setPolicy x).grants = s.grants := by rfl
@[simp] theorem State.setPolicy_commitRows (s : State) (x : Tab Word) : (s.setPolicy x).commitRows = s.commitRows := by rfl
@[simp] theorem State.setPolicy_policy (s : State) (x : Tab Word) : (s.setPolicy x).policy = x := by rfl
@[simp] theorem State.setPolicy_policyPending (s : State) (x : Tab Word) : (s.setPolicy x).policyPending = s.policyPending := by rfl
@[simp] theorem State.setPolicy_winStart (s : State) (x : Tab Word) : (s.setPolicy x).winStart = s.winStart := by rfl
@[simp] theorem State.setPolicy_sdlNs (s : State) (x : Tab Word) : (s.setPolicy x).sdlNs = s.sdlNs := by rfl
@[simp] theorem State.setPolicy_sdlFrom (s : State) (x : Tab Word) : (s.setPolicy x).sdlFrom = s.sdlFrom := by rfl
@[simp] theorem State.setPolicy_refs (s : State) (x : Tab Word) : (s.setPolicy x).refs = s.refs := by rfl
@[simp] theorem State.setPolicy_dials (s : State) (x : Tab Word) : (s.setPolicy x).dials = s.dials := by rfl
@[simp] theorem State.setPolicy_gens (s : State) (x : Tab Word) : (s.setPolicy x).gens = s.gens := by rfl
@[simp] theorem State.setPolicy_ttcs (s : State) (x : Tab Word) : (s.setPolicy x).ttcs = s.ttcs := by rfl
@[simp] theorem State.setPolicy_sves (s : State) (x : Tab Word) : (s.setPolicy x).sves = s.sves := by rfl
@[simp] theorem State.setPolicy_beds (s : State) (x : Tab Word) : (s.setPolicy x).beds = s.beds := by rfl
@[simp] theorem State.setPolicy_ctxs (s : State) (x : Tab Word) : (s.setPolicy x).ctxs = s.ctxs := by rfl
@[simp] theorem State.setPolicy_engines (s : State) (x : Tab Word) : (s.setPolicy x).engines = s.engines := by rfl
@[simp] theorem State.setPolicy_cycles (s : State) (x : Tab Word) : (s.setPolicy x).cycles = s.cycles := by rfl
@[simp] theorem State.setPolicy_furs (s : State) (x : Tab Word) : (s.setPolicy x).furs = s.furs := by rfl
@[simp] theorem State.setPolicy_rts (s : State) (x : Tab Word) : (s.setPolicy x).rts = s.rts := by rfl
@[simp] theorem State.setPolicy_twn (s : State) (x : Tab Word) : (s.setPolicy x).twn = s.twn := by rfl
@[simp] theorem State.setPolicy_qdm (s : State) (x : Tab Word) : (s.setPolicy x).qdm = s.qdm := by rfl
@[simp] theorem State.setPolicy_inv (s : State) (x : Tab Word) : (s.setPolicy x).inv = s.inv := by rfl
@[simp] theorem State.setPolicy_outbox (s : State) (x : Tab Word) : (s.setPolicy x).outbox = s.outbox := by rfl
@[simp] theorem State.setPolicy_sumCycle (s : State) (x : Tab Word) : (s.setPolicy x).sumCycle = s.sumCycle := by rfl
@[simp] theorem State.setPolicy_pending (s : State) (x : Tab Word) : (s.setPolicy x).pending = s.pending := by rfl

@[simp] theorem State.setPolicyPending_now (s : State) (x : List Nat) : (s.setPolicyPending x).now = s.now := by rfl
@[simp] theorem State.setPolicyPending_free (s : State) (x : List Nat) : (s.setPolicyPending x).free = s.free := by rfl
@[simp] theorem State.setPolicyPending_regs (s : State) (x : List Nat) : (s.setPolicyPending x).regs = s.regs := by rfl
@[simp] theorem State.setPolicyPending_qdr (s : State) (x : List Nat) : (s.setPolicyPending x).qdr = s.qdr := by rfl
@[simp] theorem State.setPolicyPending_flash (s : State) (x : List Nat) : (s.setPolicyPending x).flash = s.flash := by rfl
@[simp] theorem State.setPolicyPending_top (s : State) (x : List Nat) : (s.setPolicyPending x).top = s.top := by rfl
@[simp] theorem State.setPolicyPending_cur (s : State) (x : List Nat) : (s.setPolicyPending x).cur = s.cur := by rfl
@[simp] theorem State.setPolicyPending_mboxes (s : State) (x : List Nat) : (s.setPolicyPending x).mboxes = s.mboxes := by rfl
@[simp] theorem State.setPolicyPending_framers (s : State) (x : List Nat) : (s.setPolicyPending x).framers = s.framers := by rfl
@[simp] theorem State.setPolicyPending_txs (s : State) (x : List Nat) : (s.setPolicyPending x).txs = s.txs := by rfl
@[simp] theorem State.setPolicyPending_active (s : State) (x : List Nat) : (s.setPolicyPending x).active = s.active := by rfl
@[simp] theorem State.setPolicyPending_tribs (s : State) (x : List Nat) : (s.setPolicyPending x).tribs = s.tribs := by rfl
@[simp] theorem State.setPolicyPending_mapOh (s : State) (x : List Nat) : (s.setPolicyPending x).mapOh = s.mapOh := by rfl
@[simp] theorem State.setPolicyPending_sinkHold (s : State) (x : List Nat) : (s.setPolicyPending x).sinkHold = s.sinkHold := by rfl
@[simp] theorem State.setPolicyPending_pairs (s : State) (x : List Nat) : (s.setPolicyPending x).pairs = s.pairs := by rfl
@[simp] theorem State.setPolicyPending_grants (s : State) (x : List Nat) : (s.setPolicyPending x).grants = s.grants := by rfl
@[simp] theorem State.setPolicyPending_commitRows (s : State) (x : List Nat) : (s.setPolicyPending x).commitRows = s.commitRows := by rfl
@[simp] theorem State.setPolicyPending_policy (s : State) (x : List Nat) : (s.setPolicyPending x).policy = s.policy := by rfl
@[simp] theorem State.setPolicyPending_policyPending (s : State) (x : List Nat) : (s.setPolicyPending x).policyPending = x := by rfl
@[simp] theorem State.setPolicyPending_winStart (s : State) (x : List Nat) : (s.setPolicyPending x).winStart = s.winStart := by rfl
@[simp] theorem State.setPolicyPending_sdlNs (s : State) (x : List Nat) : (s.setPolicyPending x).sdlNs = s.sdlNs := by rfl
@[simp] theorem State.setPolicyPending_sdlFrom (s : State) (x : List Nat) : (s.setPolicyPending x).sdlFrom = s.sdlFrom := by rfl
@[simp] theorem State.setPolicyPending_refs (s : State) (x : List Nat) : (s.setPolicyPending x).refs = s.refs := by rfl
@[simp] theorem State.setPolicyPending_dials (s : State) (x : List Nat) : (s.setPolicyPending x).dials = s.dials := by rfl
@[simp] theorem State.setPolicyPending_gens (s : State) (x : List Nat) : (s.setPolicyPending x).gens = s.gens := by rfl
@[simp] theorem State.setPolicyPending_ttcs (s : State) (x : List Nat) : (s.setPolicyPending x).ttcs = s.ttcs := by rfl
@[simp] theorem State.setPolicyPending_sves (s : State) (x : List Nat) : (s.setPolicyPending x).sves = s.sves := by rfl
@[simp] theorem State.setPolicyPending_beds (s : State) (x : List Nat) : (s.setPolicyPending x).beds = s.beds := by rfl
@[simp] theorem State.setPolicyPending_ctxs (s : State) (x : List Nat) : (s.setPolicyPending x).ctxs = s.ctxs := by rfl
@[simp] theorem State.setPolicyPending_engines (s : State) (x : List Nat) : (s.setPolicyPending x).engines = s.engines := by rfl
@[simp] theorem State.setPolicyPending_cycles (s : State) (x : List Nat) : (s.setPolicyPending x).cycles = s.cycles := by rfl
@[simp] theorem State.setPolicyPending_furs (s : State) (x : List Nat) : (s.setPolicyPending x).furs = s.furs := by rfl
@[simp] theorem State.setPolicyPending_rts (s : State) (x : List Nat) : (s.setPolicyPending x).rts = s.rts := by rfl
@[simp] theorem State.setPolicyPending_twn (s : State) (x : List Nat) : (s.setPolicyPending x).twn = s.twn := by rfl
@[simp] theorem State.setPolicyPending_qdm (s : State) (x : List Nat) : (s.setPolicyPending x).qdm = s.qdm := by rfl
@[simp] theorem State.setPolicyPending_inv (s : State) (x : List Nat) : (s.setPolicyPending x).inv = s.inv := by rfl
@[simp] theorem State.setPolicyPending_outbox (s : State) (x : List Nat) : (s.setPolicyPending x).outbox = s.outbox := by rfl
@[simp] theorem State.setPolicyPending_sumCycle (s : State) (x : List Nat) : (s.setPolicyPending x).sumCycle = s.sumCycle := by rfl
@[simp] theorem State.setPolicyPending_pending (s : State) (x : List Nat) : (s.setPolicyPending x).pending = s.pending := by rfl

@[simp] theorem State.setWinStart_now (s : State) (x : Nat) : (s.setWinStart x).now = s.now := by rfl
@[simp] theorem State.setWinStart_free (s : State) (x : Nat) : (s.setWinStart x).free = s.free := by rfl
@[simp] theorem State.setWinStart_regs (s : State) (x : Nat) : (s.setWinStart x).regs = s.regs := by rfl
@[simp] theorem State.setWinStart_qdr (s : State) (x : Nat) : (s.setWinStart x).qdr = s.qdr := by rfl
@[simp] theorem State.setWinStart_flash (s : State) (x : Nat) : (s.setWinStart x).flash = s.flash := by rfl
@[simp] theorem State.setWinStart_top (s : State) (x : Nat) : (s.setWinStart x).top = s.top := by rfl
@[simp] theorem State.setWinStart_cur (s : State) (x : Nat) : (s.setWinStart x).cur = s.cur := by rfl
@[simp] theorem State.setWinStart_mboxes (s : State) (x : Nat) : (s.setWinStart x).mboxes = s.mboxes := by rfl
@[simp] theorem State.setWinStart_framers (s : State) (x : Nat) : (s.setWinStart x).framers = s.framers := by rfl
@[simp] theorem State.setWinStart_txs (s : State) (x : Nat) : (s.setWinStart x).txs = s.txs := by rfl
@[simp] theorem State.setWinStart_active (s : State) (x : Nat) : (s.setWinStart x).active = s.active := by rfl
@[simp] theorem State.setWinStart_tribs (s : State) (x : Nat) : (s.setWinStart x).tribs = s.tribs := by rfl
@[simp] theorem State.setWinStart_mapOh (s : State) (x : Nat) : (s.setWinStart x).mapOh = s.mapOh := by rfl
@[simp] theorem State.setWinStart_sinkHold (s : State) (x : Nat) : (s.setWinStart x).sinkHold = s.sinkHold := by rfl
@[simp] theorem State.setWinStart_pairs (s : State) (x : Nat) : (s.setWinStart x).pairs = s.pairs := by rfl
@[simp] theorem State.setWinStart_grants (s : State) (x : Nat) : (s.setWinStart x).grants = s.grants := by rfl
@[simp] theorem State.setWinStart_commitRows (s : State) (x : Nat) : (s.setWinStart x).commitRows = s.commitRows := by rfl
@[simp] theorem State.setWinStart_policy (s : State) (x : Nat) : (s.setWinStart x).policy = s.policy := by rfl
@[simp] theorem State.setWinStart_policyPending (s : State) (x : Nat) : (s.setWinStart x).policyPending = s.policyPending := by rfl
@[simp] theorem State.setWinStart_winStart (s : State) (x : Nat) : (s.setWinStart x).winStart = x := by rfl
@[simp] theorem State.setWinStart_sdlNs (s : State) (x : Nat) : (s.setWinStart x).sdlNs = s.sdlNs := by rfl
@[simp] theorem State.setWinStart_sdlFrom (s : State) (x : Nat) : (s.setWinStart x).sdlFrom = s.sdlFrom := by rfl
@[simp] theorem State.setWinStart_refs (s : State) (x : Nat) : (s.setWinStart x).refs = s.refs := by rfl
@[simp] theorem State.setWinStart_dials (s : State) (x : Nat) : (s.setWinStart x).dials = s.dials := by rfl
@[simp] theorem State.setWinStart_gens (s : State) (x : Nat) : (s.setWinStart x).gens = s.gens := by rfl
@[simp] theorem State.setWinStart_ttcs (s : State) (x : Nat) : (s.setWinStart x).ttcs = s.ttcs := by rfl
@[simp] theorem State.setWinStart_sves (s : State) (x : Nat) : (s.setWinStart x).sves = s.sves := by rfl
@[simp] theorem State.setWinStart_beds (s : State) (x : Nat) : (s.setWinStart x).beds = s.beds := by rfl
@[simp] theorem State.setWinStart_ctxs (s : State) (x : Nat) : (s.setWinStart x).ctxs = s.ctxs := by rfl
@[simp] theorem State.setWinStart_engines (s : State) (x : Nat) : (s.setWinStart x).engines = s.engines := by rfl
@[simp] theorem State.setWinStart_cycles (s : State) (x : Nat) : (s.setWinStart x).cycles = s.cycles := by rfl
@[simp] theorem State.setWinStart_furs (s : State) (x : Nat) : (s.setWinStart x).furs = s.furs := by rfl
@[simp] theorem State.setWinStart_rts (s : State) (x : Nat) : (s.setWinStart x).rts = s.rts := by rfl
@[simp] theorem State.setWinStart_twn (s : State) (x : Nat) : (s.setWinStart x).twn = s.twn := by rfl
@[simp] theorem State.setWinStart_qdm (s : State) (x : Nat) : (s.setWinStart x).qdm = s.qdm := by rfl
@[simp] theorem State.setWinStart_inv (s : State) (x : Nat) : (s.setWinStart x).inv = s.inv := by rfl
@[simp] theorem State.setWinStart_outbox (s : State) (x : Nat) : (s.setWinStart x).outbox = s.outbox := by rfl
@[simp] theorem State.setWinStart_sumCycle (s : State) (x : Nat) : (s.setWinStart x).sumCycle = s.sumCycle := by rfl
@[simp] theorem State.setWinStart_pending (s : State) (x : Nat) : (s.setWinStart x).pending = s.pending := by rfl

@[simp] theorem State.setSdl_now (s : State) (ns f : Nat) : (s.setSdl ns f).now = s.now := by rfl
@[simp] theorem State.setSdl_free (s : State) (ns f : Nat) : (s.setSdl ns f).free = s.free := by rfl
@[simp] theorem State.setSdl_regs (s : State) (ns f : Nat) : (s.setSdl ns f).regs = s.regs := by rfl
@[simp] theorem State.setSdl_qdr (s : State) (ns f : Nat) : (s.setSdl ns f).qdr = s.qdr := by rfl
@[simp] theorem State.setSdl_flash (s : State) (ns f : Nat) : (s.setSdl ns f).flash = s.flash := by rfl
@[simp] theorem State.setSdl_top (s : State) (ns f : Nat) : (s.setSdl ns f).top = s.top := by rfl
@[simp] theorem State.setSdl_cur (s : State) (ns f : Nat) : (s.setSdl ns f).cur = s.cur := by rfl
@[simp] theorem State.setSdl_mboxes (s : State) (ns f : Nat) : (s.setSdl ns f).mboxes = s.mboxes := by rfl
@[simp] theorem State.setSdl_framers (s : State) (ns f : Nat) : (s.setSdl ns f).framers = s.framers := by rfl
@[simp] theorem State.setSdl_txs (s : State) (ns f : Nat) : (s.setSdl ns f).txs = s.txs := by rfl
@[simp] theorem State.setSdl_active (s : State) (ns f : Nat) : (s.setSdl ns f).active = s.active := by rfl
@[simp] theorem State.setSdl_tribs (s : State) (ns f : Nat) : (s.setSdl ns f).tribs = s.tribs := by rfl
@[simp] theorem State.setSdl_mapOh (s : State) (ns f : Nat) : (s.setSdl ns f).mapOh = s.mapOh := by rfl
@[simp] theorem State.setSdl_sinkHold (s : State) (ns f : Nat) : (s.setSdl ns f).sinkHold = s.sinkHold := by rfl
@[simp] theorem State.setSdl_pairs (s : State) (ns f : Nat) : (s.setSdl ns f).pairs = s.pairs := by rfl
@[simp] theorem State.setSdl_grants (s : State) (ns f : Nat) : (s.setSdl ns f).grants = s.grants := by rfl
@[simp] theorem State.setSdl_commitRows (s : State) (ns f : Nat) : (s.setSdl ns f).commitRows = s.commitRows := by rfl
@[simp] theorem State.setSdl_policy (s : State) (ns f : Nat) : (s.setSdl ns f).policy = s.policy := by rfl
@[simp] theorem State.setSdl_policyPending (s : State) (ns f : Nat) : (s.setSdl ns f).policyPending = s.policyPending := by rfl
@[simp] theorem State.setSdl_winStart (s : State) (ns f : Nat) : (s.setSdl ns f).winStart = s.winStart := by rfl
@[simp] theorem State.setSdl_sdlNs (s : State) (ns f : Nat) : (s.setSdl ns f).sdlNs = ns := by rfl
@[simp] theorem State.setSdl_sdlFrom (s : State) (ns f : Nat) : (s.setSdl ns f).sdlFrom = f := by rfl
@[simp] theorem State.setSdl_refs (s : State) (ns f : Nat) : (s.setSdl ns f).refs = s.refs := by rfl
@[simp] theorem State.setSdl_dials (s : State) (ns f : Nat) : (s.setSdl ns f).dials = s.dials := by rfl
@[simp] theorem State.setSdl_gens (s : State) (ns f : Nat) : (s.setSdl ns f).gens = s.gens := by rfl
@[simp] theorem State.setSdl_ttcs (s : State) (ns f : Nat) : (s.setSdl ns f).ttcs = s.ttcs := by rfl
@[simp] theorem State.setSdl_sves (s : State) (ns f : Nat) : (s.setSdl ns f).sves = s.sves := by rfl
@[simp] theorem State.setSdl_beds (s : State) (ns f : Nat) : (s.setSdl ns f).beds = s.beds := by rfl
@[simp] theorem State.setSdl_ctxs (s : State) (ns f : Nat) : (s.setSdl ns f).ctxs = s.ctxs := by rfl
@[simp] theorem State.setSdl_engines (s : State) (ns f : Nat) : (s.setSdl ns f).engines = s.engines := by rfl
@[simp] theorem State.setSdl_cycles (s : State) (ns f : Nat) : (s.setSdl ns f).cycles = s.cycles := by rfl
@[simp] theorem State.setSdl_furs (s : State) (ns f : Nat) : (s.setSdl ns f).furs = s.furs := by rfl
@[simp] theorem State.setSdl_rts (s : State) (ns f : Nat) : (s.setSdl ns f).rts = s.rts := by rfl
@[simp] theorem State.setSdl_twn (s : State) (ns f : Nat) : (s.setSdl ns f).twn = s.twn := by rfl
@[simp] theorem State.setSdl_qdm (s : State) (ns f : Nat) : (s.setSdl ns f).qdm = s.qdm := by rfl
@[simp] theorem State.setSdl_inv (s : State) (ns f : Nat) : (s.setSdl ns f).inv = s.inv := by rfl
@[simp] theorem State.setSdl_outbox (s : State) (ns f : Nat) : (s.setSdl ns f).outbox = s.outbox := by rfl
@[simp] theorem State.setSdl_sumCycle (s : State) (ns f : Nat) : (s.setSdl ns f).sumCycle = s.sumCycle := by rfl
@[simp] theorem State.setSdl_pending (s : State) (ns f : Nat) : (s.setSdl ns f).pending = s.pending := by rfl

@[simp] theorem State.setRefs_now (s : State) (x : Tab Ref) : (s.setRefs x).now = s.now := by rfl
@[simp] theorem State.setRefs_free (s : State) (x : Tab Ref) : (s.setRefs x).free = s.free := by rfl
@[simp] theorem State.setRefs_regs (s : State) (x : Tab Ref) : (s.setRefs x).regs = s.regs := by rfl
@[simp] theorem State.setRefs_qdr (s : State) (x : Tab Ref) : (s.setRefs x).qdr = s.qdr := by rfl
@[simp] theorem State.setRefs_flash (s : State) (x : Tab Ref) : (s.setRefs x).flash = s.flash := by rfl
@[simp] theorem State.setRefs_top (s : State) (x : Tab Ref) : (s.setRefs x).top = s.top := by rfl
@[simp] theorem State.setRefs_cur (s : State) (x : Tab Ref) : (s.setRefs x).cur = s.cur := by rfl
@[simp] theorem State.setRefs_mboxes (s : State) (x : Tab Ref) : (s.setRefs x).mboxes = s.mboxes := by rfl
@[simp] theorem State.setRefs_framers (s : State) (x : Tab Ref) : (s.setRefs x).framers = s.framers := by rfl
@[simp] theorem State.setRefs_txs (s : State) (x : Tab Ref) : (s.setRefs x).txs = s.txs := by rfl
@[simp] theorem State.setRefs_active (s : State) (x : Tab Ref) : (s.setRefs x).active = s.active := by rfl
@[simp] theorem State.setRefs_tribs (s : State) (x : Tab Ref) : (s.setRefs x).tribs = s.tribs := by rfl
@[simp] theorem State.setRefs_mapOh (s : State) (x : Tab Ref) : (s.setRefs x).mapOh = s.mapOh := by rfl
@[simp] theorem State.setRefs_sinkHold (s : State) (x : Tab Ref) : (s.setRefs x).sinkHold = s.sinkHold := by rfl
@[simp] theorem State.setRefs_pairs (s : State) (x : Tab Ref) : (s.setRefs x).pairs = s.pairs := by rfl
@[simp] theorem State.setRefs_grants (s : State) (x : Tab Ref) : (s.setRefs x).grants = s.grants := by rfl
@[simp] theorem State.setRefs_commitRows (s : State) (x : Tab Ref) : (s.setRefs x).commitRows = s.commitRows := by rfl
@[simp] theorem State.setRefs_policy (s : State) (x : Tab Ref) : (s.setRefs x).policy = s.policy := by rfl
@[simp] theorem State.setRefs_policyPending (s : State) (x : Tab Ref) : (s.setRefs x).policyPending = s.policyPending := by rfl
@[simp] theorem State.setRefs_winStart (s : State) (x : Tab Ref) : (s.setRefs x).winStart = s.winStart := by rfl
@[simp] theorem State.setRefs_sdlNs (s : State) (x : Tab Ref) : (s.setRefs x).sdlNs = s.sdlNs := by rfl
@[simp] theorem State.setRefs_sdlFrom (s : State) (x : Tab Ref) : (s.setRefs x).sdlFrom = s.sdlFrom := by rfl
@[simp] theorem State.setRefs_refs (s : State) (x : Tab Ref) : (s.setRefs x).refs = x := by rfl
@[simp] theorem State.setRefs_dials (s : State) (x : Tab Ref) : (s.setRefs x).dials = s.dials := by rfl
@[simp] theorem State.setRefs_gens (s : State) (x : Tab Ref) : (s.setRefs x).gens = s.gens := by rfl
@[simp] theorem State.setRefs_ttcs (s : State) (x : Tab Ref) : (s.setRefs x).ttcs = s.ttcs := by rfl
@[simp] theorem State.setRefs_sves (s : State) (x : Tab Ref) : (s.setRefs x).sves = s.sves := by rfl
@[simp] theorem State.setRefs_beds (s : State) (x : Tab Ref) : (s.setRefs x).beds = s.beds := by rfl
@[simp] theorem State.setRefs_ctxs (s : State) (x : Tab Ref) : (s.setRefs x).ctxs = s.ctxs := by rfl
@[simp] theorem State.setRefs_engines (s : State) (x : Tab Ref) : (s.setRefs x).engines = s.engines := by rfl
@[simp] theorem State.setRefs_cycles (s : State) (x : Tab Ref) : (s.setRefs x).cycles = s.cycles := by rfl
@[simp] theorem State.setRefs_furs (s : State) (x : Tab Ref) : (s.setRefs x).furs = s.furs := by rfl
@[simp] theorem State.setRefs_rts (s : State) (x : Tab Ref) : (s.setRefs x).rts = s.rts := by rfl
@[simp] theorem State.setRefs_twn (s : State) (x : Tab Ref) : (s.setRefs x).twn = s.twn := by rfl
@[simp] theorem State.setRefs_qdm (s : State) (x : Tab Ref) : (s.setRefs x).qdm = s.qdm := by rfl
@[simp] theorem State.setRefs_inv (s : State) (x : Tab Ref) : (s.setRefs x).inv = s.inv := by rfl
@[simp] theorem State.setRefs_outbox (s : State) (x : Tab Ref) : (s.setRefs x).outbox = s.outbox := by rfl
@[simp] theorem State.setRefs_sumCycle (s : State) (x : Tab Ref) : (s.setRefs x).sumCycle = s.sumCycle := by rfl
@[simp] theorem State.setRefs_pending (s : State) (x : Tab Ref) : (s.setRefs x).pending = s.pending := by rfl

@[simp] theorem State.setDials_now (s : State) (x : Tab Dial) : (s.setDials x).now = s.now := by rfl
@[simp] theorem State.setDials_free (s : State) (x : Tab Dial) : (s.setDials x).free = s.free := by rfl
@[simp] theorem State.setDials_regs (s : State) (x : Tab Dial) : (s.setDials x).regs = s.regs := by rfl
@[simp] theorem State.setDials_qdr (s : State) (x : Tab Dial) : (s.setDials x).qdr = s.qdr := by rfl
@[simp] theorem State.setDials_flash (s : State) (x : Tab Dial) : (s.setDials x).flash = s.flash := by rfl
@[simp] theorem State.setDials_top (s : State) (x : Tab Dial) : (s.setDials x).top = s.top := by rfl
@[simp] theorem State.setDials_cur (s : State) (x : Tab Dial) : (s.setDials x).cur = s.cur := by rfl
@[simp] theorem State.setDials_mboxes (s : State) (x : Tab Dial) : (s.setDials x).mboxes = s.mboxes := by rfl
@[simp] theorem State.setDials_framers (s : State) (x : Tab Dial) : (s.setDials x).framers = s.framers := by rfl
@[simp] theorem State.setDials_txs (s : State) (x : Tab Dial) : (s.setDials x).txs = s.txs := by rfl
@[simp] theorem State.setDials_active (s : State) (x : Tab Dial) : (s.setDials x).active = s.active := by rfl
@[simp] theorem State.setDials_tribs (s : State) (x : Tab Dial) : (s.setDials x).tribs = s.tribs := by rfl
@[simp] theorem State.setDials_mapOh (s : State) (x : Tab Dial) : (s.setDials x).mapOh = s.mapOh := by rfl
@[simp] theorem State.setDials_sinkHold (s : State) (x : Tab Dial) : (s.setDials x).sinkHold = s.sinkHold := by rfl
@[simp] theorem State.setDials_pairs (s : State) (x : Tab Dial) : (s.setDials x).pairs = s.pairs := by rfl
@[simp] theorem State.setDials_grants (s : State) (x : Tab Dial) : (s.setDials x).grants = s.grants := by rfl
@[simp] theorem State.setDials_commitRows (s : State) (x : Tab Dial) : (s.setDials x).commitRows = s.commitRows := by rfl
@[simp] theorem State.setDials_policy (s : State) (x : Tab Dial) : (s.setDials x).policy = s.policy := by rfl
@[simp] theorem State.setDials_policyPending (s : State) (x : Tab Dial) : (s.setDials x).policyPending = s.policyPending := by rfl
@[simp] theorem State.setDials_winStart (s : State) (x : Tab Dial) : (s.setDials x).winStart = s.winStart := by rfl
@[simp] theorem State.setDials_sdlNs (s : State) (x : Tab Dial) : (s.setDials x).sdlNs = s.sdlNs := by rfl
@[simp] theorem State.setDials_sdlFrom (s : State) (x : Tab Dial) : (s.setDials x).sdlFrom = s.sdlFrom := by rfl
@[simp] theorem State.setDials_refs (s : State) (x : Tab Dial) : (s.setDials x).refs = s.refs := by rfl
@[simp] theorem State.setDials_dials (s : State) (x : Tab Dial) : (s.setDials x).dials = x := by rfl
@[simp] theorem State.setDials_gens (s : State) (x : Tab Dial) : (s.setDials x).gens = s.gens := by rfl
@[simp] theorem State.setDials_ttcs (s : State) (x : Tab Dial) : (s.setDials x).ttcs = s.ttcs := by rfl
@[simp] theorem State.setDials_sves (s : State) (x : Tab Dial) : (s.setDials x).sves = s.sves := by rfl
@[simp] theorem State.setDials_beds (s : State) (x : Tab Dial) : (s.setDials x).beds = s.beds := by rfl
@[simp] theorem State.setDials_ctxs (s : State) (x : Tab Dial) : (s.setDials x).ctxs = s.ctxs := by rfl
@[simp] theorem State.setDials_engines (s : State) (x : Tab Dial) : (s.setDials x).engines = s.engines := by rfl
@[simp] theorem State.setDials_cycles (s : State) (x : Tab Dial) : (s.setDials x).cycles = s.cycles := by rfl
@[simp] theorem State.setDials_furs (s : State) (x : Tab Dial) : (s.setDials x).furs = s.furs := by rfl
@[simp] theorem State.setDials_rts (s : State) (x : Tab Dial) : (s.setDials x).rts = s.rts := by rfl
@[simp] theorem State.setDials_twn (s : State) (x : Tab Dial) : (s.setDials x).twn = s.twn := by rfl
@[simp] theorem State.setDials_qdm (s : State) (x : Tab Dial) : (s.setDials x).qdm = s.qdm := by rfl
@[simp] theorem State.setDials_inv (s : State) (x : Tab Dial) : (s.setDials x).inv = s.inv := by rfl
@[simp] theorem State.setDials_outbox (s : State) (x : Tab Dial) : (s.setDials x).outbox = s.outbox := by rfl
@[simp] theorem State.setDials_sumCycle (s : State) (x : Tab Dial) : (s.setDials x).sumCycle = s.sumCycle := by rfl
@[simp] theorem State.setDials_pending (s : State) (x : Tab Dial) : (s.setDials x).pending = s.pending := by rfl

@[simp] theorem State.setGens_now (s : State) (x : Tab Gen) : (s.setGens x).now = s.now := by rfl
@[simp] theorem State.setGens_free (s : State) (x : Tab Gen) : (s.setGens x).free = s.free := by rfl
@[simp] theorem State.setGens_regs (s : State) (x : Tab Gen) : (s.setGens x).regs = s.regs := by rfl
@[simp] theorem State.setGens_qdr (s : State) (x : Tab Gen) : (s.setGens x).qdr = s.qdr := by rfl
@[simp] theorem State.setGens_flash (s : State) (x : Tab Gen) : (s.setGens x).flash = s.flash := by rfl
@[simp] theorem State.setGens_top (s : State) (x : Tab Gen) : (s.setGens x).top = s.top := by rfl
@[simp] theorem State.setGens_cur (s : State) (x : Tab Gen) : (s.setGens x).cur = s.cur := by rfl
@[simp] theorem State.setGens_mboxes (s : State) (x : Tab Gen) : (s.setGens x).mboxes = s.mboxes := by rfl
@[simp] theorem State.setGens_framers (s : State) (x : Tab Gen) : (s.setGens x).framers = s.framers := by rfl
@[simp] theorem State.setGens_txs (s : State) (x : Tab Gen) : (s.setGens x).txs = s.txs := by rfl
@[simp] theorem State.setGens_active (s : State) (x : Tab Gen) : (s.setGens x).active = s.active := by rfl
@[simp] theorem State.setGens_tribs (s : State) (x : Tab Gen) : (s.setGens x).tribs = s.tribs := by rfl
@[simp] theorem State.setGens_mapOh (s : State) (x : Tab Gen) : (s.setGens x).mapOh = s.mapOh := by rfl
@[simp] theorem State.setGens_sinkHold (s : State) (x : Tab Gen) : (s.setGens x).sinkHold = s.sinkHold := by rfl
@[simp] theorem State.setGens_pairs (s : State) (x : Tab Gen) : (s.setGens x).pairs = s.pairs := by rfl
@[simp] theorem State.setGens_grants (s : State) (x : Tab Gen) : (s.setGens x).grants = s.grants := by rfl
@[simp] theorem State.setGens_commitRows (s : State) (x : Tab Gen) : (s.setGens x).commitRows = s.commitRows := by rfl
@[simp] theorem State.setGens_policy (s : State) (x : Tab Gen) : (s.setGens x).policy = s.policy := by rfl
@[simp] theorem State.setGens_policyPending (s : State) (x : Tab Gen) : (s.setGens x).policyPending = s.policyPending := by rfl
@[simp] theorem State.setGens_winStart (s : State) (x : Tab Gen) : (s.setGens x).winStart = s.winStart := by rfl
@[simp] theorem State.setGens_sdlNs (s : State) (x : Tab Gen) : (s.setGens x).sdlNs = s.sdlNs := by rfl
@[simp] theorem State.setGens_sdlFrom (s : State) (x : Tab Gen) : (s.setGens x).sdlFrom = s.sdlFrom := by rfl
@[simp] theorem State.setGens_refs (s : State) (x : Tab Gen) : (s.setGens x).refs = s.refs := by rfl
@[simp] theorem State.setGens_dials (s : State) (x : Tab Gen) : (s.setGens x).dials = s.dials := by rfl
@[simp] theorem State.setGens_gens (s : State) (x : Tab Gen) : (s.setGens x).gens = x := by rfl
@[simp] theorem State.setGens_ttcs (s : State) (x : Tab Gen) : (s.setGens x).ttcs = s.ttcs := by rfl
@[simp] theorem State.setGens_sves (s : State) (x : Tab Gen) : (s.setGens x).sves = s.sves := by rfl
@[simp] theorem State.setGens_beds (s : State) (x : Tab Gen) : (s.setGens x).beds = s.beds := by rfl
@[simp] theorem State.setGens_ctxs (s : State) (x : Tab Gen) : (s.setGens x).ctxs = s.ctxs := by rfl
@[simp] theorem State.setGens_engines (s : State) (x : Tab Gen) : (s.setGens x).engines = s.engines := by rfl
@[simp] theorem State.setGens_cycles (s : State) (x : Tab Gen) : (s.setGens x).cycles = s.cycles := by rfl
@[simp] theorem State.setGens_furs (s : State) (x : Tab Gen) : (s.setGens x).furs = s.furs := by rfl
@[simp] theorem State.setGens_rts (s : State) (x : Tab Gen) : (s.setGens x).rts = s.rts := by rfl
@[simp] theorem State.setGens_twn (s : State) (x : Tab Gen) : (s.setGens x).twn = s.twn := by rfl
@[simp] theorem State.setGens_qdm (s : State) (x : Tab Gen) : (s.setGens x).qdm = s.qdm := by rfl
@[simp] theorem State.setGens_inv (s : State) (x : Tab Gen) : (s.setGens x).inv = s.inv := by rfl
@[simp] theorem State.setGens_outbox (s : State) (x : Tab Gen) : (s.setGens x).outbox = s.outbox := by rfl
@[simp] theorem State.setGens_sumCycle (s : State) (x : Tab Gen) : (s.setGens x).sumCycle = s.sumCycle := by rfl
@[simp] theorem State.setGens_pending (s : State) (x : Tab Gen) : (s.setGens x).pending = s.pending := by rfl

@[simp] theorem State.setTtcs_now (s : State) (x : Tab Ttc) : (s.setTtcs x).now = s.now := by rfl
@[simp] theorem State.setTtcs_free (s : State) (x : Tab Ttc) : (s.setTtcs x).free = s.free := by rfl
@[simp] theorem State.setTtcs_regs (s : State) (x : Tab Ttc) : (s.setTtcs x).regs = s.regs := by rfl
@[simp] theorem State.setTtcs_qdr (s : State) (x : Tab Ttc) : (s.setTtcs x).qdr = s.qdr := by rfl
@[simp] theorem State.setTtcs_flash (s : State) (x : Tab Ttc) : (s.setTtcs x).flash = s.flash := by rfl
@[simp] theorem State.setTtcs_top (s : State) (x : Tab Ttc) : (s.setTtcs x).top = s.top := by rfl
@[simp] theorem State.setTtcs_cur (s : State) (x : Tab Ttc) : (s.setTtcs x).cur = s.cur := by rfl
@[simp] theorem State.setTtcs_mboxes (s : State) (x : Tab Ttc) : (s.setTtcs x).mboxes = s.mboxes := by rfl
@[simp] theorem State.setTtcs_framers (s : State) (x : Tab Ttc) : (s.setTtcs x).framers = s.framers := by rfl
@[simp] theorem State.setTtcs_txs (s : State) (x : Tab Ttc) : (s.setTtcs x).txs = s.txs := by rfl
@[simp] theorem State.setTtcs_active (s : State) (x : Tab Ttc) : (s.setTtcs x).active = s.active := by rfl
@[simp] theorem State.setTtcs_tribs (s : State) (x : Tab Ttc) : (s.setTtcs x).tribs = s.tribs := by rfl
@[simp] theorem State.setTtcs_mapOh (s : State) (x : Tab Ttc) : (s.setTtcs x).mapOh = s.mapOh := by rfl
@[simp] theorem State.setTtcs_sinkHold (s : State) (x : Tab Ttc) : (s.setTtcs x).sinkHold = s.sinkHold := by rfl
@[simp] theorem State.setTtcs_pairs (s : State) (x : Tab Ttc) : (s.setTtcs x).pairs = s.pairs := by rfl
@[simp] theorem State.setTtcs_grants (s : State) (x : Tab Ttc) : (s.setTtcs x).grants = s.grants := by rfl
@[simp] theorem State.setTtcs_commitRows (s : State) (x : Tab Ttc) : (s.setTtcs x).commitRows = s.commitRows := by rfl
@[simp] theorem State.setTtcs_policy (s : State) (x : Tab Ttc) : (s.setTtcs x).policy = s.policy := by rfl
@[simp] theorem State.setTtcs_policyPending (s : State) (x : Tab Ttc) : (s.setTtcs x).policyPending = s.policyPending := by rfl
@[simp] theorem State.setTtcs_winStart (s : State) (x : Tab Ttc) : (s.setTtcs x).winStart = s.winStart := by rfl
@[simp] theorem State.setTtcs_sdlNs (s : State) (x : Tab Ttc) : (s.setTtcs x).sdlNs = s.sdlNs := by rfl
@[simp] theorem State.setTtcs_sdlFrom (s : State) (x : Tab Ttc) : (s.setTtcs x).sdlFrom = s.sdlFrom := by rfl
@[simp] theorem State.setTtcs_refs (s : State) (x : Tab Ttc) : (s.setTtcs x).refs = s.refs := by rfl
@[simp] theorem State.setTtcs_dials (s : State) (x : Tab Ttc) : (s.setTtcs x).dials = s.dials := by rfl
@[simp] theorem State.setTtcs_gens (s : State) (x : Tab Ttc) : (s.setTtcs x).gens = s.gens := by rfl
@[simp] theorem State.setTtcs_ttcs (s : State) (x : Tab Ttc) : (s.setTtcs x).ttcs = x := by rfl
@[simp] theorem State.setTtcs_sves (s : State) (x : Tab Ttc) : (s.setTtcs x).sves = s.sves := by rfl
@[simp] theorem State.setTtcs_beds (s : State) (x : Tab Ttc) : (s.setTtcs x).beds = s.beds := by rfl
@[simp] theorem State.setTtcs_ctxs (s : State) (x : Tab Ttc) : (s.setTtcs x).ctxs = s.ctxs := by rfl
@[simp] theorem State.setTtcs_engines (s : State) (x : Tab Ttc) : (s.setTtcs x).engines = s.engines := by rfl
@[simp] theorem State.setTtcs_cycles (s : State) (x : Tab Ttc) : (s.setTtcs x).cycles = s.cycles := by rfl
@[simp] theorem State.setTtcs_furs (s : State) (x : Tab Ttc) : (s.setTtcs x).furs = s.furs := by rfl
@[simp] theorem State.setTtcs_rts (s : State) (x : Tab Ttc) : (s.setTtcs x).rts = s.rts := by rfl
@[simp] theorem State.setTtcs_twn (s : State) (x : Tab Ttc) : (s.setTtcs x).twn = s.twn := by rfl
@[simp] theorem State.setTtcs_qdm (s : State) (x : Tab Ttc) : (s.setTtcs x).qdm = s.qdm := by rfl
@[simp] theorem State.setTtcs_inv (s : State) (x : Tab Ttc) : (s.setTtcs x).inv = s.inv := by rfl
@[simp] theorem State.setTtcs_outbox (s : State) (x : Tab Ttc) : (s.setTtcs x).outbox = s.outbox := by rfl
@[simp] theorem State.setTtcs_sumCycle (s : State) (x : Tab Ttc) : (s.setTtcs x).sumCycle = s.sumCycle := by rfl
@[simp] theorem State.setTtcs_pending (s : State) (x : Tab Ttc) : (s.setTtcs x).pending = s.pending := by rfl

@[simp] theorem State.setSves_now (s : State) (x : Tab Sve) : (s.setSves x).now = s.now := by rfl
@[simp] theorem State.setSves_free (s : State) (x : Tab Sve) : (s.setSves x).free = s.free := by rfl
@[simp] theorem State.setSves_regs (s : State) (x : Tab Sve) : (s.setSves x).regs = s.regs := by rfl
@[simp] theorem State.setSves_qdr (s : State) (x : Tab Sve) : (s.setSves x).qdr = s.qdr := by rfl
@[simp] theorem State.setSves_flash (s : State) (x : Tab Sve) : (s.setSves x).flash = s.flash := by rfl
@[simp] theorem State.setSves_top (s : State) (x : Tab Sve) : (s.setSves x).top = s.top := by rfl
@[simp] theorem State.setSves_cur (s : State) (x : Tab Sve) : (s.setSves x).cur = s.cur := by rfl
@[simp] theorem State.setSves_mboxes (s : State) (x : Tab Sve) : (s.setSves x).mboxes = s.mboxes := by rfl
@[simp] theorem State.setSves_framers (s : State) (x : Tab Sve) : (s.setSves x).framers = s.framers := by rfl
@[simp] theorem State.setSves_txs (s : State) (x : Tab Sve) : (s.setSves x).txs = s.txs := by rfl
@[simp] theorem State.setSves_active (s : State) (x : Tab Sve) : (s.setSves x).active = s.active := by rfl
@[simp] theorem State.setSves_tribs (s : State) (x : Tab Sve) : (s.setSves x).tribs = s.tribs := by rfl
@[simp] theorem State.setSves_mapOh (s : State) (x : Tab Sve) : (s.setSves x).mapOh = s.mapOh := by rfl
@[simp] theorem State.setSves_sinkHold (s : State) (x : Tab Sve) : (s.setSves x).sinkHold = s.sinkHold := by rfl
@[simp] theorem State.setSves_pairs (s : State) (x : Tab Sve) : (s.setSves x).pairs = s.pairs := by rfl
@[simp] theorem State.setSves_grants (s : State) (x : Tab Sve) : (s.setSves x).grants = s.grants := by rfl
@[simp] theorem State.setSves_commitRows (s : State) (x : Tab Sve) : (s.setSves x).commitRows = s.commitRows := by rfl
@[simp] theorem State.setSves_policy (s : State) (x : Tab Sve) : (s.setSves x).policy = s.policy := by rfl
@[simp] theorem State.setSves_policyPending (s : State) (x : Tab Sve) : (s.setSves x).policyPending = s.policyPending := by rfl
@[simp] theorem State.setSves_winStart (s : State) (x : Tab Sve) : (s.setSves x).winStart = s.winStart := by rfl
@[simp] theorem State.setSves_sdlNs (s : State) (x : Tab Sve) : (s.setSves x).sdlNs = s.sdlNs := by rfl
@[simp] theorem State.setSves_sdlFrom (s : State) (x : Tab Sve) : (s.setSves x).sdlFrom = s.sdlFrom := by rfl
@[simp] theorem State.setSves_refs (s : State) (x : Tab Sve) : (s.setSves x).refs = s.refs := by rfl
@[simp] theorem State.setSves_dials (s : State) (x : Tab Sve) : (s.setSves x).dials = s.dials := by rfl
@[simp] theorem State.setSves_gens (s : State) (x : Tab Sve) : (s.setSves x).gens = s.gens := by rfl
@[simp] theorem State.setSves_ttcs (s : State) (x : Tab Sve) : (s.setSves x).ttcs = s.ttcs := by rfl
@[simp] theorem State.setSves_sves (s : State) (x : Tab Sve) : (s.setSves x).sves = x := by rfl
@[simp] theorem State.setSves_beds (s : State) (x : Tab Sve) : (s.setSves x).beds = s.beds := by rfl
@[simp] theorem State.setSves_ctxs (s : State) (x : Tab Sve) : (s.setSves x).ctxs = s.ctxs := by rfl
@[simp] theorem State.setSves_engines (s : State) (x : Tab Sve) : (s.setSves x).engines = s.engines := by rfl
@[simp] theorem State.setSves_cycles (s : State) (x : Tab Sve) : (s.setSves x).cycles = s.cycles := by rfl
@[simp] theorem State.setSves_furs (s : State) (x : Tab Sve) : (s.setSves x).furs = s.furs := by rfl
@[simp] theorem State.setSves_rts (s : State) (x : Tab Sve) : (s.setSves x).rts = s.rts := by rfl
@[simp] theorem State.setSves_twn (s : State) (x : Tab Sve) : (s.setSves x).twn = s.twn := by rfl
@[simp] theorem State.setSves_qdm (s : State) (x : Tab Sve) : (s.setSves x).qdm = s.qdm := by rfl
@[simp] theorem State.setSves_inv (s : State) (x : Tab Sve) : (s.setSves x).inv = s.inv := by rfl
@[simp] theorem State.setSves_outbox (s : State) (x : Tab Sve) : (s.setSves x).outbox = s.outbox := by rfl
@[simp] theorem State.setSves_sumCycle (s : State) (x : Tab Sve) : (s.setSves x).sumCycle = s.sumCycle := by rfl
@[simp] theorem State.setSves_pending (s : State) (x : Tab Sve) : (s.setSves x).pending = s.pending := by rfl

@[simp] theorem State.setBeds_now (s : State) (x : Tab Bed) : (s.setBeds x).now = s.now := by rfl
@[simp] theorem State.setBeds_free (s : State) (x : Tab Bed) : (s.setBeds x).free = s.free := by rfl
@[simp] theorem State.setBeds_regs (s : State) (x : Tab Bed) : (s.setBeds x).regs = s.regs := by rfl
@[simp] theorem State.setBeds_qdr (s : State) (x : Tab Bed) : (s.setBeds x).qdr = s.qdr := by rfl
@[simp] theorem State.setBeds_flash (s : State) (x : Tab Bed) : (s.setBeds x).flash = s.flash := by rfl
@[simp] theorem State.setBeds_top (s : State) (x : Tab Bed) : (s.setBeds x).top = s.top := by rfl
@[simp] theorem State.setBeds_cur (s : State) (x : Tab Bed) : (s.setBeds x).cur = s.cur := by rfl
@[simp] theorem State.setBeds_mboxes (s : State) (x : Tab Bed) : (s.setBeds x).mboxes = s.mboxes := by rfl
@[simp] theorem State.setBeds_framers (s : State) (x : Tab Bed) : (s.setBeds x).framers = s.framers := by rfl
@[simp] theorem State.setBeds_txs (s : State) (x : Tab Bed) : (s.setBeds x).txs = s.txs := by rfl
@[simp] theorem State.setBeds_active (s : State) (x : Tab Bed) : (s.setBeds x).active = s.active := by rfl
@[simp] theorem State.setBeds_tribs (s : State) (x : Tab Bed) : (s.setBeds x).tribs = s.tribs := by rfl
@[simp] theorem State.setBeds_mapOh (s : State) (x : Tab Bed) : (s.setBeds x).mapOh = s.mapOh := by rfl
@[simp] theorem State.setBeds_sinkHold (s : State) (x : Tab Bed) : (s.setBeds x).sinkHold = s.sinkHold := by rfl
@[simp] theorem State.setBeds_pairs (s : State) (x : Tab Bed) : (s.setBeds x).pairs = s.pairs := by rfl
@[simp] theorem State.setBeds_grants (s : State) (x : Tab Bed) : (s.setBeds x).grants = s.grants := by rfl
@[simp] theorem State.setBeds_commitRows (s : State) (x : Tab Bed) : (s.setBeds x).commitRows = s.commitRows := by rfl
@[simp] theorem State.setBeds_policy (s : State) (x : Tab Bed) : (s.setBeds x).policy = s.policy := by rfl
@[simp] theorem State.setBeds_policyPending (s : State) (x : Tab Bed) : (s.setBeds x).policyPending = s.policyPending := by rfl
@[simp] theorem State.setBeds_winStart (s : State) (x : Tab Bed) : (s.setBeds x).winStart = s.winStart := by rfl
@[simp] theorem State.setBeds_sdlNs (s : State) (x : Tab Bed) : (s.setBeds x).sdlNs = s.sdlNs := by rfl
@[simp] theorem State.setBeds_sdlFrom (s : State) (x : Tab Bed) : (s.setBeds x).sdlFrom = s.sdlFrom := by rfl
@[simp] theorem State.setBeds_refs (s : State) (x : Tab Bed) : (s.setBeds x).refs = s.refs := by rfl
@[simp] theorem State.setBeds_dials (s : State) (x : Tab Bed) : (s.setBeds x).dials = s.dials := by rfl
@[simp] theorem State.setBeds_gens (s : State) (x : Tab Bed) : (s.setBeds x).gens = s.gens := by rfl
@[simp] theorem State.setBeds_ttcs (s : State) (x : Tab Bed) : (s.setBeds x).ttcs = s.ttcs := by rfl
@[simp] theorem State.setBeds_sves (s : State) (x : Tab Bed) : (s.setBeds x).sves = s.sves := by rfl
@[simp] theorem State.setBeds_beds (s : State) (x : Tab Bed) : (s.setBeds x).beds = x := by rfl
@[simp] theorem State.setBeds_ctxs (s : State) (x : Tab Bed) : (s.setBeds x).ctxs = s.ctxs := by rfl
@[simp] theorem State.setBeds_engines (s : State) (x : Tab Bed) : (s.setBeds x).engines = s.engines := by rfl
@[simp] theorem State.setBeds_cycles (s : State) (x : Tab Bed) : (s.setBeds x).cycles = s.cycles := by rfl
@[simp] theorem State.setBeds_furs (s : State) (x : Tab Bed) : (s.setBeds x).furs = s.furs := by rfl
@[simp] theorem State.setBeds_rts (s : State) (x : Tab Bed) : (s.setBeds x).rts = s.rts := by rfl
@[simp] theorem State.setBeds_twn (s : State) (x : Tab Bed) : (s.setBeds x).twn = s.twn := by rfl
@[simp] theorem State.setBeds_qdm (s : State) (x : Tab Bed) : (s.setBeds x).qdm = s.qdm := by rfl
@[simp] theorem State.setBeds_inv (s : State) (x : Tab Bed) : (s.setBeds x).inv = s.inv := by rfl
@[simp] theorem State.setBeds_outbox (s : State) (x : Tab Bed) : (s.setBeds x).outbox = s.outbox := by rfl
@[simp] theorem State.setBeds_sumCycle (s : State) (x : Tab Bed) : (s.setBeds x).sumCycle = s.sumCycle := by rfl
@[simp] theorem State.setBeds_pending (s : State) (x : Tab Bed) : (s.setBeds x).pending = s.pending := by rfl

@[simp] theorem State.setCtxs_now (s : State) (x : Tab Ctx) : (s.setCtxs x).now = s.now := by rfl
@[simp] theorem State.setCtxs_free (s : State) (x : Tab Ctx) : (s.setCtxs x).free = s.free := by rfl
@[simp] theorem State.setCtxs_regs (s : State) (x : Tab Ctx) : (s.setCtxs x).regs = s.regs := by rfl
@[simp] theorem State.setCtxs_qdr (s : State) (x : Tab Ctx) : (s.setCtxs x).qdr = s.qdr := by rfl
@[simp] theorem State.setCtxs_flash (s : State) (x : Tab Ctx) : (s.setCtxs x).flash = s.flash := by rfl
@[simp] theorem State.setCtxs_top (s : State) (x : Tab Ctx) : (s.setCtxs x).top = s.top := by rfl
@[simp] theorem State.setCtxs_cur (s : State) (x : Tab Ctx) : (s.setCtxs x).cur = s.cur := by rfl
@[simp] theorem State.setCtxs_mboxes (s : State) (x : Tab Ctx) : (s.setCtxs x).mboxes = s.mboxes := by rfl
@[simp] theorem State.setCtxs_framers (s : State) (x : Tab Ctx) : (s.setCtxs x).framers = s.framers := by rfl
@[simp] theorem State.setCtxs_txs (s : State) (x : Tab Ctx) : (s.setCtxs x).txs = s.txs := by rfl
@[simp] theorem State.setCtxs_active (s : State) (x : Tab Ctx) : (s.setCtxs x).active = s.active := by rfl
@[simp] theorem State.setCtxs_tribs (s : State) (x : Tab Ctx) : (s.setCtxs x).tribs = s.tribs := by rfl
@[simp] theorem State.setCtxs_mapOh (s : State) (x : Tab Ctx) : (s.setCtxs x).mapOh = s.mapOh := by rfl
@[simp] theorem State.setCtxs_sinkHold (s : State) (x : Tab Ctx) : (s.setCtxs x).sinkHold = s.sinkHold := by rfl
@[simp] theorem State.setCtxs_pairs (s : State) (x : Tab Ctx) : (s.setCtxs x).pairs = s.pairs := by rfl
@[simp] theorem State.setCtxs_grants (s : State) (x : Tab Ctx) : (s.setCtxs x).grants = s.grants := by rfl
@[simp] theorem State.setCtxs_commitRows (s : State) (x : Tab Ctx) : (s.setCtxs x).commitRows = s.commitRows := by rfl
@[simp] theorem State.setCtxs_policy (s : State) (x : Tab Ctx) : (s.setCtxs x).policy = s.policy := by rfl
@[simp] theorem State.setCtxs_policyPending (s : State) (x : Tab Ctx) : (s.setCtxs x).policyPending = s.policyPending := by rfl
@[simp] theorem State.setCtxs_winStart (s : State) (x : Tab Ctx) : (s.setCtxs x).winStart = s.winStart := by rfl
@[simp] theorem State.setCtxs_sdlNs (s : State) (x : Tab Ctx) : (s.setCtxs x).sdlNs = s.sdlNs := by rfl
@[simp] theorem State.setCtxs_sdlFrom (s : State) (x : Tab Ctx) : (s.setCtxs x).sdlFrom = s.sdlFrom := by rfl
@[simp] theorem State.setCtxs_refs (s : State) (x : Tab Ctx) : (s.setCtxs x).refs = s.refs := by rfl
@[simp] theorem State.setCtxs_dials (s : State) (x : Tab Ctx) : (s.setCtxs x).dials = s.dials := by rfl
@[simp] theorem State.setCtxs_gens (s : State) (x : Tab Ctx) : (s.setCtxs x).gens = s.gens := by rfl
@[simp] theorem State.setCtxs_ttcs (s : State) (x : Tab Ctx) : (s.setCtxs x).ttcs = s.ttcs := by rfl
@[simp] theorem State.setCtxs_sves (s : State) (x : Tab Ctx) : (s.setCtxs x).sves = s.sves := by rfl
@[simp] theorem State.setCtxs_beds (s : State) (x : Tab Ctx) : (s.setCtxs x).beds = s.beds := by rfl
@[simp] theorem State.setCtxs_ctxs (s : State) (x : Tab Ctx) : (s.setCtxs x).ctxs = x := by rfl
@[simp] theorem State.setCtxs_engines (s : State) (x : Tab Ctx) : (s.setCtxs x).engines = s.engines := by rfl
@[simp] theorem State.setCtxs_cycles (s : State) (x : Tab Ctx) : (s.setCtxs x).cycles = s.cycles := by rfl
@[simp] theorem State.setCtxs_furs (s : State) (x : Tab Ctx) : (s.setCtxs x).furs = s.furs := by rfl
@[simp] theorem State.setCtxs_rts (s : State) (x : Tab Ctx) : (s.setCtxs x).rts = s.rts := by rfl
@[simp] theorem State.setCtxs_twn (s : State) (x : Tab Ctx) : (s.setCtxs x).twn = s.twn := by rfl
@[simp] theorem State.setCtxs_qdm (s : State) (x : Tab Ctx) : (s.setCtxs x).qdm = s.qdm := by rfl
@[simp] theorem State.setCtxs_inv (s : State) (x : Tab Ctx) : (s.setCtxs x).inv = s.inv := by rfl
@[simp] theorem State.setCtxs_outbox (s : State) (x : Tab Ctx) : (s.setCtxs x).outbox = s.outbox := by rfl
@[simp] theorem State.setCtxs_sumCycle (s : State) (x : Tab Ctx) : (s.setCtxs x).sumCycle = s.sumCycle := by rfl
@[simp] theorem State.setCtxs_pending (s : State) (x : Tab Ctx) : (s.setCtxs x).pending = s.pending := by rfl

@[simp] theorem State.setEngines_now (s : State) (x : Tab Engine) : (s.setEngines x).now = s.now := by rfl
@[simp] theorem State.setEngines_free (s : State) (x : Tab Engine) : (s.setEngines x).free = s.free := by rfl
@[simp] theorem State.setEngines_regs (s : State) (x : Tab Engine) : (s.setEngines x).regs = s.regs := by rfl
@[simp] theorem State.setEngines_qdr (s : State) (x : Tab Engine) : (s.setEngines x).qdr = s.qdr := by rfl
@[simp] theorem State.setEngines_flash (s : State) (x : Tab Engine) : (s.setEngines x).flash = s.flash := by rfl
@[simp] theorem State.setEngines_top (s : State) (x : Tab Engine) : (s.setEngines x).top = s.top := by rfl
@[simp] theorem State.setEngines_cur (s : State) (x : Tab Engine) : (s.setEngines x).cur = s.cur := by rfl
@[simp] theorem State.setEngines_mboxes (s : State) (x : Tab Engine) : (s.setEngines x).mboxes = s.mboxes := by rfl
@[simp] theorem State.setEngines_framers (s : State) (x : Tab Engine) : (s.setEngines x).framers = s.framers := by rfl
@[simp] theorem State.setEngines_txs (s : State) (x : Tab Engine) : (s.setEngines x).txs = s.txs := by rfl
@[simp] theorem State.setEngines_active (s : State) (x : Tab Engine) : (s.setEngines x).active = s.active := by rfl
@[simp] theorem State.setEngines_tribs (s : State) (x : Tab Engine) : (s.setEngines x).tribs = s.tribs := by rfl
@[simp] theorem State.setEngines_mapOh (s : State) (x : Tab Engine) : (s.setEngines x).mapOh = s.mapOh := by rfl
@[simp] theorem State.setEngines_sinkHold (s : State) (x : Tab Engine) : (s.setEngines x).sinkHold = s.sinkHold := by rfl
@[simp] theorem State.setEngines_pairs (s : State) (x : Tab Engine) : (s.setEngines x).pairs = s.pairs := by rfl
@[simp] theorem State.setEngines_grants (s : State) (x : Tab Engine) : (s.setEngines x).grants = s.grants := by rfl
@[simp] theorem State.setEngines_commitRows (s : State) (x : Tab Engine) : (s.setEngines x).commitRows = s.commitRows := by rfl
@[simp] theorem State.setEngines_policy (s : State) (x : Tab Engine) : (s.setEngines x).policy = s.policy := by rfl
@[simp] theorem State.setEngines_policyPending (s : State) (x : Tab Engine) : (s.setEngines x).policyPending = s.policyPending := by rfl
@[simp] theorem State.setEngines_winStart (s : State) (x : Tab Engine) : (s.setEngines x).winStart = s.winStart := by rfl
@[simp] theorem State.setEngines_sdlNs (s : State) (x : Tab Engine) : (s.setEngines x).sdlNs = s.sdlNs := by rfl
@[simp] theorem State.setEngines_sdlFrom (s : State) (x : Tab Engine) : (s.setEngines x).sdlFrom = s.sdlFrom := by rfl
@[simp] theorem State.setEngines_refs (s : State) (x : Tab Engine) : (s.setEngines x).refs = s.refs := by rfl
@[simp] theorem State.setEngines_dials (s : State) (x : Tab Engine) : (s.setEngines x).dials = s.dials := by rfl
@[simp] theorem State.setEngines_gens (s : State) (x : Tab Engine) : (s.setEngines x).gens = s.gens := by rfl
@[simp] theorem State.setEngines_ttcs (s : State) (x : Tab Engine) : (s.setEngines x).ttcs = s.ttcs := by rfl
@[simp] theorem State.setEngines_sves (s : State) (x : Tab Engine) : (s.setEngines x).sves = s.sves := by rfl
@[simp] theorem State.setEngines_beds (s : State) (x : Tab Engine) : (s.setEngines x).beds = s.beds := by rfl
@[simp] theorem State.setEngines_ctxs (s : State) (x : Tab Engine) : (s.setEngines x).ctxs = s.ctxs := by rfl
@[simp] theorem State.setEngines_engines (s : State) (x : Tab Engine) : (s.setEngines x).engines = x := by rfl
@[simp] theorem State.setEngines_cycles (s : State) (x : Tab Engine) : (s.setEngines x).cycles = s.cycles := by rfl
@[simp] theorem State.setEngines_furs (s : State) (x : Tab Engine) : (s.setEngines x).furs = s.furs := by rfl
@[simp] theorem State.setEngines_rts (s : State) (x : Tab Engine) : (s.setEngines x).rts = s.rts := by rfl
@[simp] theorem State.setEngines_twn (s : State) (x : Tab Engine) : (s.setEngines x).twn = s.twn := by rfl
@[simp] theorem State.setEngines_qdm (s : State) (x : Tab Engine) : (s.setEngines x).qdm = s.qdm := by rfl
@[simp] theorem State.setEngines_inv (s : State) (x : Tab Engine) : (s.setEngines x).inv = s.inv := by rfl
@[simp] theorem State.setEngines_outbox (s : State) (x : Tab Engine) : (s.setEngines x).outbox = s.outbox := by rfl
@[simp] theorem State.setEngines_sumCycle (s : State) (x : Tab Engine) : (s.setEngines x).sumCycle = s.sumCycle := by rfl
@[simp] theorem State.setEngines_pending (s : State) (x : Tab Engine) : (s.setEngines x).pending = s.pending := by rfl

@[simp] theorem State.setCycles_now (s : State) (x : Tab Cycle) : (s.setCycles x).now = s.now := by rfl
@[simp] theorem State.setCycles_free (s : State) (x : Tab Cycle) : (s.setCycles x).free = s.free := by rfl
@[simp] theorem State.setCycles_regs (s : State) (x : Tab Cycle) : (s.setCycles x).regs = s.regs := by rfl
@[simp] theorem State.setCycles_qdr (s : State) (x : Tab Cycle) : (s.setCycles x).qdr = s.qdr := by rfl
@[simp] theorem State.setCycles_flash (s : State) (x : Tab Cycle) : (s.setCycles x).flash = s.flash := by rfl
@[simp] theorem State.setCycles_top (s : State) (x : Tab Cycle) : (s.setCycles x).top = s.top := by rfl
@[simp] theorem State.setCycles_cur (s : State) (x : Tab Cycle) : (s.setCycles x).cur = s.cur := by rfl
@[simp] theorem State.setCycles_mboxes (s : State) (x : Tab Cycle) : (s.setCycles x).mboxes = s.mboxes := by rfl
@[simp] theorem State.setCycles_framers (s : State) (x : Tab Cycle) : (s.setCycles x).framers = s.framers := by rfl
@[simp] theorem State.setCycles_txs (s : State) (x : Tab Cycle) : (s.setCycles x).txs = s.txs := by rfl
@[simp] theorem State.setCycles_active (s : State) (x : Tab Cycle) : (s.setCycles x).active = s.active := by rfl
@[simp] theorem State.setCycles_tribs (s : State) (x : Tab Cycle) : (s.setCycles x).tribs = s.tribs := by rfl
@[simp] theorem State.setCycles_mapOh (s : State) (x : Tab Cycle) : (s.setCycles x).mapOh = s.mapOh := by rfl
@[simp] theorem State.setCycles_sinkHold (s : State) (x : Tab Cycle) : (s.setCycles x).sinkHold = s.sinkHold := by rfl
@[simp] theorem State.setCycles_pairs (s : State) (x : Tab Cycle) : (s.setCycles x).pairs = s.pairs := by rfl
@[simp] theorem State.setCycles_grants (s : State) (x : Tab Cycle) : (s.setCycles x).grants = s.grants := by rfl
@[simp] theorem State.setCycles_commitRows (s : State) (x : Tab Cycle) : (s.setCycles x).commitRows = s.commitRows := by rfl
@[simp] theorem State.setCycles_policy (s : State) (x : Tab Cycle) : (s.setCycles x).policy = s.policy := by rfl
@[simp] theorem State.setCycles_policyPending (s : State) (x : Tab Cycle) : (s.setCycles x).policyPending = s.policyPending := by rfl
@[simp] theorem State.setCycles_winStart (s : State) (x : Tab Cycle) : (s.setCycles x).winStart = s.winStart := by rfl
@[simp] theorem State.setCycles_sdlNs (s : State) (x : Tab Cycle) : (s.setCycles x).sdlNs = s.sdlNs := by rfl
@[simp] theorem State.setCycles_sdlFrom (s : State) (x : Tab Cycle) : (s.setCycles x).sdlFrom = s.sdlFrom := by rfl
@[simp] theorem State.setCycles_refs (s : State) (x : Tab Cycle) : (s.setCycles x).refs = s.refs := by rfl
@[simp] theorem State.setCycles_dials (s : State) (x : Tab Cycle) : (s.setCycles x).dials = s.dials := by rfl
@[simp] theorem State.setCycles_gens (s : State) (x : Tab Cycle) : (s.setCycles x).gens = s.gens := by rfl
@[simp] theorem State.setCycles_ttcs (s : State) (x : Tab Cycle) : (s.setCycles x).ttcs = s.ttcs := by rfl
@[simp] theorem State.setCycles_sves (s : State) (x : Tab Cycle) : (s.setCycles x).sves = s.sves := by rfl
@[simp] theorem State.setCycles_beds (s : State) (x : Tab Cycle) : (s.setCycles x).beds = s.beds := by rfl
@[simp] theorem State.setCycles_ctxs (s : State) (x : Tab Cycle) : (s.setCycles x).ctxs = s.ctxs := by rfl
@[simp] theorem State.setCycles_engines (s : State) (x : Tab Cycle) : (s.setCycles x).engines = s.engines := by rfl
@[simp] theorem State.setCycles_cycles (s : State) (x : Tab Cycle) : (s.setCycles x).cycles = x := by rfl
@[simp] theorem State.setCycles_furs (s : State) (x : Tab Cycle) : (s.setCycles x).furs = s.furs := by rfl
@[simp] theorem State.setCycles_rts (s : State) (x : Tab Cycle) : (s.setCycles x).rts = s.rts := by rfl
@[simp] theorem State.setCycles_twn (s : State) (x : Tab Cycle) : (s.setCycles x).twn = s.twn := by rfl
@[simp] theorem State.setCycles_qdm (s : State) (x : Tab Cycle) : (s.setCycles x).qdm = s.qdm := by rfl
@[simp] theorem State.setCycles_inv (s : State) (x : Tab Cycle) : (s.setCycles x).inv = s.inv := by rfl
@[simp] theorem State.setCycles_outbox (s : State) (x : Tab Cycle) : (s.setCycles x).outbox = s.outbox := by rfl
@[simp] theorem State.setCycles_sumCycle (s : State) (x : Tab Cycle) : (s.setCycles x).sumCycle = s.sumCycle := by rfl
@[simp] theorem State.setCycles_pending (s : State) (x : Tab Cycle) : (s.setCycles x).pending = s.pending := by rfl

@[simp] theorem State.setFurs_now (s : State) (x : Tab Furrow) : (s.setFurs x).now = s.now := by rfl
@[simp] theorem State.setFurs_free (s : State) (x : Tab Furrow) : (s.setFurs x).free = s.free := by rfl
@[simp] theorem State.setFurs_regs (s : State) (x : Tab Furrow) : (s.setFurs x).regs = s.regs := by rfl
@[simp] theorem State.setFurs_qdr (s : State) (x : Tab Furrow) : (s.setFurs x).qdr = s.qdr := by rfl
@[simp] theorem State.setFurs_flash (s : State) (x : Tab Furrow) : (s.setFurs x).flash = s.flash := by rfl
@[simp] theorem State.setFurs_top (s : State) (x : Tab Furrow) : (s.setFurs x).top = s.top := by rfl
@[simp] theorem State.setFurs_cur (s : State) (x : Tab Furrow) : (s.setFurs x).cur = s.cur := by rfl
@[simp] theorem State.setFurs_mboxes (s : State) (x : Tab Furrow) : (s.setFurs x).mboxes = s.mboxes := by rfl
@[simp] theorem State.setFurs_framers (s : State) (x : Tab Furrow) : (s.setFurs x).framers = s.framers := by rfl
@[simp] theorem State.setFurs_txs (s : State) (x : Tab Furrow) : (s.setFurs x).txs = s.txs := by rfl
@[simp] theorem State.setFurs_active (s : State) (x : Tab Furrow) : (s.setFurs x).active = s.active := by rfl
@[simp] theorem State.setFurs_tribs (s : State) (x : Tab Furrow) : (s.setFurs x).tribs = s.tribs := by rfl
@[simp] theorem State.setFurs_mapOh (s : State) (x : Tab Furrow) : (s.setFurs x).mapOh = s.mapOh := by rfl
@[simp] theorem State.setFurs_sinkHold (s : State) (x : Tab Furrow) : (s.setFurs x).sinkHold = s.sinkHold := by rfl
@[simp] theorem State.setFurs_pairs (s : State) (x : Tab Furrow) : (s.setFurs x).pairs = s.pairs := by rfl
@[simp] theorem State.setFurs_grants (s : State) (x : Tab Furrow) : (s.setFurs x).grants = s.grants := by rfl
@[simp] theorem State.setFurs_commitRows (s : State) (x : Tab Furrow) : (s.setFurs x).commitRows = s.commitRows := by rfl
@[simp] theorem State.setFurs_policy (s : State) (x : Tab Furrow) : (s.setFurs x).policy = s.policy := by rfl
@[simp] theorem State.setFurs_policyPending (s : State) (x : Tab Furrow) : (s.setFurs x).policyPending = s.policyPending := by rfl
@[simp] theorem State.setFurs_winStart (s : State) (x : Tab Furrow) : (s.setFurs x).winStart = s.winStart := by rfl
@[simp] theorem State.setFurs_sdlNs (s : State) (x : Tab Furrow) : (s.setFurs x).sdlNs = s.sdlNs := by rfl
@[simp] theorem State.setFurs_sdlFrom (s : State) (x : Tab Furrow) : (s.setFurs x).sdlFrom = s.sdlFrom := by rfl
@[simp] theorem State.setFurs_refs (s : State) (x : Tab Furrow) : (s.setFurs x).refs = s.refs := by rfl
@[simp] theorem State.setFurs_dials (s : State) (x : Tab Furrow) : (s.setFurs x).dials = s.dials := by rfl
@[simp] theorem State.setFurs_gens (s : State) (x : Tab Furrow) : (s.setFurs x).gens = s.gens := by rfl
@[simp] theorem State.setFurs_ttcs (s : State) (x : Tab Furrow) : (s.setFurs x).ttcs = s.ttcs := by rfl
@[simp] theorem State.setFurs_sves (s : State) (x : Tab Furrow) : (s.setFurs x).sves = s.sves := by rfl
@[simp] theorem State.setFurs_beds (s : State) (x : Tab Furrow) : (s.setFurs x).beds = s.beds := by rfl
@[simp] theorem State.setFurs_ctxs (s : State) (x : Tab Furrow) : (s.setFurs x).ctxs = s.ctxs := by rfl
@[simp] theorem State.setFurs_engines (s : State) (x : Tab Furrow) : (s.setFurs x).engines = s.engines := by rfl
@[simp] theorem State.setFurs_cycles (s : State) (x : Tab Furrow) : (s.setFurs x).cycles = s.cycles := by rfl
@[simp] theorem State.setFurs_furs (s : State) (x : Tab Furrow) : (s.setFurs x).furs = x := by rfl
@[simp] theorem State.setFurs_rts (s : State) (x : Tab Furrow) : (s.setFurs x).rts = s.rts := by rfl
@[simp] theorem State.setFurs_twn (s : State) (x : Tab Furrow) : (s.setFurs x).twn = s.twn := by rfl
@[simp] theorem State.setFurs_qdm (s : State) (x : Tab Furrow) : (s.setFurs x).qdm = s.qdm := by rfl
@[simp] theorem State.setFurs_inv (s : State) (x : Tab Furrow) : (s.setFurs x).inv = s.inv := by rfl
@[simp] theorem State.setFurs_outbox (s : State) (x : Tab Furrow) : (s.setFurs x).outbox = s.outbox := by rfl
@[simp] theorem State.setFurs_sumCycle (s : State) (x : Tab Furrow) : (s.setFurs x).sumCycle = s.sumCycle := by rfl
@[simp] theorem State.setFurs_pending (s : State) (x : Tab Furrow) : (s.setFurs x).pending = s.pending := by rfl

@[simp] theorem State.setRts_now (s : State) (x : Rts) : (s.setRts x).now = s.now := by rfl
@[simp] theorem State.setRts_free (s : State) (x : Rts) : (s.setRts x).free = s.free := by rfl
@[simp] theorem State.setRts_regs (s : State) (x : Rts) : (s.setRts x).regs = s.regs := by rfl
@[simp] theorem State.setRts_qdr (s : State) (x : Rts) : (s.setRts x).qdr = s.qdr := by rfl
@[simp] theorem State.setRts_flash (s : State) (x : Rts) : (s.setRts x).flash = s.flash := by rfl
@[simp] theorem State.setRts_top (s : State) (x : Rts) : (s.setRts x).top = s.top := by rfl
@[simp] theorem State.setRts_cur (s : State) (x : Rts) : (s.setRts x).cur = s.cur := by rfl
@[simp] theorem State.setRts_mboxes (s : State) (x : Rts) : (s.setRts x).mboxes = s.mboxes := by rfl
@[simp] theorem State.setRts_framers (s : State) (x : Rts) : (s.setRts x).framers = s.framers := by rfl
@[simp] theorem State.setRts_txs (s : State) (x : Rts) : (s.setRts x).txs = s.txs := by rfl
@[simp] theorem State.setRts_active (s : State) (x : Rts) : (s.setRts x).active = s.active := by rfl
@[simp] theorem State.setRts_tribs (s : State) (x : Rts) : (s.setRts x).tribs = s.tribs := by rfl
@[simp] theorem State.setRts_mapOh (s : State) (x : Rts) : (s.setRts x).mapOh = s.mapOh := by rfl
@[simp] theorem State.setRts_sinkHold (s : State) (x : Rts) : (s.setRts x).sinkHold = s.sinkHold := by rfl
@[simp] theorem State.setRts_pairs (s : State) (x : Rts) : (s.setRts x).pairs = s.pairs := by rfl
@[simp] theorem State.setRts_grants (s : State) (x : Rts) : (s.setRts x).grants = s.grants := by rfl
@[simp] theorem State.setRts_commitRows (s : State) (x : Rts) : (s.setRts x).commitRows = s.commitRows := by rfl
@[simp] theorem State.setRts_policy (s : State) (x : Rts) : (s.setRts x).policy = s.policy := by rfl
@[simp] theorem State.setRts_policyPending (s : State) (x : Rts) : (s.setRts x).policyPending = s.policyPending := by rfl
@[simp] theorem State.setRts_winStart (s : State) (x : Rts) : (s.setRts x).winStart = s.winStart := by rfl
@[simp] theorem State.setRts_sdlNs (s : State) (x : Rts) : (s.setRts x).sdlNs = s.sdlNs := by rfl
@[simp] theorem State.setRts_sdlFrom (s : State) (x : Rts) : (s.setRts x).sdlFrom = s.sdlFrom := by rfl
@[simp] theorem State.setRts_refs (s : State) (x : Rts) : (s.setRts x).refs = s.refs := by rfl
@[simp] theorem State.setRts_dials (s : State) (x : Rts) : (s.setRts x).dials = s.dials := by rfl
@[simp] theorem State.setRts_gens (s : State) (x : Rts) : (s.setRts x).gens = s.gens := by rfl
@[simp] theorem State.setRts_ttcs (s : State) (x : Rts) : (s.setRts x).ttcs = s.ttcs := by rfl
@[simp] theorem State.setRts_sves (s : State) (x : Rts) : (s.setRts x).sves = s.sves := by rfl
@[simp] theorem State.setRts_beds (s : State) (x : Rts) : (s.setRts x).beds = s.beds := by rfl
@[simp] theorem State.setRts_ctxs (s : State) (x : Rts) : (s.setRts x).ctxs = s.ctxs := by rfl
@[simp] theorem State.setRts_engines (s : State) (x : Rts) : (s.setRts x).engines = s.engines := by rfl
@[simp] theorem State.setRts_cycles (s : State) (x : Rts) : (s.setRts x).cycles = s.cycles := by rfl
@[simp] theorem State.setRts_furs (s : State) (x : Rts) : (s.setRts x).furs = s.furs := by rfl
@[simp] theorem State.setRts_rts (s : State) (x : Rts) : (s.setRts x).rts = x := by rfl
@[simp] theorem State.setRts_twn (s : State) (x : Rts) : (s.setRts x).twn = s.twn := by rfl
@[simp] theorem State.setRts_qdm (s : State) (x : Rts) : (s.setRts x).qdm = s.qdm := by rfl
@[simp] theorem State.setRts_inv (s : State) (x : Rts) : (s.setRts x).inv = s.inv := by rfl
@[simp] theorem State.setRts_outbox (s : State) (x : Rts) : (s.setRts x).outbox = s.outbox := by rfl
@[simp] theorem State.setRts_sumCycle (s : State) (x : Rts) : (s.setRts x).sumCycle = s.sumCycle := by rfl
@[simp] theorem State.setRts_pending (s : State) (x : Rts) : (s.setRts x).pending = s.pending := by rfl

@[simp] theorem State.setTwn_now (s : State) (x : Twn) : (s.setTwn x).now = s.now := by rfl
@[simp] theorem State.setTwn_free (s : State) (x : Twn) : (s.setTwn x).free = s.free := by rfl
@[simp] theorem State.setTwn_regs (s : State) (x : Twn) : (s.setTwn x).regs = s.regs := by rfl
@[simp] theorem State.setTwn_qdr (s : State) (x : Twn) : (s.setTwn x).qdr = s.qdr := by rfl
@[simp] theorem State.setTwn_flash (s : State) (x : Twn) : (s.setTwn x).flash = s.flash := by rfl
@[simp] theorem State.setTwn_top (s : State) (x : Twn) : (s.setTwn x).top = s.top := by rfl
@[simp] theorem State.setTwn_cur (s : State) (x : Twn) : (s.setTwn x).cur = s.cur := by rfl
@[simp] theorem State.setTwn_mboxes (s : State) (x : Twn) : (s.setTwn x).mboxes = s.mboxes := by rfl
@[simp] theorem State.setTwn_framers (s : State) (x : Twn) : (s.setTwn x).framers = s.framers := by rfl
@[simp] theorem State.setTwn_txs (s : State) (x : Twn) : (s.setTwn x).txs = s.txs := by rfl
@[simp] theorem State.setTwn_active (s : State) (x : Twn) : (s.setTwn x).active = s.active := by rfl
@[simp] theorem State.setTwn_tribs (s : State) (x : Twn) : (s.setTwn x).tribs = s.tribs := by rfl
@[simp] theorem State.setTwn_mapOh (s : State) (x : Twn) : (s.setTwn x).mapOh = s.mapOh := by rfl
@[simp] theorem State.setTwn_sinkHold (s : State) (x : Twn) : (s.setTwn x).sinkHold = s.sinkHold := by rfl
@[simp] theorem State.setTwn_pairs (s : State) (x : Twn) : (s.setTwn x).pairs = s.pairs := by rfl
@[simp] theorem State.setTwn_grants (s : State) (x : Twn) : (s.setTwn x).grants = s.grants := by rfl
@[simp] theorem State.setTwn_commitRows (s : State) (x : Twn) : (s.setTwn x).commitRows = s.commitRows := by rfl
@[simp] theorem State.setTwn_policy (s : State) (x : Twn) : (s.setTwn x).policy = s.policy := by rfl
@[simp] theorem State.setTwn_policyPending (s : State) (x : Twn) : (s.setTwn x).policyPending = s.policyPending := by rfl
@[simp] theorem State.setTwn_winStart (s : State) (x : Twn) : (s.setTwn x).winStart = s.winStart := by rfl
@[simp] theorem State.setTwn_sdlNs (s : State) (x : Twn) : (s.setTwn x).sdlNs = s.sdlNs := by rfl
@[simp] theorem State.setTwn_sdlFrom (s : State) (x : Twn) : (s.setTwn x).sdlFrom = s.sdlFrom := by rfl
@[simp] theorem State.setTwn_refs (s : State) (x : Twn) : (s.setTwn x).refs = s.refs := by rfl
@[simp] theorem State.setTwn_dials (s : State) (x : Twn) : (s.setTwn x).dials = s.dials := by rfl
@[simp] theorem State.setTwn_gens (s : State) (x : Twn) : (s.setTwn x).gens = s.gens := by rfl
@[simp] theorem State.setTwn_ttcs (s : State) (x : Twn) : (s.setTwn x).ttcs = s.ttcs := by rfl
@[simp] theorem State.setTwn_sves (s : State) (x : Twn) : (s.setTwn x).sves = s.sves := by rfl
@[simp] theorem State.setTwn_beds (s : State) (x : Twn) : (s.setTwn x).beds = s.beds := by rfl
@[simp] theorem State.setTwn_ctxs (s : State) (x : Twn) : (s.setTwn x).ctxs = s.ctxs := by rfl
@[simp] theorem State.setTwn_engines (s : State) (x : Twn) : (s.setTwn x).engines = s.engines := by rfl
@[simp] theorem State.setTwn_cycles (s : State) (x : Twn) : (s.setTwn x).cycles = s.cycles := by rfl
@[simp] theorem State.setTwn_furs (s : State) (x : Twn) : (s.setTwn x).furs = s.furs := by rfl
@[simp] theorem State.setTwn_rts (s : State) (x : Twn) : (s.setTwn x).rts = s.rts := by rfl
@[simp] theorem State.setTwn_twn (s : State) (x : Twn) : (s.setTwn x).twn = x := by rfl
@[simp] theorem State.setTwn_qdm (s : State) (x : Twn) : (s.setTwn x).qdm = s.qdm := by rfl
@[simp] theorem State.setTwn_inv (s : State) (x : Twn) : (s.setTwn x).inv = s.inv := by rfl
@[simp] theorem State.setTwn_outbox (s : State) (x : Twn) : (s.setTwn x).outbox = s.outbox := by rfl
@[simp] theorem State.setTwn_sumCycle (s : State) (x : Twn) : (s.setTwn x).sumCycle = s.sumCycle := by rfl
@[simp] theorem State.setTwn_pending (s : State) (x : Twn) : (s.setTwn x).pending = s.pending := by rfl

@[simp] theorem State.setQdm_now (s : State) (x : Qdm) : (s.setQdm x).now = s.now := by rfl
@[simp] theorem State.setQdm_free (s : State) (x : Qdm) : (s.setQdm x).free = s.free := by rfl
@[simp] theorem State.setQdm_regs (s : State) (x : Qdm) : (s.setQdm x).regs = s.regs := by rfl
@[simp] theorem State.setQdm_qdr (s : State) (x : Qdm) : (s.setQdm x).qdr = s.qdr := by rfl
@[simp] theorem State.setQdm_flash (s : State) (x : Qdm) : (s.setQdm x).flash = s.flash := by rfl
@[simp] theorem State.setQdm_top (s : State) (x : Qdm) : (s.setQdm x).top = s.top := by rfl
@[simp] theorem State.setQdm_cur (s : State) (x : Qdm) : (s.setQdm x).cur = s.cur := by rfl
@[simp] theorem State.setQdm_mboxes (s : State) (x : Qdm) : (s.setQdm x).mboxes = s.mboxes := by rfl
@[simp] theorem State.setQdm_framers (s : State) (x : Qdm) : (s.setQdm x).framers = s.framers := by rfl
@[simp] theorem State.setQdm_txs (s : State) (x : Qdm) : (s.setQdm x).txs = s.txs := by rfl
@[simp] theorem State.setQdm_active (s : State) (x : Qdm) : (s.setQdm x).active = s.active := by rfl
@[simp] theorem State.setQdm_tribs (s : State) (x : Qdm) : (s.setQdm x).tribs = s.tribs := by rfl
@[simp] theorem State.setQdm_mapOh (s : State) (x : Qdm) : (s.setQdm x).mapOh = s.mapOh := by rfl
@[simp] theorem State.setQdm_sinkHold (s : State) (x : Qdm) : (s.setQdm x).sinkHold = s.sinkHold := by rfl
@[simp] theorem State.setQdm_pairs (s : State) (x : Qdm) : (s.setQdm x).pairs = s.pairs := by rfl
@[simp] theorem State.setQdm_grants (s : State) (x : Qdm) : (s.setQdm x).grants = s.grants := by rfl
@[simp] theorem State.setQdm_commitRows (s : State) (x : Qdm) : (s.setQdm x).commitRows = s.commitRows := by rfl
@[simp] theorem State.setQdm_policy (s : State) (x : Qdm) : (s.setQdm x).policy = s.policy := by rfl
@[simp] theorem State.setQdm_policyPending (s : State) (x : Qdm) : (s.setQdm x).policyPending = s.policyPending := by rfl
@[simp] theorem State.setQdm_winStart (s : State) (x : Qdm) : (s.setQdm x).winStart = s.winStart := by rfl
@[simp] theorem State.setQdm_sdlNs (s : State) (x : Qdm) : (s.setQdm x).sdlNs = s.sdlNs := by rfl
@[simp] theorem State.setQdm_sdlFrom (s : State) (x : Qdm) : (s.setQdm x).sdlFrom = s.sdlFrom := by rfl
@[simp] theorem State.setQdm_refs (s : State) (x : Qdm) : (s.setQdm x).refs = s.refs := by rfl
@[simp] theorem State.setQdm_dials (s : State) (x : Qdm) : (s.setQdm x).dials = s.dials := by rfl
@[simp] theorem State.setQdm_gens (s : State) (x : Qdm) : (s.setQdm x).gens = s.gens := by rfl
@[simp] theorem State.setQdm_ttcs (s : State) (x : Qdm) : (s.setQdm x).ttcs = s.ttcs := by rfl
@[simp] theorem State.setQdm_sves (s : State) (x : Qdm) : (s.setQdm x).sves = s.sves := by rfl
@[simp] theorem State.setQdm_beds (s : State) (x : Qdm) : (s.setQdm x).beds = s.beds := by rfl
@[simp] theorem State.setQdm_ctxs (s : State) (x : Qdm) : (s.setQdm x).ctxs = s.ctxs := by rfl
@[simp] theorem State.setQdm_engines (s : State) (x : Qdm) : (s.setQdm x).engines = s.engines := by rfl
@[simp] theorem State.setQdm_cycles (s : State) (x : Qdm) : (s.setQdm x).cycles = s.cycles := by rfl
@[simp] theorem State.setQdm_furs (s : State) (x : Qdm) : (s.setQdm x).furs = s.furs := by rfl
@[simp] theorem State.setQdm_rts (s : State) (x : Qdm) : (s.setQdm x).rts = s.rts := by rfl
@[simp] theorem State.setQdm_twn (s : State) (x : Qdm) : (s.setQdm x).twn = s.twn := by rfl
@[simp] theorem State.setQdm_qdm (s : State) (x : Qdm) : (s.setQdm x).qdm = x := by rfl
@[simp] theorem State.setQdm_inv (s : State) (x : Qdm) : (s.setQdm x).inv = s.inv := by rfl
@[simp] theorem State.setQdm_outbox (s : State) (x : Qdm) : (s.setQdm x).outbox = s.outbox := by rfl
@[simp] theorem State.setQdm_sumCycle (s : State) (x : Qdm) : (s.setQdm x).sumCycle = s.sumCycle := by rfl
@[simp] theorem State.setQdm_pending (s : State) (x : Qdm) : (s.setQdm x).pending = s.pending := by rfl

@[simp] theorem State.setInv_now (s : State) (x : Inv) : (s.setInv x).now = s.now := by rfl
@[simp] theorem State.setInv_free (s : State) (x : Inv) : (s.setInv x).free = s.free := by rfl
@[simp] theorem State.setInv_regs (s : State) (x : Inv) : (s.setInv x).regs = s.regs := by rfl
@[simp] theorem State.setInv_qdr (s : State) (x : Inv) : (s.setInv x).qdr = s.qdr := by rfl
@[simp] theorem State.setInv_flash (s : State) (x : Inv) : (s.setInv x).flash = s.flash := by rfl
@[simp] theorem State.setInv_top (s : State) (x : Inv) : (s.setInv x).top = s.top := by rfl
@[simp] theorem State.setInv_cur (s : State) (x : Inv) : (s.setInv x).cur = s.cur := by rfl
@[simp] theorem State.setInv_mboxes (s : State) (x : Inv) : (s.setInv x).mboxes = s.mboxes := by rfl
@[simp] theorem State.setInv_framers (s : State) (x : Inv) : (s.setInv x).framers = s.framers := by rfl
@[simp] theorem State.setInv_txs (s : State) (x : Inv) : (s.setInv x).txs = s.txs := by rfl
@[simp] theorem State.setInv_active (s : State) (x : Inv) : (s.setInv x).active = s.active := by rfl
@[simp] theorem State.setInv_tribs (s : State) (x : Inv) : (s.setInv x).tribs = s.tribs := by rfl
@[simp] theorem State.setInv_mapOh (s : State) (x : Inv) : (s.setInv x).mapOh = s.mapOh := by rfl
@[simp] theorem State.setInv_sinkHold (s : State) (x : Inv) : (s.setInv x).sinkHold = s.sinkHold := by rfl
@[simp] theorem State.setInv_pairs (s : State) (x : Inv) : (s.setInv x).pairs = s.pairs := by rfl
@[simp] theorem State.setInv_grants (s : State) (x : Inv) : (s.setInv x).grants = s.grants := by rfl
@[simp] theorem State.setInv_commitRows (s : State) (x : Inv) : (s.setInv x).commitRows = s.commitRows := by rfl
@[simp] theorem State.setInv_policy (s : State) (x : Inv) : (s.setInv x).policy = s.policy := by rfl
@[simp] theorem State.setInv_policyPending (s : State) (x : Inv) : (s.setInv x).policyPending = s.policyPending := by rfl
@[simp] theorem State.setInv_winStart (s : State) (x : Inv) : (s.setInv x).winStart = s.winStart := by rfl
@[simp] theorem State.setInv_sdlNs (s : State) (x : Inv) : (s.setInv x).sdlNs = s.sdlNs := by rfl
@[simp] theorem State.setInv_sdlFrom (s : State) (x : Inv) : (s.setInv x).sdlFrom = s.sdlFrom := by rfl
@[simp] theorem State.setInv_refs (s : State) (x : Inv) : (s.setInv x).refs = s.refs := by rfl
@[simp] theorem State.setInv_dials (s : State) (x : Inv) : (s.setInv x).dials = s.dials := by rfl
@[simp] theorem State.setInv_gens (s : State) (x : Inv) : (s.setInv x).gens = s.gens := by rfl
@[simp] theorem State.setInv_ttcs (s : State) (x : Inv) : (s.setInv x).ttcs = s.ttcs := by rfl
@[simp] theorem State.setInv_sves (s : State) (x : Inv) : (s.setInv x).sves = s.sves := by rfl
@[simp] theorem State.setInv_beds (s : State) (x : Inv) : (s.setInv x).beds = s.beds := by rfl
@[simp] theorem State.setInv_ctxs (s : State) (x : Inv) : (s.setInv x).ctxs = s.ctxs := by rfl
@[simp] theorem State.setInv_engines (s : State) (x : Inv) : (s.setInv x).engines = s.engines := by rfl
@[simp] theorem State.setInv_cycles (s : State) (x : Inv) : (s.setInv x).cycles = s.cycles := by rfl
@[simp] theorem State.setInv_furs (s : State) (x : Inv) : (s.setInv x).furs = s.furs := by rfl
@[simp] theorem State.setInv_rts (s : State) (x : Inv) : (s.setInv x).rts = s.rts := by rfl
@[simp] theorem State.setInv_twn (s : State) (x : Inv) : (s.setInv x).twn = s.twn := by rfl
@[simp] theorem State.setInv_qdm (s : State) (x : Inv) : (s.setInv x).qdm = s.qdm := by rfl
@[simp] theorem State.setInv_inv (s : State) (x : Inv) : (s.setInv x).inv = x := by rfl
@[simp] theorem State.setInv_outbox (s : State) (x : Inv) : (s.setInv x).outbox = s.outbox := by rfl
@[simp] theorem State.setInv_sumCycle (s : State) (x : Inv) : (s.setInv x).sumCycle = s.sumCycle := by rfl
@[simp] theorem State.setInv_pending (s : State) (x : Inv) : (s.setInv x).pending = s.pending := by rfl

@[simp] theorem State.setOutbox_now (s : State) (x : List OutMsg) : (s.setOutbox x).now = s.now := by rfl
@[simp] theorem State.setOutbox_free (s : State) (x : List OutMsg) : (s.setOutbox x).free = s.free := by rfl
@[simp] theorem State.setOutbox_regs (s : State) (x : List OutMsg) : (s.setOutbox x).regs = s.regs := by rfl
@[simp] theorem State.setOutbox_qdr (s : State) (x : List OutMsg) : (s.setOutbox x).qdr = s.qdr := by rfl
@[simp] theorem State.setOutbox_flash (s : State) (x : List OutMsg) : (s.setOutbox x).flash = s.flash := by rfl
@[simp] theorem State.setOutbox_top (s : State) (x : List OutMsg) : (s.setOutbox x).top = s.top := by rfl
@[simp] theorem State.setOutbox_cur (s : State) (x : List OutMsg) : (s.setOutbox x).cur = s.cur := by rfl
@[simp] theorem State.setOutbox_mboxes (s : State) (x : List OutMsg) : (s.setOutbox x).mboxes = s.mboxes := by rfl
@[simp] theorem State.setOutbox_framers (s : State) (x : List OutMsg) : (s.setOutbox x).framers = s.framers := by rfl
@[simp] theorem State.setOutbox_txs (s : State) (x : List OutMsg) : (s.setOutbox x).txs = s.txs := by rfl
@[simp] theorem State.setOutbox_active (s : State) (x : List OutMsg) : (s.setOutbox x).active = s.active := by rfl
@[simp] theorem State.setOutbox_tribs (s : State) (x : List OutMsg) : (s.setOutbox x).tribs = s.tribs := by rfl
@[simp] theorem State.setOutbox_mapOh (s : State) (x : List OutMsg) : (s.setOutbox x).mapOh = s.mapOh := by rfl
@[simp] theorem State.setOutbox_sinkHold (s : State) (x : List OutMsg) : (s.setOutbox x).sinkHold = s.sinkHold := by rfl
@[simp] theorem State.setOutbox_pairs (s : State) (x : List OutMsg) : (s.setOutbox x).pairs = s.pairs := by rfl
@[simp] theorem State.setOutbox_grants (s : State) (x : List OutMsg) : (s.setOutbox x).grants = s.grants := by rfl
@[simp] theorem State.setOutbox_commitRows (s : State) (x : List OutMsg) : (s.setOutbox x).commitRows = s.commitRows := by rfl
@[simp] theorem State.setOutbox_policy (s : State) (x : List OutMsg) : (s.setOutbox x).policy = s.policy := by rfl
@[simp] theorem State.setOutbox_policyPending (s : State) (x : List OutMsg) : (s.setOutbox x).policyPending = s.policyPending := by rfl
@[simp] theorem State.setOutbox_winStart (s : State) (x : List OutMsg) : (s.setOutbox x).winStart = s.winStart := by rfl
@[simp] theorem State.setOutbox_sdlNs (s : State) (x : List OutMsg) : (s.setOutbox x).sdlNs = s.sdlNs := by rfl
@[simp] theorem State.setOutbox_sdlFrom (s : State) (x : List OutMsg) : (s.setOutbox x).sdlFrom = s.sdlFrom := by rfl
@[simp] theorem State.setOutbox_refs (s : State) (x : List OutMsg) : (s.setOutbox x).refs = s.refs := by rfl
@[simp] theorem State.setOutbox_dials (s : State) (x : List OutMsg) : (s.setOutbox x).dials = s.dials := by rfl
@[simp] theorem State.setOutbox_gens (s : State) (x : List OutMsg) : (s.setOutbox x).gens = s.gens := by rfl
@[simp] theorem State.setOutbox_ttcs (s : State) (x : List OutMsg) : (s.setOutbox x).ttcs = s.ttcs := by rfl
@[simp] theorem State.setOutbox_sves (s : State) (x : List OutMsg) : (s.setOutbox x).sves = s.sves := by rfl
@[simp] theorem State.setOutbox_beds (s : State) (x : List OutMsg) : (s.setOutbox x).beds = s.beds := by rfl
@[simp] theorem State.setOutbox_ctxs (s : State) (x : List OutMsg) : (s.setOutbox x).ctxs = s.ctxs := by rfl
@[simp] theorem State.setOutbox_engines (s : State) (x : List OutMsg) : (s.setOutbox x).engines = s.engines := by rfl
@[simp] theorem State.setOutbox_cycles (s : State) (x : List OutMsg) : (s.setOutbox x).cycles = s.cycles := by rfl
@[simp] theorem State.setOutbox_furs (s : State) (x : List OutMsg) : (s.setOutbox x).furs = s.furs := by rfl
@[simp] theorem State.setOutbox_rts (s : State) (x : List OutMsg) : (s.setOutbox x).rts = s.rts := by rfl
@[simp] theorem State.setOutbox_twn (s : State) (x : List OutMsg) : (s.setOutbox x).twn = s.twn := by rfl
@[simp] theorem State.setOutbox_qdm (s : State) (x : List OutMsg) : (s.setOutbox x).qdm = s.qdm := by rfl
@[simp] theorem State.setOutbox_inv (s : State) (x : List OutMsg) : (s.setOutbox x).inv = s.inv := by rfl
@[simp] theorem State.setOutbox_outbox (s : State) (x : List OutMsg) : (s.setOutbox x).outbox = x := by rfl
@[simp] theorem State.setOutbox_sumCycle (s : State) (x : List OutMsg) : (s.setOutbox x).sumCycle = s.sumCycle := by rfl
@[simp] theorem State.setOutbox_pending (s : State) (x : List OutMsg) : (s.setOutbox x).pending = s.pending := by rfl

@[simp] theorem State.setSumCycle_now (s : State) (x : List Nat) : (s.setSumCycle x).now = s.now := by rfl
@[simp] theorem State.setSumCycle_free (s : State) (x : List Nat) : (s.setSumCycle x).free = s.free := by rfl
@[simp] theorem State.setSumCycle_regs (s : State) (x : List Nat) : (s.setSumCycle x).regs = s.regs := by rfl
@[simp] theorem State.setSumCycle_qdr (s : State) (x : List Nat) : (s.setSumCycle x).qdr = s.qdr := by rfl
@[simp] theorem State.setSumCycle_flash (s : State) (x : List Nat) : (s.setSumCycle x).flash = s.flash := by rfl
@[simp] theorem State.setSumCycle_top (s : State) (x : List Nat) : (s.setSumCycle x).top = s.top := by rfl
@[simp] theorem State.setSumCycle_cur (s : State) (x : List Nat) : (s.setSumCycle x).cur = s.cur := by rfl
@[simp] theorem State.setSumCycle_mboxes (s : State) (x : List Nat) : (s.setSumCycle x).mboxes = s.mboxes := by rfl
@[simp] theorem State.setSumCycle_framers (s : State) (x : List Nat) : (s.setSumCycle x).framers = s.framers := by rfl
@[simp] theorem State.setSumCycle_txs (s : State) (x : List Nat) : (s.setSumCycle x).txs = s.txs := by rfl
@[simp] theorem State.setSumCycle_active (s : State) (x : List Nat) : (s.setSumCycle x).active = s.active := by rfl
@[simp] theorem State.setSumCycle_tribs (s : State) (x : List Nat) : (s.setSumCycle x).tribs = s.tribs := by rfl
@[simp] theorem State.setSumCycle_mapOh (s : State) (x : List Nat) : (s.setSumCycle x).mapOh = s.mapOh := by rfl
@[simp] theorem State.setSumCycle_sinkHold (s : State) (x : List Nat) : (s.setSumCycle x).sinkHold = s.sinkHold := by rfl
@[simp] theorem State.setSumCycle_pairs (s : State) (x : List Nat) : (s.setSumCycle x).pairs = s.pairs := by rfl
@[simp] theorem State.setSumCycle_grants (s : State) (x : List Nat) : (s.setSumCycle x).grants = s.grants := by rfl
@[simp] theorem State.setSumCycle_commitRows (s : State) (x : List Nat) : (s.setSumCycle x).commitRows = s.commitRows := by rfl
@[simp] theorem State.setSumCycle_policy (s : State) (x : List Nat) : (s.setSumCycle x).policy = s.policy := by rfl
@[simp] theorem State.setSumCycle_policyPending (s : State) (x : List Nat) : (s.setSumCycle x).policyPending = s.policyPending := by rfl
@[simp] theorem State.setSumCycle_winStart (s : State) (x : List Nat) : (s.setSumCycle x).winStart = s.winStart := by rfl
@[simp] theorem State.setSumCycle_sdlNs (s : State) (x : List Nat) : (s.setSumCycle x).sdlNs = s.sdlNs := by rfl
@[simp] theorem State.setSumCycle_sdlFrom (s : State) (x : List Nat) : (s.setSumCycle x).sdlFrom = s.sdlFrom := by rfl
@[simp] theorem State.setSumCycle_refs (s : State) (x : List Nat) : (s.setSumCycle x).refs = s.refs := by rfl
@[simp] theorem State.setSumCycle_dials (s : State) (x : List Nat) : (s.setSumCycle x).dials = s.dials := by rfl
@[simp] theorem State.setSumCycle_gens (s : State) (x : List Nat) : (s.setSumCycle x).gens = s.gens := by rfl
@[simp] theorem State.setSumCycle_ttcs (s : State) (x : List Nat) : (s.setSumCycle x).ttcs = s.ttcs := by rfl
@[simp] theorem State.setSumCycle_sves (s : State) (x : List Nat) : (s.setSumCycle x).sves = s.sves := by rfl
@[simp] theorem State.setSumCycle_beds (s : State) (x : List Nat) : (s.setSumCycle x).beds = s.beds := by rfl
@[simp] theorem State.setSumCycle_ctxs (s : State) (x : List Nat) : (s.setSumCycle x).ctxs = s.ctxs := by rfl
@[simp] theorem State.setSumCycle_engines (s : State) (x : List Nat) : (s.setSumCycle x).engines = s.engines := by rfl
@[simp] theorem State.setSumCycle_cycles (s : State) (x : List Nat) : (s.setSumCycle x).cycles = s.cycles := by rfl
@[simp] theorem State.setSumCycle_furs (s : State) (x : List Nat) : (s.setSumCycle x).furs = s.furs := by rfl
@[simp] theorem State.setSumCycle_rts (s : State) (x : List Nat) : (s.setSumCycle x).rts = s.rts := by rfl
@[simp] theorem State.setSumCycle_twn (s : State) (x : List Nat) : (s.setSumCycle x).twn = s.twn := by rfl
@[simp] theorem State.setSumCycle_qdm (s : State) (x : List Nat) : (s.setSumCycle x).qdm = s.qdm := by rfl
@[simp] theorem State.setSumCycle_inv (s : State) (x : List Nat) : (s.setSumCycle x).inv = s.inv := by rfl
@[simp] theorem State.setSumCycle_outbox (s : State) (x : List Nat) : (s.setSumCycle x).outbox = s.outbox := by rfl
@[simp] theorem State.setSumCycle_sumCycle (s : State) (x : List Nat) : (s.setSumCycle x).sumCycle = x := by rfl
@[simp] theorem State.setSumCycle_pending (s : State) (x : List Nat) : (s.setSumCycle x).pending = s.pending := by rfl

@[simp] theorem State.setPending_now (s : State) (x : List Instr) : (s.setPending x).now = s.now := by rfl
@[simp] theorem State.setPending_free (s : State) (x : List Instr) : (s.setPending x).free = s.free := by rfl
@[simp] theorem State.setPending_regs (s : State) (x : List Instr) : (s.setPending x).regs = s.regs := by rfl
@[simp] theorem State.setPending_qdr (s : State) (x : List Instr) : (s.setPending x).qdr = s.qdr := by rfl
@[simp] theorem State.setPending_flash (s : State) (x : List Instr) : (s.setPending x).flash = s.flash := by rfl
@[simp] theorem State.setPending_top (s : State) (x : List Instr) : (s.setPending x).top = s.top := by rfl
@[simp] theorem State.setPending_cur (s : State) (x : List Instr) : (s.setPending x).cur = s.cur := by rfl
@[simp] theorem State.setPending_mboxes (s : State) (x : List Instr) : (s.setPending x).mboxes = s.mboxes := by rfl
@[simp] theorem State.setPending_framers (s : State) (x : List Instr) : (s.setPending x).framers = s.framers := by rfl
@[simp] theorem State.setPending_txs (s : State) (x : List Instr) : (s.setPending x).txs = s.txs := by rfl
@[simp] theorem State.setPending_active (s : State) (x : List Instr) : (s.setPending x).active = s.active := by rfl
@[simp] theorem State.setPending_tribs (s : State) (x : List Instr) : (s.setPending x).tribs = s.tribs := by rfl
@[simp] theorem State.setPending_mapOh (s : State) (x : List Instr) : (s.setPending x).mapOh = s.mapOh := by rfl
@[simp] theorem State.setPending_sinkHold (s : State) (x : List Instr) : (s.setPending x).sinkHold = s.sinkHold := by rfl
@[simp] theorem State.setPending_pairs (s : State) (x : List Instr) : (s.setPending x).pairs = s.pairs := by rfl
@[simp] theorem State.setPending_grants (s : State) (x : List Instr) : (s.setPending x).grants = s.grants := by rfl
@[simp] theorem State.setPending_commitRows (s : State) (x : List Instr) : (s.setPending x).commitRows = s.commitRows := by rfl
@[simp] theorem State.setPending_policy (s : State) (x : List Instr) : (s.setPending x).policy = s.policy := by rfl
@[simp] theorem State.setPending_policyPending (s : State) (x : List Instr) : (s.setPending x).policyPending = s.policyPending := by rfl
@[simp] theorem State.setPending_winStart (s : State) (x : List Instr) : (s.setPending x).winStart = s.winStart := by rfl
@[simp] theorem State.setPending_sdlNs (s : State) (x : List Instr) : (s.setPending x).sdlNs = s.sdlNs := by rfl
@[simp] theorem State.setPending_sdlFrom (s : State) (x : List Instr) : (s.setPending x).sdlFrom = s.sdlFrom := by rfl
@[simp] theorem State.setPending_refs (s : State) (x : List Instr) : (s.setPending x).refs = s.refs := by rfl
@[simp] theorem State.setPending_dials (s : State) (x : List Instr) : (s.setPending x).dials = s.dials := by rfl
@[simp] theorem State.setPending_gens (s : State) (x : List Instr) : (s.setPending x).gens = s.gens := by rfl
@[simp] theorem State.setPending_ttcs (s : State) (x : List Instr) : (s.setPending x).ttcs = s.ttcs := by rfl
@[simp] theorem State.setPending_sves (s : State) (x : List Instr) : (s.setPending x).sves = s.sves := by rfl
@[simp] theorem State.setPending_beds (s : State) (x : List Instr) : (s.setPending x).beds = s.beds := by rfl
@[simp] theorem State.setPending_ctxs (s : State) (x : List Instr) : (s.setPending x).ctxs = s.ctxs := by rfl
@[simp] theorem State.setPending_engines (s : State) (x : List Instr) : (s.setPending x).engines = s.engines := by rfl
@[simp] theorem State.setPending_cycles (s : State) (x : List Instr) : (s.setPending x).cycles = s.cycles := by rfl
@[simp] theorem State.setPending_furs (s : State) (x : List Instr) : (s.setPending x).furs = s.furs := by rfl
@[simp] theorem State.setPending_rts (s : State) (x : List Instr) : (s.setPending x).rts = s.rts := by rfl
@[simp] theorem State.setPending_twn (s : State) (x : List Instr) : (s.setPending x).twn = s.twn := by rfl
@[simp] theorem State.setPending_qdm (s : State) (x : List Instr) : (s.setPending x).qdm = s.qdm := by rfl
@[simp] theorem State.setPending_inv (s : State) (x : List Instr) : (s.setPending x).inv = s.inv := by rfl
@[simp] theorem State.setPending_outbox (s : State) (x : List Instr) : (s.setPending x).outbox = s.outbox := by rfl
@[simp] theorem State.setPending_sumCycle (s : State) (x : List Instr) : (s.setPending x).sumCycle = s.sumCycle := by rfl
@[simp] theorem State.setPending_pending (s : State) (x : List Instr) : (s.setPending x).pending = x := by rfl

@[simp] theorem State.wr_now (s : State) (a : Nat) (v : Word) : (s.wr a v).now = s.now := by rfl
@[simp] theorem State.wr_free (s : State) (a : Nat) (v : Word) : (s.wr a v).free = s.free := by rfl
@[simp] theorem State.wr_regs (s : State) (a : Nat) (v : Word) : (s.wr a v).regs = Tab.set s.regs (regReset a) a v := by rfl
@[simp] theorem State.wr_qdr (s : State) (a : Nat) (v : Word) : (s.wr a v).qdr = s.qdr := by rfl
@[simp] theorem State.wr_flash (s : State) (a : Nat) (v : Word) : (s.wr a v).flash = s.flash := by rfl
@[simp] theorem State.wr_top (s : State) (a : Nat) (v : Word) : (s.wr a v).top = s.top := by rfl
@[simp] theorem State.wr_cur (s : State) (a : Nat) (v : Word) : (s.wr a v).cur = s.cur := by rfl
@[simp] theorem State.wr_mboxes (s : State) (a : Nat) (v : Word) : (s.wr a v).mboxes = s.mboxes := by rfl
@[simp] theorem State.wr_framers (s : State) (a : Nat) (v : Word) : (s.wr a v).framers = s.framers := by rfl
@[simp] theorem State.wr_txs (s : State) (a : Nat) (v : Word) : (s.wr a v).txs = s.txs := by rfl
@[simp] theorem State.wr_active (s : State) (a : Nat) (v : Word) : (s.wr a v).active = s.active := by rfl
@[simp] theorem State.wr_tribs (s : State) (a : Nat) (v : Word) : (s.wr a v).tribs = s.tribs := by rfl
@[simp] theorem State.wr_mapOh (s : State) (a : Nat) (v : Word) : (s.wr a v).mapOh = s.mapOh := by rfl
@[simp] theorem State.wr_sinkHold (s : State) (a : Nat) (v : Word) : (s.wr a v).sinkHold = s.sinkHold := by rfl
@[simp] theorem State.wr_pairs (s : State) (a : Nat) (v : Word) : (s.wr a v).pairs = s.pairs := by rfl
@[simp] theorem State.wr_grants (s : State) (a : Nat) (v : Word) : (s.wr a v).grants = s.grants := by rfl
@[simp] theorem State.wr_commitRows (s : State) (a : Nat) (v : Word) : (s.wr a v).commitRows = s.commitRows := by rfl
@[simp] theorem State.wr_policy (s : State) (a : Nat) (v : Word) : (s.wr a v).policy = s.policy := by rfl
@[simp] theorem State.wr_policyPending (s : State) (a : Nat) (v : Word) : (s.wr a v).policyPending = s.policyPending := by rfl
@[simp] theorem State.wr_winStart (s : State) (a : Nat) (v : Word) : (s.wr a v).winStart = s.winStart := by rfl
@[simp] theorem State.wr_sdlNs (s : State) (a : Nat) (v : Word) : (s.wr a v).sdlNs = s.sdlNs := by rfl
@[simp] theorem State.wr_sdlFrom (s : State) (a : Nat) (v : Word) : (s.wr a v).sdlFrom = s.sdlFrom := by rfl
@[simp] theorem State.wr_refs (s : State) (a : Nat) (v : Word) : (s.wr a v).refs = s.refs := by rfl
@[simp] theorem State.wr_dials (s : State) (a : Nat) (v : Word) : (s.wr a v).dials = s.dials := by rfl
@[simp] theorem State.wr_gens (s : State) (a : Nat) (v : Word) : (s.wr a v).gens = s.gens := by rfl
@[simp] theorem State.wr_ttcs (s : State) (a : Nat) (v : Word) : (s.wr a v).ttcs = s.ttcs := by rfl
@[simp] theorem State.wr_sves (s : State) (a : Nat) (v : Word) : (s.wr a v).sves = s.sves := by rfl
@[simp] theorem State.wr_beds (s : State) (a : Nat) (v : Word) : (s.wr a v).beds = s.beds := by rfl
@[simp] theorem State.wr_ctxs (s : State) (a : Nat) (v : Word) : (s.wr a v).ctxs = s.ctxs := by rfl
@[simp] theorem State.wr_engines (s : State) (a : Nat) (v : Word) : (s.wr a v).engines = s.engines := by rfl
@[simp] theorem State.wr_cycles (s : State) (a : Nat) (v : Word) : (s.wr a v).cycles = s.cycles := by rfl
@[simp] theorem State.wr_furs (s : State) (a : Nat) (v : Word) : (s.wr a v).furs = s.furs := by rfl
@[simp] theorem State.wr_rts (s : State) (a : Nat) (v : Word) : (s.wr a v).rts = s.rts := by rfl
@[simp] theorem State.wr_twn (s : State) (a : Nat) (v : Word) : (s.wr a v).twn = s.twn := by rfl
@[simp] theorem State.wr_qdm (s : State) (a : Nat) (v : Word) : (s.wr a v).qdm = s.qdm := by rfl
@[simp] theorem State.wr_inv (s : State) (a : Nat) (v : Word) : (s.wr a v).inv = s.inv := by rfl
@[simp] theorem State.wr_outbox (s : State) (a : Nat) (v : Word) : (s.wr a v).outbox = s.outbox := by rfl
@[simp] theorem State.wr_sumCycle (s : State) (a : Nat) (v : Word) : (s.wr a v).sumCycle = s.sumCycle := by rfl
@[simp] theorem State.wr_pending (s : State) (a : Nat) (v : Word) : (s.wr a v).pending = s.pending := by rfl

@[simp] theorem State.wrN_now (s : State) (a n : Nat) : (s.wrN a n).now = s.now := by rfl
@[simp] theorem State.wrN_free (s : State) (a n : Nat) : (s.wrN a n).free = s.free := by rfl
@[simp] theorem State.wrN_qdr (s : State) (a n : Nat) : (s.wrN a n).qdr = s.qdr := by rfl
@[simp] theorem State.wrN_flash (s : State) (a n : Nat) : (s.wrN a n).flash = s.flash := by rfl
@[simp] theorem State.wrN_top (s : State) (a n : Nat) : (s.wrN a n).top = s.top := by rfl
@[simp] theorem State.wrN_cur (s : State) (a n : Nat) : (s.wrN a n).cur = s.cur := by rfl
@[simp] theorem State.wrN_mboxes (s : State) (a n : Nat) : (s.wrN a n).mboxes = s.mboxes := by rfl
@[simp] theorem State.wrN_framers (s : State) (a n : Nat) : (s.wrN a n).framers = s.framers := by rfl
@[simp] theorem State.wrN_txs (s : State) (a n : Nat) : (s.wrN a n).txs = s.txs := by rfl
@[simp] theorem State.wrN_active (s : State) (a n : Nat) : (s.wrN a n).active = s.active := by rfl
@[simp] theorem State.wrN_tribs (s : State) (a n : Nat) : (s.wrN a n).tribs = s.tribs := by rfl
@[simp] theorem State.wrN_mapOh (s : State) (a n : Nat) : (s.wrN a n).mapOh = s.mapOh := by rfl
@[simp] theorem State.wrN_sinkHold (s : State) (a n : Nat) : (s.wrN a n).sinkHold = s.sinkHold := by rfl
@[simp] theorem State.wrN_pairs (s : State) (a n : Nat) : (s.wrN a n).pairs = s.pairs := by rfl
@[simp] theorem State.wrN_grants (s : State) (a n : Nat) : (s.wrN a n).grants = s.grants := by rfl
@[simp] theorem State.wrN_commitRows (s : State) (a n : Nat) : (s.wrN a n).commitRows = s.commitRows := by rfl
@[simp] theorem State.wrN_policy (s : State) (a n : Nat) : (s.wrN a n).policy = s.policy := by rfl
@[simp] theorem State.wrN_policyPending (s : State) (a n : Nat) : (s.wrN a n).policyPending = s.policyPending := by rfl
@[simp] theorem State.wrN_winStart (s : State) (a n : Nat) : (s.wrN a n).winStart = s.winStart := by rfl
@[simp] theorem State.wrN_sdlNs (s : State) (a n : Nat) : (s.wrN a n).sdlNs = s.sdlNs := by rfl
@[simp] theorem State.wrN_sdlFrom (s : State) (a n : Nat) : (s.wrN a n).sdlFrom = s.sdlFrom := by rfl
@[simp] theorem State.wrN_refs (s : State) (a n : Nat) : (s.wrN a n).refs = s.refs := by rfl
@[simp] theorem State.wrN_dials (s : State) (a n : Nat) : (s.wrN a n).dials = s.dials := by rfl
@[simp] theorem State.wrN_gens (s : State) (a n : Nat) : (s.wrN a n).gens = s.gens := by rfl
@[simp] theorem State.wrN_ttcs (s : State) (a n : Nat) : (s.wrN a n).ttcs = s.ttcs := by rfl
@[simp] theorem State.wrN_sves (s : State) (a n : Nat) : (s.wrN a n).sves = s.sves := by rfl
@[simp] theorem State.wrN_beds (s : State) (a n : Nat) : (s.wrN a n).beds = s.beds := by rfl
@[simp] theorem State.wrN_ctxs (s : State) (a n : Nat) : (s.wrN a n).ctxs = s.ctxs := by rfl
@[simp] theorem State.wrN_engines (s : State) (a n : Nat) : (s.wrN a n).engines = s.engines := by rfl
@[simp] theorem State.wrN_cycles (s : State) (a n : Nat) : (s.wrN a n).cycles = s.cycles := by rfl
@[simp] theorem State.wrN_furs (s : State) (a n : Nat) : (s.wrN a n).furs = s.furs := by rfl
@[simp] theorem State.wrN_rts (s : State) (a n : Nat) : (s.wrN a n).rts = s.rts := by rfl
@[simp] theorem State.wrN_twn (s : State) (a n : Nat) : (s.wrN a n).twn = s.twn := by rfl
@[simp] theorem State.wrN_qdm (s : State) (a n : Nat) : (s.wrN a n).qdm = s.qdm := by rfl
@[simp] theorem State.wrN_inv (s : State) (a n : Nat) : (s.wrN a n).inv = s.inv := by rfl
@[simp] theorem State.wrN_outbox (s : State) (a n : Nat) : (s.wrN a n).outbox = s.outbox := by rfl
@[simp] theorem State.wrN_sumCycle (s : State) (a n : Nat) : (s.wrN a n).sumCycle = s.sumCycle := by rfl
@[simp] theorem State.wrN_pending (s : State) (a n : Nat) : (s.wrN a n).pending = s.pending := by rfl

@[simp] theorem State.setFld_now (s : State) (a hi lo v : Nat) : (s.setFld a hi lo v).now = s.now := by rfl
@[simp] theorem State.setFld_free (s : State) (a hi lo v : Nat) : (s.setFld a hi lo v).free = s.free := by rfl
@[simp] theorem State.setFld_qdr (s : State) (a hi lo v : Nat) : (s.setFld a hi lo v).qdr = s.qdr := by rfl
@[simp] theorem State.setFld_flash (s : State) (a hi lo v : Nat) : (s.setFld a hi lo v).flash = s.flash := by rfl
@[simp] theorem State.setFld_top (s : State) (a hi lo v : Nat) : (s.setFld a hi lo v).top = s.top := by rfl
@[simp] theorem State.setFld_cur (s : State) (a hi lo v : Nat) : (s.setFld a hi lo v).cur = s.cur := by rfl
@[simp] theorem State.setFld_mboxes (s : State) (a hi lo v : Nat) : (s.setFld a hi lo v).mboxes = s.mboxes := by rfl
@[simp] theorem State.setFld_framers (s : State) (a hi lo v : Nat) : (s.setFld a hi lo v).framers = s.framers := by rfl
@[simp] theorem State.setFld_txs (s : State) (a hi lo v : Nat) : (s.setFld a hi lo v).txs = s.txs := by rfl
@[simp] theorem State.setFld_active (s : State) (a hi lo v : Nat) : (s.setFld a hi lo v).active = s.active := by rfl
@[simp] theorem State.setFld_tribs (s : State) (a hi lo v : Nat) : (s.setFld a hi lo v).tribs = s.tribs := by rfl
@[simp] theorem State.setFld_mapOh (s : State) (a hi lo v : Nat) : (s.setFld a hi lo v).mapOh = s.mapOh := by rfl
@[simp] theorem State.setFld_sinkHold (s : State) (a hi lo v : Nat) : (s.setFld a hi lo v).sinkHold = s.sinkHold := by rfl
@[simp] theorem State.setFld_pairs (s : State) (a hi lo v : Nat) : (s.setFld a hi lo v).pairs = s.pairs := by rfl
@[simp] theorem State.setFld_grants (s : State) (a hi lo v : Nat) : (s.setFld a hi lo v).grants = s.grants := by rfl
@[simp] theorem State.setFld_commitRows (s : State) (a hi lo v : Nat) : (s.setFld a hi lo v).commitRows = s.commitRows := by rfl
@[simp] theorem State.setFld_policy (s : State) (a hi lo v : Nat) : (s.setFld a hi lo v).policy = s.policy := by rfl
@[simp] theorem State.setFld_policyPending (s : State) (a hi lo v : Nat) : (s.setFld a hi lo v).policyPending = s.policyPending := by rfl
@[simp] theorem State.setFld_winStart (s : State) (a hi lo v : Nat) : (s.setFld a hi lo v).winStart = s.winStart := by rfl
@[simp] theorem State.setFld_sdlNs (s : State) (a hi lo v : Nat) : (s.setFld a hi lo v).sdlNs = s.sdlNs := by rfl
@[simp] theorem State.setFld_sdlFrom (s : State) (a hi lo v : Nat) : (s.setFld a hi lo v).sdlFrom = s.sdlFrom := by rfl
@[simp] theorem State.setFld_refs (s : State) (a hi lo v : Nat) : (s.setFld a hi lo v).refs = s.refs := by rfl
@[simp] theorem State.setFld_dials (s : State) (a hi lo v : Nat) : (s.setFld a hi lo v).dials = s.dials := by rfl
@[simp] theorem State.setFld_gens (s : State) (a hi lo v : Nat) : (s.setFld a hi lo v).gens = s.gens := by rfl
@[simp] theorem State.setFld_ttcs (s : State) (a hi lo v : Nat) : (s.setFld a hi lo v).ttcs = s.ttcs := by rfl
@[simp] theorem State.setFld_sves (s : State) (a hi lo v : Nat) : (s.setFld a hi lo v).sves = s.sves := by rfl
@[simp] theorem State.setFld_beds (s : State) (a hi lo v : Nat) : (s.setFld a hi lo v).beds = s.beds := by rfl
@[simp] theorem State.setFld_ctxs (s : State) (a hi lo v : Nat) : (s.setFld a hi lo v).ctxs = s.ctxs := by rfl
@[simp] theorem State.setFld_engines (s : State) (a hi lo v : Nat) : (s.setFld a hi lo v).engines = s.engines := by rfl
@[simp] theorem State.setFld_cycles (s : State) (a hi lo v : Nat) : (s.setFld a hi lo v).cycles = s.cycles := by rfl
@[simp] theorem State.setFld_furs (s : State) (a hi lo v : Nat) : (s.setFld a hi lo v).furs = s.furs := by rfl
@[simp] theorem State.setFld_rts (s : State) (a hi lo v : Nat) : (s.setFld a hi lo v).rts = s.rts := by rfl
@[simp] theorem State.setFld_twn (s : State) (a hi lo v : Nat) : (s.setFld a hi lo v).twn = s.twn := by rfl
@[simp] theorem State.setFld_qdm (s : State) (a hi lo v : Nat) : (s.setFld a hi lo v).qdm = s.qdm := by rfl
@[simp] theorem State.setFld_inv (s : State) (a hi lo v : Nat) : (s.setFld a hi lo v).inv = s.inv := by rfl
@[simp] theorem State.setFld_outbox (s : State) (a hi lo v : Nat) : (s.setFld a hi lo v).outbox = s.outbox := by rfl
@[simp] theorem State.setFld_sumCycle (s : State) (a hi lo v : Nat) : (s.setFld a hi lo v).sumCycle = s.sumCycle := by rfl
@[simp] theorem State.setFld_pending (s : State) (a hi lo v : Nat) : (s.setFld a hi lo v).pending = s.pending := by rfl

@[simp] theorem State.setBit_now (s : State) (a n : Nat) (b : Bool) : (s.setBit a n b).now = s.now := by rfl
@[simp] theorem State.setBit_free (s : State) (a n : Nat) (b : Bool) : (s.setBit a n b).free = s.free := by rfl
@[simp] theorem State.setBit_qdr (s : State) (a n : Nat) (b : Bool) : (s.setBit a n b).qdr = s.qdr := by rfl
@[simp] theorem State.setBit_flash (s : State) (a n : Nat) (b : Bool) : (s.setBit a n b).flash = s.flash := by rfl
@[simp] theorem State.setBit_top (s : State) (a n : Nat) (b : Bool) : (s.setBit a n b).top = s.top := by rfl
@[simp] theorem State.setBit_cur (s : State) (a n : Nat) (b : Bool) : (s.setBit a n b).cur = s.cur := by rfl
@[simp] theorem State.setBit_mboxes (s : State) (a n : Nat) (b : Bool) : (s.setBit a n b).mboxes = s.mboxes := by rfl
@[simp] theorem State.setBit_framers (s : State) (a n : Nat) (b : Bool) : (s.setBit a n b).framers = s.framers := by rfl
@[simp] theorem State.setBit_txs (s : State) (a n : Nat) (b : Bool) : (s.setBit a n b).txs = s.txs := by rfl
@[simp] theorem State.setBit_active (s : State) (a n : Nat) (b : Bool) : (s.setBit a n b).active = s.active := by rfl
@[simp] theorem State.setBit_tribs (s : State) (a n : Nat) (b : Bool) : (s.setBit a n b).tribs = s.tribs := by rfl
@[simp] theorem State.setBit_mapOh (s : State) (a n : Nat) (b : Bool) : (s.setBit a n b).mapOh = s.mapOh := by rfl
@[simp] theorem State.setBit_sinkHold (s : State) (a n : Nat) (b : Bool) : (s.setBit a n b).sinkHold = s.sinkHold := by rfl
@[simp] theorem State.setBit_pairs (s : State) (a n : Nat) (b : Bool) : (s.setBit a n b).pairs = s.pairs := by rfl
@[simp] theorem State.setBit_grants (s : State) (a n : Nat) (b : Bool) : (s.setBit a n b).grants = s.grants := by rfl
@[simp] theorem State.setBit_commitRows (s : State) (a n : Nat) (b : Bool) : (s.setBit a n b).commitRows = s.commitRows := by rfl
@[simp] theorem State.setBit_policy (s : State) (a n : Nat) (b : Bool) : (s.setBit a n b).policy = s.policy := by rfl
@[simp] theorem State.setBit_policyPending (s : State) (a n : Nat) (b : Bool) : (s.setBit a n b).policyPending = s.policyPending := by rfl
@[simp] theorem State.setBit_winStart (s : State) (a n : Nat) (b : Bool) : (s.setBit a n b).winStart = s.winStart := by rfl
@[simp] theorem State.setBit_sdlNs (s : State) (a n : Nat) (b : Bool) : (s.setBit a n b).sdlNs = s.sdlNs := by rfl
@[simp] theorem State.setBit_sdlFrom (s : State) (a n : Nat) (b : Bool) : (s.setBit a n b).sdlFrom = s.sdlFrom := by rfl
@[simp] theorem State.setBit_refs (s : State) (a n : Nat) (b : Bool) : (s.setBit a n b).refs = s.refs := by rfl
@[simp] theorem State.setBit_dials (s : State) (a n : Nat) (b : Bool) : (s.setBit a n b).dials = s.dials := by rfl
@[simp] theorem State.setBit_gens (s : State) (a n : Nat) (b : Bool) : (s.setBit a n b).gens = s.gens := by rfl
@[simp] theorem State.setBit_ttcs (s : State) (a n : Nat) (b : Bool) : (s.setBit a n b).ttcs = s.ttcs := by rfl
@[simp] theorem State.setBit_sves (s : State) (a n : Nat) (b : Bool) : (s.setBit a n b).sves = s.sves := by rfl
@[simp] theorem State.setBit_beds (s : State) (a n : Nat) (b : Bool) : (s.setBit a n b).beds = s.beds := by rfl
@[simp] theorem State.setBit_ctxs (s : State) (a n : Nat) (b : Bool) : (s.setBit a n b).ctxs = s.ctxs := by rfl
@[simp] theorem State.setBit_engines (s : State) (a n : Nat) (b : Bool) : (s.setBit a n b).engines = s.engines := by rfl
@[simp] theorem State.setBit_cycles (s : State) (a n : Nat) (b : Bool) : (s.setBit a n b).cycles = s.cycles := by rfl
@[simp] theorem State.setBit_furs (s : State) (a n : Nat) (b : Bool) : (s.setBit a n b).furs = s.furs := by rfl
@[simp] theorem State.setBit_rts (s : State) (a n : Nat) (b : Bool) : (s.setBit a n b).rts = s.rts := by rfl
@[simp] theorem State.setBit_twn (s : State) (a n : Nat) (b : Bool) : (s.setBit a n b).twn = s.twn := by rfl
@[simp] theorem State.setBit_qdm (s : State) (a n : Nat) (b : Bool) : (s.setBit a n b).qdm = s.qdm := by rfl
@[simp] theorem State.setBit_inv (s : State) (a n : Nat) (b : Bool) : (s.setBit a n b).inv = s.inv := by rfl
@[simp] theorem State.setBit_outbox (s : State) (a n : Nat) (b : Bool) : (s.setBit a n b).outbox = s.outbox := by rfl
@[simp] theorem State.setBit_sumCycle (s : State) (a n : Nat) (b : Bool) : (s.setBit a n b).sumCycle = s.sumCycle := by rfl
@[simp] theorem State.setBit_pending (s : State) (a n : Nat) (b : Bool) : (s.setBit a n b).pending = s.pending := by rfl

@[simp] theorem State.addTo_now (s : State) (a n : Nat) : (s.addTo a n).now = s.now := by rfl
@[simp] theorem State.addTo_free (s : State) (a n : Nat) : (s.addTo a n).free = s.free := by rfl
@[simp] theorem State.addTo_qdr (s : State) (a n : Nat) : (s.addTo a n).qdr = s.qdr := by rfl
@[simp] theorem State.addTo_flash (s : State) (a n : Nat) : (s.addTo a n).flash = s.flash := by rfl
@[simp] theorem State.addTo_top (s : State) (a n : Nat) : (s.addTo a n).top = s.top := by rfl
@[simp] theorem State.addTo_cur (s : State) (a n : Nat) : (s.addTo a n).cur = s.cur := by rfl
@[simp] theorem State.addTo_mboxes (s : State) (a n : Nat) : (s.addTo a n).mboxes = s.mboxes := by rfl
@[simp] theorem State.addTo_framers (s : State) (a n : Nat) : (s.addTo a n).framers = s.framers := by rfl
@[simp] theorem State.addTo_txs (s : State) (a n : Nat) : (s.addTo a n).txs = s.txs := by rfl
@[simp] theorem State.addTo_active (s : State) (a n : Nat) : (s.addTo a n).active = s.active := by rfl
@[simp] theorem State.addTo_tribs (s : State) (a n : Nat) : (s.addTo a n).tribs = s.tribs := by rfl
@[simp] theorem State.addTo_mapOh (s : State) (a n : Nat) : (s.addTo a n).mapOh = s.mapOh := by rfl
@[simp] theorem State.addTo_sinkHold (s : State) (a n : Nat) : (s.addTo a n).sinkHold = s.sinkHold := by rfl
@[simp] theorem State.addTo_pairs (s : State) (a n : Nat) : (s.addTo a n).pairs = s.pairs := by rfl
@[simp] theorem State.addTo_grants (s : State) (a n : Nat) : (s.addTo a n).grants = s.grants := by rfl
@[simp] theorem State.addTo_commitRows (s : State) (a n : Nat) : (s.addTo a n).commitRows = s.commitRows := by rfl
@[simp] theorem State.addTo_policy (s : State) (a n : Nat) : (s.addTo a n).policy = s.policy := by rfl
@[simp] theorem State.addTo_policyPending (s : State) (a n : Nat) : (s.addTo a n).policyPending = s.policyPending := by rfl
@[simp] theorem State.addTo_winStart (s : State) (a n : Nat) : (s.addTo a n).winStart = s.winStart := by rfl
@[simp] theorem State.addTo_sdlNs (s : State) (a n : Nat) : (s.addTo a n).sdlNs = s.sdlNs := by rfl
@[simp] theorem State.addTo_sdlFrom (s : State) (a n : Nat) : (s.addTo a n).sdlFrom = s.sdlFrom := by rfl
@[simp] theorem State.addTo_refs (s : State) (a n : Nat) : (s.addTo a n).refs = s.refs := by rfl
@[simp] theorem State.addTo_dials (s : State) (a n : Nat) : (s.addTo a n).dials = s.dials := by rfl
@[simp] theorem State.addTo_gens (s : State) (a n : Nat) : (s.addTo a n).gens = s.gens := by rfl
@[simp] theorem State.addTo_ttcs (s : State) (a n : Nat) : (s.addTo a n).ttcs = s.ttcs := by rfl
@[simp] theorem State.addTo_sves (s : State) (a n : Nat) : (s.addTo a n).sves = s.sves := by rfl
@[simp] theorem State.addTo_beds (s : State) (a n : Nat) : (s.addTo a n).beds = s.beds := by rfl
@[simp] theorem State.addTo_ctxs (s : State) (a n : Nat) : (s.addTo a n).ctxs = s.ctxs := by rfl
@[simp] theorem State.addTo_engines (s : State) (a n : Nat) : (s.addTo a n).engines = s.engines := by rfl
@[simp] theorem State.addTo_cycles (s : State) (a n : Nat) : (s.addTo a n).cycles = s.cycles := by rfl
@[simp] theorem State.addTo_furs (s : State) (a n : Nat) : (s.addTo a n).furs = s.furs := by rfl
@[simp] theorem State.addTo_rts (s : State) (a n : Nat) : (s.addTo a n).rts = s.rts := by rfl
@[simp] theorem State.addTo_twn (s : State) (a n : Nat) : (s.addTo a n).twn = s.twn := by rfl
@[simp] theorem State.addTo_qdm (s : State) (a n : Nat) : (s.addTo a n).qdm = s.qdm := by rfl
@[simp] theorem State.addTo_inv (s : State) (a n : Nat) : (s.addTo a n).inv = s.inv := by rfl
@[simp] theorem State.addTo_outbox (s : State) (a n : Nat) : (s.addTo a n).outbox = s.outbox := by rfl
@[simp] theorem State.addTo_sumCycle (s : State) (a n : Nat) : (s.addTo a n).sumCycle = s.sumCycle := by rfl
@[simp] theorem State.addTo_pending (s : State) (a n : Nat) : (s.addTo a n).pending = s.pending := by rfl

@[simp] theorem State.inc_now (s : State) (a : Nat) : (s.inc a).now = s.now := by rfl
@[simp] theorem State.inc_free (s : State) (a : Nat) : (s.inc a).free = s.free := by rfl
@[simp] theorem State.inc_qdr (s : State) (a : Nat) : (s.inc a).qdr = s.qdr := by rfl
@[simp] theorem State.inc_flash (s : State) (a : Nat) : (s.inc a).flash = s.flash := by rfl
@[simp] theorem State.inc_top (s : State) (a : Nat) : (s.inc a).top = s.top := by rfl
@[simp] theorem State.inc_cur (s : State) (a : Nat) : (s.inc a).cur = s.cur := by rfl
@[simp] theorem State.inc_mboxes (s : State) (a : Nat) : (s.inc a).mboxes = s.mboxes := by rfl
@[simp] theorem State.inc_framers (s : State) (a : Nat) : (s.inc a).framers = s.framers := by rfl
@[simp] theorem State.inc_txs (s : State) (a : Nat) : (s.inc a).txs = s.txs := by rfl
@[simp] theorem State.inc_active (s : State) (a : Nat) : (s.inc a).active = s.active := by rfl
@[simp] theorem State.inc_tribs (s : State) (a : Nat) : (s.inc a).tribs = s.tribs := by rfl
@[simp] theorem State.inc_mapOh (s : State) (a : Nat) : (s.inc a).mapOh = s.mapOh := by rfl
@[simp] theorem State.inc_sinkHold (s : State) (a : Nat) : (s.inc a).sinkHold = s.sinkHold := by rfl
@[simp] theorem State.inc_pairs (s : State) (a : Nat) : (s.inc a).pairs = s.pairs := by rfl
@[simp] theorem State.inc_grants (s : State) (a : Nat) : (s.inc a).grants = s.grants := by rfl
@[simp] theorem State.inc_commitRows (s : State) (a : Nat) : (s.inc a).commitRows = s.commitRows := by rfl
@[simp] theorem State.inc_policy (s : State) (a : Nat) : (s.inc a).policy = s.policy := by rfl
@[simp] theorem State.inc_policyPending (s : State) (a : Nat) : (s.inc a).policyPending = s.policyPending := by rfl
@[simp] theorem State.inc_winStart (s : State) (a : Nat) : (s.inc a).winStart = s.winStart := by rfl
@[simp] theorem State.inc_sdlNs (s : State) (a : Nat) : (s.inc a).sdlNs = s.sdlNs := by rfl
@[simp] theorem State.inc_sdlFrom (s : State) (a : Nat) : (s.inc a).sdlFrom = s.sdlFrom := by rfl
@[simp] theorem State.inc_refs (s : State) (a : Nat) : (s.inc a).refs = s.refs := by rfl
@[simp] theorem State.inc_dials (s : State) (a : Nat) : (s.inc a).dials = s.dials := by rfl
@[simp] theorem State.inc_gens (s : State) (a : Nat) : (s.inc a).gens = s.gens := by rfl
@[simp] theorem State.inc_ttcs (s : State) (a : Nat) : (s.inc a).ttcs = s.ttcs := by rfl
@[simp] theorem State.inc_sves (s : State) (a : Nat) : (s.inc a).sves = s.sves := by rfl
@[simp] theorem State.inc_beds (s : State) (a : Nat) : (s.inc a).beds = s.beds := by rfl
@[simp] theorem State.inc_ctxs (s : State) (a : Nat) : (s.inc a).ctxs = s.ctxs := by rfl
@[simp] theorem State.inc_engines (s : State) (a : Nat) : (s.inc a).engines = s.engines := by rfl
@[simp] theorem State.inc_cycles (s : State) (a : Nat) : (s.inc a).cycles = s.cycles := by rfl
@[simp] theorem State.inc_furs (s : State) (a : Nat) : (s.inc a).furs = s.furs := by rfl
@[simp] theorem State.inc_rts (s : State) (a : Nat) : (s.inc a).rts = s.rts := by rfl
@[simp] theorem State.inc_twn (s : State) (a : Nat) : (s.inc a).twn = s.twn := by rfl
@[simp] theorem State.inc_qdm (s : State) (a : Nat) : (s.inc a).qdm = s.qdm := by rfl
@[simp] theorem State.inc_inv (s : State) (a : Nat) : (s.inc a).inv = s.inv := by rfl
@[simp] theorem State.inc_outbox (s : State) (a : Nat) : (s.inc a).outbox = s.outbox := by rfl
@[simp] theorem State.inc_sumCycle (s : State) (a : Nat) : (s.inc a).sumCycle = s.sumCycle := by rfl
@[simp] theorem State.inc_pending (s : State) (a : Nat) : (s.inc a).pending = s.pending := by rfl

@[simp] theorem State.addSat_now (s : State) (a n v : Nat) : (s.addSat a n v).now = s.now := by rfl
@[simp] theorem State.addSat_free (s : State) (a n v : Nat) : (s.addSat a n v).free = s.free := by rfl
@[simp] theorem State.addSat_qdr (s : State) (a n v : Nat) : (s.addSat a n v).qdr = s.qdr := by rfl
@[simp] theorem State.addSat_flash (s : State) (a n v : Nat) : (s.addSat a n v).flash = s.flash := by rfl
@[simp] theorem State.addSat_top (s : State) (a n v : Nat) : (s.addSat a n v).top = s.top := by rfl
@[simp] theorem State.addSat_cur (s : State) (a n v : Nat) : (s.addSat a n v).cur = s.cur := by rfl
@[simp] theorem State.addSat_mboxes (s : State) (a n v : Nat) : (s.addSat a n v).mboxes = s.mboxes := by rfl
@[simp] theorem State.addSat_framers (s : State) (a n v : Nat) : (s.addSat a n v).framers = s.framers := by rfl
@[simp] theorem State.addSat_txs (s : State) (a n v : Nat) : (s.addSat a n v).txs = s.txs := by rfl
@[simp] theorem State.addSat_active (s : State) (a n v : Nat) : (s.addSat a n v).active = s.active := by rfl
@[simp] theorem State.addSat_tribs (s : State) (a n v : Nat) : (s.addSat a n v).tribs = s.tribs := by rfl
@[simp] theorem State.addSat_mapOh (s : State) (a n v : Nat) : (s.addSat a n v).mapOh = s.mapOh := by rfl
@[simp] theorem State.addSat_sinkHold (s : State) (a n v : Nat) : (s.addSat a n v).sinkHold = s.sinkHold := by rfl
@[simp] theorem State.addSat_pairs (s : State) (a n v : Nat) : (s.addSat a n v).pairs = s.pairs := by rfl
@[simp] theorem State.addSat_grants (s : State) (a n v : Nat) : (s.addSat a n v).grants = s.grants := by rfl
@[simp] theorem State.addSat_commitRows (s : State) (a n v : Nat) : (s.addSat a n v).commitRows = s.commitRows := by rfl
@[simp] theorem State.addSat_policy (s : State) (a n v : Nat) : (s.addSat a n v).policy = s.policy := by rfl
@[simp] theorem State.addSat_policyPending (s : State) (a n v : Nat) : (s.addSat a n v).policyPending = s.policyPending := by rfl
@[simp] theorem State.addSat_winStart (s : State) (a n v : Nat) : (s.addSat a n v).winStart = s.winStart := by rfl
@[simp] theorem State.addSat_sdlNs (s : State) (a n v : Nat) : (s.addSat a n v).sdlNs = s.sdlNs := by rfl
@[simp] theorem State.addSat_sdlFrom (s : State) (a n v : Nat) : (s.addSat a n v).sdlFrom = s.sdlFrom := by rfl
@[simp] theorem State.addSat_refs (s : State) (a n v : Nat) : (s.addSat a n v).refs = s.refs := by rfl
@[simp] theorem State.addSat_dials (s : State) (a n v : Nat) : (s.addSat a n v).dials = s.dials := by rfl
@[simp] theorem State.addSat_gens (s : State) (a n v : Nat) : (s.addSat a n v).gens = s.gens := by rfl
@[simp] theorem State.addSat_ttcs (s : State) (a n v : Nat) : (s.addSat a n v).ttcs = s.ttcs := by rfl
@[simp] theorem State.addSat_sves (s : State) (a n v : Nat) : (s.addSat a n v).sves = s.sves := by rfl
@[simp] theorem State.addSat_beds (s : State) (a n v : Nat) : (s.addSat a n v).beds = s.beds := by rfl
@[simp] theorem State.addSat_ctxs (s : State) (a n v : Nat) : (s.addSat a n v).ctxs = s.ctxs := by rfl
@[simp] theorem State.addSat_engines (s : State) (a n v : Nat) : (s.addSat a n v).engines = s.engines := by rfl
@[simp] theorem State.addSat_cycles (s : State) (a n v : Nat) : (s.addSat a n v).cycles = s.cycles := by rfl
@[simp] theorem State.addSat_furs (s : State) (a n v : Nat) : (s.addSat a n v).furs = s.furs := by rfl
@[simp] theorem State.addSat_rts (s : State) (a n v : Nat) : (s.addSat a n v).rts = s.rts := by rfl
@[simp] theorem State.addSat_twn (s : State) (a n v : Nat) : (s.addSat a n v).twn = s.twn := by rfl
@[simp] theorem State.addSat_qdm (s : State) (a n v : Nat) : (s.addSat a n v).qdm = s.qdm := by rfl
@[simp] theorem State.addSat_inv (s : State) (a n v : Nat) : (s.addSat a n v).inv = s.inv := by rfl
@[simp] theorem State.addSat_outbox (s : State) (a n v : Nat) : (s.addSat a n v).outbox = s.outbox := by rfl
@[simp] theorem State.addSat_sumCycle (s : State) (a n v : Nat) : (s.addSat a n v).sumCycle = s.sumCycle := by rfl
@[simp] theorem State.addSat_pending (s : State) (a n v : Nat) : (s.addSat a n v).pending = s.pending := by rfl

@[simp] theorem State.wr48_now (s : State) (lo hi v : Nat) : (s.wr48 lo hi v).now = s.now := by rfl
@[simp] theorem State.wr48_free (s : State) (lo hi v : Nat) : (s.wr48 lo hi v).free = s.free := by rfl
@[simp] theorem State.wr48_qdr (s : State) (lo hi v : Nat) : (s.wr48 lo hi v).qdr = s.qdr := by rfl
@[simp] theorem State.wr48_flash (s : State) (lo hi v : Nat) : (s.wr48 lo hi v).flash = s.flash := by rfl
@[simp] theorem State.wr48_top (s : State) (lo hi v : Nat) : (s.wr48 lo hi v).top = s.top := by rfl
@[simp] theorem State.wr48_cur (s : State) (lo hi v : Nat) : (s.wr48 lo hi v).cur = s.cur := by rfl
@[simp] theorem State.wr48_mboxes (s : State) (lo hi v : Nat) : (s.wr48 lo hi v).mboxes = s.mboxes := by rfl
@[simp] theorem State.wr48_framers (s : State) (lo hi v : Nat) : (s.wr48 lo hi v).framers = s.framers := by rfl
@[simp] theorem State.wr48_txs (s : State) (lo hi v : Nat) : (s.wr48 lo hi v).txs = s.txs := by rfl
@[simp] theorem State.wr48_active (s : State) (lo hi v : Nat) : (s.wr48 lo hi v).active = s.active := by rfl
@[simp] theorem State.wr48_tribs (s : State) (lo hi v : Nat) : (s.wr48 lo hi v).tribs = s.tribs := by rfl
@[simp] theorem State.wr48_mapOh (s : State) (lo hi v : Nat) : (s.wr48 lo hi v).mapOh = s.mapOh := by rfl
@[simp] theorem State.wr48_sinkHold (s : State) (lo hi v : Nat) : (s.wr48 lo hi v).sinkHold = s.sinkHold := by rfl
@[simp] theorem State.wr48_pairs (s : State) (lo hi v : Nat) : (s.wr48 lo hi v).pairs = s.pairs := by rfl
@[simp] theorem State.wr48_grants (s : State) (lo hi v : Nat) : (s.wr48 lo hi v).grants = s.grants := by rfl
@[simp] theorem State.wr48_commitRows (s : State) (lo hi v : Nat) : (s.wr48 lo hi v).commitRows = s.commitRows := by rfl
@[simp] theorem State.wr48_policy (s : State) (lo hi v : Nat) : (s.wr48 lo hi v).policy = s.policy := by rfl
@[simp] theorem State.wr48_policyPending (s : State) (lo hi v : Nat) : (s.wr48 lo hi v).policyPending = s.policyPending := by rfl
@[simp] theorem State.wr48_winStart (s : State) (lo hi v : Nat) : (s.wr48 lo hi v).winStart = s.winStart := by rfl
@[simp] theorem State.wr48_sdlNs (s : State) (lo hi v : Nat) : (s.wr48 lo hi v).sdlNs = s.sdlNs := by rfl
@[simp] theorem State.wr48_sdlFrom (s : State) (lo hi v : Nat) : (s.wr48 lo hi v).sdlFrom = s.sdlFrom := by rfl
@[simp] theorem State.wr48_refs (s : State) (lo hi v : Nat) : (s.wr48 lo hi v).refs = s.refs := by rfl
@[simp] theorem State.wr48_dials (s : State) (lo hi v : Nat) : (s.wr48 lo hi v).dials = s.dials := by rfl
@[simp] theorem State.wr48_gens (s : State) (lo hi v : Nat) : (s.wr48 lo hi v).gens = s.gens := by rfl
@[simp] theorem State.wr48_ttcs (s : State) (lo hi v : Nat) : (s.wr48 lo hi v).ttcs = s.ttcs := by rfl
@[simp] theorem State.wr48_sves (s : State) (lo hi v : Nat) : (s.wr48 lo hi v).sves = s.sves := by rfl
@[simp] theorem State.wr48_beds (s : State) (lo hi v : Nat) : (s.wr48 lo hi v).beds = s.beds := by rfl
@[simp] theorem State.wr48_ctxs (s : State) (lo hi v : Nat) : (s.wr48 lo hi v).ctxs = s.ctxs := by rfl
@[simp] theorem State.wr48_engines (s : State) (lo hi v : Nat) : (s.wr48 lo hi v).engines = s.engines := by rfl
@[simp] theorem State.wr48_cycles (s : State) (lo hi v : Nat) : (s.wr48 lo hi v).cycles = s.cycles := by rfl
@[simp] theorem State.wr48_furs (s : State) (lo hi v : Nat) : (s.wr48 lo hi v).furs = s.furs := by rfl
@[simp] theorem State.wr48_rts (s : State) (lo hi v : Nat) : (s.wr48 lo hi v).rts = s.rts := by rfl
@[simp] theorem State.wr48_twn (s : State) (lo hi v : Nat) : (s.wr48 lo hi v).twn = s.twn := by rfl
@[simp] theorem State.wr48_qdm (s : State) (lo hi v : Nat) : (s.wr48 lo hi v).qdm = s.qdm := by rfl
@[simp] theorem State.wr48_inv (s : State) (lo hi v : Nat) : (s.wr48 lo hi v).inv = s.inv := by rfl
@[simp] theorem State.wr48_outbox (s : State) (lo hi v : Nat) : (s.wr48 lo hi v).outbox = s.outbox := by rfl
@[simp] theorem State.wr48_sumCycle (s : State) (lo hi v : Nat) : (s.wr48 lo hi v).sumCycle = s.sumCycle := by rfl
@[simp] theorem State.wr48_pending (s : State) (lo hi v : Nat) : (s.wr48 lo hi v).pending = s.pending := by rfl

@[simp] theorem State.add48_now (s : State) (lo hi v : Nat) : (s.add48 lo hi v).now = s.now := by rw [State.add48, State.wr48_now]
@[simp] theorem State.add48_free (s : State) (lo hi v : Nat) : (s.add48 lo hi v).free = s.free := by rw [State.add48, State.wr48_free]
@[simp] theorem State.add48_qdr (s : State) (lo hi v : Nat) : (s.add48 lo hi v).qdr = s.qdr := by rw [State.add48, State.wr48_qdr]
@[simp] theorem State.add48_flash (s : State) (lo hi v : Nat) : (s.add48 lo hi v).flash = s.flash := by rw [State.add48, State.wr48_flash]
@[simp] theorem State.add48_top (s : State) (lo hi v : Nat) : (s.add48 lo hi v).top = s.top := by rw [State.add48, State.wr48_top]
@[simp] theorem State.add48_cur (s : State) (lo hi v : Nat) : (s.add48 lo hi v).cur = s.cur := by rw [State.add48, State.wr48_cur]
@[simp] theorem State.add48_mboxes (s : State) (lo hi v : Nat) : (s.add48 lo hi v).mboxes = s.mboxes := by rw [State.add48, State.wr48_mboxes]
@[simp] theorem State.add48_framers (s : State) (lo hi v : Nat) : (s.add48 lo hi v).framers = s.framers := by rw [State.add48, State.wr48_framers]
@[simp] theorem State.add48_txs (s : State) (lo hi v : Nat) : (s.add48 lo hi v).txs = s.txs := by rw [State.add48, State.wr48_txs]
@[simp] theorem State.add48_active (s : State) (lo hi v : Nat) : (s.add48 lo hi v).active = s.active := by rw [State.add48, State.wr48_active]
@[simp] theorem State.add48_tribs (s : State) (lo hi v : Nat) : (s.add48 lo hi v).tribs = s.tribs := by rw [State.add48, State.wr48_tribs]
@[simp] theorem State.add48_mapOh (s : State) (lo hi v : Nat) : (s.add48 lo hi v).mapOh = s.mapOh := by rw [State.add48, State.wr48_mapOh]
@[simp] theorem State.add48_sinkHold (s : State) (lo hi v : Nat) : (s.add48 lo hi v).sinkHold = s.sinkHold := by rw [State.add48, State.wr48_sinkHold]
@[simp] theorem State.add48_pairs (s : State) (lo hi v : Nat) : (s.add48 lo hi v).pairs = s.pairs := by rw [State.add48, State.wr48_pairs]
@[simp] theorem State.add48_grants (s : State) (lo hi v : Nat) : (s.add48 lo hi v).grants = s.grants := by rw [State.add48, State.wr48_grants]
@[simp] theorem State.add48_commitRows (s : State) (lo hi v : Nat) : (s.add48 lo hi v).commitRows = s.commitRows := by rw [State.add48, State.wr48_commitRows]
@[simp] theorem State.add48_policy (s : State) (lo hi v : Nat) : (s.add48 lo hi v).policy = s.policy := by rw [State.add48, State.wr48_policy]
@[simp] theorem State.add48_policyPending (s : State) (lo hi v : Nat) : (s.add48 lo hi v).policyPending = s.policyPending := by rw [State.add48, State.wr48_policyPending]
@[simp] theorem State.add48_winStart (s : State) (lo hi v : Nat) : (s.add48 lo hi v).winStart = s.winStart := by rw [State.add48, State.wr48_winStart]
@[simp] theorem State.add48_sdlNs (s : State) (lo hi v : Nat) : (s.add48 lo hi v).sdlNs = s.sdlNs := by rw [State.add48, State.wr48_sdlNs]
@[simp] theorem State.add48_sdlFrom (s : State) (lo hi v : Nat) : (s.add48 lo hi v).sdlFrom = s.sdlFrom := by rw [State.add48, State.wr48_sdlFrom]
@[simp] theorem State.add48_refs (s : State) (lo hi v : Nat) : (s.add48 lo hi v).refs = s.refs := by rw [State.add48, State.wr48_refs]
@[simp] theorem State.add48_dials (s : State) (lo hi v : Nat) : (s.add48 lo hi v).dials = s.dials := by rw [State.add48, State.wr48_dials]
@[simp] theorem State.add48_gens (s : State) (lo hi v : Nat) : (s.add48 lo hi v).gens = s.gens := by rw [State.add48, State.wr48_gens]
@[simp] theorem State.add48_ttcs (s : State) (lo hi v : Nat) : (s.add48 lo hi v).ttcs = s.ttcs := by rw [State.add48, State.wr48_ttcs]
@[simp] theorem State.add48_sves (s : State) (lo hi v : Nat) : (s.add48 lo hi v).sves = s.sves := by rw [State.add48, State.wr48_sves]
@[simp] theorem State.add48_beds (s : State) (lo hi v : Nat) : (s.add48 lo hi v).beds = s.beds := by rw [State.add48, State.wr48_beds]
@[simp] theorem State.add48_ctxs (s : State) (lo hi v : Nat) : (s.add48 lo hi v).ctxs = s.ctxs := by rw [State.add48, State.wr48_ctxs]
@[simp] theorem State.add48_engines (s : State) (lo hi v : Nat) : (s.add48 lo hi v).engines = s.engines := by rw [State.add48, State.wr48_engines]
@[simp] theorem State.add48_cycles (s : State) (lo hi v : Nat) : (s.add48 lo hi v).cycles = s.cycles := by rw [State.add48, State.wr48_cycles]
@[simp] theorem State.add48_furs (s : State) (lo hi v : Nat) : (s.add48 lo hi v).furs = s.furs := by rw [State.add48, State.wr48_furs]
@[simp] theorem State.add48_rts (s : State) (lo hi v : Nat) : (s.add48 lo hi v).rts = s.rts := by rw [State.add48, State.wr48_rts]
@[simp] theorem State.add48_twn (s : State) (lo hi v : Nat) : (s.add48 lo hi v).twn = s.twn := by rw [State.add48, State.wr48_twn]
@[simp] theorem State.add48_qdm (s : State) (lo hi v : Nat) : (s.add48 lo hi v).qdm = s.qdm := by rw [State.add48, State.wr48_qdm]
@[simp] theorem State.add48_inv (s : State) (lo hi v : Nat) : (s.add48 lo hi v).inv = s.inv := by rw [State.add48, State.wr48_inv]
@[simp] theorem State.add48_outbox (s : State) (lo hi v : Nat) : (s.add48 lo hi v).outbox = s.outbox := by rw [State.add48, State.wr48_outbox]
@[simp] theorem State.add48_sumCycle (s : State) (lo hi v : Nat) : (s.add48 lo hi v).sumCycle = s.sumCycle := by rw [State.add48, State.wr48_sumCycle]
@[simp] theorem State.add48_pending (s : State) (lo hi v : Nat) : (s.add48 lo hi v).pending = s.pending := by rw [State.add48, State.wr48_pending]

@[simp] theorem State.wrI_now (s : State) (a : Nat) (i : Int) : (s.wrI a i).now = s.now := by rfl
@[simp] theorem State.wrI_free (s : State) (a : Nat) (i : Int) : (s.wrI a i).free = s.free := by rfl
@[simp] theorem State.wrI_qdr (s : State) (a : Nat) (i : Int) : (s.wrI a i).qdr = s.qdr := by rfl
@[simp] theorem State.wrI_flash (s : State) (a : Nat) (i : Int) : (s.wrI a i).flash = s.flash := by rfl
@[simp] theorem State.wrI_top (s : State) (a : Nat) (i : Int) : (s.wrI a i).top = s.top := by rfl
@[simp] theorem State.wrI_cur (s : State) (a : Nat) (i : Int) : (s.wrI a i).cur = s.cur := by rfl
@[simp] theorem State.wrI_mboxes (s : State) (a : Nat) (i : Int) : (s.wrI a i).mboxes = s.mboxes := by rfl
@[simp] theorem State.wrI_framers (s : State) (a : Nat) (i : Int) : (s.wrI a i).framers = s.framers := by rfl
@[simp] theorem State.wrI_txs (s : State) (a : Nat) (i : Int) : (s.wrI a i).txs = s.txs := by rfl
@[simp] theorem State.wrI_active (s : State) (a : Nat) (i : Int) : (s.wrI a i).active = s.active := by rfl
@[simp] theorem State.wrI_tribs (s : State) (a : Nat) (i : Int) : (s.wrI a i).tribs = s.tribs := by rfl
@[simp] theorem State.wrI_mapOh (s : State) (a : Nat) (i : Int) : (s.wrI a i).mapOh = s.mapOh := by rfl
@[simp] theorem State.wrI_sinkHold (s : State) (a : Nat) (i : Int) : (s.wrI a i).sinkHold = s.sinkHold := by rfl
@[simp] theorem State.wrI_pairs (s : State) (a : Nat) (i : Int) : (s.wrI a i).pairs = s.pairs := by rfl
@[simp] theorem State.wrI_grants (s : State) (a : Nat) (i : Int) : (s.wrI a i).grants = s.grants := by rfl
@[simp] theorem State.wrI_commitRows (s : State) (a : Nat) (i : Int) : (s.wrI a i).commitRows = s.commitRows := by rfl
@[simp] theorem State.wrI_policy (s : State) (a : Nat) (i : Int) : (s.wrI a i).policy = s.policy := by rfl
@[simp] theorem State.wrI_policyPending (s : State) (a : Nat) (i : Int) : (s.wrI a i).policyPending = s.policyPending := by rfl
@[simp] theorem State.wrI_winStart (s : State) (a : Nat) (i : Int) : (s.wrI a i).winStart = s.winStart := by rfl
@[simp] theorem State.wrI_sdlNs (s : State) (a : Nat) (i : Int) : (s.wrI a i).sdlNs = s.sdlNs := by rfl
@[simp] theorem State.wrI_sdlFrom (s : State) (a : Nat) (i : Int) : (s.wrI a i).sdlFrom = s.sdlFrom := by rfl
@[simp] theorem State.wrI_refs (s : State) (a : Nat) (i : Int) : (s.wrI a i).refs = s.refs := by rfl
@[simp] theorem State.wrI_dials (s : State) (a : Nat) (i : Int) : (s.wrI a i).dials = s.dials := by rfl
@[simp] theorem State.wrI_gens (s : State) (a : Nat) (i : Int) : (s.wrI a i).gens = s.gens := by rfl
@[simp] theorem State.wrI_ttcs (s : State) (a : Nat) (i : Int) : (s.wrI a i).ttcs = s.ttcs := by rfl
@[simp] theorem State.wrI_sves (s : State) (a : Nat) (i : Int) : (s.wrI a i).sves = s.sves := by rfl
@[simp] theorem State.wrI_beds (s : State) (a : Nat) (i : Int) : (s.wrI a i).beds = s.beds := by rfl
@[simp] theorem State.wrI_ctxs (s : State) (a : Nat) (i : Int) : (s.wrI a i).ctxs = s.ctxs := by rfl
@[simp] theorem State.wrI_engines (s : State) (a : Nat) (i : Int) : (s.wrI a i).engines = s.engines := by rfl
@[simp] theorem State.wrI_cycles (s : State) (a : Nat) (i : Int) : (s.wrI a i).cycles = s.cycles := by rfl
@[simp] theorem State.wrI_furs (s : State) (a : Nat) (i : Int) : (s.wrI a i).furs = s.furs := by rfl
@[simp] theorem State.wrI_rts (s : State) (a : Nat) (i : Int) : (s.wrI a i).rts = s.rts := by rfl
@[simp] theorem State.wrI_twn (s : State) (a : Nat) (i : Int) : (s.wrI a i).twn = s.twn := by rfl
@[simp] theorem State.wrI_qdm (s : State) (a : Nat) (i : Int) : (s.wrI a i).qdm = s.qdm := by rfl
@[simp] theorem State.wrI_inv (s : State) (a : Nat) (i : Int) : (s.wrI a i).inv = s.inv := by rfl
@[simp] theorem State.wrI_outbox (s : State) (a : Nat) (i : Int) : (s.wrI a i).outbox = s.outbox := by rfl
@[simp] theorem State.wrI_sumCycle (s : State) (a : Nat) (i : Int) : (s.wrI a i).sumCycle = s.sumCycle := by rfl
@[simp] theorem State.wrI_pending (s : State) (a : Nat) (i : Int) : (s.wrI a i).pending = s.pending := by rfl

@[simp] theorem State.clearRegs_now (s : State) (lo hi : Nat) : (s.clearRegs lo hi).now = s.now := by rfl
@[simp] theorem State.clearRegs_free (s : State) (lo hi : Nat) : (s.clearRegs lo hi).free = s.free := by rfl
@[simp] theorem State.clearRegs_regs (s : State) (lo hi : Nat) : (s.clearRegs lo hi).regs = s.regs.filter (fun e => decide (e.1 < lo ∨ hi ≤ e.1)) := by rfl
@[simp] theorem State.clearRegs_qdr (s : State) (lo hi : Nat) : (s.clearRegs lo hi).qdr = s.qdr := by rfl
@[simp] theorem State.clearRegs_flash (s : State) (lo hi : Nat) : (s.clearRegs lo hi).flash = s.flash := by rfl
@[simp] theorem State.clearRegs_top (s : State) (lo hi : Nat) : (s.clearRegs lo hi).top = s.top := by rfl
@[simp] theorem State.clearRegs_cur (s : State) (lo hi : Nat) : (s.clearRegs lo hi).cur = s.cur := by rfl
@[simp] theorem State.clearRegs_mboxes (s : State) (lo hi : Nat) : (s.clearRegs lo hi).mboxes = s.mboxes := by rfl
@[simp] theorem State.clearRegs_framers (s : State) (lo hi : Nat) : (s.clearRegs lo hi).framers = s.framers := by rfl
@[simp] theorem State.clearRegs_txs (s : State) (lo hi : Nat) : (s.clearRegs lo hi).txs = s.txs := by rfl
@[simp] theorem State.clearRegs_active (s : State) (lo hi : Nat) : (s.clearRegs lo hi).active = s.active := by rfl
@[simp] theorem State.clearRegs_tribs (s : State) (lo hi : Nat) : (s.clearRegs lo hi).tribs = s.tribs := by rfl
@[simp] theorem State.clearRegs_mapOh (s : State) (lo hi : Nat) : (s.clearRegs lo hi).mapOh = s.mapOh := by rfl
@[simp] theorem State.clearRegs_sinkHold (s : State) (lo hi : Nat) : (s.clearRegs lo hi).sinkHold = s.sinkHold := by rfl
@[simp] theorem State.clearRegs_pairs (s : State) (lo hi : Nat) : (s.clearRegs lo hi).pairs = s.pairs := by rfl
@[simp] theorem State.clearRegs_grants (s : State) (lo hi : Nat) : (s.clearRegs lo hi).grants = s.grants := by rfl
@[simp] theorem State.clearRegs_commitRows (s : State) (lo hi : Nat) : (s.clearRegs lo hi).commitRows = s.commitRows := by rfl
@[simp] theorem State.clearRegs_policy (s : State) (lo hi : Nat) : (s.clearRegs lo hi).policy = s.policy := by rfl
@[simp] theorem State.clearRegs_policyPending (s : State) (lo hi : Nat) : (s.clearRegs lo hi).policyPending = s.policyPending := by rfl
@[simp] theorem State.clearRegs_winStart (s : State) (lo hi : Nat) : (s.clearRegs lo hi).winStart = s.winStart := by rfl
@[simp] theorem State.clearRegs_sdlNs (s : State) (lo hi : Nat) : (s.clearRegs lo hi).sdlNs = s.sdlNs := by rfl
@[simp] theorem State.clearRegs_sdlFrom (s : State) (lo hi : Nat) : (s.clearRegs lo hi).sdlFrom = s.sdlFrom := by rfl
@[simp] theorem State.clearRegs_refs (s : State) (lo hi : Nat) : (s.clearRegs lo hi).refs = s.refs := by rfl
@[simp] theorem State.clearRegs_dials (s : State) (lo hi : Nat) : (s.clearRegs lo hi).dials = s.dials := by rfl
@[simp] theorem State.clearRegs_gens (s : State) (lo hi : Nat) : (s.clearRegs lo hi).gens = s.gens := by rfl
@[simp] theorem State.clearRegs_ttcs (s : State) (lo hi : Nat) : (s.clearRegs lo hi).ttcs = s.ttcs := by rfl
@[simp] theorem State.clearRegs_sves (s : State) (lo hi : Nat) : (s.clearRegs lo hi).sves = s.sves := by rfl
@[simp] theorem State.clearRegs_beds (s : State) (lo hi : Nat) : (s.clearRegs lo hi).beds = s.beds := by rfl
@[simp] theorem State.clearRegs_ctxs (s : State) (lo hi : Nat) : (s.clearRegs lo hi).ctxs = s.ctxs := by rfl
@[simp] theorem State.clearRegs_engines (s : State) (lo hi : Nat) : (s.clearRegs lo hi).engines = s.engines := by rfl
@[simp] theorem State.clearRegs_cycles (s : State) (lo hi : Nat) : (s.clearRegs lo hi).cycles = s.cycles := by rfl
@[simp] theorem State.clearRegs_furs (s : State) (lo hi : Nat) : (s.clearRegs lo hi).furs = s.furs := by rfl
@[simp] theorem State.clearRegs_rts (s : State) (lo hi : Nat) : (s.clearRegs lo hi).rts = s.rts := by rfl
@[simp] theorem State.clearRegs_twn (s : State) (lo hi : Nat) : (s.clearRegs lo hi).twn = s.twn := by rfl
@[simp] theorem State.clearRegs_qdm (s : State) (lo hi : Nat) : (s.clearRegs lo hi).qdm = s.qdm := by rfl
@[simp] theorem State.clearRegs_inv (s : State) (lo hi : Nat) : (s.clearRegs lo hi).inv = s.inv := by rfl
@[simp] theorem State.clearRegs_outbox (s : State) (lo hi : Nat) : (s.clearRegs lo hi).outbox = s.outbox := by rfl
@[simp] theorem State.clearRegs_sumCycle (s : State) (lo hi : Nat) : (s.clearRegs lo hi).sumCycle = s.sumCycle := by rfl
@[simp] theorem State.clearRegs_pending (s : State) (lo hi : Nat) : (s.clearRegs lo hi).pending = s.pending := by rfl

@[simp] theorem State.qdrPut_now (s : State) (a : Nat) (bs : List Byte) : (s.qdrPut a bs).now = s.now := by rfl
@[simp] theorem State.qdrPut_free (s : State) (a : Nat) (bs : List Byte) : (s.qdrPut a bs).free = s.free := by rfl
@[simp] theorem State.qdrPut_regs (s : State) (a : Nat) (bs : List Byte) : (s.qdrPut a bs).regs = s.regs := by rfl
@[simp] theorem State.qdrPut_qdr (s : State) (a : Nat) (bs : List Byte) : (s.qdrPut a bs).qdr = Memory.writeAll qdrEmpty s.qdr a bs := by rfl
@[simp] theorem State.qdrPut_flash (s : State) (a : Nat) (bs : List Byte) : (s.qdrPut a bs).flash = s.flash := by rfl
@[simp] theorem State.qdrPut_top (s : State) (a : Nat) (bs : List Byte) : (s.qdrPut a bs).top = s.top := by rfl
@[simp] theorem State.qdrPut_cur (s : State) (a : Nat) (bs : List Byte) : (s.qdrPut a bs).cur = s.cur := by rfl
@[simp] theorem State.qdrPut_mboxes (s : State) (a : Nat) (bs : List Byte) : (s.qdrPut a bs).mboxes = s.mboxes := by rfl
@[simp] theorem State.qdrPut_framers (s : State) (a : Nat) (bs : List Byte) : (s.qdrPut a bs).framers = s.framers := by rfl
@[simp] theorem State.qdrPut_txs (s : State) (a : Nat) (bs : List Byte) : (s.qdrPut a bs).txs = s.txs := by rfl
@[simp] theorem State.qdrPut_active (s : State) (a : Nat) (bs : List Byte) : (s.qdrPut a bs).active = s.active := by rfl
@[simp] theorem State.qdrPut_tribs (s : State) (a : Nat) (bs : List Byte) : (s.qdrPut a bs).tribs = s.tribs := by rfl
@[simp] theorem State.qdrPut_mapOh (s : State) (a : Nat) (bs : List Byte) : (s.qdrPut a bs).mapOh = s.mapOh := by rfl
@[simp] theorem State.qdrPut_sinkHold (s : State) (a : Nat) (bs : List Byte) : (s.qdrPut a bs).sinkHold = s.sinkHold := by rfl
@[simp] theorem State.qdrPut_pairs (s : State) (a : Nat) (bs : List Byte) : (s.qdrPut a bs).pairs = s.pairs := by rfl
@[simp] theorem State.qdrPut_grants (s : State) (a : Nat) (bs : List Byte) : (s.qdrPut a bs).grants = s.grants := by rfl
@[simp] theorem State.qdrPut_commitRows (s : State) (a : Nat) (bs : List Byte) : (s.qdrPut a bs).commitRows = s.commitRows := by rfl
@[simp] theorem State.qdrPut_policy (s : State) (a : Nat) (bs : List Byte) : (s.qdrPut a bs).policy = s.policy := by rfl
@[simp] theorem State.qdrPut_policyPending (s : State) (a : Nat) (bs : List Byte) : (s.qdrPut a bs).policyPending = s.policyPending := by rfl
@[simp] theorem State.qdrPut_winStart (s : State) (a : Nat) (bs : List Byte) : (s.qdrPut a bs).winStart = s.winStart := by rfl
@[simp] theorem State.qdrPut_sdlNs (s : State) (a : Nat) (bs : List Byte) : (s.qdrPut a bs).sdlNs = s.sdlNs := by rfl
@[simp] theorem State.qdrPut_sdlFrom (s : State) (a : Nat) (bs : List Byte) : (s.qdrPut a bs).sdlFrom = s.sdlFrom := by rfl
@[simp] theorem State.qdrPut_refs (s : State) (a : Nat) (bs : List Byte) : (s.qdrPut a bs).refs = s.refs := by rfl
@[simp] theorem State.qdrPut_dials (s : State) (a : Nat) (bs : List Byte) : (s.qdrPut a bs).dials = s.dials := by rfl
@[simp] theorem State.qdrPut_gens (s : State) (a : Nat) (bs : List Byte) : (s.qdrPut a bs).gens = s.gens := by rfl
@[simp] theorem State.qdrPut_ttcs (s : State) (a : Nat) (bs : List Byte) : (s.qdrPut a bs).ttcs = s.ttcs := by rfl
@[simp] theorem State.qdrPut_sves (s : State) (a : Nat) (bs : List Byte) : (s.qdrPut a bs).sves = s.sves := by rfl
@[simp] theorem State.qdrPut_beds (s : State) (a : Nat) (bs : List Byte) : (s.qdrPut a bs).beds = s.beds := by rfl
@[simp] theorem State.qdrPut_ctxs (s : State) (a : Nat) (bs : List Byte) : (s.qdrPut a bs).ctxs = s.ctxs := by rfl
@[simp] theorem State.qdrPut_engines (s : State) (a : Nat) (bs : List Byte) : (s.qdrPut a bs).engines = s.engines := by rfl
@[simp] theorem State.qdrPut_cycles (s : State) (a : Nat) (bs : List Byte) : (s.qdrPut a bs).cycles = s.cycles := by rfl
@[simp] theorem State.qdrPut_furs (s : State) (a : Nat) (bs : List Byte) : (s.qdrPut a bs).furs = s.furs := by rfl
@[simp] theorem State.qdrPut_rts (s : State) (a : Nat) (bs : List Byte) : (s.qdrPut a bs).rts = s.rts := by rfl
@[simp] theorem State.qdrPut_twn (s : State) (a : Nat) (bs : List Byte) : (s.qdrPut a bs).twn = s.twn := by rfl
@[simp] theorem State.qdrPut_qdm (s : State) (a : Nat) (bs : List Byte) : (s.qdrPut a bs).qdm = s.qdm := by rfl
@[simp] theorem State.qdrPut_inv (s : State) (a : Nat) (bs : List Byte) : (s.qdrPut a bs).inv = s.inv := by rfl
@[simp] theorem State.qdrPut_outbox (s : State) (a : Nat) (bs : List Byte) : (s.qdrPut a bs).outbox = s.outbox := by rfl
@[simp] theorem State.qdrPut_sumCycle (s : State) (a : Nat) (bs : List Byte) : (s.qdrPut a bs).sumCycle = s.sumCycle := by rfl
@[simp] theorem State.qdrPut_pending (s : State) (a : Nat) (bs : List Byte) : (s.qdrPut a bs).pending = s.pending := by rfl

@[simp] theorem State.flashPut_now (s : State) (a : Nat) (bs : List Byte) : (s.flashPut a bs).now = s.now := by rfl
@[simp] theorem State.flashPut_free (s : State) (a : Nat) (bs : List Byte) : (s.flashPut a bs).free = s.free := by rfl
@[simp] theorem State.flashPut_regs (s : State) (a : Nat) (bs : List Byte) : (s.flashPut a bs).regs = s.regs := by rfl
@[simp] theorem State.flashPut_qdr (s : State) (a : Nat) (bs : List Byte) : (s.flashPut a bs).qdr = s.qdr := by rfl
@[simp] theorem State.flashPut_flash (s : State) (a : Nat) (bs : List Byte) : (s.flashPut a bs).flash = Memory.writeAll flashEmpty s.flash a bs := by rfl
@[simp] theorem State.flashPut_top (s : State) (a : Nat) (bs : List Byte) : (s.flashPut a bs).top = s.top := by rfl
@[simp] theorem State.flashPut_cur (s : State) (a : Nat) (bs : List Byte) : (s.flashPut a bs).cur = s.cur := by rfl
@[simp] theorem State.flashPut_mboxes (s : State) (a : Nat) (bs : List Byte) : (s.flashPut a bs).mboxes = s.mboxes := by rfl
@[simp] theorem State.flashPut_framers (s : State) (a : Nat) (bs : List Byte) : (s.flashPut a bs).framers = s.framers := by rfl
@[simp] theorem State.flashPut_txs (s : State) (a : Nat) (bs : List Byte) : (s.flashPut a bs).txs = s.txs := by rfl
@[simp] theorem State.flashPut_active (s : State) (a : Nat) (bs : List Byte) : (s.flashPut a bs).active = s.active := by rfl
@[simp] theorem State.flashPut_tribs (s : State) (a : Nat) (bs : List Byte) : (s.flashPut a bs).tribs = s.tribs := by rfl
@[simp] theorem State.flashPut_mapOh (s : State) (a : Nat) (bs : List Byte) : (s.flashPut a bs).mapOh = s.mapOh := by rfl
@[simp] theorem State.flashPut_sinkHold (s : State) (a : Nat) (bs : List Byte) : (s.flashPut a bs).sinkHold = s.sinkHold := by rfl
@[simp] theorem State.flashPut_pairs (s : State) (a : Nat) (bs : List Byte) : (s.flashPut a bs).pairs = s.pairs := by rfl
@[simp] theorem State.flashPut_grants (s : State) (a : Nat) (bs : List Byte) : (s.flashPut a bs).grants = s.grants := by rfl
@[simp] theorem State.flashPut_commitRows (s : State) (a : Nat) (bs : List Byte) : (s.flashPut a bs).commitRows = s.commitRows := by rfl
@[simp] theorem State.flashPut_policy (s : State) (a : Nat) (bs : List Byte) : (s.flashPut a bs).policy = s.policy := by rfl
@[simp] theorem State.flashPut_policyPending (s : State) (a : Nat) (bs : List Byte) : (s.flashPut a bs).policyPending = s.policyPending := by rfl
@[simp] theorem State.flashPut_winStart (s : State) (a : Nat) (bs : List Byte) : (s.flashPut a bs).winStart = s.winStart := by rfl
@[simp] theorem State.flashPut_sdlNs (s : State) (a : Nat) (bs : List Byte) : (s.flashPut a bs).sdlNs = s.sdlNs := by rfl
@[simp] theorem State.flashPut_sdlFrom (s : State) (a : Nat) (bs : List Byte) : (s.flashPut a bs).sdlFrom = s.sdlFrom := by rfl
@[simp] theorem State.flashPut_refs (s : State) (a : Nat) (bs : List Byte) : (s.flashPut a bs).refs = s.refs := by rfl
@[simp] theorem State.flashPut_dials (s : State) (a : Nat) (bs : List Byte) : (s.flashPut a bs).dials = s.dials := by rfl
@[simp] theorem State.flashPut_gens (s : State) (a : Nat) (bs : List Byte) : (s.flashPut a bs).gens = s.gens := by rfl
@[simp] theorem State.flashPut_ttcs (s : State) (a : Nat) (bs : List Byte) : (s.flashPut a bs).ttcs = s.ttcs := by rfl
@[simp] theorem State.flashPut_sves (s : State) (a : Nat) (bs : List Byte) : (s.flashPut a bs).sves = s.sves := by rfl
@[simp] theorem State.flashPut_beds (s : State) (a : Nat) (bs : List Byte) : (s.flashPut a bs).beds = s.beds := by rfl
@[simp] theorem State.flashPut_ctxs (s : State) (a : Nat) (bs : List Byte) : (s.flashPut a bs).ctxs = s.ctxs := by rfl
@[simp] theorem State.flashPut_engines (s : State) (a : Nat) (bs : List Byte) : (s.flashPut a bs).engines = s.engines := by rfl
@[simp] theorem State.flashPut_cycles (s : State) (a : Nat) (bs : List Byte) : (s.flashPut a bs).cycles = s.cycles := by rfl
@[simp] theorem State.flashPut_furs (s : State) (a : Nat) (bs : List Byte) : (s.flashPut a bs).furs = s.furs := by rfl
@[simp] theorem State.flashPut_rts (s : State) (a : Nat) (bs : List Byte) : (s.flashPut a bs).rts = s.rts := by rfl
@[simp] theorem State.flashPut_twn (s : State) (a : Nat) (bs : List Byte) : (s.flashPut a bs).twn = s.twn := by rfl
@[simp] theorem State.flashPut_qdm (s : State) (a : Nat) (bs : List Byte) : (s.flashPut a bs).qdm = s.qdm := by rfl
@[simp] theorem State.flashPut_inv (s : State) (a : Nat) (bs : List Byte) : (s.flashPut a bs).inv = s.inv := by rfl
@[simp] theorem State.flashPut_outbox (s : State) (a : Nat) (bs : List Byte) : (s.flashPut a bs).outbox = s.outbox := by rfl
@[simp] theorem State.flashPut_sumCycle (s : State) (a : Nat) (bs : List Byte) : (s.flashPut a bs).sumCycle = s.sumCycle := by rfl
@[simp] theorem State.flashPut_pending (s : State) (a : Nat) (bs : List Byte) : (s.flashPut a bs).pending = s.pending := by rfl

@[simp] theorem State.emit_now (s : State) (m : OutMsg) : (s.emit m).now = s.now := by rfl
@[simp] theorem State.emit_free (s : State) (m : OutMsg) : (s.emit m).free = s.free := by rfl
@[simp] theorem State.emit_regs (s : State) (m : OutMsg) : (s.emit m).regs = s.regs := by rfl
@[simp] theorem State.emit_qdr (s : State) (m : OutMsg) : (s.emit m).qdr = s.qdr := by rfl
@[simp] theorem State.emit_flash (s : State) (m : OutMsg) : (s.emit m).flash = s.flash := by rfl
@[simp] theorem State.emit_top (s : State) (m : OutMsg) : (s.emit m).top = s.top := by rfl
@[simp] theorem State.emit_cur (s : State) (m : OutMsg) : (s.emit m).cur = s.cur := by rfl
@[simp] theorem State.emit_mboxes (s : State) (m : OutMsg) : (s.emit m).mboxes = s.mboxes := by rfl
@[simp] theorem State.emit_framers (s : State) (m : OutMsg) : (s.emit m).framers = s.framers := by rfl
@[simp] theorem State.emit_txs (s : State) (m : OutMsg) : (s.emit m).txs = s.txs := by rfl
@[simp] theorem State.emit_active (s : State) (m : OutMsg) : (s.emit m).active = s.active := by rfl
@[simp] theorem State.emit_tribs (s : State) (m : OutMsg) : (s.emit m).tribs = s.tribs := by rfl
@[simp] theorem State.emit_mapOh (s : State) (m : OutMsg) : (s.emit m).mapOh = s.mapOh := by rfl
@[simp] theorem State.emit_sinkHold (s : State) (m : OutMsg) : (s.emit m).sinkHold = s.sinkHold := by rfl
@[simp] theorem State.emit_pairs (s : State) (m : OutMsg) : (s.emit m).pairs = s.pairs := by rfl
@[simp] theorem State.emit_grants (s : State) (m : OutMsg) : (s.emit m).grants = s.grants := by rfl
@[simp] theorem State.emit_commitRows (s : State) (m : OutMsg) : (s.emit m).commitRows = s.commitRows := by rfl
@[simp] theorem State.emit_policy (s : State) (m : OutMsg) : (s.emit m).policy = s.policy := by rfl
@[simp] theorem State.emit_policyPending (s : State) (m : OutMsg) : (s.emit m).policyPending = s.policyPending := by rfl
@[simp] theorem State.emit_winStart (s : State) (m : OutMsg) : (s.emit m).winStart = s.winStart := by rfl
@[simp] theorem State.emit_sdlNs (s : State) (m : OutMsg) : (s.emit m).sdlNs = s.sdlNs := by rfl
@[simp] theorem State.emit_sdlFrom (s : State) (m : OutMsg) : (s.emit m).sdlFrom = s.sdlFrom := by rfl
@[simp] theorem State.emit_refs (s : State) (m : OutMsg) : (s.emit m).refs = s.refs := by rfl
@[simp] theorem State.emit_dials (s : State) (m : OutMsg) : (s.emit m).dials = s.dials := by rfl
@[simp] theorem State.emit_gens (s : State) (m : OutMsg) : (s.emit m).gens = s.gens := by rfl
@[simp] theorem State.emit_ttcs (s : State) (m : OutMsg) : (s.emit m).ttcs = s.ttcs := by rfl
@[simp] theorem State.emit_sves (s : State) (m : OutMsg) : (s.emit m).sves = s.sves := by rfl
@[simp] theorem State.emit_beds (s : State) (m : OutMsg) : (s.emit m).beds = s.beds := by rfl
@[simp] theorem State.emit_ctxs (s : State) (m : OutMsg) : (s.emit m).ctxs = s.ctxs := by rfl
@[simp] theorem State.emit_engines (s : State) (m : OutMsg) : (s.emit m).engines = s.engines := by rfl
@[simp] theorem State.emit_cycles (s : State) (m : OutMsg) : (s.emit m).cycles = s.cycles := by rfl
@[simp] theorem State.emit_furs (s : State) (m : OutMsg) : (s.emit m).furs = s.furs := by rfl
@[simp] theorem State.emit_rts (s : State) (m : OutMsg) : (s.emit m).rts = s.rts := by rfl
@[simp] theorem State.emit_twn (s : State) (m : OutMsg) : (s.emit m).twn = s.twn := by rfl
@[simp] theorem State.emit_qdm (s : State) (m : OutMsg) : (s.emit m).qdm = s.qdm := by rfl
@[simp] theorem State.emit_inv (s : State) (m : OutMsg) : (s.emit m).inv = s.inv := by rfl
@[simp] theorem State.emit_outbox (s : State) (m : OutMsg) : (s.emit m).outbox = s.outbox ++ [m] := by rfl
@[simp] theorem State.emit_sumCycle (s : State) (m : OutMsg) : (s.emit m).sumCycle = s.sumCycle := by rfl
@[simp] theorem State.emit_pending (s : State) (m : OutMsg) : (s.emit m).pending = s.pending := by rfl

@[simp] theorem State.setBed_now (s : State) (b : Nat) (x : Bed) : (s.setBed b x).now = s.now := by rfl
@[simp] theorem State.setBed_free (s : State) (b : Nat) (x : Bed) : (s.setBed b x).free = s.free := by rfl
@[simp] theorem State.setBed_regs (s : State) (b : Nat) (x : Bed) : (s.setBed b x).regs = s.regs := by rfl
@[simp] theorem State.setBed_qdr (s : State) (b : Nat) (x : Bed) : (s.setBed b x).qdr = s.qdr := by rfl
@[simp] theorem State.setBed_flash (s : State) (b : Nat) (x : Bed) : (s.setBed b x).flash = s.flash := by rfl
@[simp] theorem State.setBed_top (s : State) (b : Nat) (x : Bed) : (s.setBed b x).top = s.top := by rfl
@[simp] theorem State.setBed_cur (s : State) (b : Nat) (x : Bed) : (s.setBed b x).cur = s.cur := by rfl
@[simp] theorem State.setBed_mboxes (s : State) (b : Nat) (x : Bed) : (s.setBed b x).mboxes = s.mboxes := by rfl
@[simp] theorem State.setBed_framers (s : State) (b : Nat) (x : Bed) : (s.setBed b x).framers = s.framers := by rfl
@[simp] theorem State.setBed_txs (s : State) (b : Nat) (x : Bed) : (s.setBed b x).txs = s.txs := by rfl
@[simp] theorem State.setBed_active (s : State) (b : Nat) (x : Bed) : (s.setBed b x).active = s.active := by rfl
@[simp] theorem State.setBed_tribs (s : State) (b : Nat) (x : Bed) : (s.setBed b x).tribs = s.tribs := by rfl
@[simp] theorem State.setBed_mapOh (s : State) (b : Nat) (x : Bed) : (s.setBed b x).mapOh = s.mapOh := by rfl
@[simp] theorem State.setBed_sinkHold (s : State) (b : Nat) (x : Bed) : (s.setBed b x).sinkHold = s.sinkHold := by rfl
@[simp] theorem State.setBed_pairs (s : State) (b : Nat) (x : Bed) : (s.setBed b x).pairs = s.pairs := by rfl
@[simp] theorem State.setBed_grants (s : State) (b : Nat) (x : Bed) : (s.setBed b x).grants = s.grants := by rfl
@[simp] theorem State.setBed_commitRows (s : State) (b : Nat) (x : Bed) : (s.setBed b x).commitRows = s.commitRows := by rfl
@[simp] theorem State.setBed_policy (s : State) (b : Nat) (x : Bed) : (s.setBed b x).policy = s.policy := by rfl
@[simp] theorem State.setBed_policyPending (s : State) (b : Nat) (x : Bed) : (s.setBed b x).policyPending = s.policyPending := by rfl
@[simp] theorem State.setBed_winStart (s : State) (b : Nat) (x : Bed) : (s.setBed b x).winStart = s.winStart := by rfl
@[simp] theorem State.setBed_sdlNs (s : State) (b : Nat) (x : Bed) : (s.setBed b x).sdlNs = s.sdlNs := by rfl
@[simp] theorem State.setBed_sdlFrom (s : State) (b : Nat) (x : Bed) : (s.setBed b x).sdlFrom = s.sdlFrom := by rfl
@[simp] theorem State.setBed_refs (s : State) (b : Nat) (x : Bed) : (s.setBed b x).refs = s.refs := by rfl
@[simp] theorem State.setBed_dials (s : State) (b : Nat) (x : Bed) : (s.setBed b x).dials = s.dials := by rfl
@[simp] theorem State.setBed_gens (s : State) (b : Nat) (x : Bed) : (s.setBed b x).gens = s.gens := by rfl
@[simp] theorem State.setBed_ttcs (s : State) (b : Nat) (x : Bed) : (s.setBed b x).ttcs = s.ttcs := by rfl
@[simp] theorem State.setBed_sves (s : State) (b : Nat) (x : Bed) : (s.setBed b x).sves = s.sves := by rfl
@[simp] theorem State.setBed_beds (s : State) (b : Nat) (x : Bed) : (s.setBed b x).beds = Tab.set s.beds Bed.init b x := by rfl
@[simp] theorem State.setBed_ctxs (s : State) (b : Nat) (x : Bed) : (s.setBed b x).ctxs = s.ctxs := by rfl
@[simp] theorem State.setBed_engines (s : State) (b : Nat) (x : Bed) : (s.setBed b x).engines = s.engines := by rfl
@[simp] theorem State.setBed_cycles (s : State) (b : Nat) (x : Bed) : (s.setBed b x).cycles = s.cycles := by rfl
@[simp] theorem State.setBed_furs (s : State) (b : Nat) (x : Bed) : (s.setBed b x).furs = s.furs := by rfl
@[simp] theorem State.setBed_rts (s : State) (b : Nat) (x : Bed) : (s.setBed b x).rts = s.rts := by rfl
@[simp] theorem State.setBed_twn (s : State) (b : Nat) (x : Bed) : (s.setBed b x).twn = s.twn := by rfl
@[simp] theorem State.setBed_qdm (s : State) (b : Nat) (x : Bed) : (s.setBed b x).qdm = s.qdm := by rfl
@[simp] theorem State.setBed_inv (s : State) (b : Nat) (x : Bed) : (s.setBed b x).inv = s.inv := by rfl
@[simp] theorem State.setBed_outbox (s : State) (b : Nat) (x : Bed) : (s.setBed b x).outbox = s.outbox := by rfl
@[simp] theorem State.setBed_sumCycle (s : State) (b : Nat) (x : Bed) : (s.setBed b x).sumCycle = s.sumCycle := by rfl
@[simp] theorem State.setBed_pending (s : State) (b : Nat) (x : Bed) : (s.setBed b x).pending = s.pending := by rfl

@[simp] theorem State.setCtx_now (s : State) (k : Nat) (x : Ctx) : (s.setCtx k x).now = s.now := by rfl
@[simp] theorem State.setCtx_free (s : State) (k : Nat) (x : Ctx) : (s.setCtx k x).free = s.free := by rfl
@[simp] theorem State.setCtx_regs (s : State) (k : Nat) (x : Ctx) : (s.setCtx k x).regs = s.regs := by rfl
@[simp] theorem State.setCtx_qdr (s : State) (k : Nat) (x : Ctx) : (s.setCtx k x).qdr = s.qdr := by rfl
@[simp] theorem State.setCtx_flash (s : State) (k : Nat) (x : Ctx) : (s.setCtx k x).flash = s.flash := by rfl
@[simp] theorem State.setCtx_top (s : State) (k : Nat) (x : Ctx) : (s.setCtx k x).top = s.top := by rfl
@[simp] theorem State.setCtx_cur (s : State) (k : Nat) (x : Ctx) : (s.setCtx k x).cur = s.cur := by rfl
@[simp] theorem State.setCtx_mboxes (s : State) (k : Nat) (x : Ctx) : (s.setCtx k x).mboxes = s.mboxes := by rfl
@[simp] theorem State.setCtx_framers (s : State) (k : Nat) (x : Ctx) : (s.setCtx k x).framers = s.framers := by rfl
@[simp] theorem State.setCtx_txs (s : State) (k : Nat) (x : Ctx) : (s.setCtx k x).txs = s.txs := by rfl
@[simp] theorem State.setCtx_active (s : State) (k : Nat) (x : Ctx) : (s.setCtx k x).active = s.active := by rfl
@[simp] theorem State.setCtx_tribs (s : State) (k : Nat) (x : Ctx) : (s.setCtx k x).tribs = s.tribs := by rfl
@[simp] theorem State.setCtx_mapOh (s : State) (k : Nat) (x : Ctx) : (s.setCtx k x).mapOh = s.mapOh := by rfl
@[simp] theorem State.setCtx_sinkHold (s : State) (k : Nat) (x : Ctx) : (s.setCtx k x).sinkHold = s.sinkHold := by rfl
@[simp] theorem State.setCtx_pairs (s : State) (k : Nat) (x : Ctx) : (s.setCtx k x).pairs = s.pairs := by rfl
@[simp] theorem State.setCtx_grants (s : State) (k : Nat) (x : Ctx) : (s.setCtx k x).grants = s.grants := by rfl
@[simp] theorem State.setCtx_commitRows (s : State) (k : Nat) (x : Ctx) : (s.setCtx k x).commitRows = s.commitRows := by rfl
@[simp] theorem State.setCtx_policy (s : State) (k : Nat) (x : Ctx) : (s.setCtx k x).policy = s.policy := by rfl
@[simp] theorem State.setCtx_policyPending (s : State) (k : Nat) (x : Ctx) : (s.setCtx k x).policyPending = s.policyPending := by rfl
@[simp] theorem State.setCtx_winStart (s : State) (k : Nat) (x : Ctx) : (s.setCtx k x).winStart = s.winStart := by rfl
@[simp] theorem State.setCtx_sdlNs (s : State) (k : Nat) (x : Ctx) : (s.setCtx k x).sdlNs = s.sdlNs := by rfl
@[simp] theorem State.setCtx_sdlFrom (s : State) (k : Nat) (x : Ctx) : (s.setCtx k x).sdlFrom = s.sdlFrom := by rfl
@[simp] theorem State.setCtx_refs (s : State) (k : Nat) (x : Ctx) : (s.setCtx k x).refs = s.refs := by rfl
@[simp] theorem State.setCtx_dials (s : State) (k : Nat) (x : Ctx) : (s.setCtx k x).dials = s.dials := by rfl
@[simp] theorem State.setCtx_gens (s : State) (k : Nat) (x : Ctx) : (s.setCtx k x).gens = s.gens := by rfl
@[simp] theorem State.setCtx_ttcs (s : State) (k : Nat) (x : Ctx) : (s.setCtx k x).ttcs = s.ttcs := by rfl
@[simp] theorem State.setCtx_sves (s : State) (k : Nat) (x : Ctx) : (s.setCtx k x).sves = s.sves := by rfl
@[simp] theorem State.setCtx_beds (s : State) (k : Nat) (x : Ctx) : (s.setCtx k x).beds = s.beds := by rfl
@[simp] theorem State.setCtx_ctxs (s : State) (k : Nat) (x : Ctx) : (s.setCtx k x).ctxs = Tab.set s.ctxs Ctx.init k x := by rfl
@[simp] theorem State.setCtx_engines (s : State) (k : Nat) (x : Ctx) : (s.setCtx k x).engines = s.engines := by rfl
@[simp] theorem State.setCtx_cycles (s : State) (k : Nat) (x : Ctx) : (s.setCtx k x).cycles = s.cycles := by rfl
@[simp] theorem State.setCtx_furs (s : State) (k : Nat) (x : Ctx) : (s.setCtx k x).furs = s.furs := by rfl
@[simp] theorem State.setCtx_rts (s : State) (k : Nat) (x : Ctx) : (s.setCtx k x).rts = s.rts := by rfl
@[simp] theorem State.setCtx_twn (s : State) (k : Nat) (x : Ctx) : (s.setCtx k x).twn = s.twn := by rfl
@[simp] theorem State.setCtx_qdm (s : State) (k : Nat) (x : Ctx) : (s.setCtx k x).qdm = s.qdm := by rfl
@[simp] theorem State.setCtx_inv (s : State) (k : Nat) (x : Ctx) : (s.setCtx k x).inv = s.inv := by rfl
@[simp] theorem State.setCtx_outbox (s : State) (k : Nat) (x : Ctx) : (s.setCtx k x).outbox = s.outbox := by rfl
@[simp] theorem State.setCtx_sumCycle (s : State) (k : Nat) (x : Ctx) : (s.setCtx k x).sumCycle = s.sumCycle := by rfl
@[simp] theorem State.setCtx_pending (s : State) (k : Nat) (x : Ctx) : (s.setCtx k x).pending = s.pending := by rfl

@[simp] theorem State.setPair_now (s : State) (i : Nat) (p : Pair) : (s.setPair i p).now = s.now := by rfl
@[simp] theorem State.setPair_free (s : State) (i : Nat) (p : Pair) : (s.setPair i p).free = s.free := by rfl
@[simp] theorem State.setPair_regs (s : State) (i : Nat) (p : Pair) : (s.setPair i p).regs = s.regs := by rfl
@[simp] theorem State.setPair_qdr (s : State) (i : Nat) (p : Pair) : (s.setPair i p).qdr = s.qdr := by rfl
@[simp] theorem State.setPair_flash (s : State) (i : Nat) (p : Pair) : (s.setPair i p).flash = s.flash := by rfl
@[simp] theorem State.setPair_top (s : State) (i : Nat) (p : Pair) : (s.setPair i p).top = s.top := by rfl
@[simp] theorem State.setPair_cur (s : State) (i : Nat) (p : Pair) : (s.setPair i p).cur = s.cur := by rfl
@[simp] theorem State.setPair_mboxes (s : State) (i : Nat) (p : Pair) : (s.setPair i p).mboxes = s.mboxes := by rfl
@[simp] theorem State.setPair_framers (s : State) (i : Nat) (p : Pair) : (s.setPair i p).framers = s.framers := by rfl
@[simp] theorem State.setPair_txs (s : State) (i : Nat) (p : Pair) : (s.setPair i p).txs = s.txs := by rfl
@[simp] theorem State.setPair_active (s : State) (i : Nat) (p : Pair) : (s.setPair i p).active = s.active := by rfl
@[simp] theorem State.setPair_tribs (s : State) (i : Nat) (p : Pair) : (s.setPair i p).tribs = s.tribs := by rfl
@[simp] theorem State.setPair_mapOh (s : State) (i : Nat) (p : Pair) : (s.setPair i p).mapOh = s.mapOh := by rfl
@[simp] theorem State.setPair_sinkHold (s : State) (i : Nat) (p : Pair) : (s.setPair i p).sinkHold = s.sinkHold := by rfl
@[simp] theorem State.setPair_pairs (s : State) (i : Nat) (p : Pair) : (s.setPair i p).pairs = Tab.set s.pairs Pair.init i p := by rfl
@[simp] theorem State.setPair_grants (s : State) (i : Nat) (p : Pair) : (s.setPair i p).grants = s.grants := by rfl
@[simp] theorem State.setPair_commitRows (s : State) (i : Nat) (p : Pair) : (s.setPair i p).commitRows = s.commitRows := by rfl
@[simp] theorem State.setPair_policy (s : State) (i : Nat) (p : Pair) : (s.setPair i p).policy = s.policy := by rfl
@[simp] theorem State.setPair_policyPending (s : State) (i : Nat) (p : Pair) : (s.setPair i p).policyPending = s.policyPending := by rfl
@[simp] theorem State.setPair_winStart (s : State) (i : Nat) (p : Pair) : (s.setPair i p).winStart = s.winStart := by rfl
@[simp] theorem State.setPair_sdlNs (s : State) (i : Nat) (p : Pair) : (s.setPair i p).sdlNs = s.sdlNs := by rfl
@[simp] theorem State.setPair_sdlFrom (s : State) (i : Nat) (p : Pair) : (s.setPair i p).sdlFrom = s.sdlFrom := by rfl
@[simp] theorem State.setPair_refs (s : State) (i : Nat) (p : Pair) : (s.setPair i p).refs = s.refs := by rfl
@[simp] theorem State.setPair_dials (s : State) (i : Nat) (p : Pair) : (s.setPair i p).dials = s.dials := by rfl
@[simp] theorem State.setPair_gens (s : State) (i : Nat) (p : Pair) : (s.setPair i p).gens = s.gens := by rfl
@[simp] theorem State.setPair_ttcs (s : State) (i : Nat) (p : Pair) : (s.setPair i p).ttcs = s.ttcs := by rfl
@[simp] theorem State.setPair_sves (s : State) (i : Nat) (p : Pair) : (s.setPair i p).sves = s.sves := by rfl
@[simp] theorem State.setPair_beds (s : State) (i : Nat) (p : Pair) : (s.setPair i p).beds = s.beds := by rfl
@[simp] theorem State.setPair_ctxs (s : State) (i : Nat) (p : Pair) : (s.setPair i p).ctxs = s.ctxs := by rfl
@[simp] theorem State.setPair_engines (s : State) (i : Nat) (p : Pair) : (s.setPair i p).engines = s.engines := by rfl
@[simp] theorem State.setPair_cycles (s : State) (i : Nat) (p : Pair) : (s.setPair i p).cycles = s.cycles := by rfl
@[simp] theorem State.setPair_furs (s : State) (i : Nat) (p : Pair) : (s.setPair i p).furs = s.furs := by rfl
@[simp] theorem State.setPair_rts (s : State) (i : Nat) (p : Pair) : (s.setPair i p).rts = s.rts := by rfl
@[simp] theorem State.setPair_twn (s : State) (i : Nat) (p : Pair) : (s.setPair i p).twn = s.twn := by rfl
@[simp] theorem State.setPair_qdm (s : State) (i : Nat) (p : Pair) : (s.setPair i p).qdm = s.qdm := by rfl
@[simp] theorem State.setPair_inv (s : State) (i : Nat) (p : Pair) : (s.setPair i p).inv = s.inv := by rfl
@[simp] theorem State.setPair_outbox (s : State) (i : Nat) (p : Pair) : (s.setPair i p).outbox = s.outbox := by rfl
@[simp] theorem State.setPair_sumCycle (s : State) (i : Nat) (p : Pair) : (s.setPair i p).sumCycle = s.sumCycle := by rfl
@[simp] theorem State.setPair_pending (s : State) (i : Nat) (p : Pair) : (s.setPair i p).pending = s.pending := by rfl

@[simp] theorem State.setTx_now (s : State) (f : Nat) (x : Tx) : (s.setTx f x).now = s.now := by rfl
@[simp] theorem State.setTx_free (s : State) (f : Nat) (x : Tx) : (s.setTx f x).free = s.free := by rfl
@[simp] theorem State.setTx_regs (s : State) (f : Nat) (x : Tx) : (s.setTx f x).regs = s.regs := by rfl
@[simp] theorem State.setTx_qdr (s : State) (f : Nat) (x : Tx) : (s.setTx f x).qdr = s.qdr := by rfl
@[simp] theorem State.setTx_flash (s : State) (f : Nat) (x : Tx) : (s.setTx f x).flash = s.flash := by rfl
@[simp] theorem State.setTx_top (s : State) (f : Nat) (x : Tx) : (s.setTx f x).top = s.top := by rfl
@[simp] theorem State.setTx_cur (s : State) (f : Nat) (x : Tx) : (s.setTx f x).cur = s.cur := by rfl
@[simp] theorem State.setTx_mboxes (s : State) (f : Nat) (x : Tx) : (s.setTx f x).mboxes = s.mboxes := by rfl
@[simp] theorem State.setTx_framers (s : State) (f : Nat) (x : Tx) : (s.setTx f x).framers = s.framers := by rfl
@[simp] theorem State.setTx_txs (s : State) (f : Nat) (x : Tx) : (s.setTx f x).txs = Tab.set s.txs Tx.init f x := by rfl
@[simp] theorem State.setTx_active (s : State) (f : Nat) (x : Tx) : (s.setTx f x).active = s.active := by rfl
@[simp] theorem State.setTx_tribs (s : State) (f : Nat) (x : Tx) : (s.setTx f x).tribs = s.tribs := by rfl
@[simp] theorem State.setTx_mapOh (s : State) (f : Nat) (x : Tx) : (s.setTx f x).mapOh = s.mapOh := by rfl
@[simp] theorem State.setTx_sinkHold (s : State) (f : Nat) (x : Tx) : (s.setTx f x).sinkHold = s.sinkHold := by rfl
@[simp] theorem State.setTx_pairs (s : State) (f : Nat) (x : Tx) : (s.setTx f x).pairs = s.pairs := by rfl
@[simp] theorem State.setTx_grants (s : State) (f : Nat) (x : Tx) : (s.setTx f x).grants = s.grants := by rfl
@[simp] theorem State.setTx_commitRows (s : State) (f : Nat) (x : Tx) : (s.setTx f x).commitRows = s.commitRows := by rfl
@[simp] theorem State.setTx_policy (s : State) (f : Nat) (x : Tx) : (s.setTx f x).policy = s.policy := by rfl
@[simp] theorem State.setTx_policyPending (s : State) (f : Nat) (x : Tx) : (s.setTx f x).policyPending = s.policyPending := by rfl
@[simp] theorem State.setTx_winStart (s : State) (f : Nat) (x : Tx) : (s.setTx f x).winStart = s.winStart := by rfl
@[simp] theorem State.setTx_sdlNs (s : State) (f : Nat) (x : Tx) : (s.setTx f x).sdlNs = s.sdlNs := by rfl
@[simp] theorem State.setTx_sdlFrom (s : State) (f : Nat) (x : Tx) : (s.setTx f x).sdlFrom = s.sdlFrom := by rfl
@[simp] theorem State.setTx_refs (s : State) (f : Nat) (x : Tx) : (s.setTx f x).refs = s.refs := by rfl
@[simp] theorem State.setTx_dials (s : State) (f : Nat) (x : Tx) : (s.setTx f x).dials = s.dials := by rfl
@[simp] theorem State.setTx_gens (s : State) (f : Nat) (x : Tx) : (s.setTx f x).gens = s.gens := by rfl
@[simp] theorem State.setTx_ttcs (s : State) (f : Nat) (x : Tx) : (s.setTx f x).ttcs = s.ttcs := by rfl
@[simp] theorem State.setTx_sves (s : State) (f : Nat) (x : Tx) : (s.setTx f x).sves = s.sves := by rfl
@[simp] theorem State.setTx_beds (s : State) (f : Nat) (x : Tx) : (s.setTx f x).beds = s.beds := by rfl
@[simp] theorem State.setTx_ctxs (s : State) (f : Nat) (x : Tx) : (s.setTx f x).ctxs = s.ctxs := by rfl
@[simp] theorem State.setTx_engines (s : State) (f : Nat) (x : Tx) : (s.setTx f x).engines = s.engines := by rfl
@[simp] theorem State.setTx_cycles (s : State) (f : Nat) (x : Tx) : (s.setTx f x).cycles = s.cycles := by rfl
@[simp] theorem State.setTx_furs (s : State) (f : Nat) (x : Tx) : (s.setTx f x).furs = s.furs := by rfl
@[simp] theorem State.setTx_rts (s : State) (f : Nat) (x : Tx) : (s.setTx f x).rts = s.rts := by rfl
@[simp] theorem State.setTx_twn (s : State) (f : Nat) (x : Tx) : (s.setTx f x).twn = s.twn := by rfl
@[simp] theorem State.setTx_qdm (s : State) (f : Nat) (x : Tx) : (s.setTx f x).qdm = s.qdm := by rfl
@[simp] theorem State.setTx_inv (s : State) (f : Nat) (x : Tx) : (s.setTx f x).inv = s.inv := by rfl
@[simp] theorem State.setTx_outbox (s : State) (f : Nat) (x : Tx) : (s.setTx f x).outbox = s.outbox := by rfl
@[simp] theorem State.setTx_sumCycle (s : State) (f : Nat) (x : Tx) : (s.setTx f x).sumCycle = s.sumCycle := by rfl
@[simp] theorem State.setTx_pending (s : State) (f : Nat) (x : Tx) : (s.setTx f x).pending = s.pending := by rfl

@[simp] theorem State.setTrib_now (s : State) (r t : Nat) (x : Trib) : (s.setTrib r t x).now = s.now := by rfl
@[simp] theorem State.setTrib_free (s : State) (r t : Nat) (x : Trib) : (s.setTrib r t x).free = s.free := by rfl
@[simp] theorem State.setTrib_regs (s : State) (r t : Nat) (x : Trib) : (s.setTrib r t x).regs = s.regs := by rfl
@[simp] theorem State.setTrib_qdr (s : State) (r t : Nat) (x : Trib) : (s.setTrib r t x).qdr = s.qdr := by rfl
@[simp] theorem State.setTrib_flash (s : State) (r t : Nat) (x : Trib) : (s.setTrib r t x).flash = s.flash := by rfl
@[simp] theorem State.setTrib_top (s : State) (r t : Nat) (x : Trib) : (s.setTrib r t x).top = s.top := by rfl
@[simp] theorem State.setTrib_cur (s : State) (r t : Nat) (x : Trib) : (s.setTrib r t x).cur = s.cur := by rfl
@[simp] theorem State.setTrib_mboxes (s : State) (r t : Nat) (x : Trib) : (s.setTrib r t x).mboxes = s.mboxes := by rfl
@[simp] theorem State.setTrib_framers (s : State) (r t : Nat) (x : Trib) : (s.setTrib r t x).framers = s.framers := by rfl
@[simp] theorem State.setTrib_txs (s : State) (r t : Nat) (x : Trib) : (s.setTrib r t x).txs = s.txs := by rfl
@[simp] theorem State.setTrib_active (s : State) (r t : Nat) (x : Trib) : (s.setTrib r t x).active = s.active := by rfl
@[simp] theorem State.setTrib_tribs (s : State) (r t : Nat) (x : Trib) : (s.setTrib r t x).tribs = Tab.set s.tribs Trib.init (80 * r + t) x := by rfl
@[simp] theorem State.setTrib_mapOh (s : State) (r t : Nat) (x : Trib) : (s.setTrib r t x).mapOh = s.mapOh := by rfl
@[simp] theorem State.setTrib_sinkHold (s : State) (r t : Nat) (x : Trib) : (s.setTrib r t x).sinkHold = s.sinkHold := by rfl
@[simp] theorem State.setTrib_pairs (s : State) (r t : Nat) (x : Trib) : (s.setTrib r t x).pairs = s.pairs := by rfl
@[simp] theorem State.setTrib_grants (s : State) (r t : Nat) (x : Trib) : (s.setTrib r t x).grants = s.grants := by rfl
@[simp] theorem State.setTrib_commitRows (s : State) (r t : Nat) (x : Trib) : (s.setTrib r t x).commitRows = s.commitRows := by rfl
@[simp] theorem State.setTrib_policy (s : State) (r t : Nat) (x : Trib) : (s.setTrib r t x).policy = s.policy := by rfl
@[simp] theorem State.setTrib_policyPending (s : State) (r t : Nat) (x : Trib) : (s.setTrib r t x).policyPending = s.policyPending := by rfl
@[simp] theorem State.setTrib_winStart (s : State) (r t : Nat) (x : Trib) : (s.setTrib r t x).winStart = s.winStart := by rfl
@[simp] theorem State.setTrib_sdlNs (s : State) (r t : Nat) (x : Trib) : (s.setTrib r t x).sdlNs = s.sdlNs := by rfl
@[simp] theorem State.setTrib_sdlFrom (s : State) (r t : Nat) (x : Trib) : (s.setTrib r t x).sdlFrom = s.sdlFrom := by rfl
@[simp] theorem State.setTrib_refs (s : State) (r t : Nat) (x : Trib) : (s.setTrib r t x).refs = s.refs := by rfl
@[simp] theorem State.setTrib_dials (s : State) (r t : Nat) (x : Trib) : (s.setTrib r t x).dials = s.dials := by rfl
@[simp] theorem State.setTrib_gens (s : State) (r t : Nat) (x : Trib) : (s.setTrib r t x).gens = s.gens := by rfl
@[simp] theorem State.setTrib_ttcs (s : State) (r t : Nat) (x : Trib) : (s.setTrib r t x).ttcs = s.ttcs := by rfl
@[simp] theorem State.setTrib_sves (s : State) (r t : Nat) (x : Trib) : (s.setTrib r t x).sves = s.sves := by rfl
@[simp] theorem State.setTrib_beds (s : State) (r t : Nat) (x : Trib) : (s.setTrib r t x).beds = s.beds := by rfl
@[simp] theorem State.setTrib_ctxs (s : State) (r t : Nat) (x : Trib) : (s.setTrib r t x).ctxs = s.ctxs := by rfl
@[simp] theorem State.setTrib_engines (s : State) (r t : Nat) (x : Trib) : (s.setTrib r t x).engines = s.engines := by rfl
@[simp] theorem State.setTrib_cycles (s : State) (r t : Nat) (x : Trib) : (s.setTrib r t x).cycles = s.cycles := by rfl
@[simp] theorem State.setTrib_furs (s : State) (r t : Nat) (x : Trib) : (s.setTrib r t x).furs = s.furs := by rfl
@[simp] theorem State.setTrib_rts (s : State) (r t : Nat) (x : Trib) : (s.setTrib r t x).rts = s.rts := by rfl
@[simp] theorem State.setTrib_twn (s : State) (r t : Nat) (x : Trib) : (s.setTrib r t x).twn = s.twn := by rfl
@[simp] theorem State.setTrib_qdm (s : State) (r t : Nat) (x : Trib) : (s.setTrib r t x).qdm = s.qdm := by rfl
@[simp] theorem State.setTrib_inv (s : State) (r t : Nat) (x : Trib) : (s.setTrib r t x).inv = s.inv := by rfl
@[simp] theorem State.setTrib_outbox (s : State) (r t : Nat) (x : Trib) : (s.setTrib r t x).outbox = s.outbox := by rfl
@[simp] theorem State.setTrib_sumCycle (s : State) (r t : Nat) (x : Trib) : (s.setTrib r t x).sumCycle = s.sumCycle := by rfl
@[simp] theorem State.setTrib_pending (s : State) (r t : Nat) (x : Trib) : (s.setTrib r t x).pending = s.pending := by rfl

@[simp] theorem State.setFur_now (s : State) (F : Nat) (f : Furrow) : (s.setFur F f).now = s.now := by rfl
@[simp] theorem State.setFur_free (s : State) (F : Nat) (f : Furrow) : (s.setFur F f).free = s.free := by rfl
@[simp] theorem State.setFur_regs (s : State) (F : Nat) (f : Furrow) : (s.setFur F f).regs = s.regs := by rfl
@[simp] theorem State.setFur_qdr (s : State) (F : Nat) (f : Furrow) : (s.setFur F f).qdr = s.qdr := by rfl
@[simp] theorem State.setFur_flash (s : State) (F : Nat) (f : Furrow) : (s.setFur F f).flash = s.flash := by rfl
@[simp] theorem State.setFur_top (s : State) (F : Nat) (f : Furrow) : (s.setFur F f).top = s.top := by rfl
@[simp] theorem State.setFur_cur (s : State) (F : Nat) (f : Furrow) : (s.setFur F f).cur = s.cur := by rfl
@[simp] theorem State.setFur_mboxes (s : State) (F : Nat) (f : Furrow) : (s.setFur F f).mboxes = s.mboxes := by rfl
@[simp] theorem State.setFur_framers (s : State) (F : Nat) (f : Furrow) : (s.setFur F f).framers = s.framers := by rfl
@[simp] theorem State.setFur_txs (s : State) (F : Nat) (f : Furrow) : (s.setFur F f).txs = s.txs := by rfl
@[simp] theorem State.setFur_active (s : State) (F : Nat) (f : Furrow) : (s.setFur F f).active = s.active := by rfl
@[simp] theorem State.setFur_tribs (s : State) (F : Nat) (f : Furrow) : (s.setFur F f).tribs = s.tribs := by rfl
@[simp] theorem State.setFur_mapOh (s : State) (F : Nat) (f : Furrow) : (s.setFur F f).mapOh = s.mapOh := by rfl
@[simp] theorem State.setFur_sinkHold (s : State) (F : Nat) (f : Furrow) : (s.setFur F f).sinkHold = s.sinkHold := by rfl
@[simp] theorem State.setFur_pairs (s : State) (F : Nat) (f : Furrow) : (s.setFur F f).pairs = s.pairs := by rfl
@[simp] theorem State.setFur_grants (s : State) (F : Nat) (f : Furrow) : (s.setFur F f).grants = s.grants := by rfl
@[simp] theorem State.setFur_commitRows (s : State) (F : Nat) (f : Furrow) : (s.setFur F f).commitRows = s.commitRows := by rfl
@[simp] theorem State.setFur_policy (s : State) (F : Nat) (f : Furrow) : (s.setFur F f).policy = s.policy := by rfl
@[simp] theorem State.setFur_policyPending (s : State) (F : Nat) (f : Furrow) : (s.setFur F f).policyPending = s.policyPending := by rfl
@[simp] theorem State.setFur_winStart (s : State) (F : Nat) (f : Furrow) : (s.setFur F f).winStart = s.winStart := by rfl
@[simp] theorem State.setFur_sdlNs (s : State) (F : Nat) (f : Furrow) : (s.setFur F f).sdlNs = s.sdlNs := by rfl
@[simp] theorem State.setFur_sdlFrom (s : State) (F : Nat) (f : Furrow) : (s.setFur F f).sdlFrom = s.sdlFrom := by rfl
@[simp] theorem State.setFur_refs (s : State) (F : Nat) (f : Furrow) : (s.setFur F f).refs = s.refs := by rfl
@[simp] theorem State.setFur_dials (s : State) (F : Nat) (f : Furrow) : (s.setFur F f).dials = s.dials := by rfl
@[simp] theorem State.setFur_gens (s : State) (F : Nat) (f : Furrow) : (s.setFur F f).gens = s.gens := by rfl
@[simp] theorem State.setFur_ttcs (s : State) (F : Nat) (f : Furrow) : (s.setFur F f).ttcs = s.ttcs := by rfl
@[simp] theorem State.setFur_sves (s : State) (F : Nat) (f : Furrow) : (s.setFur F f).sves = s.sves := by rfl
@[simp] theorem State.setFur_beds (s : State) (F : Nat) (f : Furrow) : (s.setFur F f).beds = s.beds := by rfl
@[simp] theorem State.setFur_ctxs (s : State) (F : Nat) (f : Furrow) : (s.setFur F f).ctxs = s.ctxs := by rfl
@[simp] theorem State.setFur_engines (s : State) (F : Nat) (f : Furrow) : (s.setFur F f).engines = s.engines := by rfl
@[simp] theorem State.setFur_cycles (s : State) (F : Nat) (f : Furrow) : (s.setFur F f).cycles = s.cycles := by rfl
@[simp] theorem State.setFur_furs (s : State) (F : Nat) (f : Furrow) : (s.setFur F f).furs = Tab.set s.furs (Furrow.init F) F f := by rfl
@[simp] theorem State.setFur_rts (s : State) (F : Nat) (f : Furrow) : (s.setFur F f).rts = s.rts := by rfl
@[simp] theorem State.setFur_twn (s : State) (F : Nat) (f : Furrow) : (s.setFur F f).twn = s.twn := by rfl
@[simp] theorem State.setFur_qdm (s : State) (F : Nat) (f : Furrow) : (s.setFur F f).qdm = s.qdm := by rfl
@[simp] theorem State.setFur_inv (s : State) (F : Nat) (f : Furrow) : (s.setFur F f).inv = s.inv := by rfl
@[simp] theorem State.setFur_outbox (s : State) (F : Nat) (f : Furrow) : (s.setFur F f).outbox = s.outbox := by rfl
@[simp] theorem State.setFur_sumCycle (s : State) (F : Nat) (f : Furrow) : (s.setFur F f).sumCycle = s.sumCycle := by rfl
@[simp] theorem State.setFur_pending (s : State) (F : Nat) (f : Furrow) : (s.setFur F f).pending = s.pending := by rfl

@[simp] theorem State.setFramer_now (s : State) (f : Nat) (x : Framer) : (s.setFramer f x).now = s.now := by rfl
@[simp] theorem State.setFramer_free (s : State) (f : Nat) (x : Framer) : (s.setFramer f x).free = s.free := by rfl
@[simp] theorem State.setFramer_regs (s : State) (f : Nat) (x : Framer) : (s.setFramer f x).regs = s.regs := by rfl
@[simp] theorem State.setFramer_qdr (s : State) (f : Nat) (x : Framer) : (s.setFramer f x).qdr = s.qdr := by rfl
@[simp] theorem State.setFramer_flash (s : State) (f : Nat) (x : Framer) : (s.setFramer f x).flash = s.flash := by rfl
@[simp] theorem State.setFramer_top (s : State) (f : Nat) (x : Framer) : (s.setFramer f x).top = s.top := by rfl
@[simp] theorem State.setFramer_cur (s : State) (f : Nat) (x : Framer) : (s.setFramer f x).cur = s.cur := by rfl
@[simp] theorem State.setFramer_mboxes (s : State) (f : Nat) (x : Framer) : (s.setFramer f x).mboxes = s.mboxes := by rfl
@[simp] theorem State.setFramer_framers (s : State) (f : Nat) (x : Framer) : (s.setFramer f x).framers = Tab.set s.framers Framer.init f x := by rfl
@[simp] theorem State.setFramer_txs (s : State) (f : Nat) (x : Framer) : (s.setFramer f x).txs = s.txs := by rfl
@[simp] theorem State.setFramer_active (s : State) (f : Nat) (x : Framer) : (s.setFramer f x).active = s.active := by rfl
@[simp] theorem State.setFramer_tribs (s : State) (f : Nat) (x : Framer) : (s.setFramer f x).tribs = s.tribs := by rfl
@[simp] theorem State.setFramer_mapOh (s : State) (f : Nat) (x : Framer) : (s.setFramer f x).mapOh = s.mapOh := by rfl
@[simp] theorem State.setFramer_sinkHold (s : State) (f : Nat) (x : Framer) : (s.setFramer f x).sinkHold = s.sinkHold := by rfl
@[simp] theorem State.setFramer_pairs (s : State) (f : Nat) (x : Framer) : (s.setFramer f x).pairs = s.pairs := by rfl
@[simp] theorem State.setFramer_grants (s : State) (f : Nat) (x : Framer) : (s.setFramer f x).grants = s.grants := by rfl
@[simp] theorem State.setFramer_commitRows (s : State) (f : Nat) (x : Framer) : (s.setFramer f x).commitRows = s.commitRows := by rfl
@[simp] theorem State.setFramer_policy (s : State) (f : Nat) (x : Framer) : (s.setFramer f x).policy = s.policy := by rfl
@[simp] theorem State.setFramer_policyPending (s : State) (f : Nat) (x : Framer) : (s.setFramer f x).policyPending = s.policyPending := by rfl
@[simp] theorem State.setFramer_winStart (s : State) (f : Nat) (x : Framer) : (s.setFramer f x).winStart = s.winStart := by rfl
@[simp] theorem State.setFramer_sdlNs (s : State) (f : Nat) (x : Framer) : (s.setFramer f x).sdlNs = s.sdlNs := by rfl
@[simp] theorem State.setFramer_sdlFrom (s : State) (f : Nat) (x : Framer) : (s.setFramer f x).sdlFrom = s.sdlFrom := by rfl
@[simp] theorem State.setFramer_refs (s : State) (f : Nat) (x : Framer) : (s.setFramer f x).refs = s.refs := by rfl
@[simp] theorem State.setFramer_dials (s : State) (f : Nat) (x : Framer) : (s.setFramer f x).dials = s.dials := by rfl
@[simp] theorem State.setFramer_gens (s : State) (f : Nat) (x : Framer) : (s.setFramer f x).gens = s.gens := by rfl
@[simp] theorem State.setFramer_ttcs (s : State) (f : Nat) (x : Framer) : (s.setFramer f x).ttcs = s.ttcs := by rfl
@[simp] theorem State.setFramer_sves (s : State) (f : Nat) (x : Framer) : (s.setFramer f x).sves = s.sves := by rfl
@[simp] theorem State.setFramer_beds (s : State) (f : Nat) (x : Framer) : (s.setFramer f x).beds = s.beds := by rfl
@[simp] theorem State.setFramer_ctxs (s : State) (f : Nat) (x : Framer) : (s.setFramer f x).ctxs = s.ctxs := by rfl
@[simp] theorem State.setFramer_engines (s : State) (f : Nat) (x : Framer) : (s.setFramer f x).engines = s.engines := by rfl
@[simp] theorem State.setFramer_cycles (s : State) (f : Nat) (x : Framer) : (s.setFramer f x).cycles = s.cycles := by rfl
@[simp] theorem State.setFramer_furs (s : State) (f : Nat) (x : Framer) : (s.setFramer f x).furs = s.furs := by rfl
@[simp] theorem State.setFramer_rts (s : State) (f : Nat) (x : Framer) : (s.setFramer f x).rts = s.rts := by rfl
@[simp] theorem State.setFramer_twn (s : State) (f : Nat) (x : Framer) : (s.setFramer f x).twn = s.twn := by rfl
@[simp] theorem State.setFramer_qdm (s : State) (f : Nat) (x : Framer) : (s.setFramer f x).qdm = s.qdm := by rfl
@[simp] theorem State.setFramer_inv (s : State) (f : Nat) (x : Framer) : (s.setFramer f x).inv = s.inv := by rfl
@[simp] theorem State.setFramer_outbox (s : State) (f : Nat) (x : Framer) : (s.setFramer f x).outbox = s.outbox := by rfl
@[simp] theorem State.setFramer_sumCycle (s : State) (f : Nat) (x : Framer) : (s.setFramer f x).sumCycle = s.sumCycle := by rfl
@[simp] theorem State.setFramer_pending (s : State) (f : Nat) (x : Framer) : (s.setFramer f x).pending = s.pending := by rfl

@[simp] theorem State.setMapOh_now (s : State) (r : Nat) (x : OhX) : (s.setMapOh r x).now = s.now := by rfl
@[simp] theorem State.setMapOh_free (s : State) (r : Nat) (x : OhX) : (s.setMapOh r x).free = s.free := by rfl
@[simp] theorem State.setMapOh_regs (s : State) (r : Nat) (x : OhX) : (s.setMapOh r x).regs = s.regs := by rfl
@[simp] theorem State.setMapOh_qdr (s : State) (r : Nat) (x : OhX) : (s.setMapOh r x).qdr = s.qdr := by rfl
@[simp] theorem State.setMapOh_flash (s : State) (r : Nat) (x : OhX) : (s.setMapOh r x).flash = s.flash := by rfl
@[simp] theorem State.setMapOh_top (s : State) (r : Nat) (x : OhX) : (s.setMapOh r x).top = s.top := by rfl
@[simp] theorem State.setMapOh_cur (s : State) (r : Nat) (x : OhX) : (s.setMapOh r x).cur = s.cur := by rfl
@[simp] theorem State.setMapOh_mboxes (s : State) (r : Nat) (x : OhX) : (s.setMapOh r x).mboxes = s.mboxes := by rfl
@[simp] theorem State.setMapOh_framers (s : State) (r : Nat) (x : OhX) : (s.setMapOh r x).framers = s.framers := by rfl
@[simp] theorem State.setMapOh_txs (s : State) (r : Nat) (x : OhX) : (s.setMapOh r x).txs = s.txs := by rfl
@[simp] theorem State.setMapOh_active (s : State) (r : Nat) (x : OhX) : (s.setMapOh r x).active = s.active := by rfl
@[simp] theorem State.setMapOh_tribs (s : State) (r : Nat) (x : OhX) : (s.setMapOh r x).tribs = s.tribs := by rfl
@[simp] theorem State.setMapOh_mapOh (s : State) (r : Nat) (x : OhX) : (s.setMapOh r x).mapOh = Tab.set s.mapOh OhX.mapInit r x := by rfl
@[simp] theorem State.setMapOh_sinkHold (s : State) (r : Nat) (x : OhX) : (s.setMapOh r x).sinkHold = s.sinkHold := by rfl
@[simp] theorem State.setMapOh_pairs (s : State) (r : Nat) (x : OhX) : (s.setMapOh r x).pairs = s.pairs := by rfl
@[simp] theorem State.setMapOh_grants (s : State) (r : Nat) (x : OhX) : (s.setMapOh r x).grants = s.grants := by rfl
@[simp] theorem State.setMapOh_commitRows (s : State) (r : Nat) (x : OhX) : (s.setMapOh r x).commitRows = s.commitRows := by rfl
@[simp] theorem State.setMapOh_policy (s : State) (r : Nat) (x : OhX) : (s.setMapOh r x).policy = s.policy := by rfl
@[simp] theorem State.setMapOh_policyPending (s : State) (r : Nat) (x : OhX) : (s.setMapOh r x).policyPending = s.policyPending := by rfl
@[simp] theorem State.setMapOh_winStart (s : State) (r : Nat) (x : OhX) : (s.setMapOh r x).winStart = s.winStart := by rfl
@[simp] theorem State.setMapOh_sdlNs (s : State) (r : Nat) (x : OhX) : (s.setMapOh r x).sdlNs = s.sdlNs := by rfl
@[simp] theorem State.setMapOh_sdlFrom (s : State) (r : Nat) (x : OhX) : (s.setMapOh r x).sdlFrom = s.sdlFrom := by rfl
@[simp] theorem State.setMapOh_refs (s : State) (r : Nat) (x : OhX) : (s.setMapOh r x).refs = s.refs := by rfl
@[simp] theorem State.setMapOh_dials (s : State) (r : Nat) (x : OhX) : (s.setMapOh r x).dials = s.dials := by rfl
@[simp] theorem State.setMapOh_gens (s : State) (r : Nat) (x : OhX) : (s.setMapOh r x).gens = s.gens := by rfl
@[simp] theorem State.setMapOh_ttcs (s : State) (r : Nat) (x : OhX) : (s.setMapOh r x).ttcs = s.ttcs := by rfl
@[simp] theorem State.setMapOh_sves (s : State) (r : Nat) (x : OhX) : (s.setMapOh r x).sves = s.sves := by rfl
@[simp] theorem State.setMapOh_beds (s : State) (r : Nat) (x : OhX) : (s.setMapOh r x).beds = s.beds := by rfl
@[simp] theorem State.setMapOh_ctxs (s : State) (r : Nat) (x : OhX) : (s.setMapOh r x).ctxs = s.ctxs := by rfl
@[simp] theorem State.setMapOh_engines (s : State) (r : Nat) (x : OhX) : (s.setMapOh r x).engines = s.engines := by rfl
@[simp] theorem State.setMapOh_cycles (s : State) (r : Nat) (x : OhX) : (s.setMapOh r x).cycles = s.cycles := by rfl
@[simp] theorem State.setMapOh_furs (s : State) (r : Nat) (x : OhX) : (s.setMapOh r x).furs = s.furs := by rfl
@[simp] theorem State.setMapOh_rts (s : State) (r : Nat) (x : OhX) : (s.setMapOh r x).rts = s.rts := by rfl
@[simp] theorem State.setMapOh_twn (s : State) (r : Nat) (x : OhX) : (s.setMapOh r x).twn = s.twn := by rfl
@[simp] theorem State.setMapOh_qdm (s : State) (r : Nat) (x : OhX) : (s.setMapOh r x).qdm = s.qdm := by rfl
@[simp] theorem State.setMapOh_inv (s : State) (r : Nat) (x : OhX) : (s.setMapOh r x).inv = s.inv := by rfl
@[simp] theorem State.setMapOh_outbox (s : State) (r : Nat) (x : OhX) : (s.setMapOh r x).outbox = s.outbox := by rfl
@[simp] theorem State.setMapOh_sumCycle (s : State) (r : Nat) (x : OhX) : (s.setMapOh r x).sumCycle = s.sumCycle := by rfl
@[simp] theorem State.setMapOh_pending (s : State) (r : Nat) (x : OhX) : (s.setMapOh r x).pending = s.pending := by rfl

@[simp] theorem State.setHold_now (s : State) (r sink n : Nat) : (s.setHold r sink n).now = s.now := by rfl
@[simp] theorem State.setHold_free (s : State) (r sink n : Nat) : (s.setHold r sink n).free = s.free := by rfl
@[simp] theorem State.setHold_regs (s : State) (r sink n : Nat) : (s.setHold r sink n).regs = s.regs := by rfl
@[simp] theorem State.setHold_qdr (s : State) (r sink n : Nat) : (s.setHold r sink n).qdr = s.qdr := by rfl
@[simp] theorem State.setHold_flash (s : State) (r sink n : Nat) : (s.setHold r sink n).flash = s.flash := by rfl
@[simp] theorem State.setHold_top (s : State) (r sink n : Nat) : (s.setHold r sink n).top = s.top := by rfl
@[simp] theorem State.setHold_cur (s : State) (r sink n : Nat) : (s.setHold r sink n).cur = s.cur := by rfl
@[simp] theorem State.setHold_mboxes (s : State) (r sink n : Nat) : (s.setHold r sink n).mboxes = s.mboxes := by rfl
@[simp] theorem State.setHold_framers (s : State) (r sink n : Nat) : (s.setHold r sink n).framers = s.framers := by rfl
@[simp] theorem State.setHold_txs (s : State) (r sink n : Nat) : (s.setHold r sink n).txs = s.txs := by rfl
@[simp] theorem State.setHold_active (s : State) (r sink n : Nat) : (s.setHold r sink n).active = s.active := by rfl
@[simp] theorem State.setHold_tribs (s : State) (r sink n : Nat) : (s.setHold r sink n).tribs = s.tribs := by rfl
@[simp] theorem State.setHold_mapOh (s : State) (r sink n : Nat) : (s.setHold r sink n).mapOh = s.mapOh := by rfl
@[simp] theorem State.setHold_sinkHold (s : State) (r sink n : Nat) : (s.setHold r sink n).sinkHold = Tab.set s.sinkHold 0 (128 * r + sink) n := by rfl
@[simp] theorem State.setHold_pairs (s : State) (r sink n : Nat) : (s.setHold r sink n).pairs = s.pairs := by rfl
@[simp] theorem State.setHold_grants (s : State) (r sink n : Nat) : (s.setHold r sink n).grants = s.grants := by rfl
@[simp] theorem State.setHold_commitRows (s : State) (r sink n : Nat) : (s.setHold r sink n).commitRows = s.commitRows := by rfl
@[simp] theorem State.setHold_policy (s : State) (r sink n : Nat) : (s.setHold r sink n).policy = s.policy := by rfl
@[simp] theorem State.setHold_policyPending (s : State) (r sink n : Nat) : (s.setHold r sink n).policyPending = s.policyPending := by rfl
@[simp] theorem State.setHold_winStart (s : State) (r sink n : Nat) : (s.setHold r sink n).winStart = s.winStart := by rfl
@[simp] theorem State.setHold_sdlNs (s : State) (r sink n : Nat) : (s.setHold r sink n).sdlNs = s.sdlNs := by rfl
@[simp] theorem State.setHold_sdlFrom (s : State) (r sink n : Nat) : (s.setHold r sink n).sdlFrom = s.sdlFrom := by rfl
@[simp] theorem State.setHold_refs (s : State) (r sink n : Nat) : (s.setHold r sink n).refs = s.refs := by rfl
@[simp] theorem State.setHold_dials (s : State) (r sink n : Nat) : (s.setHold r sink n).dials = s.dials := by rfl
@[simp] theorem State.setHold_gens (s : State) (r sink n : Nat) : (s.setHold r sink n).gens = s.gens := by rfl
@[simp] theorem State.setHold_ttcs (s : State) (r sink n : Nat) : (s.setHold r sink n).ttcs = s.ttcs := by rfl
@[simp] theorem State.setHold_sves (s : State) (r sink n : Nat) : (s.setHold r sink n).sves = s.sves := by rfl
@[simp] theorem State.setHold_beds (s : State) (r sink n : Nat) : (s.setHold r sink n).beds = s.beds := by rfl
@[simp] theorem State.setHold_ctxs (s : State) (r sink n : Nat) : (s.setHold r sink n).ctxs = s.ctxs := by rfl
@[simp] theorem State.setHold_engines (s : State) (r sink n : Nat) : (s.setHold r sink n).engines = s.engines := by rfl
@[simp] theorem State.setHold_cycles (s : State) (r sink n : Nat) : (s.setHold r sink n).cycles = s.cycles := by rfl
@[simp] theorem State.setHold_furs (s : State) (r sink n : Nat) : (s.setHold r sink n).furs = s.furs := by rfl
@[simp] theorem State.setHold_rts (s : State) (r sink n : Nat) : (s.setHold r sink n).rts = s.rts := by rfl
@[simp] theorem State.setHold_twn (s : State) (r sink n : Nat) : (s.setHold r sink n).twn = s.twn := by rfl
@[simp] theorem State.setHold_qdm (s : State) (r sink n : Nat) : (s.setHold r sink n).qdm = s.qdm := by rfl
@[simp] theorem State.setHold_inv (s : State) (r sink n : Nat) : (s.setHold r sink n).inv = s.inv := by rfl
@[simp] theorem State.setHold_outbox (s : State) (r sink n : Nat) : (s.setHold r sink n).outbox = s.outbox := by rfl
@[simp] theorem State.setHold_sumCycle (s : State) (r sink n : Nat) : (s.setHold r sink n).sumCycle = s.sumCycle := by rfl
@[simp] theorem State.setHold_pending (s : State) (r sink n : Nat) : (s.setHold r sink n).pending = s.pending := by rfl

@[simp] theorem State.setMbox_now (s : State) (k : Nat) (m : Mbox) : (s.setMbox k m).now = s.now := by rfl
@[simp] theorem State.setMbox_free (s : State) (k : Nat) (m : Mbox) : (s.setMbox k m).free = s.free := by rfl
@[simp] theorem State.setMbox_regs (s : State) (k : Nat) (m : Mbox) : (s.setMbox k m).regs = s.regs := by rfl
@[simp] theorem State.setMbox_qdr (s : State) (k : Nat) (m : Mbox) : (s.setMbox k m).qdr = s.qdr := by rfl
@[simp] theorem State.setMbox_flash (s : State) (k : Nat) (m : Mbox) : (s.setMbox k m).flash = s.flash := by rfl
@[simp] theorem State.setMbox_top (s : State) (k : Nat) (m : Mbox) : (s.setMbox k m).top = s.top := by rfl
@[simp] theorem State.setMbox_cur (s : State) (k : Nat) (m : Mbox) : (s.setMbox k m).cur = s.cur := by rfl
@[simp] theorem State.setMbox_mboxes (s : State) (k : Nat) (m : Mbox) : (s.setMbox k m).mboxes = Tab.set s.mboxes Mbox.init k m := by rfl
@[simp] theorem State.setMbox_framers (s : State) (k : Nat) (m : Mbox) : (s.setMbox k m).framers = s.framers := by rfl
@[simp] theorem State.setMbox_txs (s : State) (k : Nat) (m : Mbox) : (s.setMbox k m).txs = s.txs := by rfl
@[simp] theorem State.setMbox_active (s : State) (k : Nat) (m : Mbox) : (s.setMbox k m).active = s.active := by rfl
@[simp] theorem State.setMbox_tribs (s : State) (k : Nat) (m : Mbox) : (s.setMbox k m).tribs = s.tribs := by rfl
@[simp] theorem State.setMbox_mapOh (s : State) (k : Nat) (m : Mbox) : (s.setMbox k m).mapOh = s.mapOh := by rfl
@[simp] theorem State.setMbox_sinkHold (s : State) (k : Nat) (m : Mbox) : (s.setMbox k m).sinkHold = s.sinkHold := by rfl
@[simp] theorem State.setMbox_pairs (s : State) (k : Nat) (m : Mbox) : (s.setMbox k m).pairs = s.pairs := by rfl
@[simp] theorem State.setMbox_grants (s : State) (k : Nat) (m : Mbox) : (s.setMbox k m).grants = s.grants := by rfl
@[simp] theorem State.setMbox_commitRows (s : State) (k : Nat) (m : Mbox) : (s.setMbox k m).commitRows = s.commitRows := by rfl
@[simp] theorem State.setMbox_policy (s : State) (k : Nat) (m : Mbox) : (s.setMbox k m).policy = s.policy := by rfl
@[simp] theorem State.setMbox_policyPending (s : State) (k : Nat) (m : Mbox) : (s.setMbox k m).policyPending = s.policyPending := by rfl
@[simp] theorem State.setMbox_winStart (s : State) (k : Nat) (m : Mbox) : (s.setMbox k m).winStart = s.winStart := by rfl
@[simp] theorem State.setMbox_sdlNs (s : State) (k : Nat) (m : Mbox) : (s.setMbox k m).sdlNs = s.sdlNs := by rfl
@[simp] theorem State.setMbox_sdlFrom (s : State) (k : Nat) (m : Mbox) : (s.setMbox k m).sdlFrom = s.sdlFrom := by rfl
@[simp] theorem State.setMbox_refs (s : State) (k : Nat) (m : Mbox) : (s.setMbox k m).refs = s.refs := by rfl
@[simp] theorem State.setMbox_dials (s : State) (k : Nat) (m : Mbox) : (s.setMbox k m).dials = s.dials := by rfl
@[simp] theorem State.setMbox_gens (s : State) (k : Nat) (m : Mbox) : (s.setMbox k m).gens = s.gens := by rfl
@[simp] theorem State.setMbox_ttcs (s : State) (k : Nat) (m : Mbox) : (s.setMbox k m).ttcs = s.ttcs := by rfl
@[simp] theorem State.setMbox_sves (s : State) (k : Nat) (m : Mbox) : (s.setMbox k m).sves = s.sves := by rfl
@[simp] theorem State.setMbox_beds (s : State) (k : Nat) (m : Mbox) : (s.setMbox k m).beds = s.beds := by rfl
@[simp] theorem State.setMbox_ctxs (s : State) (k : Nat) (m : Mbox) : (s.setMbox k m).ctxs = s.ctxs := by rfl
@[simp] theorem State.setMbox_engines (s : State) (k : Nat) (m : Mbox) : (s.setMbox k m).engines = s.engines := by rfl
@[simp] theorem State.setMbox_cycles (s : State) (k : Nat) (m : Mbox) : (s.setMbox k m).cycles = s.cycles := by rfl
@[simp] theorem State.setMbox_furs (s : State) (k : Nat) (m : Mbox) : (s.setMbox k m).furs = s.furs := by rfl
@[simp] theorem State.setMbox_rts (s : State) (k : Nat) (m : Mbox) : (s.setMbox k m).rts = s.rts := by rfl
@[simp] theorem State.setMbox_twn (s : State) (k : Nat) (m : Mbox) : (s.setMbox k m).twn = s.twn := by rfl
@[simp] theorem State.setMbox_qdm (s : State) (k : Nat) (m : Mbox) : (s.setMbox k m).qdm = s.qdm := by rfl
@[simp] theorem State.setMbox_inv (s : State) (k : Nat) (m : Mbox) : (s.setMbox k m).inv = s.inv := by rfl
@[simp] theorem State.setMbox_outbox (s : State) (k : Nat) (m : Mbox) : (s.setMbox k m).outbox = s.outbox := by rfl
@[simp] theorem State.setMbox_sumCycle (s : State) (k : Nat) (m : Mbox) : (s.setMbox k m).sumCycle = s.sumCycle := by rfl
@[simp] theorem State.setMbox_pending (s : State) (k : Nat) (m : Mbox) : (s.setMbox k m).pending = s.pending := by rfl

@[simp] theorem State.setErrs_now (s : State) (cw : Nat) (es : List Nat) : (s.setErrs cw es).now = s.now := by rfl
@[simp] theorem State.setErrs_free (s : State) (cw : Nat) (es : List Nat) : (s.setErrs cw es).free = s.free := by rfl
@[simp] theorem State.setErrs_regs (s : State) (cw : Nat) (es : List Nat) : (s.setErrs cw es).regs = s.regs := by rfl
@[simp] theorem State.setErrs_qdr (s : State) (cw : Nat) (es : List Nat) : (s.setErrs cw es).qdr = s.qdr := by rfl
@[simp] theorem State.setErrs_flash (s : State) (cw : Nat) (es : List Nat) : (s.setErrs cw es).flash = s.flash := by rfl
@[simp] theorem State.setErrs_top (s : State) (cw : Nat) (es : List Nat) : (s.setErrs cw es).top = s.top := by rfl
@[simp] theorem State.setErrs_cur (s : State) (cw : Nat) (es : List Nat) : (s.setErrs cw es).cur = s.cur := by rfl
@[simp] theorem State.setErrs_mboxes (s : State) (cw : Nat) (es : List Nat) : (s.setErrs cw es).mboxes = s.mboxes := by rfl
@[simp] theorem State.setErrs_framers (s : State) (cw : Nat) (es : List Nat) : (s.setErrs cw es).framers = s.framers := by rfl
@[simp] theorem State.setErrs_txs (s : State) (cw : Nat) (es : List Nat) : (s.setErrs cw es).txs = s.txs := by rfl
@[simp] theorem State.setErrs_active (s : State) (cw : Nat) (es : List Nat) : (s.setErrs cw es).active = s.active := by rfl
@[simp] theorem State.setErrs_tribs (s : State) (cw : Nat) (es : List Nat) : (s.setErrs cw es).tribs = s.tribs := by rfl
@[simp] theorem State.setErrs_mapOh (s : State) (cw : Nat) (es : List Nat) : (s.setErrs cw es).mapOh = s.mapOh := by rfl
@[simp] theorem State.setErrs_sinkHold (s : State) (cw : Nat) (es : List Nat) : (s.setErrs cw es).sinkHold = s.sinkHold := by rfl
@[simp] theorem State.setErrs_pairs (s : State) (cw : Nat) (es : List Nat) : (s.setErrs cw es).pairs = s.pairs := by rfl
@[simp] theorem State.setErrs_grants (s : State) (cw : Nat) (es : List Nat) : (s.setErrs cw es).grants = s.grants := by rfl
@[simp] theorem State.setErrs_commitRows (s : State) (cw : Nat) (es : List Nat) : (s.setErrs cw es).commitRows = s.commitRows := by rfl
@[simp] theorem State.setErrs_policy (s : State) (cw : Nat) (es : List Nat) : (s.setErrs cw es).policy = s.policy := by rfl
@[simp] theorem State.setErrs_policyPending (s : State) (cw : Nat) (es : List Nat) : (s.setErrs cw es).policyPending = s.policyPending := by rfl
@[simp] theorem State.setErrs_winStart (s : State) (cw : Nat) (es : List Nat) : (s.setErrs cw es).winStart = s.winStart := by rfl
@[simp] theorem State.setErrs_sdlNs (s : State) (cw : Nat) (es : List Nat) : (s.setErrs cw es).sdlNs = s.sdlNs := by rfl
@[simp] theorem State.setErrs_sdlFrom (s : State) (cw : Nat) (es : List Nat) : (s.setErrs cw es).sdlFrom = s.sdlFrom := by rfl
@[simp] theorem State.setErrs_refs (s : State) (cw : Nat) (es : List Nat) : (s.setErrs cw es).refs = s.refs := by rfl
@[simp] theorem State.setErrs_dials (s : State) (cw : Nat) (es : List Nat) : (s.setErrs cw es).dials = s.dials := by rfl
@[simp] theorem State.setErrs_gens (s : State) (cw : Nat) (es : List Nat) : (s.setErrs cw es).gens = s.gens := by rfl
@[simp] theorem State.setErrs_ttcs (s : State) (cw : Nat) (es : List Nat) : (s.setErrs cw es).ttcs = s.ttcs := by rfl
@[simp] theorem State.setErrs_sves (s : State) (cw : Nat) (es : List Nat) : (s.setErrs cw es).sves = s.sves := by rfl
@[simp] theorem State.setErrs_beds (s : State) (cw : Nat) (es : List Nat) : (s.setErrs cw es).beds = s.beds := by rfl
@[simp] theorem State.setErrs_ctxs (s : State) (cw : Nat) (es : List Nat) : (s.setErrs cw es).ctxs = s.ctxs := by rfl
@[simp] theorem State.setErrs_engines (s : State) (cw : Nat) (es : List Nat) : (s.setErrs cw es).engines = s.engines := by rfl
@[simp] theorem State.setErrs_cycles (s : State) (cw : Nat) (es : List Nat) : (s.setErrs cw es).cycles = s.cycles := by rfl
@[simp] theorem State.setErrs_furs (s : State) (cw : Nat) (es : List Nat) : (s.setErrs cw es).furs = s.furs := by rfl
@[simp] theorem State.setErrs_rts (s : State) (cw : Nat) (es : List Nat) : (s.setErrs cw es).rts = s.rts := by rfl
@[simp] theorem State.setErrs_twn (s : State) (cw : Nat) (es : List Nat) : (s.setErrs cw es).twn = s.twn := by rfl
@[simp] theorem State.setErrs_qdm (s : State) (cw : Nat) (es : List Nat) : (s.setErrs cw es).qdm = { s.qdm with errs := Tab.set s.qdm.errs [] cw es } := by rfl
@[simp] theorem State.setErrs_inv (s : State) (cw : Nat) (es : List Nat) : (s.setErrs cw es).inv = s.inv := by rfl
@[simp] theorem State.setErrs_outbox (s : State) (cw : Nat) (es : List Nat) : (s.setErrs cw es).outbox = s.outbox := by rfl
@[simp] theorem State.setErrs_sumCycle (s : State) (cw : Nat) (es : List Nat) : (s.setErrs cw es).sumCycle = s.sumCycle := by rfl
@[simp] theorem State.setErrs_pending (s : State) (cw : Nat) (es : List Nat) : (s.setErrs cw es).pending = s.pending := by rfl

@[simp] theorem State.setRef_now (s : State) (r : Nat) (x : Ref) : (s.setRef r x).now = s.now := by rfl
@[simp] theorem State.setRef_free (s : State) (r : Nat) (x : Ref) : (s.setRef r x).free = s.free := by rfl
@[simp] theorem State.setRef_regs (s : State) (r : Nat) (x : Ref) : (s.setRef r x).regs = s.regs := by rfl
@[simp] theorem State.setRef_qdr (s : State) (r : Nat) (x : Ref) : (s.setRef r x).qdr = s.qdr := by rfl
@[simp] theorem State.setRef_flash (s : State) (r : Nat) (x : Ref) : (s.setRef r x).flash = s.flash := by rfl
@[simp] theorem State.setRef_top (s : State) (r : Nat) (x : Ref) : (s.setRef r x).top = s.top := by rfl
@[simp] theorem State.setRef_cur (s : State) (r : Nat) (x : Ref) : (s.setRef r x).cur = s.cur := by rfl
@[simp] theorem State.setRef_mboxes (s : State) (r : Nat) (x : Ref) : (s.setRef r x).mboxes = s.mboxes := by rfl
@[simp] theorem State.setRef_framers (s : State) (r : Nat) (x : Ref) : (s.setRef r x).framers = s.framers := by rfl
@[simp] theorem State.setRef_txs (s : State) (r : Nat) (x : Ref) : (s.setRef r x).txs = s.txs := by rfl
@[simp] theorem State.setRef_active (s : State) (r : Nat) (x : Ref) : (s.setRef r x).active = s.active := by rfl
@[simp] theorem State.setRef_tribs (s : State) (r : Nat) (x : Ref) : (s.setRef r x).tribs = s.tribs := by rfl
@[simp] theorem State.setRef_mapOh (s : State) (r : Nat) (x : Ref) : (s.setRef r x).mapOh = s.mapOh := by rfl
@[simp] theorem State.setRef_sinkHold (s : State) (r : Nat) (x : Ref) : (s.setRef r x).sinkHold = s.sinkHold := by rfl
@[simp] theorem State.setRef_pairs (s : State) (r : Nat) (x : Ref) : (s.setRef r x).pairs = s.pairs := by rfl
@[simp] theorem State.setRef_grants (s : State) (r : Nat) (x : Ref) : (s.setRef r x).grants = s.grants := by rfl
@[simp] theorem State.setRef_commitRows (s : State) (r : Nat) (x : Ref) : (s.setRef r x).commitRows = s.commitRows := by rfl
@[simp] theorem State.setRef_policy (s : State) (r : Nat) (x : Ref) : (s.setRef r x).policy = s.policy := by rfl
@[simp] theorem State.setRef_policyPending (s : State) (r : Nat) (x : Ref) : (s.setRef r x).policyPending = s.policyPending := by rfl
@[simp] theorem State.setRef_winStart (s : State) (r : Nat) (x : Ref) : (s.setRef r x).winStart = s.winStart := by rfl
@[simp] theorem State.setRef_sdlNs (s : State) (r : Nat) (x : Ref) : (s.setRef r x).sdlNs = s.sdlNs := by rfl
@[simp] theorem State.setRef_sdlFrom (s : State) (r : Nat) (x : Ref) : (s.setRef r x).sdlFrom = s.sdlFrom := by rfl
@[simp] theorem State.setRef_refs (s : State) (r : Nat) (x : Ref) : (s.setRef r x).refs = Tab.set s.refs Ref.init r x := by rfl
@[simp] theorem State.setRef_dials (s : State) (r : Nat) (x : Ref) : (s.setRef r x).dials = s.dials := by rfl
@[simp] theorem State.setRef_gens (s : State) (r : Nat) (x : Ref) : (s.setRef r x).gens = s.gens := by rfl
@[simp] theorem State.setRef_ttcs (s : State) (r : Nat) (x : Ref) : (s.setRef r x).ttcs = s.ttcs := by rfl
@[simp] theorem State.setRef_sves (s : State) (r : Nat) (x : Ref) : (s.setRef r x).sves = s.sves := by rfl
@[simp] theorem State.setRef_beds (s : State) (r : Nat) (x : Ref) : (s.setRef r x).beds = s.beds := by rfl
@[simp] theorem State.setRef_ctxs (s : State) (r : Nat) (x : Ref) : (s.setRef r x).ctxs = s.ctxs := by rfl
@[simp] theorem State.setRef_engines (s : State) (r : Nat) (x : Ref) : (s.setRef r x).engines = s.engines := by rfl
@[simp] theorem State.setRef_cycles (s : State) (r : Nat) (x : Ref) : (s.setRef r x).cycles = s.cycles := by rfl
@[simp] theorem State.setRef_furs (s : State) (r : Nat) (x : Ref) : (s.setRef r x).furs = s.furs := by rfl
@[simp] theorem State.setRef_rts (s : State) (r : Nat) (x : Ref) : (s.setRef r x).rts = s.rts := by rfl
@[simp] theorem State.setRef_twn (s : State) (r : Nat) (x : Ref) : (s.setRef r x).twn = s.twn := by rfl
@[simp] theorem State.setRef_qdm (s : State) (r : Nat) (x : Ref) : (s.setRef r x).qdm = s.qdm := by rfl
@[simp] theorem State.setRef_inv (s : State) (r : Nat) (x : Ref) : (s.setRef r x).inv = s.inv := by rfl
@[simp] theorem State.setRef_outbox (s : State) (r : Nat) (x : Ref) : (s.setRef r x).outbox = s.outbox := by rfl
@[simp] theorem State.setRef_sumCycle (s : State) (r : Nat) (x : Ref) : (s.setRef r x).sumCycle = s.sumCycle := by rfl
@[simp] theorem State.setRef_pending (s : State) (r : Nat) (x : Ref) : (s.setRef r x).pending = s.pending := by rfl

@[simp] theorem State.setGen_now (s : State) (g : Nat) (x : Gen) : (s.setGen g x).now = s.now := by rfl
@[simp] theorem State.setGen_free (s : State) (g : Nat) (x : Gen) : (s.setGen g x).free = s.free := by rfl
@[simp] theorem State.setGen_regs (s : State) (g : Nat) (x : Gen) : (s.setGen g x).regs = s.regs := by rfl
@[simp] theorem State.setGen_qdr (s : State) (g : Nat) (x : Gen) : (s.setGen g x).qdr = s.qdr := by rfl
@[simp] theorem State.setGen_flash (s : State) (g : Nat) (x : Gen) : (s.setGen g x).flash = s.flash := by rfl
@[simp] theorem State.setGen_top (s : State) (g : Nat) (x : Gen) : (s.setGen g x).top = s.top := by rfl
@[simp] theorem State.setGen_cur (s : State) (g : Nat) (x : Gen) : (s.setGen g x).cur = s.cur := by rfl
@[simp] theorem State.setGen_mboxes (s : State) (g : Nat) (x : Gen) : (s.setGen g x).mboxes = s.mboxes := by rfl
@[simp] theorem State.setGen_framers (s : State) (g : Nat) (x : Gen) : (s.setGen g x).framers = s.framers := by rfl
@[simp] theorem State.setGen_txs (s : State) (g : Nat) (x : Gen) : (s.setGen g x).txs = s.txs := by rfl
@[simp] theorem State.setGen_active (s : State) (g : Nat) (x : Gen) : (s.setGen g x).active = s.active := by rfl
@[simp] theorem State.setGen_tribs (s : State) (g : Nat) (x : Gen) : (s.setGen g x).tribs = s.tribs := by rfl
@[simp] theorem State.setGen_mapOh (s : State) (g : Nat) (x : Gen) : (s.setGen g x).mapOh = s.mapOh := by rfl
@[simp] theorem State.setGen_sinkHold (s : State) (g : Nat) (x : Gen) : (s.setGen g x).sinkHold = s.sinkHold := by rfl
@[simp] theorem State.setGen_pairs (s : State) (g : Nat) (x : Gen) : (s.setGen g x).pairs = s.pairs := by rfl
@[simp] theorem State.setGen_grants (s : State) (g : Nat) (x : Gen) : (s.setGen g x).grants = s.grants := by rfl
@[simp] theorem State.setGen_commitRows (s : State) (g : Nat) (x : Gen) : (s.setGen g x).commitRows = s.commitRows := by rfl
@[simp] theorem State.setGen_policy (s : State) (g : Nat) (x : Gen) : (s.setGen g x).policy = s.policy := by rfl
@[simp] theorem State.setGen_policyPending (s : State) (g : Nat) (x : Gen) : (s.setGen g x).policyPending = s.policyPending := by rfl
@[simp] theorem State.setGen_winStart (s : State) (g : Nat) (x : Gen) : (s.setGen g x).winStart = s.winStart := by rfl
@[simp] theorem State.setGen_sdlNs (s : State) (g : Nat) (x : Gen) : (s.setGen g x).sdlNs = s.sdlNs := by rfl
@[simp] theorem State.setGen_sdlFrom (s : State) (g : Nat) (x : Gen) : (s.setGen g x).sdlFrom = s.sdlFrom := by rfl
@[simp] theorem State.setGen_refs (s : State) (g : Nat) (x : Gen) : (s.setGen g x).refs = s.refs := by rfl
@[simp] theorem State.setGen_dials (s : State) (g : Nat) (x : Gen) : (s.setGen g x).dials = s.dials := by rfl
@[simp] theorem State.setGen_gens (s : State) (g : Nat) (x : Gen) : (s.setGen g x).gens = Tab.set s.gens Gen.init g x := by rfl
@[simp] theorem State.setGen_ttcs (s : State) (g : Nat) (x : Gen) : (s.setGen g x).ttcs = s.ttcs := by rfl
@[simp] theorem State.setGen_sves (s : State) (g : Nat) (x : Gen) : (s.setGen g x).sves = s.sves := by rfl
@[simp] theorem State.setGen_beds (s : State) (g : Nat) (x : Gen) : (s.setGen g x).beds = s.beds := by rfl
@[simp] theorem State.setGen_ctxs (s : State) (g : Nat) (x : Gen) : (s.setGen g x).ctxs = s.ctxs := by rfl
@[simp] theorem State.setGen_engines (s : State) (g : Nat) (x : Gen) : (s.setGen g x).engines = s.engines := by rfl
@[simp] theorem State.setGen_cycles (s : State) (g : Nat) (x : Gen) : (s.setGen g x).cycles = s.cycles := by rfl
@[simp] theorem State.setGen_furs (s : State) (g : Nat) (x : Gen) : (s.setGen g x).furs = s.furs := by rfl
@[simp] theorem State.setGen_rts (s : State) (g : Nat) (x : Gen) : (s.setGen g x).rts = s.rts := by rfl
@[simp] theorem State.setGen_twn (s : State) (g : Nat) (x : Gen) : (s.setGen g x).twn = s.twn := by rfl
@[simp] theorem State.setGen_qdm (s : State) (g : Nat) (x : Gen) : (s.setGen g x).qdm = s.qdm := by rfl
@[simp] theorem State.setGen_inv (s : State) (g : Nat) (x : Gen) : (s.setGen g x).inv = s.inv := by rfl
@[simp] theorem State.setGen_outbox (s : State) (g : Nat) (x : Gen) : (s.setGen g x).outbox = s.outbox := by rfl
@[simp] theorem State.setGen_sumCycle (s : State) (g : Nat) (x : Gen) : (s.setGen g x).sumCycle = s.sumCycle := by rfl
@[simp] theorem State.setGen_pending (s : State) (g : Nat) (x : Gen) : (s.setGen g x).pending = s.pending := by rfl

@[simp] theorem State.setTtc_now (s : State) (n : Nat) (c : Ttc) : (s.setTtc n c).now = s.now := by rfl
@[simp] theorem State.setTtc_free (s : State) (n : Nat) (c : Ttc) : (s.setTtc n c).free = s.free := by rfl
@[simp] theorem State.setTtc_regs (s : State) (n : Nat) (c : Ttc) : (s.setTtc n c).regs = s.regs := by rfl
@[simp] theorem State.setTtc_qdr (s : State) (n : Nat) (c : Ttc) : (s.setTtc n c).qdr = s.qdr := by rfl
@[simp] theorem State.setTtc_flash (s : State) (n : Nat) (c : Ttc) : (s.setTtc n c).flash = s.flash := by rfl
@[simp] theorem State.setTtc_top (s : State) (n : Nat) (c : Ttc) : (s.setTtc n c).top = s.top := by rfl
@[simp] theorem State.setTtc_cur (s : State) (n : Nat) (c : Ttc) : (s.setTtc n c).cur = s.cur := by rfl
@[simp] theorem State.setTtc_mboxes (s : State) (n : Nat) (c : Ttc) : (s.setTtc n c).mboxes = s.mboxes := by rfl
@[simp] theorem State.setTtc_framers (s : State) (n : Nat) (c : Ttc) : (s.setTtc n c).framers = s.framers := by rfl
@[simp] theorem State.setTtc_txs (s : State) (n : Nat) (c : Ttc) : (s.setTtc n c).txs = s.txs := by rfl
@[simp] theorem State.setTtc_active (s : State) (n : Nat) (c : Ttc) : (s.setTtc n c).active = s.active := by rfl
@[simp] theorem State.setTtc_tribs (s : State) (n : Nat) (c : Ttc) : (s.setTtc n c).tribs = s.tribs := by rfl
@[simp] theorem State.setTtc_mapOh (s : State) (n : Nat) (c : Ttc) : (s.setTtc n c).mapOh = s.mapOh := by rfl
@[simp] theorem State.setTtc_sinkHold (s : State) (n : Nat) (c : Ttc) : (s.setTtc n c).sinkHold = s.sinkHold := by rfl
@[simp] theorem State.setTtc_pairs (s : State) (n : Nat) (c : Ttc) : (s.setTtc n c).pairs = s.pairs := by rfl
@[simp] theorem State.setTtc_grants (s : State) (n : Nat) (c : Ttc) : (s.setTtc n c).grants = s.grants := by rfl
@[simp] theorem State.setTtc_commitRows (s : State) (n : Nat) (c : Ttc) : (s.setTtc n c).commitRows = s.commitRows := by rfl
@[simp] theorem State.setTtc_policy (s : State) (n : Nat) (c : Ttc) : (s.setTtc n c).policy = s.policy := by rfl
@[simp] theorem State.setTtc_policyPending (s : State) (n : Nat) (c : Ttc) : (s.setTtc n c).policyPending = s.policyPending := by rfl
@[simp] theorem State.setTtc_winStart (s : State) (n : Nat) (c : Ttc) : (s.setTtc n c).winStart = s.winStart := by rfl
@[simp] theorem State.setTtc_sdlNs (s : State) (n : Nat) (c : Ttc) : (s.setTtc n c).sdlNs = s.sdlNs := by rfl
@[simp] theorem State.setTtc_sdlFrom (s : State) (n : Nat) (c : Ttc) : (s.setTtc n c).sdlFrom = s.sdlFrom := by rfl
@[simp] theorem State.setTtc_refs (s : State) (n : Nat) (c : Ttc) : (s.setTtc n c).refs = s.refs := by rfl
@[simp] theorem State.setTtc_dials (s : State) (n : Nat) (c : Ttc) : (s.setTtc n c).dials = s.dials := by rfl
@[simp] theorem State.setTtc_gens (s : State) (n : Nat) (c : Ttc) : (s.setTtc n c).gens = s.gens := by rfl
@[simp] theorem State.setTtc_ttcs (s : State) (n : Nat) (c : Ttc) : (s.setTtc n c).ttcs = Tab.set s.ttcs Ttc.init n c := by rfl
@[simp] theorem State.setTtc_sves (s : State) (n : Nat) (c : Ttc) : (s.setTtc n c).sves = s.sves := by rfl
@[simp] theorem State.setTtc_beds (s : State) (n : Nat) (c : Ttc) : (s.setTtc n c).beds = s.beds := by rfl
@[simp] theorem State.setTtc_ctxs (s : State) (n : Nat) (c : Ttc) : (s.setTtc n c).ctxs = s.ctxs := by rfl
@[simp] theorem State.setTtc_engines (s : State) (n : Nat) (c : Ttc) : (s.setTtc n c).engines = s.engines := by rfl
@[simp] theorem State.setTtc_cycles (s : State) (n : Nat) (c : Ttc) : (s.setTtc n c).cycles = s.cycles := by rfl
@[simp] theorem State.setTtc_furs (s : State) (n : Nat) (c : Ttc) : (s.setTtc n c).furs = s.furs := by rfl
@[simp] theorem State.setTtc_rts (s : State) (n : Nat) (c : Ttc) : (s.setTtc n c).rts = s.rts := by rfl
@[simp] theorem State.setTtc_twn (s : State) (n : Nat) (c : Ttc) : (s.setTtc n c).twn = s.twn := by rfl
@[simp] theorem State.setTtc_qdm (s : State) (n : Nat) (c : Ttc) : (s.setTtc n c).qdm = s.qdm := by rfl
@[simp] theorem State.setTtc_inv (s : State) (n : Nat) (c : Ttc) : (s.setTtc n c).inv = s.inv := by rfl
@[simp] theorem State.setTtc_outbox (s : State) (n : Nat) (c : Ttc) : (s.setTtc n c).outbox = s.outbox := by rfl
@[simp] theorem State.setTtc_sumCycle (s : State) (n : Nat) (c : Ttc) : (s.setTtc n c).sumCycle = s.sumCycle := by rfl
@[simp] theorem State.setTtc_pending (s : State) (n : Nat) (c : Ttc) : (s.setTtc n c).pending = s.pending := by rfl

@[simp] theorem State.setSve_now (s : State) (i : Nat) (x : Sve) : (s.setSve i x).now = s.now := by rfl
@[simp] theorem State.setSve_free (s : State) (i : Nat) (x : Sve) : (s.setSve i x).free = s.free := by rfl
@[simp] theorem State.setSve_regs (s : State) (i : Nat) (x : Sve) : (s.setSve i x).regs = s.regs := by rfl
@[simp] theorem State.setSve_qdr (s : State) (i : Nat) (x : Sve) : (s.setSve i x).qdr = s.qdr := by rfl
@[simp] theorem State.setSve_flash (s : State) (i : Nat) (x : Sve) : (s.setSve i x).flash = s.flash := by rfl
@[simp] theorem State.setSve_top (s : State) (i : Nat) (x : Sve) : (s.setSve i x).top = s.top := by rfl
@[simp] theorem State.setSve_cur (s : State) (i : Nat) (x : Sve) : (s.setSve i x).cur = s.cur := by rfl
@[simp] theorem State.setSve_mboxes (s : State) (i : Nat) (x : Sve) : (s.setSve i x).mboxes = s.mboxes := by rfl
@[simp] theorem State.setSve_framers (s : State) (i : Nat) (x : Sve) : (s.setSve i x).framers = s.framers := by rfl
@[simp] theorem State.setSve_txs (s : State) (i : Nat) (x : Sve) : (s.setSve i x).txs = s.txs := by rfl
@[simp] theorem State.setSve_active (s : State) (i : Nat) (x : Sve) : (s.setSve i x).active = s.active := by rfl
@[simp] theorem State.setSve_tribs (s : State) (i : Nat) (x : Sve) : (s.setSve i x).tribs = s.tribs := by rfl
@[simp] theorem State.setSve_mapOh (s : State) (i : Nat) (x : Sve) : (s.setSve i x).mapOh = s.mapOh := by rfl
@[simp] theorem State.setSve_sinkHold (s : State) (i : Nat) (x : Sve) : (s.setSve i x).sinkHold = s.sinkHold := by rfl
@[simp] theorem State.setSve_pairs (s : State) (i : Nat) (x : Sve) : (s.setSve i x).pairs = s.pairs := by rfl
@[simp] theorem State.setSve_grants (s : State) (i : Nat) (x : Sve) : (s.setSve i x).grants = s.grants := by rfl
@[simp] theorem State.setSve_commitRows (s : State) (i : Nat) (x : Sve) : (s.setSve i x).commitRows = s.commitRows := by rfl
@[simp] theorem State.setSve_policy (s : State) (i : Nat) (x : Sve) : (s.setSve i x).policy = s.policy := by rfl
@[simp] theorem State.setSve_policyPending (s : State) (i : Nat) (x : Sve) : (s.setSve i x).policyPending = s.policyPending := by rfl
@[simp] theorem State.setSve_winStart (s : State) (i : Nat) (x : Sve) : (s.setSve i x).winStart = s.winStart := by rfl
@[simp] theorem State.setSve_sdlNs (s : State) (i : Nat) (x : Sve) : (s.setSve i x).sdlNs = s.sdlNs := by rfl
@[simp] theorem State.setSve_sdlFrom (s : State) (i : Nat) (x : Sve) : (s.setSve i x).sdlFrom = s.sdlFrom := by rfl
@[simp] theorem State.setSve_refs (s : State) (i : Nat) (x : Sve) : (s.setSve i x).refs = s.refs := by rfl
@[simp] theorem State.setSve_dials (s : State) (i : Nat) (x : Sve) : (s.setSve i x).dials = s.dials := by rfl
@[simp] theorem State.setSve_gens (s : State) (i : Nat) (x : Sve) : (s.setSve i x).gens = s.gens := by rfl
@[simp] theorem State.setSve_ttcs (s : State) (i : Nat) (x : Sve) : (s.setSve i x).ttcs = s.ttcs := by rfl
@[simp] theorem State.setSve_sves (s : State) (i : Nat) (x : Sve) : (s.setSve i x).sves = Tab.set s.sves Sve.init i x := by rfl
@[simp] theorem State.setSve_beds (s : State) (i : Nat) (x : Sve) : (s.setSve i x).beds = s.beds := by rfl
@[simp] theorem State.setSve_ctxs (s : State) (i : Nat) (x : Sve) : (s.setSve i x).ctxs = s.ctxs := by rfl
@[simp] theorem State.setSve_engines (s : State) (i : Nat) (x : Sve) : (s.setSve i x).engines = s.engines := by rfl
@[simp] theorem State.setSve_cycles (s : State) (i : Nat) (x : Sve) : (s.setSve i x).cycles = s.cycles := by rfl
@[simp] theorem State.setSve_furs (s : State) (i : Nat) (x : Sve) : (s.setSve i x).furs = s.furs := by rfl
@[simp] theorem State.setSve_rts (s : State) (i : Nat) (x : Sve) : (s.setSve i x).rts = s.rts := by rfl
@[simp] theorem State.setSve_twn (s : State) (i : Nat) (x : Sve) : (s.setSve i x).twn = s.twn := by rfl
@[simp] theorem State.setSve_qdm (s : State) (i : Nat) (x : Sve) : (s.setSve i x).qdm = s.qdm := by rfl
@[simp] theorem State.setSve_inv (s : State) (i : Nat) (x : Sve) : (s.setSve i x).inv = s.inv := by rfl
@[simp] theorem State.setSve_outbox (s : State) (i : Nat) (x : Sve) : (s.setSve i x).outbox = s.outbox := by rfl
@[simp] theorem State.setSve_sumCycle (s : State) (i : Nat) (x : Sve) : (s.setSve i x).sumCycle = s.sumCycle := by rfl
@[simp] theorem State.setSve_pending (s : State) (i : Nat) (x : Sve) : (s.setSve i x).pending = s.pending := by rfl

@[simp] theorem State.setDial_now (s : State) (n : Nat) (d : Dial) : (s.setDial n d).now = s.now := by rfl
@[simp] theorem State.setDial_free (s : State) (n : Nat) (d : Dial) : (s.setDial n d).free = s.free := by rfl
@[simp] theorem State.setDial_regs (s : State) (n : Nat) (d : Dial) : (s.setDial n d).regs = s.regs := by rfl
@[simp] theorem State.setDial_qdr (s : State) (n : Nat) (d : Dial) : (s.setDial n d).qdr = s.qdr := by rfl
@[simp] theorem State.setDial_flash (s : State) (n : Nat) (d : Dial) : (s.setDial n d).flash = s.flash := by rfl
@[simp] theorem State.setDial_top (s : State) (n : Nat) (d : Dial) : (s.setDial n d).top = s.top := by rfl
@[simp] theorem State.setDial_cur (s : State) (n : Nat) (d : Dial) : (s.setDial n d).cur = s.cur := by rfl
@[simp] theorem State.setDial_mboxes (s : State) (n : Nat) (d : Dial) : (s.setDial n d).mboxes = s.mboxes := by rfl
@[simp] theorem State.setDial_framers (s : State) (n : Nat) (d : Dial) : (s.setDial n d).framers = s.framers := by rfl
@[simp] theorem State.setDial_txs (s : State) (n : Nat) (d : Dial) : (s.setDial n d).txs = s.txs := by rfl
@[simp] theorem State.setDial_active (s : State) (n : Nat) (d : Dial) : (s.setDial n d).active = s.active := by rfl
@[simp] theorem State.setDial_tribs (s : State) (n : Nat) (d : Dial) : (s.setDial n d).tribs = s.tribs := by rfl
@[simp] theorem State.setDial_mapOh (s : State) (n : Nat) (d : Dial) : (s.setDial n d).mapOh = s.mapOh := by rfl
@[simp] theorem State.setDial_sinkHold (s : State) (n : Nat) (d : Dial) : (s.setDial n d).sinkHold = s.sinkHold := by rfl
@[simp] theorem State.setDial_pairs (s : State) (n : Nat) (d : Dial) : (s.setDial n d).pairs = s.pairs := by rfl
@[simp] theorem State.setDial_grants (s : State) (n : Nat) (d : Dial) : (s.setDial n d).grants = s.grants := by rfl
@[simp] theorem State.setDial_commitRows (s : State) (n : Nat) (d : Dial) : (s.setDial n d).commitRows = s.commitRows := by rfl
@[simp] theorem State.setDial_policy (s : State) (n : Nat) (d : Dial) : (s.setDial n d).policy = s.policy := by rfl
@[simp] theorem State.setDial_policyPending (s : State) (n : Nat) (d : Dial) : (s.setDial n d).policyPending = s.policyPending := by rfl
@[simp] theorem State.setDial_winStart (s : State) (n : Nat) (d : Dial) : (s.setDial n d).winStart = s.winStart := by rfl
@[simp] theorem State.setDial_sdlNs (s : State) (n : Nat) (d : Dial) : (s.setDial n d).sdlNs = s.sdlNs := by rfl
@[simp] theorem State.setDial_sdlFrom (s : State) (n : Nat) (d : Dial) : (s.setDial n d).sdlFrom = s.sdlFrom := by rfl
@[simp] theorem State.setDial_refs (s : State) (n : Nat) (d : Dial) : (s.setDial n d).refs = s.refs := by rfl
@[simp] theorem State.setDial_dials (s : State) (n : Nat) (d : Dial) : (s.setDial n d).dials = Tab.set s.dials Dial.init n d := by rfl
@[simp] theorem State.setDial_gens (s : State) (n : Nat) (d : Dial) : (s.setDial n d).gens = s.gens := by rfl
@[simp] theorem State.setDial_ttcs (s : State) (n : Nat) (d : Dial) : (s.setDial n d).ttcs = s.ttcs := by rfl
@[simp] theorem State.setDial_sves (s : State) (n : Nat) (d : Dial) : (s.setDial n d).sves = s.sves := by rfl
@[simp] theorem State.setDial_beds (s : State) (n : Nat) (d : Dial) : (s.setDial n d).beds = s.beds := by rfl
@[simp] theorem State.setDial_ctxs (s : State) (n : Nat) (d : Dial) : (s.setDial n d).ctxs = s.ctxs := by rfl
@[simp] theorem State.setDial_engines (s : State) (n : Nat) (d : Dial) : (s.setDial n d).engines = s.engines := by rfl
@[simp] theorem State.setDial_cycles (s : State) (n : Nat) (d : Dial) : (s.setDial n d).cycles = s.cycles := by rfl
@[simp] theorem State.setDial_furs (s : State) (n : Nat) (d : Dial) : (s.setDial n d).furs = s.furs := by rfl
@[simp] theorem State.setDial_rts (s : State) (n : Nat) (d : Dial) : (s.setDial n d).rts = s.rts := by rfl
@[simp] theorem State.setDial_twn (s : State) (n : Nat) (d : Dial) : (s.setDial n d).twn = s.twn := by rfl
@[simp] theorem State.setDial_qdm (s : State) (n : Nat) (d : Dial) : (s.setDial n d).qdm = s.qdm := by rfl
@[simp] theorem State.setDial_inv (s : State) (n : Nat) (d : Dial) : (s.setDial n d).inv = s.inv := by rfl
@[simp] theorem State.setDial_outbox (s : State) (n : Nat) (d : Dial) : (s.setDial n d).outbox = s.outbox := by rfl
@[simp] theorem State.setDial_sumCycle (s : State) (n : Nat) (d : Dial) : (s.setDial n d).sumCycle = s.sumCycle := by rfl
@[simp] theorem State.setDial_pending (s : State) (n : Nat) (d : Dial) : (s.setDial n d).pending = s.pending := by rfl

@[simp] theorem State.setEngine_now (s : State) (g : Nat) (x : Engine) : (s.setEngine g x).now = s.now := by rfl
@[simp] theorem State.setEngine_free (s : State) (g : Nat) (x : Engine) : (s.setEngine g x).free = s.free := by rfl
@[simp] theorem State.setEngine_regs (s : State) (g : Nat) (x : Engine) : (s.setEngine g x).regs = s.regs := by rfl
@[simp] theorem State.setEngine_qdr (s : State) (g : Nat) (x : Engine) : (s.setEngine g x).qdr = s.qdr := by rfl
@[simp] theorem State.setEngine_flash (s : State) (g : Nat) (x : Engine) : (s.setEngine g x).flash = s.flash := by rfl
@[simp] theorem State.setEngine_top (s : State) (g : Nat) (x : Engine) : (s.setEngine g x).top = s.top := by rfl
@[simp] theorem State.setEngine_cur (s : State) (g : Nat) (x : Engine) : (s.setEngine g x).cur = s.cur := by rfl
@[simp] theorem State.setEngine_mboxes (s : State) (g : Nat) (x : Engine) : (s.setEngine g x).mboxes = s.mboxes := by rfl
@[simp] theorem State.setEngine_framers (s : State) (g : Nat) (x : Engine) : (s.setEngine g x).framers = s.framers := by rfl
@[simp] theorem State.setEngine_txs (s : State) (g : Nat) (x : Engine) : (s.setEngine g x).txs = s.txs := by rfl
@[simp] theorem State.setEngine_active (s : State) (g : Nat) (x : Engine) : (s.setEngine g x).active = s.active := by rfl
@[simp] theorem State.setEngine_tribs (s : State) (g : Nat) (x : Engine) : (s.setEngine g x).tribs = s.tribs := by rfl
@[simp] theorem State.setEngine_mapOh (s : State) (g : Nat) (x : Engine) : (s.setEngine g x).mapOh = s.mapOh := by rfl
@[simp] theorem State.setEngine_sinkHold (s : State) (g : Nat) (x : Engine) : (s.setEngine g x).sinkHold = s.sinkHold := by rfl
@[simp] theorem State.setEngine_pairs (s : State) (g : Nat) (x : Engine) : (s.setEngine g x).pairs = s.pairs := by rfl
@[simp] theorem State.setEngine_grants (s : State) (g : Nat) (x : Engine) : (s.setEngine g x).grants = s.grants := by rfl
@[simp] theorem State.setEngine_commitRows (s : State) (g : Nat) (x : Engine) : (s.setEngine g x).commitRows = s.commitRows := by rfl
@[simp] theorem State.setEngine_policy (s : State) (g : Nat) (x : Engine) : (s.setEngine g x).policy = s.policy := by rfl
@[simp] theorem State.setEngine_policyPending (s : State) (g : Nat) (x : Engine) : (s.setEngine g x).policyPending = s.policyPending := by rfl
@[simp] theorem State.setEngine_winStart (s : State) (g : Nat) (x : Engine) : (s.setEngine g x).winStart = s.winStart := by rfl
@[simp] theorem State.setEngine_sdlNs (s : State) (g : Nat) (x : Engine) : (s.setEngine g x).sdlNs = s.sdlNs := by rfl
@[simp] theorem State.setEngine_sdlFrom (s : State) (g : Nat) (x : Engine) : (s.setEngine g x).sdlFrom = s.sdlFrom := by rfl
@[simp] theorem State.setEngine_refs (s : State) (g : Nat) (x : Engine) : (s.setEngine g x).refs = s.refs := by rfl
@[simp] theorem State.setEngine_dials (s : State) (g : Nat) (x : Engine) : (s.setEngine g x).dials = s.dials := by rfl
@[simp] theorem State.setEngine_gens (s : State) (g : Nat) (x : Engine) : (s.setEngine g x).gens = s.gens := by rfl
@[simp] theorem State.setEngine_ttcs (s : State) (g : Nat) (x : Engine) : (s.setEngine g x).ttcs = s.ttcs := by rfl
@[simp] theorem State.setEngine_sves (s : State) (g : Nat) (x : Engine) : (s.setEngine g x).sves = s.sves := by rfl
@[simp] theorem State.setEngine_beds (s : State) (g : Nat) (x : Engine) : (s.setEngine g x).beds = s.beds := by rfl
@[simp] theorem State.setEngine_ctxs (s : State) (g : Nat) (x : Engine) : (s.setEngine g x).ctxs = s.ctxs := by rfl
@[simp] theorem State.setEngine_engines (s : State) (g : Nat) (x : Engine) : (s.setEngine g x).engines = Tab.set s.engines Engine.init g x := by rfl
@[simp] theorem State.setEngine_cycles (s : State) (g : Nat) (x : Engine) : (s.setEngine g x).cycles = s.cycles := by rfl
@[simp] theorem State.setEngine_furs (s : State) (g : Nat) (x : Engine) : (s.setEngine g x).furs = s.furs := by rfl
@[simp] theorem State.setEngine_rts (s : State) (g : Nat) (x : Engine) : (s.setEngine g x).rts = s.rts := by rfl
@[simp] theorem State.setEngine_twn (s : State) (g : Nat) (x : Engine) : (s.setEngine g x).twn = s.twn := by rfl
@[simp] theorem State.setEngine_qdm (s : State) (g : Nat) (x : Engine) : (s.setEngine g x).qdm = s.qdm := by rfl
@[simp] theorem State.setEngine_inv (s : State) (g : Nat) (x : Engine) : (s.setEngine g x).inv = s.inv := by rfl
@[simp] theorem State.setEngine_outbox (s : State) (g : Nat) (x : Engine) : (s.setEngine g x).outbox = s.outbox := by rfl
@[simp] theorem State.setEngine_sumCycle (s : State) (g : Nat) (x : Engine) : (s.setEngine g x).sumCycle = s.sumCycle := by rfl
@[simp] theorem State.setEngine_pending (s : State) (g : Nat) (x : Engine) : (s.setEngine g x).pending = s.pending := by rfl

@[simp] theorem State.setCycle_now (s : State) (b : Nat) (x : Cycle) : (s.setCycle b x).now = s.now := by rfl
@[simp] theorem State.setCycle_free (s : State) (b : Nat) (x : Cycle) : (s.setCycle b x).free = s.free := by rfl
@[simp] theorem State.setCycle_regs (s : State) (b : Nat) (x : Cycle) : (s.setCycle b x).regs = s.regs := by rfl
@[simp] theorem State.setCycle_qdr (s : State) (b : Nat) (x : Cycle) : (s.setCycle b x).qdr = s.qdr := by rfl
@[simp] theorem State.setCycle_flash (s : State) (b : Nat) (x : Cycle) : (s.setCycle b x).flash = s.flash := by rfl
@[simp] theorem State.setCycle_top (s : State) (b : Nat) (x : Cycle) : (s.setCycle b x).top = s.top := by rfl
@[simp] theorem State.setCycle_cur (s : State) (b : Nat) (x : Cycle) : (s.setCycle b x).cur = s.cur := by rfl
@[simp] theorem State.setCycle_mboxes (s : State) (b : Nat) (x : Cycle) : (s.setCycle b x).mboxes = s.mboxes := by rfl
@[simp] theorem State.setCycle_framers (s : State) (b : Nat) (x : Cycle) : (s.setCycle b x).framers = s.framers := by rfl
@[simp] theorem State.setCycle_txs (s : State) (b : Nat) (x : Cycle) : (s.setCycle b x).txs = s.txs := by rfl
@[simp] theorem State.setCycle_active (s : State) (b : Nat) (x : Cycle) : (s.setCycle b x).active = s.active := by rfl
@[simp] theorem State.setCycle_tribs (s : State) (b : Nat) (x : Cycle) : (s.setCycle b x).tribs = s.tribs := by rfl
@[simp] theorem State.setCycle_mapOh (s : State) (b : Nat) (x : Cycle) : (s.setCycle b x).mapOh = s.mapOh := by rfl
@[simp] theorem State.setCycle_sinkHold (s : State) (b : Nat) (x : Cycle) : (s.setCycle b x).sinkHold = s.sinkHold := by rfl
@[simp] theorem State.setCycle_pairs (s : State) (b : Nat) (x : Cycle) : (s.setCycle b x).pairs = s.pairs := by rfl
@[simp] theorem State.setCycle_grants (s : State) (b : Nat) (x : Cycle) : (s.setCycle b x).grants = s.grants := by rfl
@[simp] theorem State.setCycle_commitRows (s : State) (b : Nat) (x : Cycle) : (s.setCycle b x).commitRows = s.commitRows := by rfl
@[simp] theorem State.setCycle_policy (s : State) (b : Nat) (x : Cycle) : (s.setCycle b x).policy = s.policy := by rfl
@[simp] theorem State.setCycle_policyPending (s : State) (b : Nat) (x : Cycle) : (s.setCycle b x).policyPending = s.policyPending := by rfl
@[simp] theorem State.setCycle_winStart (s : State) (b : Nat) (x : Cycle) : (s.setCycle b x).winStart = s.winStart := by rfl
@[simp] theorem State.setCycle_sdlNs (s : State) (b : Nat) (x : Cycle) : (s.setCycle b x).sdlNs = s.sdlNs := by rfl
@[simp] theorem State.setCycle_sdlFrom (s : State) (b : Nat) (x : Cycle) : (s.setCycle b x).sdlFrom = s.sdlFrom := by rfl
@[simp] theorem State.setCycle_refs (s : State) (b : Nat) (x : Cycle) : (s.setCycle b x).refs = s.refs := by rfl
@[simp] theorem State.setCycle_dials (s : State) (b : Nat) (x : Cycle) : (s.setCycle b x).dials = s.dials := by rfl
@[simp] theorem State.setCycle_gens (s : State) (b : Nat) (x : Cycle) : (s.setCycle b x).gens = s.gens := by rfl
@[simp] theorem State.setCycle_ttcs (s : State) (b : Nat) (x : Cycle) : (s.setCycle b x).ttcs = s.ttcs := by rfl
@[simp] theorem State.setCycle_sves (s : State) (b : Nat) (x : Cycle) : (s.setCycle b x).sves = s.sves := by rfl
@[simp] theorem State.setCycle_beds (s : State) (b : Nat) (x : Cycle) : (s.setCycle b x).beds = s.beds := by rfl
@[simp] theorem State.setCycle_ctxs (s : State) (b : Nat) (x : Cycle) : (s.setCycle b x).ctxs = s.ctxs := by rfl
@[simp] theorem State.setCycle_engines (s : State) (b : Nat) (x : Cycle) : (s.setCycle b x).engines = s.engines := by rfl
@[simp] theorem State.setCycle_cycles (s : State) (b : Nat) (x : Cycle) : (s.setCycle b x).cycles = Tab.set s.cycles Cycle.init b x := by rfl
@[simp] theorem State.setCycle_furs (s : State) (b : Nat) (x : Cycle) : (s.setCycle b x).furs = s.furs := by rfl
@[simp] theorem State.setCycle_rts (s : State) (b : Nat) (x : Cycle) : (s.setCycle b x).rts = s.rts := by rfl
@[simp] theorem State.setCycle_twn (s : State) (b : Nat) (x : Cycle) : (s.setCycle b x).twn = s.twn := by rfl
@[simp] theorem State.setCycle_qdm (s : State) (b : Nat) (x : Cycle) : (s.setCycle b x).qdm = s.qdm := by rfl
@[simp] theorem State.setCycle_inv (s : State) (b : Nat) (x : Cycle) : (s.setCycle b x).inv = s.inv := by rfl
@[simp] theorem State.setCycle_outbox (s : State) (b : Nat) (x : Cycle) : (s.setCycle b x).outbox = s.outbox := by rfl
@[simp] theorem State.setCycle_sumCycle (s : State) (b : Nat) (x : Cycle) : (s.setCycle b x).sumCycle = s.sumCycle := by rfl
@[simp] theorem State.setCycle_pending (s : State) (b : Nat) (x : Cycle) : (s.setCycle b x).pending = s.pending := by rfl

end Sys2Proof.Machine
end

