-- ==== Sys2Proof/Laws/Regs.lean ====
section
/-! SUPPORT. Laws of register reads and writes: words, fields and bits. -/

namespace Sys2Proof.Machine

/-! ### Bits of a number -/

theorem bitsOf_lt (w hi lo : Nat) : bitsOf w hi lo < 2 ^ (hi + 1 - lo) := Nat.mod_lt _ (Nat.two_pow_pos _)

theorem bitsOf_mul_le (w hi lo : Nat) : bitsOf w hi lo * 2 ^ lo ≤ w := by
  unfold bitsOf
  exact (Nat.mul_le_mul_right _ (Nat.mod_le _ _)).trans (Nat.div_mul_le_self _ _)

/-- A number as the part above a field, the field, and the part below it. -/
theorem split_at (w lo k : Nat) :
    w = w / 2 ^ lo / 2 ^ k * 2 ^ k * 2 ^ lo + w / 2 ^ lo % 2 ^ k * 2 ^ lo + w % 2 ^ lo := by
  have h1 := Nat.div_add_mod w (2 ^ lo)
  have h2 := Nat.div_add_mod (w / 2 ^ lo) (2 ^ k)
  have h3 : (w / 2 ^ lo / 2 ^ k * 2 ^ k + w / 2 ^ lo % 2 ^ k) * 2 ^ lo = w / 2 ^ lo * 2 ^ lo := by
    rw [mul_comm (w / 2 ^ lo / 2 ^ k), h2]
  rw [← add_mul, h3, mul_comm, h1]

theorem putBits_eq (w hi lo v : Nat) :
    putBits w hi lo v =
      w / 2 ^ lo / 2 ^ (hi + 1 - lo) * 2 ^ (hi + 1 - lo) * 2 ^ lo + v % 2 ^ (hi + 1 - lo) * 2 ^ lo + w % 2 ^ lo := by
  have h := split_at w lo (hi + 1 - lo)
  unfold putBits bitsOf
  omega

/-- A field reads back as what was put into it. -/
@[simp] theorem bitsOf_putBits_same (w hi lo v : Nat) : bitsOf (putBits w hi lo v) hi lo = v % 2 ^ (hi + 1 - lo) := by
  rw [putBits_eq]
  unfold bitsOf
  rw [← add_mul, mul_comm, Nat.mul_add_div (Nat.two_pow_pos _), Nat.div_eq_of_lt (Nat.mod_lt w (Nat.two_pow_pos lo)), add_zero,
    Nat.mul_add_mod', Nat.mod_mod]

/-- A field below another keeps its bits. -/
theorem bitsOf_putBits_below (w v : Nat) {hi lo hi' lo' : Nat} (h : hi' < lo) :
    bitsOf (putBits w hi lo v) hi' lo' = bitsOf w hi' lo' := by
  have key : ∀ x y : Nat, x % 2 ^ lo = y % 2 ^ lo → bitsOf x hi' lo' = bitsOf y hi' lo' := by
    intro x y hxy
    by_cases hl : lo' ≤ hi'
    · unfold bitsOf
      have e : hi' + 1 = lo' + (hi' + 1 - lo') := by omega
      have hd : 2 ^ lo' * 2 ^ (hi' + 1 - lo') ∣ 2 ^ lo := by
        rw [← pow_add, ← e]; exact pow_dvd_pow 2 (by omega)
      have hm : x % (2 ^ lo' * 2 ^ (hi' + 1 - lo')) = y % (2 ^ lo' * 2 ^ (hi' + 1 - lo')) := by
        rw [← Nat.mod_mod_of_dvd x hd, hxy, Nat.mod_mod_of_dvd y hd]
      rw [← Nat.mod_mul_right_div_self, ← Nat.mod_mul_right_div_self, hm]
    · have e : hi' + 1 - lo' = 0 := by omega
      simp [bitsOf, e, Nat.mod_one]
  apply key
  rw [putBits_eq, ← add_mul, Nat.mul_add_mod', Nat.mod_mod]

/-- A field above another keeps its bits. -/
theorem bitsOf_putBits_above (w v : Nat) {hi lo hi' lo' : Nat} (hl : lo ≤ hi + 1) (h : hi < lo') :
    bitsOf (putBits w hi lo v) hi' lo' = bitsOf w hi' lo' := by
  have e : lo' = lo + (hi + 1 - lo) + (lo' - (hi + 1)) := by omega
  have key : ∀ x y : Nat, x / 2 ^ lo / 2 ^ (hi + 1 - lo) = y / 2 ^ lo / 2 ^ (hi + 1 - lo) →
      bitsOf x hi' lo' = bitsOf y hi' lo' := by
    intro x y hxy
    unfold bitsOf
    rw [e, pow_add, pow_add, ← Nat.div_div_eq_div_mul, ← Nat.div_div_eq_div_mul, ← Nat.div_div_eq_div_mul,
      ← Nat.div_div_eq_div_mul, hxy]
  apply key
  rw [putBits_eq, ← add_mul]
  have hr : w % 2 ^ lo < 2 ^ lo := Nat.mod_lt _ (Nat.two_pow_pos _)
  rw [mul_comm _ (2 ^ lo), Nat.mul_add_div (Nat.two_pow_pos _), Nat.div_eq_of_lt hr, add_zero, mul_comm _ (2 ^ (hi + 1 - lo)),
    Nat.mul_add_div (Nat.two_pow_pos _), Nat.div_eq_of_lt (Nat.mod_lt _ (Nat.two_pow_pos _)), add_zero]

theorem putBits_lt (w v : Nat) {hi lo n : Nat} (hl : lo ≤ hi + 1) (h : hi < n) (hw : w < 2 ^ n) :
    putBits w hi lo v < 2 ^ n := by
  have e : n = lo + (hi + 1 - lo) + (n - (hi + 1)) := by omega
  rw [putBits_eq]
  have hq : w / 2 ^ lo / 2 ^ (hi + 1 - lo) < 2 ^ (n - (hi + 1)) := by
    rw [Nat.div_div_eq_div_mul, ← pow_add]
    apply Nat.div_lt_of_lt_mul
    rw [← pow_add, ← e]; exact hw
  have hv : v % 2 ^ (hi + 1 - lo) < 2 ^ (hi + 1 - lo) := Nat.mod_lt _ (Nat.two_pow_pos _)
  have hr : w % 2 ^ lo < 2 ^ lo := Nat.mod_lt _ (Nat.two_pow_pos _)
  generalize w / 2 ^ lo / 2 ^ (hi + 1 - lo) = q at *
  generalize v % 2 ^ (hi + 1 - lo) = u at *
  generalize w % 2 ^ lo = r at *
  have h1 : q * 2 ^ (hi + 1 - lo) + u < 2 ^ (n - (hi + 1)) * 2 ^ (hi + 1 - lo) := by nlinarith
  have h2 : (q * 2 ^ (hi + 1 - lo) + u) * 2 ^ lo + r < 2 ^ (n - (hi + 1)) * 2 ^ (hi + 1 - lo) * 2 ^ lo := by nlinarith
  have h3 : (2 : Nat) ^ n = 2 ^ (n - (hi + 1)) * 2 ^ (hi + 1 - lo) * 2 ^ lo := by
    rw [← pow_add, ← pow_add]; congr 1; omega
  rw [h3, ← add_mul]; exact h2

/-! ### Words -/

@[simp] theorem State.rd_wr_same (s : State) (a : Nat) (v : Word) : (s.wr a v).rd a = v := by
  rw [State.rd, State.wr_regs, Tab.get_set_same]

theorem State.rd_wr_ne (s : State) {a b : Nat} (v : Word) (h : b ≠ a) : (s.wr a v).rd b = s.rd b := by
  rw [State.rd, State.wr_regs, Tab.get_set_ne _ _ _ _ h, State.rd]

/-- Reads follow the registers alone. -/
theorem State.rd_congr {s t : State} (h : s.regs = t.regs) (a : Nat) : s.rd a = t.rd a := by rw [State.rd, State.rd, h]

theorem State.nat_congr {s t : State} {a : Nat} (h : s.rd a = t.rd a) : s.nat a = t.nat a := by rw [State.nat, State.nat, h]

theorem State.fld_congr {s t : State} {a : Nat} (h : s.rd a = t.rd a) (hi lo : Nat) : s.fld a hi lo = t.fld a hi lo := by
  rw [State.fld, State.fld, State.nat_congr h]

theorem State.bit_congr {s t : State} {a : Nat} (h : s.rd a = t.rd a) (n : Nat) : s.bit a n = t.bit a n := by
  rw [State.bit, State.bit, State.fld_congr h]

theorem State.nat_lt (s : State) (a : Nat) : s.nat a < 2 ^ 32 := (s.rd a).isLt

@[simp] theorem State.nat_wrN_same (s : State) (a n : Nat) : (s.wrN a n).nat a = n % 2 ^ 32 := by
  rw [State.nat, State.wrN, State.rd_wr_same, BitVec.toNat_ofNat]

theorem State.rd_wrN_ne (s : State) {a b : Nat} (n : Nat) (h : b ≠ a) : (s.wrN a n).rd b = s.rd b := s.rd_wr_ne _ h

theorem State.rd_setFld_ne (s : State) {a b : Nat} (hi lo v : Nat) (h : b ≠ a) : (s.setFld a hi lo v).rd b = s.rd b :=
  s.rd_wrN_ne _ h

theorem State.rd_setBit_ne (s : State) {a b : Nat} (n : Nat) (x : Bool) (h : b ≠ a) : (s.setBit a n x).rd b = s.rd b :=
  s.rd_setFld_ne _ _ _ h

theorem State.rd_addTo_ne (s : State) {a b : Nat} (n : Nat) (h : b ≠ a) : (s.addTo a n).rd b = s.rd b := s.rd_wrN_ne _ h

theorem State.rd_inc_ne (s : State) {a b : Nat} (h : b ≠ a) : (s.inc a).rd b = s.rd b := s.rd_addTo_ne 1 h

theorem State.rd_wr48_ne (s : State) {lo hi b : Nat} (v : Nat) (h1 : b ≠ lo) (h2 : b ≠ hi) :
    (s.wr48 lo hi v).rd b = s.rd b := by rw [State.wr48, State.rd_wrN_ne _ _ h2, State.rd_wrN_ne _ _ h1]

@[simp] theorem State.nat_inc_same (s : State) (a : Nat) : (s.inc a).nat a = (s.nat a + 1) % 2 ^ 32 := by
  rw [State.inc, State.addTo, State.nat_wrN_same]

/-! ### Reads do not see what is no register -/

@[simp] theorem State.rd_setNow (s : State) (x : Nat) (a : Nat) : (s.setNow x).rd a = s.rd a := by rfl
@[simp] theorem State.rd_setFree (s : State) (x : Nat) (a : Nat) : (s.setFree x).rd a = s.rd a := by rfl
@[simp] theorem State.rd_setQdr (s : State) (x : List Host.Cell) (a : Nat) : (s.setQdr x).rd a = s.rd a := by rfl
@[simp] theorem State.rd_setFlash (s : State) (x : List Host.Cell) (a : Nat) : (s.setFlash x).rd a = s.rd a := by rfl
@[simp] theorem State.rd_setTop (s : State) (x : Top) (a : Nat) : (s.setTop x).rd a = s.rd a := by rfl
@[simp] theorem State.rd_setCur (s : State) (x : Cur) (a : Nat) : (s.setCur x).rd a = s.rd a := by rfl
@[simp] theorem State.rd_setMboxes (s : State) (x : Tab Mbox) (a : Nat) : (s.setMboxes x).rd a = s.rd a := by rfl
@[simp] theorem State.rd_setFramers (s : State) (x : Tab Framer) (a : Nat) : (s.setFramers x).rd a = s.rd a := by rfl
@[simp] theorem State.rd_setTxs (s : State) (x : Tab Tx) (a : Nat) : (s.setTxs x).rd a = s.rd a := by rfl
@[simp] theorem State.rd_setActive (s : State) (x : Tab Word) (a : Nat) : (s.setActive x).rd a = s.rd a := by rfl
@[simp] theorem State.rd_setTribs (s : State) (x : Tab Trib) (a : Nat) : (s.setTribs x).rd a = s.rd a := by rfl
@[simp] theorem State.rd_setMapOhTab (s : State) (x : Tab OhX) (a : Nat) : (s.setMapOhTab x).rd a = s.rd a := by rfl
@[simp] theorem State.rd_setSinkHold (s : State) (x : Tab Nat) (a : Nat) : (s.setSinkHold x).rd a = s.rd a := by rfl
@[simp] theorem State.rd_setPairs (s : State) (x : Tab Pair) (a : Nat) : (s.setPairs x).rd a = s.rd a := by rfl
@[simp] theorem State.rd_setGrants (s : State) (x : Tab (Nat × Nat)) (a : Nat) : (s.setGrants x).rd a = s.rd a := by rfl
@[simp] theorem State.rd_setCommitRows (s : State) (x : Half) (a : Nat) : (s.setCommitRows x).rd a = s.rd a := by rfl
@[simp] theorem State.rd_setPolicy (s : State) (x : Tab Word) (a : Nat) : (s.setPolicy x).rd a = s.rd a := by rfl
@[simp] theorem State.rd_setPolicyPending (s : State) (x : List Nat) (a : Nat) : (s.setPolicyPending x).rd a = s.rd a := by rfl
@[simp] theorem State.rd_setWinStart (s : State) (x : Nat) (a : Nat) : (s.setWinStart x).rd a = s.rd a := by rfl
@[simp] theorem State.rd_setRefs (s : State) (x : Tab Ref) (a : Nat) : (s.setRefs x).rd a = s.rd a := by rfl
@[simp] theorem State.rd_setDials (s : State) (x : Tab Dial) (a : Nat) : (s.setDials x).rd a = s.rd a := by rfl
@[simp] theorem State.rd_setGens (s : State) (x : Tab Gen) (a : Nat) : (s.setGens x).rd a = s.rd a := by rfl
@[simp] theorem State.rd_setTtcs (s : State) (x : Tab Ttc) (a : Nat) : (s.setTtcs x).rd a = s.rd a := by rfl
@[simp] theorem State.rd_setSves (s : State) (x : Tab Sve) (a : Nat) : (s.setSves x).rd a = s.rd a := by rfl
@[simp] theorem State.rd_setBeds (s : State) (x : Tab Bed) (a : Nat) : (s.setBeds x).rd a = s.rd a := by rfl
@[simp] theorem State.rd_setCtxs (s : State) (x : Tab Ctx) (a : Nat) : (s.setCtxs x).rd a = s.rd a := by rfl
@[simp] theorem State.rd_setFurs (s : State) (x : Tab Furrow) (a : Nat) : (s.setFurs x).rd a = s.rd a := by rfl
@[simp] theorem State.rd_setRts (s : State) (x : Rts) (a : Nat) : (s.setRts x).rd a = s.rd a := by rfl
@[simp] theorem State.rd_setTwn (s : State) (x : Twn) (a : Nat) : (s.setTwn x).rd a = s.rd a := by rfl
@[simp] theorem State.rd_setQdm (s : State) (x : Qdm) (a : Nat) : (s.setQdm x).rd a = s.rd a := by rfl
@[simp] theorem State.rd_setInv (s : State) (x : Inv) (a : Nat) : (s.setInv x).rd a = s.rd a := by rfl
@[simp] theorem State.rd_setOutbox (s : State) (x : List OutMsg) (a : Nat) : (s.setOutbox x).rd a = s.rd a := by rfl
@[simp] theorem State.rd_setSumCycle (s : State) (x : List Nat) (a : Nat) : (s.setSumCycle x).rd a = s.rd a := by rfl
@[simp] theorem State.rd_setPending (s : State) (x : List Instr) (a : Nat) : (s.setPending x).rd a = s.rd a := by rfl
@[simp] theorem State.rd_emit (s : State) (m : OutMsg) (q : Nat) : (s.emit m).rd q = s.rd q := by rfl
@[simp] theorem State.rd_setBed (s : State) (b : Nat) (x : Bed) (q : Nat) : (s.setBed b x).rd q = s.rd q := by rfl
@[simp] theorem State.rd_setCtx (s : State) (k : Nat) (x : Ctx) (q : Nat) : (s.setCtx k x).rd q = s.rd q := by rfl
@[simp] theorem State.rd_setPair (s : State) (i : Nat) (p : Pair) (q : Nat) : (s.setPair i p).rd q = s.rd q := by rfl
@[simp] theorem State.rd_setTx (s : State) (f : Nat) (x : Tx) (q : Nat) : (s.setTx f x).rd q = s.rd q := by rfl
@[simp] theorem State.rd_setFur (s : State) (F : Nat) (f : Furrow) (q : Nat) : (s.setFur F f).rd q = s.rd q := by rfl
@[simp] theorem State.rd_setFramer (s : State) (f : Nat) (x : Framer) (q : Nat) : (s.setFramer f x).rd q = s.rd q := by rfl
@[simp] theorem State.rd_setMapOh (s : State) (r : Nat) (x : OhX) (q : Nat) : (s.setMapOh r x).rd q = s.rd q := by rfl
@[simp] theorem State.rd_setMbox (s : State) (k : Nat) (m : Mbox) (q : Nat) : (s.setMbox k m).rd q = s.rd q := by rfl
@[simp] theorem State.rd_setErrs (s : State) (cw : Nat) (es : List Nat) (q : Nat) : (s.setErrs cw es).rd q = s.rd q := by rfl
@[simp] theorem State.rd_setRef (s : State) (r : Nat) (x : Ref) (q : Nat) : (s.setRef r x).rd q = s.rd q := by rfl
@[simp] theorem State.rd_setGen (s : State) (g : Nat) (x : Gen) (q : Nat) : (s.setGen g x).rd q = s.rd q := by rfl
@[simp] theorem State.rd_setTtc (s : State) (n : Nat) (c : Ttc) (q : Nat) : (s.setTtc n c).rd q = s.rd q := by rfl
@[simp] theorem State.rd_setSve (s : State) (i : Nat) (x : Sve) (q : Nat) : (s.setSve i x).rd q = s.rd q := by rfl
@[simp] theorem State.rd_setDial (s : State) (n : Nat) (d : Dial) (q : Nat) : (s.setDial n d).rd q = s.rd q := by rfl
@[simp] theorem State.rd_qdrPut (s : State) (p : Nat) (bs : List Byte) (q : Nat) : (s.qdrPut p bs).rd q = s.rd q := by rfl
@[simp] theorem State.rd_flashPut (s : State) (p : Nat) (bs : List Byte) (q : Nat) : (s.flashPut p bs).rd q = s.rd q := by rfl
@[simp] theorem State.rd_setTrib (s : State) (r t : Nat) (x : Trib) (q : Nat) : (s.setTrib r t x).rd q = s.rd q := by rfl
@[simp] theorem State.rd_setHold (s : State) (r sink n : Nat) (q : Nat) : (s.setHold r sink n).rd q = s.rd q := by rfl

/-! ### Fields and bits -/

theorem State.nat_setFld_same (s : State) {a hi lo : Nat} (v : Nat) (hl : lo ≤ hi + 1) (h : hi < 32) :
    (s.setFld a hi lo v).nat a = putBits (s.nat a) hi lo v := by
  rw [State.setFld, State.nat_wrN_same, Nat.mod_eq_of_lt (putBits_lt _ _ hl h (s.nat_lt a))]

theorem State.fld_setFld_same (s : State) {a hi lo : Nat} (v : Nat) (hl : lo ≤ hi + 1) (h : hi < 32) :
    (s.setFld a hi lo v).fld a hi lo = v % 2 ^ (hi + 1 - lo) := by
  rw [State.fld, State.nat_setFld_same s v hl h, bitsOf_putBits_same]

theorem State.fld_setFld_below (s : State) {a hi lo hi' lo' : Nat} (v : Nat) (hl : lo ≤ hi + 1) (h : hi < 32) (hb : hi' < lo) :
    (s.setFld a hi lo v).fld a hi' lo' = s.fld a hi' lo' := by
  rw [State.fld, State.nat_setFld_same s v hl h, bitsOf_putBits_below _ _ hb, State.fld]

theorem State.fld_setFld_above (s : State) {a hi lo hi' lo' : Nat} (v : Nat) (hl : lo ≤ hi + 1) (h : hi < 32) (hb : hi < lo') :
    (s.setFld a hi lo v).fld a hi' lo' = s.fld a hi' lo' := by
  rw [State.fld, State.nat_setFld_same s v hl h, bitsOf_putBits_above _ _ hl hb, State.fld]

theorem State.fld_setFld_ne (s : State) {a b : Nat} (hi lo v hi' lo' : Nat) (h : b ≠ a) :
    (s.setFld a hi lo v).fld b hi' lo' = s.fld b hi' lo' := State.fld_congr (s.rd_setFld_ne hi lo v h) hi' lo'

theorem State.bit_setBit_same (s : State) {a n : Nat} (x : Bool) (h : n < 32) : (s.setBit a n x).bit a n = x := by
  rw [State.bit, State.setBit, State.fld_setFld_same s _ (by omega) h, Nat.add_sub_cancel_left]
  cases x <;> rfl

theorem State.bit_setBit_ne (s : State) {a n m : Nat} (x : Bool) (h : n < 32) (hm : m ≠ n) :
    (s.setBit a n x).bit a m = s.bit a m := by
  rw [State.bit, State.bit, State.setBit]
  rcases Nat.lt_or_gt_of_ne hm with hlt | hgt
  · rw [State.fld_setFld_below s _ (by omega) h hlt]
  · rw [State.fld_setFld_above s _ (by omega) h hgt]

end Sys2Proof.Machine
end

