-- ==== Sys2Proof/Laws/Reports.lean ====
section
/-! SUPPORT. What an event, a condition report, a count and a host write can do, once each. -/

namespace Sys2Proof.Machine

/-- Nothing but registers, the reports and the counting state differs: what events, reports and counts
may change. -/
structure State.Quiet (s t : State) : Prop where
  now : t.now = s.now
  free : t.free = s.free
  qdr : t.qdr = s.qdr
  flash : t.flash = s.flash
  top : t.top = s.top
  mboxes : t.mboxes = s.mboxes
  framers : t.framers = s.framers
  txs : t.txs = s.txs
  active : t.active = s.active
  tribs : t.tribs = s.tribs
  mapOh : t.mapOh = s.mapOh
  sinkHold : t.sinkHold = s.sinkHold
  pairs : t.pairs = s.pairs
  grants : t.grants = s.grants
  commitRows : t.commitRows = s.commitRows
  policy : t.policy = s.policy
  policyPending : t.policyPending = s.policyPending
  winStart : t.winStart = s.winStart
  sdlNs : t.sdlNs = s.sdlNs
  sdlFrom : t.sdlFrom = s.sdlFrom
  refs : t.refs = s.refs
  dials : t.dials = s.dials
  gens : t.gens = s.gens
  ttcs : t.ttcs = s.ttcs
  sves : t.sves = s.sves
  beds : t.beds = s.beds
  ctxs : t.ctxs = s.ctxs
  engines : t.engines = s.engines
  cycles : t.cycles = s.cycles
  furs : t.furs = s.furs
  rts : t.rts = s.rts
  twn : t.twn = s.twn
  qdm : t.qdm = s.qdm
  outbox : t.outbox = s.outbox
  pending : t.pending = s.pending
  resets : t.cur.blockResets = s.cur.blockResets

theorem State.Quiet.refl (s : State) : s.Quiet s := by constructor <;> rfl

theorem State.Quiet.trans {s t u : State} (h : s.Quiet t) (k : t.Quiet u) : s.Quiet u := by
  constructor
  · exact k.now.trans h.now
  · exact k.free.trans h.free
  · exact k.qdr.trans h.qdr
  · exact k.flash.trans h.flash
  · exact k.top.trans h.top
  · exact k.mboxes.trans h.mboxes
  · exact k.framers.trans h.framers
  · exact k.txs.trans h.txs
  · exact k.active.trans h.active
  · exact k.tribs.trans h.tribs
  · exact k.mapOh.trans h.mapOh
  · exact k.sinkHold.trans h.sinkHold
  · exact k.pairs.trans h.pairs
  · exact k.grants.trans h.grants
  · exact k.commitRows.trans h.commitRows
  · exact k.policy.trans h.policy
  · exact k.policyPending.trans h.policyPending
  · exact k.winStart.trans h.winStart
  · exact k.sdlNs.trans h.sdlNs
  · exact k.sdlFrom.trans h.sdlFrom
  · exact k.refs.trans h.refs
  · exact k.dials.trans h.dials
  · exact k.gens.trans h.gens
  · exact k.ttcs.trans h.ttcs
  · exact k.sves.trans h.sves
  · exact k.beds.trans h.beds
  · exact k.ctxs.trans h.ctxs
  · exact k.engines.trans h.engines
  · exact k.cycles.trans h.cycles
  · exact k.furs.trans h.furs
  · exact k.rts.trans h.rts
  · exact k.twn.trans h.twn
  · exact k.qdm.trans h.qdm
  · exact k.outbox.trans h.outbox
  · exact k.pending.trans h.pending
  · exact k.resets.trans h.resets

theorem State.wr_quiet (s : State) (a : Nat) (v : Word) : s.Quiet (s.wr a v) := by constructor <;> simp

theorem State.wrN_quiet (s : State) (a n : Nat) : s.Quiet (s.wrN a n) := s.wr_quiet _ _
theorem State.setFld_quiet (s : State) (a hi lo v : Nat) : s.Quiet (s.setFld a hi lo v) := s.wrN_quiet _ _
theorem State.setBit_quiet (s : State) (a n : Nat) (b : Bool) : s.Quiet (s.setBit a n b) := s.setFld_quiet _ _ _ _
theorem State.addTo_quiet (s : State) (a n : Nat) : s.Quiet (s.addTo a n) := s.wrN_quiet _ _
theorem State.inc_quiet (s : State) (a : Nat) : s.Quiet (s.inc a) := s.addTo_quiet _ _
theorem State.wr48_quiet (s : State) (lo hi v : Nat) : s.Quiet (s.wr48 lo hi v) := by
  rw [State.wr48]; exact (s.wrN_quiet _ _).trans (State.wrN_quiet _ _ _)

theorem State.setCur_quiet (s : State) (c : Cur) (h : c.blockResets = s.cur.blockResets) : s.Quiet (s.setCur c) := by
  constructor <;> simp [h]

theorem State.setInv_quiet (s : State) (x : Inv) : s.Quiet (s.setInv x) := by constructor <;> simp

/-! ### Events (R270, R419) -/

theorem State.summary_quiet (s : State) (base mask : Nat) : s.Quiet (s.summary base mask) := by
  constructor <;> simp [State.summary]

@[simp] theorem State.summary_cur (s : State) (base mask : Nat) : (s.summary base mask).cur = s.cur := by
  simp [State.summary]

@[simp] theorem State.summary_inv (s : State) (base mask : Nat) : (s.summary base mask).inv = s.inv := by
  simp [State.summary]

theorem State.summary_regs (s : State) (base mask : Nat) :
    ∃ v w, (s.summary base mask).regs = ((s.setFld (base + 8) 31 24 v).setFld (base + 8) 23 0 w).regs :=
  ⟨_, _, rfl⟩

/-- SUMMARY touches no other register. -/
theorem State.rd_summary_ne (s : State) {base a : Nat} (mask : Nat) (h : a ≠ base + 8) :
    (s.summary base mask).rd a = s.rd a := by
  obtain ⟨v, w, e⟩ := s.summary_regs base mask
  rw [State.rd_congr e, State.rd_setFld_ne _ _ _ _ h, State.rd_setFld_ne _ _ _ _ h]

theorem State.event_quiet (s : State) (a b : Nat) : s.Quiet (s.event a b) := by
  have h : s.Quiet ((s.setFld a 31 24 (s.fld a 31 24 + 1)).setFld a b b 1) :=
    (s.setFld_quiet _ _ _ _).trans (State.setFld_quiet _ _ _ _ _)
  unfold State.event
  split
  · exact h
  · exact h.trans (State.summary_quiet _ _ _)

@[simp] theorem State.event_cur (s : State) (a b : Nat) : (s.event a b).cur = s.cur := by
  unfold State.event; split <;> simp

@[simp] theorem State.event_inv (s : State) (a b : Nat) : (s.event a b).inv = s.inv := by
  unfold State.event; split <;> simp

/-- An event touches its own register and the SUMMARY of the instance. -/
theorem State.rd_event_ne (s : State) {a c : Nat} (b : Nat) (h : c ≠ a)
    (h8 : ∀ k n base, blockOf a = some (k, n, base) → c ≠ base + 8) : (s.event a b).rd c = s.rd c := by
  have e : ∀ (x y z : Nat), ((s.setFld a 31 24 x).setFld a b b y).rd c = s.rd c := fun x y _ => by
    rw [State.rd_setFld_ne _ _ _ _ h, State.rd_setFld_ne _ _ _ _ h]
  unfold State.event
  split
  · exact e _ _ 0
  · next k n base hb => rw [State.rd_summary_ne _ _ (h8 k n base hb)]; exact e _ _ 0

theorem State.nat_event_same (s : State) {a b : Nat} (hb : b < 24)
    (h8 : ∀ k n base, blockOf a = some (k, n, base) → a ≠ base + 8) :
    (s.event a b).nat a = putBits (putBits (s.nat a) 31 24 (s.fld a 31 24 + 1)) b b 1 := by
  have e : ((s.setFld a 31 24 (s.fld a 31 24 + 1)).setFld a b b 1).nat a =
      putBits (putBits (s.nat a) 31 24 (s.fld a 31 24 + 1)) b b 1 := by
    rw [State.nat_setFld_same _ _ (by omega) (by omega), State.nat_setFld_same _ _ (by omega) (by omega)]
  unfold State.event
  split
  · exact e
  · next k n base hbk => rw [State.nat_congr (State.rd_summary_ne _ _ (h8 k n base hbk))]; exact e

/-- The event's bit is set, and SEQ is one more. -/
theorem State.bit_event_same (s : State) {a b : Nat} (hb : b < 24)
    (h8 : ∀ k n base, blockOf a = some (k, n, base) → a ≠ base + 8) :
    (s.event a b).bit a b = true ∧ (s.event a b).fld a 31 24 = (s.fld a 31 24 + 1) % 256 := by
  constructor
  · rw [State.bit, State.fld, State.nat_event_same s hb h8, bitsOf_putBits_same, Nat.add_sub_cancel_left]; rfl
  · rw [State.fld, State.nat_event_same s hb h8, bitsOf_putBits_above _ _ (by omega) (by omega), bitsOf_putBits_same]
    rfl

/-! ### Reports (R285 to R287) -/

/-- The registers that a report of `src` may change. -/
def reportReg (src a : Nat) : Prop :=
  a = srcA src 0x0C ∨ a = srcA src 0x14 ∨ a = curA 0x130 ∨ a = curA 0x104 ∨ a = curA 8

theorem State.dropReport_quiet (s : State) (src : Nat) : s.Quiet (s.dropReport src) := by
  unfold State.dropReport
  exact (((s.inc_quiet (srcA src 0x14)).trans (State.inc_quiet _ (curA 0x130))).trans
    (State.event_quiet _ (curA 0x104) 4)).trans (State.setCur_quiet _ _ rfl)

theorem blockOf_curEvents : blockOf (curA 0x104) = some (.cur, 0, curA 0) := by decide

theorem State.rd_dropReport_ne (s : State) {src a : Nat} (h : ¬ reportReg src a) : (s.dropReport src).rd a = s.rd a := by
  simp only [reportReg, not_or] at h
  obtain ⟨_, h2, h3, h4, h5⟩ := h
  unfold State.dropReport
  rw [State.rd_setCur, State.rd_event_ne _ _ h4, State.rd_inc_ne _ h3, State.rd_inc_ne _ h2]
  intro k n base hb
  rw [blockOf_curEvents] at hb
  cases hb
  exact h5

theorem State.raiseAs_quiet (s : State) (src kind : Nat) (clear : Bool) (detail : Nat) (forced : Bool) :
    s.Quiet (s.raiseAs src kind clear detail forced) := by
  have h := s.setFld_quiet (srcA src 0x0C) 7 0 (s.fld (srcA src 0x0C) 7 0 + 1)
  unfold State.raiseAs
  dsimp only
  split
  · exact h.trans (State.dropReport_quiet _ _)
  · exact h.trans (State.setCur_quiet _ _ rfl)

theorem State.rd_raiseAs_ne (s : State) {src a : Nat} (kind : Nat) (clear : Bool) (detail : Nat) (forced : Bool)
    (h : ¬ reportReg src a) : (s.raiseAs src kind clear detail forced).rd a = s.rd a := by
  have hs : a ≠ srcA src 0x0C := fun e => h (.inl e)
  unfold State.raiseAs
  dsimp only
  split
  · rw [State.rd_dropReport_ne _ h, State.rd_setFld_ne _ _ _ _ hs]
  · rw [State.rd_setCur, State.rd_setFld_ne _ _ _ _ hs]

/-- A report finds room: it is the last of its source's queue, with the number that SEQUENCE had. -/
theorem State.intake_raiseAs (s : State) (src kind : Nat) (clear : Bool) (detail : Nat) (forced : Bool)
    (h : (Tab.get s.cur.intake [] src).length < 4) :
    Tab.get (s.raiseAs src kind clear detail forced).cur.intake [] src = Tab.get s.cur.intake [] src ++
      [{ src := src, kind := kind, clear := clear, detail := detail % 2 ^ 32, seq := s.fld (srcA src 0x0C) 7 0,
         forced := forced, conseq := s.shadowed src && s.conseqKind kind }] := by
  unfold State.raiseAs
  dsimp only
  rw [if_neg (by simpa using h)]
  simp

/-- A report that finds four waiting is dropped: the queue is as it was. -/
theorem State.intake_raiseAs_full (s : State) (src kind : Nat) (clear : Bool) (detail : Nat) (forced : Bool)
    (h : 4 ≤ (Tab.get s.cur.intake [] src).length) :
    (s.raiseAs src kind clear detail forced).cur.intake = s.cur.intake := by
  unfold State.raiseAs
  dsimp only
  rw [if_pos h]
  simp [State.dropReport]

/-- The queue of another source is left alone. -/
theorem State.intake_raiseAs_ne (s : State) {src x : Nat} (kind : Nat) (clear : Bool) (detail : Nat) (forced : Bool)
    (h : x ≠ src) :
    Tab.get (s.raiseAs src kind clear detail forced).cur.intake [] x = Tab.get s.cur.intake [] x := by
  unfold State.raiseAs
  dsimp only
  split
  · simp [State.dropReport]
  · simp [Tab.get_set_ne _ _ _ _ h]

theorem State.rate_quiet (s : State) (key n : Nat) : s.Quiet (s.rate key n).2 := by
  have : ∀ r : Tab (Nat × Nat), s.Quiet (s.setCur { s.cur with rates := r }) := fun r => s.setCur_quiet _ rfl
  unfold State.rate
  dsimp only
  split
  · exact this _
  · split
    · exact this _
    · exact State.Quiet.refl s

theorem State.rate_regs (s : State) (key n : Nat) : (s.rate key n).2.regs = s.regs := by
  unfold State.rate
  dsimp only
  split
  · rfl
  · split <;> rfl

theorem State.raiseLim_quiet (s : State) (n sub src kind : Nat) (clear : Bool) (detail : Nat) :
    s.Quiet (s.raiseLim n sub src kind clear detail) := by
  have h := s.rate_quiet ((sub * 1024 + src) * 256 + kind) n
  unfold State.raiseLim
  split
  · next t e => rw [e] at h; exact h.trans (State.raiseAs_quiet _ _ _ _ _ _)
  · next t e => rw [e] at h; exact h

theorem State.rd_raiseLim_ne (s : State) {src a : Nat} (n sub kind : Nat) (clear : Bool) (detail : Nat)
    (h : ¬ reportReg src a) : (s.raiseLim n sub src kind clear detail).rd a = s.rd a := by
  have hr := s.rate_regs ((sub * 1024 + src) * 256 + kind) n
  unfold State.raiseLim
  split
  · next t e => rw [e] at hr; rw [State.raise, State.rd_raiseAs_ne _ _ _ _ _ h]; exact State.rd_congr hr a
  · next t e => rw [e] at hr; exact State.rd_congr hr a

/-! ### Counting (R317, R323) -/

/-- The registers that counting may change: Inventory's counters, its INV_EVENTS and SUMMARY, and what a report of
source 98 changes. -/
def countReg (a : Nat) : Prop :=
  (0x32000 ≤ a ∧ a < 0x34B00) ∨ a = invA 0x108 ∨ a = invA 8 ∨ reportReg 98 a

theorem not_reportReg {a : Nat} (h : ¬ countReg a) : ¬ reportReg 98 a := fun e => h (.inr (.inr (.inr e)))

theorem blockOf_invEvents : blockOf (invA 0x108) = some (.inv, 0, invA 0) := by decide

theorem State.cntWrapNote_quiet (s : State) (c : Nat) : s.Quiet (s.cntWrapNote c) := by
  have h := (s.setBit_quiet (cntA c 0) 12 true).trans (State.event_quiet _ (invA 0x108) 1)
  unfold State.cntWrapNote
  dsimp only
  split
  · exact h.trans (State.raiseLim_quiet _ _ _ _ _ _ _)
  · exact h

theorem State.cntWrap_quiet (s : State) (c : Nat) : s.Quiet (s.cntWrap c) := by
  have h := s.cntWrapNote_quiet c
  unfold State.cntWrap
  dsimp only
  split
  · exact (h.trans (State.wr48_quiet _ _ _ _)).trans (State.setInv_quiet _ _)
  · exact h

theorem not_cntA {a : Nat} (h : ¬ countReg a) {c o : Nat} (hc : c < 344) (ho : o < 0x20) : a ≠ cntA c o := by
  intro e
  apply h
  unfold cntA invA at e
  exact .inl (by omega)

theorem State.rd_cntWrapNote_ne (s : State) {c a : Nat} (hc : c < 344) (h : ¬ countReg a) :
    (s.cntWrapNote c).rd a = s.rd a := by
  have h1 : ((s.setBit (cntA c 0) 12 true).event (invA 0x108) 1).rd a = s.rd a := by
    rw [State.rd_event_ne, State.rd_setBit_ne _ _ _ (not_cntA h hc (by omega))]
    · exact fun e => h (.inr (.inl e))
    · intro k n base hb
      rw [blockOf_invEvents] at hb
      cases hb
      exact fun e => h (.inr (.inr (.inl e)))
  unfold State.cntWrapNote
  dsimp only
  split
  · rw [State.rd_raiseLim_ne _ _ _ _ _ _ (not_reportReg h), h1]
  · exact h1

theorem State.rd_cntWrap_ne (s : State) {c a : Nat} (hc : c < 344) (h : ¬ countReg a) : (s.cntWrap c).rd a = s.rd a := by
  unfold State.cntWrap
  dsimp only
  split
  · rw [State.rd_setInv, State.setCount, State.rd_wr48_ne _ _ (not_cntA h hc (by omega)) (not_cntA h hc (by omega)),
      State.rd_cntWrapNote_ne s hc h]
  · exact State.rd_cntWrapNote_ne s hc h

theorem State.cntAdd_quiet (s : State) (c n : Nat) : s.Quiet (s.cntAdd c n) := by
  have h := s.wr48_quiet (cntA c 8) (cntA c 0xC) ((s.count c + n) % 2 ^ 48)
  unfold State.cntAdd
  dsimp only
  split
  · exact h
  · exact h.trans (State.cntWrap_quiet _ _)

theorem State.rd_cntAdd_ne (s : State) {c a : Nat} (n : Nat) (hc : c < 344) (h : ¬ countReg a) :
    (s.cntAdd c n).rd a = s.rd a := by
  have e : (s.setCount c ((s.count c + n) % 2 ^ 48)).rd a = s.rd a := by
    rw [State.setCount, State.rd_wr48_ne _ _ (not_cntA h hc (by omega)) (not_cntA h hc (by omega))]
  unfold State.cntAdd
  dsimp only
  split
  · exact e
  · rw [State.rd_cntWrap_ne _ hc h, e]

/-- What holds through every count of a fold holds of it. -/
theorem foldl_keeps {β : Type} (P : State → Prop) (f : State → β → State) (l : List β)
    (hf : ∀ s, ∀ b ∈ l, P s → P (f s b)) (s : State) (h : P s) : P (l.foldl f s) := by
  induction l generalizing s with
  | nil => exact h
  | cons b rest ih =>
    exact ih (fun s c hc => hf s c (List.mem_cons_of_mem _ hc)) _ (hf s b List.mem_cons_self h)

/-- Counting leaves everything but Inventory's and Curator's registers and the reports as it was. -/
theorem State.tally_quiet (s : State) (base k ev n : Nat) (sel : Option (Nat × Nat)) : s.Quiet (s.tally base k ev n sel) := by
  unfold State.tally
  split
  · exact State.Quiet.refl s
  · apply foldl_keeps (fun t => s.Quiet t) _ _ _ _ (State.Quiet.refl s)
    intro t i _ ht
    split
    · exact ht.trans (State.cntAdd_quiet _ _ _)
    · exact ht

theorem State.rd_tally_ne (s : State) {base k a : Nat} (ev n : Nat) (sel : Option (Nat × Nat)) (hb : base + k ≤ 344)
    (h : ¬ countReg a) : (s.tally base k ev n sel).rd a = s.rd a := by
  unfold State.tally
  split
  · rfl
  · apply foldl_keeps (fun t => t.rd a = s.rd a) _ _ _ _ rfl
    intro t i hi ht
    split
    · rw [State.rd_cntAdd_ne _ _ (by have := List.mem_range.1 hi; omega) h, ht]
    · exact ht

theorem State.tallyHif_quiet (s : State) (ev n : Nat) : s.Quiet (s.tallyHif ev n) := s.tally_quiet _ _ _ _ _

theorem State.rd_tallyHif_ne (s : State) {a : Nat} (ev n : Nat) (h : ¬ countReg a) : (s.tallyHif ev n).rd a = s.rd a :=
  s.rd_tally_ne _ _ _ (by omega) h

theorem State.tallyBed_quiet (s : State) (b e ev n : Nat) : s.Quiet (s.tallyBed b e ev n) := s.tally_quiet _ _ _ _ _

theorem State.rd_tallyBed_ne (s : State) {b a : Nat} (e ev n : Nat) (hb : b < 16) (h : ¬ countReg a) :
    (s.tallyBed b e ev n).rd a = s.rd a := s.rd_tally_ne _ _ _ (by omega) h

/-! ### Commands -/

/-- A command's outcome is a next state with the queue and the clock as they were. -/
@[simp] theorem done_eq (s t : State) :
    done s t = .next (((t.setNow s.now).setPending s.pending).setSumCycle []) := by rfl

theorem State.inReset_congr {s t : State} (h1 : t.top = s.top) (h2 : t.rts = s.rts)
    (h3 : t.cur.blockResets = s.cur.blockResets) (a : Nat) : t.inReset a = s.inReset a := by
  unfold State.inReset
  rw [h1, h2, h3]

theorem State.Quiet.inReset {s t : State} (h : s.Quiet t) (a : Nat) : t.inReset a = s.inReset a :=
  State.inReset_congr h.top h.rts h.resets a

/-- A host write to a register outside TOP, of a block out of reset, acts once the access is counted. -/
theorem State.hostTo_acts (s : State) {a : Nat} (f : State → State) (hr : s.hostReaches = true) (ha : 0x10000 ≤ a)
    (hi : s.inReset a = false) : s.hostTo a f = f (s.tallyHif 3 1) := by
  have hq := s.tallyHif_quiet 3 1
  unfold State.hostTo
  rw [hr]
  have : decide (a < 0x10000) = false := by simpa using ha
  simp [this, hq.inReset, hi]

/-- A host write that does not reach the part does nothing (R263). -/
theorem State.hostTo_unreached (s : State) (a : Nat) (f : State → State) (hr : s.hostReaches = false) : s.hostTo a f = s := by
  unfold State.hostTo
  rw [hr]
  rfl

end Sys2Proof.Machine
end

