-- ==== Sys2Proof/Laws/Sprig.lean ====
section
/-! SUPPORT. What the issue of a Sprig instruction can do, once: the counts of the issue, and an instruction
that works on its context alone. -/

namespace Sys2Proof.Machine

/-! ### Contexts and beds -/

/-- Two updates at one key: the second counts. -/
theorem Tab.set_set {α : Type} [DecidableEq α] (t : Tab α) (d : α) (k : Nat) {v : α} (w : α) (hv : v ≠ d) (hw : w ≠ d) :
    Tab.set (Tab.set t d k v) d k w = Tab.set t d k w := by
  rw [Tab.set, Tab.set, Tab.set, if_neg hv, if_neg hw, if_neg hw]
  induction t with
  | nil => simp [Tab.insert]
  | cons e rest ih =>
    obtain ⟨j, u⟩ := e
    by_cases h1 : k < j
    · simp [Tab.insert, h1]
    · by_cases h2 : j = k
      · simp [Tab.insert, h2]
      · simp [Tab.insert, h1, h2, ih]

@[simp] theorem State.ctx_setCtx_same (s : State) (k : Nat) (x : Ctx) : (s.setCtx k x).ctx k = x := by
  simp [State.ctx, State.setCtx]

theorem State.ctx_setCtx_ne (s : State) {k j : Nat} (x : Ctx) (h : j ≠ k) : (s.setCtx k x).ctx j = s.ctx j := by
  simp [State.ctx, State.setCtx, Tab.get_set_ne _ _ _ _ h]

theorem State.ctx_congr {s t : State} (h : s.ctxs = t.ctxs) (k : Nat) : s.ctx k = t.ctx k := by
  rw [State.ctx, State.ctx, h]

@[simp] theorem State.bed_setBed_same (s : State) (b : Nat) (x : Bed) : (s.setBed b x).bed b = x := by
  simp [State.bed, State.setBed]

theorem State.bed_setBed_ne (s : State) {b c : Nat} (x : Bed) (h : c ≠ b) : (s.setBed b x).bed c = s.bed c := by
  simp [State.bed, State.setBed, Tab.get_set_ne _ _ _ _ h]

theorem State.bed_congr {s t : State} (h : s.beds = t.beds) (b : Nat) : s.bed b = t.bed b := by
  rw [State.bed, State.bed, h]

theorem keyOf_bed (c : CtxId) : keyBed (keyOf c) = c.bed.val := by
  have := c.eng.isLt; have := c.ctx.isLt; unfold keyBed keyOf; omega

theorem keyOf_eng (c : CtxId) : keyEng (keyOf c) = c.eng.val := by
  have := c.eng.isLt; have := c.ctx.isLt; unfold keyEng keyOf; omega

/-! ### Counting that counts nothing -/

theorem State.tally_uncounted (s : State) (base k ev n : Nat) (sel : Option (Nat × Nat)) (h : ∀ c, s.cntOn c = false) :
    s.tally base k ev n sel = s := by
  unfold State.tally
  split
  · rfl
  · apply foldl_keeps (fun t => t = s) _ _ _ _ rfl
    intro t i _ ht
    subst ht
    simp [State.tallies, h]

theorem State.cntOn_congr {s t : State} (h1 : s.regs = t.regs) (h2 : s.inv = t.inv) (c : Nat) : s.cntOn c = t.cntOn c := by
  have hn : ∀ a, s.nat a = t.nat a := fun a => State.nat_congr (State.rd_congr h1 a)
  simp only [State.cntOn, State.bit, State.fld, State.cntValid, hn, h2]

/-! ### Issue -/

theorem State.issues_cycle {s : State} {c : CtxId} {i : Instr} (h : s.issues c i = true) : ∃ t, s.issueCycle c i = some t := by
  simp only [State.issues, Bool.and_eq_true] at h
  exact Option.isSome_iff_exists.1 h.1

/-- What an engine issues next is one of its contexts that can issue. -/
theorem State.nextIssue_some {s : State} {g t k : Nat} (h : s.nextIssue g = some (t, k)) : s.issueTime (4 * g + k) = some t := by
  suffices H : ∀ (l : List Nat) (m : Option (Nat × Nat)), (∀ u j, m = some (u, j) → s.issueTime (4 * g + j) = some u) →
      ∀ u j, l.foldl (fun m k => match s.issueTime (4 * g + k), m with
        | none, m => m
        | some t, none => some (t, k)
        | some t, some (u, j) => if t < u then some (t, k) else some (u, j)) m = some (u, j) →
        s.issueTime (4 * g + j) = some u from H _ none (by simp) t k h
  intro l
  induction l with
  | nil => intro m hm u j e; exact hm u j e
  | cons a rest ih =>
    intro m hm u j e
    refine ih _ ?_ u j e
    intro v b hb
    dsimp only at hb
    split at hb
    · exact hm v b hb
    · next t' ht => cases hb; exact ht
    · next t' u' j' ht =>
      split at hb
      · cases hb; exact ht
      · exact hm v b hb

/-- A context that the instruction issues from holds a handler, and waits for nothing. -/
theorem State.issues_ready {s : State} {c : CtxId} {i : Instr} (h : s.issues c i = true) :
    (s.ctx (keyOf c)).active = true ∧ (s.ctx (keyOf c)).wait = .none := by
  obtain ⟨n, hn⟩ := State.issues_cycle h
  unfold State.issueCycle at hn
  split at hn
  · cases hn
  · next t k e =>
    dsimp only at hn
    split at hn
    · cases hn
    · next hk =>
      have hk : k = c.ctx.val := by simpa using hk
      have h1 := State.nextIssue_some e
      have h2 : 4 * (keyOf c / 4) + k = keyOf c := by
        have := c.ctx.isLt; subst hk; unfold keyOf; omega
      rw [h2] at h1
      unfold State.issueTime at h1
      split at h1
      · next r hr =>
        unfold State.readyTime at hr
        dsimp only at hr
        split at hr
        · next ha =>
          simp only [Bool.and_eq_true, beq_iff_eq] at ha
          exact ⟨ha.1.2, ha.2⟩
        · cases hr
      · cases h1

theorem State.issues_active {s : State} {c : CtxId} {i : Instr} (h : s.issues c i = true) : (s.ctx (keyOf c)).active = true :=
  (State.issues_ready h).1

theorem State.issues_waits {s : State} {c : CtxId} {i : Instr} (h : s.issues c i = true) : (s.ctx (keyOf c)).wait = .none :=
  (State.issues_ready h).2

theorem State.bedEv_quiet (s : State) (c : CtxId) (ev : Nat) : s.Quiet (s.bedEv c ev) := s.tallyBed_quiet _ _ _ _

theorem State.rd_bedEv_ne (s : State) (c : CtxId) (ev : Nat) {a : Nat} (h : ¬ countReg a) : (s.bedEv c ev).rd a = s.rd a := by
  rw [State.bedEv]; exact State.rd_tallyBed_ne s (e := c.eng.val) (ev := ev) (n := 1) (hb := c.bed.isLt) h

theorem State.bedEv_uncounted (s : State) (c : CtxId) (ev : Nat) (h : ∀ n, s.cntOn n = false) : s.bedEv c ev = s := by
  rw [State.bedEv, State.tallyBed]; exact State.tally_uncounted s _ _ _ _ _ h

/-! ### Time that passes (R315 to R320) -/

theorem State.counters_lt {s : State} {n : Nat} (h : n ∈ s.counters) : n < 344 := by
  simp only [State.counters, List.mem_map, List.mem_filter, Bool.and_eq_true, decide_eq_true_eq] at h
  obtain ⟨e, ⟨_, ⟨_, h2⟩, _⟩, rfl⟩ := h
  unfold cntA invA at *
  omega

/-- What Inventory counts while time passes is counting, and nothing else. -/
theorem State.countTo_quiet (s : State) (t : Nat) : s.Quiet (s.countTo t) := by
  unfold State.countTo
  apply foldl_keeps (fun u => s.Quiet u) _ _ _ _ (State.Quiet.refl s)
  intro u n _ hu
  generalize (if u.cntOn n && s.domainRuns (cntDomain n) then s.passed n t else 0) = m
  dsimp only
  split
  · exact hu
  · exact hu.trans (State.cntAdd_quiet _ _ _)

theorem State.rd_countTo_ne (s : State) (t : Nat) {a : Nat} (h : ¬ countReg a) : (s.countTo t).rd a = s.rd a := by
  unfold State.countTo
  apply foldl_keeps (fun u => u.rd a = s.rd a) _ _ _ _ rfl
  intro u n hn hu
  generalize (if u.cntOn n && s.domainRuns (cntDomain n) then s.passed n t else 0) = m
  dsimp only
  split
  · exact hu
  · rw [State.rd_cntAdd_ne _ _ (State.counters_lt hn) h, hu]

theorem State.countTo_uncounted (s : State) (t : Nat) (h : ∀ n, s.cntOn n = false) : s.countTo t = s := by
  unfold State.countTo
  apply foldl_keeps (fun u => u = s) _ _ _ _ rfl
  intro u n _ hu
  subst hu
  simp [h]

/-- The state in the cycle of the issue: counting, and the clock. -/
theorem State.atIssue_eq {s : State} {c : CtxId} {i : Instr} {n : Nat} (h : s.issueCycle c i = some n) :
    ∃ q, s.Quiet q ∧ (∀ a, ¬ countReg a → q.rd a = s.rd a) ∧ ((∀ k, s.cntOn k = false) → q = s) ∧
      s.atIssue c i = q.setNow n := by
  unfold State.atIssue
  rw [h]
  by_cases e : n = s.now
  · exact ⟨s, State.Quiet.refl s, fun _ _ => rfl, fun _ => rfl, by simp only [if_pos e]; subst e; rfl⟩
  · exact ⟨s.countTo n, s.countTo_quiet n, fun a ha => s.rd_countTo_ne n ha, s.countTo_uncounted n,
      by simp only [if_neg e]; rfl⟩

/-- The slot: the engine's last context, the Ready counts and the cycle of the bed. -/
theorem State.tookSlot_eq (s : State) (c : CtxId) (i : Instr) :
    ∃ E C, s.tookSlot c i = (s.setEngines E).setCycles C ∧ (Tab.get E Engine.init (keyOf c / 4)).last = c.ctx.val ∧
      (∀ g, g ≠ keyOf c / 4 → Tab.get E Engine.init g = s.engine g) ∧
      ∀ b, b ≠ c.bed.val → Tab.get C Cycle.init b = s.cycle b := by
  refine ⟨_, _, rfl, ?_, ?_, ?_⟩
  · simp [State.setEngine, State.engine]
  · intro g hg
    simp [State.setEngine, State.engine, Tab.get_set_ne _ _ _ _ hg]
  · intro b hb
    exact Tab.get_set_ne _ _ _ _ hb

/-- The issue moves the clock to its cycle, takes the slot, counts, and adds to the handler's own count; it changes
nothing else. -/
theorem State.issued_eq {s : State} {c : CtxId} {i : Instr} (h : s.issues c i = true) :
    ∃ q n E C, s.Quiet q ∧ (∀ a, ¬ countReg a → q.rd a = s.rd a) ∧ ((∀ k, s.cntOn k = false) → q = s) ∧
      s.issueCycle c i = some n ∧ (Tab.get E Engine.init (keyOf c / 4)).last = c.ctx.val ∧
      (∀ g, g ≠ keyOf c / 4 → Tab.get E Engine.init g = s.engine g) ∧
      (∀ b, b ≠ c.bed.val → Tab.get C Cycle.init b = s.cycle b) ∧
      (s.atIssue c i).issued c i = (((q.setNow n).setEngines E).setCycles C).setCtx (keyOf c)
        { s.ctx (keyOf c) with issued := (s.ctx (keyOf c)).issued + 1 } := by
  obtain ⟨n, hn⟩ := State.issues_cycle h
  obtain ⟨p, hp, hr, hu, e⟩ := State.atIssue_eq hn
  let r := ((p.setNow n).bedEv c 2).bedEv c (if yieldsSlot i then 4 else 3)
  have hq : (p.setNow n).Quiet r := (State.bedEv_quiet _ c 2).trans (State.bedEv_quiet _ c _)
  obtain ⟨E, C, et, h1, h2, h3⟩ := State.tookSlot_eq r c i
  have hs : s.Quiet (r.setNow s.now) := by
    constructor <;> simp [hq.free, hq.qdr, hq.flash, hq.top, hq.mboxes, hq.framers, hq.txs, hq.active, hq.tribs, hq.mapOh,
      hq.sinkHold, hq.pairs, hq.grants, hq.commitRows, hq.policy, hq.policyPending, hq.winStart, hq.sdlNs, hq.sdlFrom, hq.refs,
      hq.dials, hq.gens, hq.ttcs, hq.sves, hq.beds, hq.ctxs, hq.engines, hq.cycles, hq.furs, hq.rts, hq.twn, hq.qdm, hq.outbox,
      hq.pending, hq.resets, hp.free, hp.qdr, hp.flash, hp.top, hp.mboxes, hp.framers, hp.txs, hp.active, hp.tribs, hp.mapOh,
      hp.sinkHold, hp.pairs, hp.grants, hp.commitRows, hp.policy, hp.policyPending, hp.winStart, hp.sdlNs, hp.sdlFrom, hp.refs,
      hp.dials, hp.gens, hp.ttcs, hp.sves, hp.beds, hp.ctxs, hp.engines, hp.cycles, hp.furs, hp.rts, hp.twn, hp.qdm, hp.outbox,
      hp.pending, hp.resets]
  have hnow : r.now = n := by rw [hq.now]; rfl
  have hback : r = (r.setNow s.now).setNow n := by rw [← hnow]; rfl
  refine ⟨r.setNow s.now, n, E, C, hs, ?_, ?_, hn, h1, ?_, ?_, ?_⟩
  · intro a ha
    have : r.rd a = (p.setNow n).rd a := by
      rw [State.rd_bedEv_ne _ _ _ ha, State.rd_bedEv_ne _ _ _ ha]
    exact this.trans (hr a ha)
  · intro k
    have hps := hu k
    subst hps
    have k' : ∀ m, (p.setNow n).cntOn m = false := k
    have : r = p.setNow n := by
      show ((p.setNow n).bedEv c 2).bedEv c _ = _
      rw [State.bedEv_uncounted _ c 2 k', State.bedEv_uncounted _ c _ k']
    rw [this]; rfl
  · intro g hg; rw [h2 g hg, State.engine, hq.engines]; exact congrArg (Tab.get · Engine.init g) hp.engines
  · intro b hb; rw [h3 b hb, State.cycle, hq.cycles]; exact congrArg (Tab.get · Cycle.init b) hp.cycles
  · rw [e]
    show (let x := r.tookSlot c i; let y := x.ctx (keyOf c); x.setCtx (keyOf c) { y with issued := y.issued + 1 }) = _
    dsimp only
    have hc : (r.tookSlot c i).ctx (keyOf c) = s.ctx (keyOf c) := State.ctx_congr (by rw [et]; exact hs.ctxs) _
    rw [hc, et, ← hback]

@[simp] theorem State.issued_ctx {s : State} {c : CtxId} {i : Instr} (h : s.issues c i = true) :
    ((s.atIssue c i).issued c i).ctx (keyOf c) = { s.ctx (keyOf c) with issued := (s.ctx (keyOf c)).issued + 1 } := by
  obtain ⟨q, n, E, C, _, _, _, _, _, _, _, e⟩ := State.issued_eq h
  rw [e, State.ctx_setCtx_same]

/-- An instruction that its context can issue has its effect, after the counts of the issue. -/
theorem sprig_acts {c : CtxId} {i : Instr} {s : State} (f : State → State) (h : s.issues c i = true) :
    sprig c i s f = done (s.atIssue c i) (f ((s.atIssue c i).issued c i)) := by
  unfold sprig; rw [if_pos h]

/-- One that it cannot issue does nothing. -/
theorem sprig_idle {c : CtxId} {i : Instr} {s : State} (f : State → State) (h : s.issues c i = false) :
    sprig c i s f = done s s := by
  unfold sprig; rw [if_neg (by simp [h])]

/-! ### Instructions that work on their context alone -/

open Sys2Proof.Cert in
/-- Where only the context, the slot, the counts and the reports have changed. -/
theorem onlyIssue_of {c : CtxId} {i : Instr} {s q : State} {n : Nat} {E : Tab Engine} {C : Tab Cycle} (x : Ctx) (hq : s.Quiet q)
    (hr : ∀ a, ¬ countReg a → q.rd a = s.rd a) (hu : (∀ k, s.cntOn k = false) → q = s) (hn : s.issueCycle c i = some n)
    (h1 : (Tab.get E Engine.init (keyOf c / 4)).last = c.ctx.val)
    (h2 : ∀ g, g ≠ keyOf c / 4 → Tab.get E Engine.init g = s.engine g)
    (h3 : ∀ b, b ≠ c.bed.val → Tab.get C Cycle.init b = s.cycle b) :
    OnlyIssue i c s (((((((q.setNow n).setEngines E).setCycles C).setCtx (keyOf c) x).setNow n).setPending s.pending).setSumCycle
      []) := by
  refine ⟨⟨⟨by simpa using hn, by simpa [State.engine] using h1, ?_, ?_⟩, ?_⟩, ?_, ?_, ?_⟩
  · intro g hg; simpa [State.engine] using h2 g hg
  · intro b hb; simpa [State.cycle] using h3 b hb
  · intro p hp
    cases p <;> simp at hp <;> simp [Part.same, hq.free, hq.qdr, hq.flash, hq.top, hq.mboxes, hq.framers, hq.txs, hq.active,
      hq.tribs, hq.mapOh, hq.sinkHold, hq.pairs, hq.grants, hq.commitRows, hq.policy, hq.policyPending, hq.winStart, hq.sdlNs,
      hq.sdlFrom, hq.refs, hq.dials, hq.gens, hq.ttcs, hq.sves, hq.beds, hq.furs, hq.rts, hq.twn, hq.qdm, hq.outbox]
  · intro a ha
    exact (State.rd_congr (by simp) a).trans (hr a ha)
  · intro k hk
    simp [State.ctx, State.setCtx, Tab.get_set_ne _ _ _ _ hk, hq.ctxs]
  · intro h
    rw [hu h]
    simp [State.ctx, State.setCtx]
    rfl

theorem Ctx.ne_init {x : Ctx} (h : x.active = true) : x ≠ Ctx.init := by
  intro e; rw [e] at h; cases h

theorem State.setCtx_setCtx (s : State) (k : Nat) {x y : Ctx} (hx : x.active = true) (hy : y.active = true) :
    (s.setCtx k x).setCtx k y = s.setCtx k y := by
  simp only [State.setCtx, State.setCtxs]
  rw [Tab.set_set _ _ _ _ (Ctx.ne_init hx) (Ctx.ne_init hy)]

open Sys2Proof.Cert in
theorem sameCtx_active {x y : Ctx} (h : sameCtx x y) : x.active = y.active := by
  simpa using congrArg Ctx.active h.2

open Sys2Proof.Cert in
/-- An instruction that works on its context alone leads to that context. -/
theorem onCtx_leads {c : CtxId} {i : Instr} {s : State} {n : Nat} {f : Ctx → Ctx} {y : Ctx} (he : exec i s = onCtx c i s n f)
    (h : s.issues c i = true) (hy : sameCtx ((f { s.ctx (keyOf c) with issued := (s.ctx (keyOf c)).issued + 1 }).next n) y)
    (ha : y.active = true) : leads i c s y := by
  obtain ⟨q, m, E, C, hq, hr, hu, hn, h1, h2, h3, e⟩ := State.issued_eq h
  refine ⟨_, he.trans ((sprig_acts _ h).trans (done_eq _ _)), ?_⟩
  obtain ⟨p, hp, _, _, ea⟩ := State.atIssue_eq hn
  have e1 : (s.atIssue c i).now = m := by rw [ea]; rfl
  have e2 : (s.atIssue c i).pending = s.pending := by rw [ea]; exact hp.pending
  rw [State.issued_ctx h, e, e1, e2, State.setCtx_setCtx]
  · refine ⟨?_, onlyIssue_of _ hq hr hu hn h1 h2 h3⟩
    simpa [State.ctx, State.setCtx] using hy
  · exact State.issues_active h
  · rw [sameCtx_active hy, ha]

end Sys2Proof.Machine
end

