-- ==== Sys2Proof/Laws/Kept.lean ====
section
/-! SUPPORT. How the invariant of the steps is kept by the elementary updates: a proof over a command cites these and
never unfolds the invariant. -/

namespace Sys2Proof.Machine

open Sys2Proof.Cert

/-- What leaves QDR, the flash and the contexts alone keeps the invariant. -/
theorem stateOk_same {s t : State} (h : StateOk s) (hq : t.qdr = s.qdr) (hf : t.flash = s.flash) (hc : t.ctxs = s.ctxs) :
    StateOk t where
  qdr := hq ▸ h.qdr
  flash := hf ▸ h.flash
  ctxs := fun k => by rw [State.ctx_congr hc]; exact h.ctxs k

/-- Counting and reporting keep the invariant. -/
theorem State.Quiet.stateOk {s t : State} (q : s.Quiet t) (h : StateOk s) : StateOk t :=
  stateOk_same h q.qdr q.flash q.ctxs

theorem State.qdrPut_stateOk {s : State} (a : Nat) (bs : List Byte) (h : StateOk s) : StateOk (s.qdrPut a bs) where
  qdr := Memory.wf_writeAll qdrEmpty bs s.qdr a h.qdr
  flash := h.flash
  ctxs := h.ctxs

theorem State.flashPut_stateOk {s : State} (a : Nat) (bs : List Byte) (h : StateOk s) : StateOk (s.flashPut a bs) where
  qdr := h.qdr
  flash := Memory.wf_writeAll flashEmpty bs s.flash a h.flash
  ctxs := h.ctxs

/-- A context may be written if what is written keeps its part of the invariant. -/
theorem State.setCtx_stateOk {s : State} (k : Nat) {x : Ctx} (h : StateOk s) (hb : ∀ ch, x.bound = some ch → ch < 64)
    (ho : ∀ g u ws, Tab.get x.opens none g = some (u, ws) → ws.length ≤ 255) : StateOk (s.setCtx k x) where
  qdr := h.qdr
  flash := h.flash
  ctxs := fun j => by
    by_cases e : j = k
    · subst e; rw [State.ctx_setCtx_same]; exact ⟨hb, ho⟩
    · rw [s.ctx_setCtx_ne x e]; exact h.ctxs j

/-- In particular, an update of a context that leaves its binding and its open items alone. -/
theorem State.setCtx_stateOk_same {s : State} (k : Nat) {x : Ctx} (h : StateOk s) (hb : x.bound = (s.ctx k).bound)
    (ho : x.opens = (s.ctx k).opens) : StateOk (s.setCtx k x) :=
  s.setCtx_stateOk k h (hb ▸ (h.ctxs k).1) (ho ▸ (h.ctxs k).2)

end Sys2Proof.Machine
end

