-- ==== Sys2Proof/Laws/MapRegs.lean ====
section
/-! SUPPORT. What the registers of MAP hold at reset, without a search of the register map: the staged registers of
tributaries and channels read 0. -/

namespace Sys2Proof.Machine

theorem resetWord_zero (a : Nat) (fs : List FieldRow) (h : ∀ r ∈ fs, fieldReset a r = 0) : resetWord a fs = 0 := by
  induction fs with
  | nil => rfl
  | cons r fs ih => simp [resetWord, h r (by simp), ih (fun x hx => h x (by simp [hx]))]

theorem map_block (r o : Nat) (hr : r < 12) (ho : o < 0x10000) : blockOf (mapA r o) = some (.map, r, mapA r 0) := by
  simp only [blockOf, regions, regionIn, mapA]
  repeat rw [if_neg (by omega)]
  rw [if_pos (by omega)]
  simp only [Option.some.injEq, Prod.mk.injEq, true_and]
  omega

theorem map_reset (r o : Nat) (hr : r < 12) (h0 : 0x400 ≤ o) (ho : o < 0x10000)
    (hz : ∀ x ∈ mapRows, x.reset ≠ 0 → x.covers o = false) : regReset (mapA r o) = 0 := by
  have hb := map_block r o hr ho
  have hs : mapA r o - mapA r 0 = o := by simp only [mapA]; omega
  have hh : ∀ x ∈ hdrRows, x.covers o = false := by
    intro x hx
    fin_cases hx <;> simp only [FieldRow.covers, repMatch, Bool.and_eq_false_iff, beq_eq_false_iff_ne] <;> right <;> omega
  have hn : ∀ x ∈ mapRows, x.ty ≠ .fuse := by decide
  unfold regReset
  rw [resetWord_zero]
  · rfl
  · intro x hx
    simp only [fieldsAt, hb, hs, List.mem_filter, List.mem_append, Bool.and_eq_true] at hx
    rcases hx with ⟨hx | hx, hc, -⟩
    · rw [hh x hx] at hc; cases hc
    · have hm : x.ty ≠ .fuse := hn x hx
      have hx0 : x.reset = 0 := by
        by_contra hne
        have := hz x hx hne
        rw [this] at hc; cases hc
      simp only [fieldReset, hb, hs]
      rw [if_neg (by omega)]
      cases h : x.ty <;> simp_all

theorem idle_mode (r t : Nat) (hr : r < 12) (ht : t < 80) : regReset (tmA r t) = 0 := by
  refine map_reset r _ hr (by omega) (by omega) fun x hx hne => ?_
  fin_cases hx <;> first
    | exact absurd rfl hne
    | (simp only [FieldRow.covers, repMatch, Bool.and_eq_false_iff, decide_eq_false_iff_not, beq_eq_false_iff_ne]; omega)

theorem idle_carrier (r j : Nat) (hr : r < 12) (hj : j < 32) : regReset (mapA r (0x400 + 0x40 * j)) = 0 := by
  refine map_reset r _ hr (by omega) (by omega) fun x hx hne => ?_
  fin_cases hx <;> first
    | exact absurd rfl hne
    | (simp only [FieldRow.covers, repMatch, Bool.and_eq_false_iff, decide_eq_false_iff_not, beq_eq_false_iff_ne]; omega)

end Sys2Proof.Machine
end

