-- ==== Sys2Proof/Safety.lean ====
section
/-! DEFINITION. What counts as a safe run of the part. -/

namespace Sys2Proof.Machine

/-- The states that `n` steps from `s` lead to without a stop; none once a step stops. -/
def runSteps (n : Nat) (s : State) : Option State :=
  match n with
  | 0 => some s
  | n + 1 =>
    match step s with
    | .next t => runSteps n t
    | _ => none

/-- A run is safe when no step of it ends in a fault or a refusal. -/
def SafeFrom (s : State) : Prop := ∀ n, (runSteps n s).isSome = true

end Sys2Proof.Machine
end

