-- ==== Sys2Proof/WellFormed.lean ====
section
/-! DEFINITION. Which commands can come from outside: operands that the manual's formats can carry.
`exec` gives an effect to every command; a command that is not well formed stands for nothing that the
outside world can do. -/

namespace Sys2Proof

/-- A register address is a multiple of four (R265). -/
def alignedAddr (a : BitVec 26) : Bool := a.toNat % 4 == 0

/-- A host access carries 1 to 8 bytes (R265). -/
def accessLen (n : Nat) : Bool := decide (1 ≤ n ∧ n ≤ 8)

/-- A pointer value has ten bits (PRESUMED, from G.707; assumption 22). -/
def ptrOk (p : PtrIn) : Bool :=
  match p with
  | .normal v => decide (v < 1024)
  | .newData v => decide (v < 1024)
  | .allOnes => true
  | .invalid => true

/-- Parts of a delivered frame in the ranges of their fields (R44, R50, R62, R66, R94). -/
def frameOk (x : FrameIn) : Bool :=
  x.au.all (fun e => ptrOk e.2) && decide (x.lineNo < 4096) && (x.arr.isEmpty || x.arr.length == 20) &&
    x.bytes.all (fun e => decide (e.1 ≤ 12 ∧ e.2.1 < 32768)) && x.errs.all (fun e => decide (e.1 < 4 ∧ e.2.1 < 4080)) &&
    (match x.omfi with | some o => decide (o < 80) | none => true)

/-- The slots of the lower-order overhead that MAP extracts: rows 12 to 15, columns 0 to 15 (R54). -/
def mapSlot (b : Slot) : Bool := decide (12 ≤ b.toNat / 2048 ∧ b.toNat % 2048 < 16)

/-- Parts of a tributary frame in the ranges of their fields (R54, R101, R103). -/
def tribOk (x : TribFrame) : Bool :=
  match x with
  | .take x =>
    x.bytes.all (fun e => mapSlot e.1) && x.body.all (fun e => decide (e.1 < 4 ∧ 16 ≤ e.2.1 ∧ e.2.1 < 3824)) &&
      x.jcs.length == 3 && decide (x.sq < 256 ∧ x.c1d < 1024)
  | .make _ => true

/-- A twin header whose TYPE and REL are those of the command (R358). -/
def twinHdr (h : TwinHdr) (type : Nat) (rel : Bool) : Bool := h.type.toNat == type && h.rel == rel

/-- The checks a command passes if the outside world can send it. -/
def WellFormed (i : Instr) : Bool :=
  match i with
  | .registerWrite o a _ u => if u.isSome then o == .host && a.toNat % 8 == 0 else alignedAddr a
  | .key a _ => alignedAddr a
  | .complementPairWrite a _ => alignedAddr a
  | .sequenceClear _ a _ => alignedAddr a
  | .writeOnce a _ => alignedAddr a
  | .pairedCounterRead _ len => accessLen len
  | .accessTimeout _ _ a => alignedAddr a
  | .accessShape _ _ _ len _ => accessLen len
  | .bar2Read _ len => accessLen len
  | .bar4Read _ len => accessLen len
  | .bar4Write _ data => accessLen data.length
  | .deliveredFrame _ x => frameOk x
  | .tributaryFrame _ _ x => tribOk x
  | .huntMatch _ _ _ x => decide (x.lineNo < 4096)
  | .otlReassembly _ arr => arr.length == 20
  | .scrubRead errBytes => decide errBytes.Nodup
  | .nak h _ => twinHdr h 0 false
  | .heartbeat h _ _ _ _ _ => twinHdr h 1 false
  | .dial h _ _ => twinHdr h 2 false
  | .mirror h parts _ => twinHdr h 3 true && decide (parts.length ≤ 127)
  | .imageCmd h ws => twinHdr h 4 true && decide (ws.length ≤ 256)
  | .imageRsp h ws => twinHdr h 5 true && decide (ws.length ≤ 256)
  | .alignmentBlock lanes => lanes.length == 4
  | i => Machine.sprigAligned i

end Sys2Proof
end

