-- ==== Sys2Proof/Tests/Slice0.lean ====
section
/-! SUPPORT. Tests of the model: ill-formed commands are refused, words of the manual's encoding tables decode as they
should, and for every statement with hypotheses a state that meets them, clause by clause.  Expected words and values
come from the chapters named beside them. -/

open Sys2Proof Sys2Proof.Machine Sys2Proof.Cert

/-! ### States to test on -/

/-- The part booted, 5 µs after power-on, no link. -/
def up : State := { State.reset with now := 5000, top := { Top.init with boot := 8, resetLow := false } }

def put (s : State) (l : List (Nat × Word)) : State := s.setRegs (l ++ s.regs)

/-- Booted, and the link is up. -/
def host : State := put up [(hifA 0x100, 0x21)]

def c0 : CtxId := ⟨2, 3, 1⟩
def k0 : Nat := keyOf c0

/-- A context that runs the handler of a queue event. -/
def ctx0 : Ctx := { Ctx.init with active := true, ev := { Ev.init with kind := 0x40 }, limitNs := 1000000 }

/-- `s` where context c0 is `x`. -/
def running (s : State) (x : Ctx) : State := s.setCtx k0 x

/-- `s` with the instruction at address 0 of bed 2's program. -/
def word0 (s : State) (i : Instr) : State :=
  let w := (encodeSprig i).getD (0, none)
  put s [(bedA 2 0x40000, w.2.getD 0 ++ w.1)]

/-- Context c0, being `x`, can issue `i`. -/
def runs (x : Ctx) (i : Instr) : Bool := (word0 (running up x) i).issues c0 i

def at0 (s : State) (i : Instr) : State := word0 s i

/-! ### Sprig -/

set_option maxRecDepth 100000

theorem wit_SprigRegisterArithmetic : ∀ f : Alu, runs ctx0 (aluShort f c0 15 15) = true := by
  intro f; cases f <;> decide

theorem wit_SprigLongArithmetic : ∀ f : Alu, runs ctx0 (aluLong f c0 0 0xFFFF) = true := by
  intro f; cases f <;> decide

theorem wit_SprigImmediatesAndProduct :
    [Instr.spAddi c0 15 0xFF, .spMovi c0 0 0x80, .spMovhi c0 3 0, .spCmpi c0 3 0x7F, .spMul c0 14 3 5 false,
      .spMul c0 0 3 5 true].all (runs ctx0) = true := by decide

theorem wit_SprigBitFields :
    [Instr.spBset c0 1 15, .spBclr c0 1 0, .spBtst c0 4 10, .spBsetr c0 1 2, .spBclrr c0 1 2, .spBtstr c0 1 2,
      .spExt c0 6 4, .spIns c0 6 4].all (runs ctx0) = true := by decide

theorem wit_SprigParityAndCounts :
    [Instr.spBip8 c0 1 2, .spPar c0 1 2, .spPopc c0 1 2, .spSinc c0 1, .spSadd c0 1 1].all (runs ctx0) = true := by decide

theorem wit_SprigCheckSteps :
    [Instr.spCrc16b c0 1 2, .spCrc16w c0 1 2, .spCrc32b c0 14 2, .spCrc32w c0 2 2, .spCrc32cb c0 2 3, .spCrc32cw c0 4 5,
      .spCrc64b c0 12 2, .spCrc64w c0 4 2].all (runs ctx0) = true := by decide

theorem wit_SprigBranches : (branches c0 ctx0).all (fun b => runs ctx0 (b.1 0x80) && runs { ctx0 with z := true } (b.1 0x7F)) = true := by
  decide

theorem wit_SprigJumpsAndCalls :
    [Instr.spJmp c0 0x400, .spJmpl c0 0x7FFF, .spJmpr c0 3 0xFFFF].all (runs ctx0) = true ∧
    [Instr.spCall c0 0x3FF, .spCalll c0 0, .spCallr c0 3 1].all (runs { ctx0 with stack := [1, 2, 3, 4, 5, 6, 7] }) = true ∧
    runs { ctx0 with stack := [9] } (.spRet c0) = true := by decide

theorem wit_SprigLocalScratch : let x := { ctx0 with w := [(5, 1008)] }
    (x.reg 5).toNat + (15 : BitVec 4).toNat = 1023 ∧ runs x (.spStl c0 1 5 15) = true ∧ runs x (.spLdl c0 1 5 15) = true := by
  decide

theorem wit_SprigContextWindow : let x := { ctx0 with w := [(5, 504)], bound := some 63 }
    (x.reg 5).toNat + (7 : BitVec 3).toNat = 511 ∧ runs x (.spLdc c0 1 5 7) = true ∧ runs x (.spStc c0 1 5 7) = true := by
  decide

/-- The bed address that page `p`, register value `v` and displacement `d` form. -/
def bedAddr (p : BitVec 4) (v : Half) (d : BitVec 12) : Nat := p.toNat * 65536 + (v.toNat + d.toNat) % 65536

/-- A load and a store can be issued with those operands. -/
def bedRuns (p : BitVec 4) (v : Half) (d : BitVec 12) : Bool :=
  runs { ctx0 with w := [(5, v)] } (.spLdb c0 1 5 p d) && runs { ctx0 with w := [(5, v)] } (.spStb c0 1 5 p d)

theorem wit_SprigBedLoads :
    bedAddr 0 0xFFFF 0 = 0xFFFF ∧ bedRuns 0 0xFFFF 0 = true ∧ bedAddr 1 0x7FFF 0 = 0x17FFF ∧ bedRuns 1 0x7FFF 0 = true ∧
    bedAddr 2 0 0 = 0x20000 ∧ bedRuns 2 0 0 = true ∧ bedAddr 3 0xFFFF 1 = 0x30000 ∧ bedRuns 3 0xFFFF 1 = true ∧
    bedAddr 3 0 1 = 0x30001 ∧ bedRuns 3 0 1 = true ∧ bedAddr 3 0 2 = 0x30002 ∧ bedRuns 3 0 2 = true ∧
    bedAddr 3 0 0x10 = 0x30010 ∧ bedRuns 3 0 0x10 = true ∧ bedAddr 3 0 0xFFC = 0x30FFC ∧ bedRuns 3 0 0xFFC = true ∧
    bedAddr 4 0 0x7FF = 0x407FF ∧ bedRuns 4 0 0x7FF = true ∧ bedAddr 4 0 0x7FE = 0x407FE ∧ bedRuns 4 0 0x7FE = true ∧
    bedAddr 4 0 0x800 = 0x40800 ∧ bedRuns 4 0 0x800 = true ∧ bedAddr 1 0x8000 0 = 0x18000 ∧ bedRuns 1 0x8000 0 = true ∧
    bedAddr 2 0x8000 0 = 0x28000 ∧ bedRuns 2 0x8000 0 = true := by decide

/-- REG_WIN of bed 2 lets its programs reach the second half mebibyte. -/
def windowed (x : Ctx) (i : Instr) : State := put (word0 (running up x) i) [(bedA 2 0x120, 2)]

theorem wit_SprigBedLoads_window : let x := { ctx0 with page := 0x80 }
    let i := Instr.spLdb c0 1 5 4 0x7FE
    (windowed x i).issues c0 i = true ∧ (windowed x i).winPermits 2 (x.page.toNat * 4096 + 0x7FE / 2 * 4) = true := by decide

/-- The cycle of an issue: the one that it is; the next one where the engine has issued in it. -/
theorem wit_SprigBedLoads_cycle : let i := Instr.spLdb c0 1 5 3 0x800
    (let s := word0 (running up ctx0) i
     s.issues c0 i = true ∧ s.issueCycle c0 i = some 5000 ∧ (s.cycle 2).upTo ≠ 5000 + 1) ∧
    (let s := (word0 (running up ctx0) i).setCycles [(2, ⟨5000 + 1, [3], 0, [], false⟩)]
     s.issues c0 i = true ∧ s.issueCycle c0 i = some 5001) ∧
    (let s := (word0 (running up ctx0) i).setCycles [(2, ⟨5000 + 1, [1], 2, [(0x30800, some 7)], false⟩)]
     s.issueCycle c0 i = some 5000 ∧ (s.cycle 2).upTo = 5000 + 1) := by decide

theorem wit_SprigSemaphores : let i := Instr.spLdb c0 1 5 3 0x7F
    bedAddr 3 0 0x7F = 0x30040 + 63 ∧ bedRuns 3 0 0x7F = true ∧ Tab.get ((at0 (running up ctx0) i).bed 2).sems 0 63 = 0 ∧
    (let s := at0 ((running up ctx0).setBed 2 { Bed.init with sems := [(63, 7)] }) i
     s.issues c0 i = true ∧ Tab.get (s.bed 2).sems 0 63 ≠ 0) := by decide

theorem wit_SprigBedStores :
    bedAddr 3 0 0x11 = 0x30011 ∧ bedRuns 3 0 0x11 = true ∧ bedAddr 3 0 0x800 = 0x30800 ∧ bedRuns 3 0 0x800 = true ∧
    bedAddr 3 0 0xFFF = 0x30FFF ∧ bedRuns 3 0 0xFFF = true ∧ bedAddr 3 0 0xFFE = 0x30FFE ∧ bedAddr 3 0 0xFFD = 0x30FFD ∧
    (let x := { ctx0 with page := 0x83 }
     let i := Instr.spStb c0 1 5 4 0x7FF
     (windowed x i).issues c0 i = true ∧ (windowed x i).winPermits 2 (0x83 * 4096 + 0x7FF / 2 * 4) = true ∧
       guarded (0x83 * 4096 + 0x7FF / 2 * 4) = false) := by decide

theorem wit_SprigBedStores_timer : let i := Instr.spStb c0 1 5 3 0x803
    let s := (word0 (running up ctx0) i).setBed 2 { Bed.init with timers := [(0, { Timer.init with armed := some (9, 64, 9) })] }
    bedAddr 3 0 0x803 = 0x30803 ∧ s.issues c0 i = true ∧ s.issueCycle c0 i = some 5000 ∧
      (Tab.get (s.bed 2).timers Timer.init 0).armed = some (9, 64, 9) ∧ (s.setNow 5000).timerDue 2 9 = false := by decide

def item1 : Item := { header := 0x3001, prod := 5, words := [0xABCD], at_ := 0 }

/-- Furrow 1, line row 1, feeds bed 2 and holds an item; context c0 owns it. -/
def owning (f : Furrow → Furrow) (x : Ctx) (i : Instr) : State :=
  at0 ((running up x).setFur 1 (f { Furrow.init 1 with items := [item1], owner := k0 + 1 })) i

theorem wit_SprigFurrowReads :
    (up.inFur 2 0 = some 1) ∧
    (let s := owning id ctx0 (.spQhead c0 2 0)
     s.issues c0 (.spQhead c0 2 0) = true ∧ s.inFur 2 0 = some 1 ∧ (s.fur 1).owner = k0 + 1 ∧
       (s.fur 1).items[0]? = some item1) ∧
    (let s := owning (fun f => { f with rpOff := 1 }) ctx0 (.spQhead c0 2 0)
     s.issues c0 (.spQhead c0 2 0) = true ∧ (s.fur 1).items[1]? = none) ∧
    (let s := owning (fun f => { f with rpOff := 1 }) ctx0 (.spQword c0 2 0)
     s.issues c0 (.spQword c0 2 0) = true ∧ (s.fur 1).rpOff ≠ 0 ∧ item1.words[0]? = some 0xABCD) ∧
    (let s := owning (fun f => { f with rpOff := 2 }) ctx0 (.spQword c0 2 0)
     s.issues c0 (.spQword c0 2 0) = true ∧ (s.fur 1).items[0]? = some item1 ∧ item1.words.length < (s.fur 1).rpOff) ∧
    (owning id ctx0 (.spQmark c0 0)).issues c0 (.spQmark c0 0) = true ∧
    (let s := owning id ctx0 (.spQrew c0 0)
     s.issues c0 (.spQrew c0 0) = true ∧ Tab.get ctx0.marks 0 1 = 0) ∧
    (let x := { ctx0 with marks := [(1, 0 * 512 + 511 + 1)] }
     let s := owning id x (.spQrew c0 0)
     s.issues c0 (.spQrew c0 0) = true ∧ Tab.get x.marks 0 1 = 0 * 512 + 511 + 1 ∧ (s.fur 1).rel ≤ 0) ∧
    (let x := { ctx0 with marks := [(1, 0 * 512 + 1 + 1)] }
     let s := owning (fun f => { f with rel := 1 }) x (.spQrew c0 0)
     s.issues c0 (.spQrew c0 0) = true ∧ Tab.get x.marks 0 1 = 0 * 512 + 1 + 1 ∧ 0 < (s.fur 1).rel) ∧
    (owning id ctx0 (.spQrel c0 0)).issues c0 (.spQrel c0 0) = true := by decide

theorem wit_SprigFurrowOwnership :
    (let s := owning (fun f => { f with owner := 0 }) ctx0 (.spQmark c0 0)
     s.issues c0 (.spQmark c0 0) = true ∧ s.inFur 2 0 = some 1 ∧ (s.fur 1).owner = 0) ∧
    ([Instr.spQhead c0 2 5, .spQword c0 2 5, .spQmark c0 5, .spQrew c0 5, .spQrel c0 5].all (fun i =>
      (owning id ctx0 i).issues c0 i && (owning id ctx0 i).inFur 2 5 == none)) = true ∧
    ([Instr.spQhead c0 2 0, .spQword c0 2 0, .spQmark c0 0, .spQrew c0 0, .spQrel c0 0].all (fun i =>
      let s := owning (fun f => { f with owner := 1 }) ctx0 i
      s.issues c0 i && s.inFur 2 0 == some 1 && (s.fur 1).owner == 1 && (1 != k0 + 1))) = true := by decide

/-- Context c0 being `x`, and `i` at its PC, keeps what the model keeps of contexts. -/
theorem contexts_one (x : Ctx) (i : Instr) (hb : ∀ ch, x.bound = some ch → ch < 64)
    (ho : ∀ g u ws, Tab.get x.opens none g = some (u, ws) → ws.length ≤ 255) : ContextsOk (word0 (running up x) i) := by
  intro k
  have e : (word0 (running up x) i).ctx k = (up.setCtx k0 x).ctx k := rfl
  rw [e]
  by_cases h : k = k0
  · subst h; rw [State.ctx_setCtx_same]; exact ⟨hb, ho⟩
  · rw [up.ctx_setCtx_ne x h]
    constructor
    · intro ch hc; cases hc
    · intro g u ws hg; cases hg

theorem contexts_ctx0 (i : Instr) : ContextsOk (word0 (running up ctx0) i) :=
  contexts_one ctx0 i (fun _ h => by cases h) (fun _ _ _ h => by cases h)

/-- A context with an open item of `n` words on output 0. -/
def opened (n : Nat) : Ctx := { ctx0 with opens := [(0, some (0x3000, List.replicate n 0))] }

theorem contexts_opened (n : Nat) (h : n ≤ 255) (i : Instr) : ContextsOk (word0 (running up (opened n)) i) := by
  refine contexts_one _ i (fun _ e => by cases e) (fun g u ws e => ?_)
  by_cases hg : 0 = g <;> simp [opened, Tab.get, hg] at e
  rw [← e.2]; simpa using h

theorem wit_SprigItemBuilding :
    (∀ i, ContextsOk (word0 (running up ctx0) i)) ∧ (∀ i, ContextsOk (word0 (running up (opened 255)) i)) ∧
    [Instr.spQpushh c0 3 8, .spQpushh c0 3 0, .spQpushw c0 3 0, .spQend c0 0].all (runs ctx0) = true ∧
    up.hasOut 2 8 = true ∧ up.hasOut 2 0 = true ∧ up.outFur 2 0 = some 25 ∧ Tab.get ctx0.opens none 0 = none ∧
    runs (opened 254) (.spQpushw c0 3 0) = true ∧ runs (opened 255) (.spQpushw c0 3 0) = true ∧
    runs (opened 255) (.spQend c0 0) = true ∧ 1 + 255 ≤ up.furRoom 25 ∧
    (let s := word0 ((running up (opened 1)).setFur 25 { Furrow.init 25 with
        items := [{ item1 with words := List.replicate 510 0 }] }) (.spQend c0 0)
     s.issues c0 (.spQend c0 0) = true ∧ s.outFur 2 0 = some 25 ∧ s.furRoom 25 < 1 + 1) :=
  ⟨contexts_ctx0, contexts_opened 255 (by decide), by decide⟩

theorem wit_SprigWaitsAndTime :
    [Instr.spNop c0, .spYield c0, .spFence c0, .spWait c0 3, .spTsrd c0 10 15].all (runs ctx0) = true ∧
    ((word0 (running up ctx0) (.spTsrd c0 10 15)).issueCycle c0 (.spTsrd c0 10 15) = some 5000 ∧
      (word0 (running up ctx0) (.spWait c0 3)).issueCycle c0 (.spWait c0 3) = some 5000) ∧
    (let s := running up { ctx0 with wait := .timed 5000 }
     (s.ctx k0).wait = .timed 5000 ∧ s.enginesRun = true ∧ 5000 ≤ s.now) := by decide

/-- Bed 4 runs under logical number 4; `n` events wait in its queue. -/
def posting (n : Nat) (lb : Half) : State :=
  put (word0 ((running up { ctx0 with w := [(3, lb <<< 8 ||| 0x40)] }).setBed 4 { Bed.init with
    evq := List.replicate n Ev.init }) (.spPost c0 2 3)) [(bedA 4 0x104, 0x42)]

theorem wit_SprigPost :
    (let s := posting 1023 4
     s.issues c0 (.spPost c0 2 3) = true ∧ s.byLbed 4 = some 4 ∧ (s.bed 4).evq.length < 1024 ∧
       ((s.ctx k0).reg 3).toNat / 256 % 16 = 4 ∧ 0x40 ≤ ((s.ctx k0).reg 3).toNat % 256 ∧ (s.ctx k0).winWrites = []) ∧
    (let s := posting 1024 4
     s.issues c0 (.spPost c0 2 3) = true ∧ s.byLbed 4 = some 4 ∧ 1024 ≤ (s.bed 4).evq.length) ∧
    (let s := posting 0 5
     s.issues c0 (.spPost c0 2 3) = true ∧ s.byLbed 5 = none) := by decide

/-- Bed 2 has `n` conditions waiting, its source `m` reports. -/
def conding (n m : Nat) (i : Instr) : State :=
  (word0 ((running up ctx0).setBed 2 { Bed.init with conds := List.replicate n (0, false) }) i).setCur
    { Cur.init with intake := [(642, List.replicate m ⟨642, 0x2F, false, 0, 0, false, false⟩)] }

theorem wit_SprigProgramConditions : ∀ clear : Bool, let i := if clear then Instr.spCondc c0 1 2 else Instr.spCond c0 1 2
    (conding 15 4 i).issues c0 i = true ∧ ((conding 15 4 i).bed 2).conds.length < 16 ∧
    4 ≤ (Tab.get (conding 15 4 i).cur.intake [] (640 + 2)).length ∧
    (conding 0 3 i).issues c0 i = true ∧ ((conding 0 3 i).bed 2).conds = [] ∧
    (Tab.get (conding 0 3 i).cur.intake [] (640 + 2)).length < 4 ∧
    (conding 16 0 i).issues c0 i = true ∧ 16 ≤ ((conding 16 0 i).bed 2).conds.length := by decide

theorem wit_SprigOverheadReads :
    [Instr.spOhr c0 3 4, .spOhrx c0 3 4].all (runs ctx0) = true ∧
    (let s := running up { ctx0 with wait := .overhead 0x5A 3 }
     (s.ctx k0).wait = .overhead 0x5A 3 ∧ s.enginesRun = true) := by decide

/-- Line channel 0 transmits STM-16, tributary 0 of row 0 is ODU2 in, and the context names both: the first by the
binding of channel context 0, the second in W14. -/
def overhead (slot w14 : Half) (i : Instr) : State :=
  (put (word0 (running up { ctx0 with bound := some 0, w := [(4, slot), (14, w14)] }) i)
    [(bedA 2 0x1400, 0x80000001), (txA 0 0x100, 1)]).setActive [(tmA 0 0, 0x1A)]

theorem wit_SprigOverheadWrites :
    (let i := Instr.spOhw c0 3 4
     let s := overhead 0x4014 0 i
     s.issues c0 i = true ∧ s.boundObj c0 = some (.chan 0) ∧ s.txTakes 0 0x4014 = true) ∧
    (let i := Instr.spOhwx c0 3 4
     let s := overhead 0x6800 0x8000 i
     s.issues c0 i = true ∧ namedObj 0x8000 = some (.trib 0 0) ∧ s.tribTakesSlot 0 0 0x6800 = true) ∧
    (let i := Instr.spOhwx c0 3 4
     let s := overhead 0 0xC000 i
     s.issues c0 i = true ∧ namedObj 0xC000 = none) ∧
    (let i := Instr.spOhw c0 3 4
     let s := overhead 0 0 i
     s.issues c0 i = true ∧ s.boundObj c0 = some (.chan 0) ∧ s.txTakes 0 0 = false) ∧
    (let i := Instr.spOhwx c0 3 4
     let s := overhead 0 0x8000 i
     s.issues c0 i = true ∧ s.tribTakesSlot 0 0 0 = false) := by decide

/-- QDR is up. -/
def qdrRegs : List (Nat × Word) := [(qdmA 0x104, 0x100FFFF)]

theorem wit_SprigFarMemory :
    runs ctx0 (.spLdf c0 3 4 0xFFFF) = true ∧
    (let i := Instr.spStf c0 3 4 0xFFFF
     let s := put (word0 (running up ctx0) i) ((bedA 2 0x11C, 0x3FFFFFF) :: qdrRegs)
     let a := (((0 % 1024 * 65536 + 0 : Nat) + (0xFFFF : Half).toInt) % 2 ^ 26).toNat
     s.issues c0 i = true ∧ a = 0x3FFFFFF ∧ s.fld (bedA 2 0x118) 25 0 ≤ a ∧ a ≤ s.fld (bedA 2 0x11C) 25 0 ∧
       s.qdrUp = true ∧ s.cwBad (2 * a / 64) = false) ∧
    (let s := put (running up { ctx0 with wait := .far 0x3FFFFFF 3 }) qdrRegs
     (s.ctx k0).wait = .far 0x3FFFFFF 3 ∧ s.enginesRun = true ∧ s.qdrUp = true ∧ s.cwBad (2 * 0x3FFFFFF / 64) = false) := by
  decide

/-- Channel context 63 is bound, with a dirty line if `d` is not 0. -/
def committing (d : Nat) (x : Ctx) (i : Instr) : State :=
  put (word0 ((running up { x with bound := some 63 }).setBed 2 { Bed.init with dirty := [(63, d)] }) i) qdrRegs

theorem contexts_committing (d : Nat) (w : Wait) (i : Instr) : ContextsOk (committing d { ctx0 with wait := w } i) :=
  contexts_one { ctx0 with wait := w, bound := some 63 } i (fun ch h => by cases h; decide) (fun _ _ _ h => by cases h)

theorem wit_SprigCommit :
    (∀ d w i, ContextsOk (committing d { ctx0 with wait := w } i)) ∧ ctx0.ev.kind ≠ 0 ∧ ctx0.winWrites = [] ∧
    (let s := committing 0 ctx0 (.spEnd c0)
     s.issues c0 (.spEnd c0) = true ∧ s.dirtyLines k0 = false) ∧
    (let s := committing 1 ctx0 (.spEnd c0)
     s.issues c0 (.spEnd c0) = true ∧ s.dirtyLines k0 = true) ∧
    (let s := committing 0x8000 { ctx0 with wait := .commit } (.spEnd c0)
     s.enginesRun = true ∧ (s.ctx k0).active = true ∧ (s.ctx k0).wait = .commit ∧ s.qdrUp = true ∧
       (s.ctx k0).bound = some 63 ∧ s.dirtyLines k0 = true) ∧
    (let s := (committing 0x8000 { ctx0 with wait := .commit } (.spEnd c0)).setNow 50000
     s.enginesRun = true ∧ (s.ctx k0).bound = some 63 ∧ s.dirtyLines k0 = true ∧ (s.ctx k0).commitAt + 50000 ≤ s.now) :=
  ⟨contexts_committing, by decide⟩

theorem wit_SprigSemaphoresFreed :
    (∀ d w i, ContextsOk (committing d { ctx0 with wait := w } i)) ∧ ctx0.ev.kind ≠ 0 ∧ ctx0.winWrites = [] ∧
    (let s := committing 0 ctx0 (.spEnd c0)
     s.issues c0 (.spEnd c0) = true ∧ s.dirtyLines k0 = false) ∧
    (let s := committing 1 { ctx0 with wait := .commit } (.spEnd c0)
     s.enginesRun = true ∧ (s.ctx k0).active = true ∧ (s.ctx k0).wait = .commit ∧ s.qdrUp = true) ∧
    (let s := running up { ctx0 with limitNs := 5000 }
     s.enginesRun = true ∧ (s.ctx k0).active = true ∧ (s.ctx k0).wait ≠ .commit ∧ (s.ctx k0).ev.kind ≠ 0 ∧
       (s.ctx k0).started + (s.ctx k0).limitNs ≤ s.now ∧ s.fld (bedA 2 0x104) 13 8 < max 1 (s.fld (bedA 2 0x110) 13 8)) :=
  ⟨contexts_committing, by decide⟩

theorem wit_HandlerFaults :
    (∀ i, ContextsOk (word0 (running up ctx0) i)) ∧
    (let s := put (running up ctx0) [(bedA 2 0x40000, 0xDA00)]
     s.issueCycle c0 (.undefinedEncoding c0) = some 5000 ∧ s.fetched c0 = none) ∧
    (let s := running up { ctx0 with limitNs := 5000 }
     s.enginesRun = true ∧ (s.ctx k0).active = true ∧ (s.ctx k0).wait ≠ .commit ∧
       (s.ctx k0).started + (s.ctx k0).limitNs ≤ s.now) ∧
    runs { ctx0 with stack := [1, 2, 3, 4, 5, 6, 7, 8] } (.spCall c0 0) = true ∧ runs ctx0 (.spRet c0) = true ∧
    (let x := { ctx0 with w := [(5, 1009)] }
     1023 < (x.reg 5).toNat + (15 : BitVec 4).toNat ∧ runs x (.spLdl c0 1 5 15) = true ∧ runs x (.spStl c0 1 5 15) = true) ∧
    runs ctx0 (.spLdc c0 1 5 0) = true ∧ ctx0.bound = none ∧
    (let x := { ctx0 with w := [(5, 505)], bound := some 0 }
     511 < (x.reg 5).toNat + (7 : BitVec 3).toNat ∧ runs x (.spLdc c0 1 5 7) = true) ∧
    (let x := { ctx0 with w := [(3, 0x3F)] }
     (x.reg 3).toNat % 256 < 0x40 ∧ runs x (.spPost c0 2 3) = true) :=
  ⟨contexts_ctx0, by decide⟩

theorem wit_HandlerStarts :
    (let s := put (up.setBed 2 { Bed.init with evq := [{ Ev.init with kind := 0x40 }] })
       [(bedA 2 0x104, 0x22), (htabA 2 0x40, 0x10000)]
     s.enginesRun = true ∧ s.role 2 = 2 ∧ (s.pick 2).isSome = true ∧ s.idlePlace 2 = some 256 ∧
       ((s.pick 2).map (fun e => s.bit (htabA 2 e.1.ev.kind) 16)) = some true) ∧
    (let s := put (up.setBed 2 { Bed.init with initPending := some 1 }) [(bedA 2 0x104, 0x23), (htabA 2 0, 0x17FFF)]
     s.role 2 = 3 ∧ ((s.pick 2).map (fun e => (e.1.ev.kind, s.bit (htabA 2 e.1.ev.kind) 16))) = some (0, true) ∧
       s.idlePlace 2 = some 256) := by decide

/-! ### Host interface, mailboxes, QDR, pins -/

theorem wit_RegisterWriteStoresField :
    (let a := qdmA 0x120
     reaches .host (put host qdrRegs) a ∧ plainBlock a ∧ (∃ f, fieldsAt a = [f] ∧ f.ty = .rw) ∧ stagedRow a = none ∧
       reaches (.program 2) (put up ((bedA 2 0x12C, 1) :: qdrRegs)) a) ∧
    (reaches .host host (bedA 2 0x3F00) ∧ fieldsAt (bedA 2 0x3F00) = []) ∧ up.hostReaches = false := by
  refine ⟨⟨by unfold reaches hostAt; decide, ⟨0, 0x3000000, .inr (.inr (.inl (by decide)))⟩, ⟨_, rfl, rfl⟩, by decide, ?_⟩,
    ⟨by unfold reaches hostAt; decide, by decide⟩, by decide⟩
  unfold reaches; decide

/-- Two registers at a multiple of 8, and accesses that are not aligned. -/
theorem wit_RegisterWriteStoresField_wide : let a := txA 383 0x2B8
    (a % 8 = 0 ∧ hostAt host a ∧ hostAt host (a + 4)) ∧
    ((plainBlock a ∧ (∃ f, fieldsAt a = [f] ∧ f.ty = .rw) ∧ stagedRow a = none) ∧
      (plainBlock (a + 4) ∧ (∃ f, fieldsAt (a + 4) = [f] ∧ f.ty = .rw) ∧ stagedRow (a + 4) = none)) ∧
    host.hostReaches = true ∧ host.top.kc = none ∧ (a + 2) % 4 ≠ 0 ∧ (a + 4) % 8 ≠ 0 ∧ 0x10000 ≤ a := by
  refine ⟨by unfold hostAt; decide, ⟨⟨?_, ⟨_, rfl, rfl⟩, by decide⟩, ⟨?_, ⟨_, rfl, rfl⟩, by decide⟩⟩, by decide⟩ <;>
  · unfold plainBlock; exact ⟨191, txA 383 0, .inr (.inl (by decide))⟩

/-- No counter counts where RUN is not in effect. -/
theorem stopped_uncounted (s : State) (h : s.inv.runOn = [(0, false), (1, false), (2, false), (3, false), (4, false)]) :
    uncounted s := by
  intro n
  have : Tab.get s.inv.runOn true (cntDomain n) = false := by
    rw [h]; unfold cntDomain
    repeat' split
    all_goals rfl
  simp [State.cntOn, this]

/-- `s` with every counter stopped. -/
def stopped (s : State) : State :=
  s.setInv { s.inv with runOn := [(0, false), (1, false), (2, false), (3, false), (4, false)] }

theorem wit_SequenceClearRegisters :
    (blockOf (twnA 0x108) = some (.twn, 0, twnA 0) ∧ twnA 0x108 ≠ twnA 0 + 8) ∧
    (reaches .host (stopped host) (hifA 0x104) ∧ uncounted (stopped host) ∧
      (fieldsAt (hifA 0x104)).any (fun r => r.ty == .sq) = true ∧ (fieldsAt (hifA 0x104)).any (fun r => r.ty == .key) = false ∧
      ¬ counting (hifA 0x104)) :=
  ⟨by decide, by unfold reaches hostAt; decide, stopped_uncounted _ rfl, by decide, by decide, by unfold counting; decide⟩

theorem wit_KeyArmsBlock : let a : BitVec 26 := BitVec.ofNat 26 (bedA 2 0xFC)
    a.toNat % 256 = 0xFC ∧ hostAt host a.toNat ∧ ¬ counting a.toNat ∧ (fieldsAt a.toNat).any (fun r => r.ty == .key) = true :=
  ⟨by decide, by unfold hostAt; decide, by unfold counting; decide, by decide⟩

/-- The first half of a pair waits. -/
def half (a : Nat) (v : Word) : State := host.setTop { host.top with kc := some (a, v) }

theorem wit_ComplementPairs :
    host.hostReaches = true ∧ host.top.kc = none ∧ kcLow (topA 0x360) = true ∧
    (kcHigh (topA 0x314) = true ∧ kcLow (topA 0x314) = false) ∧
    ((half (topA 0x310) 1).hostReaches = true ∧ (half (topA 0x310) 1).top.kc = some (topA 0x310, 1) ∧
      (topA 0x314 ≠ topA 0x310 + 4 ∨ (1 : Word) ≠ ~~~ 1)) ∧
    ((half (topA 0x360) 0).top.kc = some (topA 0x360, 0) ∧ (~~~ (0 : Word)) = 0xFFFFFFFF) ∧
    ((1 : Word).getLsbD 0 = true ∧ (half (topA 0x310) 1).cur.chipReset = none) := by decide

theorem wit_SoftResetRuns : host.hostReaches = true ∧ host.top.kc = none ∧ host.cur.chipReset = none ∧ host.coreRuns = true := by
  decide

/-- The ring is ready in QDR, LOG_WR is `n`, nothing is copied. -/
def ringed (n : Word) : State := put host ([(curA 0x100, 0x10), (curA 0x110, 0x0D00000), (curA 0x108, n)] ++ qdrRegs)

theorem wit_SoftResetRuns_any :
    (let s := (host.setNow 25000).setCur { Cur.init with chipReset := some (0, 7, 5000) }
     s.coreRuns = true ∧ s.cur.chipReset = some (0, 7, 5000) ∧ 5000 + 20000 ≤ s.now) ∧
    (let s := (ringed 1).setCur { Cur.init with chipReset := some (2, 7, 5000) }
     s.coreRuns = true ∧ s.cur.chipReset = some (2, 7, 5000) ∧ s.ringReady = true ∧ s.qdrUp = true) := by decide

theorem wit_BoardRoleWriteOnce : host.hostReaches = true ∧ host.top.kc = none ∧ host.inReset (topA 0x320) = false ∧
    host.top.roleTaken = false ∧ (Tab.get host.cur.intake [] 800).length < 4 ∧ (let s := host.setTop { host.top with roleTaken := true }
      s.hostReaches = true ∧ s.inReset (topA 0x320) = false ∧ s.top.kc = none) := by decide

theorem wit_HostWindows :
    (let a := cntA 343 0x10
     a % 4 = 0 ∧ a < 2 ^ 26 ∧ host.inReset a = false ∧ pairedLow a = true ∧ pairedLow (a + 4) = false ∧
       host.inReset (a + 4) = false) ∧
    (host.bit (topA 0x360) 0 = false ∧ (0xFFFF8 : BitVec 20).toNat % 8 + 8 ≤ 8) ∧
    (let s := put (stopped host) [(topA 0x360, 1)]
     s.hostReaches = true ∧ s.bit (topA 0x360) 0 = true ∧ s.inReset (invA 0) = false ∧ bar2Reg 0xAB8 = some (cntA 343 8) ∧
       pairedLow (cntA 343 8) = true) ∧
    uncounted (put (stopped host) [(topA 0x360, 1)]) ∧ uncounted (stopped host) ∧
    (let s := put host ((hifA 0x130, 7) :: qdrRegs)
     let q := s.fld (hifA 0x130) 2 0 * 2 ^ 24 + 0xFFFFF8
     s.hostReaches = true ∧ s.qdrUp = true ∧ 0xFFFFF8 % 8 + 8 ≤ 8 ∧ s.bit (qdmA 0x10C) (qdrRegion q) = true ∧
       s.cwBad (q / 64) = false) ∧
    (let s := (put host ((hifA 0x130, 7) :: qdrRegs)).setQdm { Qdm.init with errs := [(2 ^ 21 - 1, [0, 1, 2, 3, 63])] }
     let q := s.fld (hifA 0x130) 2 0 * 2 ^ 24 + 0xFFFFF8
     s.cwBad (q / 64) = true ∧ (q + 4) % 64 ∉ s.cwErrs (q / 64) ∧ s.bit (qdmA 0x104) (16 + q / 64 % 8) = false) ∧
    8 < cntA 343 0x10 % 8 + 9 ∧ 0xFFFFFE % 2 = 0 ∧ 0xFFFFFC % 4 = 0 ∧ 0xFFFFF8 % 8 = 0 :=
  ⟨by decide, by decide, by decide, stopped_uncounted _ rfl, stopped_uncounted _ rfl, by decide⟩

/-- Inventory is in a block reset. -/
def invHeld (s : State) : State := s.setCur { s.cur with blockResets := [⟨98, 9000⟩] }

theorem wit_RefusedAccessesReported :
    shapeOk 1 false 0 4 false = false ∧ shapeOk 0 true 6 4 false = false ∧ host.hostReaches = true ∧
    ((invHeld host).inReset (invA 0x100) = true ∧ (invHeld host).inReset (hifA 0) = false ∧
      (invHeld host).hostReaches = true ∧ (invHeld host).enginesRun = true) := by decide

theorem wit_LinkAndVectors :
    up.topRuns = true ∧ up.beingReset 64 = false ∧ up.top.linkDown = false ∧
    (let s := put host [(hifA 0x9004, 0x80000000), (hifA 0x83FC, 0)]
     s.hifLive = true ∧ s.linkCarries = true ∧ s.pendingBit 63 = true ∧ s.bit (hifA (0x800C + 16 * 63)) 0 = false) := by decide

theorem wit_RegisterWindowAccesses :
    (let s := put (running up { ctx0 with wait := .fence, winWrites := [(qdmA 0x120, 5)] }) qdrRegs
     s.enginesRun = true ∧ (s.ctx k0).winWrites = [(qdmA 0x120, 5)] ∧ s.inReset (qdmA 0x120) = false ∧
       stagedRow (qdmA 0x120) = none) ∧
    plainBlock (qdmA 0x120) ∧ (∃ f, fieldsAt (qdmA 0x120) = [f] ∧ f.ty = .rw) ∧
    (let s := running up { ctx0 with wait := .winRead (qdmA 0x118) 3 }
     (s.ctx k0).winWrites = [] ∧ (s.ctx k0).wait = .winRead (qdmA 0x118) 3 ∧ s.inReset (qdmA 0x118) = false ∧
       pairedLow (qdmA 0x118) = false ∧ pairedLow (qdmA 0x118 - 4) = false) ∧
    (let s := invHeld (running up { ctx0 with wait := .winRead (invA 0x100) 3 })
     s.enginesRun = true ∧ (s.ctx k0).wait = .winRead (invA 0x100) 3 ∧ s.inReset (invA 0x100) = true ∧
       s.inReset (hifA 0) = false) :=
  ⟨by decide, ⟨0, 0x3000000, .inr (.inr (.inl (by decide)))⟩, ⟨_, rfl, rfl⟩, by decide, by decide⟩

/-- Mailbox `k` is `m`. -/
def boxed (k : Nat) (m : Mbox) : State := host.setMbox k m

/-- The one-word command of tag 7 with opcode 0x10 and no body. -/
def cmd7 : Word := 0x10000007

theorem wit_MailboxRequests :
    (∀ k : Fin 5, hostAt host (mbA k.val 0) ∧ hostAt host (mbA k.val 4)) ∧
    ((boxed 0 Mbox.init).mbox 0).ready = true ∧
    ([cmd7].length ≠ bitsOf cmd7.toNat 23 16 + 2) ∧
    (let m := { Mbox.init with held := some [] }
     m.ready = false ∧ hostAt (boxed 3 m) (mbA 3 0) ∧ hostAt (boxed 3 m) (mbA 3 4)) ∧
    (let m := { Mbox.init with partialCmd := [cmd7] }
     m.ready = true ∧ (m.partialCmd ++ [cmdTrailer [cmd7] + 1]).length = bitsOf cmd7.toNat 23 16 + 2 ∧
       cmdTrailer [cmd7] ≠ cmdTrailer [cmd7] + 1 ∧ m.memory = [] ∧ m.inFlight.contains (cmdTag [cmd7]) = false ∧
       m.stopped = none) ∧
    (let s := (boxed 0 { Mbox.init with partialCmd := [cmd7] }).setNow 10000000
     s.mbRuns 0 = true ∧ (s.mbox 0).lastWord + 10000000 ≤ s.now) := by
  refine ⟨?_, by decide, by decide, ?_, by decide, by decide⟩
  · intro k; unfold hostAt; revert k; decide
  · unfold hostAt; decide

theorem wit_MailboxCompletions :
    (let s := boxed 0 { Mbox.init with waiting := [serverCpl 0 7 [1, 2]] }
     s.mbRuns 0 = true ∧ (s.mbox 0).waiting = [serverCpl 0 7 [1, 2]] ∧ s.bit (mbA 0 8) 1 = false) ∧
    (let s := boxed 1 { Mbox.init with held := some [cmd7] }
     s.mbRuns 1 = true ∧ (s.mbox 1).held = some [cmd7] ∧ (s.publishCmd 1 [cmd7]).1 = true) ∧
    (let it : Item := { header := 0x7003, prod := 0, words := [0x8001, 0x0000, 0x0007], at_ := 0 }
     let s := host.setFur 42 { Furrow.init 42 with items := [it] }
     s.mbRuns 3 = true ∧ (s.fur (39 + 3)).items = [it] ∧ (s.mbox 3).waiting.any (fun c => !c.own) = false ∧
       (s.mbox 3).ownWaiting < 4 ∧ (s.mbox 3).reply = [] ∧ (s.mbox 3).replyNext = 0 ∧ (s.mbox 3).replySkip = false ∧
       it.header.toNat / 4096 = 7 ∧ it.words.head? = some 0x8001 ∧ 0x8001 / 256 = 128 ∧
       it.words.length = 1 + 2 * (0x8001 % 256) ∧ pairWords (it.words.drop 1) = [0x00000007] ∧
       bitsOf (0x00000007 : Word).toNat 23 16 = 0) := by decide

theorem wit_QdrMaintenance :
    (let s := put host qdrRegs
     s.qdrUp = true ∧ s.bit (qdmA 0x100) 0 = true ∧ s.qdm.scrubAt = none ∧ hostAt s (qdmA 0x114) ∧ hostAt s (devA 7 0x28)) ∧
    (let s := (put host qdrRegs).setNow 49998000
     s.qdrUp = true ∧ Tab.get s.qdm.retraining 0 (2 * 7 + 1) + 50000000 ≤ s.now + 2000) ∧
    (let s := ((put host qdrRegs).setQdm { Qdm.init with scrubAt := some 9 }).setNow 50000000
     s.qdm.scrubAt = some 9 ∧ 9 + max 1 (s.fld (qdmA 0x100) 31 16) * 10 ^ 9 / 2 ^ 21 ≤ s.now) ∧
    (let s := (put host qdrRegs).setQdm { Qdm.init with scrubNext := 2 ^ 21 - 1 }
     s.qdm.scrubNext + 1 = 2 ^ 21 ∧ s.qdrUp = true ∧ (s.addErrs (2 ^ 21 - 1) [3]).cwBad (2 ^ 21 - 1) = false) := by
  unfold hostAt; and_intros <;> decide

theorem wit_ClocksFailAndReturn :
    up.topRuns = true ∧ (∀ c : Clock, up.top.failed.contains c = false) ∧
    (∀ c : Clock, let s := up.setTop { up.top with failed := [c] }
      s.topRuns = true ∧ s.top.failed.contains c = true) ∧
    (∀ b : Fin 4, (put up [(topA 0x108, 0xF)]).bit (topA 0x108) b.val = true ∧ (put up [(topA 0x108, 0xF)]).topRuns = true) := by
  refine ⟨by decide, ?_, ?_, by decide⟩ <;> intro c <;> cases c <;> decide

theorem wit_SerdesLanes :
    up.laneRuns 383 = true ∧ up.coreRuns = true ∧ up.inReset (pinLatA 767) = false ∧ up.inReset (txA 383 0) = false ∧
    (let s := put up [(srdA 575 0x100, 0x10000000)]
     srdIsRx 575 = true ∧ s.prbsSel 575 ≠ 0 ∧ s.inReset (srdA 575 0) = false ∧
       (prbsWord (prbsPoly (s.prbsSel 575)) false (s.prbsAt 575).bits 0).2 ≠ 0) ∧ hostAt host (srdA 0 0x100) ∧ srdIsRx 0 = true := by
  refine ⟨by decide, by decide, by decide, by decide, by decide, ?_, by decide⟩; unfold hostAt; decide

theorem wit_TemperatureAndPins : up.topRuns = true ∧ up.bit (topA 0x354) 15 = false ∧
    (let s := put up [(topA 0x344, 840)]
     s.bit (topA 0x340) 16 = false ∧ s.fld (topA 0x344) 15 0 < 2 ^ 15 ∧ (s.fld (topA 0x344) 15 0 : Int) < signed16 841 ∧
       (Tab.get s.cur.intake [] 2).length < 4) ∧
    (let s := put up [(topA 0x344, 840), (topA 0x340, 0x10000)]
     s.bit (topA 0x340) 16 = true ∧ s.fld (topA 0x344) 15 0 < 2 ^ 15 ∧ signed16 799 < s.fld (topA 0x344) 15 0 - 40) := by decide

/-! ### Curator, framers, MAP -/

/-- Source 5 has a report waiting, and the ring is ready. -/
def reported : State := (put host [(curA 0x100, 0x10)]).setCur
  { Cur.init with intake := [(5, [⟨5, 0x0B, false, 9, 0, false, false⟩])] }

theorem wit_CuratorLogs :
    (reported.curRuns = true ∧ reported.ringReady = true ∧
      nextSource reported.cur.intake reported.cur.lastTaken = some 5 ∧
      (Tab.get reported.cur.intake [] 5).length = 1 ∧
      (reported.reacts ⟨5, 0x0B, false, 9, 0, false, false⟩).block = false) ∧
    (let s := ringed 1
     s.curRuns = true ∧ s.ringReady = true ∧ s.qdrUp = true ∧ s.fld (curA 0x110) 26 0 = ringBase ∧ 1 ≤ s.uncopied ∧
       s.uncopied ≤ 1024 ∧ s.cwBad ((ringBase + 64) / 64) = false) ∧
    (ringed 1024).uncopied = 1024 ∧ 1024 < (ringed 1025).uncopied ∧ hostAt host (curA 0x10C) := by
  refine ⟨by decide, by decide, by decide, by decide, ?_⟩; unfold hostAt; decide

theorem wit_CuratorControls :
    (∀ a, a = curA 0x124 ∨ a = curA 0x118 ∨ a = curA 0x120 ∨ a = srcA 1023 8 ∨ a = srcA 1023 4 ∨ a = srcA 98 8 → hostAt host a) ∧
    uncounted (stopped host) ∧ hostAt (stopped host) (srcA 98 8) ∧
    (let s := host.setCur { Cur.init with blockResets := [⟨64, 5000⟩] }
     s.curRuns = true ∧ s.cur.blockResets.find? (fun r => r.src == 64) = some ⟨64, 5000⟩ ∧ s.resetOver ⟨64, 5000⟩ = true) ∧
    (let s := host.setCur { Cur.init with shadows := [⟨64, [64], some 5000, 0⟩] }
     s.cur.shadows.find? (fun h => h.src == 64 && (match h.closesAt with
       | some t => decide (t ≤ s.now)
       | none => false)) = some ⟨64, [64], some 5000, 0⟩) ∧
    (let s := (put host [(curA 0xFC, 1)]).setCur { Cur.init with aliveStopped := true }
     s.armed (curA 0) = true ∧ s.cur.aliveStopped = true) ∧ host.armed (curA 0) = false ∧
    (let s := (host.setNow 500000).setCur { Cur.init with aliveStarted := true }
     s.curRuns = true ∧ s.aliveRuns = true ∧ s.cur.lastToggle + 500000 ≤ s.now) ∧
    (let s := ((put host [(curA 0x11C, 1)]).setNow 1000000).setCur { Cur.init with aliveStarted := true }
     s.cur.aliveLost = false ∧ s.fld (curA 0x11C) 15 0 ≠ 0 ∧ s.cur.lastKick + s.fld (curA 0x11C) 15 0 * 1000000 ≤ s.now) ∧
    (0x80000001 : Word).getLsbD 31 = true ∧ (0x80000001 : Word).toNat % 256 ≠ 0 := by
  refine ⟨?_, stopped_uncounted _ rfl, ?_, by decide⟩
  · unfold hostAt; rintro a (h | h | h | h | h | h) <;> subst h <;> decide
  · unfold hostAt; decide

/-- Receive framer `f` has format `fmt` and its hunter `p` is `h`. -/
def framed (f : Nat) (fmt : Word) (p : Nat) (h : Hunter) : State := (put host [(rxA f 0x100, fmt)]).setHunter f p h

def hunting : Hunter := { Hunter.init with state := .hunt, mask := 1, frameLen := 1000, oof := true, start := some 0 }
def cand (n : Nat) (e p : Option Bool) (pos : Nat) : Cand := ⟨pos, n, e, p, 31⟩

/-- A place where the bits of the window are `w`; a hunt from bit 0, and the XYZ words `xyz`. -/
def place (w : BitVec 74) (xyz : List (BitVec 10)) : MatchIn :=
  { window := w, start := 0, mfas := 0, b1 := 0, bip := 0, xyz := xyz, lineNo := 1, crcs := [] }

/-- What a place at bit `pos` has to meet to be judged now. -/
def judgedAt (s : State) (f p pos : Nat) (x : MatchIn) : Bool :=
  let h := s.hunter f p
  let st := h.start.getD (max h.bit (min x.start pos))
  let win := if h.cands = [] then max h.win ((pos - st) / max 1 h.frameLen) else h.win
  s.rxRuns f && (phasesOf (s.rxFmt f)).contains p && s.rxFmt f != 0 && s.hunts f p && decide (h.bit ≤ pos) &&
    decide (pos < st + (win + 1) * h.frameLen) && h.cands.all (fun c => decide (pos ≤ c.pos + h.frameLen))

/-- A candidate stands at `pos`. -/
def expectedAt (s : State) (f p pos : Nat) : Option Cand :=
  (s.hunter f p).cands.find? (fun c => c.pos + (s.hunter f p).frameLen == pos)

theorem wit_FrameFinding :
    (hostAt host (rxA 383 0x100) ∧ fmtOk 383 11 = true ∧ host.rxFmt 383 = 0 ∧ fmtOk 383 6 = false ∧ fmtOk 0 7 = false ∧
      fmtOk 0 6 = true) ∧
    (hostAt (framed 0 6 4 hunting) (rxA 0 0x104) ∧ (framed 0 6 4 hunting).rxFmt 0 = 6) ∧
    (let s := framed 191 6 4 { hunting with cands := [cand 1 none none 0] }
     judgedAt s 191 4 7 (place 0 []) = true ∧ expectedAt s 191 4 7 = none ∧ s.patternAt 191 4 0 = true ∧
       famOf (s.rxFmt 191) ≠ 3 ∧ (s.hunter 191 4).state = .hunt ∧ (s.hunter 191 4).cands.length < 8) ∧
    (let s := framed 191 6 4 { hunting with win := 1, cands := [cand 1 none none 0] }
     judgedAt s 191 4 1000 (place 1 []) = true ∧ expectedAt s 191 4 1000 = some (cand 1 none none 0) ∧
       s.patternAt 191 4 1 = false) ∧
    (let s := framed 383 8 0 { hunting with start := none, bit := 3 }
     judgedAt s 383 0 5000 (place 0 []) = true ∧ expectedAt s 383 0 5000 = none ∧ famOf (s.rxFmt 383) = 3 ∧
       xyzValid (s.streams 383) (List.replicate (s.streams 383) 0x274) = true ∧ xyzValid (s.streams 383) [] = false ∧
       s.patternAt 383 0 0 = true) ∧
    (let s := framed 0 1 0 { hunting with cands := (List.range 8).map (cand 1 none none) }
     judgedAt s 0 0 999 (place 0 []) = true ∧ 8 ≤ (s.hunter 0 0).cands.length ∧ expectedAt s 0 0 999 = none ∧
       s.patternAt 0 0 0 = true ∧ s.patternAt 0 0 1 = false) ∧
    (let s := framed 0 1 0 { hunting with state := .ambiguous, win := 1, cands := [cand 3 none none 0] }
     judgedAt s 0 0 1000 (place 1 []) = true ∧ expectedAt s 0 0 1000 = some (cand 3 none none 0) ∧
       (s.hunter 0 0).cands.filter (fun d => d != cand 3 none none 0) = []) ∧
    (let s := framed 0 1 0 { hunting with cands := [cand 3 none none 0, cand 2 none none 1] }
     s.hunts 0 0 = true ∧ (s.hunter 0 0).start = some 0 ∧ (∀ c ∈ (s.hunter 0 0).cands, 1000 ≤ c.pos + 1000) ∧
       (s.hunter 0 0).cands.filter (fun c => decide (1 + 2 ≤ c.count)) = [cand 3 none none 0]) ∧
    (let s := framed 0 1 0 { hunting with cands := [cand 2 none none 0] }
     s.hunts 0 0 = true ∧ (s.hunter 0 0).cands.filter (fun c => decide (1 + 2 ≤ c.count)) = []) ∧
    (let s := framed 0 1 0 { hunting with cands := [cand 3 (some false) none 0, cand 9 none none 1] }
     s.hunts 0 0 = true ∧ ((s.hunter 0 0).cands.filter (fun c => decide (1 + 2 ≤ c.count))).length = 2 ∧
       ∀ c ∈ (s.hunter 0 0).cands, c.ev ≠ some true) ∧
    (let s := framed 0 1 0 { hunting with state := .ambiguous, cands := [cand 3 (some true) (some true) 0, cand 3 none none 1] }
     s.hunts 0 0 = true ∧ (s.hunter 0 0).winners = [cand 3 (some true) (some true) 0]) ∧
    (let s := framed 0 1 0 { hunting with state := .ambiguous, cands := [cand 3 none none 1], ambigWindows := 14 }
     s.hunts 0 0 = true ∧ (s.hunter 0 0).winners.length ≠ 1 ∧ (s.hunter 0 0).cands ≠ [] ∧
       (s.hunter 0 0).ambigWindows + 1 < (s.hunter 0 0).ambigLimit) ∧
    (let s := framed 0 1 0 { hunting with state := .ambiguous, cands := [cand 3 none none 1], ambigWindows := 15 }
     s.hunts 0 0 = true ∧ (s.hunter 0 0).winners.length ≠ 1 ∧
       (s.hunter 0 0).ambigLimit ≤ (s.hunter 0 0).ambigWindows + 1) := by
  unfold hostAt; decide

def aligned : Hunter := { hunting with state := .inFrame, oof := false, mask := 1 }

/-- The twenty hunters of group 0 are in frame, each on its lane. -/
def grouped : State :=
  (put host ([0, 1, 2, 3].map (fun f => (rxA f 0x100, 6)))).setFramers
    ([0, 1, 2, 3].map (fun f => (f, { Framer.init with
      hunters := (List.range 5).map (fun p => (p, { aligned with lane := 5 * f + p })) })))

/-- A frame whose pattern matches if `ok`, with arrivals `arr` of the lanes. -/
def frame1 (ok : Bool) (arr : List Nat) : FrameIn :=
  { window := if ok then 0 else 1, bytes := [], errs := [], vc := [], au := [], crcs := [], xyz := [], lineNo := 0,
    csf := none, payloadId := none, arr := arr, bitPs := 0, omfi := none }

/-- The members of group 47 have format 6, and hunter 5 of the lead, the OTU4's own, is `h`. -/
def otu4 (h : Hunter) : State := framed 188 6 5 h

theorem wit_FramesAndLosses :
    (let s := framed 0 1 0 { aligned with next := 7, firstAt := 7 }
     s.rxDelivers 0 = true ∧ s.rxFmt 0 ≠ 6 ∧ s.patternAt 0 0 (frame1 true []).window = true ∧
       s.patternAt 0 0 (frame1 false []).window = false ∧ (s.hunter 0 0).errRun + 1 < (s.hunter 0 0).lossCount ∧
       (s.hunter 0 0).firstAt ≤ (s.hunter 0 0).next ∧ famOf (s.rxFmt 0) ≠ 3 ∧ s.rxSlotOk 0 0 = true) ∧
    (let s := framed 0 1 0 { aligned with errRun := 4, next := 6, firstAt := 7 }
     s.rxDelivers 0 = true ∧ (s.hunter 0 0).lossCount ≤ (s.hunter 0 0).errRun + 1 ∧
       (s.hunter 0 0).next < (s.hunter 0 0).firstAt) ∧
    (let s := otu4 aligned
     s.rxDelivers 188 = true ∧ s.rxFmt 188 = 6 ∧ (skewOk [0, 2000000] && skewHeld (s.framer 188).skewRef [0, 2000000]) = true ∧
       (skewOk [0, 2000001] && skewHeld (s.framer 188).skewRef [0, 2000001]) = false) ∧
    (let s := framed 0 1 0 { hunting with fly := some 0 }
     s.rxFlies 0 = true) ∧
    (let s := (framed 0 1 0 hunting).setNow 3000000
     s.lofDue 0 (lofKey (s.rxFmt 0)) = true ∧ s.rawBit 0 2 = false ∧ lofKey (s.rxFmt 0) = 0) ∧
    (let s := (framed 0 1 0 aligned).setNow 3000000
     s.lofOver 0 (lofKey (s.rxFmt 0)) = true) ∧
    (let s := (framed 0 6 5 hunting).setNow 3000000
     s.lofDue 0 (lofKey (s.rxFmt 0)) = true ∧ s.rawBit 0 2 = false ∧ 0 % 4 = 0) ∧
    (let s := (framed 1 6 4 aligned).setNow 3000000
     let s := [0, 1, 2, 3].foldl (fun s q => s.setHunter 1 q aligned) s
     s.rxFmt 1 = 6 ∧ 1 % 4 ≠ 0 ∧ ∀ q, q < 5 → s.lofOver 1 q = true) ∧
    (let s := (framed 0 6 4 hunting).setNow 3000000
     s.rxFmt 0 = 6 ∧ s.lofDue 0 4 = true) ∧
    (let s := ((framed 0 3 0 aligned).setFramer 0 { (framed 0 3 0 aligned).framer 0 with
        mf := { Mf.init with everIn := true } }).setNow 3000000
     s.mfLive 0 = true ∧ (s.framer 0).mf.lomDue (s.lomTime 0) s.now = true) ∧
    (let s := (put (otu4 aligned) []).setActive [(mapA 11 (0x400 + 0x40 * 12), 1)]
     let s := (s.setFramer 188 { s.framer 188 with omfi := { Mf.init with everIn := true } }).setNow 3000000
     s.mfLive 188 = true ∧ s.omfiRuns 188 = true ∧ (s.framer 188).omfi.lomDue (s.lomTime 188) s.now = true) ∧
    (let s := (framed 0 3 0 aligned).setFramer 0 { (framed 0 3 0 aligned).framer 0 with mf := { Mf.init with inMf := true } }
     s.mfLive 0 = true ∧ (s.framer 0).mf.inMf = true ∧ s.omfiRuns 0 = false) ∧
    (leadOf 0 = 0 ∧ grouped.rxRuns 0 = true ∧ grouped.groupFramed 0 = true ∧ grouped.lanesComplete 0 = true) ∧
    (let s := (framed 383 8 0 hunting).setFramer 383 { Framer.init with trsSeen := 1 }
     s.rxRuns 383 = true ∧ famOf (s.rxFmt 383) = 3 ∧ (s.framer 383).trsSeen ≠ 0 ∧
       (s.framer 383).trsSeen + 4194304 ≤ 4194304 + 1) ∧
    (let s := (framed 0 1 0 aligned).setNow 3000000
     s.rxRuns 0 = true ∧ s.rxFmt 0 ≠ 0 ∧ s.rawBit 0 0 = false ∧
       max 0 (s.framer 0).detSince + s.fld (rxA 0 0x200) (0 + 9) 0 * 1000 ≤ s.now) ∧
    (let s := (put (framed 0 1 0 aligned) [(rxA 0 0x204, 1)]).setNow 3000000
     s.rxRuns 0 = true ∧ s.rxFmt 0 ≠ 0 ∧ s.rawBit 0 0 = true ∧
       max 0 (s.framer 0).detSince + s.fld (rxA 0 0x200) (16 + 9) 16 * 1000 ≤ s.now) ∧
    hostAt host (rxA 0 0x238) ∧ hostAt host (tribA 11 79 0xC) ∧
    (let s := (put (framed 0 1 0 aligned) [(rxA 0 0x240, 8), (rxA 0 0x244, 4), (tribA 11 79 0x40, 8),
       (tribA 11 79 0x44, 4)]).setActive [(tmA 11 79, 0x1A)]
     s.rxRuns 0 = true ∧ s.rxFmt 0 ≠ 0 ∧ s.mapRuns 11 = true ∧ s.tTakes 11 79 = true ∧
       s.degOn (rxA 0 0x240) = true ∧ 0 < s.fld (rxA 0 0x240) 23 0 ∧ s.degOn (tribA 11 79 0x40) = true) ∧
    (let s := (framed 0 1 0 aligned).setNow 1000000000
     s.coreRuns = true ∧ s.sundialRuns = true ∧ (s.dial 0).latchSec < s.dialNs 0 / 1000000000) := by
  unfold hostAt; and_intros <;> decide

/-! ### Transmit, Trellis, MAP, Cellar -/

/-- Tributary 79 of row 11 is mapped from and to channel 0 of its row in mode 2 by GMP, its Cm window is 1 to 65,535. -/
def tributary : State := (put host [(tmA 11 79 + 0xC, 0xFFFF0001)]).setActive [(tmA 11 79, 0x1A)]

theorem wit_TransmitAndCommit :
    (let s := put host [(txA 383 0x100, 11)]
     s.txRuns 383 = true ∧ s.txFmt 383 ≠ 0 ∧ s.txFmt 383 ≠ 6 ∧ s.sundialRuns = true ∧ s.prbsSel (srdTx 383) = 0 ∧
       famOf (s.txFmt 383) = 3) ∧
    (let s := put host [(txA 188 0x100, 6)]
     s.txRuns 188 = true ∧ s.txFmt 188 = 6 ∧ 188 % 4 = 0 ∧ famOf (s.txFmt 188) = 2 ∧ s.bit (txA 188 0x200) 2 = false ∧
       s.rxAct 188 [20] = false) ∧
    (let s := put host [(txA 0 0x100, 1)]
     famOf (s.txFmt 0) = 1 ∧ s.bit (txA 0 0x200) 0 = false) ∧
    (let s := (host.setTx 0 { Tx.init with onDial0 := true, timing := 1 }).setNow 10000000
     s.txRuns 0 = true ∧ (s.tx 0).onDial0 = true ∧ s.rawBit 0 0 = false ∧ (s.tx 0).losFreeSince + 10000000 ≤ s.now) ∧
    (let s := (put host [(rxA 0 0x204, 1)]).setTx 0 { Tx.init with timing := 1 }
     s.txRuns 0 = true ∧ (s.tx 0).timing.getLsbD 0 = true ∧ (s.tx 0).onDial0 = false ∧ s.rawBit 0 0 = true) ∧
    (let s := host.setTx 0 { Tx.init with onDial0 := true, backDue := true, timing := 1 }
     s.txRuns 0 = true ∧ (s.tx 0).backDue = true ∧ s.rawBit 0 0 = false) ∧
    hostAt host (trlA 0x100) ∧ host.bit (trlA 0x104) 4 = false ∧
    hostAt (put host [(trlA 0x104, 0x10)]) (trlA 0x100) ∧ (put host [(trlA 0x104, 0x10)]).bit (trlA 0x104) 4 = true ∧
    host.coreRuns = true ∧ host.inReset (trlA 0) = false := by
  unfold hostAt; decide

/-- Tributary 5 of row 11 is set to `own`, and connected to tributary 79, set to `src`; `regs` besides. -/
def connected (own src : Word) (regs act : List (Nat × Word)) : State :=
  (put host ([(trlA 0x40000, 0x80004F0B), (trlA 0x50000, 0x800B6000)] ++ regs)).setActive
    ([(tmA 11 5, own), (tmA 11 79, src)] ++ act)

/-- Tributary 5 of row 11 is `own`, in the carrier of channel 12 of its row, whose framer has format `fmt`. -/
def carried (fmt : Word) (p : Nat) (own : Word) (regs : List (Nat × Word)) : State :=
  (put (framed 188 fmt p aligned) regs).setActive [(tmA 11 5, 0xC0000 ||| own)]

/-- Pair 95 merges channels 0 and 1 of row 11, both ODU4, with one plot, at 1 s; its history of copy B is `h`, its status
`st`; copy A brings its frames with `a` errors, copy B with `b`, and the fingerprint 7. -/
def paired (h : List Fp) (st force : Word) (a b : Option Nat) : State :=
  let x := fun e : Option Nat => { Framer.init with hunters := [(0, aligned)], parA := e, parAt := 1000000000, fp := some 7 }
  (((((put host [(rxA 176 0x100, 5), (rxA 177 0x100, 5), (pairA 95 0xC, st), (pairA 95 8, force)]).setActive
    [(pairA 95 0, 0x10001)]).setGrants [(95, (0, 1))]).setPair 95 { Pair.init with histB := h, validSince := some 0 }).setFramers
      [(176, x a), (177, x b)]).setNow 1000000000

theorem wit_TributariesAndPairs :
    (let s := connected 0x1A 0x1A [] []
     s.mapRuns 11 = true ∧ s.tTakes 11 5 = true ∧ s.tribFed 11 5 = true ∧ s.tGmp 11 5 = true) ∧
    (let s := carried 6 5 0x9 [(tmA 11 5 + 0xC, 0xFFFF0001)]
     s.tTakes 11 5 = true ∧ s.tribFed 11 5 = true ∧ s.tribWhole 11 5 = true ∧ s.tGmp 11 5 = true ∧
       s.cmInWindow 11 5 1 = true ∧ s.cmInWindow 11 5 65535 = true ∧ s.cmInWindow 11 5 0 = false) ∧
    (let s := carried 4 0 0x9 []
     s.tTakes 11 5 = true ∧ s.tribFed 11 5 = true ∧ s.tAmp 11 5 = true ∧ majority [1, 1, 0] = some 1 ∧
       majority [0, 1, 2] = none) ∧
    (tributary.mapRuns 11 = true ∧ tributary.tMakes 11 79 = true ∧ tributary.tMode 11 79 ≠ 1 ∧ tributary.makesBy 11 79 = 0) ∧
    (let s := (framed 383 8 0 aligned).setActive [(tmA 11 79, 0x1F0C7A)]
     s.tMakes 11 79 = true ∧ s.makesBy 11 79 = 0 ∧ s.clientLost 11 79 = false) ∧
    (let s := host.setActive [(tmA 11 79, 0xB), (tmA 11 5, 0xC), (tmA 11 5 + 4, 0x4F000100)]
     s.tMode 11 79 = 3 ∧ s.tMakes 11 79 = true ∧ 5 ∈ s.members 11 79 ∧ s.tSq 11 5 = 1) ∧
    (let s := host.setActive [(tmA 11 5, 0x11)]
     s.tMode 11 5 = 1 ∧ s.tMakes 11 5 = true ∧ s.feed 11 5 = .open) ∧
    (let s := connected 0x11 0x1A [] []
     s.tMode 11 5 = 1 ∧ s.tMakes 11 5 = true ∧ s.feed 11 5 = .signal 11 79) ∧
    (let s := connected 0x11 0x3A [] []
     s.tMode 11 5 = 1 ∧ s.tMakes 11 5 = true ∧ s.feed 11 5 = .replaced) ∧
    (tributary.tMode 11 79 = 2 ∧ tributary.tEgr 11 79 = true ∧ tributary.actFld (tmA 11 79 + 4) 2 2 = 1) ∧
    (let s := paired [⟨7, 1000000000, true⟩] 0x700 0 (some 0) (some 0)
     s.mRuns 95 = true ∧ s.mSelector 95 = false ∧ (s.copyFrame 95 false).2.2 = some 7 ∧ (s.copyFrame 95 true).2.2 = some 7 ∧
       s.inReset (chkA (fpUnit 95 true) 0) = false ∧ s.frameValid 95 false = true ∧ s.mAligned 95 = false ∧
       (recent (s.pair 95).histB 1000000000 (plotsNs (Tab.get s.grants (0, 0) 95).2 (s.rxFmt (s.mChanA 95)) +
         framePs (s.rxFmt (s.mChanA 95)) / 1000)).filter (fun o => o.fp == 7) = [⟨7, 1000000000, true⟩] ∧
       s.fld (pairA 95 0xC) 11 8 = 7 ∧ (s.pair 95).cand =
         divNear (matchOffset false 1000000000 1000000000) (max 1 (framePs (s.rxFmt (s.mChanA 95)) / 1000))) ∧
    (let s := paired [] 0 0 none none
     s.mRuns 95 = true ∧ s.frameValid 95 false = false ∧ s.mForce 95 = 0 ∧ s.judged 95 0 = (false, false) ∧
       (s.pair 95).validSince = some 0 ∧ 0 + 1000000000 ≤ s.now ∧ s.bit (pairA 95 0xC) 4 = false) ∧
    (let s := paired [] 0 0 none (some 0)
     s.mForce 95 = 0 ∧ s.mSel 95 = false ∧ s.judged 95 0 = (false, true)) ∧
    (let s := paired [] 2 0 none (some 0)
     s.mForce 95 = 0 ∧ s.mSel 95 = true ∧ s.judged 95 0 = (false, true)) ∧
    (let s := paired [⟨7, 1000000000, true⟩] 1 0 none none
     s.mAligned 95 = true ∧ s.judged 95 1000000000 = (false, true)) ∧
    (paired [] 0 0x1000000 none none).mForce 95 = 1 ∧ (paired [] 0 0x2000000 none none).mForce 95 = 2 := by
  and_intros <;> decide

/-! ### Sundial and Sieve -/

/-- Reference 16 is an input of 1 Hz in state `q`, with a GLITCH_NS of 5. -/
def referenced (q : Word) (x : Ref) : State :=
  ((put host [(refA 16 0x18, q)]).setPolicy [(refA 16 0, 0x511), (refA 16 4, 1), (refA 16 8, 1)]).setRef 16 x

/-- Reference 79 is a tap of lane 0, which carries an STM-16, and CHECKING; `regs` besides. -/
def tapped (regs : List (Nat × Word)) : State :=
  (put host ([(rxA 0 0x100, 1), (refA 79 0x18, 2)] ++ regs)).setPolicy [(refA 79 0, 0x91), (refA 79 0x40, 0)]

theorem wit_SundialReferences :
    (let s := referenced 1 Ref.init
     s.sundialRuns = true ∧ s.qstate 16 = 1 ∧ s.refPeriod 16 = some (65536000000000, 1) ∧ (s.ref 16).lastEdge = none ∧
       ((s.ref 16).high = false ∨ s.polFld (refA 16 0) 15 8 ≤ 0) ∧ s.polFld (refA 16 0) 15 8 ≤ 5) ∧
    (let s := referenced 2 { Ref.init with lastEdge := some 1 }
     s.sundialRuns = true ∧ s.qstate 16 ≠ 0 ∧ s.qstate 16 ≠ 6 ∧ (s.ref 16).lastEdge = some 1 ∧
       ∀ fuse : Nat, edgeFits 1 (0 - fuse) 65536000000000 1 = false) ∧
    (let s := referenced 2 { Ref.init with high := true }
     s.qstate 16 = 2 ∧ (s.ref 16).high = true ∧ 4 < s.polFld (refA 16 0) 15 8) ∧
    (let s := referenced 2 Ref.init
     s.qstate 16 = 2 ∧ 4 < s.polFld (refA 16 0) 15 8) ∧
    (let s := put host [(refA 15 0x18, 1)]
     s.sundialRuns = true ∧ s.qstate 15 = 1) ∧
    (let s := tapped []
     s.sundialRuns = true ∧ s.qstate 79 = 2 ∧ s.tapLost 79 = false ∧ s.refPeriod 79 = some (262144000000000 * 65536, 2488320000) ∧
       (s.ref 79).lastEdge = none) ∧
    (let s := tapped [(rxA 0 0x204, 1)]
     s.qstate 79 = 2 ∧ s.tapLost 79 = true) ∧
    (let s := ((put host [(refA 83 0x18, 3)]).setPolicy [(refA 83 4, 1), (refA 83 8, 1)]).setRef 83 { Ref.init with swNext := some 7 }
     s.qstate 83 ≠ 1 ∧ (s.ref 83).swNext = some 7 ∧ 7 ≤ s.sdlNow * 65536 + 65535 ∧ (s.ref 83).lastEdge = none ∧
       s.refPeriod 83 = some (65536000000000, 1)) ∧
    (let s := (referenced 3 Ref.init).setNow 100000000000
     s.sundialRuns = true ∧ s.lossDue 16 = true) ∧
    (let s := (put host [(refA 83 0x18, 3)]).setNow 100000000000
     s.sundialRuns = true ∧ s.lossDue (80 + 3) = true) ∧
    (let s := put host [(refA 83 0x44, 65536000)]
     hostAt s (refA 83 0x48) ∧ s.swFed 3 = false ∧ |s.int (refA 83 0x44)| ≤ (s.polFld (refA 83 0x50) 15 0 * 65536 : Nat)) ∧
    (let s := put host [(refA 83 0x44, 65536001)]
     hostAt s (refA 83 0x48) ∧ s.swFed 3 = false ∧ (s.polFld (refA 83 0x50) 15 0 * 65536 : Nat) < |s.int (refA 83 0x44)|) := by
  unfold hostAt
  and_intros
  all_goals first | decide | (intro fuse; rw [Nat.zero_sub]; decide)

/-- Dial 15 is in state `st`, with `regs` besides, at time `t`. -/
def dialed (t : Nat) (st : Word) (d : Dial) (regs : List (Nat × Word)) : State :=
  ((put host ((dialA 15 0x10, st) :: regs)).setDial 15 d).setNow t

/-- Generator 94, of 1 kHz on dial 0, drives the pair of balls 94 and 95; it is `x`. -/
def generated (x : Gen) : State := ((host.setPolicy [(genA 94 0, 9), (genA 94 4, 1000)]).setGen 94 x).setNow 5000

/-- A message of SEQ 0 and of SEQ 3 of the message it answers. -/
def ttc1 (echo : Bool) (v : BitVec 3) (crc : Byte) : TtcIn :=
  { version := v, echoValid := echo, user := 0, seq := 0, dep := 0, echoSeq := 3, arr := 0, crc := crc }

/-- Line channel 188 carries a time-transfer channel in OTU4 by OTL4.4, at row 3, column 0; `regs` besides. -/
def ttced (regs : List (Nat × Word)) : State :=
  (put host ([(rxA 188 0x100, 6), (txA 188 0x100, 6), (ttcA 188 0xC, 1)] ++ regs)).setPolicy [(ttcA 188 0, 0x18000001)]

/-- A dial that follows OSC_IN from 0 places an edge within 1/128 cycle of the time it is due, whatever the latency. -/
theorem placeEdge_near (s : State) (g n : Nat) (t : Int) (h0 : (s.dial n).timeU = 0) (h1 : (s.dial n).since = 0)
    (h2 : (s.dial n).y = 0) (h3 : s.outAdj g = 0) : t - 640 ≤ s.placeEdge g n (t, 1) ∧ s.placeEdge g n (t, 1) ≤ t + 640 := by
  simp only [State.placeEdge, h0, h1, h2, h3, unitsPerSub, divNear]
  generalize outLatency g = l
  norm_num
  split <;> omega

theorem soon_low (s : State) (g : Nat) (at_ : Int) (h : (s.gen g).level = false) :
    ((s.gen g).moved = false → (s.genEnd g at_).soon at_ = false) ∧
    (∀ l, (s.gen g).moved = true → (s.gen g).lastEdge = some l → at_ < l + 163840 → (s.genEnd g at_).soon at_ = true) := by
  refine ⟨fun hm => ?_, fun l hm hl ha => ?_⟩ <;> simp [State.genEnd, Gen.soon, *]

theorem near_at (s : State) (n : Nat) (t : Int × Nat) (hn : n = 0) (ht : t = (0, 1)) (h : s.placeEdge 94 0 (0, 1) ≤ 640) :
    s.placeEdge 94 n t ≤ 640 := by subst hn ht; exact h

theorem wit_SundialGenerators :
    (let s := generated Gen.init
     s.genRuns 94 = true ∧ s.placeEdge 94 (s.genDial 94) (s.genTime 94 (s.gen 94).k) ≤ (s.sdlNow * 65536 + 65535 : Nat) ∧
       (∀ at_, (s.genEnd 94 at_).soon at_ = false) ∧ s.genPair 94 = true) ∧
    (let s := generated { Gen.init with moved := true, lastEdge := some 1000 }
     s.genRuns 94 = true ∧ let at_ := s.placeEdge 94 (s.genDial 94) (s.genTime 94 (s.gen 94).k)
       at_ ≤ (s.sdlNow * 65536 + 65535 : Nat) ∧ (s.genEnd 94 at_).soon at_ = true) ∧
    (let s := generated { Gen.init with level := true, fall := (0, 1) }
     s.sundialRuns = true ∧ (s.gen 94).level = true ∧
       s.placeEdge 94 (s.gen 94).fallDial (s.gen 94).fall ≤ (s.sdlNow * 65536 + 65535 : Nat)) := by
  have near : ∀ x : Gen, (generated x).placeEdge 94 0 (0, 1) ≤ 640 := fun x =>
    (placeEdge_near (generated x) 94 0 0 rfl rfl rfl
      ((rfl : _ = (generated Gen.init).outAdj 94).trans (by decide))).2
  have due : ∀ (s : State) (n : Nat) (t : Int × Nat), n = 0 → t = (0, 1) → s.placeEdge 94 0 (0, 1) ≤ 640 →
      (5000 * 65536 + 65535 : Nat) = s.sdlNow * 65536 + 65535 → s.placeEdge 94 n t ≤ (s.sdlNow * 65536 + 65535 : Nat) := by
    intro s n t hn ht h e; rw [← e]; exact (near_at s n t hn ht h).trans (by decide)
  refine ⟨⟨by decide, due _ _ _ (by decide) (by decide) (near _) (by decide), fun at_ => ?_, by decide⟩,
    ⟨by decide, due _ _ _ (by decide) (by decide) (near _) (by decide), ?_⟩,
    ⟨by decide, by decide, due _ _ _ (by decide) (by decide) (near _) (by decide)⟩⟩
  · exact (soon_low _ _ _ (by decide)).1 (by decide)
  · exact (soon_low _ _ _ (by decide)).2 1000 (by decide) (by decide)
      (lt_of_le_of_lt (near_at _ _ _ (by decide) (by decide) (near _)) (by decide))

theorem wit_SundialDials :
    (let s := host.setNow 1000000000
     s.sundialRuns = true ∧ s.winStart + 1000000000 ≤ s.sdlNow) ∧
    (let s := dialed 1000000000 0x8 Dial.init []
     s.bit (dialA 15 0x10) 3 = true ∧ (s.dial 15).holdoffAt + s.holdoffNs 15 ≤ s.sdlNow ∧
       s.returnWaits (s.selRef 15) = false) ∧
    (let s := (dialed 1000000000 0x100008 Dial.init [(refA 16 0x18, 1)]).setPending [.referenceEdge 16 0 0 0]
     s.bit (dialA 15 0x10) 3 = true ∧ (s.dial 15).holdoffAt + s.holdoffNs 15 ≤ s.sdlNow ∧
       s.returnWaits (s.selRef 15) = true) ∧
    (let s := dialed 100000000000 1 { Dial.init with lockSince := some 0 } []
     s.lockDue 15 = true) ∧
    (let s := dialed (86400 * 1000000000) 3 Dial.init []
     s.dialState 15 = 3 ∧ s.pol (dialA 15 0xC) ≠ 0 ∧
       (s.dial 15).stateSince + (s.pol (dialA 15 0xC)).toNat * 1000000000 ≤ s.sdlNow) ∧
    (let s := dialed 1000000 2 { Dial.init with rawN := 1 } []
     s.follows 15 (s.selRef 15) = true ∧ s.updateDue 15 (s.selRef 15) = true) ∧
    (let s := dialed 1000000000 2 Dial.init []
     s.dialState 15 = 2 ∧ s.bit (dialA 15 0x10) 3 = false ∧ (s.dial 15).ySumFrom + 1000000000 ≤ s.sdlNow) ∧
    (let s := dialed 2000000000 0 { Dial.init with sec := 2 } []
     s.dialNs 15 / 1000000000 ≤ (s.dial 15).sec) ∧
    (let s := dialed 2000000000 0 { Dial.init with sec := 1, setArmed := some 0, adjArmed := some 1999500000 } []
     (s.dial 15).sec < s.dialNs 15 / 1000000000 ∧ armDue (s.dial 15).setArmed (s.instantOf 15 131072000000000) = true ∧
       armDue (s.dial 15).adjArmed (s.instantOf 15 131072000000000) = false ∧
       0 ≤ (s.dialSub 15 : Int) + ((s.setTime 15 : Int) - 131072000000000)) ∧
    (let s := dialed 2000000000 0 { Dial.init with sec := 1, adjArmed := some 1999000000 } [(dialA 15 0xE0, 0xFFFFFFFF)]
     (s.dial 15).sec < s.dialNs 15 / 1000000000 ∧ (s.dial 15).setArmed = none ∧
       armDue (s.dial 15).adjArmed (s.instantOf 15 131072000000000) = true ∧
       0 ≤ (s.dialSub 15 : Int) + s.int (dialA 15 0xE0) * 256) ∧
    (hostAt host (dialA 15 0) ∧ hostAt host (dialA 15 0xC0) ∧ hostAt host (sdlA 0x120)) ∧
    (let s := ttced [(rxA 188 0x208, 4)]
     s.ttcRuns 188 = true ∧ anyBit (s.nat (rxA 188 0x208)) [2, 3] = true) ∧
    (let s := (ttced []).setTtc 188 { (ttced []).ttc 188 with
        deps := [(3, 65536000000000, 0)], arrs := [(255, 5, 0)] }
     let x := ttc1 true 1 (crc8 (ttcBytes (ttc1 true 1 0)))
     s.ttcRuns 188 = true ∧ (s.ttc 188).rxBad = false ∧ anyBit (s.nat (rxA 188 0x208)) [2, 3] = false ∧
       (ttc1 true 0 0).version ≠ 1 ∧ crc8 (ttcBytes x) = x.crc ∧ x.version = 1 ∧ x.echoValid = true ∧
       |fullTime x.dep.toNat ((s.ttc 188).rxMfas0 / 65536 / 1000000000) - ((s.ttc 188).rxMfas0 : Int)| ≤ 65536000000000 ∧
       65536000000000 < |fullTime 100000000000000 ((s.ttc 188).rxMfas0 / 65536 / 1000000000) - ((s.ttc 188).rxMfas0 : Int)| ∧
       keptAt (s.ttc 188).deps x.echoSeq.toNat = some (65536000000000, 0) ∧
       |fullTime x.arr.toNat ((s.ttc 188).rxMfas0 / 65536 / 1000000000) - 65536000000000| ≤ 65536000000000 ∧
       keptAt (s.ttc 188).arrs ((x.seq.toNat + 255) % 256) = some (5, 0) ∧ (ttc1 false 1 0).echoValid = false) ∧
    (let s := (ttced []).setNow 1000000000
     s.sundialRuns = true ∧ s.bit (ttcA 188 0xC) 0 = true ∧ (s.ttc 188).lastPass + s.ttcSpan 188 ≤ s.sdlNow) := by
  unfold hostAt; and_intros <;> decide

/-- Input 15 is a Sieve input. -/
def sieved (t : Nat) (st : Word) (v : Sve) : State :=
  (((put host [(sveA 15 0x30, st)]).setPolicy [(refA 15 0, 0x11)]).setSve 15 v).setNow t

theorem wit_SieveInputs :
    hostAt host (sveA 15 4) ∧
    (let s := put (sieved 5000 0 { Sve.init with idx := 4, phaseFrom := 2 }) [(sveA 15 4, 0x200), (bankA 15 0 0, 0x10100)]
     s.sampleRuns 15 = true ∧ s.bit (sveA 15 4) 9 = true ∧ s.sieves 15 = true ∧ s.decim 15 (s.activeBank 15) = 2 ∧
       ((s.sve 15).idx - (s.sve 15).phaseFrom) % s.decim 15 (s.activeBank 15) = 0) ∧
    (let s := sieved 5000 0 { Sve.init with ready := [(3, true)] }
     s.sieves 15 = true ∧ (s.sve 15).ready = [(3, true)]) ∧
    (let s := sieved 1000000 0 { Sve.init with inside := true }
     s.inWindow 15 = false ∧ (s.sve 15).inside = true ∧ (s.sve 15).insideAt + 1000000 ≤ s.sdlNow) ∧
    (let s := sieved 100000 1 Sve.init
     s.inWindow 15 = true ∧ (s.sve 15).inside = false ∧ (s.sve 15).insideAt + 100000 ≤ s.sdlNow) ∧
    (let s := sieved 5000 0 { Sve.init with block := some (2047, -2048, 9) }
     s.sampleRuns 15 = true ∧ (s.sve 15).block = some (2047, -2048, 9)) ∧
    (let s := sieved 2000000 2 Sve.init
     s.sampleRuns 15 = true ∧ s.bit (sveA 15 0x30) 1 = true ∧ (s.sve 15).lastSync + 2000000 ≤ s.sdlNow) := by
  refine ⟨?_, by decide, by decide, by decide, by decide, by decide, by decide⟩; unfold hostAt; decide

/-- A commit of all rows is in progress, with `regs` staged. -/
def staged (regs : List (Nat × Word)) : State := (put host ((trlA 0x104, 0x10) :: regs)).setCommitRows 0xFFF

theorem wit_TransmitAndCommit_refused : let s := staged [(tmA 0 0, 5)]
    s.bit (trlA 0x104) 4 = true ∧ s.inReset (trlA 0) = false ∧ (s.takeStaged s.commitRows.toNat).commitFault = some (3, 0) := by
  decide +kernel

theorem idle_method : ∀ (r : Fin 12) (t : Fin 80), bitsOf (Tab.get [] (regReset (tmA r t + 4)) (tmA r t + 4) : Word).toNat 1 0 = 0 := by
  decide +kernel

/-! With nothing staged every tributary is off and no channel carries tributaries: each check of a commit passes. -/

theorem wit_TransmitAndCommit_done : let s := staged []
    s.bit (trlA 0x104) 4 = true ∧ (s.takeStaged s.commitRows.toNat).commitFault = none := by
  refine ⟨by decide, ?_⟩
  have ha : ((staged []).takeStaged (staged []).commitRows.toNat).active = [] := by decide
  have hi : ((staged []).takeStaged (staged []).commitRows.toNat).trlTable (trlA 0x10000) = [] := by decide
  have ho : ((staged []).takeStaged (staged []).commitRows.toNat).trlTable (trlA 0x20000) = [] := by decide
  generalize (staged []).takeStaged (staged []).commitRows.toNat = s at ha hi ho ⊢
  have hm : ∀ r t, r < 12 → t < 80 → s.tMode r t = 0 := by
    intro r t hr ht
    simp [State.tMode, State.actFld, State.actv, ha, idle_mode r t hr ht, bitsOf]
  have hM : ∀ r t, r < 12 → t < 80 → s.tMethod r t = 0 := by
    intro r t hr ht
    simp only [State.tMethod, State.actFld, State.actv, ha]
    exact idle_method ⟨r, hr⟩ ⟨t, ht⟩
  have hc : ∀ r j, r < 12 → j < 32 → s.hoMode r j = false := by
    intro r j hr hj
    simp [State.hoMode, State.actFld, State.actv, ha, idle_carrier r j hr hj, bitsOf]
  have hf : ∀ r, r < 12 → s.mapFault r = none := by
    intro r hr
    have h1 : (List.range 80).find? (fun t => !s.tribValid r t) = none := by
      simp only [List.find?_eq_none, List.mem_range]
      intro t ht; simp [State.tribValid, hm r t hr ht, hM r t hr ht]
    have h2 : (List.range 32).find? (fun j => s.hoMode r j && !s.carrierValid r j) = none := by
      simp only [List.find?_eq_none, List.mem_range]
      intro j hj; simp [hc r j hr hj]
    simp [State.mapFault, h1, h2]
  have hr : s.routeFault [] [] = none := by
    simp [State.routeFault, connections]
  have hA : (List.range 12).findSome? (fun r => (s.mapFault r).map (fun i => r * 256 + i)) = none := by
    simp only [List.findSome?_eq_none_iff, List.mem_range]
    intro r h; simp [hf r h]
  simp [State.commitFault, State.inTable, State.outTable, hi, ho, hA, hr, State.badEntry, doubleSource, sinkConflict,
    State.orderFault, fanoutFault, rowLimit]

/-! ### Beds, furrows, check units, Inventory -/

/-- Bed 15 is `y`, with `regs` besides. -/
def bedded (y : Bed) (regs : List (Nat × Word)) : State := (put host regs).setBed 15 y

theorem wit_BedCommands :
    (let s := bedded { Bed.init with timers := [(511, { Timer.init with armed := some (5, 64, 9) })] } []
     (Tab.get (s.bed 15).timers Timer.init 511).armed = some (5, 64, 9) ∧ s.enginesRun = true ∧ s.timerDue 15 5 = true ∧
       (s.bed 15).evq.length < 1024 ∧ 64 ≤ (64 : Half).toNat % 256) ∧
    (let s := bedded { Bed.init with timers := [(0, { Timer.init with fired := some (64, 9) })] } []
     (Tab.get (s.bed 15).timers Timer.init 0).fired = some (64, 9) ∧ (s.bed 15).evq.length < 1024) ∧
    (let s := bedded Bed.init [(bedA 15 0xFC, 1), (bedA 15 0x104, 0xF4)]
     hostAt s (bedA 15 0x100) ∧ s.armed (bedA 15 0) = true ∧ (0x11 : Word).getLsbD 0 = true ∧ s.role 15 = 4) ∧
    host.armed (bedA 15 0) = false ∧
    (let s := put host [(bedA 15 0x104, 0x902)]
     s.enginesRun = true ∧ max 1 (s.fld (bedA 15 0x110) 13 8) < s.fld (bedA 15 0x104) 13 8) ∧
    (let s := bedded { Bed.init with move := some ⟨0, 1, 0, 0, false⟩ } [(bedA 15 0x104, 3)]
     (s.bed 15).move = some ⟨0, 1, 0, 0, false⟩ ∧ s.role 15 = 3) ∧
    (let s := bedded { Bed.init with move := some ⟨14, 3, 0, 0, false⟩ } [(bedA 15 0x104, 3)]
     (s.bed 15).move = some ⟨14, 3, 0, 0, false⟩ ∧ s.role 15 = 3 ∧
       ∀ r, r < 12 → s.fld (routeA r) 3 0 = 15 → s.bit (routeA r) 8 = false) ∧
    (let s := bedded { Bed.init with reviving := true } [(bedA 15 0x104, 4)]
     (s.bed 15).reviving = true ∧ s.role 15 = 4 ∧ s.actState ≠ 4) ∧ hostAt host (bedA 15 0x15C) := by
  refine ⟨by decide, by decide, ⟨?_, by decide⟩, by decide, by decide, by decide, by decide, by decide, ?_⟩
  all_goals unfold hostAt; decide

theorem wit_BedCommands_full :
    ((bedded { Bed.init with evq := List.replicate 1024 Ev.init, timers := [(0, { Timer.init with armed := some (5, 64, 9) })] }
      []).bed 15).evq.length = 1024 := by decide

/-- Furrow `F` is `f`, with `regs` besides. -/
def furrowed (F : Nat) (f : Furrow) (regs : List (Nat × Word)) : State := (put host regs).setFur F f

theorem wit_FurrowsAndChecks :
    (let s := furrowed 63 { Furrow.init 63 with items := [item1] } [(furA 63 0, 0x50000)]
     (s.fur 63).unreleased = [item1] ∧ s.fld (furA 63 0) 31 16 ≠ 0 ∧ s.noticed 63 = false ∧
       item1.at_ + s.fld (furA 63 0) 31 16 * 1000 ≤ s.now) ∧
    (hostAt host (furA 63 4) ∧ furExists 63 = true ∧ hostAt host (furA 42 4) ∧ furExists 42 = true) ∧
    (let s := furrowed 63 { Furrow.init 63 with items := [item1] } [(furA 63 8, 0x2000)]
     s.bit (furA 63 8) 13 = true ∧ (s.fur 63).owner = 0) ∧
    (let s := put host [(hifA (0x200 + 12), 9)]
     s.writtenBed 39 = some 9 ∧ 9 ≠ (s.fur 39).bed ∧ (s.fur 39).owner = 0 ∧ s.bit (furA 39 8) 13 = false) ∧
    (let s := put host [(baseOf (routeA 11) + 0xFC, 1)]
     hostAt s (routeA 11) ∧ s.armed (baseOf (routeA 11)) = true ∧ s.bit (routeA 11) 8 = false ∧
       ∀ q, q < 12 → (q ≠ 11 → ¬(s.fld (routeA q) 3 0 = bitsOf (0x1F : Word).toNat 3 0 ∧
         s.fld (routeA q) 4 4 = bitsOf (0x1F : Word).toNat 4 4))) ∧
    (let s := put host [(baseOf (routeA 0) + 0xFC, 1), (routeA 0, 0x101)]
     hostAt s (routeA 0) ∧ s.armed (baseOf (routeA 0)) = true ∧ s.bit (routeA 0) 8 = true) ∧
    host.armed (baseOf (routeA 0)) = false ∧
    (let s := put host [(routeA 11, 0x11F)]
     s.bit (routeA 11) 8 = true ∧ s.routeFree 11 = true ∧ s.bit (furA 11 8) 13 = false ∧ s.bit (furA 23 8) 13 = false ∧
       (s.fur 11).routeAt ≤ s.now) ∧
    (let s := furrowed 35 { Furrow.init 35 with items := [{ item1 with header := 0x8003, words := [0x8B00, 0x6800, 7] }] } []
     s.coreRuns = true ∧ s.inReset (mapA 11 0) = false ∧ (s.fur (24 + 11)).items.length = 1 ∧
       namedObj 0x8B00 = some (.trib 11 0) ∧ objRow (.trib 11 0) = 11) ∧
    (hostAt host (chkA 5 0x18) ∧ hostAt host (chkA 7 0x18) ∧ host.jobBusy 5 = false) ∧
    (let s := put host [(chkA 5 8, 0x4000000), (chkA 5 0xC, 0x4000000)]
     s.fld (chkA 5 8) 26 0 + s.fld (chkA 5 0xC) 27 0 ≤ 2 ^ 27) ∧
    (let s := put host [(chkA 5 8, 0x4000001), (chkA 5 0xC, 0x4000000)]
     hostAt s (chkA 5 0x18) ∧ s.jobBusy 5 = false ∧ 2 ^ 27 < s.fld (chkA 5 8) 26 0 + s.fld (chkA 5 0xC) 27 0) ∧
    (let s := put host ([(chkA 7 0x1C, 1), (chkA 7 0xC, 65)] ++ qdrRegs)
     s.jobBusy 7 = true ∧ s.qdrUp = true ∧ hostAt s (chkA 7 0x18) ∧
       (codewords (s.fld (chkA 7 8) 26 0) (s.fld (chkA 7 0xC) 27 0)).find? s.cwBad = none) ∧
    (let s := (put host ([(chkA 7 0x1C, 1), (chkA 7 0xC, 65)] ++ qdrRegs)).setQdm
        { Qdm.init with errs := [(1, [0, 1, 2, 3, 4])] }
     s.jobBusy 7 = true ∧ s.qdrUp = true ∧
       (codewords (s.fld (chkA 7 8) 26 0) (s.fld (chkA 7 0xC) 27 0)).find? s.cwBad = some 1) := by
  unfold hostAt; and_intros <;> decide

/-- Counter `k` is set by `v` and shows `lo`, `hi`. -/
def counter (k : Nat) (v lo hi : Word) : State := put host [(cntA k 0, v), (cntA k 8, lo), (cntA k 0xC, hi)]

theorem wit_InventoryCounters :
    (∀ k : Fin 344, k = 0 ∨ k = 127 ∨ k = 128 ∨ k = 343 → hostAt host (cntA k.val 0) ∧ hostAt host (cntA k.val 8)) ∧
    (let s := counter 127 0xE00 0xFFFFFFFF 0xFFFF
     s.invRuns = true ∧ s.cntOn 127 = true ∧ s.wrapsNow 127 = true ∧ s.inv.skidDue.contains 127 = false ∧
       s.bit (cntA 127 0) 11 = true) ∧
    (let s := counter 128 0x206 0 0
     s.wrapsNow 128 = true) ∧
    (hostAt host (invA 0x100) ∧ host.inv.snapAt = none ∧ host.invRuns = true ∧ host.bit (invA 0x100) 4 ≠ false) ∧
    (let s := host.setInv { Inv.init with snapAt := some 5000, runAt := some 5000 }
     s.invRuns = true ∧ (∀ d : Fin 5, s.domainRuns d.val = true ∧ d.val ∉ s.inv.copied) ∧
       s.instantPast s.inv.snapAt = true ∧ s.instantPast s.inv.runAt = true) ∧
    (let s := (host.setInv { Inv.init with snapAt := some 5000 }).setNow 15000
     s.inv.snapAt = some 5000 ∧ 5000 + 10000 ≤ s.now) ∧
    (let s := host.setInv { Inv.init with snapAt := some 5000, copied := [4, 3, 2, 1, 0] }
     5 ≤ s.inv.copied.length) ∧
    (let s := put host [(sampA 15 0, 0x200001)]
     s.invRuns = true ∧ s.enginesRun = true ∧ s.tagsEngine 15 31 = true) ∧
    (hostAt host (sampA 15 8) ∧ hostAt host (sampA 15 16)) := by
  refine ⟨?_, by decide, by decide, ⟨?_, by decide⟩, by decide, by decide, by decide, by decide, ?_⟩
  · unfold hostAt; rintro k (h | h | h | h) <;> subst h <;> decide
  all_goals unfold hostAt; decide

/-! ### Rootstock -/

/-- Rootstock's queue holds the host's command `op` with tag 7 and `body`. -/
def asked (op : Nat) (body : List Word) (r : Rts → Rts) (regs : List (Nat × Word)) : State :=
  (put host (regs ++ [(rtsA 0x110, 0)] ++ qdrRegs)).setRts (r { Rts.init with
    queue := [(.host, BitVec.ofNat 32 (op * 2 ^ 24 + body.length * 2 ^ 16 + 7) :: body)] })

/-- A header of 256 bytes that meets R332: version 7, level 63, LENGTH 8192. -/
def header7 : List Word :=
  [0x5343494F, 1, 7, 63, 8192, 1, 0, 0, 0, 0x819200B0] ++ List.replicate 53 0 ++ [0x453A043B]

theorem header7_ok : hdrFieldsOk (imageBytes header7) = true ∧ hdrTargetOk (imageBytes header7) = true ∧
    hdrWord (imageBytes header7) 0x0C = 63 := by decide +kernel

/-- The first `n` words have been written. -/
def writtenAll (n : Nat) : Tab Bool := (List.range n).map (fun i => (i, true))

theorem tab_all_true (l : Tab Bool) (i : Nat) (hm : (i, true) ∈ l) (h : ∀ e ∈ l, e.2 = true) :
    Tab.get l false i = true := by
  induction l with
  | nil => cases hm
  | cons e l ih =>
    obtain ⟨j, v⟩ := e
    have hv : v = true := h (j, v) (by simp)
    by_cases hj : j = i
    · simp [Tab.get, hj, hv]
    · rcases List.mem_cons.1 hm with hm | hm
      · exact absurd (congrArg Prod.fst hm).symm hj
      · simpa [Tab.get, hj] using ih hm (fun e he => h e (by simp [he]))

theorem writtenAll_get (n i : Nat) (h : i < n) : Tab.get (writtenAll n) false i = true := by
  refine tab_all_true _ i (List.mem_map.2 ⟨i, List.mem_range.2 h, rfl⟩) ?_
  intro e he; obtain ⟨j, -, rfl⟩ := List.mem_map.1 he; rfl

theorem wit_RootstockUpdates_commands :
    RtsHead (asked 1 [] id []) .host 0x01 [0x01000007] [] ∧
    (let s := asked 0x10 header7 id []
     RtsHead s .host 0x10 (0x10400007 :: header7) [] ∧ s.claim = 0 ∧ s.rts.committing = none ∧ s.trialPending = false ∧
       s.minLevel ≤ 63) ∧
    (let s := asked 0x11 [256, 4, 5, 0xC57F42D8] (fun r => { r with header := header7 }) [(rtsA 0x100, 0x10000)]
     RtsHead s .host 0x11 [0x11040007, 256, 4, 5, 0xC57F42D8] [] ∧ s.claim = srcCode .host ∧ s.rts.committing = none ∧
       256 + 4 * 1 ≤ s.stagedLen + 4096 ∧ crc32cFold 256 (imageBytes [5]) = 0xC57F42D8 ∧
       Tab.get s.rts.written false (256 / 4) = false) ∧
    (let s := asked 0x12 [] id [(rtsA 0x100, 0x10000)]
     RtsHead s .host 0x12 [0x12000007] [] ∧ s.claim = srcCode .host ∧ s.rts.committing = none ∧
       (s.stagedLen + 4096) / 4 = 1024 ∧ ∀ i, i < 1024 → Tab.get s.rts.written false i = false) ∧
    (let s := asked 0x12 [] (fun r => { r with written := writtenAll 1024 }) [(rtsA 0x100, 0x10000)]
     RtsHead s .host 0x12 [0x12000007] [] ∧ s.claim = srcCode .host ∧ s.rts.committing = none ∧
       (s.stagedLen + 4096) / 4 = 1024 ∧ ∀ i, i < 1024 → Tab.get s.rts.written false i = true) ∧
    (let s := asked 0x13 [9, 1] id [(rtsA 0x140, 1), (rtsA 0x148, 9), (rtsA 0x100, 0x10)]
     RtsHead s .host 0x13 [0x13020007, 9, 1] [] ∧ s.trialPending = false ∧ s.stagedSlotOf 9 = some 0 ∧
       s.minLevel ≤ s.slotField 0 0x0C) ∧
    (let s := (asked 0x13 [9, 0] id [(rtsA 0x140, 1), (rtsA 0x148, 9), (rtsA 0x100, 0x10), (rtsA 0x108, 0xFFFFFFFF),
         (bedA 15 0x104, 1)])
     let s := s.setFlash ([0, 1].flatMap fun k => (List.range 4).map fun i => (slotBase k + 0x20 + i, 0))
     RtsHead s .host 0x13 [0x13020007, 9, 0] [] ∧ s.trialPending = false ∧ s.stagedSlotOf 9 = some 0 ∧
       s.minLevel ≤ s.slotField 0 0x0C ∧ s.liveAllowed 0 = true) ∧
    (let s := asked 0x14 [] id [(rtsA 0x100, 0x10000)]
     RtsHead s .host 0x14 [0x14000007] [] ∧ s.claim = srcCode .host ∧ s.rts.committing = none) := by
  unfold RtsHead
  refine ⟨by decide, by decide +kernel, by decide +kernel, ⟨by decide, by decide, by decide, by decide, fun i _ => rfl⟩,
    ⟨by decide +kernel, by decide, by decide, by decide, fun i h => writtenAll_get 1024 i h⟩, by decide +kernel,
    by decide +kernel, by decide⟩

/-- Slot 0 is TRIAL with version 9, with `regs` besides. -/
def onTrial (r : Rts) (regs : List (Nat × Word)) : State :=
  (put host (regs ++ [(rtsA 0x140, 4), (rtsA 0x148, 9)] ++ qdrRegs)).setRts r

theorem wit_RootstockUpdates_rest :
    (let s := onTrial { Rts.init with committing := some (.host, 7), stagedSlot := 1 } []
     s.rts.committing = some (.host, 7) ∧ s.qdrUp = true ∧ s.rts.stagedSlot < 2) ∧
    (let s := (onTrial Rts.init [(rtsA 0x100, 0x20000)]).setNow 60000000000
     s.claim ≠ 0 ∧ s.rts.committing = none ∧ s.rts.claimAt + 60000000000 ≤ s.now) ∧
    (let s := onTrial { Rts.init with trialBooted := true } []
     hostAt s (rtsA 0x114) ∧ s.slotIn 4 = some 0 ∧ s.slotVersion 0 = (9 : Word).toNat ∧ s.trialRuns = true ∧
       s.slotVersion 0 ≠ (8 : Word).toNat) ∧
    (let s := onTrial { Rts.init with windowEnds := some 5000 } []
     s.slotIn 4 = some 0 ∧ s.actState = 0 ∧ s.rts.windowEnds = some 5000 ∧ 5000 ≤ s.now ∧ s.hostReaches = true ∧
       s.top.kc = none) ∧
    hostAt host (rtsA 0x124) ∧
    (let s := put (onTrial { Rts.init with trialBooted := true } []) [(bedA 2 0x120, 1)]
     reaches .host s (rtsA 0x120) ∧ reaches (.program 2) s (rtsA 0x120) ∧ (2 : Word).toNat % 4 = 2 ∧ s.actState = 0 ∧
       s.rts.trialBooted = true ∧ s.slotIn 4 ≠ none) ∧
    (let s := onTrial { Rts.init with trialSlot := some 0 } [(rtsA 0x100, 0x100), (bedA 15 0x104, 1)]
     s.rts.trialSlot = some 0 ∧ s.spareBed = some 15 ∧ s.actState = 1 ∧ s.rts.spare = none ∧ s.qdrUp = true) ∧
    (let s := (onTrial Rts.init [(bedA 0 0x104, 2)]).setBed 15 { Bed.init with move := some ⟨0, 1, 1, 9, true⟩ }
     s.movingBed = some 15 ∧ (s.bed 15).move = some ⟨0, 1, 1, 9, true⟩ ∧ s.role 0 = 2 ∧ s.freezeDue ⟨0, 1, 1, 9, true⟩ = true) ∧
    (let s := ((onTrial Rts.init [(bedA 13 0x104, 2)]).setBed 15 { Bed.init with move := some ⟨13, 1, 1, 0, false⟩ }).setNow 1000000
     s.movingBed = some 15 ∧ s.role 13 = 2 ∧ s.freezeDue ⟨13, 1, 1, 0, false⟩ = true) ∧
    (let s := (onTrial Rts.init []).setBed 15 { Bed.init with move := some ⟨0, 2, 1, 9, true⟩ }
     s.movingBed = some 15 ∧ (s.bed 15).move = some ⟨0, 2, 1, 9, true⟩ ∧ s.activeKeys 0 = [] ∧ s.qdrUp = true) ∧
    (let s := (onTrial Rts.init [(rtsA 0x100, 0x400)]).setNow 60000000000
     s.actState = 4 ∧ s.spareBed = none ∧ s.movingBed = none ∧ s.rts.fallbackAt + 60000000000 ≤ s.now) := by
  unfold reaches hostAt
  and_intros <;> decide

/-! ### Boot, the twin link, the whole machine -/

/-- At stage `n` of the boot, with `regs`. -/
def booting (n : Nat) (regs : List (Nat × Word)) : State :=
  (put State.reset regs).setTop { Top.init with boot := n, resetLow := false }

theorem wit_ResetAndBoot :
    State.reset.top.resetLow = true ∧ up.top.resetLow = false ∧ (booting 4 []).top.boot = 4 ∧
    (let s := booting 5 []
     s.top.boot = 5 ∧ s.ringHeaderOk = false) ∧
    (let s := booting 6 [(qdmA 0x104, 0x10000)]
     s.top.boot = 6 ∧ s.fld (qdmA 0x104) 23 16 ≠ 0) ∧
    (let s := (booting 7 []).setQdr [(imageArea 0 + 0x21, 0x80)]
     s.top.boot = 7 ∧ (s.qdrWord (imageArea 0 + 0x20)).testBit 15 = true ∧
       (s.qdrWord (imageArea 0 + 0x20)).testBit 14 = false) := by decide

/-- The twin link of side A in state `st`, all lanes locked and aligned, mirror and image frames on. -/
def twinned (st : Word) (x : Twn) : State :=
  (put host [(twnA 0x104, 0x1F0 ||| st), (twnA 0x100, 0x3301), (topA 0x320, 1)]).setTwn x

def hdr (q : Half) : TwinHdr := ⟨1, true, q, 0⟩

theorem wit_TwinLink :
    (twinned 0 Twn.init).twnRuns = true ∧ (twinned 0 Twn.init).lanesGood = true ∧ (twinned 0 Twn.init).linkState = 0 ∧
    (let lanes : List (Byte × Nat) := [(3, 0), (2, 32), (1, 0), (0, 32)]
     (∀ k : Fin 4, ∃ e ∈ lanes, e.1.toNat = k.val) ∧ ∀ e ∈ lanes, ∀ g ∈ lanes, e.2 ≤ g.2 + 32) ∧
    (let lanes : List (Byte × Nat) := [(3, 0), (2, 33), (1, 0), (0, 0)]
     ¬ ∀ e ∈ lanes, ∀ g ∈ lanes, e.2 ≤ g.2 + 32) ∧
    frameBroken ⟨6, true, 0, 0⟩ 0 [] 0 = true ∧ frameBroken (hdr 0) 1028 [] 0 = true ∧
    (let s := twinned 2 { Twn.init with hbAt := none, dialSentAt := none }
     s.everyMs s.twn.hbAt = true ∧ s.everyMs s.twn.dialSentAt = true ∧ s.linkState = 2) ∧
    (let s := (twinned 1 Twn.init).setNow 3000000
     s.twnRuns = true ∧ s.linkState ≠ 0 ∧ s.twn.lastHb + max 1 (s.fld (twnA 0x100) 15 12) * 1000000 ≤ s.now) ∧
    (let s := twinned 1 { Twn.init with unrelRx := none }
     s.linkState = 1 ∧ (1 : BitVec 2).toNat = s.boardRole ∧ (2 : BitVec 2).toNat ≠ s.boardRole ∧
       s.bit (twnA 0x104) 8 = true) ∧
    (let s := (twinned 2 { Twn.init with kept := [(5, 3, 1000, [1]), (6, 3, 1000, [2])], keptAt := 900 }).setNow 2000000
     s.linkState = 2 ∧ (s.twnArrive (hdr 3) [7]).twn.kept.findIdx? (fun e => e.1 == (7 : Half).toNat) = none ∧
       s.bit (twnA 0x100) 8 = true ∧ max 1000 s.twn.keptAt + 1000000 ≤ s.now) ∧
    (let s := twinned 2 { Twn.init with kept := [(0, 3, 1000, [1]), (1, 3, 1000, [2])] }
     (s.twnArrive (hdr 3) [1]).twn.kept.findIdx? (fun e => e.1 == (1 : Half).toNat) = some 1) ∧
    (let s := twinned 2 { Twn.init with expected := 65535 }
     s.linkState = 2 ∧ (hdr 65535).seq.toNat = s.twn.expected ∧ s.bit (twnA 0x100) 9 = true ∧
       rtsLengths .mate (cmdOp [0x11040007, 0, 4, 5, 6]) = some (4, 255) ∧ s.rts.mateMemory = [] ∧ s.rts.queue = [] ∧
       s.rts.committing ≠ some (.mate, 7) ∧
       ((hdr 32766).seq.toNat + 65536 - s.twn.expected) % 65536 = 32767 ∧
       ((hdr 32767).seq.toNat + 65536 - s.twn.expected) % 65536 = 32768) := by decide

theorem wit_TwinLink_count :
    FreshCount (twinned 1 { Twn.init with unrelRx := none }) (hdr 0) ∧
    FreshCount (twinned 2 { Twn.init with unrelRx := some 65535 }) (hdr 32766) := by
  unfold FreshCount
  refine ⟨fun last h => (by cases h), fun last h => by cases h; decide⟩

theorem wit_StepRunsTheQueue :
    (up.setPending [.confirm 9, .powerOn]).pending = [.confirm 9, .powerOn] ∧ up.pending = [] := by decide

theorem wit_SprigRoundTrip :
    encodeSprig (.spLdb c0 12 13 3 0x041) = some (0xF2CD, some 0x3041) ∧ sprigAligned (.spLdb c0 12 13 3 0x041) = true ∧
    decodeSprig c0 0x0525 0 = some (.spCmp c0 5 2) := by decide

theorem wit_StepKeepsInvariant :
    StateOk State.reset ∧ ∃ t, step State.reset = .next t :=
  ⟨⟨by decide, by decide, by unfold ContextsOk; exact fun k => ⟨fun _ h => (by cases h), fun _ _ _ h => by cases h⟩⟩, _, rfl⟩

theorem wit_StepKeepsInvariant_command : ∃ t, step (up.setPending [.gpioLevelChange 0 true]) = .next t := ⟨_, rfl⟩

/-! ### Commands that nothing outside can send -/

def au1 (p : PtrIn) (line omfi : Nat) : FrameIn := { frame1 true [] with au := [(0, p)], lineNo := line, omfi := some omfi }

/-- An aligned register address, a host access of 1 to 8 bytes, a codeword's bytes once each, a frame type and
reliability that fit the command (R265, R358). -/
theorem test_ill_formed :
    [Instr.registerWrite .host 0x10002 0 none, .registerWrite .host 0x10004 0 (some 0), .registerWrite (.program 2) 0x10008 0 (some 0), .key 0x10001 0, .complementPairWrite 0x10003 0, .sequenceClear .host 0x10001 0,
      .writeOnce 0x10001 0, .pairedCounterRead 0x10000 9, .accessTimeout .host false 0x10001, .bar2Read 0 9, .bar4Read 0 0,
      .bar4Write 0 [], .scrubRead [3, 3], .nak (hdr 0) 0, .heartbeat ⟨1, true, 0, 0⟩ 1 0 0 false false,
      .dial (hdr 0) 0 [], .mirror (hdr 0) [] false, .imageCmd (hdr 0) [], .imageRsp (hdr 0) [], .alignmentBlock [], .otlReassembly 0 [],
      .deliveredFrame 0 (au1 (.normal 1024) 0 0), .deliveredFrame 0 (au1 (.newData 1024) 0 0),
      .deliveredFrame 0 (au1 .allOnes 4096 0), .deliveredFrame 0 (au1 .allOnes 0 80)].any WellFormed = false := by decide

theorem test_well_formed :
    [Instr.registerWrite .host 0x10004 0 none, .registerWrite .host 0x10008 0 (some 0), .pairedCounterRead 0x10004 8, .bar2Read 0 8, .bar4Write 0 [1], .scrubRead [3, 4], .nak ⟨0, false, 0, 0⟩ 0,
      .imageRsp ⟨5, true, 0, 0⟩ [], .deliveredFrame 0 (au1 (.normal 1023) 4095 79)].all WellFormed = true := by decide

/-! ### Words of the encoding tables (chapter 10, the worked example and the LDF example) -/

theorem test_words :
    [(0x2D00, Instr.spMovi c0 13 0), (0xA400, .spQhead c0 4 0), (0x0525, .spCmp c0 5 2), (0x8664, .spExt c0 6 4),
      (0x842A, .spBtst c0 4 10), (0x17FF, .spAddi c0 7 0xFF), (0x7AB0, .spLdc c0 10 11 0), (0xD300, .spYield c0),
      (0xD200, .spFence c0), (0xA004, .spQrel c0 0), (0xD000, .spEnd c0), (0xB2FD, .spBnz c0 0xFD)].all (fun e =>
        decide (decodeSprig c0 (BitVec.ofNat 16 e.1) 0 = some e.2) && decide (sprigLen (BitVec.ofNat 16 e.1) = 1)) = true := by
  decide

theorem test_long_words :
    [(0xF0E1, 0x0200, Instr.spAddl c0 14 0x0200), (0xF2CD, 0x3041, .spLdb c0 12 13 3 0x041),
      (0xF3DD, 0x411D, .spStb c0 13 13 4 0x11D), (0xF464, 0xFFF0, .spLdf c0 6 4 0xFFF0)].all (fun e =>
        decide (decodeSprig c0 (BitVec.ofNat 16 e.1) (BitVec.ofNat 16 e.2.1) = some e.2.2) &&
          decide (sprigLen (BitVec.ofNat 16 e.1) = 2)) = true := by decide

/-! ### Values of the manual's examples -/

def digits : List Byte := [0x31, 0x32, 0x33, 0x34, 0x35, 0x36, 0x37, 0x38, 0x39]

/-- R305 gives the four results over "123456789". -/
theorem test_checks : (List.range 4).map (fun p => checkFinal p (checkBytes p (checkInit p) digits)) =
    [0x29B1, 0xCBF43926, 0xE3069283, 0x6C40DF5F0B497347] := by decide +kernel

/-- The example under R307. -/
theorem test_fold : crc32cFold 0x31323334 [0x35, 0x36, 0x37, 0x38, 0x39] = 0xE3069283 := by decide +kernel

/-- Steps 4 and 5 of the example under R270. -/
theorem test_sequence_clear :
    (let s := put host [(0x21120C, 0x06000004)]
     Sys2Proof.Cert.completes (.sequenceClear .host 0x21120C 0x05000000) s (fun t => t.rd 0x21120C = 0x06000004) ∧
     Sys2Proof.Cert.completes (.sequenceClear .host 0x21120C 0x06000000) s (fun t => t.rd 0x21120C = 0x06000000)) := by
  unfold completes; exact ⟨⟨_, rfl, by decide⟩, ⟨_, rfl, by decide⟩⟩

/-- The addresses of the examples under R383 and R420. -/
theorem test_addresses : 2 * 0x2A5006B / 64 = 0x152803 ∧ 0x152803 % 8 = 3 ∧ rxA 17 0 = 0x211000 ∧
    imageArea 0 < 2 ^ 27 ∧ State.reset.nat (rxA 17 0) = 0x00200011 := by decide

/-- ADD wraps and sets C and Z (R226). -/
theorem test_add_wraps :
    (let s := at0 (running up { ctx0 with w := [(1, 0xFFFF), (2, 1)] }) (.spAdd c0 1 2)
     completes (.spAdd c0 1 2) s (fun t => (t.ctx k0).reg 1 = 0 ∧ (t.ctx k0).c = true ∧ (t.ctx k0).z = true ∧
       (t.ctx k0).v = false)) := by
  unfold completes; exact ⟨_, rfl, by decide⟩

/-! ### The signature of an image (R334): the standard's own example of SHA-384, and the base point -/

theorem test_sha384_abc : sha384 [0x61, 0x62, 0x63] =
    0xCB00753F45A35E8BB5A03D699AC65007272C32AB0EDED1631A8B605A43FF5BED8086072BA1E7CC2358BAECA134C825A7 := by
  decide +kernel

theorem test_p384_base_point :
    onP384 p384G = true ∧ addPoint (some p384G) (some (p384G.1, p384 - p384G.2)) = none := by decide +kernel
end

section
/-! SUPPORT. Register areas: what a command that writes only within an area of the register map leaves alone, once for
each elementary update. -/

namespace Sys2Proof.Machine

open Sys2Proof.Cert

/-! ### The blocks of the register map (R417) -/

/-- An address and the SUMMARY of its block lie in one region. -/
theorem regionIn_same {a n base : Nat} {k : Blk} {l : List (Blk × Nat × Nat × Nat)} (hl : ∀ e ∈ l, 8 < e.2.2.2)
    (h : regionIn a l = some (k, n, base)) :
    ∃ e ∈ l, (e.2.1 ≤ a ∧ a < e.2.1 + e.2.2.1 * e.2.2.2) ∧ e.2.1 ≤ base ∧ base + 8 < e.2.1 + e.2.2.1 * e.2.2.2 := by
  induction l with
  | nil => cases h
  | cons e rest ih =>
    obtain ⟨b, lo, m, stride⟩ := e
    have hs : 8 < stride := hl _ List.mem_cons_self
    unfold regionIn at h
    split at h
    · next hin =>
      cases h
      refine ⟨_, List.mem_cons_self, hin, Nat.le_add_right _ _, ?_⟩
      have hq : (a - lo) / stride + 1 ≤ m := Nat.div_lt_of_lt_mul (by rw [mul_comm]; omega)
      have := Nat.mul_le_mul_right stride hq
      rw [add_mul, one_mul] at this
      dsimp only
      omega
    · obtain ⟨e, he, r⟩ := ih (fun e he => hl e (List.mem_cons_of_mem _ he)) h
      exact ⟨e, List.mem_cons_of_mem _ he, r⟩

theorem blockOf_same {a n base : Nat} {k : Blk} (h : blockOf a = some (k, n, base)) :
    ∃ e ∈ regions, (e.2.1 ≤ a ∧ a < e.2.1 + e.2.2.1 * e.2.2.2) ∧ e.2.1 ≤ base ∧ base + 8 < e.2.1 + e.2.2.1 * e.2.2.2 :=
  regionIn_same (by decide) h

/-! ### Areas -/

/-- A set of registers that holds those of Curator and Inventory, where reports and counts go, and with a register the
SUMMARY of its block, where events go. -/
structure Area where
  has : Nat → Prop
  low : ∀ a, 0x20000 ≤ a → a < 0x40000 → has a
  summary : ∀ {a n base : Nat} {k : Blk}, has a → blockOf a = some (k, n, base) → has (base + 8)

/-- Everything above TOP. -/
def aboveTop : Area where
  has a := 0x10000 ≤ a
  low a h _ := by omega
  summary {a n base k} h hb := by
    obtain ⟨e, he, ⟨h1, h2⟩, h3, h4⟩ := blockOf_same hb
    fin_cases he <;> dsimp only at * <;> omega

/-- Everything but Trellis. -/
def offTrellis : Area where
  has a := a < 0x700000 ∨ 0x800000 ≤ a
  low a _ h := by omega
  summary {a n base k} h hb := by
    obtain ⟨e, he, ⟨h1, h2⟩, h3, h4⟩ := blockOf_same hb
    fin_cases he <;> dsimp only at * <;> omega

/-- Curator, Inventory and the Cellar. -/
def cellarSide : Area where
  has a := 0x20000 ≤ a ∧ a < 0x40000 ∨ 0x800000 ≤ a ∧ a < 0x900000
  low a h k := .inl ⟨h, k⟩
  summary {a n base k} h hb := by
    obtain ⟨e, he, ⟨h1, h2⟩, h3, h4⟩ := blockOf_same hb
    fin_cases he <;> dsimp only at * <;> omega

theorem Area.report (A : Area) {src a : Nat} (hs : src < 1024) (h : reportReg src a) : A.has a := by
  apply A.low <;> rcases h with h | h | h | h | h <;> subst h <;> simp only [srcA, curA] <;> omega

theorem Area.count (A : Area) {a : Nat} (h : countReg a) : A.has a := by
  rcases h with ⟨h1, h2⟩ | h | h | h
  · exact A.low a (by omega) (by omega)
  · exact A.low a (by simp only [h, invA]; omega) (by simp only [h, invA]; omega)
  · exact A.low a (by simp only [h, invA]; omega) (by simp only [h, invA]; omega)
  · exact A.report (by omega) h

/-- No register outside the area reads otherwise, and no clock has failed or returned. -/
structure State.Within (A : Area) (s t : State) : Prop where
  regs : regsBut A.has s t
  failed : t.top.failed = s.top.failed

namespace State.Within

variable {A : Area} {s t u : State} {a : Nat}

theorem refl (A : Area) (s : State) : s.Within A s := ⟨fun _ _ => rfl, rfl⟩

theorem trans (h : s.Within A t) (k : t.Within A u) : s.Within A u :=
  ⟨fun a ha => (k.regs a ha).trans (h.regs a ha), k.failed.trans h.failed⟩

/-- What is neither a register nor the list of failed clocks may change. -/
theorem same (h : s.Within A t) (hr : u.regs = t.regs) (hf : u.top.failed = t.top.failed) : s.Within A u :=
  h.trans ⟨fun a _ => State.rd_congr hr a, hf⟩

theorem quiet (h : s.Within A t) (hq : t.Quiet u) (hr : regsBut A.has t u) : s.Within A u :=
  h.trans ⟨hr, by rw [hq.top]⟩

theorem wr (h : s.Within A t) (ha : A.has a) (v : Word) : s.Within A (t.wr a v) :=
  h.quiet (t.wr_quiet a v) fun _ hb => t.rd_wr_ne v (fun e => hb (e ▸ ha))

theorem wrN (h : s.Within A t) (ha : A.has a) (n : Nat) : s.Within A (t.wrN a n) := h.wr ha _
theorem wrI (h : s.Within A t) (ha : A.has a) (i : Int) : s.Within A (t.wrI a i) := h.wrN ha _
theorem setFld (h : s.Within A t) (ha : A.has a) (hi lo v : Nat) : s.Within A (t.setFld a hi lo v) := h.wrN ha _
theorem setBit (h : s.Within A t) (ha : A.has a) (n : Nat) (b : Bool) : s.Within A (t.setBit a n b) := h.setFld ha _ _ _
theorem addTo (h : s.Within A t) (ha : A.has a) (n : Nat) : s.Within A (t.addTo a n) := h.wrN ha _
theorem inc (h : s.Within A t) (ha : A.has a) : s.Within A (t.inc a) := h.addTo ha 1

theorem putTs (h : s.Within A t) (ha : A.has a) (h4 : A.has (a + 4)) (h8 : A.has (a + 8)) (sub : Nat) :
    s.Within A (t.putTs a sub) := ((h.wrN ha _).wrN h4 _).wrN h8 _

theorem event (h : s.Within A t) (ha : A.has a) (b : Nat) : s.Within A (t.event a b) :=
  h.quiet (t.event_quiet a b) fun _ hc =>
    t.rd_event_ne b (fun e => hc (e ▸ ha)) fun _ _ _ hb e => hc (e ▸ A.summary ha hb)

theorem raise {src : Nat} (h : s.Within A t) (hs : ∀ a, reportReg src a → A.has a) (kind : Nat) (clear : Bool) (detail : Nat) :
    s.Within A (t.raise src kind clear detail) :=
  h.quiet (t.raiseAs_quiet _ _ _ _ _) fun b hb => t.rd_raiseAs_ne _ _ _ _ (fun e => hb (hs b e))

theorem raiseLim {src : Nat} (h : s.Within A t) (hs : src < 1024) (n sub kind : Nat) (clear : Bool) (detail : Nat) :
    s.Within A (t.raiseLim n sub src kind clear detail) :=
  h.quiet (t.raiseLim_quiet _ _ _ _ _ _) fun _ hb => t.rd_raiseLim_ne _ _ _ _ _ (fun e => hb (A.report hs e))

theorem tally (h : s.Within A t) {base k : Nat} (hb : base + k ≤ 344) (ev n : Nat) (sel : Option (Nat × Nat)) :
    s.Within A (t.tally base k ev n sel) :=
  h.quiet (t.tally_quiet _ _ _ _ _) fun _ ha => t.rd_tally_ne ev n sel hb (fun e => ha (A.count e))

theorem foldl {β : Type} {f : State → β → State} {l : List β} (h : s.Within A t)
    (hf : ∀ u : State, ∀ b ∈ l, u.Within A (f u b)) : s.Within A (l.foldl f t) :=
  foldl_keeps (fun u => s.Within A u) f l (fun u b hb hu => hu.trans (hf u b hb)) t h

/-- An update that is made, or not. -/
theorem iteThen {c : Prop} [Decidable c] (h : s.Within A t) (hu : t.Within A u) : s.Within A (if c then u else t) := by
  split
  · exact h.trans hu
  · exact h

theorem iteElse {c : Prop} [Decidable c] (h : s.Within A t) (hu : t.Within A u) : s.Within A (if c then t else u) := by
  split
  · exact h
  · exact h.trans hu

/-! Updates of what is no register. -/

theorem setCur (h : s.Within A t) (x : Cur) : s.Within A (t.setCur x) := h.same rfl rfl
theorem setTop (h : s.Within A t) {x : Top} (hx : x.failed = t.top.failed) : s.Within A (t.setTop x) := h.same rfl hx
theorem setRef (h : s.Within A t) (r : Nat) (x : Ref) : s.Within A (t.setRef r x) := h.same rfl rfl
theorem setDial (h : s.Within A t) (n : Nat) (x : Dial) : s.Within A (t.setDial n x) := h.same rfl rfl
theorem setGen (h : s.Within A t) (g : Nat) (x : Gen) : s.Within A (t.setGen g x) := h.same rfl rfl
theorem setSve (h : s.Within A t) (i : Nat) (x : Sve) : s.Within A (t.setSve i x) := h.same rfl rfl
theorem setMbox (h : s.Within A t) (k : Nat) (x : Mbox) : s.Within A (t.setMbox k x) := h.same rfl rfl
theorem setTrib (h : s.Within A t) (r n : Nat) (x : Trib) : s.Within A (t.setTrib r n x) := h.same rfl rfl
theorem setHold (h : s.Within A t) (r sink n : Nat) : s.Within A (t.setHold r sink n) := h.same rfl rfl
theorem setSinkHold (h : s.Within A t) (x : Tab Nat) : s.Within A (t.setSinkHold x) := h.same rfl rfl
theorem setGrants (h : s.Within A t) (x : Tab (Nat × Nat)) : s.Within A (t.setGrants x) := h.same rfl rfl
theorem setPair (h : s.Within A t) (i : Nat) (x : Pair) : s.Within A (t.setPair i x) := h.same rfl rfl
theorem setMapOh (h : s.Within A t) (r : Nat) (x : OhX) : s.Within A (t.setMapOh r x) := h.same rfl rfl
theorem setFur (h : s.Within A t) (F : Nat) (x : Furrow) : s.Within A (t.setFur F x) := h.same rfl rfl

end State.Within

end Sys2Proof.Machine
end

section
/-! SUPPORT. What the clocks that stop move in Sundial, Sieve, the mailboxes and ALIVE writes no register of TOP and
changes no clock (R27, R138 to R147, R182). -/

namespace Sys2Proof.Machine

open State (Within)

theorem reportReg_above {src a : Nat} (h : reportReg src a) : aboveTop.has a := by
  show 0x10000 ≤ a
  rcases h with h | h | h | h | h <;> subst h <;> simp only [srcA, curA] <;> omega

theorem curA_above (o : Nat) : aboveTop.has (curA o) := by show _ ≤ curA o; unfold curA; omega
theorem sdlA_above (o : Nat) : aboveTop.has (sdlA o) := by show _ ≤ sdlA o; unfold sdlA; omega
theorem refA_above (r o : Nat) : aboveTop.has (refA r o) := by show _ ≤ refA r o; unfold refA; omega
theorem dialA_above (n o : Nat) : aboveTop.has (dialA n o) := by show _ ≤ dialA n o; unfold dialA; omega
theorem genA_above (g o : Nat) : aboveTop.has (genA g o) := by show _ ≤ genA g o; unfold genA; omega
theorem entryA_above (n e : Nat) : aboveTop.has (entryA n e) := dialA_above n _
theorem above_add {a : Nat} (h : aboveTop.has a) (n : Nat) : aboveTop.has (a + n) := Nat.le_add_right_of_le h

/-- No register of TOP reads otherwise, and no clock has failed or returned. -/
abbrev State.KeepsTop (s t : State) : Prop := s.Within aboveTop t

theorem State.KeepsTop.refl (s : State) : s.KeepsTop s := Within.refl _ s

/-- A report goes to Curator's registers, whatever its source. -/
theorem State.Within.report {s t : State} (h : s.Within aboveTop t) (src kind : Nat) (clear : Bool) (detail : Nat) :
    s.Within aboveTop (t.raise src kind clear detail) := h.raise (fun _ => reportReg_above) _ _ _

/-! ### References (R138, R143) -/

theorem State.entriesFollow_keepsTop (s : State) (r old q : Nat) : s.KeepsTop (s.entriesFollow r old q) :=
  (KeepsTop.refl s).foldl fun u n _ => (KeepsTop.refl u).iteElse ((KeepsTop.refl u).setDial n _)

theorem State.setWarning_keepsTop (s : State) (r : Nat) (on : Bool) : s.KeepsTop (s.setWarning r on) :=
  (KeepsTop.refl s).iteElse
    ((((KeepsTop.refl s).setBit (refA_above r _) _ _).event (refA_above r _) _).report _ _ _ _)

theorem State.restartMeas_keepsTop (s : State) (r : Nat) : s.KeepsTop (s.restartMeas r) :=
  ((KeepsTop.refl s).setFld (refA_above r _) _ _ _).setRef r _

theorem State.setQ_keepsTop (s : State) (r q : Nat) : s.KeepsTop (s.setQ r q) := by
  have hr := fun o => refA_above r o
  unfold State.setQ
  extract_lets old ppb s1 s2 s3 m x m1 s4 s5
  refine (KeepsTop.refl s).iteElse ?_
  have h1 : s.KeepsTop s1 := (KeepsTop.refl s).setFld (hr _) _ _ _
  have h2 : s.KeepsTop s2 := h1.iteThen (((KeepsTop.refl _).event (hr _) _).report _ _ _ _)
  have h3 : s.KeepsTop s3 :=
    h2.iteThen ((((KeepsTop.refl _).event (hr _) _).report _ _ _ _).trans (State.setWarning_keepsTop _ _ _))
  have hm : s.KeepsTop m1 := (h3.trans (s3.restartMeas_keepsTop r)).setRef r _
  have h4 : s.KeepsTop s4 := by
    unfold s4
    split
    · exact (hm.event (hr _) _).report _ _ _ _
    · exact h3.setFld (hr _) _ _ _
    · exact ((h3.setFld (hr _) _ _ _).event (hr _) _).report _ _ _ _
    · exact ((h3.inc (hr _)).event (hr _) _).report _ _ _ _
    · exact ((h3.inc (hr _)).event (hr _) _).report _ _ _ _
    · exact h3
  exact (h4.trans (s4.entriesFollow_keepsTop r old q)).setBit (hr _) _ _

/-! ### Dials and generators (R143 to R147, R169, R182) -/

theorem State.rebase_keepsTop (s : State) (n : Nat) : s.KeepsTop (s.rebase n) := (KeepsTop.refl s).setDial n _

theorem State.setY_keepsTop (s : State) (n : Nat) (y : Int) : s.KeepsTop (s.setY n y) := (s.rebase_keepsTop n).setDial n _

theorem State.showDial_keepsTop (s : State) (n : Nat) : s.KeepsTop (s.showDial n) := by
  have hd := fun o => dialA_above n o
  exact ((((((KeepsTop.refl s).wrI (hd _) _).wrI (hd _) _).setFld (hd _) _ _ _).setFld (hd _) _ _ _).wrN (hd _) _).wrN (hd _) _

theorem State.setLimited_keepsTop (s : State) (n : Nat) (on : Bool) : s.KeepsTop (s.setLimited n on) :=
  (KeepsTop.refl s).iteElse
    ((((KeepsTop.refl s).setBit (dialA_above n _) _ _).event (dialA_above n _) _).report _ _ _ _)

theorem State.steerY_keepsTop (s : State) (n : Nat) (y : Int) : s.KeepsTop (s.steerY n y) :=
  ((s.setY_keepsTop n _).trans (State.setLimited_keepsTop _ n _)).trans (State.showDial_keepsTop _ n)

theorem State.acquire_keepsTop (s : State) (n : Nat) (fresh : Bool) : s.KeepsTop (s.acquire n fresh) :=
  ((KeepsTop.refl s).iteElse (s.steerY_keepsTop n _)).setDial n _

theorem State.drive_keepsTop (s : State) (g : Nat) : s.KeepsTop (s.drive g) :=
  (KeepsTop.refl s).iteElse ((KeepsTop.refl s).setTop rfl)

theorem State.showNext_keepsTop (s : State) (g : Nat) : s.KeepsTop (s.showNext g) :=
  (KeepsTop.refl s).putTs (genA_above g _) (above_add (genA_above g _) 4) (above_add (genA_above g _) 8) _

theorem State.genFollow_keepsTop (s : State) (g : Nat) (fresh : Bool) (delay : Nat) : s.KeepsTop (s.genFollow g fresh delay) := by
  have hg := fun o => genA_above g o
  unfold State.genFollow
  extract_lets was runs short s1 s2 x s3
  have h1 : s.KeepsTop s1 := (KeepsTop.refl s).iteThen ((KeepsTop.refl s).report _ _ _ _)
  have h2 : s.KeepsTop s2 := (h1.setBit (hg _) _ _).setBit (hg _) _ _
  have h3 : s.KeepsTop s3 := by
    unfold s3
    split
    · exact (h2.setGen g _).trans (State.showNext_keepsTop _ g)
    · exact h2.iteThen ((KeepsTop.refl s2).setGen g _)
  exact h3.trans (s3.drive_keepsTop g)

theorem State.setState_keepsTop (s : State) (n q : Nat) : s.KeepsTop (s.setState n q) := by
  have hd := fun o => dialA_above n o
  unfold State.setState
  extract_lets old s1 d locked d2 s2 s3 s4 s5 s6 s7
  refine (KeepsTop.refl s).iteElse ?_
  have h3 : s.KeepsTop s3 := ((s.rebase_keepsTop n).setDial n _).setFld (hd _) _ _ _
  have h4 : s.KeepsTop s4 := by
    unfold s4
    split
    · exact h3.setBit (hd _) _ _
    · exact h3.iteThen ((KeepsTop.refl s3).setBit (hd _) _ _)
  have h6 : s.KeepsTop s6 := ((h4.wrN (hd _) _).event (hd _) _).report _ _ _ _
  have h7 : s.KeepsTop s7 := by
    unfold s7
    split
    · exact h6.trans (s6.steerY_keepsTop n _)
    · split
      · exact h6.trans (s6.steerY_keepsTop n _)
      · exact h6.trans (s6.showDial_keepsTop n)
  exact h7.foldl fun u g _ => u.genFollow_keepsTop g _ _

theorem State.endHoldoff_keepsTop (s : State) (n : Nat) : s.KeepsTop (s.endHoldoff n) :=
  (KeepsTop.refl s).iteThen ((((s.rebase_keepsTop n).setDial n _).setBit (dialA_above n _) _ _).report _ _ _ _)

theorem State.announce_keepsTop (s : State) (n e r cause : Nat) : s.KeepsTop (s.announce n e r cause) := by
  have hd := fun o => dialA_above n o
  have h : s.KeepsTop _ := ((KeepsTop.refl s).setFld (hd 0x10) 12 8 e).setFld (hd 0x10) 22 16 r
  exact (((h.inc (hd _)).tally (by omega) _ _ _).event (hd _) _).report _ _ _ _

theorem State.setDispute_keepsTop (s : State) (n : Nat) (pair : Option (Nat × Nat)) (chosen : Nat) :
    s.KeepsTop (s.setDispute n pair chosen) := by
  have hd := fun o => dialA_above n o
  unfold State.setDispute
  extract_lets on d s1 s2
  have h1 : s.KeepsTop s1 := by
    unfold s1
    split
    · exact (KeepsTop.refl s).setDial n _
    · exact KeepsTop.refl s
  have h2 : s1.KeepsTop s2 := (KeepsTop.refl s1).iteThen ((KeepsTop.refl s1).inc (hd _))
  refine h1.iteElse ?_
  split
  exact ((h2.setBit (hd _) _ _).event (hd _) _).report _ _ _ _

theorem State.startHoldoff_keepsTop (s : State) (n : Nat) : s.KeepsTop (s.startHoldoff n) :=
  (((s.steerY_keepsTop n _).setDial n _).setBit (dialA_above n _) _ _).report _ _ _ _

theorem State.selected_keepsTop (s : State) (n e r cause : Nat) : s.KeepsTop (s.selected n e r cause) := by
  unfold State.selected
  extract_lets s1 d s2 again s3
  have h2 : s.KeepsTop s2 := (s.announce_keepsTop n e r cause).setDial n _
  have h3 : s.KeepsTop s3 := (h2.trans (s2.acquire_keepsTop n true)).trans (State.setState_keepsTop _ n 1)
  split
  · refine h2.iteThen ?_
    split
    · exact s2.setState_keepsTop n _
    · exact s2.setState_keepsTop n _
  · exact h3.iteThen (s3.showDial_keepsTop n)

theorem State.showEntries_keepsTop (s : State) (n : Nat) : s.KeepsTop (s.showEntries n) :=
  (KeepsTop.refl s).foldl fun u x _ =>
    have he := entryA_above n x.1
    (((KeepsTop.refl u).setBit he _ _).setBit he _ _).setFld he _ _ _

/-! ### Selection (R142 to R146) -/

theorem State.pickNow_keepsTop (s : State) (n : Nat) (av : List (Nat × Nat × Nat × Bool)) : s.KeepsTop (s.pickNow n av).2 := by
  unfold State.pickNow
  split
  · exact s.setDispute_keepsTop n none 127
  · exact s.setDispute_keepsTop n _ _

theorem State.forgetPick_keepsTop (s : State) (n : Nat) : s.KeepsTop (s.forgetPick n) := (KeepsTop.refl s).setDial n _

theorem State.selectFree_keepsTop (s : State) (n : Nat) (c : SelectCause) : s.KeepsTop (s.selectFree n c) := by
  have hd := fun o => dialA_above n o
  have hshow : ∀ {u : State}, s.KeepsTop u → s.KeepsTop (u.showEntries n) := fun h => h.trans (State.showEntries_keepsTop _ n)
  unfold State.selectFree
  extract_lets es fe fh cur s1 s2 lost s3 av inG curAv
  split
  · have h1 : s.KeepsTop s1 := (s.setDispute_keepsTop n none 127).setBit (hd _) _ _
    have h2 : s.KeepsTop s2 := h1.iteElse (s1.announce_keepsTop n 31 127 4)
    exact hshow (h2.trans (s2.setState_keepsTop n 0))
  · have h3 : s.KeepsTop s3 := (KeepsTop.refl s).setBit (hd _) _ _
    have h4 : s.KeepsTop (s3.pickNow n av).2 := h3.trans (s3.pickNow_keepsTop n av)
    split
    next cand u hp =>
    rw [hp] at h4
    extract_lets sel d run u1 cause
    have hsel : ∀ v : State, ∀ r k, s.KeepsTop v → s.KeepsTop (v.selected n sel r k) := fun v r k h =>
      h.trans (v.selected_keepsTop n sel r k)
    split
    · exact hshow (h4.iteThen (u.forgetPick_keepsTop n))
    · split
      · exact hshow ((h4.trans (u.forgetPick_keepsTop n)).trans (State.startHoldoff_keepsTop _ n))
      · split
        · split
          · exact hshow h4
          · have h5 : s.KeepsTop u1 := h4.setDial n _
            exact hshow (h5.iteElse (u1.selected_keepsTop n _ _ _))
        · exact hshow (hsel u _ _ h4)

theorem State.restoreLeft_keepsTop (s : State) (n : Nat) : s.KeepsTop (s.restoreLeft n) := (KeepsTop.refl s).setDial n _

theorem State.holdoffOver_keepsTop (s : State) (n : Nat) (c : SelectCause) : s.KeepsTop (s.holdoffOver n c) := by
  unfold State.holdoffOver
  extract_lets cur s1 fe held usable
  have h1 : s.KeepsTop s1 := (s.endHoldoff_keepsTop n).trans (State.restoreLeft_keepsTop _ n)
  split
  · exact ((h1.trans (s1.acquire_keepsTop n false)).trans (State.showDial_keepsTop _ n)).trans (State.showEntries_keepsTop _ n)
  · exact h1.trans (s1.selectFree_keepsTop n _)

theorem State.selectDial_keepsTop (s : State) (n : Nat) (c : SelectCause) : s.KeepsTop (s.selectDial n c) := by
  unfold State.selectDial
  extract_lets s1
  split
  · exact s.selectFree_keepsTop n c
  · split
    · exact (s.endHoldoff_keepsTop n).trans (State.selectFree_keepsTop _ n _)
    · split
      · exact s.holdoffOver_keepsTop n c
      · have h : s.KeepsTop s1 := (KeepsTop.refl s).setBit (dialA_above n _) _ _
        exact ((h.trans (s1.pickNow_keepsTop n _)).trans (State.forgetPick_keepsTop _ n)).trans (State.showEntries_keepsTop _ n)

theorem State.setQNow_keepsTop (s : State) (r q : Nat) : s.KeepsTop (s.setQNow r q) :=
  (KeepsTop.refl s).iteElse ((s.setQ_keepsTop r q).foldl fun u n _ =>
    (KeepsTop.refl u).iteThen (u.selectDial_keepsTop n _))

/-! ### What a stopped clock brings (R27, R276, R300) -/

theorem State.samplesStop_keepsTop (s : State) : s.KeepsTop s.samplesStop :=
  (KeepsTop.refl s).foldl fun u i _ => (KeepsTop.refl u).setSve i _

theorem State.mbTimer_keepsTop (s : State) (k : Nat) : s.KeepsTop (s.mbTimer k) := by
  unfold State.mbTimer
  extract_lets m runs
  split
  · exact (KeepsTop.refl s).iteElse ((KeepsTop.refl s).setMbox k _)
  · exact (KeepsTop.refl s).iteThen ((KeepsTop.refl s).setMbox k _)

theorem State.hostTimers_keepsTop (s : State) : s.KeepsTop s.hostTimers :=
  (KeepsTop.refl s).foldl fun u k _ => u.mbTimer_keepsTop k

theorem State.aliveSet_keepsTop (s : State) (f : Cur → Cur) : s.KeepsTop (s.aliveSet f) := by
  unfold State.aliveSet
  extract_lets was s1 x s2 s3
  have h1 : s.KeepsTop s1 := (KeepsTop.refl s).setCur _
  have h2 : s.KeepsTop s2 := h1.iteThen ((KeepsTop.refl s1).setCur _)
  have h3 : s.KeepsTop s3 := h2.iteThen ((KeepsTop.refl s2).event (curA_above _) _)
  exact h3.setBit (curA_above _) _ _

theorem State.clockGone_keepsTop (s : State) (c : Clock) : s.KeepsTop (s.clockGone c) := by
  unfold State.clockGone
  split
  · have h : s.KeepsTop (s.setTop { s.top with coreAt := s.now }) := (KeepsTop.refl s).setTop rfl
    exact h.trans (State.aliveSet_keepsTop _ _)
  · exact s.hostTimers_keepsTop
  · exact s.samplesStop_keepsTop.foldl fun u r _ => (KeepsTop.refl u).iteThen (u.setQNow_keepsTop r 1)
  · exact s.samplesStop_keepsTop
  · exact s.samplesStop_keepsTop
  · exact KeepsTop.refl s

end Sys2Proof.Machine
end

section
/-! Clocks that fail and return (R27, R29, R421). -/

namespace Sys2Proof.Machine

open Sys2Proof.Cert
open State (Within)

/-- A command that ends with `t` completes, with the clock and the queue as they were. -/
theorem completes_of_done {i : Instr} {s t : State} {P : State → Prop} (h : exec i s = done s t)
    (hp : P (((t.setNow s.now).setPending s.pending).setSumCycle [])) : completes i s P :=
  ⟨_, h.trans (done_eq s t), hp⟩

theorem exec_clockFailure (c : Clock) (s : State) : exec (.clockFailure c) s = execClockFailure c s := rfl
theorem exec_clockRestored (c : Clock) (s : State) : exec (.clockRestored c) s = execClockRestored c s := rfl
theorem exec_clkStatusFall (b : Fin 4) (s : State) : exec (.clkStatusFall b) s = execClkStatusFall b s := rfl

/-! ### Sundial's own time, taken at a change of its clock (R27, R136, R174) -/

/-- Sundial's time has been taken at this instant, and every dial is as it was. -/
structure State.TimeTaken (s t : State) : Prop where
  dials : t.dials = s.dials
  ns : t.sdlNs = s.sdlNow
  since : t.sdlFrom = s.now

/-- Dial time goes on from where it stood, whether Sundial then runs or not. -/
theorem State.TimeTaken.dialSub {s t : State} (h : s.TimeTaken t) (n : Nat) :
    (((t.setNow s.now).setPending s.pending).setSumCycle []).dialSub n = s.dialSub n := by
  have hn : (((t.setNow s.now).setPending s.pending).setSumCycle []).sdlNow = s.sdlNow := by
    rw [State.sdlNow]
    simp [h.ns, h.since]
  simp [State.dialSub, State.dialUnits, State.dial, hn, h.dials]

/-- Taking the time, and then the report of a change. -/
theorem State.sundialMoved_quiet (s t : State) : (t.setSdl s.sdlNow s.now).Quiet (s.sundialMoved t) := by
  unfold State.sundialMoved
  extract_lets u
  split
  · exact .refl u
  · split
    · exact (u.event_quiet _ _).trans (State.raiseAs_quiet _ _ _ _ _ _)
    · exact u.raiseAs_quiet _ _ _ _ _

theorem State.sundialMoved_timeTaken {s t : State} (h : t.dials = s.dials) : s.TimeTaken (s.sundialMoved t) where
  dials := (s.sundialMoved_quiet t).dials.trans h
  ns := (s.sundialMoved_quiet t).sdlNs
  since := (s.sundialMoved_quiet t).sdlFrom

theorem State.sundialMoved_keepsTop (s t : State) : t.KeepsTop (s.sundialMoved t) := by
  unfold State.sundialMoved
  extract_lets u
  have hu : t.KeepsTop u := (KeepsTop.refl t).same rfl rfl
  split
  · exact hu
  · split
    · exact (hu.event (sdlA_above _) _).report _ _ _ _
    · exact hu.report _ _ _ _

/-- Sieve's inputs take no samples; nothing of Sundial's time changes. -/
theorem State.samplesStop_timeTaken {s t : State} (h : s.TimeTaken t) : s.TimeTaken t.samplesStop :=
  foldl_keeps (fun u => s.TimeTaken u) State.sveBreak _ (fun u i _ hu =>
    ⟨(u.setSve_dials i _).trans hu.dials, (u.setSve_sdlNs i _).trans hu.ns, (u.setSve_sdlFrom i _).trans hu.since⟩) t h

/-! ### Failure -/

/-- The clock is on the list of failed ones; what that brings is above TOP. -/
theorem State.clockFails_keepsTop {s : State} {c : Clock} (h : s.top.failed.contains c = false) :
    (s.setTop { s.top with failed := s.top.failed ++ [c] }).KeepsTop (s.clockFails c) := by
  unfold State.clockFails
  extract_lets x t0 t1
  rw [if_neg (by rw [h]; decide)]
  have h1 : t0.KeepsTop t1 := by
    unfold t1
    split
    · exact (KeepsTop.refl t0).report _ _ _ _
    · exact KeepsTop.refl t0
  exact (h1.trans (s.sundialMoved_keepsTop t1)).trans (State.clockGone_keepsTop _ c)

theorem State.clockFails_idle {s : State} {c : Clock} (h : s.top.failed.contains c = true) : s.clockFails c = s := if_pos h

theorem State.failed_clockFails {s : State} {c : Clock} (h : s.top.failed.contains c = false) :
    (s.clockFails c).top.failed = s.top.failed ++ [c] := (State.clockFails_keepsTop h).failed

theorem State.rd_clockFails (s : State) (c : Clock) {a : Nat} (ha : a < 0x10000) : (s.clockFails c).rd a = s.rd a := by
  cases h : s.top.failed.contains c with
  | true => rw [State.clockFails_idle h]
  | false => exact (State.clockFails_keepsTop h).regs a (Nat.not_le.2 ha)

/-- Sundial stops: its time is taken (R27). -/
theorem State.clockFails_timeTaken {s : State} {c : Clock} (h : s.top.failed.contains c = false) (hc : c = .sundial ∨ c = .osc) :
    s.TimeTaken (s.clockFails c) := by
  unfold State.clockFails
  rw [if_neg (by rw [h]; decide)]
  rcases hc with rfl | rfl <;> exact State.samplesStop_timeTaken (State.sundialMoved_timeTaken rfl)

/-! ### Return -/

theorem State.hostTimers_eq (s : State) : s.hostTimers.top = s.top ∧ s.hostTimers.dials = s.dials := by
  refine foldl_keeps (fun u => u.top = s.top ∧ u.dials = s.dials) State.mbTimer _ (fun u k _ hu => ?_) s ⟨rfl, rfl⟩
  unfold State.mbTimer
  extract_lets m runs
  split
  · split
    · exact hu
    · exact hu
  · split
    · exact hu
    · exact hu

/-- The clock is off the list of failed ones, and Sundial's time has been taken, whichever clock returns. -/
theorem State.clockReturns_eq {s : State} {c : Clock} (h : s.top.failed.contains c = true) :
    (s.clockReturns c).top.failed = s.top.failed.filter (fun x => x != c) ∧ s.TimeTaken (s.clockReturns c) := by
  unfold State.clockReturns
  extract_lets x t0 t1 us t2 t3 t4
  rw [if_neg (by rw [h]; decide)]
  have h1 : t0.Quiet t1 := by
    unfold t1
    split
    · exact t0.raiseAs_quiet _ _ _ _ _
    · exact .refl t0
  have h2 : t0.Quiet t2 := by
    unfold t2
    split
    · exact h1.trans ((t1.raiseAs_quiet _ _ _ _ _).trans (State.raiseAs_quiet _ _ _ _ _ _))
    · exact h1
  have h3 : t0.Quiet t3 := by
    unfold t3
    split
    · split
      · exact h2
      · exact h2.trans (t2.setBit_quiet _ _ _)
    · exact h2
  have h4 : t4.top = t0.top ∧ t4.dials = t0.dials := by
    unfold t4
    split
    · exact ⟨t3.hostTimers_eq.1.trans h3.top, t3.hostTimers_eq.2.trans h3.dials⟩
    · exact ⟨h3.top, h3.dials⟩
  obtain ⟨htop, hdials⟩ := h4
  exact ⟨(s.sundialMoved_keepsTop t4).failed.trans (congrArg Top.failed htop), State.sundialMoved_timeTaken hdials⟩

/-! ### A PLL that loses lock (R421) -/

/-- Every clock of the list has failed then, and those that had failed before. -/
theorem State.failed_clockFails_all (l : List Clock) (s : State) {c : Clock} (h : c ∈ l ∨ c ∈ s.top.failed) :
    c ∈ (l.foldl State.clockFails s).top.failed := by
  induction l generalizing s with
  | nil => simpa using h
  | cons d rest ih =>
    refine ih (s.clockFails d) ?_
    rw [List.mem_cons] at h
    cases hd : s.top.failed.contains d with
    | true =>
      rw [State.clockFails_idle hd]
      rcases h with (rfl | h) | h
      · exact .inr (List.contains_iff_mem.1 hd)
      · exact .inl h
      · exact .inr h
    | false =>
      rw [State.failed_clockFails hd, List.mem_append, List.mem_singleton]
      tauto

theorem State.rd_clockFails_all (l : List Clock) (s : State) {a : Nat} (ha : a < 0x10000) :
    (l.foldl State.clockFails s).rd a = s.rd a :=
  foldl_keeps (fun u => u.rd a = s.rd a) _ l (fun u c _ hu => (u.rd_clockFails c ha).trans hu) s rfl

/-- The status bit falls, and stays so while the clocks fail. -/
theorem State.clkStatusFall_eq {s : State} {b : Nat} (hb : b < 32) (h : s.bit (topA 0x108) b = true) :
    (s.clkStatusFall b).bit (topA 0x108) b = false ∧ ∀ c ∈ bitClocks b, c ∈ (s.clkStatusFall b).top.failed := by
  unfold State.clkStatusFall
  rw [if_pos h]
  refine ⟨?_, fun c hc => State.failed_clockFails_all _ _ (.inl hc)⟩
  rw [State.bit_congr (State.rd_clockFails_all _ _ (by decide)), State.bit_congr (State.rd_summary_ne _ _ (by decide)),
    State.bit_setBit_same _ _ hb]

/-- Settles O39: a failed clock stands on TOP's list until it returns, Sundial's time is taken when its clock stops or
returns, and what follows from a failure leaves TOP's registers and the list alone. -/
theorem clocksFailAndReturn : Obligations.ClocksFailAndReturn := by
  unfold Obligations.ClocksFailAndReturn
  intro s hs
  refine ⟨fun c hc => ?_, fun c hc => ?_, fun b hb => ?_⟩
  · refine completes_of_done (exec_clockFailure c s) ?_
    rw [if_pos hs]
    have hf : (s.clockFails c).top.failed = s.top.failed ++ [c] := State.failed_clockFails hc
    refine ⟨hf, fun hsun => ⟨?_, fun n _ => (State.clockFails_timeTaken hc hsun).dialSub n⟩⟩
    rcases hsun with rfl | rfl <;> simp [State.sundialRuns, hf]
  · refine completes_of_done (exec_clockRestored c s) ?_
    rw [if_pos hs]
    obtain ⟨hf, htime⟩ := State.clockReturns_eq hc
    exact ⟨hf, fun _ n _ => htime.dialSub n⟩
  · refine completes_of_done (exec_clkStatusFall b s) ?_
    rw [if_pos hs]
    obtain ⟨hbit, hf⟩ := State.clkStatusFall_eq (by omega) hb
    exact ⟨hbit, fun c hc => List.contains_iff_mem.2 (hf c hc)⟩

end Sys2Proof.Machine
end

section
/-! SUPPORT. Which parts of the state stay, put together from updates; the registers of a transmit framer. -/

namespace Sys2Proof.Machine

open Sys2Proof.Cert
open State (Within)

/-! ### Parts that stay -/

theorem Part.same_trans {p : Part} {s t u : State} (h : p.same s t) (k : p.same t u) : p.same s u := by
  cases p <;> exact Eq.trans k h

theorem State.Quiet.part {s t : State} (h : s.Quiet t) {p : Part} (hc : p ≠ .cur) (hi : p ≠ .inv) : p.same s t := by
  cases h
  cases p with
  | cur => contradiction
  | inv => contradiction
  | _ => assumption

theorem keeps_trans {ps : List Part} {s t u : State} (h : keeps ps s t) (k : keeps ps t u) : keeps ps s u :=
  fun p hp => Part.same_trans (h p hp) (k p hp)

theorem State.Quiet.keeps {s t : State} (h : s.Quiet t) (ps : List Part) : keeps ps s t := fun p hp => by
  simp only [List.mem_cons, not_or] at hp
  obtain ⟨hc, hi, _⟩ := hp
  exact h.part hc hi

theorem keeps_of_sameBut {ps : List Part} {s t : State} (h : sameBut ps s t) : keeps ps s t := fun p hp =>
  h p fun e => hp (List.mem_cons_of_mem _ (List.mem_cons_of_mem _ e))

/-- The end of a command puts the clock and the queue back, and leaves every other part. -/
theorem sameBut_done {ps : List Part} {s t : State} (h : sameBut ps s t) :
    sameBut ps s (((t.setNow s.now).setPending s.pending).setSumCycle []) := fun p hp => by
  have hs := h p hp
  cases p with
  | now => rfl
  | pending => rfl
  | _ => exact hs

theorem setTx_sameBut (s : State) (f : Nat) (x : Tx) : sameBut [.txs] s (s.setTx f x) := fun p hp => by
  cases p with
  | txs => simp at hp
  | _ => rfl

theorem setCommitRows_sameBut (s : State) (x : Half) : sameBut [.commitRows] s (s.setCommitRows x) := fun p hp => by
  cases p with
  | commitRows => simp at hp
  | _ => rfl

theorem reportReg_reporting {src a : Nat} (hs : src < 1024) (h : reportReg src a) : reporting a := by
  refine .inr ?_
  rcases h with h | h | h | h | h <;> subst h <;> simp only [srcA, curA] <;> omega

/-! ### Transmit framers: records and registers -/

@[simp] theorem State.tx_setTx_same (s : State) (f : Nat) (x : Tx) : (s.setTx f x).tx f = x := by
  simp [State.tx, State.setTx]

theorem State.tx_setTx_ne (s : State) {f g : Nat} (x : Tx) (h : g ≠ f) : (s.setTx f x).tx g = s.tx g := by
  simp [State.tx, State.setTx, Tab.get_set_ne _ _ _ _ h]

theorem State.tx_congr {s t : State} (h : t.txs = s.txs) (f : Nat) : t.tx f = s.tx f := by rw [State.tx, State.tx, h]

theorem rowOfCh_lt (f : Nat) : rowOfCh f < 12 := by unfold rowOfCh; omega

/-- Reads of a transmit framer's registers, by address. -/
theorem txA_range {f o : Nat} (hf : f < 384) (ho : o < 0x1000) :
    (0x300000 ≤ txA f o ∧ txA f o < 0x3C0000) ∨ (0x500000 ≤ txA f o ∧ txA f o < 0x5C0000) := by
  unfold txA; split <;> omega

theorem rxA_range {f o : Nat} (hf : f < 384) (ho : o < 0x1000) :
    (0x200000 ≤ rxA f o ∧ rxA f o < 0x2C0000) ∨ (0x400000 ≤ rxA f o ∧ rxA f o < 0x4C0000) := by
  unfold rxA; split <;> omega

theorem txA_ne {f o p : Nat} (h : o ≠ p) : txA f o ≠ txA f p := by unfold txA; split <;> omega

theorem State.sundialRuns_congr {s t : State} (ht : t.top = s.top) (hr : t.rd (topA 0x334) = s.rd (topA 0x334)) :
    t.sundialRuns = s.sundialRuns := by
  rw [State.sundialRuns, State.sundialRuns, ht, State.bit_congr hr]

/-! ### Loop timing (R28, R180) -/

theorem exec_loopTimingHoldExpiry (f : Chan) (s : State) :
    exec (.loopTimingHoldExpiry f) s = execLoopTimingHoldExpiry f s := rfl
theorem exec_loopTiming (f : Chan) (s : State) : exec (.loopTiming f) s = execLoopTiming f s := rfl

/-- The lane follows dial 0 or its receive clock from now on, and the move is reported from its row's source. -/
theorem State.laneMoved (s : State) (f : Nat) (x : Tx) (detail : Nat) :
    let t := (s.setTx f x).raise (mapSrc (rowOfCh f)) 0x33 false detail
    t.tx f = x ∧ keeps [.txs] s (((t.setNow s.now).setPending s.pending).setSumCycle []) ∧ regsBut reporting s t := by
  intro t
  have hq : (s.setTx f x).Quiet t := State.raiseAs_quiet _ _ _ _ _ _
  have hr := rowOfCh_lt f
  refine ⟨(State.tx_congr hq.txs f).trans (s.tx_setTx_same f x),
    sameBut_done (keeps_trans (keeps_of_sameBut (setTx_sameBut s f x)) (hq.keeps _)), fun a ha => ?_⟩
  exact State.rd_raiseAs_ne _ _ _ _ _ fun e => ha (reportReg_reporting (by unfold mapSrc; omega) e)

/-- To dial 0 under LOS (R28). -/
theorem State.loopMove_away {s : State} {f : Nat} (h0 : (s.tx f).timing.getLsbD 0 = true) (h1 : (s.tx f).onDial0 = false)
    (hl : s.rawBit f 0 = true) :
    s.loopMove f = (s.setTx f { s.tx f with onDial0 := true, backDue := false }).raise (mapSrc (rowOfCh f)) 0x33 false
      (f % 192 + (f / 192) * 256 + 512) := by
  simp [State.loopMove, h0, h1, hl]

/-- And back, once that is due (R28). -/
theorem State.loopMove_back {s : State} {f : Nat} (h0 : (s.tx f).timing.getLsbD 0 = true) (h1 : (s.tx f).onDial0 = true)
    (hd : (s.tx f).backDue = true) (hl : s.rawBit f 0 = false) :
    s.loopMove f = (s.setTx f { s.tx f with onDial0 := false, backDue := false }).raise (mapSrc (rowOfCh f)) 0x33 false
      (f % 192 + (f / 192) * 256) := by
  simp [State.loopMove, h0, h1, hd, hl]

theorem loopTimingHoldExpiry_due {s : State} {f : Chan} (hr : s.txRuns f.val = true) (h0 : (s.tx f.val).onDial0 = true)
    (hl : s.rawBit f.val 0 = false) (ht : (s.tx f.val).losFreeSince + 10000000 ≤ s.now) :
    completes (.loopTimingHoldExpiry f) s (fun t => t.tx f.val = { s.tx f.val with backDue := true } ∧ sameBut [.txs] s t ∧
      regsBut (fun _ => False) s t) := by
  refine completes_of_done (exec_loopTimingHoldExpiry f s) ?_
  have hms : (s.tx f.val).losFreeSince + 10 * msNs ≤ s.now := by unfold msNs; omega
  rw [if_pos (by simp [hr, h0, hl, hms])]
  exact ⟨s.tx_setTx_same f.val _, sameBut_done (setTx_sameBut s f.val _), fun _ _ => rfl⟩

theorem loopTiming_away {s : State} {f : Chan} (hr : s.txRuns f.val = true) (h0 : (s.tx f.val).timing.getLsbD 0 = true)
    (h1 : (s.tx f.val).onDial0 = false) (hl : s.rawBit f.val 0 = true) :
    completes (.loopTiming f) s (fun t => t.tx f.val = { s.tx f.val with onDial0 := true, backDue := false } ∧
      keeps [.txs] s t ∧ regsBut reporting s t) := by
  refine completes_of_done (exec_loopTiming f s) ?_
  rw [if_pos hr, State.loopMove_away h0 h1 hl]
  exact s.laneMoved f.val _ _

theorem loopTiming_back {s : State} {f : Chan} (hr : s.txRuns f.val = true) (h0 : (s.tx f.val).timing.getLsbD 0 = true)
    (h1 : (s.tx f.val).onDial0 = true) (hd : (s.tx f.val).backDue = true) (hl : s.rawBit f.val 0 = false) :
    completes (.loopTiming f) s (fun t => t.tx f.val = { s.tx f.val with onDial0 := false, backDue := false } ∧
      keeps [.txs] s t ∧ regsBut reporting s t) := by
  refine completes_of_done (exec_loopTiming f s) ?_
  rw [if_pos hr, State.loopMove_back h0 h1 hd hl]
  exact s.laneMoved f.val _ _

end Sys2Proof.Machine
end

section
/-! Transmit frames (R64, R74, R96, R177, R180): what goes before the frame, the stamp of its edge, and the frame. -/

namespace Sys2Proof.Machine

open Sys2Proof.Cert
open State (Within)

theorem exec_transmitFrame (f : Chan) (x : TxIn) (s : State) : exec (.transmitFrame f x) s = execTransmitFrame f x s := rfl

/-! ### The Cellar's words and the slip buffer write counts, reports and the Cellar's registers (R124 to R128) -/

theorem celA_cellar {o : Nat} (ho : o < 0x100000) : cellarSide.has (celA o) :=
  .inr (by unfold celA; omega)

theorem slipA_cellar {b o : Nat} (hb : b < 384) (ho : o < 0x40) : cellarSide.has (slipA b o) :=
  .inr (by unfold slipA; omega)

theorem State.putTs_quiet (s : State) (a sub : Nat) : s.Quiet (s.putTs a sub) :=
  ((s.wrN_quiet _ _).trans (State.wrN_quiet _ _ _)).trans (State.wrN_quiet _ _ _)

theorem State.celRead_quiet (s : State) (r : Nat) (c : Nat × Nat) (x : CelIn) : s.Quiet (s.celRead r c x) := by
  unfold State.celRead
  split
  · exact .refl s
  · refine foldl_keeps (fun u => s.Quiet u) _ _ (fun u w _ hu => ?_) _ ?_
    · exact ((hu.trans (u.inc_quiet _)).trans (State.event_quiet _ _ _)).trans (State.raiseLim_quiet _ _ _ _ _ _ _)
    · exact ((((((s.tally_quiet _ _ _ _ _).trans (State.tally_quiet _ _ _ _ _ _)).trans (State.tally_quiet _ _ _ _ _ _)).trans
        (State.tally_quiet _ _ _ _ _ _)).trans (State.addTo_quiet _ _ _)).trans (State.tally_quiet _ _ _ _ _ _)).trans
        (State.tally_quiet _ _ _ _ _ _)

theorem State.celRead_within (s : State) {r : Nat} (hr : r < 12) (c : Nat × Nat) (x : CelIn) :
    s.Within cellarSide (s.celRead r c x) := by
  have hc : ∀ {o}, o < 0x100000 → cellarSide.has (celA o) := celA_cellar
  unfold State.celRead
  split
  · exact .refl _ s
  · refine Within.foldl ?_ fun u w _ =>
      (((Within.refl _ u).inc (hc (by omega))).event (hc (by omega)) 1).raiseLim (by decide) _ _ _ _ _
    exact (((((((Within.refl _ s).tally (by omega) _ _ _).tally (by omega) _ _ _).tally (by omega) _ _ _).tally (by omega)
      _ _ _).addTo (hc (by omega)) _).tally (by omega) _ _ _).tally (by omega) _ _ _

theorem State.slip_quiet (s : State) (f b : Nat) (rep : Bool) : s.Quiet (s.slip f b rep) :=
  (((((s.inc_quiet _).trans (State.tally_quiet _ _ _ _ _ _)).trans (State.putTs_quiet _ _ _)).trans
    (State.event_quiet _ _ _)).trans (State.event_quiet _ _ _)).trans (State.raiseLim_quiet _ _ _ _ _ _ _)

theorem State.slip_within (s : State) (f : Nat) {b : Nat} (hb : b < 384) (rep : Bool) : s.Within cellarSide (s.slip f b rep) := by
  have hs : ∀ {o}, o < 0x40 → cellarSide.has (slipA b o) := slipA_cellar hb
  have h1 : s.Within cellarSide (s.inc (slipA b (if rep then 0xC else 8))) :=
    (Within.refl _ s).inc (hs (by split <;> omega))
  exact ((((h1.tally (by omega) _ _ _).putTs (hs (by omega)) (hs (o := 0x14) (by omega)) (hs (o := 0x18) (by omega))
    _).event (hs (by omega)) _).event (celA_cellar (by omega)) _).raiseLim (by decide) _ _ _ _ _

/-- The slip buffer at a frame edge: nothing, its fill, or a slip. -/
theorem State.slipEdge_within (s : State) (f fill : Nat) (rep : Bool) :
    s.Quiet (s.slipEdge f fill rep) ∧ s.Within cellarSide (s.slipEdge f fill rep) := by
  have hb : 32 * rowOfCh f + idxOf f < 384 := by unfold rowOfCh idxOf; split <;> omega
  unfold State.slipEdge
  extract_lets r b s1
  have hs : ∀ v, s.Quiet (s.setFld (slipA b 4) 15 8 v) ∧ s.Within cellarSide (s.setFld (slipA b 4) 15 8 v) := fun v =>
    ⟨s.setFld_quiet _ _ _ _, (Within.refl _ s).setFld (slipA_cellar hb (by omega)) _ _ _⟩
  obtain ⟨hq, hw⟩ : s.Quiet s1 ∧ s.Within cellarSide s1 := hs _
  have hslip : ∀ rep, s.Quiet (s1.slip f b rep) ∧ s.Within cellarSide (s1.slip f b rep) := fun rep =>
    ⟨hq.trans (s1.slip_quiet f b rep), hw.trans (s1.slip_within f hb rep)⟩
  have hid : s.Quiet s ∧ s.Within cellarSide s := ⟨.refl s, .refl _ s⟩
  split
  · exact hid
  · split
    · exact hid
    · split
      · exact hid
      · split
        · exact hs 128
        · split
          · exact hslip false
          · split
            · exact hslip true
            · exact ⟨hq, hw⟩

/-! ### TX_TIMING at the frame edge (R180) -/

/-- The record of lane `g` once TX_TIMING has taken effect. -/
def State.timed (s : State) (g : Nat) : Tx :=
  { s.tx g with timing := s.rd (txA g 0x300), onDial0 := (s.tx g).onDial0 && (s.rd (txA g 0x300)).getLsbD 0 }

@[simp] theorem State.tx_timingEdge_same (s : State) (g : Nat) : (s.timingEdge g).tx g = s.timed g := s.tx_setTx_same g _

theorem State.tx_timingEdge_ne (s : State) {g h : Nat} (e : h ≠ g) : (s.timingEdge g).tx h = s.tx h := s.tx_setTx_ne _ e

theorem State.rd_timingEdge (s : State) (g a : Nat) : (s.timingEdge g).rd a = s.rd a := s.rd_setTx _ _ _

/-- A lane's timing taken twice at one edge is as taken once. -/
theorem State.timed_timingEdge (s : State) (g h : Nat) : (s.timingEdge g).timed h = s.timed h := by
  by_cases e : h = g
  · subst e
    rw [State.timed, State.tx_timingEdge_same, State.rd_timingEdge]
    simp [State.timed]
  · rw [State.timed, State.tx_timingEdge_ne s e, State.rd_timingEdge, State.timed]

/-- The lanes of the list have their timing then, and the others are as they were. -/
theorem State.tx_timingEdges (l : List Nat) (s : State) (g : Nat) :
    (l.foldl State.timingEdge s).tx g = if g ∈ l then s.timed g else s.tx g := by
  induction l generalizing s with
  | nil => rfl
  | cons h rest ih =>
    rw [List.foldl_cons, ih, State.timed_timingEdge]
    by_cases e : g = h
    · subst e; simp
    · rw [State.tx_timingEdge_ne s e]; simp [e]

theorem State.timingEdges_same (l : List Nat) (s : State) :
    (l.foldl State.timingEdge s).regs = s.regs ∧ (l.foldl State.timingEdge s).top = s.top :=
  foldl_keeps (fun u => u.regs = s.regs ∧ u.top = s.top) State.timingEdge l (fun _ _ _ hu => hu) s ⟨rfl, rfl⟩

theorem State.mem_lanesOf (s : State) (f : Nat) : f ∈ s.lanesOf f := by
  unfold State.lanesOf
  split
  · exact List.mem_map.2 ⟨0, by decide, Nat.zero_add f⟩
  · exact List.mem_singleton.2 rfl

theorem State.mem_lanesOf_group {s : State} {f j : Nat} (h : s.txFmt f = 6) (hj : j < 4) : f + j ∈ s.lanesOf f := by
  rw [State.lanesOf, if_pos h]
  exact List.mem_map.2 ⟨j, List.mem_range.2 hj, Nat.add_comm j f⟩

/-! ### What goes before the frame (R74, R124, R180) -/

/-- All that TRANSMIT_FRAME does before the stamp has been done: the lanes have their timing, and only counts, reports and
the Cellar's registers read otherwise. -/
structure State.Fronted (s : State) (f : Nat) (p : State) : Prop where
  within : s.Within cellarSide p
  top : p.top = s.top
  own : ∃ rep id, p.tx f = { s.timed f with replacing := rep, sdiId := id }
  lanes : ∀ g ∈ s.lanesOf f, (p.tx g).timing = s.rd (txA g 0x300)

/-- The frame itself, with what forces it to AIS and whether the client is replaced (R72, R74). -/
def State.sendFrame (s : State) (f fam : Nat) (forced rep : Bool) : State :=
  match fam with
  | 1 =>
    let s := s.sendSdh f (forced || rep)
    let x := s.tx f
    s.setTx f { x with sent := { x.sent with replacement := rep } }
  | 2 =>
    let s := if s.ttcRuns f && (s.tx f).mfas % 16 == 0 then s.ttcBegin f (s.txStamp (s.polFld (ttcA f 0) 7 4) f) else s
    s.sendOtn f forced
  | _ => s.setTx f { s.tx f with sent := { Sent.init with replacement := rep, sdi := s.sdiSent f rep, freq := s.laneFreq f } }

/-- TRANSMIT_FRAME in three parts: what goes before, the stamp, the frame. -/
theorem State.transmit_eq (s : State) (f : Nat) (x : TxIn) :
    ∃ p rep forced stamp, s.Fronted f p ∧
      s.transmit f x = (if (famOf (s.txFmt f) != 3 || x.line1) && p.prbsSel (srdTx f) == 0 then p.putStamp (txA f 0) stamp
        else p).sendFrame f (famOf (s.txFmt f)) forced rep := by
  unfold State.transmit
  extract_lets fam s1 s2 rep s3 y s4 forced stamp s5
  obtain ⟨hr1, ht1⟩ := State.timingEdges_same (s.lanesOf f) s
  have hq1 : ((s.lanesOf f).foldl State.timingEdge s).Quiet s1 := State.tally_quiet _ _ _ _ _ _
  have hw1 : s.Within cellarSide s1 := by
    have h0 : s.Within cellarSide ((s.lanesOf f).foldl State.timingEdge s) := (Within.refl _ s).same hr1 (by rw [ht1])
    exact h0.tally (by have := rowOfCh_lt f; omega) _ _ _
  have hq2 : s1.Quiet s2 := State.celRead_quiet _ _ _ _
  have hw2 : s1.Within cellarSide s2 := State.celRead_within _ (rowOfCh_lt f) _ _
  obtain ⟨hq3, hw3⟩ : s2.Quiet s3 ∧ s2.Within cellarSide s3 := s2.slipEdge_within f _ _
  have htx : ∀ g, s3.tx g = if g ∈ s.lanesOf f then s.timed g else s.tx g := fun g =>
    (State.tx_congr ((hq1.trans hq2).trans hq3).txs g).trans (State.tx_timingEdges _ s g)
  have hy : y = s.timed f := (htx f).trans (if_pos (s.mem_lanesOf f))
  refine ⟨s4, rep, forced, stamp, ⟨?_, ?_, ?_, ?_⟩, rfl⟩
  · exact ((hw1.trans hw2).trans hw3).same rfl rfl
  · exact (((hq1.trans hq2).trans hq3).top).trans ht1
  · exact ⟨_, _, (s3.tx_setTx_same f _).trans (by rw [hy])⟩
  · intro g hg
    by_cases e : g = f
    · subst e
      rw [s3.tx_setTx_same g _, hy]; rfl
    · rw [s3.tx_setTx_ne _ e, htx g, if_pos hg]; rfl

end Sys2Proof.Machine
end

section
/-! The frame that a lane sends, and the whole of TRANSMIT_FRAME (R60, R64, R65, R177, R180). -/

namespace Sys2Proof.Machine

open Sys2Proof.Cert
open State (Within)

/-! ### The stamp (R177, R179) -/

theorem State.putStamp_quiet (s : State) (base sub : Nat) : s.Quiet (s.putStamp base sub) := by
  unfold State.putStamp
  split
  · exact (s.putTs_quiet _ _).trans (State.inc_quiet _ _)
  · exact .refl s

theorem State.rd_putTs_ne (s : State) {a b : Nat} (sub : Nat) (h0 : b ≠ a) (h4 : b ≠ a + 4) (h8 : b ≠ a + 8) :
    (s.putTs a sub).rd b = s.rd b := by
  unfold State.putTs
  extract_lets w
  rw [State.rd_wrN_ne _ _ h8, State.rd_wrN_ne _ _ h4, State.rd_wrN_ne _ _ h0]

/-- TS_LAST and TS_SEQ are all that the stamp writes. -/
theorem State.rd_putStamp_ne (s : State) {base a : Nat} (sub : Nat) (h : ¬ (base + 0x70C ≤ a ∧ a ≤ base + 0x718)) :
    (s.putStamp base sub).rd a = s.rd a := by
  unfold State.putStamp
  split
  · rw [State.rd_inc_ne _ (by omega), State.rd_putTs_ne _ _ (by omega) (by omega) (by omega)]
  · rfl

/-- TS_SEQ counts the stamp. -/
theorem State.nat_putStamp_seq {s : State} (h : s.sundialRuns = true) (base sub : Nat) :
    (s.putStamp base sub).nat (base + 0x718) = (s.nat (base + 0x718) + 1) % 2 ^ 32 := by
  rw [State.putStamp, if_pos h, State.nat_inc_same,
    State.nat_congr (State.rd_putTs_ne s sub (by omega) (by omega) (by omega))]

/-! ### The frame -/

/-- What the frame itself leaves: the lane's timing, the other lanes, and TS_SEQ. -/
structure State.FrameSent (f : Nat) (s t : State) : Prop where
  timing : (t.tx f).timing = (s.tx f).timing
  onDial0 : (t.tx f).onDial0 = (s.tx f).onDial0
  others : ∀ g, g ≠ f → t.tx g = s.tx g
  seq : t.rd (txA f 0x718) = s.rd (txA f 0x718)

theorem State.FrameSent.trans {f : Nat} {s t u : State} (h : State.FrameSent f s t) (k : State.FrameSent f t u) :
    State.FrameSent f s u :=
  ⟨k.timing.trans h.timing, k.onDial0.trans h.onDial0, fun g hg => (k.others g hg).trans (h.others g hg), k.seq.trans h.seq⟩

/-- The lane's record takes the frame. -/
theorem State.frameSent_setTx (s : State) {f : Nat} {x : Tx} (ht : x.timing = (s.tx f).timing)
    (hd : x.onDial0 = (s.tx f).onDial0) : State.FrameSent f s (s.setTx f x) where
  timing := by rw [s.tx_setTx_same f x, ht]
  onDial0 := by rw [s.tx_setTx_same f x, hd]
  others g hg := s.tx_setTx_ne x hg
  seq := s.rd_setTx f x _

/-- Counts beyond what the frame carries go to a register of their own (R65). -/
theorem State.frameSent_addTo (s : State) (f n : Nat) : State.FrameSent f s (s.addTo (txA f 0x2C0) n) where
  timing := rfl
  onDial0 := rfl
  others _ _ := rfl
  seq := s.rd_addTo_ne n (txA_ne (by decide))

theorem State.FrameSent.surplus {f : Nat} {s t : State} (h : State.FrameSent f s t) (c : Prop) [Decidable c] (n cap : Nat) :
    State.FrameSent f s (if c then t else t.reiSat f n cap) ∧ (if c then t else t.reiSat f n cap).tx f = t.tx f := by
  split
  · exact ⟨h, rfl⟩
  · exact ⟨h.trans (t.frameSent_addTo f _), rfl⟩

/-- An SDH frame (R60, R64, R65): the trace goes on, the counts start again, and M1 carries the receive channel's. -/
theorem State.sendSdh_eq (s : State) (f : Nat) (ais : Bool) : let t := s.sendSdh f ais
    State.FrameSent f s t ∧ (t.tx f).traceIdx = ((s.tx f).traceIdx + 1) % 64 ∧ (t.tx f).accM1 = 0 ∧
      (t.tx f).sent.ais = ais ∧ (ais = false → s.bit (txA f 0x200) 0 = false →
        (t.tx f).sent.m1.toNat = if s.reverseTakes f then min (s.tx f).accM1 255 else 0) := by
  unfold State.sendSdh
  extract_lets x fmt rev src n rdi k2 m1 len w sent u t
  have hu : State.FrameSent f s u := s.frameSent_setTx rfl rfl
  obtain ⟨ht, htx⟩ : State.FrameSent f s t ∧ t.tx f = u.tx f := hu.surplus (src 0 || ais) n 255
  have hx : t.tx f = _ := htx.trans (s.tx_setTx_same f _)
  refine ⟨ht, by rw [hx], by rw [hx], by rw [hx], fun ha hs => ?_⟩
  rw [hx]
  show m1.toNat = _
  have hm : m1 = BitVec.ofNat 8 (min n 255) := by
    show (if ais then (0xFF : Byte) else if s.bit (txA f 0x200) 0 then _ else _) = _
    rw [ha, hs]; rfl
  rw [hm, BitVec.toNat_ofNat, Nat.mod_eq_of_lt (by omega)]
  show min (if s.reverseTakes f then (s.tx f).accM1 else 0) 255 = _
  split
  · rfl
  · rfl

/-- An OTN frame (R60, R64, R65): MFAS goes on, the counts start again, and SM BEI carries the receive channel's. -/
theorem State.sendOtn_eq (s : State) (f : Nat) (forced : Bool) : let t := s.sendOtn f forced
    State.FrameSent f s t ∧ (t.tx f).mfas = ((s.tx f).mfas + 1) % 256 ∧ (t.tx f).accSm = 0 ∧ (t.tx f).accPm = 0 ∧
      (s.bit (txA f 0x200) 2 = false → s.rxAct f [20] = false →
        (t.tx f).sent.smBei.toNat = if s.reverseTakes f then min (s.tx f).accSm 8 else 0) := by
  unfold State.sendOtn
  generalize s.oduSent f = o
  obtain ⟨pm0, ais0, oci, term⟩ := o
  dsimp -zeta only
  extract_lets x rev ais pm prog own n iae bei bdi smLen pmLen c byte oduRow sent surplus u t
  have hu : State.FrameSent f s u := s.frameSent_setTx rfl rfl
  obtain ⟨hr, hrx⟩ := hu.surplus (own || iae) n 8
  have hx : t.tx f = _ := hrx.trans (s.tx_setTx_same f _)
  refine ⟨hr.trans (State.frameSent_addTo _ f surplus), by rw [hx], by rw [hx], by rw [hx], fun ho ha => ?_⟩
  have hb : bei = min n 8 := by simp [bei, own, iae, ho, ha]
  rw [hx]
  show (BitVec.ofNat 4 bei).toNat = _
  rw [hb, BitVec.toNat_ofNat, Nat.mod_eq_of_lt (by omega)]
  show min (if s.reverseTakes f then (s.tx f).accSm else 0) 8 = _
  split
  · rfl
  · rfl

/-! ### The time-transfer message begins (R186) -/

theorem ttcA_range {f o : Nat} (hf : f < 384) (ho : o < 0x40) : ttcA f o < 0xC6000 := by unfold ttcA; omega

theorem State.rd_ttcBegin_ne (s : State) {n a : Nat} (dep : Nat) (h : a ≠ ttcA n 0x1C) : (s.ttcBegin n dep).rd a = s.rd a :=
  State.rd_inc_ne _ h

theorem State.ttcBegin_txs (s : State) (n dep : Nat) : (s.ttcBegin n dep).txs = s.txs := rfl

/-! ### The frame by family (R64, R74) -/

/-- What the reverse indications of a lane are made from reads the same. -/
structure State.SameReverse (f : Nat) (s t : State) : Prop where
  txFmt : t.rd (txA f 0x100) = s.rd (txA f 0x100)
  rxFmt : t.rd (rxA f 0x100) = s.rd (rxA f 0x100)
  source : t.rd (txA f 0x200) = s.rd (txA f 0x200)
  active : t.rd (rxA f 0x208) = s.rd (rxA f 0x208)

theorem State.SameReverse.takes {f : Nat} {s t : State} (h : State.SameReverse f s t) : t.reverseTakes f = s.reverseTakes f := by
  rw [State.reverseTakes, State.reverseTakes, State.txFmt, State.txFmt, State.rxFmt, State.rxFmt, State.fld_congr h.txFmt,
    State.fld_congr h.rxFmt]

theorem State.SameReverse.rxAct {f : Nat} {s t : State} (h : State.SameReverse f s t) (l : List Nat) :
    t.rxAct f l = s.rxAct f l := by rw [State.rxAct, State.rxAct, State.nat_congr h.active]

/-- The frame of a lane: SDH goes on with the trace, OTN with the multiframe, and both send the counts of the receive
channel and start them again; every family leaves the lane's timing. -/
theorem State.sendFrame_eq (s : State) {f : Nat} (hf : f < 384) (fam : Nat) (forced rep : Bool) :
    let x := s.tx f
    let t := s.sendFrame f fam forced rep
    let v := t.tx f
    State.FrameSent f s t ∧
      (fam = 1 → v.traceIdx = (x.traceIdx + 1) % 64 ∧ v.accM1 = 0 ∧ (v.sent.ais = false → s.bit (txA f 0x200) 0 = false →
        v.sent.m1.toNat = if s.reverseTakes f then min x.accM1 255 else 0)) ∧
      (fam = 2 → v.mfas = (x.mfas + 1) % 256 ∧ v.accSm = 0 ∧ v.accPm = 0 ∧
        (s.bit (txA f 0x200) 2 = false → s.rxAct f [20] = false →
          v.sent.smBei.toNat = if s.reverseTakes f then min x.accSm 8 else 0)) := by
  unfold State.sendFrame
  split
  · obtain ⟨hs, htrace, hacc, hais, hm1⟩ := s.sendSdh_eq f (forced || rep)
    extract_lets x u y z t v
    have hv : v = _ := u.tx_setTx_same f _
    refine ⟨hs.trans (u.frameSent_setTx rfl rfl), fun _ => ?_, fun h => absurd h (by decide)⟩
    rw [hv]
    exact ⟨htrace, hacc, fun ha hsrc => hm1 (hais.symm.trans ha) hsrc⟩
  · extract_lets x u t v
    have hne : ∀ a, 0xC6000 ≤ a → u.rd a = s.rd a := fun a ha => by
      unfold u
      split
      · exact s.rd_ttcBegin_ne _ (by have := ttcA_range hf (o := 0x1C) (by omega); omega)
      · rfl
    have htxs : u.txs = s.txs := by
      unfold u
      split
      · exact s.ttcBegin_txs _ _
      · rfl
    have hx : u.tx f = x := State.tx_congr htxs f
    have hfr : State.FrameSent f s u := by
      refine ⟨by rw [hx], by rw [hx], fun g _ => State.tx_congr htxs g, hne _ ?_⟩
      have := txA_range hf (o := 0x718) (by omega)
      omega
    have hrev : State.SameReverse f s u := by
      have h1 := txA_range hf (o := 0x100) (by omega)
      have h2 := rxA_range hf (o := 0x100) (by omega)
      have h3 := txA_range hf (o := 0x200) (by omega)
      have h4 := rxA_range hf (o := 0x208) (by omega)
      exact ⟨hne _ (by omega), hne _ (by omega), hne _ (by omega), hne _ (by omega)⟩
    obtain ⟨hs, hmfas, hsm, hpm, hbei⟩ := u.sendOtn_eq f forced
    rw [hx] at hmfas hbei
    rw [hrev.takes, hrev.rxAct, State.bit_congr hrev.source] at hbei
    exact ⟨hfr.trans hs, fun h => absurd h (by decide), fun _ => ⟨hmfas, hsm, hpm, hbei⟩⟩
  · next h1 h2 => exact ⟨s.frameSent_setTx rfl rfl, fun h => (h1 h).elim, fun h => (h2 h).elim⟩

/-! ### TRANSMIT_FRAME -/

theorem not_cellarSide_txA {f o : Nat} (hf : f < 384) (ho : o < 0x1000) : ¬ cellarSide.has (txA f o) := by
  have := txA_range hf ho
  show ¬ (0x20000 ≤ _ ∧ _ < 0x40000 ∨ 0x800000 ≤ _ ∧ _ < 0x900000)
  omega

theorem not_cellarSide_rxA {f o : Nat} (hf : f < 384) (ho : o < 0x1000) : ¬ cellarSide.has (rxA f o) := by
  have := rxA_range hf ho
  show ¬ (0x20000 ≤ _ ∧ _ < 0x40000 ∨ 0x800000 ≤ _ ∧ _ < 0x900000)
  omega

theorem not_cellarSide_high {a : Nat} (h : 0x900000 ≤ a) : ¬ cellarSide.has a := by
  show ¬ (0x20000 ≤ _ ∧ _ < 0x40000 ∨ 0x800000 ≤ _ ∧ _ < 0x900000)
  omega

/-- What goes before the frame, and a stamp in the lane's own registers, leave what reverse indications are made from. -/
theorem State.Fronted.sameReverse {s p q : State} {f : Nat} (hf : f < 384) (h : s.Fronted f p)
    (hq : ∀ a, ¬ (txA f 0 + 0x70C ≤ a ∧ a ≤ txA f 0 + 0x718) → q.rd a = p.rd a) : State.SameReverse f s q := by
  have hstamp : txA f 0x100 = txA f 0 + 0x100 ∧ txA f 0x200 = txA f 0 + 0x200 := by unfold txA; split <;> omega
  have h0 := txA_range hf (o := 0) (by omega)
  have h0' := txA_range hf (o := 0x718) (by omega)
  have h2 := rxA_range hf (o := 0x100) (by omega)
  have h4 := rxA_range hf (o := 0x208) (by omega)
  have hs : txA f 0x718 = txA f 0 + 0x718 := by unfold txA; split <;> omega
  exact ⟨(hq _ (by omega)).trans (h.within.regs _ (not_cellarSide_txA hf (by omega))),
    (hq _ (by omega)).trans (h.within.regs _ (not_cellarSide_rxA hf (by omega))),
    (hq _ (by omega)).trans (h.within.regs _ (not_cellarSide_txA hf (by omega))),
    (hq _ (by omega)).trans (h.within.regs _ (not_cellarSide_rxA hf (by omega)))⟩

/-- Before the frame TS_SEQ, and what decides of the stamp, read as at the command. -/
theorem State.Fronted.stamp_reads {s p : State} {f : Nat} (hf : f < 384) (h : s.Fronted f p) :
    p.nat (txA f 0x718) = s.nat (txA f 0x718) ∧ p.prbsSel (srdTx f) = s.prbsSel (srdTx f) ∧ p.sundialRuns = s.sundialRuns := by
  refine ⟨State.nat_congr (h.within.regs _ (not_cellarSide_txA hf (by omega))), ?_, State.sundialRuns_congr h.top ?_⟩
  · have hr : p.rd (srdA (srdTx f) 0x100) = s.rd (srdA (srdTx f) 0x100) :=
      h.within.regs _ (not_cellarSide_high (by unfold srdA; omega))
    rw [State.prbsSel, State.prbsSel, State.fld_congr hr]
  · exact h.within.regs _ (by show ¬ (0x20000 ≤ topA 0x334 ∧ _ ∨ _); unfold topA; omega)

/-- The stamp, if one is taken, counts in TS_SEQ, and the lanes' records stay. -/
theorem State.Fronted.stamped {s p : State} {f : Nat} (hf : f < 384) (h : s.Fronted f p) (c : Bool) (stamp : Nat) :
    let q := if c then p.putStamp (txA f 0) stamp else p
    q.txs = p.txs ∧ State.SameReverse f s q ∧
      (s.sundialRuns = true → c = true → q.nat (txA f 0x718) = (s.nat (txA f 0x718) + 1) % 2 ^ 32) := by
  obtain ⟨hseq, _, hsun⟩ := h.stamp_reads hf
  have hbase : txA f 0x718 = txA f 0 + 0x718 := by unfold txA; split <;> omega
  cases c with
  | true =>
    refine ⟨(p.putStamp_quiet _ _).txs, h.sameReverse hf fun a ha => p.rd_putStamp_ne stamp ha, fun hrun _ => ?_⟩
    rw [← hseq, hbase]
    exact State.nat_putStamp_seq (hsun.trans hrun) _ _
  | false => exact ⟨rfl, h.sameReverse hf fun _ _ => rfl, fun _ hc => absurd hc (by decide)⟩

/-- What a frame of framer `f` brings (R64, R177, R180). -/
structure State.FrameEffect (s : State) (f : Nat) (line1 : Bool) (t : State) : Prop where
  timing : (t.tx f).timing = s.rd (txA f 0x300)
  onDial0 : (t.tx f).onDial0 = ((s.tx f).onDial0 && (t.tx f).timing.getLsbD 0)
  group : s.txFmt f = 6 → ∀ j, j < 4 → (t.tx (f + j)).timing = s.rd (txA (f + j) 0x300)
  sdh : famOf (s.txFmt f) = 1 → (t.tx f).traceIdx = ((s.tx f).traceIdx + 1) % 64 ∧ (t.tx f).accM1 = 0 ∧
    ((t.tx f).sent.ais = false → s.bit (txA f 0x200) 0 = false →
      (t.tx f).sent.m1.toNat = if s.reverseTakes f then min (s.tx f).accM1 255 else 0)
  otn : famOf (s.txFmt f) = 2 → (t.tx f).mfas = ((s.tx f).mfas + 1) % 256 ∧ (t.tx f).accSm = 0 ∧ (t.tx f).accPm = 0 ∧
    (s.bit (txA f 0x200) 2 = false → s.rxAct f [20] = false →
      (t.tx f).sent.smBei.toNat = if s.reverseTakes f then min (s.tx f).accSm 8 else 0)
  stamp : s.sundialRuns = true → s.prbsSel (srdTx f) = 0 → (famOf (s.txFmt f) ≠ 3 ∨ line1 = true) →
    t.nat (txA f 0x718) = (s.nat (txA f 0x718) + 1) % 2 ^ 32

/-- TRANSMIT_FRAME has that effect: the parts before the frame fix the timing and the stamp, the frame the rest. -/
theorem State.transmit_effect (s : State) {f : Nat} (hf : f < 384) (x : TxIn) : s.FrameEffect f x.line1 (s.transmit f x) := by
  obtain ⟨p, rep, forced, stamp, hp, heq⟩ := s.transmit_eq f x
  obtain ⟨r, id, hown⟩ := hp.own
  obtain ⟨_, hsel, _⟩ := hp.stamp_reads hf
  rw [heq]
  generalize hc : ((famOf (s.txFmt f) != 3 || x.line1) && p.prbsSel (srdTx f) == 0) = c
  obtain ⟨htxs, hrev, hseq⟩ := hp.stamped hf c stamp
  generalize (if c = true then p.putStamp (txA f 0) stamp else p) = q at htxs hrev hseq ⊢
  obtain ⟨hsent, hsdh, hotn⟩ := q.sendFrame_eq hf (famOf (s.txFmt f)) forced rep
  have hq : q.tx f = { s.timed f with replacing := r, sdiId := id } := (State.tx_congr htxs f).trans hown
  have htiming : ((q.sendFrame f (famOf (s.txFmt f)) forced rep).tx f).timing = s.rd (txA f 0x300) :=
    hsent.timing.trans (by rw [hq]; rfl)
  rw [hq, hrev.takes, State.bit_congr hrev.source] at hsdh
  rw [hq, hrev.takes, State.bit_congr hrev.source, hrev.rxAct] at hotn
  refine ⟨htiming, ?_, fun h6 j hj => ?_, hsdh, hotn, fun hrun hprbs hline => ?_⟩
  · rw [hsent.onDial0, htiming, hq]; rfl
  · by_cases hj0 : f + j = f
    · rw [hj0]; exact htiming
    · rw [hsent.others _ hj0, State.tx_congr htxs]
      exact hp.lanes _ (State.mem_lanesOf_group h6 hj)
  · rw [State.nat_congr hsent.seq]
    exact hseq hrun (by rw [← hc, hsel, hprbs]; simpa using hline)

theorem transmitFrame_completes {s : State} {f : Chan} (x : TxIn) (hr : s.txRuns f.val = true) (h0 : s.txFmt f.val ≠ 0)
    (h6 : s.txFmt f.val ≠ 6 ∨ f.val % 4 = 0) : completes (.transmitFrame f x) s (s.FrameEffect f.val x.line1) := by
  have hsends : execTransmitFrame f x s = done s (s.transmit f.val x) := by
    unfold execTransmitFrame
    exact congrArg (done s) (if_pos (by simpa [hr, h0] using h6))
  refine completes_of_done ((exec_transmitFrame f x s).trans hsends) ?_
  obtain ⟨h1, h2, h3, h4, h5, h7⟩ := s.transmit_effect f.isLt x
  exact ⟨h1, h2, h3, h4, h5, h7⟩

end Sys2Proof.Machine
end

section
/-! Commits of Trellis: GO, and an evaluation that finds a fault (R96, R97). -/

namespace Sys2Proof.Machine

open Sys2Proof.Cert
open State (Within)

theorem exec_trlCommit (v : Word) (s : State) : exec (.trlCommit v) s = execTrlCommit v s := rfl
theorem exec_commitEvaluation (s : State) : exec .commitEvaluation s = execCommitEvaluation s := rfl

/-! ### GO (R96, R97) -/

/-- A GO that reaches Trellis acts once the access is counted. -/
theorem execTrlCommit_acts {s : State} (v : Word) (h : hostAt s (trlA 0x100)) :
    execTrlCommit v s = done s ((s.tallyHif 3 1).trlGo v.toNat) := by
  obtain ⟨hreach, hlow, hin⟩ := h
  rw [execTrlCommit, State.hostTo_acts _ _ hreach hlow hin]

theorem go_odd {v : Word} (h : v.getLsbD 0 = true) : v.toNat % 2 ≠ 0 := by
  rw [BitVec.getLsbD, Nat.testBit_zero, decide_eq_true_eq] at h
  omega

/-- The access is counted: Trellis reads as before. -/
theorem State.rd_counted_trl (s : State) {o : Nat} : (s.tallyHif 3 1).rd (trlA o) = s.rd (trlA o) := by
  refine s.rd_tallyHif_ne 3 1 ?_
  unfold countReg reportReg trlA invA srcA curA
  omega

/-- GO sets BUSY and takes the rows. -/
theorem State.trlGo_starts {s : State} {v : Nat} (hv : v % 2 ≠ 0) (h : s.bit (trlA 0x104) 4 = false) : let t := s.trlGo v
    t.bit (trlA 0x104) 4 = true ∧ t.commitRows = BitVec.ofNat 16 (bitsOf v 27 16) ∧ keeps [.commitRows] s t ∧
      regsBut (fun r => r = trlA 0x104) s t := by
  have ht : s.trlGo v = (s.setBit (trlA 0x104) 4 true).setCommitRows (BitVec.ofNat 16 (bitsOf v 27 16)) := by
    simp [State.trlGo, hv, h]
  have hb := s.bit_setBit_same (a := trlA 0x104) true (show 4 < 32 by omega)
  have hr : regsBut (fun r => r = trlA 0x104) s (s.setBit (trlA 0x104) 4 true) := fun a ha => s.rd_setBit_ne 4 true ha
  have hk := (s.setBit_quiet (trlA 0x104) 4 true).keeps [.commitRows]
  rw [ht]
  generalize s.setBit (trlA 0x104) 4 true = u at hb hr hk ⊢
  exact ⟨hb, rfl, keeps_trans hk (keeps_of_sameBut (setCommitRows_sameBut _ _)), hr⟩

/-- A GO while BUSY is refused with STATUS 2; the commit in progress goes on. -/
theorem State.trlGo_busy {s : State} {v : Nat} (hv : v % 2 ≠ 0) (h : s.bit (trlA 0x104) 4 = true) : let t := s.trlGo v
    t.fld (trlA 0x104) 3 0 = 2 ∧ t.bit (trlA 0x104) 4 = true ∧ keeps [] s t ∧ regsBut (fun r => r = trlA 0x104) s t := by
  have ht : s.trlGo v = (s.setFld (trlA 0x104) 3 0 2).setFld (trlA 0x104) 31 16 0 := by simp [State.trlGo, hv, h]
  rw [ht]
  refine ⟨?_, ?_, ?_, fun a ha => ?_⟩
  · rw [State.fld_setFld_below _ _ (by omega) (by omega) (by omega), State.fld_setFld_same _ _ (by omega) (by omega)]
    rfl
  · rw [← h, State.bit, State.bit, State.fld_setFld_below _ _ (by omega) (by omega) (by omega),
      State.fld_setFld_above _ _ (by omega) (by omega) (by omega)]
  · exact ((s.setFld_quiet _ _ _ _).trans (State.setFld_quiet _ _ _ _ _)).keeps []
  · rw [State.rd_setFld_ne _ _ _ _ ha, State.rd_setFld_ne _ _ _ _ ha]

/-- What the counted access leaves besides. -/
theorem regsBut_counted {s t : State} (h : regsBut (fun r => r = trlA 0x104) (s.tallyHif 3 1) t) :
    regsBut (fun r => counting r ∨ r = trlA 0x104) s t := fun a ha => by
  rw [not_or] at ha
  exact (h a ha.2).trans (s.rd_tallyHif_ne 3 1 ha.1)

theorem trlCommit_starts {s : State} {v : Word} (h : hostAt s (trlA 0x100)) (hv : v.getLsbD 0 = true)
    (hb : s.bit (trlA 0x104) 4 = false) :
    completes (.trlCommit v) s (fun t => t.bit (trlA 0x104) 4 = true ∧
      t.commitRows = BitVec.ofNat 16 (bitsOf v.toNat 27 16) ∧ keeps [.commitRows] s t ∧
      regsBut (fun r => counting r ∨ r = trlA 0x104) s t) := by
  refine completes_of_done ((exec_trlCommit v s).trans (execTrlCommit_acts v h)) ?_
  obtain ⟨hbit, hrows, hkeeps, hregs⟩ := State.trlGo_starts (go_odd hv) ((State.bit_congr s.rd_counted_trl 4).trans hb)
  have hk := keeps_trans ((s.tallyHif_quiet 3 1).keeps _) hkeeps
  have hr := regsBut_counted hregs
  generalize (s.tallyHif 3 1).trlGo v.toNat = t at hbit hrows hk hr ⊢
  exact ⟨hbit, hrows, sameBut_done hk, hr⟩

theorem trlCommit_busy {s : State} {v : Word} (h : hostAt s (trlA 0x100)) (hv : v.getLsbD 0 = true)
    (hb : s.bit (trlA 0x104) 4 = true) :
    completes (.trlCommit v) s (fun t => t.fld (trlA 0x104) 3 0 = 2 ∧ t.bit (trlA 0x104) 4 = true ∧ keeps [] s t ∧
      regsBut (fun r => counting r ∨ r = trlA 0x104) s t) := by
  refine completes_of_done ((exec_trlCommit v s).trans (execTrlCommit_acts v h)) ?_
  obtain ⟨hstatus, hbit, hkeeps, hregs⟩ := State.trlGo_busy (go_odd hv) ((State.bit_congr s.rd_counted_trl 4).trans hb)
  have hk := keeps_trans ((s.tallyHif_quiet 3 1).keeps _) hkeeps
  have hr := regsBut_counted hregs
  generalize (s.tallyHif 3 1).trlGo v.toNat = t at hstatus hbit hk hr ⊢
  exact ⟨hstatus, hbit, sameBut_done hk, hr⟩

/-! ### The end of a commit (R97) -/

theorem blockOf_trlEvents : blockOf (trlA 0x108) = some (.trl, 0, trlA 0) := by decide

theorem not_reporting_trl {o : Nat} : ¬ reporting (trlA o) := by
  unfold reporting counting invA srcA curA trlA
  omega

/-- The result, the event and the report that end a commit: TRL_STATUS and TRL_EVENTS hold them, and besides only SUMMARY of
Trellis and what reports change. -/
theorem State.commitEnd (s : State) (b kind detail : Nat) (hb : b < 24) :
    let t := (s.event (trlA 0x108) b).raise trlSrc kind false detail
    t.bit (trlA 0x108) b = true ∧ s.Quiet t ∧
      regsBut (fun r => reporting r ∨ r = trlA 0x108 ∨ r = trlA 8) s t := by
  intro t
  have hne : ∀ k n base, blockOf (trlA 0x108) = some (k, n, base) → trlA 0x108 ≠ base + 8 := by
    intro k n base h
    rw [blockOf_trlEvents] at h
    cases h
    decide
  have hrep : ∀ a, ¬ reporting a → t.rd a = (s.event (trlA 0x108) b).rd a := fun a ha =>
    State.rd_raiseAs_ne _ _ _ _ _ fun e => ha (reportReg_reporting (by decide) e)
  refine ⟨?_, (s.event_quiet _ _).trans (State.raiseAs_quiet _ _ _ _ _ _), fun a ha => ?_⟩
  · rw [State.bit_congr (hrep _ not_reporting_trl)]
    exact (s.bit_event_same hb hne).1
  · simp only [not_or] at ha
    obtain ⟨hr, h108, h8⟩ := ha
    refine (hrep a hr).trans (s.rd_event_ne b h108 fun k n base h => ?_)
    rw [blockOf_trlEvents] at h
    cases h
    exact h8

/-- The evaluation runs while BUSY stands. -/
theorem execCommitEvaluation_runs {s : State} (hc : s.coreRuns = true) (hi : s.inReset (trlA 0) = false)
    (hb : s.bit (trlA 0x104) 4 = true) : execCommitEvaluation s = done s s.commitNow := by
  rw [execCommitEvaluation, if_pos (by simp [hc, hi, hb])]

/-- A commit that a check refuses: its STATUS and INDEX, the event and the report. -/
theorem commitEvaluation_refused {s : State} (hc : s.coreRuns = true) (hi : s.inReset (trlA 0) = false)
    (hb : s.bit (trlA 0x104) 4 = true) {code i : Nat} (hf : (s.takeStaged s.commitRows.toNat).commitFault = some (code, i)) :
    completes .commitEvaluation s (fun t => t.nat (trlA 0x104) = (code + i % 65536 * 65536) % 2 ^ 32 ∧
      t.bit (trlA 0x108) 1 = true ∧ keeps [] s t ∧
      regsBut (fun r => reporting r ∨ r = trlA 0x104 ∨ r = trlA 0x108 ∨ r = trlA 8) s t) := by
  refine completes_of_done ((exec_commitEvaluation s).trans (execCommitEvaluation_runs hc hi hb)) ?_
  have hnow : s.commitNow = ((s.trlResult code i).event (trlA 0x108) 1).raise trlSrc 0x31 false (code * 65536 + i) := by
    simp only [State.commitNow, hf]
  obtain ⟨hev, hq, hr⟩ := (s.trlResult code i).commitEnd 1 0x31 (code * 65536 + i) (by omega)
  rw [← hnow] at hev hq hr
  have hstatus : s.commitNow.nat (trlA 0x104) = (code + i % 65536 * 65536) % 2 ^ 32 := by
    rw [State.nat_congr (hr _ (by simp only [not_reporting_trl, false_or]; decide))]
    exact s.nat_wrN_same _ _
  have hk := ((s.wrN_quiet _ _).trans hq).keeps []
  have hregs : regsBut (fun r => reporting r ∨ r = trlA 0x104 ∨ r = trlA 0x108 ∨ r = trlA 8) s s.commitNow := fun a ha => by
    simp only [not_or] at ha
    obtain ⟨h1, h2, h3, h4⟩ := ha
    exact (hr a (by simp [h1, h3, h4])).trans (s.rd_wrN_ne _ h2)
  generalize s.commitNow = t at hstatus hev hk hregs ⊢
  exact ⟨hstatus, hev, sameBut_done hk, hregs⟩

end Sys2Proof.Machine
end

section
/-! SUPPORT. What an accepted commit brings in MAP, the Cellar and the furrows writes no register of Trellis (R96 to R98,
R106, R110, R111, R120, R124). -/

namespace Sys2Proof.Machine

open Sys2Proof.Cert
open State (Within)

/-- No register of Trellis reads otherwise. -/
abbrev State.KeepsTrellis (s t : State) : Prop := s.Within offTrellis t

theorem State.KeepsTrellis.refl (s : State) : s.KeepsTrellis s := Within.refl _ s

theorem mapA_offTrellis {r o : Nat} (hr : r < 12) (ho : o < 0x10000) : offTrellis.has (mapA r o) :=
  .inl (by unfold mapA; omega)

theorem tribA_offTrellis {r t o : Nat} (hr : r < 12) (ht : t < 128) (ho : o < 0x100) : offTrellis.has (tribA r t o) :=
  mapA_offTrellis hr (by omega)

theorem tmA_offTrellis {r t o : Nat} (hr : r < 12) (ht : t < 128) (ho : o < 0x40) : offTrellis.has (tmA r t + o) :=
  .inl (by unfold tmA mapA; omega)

theorem furA_offTrellis (F o : Nat) : offTrellis.has (furA F o) := .inr (by unfold furA; omega)
theorem celA_offTrellis (o : Nat) : offTrellis.has (celA o) := .inr (by unfold celA; omega)
theorem pairA_offTrellis (i o : Nat) : offTrellis.has (pairA i o) := .inr (by unfold pairA; omega)
theorem slipA_offTrellis (b o : Nat) : offTrellis.has (slipA b o) := .inr (by unfold slipA; omega)

/-- A report from one of the sources. -/
theorem State.Within.reports {A : Area} {s t : State} (h : s.Within A t) {src : Nat} (hs : src < 1024) (kind : Nat)
    (clear : Bool) (detail : Nat) : s.Within A (t.raise src kind clear detail) := h.raise (fun _ => A.report hs) _ _ _

/-! ### Items of a row's furrow (R246 to R251) -/

theorem State.showFur_keepsTrellis (s : State) (F : Nat) : s.KeepsTrellis (s.showFur F) := by
  have hF := furA_offTrellis F
  unfold State.showFur
  extract_lets n s1
  have h1 : s.KeepsTrellis s1 := ((KeepsTrellis.refl s).setFld (hF _) _ _ _).setBit (hF _) _ _
  exact h1.iteThen ((KeepsTrellis.refl s1).setFld (hF _) _ _ _)

theorem State.tallyFur_keepsTrellis (s : State) (F ev n : Nat) : s.KeepsTrellis (s.tallyFur F ev n) :=
  (KeepsTrellis.refl s).iteThen ((KeepsTrellis.refl s).tally (by omega) _ _ _)

theorem State.notice_keepsTrellis (s : State) (F : Nat) : s.KeepsTrellis (s.notice F) := by
  have hF := furA_offTrellis F
  exact ((((KeepsTrellis.refl s).setBit (hF _) _ _).inc (hF _)).event (hF _) _).trans (State.tallyFur_keepsTrellis _ _ _ _)

theorem State.dropItem_keepsTrellis (s : State) {F : Nat} (hf : F < 36) (prod len : Nat) :
    s.KeepsTrellis (s.dropItem F prod len) := by
  have hF := furA_offTrellis F
  have hs : furSrc F < 1024 := by rw [furSrc, if_pos hf]; omega
  unfold State.dropItem
  extract_lets f s1 f1
  have h1 : s.KeepsTrellis s1 := ((((KeepsTrellis.refl s).inc (hF _)).addTo (hF _) _).event (hF _) _).trans
    (State.tallyFur_keepsTrellis _ _ _ _)
  exact (h1.setFur F f1).raiseLim hs _ _ _ _ _

theorem State.publish_keepsTrellis (s : State) {F : Nat} (hf : F < 36) (prod kind : Nat) (stamped : Bool) (words : List Half) :
    s.KeepsTrellis (s.publish F prod kind stamped words).2 := by
  unfold State.publish
  extract_lets f len fl9 fl8 hdr item before level f1 s1
  have h1 : s.KeepsTrellis s1 := ((((KeepsTrellis.refl s).setFur F f1).trans (State.showFur_keepsTrellis _ F)).inc
    (furA_offTrellis F _) |>.trans (State.tallyFur_keepsTrellis _ _ _ _)).trans (State.tallyFur_keepsTrellis _ _ _ _)
  split
  · exact s.dropItem_keepsTrellis hf prod len
  · exact h1.iteThen (s1.notice_keepsTrellis F)

/-! ### Defects of a tributary (R68, R103) -/

theorem mapSrc_lt {r : Nat} (hr : r < 12) : mapSrc r < 1024 := by unfold mapSrc; omega

theorem State.tribEvent_keepsTrellis (s : State) {r t : Nat} (hr : r < 12) (ht : t < 128) (b : Nat) :
    s.KeepsTrellis (s.tribEvent r t b) := by
  unfold State.tribEvent
  extract_lets a
  have ha : offTrellis.has a := tribA_offTrellis hr ht (by omega)
  split
  · exact (KeepsTrellis.refl s).event ha b
  · have h := (KeepsTrellis.refl s).setFld ha 31 24 (s.fld a 31 24 + 1)
    refine h.quiet (State.summary_quiet _ _ _) fun c hc => State.rd_summary_ne _ _ fun e => hc ?_
    rw [e]
    exact .inl (by unfold mapA; omega)

theorem State.tribDefects_keepsTrellis (s : State) {r t : Nat} (hr : r < 12) (ht : t < 128) (old : Nat × Nat × Nat) :
    s.KeepsTrellis (s.tribDefects r t old) := by
  have hT : ∀ {o}, o < 0x100 → offTrellis.has (tribA r t o) := tribA_offTrellis hr ht
  unfold State.tribDefects
  extract_lets x raw
  split
  next act p _ =>
  extract_lets s1 s2 s3 s4 y s5
  have h1 : s.KeepsTrellis s1 := ((KeepsTrellis.refl s).setFld (hT (by omega)) _ _ _).setFld (hT (by omega)) _ _ _
  have h2 : s.KeepsTrellis s2 := h1.foldl fun u e _ =>
    (KeepsTrellis.refl u).iteElse ((KeepsTrellis.refl u).reports (mapSrc_lt hr) _ _ _)
  have h3 : s.KeepsTrellis s3 := h2.foldl fun u b _ =>
    (KeepsTrellis.refl u).iteElse ((KeepsTrellis.refl u).reports (mapSrc_lt hr) _ _ _)
  have h4 : s.KeepsTrellis s4 := h3.foldl fun u b _ =>
    (KeepsTrellis.refl u).iteElse (u.tribEvent_keepsTrellis hr ht b)
  have h5 : s.KeepsTrellis s5 := h4.setTrib r t _
  exact h5.iteElse (s5.publish_keepsTrellis (by omega) _ _ _ _)

/-- A change of a tributary, with the defect changes that it brings. -/
theorem State.withTrib_keepsTrellis (s : State) {r t : Nat} (hr : r < 12) (ht : t < 128) {g : State → State}
    (hg : s.KeepsTrellis (g s)) : s.KeepsTrellis (s.withTrib r t g) := hg.trans (State.tribDefects_keepsTrellis _ hr ht _)

theorem tribAt_lt {a r t : Nat} (h : tribAt a = some (r, t)) : r < 12 ∧ t < 80 := by
  unfold tribAt at h
  extract_lets o at h
  split at h
  · cases h
    omega
  · cases h

theorem State.activeTribs_lt {s : State} {e : Nat × Nat} (h : e ∈ s.activeTribs) : e.1 < 12 ∧ e.2 < 80 := by
  obtain ⟨a, _, ha⟩ := List.mem_filterMap.1 h
  exact tribAt_lt ha

theorem State.allFollow_keepsTrellis (s : State) : s.KeepsTrellis s.allFollow :=
  (KeepsTrellis.refl s).foldl fun u e he => by
    obtain ⟨hr, ht⟩ := State.activeTribs_lt (List.mem_of_mem_filter he)
    exact u.withTrib_keepsTrellis hr (by omega) (KeepsTrellis.refl u)

/-! ### Sinks and tributaries that start anew (R98) -/

theorem State.restartSinks_keepsTrellis (s t : State) : t.KeepsTrellis (s.restartSinks t) := by
  unfold State.restartSinks
  extract_lets sinks u
  have hu : t.KeepsTrellis u := (KeepsTrellis.refl t).setSinkHold _
  exact hu.foldl fun v e _ => (KeepsTrellis.refl v).iteElse ((KeepsTrellis.refl v).setHold _ _ _)

theorem State.tribRestart_keepsTrellis (s : State) {r t : Nat} (hr : r < 12) (ht : t < 128) :
    s.KeepsTrellis (s.tribRestart r t) := by
  unfold State.tribRestart
  extract_lets x u o mine
  have hu : s.KeepsTrellis u := s.withTrib_keepsTrellis hr ht
    (((KeepsTrellis.refl s).setFld (tribA_offTrellis hr ht (o := 0) (by omega)) _ _ _).setTrib r t _)
  exact hu.setMapOh r _

theorem State.restartTribs_keepsTrellis (s t : State) (rows : Nat) : t.KeepsTrellis (s.restartTribs t rows) :=
  (KeepsTrellis.refl t).foldl fun u r hr => (KeepsTrellis.refl u).iteThen ((KeepsTrellis.refl u).foldl fun v n hn =>
    (KeepsTrellis.refl v).iteThen (v.tribRestart_keepsTrellis (List.mem_range.1 hr) (by have := List.mem_range.1 hn; omega)))

/-! ### Plots, pairs, slip buffers, deskew (R110, R111, R120, R124) -/

theorem State.tryClaim_keepsTrellis (s : State) (c : Nat × Nat × Nat) : s.KeepsTrellis (s.tryClaim c) := by
  unfold State.tryClaim
  refine (KeepsTrellis.refl s).iteElse ?_
  split
  · exact (KeepsTrellis.refl s).setGrants _
  · exact ((KeepsTrellis.refl s).event (celA_offTrellis _) _).reports (by decide) _ _ _

theorem State.showGrants_keepsTrellis (s : State) : s.KeepsTrellis s.showGrants := by
  unfold State.showGrants
  extract_lets s1 s2 s3
  have h1 : s.KeepsTrellis s1 := (KeepsTrellis.refl s).foldl fun u i _ => (KeepsTrellis.refl u).setBit (pairA_offTrellis i _) _ _
  have h2 : s.KeepsTrellis s2 := h1.foldl fun u r _ =>
    ((KeepsTrellis.refl u).setFld (celA_offTrellis _) _ _ _).setBit (celA_offTrellis _) _ _
  have h3 : s.KeepsTrellis s3 := h2.foldl fun u b _ => (KeepsTrellis.refl u).setBit (slipA_offTrellis b _) _ _
  exact h3.setFld (celA_offTrellis _) _ _ _

theorem State.grantPlots_keepsTrellis (s : State) : s.KeepsTrellis s.grantPlots := by
  unfold State.grantPlots
  extract_lets cs u
  have hu : s.KeepsTrellis u := (KeepsTrellis.refl s).setGrants _
  exact (hu.foldl fun v c _ => v.tryClaim_keepsTrellis c).trans (State.showGrants_keepsTrellis _)

theorem State.mEvent_keepsTrellis (s : State) (i b : Nat) : s.KeepsTrellis (s.mEvent i b) :=
  ((KeepsTrellis.refl s).event (pairA_offTrellis i _) _).event (celA_offTrellis _) _

theorem State.clearNoMatch_keepsTrellis (s : State) (i : Nat) : s.KeepsTrellis (s.clearNoMatch i) :=
  (KeepsTrellis.refl s).iteThen (((KeepsTrellis.refl s).setBit (pairA_offTrellis i _) _ _).reports (by decide) _ _ _)

theorem State.mUnalign_keepsTrellis (s : State) (i : Nat) (counted : Bool) : s.KeepsTrellis (s.mUnalign i counted) := by
  have hp := pairA_offTrellis i
  unfold State.mUnalign
  extract_lets a s1 s2
  have h1 : s.KeepsTrellis s1 := (((KeepsTrellis.refl s).setBit (hp _) _ _).setBit (hp _) _ _).setFld (hp _) _ _ _
  have h2 : s.KeepsTrellis s2 := h1.iteThen ((KeepsTrellis.refl s1).inc (hp _))
  exact (KeepsTrellis.refl s).iteThen ((h2.trans (s2.mEvent_keepsTrellis i 1)).reports (by decide) _ _ _)

theorem State.mRestart_keepsTrellis (s : State) (i : Nat) : s.KeepsTrellis (s.mRestart i) := by
  have hp := pairA_offTrellis i
  unfold State.mRestart
  extract_lets s1 granted s2
  have h1 : s.KeepsTrellis s1 := (s.mUnalign_keepsTrellis i false).trans (State.clearNoMatch_keepsTrellis _ i)
  exact (((h1.wrN (hp _) _).setBit (hp _) _ _).wrN (hp _) _).setPair i _

theorem State.restartPairs_keepsTrellis (s t : State) (rows : Nat) : t.KeepsTrellis (s.restartPairs t rows) :=
  (KeepsTrellis.refl t).foldl fun u i _ => by
    extract_lets named changed fresh v
    have hv : u.KeepsTrellis v := (KeepsTrellis.refl u).iteThen (u.mRestart_keepsTrellis i)
    exact hv.iteThen ((KeepsTrellis.refl v).reports (by decide) _ _ _)

theorem State.showSlips_keepsTrellis (s t : State) : t.KeepsTrellis (s.showSlips t) :=
  (KeepsTrellis.refl t).foldl fun u b _ => by
    extract_lets k fresh v
    have hv : u.KeepsTrellis v := (KeepsTrellis.refl u).setBit (slipA_offTrellis b _) _ _
    exact hv.iteThen ((KeepsTrellis.refl v).setFld (slipA_offTrellis b _) _ _ _)

/-- The head of a tributary's group is one of 128 numbers (R100). -/
theorem State.headOf_lt {s : State} {r t h : Nat} (ht : t < 80) (e : s.headOf r t = some h) : h < 128 := by
  unfold State.headOf at e
  split at e
  · cases e; omega
  · cases e; exact bitsOf_lt _ _ _
  · cases e

theorem State.setLoa_keepsTrellis (s : State) {r h : Nat} (hr : r < 12) (hh : h < 128) (on : Bool) :
    s.KeepsTrellis (s.setLoa r h on) :=
  s.withTrib_keepsTrellis hr hh
    (((KeepsTrellis.refl s).setBit (tribA_offTrellis hr hh (by omega)) _ _).setBit (tmA_offTrellis hr hh (by omega)) _ _)

theorem State.restartDeskew_keepsTrellis (s t : State) : t.KeepsTrellis (s.restartDeskew t) :=
  (KeepsTrellis.refl t).foldl fun u r hr => (KeepsTrellis.refl u).foldl fun v n hn => by
    refine (KeepsTrellis.refl v).iteThen ?_
    split
    next h e =>
      exact ((KeepsTrellis.refl v).setTrib r h _).trans
        (State.setLoa_keepsTrellis _ (List.mem_range.1 hr) (State.headOf_lt (List.mem_range.1 hn) e) true)
    · exact KeepsTrellis.refl v

/-! ### What MAP shows (R83, R99, R106) -/

theorem State.showSizes_keepsTrellis (s : State) {r : Nat} (hr : r < 12) : s.KeepsTrellis (s.showSizes r) :=
  (KeepsTrellis.refl s).foldl fun u j hj => (KeepsTrellis.refl u).setFld
    (mapA_offTrellis hr (by have := List.mem_range.1 hj; omega)) _ _ _

theorem State.showAligned_keepsTrellis (s : State) {r : Nat} (hr : r < 12) : s.KeepsTrellis (s.showAligned r) :=
  (KeepsTrellis.refl s).foldl fun u e he => by
    obtain ⟨_, ht⟩ := State.activeTribs_lt (List.mem_of_mem_filter he)
    exact (KeepsTrellis.refl u).setBit (tmA_offTrellis hr (by omega) (by omega)) _ _

theorem State.showRows_keepsTrellis (s : State) :
    s.KeepsTrellis ((List.range 12).foldl (fun t r => ((t.showPending r).showSizes r).showAligned r) s) :=
  (KeepsTrellis.refl s).foldl fun u r hr => by
    have hr := List.mem_range.1 hr
    exact (((KeepsTrellis.refl u).setBit (mapA_offTrellis hr (by omega)) _ _).trans (State.showSizes_keepsTrellis _ hr)).trans
      (State.showAligned_keepsTrellis _ hr)

end Sys2Proof.Machine
end

section
/-! An accepted commit counts once (R96), and what O46 says is settled. -/

namespace Sys2Proof.Machine

open Sys2Proof.Cert
open State (Within)

/-! ### The tables of Trellis (R95, R107) -/

/-- A table keeps, at the keys that a filter keeps, what it held. -/
theorem Tab.get_filter_key {α : Type} (t : Tab α) (d : α) {k : Nat} (p : Nat × α → Bool) (h : ∀ v, p (k, v) = true) :
    Tab.get (t.filter p) d k = Tab.get t d k := by
  induction t with
  | nil => rfl
  | cons e rest ih =>
    obtain ⟨j, v⟩ := e
    by_cases hj : j = k
    · subst hj
      rw [List.filter_cons_of_pos (h v)]
      simp [Tab.get]
    · cases hp : p (j, v) with
      | true => rw [List.filter_cons_of_pos hp]; simp [Tab.get, hj, ih]
      | false => rw [List.filter_cons_of_neg (by simp [hp])]; simp [Tab.get, hj, ih]

/-- A copied table leaves every register outside its place. -/
theorem State.rd_copyTable_ne (s : State) {src dst a : Nat} (h : a < dst ∨ dst + 4 * trlPorts ≤ a) :
    (s.copyTable src dst).rd a = s.rd a := by
  unfold State.copyTable
  extract_lets kept
  have hk : Tab.get kept (regReset a) a = s.rd a := Tab.get_filter_key _ _ _ fun _ => by simpa using h
  have hf : ∀ l : Tab Word, ∀ t : Tab Word, Tab.get t (regReset a) a = s.rd a →
      Tab.get (l.foldl (fun t e => if src ≤ e.1 ∧ e.1 < src + 4 * trlPorts then Tab.set t 0 (e.1 - src + dst) e.2 else t) t)
        (regReset a) a = s.rd a := by
    intro l
    induction l with
    | nil => exact fun _ ht => ht
    | cons e rest ih =>
      intro t ht
      refine ih _ ?_
      dsimp only
      split
      · rw [Tab.get_set_ne _ _ _ _ (by omega), ht]
      · exact ht
  exact hf s.regs kept hk

theorem State.rd_showUsed_ne (s : State) {a : Nat} (h : ∀ r, r < 12 → a ≠ trlA (0x140 + 4 * r)) : s.showUsed.rd a = s.rd a := by
  unfold State.showUsed
  extract_lets ins outs
  refine foldl_keeps (fun u => u.rd a = s.rd a) _ _ (fun u r hr hu => ?_) s rfl
  have hne := h r (List.mem_range.1 hr)
  rw [State.rd_setFld_ne _ _ _ _ hne, State.rd_setFld_ne _ _ _ _ hne, hu]

/-! ### An accepted commit (R96) -/

/-- Steps 3 and 4 up to the result leave COMMITS, the count of accepted commits. -/
theorem State.acceptCommit_ends (s t : State) (rows : Nat) : ∃ u : State, u.rd (trlA 0x10C) = t.rd (trlA 0x10C) ∧
    s.acceptCommit t rows =
      (((u.trlResult 1 0).inc (trlA 0x10C)).event (trlA 0x108) 0).raise trlSrc 0x30 false rows := by
  unfold State.acceptCommit
  extract_lets t1 t2 t3 t4 t5 t6 t7
  refine ⟨t6, ?_, rfl⟩
  have htables : t1.rd (trlA 0x10C) = t.rd (trlA 0x10C) := by
    unfold t1
    rw [State.rd_showUsed_ne _ (fun r _ => by unfold trlA; omega),
      State.rd_copyTable_ne _ (.inl (by decide)), State.rd_copyTable_ne _ (.inl (by decide))]
  have h2 : t1.KeepsTrellis t2 := s.restartSinks_keepsTrellis t1
  have h3 : t1.KeepsTrellis t3 := h2.trans (s.restartTribs_keepsTrellis t2 rows)
  have h4 : t1.KeepsTrellis t4 := h3.trans t3.grantPlots_keepsTrellis
  have h5 : t1.KeepsTrellis t5 := ((h4.trans (s.restartPairs_keepsTrellis t4 rows)).trans (s.showSlips_keepsTrellis _)).trans
    (s.restartDeskew_keepsTrellis _)
  have h6 : t1.KeepsTrellis t6 := (h5.trans t5.allFollow_keepsTrellis).trans (State.showRows_keepsTrellis _)
  exact (h6.regs _ (by show ¬ (trlA 0x10C < 0x700000 ∨ 0x800000 ≤ trlA 0x10C); decide)).trans htables

/-- An accepted commit: STATUS 1, one more in COMMITS, and the event. -/
theorem commitEvaluation_accepted {s : State} (hc : s.coreRuns = true) (hi : s.inReset (trlA 0) = false)
    (hb : s.bit (trlA 0x104) 4 = true) (hf : (s.takeStaged s.commitRows.toNat).commitFault = none) :
    completes .commitEvaluation s (fun t => t.nat (trlA 0x104) = 1 ∧
      t.nat (trlA 0x10C) = (s.nat (trlA 0x10C) + 1) % 2 ^ 32 ∧ t.bit (trlA 0x108) 0 = true) := by
  refine completes_of_done ((exec_commitEvaluation s).trans (execCommitEvaluation_runs hc hi hb)) ?_
  obtain ⟨u, hu, heq⟩ := s.acceptCommit_ends (s.takeStaged s.commitRows.toNat) s.commitRows.toNat
  have hnow : s.commitNow = (((u.trlResult 1 0).inc (trlA 0x10C)).event (trlA 0x108) 0).raise trlSrc 0x30 false
      s.commitRows.toNat := by
    simp only [State.commitNow, hf, heq]
  obtain ⟨hev, _, hr⟩ := ((u.trlResult 1 0).inc (trlA 0x10C)).commitEnd 0 0x30 s.commitRows.toNat (by omega)
  rw [← hnow] at hev hr
  have hstatus : s.commitNow.nat (trlA 0x104) = 1 := by
    rw [State.nat_congr (hr _ (by simp only [not_reporting_trl, false_or]; decide)),
      State.nat_congr (State.rd_inc_ne _ (by decide))]
    exact u.nat_wrN_same _ _
  have hresult : (u.trlResult 1 0).nat (trlA 0x10C) = (s.takeStaged s.commitRows.toNat).nat (trlA 0x10C) :=
    (State.nat_congr (u.rd_wrN_ne _ (by decide))).trans (State.nat_congr hu)
  have hcount : s.commitNow.nat (trlA 0x10C) = (s.nat (trlA 0x10C) + 1) % 2 ^ 32 := by
    rw [State.nat_congr (hr _ (by simp only [not_reporting_trl, false_or]; decide)), State.nat_inc_same, hresult]
    rfl
  generalize s.commitNow = t at hstatus hcount hev ⊢
  exact ⟨hstatus, hcount, hev⟩

/-- Settles O46, command by command: the effect of a frame, the lane's moves, GO, and the two ends of an evaluation. -/
theorem transmitAndCommit : Obligations.TransmitAndCommit := by
  unfold Obligations.TransmitAndCommit
  intro s
  refine ⟨fun f x hr h0 h6 => ?_, fun f hr => ⟨fun h1 hl ht => ?_, fun h0 h1 hl => ?_, fun h0 h1 hd hl => ?_⟩,
    fun v h hv => ⟨fun hb => ?_, fun hb => ?_⟩, fun hc hi hb => ⟨fun code i hf => ?_, fun hf => ?_⟩⟩
  · obtain ⟨t, ht, heff⟩ := transmitFrame_completes x hr h0 h6
    exact ⟨t, ht, heff.timing, heff.onDial0, heff.group, ⟨heff.sdh, heff.otn⟩, heff.stamp⟩
  · exact loopTimingHoldExpiry_due hr h1 hl ht
  · exact loopTiming_away hr h0 h1 hl
  · exact loopTiming_back hr h0 h1 hd hl
  · exact trlCommit_starts h hv hb
  · exact trlCommit_busy h hv hb
  · exact commitEvaluation_refused hc hi hb hf
  · exact commitEvaluation_accepted hc hi hb hf

end Sys2Proof.Machine
end

section
/-! SUPPORT. What a command spares: registers outside an area, what is looked at of each receive framer, and the time. -/

namespace Sys2Proof.Machine

open Sys2Proof.Cert
open State (Within)

/-! ### Areas around the receive framers (R417) -/

theorem regionIn_aligned {a n base : Nat} {k : Blk} {l : List (Blk × Nat × Nat × Nat)}
    (hl : ∀ e ∈ l, e.2.1 % 0x1000 = 0 ∧ e.2.2.2 % 0x1000 = 0) (h : regionIn a l = some (k, n, base)) : base % 0x1000 = 0 := by
  induction l with
  | nil => cases h
  | cons e rest ih =>
    obtain ⟨b, lo, m, stride⟩ := e
    obtain ⟨hlo, hstride⟩ := hl _ List.mem_cons_self
    unfold regionIn at h
    split at h
    · cases h
      rw [Nat.add_mod, Nat.mul_mod]
      dsimp only at hlo hstride
      simp [hlo, hstride]
    · exact ih (fun e he => hl e (List.mem_cons_of_mem _ he)) h

/-- Every block begins at a multiple of 0x1000. -/
theorem blockOf_aligned {a n base : Nat} {k : Blk} (h : blockOf a = some (k, n, base)) : base % 0x1000 = 0 :=
  regionIn_aligned (by decide) h

/-- Everything but the receive framers. -/
def offRx : Area where
  has a := a < 0x200000 ∨ 0x300000 ≤ a ∧ a < 0x400000 ∨ 0x500000 ≤ a
  low a _ h := by omega
  summary {a n base k} h hb := by
    obtain ⟨e, he, ⟨h1, h2⟩, h3, h4⟩ := blockOf_same hb
    fin_cases he <;> dsimp only at * <;> omega

/-- Everything but the registers at the offsets `os` of each receive framer. -/
def rxBut (os : List Nat) (h8 : 8 ∉ os) : Area where
  has a := offRx.has a ∨ a % 0x1000 ∉ os
  low a h k := .inl (offRx.low a h k)
  summary {a n base k} _ hb := .inr (by rw [Nat.add_mod, blockOf_aligned hb]; exact h8)

theorem rxA_mod {f o : Nat} (ho : o < 0x1000) : rxA f o % 0x1000 = o := by unfold rxA; split <;> omega

theorem rxA_add (f o : Nat) : rxA f 0 + o = rxA f o := by unfold rxA; split <;> omega

theorem rxA_rxBut {os : List Nat} {h8 : 8 ∉ os} {f o : Nat} (ho : o < 0x1000) (h : o ∉ os) : (rxBut os h8).has (rxA f o) :=
  .inr (by rwa [rxA_mod ho])

theorem not_offRx_rxA {f o : Nat} (hf : f < 384) (ho : o < 0x1000) : ¬ offRx.has (rxA f o) := by
  show ¬ (_ < _ ∨ _ ≤ _ ∧ _ < _ ∨ _ ≤ _)
  have := rxA_range hf ho
  omega

theorem not_rxBut {os : List Nat} {h8 : 8 ∉ os} {f o : Nat} (hf : f < 384) (ho : o < 0x1000) (h : o ∈ os) :
    ¬ (rxBut os h8).has (rxA f o) := by
  rintro (h' | h')
  · exact not_offRx_rxA hf ho h'
  · rw [rxA_mod ho] at h'
    exact h' h

theorem rxA_ne {f g o p : Nat} (ho : o < 0x1000) (hp : p < 0x1000) (h : o ≠ p) : rxA f o ≠ rxA g p := fun e =>
  h (by rw [← rxA_mod (f := f) ho, e, rxA_mod hp])

theorem rxA_inj {f g o : Nat} (hf : f < 384) (hg : g < 384) (h : rxA f o = rxA g o) : f = g := by
  unfold rxA at h
  split at h <;> split at h <;> omega

theorem furA_offRx (F o : Nat) : offRx.has (furA F o) := .inr (.inr (by unfold furA; omega))
theorem celA_offRx (o : Nat) : offRx.has (celA o) := .inr (.inr (by unfold celA; omega))
theorem pairA_offRx (i o : Nat) : offRx.has (pairA i o) := .inr (.inr (by unfold pairA; omega))
theorem mapA_offRx (r o : Nat) : offRx.has (mapA r o) := .inr (.inr (by unfold mapA; omega))
theorem tribA_offRx (r t o : Nat) : offRx.has (tribA r t o) := mapA_offRx r _
theorem routeA_offRx (r : Nat) : offRx.has (routeA r) := .inr (.inr (by unfold routeA; omega))
theorem srdA_offRx (n o : Nat) : offRx.has (srdA n o) := .inr (.inr (by unfold srdA; omega))
theorem sdlA_offRx {o : Nat} (ho : o < 0x80000) : offRx.has (sdlA o) := .inl (by unfold sdlA; omega)
theorem refA_offRx {r o : Nat} (hr : r < 84) (ho : o < 0x80) : offRx.has (refA r o) := .inl (by unfold refA; omega)
theorem dialA_offRx {n o : Nat} (hn : n < 16) (ho : o < 0x200) : offRx.has (dialA n o) := .inl (by unfold dialA; omega)
theorem genA_offRx {g o : Nat} (hg : g < 96) (ho : o < 0x40) : offRx.has (genA g o) := .inl (by unfold genA; omega)
theorem ttcA_offRx {n o : Nat} (hn : n < 384) (ho : o < 0x40) : offRx.has (ttcA n o) := .inl (by unfold ttcA; omega)

/-! ### What is spared -/

/-- What frames alone change of a tributary. -/
def Trib.byFrames (x : Trib) : Byte × Tab Deg := (x.pdefEff, x.deg)

/-- No register outside the area reads otherwise, of each receive framer what `φ` sees of it is as it was, and so are what
frames alone change of a tributary, the time, the blocks in reset, the clocks that stand, and since when each lane has been
free of LOS. -/
structure State.Spares {β : Type} (A : Area) (φ : Framer → β) (s t : State) : Prop where
  regs : regsBut A.has s t
  framers : ∀ f, φ (t.framer f) = φ (s.framer f)
  losFree : ∀ f, (t.tx f).losFreeSince = (s.tx f).losFreeSince
  tribs : ∀ r k, (t.trib r k).byFrames = (s.trib r k).byFrames
  now : t.now = s.now
  resets : ∀ a, t.inReset a = s.inReset a
  clocks : t.top.failed = s.top.failed

@[simp] theorem State.framer_setFramer_same (s : State) (f : Nat) (x : Framer) : (s.setFramer f x).framer f = x := by
  simp [State.framer]

theorem State.framer_setFramer_ne (s : State) {f g : Nat} (x : Framer) (h : g ≠ f) : (s.setFramer f x).framer g = s.framer g := by
  simp [State.framer, Tab.get_set_ne _ _ _ _ h]

theorem State.framer_congr {s t : State} (h : t.framers = s.framers) (f : Nat) : t.framer f = s.framer f := by
  rw [State.framer, State.framer, h]

theorem State.trib_congr {s t : State} (h : t.tribs = s.tribs) (r k : Nat) : t.trib r k = s.trib r k := by
  rw [State.trib, State.trib, h]

namespace State.Spares

variable {β γ : Type} {A B : Area} {φ : Framer → β} {ψ : Framer → γ} {s t u : State} {a : Nat}

theorem refl (A : Area) (φ : Framer → β) (s : State) : s.Spares A φ s :=
  ⟨fun _ _ => rfl, fun _ => rfl, fun _ => rfl, fun _ _ => rfl, rfl, fun _ => rfl, rfl⟩

theorem trans (h : s.Spares A φ t) (k : t.Spares A φ u) : s.Spares A φ u :=
  ⟨fun a ha => (k.regs a ha).trans (h.regs a ha), fun f => (k.framers f).trans (h.framers f),
    fun f => (k.losFree f).trans (h.losFree f), fun r j => (k.tribs r j).trans (h.tribs r j), k.now.trans h.now,
    fun a => (k.resets a).trans (h.resets a), k.clocks.trans h.clocks⟩

/-- A wider area, and less seen of the framers. -/
theorem mono (h : s.Spares A φ t) (hA : ∀ a, A.has a → B.has a) (hφ : ∀ x y, φ x = φ y → ψ x = ψ y) : s.Spares B ψ t :=
  ⟨fun a ha => h.regs a fun e => ha (hA a e), fun f => hφ _ _ (h.framers f), h.losFree, h.tribs, h.now, h.resets, h.clocks⟩

theorem rxRuns (h : s.Spares A φ t) (f : Nat) : t.rxRuns f = s.rxRuns f := by
  rw [State.rxRuns, State.rxRuns, State.coreRuns, State.coreRuns, h.clocks, h.resets]

/-- What is neither a register nor spared may change. -/
theorem same (h : s.Spares A φ t) (hr : u.regs = t.regs) (hf : u.framers = t.framers) (ht : u.txs = t.txs)
    (hT : u.tribs = t.tribs) (hn : u.now = t.now) (hi : ∀ a, u.inReset a = t.inReset a)
    (hc : u.top.failed = t.top.failed) : s.Spares A φ u :=
  h.trans ⟨fun a _ => State.rd_congr hr a, fun f => by rw [State.framer_congr hf], fun f => by rw [State.tx_congr ht],
    fun r k => by rw [State.trib_congr hT], hn, hi, hc⟩

theorem quiet (h : s.Spares A φ t) (hq : t.Quiet u) (hr : regsBut A.has t u) : s.Spares A φ u :=
  h.trans ⟨hr, fun f => by rw [State.framer_congr hq.framers], fun f => by rw [State.tx_congr hq.txs],
    fun r k => by rw [State.trib_congr hq.tribs], hq.now, hq.inReset,
    by rw [hq.top]⟩

theorem wr (h : s.Spares A φ t) (ha : A.has a) (v : Word) : s.Spares A φ (t.wr a v) :=
  h.quiet (t.wr_quiet a v) ((Within.refl A t).wr ha v).regs

theorem wrN (h : s.Spares A φ t) (ha : A.has a) (n : Nat) : s.Spares A φ (t.wrN a n) := h.wr ha _
theorem wrI (h : s.Spares A φ t) (ha : A.has a) (i : Int) : s.Spares A φ (t.wrI a i) := h.wrN ha _
theorem setFld (h : s.Spares A φ t) (ha : A.has a) (hi lo v : Nat) : s.Spares A φ (t.setFld a hi lo v) := h.wrN ha _
theorem setBit (h : s.Spares A φ t) (ha : A.has a) (n : Nat) (b : Bool) : s.Spares A φ (t.setBit a n b) := h.setFld ha _ _ _
theorem addTo (h : s.Spares A φ t) (ha : A.has a) (n : Nat) : s.Spares A φ (t.addTo a n) := h.wrN ha _
theorem inc (h : s.Spares A φ t) (ha : A.has a) : s.Spares A φ (t.inc a) := h.addTo ha 1

theorem add48 {lo hi : Nat} (h : s.Spares A φ t) (hl : A.has lo) (hh : A.has hi) (v : Nat) : s.Spares A φ (t.add48 lo hi v) :=
  (h.wrN hl _).wrN hh _

theorem clearRegs {lo hi : Nat} (h : s.Spares A φ t) (ha : ∀ a, lo ≤ a → a < hi → A.has a) :
    s.Spares A φ (t.clearRegs lo hi) := by
  have hq : t.Quiet (t.clearRegs lo hi) := by constructor <;> rfl
  refine h.quiet hq fun a hb => Tab.get_filter_key t.regs (regReset a) _ fun _ => decide_eq_true ?_
  by_contra hc
  exact hb (ha a (by omega) (by omega))

theorem putTs (h : s.Spares A φ t) (ha : A.has a) (h4 : A.has (a + 4)) (h8 : A.has (a + 8)) (sub : Nat) :
    s.Spares A φ (t.putTs a sub) := ((h.wrN ha _).wrN h4 _).wrN h8 _

theorem event (h : s.Spares A φ t) (ha : A.has a) (b : Nat) : s.Spares A φ (t.event a b) :=
  h.quiet (t.event_quiet a b) ((Within.refl A t).event ha b).regs

theorem summary {base : Nat} (h : s.Spares A φ t) (ha : A.has (base + 8)) (mask : Nat) : s.Spares A φ (t.summary base mask) :=
  h.quiet (t.summary_quiet base mask) fun _ hb => t.rd_summary_ne mask fun e => hb (e ▸ ha)

theorem raise {src : Nat} (h : s.Spares A φ t) (hs : src < 1024) (kind : Nat) (clear : Bool) (detail : Nat) :
    s.Spares A φ (t.raise src kind clear detail) :=
  h.quiet (t.raiseAs_quiet _ _ _ _ _) ((Within.refl A t).raise (fun _ => A.report hs) kind clear detail).regs

theorem raiseLim {src : Nat} (h : s.Spares A φ t) (hs : src < 1024) (n sub kind : Nat) (clear : Bool) (detail : Nat) :
    s.Spares A φ (t.raiseLim n sub src kind clear detail) :=
  h.quiet (t.raiseLim_quiet _ _ _ _ _ _) ((Within.refl A t).raiseLim hs n sub kind clear detail).regs

theorem tally (h : s.Spares A φ t) {base k : Nat} (hb : base + k ≤ 344) (ev n : Nat) (sel : Option (Nat × Nat)) :
    s.Spares A φ (t.tally base k ev n sel) :=
  h.quiet (t.tally_quiet _ _ _ _ _) ((Within.refl A t).tally hb ev n sel).regs

theorem tallyRow (h : s.Spares A φ t) {r : Nat} (hr : r < 12) (j ev n : Nat) : s.Spares A φ (t.tallyRow r j ev n) :=
  h.tally (by omega) _ _ _

theorem foldl {δ : Type} {f : State → δ → State} {l : List δ} (h : s.Spares A φ t)
    (hf : ∀ u : State, ∀ b ∈ l, u.Spares A φ (f u b)) : s.Spares A φ (l.foldl f t) :=
  foldl_keeps (fun u => s.Spares A φ u) f l (fun u b hb hu => hu.trans (hf u b hb)) t h

/-- An update that is made, or not. -/
theorem iteThen {c : Prop} [Decidable c] (h : s.Spares A φ t) (hu : t.Spares A φ u) : s.Spares A φ (if c then u else t) := by
  split
  · exact h.trans hu
  · exact h

theorem iteElse {c : Prop} [Decidable c] (h : s.Spares A φ t) (hu : t.Spares A φ u) : s.Spares A φ (if c then t else u) := by
  split
  · exact h
  · exact h.trans hu

/-- A framer takes a record that looks the same. -/
theorem setFramer {x : Framer} {f : Nat} (h : s.Spares A φ t) (hx : φ x = φ (t.framer f)) : s.Spares A φ (t.setFramer f x) := by
  refine h.trans ⟨fun _ _ => rfl, fun g => ?_, fun _ => rfl, fun _ _ => rfl, rfl, fun _ => rfl, rfl⟩
  by_cases e : g = f
  · rw [e, State.framer_setFramer_same, hx]
  · rw [State.framer_setFramer_ne t x e]

theorem setTx {x : Tx} {f : Nat} (h : s.Spares A φ t) (hx : x.losFreeSince = (t.tx f).losFreeSince) :
    s.Spares A φ (t.setTx f x) := by
  refine h.trans ⟨fun _ _ => rfl, fun _ => rfl, fun g => ?_, fun _ _ => rfl, rfl, fun _ => rfl, rfl⟩
  by_cases e : g = f
  · rw [e, State.tx_setTx_same, hx]
  · rw [State.tx_setTx_ne t x e]

theorem setTop (h : s.Spares A φ t) {x : Top} (hf : x.failed = t.top.failed) (hb : x.boot = t.top.boot) :
    s.Spares A φ (t.setTop x) :=
  h.same rfl rfl rfl rfl rfl (fun a => by simp only [State.inReset, State.setTop_top, hb]; rfl) hf

theorem setRef (h : s.Spares A φ t) (r : Nat) (x : Ref) : s.Spares A φ (t.setRef r x) :=
  h.same rfl rfl rfl rfl rfl (fun _ => rfl) rfl
theorem setDial (h : s.Spares A φ t) (n : Nat) (x : Dial) : s.Spares A φ (t.setDial n x) :=
  h.same rfl rfl rfl rfl rfl (fun _ => rfl) rfl
theorem setGen (h : s.Spares A φ t) (g : Nat) (x : Gen) : s.Spares A φ (t.setGen g x) :=
  h.same rfl rfl rfl rfl rfl (fun _ => rfl) rfl
theorem setTtcs (h : s.Spares A φ t) (x : Tab Ttc) : s.Spares A φ (t.setTtcs x) :=
  h.same rfl rfl rfl rfl rfl (fun _ => rfl) rfl
theorem setTrib {x : Trib} {r n : Nat} (h : s.Spares A φ t) (hx : x.byFrames = (t.trib r n).byFrames) :
    s.Spares A φ (t.setTrib r n x) := by
  refine h.trans ⟨fun _ _ => rfl, fun _ => rfl, fun _ => rfl, fun q k => ?_, rfl, fun _ => rfl, rfl⟩
  by_cases e : 80 * q + k = 80 * r + n
  · rw [State.trib, State.trib, State.setTrib, State.setTribs_tribs, e, Tab.get_set_same, hx]
    rfl
  · rw [State.trib, State.trib, State.setTrib, State.setTribs_tribs, Tab.get_set_ne _ _ _ _ e]
theorem setHold (h : s.Spares A φ t) (r sink n : Nat) : s.Spares A φ (t.setHold r sink n) :=
  h.same rfl rfl rfl rfl rfl (fun _ => rfl) rfl
theorem setPair (h : s.Spares A φ t) (i : Nat) (x : Pair) : s.Spares A φ (t.setPair i x) :=
  h.same rfl rfl rfl rfl rfl (fun _ => rfl) rfl
theorem setFur (h : s.Spares A φ t) (F : Nat) (x : Furrow) : s.Spares A φ (t.setFur F x) :=
  h.same rfl rfl rfl rfl rfl (fun _ => rfl) rfl
theorem setBeds (h : s.Spares A φ t) (x : Tab Bed) : s.Spares A φ (t.setBeds x) :=
  h.same rfl rfl rfl rfl rfl (fun _ => rfl) rfl
theorem setSumCycle (h : s.Spares A φ t) (x : List Nat) : s.Spares A φ (t.setSumCycle x) :=
  h.same rfl rfl rfl rfl rfl (fun _ => rfl) rfl

end State.Spares

/-- The receive framers are left alone. -/
abbrev State.SparesRx (s t : State) : Prop := s.Spares offRx (fun x => x) t

theorem State.SparesRx.refl (s : State) : s.SparesRx s := Spares.refl _ _ s

/-- What leaves the receive framers alone leaves what is seen of them alone. -/
theorem State.SparesRx.seen {β : Type} {φ : Framer → β} {os : List Nat} {h8 : 8 ∉ os} {s t : State} (h : s.SparesRx t) :
    s.Spares (rxBut os h8) φ t := h.mono (fun _ => .inl) fun _ _ e => congrArg φ e

end Sys2Proof.Machine
end

section
/-! SUPPORT. What Sundial does when a tap of a lane changes leaves the receive framers alone (R134, R138 to R147, R169,
R182, R185). -/

namespace Sys2Proof.Machine

open State (SparesRx Spares)

/-! ### References (R136 to R143) -/

theorem State.entriesFollow_sparesRx (s : State) (r old q : Nat) : s.SparesRx (s.entriesFollow r old q) :=
  (SparesRx.refl s).foldl fun u n _ => (SparesRx.refl u).iteElse ((SparesRx.refl u).setDial n _)

section

variable (s : State) {r : Nat} (hr : r < 84)
include hr

theorem State.setWarning_sparesRx (on : Bool) : s.SparesRx (s.setWarning r on) :=
  (SparesRx.refl s).iteElse ((((SparesRx.refl s).setBit (refA_offRx hr (by omega)) _ _).event
    (refA_offRx hr (by omega)) _).raise (by omega) _ _ _)

theorem State.restartMeas_sparesRx : s.SparesRx (s.restartMeas r) :=
  ((SparesRx.refl s).setFld (refA_offRx hr (by omega)) _ _ _).setRef r _

theorem State.setQ_sparesRx (q : Nat) : s.SparesRx (s.setQ r q) := by
  have ha : ∀ {o}, o < 0x80 → offRx.has (refA r o) := refA_offRx hr
  have hs : 144 + r < 1024 := by omega
  unfold State.setQ
  extract_lets old ppb s1 s2 s3 m x m1 s4 s5
  refine (SparesRx.refl s).iteElse ?_
  have h1 : s.SparesRx s1 := (SparesRx.refl s).setFld (ha (by omega)) _ _ _
  have h2 : s.SparesRx s2 := h1.iteThen (((SparesRx.refl _).event (ha (by omega)) _).raise hs _ _ _)
  have h3 : s.SparesRx s3 := h2.iteThen
    ((((SparesRx.refl _).event (ha (by omega)) _).raise hs _ _ _).trans (State.setWarning_sparesRx _ hr _))
  have hm : s.SparesRx m1 := (h3.trans (s3.restartMeas_sparesRx hr)).setRef r _
  have h4 : s.SparesRx s4 := by
    unfold s4
    split
    · exact (hm.event (ha (by omega)) _).raise hs _ _ _
    · exact h3.setFld (ha (by omega)) _ _ _
    · exact ((h3.setFld (ha (by omega)) _ _ _).event (ha (by omega)) _).raise hs _ _ _
    · exact ((h3.inc (ha (by omega))).event (ha (by omega)) _).raise hs _ _ _
    · exact ((h3.inc (ha (by omega))).event (ha (by omega)) _).raise hs _ _ _
    · exact h3
  exact (h4.trans (s4.entriesFollow_sparesRx r old q)).setBit (ha (by omega)) _ _

theorem State.refInvalid_sparesRx (a : Nat) : s.SparesRx (s.refInvalid r a) :=
  (((SparesRx.refl s).event (refA_offRx hr (by omega)) _).event (sdlA_offRx (by omega)) _).raise (by omega) _ _ _

omit hr in
theorem State.swCatchUp_sparesRx (r : Nat) : s.SparesRx (s.swCatchUp r) := by
  unfold State.swCatchUp
  extract_lets x
  split
  · exact SparesRx.refl s
  · exact (SparesRx.refl s).setRef r _

theorem State.refEval_sparesRx : s.SparesRx (s.refEval r) := by
  have hq : ∀ {u : State} (v : Nat), s.SparesRx u → s.SparesRx (u.setQ r v) := fun v h => h.trans (State.setQ_sparesRx _ hr v)
  unfold State.refEval
  extract_lets q enabled s1 s2 x s3
  have h1 : s.SparesRx s1 := (SparesRx.refl s).iteThen (s.refInvalid_sparesRx hr _)
  have h2 : s.SparesRx s2 := s.restartMeas_sparesRx hr
  have h3 : s.SparesRx s3 := by
    unfold s3
    split
    · exact hq 2 ((h2.setRef r _).trans (State.swCatchUp_sparesRx _ r))
    · exact SparesRx.refl s
  split
  · exact hq 6 (SparesRx.refl s)
  · split
    · exact hq 0 (SparesRx.refl s)
    · split
      · exact hq 6 h1
      · exact h3.iteThen (State.setQ_sparesRx _ hr 1)

end

/-! ### Generators (R181 to R184) -/

section

variable (s : State) {g : Nat} (hg : g < 96)
include hg

theorem State.showNext_sparesRx : s.SparesRx (s.showNext g) :=
  (SparesRx.refl s).putTs (genA_offRx hg (by omega)) (genA_offRx (o := 0x30) hg (by omega))
    (genA_offRx (o := 0x34) hg (by omega)) _

omit hg in
theorem State.drive_sparesRx (g : Nat) : s.SparesRx (s.drive g) := (SparesRx.refl s).iteElse ((SparesRx.refl s).setTop rfl rfl)

theorem State.genFollow_sparesRx (fresh : Bool) (delay : Nat) : s.SparesRx (s.genFollow g fresh delay) := by
  unfold State.genFollow
  extract_lets was runs short s1 s2 x s3
  have hsrc : 128 + s.genDial g < 1024 := by
    have := bitsOf_lt (s.pol (genA g 0)).toNat 11 8
    show 128 + bitsOf (s.pol (genA g 0)).toNat 11 8 < 1024
    omega
  have h1 : s.SparesRx s1 := (SparesRx.refl s).iteThen ((SparesRx.refl s).raise hsrc _ _ _)
  have h2 : s.SparesRx s2 := (h1.setBit (genA_offRx hg (by omega)) _ _).setBit (genA_offRx hg (by omega)) _ _
  have h3 : s.SparesRx s3 := by
    unfold s3
    split
    · exact (h2.setGen g _).trans (State.showNext_sparesRx _ hg)
    · exact h2.iteThen ((SparesRx.refl s2).setGen g _)
  exact h3.trans (s3.drive_sparesRx g)

end

/-! ### Dials (R143 to R147, R169) -/

section

variable (s : State) {n : Nat} (hn : n < 16)

theorem State.rebase_sparesRx (n : Nat) : s.SparesRx (s.rebase n) := (SparesRx.refl s).setDial n _

theorem State.setY_sparesRx (n : Nat) (y : Int) : s.SparesRx (s.setY n y) := (s.rebase_sparesRx n).setDial n _

theorem State.forgetPick_sparesRx (n : Nat) : s.SparesRx (s.forgetPick n) := (SparesRx.refl s).setDial n _

theorem State.restoreLeft_sparesRx (n : Nat) : s.SparesRx (s.restoreLeft n) := (SparesRx.refl s).setDial n _

include hn

theorem State.showDial_sparesRx : s.SparesRx (s.showDial n) := by
  have hd : ∀ {o}, o < 0x200 → offRx.has (dialA n o) := dialA_offRx hn
  exact ((((((SparesRx.refl s).wrI (hd (by omega)) _).wrI (hd (by omega)) _).setFld (hd (by omega)) _ _ _).setFld
    (hd (by omega)) _ _ _).wrN (hd (by omega)) _).wrN (hd (by omega)) _

theorem State.setLimited_sparesRx (on : Bool) : s.SparesRx (s.setLimited n on) :=
  (SparesRx.refl s).iteElse ((((SparesRx.refl s).setBit (dialA_offRx hn (by omega)) _ _).event
    (dialA_offRx hn (by omega)) _).raise (by omega) _ _ _)

theorem State.steerY_sparesRx (y : Int) : s.SparesRx (s.steerY n y) :=
  ((s.setY_sparesRx n _).trans (State.setLimited_sparesRx _ hn _)).trans (State.showDial_sparesRx _ hn)

theorem State.acquire_sparesRx (fresh : Bool) : s.SparesRx (s.acquire n fresh) :=
  ((SparesRx.refl s).iteElse (s.steerY_sparesRx hn _)).setDial n _

theorem State.setState_sparesRx (q : Nat) : s.SparesRx (s.setState n q) := by
  have hd : ∀ {o}, o < 0x200 → offRx.has (dialA n o) := dialA_offRx hn
  unfold State.setState
  extract_lets old s1 d locked d2 s2 s3 s4 s5 s6 s7
  refine (SparesRx.refl s).iteElse ?_
  have h3 : s.SparesRx s3 := ((s.rebase_sparesRx n).setDial n _).setFld (hd (by omega)) _ _ _
  have h4 : s.SparesRx s4 := by
    unfold s4
    split
    · exact h3.setBit (hd (by omega)) _ _
    · exact h3.iteThen ((SparesRx.refl s3).setBit (hd (by omega)) _ _)
  have h6 : s.SparesRx s6 := ((h4.wrN (hd (by omega)) _).event (hd (by omega)) _).raise (by omega) _ _ _
  have h7 : s.SparesRx s7 := by
    unfold s7
    split
    · exact h6.trans (s6.steerY_sparesRx hn _)
    · split
      · exact h6.trans (s6.steerY_sparesRx hn _)
      · exact h6.trans (s6.showDial_sparesRx hn)
  exact h7.foldl fun u g hg => u.genFollow_sparesRx (List.mem_range.1 (List.mem_of_mem_filter hg)) _ _

theorem State.endHoldoff_sparesRx : s.SparesRx (s.endHoldoff n) :=
  (SparesRx.refl s).iteThen
    ((((s.rebase_sparesRx n).setDial n _).setBit (dialA_offRx hn (by omega)) _ _).raise (by omega) _ _ _)

theorem State.announce_sparesRx (e r cause : Nat) : s.SparesRx (s.announce n e r cause) := by
  have hd : ∀ {o}, o < 0x200 → offRx.has (dialA n o) := dialA_offRx hn
  have h : s.SparesRx ((s.setFld (dialA n 0x10) 12 8 e).setFld (dialA n 0x10) 22 16 r) :=
    ((SparesRx.refl s).setFld (hd (by omega)) _ _ _).setFld (hd (by omega)) _ _ _
  exact (((h.inc (hd (by omega))).tally (by omega) _ _ _).event (hd (by omega)) _).raise (by omega) _ _ _

theorem State.setDispute_sparesRx (pair : Option (Nat × Nat)) (chosen : Nat) : s.SparesRx (s.setDispute n pair chosen) := by
  have hd : ∀ {o}, o < 0x200 → offRx.has (dialA n o) := dialA_offRx hn
  unfold State.setDispute
  extract_lets on d s1 s2
  have h1 : s.SparesRx s1 := by
    unfold s1
    split
    · exact (SparesRx.refl s).setDial n _
    · exact SparesRx.refl s
  have h2 : s1.SparesRx s2 := (SparesRx.refl s1).iteThen ((SparesRx.refl s1).inc (hd (by omega)))
  refine h1.iteElse ?_
  split
  exact ((h2.setBit (hd (by omega)) _ _).event (hd (by omega)) _).raise (by omega) _ _ _

theorem State.startHoldoff_sparesRx : s.SparesRx (s.startHoldoff n) :=
  (((s.steerY_sparesRx hn _).setDial n _).setBit (dialA_offRx hn (by omega)) _ _).raise (by omega) _ _ _

theorem State.selected_sparesRx (e r cause : Nat) : s.SparesRx (s.selected n e r cause) := by
  unfold State.selected
  extract_lets s1 d s2 again s3
  have h2 : s.SparesRx s2 := (s.announce_sparesRx hn e r cause).setDial n _
  have h3 : s.SparesRx s3 := (h2.trans (s2.acquire_sparesRx hn true)).trans (State.setState_sparesRx _ hn 1)
  split
  · refine h2.iteThen ?_
    split
    · exact s2.setState_sparesRx hn _
    · exact s2.setState_sparesRx hn _
  · exact h3.iteThen (s3.showDial_sparesRx hn)

theorem State.showEntries_sparesRx : s.SparesRx (s.showEntries n) :=
  (SparesRx.refl s).foldl fun u x hx => by
    obtain ⟨e, he, rfl⟩ := List.mem_map.1 hx
    have ha : offRx.has (entryA n e) := dialA_offRx hn (by have := List.mem_range.1 he; omega)
    exact (((SparesRx.refl u).setBit ha _ _).setBit ha _ _).setFld ha _ _ _

theorem State.pickNow_sparesRx (av : List (Nat × Nat × Nat × Bool)) : s.SparesRx (s.pickNow n av).2 := by
  unfold State.pickNow
  split
  · exact s.setDispute_sparesRx hn none 127
  · exact s.setDispute_sparesRx hn _ _

theorem State.selectFree_sparesRx (c : SelectCause) : s.SparesRx (s.selectFree n c) := by
  have hd : ∀ {o}, o < 0x200 → offRx.has (dialA n o) := dialA_offRx hn
  have hshow : ∀ {u : State}, s.SparesRx u → s.SparesRx (u.showEntries n) := fun h => h.trans (State.showEntries_sparesRx _ hn)
  unfold State.selectFree
  extract_lets es fe fh cur s1 s2 lost s3 av inG curAv
  split
  · have h1 : s.SparesRx s1 := (s.setDispute_sparesRx hn none 127).setBit (hd (by omega)) _ _
    have h2 : s.SparesRx s2 := h1.iteElse (s1.announce_sparesRx hn 31 127 4)
    exact hshow (h2.trans (s2.setState_sparesRx hn 0))
  · have h3 : s.SparesRx s3 := (SparesRx.refl s).setBit (hd (by omega)) _ _
    have h4 : s.SparesRx (s3.pickNow n av).2 := h3.trans (s3.pickNow_sparesRx hn av)
    split
    next cand u hp =>
    rw [hp] at h4
    extract_lets sel d run u1 cause
    split
    · exact hshow (h4.iteThen (u.forgetPick_sparesRx n))
    · split
      · exact hshow ((h4.trans (u.forgetPick_sparesRx n)).trans (State.startHoldoff_sparesRx _ hn))
      · split
        · split
          · exact hshow h4
          · have h5 : s.SparesRx u1 := h4.setDial n _
            exact hshow (h5.iteElse (u1.selected_sparesRx hn _ _ _))
        · exact hshow (h4.trans (u.selected_sparesRx hn _ _ _))

theorem State.holdoffOver_sparesRx (c : SelectCause) : s.SparesRx (s.holdoffOver n c) := by
  unfold State.holdoffOver
  extract_lets cur s1 fe held usable
  have h1 : s.SparesRx s1 := (s.endHoldoff_sparesRx hn).trans (State.restoreLeft_sparesRx _ n)
  split
  · exact ((h1.trans (s1.acquire_sparesRx hn false)).trans (State.showDial_sparesRx _ hn)).trans (State.showEntries_sparesRx _ hn)
  · exact h1.trans (s1.selectFree_sparesRx hn _)

theorem State.selectDial_sparesRx (c : SelectCause) : s.SparesRx (s.selectDial n c) := by
  unfold State.selectDial
  extract_lets s1
  split
  · exact s.selectFree_sparesRx hn c
  · split
    · exact (s.endHoldoff_sparesRx hn).trans (State.selectFree_sparesRx _ hn _)
    · split
      · exact s.holdoffOver_sparesRx hn c
      · have h : s.SparesRx s1 := (SparesRx.refl s).setBit (dialA_offRx hn (by omega)) _ _
        exact ((h.trans (s1.pickNow_sparesRx hn _)).trans (State.forgetPick_sparesRx _ n)).trans
          (State.showEntries_sparesRx _ hn)

end

/-! ### Taps (R134) -/

theorem State.dialsSelect_sparesRx (s : State) (r : Nat) : s.SparesRx (s.dialsSelect r) :=
  (SparesRx.refl s).foldl fun u _ hn => (SparesRx.refl u).iteThen (u.selectDial_sparesRx (List.mem_range.1 hn) _)

theorem State.tapsFollow_sparesRx (s : State) (f : Nat) : s.SparesRx (s.tapsFollow f) :=
  (SparesRx.refl s).iteElse ((SparesRx.refl s).foldl fun u r hr => by
    obtain ⟨i, hi, rfl⟩ := List.mem_map.1 hr
    have h : u.SparesRx (u.refEval (i + 64)) := u.refEval_sparesRx (by have := List.mem_range.1 hi; omega)
    exact (SparesRx.refl u).iteThen (h.iteElse (State.dialsSelect_sparesRx _ _)))

end Sys2Proof.Machine
end

section
/-! SUPPORT. What MAP, the Cellar, the furrows and time transfer do when a framer changes leaves the receive framers alone
(R68, R86, R98, R103, R113, R185, R246 to R254). -/

namespace Sys2Proof.Machine

open State (SparesRx Spares)

/-! ### Furrows (R246 to R254) -/

section

variable {β : Type} {A : Area} (hA : ∀ F o, A.has (furA F o)) (φ : Framer → β) (s : State)
include hA

theorem State.showFur_spares (F : Nat) : s.Spares A φ (s.showFur F) := by
  have hF := hA F
  unfold State.showFur
  extract_lets n s1
  have h1 : s.Spares A φ s1 := ((Spares.refl A φ s).setFld (hF _) _ _ _).setBit (hF _) _ _
  exact h1.iteThen ((Spares.refl A φ s1).setFld (hF _) _ _ _)

omit hA in
theorem State.tallyFur_spares (F ev n : Nat) : s.Spares A φ (s.tallyFur F ev n) :=
  (Spares.refl A φ s).iteThen ((Spares.refl A φ s).tally (by omega) _ _ _)

theorem State.notice_spares (F : Nat) : s.Spares A φ (s.notice F) :=
  ((((Spares.refl A φ s).setBit (hA F _) _ _).inc (hA F _)).event (hA F _) _).trans (State.tallyFur_spares φ _ _ _ _)

theorem State.dropItem_spares {F : Nat} (hf : F < 36) (prod len : Nat) : s.Spares A φ (s.dropItem F prod len) := by
  have hF := hA F
  have hs : furSrc F < 1024 := by rw [furSrc, if_pos hf]; omega
  unfold State.dropItem
  extract_lets f s1 f1
  have h1 : s.Spares A φ s1 := ((((Spares.refl A φ s).inc (hF _)).addTo (hF _) _).event (hF _) _).trans
    (State.tallyFur_spares φ _ _ _ _)
  exact (h1.setFur F f1).raiseLim hs _ _ _ _ _

theorem State.publish_spares {F : Nat} (hf : F < 36) (prod kind : Nat) (stamped : Bool) (words : List Half) :
    s.Spares A φ (s.publish F prod kind stamped words).2 := by
  unfold State.publish
  extract_lets f len fl9 fl8 hdr item before level f1 s1
  have h1 : s.Spares A φ s1 := ((((Spares.refl A φ s).setFur F f1).trans (State.showFur_spares hA φ _ F)).inc
    (hA F _) |>.trans (State.tallyFur_spares φ _ _ _ _)).trans (State.tallyFur_spares φ _ _ _ _)
  split
  · exact s.dropItem_spares hA φ hf prod len
  · exact h1.iteThen (s1.notice_spares hA φ F)

end

theorem State.notice_sparesRx (s : State) (F : Nat) : s.SparesRx (s.notice F) := s.notice_spares furA_offRx _ F

theorem State.publish_sparesRx (s : State) {F : Nat} (hf : F < 36) (prod kind : Nat) (stamped : Bool) (words : List Half) :
    s.SparesRx (s.publish F prod kind stamped words).2 := s.publish_spares furA_offRx _ hf prod kind stamped words

theorem ohFur_lt (f : Nat) : ohFur f < 36 := by
  have := rowOfCh_lt f
  unfold ohFur
  split <;> omega

theorem State.rxPublish_sparesRx (s : State) (f kind : Nat) (ts : Option Nat) (words : List Half) :
    s.SparesRx (s.rxPublish f kind ts words).2 :=
  ((SparesRx.refl s).tallyRow (rowOfCh_lt f) _ _ _).trans (State.publish_sparesRx _ (ohFur_lt f) _ _ _ _)

theorem State.moveFur_sparesRx (s : State) (F bed pair : Nat) : s.SparesRx (s.moveFur F bed pair) :=
  ((SparesRx.refl s).setFur F _).iteElse (State.notice_sparesRx _ F)

theorem State.routeTry_sparesRx (s : State) (r : Nat) : s.SparesRx (s.routeTry r) :=
  (SparesRx.refl s).iteThen ((((s.moveFur_sparesRx _ _ _).trans (State.moveFur_sparesRx _ _ _ _)).setFur _ _).setBit
    (routeA_offRx r) _ _)

theorem State.moveEdge_sparesRx (s : State) (r : Nat) : s.SparesRx (s.moveEdge r) :=
  (SparesRx.refl s).foldl fun u e _ => by
    split
    · exact (SparesRx.refl u).iteThen ((SparesRx.refl u).setBeds _)
    · exact SparesRx.refl u

theorem State.routeEdge_sparesRx (s : State) (r : Nat) : s.SparesRx (s.routeEdge r) :=
  (s.moveEdge_sparesRx r).iteThen (((SparesRx.refl _).setFur r _).trans (State.routeTry_sparesRx _ r))

/-! ### Tributaries (R68, R86, R98, R103) -/

section

variable {β : Type} {A : Area} (φ : Framer → β) (s : State) {r t : Nat} (hT : ∀ o ∈ [0, 4, 8], A.has (tribA r t o))
  (hM : A.has (mapA r 8))
include hT hM

theorem State.tribEvent_spares (b : Nat) : s.Spares A φ (s.tribEvent r t b) := by
  unfold State.tribEvent
  extract_lets a
  have ha : A.has a := hT 8 (by decide)
  split
  · exact (Spares.refl A φ s).event ha b
  · exact ((Spares.refl A φ s).setFld ha _ _ _).summary hM _

/-- What a change of a tributary's defects brings: its own registers, its row's SUMMARY, an item. -/
theorem State.tribDefects_spares (hr : r < 12) (hA : ∀ F o, A.has (furA F o)) (old : Nat × Nat × Nat) :
    s.Spares A φ (s.tribDefects r t old) := by
  have hs := mapSrc_lt hr
  unfold State.tribDefects
  extract_lets x raw
  split
  next act p _ =>
  extract_lets s1 s2 s3 s4 y s5
  have h1 : s.Spares A φ s1 := ((Spares.refl A φ s).setFld (hT 0 (by decide)) _ _ _).setFld (hT 4 (by decide)) _ _ _
  have h2 : s.Spares A φ s2 := h1.foldl fun u _ _ => (Spares.refl A φ u).iteElse ((Spares.refl A φ u).raise hs _ _ _)
  have h3 : s.Spares A φ s3 := h2.foldl fun u _ _ => (Spares.refl A φ u).iteElse ((Spares.refl A φ u).raise hs _ _ _)
  have h4 : s.Spares A φ s4 := h3.foldl fun u b _ => (Spares.refl A φ u).iteElse (u.tribEvent_spares φ hT hM b)
  have h5 : s.Spares A φ s5 := h4.setTrib rfl
  exact h5.iteElse (s5.publish_spares hA φ (by omega) _ _ _ _)

end

theorem State.tribDefects_sparesRx (s : State) {r : Nat} (hr : r < 12) (t : Nat) (old : Nat × Nat × Nat) :
    s.SparesRx (s.tribDefects r t old) :=
  s.tribDefects_spares _ (fun o _ => tribA_offRx r t o) (mapA_offRx r 8) hr furA_offRx old

theorem State.withTrib_sparesRx (s : State) {r : Nat} (hr : r < 12) (t : Nat) {g : State → State} (hg : s.SparesRx (g s)) :
    s.SparesRx (s.withTrib r t g) := hg.trans (State.tribDefects_sparesRx _ hr t _)

theorem State.carriedBy_lt {s : State} {f : Nat} {e : Nat × Nat} (h : e ∈ s.carriedBy f) : e.1 < 12 :=
  (State.activeTribs_lt (List.mem_of_mem_filter (List.mem_of_mem_filter h))).1

theorem State.carriedFollow_sparesRx (s : State) (f : Nat) : s.SparesRx (s.carriedFollow f) :=
  (SparesRx.refl s).foldl fun u e he => u.withTrib_sparesRx (State.carriedBy_lt he) e.2 (SparesRx.refl u)

theorem State.carriedAlign_sparesRx (s : State) (f : Nat) : s.SparesRx (s.carriedAlign f) :=
  (SparesRx.refl s).foldl fun u _ _ => (SparesRx.refl u).setTrib rfl

theorem State.allFollow_sparesRx (s : State) : s.SparesRx s.allFollow :=
  (SparesRx.refl s).foldl fun u e he =>
    u.withTrib_sparesRx (State.activeTribs_lt (List.mem_of_mem_filter he)).1 e.2 (SparesRx.refl u)

theorem State.sinksTake_sparesRx (s : State) (r sig : Nat) (whole : Bool) : s.SparesRx (s.sinksTake r sig whole) :=
  (SparesRx.refl s).foldl fun u _ _ => (SparesRx.refl u).iteThen ((SparesRx.refl u).setHold _ _ _)

theorem State.sinksLose_sparesRx (s : State) (r sig : Nat) : s.SparesRx (s.sinksLose r sig) :=
  (SparesRx.refl s).foldl fun u _ _ => (SparesRx.refl u).iteThen ((SparesRx.refl u).setHold _ _ _)

theorem State.oduFrame_sparesRx (s : State) (f : Nat) : s.SparesRx (s.oduFrame f) :=
  (SparesRx.refl s).iteThen (s.sinksTake_sparesRx _ _ _)

theorem State.fitCheck_sparesRx (s : State) {r : Nat} (hr : r < 12) (t : Nat) : s.SparesRx (s.fitCheck r t) := by
  unfold State.fitCheck
  extract_lets m f ok x s1
  have h1 : s.SparesRx s1 := (SparesRx.refl s).setTrib rfl
  exact (SparesRx.refl s).iteElse ((SparesRx.refl s).iteElse
    (h1.iteElse (((SparesRx.refl s1).event (mapA_offRx r _) _).raise (mapSrc_lt hr) _ _ _)))

theorem State.showSizes_sparesRx (s : State) (r : Nat) : s.SparesRx (s.showSizes r) :=
  (SparesRx.refl s).foldl fun u _ _ => (SparesRx.refl u).setFld (mapA_offRx r _) _ _ _

theorem State.formatFollow_sparesRx (s : State) (f : Nat) (rx : Bool) : s.SparesRx (s.formatFollow f rx) := by
  unfold State.formatFollow
  extract_lets r s1
  have h1 : s.SparesRx s1 := (SparesRx.refl s).foldl fun u t _ =>
    (SparesRx.refl u).iteThen (u.fitCheck_sparesRx (rowOfCh_lt f) t)
  exact h1.iteThen (s1.showSizes_sparesRx r)

/-! ### Merge pairs (R113, R117, R120) -/

theorem State.mEvent_sparesRx (s : State) (i b : Nat) : s.SparesRx (s.mEvent i b) :=
  ((SparesRx.refl s).event (pairA_offRx i _) _).event (celA_offRx _) _

theorem State.clearNoMatch_sparesRx (s : State) (i : Nat) : s.SparesRx (s.clearNoMatch i) :=
  (SparesRx.refl s).iteThen (((SparesRx.refl s).setBit (pairA_offRx i _) _ _).raise (by decide) _ _ _)

theorem State.mUnalign_sparesRx (s : State) (i : Nat) (counted : Bool) : s.SparesRx (s.mUnalign i counted) := by
  have hp := pairA_offRx i
  unfold State.mUnalign
  extract_lets a s1 s2
  have h1 : s.SparesRx s1 := (((SparesRx.refl s).setBit (hp _) _ _).setBit (hp _) _ _).setFld (hp _) _ _ _
  have h2 : s.SparesRx s2 := h1.iteThen ((SparesRx.refl s1).inc (hp _))
  exact (SparesRx.refl s).iteThen ((h2.trans (s2.mEvent_sparesRx i 1)).raise (by decide) _ _ _)

theorem State.mRestart_sparesRx (s : State) (i : Nat) : s.SparesRx (s.mRestart i) := by
  have hp := pairA_offRx i
  unfold State.mRestart
  extract_lets s1 granted s2
  have h1 : s.SparesRx s1 := (s.mUnalign_sparesRx i false).trans (State.clearNoMatch_sparesRx _ i)
  exact (((h1.wrN (hp _) _).setBit (hp _) _ _).wrN (hp _) _).setPair i _

theorem State.pairsFollow_sparesRx (s old : State) : s.SparesRx (s.pairsFollow old) :=
  (SparesRx.refl s).foldl fun u i _ => ((u.mRestart_sparesRx i).raise (by decide) _ _ _).trans (State.allFollow_sparesRx _)

/-! ### Time transfer (R185, R187) -/

theorem State.ttcSees_sparesRx (s : State) (f bitPs mfas : Nat) (fly : Bool) : s.SparesRx (s.ttcSees f bitPs mfas fly) := by
  unfold State.ttcSees
  extract_lets c bad c1
  split
  · exact (SparesRx.refl s).setTtcs _
  · exact SparesRx.refl s

end Sys2Proof.Machine
end

section
/-! SUPPORT. What a change of a framer's defects brings with it, and what it spares (R52, R59, R66, R68, R77, R82). -/

namespace Sys2Proof.Machine

open Sys2Proof.Cert
open State (SparesRx Spares)

/-! ### Hunters -/

theorem State.hunter_congr {s t : State} {f : Nat} (h : (t.framer f).hunters = (s.framer f).hunters) (p : Nat) :
    t.hunter f p = s.hunter f p := by rw [State.hunter, State.hunter, h]

theorem State.hunter_setFramer {s : State} {f : Nat} {x : Framer} (hx : x.hunters = (s.framer f).hunters) (g p : Nat) :
    (s.setFramer f x).hunter g p = s.hunter g p := by
  refine State.hunter_congr ?_ p
  by_cases e : g = f
  · rw [e, State.framer_setFramer_same, hx]
  · rw [State.framer_setFramer_ne s x e]

@[simp] theorem State.hunter_setHunter_same (s : State) (f p : Nat) (h : Hunter) : (s.setHunter f p h).hunter f p = h := by
  rw [State.hunter, State.setHunter, State.framer_setFramer_same]
  exact Tab.get_set_same _ _ _ _

theorem State.hunter_setHunter_ne (s : State) {f p q : Nat} (h : Hunter) (e : q ≠ p) :
    (s.setHunter f p h).hunter f q = s.hunter f q := by
  rw [State.hunter, State.setHunter, State.framer_setFramer_same]
  exact Tab.get_set_ne _ _ _ _ e

theorem State.hunter_setHunter_framer_ne (s : State) {f g : Nat} (p q : Nat) (h : Hunter) (e : g ≠ f) :
    (s.setHunter f p h).hunter g q = s.hunter g q := by
  rw [State.hunter, State.setHunter, State.framer_setFramer_ne s _ e]; rfl

@[simp] theorem State.rd_setHunter (s : State) (f p : Nat) (h : Hunter) (a : Nat) : (s.setHunter f p h).rd a = s.rd a := rfl

/-! ### Raw defects (R66) -/

theorem State.rawBit_congr {s t : State} {f : Nat} (h : t.rd (rxA f 0x204) = s.rd (rxA f 0x204)) (b : Nat) :
    t.rawBit f b = s.rawBit f b := State.bit_congr h b

theorem State.rxFmt_congr {s t : State} {f : Nat} (h : t.rd (rxA f 0x100) = s.rd (rxA f 0x100)) : t.rxFmt f = s.rxFmt f :=
  State.fld_congr h 3 0

@[simp] theorem State.rawBit_setRaw_same (s : State) (f : Nat) {b : Nat} (hb : b < 32) (on : Bool) :
    (s.setRaw f b on).rawBit f b = on := s.bit_setBit_same on hb

theorem State.rawBit_setRaw_ne (s : State) (f : Nat) {b c : Nat} (hb : b < 32) (h : c ≠ b) (on : Bool) :
    (s.setRaw f b on).rawBit f c = s.rawBit f c := s.bit_setBit_ne on hb h

theorem State.rawBit_setRaw_framer_ne (s : State) {f g : Nat} (hf : f < 384) (hg : g < 384) (h : g ≠ f) (b c : Nat) (on : Bool) :
    (s.setRaw f b on).rawBit g c = s.rawBit g c :=
  State.rawBit_congr (s.rd_setBit_ne _ _ fun e => h (rxA_inj hg hf e)) c

/-- A bit of a word with a field put into it, outside the field. -/
theorem bitsOf_putBits_outside (w v : Nat) {hi lo b : Nat} (hl : lo ≤ hi + 1) (h : b < lo ∨ hi < b) :
    bitsOf (putBits w hi lo v) b b = bitsOf w b b := by
  rcases h with h | h
  · exact bitsOf_putBits_below w v h
  · exact bitsOf_putBits_above w v hl h

/-- A bit of a field that is put into a word. -/
theorem bitsOf_putBits_inside (w v : Nat) {hi b : Nat} (h : b ≤ hi) : bitsOf (putBits w hi 0 v) b b = bitsOf v b b := by
  have key : ∀ x : Nat, bitsOf x b b = bitsOf (x % 2 ^ (hi + 1)) b b := fun x => by
    unfold bitsOf
    have e : hi + 1 = b + (hi + 1 - b) := by omega
    have h1 : b + 1 - b = 1 := by omega
    rw [e, pow_add, Nat.mod_mul_right_div_self, h1, Nat.mod_mod_of_dvd]
    exact pow_dvd_pow 2 (by omega)
  have hsame := bitsOf_putBits_same w hi 0 v
  unfold bitsOf at hsame
  rw [pow_zero, Nat.div_one, Nat.sub_zero] at hsame
  rw [key, hsame, ← key]

/-- The raw word that a framer's state gives keeps LOS, LOF, LOM and LOL. -/
theorem State.defView_raw {s : State} {f b : Nat} (h0 : s.rxFmt f ≠ 0) (hb : b ∈ [0, 2, 3, 4]) :
    bitsOf (s.defView f).raw b b = bitsOf (s.nat (rxA f 0x204)) b b := by
  have hout : ∀ w n v, n ∈ [1, 5, 8, 9, 10, 23] → bitsOf (putBits w n n v) b b = bitsOf w b b := fun w n v hn =>
    bitsOf_putBits_outside w v (by omega) (by
      simp only [List.mem_cons, List.not_mem_nil, or_false] at hb hn
      omega)
  have hlow : b + 1 ≤ 24 := by simp only [List.mem_cons, List.not_mem_nil, or_false] at hb; omega
  unfold State.defView
  rw [if_neg h0]
  dsimp only
  rw [hout _ _ _ (by decide), hout _ _ _ (by decide), hout _ _ _ (by decide), hout _ _ _ (by decide),
    hout _ _ _ (by decide), hout _ _ _ (by decide)]
  have hself := bitsOf_putBits_inside 0 (s.nat (rxA f 0x204)) (hi := 23) (b := b) (by omega)
  rw [← hself]
  congr 1
  simp [putBits, State.fld, bitsOf]

/-- LOS, LOF, LOM and LOL stay when the raw word is shown. -/
theorem State.rawBit_showRaw {s : State} {f b : Nat} (h0 : s.rxFmt f ≠ 0) (hb : b ∈ [0, 2, 3, 4]) :
    (s.setFld (rxA f 0x204) 23 0 (s.defView f).raw).rawBit f b = s.rawBit f b := by
  have hlow : b ≤ 23 := by simp only [List.mem_cons, List.not_mem_nil, or_false] at hb; omega
  rw [State.rawBit, State.rawBit, State.bit, State.bit, State.fld, State.fld, State.nat_setFld_same _ _ (by omega) (by omega),
    bitsOf_putBits_inside _ _ hlow, State.defView_raw h0 hb]

/-! ### What the defects bring (R52, R59, R68, R77) -/

/-- The record of a framer less the defects that it has seen in this second. -/
def Framer.lessSeconds (x : Framer) : Framer := { x with secSeen := 0 }

/-- Offsets of registers of a receive framer that a change of its defects does not write, DEFECT_RAW apart. -/
def heldRx : List Nat := [0x100, 0x118, 0x124, 0x140, 0x144, 0x148, 0x150, 0x194, 0x1B4, 0x204, 0x238]

theorem heldRx_lt {o : Nat} (h : o ∈ heldRx) : o < 0x1000 := by
  simp only [heldRx, List.mem_cons, List.not_mem_nil, or_false] at h
  omega

/-- What a change of defects brings, beyond DEFECT_RAW itself. -/
abbrev State.Aside (s t : State) : Prop := s.Spares (rxBut heldRx (by decide)) Framer.lessSeconds t

theorem State.Aside.refl (s : State) : s.Aside s := Spares.refl _ _ s

theorem rxSrc_lt {f : Nat} (hf : f < 384) : rxSrc f < 1024 := by unfold rxSrc; omega

theorem State.Aside.hunter {s t : State} (h : s.Aside t) (f p : Nat) : t.hunter f p = s.hunter f p := by
  have e : (t.framer f).lessSeconds.hunters = (s.framer f).lessSeconds.hunters := by rw [h.framers f]
  exact State.hunter_congr e p

theorem State.Aside.rd {s t : State} (h : s.Aside t) {f o : Nat} (hf : f < 384) (ho : o ∈ heldRx) :
    t.rd (rxA f o) = s.rd (rxA f o) :=
  h.regs _ (not_rxBut hf (heldRx_lt ho) ho)

theorem State.Aside.rxFmt {s t : State} (h : s.Aside t) {f : Nat} (hf : f < 384) : t.rxFmt f = s.rxFmt f :=
  State.rxFmt_congr (h.rd hf (by decide))

theorem State.Aside.rawBit {s t : State} (h : s.Aside t) {f : Nat} (hf : f < 384) (b : Nat) : t.rawBit f b = s.rawBit f b :=
  State.rawBit_congr (h.rd hf (by decide)) b

section

variable (s : State) {f : Nat} (hf : f < 384)
include hf

theorem State.defReport_aside (kind : Nat) (on : Bool) (detail : Nat) (ev : Option Nat) :
    s.Aside (s.defReport f kind on detail ev) := by
  unfold State.defReport
  extract_lets u
  have hu : s.Aside u := by
    unfold u
    split
    · exact (Aside.refl s).event (rxA_rxBut (by omega) (by decide)) _
    · exact Aside.refl s
  exact hu.raise (rxSrc_lt hf) _ _ _

theorem State.mapReports_aside (kind n old new : Nat) (ev : Option Nat) : s.Aside (s.mapReports f kind n old new ev) :=
  (Aside.refl s).foldl fun u _ _ => (Aside.refl u).iteElse (u.defReport_aside hf _ _ _ _)

/-- Once DEFECT_RAW is written, the rest of what a change of defects brings lies aside. -/
theorem State.defectsFrom_aside (old : DefView) :
    (s.setFld (rxA f 0x204) 23 0 (s.defView f).raw).Aside (s.defectsFrom f old) := by
  unfold State.defectsFrom
  extract_lets v s1 s2 s3 lane s4 s5 s6 s7 s8 y s9 s10 s11 s12 s13
  have hown : ∀ {o}, o < 0x1000 → o ∉ heldRx → (rxBut heldRx (by decide)).has (rxA f o) := rxA_rxBut
  have h1 : State.Aside _ s1 := (Aside.refl (s.setFld (rxA f 0x204) 23 0 v.raw)).setFld (hown (by omega) (by decide)) _ _ _
  have h2 : State.Aside _ s2 := h1.foldl fun u _ _ => (Aside.refl u).iteElse (u.defReport_aside hf _ _ _ _)
  have h3 : State.Aside _ s3 := h2.foldl fun u _ _ => (Aside.refl u).iteElse (u.defReport_aside hf _ _ _ _)
  have h4 : State.Aside _ s4 := h3.foldl fun u _ _ => (Aside.refl u).iteElse (u.defReport_aside hf _ _ _ _)
  have h5 : State.Aside _ s5 := h4.foldl fun u _ _ => (Aside.refl u).iteElse (u.defReport_aside hf _ _ _ _)
  have h6 : State.Aside _ s6 := (h5.trans (s5.mapReports_aside hf _ _ _ _ _)).trans (State.mapReports_aside _ hf _ _ _ _ _)
  have h7 : State.Aside _ s7 := (h6.trans (s6.mapReports_aside hf _ _ _ _ _)).trans (State.mapReports_aside _ hf _ _ _ _ _)
  have h8 : State.Aside _ s8 := h7.foldl fun u _ _ =>
    (Aside.refl u).iteElse ((Aside.refl u).event (hown (by omega) (by decide)) _)
  have h9 : State.Aside _ s9 := h8.setFramer rfl
  have h10 : State.Aside _ s10 := (h9.setBit (hown (by omega) (by decide)) _ _).setBit (hown (by omega) (by decide)) _ _
  have h11 : State.Aside _ s11 := (h10.setBit (hown (by omega) (by decide)) _ _).setBit (hown (by omega) (by decide)) _ _
  have h12 : State.Aside _ s12 := h11.iteElse (s11.rxPublish_sparesRx f _ _ _).seen
  have h13 : State.Aside _ s13 := h12.iteElse (s12.carriedFollow_sparesRx f).seen
  exact h13.iteElse (s13.tapsFollow_sparesRx f).seen

theorem State.rd_defectsFrom (old : DefView) {g o : Nat} (hg : g < 384) (ho : o ∈ heldRx) (h : o ≠ 0x204 ∨ g ≠ f) :
    (s.defectsFrom f old).rd (rxA g o) = s.rd (rxA g o) := by
  rw [(s.defectsFrom_aside hf old).rd hg ho]
  refine s.rd_setFld_ne _ _ _ fun e => ?_
  rcases h with h | h
  · exact rxA_ne (heldRx_lt ho) (by omega) h e
  · have hm : o = 0x204 := by rw [← rxA_mod (f := g) (heldRx_lt ho), e, rxA_mod (by omega)]
    exact h (rxA_inj hg hf (hm ▸ e))

theorem State.hunter_defectsFrom (old : DefView) (g p : Nat) : (s.defectsFrom f old).hunter g p = s.hunter g p :=
  (s.defectsFrom_aside hf old).hunter g p

theorem State.framer_defectsFrom (old : DefView) (g : Nat) :
    ((s.defectsFrom f old).framer g).lessSeconds = (s.framer g).lessSeconds := (s.defectsFrom_aside hf old).framers g

theorem State.rxFmt_defectsFrom (old : DefView) {g : Nat} (hg : g < 384) : (s.defectsFrom f old).rxFmt g = s.rxFmt g :=
  State.rxFmt_congr (s.rd_defectsFrom hf old hg (by decide) (.inl (by decide)))

/-- LOS, LOF, LOM and LOL of every framer stay as the change left them. -/
theorem State.rawBit_defectsFrom (old : DefView) {g b : Nat} (hg : g < 384) (h0 : s.rxFmt f ≠ 0) (hb : b ∈ [0, 2, 3, 4]) :
    (s.defectsFrom f old).rawBit g b = s.rawBit g b := by
  by_cases e : g = f
  · subst e
    rw [(s.defectsFrom_aside hg old).rawBit hg, State.rawBit_showRaw h0 hb]
  · exact State.rawBit_congr (s.rd_defectsFrom hf old hg (by decide) (.inr e)) b

omit hf in
/-- FF_STATE shows the framer. -/
theorem State.showFrame_aside (f : Nat) : s.Aside (s.showFrame f) := by
  have h : (rxBut heldRx (by decide)).has (rxA f 0x128) := rxA_rxBut (by omega) (by decide)
  exact ((((Aside.refl s).setFld h _ _ _).setFld h _ _ _).setFld h _ _ _).setBit h _ _

omit hf in
theorem State.showLanes_aside (f : Nat) : s.Aside (s.showLanes f) :=
  ((Aside.refl s).setFld (rxA_rxBut (by omega) (by decide)) _ _ _).foldl fun u _ _ =>
    (Aside.refl u).setFld (rxA_rxBut (by omega) (by decide)) _ _ _

end

/-! ### Time transfer follows a format (R185) -/

theorem State.ttcCheck_aside (s : State) {n : Nat} (hn : n < 192) (written : Bool) : s.Aside (s.ttcCheck n written) := by
  have hsum : ∀ u : State, u.Aside (u.ttcEvent n 3) := fun u => by
    unfold State.ttcEvent
    extract_lets t
    have ht : u.Aside t := (Aside.refl u).event (.inl (ttcA_offRx (by omega) (by omega))) _
    exact ht.iteElse ((Aside.refl t).summary (by rw [rxA_add]; exact rxA_rxBut (by omega) (by decide)) _)
  unfold State.ttcCheck
  extract_lets en ok s1
  have h1 : s.Aside s1 := (Aside.refl s).iteThen ((hsum s).raise (by omega) _ _ _)
  exact h1.setTtcs _

theorem State.formatSeen_aside (s : State) (f : Nat) : s.Aside (s.formatSeen f) := by
  have h : s.Aside (s.tapsFollow f) := (s.tapsFollow_sparesRx f).seen
  unfold State.formatSeen
  extract_lets u
  split
  next hc => exact h.trans (u.ttcCheck_aside (by omega) _)
  · exact h

end Sys2Proof.Machine
end

section
/-! SUPPORT. Out of frame, in frame, LOF and HUNT of one hunter: what each does to the hunter, to the raw defects, and what
it spares (R31, R36, R42, R47, R48). -/

namespace Sys2Proof.Machine

open Sys2Proof.Cert
open State (SparesRx Spares Aside)

/-! ### What hunting spares -/

/-- The record of a framer less what hunting changes. -/
def Framer.lessHunt (x : Framer) : Framer :=
  { x with hunters := [], loflane := [], deg := [], secSeen := 0, lolFault := false }

/-- Offsets of registers of a receive framer that hunting does not write: as for defects, less DEFECT_RAW. -/
def huntRx : List Nat := [0x100, 0x118, 0x124, 0x140, 0x144, 0x148, 0x150, 0x194, 0x1B4, 0x238]

theorem huntRx_held {o : Nat} (h : o ∈ huntRx) : o ∈ heldRx ∧ o ≠ 0x204 := by
  revert h
  revert o
  decide

/-- What the states of hunters bring. -/
abbrev State.Hunting (s t : State) : Prop := s.Spares (rxBut huntRx (by decide)) Framer.lessHunt t

theorem State.Hunting.refl (s : State) : s.Hunting s := Spares.refl _ _ s

theorem State.Aside.hunting {s t : State} (h : s.Aside t) : s.Hunting t := by
  refine h.mono (fun a => Or.imp_right fun ha e => ha (huntRx_held e).1) fun x y e => ?_
  show x.lessSeconds.lessHunt = y.lessSeconds.lessHunt
  rw [e]

theorem State.SparesRx.hunting {s t : State} (h : s.SparesRx t) : s.Hunting t := h.seen

theorem State.Hunting.rd {s t : State} (h : s.Hunting t) {f o : Nat} (hf : f < 384) (ho : o ∈ huntRx) :
    t.rd (rxA f o) = s.rd (rxA f o) := h.regs _ (not_rxBut hf (heldRx_lt (huntRx_held ho).1) ho)

theorem State.Hunting.rxFmt {s t : State} (h : s.Hunting t) {f : Nat} (hf : f < 384) : t.rxFmt f = s.rxFmt f :=
  State.rxFmt_congr (h.rd hf (by decide))

theorem rxA_hunting {f o : Nat} (ho : o < 0x1000) (h : o ∉ huntRx) : (rxBut huntRx (by decide)).has (rxA f o) := rxA_rxBut ho h

theorem State.Hunting.setHunter {s t : State} (h : s.Hunting t) (f p : Nat) (x : Hunter) : s.Hunting (t.setHunter f p x) :=
  Spares.setFramer h rfl

theorem State.Hunting.setRaw {s t : State} (h : s.Hunting t) (f b : Nat) (on : Bool) : s.Hunting (t.setRaw f b on) :=
  Spares.setBit h (rxA_hunting (by omega) (by decide)) b on

/-- A change, and the defects that it brings. -/
theorem State.Hunting.defectsFrom {s t : State} (h : s.Hunting t) {f : Nat} (hf : f < 384) (old : DefView) :
    s.Hunting (t.defectsFrom f old) :=
  (Spares.setFld h (rxA_hunting (by omega) (by decide)) _ _ _).trans (t.defectsFrom_aside hf old).hunting

theorem State.setLof_hunting (s : State) (f : Nat) (on : Bool) : s.Hunting (s.setLof f on) := by
  have h : s.Hunting (s.setRaw f 2 on) := (Hunting.refl s).setRaw f 2 on
  unfold State.setLof
  extract_lets u x d deg
  split
  · exact Spares.setFramer h rfl
  · exact h

theorem State.setLofOf_hunting (s : State) (f p : Nat) (on : Bool) : s.Hunting (s.setLofOf f p on) := by
  unfold State.setLofOf
  extract_lets x others
  split
  · exact s.setLof_hunting f on
  · exact Spares.setFramer (Hunting.refl s) rfl

theorem State.goOof_hunting (s : State) (f p : Nat) : s.Hunting (s.goOof f p) := by
  unfold State.goOof
  extract_lets h u
  have hu : s.Hunting u := (Hunting.refl s).setHunter f p _
  exact Spares.iteElse (Hunting.refl s) (Spares.iteThen hu (u.setLofOf_hunting f p true))

theorem State.clearLof_hunting (s : State) (f p : Nat) : s.Hunting (s.clearLof f p) := by
  unfold State.clearLof
  extract_lets y u
  have hu : s.Hunting u := ((Hunting.refl s).setHunter f p _).trans (State.setLofOf_hunting _ f p false)
  exact Spares.iteThen (Hunting.refl s) (Spares.iteThen hu (u.setLof_hunting f false))

theorem State.endOof_hunting (s : State) (f p : Nat) : s.Hunting (s.endOof f p) := by
  unfold State.endOof
  extract_lets h u
  have hu : s.Hunting u := (Hunting.refl s).setHunter f p _
  exact Spares.iteThen hu (u.clearLof_hunting f p)

theorem State.enterHunt_hunting (s : State) {f : Nat} (hf : f < 384) (p : Nat) (start : Option Nat) :
    s.Hunting (s.enterHunt f p start) := by
  unfold State.enterHunt
  extract_lets len anchor badLen badAnchor h u
  have hu : s.Hunting u := (Hunting.refl s).setHunter f p _
  exact Spares.iteThen hu
    (Spares.raise (Spares.event (Hunting.refl u) (rxA_hunting (by omega) (by decide)) _) (rxSrc_lt hf) _ _ _)

/-! ### What it does to hunters -/

theorem State.hunter_of_framers {s t : State} (h : t.framers = s.framers) (f p : Nat) : t.hunter f p = s.hunter f p := by
  rw [State.hunter, State.hunter, State.framer_congr h]

theorem State.hunter_event (s : State) (a b f p : Nat) : (s.event a b).hunter f p = s.hunter f p :=
  State.hunter_of_framers (s.event_quiet a b).framers f p

theorem State.hunter_raise (s : State) (src kind : Nat) (clear : Bool) (detail f p : Nat) :
    (s.raise src kind clear detail).hunter f p = s.hunter f p :=
  State.hunter_of_framers (s.raiseAs_quiet src kind clear detail false).framers f p

theorem State.hunter_setDeg (s : State) (f : Nat) (d : Tab Deg) (g p : Nat) :
    (s.setFramer f { s.framer f with deg := d }).hunter g p = s.hunter g p := State.hunter_setFramer (by rfl) g p

theorem State.hunter_setLof (s : State) (f : Nat) (on : Bool) (g p : Nat) : (s.setLof f on).hunter g p = s.hunter g p := by
  unfold State.setLof
  extract_lets u x d deg
  have hu : u.hunter g p = s.hunter g p := State.hunter_of_framers rfl g p
  split
  · exact (u.hunter_setDeg f deg g p).trans hu
  · exact hu

theorem State.hunter_setLofOf (s : State) (f p : Nat) (on : Bool) (g q : Nat) :
    (s.setLofOf f p on).hunter g q = s.hunter g q := by
  unfold State.setLofOf
  extract_lets x others
  split
  · exact s.hunter_setLof f on g q
  · exact State.hunter_setFramer (s := s) (by rfl) g q

theorem State.hunter_setHunter_of_ne (s : State) {f p g q : Nat} (h : Hunter) (e : g ≠ f ∨ q ≠ p) :
    (s.setHunter f p h).hunter g q = s.hunter g q := by
  by_cases hg : g = f
  · subst hg
    exact s.hunter_setHunter_ne h (e.resolve_left (by simp))
  · exact s.hunter_setHunter_framer_ne p q h hg

theorem State.hunter_goOof_ne (s : State) {f p g q : Nat} (e : g ≠ f ∨ q ≠ p) : (s.goOof f p).hunter g q = s.hunter g q := by
  unfold State.goOof
  extract_lets h u
  have hu : u.hunter g q = s.hunter g q := s.hunter_setHunter_of_ne _ e
  split
  · rfl
  · split
    · rw [State.hunter_setLofOf, hu]
    · exact hu

theorem State.hunter_goOof_same (s : State) (f p : Nat) : (s.goOof f p).hunter f p =
    { s.hunter f p with oof := true, oofSince := if (s.hunter f p).oof then (s.hunter f p).oofSince else s.now } := by
  unfold State.goOof
  extract_lets h u
  have hu : u.hunter f p = { h with oof := true, oofSince := s.now } := s.hunter_setHunter_same f p _
  by_cases ho : h.oof = true
  · rw [if_pos ho]
    show h = { h with oof := true, oofSince := if h.oof then h.oofSince else s.now }
    rw [if_pos ho, ← ho]
  · rw [if_neg ho]
    have e : ({ h with oof := true, oofSince := s.now } : Hunter) =
        { h with oof := true, oofSince := if h.oof then h.oofSince else s.now } := by rw [if_neg ho]
    split
    · rw [State.hunter_setLofOf, hu, e]
    · rw [hu, e]

theorem State.hunter_clearLof_ne (s : State) {f p g q : Nat} (e : g ≠ f ∨ q ≠ p) : (s.clearLof f p).hunter g q = s.hunter g q := by
  unfold State.clearLof
  extract_lets y u
  have hu : u.hunter g q = s.hunter g q := (State.hunter_setLofOf _ f p false g q).trans (s.hunter_setHunter_of_ne _ e)
  split
  · split
    · exact (u.hunter_setLof f false g q).trans hu
    · exact hu
  · rfl

theorem State.hunter_clearLof_same (s : State) (f p : Nat) :
    ∃ n, (s.clearLof f p).hunter f p = { s.hunter f p with lofAcc := n } := by
  unfold State.clearLof
  extract_lets y u
  have hu : u.hunter f p = { s.hunter f p with lofAcc := 0 } :=
    (State.hunter_setLofOf _ f p false f p).trans (s.hunter_setHunter_same f p _)
  split
  · split
    · exact ⟨0, (u.hunter_setLof f false f p).trans hu⟩
    · exact ⟨0, hu⟩
  · exact ⟨(s.hunter f p).lofAcc, rfl⟩

theorem State.hunter_endOof_same (s : State) (f p : Nat) :
    ∃ n, (s.endOof f p).hunter f p = { s.hunter f p with oof := false, lofAcc := n, inSince := s.now } := by
  unfold State.endOof
  extract_lets h u
  have hu : u.hunter f p = _ := s.hunter_setHunter_same f p _
  split
  · obtain ⟨n, hn⟩ := u.hunter_clearLof_same f p
    exact ⟨n, by rw [hn, hu]⟩
  · exact ⟨_, hu⟩

theorem State.hunter_enterHunt_ne (s : State) {f p g q : Nat} (start : Option Nat) (e : g ≠ f ∨ q ≠ p) :
    (s.enterHunt f p start).hunter g q = s.hunter g q := by
  unfold State.enterHunt
  extract_lets len anchor badLen badAnchor h u
  have hu : u.hunter g q = s.hunter g q := s.hunter_setHunter_of_ne _ e
  split
  · rw [State.hunter_raise, State.hunter_event, hu]
  · exact hu

/-- The hunter hunts from bit `start`, held where the framer has LOS. -/
structure Hunter.HuntsFrom (start : Option Nat) (los : Bool) (h : Hunter) : Prop where
  state : h.state = .hunt
  cands : h.cands = []
  start : h.start = start
  held : h.heldByLos = los

theorem State.hunter_enterHunt_same (s : State) (f p : Nat) (start : Option Nat) :
    ((s.enterHunt f p start).hunter f p).HuntsFrom start (s.rawBit f 0) ∧
      ((s.enterHunt f p start).hunter f p).oof = (s.hunter f p).oof := by
  unfold State.enterHunt
  extract_lets len anchor badLen badAnchor h u
  have hu : u.hunter f p = _ := s.hunter_setHunter_same f p _
  have hv : (if (badLen || badAnchor) = true then (u.event (rxA f 0x12C) 12).raise (rxSrc f) 0x0B false
      (rxA f (if badLen then 0x118 else 0x11C)) else u).hunter f p = u.hunter f p := by
    split
    · rw [State.hunter_raise, State.hunter_event]
    · rfl
  rw [hv, hu]
  exact ⟨⟨rfl, rfl, rfl, rfl⟩, rfl⟩

/-! ### What it does to the raw defects -/

@[simp] theorem State.rawBit_setLof (s : State) (f : Nat) (on : Bool) : (s.setLof f on).rawBit f 2 = on := by
  have h := s.rawBit_setRaw_same f (b := 2) (by omega) on
  unfold State.setLof
  extract_lets u x d deg
  split
  · exact h
  · exact h

theorem State.rawBit_setLof_ne (s : State) (f : Nat) (on : Bool) {b : Nat} (hb : b ≠ 2) :
    (s.setLof f on).rawBit f b = s.rawBit f b := by
  have h := s.rawBit_setRaw_ne f (b := 2) (by omega) hb on
  unfold State.setLof
  extract_lets u x d deg
  split
  · exact h
  · exact h

theorem State.rawBit_setLofOf_ne (s : State) (f p : Nat) (on : Bool) {b : Nat} (hb : b ≠ 2) :
    (s.setLofOf f p on).rawBit f b = s.rawBit f b := by
  unfold State.setLofOf
  extract_lets x others
  split
  · exact s.rawBit_setLof_ne f on hb
  · rfl

theorem State.rawBit_goOof_ne (s : State) (f p : Nat) {b : Nat} (hb : b ≠ 2) : (s.goOof f p).rawBit f b = s.rawBit f b := by
  unfold State.goOof
  extract_lets h u
  split
  · rfl
  · split
    · exact u.rawBit_setLofOf_ne f p true hb
    · rfl

/-- LOF stands after a hunter went out of frame where it stood before. -/
theorem State.rawBit_goOof_lof (s : State) (f p : Nat) (h : s.rawBit f 2 = true) : (s.goOof f p).rawBit f 2 = true := by
  unfold State.goOof
  extract_lets x u
  split
  · exact h
  · split
    · unfold State.setLofOf
      extract_lets y others
      split
      · exact u.rawBit_setLof f true
      · exact h
    · exact h

theorem State.rawBit_clearLof_ne (s : State) (f p : Nat) {b : Nat} (hb : b ≠ 2) : (s.clearLof f p).rawBit f b = s.rawBit f b := by
  unfold State.clearLof
  extract_lets y u
  have hu : u.rawBit f b = s.rawBit f b := State.rawBit_setLofOf_ne _ f p false hb
  split
  · split
    · exact (u.rawBit_setLof_ne f false hb).trans hu
    · exact hu
  · rfl

theorem State.rawBit_endOof_ne (s : State) (f p : Nat) {b : Nat} (hb : b ≠ 2) : (s.endOof f p).rawBit f b = s.rawBit f b := by
  unfold State.endOof
  extract_lets h u
  split
  · exact u.rawBit_clearLof_ne f p hb
  · rfl

theorem State.rd_enterHunt (s : State) {f : Nat} (hf : f < 384) (p : Nat) (start : Option Nat) {g o : Nat} (hg : g < 384)
    (ho : o ∈ heldRx) : (s.enterHunt f p start).rd (rxA g o) = s.rd (rxA g o) := by
  unfold State.enterHunt
  extract_lets len anchor badLen badAnchor h u
  split
  · have h : u.Aside (u.event (rxA f 0x12C) 12) := Spares.event (Aside.refl u) (rxA_rxBut (by omega) (by decide)) _
    exact Aside.rd (Spares.raise h (rxSrc_lt hf) _ _ _) hg ho
  · rfl

end Sys2Proof.Machine
end

section
/-! SUPPORT. What a change of a framer ends with: its defects, FF_STATE, and the check of its OTL4.4 group (R35, R47, R48). -/

namespace Sys2Proof.Machine

open Sys2Proof.Cert
open State (SparesRx Spares Aside Hunting)

theorem leadOf_lt {f : Nat} (hf : f < 192) : leadOf f < 384 := by unfold leadOf; omega

/-! ### Raw defects of another framer -/

section

variable (s : State) {f g : Nat} (hf : f < 384) (hg : g < 384) (h : g ≠ f)
include hf hg h

theorem State.rawBit_setLof_framer_ne (on : Bool) (b : Nat) : (s.setLof f on).rawBit g b = s.rawBit g b := by
  have hr := s.rawBit_setRaw_framer_ne hf hg h 2 b on
  unfold State.setLof
  extract_lets u x d deg
  split
  · exact hr
  · exact hr

theorem State.rawBit_setLofOf_framer_ne (p : Nat) (on : Bool) (b : Nat) : (s.setLofOf f p on).rawBit g b = s.rawBit g b := by
  unfold State.setLofOf
  extract_lets x others
  split
  · exact s.rawBit_setLof_framer_ne hf hg h on b
  · rfl

theorem State.rawBit_goOof_framer_ne (p b : Nat) : (s.goOof f p).rawBit g b = s.rawBit g b := by
  unfold State.goOof
  extract_lets x u
  split
  · rfl
  · split
    · exact u.rawBit_setLofOf_framer_ne hf hg h p true b
    · rfl

end

/-! ### LOL of a group (R48) -/

/-- The change that a declaration of LOL makes, before what it brings. -/
def State.lolDeclared (s : State) (lead : Nat) (fault : Bool) : State :=
  ((s.setFramer lead { s.framer lead with lolFault := fault }).setRaw lead 4 true).goOof lead 5

theorem State.declareLol_eq {s : State} {lead : Nat} (fault : Bool) (h6 : s.rxFmt lead = 6) (h4 : s.rawBit lead 4 = false) :
    s.declareLol lead fault = (s.lolDeclared lead fault).defectsFrom lead (s.defView lead) := by
  rw [State.declareLol, if_neg (by simp [h6, h4])]
  rfl

theorem State.declareLol_idle {s : State} {lead : Nat} (fault : Bool) (h : s.rxFmt lead ≠ 6 ∨ s.rawBit lead 4 = true) :
    s.declareLol lead fault = s := by
  rw [State.declareLol, if_pos (by simpa using h)]

theorem State.lolDeclared_hunting (s : State) (lead : Nat) (fault : Bool) : s.Hunting (s.lolDeclared lead fault) := by
  have h : s.Hunting (s.setFramer lead { s.framer lead with lolFault := fault }) := Spares.setFramer (Hunting.refl s) rfl
  exact (h.setRaw lead 4 true).trans (State.goOof_hunting _ lead 5)

theorem State.hunter_setLolFault (s : State) (f : Nat) (b : Bool) (g p : Nat) :
    (s.setFramer f { s.framer f with lolFault := b }).hunter g p = s.hunter g p := State.hunter_setFramer (by rfl) g p

theorem State.hunter_lolDeclared (s : State) (lead : Nat) (fault : Bool) (g : Nat) {p : Nat} (hp : p ≠ 5) :
    (s.lolDeclared lead fault).hunter g p = s.hunter g p :=
  (State.hunter_goOof_ne _ (.inr hp)).trans ((State.hunter_of_framers rfl g p).trans (s.hunter_setLolFault lead fault g p))

theorem State.rawBit_lolDeclared (s : State) {lead g b : Nat} (fault : Bool) (hl : lead < 384) (hg : g < 384)
    (h : s.rawBit g b = true) : (s.lolDeclared lead fault).rawBit g b = true := by
  unfold State.lolDeclared
  generalize hv : (s.setFramer lead { s.framer lead with lolFault := fault }) = v
  have hvr : ∀ g b, v.rawBit g b = s.rawBit g b := fun _ _ => by rw [← hv]; rfl
  by_cases e : g = lead
  · subst e
    have h4 : (v.setRaw g 4 true).rawBit g b = true := by
      by_cases h4 : b = 4
      · rw [h4]; exact v.rawBit_setRaw_same g (by omega) true
      · rw [v.rawBit_setRaw_ne g (by omega) h4, hvr, h]
    by_cases h2 : b = 2
    · subst h2; exact State.rawBit_goOof_lof _ _ _ h4
    · rw [State.rawBit_goOof_ne _ _ _ h2, h4]
  · rw [State.rawBit_goOof_framer_ne _ hl hg e, State.rawBit_setRaw_framer_ne _ hl hg e, hvr, h]

theorem State.declareLol_hunting (s : State) {lead : Nat} (hl : lead < 384) (fault : Bool) :
    s.Hunting (s.declareLol lead fault) := by
  by_cases h : s.rxFmt lead ≠ 6 ∨ s.rawBit lead 4 = true
  · rw [State.declareLol_idle fault h]; exact Hunting.refl s
  · obtain ⟨h6, h4⟩ := not_or.1 h
    rw [State.declareLol_eq fault (not_not.1 h6) (by simpa using h4)]
    exact (s.lolDeclared_hunting lead fault).defectsFrom hl _

theorem State.hunter_declareLol (s : State) {lead : Nat} (hl : lead < 384) (fault : Bool) (g : Nat) {p : Nat} (hp : p ≠ 5) :
    (s.declareLol lead fault).hunter g p = s.hunter g p := by
  by_cases h : s.rxFmt lead ≠ 6 ∨ s.rawBit lead 4 = true
  · rw [State.declareLol_idle fault h]
  · obtain ⟨h6, h4⟩ := not_or.1 h
    rw [State.declareLol_eq fault (not_not.1 h6) (by simpa using h4), State.hunter_defectsFrom _ hl,
      s.hunter_lolDeclared lead fault g hp]

/-- LOS, LOF, LOM and LOL that stood still stand. -/
theorem State.rawBit_declareLol (s : State) {lead g b : Nat} (hl : lead < 384) (hg : g < 384) (fault : Bool)
    (hb : b ∈ [0, 2, 3, 4]) (h : s.rawBit g b = true) : (s.declareLol lead fault).rawBit g b = true := by
  by_cases hi : s.rxFmt lead ≠ 6 ∨ s.rawBit lead 4 = true
  · rw [State.declareLol_idle fault hi, h]
  · obtain ⟨h6, h4⟩ := not_or.1 hi
    have hf : (s.lolDeclared lead fault).rxFmt lead ≠ 0 := by
      rw [(s.lolDeclared_hunting lead fault).rxFmt hl, not_not.1 h6]; decide
    rw [State.declareLol_eq fault (not_not.1 h6) (by simpa using h4), State.rawBit_defectsFrom _ hl _ hg hf hb,
      s.rawBit_lolDeclared fault hl hg h]

/-! ### The end of a change -/

/-- What a change of framer `f` ends with: its defects, FF_STATE, its group. -/
def State.afterChange (s : State) (f : Nat) (old : DefView) : State := ((s.defectsFrom f old).showFrame f).groupCheck f

/-- The check of a group declares LOL, or shows the lanes alone. -/
theorem State.groupCheck_cases (s : State) (f : Nat) : s.Aside (s.groupCheck f) ∨
    f < 192 ∧ ∃ u fault, s.Aside u ∧ s.groupCheck f = u.declareLol (leadOf f) fault := by
  unfold State.groupCheck
  extract_lets lead u
  have hu : s.Aside u := Spares.iteThen (Aside.refl s) (s.showLanes_aside f)
  split
  · exact .inl (Aside.refl s)
  next h =>
    have hf : f < 192 := not_le.1 h
    split
    · exact .inr ⟨hf, u, false, hu, rfl⟩
    · split
      · exact .inr ⟨hf, u, true, hu, rfl⟩
      · exact .inl hu

theorem State.groupCheck_hunting (s : State) (f : Nat) : s.Hunting (s.groupCheck f) := by
  rcases s.groupCheck_cases f with h | ⟨hf, u, fault, hu, e⟩
  · exact h.hunting
  · rw [e]; exact hu.hunting.trans (u.declareLol_hunting (leadOf_lt hf) fault)

theorem State.hunter_groupCheck (s : State) (f g : Nat) {p : Nat} (hp : p ≠ 5) : (s.groupCheck f).hunter g p = s.hunter g p := by
  rcases s.groupCheck_cases f with h | ⟨hf, u, fault, hu, e⟩
  · exact h.hunter g p
  · rw [e, u.hunter_declareLol (leadOf_lt hf) fault g hp, hu.hunter g p]

theorem State.rawBit_groupCheck (s : State) (f : Nat) {g b : Nat} (hg : g < 384) (hb : b ∈ [0, 2, 3, 4])
    (h : s.rawBit g b = true) : (s.groupCheck f).rawBit g b = true := by
  rcases s.groupCheck_cases f with ha | ⟨hf, u, fault, hu, e⟩
  · rw [ha.rawBit hg, h]
  · rw [e]
    exact u.rawBit_declareLol (leadOf_lt hf) hg fault hb (by rw [hu.rawBit hg, h])

section

variable (s : State) {f : Nat} (hf : f < 384) (old : DefView)
include hf

theorem State.afterChange_hunting : s.Hunting (s.afterChange f old) :=
  (((Hunting.refl s).defectsFrom hf old).trans (State.showFrame_aside _ f).hunting).trans (State.groupCheck_hunting _ f)

theorem State.hunter_afterChange (g : Nat) {p : Nat} (hp : p ≠ 5) : (s.afterChange f old).hunter g p = s.hunter g p := by
  rw [State.afterChange, State.hunter_groupCheck _ f g hp, (State.showFrame_aside _ f).hunter, State.hunter_defectsFrom _ hf]

theorem State.rawBit_afterChange {g b : Nat} (hg : g < 384) (h0 : s.rxFmt f ≠ 0) (hb : b ∈ [0, 2, 3, 4])
    (h : s.rawBit g b = true) :
    (s.afterChange f old).rawBit g b = true := by
  refine State.rawBit_groupCheck _ f hg hb ?_
  rw [(State.showFrame_aside _ f).rawBit hg, State.rawBit_defectsFrom _ hf _ hg h0 hb, h]

theorem State.rd_afterChange {g o : Nat} (hg : g < 384) (ho : o ∈ huntRx) : (s.afterChange f old).rd (rxA g o) = s.rd (rxA g o) :=
  (s.afterChange_hunting hf old).rd hg ho

end

end Sys2Proof.Machine
end

section
/-! FORMAT and REHUNT (R30, R36): a format loads its presets and hunts; REHUNT hunts again. -/

namespace Sys2Proof.Machine

open Sys2Proof.Cert
open State (SparesRx Spares Aside Hunting)

theorem exec_formatChange (f : Chan) (fmt : BitVec 4) (s : State) : exec (.formatChange f fmt) s = execFormatChange f fmt s := rfl
theorem exec_rehunt (f : Chan) (s : State) : exec (.rehunt f) s = execRehunt f s := rfl

/-! ### Every hunter hunts anew (R36) -/

/-- The hunters of the list go out of frame, and hunt from the next bit. -/
def State.huntEach (s : State) (f : Nat) (l : List Nat) : State :=
  l.foldl (fun s p => (s.goOof f p).enterHunt f p none) s

/-- The hunter is out of frame and hunts from the next bit, held where the framer has LOS. -/
def Hunter.HuntsAnew (los : Bool) (h : Hunter) : Prop := h.HuntsFrom none los ∧ h.oof = true

section

variable (s : State) {f : Nat} (hf : f < 384)
include hf

theorem State.huntEach_hunting (l : List Nat) : s.Hunting (s.huntEach f l) :=
  Spares.foldl (Hunting.refl s) fun u p _ => (u.goOof_hunting f p).trans (State.enterHunt_hunting _ hf p none)

theorem State.rawBit_enterHunt (p : Nat) (start : Option Nat) (b : Nat) : (s.enterHunt f p start).rawBit f b = s.rawBit f b :=
  State.rawBit_congr (s.rd_enterHunt hf p start hf (by decide)) b

theorem State.rawBit_huntEach (l : List Nat) {b : Nat} (hb : b ≠ 2) : (s.huntEach f l).rawBit f b = s.rawBit f b :=
  foldl_keeps (fun u => u.rawBit f b = s.rawBit f b) _ l (fun u p _ hu => by
    rw [State.rawBit_enterHunt _ hf, State.rawBit_goOof_ne _ _ _ hb, hu]) s rfl

omit hf in
/-- A hunter that hunts anew does so after any other hunter has been made to, and after it has been itself. -/
theorem State.huntsAnew_step {los : Bool} (h0 : s.rawBit f 0 = los) (q p : Nat)
    (h : q = p ∨ (s.hunter f p).HuntsAnew los) : (((s.goOof f q).enterHunt f q none).hunter f p).HuntsAnew los := by
  by_cases e : p = q
  · subst e
    obtain ⟨hh, ho⟩ := (s.goOof f p).hunter_enterHunt_same f p none
    rw [State.rawBit_goOof_ne _ _ _ (by decide), h0] at hh
    exact ⟨hh, by rw [ho, s.hunter_goOof_same]⟩
  · rw [State.hunter_enterHunt_ne _ _ (.inr e), State.hunter_goOof_ne _ (.inr e)]
    exact h.resolve_left fun k => e k.symm

theorem State.hunter_huntEach (l : List Nat) {p : Nat} (hp : p ∈ l) :
    ((s.huntEach f l).hunter f p).HuntsAnew (s.rawBit f 0) := by
  induction l generalizing s with
  | nil => cases hp
  | cons q rest ih =>
    have h0 : ((s.goOof f q).enterHunt f q none).rawBit f 0 = s.rawBit f 0 := s.rawBit_huntEach hf [q] (by decide)
    rcases List.mem_cons.1 hp with rfl | hp
    · refine (foldl_keeps (fun u => u.rawBit f 0 = s.rawBit f 0 ∧ (u.hunter f p).HuntsAnew (s.rawBit f 0)) _ rest
        (fun u q _ hu => ?_) _ ⟨h0, s.huntsAnew_step rfl p p (.inl rfl)⟩).2
      exact ⟨(u.rawBit_huntEach hf [q] (by decide)).trans hu.1, u.huntsAnew_step hu.1 q p (.inr hu.2)⟩
    · rw [← h0]
      exact ih _ hp

end

theorem phasesOf_lt {fmt p : Nat} (h : p ∈ phasesOf fmt) : p < 5 := by
  unfold phasesOf at h
  split at h
  · simp only [List.mem_cons, List.not_mem_nil, or_false] at h; omega
  · rw [List.mem_singleton] at h; omega

/-! ### The end of a block reset, and a new format (R30, R36) -/

/-- OOF and LOF at once, and HUNT at the next bit. -/
theorem State.startHunt_eq (s : State) {f : Nat} (hf : f < 384) :
    s.Hunting (s.startHunt f) ∧ (s.startHunt f).rawBit f 2 = true ∧
      ∀ p ∈ phasesOf (s.rxFmt f), ((s.startHunt f).hunter f p).HuntsAnew (s.rawBit f 0) := by
  unfold State.startHunt
  extract_lets fmt u
  have hu : s.Hunting u := s.huntEach_hunting hf _
  have hv : ∀ c : Prop, ∀ [Decidable c], s.Hunting (if c then (u.goOof f 5).setRaw f 4 true else u) := fun c _ =>
    Spares.iteThen hu ((u.goOof_hunting f 5).setRaw f 4 true)
  refine ⟨(hv _).trans (State.setLof_hunting _ f true), State.rawBit_setLof _ f true, fun p hp => ?_⟩
  have hp5 : p ≠ 5 := by have := phasesOf_lt hp; omega
  have hsame : ∀ c : Prop, ∀ [Decidable c], (if c then (u.goOof f 5).setRaw f 4 true else u).hunter f p = u.hunter f p :=
    fun c _ => by
      split
      · exact (State.hunter_of_framers rfl f p).trans (u.hunter_goOof_ne (.inr hp5))
      · rfl
  rw [State.hunter_setLof, hsame]
  exact s.hunter_huntEach hf _ hp

/-- Everything of the format but what it is and the length of its frame. -/
abbrev formatSide : Area := rxBut [0x100, 0x118] (by decide)

theorem rxA_formatSide {f o : Nat} (ho : o < 0x1000) (h : o ∉ [0x100, 0x118]) : formatSide.has (rxA f o) := rxA_rxBut ho h

/-- What is not looked at of a framer. -/
abbrev State.KeepsFormat (s t : State) : Prop := s.Spares formatSide (fun _ => ()) t

theorem State.KeepsFormat.refl (s : State) : s.KeepsFormat s := Spares.refl _ _ s

theorem presetLen_lt (fmt : Nat) : (presetOf fmt).2.2.1 < 2 ^ 32 := by
  unfold presetOf
  split <;> decide

/-- The presets of a format are loaded: the length of its frame with them; FORMAT stays. -/
theorem State.loadPresets_eq (s : State) {f : Nat} (hf : f < 384) (fmt : Nat) :
    (s.loadPresets f fmt).rd (rxA f 0x100) = s.rd (rxA f 0x100) ∧
      (s.loadPresets f fmt).nat (rxA f 0x118) = (presetOf fmt).2.2.1 := by
  have hlen := presetLen_lt fmt
  unfold State.loadPresets
  generalize presetOf fmt = preset at hlen
  obtain ⟨pat, mask, len, anchor⟩ := preset
  dsimp -zeta only at hlen ⊢
  extract_lets s1 s2 s3 s4 s5 s6
  have hother : ∀ {o p}, o < 0x1000 → p < 0x1000 → o ≠ p → rxA f o ≠ rxA f p := rxA_ne
  have h2 : s2.rd (rxA f 0x100) = s.rd (rxA f 0x100) ∧ s2.nat (rxA f 0x118) = len := by
    refine ⟨?_, (State.nat_wrN_same _ _ _).trans (Nat.mod_eq_of_lt hlen)⟩
    unfold s2 s1
    rw [State.rd_wrN_ne _ _ (hother (by omega) (by omega) (by omega)), State.rd_wrN_ne _ _ (hother (by omega) (by omega) (by omega)),
      State.rd_wrN_ne _ _ (hother (by omega) (by omega) (by omega)), State.rd_wrN_ne _ _ (hother (by omega) (by omega) (by omega)),
      State.rd_wrN_ne _ _ (hother (by omega) (by omega) (by omega))]
  have hs : ∀ {o}, o < 0x1000 → o ∉ [0x100, 0x118] → formatSide.has (rxA f o) := rxA_formatSide
  have h3 : s2.KeepsFormat s3 :=
    Spares.iteElse (KeepsFormat.refl s2) (Spares.wrN (KeepsFormat.refl s2) (hs (by omega) (by decide)) _)
  have h4 : s2.KeepsFormat s4 := by
    have ha := hs (o := 0x120) (by omega) (by decide)
    exact Spares.setFld (Spares.setFld (Spares.setFld h3 ha _ _ _) ha _ _ _) ha _ _ _
  have h5 : s2.KeepsFormat s5 := by
    have ha := hs (o := 0x124) (by omega) (by decide)
    exact Spares.setFld (Spares.setFld (Spares.setFld h4 ha _ _ _) ha _ _ _) (hs (by omega) (by decide)) _ _ _
  have h6 : s2.KeepsFormat s6 :=
    Spares.iteThen h5 (Spares.setFld (KeepsFormat.refl s5) (hs (by omega) (by decide)) _ _ _)
  have h7 : ∀ k n, s2.KeepsFormat ((s6.setFld (rxA f 0x1B0) 4 0 k).setFld (rxA f 0x1B0) 27 16 n) := fun k n =>
    Spares.setFld (Spares.setFld h6 (hs (by omega) (by decide)) _ _ _) (hs (by omega) (by decide)) _ _ _
  have hkeep : ∀ u, s2.KeepsFormat u → u.rd (rxA f 0x100) = s.rd (rxA f 0x100) ∧ u.nat (rxA f 0x118) = len := fun u hu =>
    ⟨(hu.regs _ (not_rxBut hf (by omega) (by decide))).trans h2.1,
      (State.nat_congr (hu.regs _ (not_rxBut hf (by omega) (by decide)))).trans h2.2⟩
  split
  · exact hkeep _ (h7 _ _)
  · exact hkeep _ h6

/-- A framer takes a format: FORMAT, the presets, and its detectors as at reset. -/
def State.reformatted (s : State) (f fmt : Nat) : State :=
  let los := s.rawBit f 0
  let x := s.framer f
  let off := s.rxFmt f = 0
  let s := ((s.setFld (rxA f 0x100) 3 0 fmt).loadPresets f fmt).setFramer f { x.cleared with
    hunters := s.freshHunters f fmt false, pdefEff := x.pdefEff, detSince := if off then s.now else x.detSince }
  let s := ((s.wrN (rxA f 0x204) 0).clearRegs (rxA f 0x210) (rxA f 0x228)).clearRegs (rxA f 0x198) (rxA f 0x19C)
  (s.clearRegs (rxA f 0x190) (rxA f 0x194)).setRaw f 0 los

/-- A run of registers of one receive framer. -/
theorem rxA_between {f lo hi a : Nat} (hh : hi < 0x1000) (h1 : rxA f lo ≤ a) (h2 : a < rxA f hi) :
    lo ≤ a % 0x1000 ∧ a % 0x1000 < hi := by
  unfold rxA at h1 h2
  split at h1
  next h => rw [if_pos h] at h2; omega
  next h => rw [if_neg h] at h2; omega

theorem State.KeepsFormat.clearRegs {s t : State} (h : s.KeepsFormat t) {f lo hi : Nat} (hl : 0x118 < lo)
    (hh : hi < 0x1000) : s.KeepsFormat (t.clearRegs (rxA f lo) (rxA f hi)) :=
  Spares.clearRegs h fun a h1 h2 => .inr (by
    obtain ⟨hlo, _⟩ := rxA_between hh h1 h2
    simp only [List.mem_cons, List.not_mem_nil, or_false]
    omega)

theorem State.reformatted_eq (s : State) {f fmt : Nat} (hf : f < 384) (hfmt : fmt < 16) :
    (s.reformatted f fmt).rxFmt f = fmt ∧ (s.reformatted f fmt).nat (rxA f 0x118) = (presetOf fmt).2.2.1 := by
  obtain ⟨hf100, hlen⟩ := (s.setFld (rxA f 0x100) 3 0 fmt).loadPresets_eq hf fmt
  have hown : (s.setFld (rxA f 0x100) 3 0 fmt).fld (rxA f 0x100) 3 0 = fmt := by
    rw [State.fld_setFld_same _ _ (by omega) (by omega)]
    exact Nat.mod_eq_of_lt (by omega)
  have hs : ∀ {o}, o < 0x1000 → o ∉ [0x100, 0x118] → formatSide.has (rxA f o) := rxA_formatSide
  suffices h : ((s.setFld (rxA f 0x100) 3 0 fmt).loadPresets f fmt).KeepsFormat (s.reformatted f fmt) by
    have h100 := h.regs _ (not_rxBut hf (by omega) (by decide) : ¬ formatSide.has (rxA f 0x100))
    have h118 := h.regs _ (not_rxBut hf (by omega) (by decide) : ¬ formatSide.has (rxA f 0x118))
    exact ⟨(State.fld_congr (h100.trans hf100) 3 0).trans hown, (State.nat_congr h118).trans hlen⟩
  unfold State.reformatted
  extract_lets los x off y v1 v2
  have h1 : State.KeepsFormat _ v1 := Spares.setFramer (KeepsFormat.refl _) rfl
  have h2 : State.KeepsFormat _ v2 :=
    KeepsFormat.clearRegs (KeepsFormat.clearRegs (Spares.wrN h1 (hs (by omega) (by decide)) _) (by omega) (by omega))
      (by omega) (by omega)
  exact Spares.setBit (KeepsFormat.clearRegs h2 (by omega) (by omega)) (hs (by omega) (by decide)) 0 los

theorem State.disableRx_rxFmt (s : State) {f : Nat} (hf : f < 384) : (s.disableRx f).rxFmt f = 0 := by
  have hs : ∀ {o}, o < 0x1000 → o ∉ [0x100, 0x118] → formatSide.has (rxA f o) := rxA_formatSide
  suffices h : ((s.losOver f).setFld (rxA f 0x100) 3 0 0).KeepsFormat (s.disableRx f) by
    have h100 := h.regs _ (not_rxBut hf (by omega) (by decide) : ¬ formatSide.has (rxA f 0x100))
    rw [State.rxFmt, State.fld_congr h100, State.fld_setFld_same _ _ (by omega) (by omega), Nat.zero_mod]
  unfold State.disableRx
  extract_lets v1 y v2 v3
  have h2 : v1.KeepsFormat v2 := Spares.setFramer (KeepsFormat.refl _) rfl
  have h3 : v1.KeepsFormat v3 := KeepsFormat.clearRegs (Spares.wrN (Spares.wrN (Spares.wrN h2 (hs (by omega) (by decide)) _)
    (hs (by omega) (by decide)) _) (hs (by omega) (by decide)) _) (by omega) (by omega)
  have h4 := KeepsFormat.clearRegs (f := f) (lo := 0x190) (hi := 0x194) h3 (by omega) (by omega)
  have h5 := KeepsFormat.clearRegs (f := f) (lo := 0x198) (hi := 0x19C) h4 (by omega) (by omega)
  exact h5.trans (State.carriedFollow_sparesRx _ f).seen

/-! ### The commands (R30, R36) -/

/-- A write of FORMAT, and then what follows from it elsewhere. -/
theorem State.rxFormatWrite_aside (s : State) (f fmt : Nat) : (s.formatWrite f fmt).Aside (s.rxFormatWrite f fmt) := by
  unfold State.rxFormatWrite
  extract_lets t r sig u
  have hu : t.Aside u := Spares.iteElse (Aside.refl t) (t.sinksLose_sparesRx r sig).seen
  refine Spares.iteElse (Aside.refl t) (hu.trans ?_)
  have h : u.SparesRx ((u.formatFollow f true).pairsFollow s) :=
    (u.formatFollow_sparesRx f true).trans (State.pairsFollow_sparesRx _ s)
  exact h.seen.trans (State.formatSeen_aside _ f)

theorem State.formatWrite_new {s : State} {f fmt : Nat} (hok : fmtOk f fmt = true) (h0 : fmt ≠ 0) (hne : fmt ≠ s.rxFmt f) :
    s.formatWrite f fmt = ((s.reformatted f fmt).startHunt f).afterChange f (s.defView f) := by
  simp only [State.formatWrite, hok, Bool.not_true, Bool.false_eq_true, if_false, if_neg hne, if_neg h0]
  rfl

/-- A format that is refused, and format 0, turn the framer off. -/
theorem State.formatWrite_off {s : State} {f fmt : Nat} (hf : f < 384) (h : fmtOk f fmt = false ∨ fmt = 0) :
    (s.formatWrite f fmt).rxFmt f = 0 := by
  unfold State.formatWrite
  extract_lets bad u fmt' v
  have h0 : fmt' = 0 := by
    unfold fmt'
    rcases h with h | h
    · rw [if_pos (by simp [bad, h])]
    · split
      · rfl
      · exact h
  rw [h0]
  by_cases hu : 0 = u.rxFmt f
  · rw [if_pos hu, hu]
  · rw [if_neg hu]
    have hv : v.rxFmt f = 0 := by
      show (if fmt' = 0 then u.disableRx f else u.enableRx f fmt').rxFmt f = 0
      rw [if_pos h0]
      exact u.disableRx_rxFmt hf
    rw [(State.groupCheck_hunting _ f).rxFmt hf, (State.showFrame_aside v f).rxFmt hf, hv]

/-- A valid format: the framer has it with its presets, is in LOF, and its hunters hunt. -/
theorem formatChange_accepted {f : Chan} {fmt : BitVec 4} {s : State} (h : hostAt s (rxA f 0x100))
    (hok : fmtOk f fmt.toNat = true) (h0 : fmt ≠ 0) (hne : fmt.toNat ≠ s.rxFmt f) :
    completes (.formatChange f fmt) s (fun t =>
      t.rxFmt f = fmt.toNat ∧ t.nat (rxA f 0x118) = (presetOf fmt.toNat).2.2.1 ∧ t.rawBit f 2 = true ∧
      ∀ p ∈ phasesOf fmt.toNat, (t.hunter f p).state = .hunt ∧ (t.hunter f p).oof = true) := by
  obtain ⟨hreach, hlow, hin⟩ := h
  have hf : f.val < 384 := f.isLt
  have h0' : fmt.toNat ≠ 0 := fun e => h0 (BitVec.eq_of_toNat_eq e)
  refine completes_of_done ((exec_formatChange f fmt s).trans
    (congrArg (done s) (s.hostTo_acts _ hreach hlow hin))) ?_
  generalize hv : s.tallyHif 3 1 = v
  have hvf : v.rxFmt f = s.rxFmt f := by
    rw [← hv]
    refine State.rxFmt_congr (s.rd_tallyHif_ne 3 1 fun hc => not_offRx_rxA hf (by omega) (offRx.count hc))
  obtain ⟨hfmt, hlen⟩ := v.reformatted_eq hf fmt.isLt
  obtain ⟨hhunt, hlof, heach⟩ := (v.reformatted f fmt.toNat).startHunt_eq hf
  have haside := v.rxFormatWrite_aside f fmt.toNat
  rw [State.formatWrite_new hok h0' (by rw [hvf]; exact hne)] at haside
  generalize (v.reformatted f fmt.toNat).startHunt f = w at *
  have hw : w.rxFmt f = fmt.toNat := (hhunt.rxFmt hf).trans hfmt
  have hafter := w.afterChange_hunting hf (v.defView f)
  have hf' : (v.rxFormatWrite f fmt.toNat).rxFmt f = fmt.toNat := by rw [haside.rxFmt hf, hafter.rxFmt hf, hw]
  have hl' : (v.rxFormatWrite f fmt.toNat).nat (rxA f 0x118) = (presetOf fmt.toNat).2.2.1 :=
    (State.nat_congr ((haside.rd hf (by decide)).trans ((hafter.rd hf (by decide)).trans (hhunt.rd hf (by decide))))).trans hlen
  have hr' : (v.rxFormatWrite f fmt.toNat).rawBit f 2 = true := by
    rw [haside.rawBit hf]
    exact w.rawBit_afterChange hf _ hf (by rw [hw]; exact h0') (by decide) hlof
  have hh' : ∀ p ∈ phasesOf fmt.toNat, ((v.rxFormatWrite f fmt.toNat).hunter f p).state = .hunt ∧
      ((v.rxFormatWrite f fmt.toNat).hunter f p).oof = true := fun p hp => by
    obtain ⟨hp1, hp2⟩ := heach p (by rw [hfmt]; exact hp)
    rw [haside.hunter, w.hunter_afterChange hf _ f (by have := phasesOf_lt hp; omega)]
    exact ⟨hp1.state, hp2⟩
  generalize v.rxFormatWrite f fmt.toNat = t at hf' hl' hr' hh' ⊢
  exact ⟨hf', hl', hr', hh'⟩

theorem formatChange_off {f : Chan} {fmt : BitVec 4} {s : State} (h : hostAt s (rxA f 0x100))
    (hoff : fmtOk f fmt.toNat = false ∨ fmt = 0) : completes (.formatChange f fmt) s (fun t => t.rxFmt f = 0) := by
  obtain ⟨hreach, hlow, hin⟩ := h
  refine completes_of_done ((exec_formatChange f fmt s).trans
    (congrArg (done s) (s.hostTo_acts _ hreach hlow hin))) ?_
  show ((s.tallyHif 3 1).rxFormatWrite f fmt.toNat).rxFmt f = 0
  rw [(State.rxFormatWrite_aside _ f _).rxFmt f.isLt]
  exact State.formatWrite_off f.isLt (hoff.imp_right fun e => by rw [e]; rfl)

/-- REHUNT: every hunter of the format is out of frame and hunts with no candidates. -/
theorem rehunt_hunts {f : Chan} {s : State} (h : hostAt s (rxA f 0x104)) (h0 : s.rxFmt f ≠ 0) :
    completes (.rehunt f) s (fun t => ∀ p ∈ phasesOf (s.rxFmt f), (t.hunter f p).state = .hunt ∧
      (t.hunter f p).cands = [] ∧ (t.hunter f p).oof = true) := by
  obtain ⟨hreach, hlow, hin⟩ := h
  refine completes_of_done ((exec_rehunt f s).trans (congrArg (done s) (s.hostTo_acts _ hreach hlow hin))) ?_
  generalize hv : s.tallyHif 3 1 = v
  have hvf : v.rxFmt f = s.rxFmt f := by
    rw [← hv]
    exact State.rxFmt_congr (s.rd_tallyHif_ne 3 1 fun hc => not_offRx_rxA f.isLt (by omega) (offRx.count hc))
  have hre : v.rehunt f = (v.huntAgain f).afterChange f (v.defView f) := by
    rw [State.rehunt, if_neg (by rw [hvf]; exact h0)]
    rfl
  have hh : ∀ p ∈ phasesOf (s.rxFmt f), ((v.rehunt f).hunter f p).HuntsAnew (v.rawBit f 0) := fun p hp => by
    rw [hre, State.hunter_afterChange _ f.isLt _ f (by have := phasesOf_lt hp; omega)]
    exact State.hunter_huntEach (v.setFramer f _) f.isLt _ (by rw [← hvf] at hp; exact hp)
  generalize v.rehunt f = t at hh ⊢
  intro p hp
  obtain ⟨h1, h2⟩ := hh p hp
  exact ⟨h1.state, h1.cands, h2⟩

end Sys2Proof.Machine
end

section
/-! The bits of a hunt: what a match or a miss does to the candidates (R32, R33, R40, R49). -/

namespace Sys2Proof.Machine

open Sys2Proof.Cert
open State (SparesRx Spares Aside Hunting)

theorem exec_huntMatch (f : Chan) (p : Fin 5) (pos : Nat) (x : MatchIn) (s : State) :
    exec (.huntMatch f p pos x) s = execHuntMatch f p pos x s := rfl

/-! ### What a hunter sees (R32, R40) -/

/-- The framer has the same hunters and, EAV_SPACING apart, the same registers. -/
structure State.SeesAs (f : Nat) (s v : State) : Prop where
  hunters : ∀ p, v.hunter f p = s.hunter f p
  regs : ∀ o, o < 0x1000 → o ≠ 0x1B4 → v.rd (rxA f o) = s.rd (rxA f o)

namespace State.SeesAs

variable {f : Nat} {s v : State}

theorem rxFmt (h : State.SeesAs f s v) : v.rxFmt f = s.rxFmt f := State.rxFmt_congr (h.regs _ (by omega) (by omega))

theorem descrambleOff (h : State.SeesAs f s v) : v.descrambleOff f = s.descrambleOff f :=
  State.bit_congr (h.regs _ (by omega) (by omega)) 1

theorem streams (h : State.SeesAs f s v) : v.streams f = s.streams f := by
  rw [State.streams, State.streams, State.fld_congr (h.regs _ (by omega) (by omega))]

theorem nextLine (h : State.SeesAs f s v) : v.nextLine f = s.nextLine f := by
  funext n
  rw [State.nextLine, State.nextLine, State.fld_congr (h.regs _ (by omega) (by omega))]

theorem clearByte (h : State.SeesAs f s v) : v.clearByte f = s.clearByte f := by
  funext m b
  rw [State.clearByte, State.clearByte, h.descrambleOff, h.rxFmt]

theorem matchTag (h : State.SeesAs f s v) (x : MatchIn) : v.matchTag f x = s.matchTag f x := by
  rw [State.matchTag, State.matchTag, h.rxFmt, h.clearByte]

theorem evidence (h : State.SeesAs f s v) (c : Cand) (x : MatchIn) : v.evidence f c x = s.evidence f c x := by
  rw [State.evidence, State.evidence, h.rxFmt, h.matchTag, h.clearByte, h.streams, h.nextLine]

theorem patternAt (h : State.SeesAs f s v) (p : Nat) (w : BitVec 74) : v.patternAt f p w = s.patternAt f p w := by
  rw [State.patternAt, State.patternAt, h.rxFmt, h.descrambleOff, h.hunters]

theorem hunts (h : State.SeesAs f s v) (p : Nat) : v.hunts f p = s.hunts f p := by
  rw [State.hunts, State.hunts, h.hunters]

end State.SeesAs

theorem State.trsSeen_seesAs (s : State) (f pos : Nat) : State.SeesAs f s (s.trsSeen f pos) := by
  have hset : ∀ u : State, (∀ o, o < 0x1000 → o ≠ 0x1B4 → u.rd (rxA f o) = s.rd (rxA f o)) →
      (∀ p, u.hunter f p = s.hunter f p) → ∀ n, State.SeesAs f s (u.setFramer f { u.framer f with trsSeen := n }) :=
    fun u hr hu n => ⟨fun p => (State.hunter_setFramer (by rfl) f p).trans (hu p), hr⟩
  have hbit : ∀ (u : State) (b : Bool), ∀ o, o < 0x1000 → o ≠ 0x1B4 →
      (u.setBit (rxA f 0x1B4) 31 b).rd (rxA f o) = u.rd (rxA f o) := fun u b o ho h =>
    u.rd_setBit_ne _ _ (rxA_ne ho (by omega) h)
  unfold State.trsSeen
  extract_lets last u
  split
  · exact ⟨fun _ => rfl, fun _ _ _ => rfl⟩
  · refine hset u (fun o ho h => ?_) (fun p => ?_) _
    · unfold u
      split
      · exact hbit s false o ho h
      · exact (hbit _ true o ho h).trans (s.rd_setFld_ne _ _ _ (rxA_ne ho (by omega) h))
    · unfold u
      split
      · exact State.hunter_of_framers (State.setBit_framers _ _ _ _) f p
      · exact State.hunter_of_framers ((State.setBit_framers _ _ _ _).trans (State.setFld_framers _ _ _ _ _)) f p

/-! ### The place to be judged (R32, R33) -/

/-- The hunter once the line has brought bit `pos` in its window. -/
def Hunter.judging (h : Hunter) (pos : Nat) (x : MatchIn) : Hunter :=
  let st := h.start.getD (max h.bit (min x.start pos))
  let win := if h.cands = [] then max h.win ((pos - st) / max 1 h.frameLen) else h.win
  { h with start := some st, win := win, bit := pos + 1 }

/-- Bit `pos` is the next to be judged: not judged yet, in the window, and past no expected position. -/
structure Hunter.Awaits (h : Hunter) (pos : Nat) (x : MatchIn) : Prop where
  fresh : h.bit ≤ pos
  inWindow : let st := h.start.getD (max h.bit (min x.start pos))
    let win := if h.cands = [] then max h.win ((pos - st) / max 1 h.frameLen) else h.win
    pos < st + (win + 1) * h.frameLen
  expected : ∀ c ∈ h.cands, pos ≤ c.pos + h.frameLen

theorem State.huntMatch_judges {s : State} {f p pos : Nat} {x : MatchIn} (h : (s.hunter f p).Awaits pos x) :
    s.huntMatch f p pos x = (s.setHunter f p ((s.hunter f p).judging pos x)).judgeMatch f p pos x := by
  obtain ⟨hfresh, hwin, hexp⟩ := h
  unfold State.huntMatch Hunter.judging
  simp only [List.isEmpty_iff]
  rw [if_pos]
  exact ⟨hfresh, hwin, List.all_eq_true.2 fun c hc => decide_eq_true (hexp c hc)⟩

section

variable {w : State} {f p pos : Nat} {x : MatchIn} {k : Hunter}

/-- A match where a candidate expects it confirms that candidate, with its evidence. -/
theorem State.judgeMatch_confirms (hk : w.hunter f p = k) {c : Cand}
    (hc : k.cands.find? (fun c => c.pos + k.frameLen == pos) = some c)
    (hm : w.patternAt f p x.window = true) : w.judgeMatch f p pos x = w.setHunter f p { k with cands := k.cands.map (fun d =>
      if d = c then { c with pos := pos, count := c.count + 1, ev := some (w.evidence f c x), evPrev := c.ev,
                             tag := w.matchTag f x } else d) } := by
  simp only [State.judgeMatch, hk, hc, hm, if_true]

/-- A miss where a candidate expects a match drops it, where others are left or the hunter is in HUNT. -/
theorem State.judgeMatch_drops (hk : w.hunter f p = k) {c : Cand}
    (hc : k.cands.find? (fun c => c.pos + k.frameLen == pos) = some c)
    (hm : w.patternAt f p x.window = false) (hleft : k.state = .hunt ∨ k.cands.filter (fun d => d != c) ≠ []) :
    w.judgeMatch f p pos x = w.setHunter f p { k with cands := k.cands.filter (fun d => d != c) } := by
  have hgo : (k.state == .ambiguous && (k.cands.filter (fun d => d != c)).isEmpty) = false := by
    rcases hleft with h | h
    · rw [h]; rfl
    · rw [List.isEmpty_eq_false_iff.2 h, Bool.and_false]
  simp only [State.judgeMatch, hk, hc, hm, hgo, Bool.false_eq_true, if_false]

/-- The last candidate of an AMBIGUOUS hunter is dropped: the episode ends without a decision. -/
theorem State.judgeMatch_unresolved (hk : w.hunter f p = k) {c : Cand}
    (hc : k.cands.find? (fun c => c.pos + k.frameLen == pos) = some c) (hm : w.patternAt f p x.window = false)
    (ha : k.state = .ambiguous) (hnone : k.cands.filter (fun d => d != c) = []) :
    w.judgeMatch f p pos x = (w.setHunter f p { k with cands := [] }).unresolved f p (pos + 1) := by
  simp [State.judgeMatch, hk, hc, hm, ha, hnone]

/-- Where no candidate expects a match, what is no match, and any match but in HUNT, changes nothing. -/
theorem State.judgeMatch_ignores (hk : w.hunter f p = k) (hc : k.cands.find? (fun c => c.pos + k.frameLen == pos) = none)
    (h : w.patternAt f p x.window = false ∨ k.state ≠ .hunt ∨
      famOf (w.rxFmt f) = 3 ∧ xyzValid (w.streams f) x.xyz = false) : w.judgeMatch f p pos x = w := by
  have hgo : (!w.patternAt f p x.window || k.state != .hunt ||
      (famOf (w.rxFmt f) == 3 && !xyzValid (w.streams f) x.xyz)) = true := by
    rcases h with h | h | ⟨h1, h2⟩
    · simp [h]
    · simp [h]
    · simp [h1, h2]
  simp only [State.judgeMatch, hk, hc, hgo, if_true]

/-- Where no candidate expects it, a match in HUNT becomes a candidate, if there are fewer than eight. -/
theorem State.judgeMatch_new (hk : w.hunter f p = k) (hc : k.cands.find? (fun c => c.pos + k.frameLen == pos) = none)
    (hm : w.patternAt f p x.window = true) (hs : k.state = .hunt)
    (hx : famOf (w.rxFmt f) = 3 → xyzValid (w.streams f) x.xyz = true) :
    w.judgeMatch f p pos x = if k.cands.length < 8 then
        w.setHunter f p { k with cands := k.cands ++
          [{ pos := pos, count := 1, ev := none, evPrev := none, tag := w.matchTag f x }] }
      else ((w.inc (rxA f 0x148)).event (rxA f 0x12C) 7).raise (rxSrc f) 0x08 false 0 := by
  have hgo : (!w.patternAt f p x.window || k.state != .hunt ||
      (famOf (w.rxFmt f) == 3 && !xyzValid (w.streams f) x.xyz)) = false := by
    by_cases h3 : famOf (w.rxFmt f) = 3
    · simp [hm, hs, hx h3]
    · simp [hm, hs, h3]
  simp only [State.judgeMatch, hk, hc, hgo, Bool.false_eq_true, if_false]

end

/-! ### The command -/

/-- A hunting hunter judges the next bit, after the spacing of TRSs is measured. -/
theorem execHuntMatch_judges {f : Chan} {p : Fin 5} {pos : Nat} {x : MatchIn} {s : State} (hr : s.rxRuns f = true)
    (hp : p.val ∈ phasesOf (s.rxFmt f)) (h0 : s.rxFmt f ≠ 0) (hh : s.hunts f p = true) (ha : (s.hunter f p).Awaits pos x) :
    ∃ v old, State.SeesAs f s v ∧ exec (.huntMatch f p pos x) s =
      done s (((v.setHunter f p ((s.hunter f p).judging pos x)).judgeMatch f p pos x).afterChange f old) := by
  have hexec : exec (.huntMatch f p pos x) s = done s (s.lineMatch f p pos x) := by
    rw [exec_huntMatch, execHuntMatch, if_pos (by simp [hr, hp, h0])]
  rw [hexec]
  unfold State.lineMatch
  extract_lets h v u
  have hv : State.SeesAs f s v := by
    unfold v
    split
    · exact s.trsSeen_seesAs f pos
    · exact ⟨fun _ => rfl, fun _ _ _ => rfl⟩
  refine ⟨v, v.defView f, hv, ?_⟩
  have hu : u = (v.huntMatch f p pos x).defectsFrom f (v.defView f) := if_pos ((hv.hunts p).trans hh)
  rw [hu, State.huntMatch_judges (by rw [hv.hunters]; exact ha), hv.hunters]
  rfl

end Sys2Proof.Machine
end

section
/-! HUNT_MATCH, and the ends of AMBIGUOUS episodes (R33, R36, R41). -/

namespace Sys2Proof.Machine

open Sys2Proof.Cert
open State (SparesRx Spares Aside Hunting SeesAs)

/-! ### An episode that ends without a decision (R36, R41) -/

theorem State.rd_raised {s : State} {f : Nat} (hf : f < 384) (b kind : Nat) (clear : Bool) (detail : Nat) {o : Nat}
    (ho : o ∈ heldRx) : ((s.event (rxA f 0x12C) b).raise (rxSrc f) kind clear detail).rd (rxA f o) = s.rd (rxA f o) := by
  have h : s.Aside (s.event (rxA f 0x12C) b) := Spares.event (Aside.refl s) (rxA_rxBut (by omega) (by decide)) b
  exact Aside.rd (Spares.raise h (rxSrc_lt hf) kind clear detail) hf ho

theorem State.hunter_inc (s : State) (a f p : Nat) : (s.inc a).hunter f p = s.hunter f p :=
  State.hunter_of_framers (s.inc_framers a) f p

/-- HUNT begins at bit `e`, and UNRESOLVED counts the episode. -/
theorem State.unresolved_eq (s : State) {f : Nat} (hf : f < 384) (p e : Nat) :
    ((s.unresolved f p e).hunter f p).HuntsFrom (some e) (s.rawBit f 0) ∧
      (s.unresolved f p e).nat (rxA f 0x144) = (s.nat (rxA f 0x144) + 1) % 2 ^ 32 := by
  unfold State.unresolved
  extract_lets n u
  have hu : ∀ o, o ∈ heldRx → (u.raise (rxSrc f) 0x06 false n).rd (rxA f o) = (s.inc (rxA f 0x144)).rd (rxA f o) :=
    fun o ho => State.rd_raised hf 5 0x06 false n ho
  generalize u.raise (rxSrc f) 0x06 false n = v at hu
  have h0 : v.rawBit f 0 = s.rawBit f 0 :=
    State.rawBit_congr ((hu _ (by decide)).trans (s.rd_inc_ne (rxA_ne (by omega) (by omega) (by decide)))) 0
  refine ⟨?_, ?_⟩
  · rw [← h0]
    exact (v.hunter_enterHunt_same f p (some e)).1
  · rw [State.nat_congr (v.rd_enterHunt hf p (some e) hf (by decide)), State.nat_congr (hu _ (by decide)), State.nat_inc_same]

theorem completes_mono {i : Instr} {s : State} {P Q : State → Prop} (h : completes i s P) (hPQ : ∀ t, P t → Q t) :
    completes i s Q :=
  let ⟨t, ht, hp⟩ := h
  ⟨t, ht, hPQ t hp⟩

/-- The place leaves the pattern that the hunter looks for. -/
theorem State.patternAt_judging (s : State) (f p pos : Nat) (x : MatchIn) :
    (s.setHunter f p ((s.hunter f p).judging pos x)).patternAt f p x.window = s.patternAt f p x.window := by
  unfold State.patternAt
  rw [State.hunter_setHunter_same]
  rfl

/-! ### HUNT_MATCH (R33, R40, R41) -/

section

variable {f : Chan} {p : Fin 5} {pos : Nat} {x : MatchIn} {s : State} (hr : s.rxRuns f = true)
  (hp : p.val ∈ phasesOf (s.rxFmt f)) (h0 : s.rxFmt f ≠ 0) (hh : s.hunts f p = true) (ha : (s.hunter f p).Awaits pos x)
include hr hp h0 hh ha

/-- What the judgement of the place leaves the hunter with and the counters at stands when the command has ended. -/
theorem huntMatch_completes {P : Hunter → (Nat → Nat) → Prop}
    (hP : ∀ w : State, w.hunter f p = (s.hunter f p).judging pos x → SeesAs f (s.setHunter f p ((s.hunter f p).judging pos x)) w →
      P ((w.judgeMatch f p pos x).hunter f p) (fun o => (w.judgeMatch f p pos x).nat (rxA f o))) :
    completes (.huntMatch f p pos x) s (fun t => ∃ n : Nat → Nat, P (t.hunter f p) n ∧ ∀ o ∈ huntRx, t.nat (rxA f o) = n o) := by
  obtain ⟨v, old, hv, hexec⟩ := execHuntMatch_judges hr hp h0 hh ha
  refine completes_of_done hexec ?_
  have hw := hP (v.setHunter f p ((s.hunter f p).judging pos x)) (v.hunter_setHunter_same f p _) ⟨fun q => ?_, hv.regs⟩
  · generalize (v.setHunter f p ((s.hunter f p).judging pos x)).judgeMatch f p pos x = u at hw
    have h1 := u.hunter_afterChange f.isLt old f (p := p) (by omega)
    have h2 := fun o ho => State.nat_congr (u.rd_afterChange f.isLt old (g := f) (o := o) f.isLt ho)
    generalize u.afterChange f old = t at h1 h2
    exact ⟨_, (show P (t.hunter f p) _ from h1 ▸ hw), h2⟩
  · by_cases e : q = p
    · rw [e, State.hunter_setHunter_same, State.hunter_setHunter_same]
    · rw [State.hunter_setHunter_ne _ _ e, State.hunter_setHunter_ne _ _ e, hv.hunters]

variable {c : Cand}

/-- A match that no candidate expects becomes a candidate, or is counted in DROPPED where there are eight. -/
theorem huntMatch_new (hc : (s.hunter f p).cands.find? (fun c => c.pos + (s.hunter f p).frameLen == pos) = none)
    (hm : s.patternAt f p x.window = true) (hs : (s.hunter f p).state = .hunt)
    (hx : famOf (s.rxFmt f) = 3 → xyzValid (s.streams f) x.xyz = true) :
    completes (.huntMatch f p pos x) s (fun t => (t.hunter f p).bit = pos + 1 ∧
      ((s.hunter f p).cands.length < 8 → (t.hunter f p).cands = (s.hunter f p).cands ++
        [{ pos := pos, count := 1, ev := none, evPrev := none, tag := s.matchTag f x }]) ∧
      (8 ≤ (s.hunter f p).cands.length → (t.hunter f p).cands = (s.hunter f p).cands ∧
        t.nat (rxA f 0x148) = (s.nat (rxA f 0x148) + 1) % 2 ^ 32)) := by
  refine completes_mono (huntMatch_completes hr hp h0 hh ha (P := fun h n => h.bit = pos + 1 ∧
    ((s.hunter f p).cands.length < 8 → h.cands = (s.hunter f p).cands ++
      [{ pos := pos, count := 1, ev := none, evPrev := none, tag := s.matchTag f x }]) ∧
    (8 ≤ (s.hunter f p).cands.length → h.cands = (s.hunter f p).cands ∧ n 0x148 = (s.nat (rxA f 0x148) + 1) % 2 ^ 32))
    fun w hk hw => ?_) ?_
  · have hnew := State.judgeMatch_new hk hc ((hw.patternAt p x.window).trans ((s.patternAt_judging f p pos x).trans hm)) hs
      (fun h3 => by rw [hw.rxFmt] at h3; rw [hw.streams]; exact hx h3)
    have htag : w.matchTag f x = s.matchTag f x := hw.matchTag x
    by_cases h8 : ((s.hunter f p).judging pos x).cands.length < 8
    · rw [hnew, if_pos h8, State.hunter_setHunter_same, htag]
      exact ⟨rfl, fun _ => rfl, fun h => absurd h8 (not_lt.2 h)⟩
    · have hn : w.nat (rxA f 0x148) = s.nat (rxA f 0x148) := State.nat_congr (hw.regs _ (by omega) (by omega))
      rw [hnew, if_neg h8, State.hunter_raise, State.hunter_event, State.hunter_inc, hk]
      refine ⟨rfl, fun h => absurd h h8, fun _ => ⟨rfl, ?_⟩⟩
      exact (State.nat_congr (State.rd_raised f.isLt 7 0x08 false 0 (by decide))).trans ((State.nat_inc_same _ _).trans (by rw [hn]))
  · rintro t ⟨n, ⟨h1, h2, h3⟩, hn⟩
    exact ⟨h1, h2, fun h => ⟨(h3 h).1, (hn _ (by decide)).trans (h3 h).2⟩⟩

/-- What no candidate expects and is not taken leaves the candidates. -/
theorem huntMatch_ignored (hc : (s.hunter f p).cands.find? (fun c => c.pos + (s.hunter f p).frameLen == pos) = none)
    (hm : s.patternAt f p x.window = false ∨ (s.hunter f p).state = .ambiguous ∨
      famOf (s.rxFmt f) = 3 ∧ xyzValid (s.streams f) x.xyz = false) :
    completes (.huntMatch f p pos x) s (fun t => (t.hunter f p).bit = pos + 1 ∧
      (t.hunter f p).state = (s.hunter f p).state ∧ (t.hunter f p).cands = (s.hunter f p).cands) := by
  refine completes_mono (huntMatch_completes hr hp h0 hh ha (P := fun h _ => h.bit = pos + 1 ∧
    h.state = (s.hunter f p).state ∧ h.cands = (s.hunter f p).cands) fun w hk hw => ?_) fun t ⟨_, h, _⟩ => h
  have hsame : w.judgeMatch f p pos x = w := by
    refine State.judgeMatch_ignores hk hc ?_
    rw [hw.patternAt p, s.patternAt_judging f p pos x, hw.rxFmt, hw.streams]
    exact hm.imp_right (Or.imp_left fun h => by rw [show ((s.hunter f p).judging pos x).state = _ from h]; decide)
  rw [hsame, hk]
  exact ⟨rfl, rfl, rfl⟩

/-- A match where candidate `c` expects it confirms `c`. -/
theorem huntMatch_confirms (hc : (s.hunter f p).cands.find? (fun c => c.pos + (s.hunter f p).frameLen == pos) = some c)
    (hm : s.patternAt f p x.window = true) :
    completes (.huntMatch f p pos x) s (fun t => (t.hunter f p).cands = (s.hunter f p).cands.map (fun d =>
      if d = c then { c with pos := pos, count := c.count + 1, ev := some (s.evidence f c x), evPrev := c.ev,
                             tag := s.matchTag f x } else d)) := by
  refine completes_mono (huntMatch_completes hr hp h0 hh ha (P := fun h _ => h.cands = (s.hunter f p).cands.map (fun d =>
    if d = c then { c with pos := pos, count := c.count + 1, ev := some (s.evidence f c x), evPrev := c.ev,
                           tag := s.matchTag f x } else d)) fun w hk hw => ?_) fun t ⟨_, h, _⟩ => h
  have htag : w.matchTag f x = s.matchTag f x := hw.matchTag x
  have hev : w.evidence f c x = s.evidence f c x := hw.evidence c x
  rw [State.judgeMatch_confirms hk hc ((hw.patternAt p x.window).trans ((s.patternAt_judging f p pos x).trans hm)),
    State.hunter_setHunter_same, htag, hev]
  rfl

/-- A miss where candidate `c` expects a match drops `c`. -/
theorem huntMatch_drops (hc : (s.hunter f p).cands.find? (fun c => c.pos + (s.hunter f p).frameLen == pos) = some c)
    (hm : s.patternAt f p x.window = false)
    (hleft : (s.hunter f p).state = .hunt ∨ (s.hunter f p).cands.filter (fun d => d != c) ≠ []) :
    completes (.huntMatch f p pos x) s (fun t => (t.hunter f p).cands = (s.hunter f p).cands.filter (fun d => d != c)) := by
  refine completes_mono (huntMatch_completes hr hp h0 hh ha
    (P := fun h _ => h.cands = (s.hunter f p).cands.filter (fun d => d != c)) fun w hk hw => ?_) fun t ⟨_, h, _⟩ => h
  rw [State.judgeMatch_drops hk hc ((hw.patternAt p x.window).trans ((s.patternAt_judging f p pos x).trans hm)) hleft,
    State.hunter_setHunter_same]
  rfl

/-- An AMBIGUOUS hunter that loses its last candidate hunts from the next bit. -/
theorem huntMatch_unresolved (hc : (s.hunter f p).cands.find? (fun c => c.pos + (s.hunter f p).frameLen == pos) = some c)
    (hm : s.patternAt f p x.window = false) (hs : (s.hunter f p).state = .ambiguous)
    (hnone : (s.hunter f p).cands.filter (fun d => d != c) = []) :
    completes (.huntMatch f p pos x) s (fun t => (t.hunter f p).state = .hunt ∧ (t.hunter f p).start = some (pos + 1) ∧
      t.nat (rxA f 0x144) = (s.nat (rxA f 0x144) + 1) % 2 ^ 32) := by
  refine completes_mono (huntMatch_completes hr hp h0 hh ha (P := fun h n => h.state = .hunt ∧ h.start = some (pos + 1) ∧
    n 0x144 = (s.nat (rxA f 0x144) + 1) % 2 ^ 32) fun w hk hw => ?_)
    fun t ⟨n, ⟨h1, h2, h3⟩, hn⟩ => ⟨h1, h2, (hn _ (by decide)).trans h3⟩
  rw [State.judgeMatch_unresolved hk hc ((hw.patternAt p x.window).trans ((s.patternAt_judging f p pos x).trans hm)) hs hnone]
  obtain ⟨hunt, hcount⟩ := (w.setHunter f p { (s.hunter f p).judging pos x with cands := [] }).unresolved_eq f.isLt p (pos + 1)
  have hn : w.nat (rxA f 0x144) = s.nat (rxA f 0x144) := State.nat_congr (hw.regs _ (by omega) (by omega))
  exact ⟨hunt.state, hunt.start, hcount.trans (by rw [← hn]; rfl)⟩

end

end Sys2Proof.Machine
end

section
/-! HUNT_WINDOW_END: the end of a hunt window, and O44 (R34, R36). -/

namespace Sys2Proof.Machine

open Sys2Proof.Cert
open State (SparesRx Spares Aside Hunting SeesAs)

theorem exec_huntWindowEnd (f : Chan) (p : Fin 5) (s : State) :
    exec (.huntWindowEnd f p) s = execHuntWindowEnd f p s := rfl

/-! ### IN_FRAME is declared (R34, R36) -/

/-- The hunter is in frame, and its alignment is `a`. -/
structure Hunter.InFrameAt (a : Nat) (h : Hunter) : Prop where
  state : h.state = .inFrame
  oof : h.oof = false
  align : h.lastAlign = some a

/-- The alignment that candidate `c` stands for. -/
def Hunter.alignOf (h : Hunter) (c : Cand) : Nat :=
  ((((c.pos + 1 : Nat) : Int) - h.anchor) % (max 1 h.frameLen : Nat)).toNat

section

variable {s : State} {f p a : Nat}

theorem Hunter.InFrameAt.endOof (h : (s.hunter f p).state = .inFrame) (ha : (s.hunter f p).lastAlign = some a) :
    ((s.endOof f p).hunter f p).InFrameAt a := by
  obtain ⟨n, hn⟩ := s.hunter_endOof_same f p
  rw [hn]
  exact ⟨h, rfl, ha⟩

theorem State.hunter_mfResume (s : State) (f : Nat) (same : Bool) (since g p : Nat) :
    (s.mfResume f same since).hunter g p = s.hunter g p := by
  unfold State.mfResume
  extract_lets x m
  split <;> exact State.hunter_setFramer (by rfl) g p

theorem State.tallyFrame_framers (s : State) (f ev : Nat) : (s.tallyFrame f ev).framers = s.framers :=
  (State.tally_quiet _ _ _ _ _ _).framers.trans (s.tally_quiet _ _ _ _ _).framers

theorem Hunter.InFrameAt.flyCut (h : (s.hunter f p).InFrameAt a) (flew same : Bool) :
    ((s.flyCut f flew same).hunter f p).InFrameAt a := by
  unfold State.flyCut
  split
  · exact h
  · split
    · by_cases e : p = 0
      · subst e
        rw [State.hunter_setHunter_same]
        exact ⟨h.state, h.oof, h.align⟩
      · rw [State.hunter_setHunter_ne _ _ e]
        exact h
    · have ht := s.tallyFrame_framers f 3
      rw [State.hunter_setFramer (by rw [State.tallyOof, State.framer_congr ht]), State.tallyOof, State.hunter_of_framers ht]
      exact h

end

/-- The hunter is in frame at the alignment of the candidate. -/
theorem State.hunter_declareIn (s : State) (f p e : Nat) (c : Cand) :
    ((s.declareIn f p e c).hunter f p).InFrameAt ((s.hunter f p).alignOf c) := by
  unfold State.declareIn
  extract_lets h len align step same u1 u2 next u3 u4 u5 x
  have h3 : u3.hunter f p = _ := u2.hunter_setHunter_same f p _
  have h4 : (u4.hunter f p).InFrameAt align := .endOof (by rw [h3]) (by rw [h3])
  split
  · exact h4
  · have h5 : (u5.hunter f p).InFrameAt align := by
      refine Hunter.InFrameAt.flyCut ?_ _ _
      rw [State.hunter_mfResume]
      exact h4
    have hsame : ∀ v : State, v.SparesRx (v.carriedAlign f) := fun v => v.carriedAlign_sparesRx f
    rw [State.hunter_congr (congrArg Framer.hunters ((hsame _).framers f)) p, State.hunter_setFramer (by rfl)]
    exact h5

/-! ### The judgement of a window (R34, R36, R41) -/

section

variable {w : State} {f p e : Nat} {k : Hunter} (hk : w.hunter f p = k)
include hk

theorem State.tieBreak_winner {c : Cand} (hc : k.winners = [c]) : w.tieBreak f p e = some (w.declareIn f p e c) := by
  rw [State.tieBreak, hk, hc]

theorem State.tieBreak_none (hc : k.winners.length ≠ 1) : w.tieBreak f p e = none := by
  rw [State.tieBreak, hk]
  split
  next c h => rw [h] at hc; exact absurd rfl hc
  · rfl

/-- In HUNT, no candidate is confirmed: the hunt goes on. -/
theorem State.windowJudge_none (hs : k.state = .hunt) (hc : k.cands.filter (fun c => decide (1 + k.confirm ≤ c.count)) = []) :
    w.windowJudge f p e = w := by
  simp only [State.windowJudge, hk, hs, hc]

/-- In HUNT, one candidate is confirmed: IN_FRAME. -/
theorem State.windowJudge_one (hs : k.state = .hunt) {c : Cand}
    (hc : k.cands.filter (fun c => decide (1 + k.confirm ≤ c.count)) = [c]) : w.windowJudge f p e = w.declareIn f p e c := by
  simp only [State.windowJudge, hk, hs, hc]

/-- What more than one confirmed candidate leaves: AMBIGUOUS, before the tie-breaker. -/
def State.ambiguousFrom (w : State) (f p : Nat) (k : Hunter) (cs : List Cand) : State :=
  (((w.setHunter f p { k with state := .ambiguous, cands := cs, ambigWindows := 0 }).inc (rxA f 0x140)).event
    (rxA f 0x12C) 4).raise (rxSrc f) 0x05 false cs.length

/-- In HUNT, several candidates are confirmed: AMBIGUOUS, unless the tie-breaker decides at once. -/
theorem State.windowJudge_several (hs : k.state = .hunt) {cs : List Cand}
    (hc : k.cands.filter (fun c => decide (1 + k.confirm ≤ c.count)) = cs) (h2 : 2 ≤ cs.length) :
    w.windowJudge f p e = ((w.ambiguousFrom f p k cs).tieBreak f p e).getD (w.ambiguousFrom f p k cs) := by
  match cs, h2 with
  | c :: d :: l, _ => simp only [State.windowJudge, hk, hs, hc, State.ambiguousFrom]

omit hk in
/-- The hunter when a window of an AMBIGUOUS episode is over. -/
def Hunter.stillAmbiguous (k : Hunter) : Hunter := { k with ambigWindows := k.ambigWindows + 1 }

/-- AMBIGUOUS: the tie-breaker decides. -/
theorem State.windowJudge_decided (hs : k.state = .ambiguous) {u : State}
    (hu : (w.setHunter f p k.stillAmbiguous).tieBreak f p e = some u) : w.windowJudge f p e = u := by
  unfold State.windowJudge
  extract_lets h n v
  obtain rfl : h = k := hk
  split
  next h' => exact absurd (hs.symm.trans h') (by decide)
  next =>
    split
    next x hx => exact Option.some.inj (hx.symm.trans hu)
    next hx => exact absurd (hu.symm.trans hx) (by simp)
  next h' => exact absurd hs h'

/-- AMBIGUOUS: the tie-breaker does not decide, and the limit ends the episode or it goes on. -/
theorem State.windowJudge_undecided (hs : k.state = .ambiguous)
    (hu : (w.setHunter f p k.stillAmbiguous).tieBreak f p e = none) :
    w.windowJudge f p e = if k.cands.isEmpty ∨ k.ambigLimit ≤ k.stillAmbiguous.ambigWindows then
        (w.setHunter f p k.stillAmbiguous).unresolved f p e
      else w.setHunter f p k.stillAmbiguous := by
  unfold State.windowJudge
  extract_lets h n v
  obtain rfl : h = k := hk
  split
  next h' => exact absurd (hs.symm.trans h') (by decide)
  next =>
    split
    next x hx => exact absurd (hx.symm.trans hu) (by simp)
    next hx => rfl
  next h' => exact absurd hs h'

end

/-! ### HUNT_WINDOW_END -/

/-- The hunter when the window that began at bit `st` is over. -/
def Hunter.nextWindow (h : Hunter) (e : Nat) : Hunter := { h with win := h.win + 1, bit := e }

theorem execHuntWindowEnd_judges {f : Chan} {p : Fin 5} {s : State} {st : Nat} (hr : s.rxRuns f = true)
    (hp : p.val ∈ phasesOf (s.rxFmt f)) (hh : s.hunts f p = true) (hst : (s.hunter f p).start = some st)
    (hall : ∀ c ∈ (s.hunter f p).cands, (s.hunter f p).windowEnd st ≤ c.pos + (s.hunter f p).frameLen) :
    exec (.huntWindowEnd f p) s = done s (((s.setHunter f p ((s.hunter f p).nextWindow ((s.hunter f p).windowEnd st))).windowJudge
      f p ((s.hunter f p).windowEnd st)).afterChange f (s.defView f)) := by
  have hw : s.windowEnd f p = (s.setHunter f p ((s.hunter f p).nextWindow ((s.hunter f p).windowEnd st))).windowJudge f p
      ((s.hunter f p).windowEnd st) := by
    unfold State.windowEnd
    extract_lets h
    split
    next h => exact absurd (hst.symm.trans h) (by simp)
    next u h =>
      obtain rfl := Option.some.inj (hst.symm.trans h)
      exact if_pos (List.all_eq_true.2 fun c hc => decide_eq_true (hall c hc))
  rw [exec_huntWindowEnd, execHuntWindowEnd, if_pos (by simp [hr, hp, hh]), ← hw]
  rfl

section

variable {f : Chan} {p : Fin 5} {s : State} {st : Nat} (hr : s.rxRuns f = true)
  (hp : p.val ∈ phasesOf (s.rxFmt f)) (hh : s.hunts f p = true) (hst : (s.hunter f p).start = some st)
  (hall : ∀ c ∈ (s.hunter f p).cands, (s.hunter f p).windowEnd st ≤ c.pos + (s.hunter f p).frameLen)
include hr hp hh hst hall

/-- What the judgement of the window leaves the hunter with and the counters at stands when the command has ended. -/
theorem huntWindowEnd_completes {P : Hunter → (Nat → Nat) → Prop}
    (hP : ∀ (w : State) (e : Nat), w.hunter f p = (s.hunter f p).nextWindow e → (∀ a, w.nat a = s.nat a) →
      P ((w.windowJudge f p e).hunter f p) (fun o => (w.windowJudge f p e).nat (rxA f o))) :
    completes (.huntWindowEnd f p) s (fun t => ∃ n : Nat → Nat, P (t.hunter f p) n ∧ ∀ o ∈ huntRx, t.nat (rxA f o) = n o) := by
  refine completes_of_done (execHuntWindowEnd_judges hr hp hh hst hall) ?_
  have hw := hP _ ((s.hunter f p).windowEnd st) (s.hunter_setHunter_same f p _) fun _ => rfl
  generalize State.windowJudge _ f p _ = u at hw ⊢
  have h1 := u.hunter_afterChange f.isLt (s.defView f) f (p := p) (by omega)
  have h2 := fun o ho => State.nat_congr (u.rd_afterChange f.isLt (s.defView f) (g := f) (o := o) f.isLt ho)
  exact ⟨_, (show P (State.hunter _ f p) _ from h1 ▸ hw), h2⟩

/-- As above, of the hunter alone. -/
theorem huntWindowEnd_leaves {P : Hunter → Prop} (hP : ∀ (w : State) (e : Nat), w.hunter f p = (s.hunter f p).nextWindow e →
    P ((w.windowJudge f p e).hunter f p)) : completes (.huntWindowEnd f p) s (fun t => P (t.hunter f p)) :=
  completes_mono (huntWindowEnd_completes hr hp hh hst hall (P := fun h _ => P h) fun w e hk _ => hP w e hk) fun _ ⟨_, h, _⟩ => h

section

variable (hs : (s.hunter f p).state = .hunt)
include hs

theorem huntWindowEnd_none
    (hc : (s.hunter f p).cands.filter (fun c => decide (1 + (s.hunter f p).confirm ≤ c.count)) = []) :
    completes (.huntWindowEnd f p) s (fun t => (t.hunter f p).state = .hunt ∧ (t.hunter f p).cands = (s.hunter f p).cands ∧
      (t.hunter f p).win = (s.hunter f p).win + 1) :=
  huntWindowEnd_leaves hr hp hh hst hall (P := fun h => h.state = .hunt ∧ h.cands = (s.hunter f p).cands ∧
    h.win = (s.hunter f p).win + 1) fun w e hk => by
      rw [State.windowJudge_none hk hs hc, hk]
      exact ⟨hs, rfl, rfl⟩

theorem huntWindowEnd_one {c : Cand}
    (hc : (s.hunter f p).cands.filter (fun c => decide (1 + (s.hunter f p).confirm ≤ c.count)) = [c]) :
    completes (.huntWindowEnd f p) s (fun t => (t.hunter f p).state = .inFrame ∧ (t.hunter f p).oof = false ∧
      (t.hunter f p).lastAlign = some ((s.hunter f p).alignOf c)) :=
  huntWindowEnd_leaves hr hp hh hst hall (P := fun h => h.state = .inFrame ∧ h.oof = false ∧
    h.lastAlign = some ((s.hunter f p).alignOf c)) fun w e hk => by
      have h := w.hunter_declareIn f p e c
      rw [hk] at h
      rw [State.windowJudge_one hk hs hc]
      exact ⟨h.state, h.oof, h.align⟩

theorem huntWindowEnd_several {cs : List Cand}
    (hc : (s.hunter f p).cands.filter (fun c => decide (1 + (s.hunter f p).confirm ≤ c.count)) = cs) (h2 : 2 ≤ cs.length)
    (hev : ∀ c ∈ cs, c.ev ≠ some true) :
    completes (.huntWindowEnd f p) s (fun t => (t.hunter f p).state = .ambiguous ∧ (t.hunter f p).cands = cs ∧
      t.nat (rxA f 0x140) = (s.nat (rxA f 0x140) + 1) % 2 ^ 32) := by
  refine completes_mono (huntWindowEnd_completes hr hp hh hst hall (P := fun h n => h.state = .ambiguous ∧ h.cands = cs ∧
    n 0x140 = (s.nat (rxA f 0x140) + 1) % 2 ^ 32) fun w e hk hn => ?_)
    fun t ⟨n, ⟨h1, h2, h3⟩, hn⟩ => ⟨h1, h2, (hn _ (by decide)).trans h3⟩
  generalize hw : w.ambiguousFrom f p ((s.hunter f p).nextWindow e) cs = u
  have hu : u.hunter f p = { (s.hunter f p).nextWindow e with state := .ambiguous, cands := cs, ambigWindows := 0 } := by
    rw [← hw, State.ambiguousFrom, State.hunter_raise, State.hunter_event, State.hunter_inc, State.hunter_setHunter_same]
  have hnone : u.tieBreak f p e = none := State.tieBreak_none hu (by
    rw [Hunter.winners, List.filter_eq_nil_iff.2 fun c hcs => by simp [hev c hcs]]
    decide)
  rw [State.windowJudge_several hk hs hc h2, hw, hnone, Option.getD_none, hu]
  refine ⟨rfl, rfl, ?_⟩
  rw [← hw, ← hn]
  exact (State.nat_congr (State.rd_raised f.isLt 4 0x05 false cs.length (by decide))).trans (State.nat_inc_same _ _)

end

section

variable (hs : (s.hunter f p).state = .ambiguous)
include hs

theorem huntWindowEnd_winner {c : Cand} (hc : (s.hunter f p).winners = [c]) :
    completes (.huntWindowEnd f p) s (fun t => (t.hunter f p).state = .inFrame) :=
  huntWindowEnd_leaves hr hp hh hst hall (P := fun h => h.state = .inFrame) fun w e hk => by
    rw [State.windowJudge_decided hk hs (State.tieBreak_winner (w.hunter_setHunter_same f p _) hc)]
    exact (State.hunter_declareIn _ f p e c).state

theorem huntWindowEnd_goesOn (hw : (s.hunter f p).winners.length ≠ 1) (hc : (s.hunter f p).cands ≠ [])
    (hl : (s.hunter f p).ambigWindows + 1 < (s.hunter f p).ambigLimit) :
    completes (.huntWindowEnd f p) s (fun t => (t.hunter f p).state = .ambiguous ∧
      (t.hunter f p).ambigWindows = (s.hunter f p).ambigWindows + 1) :=
  huntWindowEnd_leaves hr hp hh hst hall (P := fun h => h.state = .ambiguous ∧
    h.ambigWindows = (s.hunter f p).ambigWindows + 1) fun w e hk => by
      have hgo : ¬ (((s.hunter f p).nextWindow e).cands.isEmpty ∨
          ((s.hunter f p).nextWindow e).ambigLimit ≤ ((s.hunter f p).nextWindow e).stillAmbiguous.ambigWindows) :=
        not_or.2 ⟨fun h => hc (List.isEmpty_iff.1 h), not_le.2 hl⟩
      rw [State.windowJudge_undecided hk hs (State.tieBreak_none (w.hunter_setHunter_same f p _) hw), if_neg hgo,
        State.hunter_setHunter_same]
      exact ⟨hs, rfl⟩

theorem huntWindowEnd_limit (hw : (s.hunter f p).winners.length ≠ 1)
    (hl : (s.hunter f p).ambigLimit ≤ (s.hunter f p).ambigWindows + 1) :
    completes (.huntWindowEnd f p) s (fun t => (t.hunter f p).state = .hunt ∧
      t.nat (rxA f 0x144) = (s.nat (rxA f 0x144) + 1) % 2 ^ 32) := by
  refine completes_mono (huntWindowEnd_completes hr hp hh hst hall (P := fun h n => h.state = .hunt ∧
    n 0x144 = (s.nat (rxA f 0x144) + 1) % 2 ^ 32) fun w e hk hn => ?_)
    fun t ⟨n, ⟨h1, h2⟩, hn⟩ => ⟨h1, (hn _ (by decide)).trans h2⟩
  have hover : ((s.hunter f p).nextWindow e).cands.isEmpty ∨
      ((s.hunter f p).nextWindow e).ambigLimit ≤ ((s.hunter f p).nextWindow e).stillAmbiguous.ambigWindows := .inr hl
  rw [State.windowJudge_undecided hk hs (State.tieBreak_none (w.hunter_setHunter_same f p _) hw), if_pos hover]
  obtain ⟨hunt, hcount⟩ := (w.setHunter f p ((s.hunter f p).nextWindow e).stillAmbiguous).unresolved_eq f.isLt p e
  exact ⟨hunt.state, hcount.trans (by rw [← hn]; rfl)⟩

end

end

/-- Settles O44: each command's change of the hunter, which the defects, FF_STATE and the group that follow it leave alone. -/
theorem frameFinding : Obligations.FrameFinding := by
  unfold Obligations.FrameFinding
  intro f s g
  refine ⟨fun fmt hat => ⟨fun hok h0 hne => formatChange_accepted hat hok h0 hne, formatChange_off hat⟩,
    fun hat h0 => rehunt_hunts hat h0, fun p hr hp h0 hh => ⟨fun pos x => ?_, fun st hst hall => ?_⟩⟩
  · intro st win expects isMatch hfresh hwin hexp
    have ha : (s.hunter f p).Awaits pos x := ⟨hfresh, hwin, hexp⟩
    exact ⟨fun hc hm hs hx => huntMatch_new hr hp h0 hh ha hc hm hs hx, fun hc hm => huntMatch_ignored hr hp h0 hh ha hc hm,
      fun c hc => ⟨fun hm => huntMatch_confirms hr hp h0 hh ha hc hm, fun hm hleft => huntMatch_drops hr hp h0 hh ha hc hm hleft,
        fun hm hs hnone => huntMatch_unresolved hr hp h0 hh ha hc hm hs hnone⟩⟩
  · exact ⟨fun hs => ⟨fun hc => huntWindowEnd_none hr hp hh hst hall hs hc, fun c hc => huntWindowEnd_one hr hp hh hst hall hs hc,
        fun h2 hev => huntWindowEnd_several hr hp hh hst hall hs rfl h2 hev⟩,
      fun hs => ⟨fun c hc => huntWindowEnd_winner hr hp hh hst hall hs hc,
        fun hw hc hl => huntWindowEnd_goesOn hr hp hh hst hall hs hw hc hl,
        fun hw hl => huntWindowEnd_limit hr hp hh hst hall hs hw hl⟩⟩

end Sys2Proof.Machine
end

section
/-! LOF, LOFLANE and LOM begin and end (R42, R44, R47). -/

namespace Sys2Proof.Machine

open Sys2Proof.Cert
open State (SparesRx Spares Aside Hunting)

theorem exec_lof (f : Chan) (p : Fin 5) (s : State) : exec (.lof f p) s = execLof f p s := rfl
theorem exec_loflane (f : Chan) (p : Fin 5) (s : State) : exec (.loflane f p) s = execLoflane f p s := rfl
theorem exec_lom (f : Chan) (s : State) : exec (.lom f) s = execLom f s := rfl

/-! ### What LOF and LOFLANE are told from (R42) -/

theorem State.lofOver_iff (s : State) (f p : Nat) : s.lofOver f p = true ↔ s.rxRuns f = true ∧ s.rxFmt f ≠ 0 ∧
    (s.hunter f p).oof = false ∧ (s.hunter f p).inSince + s.lofClearTime f ≤ s.now := by
  simp [State.lofOver, and_assoc]

theorem State.lofDue_iff (s : State) (f p : Nat) : s.lofDue f p = true ↔ s.rxRuns f = true ∧ s.rxFmt f ≠ 0 ∧
    (s.hunter f p).oof = true ∧ s.lofTime f ≤ (s.hunter f p).lofAcc + (s.now - (s.hunter f p).oofSince) := by
  simp [State.lofDue, and_assoc]

theorem State.Hunting.lofOver {s t : State} (h : s.Hunting t) {f p : Nat} (hf : f < 384)
    (ho : (t.hunter f p).oof = (s.hunter f p).oof) (hi : (t.hunter f p).inSince = (s.hunter f p).inSince) :
    t.lofOver f p = s.lofOver f p := by
  have hc : t.lofClearTime f = s.lofClearTime f := by
    rw [State.lofClearTime, State.lofClearTime, State.fld_congr (h.rd hf (by decide))]
  have hr := Spares.rxRuns h f
  have hn := Spares.now h
  rw [State.lofOver, State.lofOver, hr, h.rxFmt hf, hc, hn, ho, hi]

/-- The end of LOF at one hunter leaves when it ends at the others. -/
theorem State.lofOver_clearLof (s : State) {f : Nat} (hf : f < 384) (p q : Nat) :
    (s.clearLof f p).lofOver f q = s.lofOver f q := by
  have hh : ∃ n, (s.clearLof f p).hunter f q = { s.hunter f q with lofAcc := n } := by
    by_cases e : q = p
    · rw [e]; exact s.hunter_clearLof_same f p
    · exact ⟨_, s.hunter_clearLof_ne (.inr e)⟩
  obtain ⟨n, hn⟩ := hh
  exact (s.clearLof_hunting f p).lofOver hf (by rw [hn]) (by rw [hn])

/-! ### LOFLANE of the phases (R47) -/

theorem State.loflane_setLof (s : State) (f : Nat) (on : Bool) : ((s.setLof f on).framer f).loflane = (s.framer f).loflane := by
  unfold State.setLof
  extract_lets u x d deg
  split
  · rw [State.framer_setFramer_same]; rfl
  · rfl

theorem State.loflane_setHunter (s : State) (f p : Nat) (h : Hunter) :
    ((s.setHunter f p h).framer f).loflane = (s.framer f).loflane := by
  rw [State.setHunter, State.framer_setFramer_same]

theorem State.loflane_setLofOf_key (s : State) (f : Nat) (on : Bool) {p : Nat} (hp : p = lofKey (s.rxFmt f)) :
    ((s.setLofOf f p on).framer f).loflane = (s.framer f).loflane := by
  rw [State.setLofOf, if_pos hp, s.loflane_setLof]

theorem State.mem_loflane_setLofOf (s : State) (f : Nat) (on : Bool) {p : Nat} (hp : p ≠ lofKey (s.rxFmt f)) :
    p ∈ ((s.setLofOf f p on).framer f).loflane ↔ on = true := by
  rw [State.setLofOf, if_neg hp, State.framer_setFramer_same]
  cases on <;> simp

theorem State.loflane_defectsFrom (s : State) {f : Nat} (hf : f < 384) (old : DefView) (g : Nat) :
    ((s.defectsFrom f old).framer g).loflane = (s.framer g).loflane := by
  have h : ((s.defectsFrom f old).framer g).lessSeconds.loflane = (s.framer g).lessSeconds.loflane := by
    rw [s.framer_defectsFrom hf]
  exact h

theorem State.loflane_clearLof_key (s : State) (f : Nat) {p : Nat} (hp : p = lofKey (s.rxFmt f)) :
    ((s.clearLof f p).framer f).loflane = (s.framer f).loflane := by
  unfold State.clearLof
  extract_lets y u
  have hu : (u.framer f).loflane = (s.framer f).loflane :=
    (State.loflane_setLofOf_key (s.setHunter f p { y with lofAcc := 0 }) f false hp).trans
      (s.loflane_setHunter f p _)
  split
  · split
    · rw [u.loflane_setLof, hu]
    · exact hu
  · rfl

theorem State.not_mem_loflane_clearLof (s : State) (f : Nat) {p : Nat} (hp : p ≠ lofKey (s.rxFmt f))
    (h : s.lofOver f p = true) : p ∉ ((s.clearLof f p).framer f).loflane := by
  unfold State.clearLof
  extract_lets y u
  have hu : p ∉ (u.framer f).loflane := fun hm =>
    absurd ((State.mem_loflane_setLofOf (s.setHunter f p { y with lofAcc := 0 }) f false hp).1 hm) (by decide)
  rw [if_pos h]
  split
  · rwa [u.loflane_setLof]
  · exact hu

theorem State.rawBit_setLofOf_key (s : State) (f : Nat) (on : Bool) {p : Nat} (hp : p = lofKey (s.rxFmt f)) :
    (s.setLofOf f p on).rawBit f 2 = on := by
  rw [State.setLofOf, if_pos hp, s.rawBit_setLof]

/-- LOF ends where IN_FRAME of what times it has lasted. -/
theorem State.rawBit_clearLof_key (s : State) (f : Nat) {p : Nat} (hp : p = lofKey (s.rxFmt f)) (h : s.lofOver f p = true) :
    (s.clearLof f p).rawBit f 2 = false := by
  unfold State.clearLof
  extract_lets y u
  have hu : u.rawBit f 2 = false := State.rawBit_setLofOf_key (s.setHunter f p { y with lofAcc := 0 }) f false hp
  rw [if_pos h]
  split
  · exact u.rawBit_setLof f false
  · exact hu

/-- LOF of a member that does not lead ends with the last of its five hunters (assumption 81). -/
theorem State.rawBit_clearLof_member (s : State) {f : Nat} (hf : f < 384) {p : Nat} (h6 : s.rxFmt f = 6) (hm : f % 4 ≠ 0)
    (h : s.lofOver f p = true) (hall : ∀ q, q < 5 → s.lofOver f q = true) : (s.clearLof f p).rawBit f 2 = false := by
  unfold State.clearLof
  extract_lets y u
  have hstep : s.Hunting u := ((Hunting.refl s).setHunter f p { y with lofAcc := 0 }).trans (State.setLofOf_hunting _ f p false)
  have hq : ∀ q, (u.hunter f q).oof = (s.hunter f q).oof ∧ (u.hunter f q).inSince = (s.hunter f q).inSince := fun q => by
    have e : u.hunter f q = (s.setHunter f p { y with lofAcc := 0 }).hunter f q :=
      State.hunter_setLofOf _ f p false f q
    rw [e]
    by_cases e : q = p
    · rw [e, State.hunter_setHunter_same]; exact ⟨rfl, rfl⟩
    · rw [State.hunter_setHunter_ne _ _ e]; exact ⟨rfl, rfl⟩
  have hgo : u.rxFmt f = 6 ∧ f % 4 ≠ 0 ∧ (phasesOf 6).all (fun q => u.lofOver f q) := by
    refine ⟨(hstep.rxFmt hf).trans h6, hm, List.all_eq_true.2 fun q hqm => ?_⟩
    rw [hstep.lofOver hf (hq q).1 (hq q).2]
    exact hall q (phasesOf_lt hqm)
  rw [if_pos h, if_pos hgo]
  exact u.rawBit_setLof f false

/-! ### The commands -/

section

variable {f : Chan} {p : Fin 5} {s : State}

/-- OOF has lasted LOF_TIME: LOF. -/
theorem lof_declares (h : s.lofDue f (lofKey (s.rxFmt f)) = true) (h2 : s.rawBit f 2 = false)
    (hk : lofKey (s.rxFmt f) = 0 ∨ f.val % 4 = 0) : completes (.lof f p) s (fun t => t.rawBit f 2 = true) := by
  obtain ⟨-, h0, -⟩ := (s.lofDue_iff f _).1 h
  have hu : (s.setLof f true).rxFmt f ≠ 0 := by rwa [(s.setLof_hunting f true).rxFmt f.isLt]
  refine completes_of_done ((exec_lof f p s).trans (congrArg (done s) (if_pos (by simp [h, h2, hk])))) ?_
  exact (State.rawBit_defectsFrom _ f.isLt _ f.isLt hu (by decide)).trans (s.rawBit_setLof f true)

/-- The end of LOF before the defects that it brings. -/
def State.lofCleared (s : State) (f p : Nat) : State :=
  let k := lofKey (s.rxFmt f)
  let s := if k = 5 then s.clearLof f p else s
  if k = 0 ∨ f % 4 = 0 then s.clearLof f k else s

theorem execLofClear_eq (f : Chan) (p : Fin 5) (s : State) :
    exec (.lofClear f p) s = done s ((s.lofCleared f p).defectsFrom f (s.defView f)) := rfl

theorem State.lofCleared_hunting (s : State) (f p : Nat) : s.Hunting (s.lofCleared f p) := by
  unfold State.lofCleared
  extract_lets k u
  exact Spares.iteThen (Spares.iteThen (Hunting.refl s) (s.clearLof_hunting f p)) (u.clearLof_hunting f k)

theorem lofClear_raw (h0 : s.rxFmt f ≠ 0) (h : (s.lofCleared f p).rawBit f 2 = false) :
    completes (.lofClear f p) s (fun t => t.rawBit f 2 = false) := by
  have hu : (s.lofCleared f p).rxFmt f ≠ 0 := by rwa [(s.lofCleared_hunting f p).rxFmt f.isLt]
  exact completes_of_done (execLofClear_eq f p s) ((State.rawBit_defectsFrom _ f.isLt _ f.isLt hu (by decide)).trans h)

/-- IN_FRAME has lasted LOF_CLEAR_TIME: LOF ends. -/
theorem lofClear_clears (h : s.lofOver f (lofKey (s.rxFmt f)) = true) (hk : lofKey (s.rxFmt f) = 0 ∨ f.val % 4 = 0) :
    completes (.lofClear f p) s (fun t => t.rawBit f 2 = false) := by
  obtain ⟨-, h0, -⟩ := (s.lofOver_iff f _).1 h
  refine lofClear_raw h0 ?_
  unfold State.lofCleared
  extract_lets k u
  rw [if_pos hk]
  refine u.rawBit_clearLof_key f ?_ ?_
  · have e : u.rxFmt f = s.rxFmt f := by
      unfold u
      split
      · exact (s.clearLof_hunting f p).rxFmt f.isLt
      · rfl
    rw [e]
  · unfold u
    split
    · rw [s.lofOver_clearLof f.isLt]; exact h
    · exact h

/-- IN_FRAME of a phase has lasted: its LOFLANE ends, and LOF of a member with the last of the five. -/
theorem lofClear_lane (h6 : s.rxFmt f = 6) (h : s.lofOver f p = true) : completes (.lofClear f p) s (fun t =>
    p.val ∉ (t.framer f).loflane ∧ (f.val % 4 ≠ 0 → (∀ q, q < 5 → s.lofOver f q = true) → t.rawBit f 2 = false)) := by
  have hk : lofKey (s.rxFmt f) = 5 := by rw [h6]; rfl
  have hp : p.val ≠ lofKey (s.rxFmt f) := by omega
  have hu : (s.lofCleared f p).rxFmt f ≠ 0 := by rw [(s.lofCleared_hunting f p).rxFmt f.isLt, h6]; decide
  have hfmt := (s.clearLof_hunting f p).rxFmt f.isLt
  refine completes_of_done (execLofClear_eq f p s) ⟨fun hm => ?_, fun hf hall => ?_⟩
  · have hm' : p.val ∈ ((s.lofCleared f p).framer f).loflane := (s.lofCleared f p).loflane_defectsFrom f.isLt _ f ▸ hm
    refine absurd hm' ?_
    unfold State.lofCleared
    extract_lets k u
    have hcl : p.val ∉ (u.framer f).loflane := by
      rw [show u = s.clearLof f p from if_pos hk]
      exact s.not_mem_loflane_clearLof f hp h
    split
    · rwa [u.loflane_clearLof_key f (by rw [show u = s.clearLof f p from if_pos hk, hfmt])]
    · exact hcl
  · refine (State.rawBit_defectsFrom _ f.isLt _ f.isLt hu (by decide)).trans ?_
    unfold State.lofCleared
    extract_lets k u
    rw [if_neg (by omega), show u = s.clearLof f p from if_pos hk]
    exact s.rawBit_clearLof_member f.isLt h6 hf h hall

/-- OOF of a phase has lasted LOF_TIME: LOFLANE. -/
theorem loflane_declares (h6 : s.rxFmt f = 6) (h : s.lofDue f p = true) :
    completes (.loflane f p) s (fun t => p.val ∈ (t.framer f).loflane) := by
  have hp : p.val ≠ lofKey (s.rxFmt f) := by rw [h6]; show p.val ≠ 5; omega
  by_cases hm : p.val ∈ (s.framer f).loflane
  · exact completes_of_done ((exec_loflane f p s).trans (congrArg (done s) (if_neg (by simp [hm])))) hm
  · refine completes_of_done ((exec_loflane f p s).trans (congrArg (done s) (if_pos (by simp [h6, h, hm])))) ?_
    show p.val ∈ (State.framer (State.defectsFrom _ f _) f).loflane
    rw [State.loflane_defectsFrom _ f.isLt]
    exact (s.mem_loflane_setLofOf f true hp).2 rfl

theorem State.lomState_hunting (s : State) (f : Nat) : s.Hunting (s.lomState f) :=
  Spares.iteElse (Hunting.refl s) ((Hunting.refl s).setRaw f 3 _)

/-- LOM as OOM gives it (R44, R94). -/
theorem State.rawBit_lomState (s : State) {f : Nat} (h2 : famOf (s.rxFmt f) = 2) :
    (s.lomState f).rawBit f 3 = ((s.framer f).mf.lomDue (s.lomTime f) s.now ||
      (s.omfiRuns f && (s.framer f).omfi.lomDue (s.lomTime f) s.now) || (s.rawBit f 3 && !(s.framer f).mf.inMf)) := by
  rw [State.lomState, if_neg (not_not.2 h2)]
  exact s.rawBit_setRaw_same f (by omega) _

theorem lom_shows (h : s.mfLive f = true) {b : Bool} (hb : (s.lomState f).rawBit f 3 = b) :
    completes (.lom f) s (fun t => t.rawBit f 3 = b) := by
  have h2 : famOf (s.rxFmt f) = 2 := by simp only [State.mfLive, Bool.and_eq_true, beq_iff_eq] at h; exact h.1.2
  have h0 : (s.lomState f).rxFmt f ≠ 0 := fun e => by
    rw [(s.lomState_hunting f).rxFmt f.isLt] at e
    rw [e] at h2
    exact absurd h2 (by decide)
  refine completes_of_done ((exec_lom f s).trans (congrArg (done s) (if_pos h))) ?_
  exact (State.rawBit_defectsFrom _ f.isLt _ f.isLt h0 (by decide)).trans hb

theorem famOf_of_mfLive (h : s.mfLive f = true) : famOf (s.rxFmt f) = 2 := by
  simp only [State.mfLive, Bool.and_eq_true, beq_iff_eq] at h
  exact h.1.2

/-- OOM has lasted LOM_TIME: LOM. -/
theorem lom_declares (h : s.mfLive f = true) (hd : (s.framer f).mf.lomDue (s.lomTime f) s.now = true ∨
    s.omfiRuns f = true ∧ (s.framer f).omfi.lomDue (s.lomTime f) s.now = true) :
    completes (.lom f) s (fun t => t.rawBit f 3 = true) := by
  refine lom_shows h ?_
  rw [s.rawBit_lomState (famOf_of_mfLive h)]
  rcases hd with h | ⟨h1, h2⟩
  · simp [h]
  · simp [h1, h2]

/-- IN_MF: LOM ends. -/
theorem lom_clears (h : s.mfLive f = true) (hm : (s.framer f).mf.inMf = true) (ho : s.omfiRuns f = false) :
    completes (.lom f) s (fun t => t.rawBit f 3 = false) := by
  refine lom_shows h ?_
  rw [s.rawBit_lomState (famOf_of_mfLive h)]
  simp [Mf.lomDue, hm, ho]

end

end Sys2Proof.Machine
end

section
/-! OTL4.4 reassembly and the spacing of EAV (R48, R51). -/

namespace Sys2Proof.Machine

open Sys2Proof.Cert
open State (SparesRx Spares Aside Hunting)

theorem exec_otlReassembly (f : Chan) (arr : List Nat) (s : State) :
    exec (.otlReassembly f arr) s = execOtlReassembly f arr s := rfl
theorem exec_eavSpacingTimeout (f : Chan) (pos : Nat) (s : State) :
    exec (.eavSpacingTimeout f pos) s = execEavSpacingTimeout f pos s := rfl

/-! ### The deskew (R48) -/

/-- The spread of the arrivals, in ps. -/
def skewOf (arr : List Nat) : Nat := arr.foldl max 0 - arr.foldl min (arr.headD 0)

theorem skewOk_eq (arr : List Nat) : skewOk arr = !decide (2000000 < skewOf arr) := by
  rw [skewOk, skewOf, ← decide_not]
  exact decide_eq_decide.2 (by omega)

theorem State.fld_measureSkew (s : State) (lead : Nat) (arr : List Nat) :
    (s.measureSkew lead arr).fld (rxA lead 0x194) 15 0 = min 65535 (skewOf arr / 1000) := by
  have h := s.fld_setFld_same (a := rxA lead 0x194) (hi := 15) (lo := 0) (min 65535 (skewOf arr / 1000)) (by omega) (by omega)
  exact h.trans (Nat.mod_eq_of_lt (by omega))

theorem State.rd_measureSkew_ne (s : State) (lead : Nat) (arr : List Nat) {g o : Nat} (ho : o < 0x1000) (h : o ≠ 0x194) :
    (s.measureSkew lead arr).rd (rxA g o) = s.rd (rxA g o) := s.rd_setFld_ne _ _ _ (rxA_ne ho (by omega) h)

/-- LOL stands once it is declared. -/
theorem State.rawBit_declareLol_lol (s : State) {lead : Nat} (hl : lead < 384) (fault : Bool) (h6 : s.rxFmt lead = 6) :
    (s.declareLol lead fault).rawBit lead 4 = true := by
  cases h4 : s.rawBit lead 4 with
  | true => rw [State.declareLol_idle fault (.inr h4), h4]
  | false =>
    have h0 : (s.lolDeclared lead fault).rxFmt lead ≠ 0 := by
      rw [(s.lolDeclared_hunting lead fault).rxFmt hl, h6]; decide
    rw [State.declareLol_eq fault h6 h4, State.rawBit_defectsFrom _ hl _ hl h0 (by decide), State.lolDeclared,
      State.rawBit_goOof_ne _ _ _ (by decide), State.rawBit_setRaw_same _ _ (by decide)]

/-- A reassembly writes the registers of the framer where LOL ends and OOF ends. -/
theorem State.rd_reassemble_eq (s : State) {lead : Nat} (hl : lead < 384) {o : Nat} (ho : o < 0x1000) :
    (s.reassemble lead).rd (rxA lead o) = ((s.setRaw lead 4 false).endOof lead 5).rd (rxA lead o) := by
  unfold State.reassemble
  extract_lets u v x
  change _ = u.rd _
  clear_value u
  exact ((State.carriedAlign_sparesRx _ lead).regs _ (not_offRx_rxA hl ho)).trans (State.rd_congr rfl _)

theorem State.rd_reassemble (s : State) {lead : Nat} (hl : lead < 384) {o : Nat} (ho : o ∈ huntRx) :
    (s.reassemble lead).rd (rxA lead o) = s.rd (rxA lead o) := by
  have h1 : s.Hunting ((s.setRaw lead 4 false).endOof lead 5) :=
    ((Hunting.refl s).setRaw lead 4 false).trans (State.endOof_hunting _ lead 5)
  rw [s.rd_reassemble_eq hl (heldRx_lt (huntRx_held ho).1), h1.rd hl ho]

theorem State.rawBit_reassemble (s : State) {lead : Nat} (hl : lead < 384) : (s.reassemble lead).rawBit lead 4 = false := by
  rw [State.rawBit_congr (s.rd_reassemble_eq hl (by decide)), State.rawBit_endOof_ne _ lead 5 (by decide),
    s.rawBit_setRaw_same lead (by decide)]

/-- The part of a reassembly after its measurement. -/
def State.deskewed (s : State) (lead : Nat) (arr : List Nat) : State :=
  if !skewOk arr then s.declareLol lead false
  else if s.rawBit lead 4 then s.withDefects lead (fun s => s.reassemble lead) else s

theorem execOtlReassembly_eq {f : Chan} {s : State} (arr : List Nat) (hg : f.val < 192) (hr : s.rxRuns (leadOf f) = true)
    (hgf : s.groupFramed (leadOf f) = true) (hl : s.lanesComplete (leadOf f) = true) : exec (.otlReassembly f arr) s =
      done s (((s.measureSkew (leadOf f) arr).deskewed (leadOf f) arr).showFrame (leadOf f)) :=
  (exec_otlReassembly f arr s).trans (congrArg (done s) (if_pos (by simp [hr, hg, hgf, hl])))

/-- LOL stands where the deskew is too great, and else ends; the measure stays. -/
theorem State.deskewed_eq (s : State) {lead : Nat} (hl : lead < 384) (arr : List Nat) (h6 : s.rxFmt lead = 6) :
    (s.deskewed lead arr).rawBit lead 4 = decide (2000000 < skewOf arr) ∧
      (s.deskewed lead arr).rd (rxA lead 0x194) = s.rd (rxA lead 0x194) := by
  unfold State.deskewed
  rw [skewOk_eq, Bool.not_not]
  by_cases h : 2000000 < skewOf arr
  · rw [decide_eq_true h, if_pos rfl]
    exact ⟨s.rawBit_declareLol_lol hl false h6, (s.declareLol_hunting hl false).rd hl (by decide)⟩
  · rw [decide_eq_false h, if_neg (by decide)]
    split
    next h4 =>
      have h0 : (s.reassemble lead).rxFmt lead ≠ 0 := by
        rw [State.rxFmt_congr (s.rd_reassemble hl (by decide)), h6]; decide
      exact ⟨(State.rawBit_defectsFrom _ hl _ hl h0 (by decide)).trans (s.rawBit_reassemble hl),
        (State.rd_defectsFrom _ hl _ hl (by decide) (.inl (by decide))).trans (s.rd_reassemble hl (by decide))⟩
    next h4 => exact ⟨by simpa using h4, rfl⟩

theorem State.rxFmt_of_groupFramed {s : State} {lead : Nat} (h : s.groupFramed lead = true) : s.rxFmt lead = 6 := by
  simp only [State.groupFramed, Bool.and_eq_true, List.all_eq_true] at h
  have := h.1 0 (by decide)
  simp only [Nat.add_zero, beq_iff_eq] at this
  exact this.1

/-- OTL_REASSEMBLY measures the skew, and LOL follows it. -/
theorem otlReassembly_measures {f : Chan} {s : State} (arr : List Nat) (hg : f.val < 192) (hr : s.rxRuns (leadOf f) = true)
    (hgf : s.groupFramed (leadOf f) = true) (hl : s.lanesComplete (leadOf f) = true) :
    completes (.otlReassembly f arr) s (fun t => t.fld (rxA (leadOf f) 0x194) 15 0 = min 65535 (skewOf arr / 1000) ∧
      t.rawBit (leadOf f) 4 = decide (2000000 < skewOf arr)) := by
  have hlead := leadOf_lt hg
  refine completes_of_done (execOtlReassembly_eq arr hg hr hgf hl) ?_
  have h6 : (s.measureSkew (leadOf f) arr).rxFmt (leadOf f) = 6 :=
    (State.rxFmt_congr (s.rd_measureSkew_ne _ _ (by omega) (by omega))).trans (State.rxFmt_of_groupFramed hgf)
  obtain ⟨h4, hd⟩ := State.deskewed_eq _ hlead arr h6
  generalize (s.measureSkew (leadOf f) arr).deskewed (leadOf f) arr = u at h4 hd ⊢
  have hskew := s.fld_measureSkew (leadOf f) arr
  rw [← State.fld_congr hd, ← State.fld_congr ((u.showFrame_aside (leadOf f)).rd hlead (by decide))] at hskew
  rw [← (u.showFrame_aside (leadOf f)).rawBit hlead] at h4
  exact ⟨hskew, h4⟩

/-! ### The spacing of EAV (R51) -/

/-- A write of a register changes no part. -/
theorem Part.same_wr (p : Part) (s : State) (a : Nat) (v : Word) : p.same s (s.wr a v) := by cases p <;> rfl

theorem setFramer_sameBut (s : State) (f : Nat) (x : Framer) : sameBut [.framers] s (s.setFramer f x) := fun p hp => by
  cases p with
  | framers => simp at hp
  | _ => rfl

theorem eavSpacingTimeout_ends {f : Chan} {pos : Nat} {s : State} (hr : s.rxRuns f = true) (h3 : famOf (s.rxFmt f) = 3)
    (h0 : (s.framer f).trsSeen ≠ 0) (hp : (s.framer f).trsSeen + 4194304 ≤ pos + 1) :
    completes (.eavSpacingTimeout f pos) s (fun t => t.bit (rxA f 0x1B4) 31 = false ∧ (t.framer f).trsSeen = 0 ∧
      sameBut [.framers] s t ∧ regsBut (fun r => r = rxA f 0x1B4) s t) := by
  have hgo : (s.rxRuns f && famOf (s.rxFmt f) == 3 &&
      decide ((s.framer f).trsSeen ≠ 0 ∧ (s.framer f).trsSeen + 4194304 ≤ pos + 1)) = true := by
    rw [hr, h3, decide_eq_true (And.intro h0 hp)]; rfl
  obtain ⟨u, hu⟩ : ∃ u, u = s.setBit (rxA f 0x1B4) 31 false := ⟨_, rfl⟩
  have hb : u.bit (rxA f 0x1B4) 31 = false := by rw [hu, State.bit_setBit_same _ _ (by decide)]
  have hr : regsBut (fun r => r = rxA f 0x1B4) s u := fun a ha => by rw [hu, State.rd_setBit_ne _ _ _ ha]
  have hp : ∀ p : Part, p.same s u := fun p => by rw [hu]; exact Part.same_wr p s _ _
  refine completes_of_done (t := u.setFramer f { s.framer f with trsSeen := 0 }) (by
    rw [exec_eavSpacingTimeout, execEavSpacingTimeout, if_pos hgo, ← hu]) ?_
  refine ⟨hb, ?_, sameBut_done fun p hm => Part.same_trans (hp p) (setFramer_sameBut _ f _ p hm), hr⟩
  show ((State.setFramer _ f _).framer f).trsSeen = 0
  rw [State.framer_setFramer_same]

end Sys2Proof.Machine
end

section
/-! LOS and its end (R36, R67). -/

namespace Sys2Proof.Machine

open Sys2Proof.Cert
open State (SparesRx Spares Aside Hunting)

theorem exec_los (f : Chan) (since : Nat) (s : State) : exec (.los f since) s = execLos f since s := rfl
theorem exec_losClear (f : Chan) (since : Nat) (s : State) : exec (.losClear f since) s = execLosClear f since s := rfl

/-! ### Hunting again, and no longer held (R36) -/

theorem State.huntAgain_eq (s : State) {f : Nat} (hf : f < 384) :
    s.Spares (rxBut huntRx (by decide)) (fun _ => ()) (s.huntAgain f) ∧ (s.huntAgain f).rawBit f 0 = s.rawBit f 0 ∧
      ∀ p ∈ phasesOf (s.rxFmt f), ((s.huntAgain f).hunter f p).HuntsAnew (s.rawBit f 0) := by
  unfold State.huntAgain
  extract_lets x m u
  have hu : s.Spares (rxBut huntRx (by decide)) (fun _ => ()) u := Spares.setFramer (Spares.refl _ _ s) rfl
  exact ⟨hu.trans ((u.huntEach_hunting hf _).mono (fun _ => id) fun _ _ _ => rfl), u.rawBit_huntEach hf _ (by decide),
    fun p hp => u.hunter_huntEach hf _ hp⟩

/-- The hunters of the list are held no longer, and their hunt starts at the next bit. -/
def State.freeEach (s : State) (f : Nat) (l : List Nat) : State :=
  l.foldl (fun s p => s.setHunter f p { s.hunter f p with heldByLos := false, start := none }) s

theorem State.freeEach_hunting (s : State) (f : Nat) (l : List Nat) : s.Hunting (s.freeEach f l) :=
  Spares.foldl (Hunting.refl s) fun u p _ => (Hunting.refl u).setHunter f p _

theorem State.rd_freeEach (s : State) (f : Nat) (l : List Nat) (a : Nat) : (s.freeEach f l).rd a = s.rd a :=
  foldl_keeps (fun u => u.rd a = s.rd a) (fun u p => u.setHunter f p { u.hunter f p with heldByLos := false, start := none }) l
    (fun _ _ _ hu => hu) s rfl

theorem State.hunter_freeEach (s : State) (f : Nat) (l : List Nat) {p : Nat} (hp : p ∈ l) :
    ((s.freeEach f l).hunter f p).heldByLos = false := by
  have step : ∀ (u : State) (q : Nat), q = p ∨ (u.hunter f p).heldByLos = false →
      ((u.setHunter f q { u.hunter f q with heldByLos := false, start := none }).hunter f p).heldByLos = false := by
    intro u q h
    by_cases e : p = q
    · rw [e, State.hunter_setHunter_same]
    · rw [State.hunter_setHunter_ne _ _ e]
      exact h.resolve_left fun k => e k.symm
  induction l generalizing s with
  | nil => cases hp
  | cons q rest ih =>
    rcases List.mem_cons.1 hp with rfl | hp
    · exact foldl_keeps (fun u => (u.hunter f p).heldByLos = false) _ rest (fun u q _ hu => step u q (.inr hu)) _
        (step s p (.inl rfl))
    · exact ih _ hp

/-! ### The commands -/

theorem State.detSince_restartLos (s : State) (f : Nat) : ((s.restartLos f).framer f).detSince = s.now := by
  rw [State.restartLos, State.framer_setFramer_same]

theorem State.hunter_restartLos (s : State) (f g p : Nat) : (s.restartLos f).hunter g p = s.hunter g p :=
  State.hunter_setFramer (by rfl) g p

theorem State.rawBit_restartLos (s : State) (f g b : Nat) : (s.restartLos f).rawBit g b = s.rawBit g b := rfl

theorem State.tx_restartLos (s : State) (f g : Nat) : (s.restartLos f).tx g = s.tx g := rfl

theorem State.losLasted_of {s : State} {f since lo : Nat}
    (h : max since (s.framer f).detSince + s.fld (rxA f 0x200) (lo + 9) lo * 1000 ≤ s.now) : s.losLasted f since lo = true :=
  decide_eq_true h

theorem State.declareLos_eq (s : State) (f : Nat) :
    s.declareLos f = ((s.setRaw f 0 true).huntAgain f).afterChange f (s.defView f) := rfl

/-- LOS stands, and every hunter of the format hunts, held. -/
theorem State.declareLos_holds (s : State) {f : Nat} (hf : f < 384) (h0 : s.rxFmt f ≠ 0) :
    (s.declareLos f).rawBit f 0 = true ∧ (s.declareLos f).now = s.now ∧
      ∀ p ∈ phasesOf (s.rxFmt f), ((s.declareLos f).hunter f p).HuntsAnew true := by
  have hraw := s.rawBit_setRaw_same f (b := 0) (by decide) true
  have hset : s.Hunting (s.setRaw f 0 true) := (Hunting.refl s).setRaw f 0 true
  obtain ⟨hsp, hlos, hhunt⟩ := (s.setRaw f 0 true).huntAgain_eq hf
  rw [hraw] at hlos hhunt
  rw [hset.rxFmt hf] at hhunt
  have hfmt : ((s.setRaw f 0 true).huntAgain f).rxFmt f ≠ 0 := by
    rwa [State.rxFmt_congr (hsp.regs _ (not_rxBut hf (by decide) (by decide))), hset.rxFmt hf]
  rw [s.declareLos_eq]
  refine ⟨State.rawBit_afterChange _ hf _ hf hfmt (by decide) hlos, ?_, fun p hp => ?_⟩
  · exact (Spares.now (State.afterChange_hunting _ hf _)).trans (hsp.now.trans (Spares.now hset))
  · have hp5 : p ≠ 5 := by have := phasesOf_lt hp; omega
    rw [State.hunter_afterChange _ hf _ f hp5]
    exact hhunt p hp

section

variable {f : Chan} {since : Nat} {s : State}

/-- LOS: the hunters hunt and are held, CDR_LOCK and SIG_DET of the lane fall, detection restarts. -/
theorem los_declares (hr : s.rxRuns f = true) (h0 : s.rxFmt f ≠ 0) (hraw : s.rawBit f 0 = false)
    (hl : s.losLasted f since 0 = true) : completes (.los f since) s (fun t =>
      t.rawBit f 0 = true ∧ t.fld (srdA (srdRx f) 0x104) 1 0 = 0 ∧ (t.framer f).detSince = s.now ∧
      ∀ p ∈ phasesOf (s.rxFmt f), (t.hunter f p).state = .hunt ∧ (t.hunter f p).heldByLos = true) := by
  obtain ⟨hlos, hnow, hhunt⟩ := s.declareLos_holds f.isLt h0
  refine completes_of_done ((exec_los f since s).trans (congrArg (done s) (if_pos (by simp [hr, h0, hraw, hl])))) ?_
  generalize s.declareLos f = u at hlos hnow hhunt ⊢
  have hrd : ((u.restartLos f).setFld (srdA (srdRx f) 0x104) 1 0 0).rd (rxA f 0x204) = (u.restartLos f).rd (rxA f 0x204) :=
    (u.restartLos f).rd_setFld_ne _ _ _ fun e => not_offRx_rxA f.isLt (by decide) (e ▸ srdA_offRx _ _)
  have hfld := (u.restartLos f).fld_setFld_same (a := srdA (srdRx f) 0x104) (hi := 1) (lo := 0) 0 (by omega) (by omega)
  have hfr : ((u.restartLos f).setFld (srdA (srdRx f) 0x104) 1 0 0).framers = (u.restartLos f).framers :=
    State.setFld_framers _ _ _ _ _
  have hdet := (u.detSince_restartLos f).trans hnow
  rw [← State.framer_congr hfr] at hdet
  rw [← u.rawBit_restartLos f, ← State.rawBit_congr hrd] at hlos
  generalize (u.restartLos f).setFld (srdA (srdRx f) 0x104) 1 0 0 = v at hlos hfld hdet hfr ⊢
  refine ⟨hlos, hfld, hdet, fun p hp => ?_⟩
  obtain ⟨hh, -⟩ := hhunt p hp
  rw [← u.hunter_restartLos f, ← State.hunter_of_framers hfr] at hh
  exact ⟨hh.state, hh.held⟩

/-- The end of LOS before the defects that it brings. -/
def State.losCleared (s : State) (f : Nat) : State := ((s.losOver f).setRaw f 0 false).freeEach f (phasesOf (s.rxFmt f))

theorem State.clearLos_eq (s : State) {f : Nat} (h : s.rawBit f 0 = true) :
    s.clearLos f = ((s.losCleared f).defectsFrom f ((s.losOver f).defView f)).showFrame f := by
  have hfmt : (s.losOver f).rxFmt f = s.rxFmt f := by rw [State.losOver, if_pos h]; rfl
  rw [State.losCleared, ← hfmt]
  rfl

/-- LOS is over at a framer: its hunters are held no longer. -/
theorem State.clearLos_frees (s : State) {f : Nat} (hf : f < 384) (h0 : s.rxFmt f ≠ 0) (h : s.rawBit f 0 = true) :
    (s.clearLos f).rawBit f 0 = false ∧ (s.clearLos f).now = s.now ∧ ((s.clearLos f).tx f).losFreeSince = s.now ∧
      ∀ p ∈ phasesOf (s.rxFmt f), ((s.clearLos f).hunter f p).heldByLos = false := by
  have hover : s.losOver f = s.setTx f { s.tx f with losFreeSince := s.now } := if_pos h
  have hraw : (s.losCleared f).rawBit f 0 = false :=
    (State.rawBit_congr (State.rd_freeEach _ f _ _) 0).trans (State.rawBit_setRaw_same _ f (by decide) false)
  have hclear : (s.losOver f).Hunting (s.losCleared f) := ((Hunting.refl _).setRaw f 0 false).trans (State.freeEach_hunting _ f _)
  have hend : (s.losOver f).Hunting (s.clearLos f) := by
    rw [s.clearLos_eq h]
    exact (hclear.defectsFrom hf _).trans (State.showFrame_aside _ f).hunting
  have hfmt : (s.losCleared f).rxFmt f ≠ 0 := by
    rw [hclear.rxFmt hf, hover]
    exact h0
  refine ⟨?_, ?_, ?_, fun p hp => ?_⟩
  · rw [s.clearLos_eq h, (State.showFrame_aside _ f).rawBit hf, State.rawBit_defectsFrom _ hf _ hf hfmt (by decide), hraw]
  · rw [Spares.now hend, hover]; rfl
  · rw [Spares.losFree hend, hover, State.tx_setTx_same]
  · rw [s.clearLos_eq h, (State.showFrame_aside _ f).hunter, State.hunter_defectsFrom _ hf]
    exact State.hunter_freeEach _ f _ hp

/-- LOS ends: the lane has signal detect and its loop timing is told, the hunters are held no longer. -/
theorem losClear_clears (hr : s.rxRuns f = true) (h0 : s.rxFmt f ≠ 0) (hraw : s.rawBit f 0 = true)
    (hl : s.losLasted f since 16 = true) : completes (.losClear f since) s (fun t =>
      t.rawBit f 0 = false ∧ t.bit (srdA (srdRx f) 0x104) 0 = true ∧ (t.tx f).losFreeSince = s.now ∧
      (t.framer f).detSince = s.now ∧ ∀ p ∈ phasesOf (s.rxFmt f), (t.hunter f p).heldByLos = false) := by
  obtain ⟨hlos, hnow, hfree, hheld⟩ := s.clearLos_frees f.isLt h0 hraw
  refine completes_of_done ((exec_losClear f since s).trans (congrArg (done s) (if_pos (by simp [hr, hraw, hl])))) ?_
  generalize s.clearLos f = u at hlos hnow hfree hheld ⊢
  obtain ⟨v, hv⟩ : ∃ v, v = (u.restartLos f).setBit (srdA (srdRx f) 0x104) 0 true := ⟨_, rfl⟩
  have hrd : v.rd (rxA f 0x204) = (u.restartLos f).rd (rxA f 0x204) := by
    rw [hv, State.rd_setBit_ne _ _ _ fun e => not_offRx_rxA f.isLt (by decide) (e ▸ srdA_offRx _ _)]
  have hbit : v.bit (srdA (srdRx f) 0x104) 0 = true := by rw [hv, State.bit_setBit_same _ _ (by decide)]
  have hfr : v.framers = (u.restartLos f).framers := by rw [hv, State.setBit_framers]
  have htx : v.txs = (u.restartLos f).txs := by rw [hv, State.setBit_txs]
  rw [← u.detSince_restartLos f, ← State.framer_congr hfr] at hnow
  rw [← u.rawBit_restartLos f, ← State.rawBit_congr hrd] at hlos
  rw [← u.tx_restartLos f, ← State.tx_congr htx] at hfree
  rw [← hv]
  refine ⟨hlos, hbit, hfree, hnow, fun p hp => ?_⟩
  have hh := hheld p hp
  rw [← u.hunter_restartLos f, ← State.hunter_of_framers hfr] at hh
  exact hh

end

end Sys2Proof.Machine
end

section
/-! SUPPORT. What tells where a tributary's ODU comes from outlasts the count of a host access and a write to the
tributary's own PDEF (R71, R95, R98). -/

namespace Sys2Proof.Machine

open Sys2Proof.Cert

/-! ### The OUT entries among the registers (R95) -/

theorem Tab.filter_erase {α : Type} (t : Tab α) {k : Nat} (p : Nat → Bool) (h : p k = false) :
    (Tab.erase t k).filter (fun e => p e.1) = t.filter (fun e => p e.1) := by
  induction t with
  | nil => rfl
  | cons e rest ih =>
    obtain ⟨j, v⟩ := e
    unfold Tab.erase
    split
    next e => rw [ih, List.filter_cons_of_neg (by simp [e, h])]
    · rw [List.filter_cons, List.filter_cons, ih]

theorem Tab.filter_insert {α : Type} (t : Tab α) {k : Nat} (v : α) (p : Nat → Bool) (h : p k = false) :
    (Tab.insert t k v).filter (fun e => p e.1) = t.filter (fun e => p e.1) := by
  induction t with
  | nil => exact List.filter_cons_of_neg (by simp [h])
  | cons e rest ih =>
    obtain ⟨j, u⟩ := e
    unfold Tab.insert
    split
    · rw [List.filter_cons_of_neg (by simp [h])]
    · split
      next e => rw [List.filter_cons_of_neg (by simp [h]), List.filter_cons_of_neg (by simp [e, h])]
      · rw [List.filter_cons, List.filter_cons, ih]

/-- The entries at other keys stay in their order. -/
theorem Tab.filter_set {α : Type} [DecidableEq α] (t : Tab α) (d : α) {k : Nat} (v : α) (p : Nat → Bool) (h : p k = false) :
    (Tab.set t d k v).filter (fun e => p e.1) = t.filter (fun e => p e.1) := by
  unfold Tab.set
  split
  · exact Tab.filter_erase t p h
  · exact Tab.filter_insert t v p h

/-- An address of the active OUT table. -/
def isOut (a : Nat) : Bool := decide (outActA 0 ≤ a ∧ a < outActA 4608)

theorem isOut_low {a : Nat} (h : a < 0x700000) : isOut a = false :=
  decide_eq_false fun e => absurd e.1 (by unfold outActA trlA; omega)

/-- The active OUT table as the registers list it. -/
def State.outRegs (s : State) : List (Nat × Word) := s.regs.filter (fun e => isOut e.1)

theorem State.outFor_outRegs (s : State) (r sink : Nat) : s.outFor r sink = (s.outRegs.find? (fun e => e.2.msb &&
    bitsOf e.2.toNat 16 13 == r && bitsOf e.2.toNat 23 17 == sink && bitsOf e.2.toNat 30 24 == 0)).map (·.2) := by
  rw [State.outFor, State.outRegs, List.find?_filter]
  congr 2
  funext e
  rw [Bool.eq_iff_iff]
  simp [isOut, and_assoc]

section

variable (s : State) {a : Nat} (ha : a < 0x700000)
include ha

theorem State.outRegs_wr (v : Word) : (s.wr a v).outRegs = s.outRegs := Tab.filter_set _ _ _ isOut (isOut_low ha)
theorem State.outRegs_wrN (n : Nat) : (s.wrN a n).outRegs = s.outRegs := s.outRegs_wr ha _
theorem State.outRegs_setFld (hi lo v : Nat) : (s.setFld a hi lo v).outRegs = s.outRegs := s.outRegs_wrN ha _
theorem State.outRegs_setBit (n : Nat) (b : Bool) : (s.setBit a n b).outRegs = s.outRegs := s.outRegs_setFld ha _ _ _
theorem State.outRegs_inc : (s.inc a).outRegs = s.outRegs := s.outRegs_wrN ha _

theorem State.outRegs_event (b : Nat) (h8 : ∀ k n base, blockOf a = some (k, n, base) → base + 8 < 0x700000) :
    (s.event a b).outRegs = s.outRegs := by
  have h : ((s.setFld a 31 24 (s.fld a 31 24 + 1)).setFld a b b 1).outRegs = s.outRegs := by
    rw [State.outRegs_setFld _ ha, State.outRegs_setFld _ ha]
  unfold State.event
  extract_lets u
  split
  · exact h
  next k n base hb =>
    obtain ⟨v, w, e⟩ := u.summary_regs base (1 + 2 ^ summaryBit k (a - base))
    rw [State.outRegs, e]
    exact ((State.outRegs_setFld _ (h8 _ _ _ hb) 23 0 w).trans (State.outRegs_setFld _ (h8 _ _ _ hb) 31 24 v)).trans h

end

theorem srcA_low {src o : Nat} (hs : src < 1024) (ho : o < 0x20) : srcA src o < 0x700000 := by unfold srcA; omega

theorem State.outRegs_setCur (s : State) (c : Cur) : (s.setCur c).outRegs = s.outRegs := rfl
theorem State.outRegs_setInv (s : State) (x : Inv) : (s.setInv x).outRegs = s.outRegs := rfl

theorem State.outRegs_dropReport (s : State) {src : Nat} (hs : src < 1024) : (s.dropReport src).outRegs = s.outRegs := by
  have hcur : ∀ k n base, blockOf (curA 0x104) = some (k, n, base) → base + 8 < 0x700000 := fun _ _ _ h => by
    rw [blockOf_curEvents] at h
    cases h
    decide
  unfold State.dropReport
  rw [State.outRegs_setCur, State.outRegs_event _ (by decide) 4 hcur, State.outRegs_inc _ (by decide),
    State.outRegs_inc _ (srcA_low hs (by omega))]

theorem State.outRegs_raise (s : State) {src : Nat} (hs : src < 1024) (kind : Nat) (clear : Bool) (detail : Nat) :
    (s.raise src kind clear detail).outRegs = s.outRegs := by
  have hq := s.outRegs_setFld (srcA_low hs (o := 0x0C) (by omega)) 7 0 (s.fld (srcA src 0x0C) 7 0 + 1)
  unfold State.raise State.raiseAs
  extract_lets seq q c u r
  split
  · rw [State.outRegs_dropReport _ hs, hq]
  · rw [State.outRegs_setCur, hq]

theorem State.outRegs_raiseLim (s : State) {src : Nat} (hs : src < 1024) (n sub kind : Nat) (clear : Bool) (detail : Nat) :
    (s.raiseLim n sub src kind clear detail).outRegs = s.outRegs := by
  have hr := s.rate_regs ((sub * 1024 + src) * 256 + kind) n
  have hq : (s.rate ((sub * 1024 + src) * 256 + kind) n).2.outRegs = s.outRegs := by rw [State.outRegs, hr]; rfl
  unfold State.raiseLim
  split
  next t e => rw [e] at hq; exact (t.outRegs_raise hs kind clear detail).trans hq
  next t e => rw [e] at hq; exact hq

theorem cntA_low {c o : Nat} (hc : c < 344) (ho : o < 0x20) : cntA c o < 0x700000 := by unfold cntA invA; omega

theorem State.outRegs_setCount (s : State) {c : Nat} (hc : c < 344) (n : Nat) : (s.setCount c n).outRegs = s.outRegs :=
  (State.outRegs_wrN _ (cntA_low hc (by omega)) _).trans (s.outRegs_wrN (cntA_low hc (by omega)) _)

theorem State.outRegs_cntWrapNote (s : State) {c : Nat} (hc : c < 344) : (s.cntWrapNote c).outRegs = s.outRegs := by
  have hinv : ∀ k n base, blockOf (invA 0x108) = some (k, n, base) → base + 8 < 0x700000 := fun _ _ _ h => by
    rw [blockOf_invEvents] at h
    cases h
    decide
  have hv : ((s.setBit (cntA c 0) 12 true).event (invA 0x108) 1).outRegs = s.outRegs := by
    rw [State.outRegs_event _ (by decide) 1 hinv, State.outRegs_setBit _ (cntA_low hc (by omega))]
  unfold State.cntWrapNote
  extract_lets v
  split
  · rw [State.outRegs_raiseLim _ (by decide), hv]
  · exact hv

theorem State.outRegs_cntWrap (s : State) {c : Nat} (hc : c < 344) : (s.cntWrap c).outRegs = s.outRegs := by
  unfold State.cntWrap
  extract_lets v w
  split
  · rw [State.outRegs_setInv, State.outRegs_setCount _ hc, State.outRegs_cntWrapNote _ hc]
  · exact s.outRegs_cntWrapNote hc

theorem State.outRegs_cntAdd (s : State) {c : Nat} (hc : c < 344) (n : Nat) : (s.cntAdd c n).outRegs = s.outRegs := by
  unfold State.cntAdd
  extract_lets v u
  split
  · exact s.outRegs_setCount hc _
  · rw [State.outRegs_cntWrap _ hc, State.outRegs_setCount _ hc]

/-- Counting an access of the host leaves the OUT table. -/
theorem State.outRegs_tallyHif (s : State) (ev n : Nat) : (s.tallyHif ev n).outRegs = s.outRegs := by
  unfold State.tallyHif State.tally
  split
  · rfl
  · refine foldl_keeps (fun u => u.outRegs = s.outRegs) _ _ (fun u i hi hu => ?_) s rfl
    split
    · rw [State.outRegs_cntAdd _ (by have := List.mem_range.1 hi; omega), hu]
    · exact hu

/-! ### Where a tributary's ODU comes from (R12, R71, R98) -/

/-- The registers that tell where signals come from. -/
def routeReg (a : Nat) : Prop := 0x200000 ≤ a ∧ ¬ (0x600000 ≤ a ∧ a < 0x6C0000 ∧ a % 0x100 = 0xC)

/-- What tells where signals come from and whether they arrive is the same. -/
structure State.SameRoutes (s t : State) : Prop where
  quiet : s.Quiet t
  regs : ∀ a, routeReg a → t.rd a = s.rd a
  outs : t.outRegs = s.outRegs

namespace State.SameRoutes

variable {s t : State}

theorem refl (s : State) : s.SameRoutes s := ⟨Quiet.refl s, fun _ _ => rfl, rfl⟩

theorem tallyHif (s : State) : s.SameRoutes (s.tallyHif 3 1) := by
  refine ⟨s.tallyHif_quiet 3 1, fun a ha => s.rd_tallyHif_ne 3 1 fun hc => ?_, s.outRegs_tallyHif 3 1⟩
  unfold countReg reportReg invA srcA curA at hc
  unfold routeReg at ha
  omega

/-- A write to DEF_PDEF of a tributary. -/
theorem setPdef (h : s.SameRoutes t) {r : Nat} (hr : r < 12) (k : Fin 80) (v : Nat) :
    s.SameRoutes (t.setFld (tribA r k 0xC) 7 0 v) := by
  have ha : 0x600000 ≤ tribA r k 0xC ∧ tribA r k 0xC < 0x6C0000 ∧ tribA r k 0xC % 0x100 = 0xC := by
    unfold tribA mapA; omega
  refine ⟨h.quiet.trans (t.setFld_quiet _ _ _ _), fun a hroute => ?_, (t.outRegs_setFld (by omega) _ _ _).trans h.outs⟩
  exact (t.rd_setFld_ne _ _ _ fun e => hroute.2 (by rw [e]; exact ha)).trans (h.regs a hroute)

variable (h : s.SameRoutes t)
include h

theorem actFld (a hi lo : Nat) : t.actFld a hi lo = s.actFld a hi lo := by
  rw [State.actFld, State.actFld, State.actv, State.actv, h.quiet.active]

theorem fld {a : Nat} (ha : routeReg a) (hi lo : Nat) : t.fld a hi lo = s.fld a hi lo := State.fld_congr (h.regs a ha) hi lo

theorem rxA_fld (f hi lo : Nat) {o : Nat} (ho : o % 0x100 ≠ 0xC) : t.fld (rxA f o) hi lo = s.fld (rxA f o) hi lo :=
  h.fld ⟨by unfold rxA; split <;> omega, by unfold rxA; split <;> omega⟩ hi lo

theorem rxFmt : t.rxFmt = s.rxFmt := funext fun f => h.rxA_fld f 3 0 (by decide)
theorem rawBit (f b : Nat) : t.rawBit f b = s.rawBit f b := by
  rw [State.rawBit, State.rawBit, State.bit, State.bit, h.rxA_fld f b b (by decide)]

theorem tMode : t.tMode = s.tMode := funext fun _ => funext fun _ => h.actFld _ _ _
theorem tIng : t.tIng = s.tIng := funext fun _ => funext fun _ => congrArg (· == 1) (h.actFld _ _ _)
theorem tEgr : t.tEgr = s.tEgr := funext fun _ => funext fun _ => congrArg (· == 1) (h.actFld _ _ _)
theorem tChan : t.tChan = s.tChan := funext fun _ => funext fun _ => h.actFld _ _ _
theorem mEn : t.mEn = s.mEn := funext fun _ => congrArg (· == 1) (h.actFld _ _ _)
theorem mSelector : t.mSelector = s.mSelector := funext fun _ => congrArg (· == 1) (h.actFld _ _ _)
theorem mRemote : t.mRemote = s.mRemote := funext fun _ => congrArg (· == 1) (h.actFld _ _ _)
theorem mChanA : t.mChanA = s.mChanA := funext fun i => congrArg (chanOf (i / 8)) (h.actFld _ _ _)
theorem mChanB : t.mChanB = s.mChanB := funext fun i => congrArg (chanOf (i / 8)) (h.actFld _ _ _)
theorem pair : t.pair = s.pair := funext fun i => by rw [State.pair, State.pair, h.quiet.pairs]
theorem hold : t.hold = s.hold := funext fun _ => funext fun _ => by rw [State.hold, State.hold, h.quiet.sinkHold]

theorem pairBit (i b : Nat) : t.bit (pairA i 0xC) b = s.bit (pairA i 0xC) b := by
  rw [State.bit, State.bit, h.fld ⟨by unfold pairA; omega, by unfold pairA; omega⟩]

theorem mAligned : t.mAligned = s.mAligned := funext fun i => h.pairBit i 0
theorem mSel : t.mSel = s.mSel := funext fun i => h.pairBit i 1

theorem sourceOf : t.sourceOf = s.sourceOf := by
  funext r sink
  have hp : ∀ p, routeReg (inActA p) := fun p => ⟨by unfold inActA trlA; omega, by unfold inActA trlA; omega⟩
  rw [State.sourceOf, State.sourceOf, State.outFor_outRegs, State.outFor_outRegs, h.outs]
  congr 1
  funext w
  simp only [h.fld (hp _)]

theorem coreRuns : t.coreRuns = s.coreRuns := by rw [State.coreRuns, State.coreRuns, h.quiet.top]
theorem rxRuns (f : Nat) : t.rxRuns f = s.rxRuns f := by rw [State.rxRuns, State.rxRuns, h.coreRuns, h.quiet.inReset]

theorem mRuns (i : Nat) : t.mRuns i = s.mRuns i := by
  rw [State.mRuns, State.mRuns, State.celRuns, State.celRuns, State.mOk, State.mOk, State.granted, State.granted,
    h.coreRuns, h.quiet.inReset, h.mEn, h.mSelector, h.mRemote, h.mChanA, h.mChanB, h.rxFmt, h.quiet.grants]

theorem pairOn (f : Nat) : t.pairOn f = s.pairOn f := by
  rw [State.pairOn, State.pairOn, State.enabledPairs, State.enabledPairs, h.quiet.active, h.mEn, h.mChanA, h.pair]
  congr 1
  funext i
  rw [h.mRuns]

theorem mergePs (i : Nat) : t.mergePs i = s.mergePs i := by
  rw [State.mergePs, State.mergePs, h.rxFmt, h.mChanA, h.pair, h.mAligned, h.mSel]

theorem chanPath : t.chanPath = s.chanPath := by
  funext f
  rw [State.chanPath, State.chanPath, h.pairOn, h.rxFmt, h.mSel, h.mRemote, h.mChanB, h.sourceOf, h.tMode, h.tChan]
  simp only [h.mergePs]

theorem tribPath : t.tribPath = s.tribPath := by
  funext r j
  rw [State.tribPath, State.tribPath, h.chanPath, h.sourceOf, h.tMode, h.tChan]

theorem hunter (f p : Nat) : t.hunter f p = s.hunter f p := State.hunter_of_framers h.quiet.framers f p

theorem rxEdges (f : Nat) : t.rxEdges f = s.rxEdges f := by
  rw [State.rxEdges, State.rxEdges, State.rxDelivers, State.rxDelivers, State.rxFlies, State.rxFlies, h.rxRuns, h.rxFmt,
    h.rawBit, h.rawBit, h.hunter, h.hunter, h.hunter]

theorem tribFed (r j : Nat) : t.tribFed r j = s.tribFed r j := by
  rw [State.tribFed, State.tribFed, h.tribPath, h.sourceOf, h.tMode, h.tIng, h.hold]
  simp only [h.rxEdges]

theorem tribEdges (r j : Nat) : t.tribEdges r j = s.tribEdges r j := by
  have ha : routeReg (tribA r j 0) := ⟨by unfold tribA mapA; omega, by unfold tribA mapA; omega⟩
  rw [State.tribEdges, State.tribEdges, h.tribFed, State.bit, State.bit, h.fld ha]

theorem tTakes (r j : Nat) : t.tTakes r j = s.tTakes r j := by
  rw [State.tTakes, State.tTakes, h.tMode, h.tIng, h.tEgr]

end State.SameRoutes

end Sys2Proof.Machine
end

section
/-! PDEF: the program defects of a framer and of a tributary (R71). -/

namespace Sys2Proof.Machine

open Sys2Proof.Cert
open State (SparesRx Spares Aside Hunting SameRoutes)

theorem exec_pdef (site : DefectSite) (v : Byte) (s : State) : exec (.pdef site v) s = execPdef site v s := rfl

theorem State.fld_setByte (s : State) (a : Nat) (v : Byte) : (s.setFld a 7 0 v.toNat).fld a 7 0 = v.toNat := by
  rw [State.fld_setFld_same _ _ (by omega) (by omega)]
  exact Nat.mod_eq_of_lt v.isLt

/-! ### A framer -/

/-- What tells whether a framer delimits frames is the same. -/
theorem State.rxEdges_congr {s t : State} {f : Nat} (hr : t.rxRuns f = s.rxRuns f) (hfmt : t.rd (rxA f 0x100) = s.rd (rxA f 0x100))
    (hraw : t.rd (rxA f 0x204) = s.rd (rxA f 0x204)) (hh : ∀ p, t.hunter f p = s.hunter f p) : t.rxEdges f = s.rxEdges f := by
  rw [State.rxEdges, State.rxEdges, State.rxDelivers, State.rxDelivers, State.rxFlies, State.rxFlies, hr, State.rxFmt_congr hfmt,
    State.rawBit_congr hraw, State.rawBit_congr hraw, hh, hh, hh]

theorem State.pdefEff_defectsFrom (s : State) {f : Nat} (hf : f < 384) (old : DefView) (g : Nat) :
    ((s.defectsFrom f old).framer g).pdefEff = (s.framer g).pdefEff := by
  have h : ((s.defectsFrom f old).framer g).lessSeconds.pdefEff = (s.framer g).lessSeconds.pdefEff := by
    rw [s.framer_defectsFrom hf]
  exact h

/-- The program defects written are in effect at once where no frame edge comes. -/
theorem State.pdefRx_eq (s : State) {f : Nat} (hf : f < 384) (v : Byte) :
    (s.pdefRx f v.toNat).fld (rxA f 0x238) 7 0 = v.toNat ∧ ((s.pdefRx f v.toNat).framer f).pdefEff =
      if s.rxFmt f = 0 ∨ s.rxEdges f = true then (s.framer f).pdefEff else v := by
  obtain ⟨u, hu⟩ : ∃ u, u = s.setFld (rxA f 0x238) 7 0 v.toNat := ⟨_, rfl⟩
  have hfld : u.fld (rxA f 0x238) 7 0 = v.toNat := by rw [hu, State.fld_setByte]
  have hs : s.Spares (rxBut [0x100, 0x204] (by decide)) (fun x => x) u := by
    rw [hu]
    exact (Spares.refl _ _ s).setFld (rxA_rxBut (by omega) (by decide)) _ _ _
  have hrd : ∀ o ∈ [0x100, 0x204], u.rd (rxA f o) = s.rd (rxA f o) := fun o ho =>
    hs.regs _ (not_rxBut hf (by simp only [List.mem_cons, List.not_mem_nil, or_false] at ho; omega) ho)
  have hedges : u.rxEdges f = s.rxEdges f := State.rxEdges_congr (hs.rxRuns f) (hrd _ (by decide)) (hrd _ (by decide))
    fun p => State.hunter_congr (congrArg Framer.hunters (hs.framers f)) p
  have hfmt : u.rxFmt f = s.rxFmt f := State.rxFmt_congr (hrd _ (by decide))
  have heff : (u.framer f).pdefEff = (s.framer f).pdefEff := congrArg Framer.pdefEff (hs.framers f)
  have hedge : ((u.pdefEdge f).framer f).pdefEff = v := by
    rw [State.pdefEdge, State.framer_setFramer_same]
    show BitVec.ofNat 8 (u.fld (rxA f 0x238) 7 0) = v
    rw [hfld, BitVec.ofNat_toNat, BitVec.setWidth_eq]
  have hrx : s.pdefRx f v.toNat = if u.rxFmt f = 0 || u.rxEdges f then u else u.withDefects f (fun s => s.pdefEdge f) := by
    rw [hu]
    rfl
  rw [hrx, hedges, hfmt]
  by_cases h : s.rxFmt f = 0 ∨ s.rxEdges f = true
  · rw [if_pos (by simpa using h), if_pos h]
    exact ⟨hfld, heff⟩
  · rw [if_neg (by simpa using h), if_neg h]
    refine ⟨?_, (State.pdefEff_defectsFrom _ hf _ f).trans hedge⟩
    exact (State.fld_congr (State.rd_defectsFrom _ hf _ hf (by decide) (.inl (by decide))) 7 0).trans hfld

theorem pdef_framer {f : Chan} {s : State} (v : Byte) (h : hostAt s (rxA f 0x238)) :
    completes (.pdef (.framer f) v) s (fun t => t.fld (rxA f 0x238) 7 0 = v.toNat ∧
      (t.framer f).pdefEff = if s.rxFmt f = 0 ∨ s.rxEdges f = true then (s.framer f).pdefEff else v) := by
  obtain ⟨hreach, hlow, hin⟩ := h
  refine completes_of_done ((exec_pdef _ v s).trans (congrArg (done s) (s.hostTo_acts _ hreach hlow hin))) ?_
  have hq := s.tallyHif_quiet 3 1
  have hrd : ∀ o < 0x1000, (s.tallyHif 3 1).rd (rxA f o) = s.rd (rxA f o) := fun o ho =>
    s.rd_tallyHif_ne 3 1 fun hc => not_offRx_rxA f.isLt ho (offRx.count hc)
  have hruns : (s.tallyHif 3 1).rxRuns f = s.rxRuns f := (SameRoutes.tallyHif s).rxRuns f
  have hedges : (s.tallyHif 3 1).rxEdges f = s.rxEdges f := State.rxEdges_congr hruns (hrd _ (by omega)) (hrd _ (by omega))
    fun p => State.hunter_of_framers hq.framers f p
  obtain ⟨h1, h2⟩ := (s.tallyHif 3 1).pdefRx_eq f.isLt v
  rw [hedges, State.rxFmt_congr (hrd _ (by omega)), State.framer_congr hq.framers] at h2
  exact ⟨h1, h2⟩

/-! ### A tributary -/

/-- Everything but the registers where tributaries hold their program defects. -/
def pdefSide : Area where
  has a := a < 0x600000 ∨ 0x6C0000 ≤ a ∨ a % 0x100 ≠ 0xC
  low a h _ := .inl (by omega)
  summary {a n base k} _ hb := by
    have := blockOf_aligned hb
    exact .inr (.inr (by omega))

theorem State.pdefTrib_eq (s : State) {r : Nat} (hr : r < 12) (k : Fin 80) (v : Byte) :
    (s.pdefTrib r k v.toNat).fld (tribA r k 0xC) 7 0 = v.toNat ∧ ((s.pdefTrib r k v.toNat).trib r k).pdefEff =
      if s.tTakes r k = true ∧ s.tribEdges r k = false then v else (s.trib r k).pdefEff := by
  obtain ⟨u, hu⟩ : ∃ u, u = s.setFld (tribA r k 0xC) 7 0 v.toNat := ⟨_, rfl⟩
  have hfld : u.fld (tribA r k 0xC) 7 0 = v.toNat := by rw [hu, State.fld_setByte]
  have hroutes : s.SameRoutes u := by rw [hu]; exact (SameRoutes.refl s).setPdef hr k _
  have heff : (u.trib r k).pdefEff = (s.trib r k).pdefEff := by rw [State.trib_congr hroutes.quiet.tribs]
  have hrx : s.pdefTrib r k v.toNat = if u.tTakes r k && !u.tribEdges r k then u.withTrib r k (fun s => s.pdefTribEdge r k)
      else u := by rw [hu]; rfl
  rw [hrx, hroutes.tTakes, hroutes.tribEdges]
  by_cases h : s.tTakes r k = true ∧ s.tribEdges r k = false
  · rw [if_pos (by simpa using h), if_pos h]
    have hT : ∀ o ∈ [0, 4, 8], pdefSide.has (tribA r k o) := fun o ho => .inr (.inr (by
      simp only [List.mem_cons, List.not_mem_nil, or_false] at ho
      unfold tribA mapA
      omega))
    have hM : pdefSide.has (mapA r 8) := .inr (.inr (by unfold mapA; omega))
    have hF : ∀ F o, pdefSide.has (furA F o) := fun F o => .inr (.inl (by unfold furA; omega))
    have hd := (u.pdefTribEdge r k).tribDefects_spares (fun _ => ()) hT hM hr hF
      (u.fld (tribA r k 0) 25 0, u.fld (tribA r k 4) 25 0, (u.trib r k).pdefAct)
    have hedge : ((u.pdefTribEdge r k).trib r k).pdefEff = v := by
      rw [State.trib, State.pdefTribEdge, State.setTrib, State.setTribs_tribs, Tab.get_set_same]
      show BitVec.ofNat 8 (u.fld (tribA r k 0xC) 7 0) = v
      rw [hfld, BitVec.ofNat_toNat, BitVec.setWidth_eq]
    have hoff : ¬ pdefSide.has (tribA r k 0xC) := by
      show ¬ (_ < _ ∨ _ ≤ _ ∨ _ ≠ _)
      unfold tribA mapA
      omega
    exact ⟨(State.fld_congr (hd.regs _ hoff) 7 0).trans hfld, (congrArg Prod.fst (hd.tribs r k)).trans hedge⟩
  · rw [if_neg (by simpa using h), if_neg h]
    exact ⟨hfld, heff⟩

theorem pdef_trib {r : Fin 12} {k : Fin 80} {s : State} (v : Byte) (h : hostAt s (tribA r k 0xC)) :
    completes (.pdef (.trib r k) v) s (fun t => t.fld (tribA r k 0xC) 7 0 = v.toNat ∧ (t.trib r k).pdefEff =
      if s.tTakes r k = true ∧ s.tribEdges r k = false then v else (s.trib r k).pdefEff) := by
  obtain ⟨hreach, hlow, hin⟩ := h
  refine completes_of_done ((exec_pdef _ v s).trans (congrArg (done s) (s.hostTo_acts _ hreach hlow hin))) ?_
  have hroutes := SameRoutes.tallyHif s
  obtain ⟨h1, h2⟩ := (s.tallyHif 3 1).pdefTrib_eq r.isLt k v
  rw [hroutes.tTakes, hroutes.tribEdges, State.trib_congr hroutes.quiet.tribs] at h2
  exact ⟨h1, h2⟩

end Sys2Proof.Machine
end

section
/-! The ends of degrade windows, and the latch of the second (R70, R76, R77, R79). -/

namespace Sys2Proof.Machine

open Sys2Proof.Cert
open State (SparesRx Spares Aside Hunting)

theorem exec_degradeWindowEnd (site : DefectSite) (i : Fin 2) (sf : Bool) (s : State) :
    exec (.degradeWindowEnd site i sf) s = execDegradeWindowEnd site i sf s := rfl
theorem exec_oneSecondLatch (s : State) : exec .oneSecondLatch s = execOneSecondLatch s := rfl

/-! ### Degrade windows (R70) -/

/-- What a half of a detector is when a window that has all its frames has ended. -/
theorem State.degDue_eq (s : State) (a : Nat) (d : Deg) : s.degDue a d =
    if s.degOn a = false then Deg.init else if s.fld a 23 0 ≤ d.frames then d.ended (s.degLimits a) else d := by
  simp [State.degDue]

theorem State.deg_defectsFrom (s : State) {f : Nat} (hf : f < 384) (old : DefView) (g : Nat) :
    ((s.defectsFrom f old).framer g).deg = (s.framer g).deg := by
  have h : ((s.defectsFrom f old).framer g).lessSeconds.deg = (s.framer g).lessSeconds.deg := by
    rw [s.framer_defectsFrom hf]
  exact h

theorem rxA_offset (f x y : Nat) : rxA f x + y = rxA f (x + y) := by unfold rxA; split <;> omega

theorem degradeWindowEnd_framer {f : Chan} {s : State} (i : Fin 2) (sf : Bool) (hr : s.rxRuns f = true) (h0 : s.rxFmt f ≠ 0) :
    completes (.degradeWindowEnd (.framer f) i sf) s (fun t => Tab.get (t.framer f).deg Deg.init (2 * i.val + sf.toNat) =
      s.degDue (rxA f (0x240 + 0x20 * i.val + 0xC * sf.toNat)) (Tab.get (s.framer f).deg Deg.init (2 * i.val + sf.toNat))) := by
  refine completes_of_done ((exec_degradeWindowEnd _ i sf s).trans (congrArg (done s) (if_pos (by simp [hr, h0])))) ?_
  show Tab.get (State.framer (State.defectsFrom (s.rxDegEnd f i sf) f (s.defView f)) f).deg Deg.init _ = _
  rw [State.deg_defectsFrom _ f.isLt, ← rxA_offset]
  have h : ((s.rxDegEnd f i sf).framer f).deg = Tab.set (s.framer f).deg Deg.init (2 * i.val + sf.toNat) (s.degDue
      (State.degA f i + 0xC * sf.toNat) (Tab.get (s.framer f).deg Deg.init (2 * i.val + sf.toNat))) := by
    unfold State.rxDegEnd
    extract_lets x k d
    have hshow : ∀ u : State, (u.rxShowDeg f).framers = u.framers := fun u => by
      unfold State.rxShowDeg State.setRaw
      rw [State.setBit_framers, State.setBit_framers, State.setBit_framers, State.setBit_framers]
    rw [State.framer_congr (hshow _), State.framer_setFramer_same]
  rw [h, Tab.get_set_same]
  rfl

theorem degradeWindowEnd_trib {r : Fin 12} {j : Fin 80} {i : Fin 2} {s : State} (sf : Bool) (hi : i = 1)
    (hr : s.mapRuns r = true) (ht : s.tTakes r j = true) :
    completes (.degradeWindowEnd (.trib r j) i sf) s (fun t => Tab.get (t.trib r j).deg Deg.init (2 * i.val + sf.toNat) =
      s.degDue (tribA r j (0x40 + 0xC * sf.toNat)) (Tab.get (s.trib r j).deg Deg.init (2 * i.val + sf.toNat))) := by
  subst hi
  refine completes_of_done ((exec_degradeWindowEnd _ 1 sf s).trans (congrArg (done s) (if_pos (by simp [hr, ht])))) ?_
  have hshow : ∀ u : State, (u.tribShowDeg r j).tribs = u.tribs := fun u =>
    ((u.setBit_quiet _ _ _).trans (State.setBit_quiet _ _ _ _)).tribs
  have h : ((s.tribDegEnd r j sf).trib r j).deg = Tab.set (s.trib r j).deg Deg.init (2 + sf.toNat) (s.degDue
      (tribA r j (0x40 + 0xC * sf.toNat)) (Tab.get (s.trib r j).deg Deg.init (2 + sf.toNat))) := by
    unfold State.tribDegEnd
    extract_lets x k d
    rw [State.trib_congr (hshow _), State.trib, State.setTrib, State.setTribs_tribs, Tab.get_set_same]
  have hd := (s.tribDegEnd r j sf).tribDefects_sparesRx r.isLt j (s.fld (tribA r j 0) 25 0, s.fld (tribA r j 4) 25 0,
    (s.trib r j).pdefAct)
  have hkeep : ((s.withTrib r j (fun s => s.tribDegEnd r j sf)).trib r j).deg = ((s.tribDegEnd r j sf).trib r j).deg :=
    congrArg Prod.snd (hd.tribs r j)
  show Tab.get (State.trib (s.withTrib r j (fun s => s.tribDegEnd r j sf)) r j).deg Deg.init (2 + sf.toNat) = _
  rw [hkeep, h, Tab.get_set_same]
  rfl

/-! ### The latch of one framer (R77) -/

theorem latchReg_range {s : State} {f : Nat} {e : Nat × Nat × Nat} (h : e ∈ s.latchCounters f) :
    0x508 ≤ latchReg e.1 ∧ latchReg e.1 < 0x1000 := by
  have hk : e.1 < 8 ∨ 16 ≤ e.1 ∧ e.1 < 80 := by
    simp only [State.latchCounters, List.mem_append, List.mem_map, List.mem_range, List.mem_cons, List.not_mem_nil,
      or_false] at h
    rcases h with (⟨i, hi, rfl⟩ | rfl | rfl) | ⟨k, hk, rfl⟩
    · exact .inl (by dsimp only; omega)
    · exact .inl (by dsimp only; omega)
    · exact .inl (by dsimp only; omega)
    · exact .inr ⟨by dsimp only; omega, by dsimp only; omega⟩
  unfold latchReg
  split <;> [skip; split <;> [skip; split]] <;> omega

/-- Everything but the registers of framer `g` at the offsets `os`. -/
def rxSide (g : Nat) (os : List Nat) (hos : ∀ o ∈ os, o < 0x1000 ∧ o ≠ 8) : Area where
  has a := ∀ o ∈ os, a ≠ rxA g o
  low a _ h o _ e := by unfold rxA at e; split at e <;> omega
  summary {a n base k} _ hb o ho e := by
    have hmod := rxA_mod (f := g) (hos o ho).1
    rw [← e, Nat.add_mod, blockOf_aligned hb] at hmod
    exact (hos o ho).2 hmod.symm

theorem offRx_rxSide {g : Nat} (hg : g < 384) {os : List Nat} (hos : ∀ o ∈ os, o < 0x1000 ∧ o ≠ 8) {a : Nat} (h : offRx.has a) :
    (rxSide g os hos).has a := fun o ho e => not_offRx_rxA hg (hos o ho).1 (e ▸ h)

section

variable (s : State) (sec : Nat) (step : Bool) (f : Nat)

/-- The registers of a framer that takes its latch, written. -/
def State.latchWritten : State :=
  let es := s.latchCounters f
  let s' := es.foldl (fun u e => u.wrN (rxA f (latchReg e.1)) (if e.1 = 6 ∨ e.1 = 7 then
    (if famOf (s.rxFmt f) = 2 then min (latchDelta (s.framer f).latchBase e) (2 ^ 32 - 1) else 0)
      else latchDelta (s.framer f).latchBase e)) ((s.inc (rxA f 0x500)).wrN (rxA f 0x504) sec)
  (s'.wr (rxA f 0x528) (s.framer f).secSeen).wrN (rxA f 0x52C) (step.toNat + 2 * (!(s.framer f).latchTaken).toNat)

/-- The record of a framer whose counters start a second. -/
def State.latchRecord (taken : Bool) : Framer :=
  { s.framer f with latchBase := latchRebase (s.framer f).latchBase (s.latchCounters f), secSeen := s.rd (rxA f 0x208),
                    latchTaken := taken }

theorem State.latchRx_idle (hr : s.rxRuns f = false) : s.latchRx sec step f = s := if_pos (by simp [hr])

theorem State.latchRx_off (hr : s.rxRuns f = true) (h0 : s.rxFmt f = 0) :
    s.latchRx sec step f = s.setFramer f (s.latchRecord f (s.framer f).latchTaken) := by
  unfold State.latchRx
  rw [if_neg (by simp [hr]), if_pos h0]
  rfl

theorem State.latchRx_on (hr : s.rxRuns f = true) (h0 : s.rxFmt f ≠ 0) : ∃ words, s.latchRx sec step f =
    (((s.latchWritten sec step f).setFramer f (s.latchRecord f true)).rxPublish f 4
      (some (sec * secNs * 65536)) words).2 := by
  unfold State.latchRx
  rw [if_neg (by simp [hr]), if_neg h0]
  exact ⟨_, rfl⟩

variable {f}

theorem State.latchWritten_spares {β : Type} (φ : Framer → β) {A : Area}
    (hA : ∀ o, 0x500 ≤ o → o < 0x1000 → A.has (rxA f o)) : s.Spares A φ (s.latchWritten sec step f) := by
  unfold State.latchWritten
  extract_lets es s2
  have h1 : s.Spares A φ ((s.inc (rxA f 0x500)).wrN (rxA f 0x504) sec) :=
    ((Spares.refl A _ s).inc (hA _ (by omega) (by omega))).wrN (hA _ (by omega) (by omega)) _
  have h2 : s.Spares A φ s2 := h1.foldl fun u e he =>
    (Spares.refl A _ u).wrN (hA _ (by have := latchReg_range he; omega) (latchReg_range he).2) _
  exact (h2.wr (hA _ (by omega) (by omega)) _).wrN (hA _ (by omega) (by omega)) _

theorem State.nat_latchWritten : (s.latchWritten sec step f).nat (rxA f 0x500) = (s.nat (rxA f 0x500) + 1) % 2 ^ 32 := by
  have hne : ∀ o, o < 0x1000 → o ≠ 0x500 → rxA f 0x500 ≠ rxA f o := fun o ho h => rxA_ne (by omega) ho fun e => h e.symm
  unfold State.latchWritten
  extract_lets es s2
  have h2 : s2.rd (rxA f 0x500) = (s.inc (rxA f 0x500)).rd (rxA f 0x500) := foldl_keeps
    (fun u => u.rd (rxA f 0x500) = (s.inc (rxA f 0x500)).rd (rxA f 0x500)) _ es (fun u e he hu => by
      have := latchReg_range he
      rw [State.rd_wrN_ne _ _ (hne _ this.2 (by omega)), hu]) _ (State.rd_wrN_ne _ _ (hne _ (by omega) (by omega)))
  rw [← State.nat_inc_same, ← State.nat_congr h2]
  refine State.nat_congr ?_
  rw [State.rd_wrN_ne _ _ (hne _ (by omega) (by omega)), State.rd_wr_ne _ _ (hne _ (by omega) (by omega))]

/-- The latch writes registers of the framer from 0x500 on. -/
theorem State.latchRx_spares {A : Area} (hA : ∀ o, 0x500 ≤ o → o < 0x1000 → A.has (rxA f o)) (hoff : ∀ a, offRx.has a → A.has a) :
    s.Spares A (fun _ => ()) (s.latchRx sec step f) := by
  cases hr : s.rxRuns f with
  | false => rw [s.latchRx_idle sec step f hr]; exact Spares.refl A _ s
  | true =>
    by_cases h0 : s.rxFmt f = 0
    · rw [s.latchRx_off sec step f hr h0]
      exact (Spares.refl A _ s).setFramer rfl
    · obtain ⟨words, hw⟩ := s.latchRx_on sec step f hr h0
      rw [hw]
      exact ((s.latchWritten_spares sec step (fun _ => ()) hA).setFramer rfl).trans
        ((State.rxPublish_sparesRx _ f _ _ _).mono hoff fun _ _ _ => rfl)

theorem State.framer_latchRx_ne {g : Nat} (h : g ≠ f) : (s.latchRx sec step f).framer g = s.framer g := by
  cases hr : s.rxRuns f with
  | false => rw [s.latchRx_idle sec step f hr]
  | true =>
    by_cases h0 : s.rxFmt f = 0
    · rw [s.latchRx_off sec step f hr h0, State.framer_setFramer_ne _ _ h]
    · obtain ⟨words, hw⟩ := s.latchRx_on sec step f hr h0
      have hwr := s.latchWritten_spares sec step (f := f) (fun x => x) (A := rxBut [0x100] (by decide)) fun o h1 h2 =>
        rxA_rxBut h2 (by simp only [List.mem_singleton]; omega)
      rw [hw]
      refine ((State.rxPublish_sparesRx _ f _ _ _).framers g).trans ?_
      rw [State.framer_setFramer_ne _ _ h]
      exact hwr.framers g

/-- The latch of a framer that has a format: one more latch is counted, and the framer has taken one. -/
theorem State.latchRx_takes (hf : f < 384) (hr : s.rxRuns f = true) (h0 : s.rxFmt f ≠ 0) :
    (s.latchRx sec step f).nat (rxA f 0x500) = (s.nat (rxA f 0x500) + 1) % 2 ^ 32 ∧
      ((s.latchRx sec step f).framer f).latchTaken = true := by
  obtain ⟨words, hw⟩ := s.latchRx_on sec step f hr h0
  have hn := s.nat_latchWritten sec step (f := f)
  generalize s.latchWritten sec step f = u at hw hn
  have hp := (u.setFramer f (s.latchRecord f true)).rxPublish_sparesRx f 4 (some (sec * secNs * 65536)) words
  have hrd : (s.latchRx sec step f).rd (rxA f 0x500) = u.rd (rxA f 0x500) := by
    rw [hw, hp.regs _ (not_offRx_rxA hf (by omega)), State.rd_setFramer]
  have hfr := congrArg Framer.latchTaken (hp.framers f)
  rw [← hw, State.framer_setFramer_same] at hfr
  exact ⟨(State.nat_congr hrd).trans hn, hfr⟩

theorem State.latchTrib_sparesRx (r t : Nat) : s.SparesRx (s.latchTrib sec step r t) := by
  unfold State.latchTrib
  extract_lets x es s1 s2 s3 s4
  have hT := tribA_offRx r t
  have h1 : s.SparesRx s1 := ((SparesRx.refl s).inc (hT _)).wrN (hT _) _
  have h2 : s.SparesRx s2 := h1.foldl fun u e _ => (SparesRx.refl u).wrN (hT _) _
  have h4 : s.SparesRx s4 := (h2.wr (hT _) _).wrN (hT _) _
  exact h4.setTrib (h4.tribs r t).symm

end

/-! ### The second (R76, R79) -/

/-- What one step of a fold brings about, where the others keep both what it starts from and what it brings. -/
theorem foldl_once {β : Type} {P Q : State → Prop} {f : State → β → State} {x : β} (hP : ∀ s b, b ≠ x → P s → P (f s b))
    (hx : ∀ s, P s → Q (f s x)) (hQ : ∀ s b, b ≠ x → Q s → Q (f s b)) {l : List β} (hl : l.Nodup) (hm : x ∈ l) (s : State)
    (h : P s) : Q (l.foldl f s) := by
  induction l generalizing s with
  | nil => cases hm
  | cons b rest ih =>
    obtain ⟨hb, hrest⟩ := List.nodup_cons.1 hl
    rcases List.mem_cons.1 hm with rfl | hm
    · exact foldl_keeps Q f rest (fun u c hc hu => hQ u c (fun e => hb (e ▸ hc)) hu) _ (hx s h)
    · exact ih hrest hm _ (hP s b (fun e => hb (e ▸ hm)) h)

/-- The latches of all framers. -/
theorem State.latchFramers_takes (s : State) (sec : Nat) (step : Bool) {g : Nat} (hg : g < 384) (hr : s.rxRuns g = true)
    (h0 : s.rxFmt g ≠ 0) : let t := (List.range 384).foldl (fun s f => s.latchRx sec step f) s
    t.nat (rxA g 0x500) = (s.nat (rxA g 0x500) + 1) % 2 ^ 32 ∧ (t.framer g).latchTaken = true := by
  have hos : ∀ o ∈ [0x100, 0x500], o < 0x1000 ∧ o ≠ 8 := by decide
  have hother : ∀ (u : State) (f : Nat), f ≠ g → u.Spares (rxSide g [0x100, 0x500] hos) (fun _ => ()) (u.latchRx sec step f) :=
    fun u f hne => u.latchRx_spares sec step (fun o _ ho p hp e => by
      have hop : o = p := by rw [← rxA_mod (f := f) ho, e, rxA_mod (hos p hp).1]
      subst hop
      unfold rxA at e
      split at e <;> split at e <;> omega) fun a => offRx_rxSide hg hos
  refine foldl_once (P := fun u => u.rxRuns g = true ∧ u.rxFmt g ≠ 0 ∧ u.rd (rxA g 0x500) = s.rd (rxA g 0x500))
    (Q := fun u => u.nat (rxA g 0x500) = (s.nat (rxA g 0x500) + 1) % 2 ^ 32 ∧ (u.framer g).latchTaken = true)
    (fun u f hne => ?_) (fun u => ?_) (fun u f hne => ?_) List.nodup_range (List.mem_range.2 hg) s ⟨hr, h0, rfl⟩
  · rintro ⟨h1, h2, h3⟩
    have hsp := hother u f hne
    have hrd : ∀ o ∈ [0x100, 0x500], (u.latchRx sec step f).rd (rxA g o) = u.rd (rxA g o) := fun o ho =>
      hsp.regs _ fun hc => hc o ho rfl
    exact ⟨(hsp.rxRuns g).trans h1, by rwa [State.rxFmt_congr (hrd _ (by decide))], (hrd _ (by decide)).trans h3⟩
  · rintro ⟨h1, h2, h3⟩
    rw [← State.nat_congr h3]
    exact u.latchRx_takes sec step hg h1 h2
  · rintro ⟨h1, h2⟩
    have hrd : (u.latchRx sec step f).rd (rxA g 0x500) = u.rd (rxA g 0x500) :=
      (hother u f hne).regs _ fun hc => hc 0x500 (by decide) rfl
    rw [State.nat_congr hrd, State.framer_latchRx_ne _ _ _ hne.symm]
    exact ⟨h1, h2⟩

theorem oneSecondLatch_takes {f : Chan} {s : State} (hc : s.coreRuns = true) (hs : s.sundialRuns = true)
    (hd : (s.dial 0).latchSec < s.dialNs 0 / 1000000000) (hr : s.rxRuns f = true) (h0 : s.rxFmt f ≠ 0) :
    completes .oneSecondLatch s (fun t => t.nat (rxA f 0x500) = (s.nat (rxA f 0x500) + 1) % 2 ^ 32 ∧
      (t.framer f).latchTaken = true ∧ (t.dial 0).stepped = false ∧ (t.dial 0).latchSec = s.dialNs 0 / 1000000000) := by
  have hdue : s.latchDue = true := decide_eq_true hd
  refine completes_of_done ((exec_oneSecondLatch s).trans (congrArg (done s) (if_pos (by simp [hc, hs, hdue])))) ?_
  have hall : (s.latchAll.nat (rxA f 0x500) = (s.nat (rxA f 0x500) + 1) % 2 ^ 32 ∧ (s.latchAll.framer f).latchTaken = true) ∧
      (s.latchAll.dial 0).stepped = false ∧ (s.latchAll.dial 0).latchSec = s.dialNs 0 / 1000000000 := by
    unfold State.latchAll
    extract_lets sec step u v
    obtain ⟨h1, h2⟩ : u.nat (rxA f 0x500) = (s.nat (rxA f 0x500) + 1) % 2 ^ 32 ∧ (u.framer f).latchTaken = true :=
      s.latchFramers_takes (sec % 2 ^ 48) step f.isLt hr h0
    have hv : u.SparesRx v := (SparesRx.refl u).foldl fun w r _ =>
      (SparesRx.refl w).iteThen ((SparesRx.refl w).foldl fun w' t _ => w'.latchTrib_sparesRx sec step r t)
    clear_value u v
    have hfr : (v.framer f).latchTaken = (u.framer f).latchTaken := congrArg Framer.latchTaken (hv.framers f)
    have hd : ∀ x, (v.setDial 0 x).dial 0 = x := fun x => by
      rw [State.dial, State.setDial, State.setDials_dials, Tab.get_set_same]
    refine ⟨⟨?_, hfr.trans h2⟩, by rw [hd], by rw [hd]; rfl⟩
    exact (State.nat_congr (hv.regs _ (not_offRx_rxA f.isLt (by omega)))).trans h1
  obtain ⟨⟨h1, h2⟩, h3, h4⟩ := hall
  generalize s.latchAll = t at h1 h2 h3 h4 ⊢
  exact ⟨h1, h2, h3, h4⟩

end Sys2Proof.Machine
end

section
/-! SUPPORT. The captures of a frame hold what its valid slots carry (R54, R56). -/

namespace Sys2Proof.Machine

/-! ### Tables with rising keys -/

/-- The keys rise. -/
def Tab.Rising {α : Type} (t : Tab α) : Prop := List.Pairwise (fun a b => a.1 < b.1) t

theorem Tab.rising_insert {α : Type} {t : Tab α} (k : Nat) (v : α) (h : Tab.Rising t) : Tab.Rising (Tab.insert t k v) := by
  induction t with
  | nil => exact List.pairwise_singleton _ _
  | cons e rest ih =>
    obtain ⟨j, u⟩ := e
    obtain ⟨hj, hrest⟩ := List.pairwise_cons.1 h
    unfold Tab.insert
    split
    next hk =>
      refine List.pairwise_cons.2 ⟨fun e he => ?_, h⟩
      rcases List.mem_cons.1 he with rfl | he
      · exact hk
      · exact lt_trans hk (hj e he)
    next hk =>
      split
      next hjk => exact List.pairwise_cons.2 ⟨fun e he => hjk ▸ hj e he, hrest⟩
      next hjk =>
        refine List.pairwise_cons.2 ⟨fun e he => ?_, ih hrest⟩
        rcases Tab.mem_insert rest k v he with he | he
        · show j < e.1
          omega
        · exact hj e he

theorem Tab.rising_foldl {α β : Type} {f : Tab α → β → Tab α} (hf : ∀ u b, Tab.Rising u → Tab.Rising (f u b)) (l : List β)
    {t : Tab α} (h : Tab.Rising t) : Tab.Rising (l.foldl f t) := by
  induction l generalizing t with
  | nil => exact h
  | cons b rest ih => exact ih (hf t b h)

/-- What every entry of a key says, where one is listed or it is the default, is what a read gives. -/
theorem Tab.get_of_only {α : Type} {t : Tab α} {d v : α} {k : Nat} (hall : ∀ w, (k, w) ∈ t → w = v) (h : v = d ∨ (k, v) ∈ t) :
    Tab.get t d k = v := by
  induction t with
  | nil =>
    rcases h with h | h
    · exact h.symm
    · cases h
  | cons e rest ih =>
    obtain ⟨j, u⟩ := e
    unfold Tab.get
    split
    next hj => subst hj; exact hall u List.mem_cons_self
    next hj =>
      refine ih (fun w hw => hall w (List.mem_cons_of_mem _ hw)) (h.imp_right fun hm => ?_)
      rcases List.mem_cons.1 hm with e | hm
      · exact absurd (congrArg Prod.fst e).symm hj
      · exact hm

theorem Tab.get_of_mem {α : Type} {t : Tab α} (h : Tab.Rising t) (d : α) {k : Nat} {v : α} (hm : (k, v) ∈ t) :
    Tab.get t d k = v := by
  induction t with
  | nil => cases hm
  | cons e rest ih =>
    obtain ⟨j, u⟩ := e
    obtain ⟨hj, hrest⟩ := List.pairwise_cons.1 h
    unfold Tab.get
    rcases List.mem_cons.1 hm with e | hm
    · cases e
      exact if_pos rfl
    · rw [if_neg fun e => absurd (hj _ hm) (by rw [e]; exact lt_irrefl _)]
      exact ih hrest hm

theorem Tab.get_listed {α : Type} (t : Tab α) (d : α) (k : Nat) : Tab.get t d k = d ∨ (k, Tab.get t d k) ∈ t := by
  induction t with
  | nil => exact .inl rfl
  | cons e rest ih =>
    obtain ⟨j, u⟩ := e
    unfold Tab.get
    split
    next hj => subst hj; exact .inr List.mem_cons_self
    next => exact ih.imp_right (List.mem_cons_of_mem _)

/-! ### The slots of a frame (R54, R56) -/

theorem slotPlace_slot (slot : Nat) : slotPlace slot / 32768 * 2048 + slotPlace slot % 32768 = slot := by
  unfold slotPlace placeOf
  omega

theorem slotPlace_of {place slot : Nat} (hc : place % 32768 < 2048) (h : place / 32768 * 2048 + place % 32768 = slot) :
    place = slotPlace slot := by
  unfold slotPlace placeOf
  omega

theorem State.mem_slotsOf {s : State} {f : Nat} {t : Tab Byte} {slot : Nat} {v : Byte} : (slot, v) ∈ s.slotsOf f t ↔
    (slotPlace slot, v) ∈ t ∧ s.rxSlotOk f slot = true ∧ v ≠ unlisted (s.rxFmt f) (s.descrambleOff f) (slotPlace slot) := by
  have hp : slotPlace slot % 32768 < 2048 := by unfold slotPlace placeOf; omega
  unfold State.slotsOf
  simp only [List.mem_filter, List.mem_map, Bool.and_eq_true, bne_iff_ne, decide_eq_true_eq, Prod.mk.injEq]
  refine ⟨?_, ?_⟩
  · rintro ⟨⟨⟨place, w⟩, ⟨hm, hc⟩, hs, rfl⟩, hok⟩
    exact ⟨slotPlace_of hc hs ▸ hm, hok⟩
  · rintro ⟨hm, hok⟩
    exact ⟨⟨(slotPlace slot, v), ⟨hm, hp⟩, slotPlace_slot slot, rfl⟩, hok⟩

/-- A valid slot is captured as the frame has it. -/
theorem State.get_slotsOf {s : State} {f : Nat} {t : Tab Byte} (ht : Tab.Rising t) {slot : Nat} (hok : s.rxSlotOk f slot = true) :
    Tab.get (s.slotsOf f t) (unlisted (s.rxFmt f) (s.descrambleOff f) (slotPlace slot)) slot = s.slotByte f t slot := by
  refine Tab.get_of_only (fun w hw => (Tab.get_of_mem ht _ (State.mem_slotsOf.1 hw).1).symm) ?_
  by_cases hv : s.slotByte f t slot = unlisted (s.rxFmt f) (s.descrambleOff f) (slotPlace slot)
  · exact .inl hv
  · exact .inr (State.mem_slotsOf.2 ⟨(Tab.get_listed t _ (slotPlace slot)).resolve_left hv, hok, hv⟩)

theorem State.frameTab_rising (s : State) (f : Nat) (x : FrameIn) : Tab.Rising (s.frameTab f x) := by
  have hline : Tab.Rising (lineTab (s.rxFmt f) (s.descrambleOff f) x.bytes) :=
    Tab.rising_foldl (fun _ _ h => Tab.rising_insert _ _ h) x.bytes List.Pairwise.nil
  unfold State.frameTab
  extract_lets fmt off t
  split
  · exact Tab.rising_foldl (fun _ _ h => Tab.rising_insert _ _ h) _ hline
  · exact hline

end Sys2Proof.Machine
end

section
/-! SUPPORT. What a frame that a receive framer delivers spares (R43 to R45, R50, R54 to R70, R177). -/

namespace Sys2Proof.Machine

open Sys2Proof.Cert
open State (SparesRx Spares Aside Hunting)

/-- Offsets of registers of a receive framer that no frame writes and its slots are told from. -/
def frameRx : List Nat := [0x100, 0x104, 0x170, 0x228, 0x22C, 0x230, 0x234, 0x238, 0x23C, 0x240, 0x244]

/-- Everything but those registers. -/
abbrev frameSide : Area := rxBut frameRx (by decide)

/-- What the parts of a frame leave of the record of a framer, the captures' own part apart. -/
def Framer.frameView (x : Framer) : Tab Hunter × Nat × Tab Byte × Bool := (x.hunters, x.frameCount, x.captures, x.capOff)

/-- What the parts of a frame bring. -/
abbrev State.Frames (s t : State) : Prop := s.Spares frameSide Framer.frameView t

theorem State.Frames.refl (s : State) : s.Frames s := Spares.refl _ _ s

theorem State.SparesRx.frames {s t : State} (h : s.SparesRx t) : s.Frames t := h.seen

theorem rxA_frameSide {f o : Nat} (ho : o < 0x1000) (h : o ∉ frameRx) : frameSide.has (rxA f o) := rxA_rxBut ho h

theorem rxA_high_frameSide {f o : Nat} (h : 0x248 ≤ o) (ho : o < 0x1000) : frameSide.has (rxA f o) :=
  rxA_frameSide ho (by simp only [frameRx, List.mem_cons, List.not_mem_nil, or_false]; omega)

open State (Frames)

section

variable (s : State) {f : Nat} (hf : f < 384) (x : FrameIn) (t : Tab Byte)

theorem State.pdefEdge_frames : s.Frames (s.pdefEdge f) := (Frames.refl s).setFramer rfl

theorem State.tallyFrame_frames (ev : Nat) : s.Frames (s.tallyFrame f ev) :=
  ((Frames.refl s).tallyRow (rowOfCh_lt f) _ _ _).tallyRow (rowOfCh_lt f) _ _ _

include hf in
theorem State.fecFrame_frames : s.Frames (s.fecFrame f x) := by
  have hA : ∀ {o}, o < 0x1000 → o ∉ frameRx → frameSide.has (rxA f o) := rxA_frameSide
  unfold State.fecFrame
  split
  · split
    next bits syms bad good _ =>
    extract_lets u v
    have hu : s.Frames u := ((Frames.refl s).add48 (hA (by omega) (by decide)) (hA (by omega) (by decide)) _).add48
      (hA (by omega) (by decide)) (hA (by omega) (by decide)) _
    have hv : s.Frames v := (hu.add48 (hA (by omega) (by decide)) (hA (by omega) (by decide)) _).tallyRow (rowOfCh_lt f) _ _ _
    exact hv.iteElse (((Frames.refl v).event (hA (by omega) (by decide)) _).raiseLim (rxSrc_lt hf) _ _ _ _ _)
  · exact Frames.refl s

theorem State.lomState_frames : s.Frames (s.lomState f) :=
  (Frames.refl s).iteElse ((Frames.refl s).setBit (rxA_frameSide (by omega) (by decide)) _ _)

theorem State.mfFrame_frames (mfas : Nat) : s.Frames (s.mfFrame f mfas x) := by
  unfold State.mfFrame
  extract_lets fam y v s1 s2 y' s3
  have h1 : s.Frames s1 := (Frames.refl s).setFramer rfl
  have h2 : s.Frames s2 := h1.iteThen ((Frames.refl s1).setFld (rxA_frameSide (by omega) (by decide)) _ _ _)
  have h3 : s.Frames s3 := by
    unfold s3
    split
    · exact h2.iteThen ((Frames.refl s2).setFramer rfl)
    · exact h2
  exact (Frames.refl s).iteElse (h3.trans (s3.lomState_frames))

theorem State.rxRun_frames (e : Nat × Bool × Nat × Nat) : s.Frames (s.rxRun f e) := by
  have hraw : frameSide.has (rxA f 0x204) := rxA_frameSide (by omega) (by decide)
  unfold State.rxRun
  extract_lets y r
  exact Spares.setBit (Spares.setFramer (Frames.refl s) (by rfl)) hraw _ _

theorem State.setMap64_frames {a : Nat} (ha : a = 0x210 ∨ a = 0x218 ∨ a = 0x220) {k : Nat} (hk : k < 64) (b : Bool) :
    s.Frames (s.setMap64 (rxA f a) k b) := by
  unfold State.setMap64
  rw [rxA_offset]
  exact (Frames.refl s).setBit (rxA_frameSide (by omega)
    (by simp only [frameRx, List.mem_cons, List.not_mem_nil, or_false]; omega)) _ _

theorem auN_le (fmt : Nat) : auN fmt ≤ 64 := by unfold auN; split <;> omega

theorem State.auFrame_frames {k : Nat} (hk : k < 64) : s.Frames (s.auFrame f x t k) := by
  unfold State.auFrame
  extract_lets y' u y rdi r
  have hu : s.Frames u := by
    unfold u
    split
    · exact Frames.refl s
    next p _ =>
      extract_lets r d
      refine Spares.trans ?_ (State.setMap64_frames _ (.inr (.inl rfl)) hk _)
      exact ((Frames.refl s).setFramer (by rfl)).trans (State.setMap64_frames _ (.inl rfl) hk _)
  exact (Frames.refl s).iteThen ((hu.setFramer (by rfl)).trans (State.setMap64_frames _ (.inr (.inr rfl)) hk _))

theorem State.rxDetect_frames : s.Frames (s.rxDetect f x t) := by
  unfold State.rxDetect
  extract_lets u
  have hu : s.Frames u := (Frames.refl s).foldl fun v e _ => v.rxRun_frames e
  exact hu.iteThen ((Frames.refl u).foldl fun v k hk =>
    v.auFrame_frames x t (lt_of_lt_of_le (List.mem_range.1 hk) (auN_le _)))

theorem State.parAdd_frames {par blk : Nat} (hp : frameSide.has par) (hb : frameSide.has blk) (n : Nat) (blocks : Bool) :
    s.Frames (s.parAdd par blk n blocks) := by
  unfold State.parAdd
  extract_lets u
  have hu : s.Frames u := (Frames.refl s).addTo hp n
  exact hu.iteThen ((Frames.refl u).inc hb)

theorem State.rxDeg_frames (i n : Nat) : s.Frames (s.rxDeg f i n) := (Frames.refl s).setFramer rfl

theorem State.sdhParity_frames (now : Nat) : s.Frames (s.sdhParity f t now) := by
  have hA : ∀ {o}, 0x248 ≤ o → o < 0x1000 → frameSide.has (rxA f o) := rxA_high_frameSide
  unfold State.sdhParity
  extract_lets y fmt off n s1 s2 e s3 tx s4 y' s5
  have h1 : s.Frames s1 := (Frames.refl s).setFramer rfl
  have h2 : s.Frames s2 := h1.iteThen (s1.parAdd_frames (hA (by omega) (by omega)) (hA (by omega) (by omega)) _ _)
  have h3 : s2.Frames s3 := (s2.parAdd_frames (hA (by omega) (by omega)) (hA (by omega) (by omega)) _ _).addTo
    (hA (by omega) (by omega)) _
  have h4 : s2.Frames s4 := h3.iteThen ((Frames.refl s3).setTx rfl)
  have h5 : s.Frames s5 := h2.iteThen ((h4.setFramer (by rfl)).trans (State.rxDeg_frames _ _ _))
  exact h5.foldl fun u k hk => (Frames.refl u).iteThen ((Frames.refl u).addTo (hA (by omega) (by
    have := List.mem_range.1 hk
    have := auN_le fmt
    omega)) _)

theorem State.otnParity_frames (now : Nat) : s.Frames (s.otnParity f t now) := by
  have hA : ∀ {o}, 0x248 ≤ o → o < 0x1000 → frameSide.has (rxA f o) := rxA_high_frameSide
  unfold State.otnParity
  extract_lets y s1 e s2 tx s3 y' s4 e' s5 tx' s6 y''
  have h1 : s.Frames s1 := (Frames.refl s).setFramer rfl
  have h2 : s1.Frames s2 := (s1.parAdd_frames (hA (by omega) (by omega)) (hA (by omega) (by omega)) _ _).addTo
    (hA (by omega) (by omega)) _
  have h3 : s1.Frames s3 := h2.iteThen ((Frames.refl s2).setTx rfl)
  have h4 : s.Frames s4 := h1.iteThen ((h3.setFramer (by rfl)).trans (State.rxDeg_frames _ _ _))
  have h5 : s4.Frames s5 := (s4.parAdd_frames (hA (by omega) (by omega)) (hA (by omega) (by omega)) _ _).addTo
    (hA (by omega) (by omega)) _
  have h6 : s4.Frames s6 := h5.iteThen ((Frames.refl s5).setTx rfl)
  exact h4.iteThen ((h6.setFramer (by rfl)).trans (State.rxDeg_frames _ _ _))

theorem State.sdiParity_frames (now : Nat) : s.Frames (s.sdiParity f x now) :=
  (Frames.refl s).iteThen ((s.parAdd_frames (rxA_high_frameSide (by omega) (by omega))
    (rxA_high_frameSide (by omega) (by omega)) _ _).trans (State.rxDeg_frames _ _ _))

theorem State.rxParity_frames (now : Nat) : s.Frames (s.rxParity f x t now) := by
  unfold State.rxParity
  split
  · exact s.sdhParity_frames t now
  · exact s.otnParity_frames t now
  · exact s.sdiParity_frames x now

theorem State.keepParity_frames : s.Frames (s.keepParity f x t) := by
  unfold State.keepParity
  extract_lets y fmt off
  split
  · exact (Frames.refl s).setFramer rfl
  · exact (Frames.refl s).setFramer rfl
  · exact Frames.refl s

theorem State.rxShowDeg_frames : s.Frames (s.rxShowDeg f) := by
  have hraw : frameSide.has (rxA f 0x204) := rxA_frameSide (by omega) (by decide)
  exact ((((Frames.refl s).setBit hraw _ _).setBit hraw _ _).setBit hraw _ _).setBit hraw _ _

include hf in
theorem State.rxBadSlot_frames (j : Nat) : s.Frames (s.rxBadSlot f j) := by
  unfold State.rxBadSlot
  extract_lets y oh u
  have hu : s.Frames u := (Frames.refl s).setFramer rfl
  exact (Frames.refl s).iteElse ((hu.event (rxA_frameSide (by omega) (by decide)) _).raise (rxSrc_lt hf) _ _ _)

include hf in
theorem State.rxItems_frames (tag : Nat) (first : Bool) (stamp : Nat) : s.Frames (s.rxItems f tag first stamp) := by
  unfold State.rxItems
  extract_lets slot bad u y es d p
  have hu : s.Frames u := (Frames.refl s).foldl fun v j _ => v.rxBadSlot_frames hf j
  have hp : u.Frames p.2 := (u.rxPublish_sparesRx f _ _ _).frames
  exact hu.iteElse (hp.setFramer rfl)

theorem State.rxPayloadId_frames (first : Bool) : s.Frames (s.rxPayloadId f x first) := by
  unfold State.rxPayloadId
  extract_lets y run
  split
  · exact (Frames.refl s).setFramer rfl
  next v _ =>
    extract_lets run u p y'
    have hu : s.Frames u := (Frames.refl s).setFramer rfl
    have hp : u.Frames p.2 := (u.rxPublish_sparesRx f _ _ _).frames
    clear_value p u
    exact hu.iteThen (hp.iteThen ((Frames.refl p.2).setFramer rfl))

/-- The stamp and the view of time transfer change no framer. -/
theorem State.rxEdge_spares (mfas : Nat) : s.Spares frameSide (fun y => y) (s.rxEdge f mfas x) := by
  have hstamp : ∀ (u : State) (g sub : Nat), u.Spares frameSide (fun y => y) (u.putStamp (rxA g 0) sub) := fun u g sub => by
    have hA : ∀ {o}, 0x248 ≤ o → o < 0x1000 → frameSide.has (rxA g o) := rxA_high_frameSide
    unfold State.putStamp
    rw [rxA_offset, rxA_offset]
    refine Spares.iteThen (Spares.refl _ _ u) (Spares.inc (Spares.putTs (Spares.refl _ _ u) ?_ ?_ ?_ sub) ?_)
    · exact hA (by omega) (by omega)
    · rw [rxA_offset]; exact hA (by omega) (by omega)
    · rw [rxA_offset]; exact hA (by omega) (by omega)
    · exact hA (by omega) (by omega)
  unfold State.rxEdge
  extract_lets edge u
  have hu : s.Spares frameSide (fun y => y) u := Spares.iteThen (Spares.refl _ _ s) (hstamp s _ _)
  exact hu.trans (u.ttcSees_sparesRx f _ _ _).seen

end

end Sys2Proof.Machine
end

section
/-! SUPPORT. A frame delivered IN_FRAME, and one delivered flagged OOF (R38, R39, R43, R56). -/

namespace Sys2Proof.Machine

open Sys2Proof.Cert
open State (SparesRx Spares Aside Hunting Frames)

/-! ### What a frame's bytes and slots are told from (R43, R54, R55) -/

/-- The registers that the slots of a frame are told from read the same. -/
def State.SameSlots (f : Nat) (s u : State) : Prop := ∀ o ∈ frameRx, u.rd (rxA f o) = s.rd (rxA f o)

theorem frameRx_lt {o : Nat} (h : o ∈ frameRx) : o < 0x1000 := by
  simp only [frameRx, List.mem_cons, List.not_mem_nil, or_false] at h
  omega

theorem State.Spares.sameSlots {β : Type} {φ : Framer → β} {f : Nat} {s u : State} (h : s.Spares frameSide φ u) (hf : f < 384) :
    State.SameSlots f s u := fun _ ho => h.regs _ (not_rxBut hf (frameRx_lt ho) ho)

namespace State.SameSlots

variable {f : Nat} {s u v : State}

theorem trans (h : State.SameSlots f s u) (k : State.SameSlots f u v) : State.SameSlots f s v := fun o ho =>
  (k o ho).trans (h o ho)

variable (h : State.SameSlots f s u)
include h

theorem rxFmt : u.rxFmt f = s.rxFmt f := State.rxFmt_congr (h _ (by decide))

theorem descrambleOff : u.descrambleOff f = s.descrambleOff f := State.bit_congr (h _ (by decide)) 1

theorem frameTab (x : FrameIn) : u.frameTab f x = s.frameTab f x := by
  rw [State.frameTab, State.frameTab, h.rxFmt, h.descrambleOff, State.fld_congr (h 0x170 (by decide))]

theorem auMode {k : Nat} (hk : k < 128) : u.auMode f k = s.auMode f k :=
  State.fld_congr (h _ (by simp only [frameRx, List.mem_cons, List.not_mem_nil, or_false]; omega)) _ _

theorem rxSlotOk (slot : Nat) : u.rxSlotOk f slot = s.rxSlotOk f slot := by
  have hk : slotCol slot / 16 < 128 := by unfold slotCol; omega
  rw [State.rxSlotOk, State.rxSlotOk, h.rxFmt, h.auMode hk]

theorem slotByte (t : Tab Byte) (slot : Nat) : u.slotByte f t slot = s.slotByte f t slot := by
  rw [State.slotByte, State.slotByte, h.rxFmt, h.descrambleOff]

theorem slotsOf (t : Tab Byte) : u.slotsOf f t = s.slotsOf f t := by
  have hok : u.rxSlotOk f = s.rxSlotOk f := funext h.rxSlotOk
  rw [State.slotsOf, State.slotsOf, hok, h.rxFmt, h.descrambleOff]

end State.SameSlots

/-! ### A frame IN_FRAME -/

/-- The captures of the frame: they, and where their unlisted places come from, are all that is new. -/
theorem State.rxCapture_eq (s : State) (f : Nat) (x : FrameIn) (tab : Tab Byte) (first : Bool) :
    (∀ a, (s.rxCapture f x tab first).rd a = s.rd a) ∧
      ((s.rxCapture f x tab first).framer f).hunters = (s.framer f).hunters ∧
      ((s.rxCapture f x tab first).framer f).frameCount = (s.framer f).frameCount ∧
      (famOf (s.rxFmt f) ≠ 3 → ((s.rxCapture f x tab first).framer f).captures = s.slotsOf f tab ∧
        ((s.rxCapture f x tab first).framer f).capOff = s.descrambleOff f) := by
  unfold State.rxCapture
  extract_lets y new s' n changed y'
  have hnew : famOf (s.rxFmt f) ≠ 3 → new = s.slotsOf f tab := fun h => by
    unfold new
    split
    next h3 => exact absurd h3 h
    next => rfl
  have hy : y' = { y with captures := new, capOff := s.descrambleOff f } := State.framer_setFramer_same _ _ _
  simp only [State.framer_setFramer_same]
  refine ⟨fun a => ?_, ?_, ?_, fun h => ⟨?_, ?_⟩⟩
  · rw [State.rd_setFramer, State.rd_setFramer]
  · rw [hy]
  · rw [hy]
  · rw [hy, hnew h]
  · rw [hy]

/-- A frame delivered IN_FRAME: the hunters and the format stay, the frame counts, and its slots are captured. -/
structure State.TakesFrame (f : Nat) (x : FrameIn) (s t : State) : Prop where
  hunters : (t.framer f).hunters = (s.framer f).hunters
  fmt : t.rxFmt f = s.rxFmt f
  count : (t.framer f).frameCount = ((s.framer f).frameCount + 1) % 256
  first : (t.framer f).firstIn = false
  mark : (t.framer f).mark = (false, false)
  captures : famOf (s.rxFmt f) ≠ 3 → (t.framer f).captures = s.slotsOf f (s.frameTab f x) ∧
    (t.framer f).capOff = s.descrambleOff f

theorem Framer.frameView_eq {x y : Framer} (h : x.frameView = y.frameView) : x.hunters = y.hunters ∧
    x.frameCount = y.frameCount ∧ x.captures = y.captures ∧ x.capOff = y.capOff := by
  simpa only [Framer.frameView, Prod.mk.injEq] using h

/-- The record of a framer that has delivered a frame IN_FRAME. -/
def Framer.delivered (y : Framer) (now at_ : Nat) : Framer :=
  { y with firstIn := false, frameCount := (y.frameCount + 1) % 256, hist := now :: y.hist.take 1, mark := (false, false),
           parAt := at_ }

theorem State.goodFrame_takes (s : State) {f : Nat} (hf : f < 384) (x : FrameIn) : State.TakesFrame f x s (s.goodFrame f x) := by
  unfold State.goodFrame
  extract_lets u now tab mfas first v w y tag z y'
  have hu : s.Frames u := ((State.SparesRx.frames (s.routeEdge_sparesRx _)).trans (State.pdefEdge_frames _)).trans
    (State.tallyFrame_frames _ 2)
  have hv : s.Frames v := hu.trans (((u.fecFrame_frames hf x).trans (State.mfFrame_frames _ x mfas)).trans
    (State.rxDetect_frames _ x tab))
  have hc : s.Frames (((v.rxParity f x tab now).keepParity f x tab).rxShowDeg f) := hv.trans
    (((v.rxParity_frames x tab now).trans (State.keepParity_frames _ x tab)).trans (State.rxShowDeg_frames _))
  have htab : tab = s.frameTab f x := (hu.sameSlots hf).frameTab x
  obtain ⟨hrd, hhunt, hcount, hcap⟩ :=
    State.rxCapture_eq (((v.rxParity f x tab now).keepParity f x tab).rxShowDeg f) f x tab first
  obtain ⟨hh, hn, -, -⟩ := Framer.frameView_eq (hc.framers f)
  have hsame := hc.sameSlots hf
  rw [hsame.rxFmt, hsame.slotsOf, hsame.descrambleOff] at hcap
  have hz : w.Frames z := (w.rxItems_frames hf tag first _).trans (State.rxPayloadId_frames _ x first)
  have hend := (z.setFramer f (y'.delivered now z.now)).rxEdge_spares x mfas (f := f)
  have hfr := (hend.framers f).trans (State.framer_setFramer_same _ _ _)
  obtain ⟨hzh, hzn, hzc, hzo⟩ := Framer.frameView_eq (hz.framers f)
  have hfmt : (w.rxFmt f) = s.rxFmt f := (State.rxFmt_congr (hrd _)).trans hsame.rxFmt
  have hfmt' := ((hend.sameSlots hf).rxFmt.trans (State.rxFmt_congr (State.rd_setFramer _ _ _ _))).trans (hz.sameSlots hf).rxFmt
  constructor
  · exact (congrArg Framer.hunters hfr).trans (hzh.trans (hhunt.trans hh))
  · exact hfmt'.trans hfmt
  · refine (congrArg Framer.frameCount hfr).trans ?_
    show ((z.framer f).frameCount + 1) % 256 = _
    rw [hzn, hcount, hn]
  · exact congrArg Framer.firstIn hfr
  · exact congrArg Framer.mark hfr
  · intro h3
    obtain ⟨h1, h2⟩ := hcap h3
    rw [← htab]
    exact ⟨(congrArg Framer.captures hfr).trans (hzc.trans h1), (congrArg Framer.capOff hfr).trans (hzo.trans h2)⟩

/-- What the captures are read as once the frame has been delivered. -/
theorem State.TakesFrame.captured {f : Nat} {x : FrameIn} {s t v : State} (h : State.TakesFrame f x s t)
    (hfmt : v.rxFmt f = t.rxFmt f) (hcap : (v.framer f).captures = (t.framer f).captures)
    (hoff : (v.framer f).capOff = (t.framer f).capOff) (h3 : famOf (s.rxFmt f) ≠ 3) {slot : Nat}
    (hok : s.rxSlotOk f slot = true) : v.captured f slot = s.slotByte f (s.frameTab f x) slot := by
  obtain ⟨h1, h2⟩ := h.captures h3
  rw [State.captured, hfmt, hcap, hoff, h.fmt, h1, h2]
  exact State.get_slotsOf (s.frameTab_rising f x) hok

/-! ### A frame flagged OOF -/

/-- A frame flagged OOF: its hunter's flywheel frame is over, it carries nothing, and does not count. -/
structure State.Flagged (f : Nat) (s t : State) : Prop where
  regs : regsBut offRx.has s t
  hunter : ∀ p, t.hunter f p = if p = lofKey (s.rxFmt f) then { s.hunter f p with flyDue := false } else s.hunter f p
  hist : (t.framer f).hist = []
  mark : (t.framer f).mark = (true, false)
  count : (t.framer f).frameCount = (s.framer f).frameCount
  captures : (t.framer f).captures = (s.framer f).captures

/-- What a flagged frame leaves of the record of a framer. -/
def Framer.flyView (x : Framer) : Tab Hunter × Nat × Tab Byte := (x.hunters, x.frameCount, x.captures)

theorem State.SparesRx.flyView {s t : State} (h : s.SparesRx t) : s.Spares offRx Framer.flyView t :=
  h.mono (fun _ h => h) fun _ _ e => congrArg Framer.flyView e

theorem State.pdefEdge_spares (s : State) (f : Nat) : s.Spares offRx Framer.flyView (s.pdefEdge f) :=
  (Spares.refl _ _ s).setFramer rfl

theorem State.mfCoast_spares (s : State) (f : Nat) : s.Spares offRx Framer.flyView (s.mfCoast f) := by
  unfold State.mfCoast
  extract_lets y
  exact (Spares.refl _ _ s).iteElse ((Spares.refl _ _ s).setFramer rfl)

theorem State.tallyOof_sparesRx (s : State) (f : Nat) : s.SparesRx (s.tallyOof f) :=
  ((SparesRx.refl s).tallyRow (rowOfCh_lt f) _ _ _).tallyRow (rowOfCh_lt f) _ _ _

theorem State.flyFrame_flags (s : State) (f : Nat) : State.Flagged f s (s.flyFrame f) := by
  unfold State.flyFrame
  extract_lets p h u v y
  have hv : u.Spares offRx Framer.flyView v := ((((u.routeEdge_sparesRx _).flyView.trans (State.pdefEdge_spares _ f)).trans
    (State.mfCoast_spares _ f)).trans (State.tallyOof_sparesRx _ f).flyView).trans
      (State.ttcSees_sparesRx _ f 0 0 true).flyView
  obtain ⟨hh, hn, hc⟩ : (v.framer f).hunters = (u.framer f).hunters ∧ (v.framer f).frameCount = (u.framer f).frameCount ∧
      (v.framer f).captures = (u.framer f).captures := by
    simpa only [Framer.flyView, Prod.mk.injEq] using hv.framers f
  have hu : (u.framer f).frameCount = (s.framer f).frameCount ∧ (u.framer f).captures = (s.framer f).captures := by
    unfold u
    rw [State.setHunter, State.framer_setFramer_same]
    exact ⟨rfl, rfl⟩
  have hhu : ∀ q, v.hunter f q = if q = p then { s.hunter f q with flyDue := false } else s.hunter f q := fun q => by
    rw [State.hunter_congr hh]
    split
    next e => subst e; exact s.hunter_setHunter_same f p _
    next e => exact s.hunter_setHunter_ne _ e
  have hur : ∀ a, u.rd a = s.rd a := fun a => s.rd_setHunter f p _ a
  clear_value v u
  constructor
  · intro a ha
    rw [State.rd_setFramer, hv.regs a ha, hur]
  · intro q
    rw [State.hunter_setFramer (by rfl), hhu]
  · rw [State.framer_setFramer_same]
  · rw [State.framer_setFramer_same]
  · rw [State.framer_setFramer_same]
    exact hn.trans hu.1
  · rw [State.framer_setFramer_same]
    exact hc.trans hu.2

end Sys2Proof.Machine
end

section
/-! DELIVERED_FRAME and FLYWHEEL_FRAME (R35 to R39, R43, R48, R56). -/

namespace Sys2Proof.Machine

open Sys2Proof.Cert
open State (SparesRx Spares Aside Hunting Frames SeesAs Flagged TakesFrame SameSlots)

theorem exec_deliveredFrame (f : Chan) (x : FrameIn) (s : State) :
    exec (.deliveredFrame f x) s = execDeliveredFrame f x s := rfl
theorem exec_flywheelFrame (f : Chan) (s : State) : exec (.flywheelFrame f) s = execFlywheelFrame f s := rfl

/-! ### What follows a frame -/

/-- What a frame's defects, its fingerprint and its carriers leave of the record of a framer. -/
def Framer.frameRecord (y : Framer) : Tab Hunter × List Nat × (Bool × Bool) × Nat × Tab Byte × Bool × Bool :=
  (y.hunters, y.hist, y.mark, y.frameCount, y.captures, y.capOff, y.firstIn)

theorem Framer.frameRecord_of_lessSeconds {y z : Framer} (h : y.lessSeconds = z.lessSeconds) :
    y.frameRecord = z.frameRecord := by
  have e : y.lessSeconds.frameRecord = z.lessSeconds.frameRecord := by rw [h]
  exact e

/-- What follows the change that a frame makes: defects, FF_STATE, the fingerprint, the sinks of its ODU. -/
def State.frameEnd (s : State) (f : Nat) (x : FrameIn) (old : DefView) : State :=
  (((s.defectsFrom f old).showFrame f).takeFp f x).oduFrame f

theorem State.takeFp_spares (s : State) (f : Nat) (x : FrameIn) : s.Spares offRx Framer.frameRecord (s.takeFp f x) :=
  (Spares.refl _ _ s).iteThen ((Spares.refl _ _ s).setFramer rfl)

section

variable (s : State) {f : Nat} (hf : f < 384) (x : FrameIn) (old : DefView)
include hf

theorem State.frameRecord_frameEnd : ((s.frameEnd f x old).framer f).frameRecord = (s.framer f).frameRecord := by
  have h1 := Framer.frameRecord_of_lessSeconds (s.framer_defectsFrom hf old f)
  have h2 := Framer.frameRecord_of_lessSeconds ((State.showFrame_aside (s.defectsFrom f old) f).framers f)
  have h3 := (State.takeFp_spares ((s.defectsFrom f old).showFrame f) f x).framers f
  have h4 := congrArg Framer.frameRecord ((State.oduFrame_sparesRx (((s.defectsFrom f old).showFrame f).takeFp f x) f).framers f)
  exact h4.trans (h3.trans (h2.trans h1))

theorem State.rd_frameEnd {o : Nat} (ho : o ∈ heldRx) :
    (s.frameEnd f x old).rd (rxA f o) = (s.defectsFrom f old).rd (rxA f o) := by
  have hoff := not_offRx_rxA hf (heldRx_lt ho)
  have h3 := (State.takeFp_spares ((s.defectsFrom f old).showFrame f) f x).regs _ hoff
  have h4 := (State.oduFrame_sparesRx (((s.defectsFrom f old).showFrame f).takeFp f x) f).regs _ hoff
  exact h4.trans (h3.trans ((State.showFrame_aside _ f).rd hf ho))

theorem State.rxFmt_frameEnd : (s.frameEnd f x old).rxFmt f = s.rxFmt f :=
  (State.rxFmt_congr (s.rd_frameEnd hf x old (by decide))).trans (s.rxFmt_defectsFrom hf old hf)

theorem State.nat_frameEnd {o : Nat} (ho : o ∈ huntRx) : (s.frameEnd f x old).nat (rxA f o) = s.nat (rxA f o) :=
  State.nat_congr ((s.rd_frameEnd hf x old (huntRx_held ho).1).trans
    (s.rd_defectsFrom hf old hf (huntRx_held ho).1 (.inl (huntRx_held ho).2)))

theorem State.rawBit_frameEnd (h0 : s.rxFmt f ≠ 0) {b : Nat} (hb : b ∈ [0, 2, 3, 4]) :
    (s.frameEnd f x old).rawBit f b = s.rawBit f b :=
  (State.rawBit_congr (s.rd_frameEnd hf x old (by decide)) b).trans (s.rawBit_defectsFrom hf old hf h0 hb)

theorem State.hunter_frameEnd (p : Nat) : (s.frameEnd f x old).hunter f p = s.hunter f p :=
  State.hunter_congr (congrArg Prod.fst (s.frameRecord_frameEnd hf x old)) p

end

/-! ### The frame as the host sees it -/

/-- The frame counts, is whole, and its valid slots are captured, descrambled and decoded. -/
def State.Delivers (f : Nat) (x : FrameIn) (s t : State) : Prop :=
  (t.framer f).frameCount = ((s.framer f).frameCount + 1) % 256 ∧ (t.framer f).firstIn = false ∧
    (t.framer f).mark = (false, false) ∧ (famOf (s.rxFmt f) ≠ 3 → ∀ slot, slot < 32768 → s.rxSlotOk f slot = true →
      t.captured f slot = s.slotByte f (s.frameTab f x) slot)

/-- The frame does not count, and is flagged OOF. -/
def State.Flags (f : Nat) (s t : State) : Prop :=
  (t.framer f).frameCount = (s.framer f).frameCount ∧ (t.framer f).mark = (true, false)

/-- A frame that is taken after what leaves slots, captures and count alone is delivered when all is done. -/
theorem State.TakesFrame.delivers {f : Nat} {x : FrameIn} {s u w : State} (h : TakesFrame f x u w) (hf : f < 384)
    (hs : SameSlots f s u) (hn : (u.framer f).frameCount = (s.framer f).frameCount) (old : DefView) :
    State.Delivers f x s (w.frameEnd f x old) := by
  have hr := w.frameRecord_frameEnd hf x old
  have hfmt := w.rxFmt_frameEnd hf x old
  generalize w.frameEnd f x old = t at hr hfmt
  simp only [Framer.frameRecord, Prod.mk.injEq] at hr
  obtain ⟨-, -, hmark, hcount, hcap, hoff, hfirst⟩ := hr
  refine ⟨?_, hfirst.trans h.first, hmark.trans h.mark, fun h3 slot _ hok => ?_⟩
  · rw [hcount, h.count, hn]
  · rw [← hs.rxFmt] at h3
    rw [← hs.rxSlotOk] at hok
    rw [h.captured hfmt hcap hoff h3 hok, hs.frameTab, hs.slotByte]

theorem State.Flagged.flags {f : Nat} {s u w : State} (h : Flagged f u w) (hf : f < 384) (x : FrameIn)
    (hn : (u.framer f).frameCount = (s.framer f).frameCount) (old : DefView) : State.Flags f s (w.frameEnd f x old) := by
  have hr := w.frameRecord_frameEnd hf x old
  generalize w.frameEnd f x old = t at hr
  simp only [Framer.frameRecord, Prod.mk.injEq] at hr
  obtain ⟨-, -, hmark, hcount, -, -, -⟩ := hr
  exact ⟨hcount.trans (h.count.trans hn), hmark.trans h.mark⟩

/-! ### The pattern at the expected position (R36, R37) -/

theorem State.trsSeen_frames (s : State) (f pos : Nat) : s.Frames (s.trsSeen f pos) := by
  have hA : frameSide.has (rxA f 0x1B4) := rxA_frameSide (by omega) (by decide)
  unfold State.trsSeen
  extract_lets last u
  have hu : s.Frames u := by
    unfold u
    split
    · exact (Frames.refl s).setBit hA _ _
    · exact ((Frames.refl s).setFld hA _ _ _).setBit hA _ _
  exact (Frames.refl s).iteElse (hu.setFramer rfl)

/-- The framer once the spacing of TRSs is measured. -/
def State.trsMeasured (s : State) (f : Nat) (x : FrameIn) : State :=
  if s.patternAt f 0 x.window && famOf (s.rxFmt f) == 3 && xyzValid (s.streams f) x.xyz then s.trsSeen f (s.hunter f 0).next
  else s

theorem State.trsMeasured_seesAs (s : State) (f : Nat) (x : FrameIn) : SeesAs f s (s.trsMeasured f x) := by
  unfold State.trsMeasured
  split
  · exact s.trsSeen_seesAs f _
  · exact ⟨fun _ => rfl, fun _ _ _ => rfl⟩

theorem State.trsMeasured_frames (s : State) (f : Nat) (x : FrameIn) : s.Frames (s.trsMeasured f x) :=
  (Frames.refl s).iteThen (s.trsSeen_frames f _)

/-- The hunter after the pattern at the expected position. -/
def Hunter.seen (h : Hunter) (ok : Bool) : Hunter :=
  { h with errRun := if ok then 0 else h.errRun + 1, next := h.next + h.frameLen, bit := h.next + 1 }

theorem State.patternSeen_keeps {s : State} {f p : Nat} {ok : Bool}
    (h : ok = true ∨ (s.hunter f p).errRun + 1 < (s.hunter f p).lossCount) :
    s.patternSeen f p ok = s.setHunter f p ((s.hunter f p).seen ok) := by
  unfold State.patternSeen
  extract_lets k u
  refine if_neg ?_
  rcases h with h | h
  · simp [h]
  · have : ¬ k.lossCount ≤ k.errRun + 1 := not_le.2 h
    simp [this]

theorem State.patternSeen_loses {s : State} {f p : Nat} (h : (s.hunter f p).lossCount ≤ (s.hunter f p).errRun + 1) :
    s.patternSeen f p false = (s.setHunter f p ((s.hunter f p).seen false)).loseFrame f p (s.hunter f p).next := by
  unfold State.patternSeen
  extract_lets k u
  have : k.lossCount ≤ k.errRun + 1 := h
  exact if_pos (by simp [this])

theorem Framer.frameCount_of_lessHunt {y z : Framer} (h : y.lessHunt = z.lessHunt) : y.frameCount = z.frameCount := by
  have e : y.lessHunt.frameCount = z.lessHunt.frameCount := by rw [h]
  exact e

/-- A loss of frame: the hunter hunts, out of frame, and LOSSES counts it. -/
theorem State.loseFrame_hunts (s : State) {f : Nat} (hf : f < 384) (pos : Nat) :
    ((s.loseFrame f 0 pos).hunter f 0).HuntsFrom (some (pos + 1)) (s.rawBit f 0) ∧
      ((s.loseFrame f 0 pos).hunter f 0).oof = true ∧
      (s.loseFrame f 0 pos).nat (rxA f 0x150) = (s.nat (rxA f 0x150) + 1) % 2 ^ 32 ∧
      (s.loseFrame f 0 pos).rxFmt f = s.rxFmt f ∧
      ((s.loseFrame f 0 pos).framer f).frameCount = (s.framer f).frameCount := by
  have hout := s.goOof_hunting f 0
  have hinc : ∀ o, o < 0x1000 → o ≠ 0x150 →
      ((s.goOof f 0).inc (rxA f 0x150)).rd (rxA f o) = (s.goOof f 0).rd (rxA f o) := fun o ho h =>
    State.rd_inc_ne _ (rxA_ne ho (by omega) h)
  have hhunt := ((s.goOof f 0).inc (rxA f 0x150)).enterHunt_hunting hf 0 (some (pos + 1))
  obtain ⟨hfrom, hoof⟩ := ((s.goOof f 0).inc (rxA f 0x150)).hunter_enterHunt_same f 0 (some (pos + 1))
  rw [State.rawBit_congr (hinc _ (by omega) (by omega)), s.rawBit_goOof_ne f 0 (by decide)] at hfrom
  rw [State.hunter_inc, s.hunter_goOof_same] at hoof
  refine ⟨hfrom, hoof, ?_, ?_, ?_⟩
  · refine (State.nat_congr (hhunt.rd hf (by decide))).trans ((State.nat_inc_same _ _).trans ?_)
    rw [State.nat_congr (hout.rd hf (by decide))]
  · exact (hhunt.rxFmt hf).trans ((State.rxFmt_congr (hinc _ (by omega) (by omega))).trans (hout.rxFmt hf))
  · have h1 : ((s.loseFrame f 0 pos).framer f).frameCount = (((s.goOof f 0).inc (rxA f 0x150)).framer f).frameCount :=
      Framer.frameCount_of_lessHunt (hhunt.framers f)
    have h2 : ((s.goOof f 0).framer f).frameCount = (s.framer f).frameCount := Framer.frameCount_of_lessHunt (hout.framers f)
    rw [h1, State.framer_congr (State.inc_framers _ _), h2]

/-! ### A framer of its own (R36 to R38) -/

/-- The frame of a framer that is not an OTU4's, after its pattern. -/
def State.frameChange (s : State) (f : Nat) (x : FrameIn) : State :=
  let u := (s.trsMeasured f x).patternSeen f 0 (s.patternAt f 0 x.window)
  if (u.hunter f 0).state != .inFrame then u.flyFrame f
  else if (s.hunter f 0).next < (s.hunter f 0).firstAt then u else u.goodFrame f x

theorem execDeliveredFrame_own {f : Chan} {s : State} (x : FrameIn) (hd : s.rxDelivers f = true) (h6 : s.rxFmt f ≠ 6) :
    exec (.deliveredFrame f x) s = done s ((s.frameChange f x).frameEnd f x (s.defView f)) := by
  rw [exec_deliveredFrame, execDeliveredFrame, if_pos hd, State.rxFrame, if_neg (by simp [hd]), if_neg h6]
  rfl

section

variable {f : Chan} {s : State} {x : FrameIn} (hd : s.rxDelivers f = true) (h6 : s.rxFmt f ≠ 6)
include hd h6

theorem State.inFrame_of_rxDelivers : (s.hunter f 0).state = .inFrame := by
  simp only [State.rxDelivers, if_neg h6, Bool.and_eq_true, beq_iff_eq] at hd
  exact hd.2.1

/-- A frame that keeps the frame: the hunter goes on, and the frame is delivered if it starts after the declaration. -/
theorem State.frameChange_stays
    (hk : s.patternAt f 0 x.window = true ∨ (s.hunter f 0).errRun + 1 < (s.hunter f 0).lossCount) :
    (s.frameChange f x).hunter f 0 = (s.hunter f 0).seen (s.patternAt f 0 x.window) ∧
      ((s.hunter f 0).firstAt ≤ (s.hunter f 0).next → State.Delivers f x s ((s.frameChange f x).frameEnd f x (s.defView f))) ∧
      ((s.hunter f 0).next < (s.hunter f 0).firstAt →
        ((s.frameChange f x).framer f).frameCount = (s.framer f).frameCount) := by
  have hsee := s.trsMeasured_seesAs f x
  have hfr := s.trsMeasured_frames f x
  obtain ⟨u, hu⟩ : ∃ u, u = (s.trsMeasured f x).patternSeen f 0 (s.patternAt f 0 x.window) := ⟨_, rfl⟩
  have hset : u = (s.trsMeasured f x).setHunter f 0 ((s.hunter f 0).seen (s.patternAt f 0 x.window)) := by
    rw [hu, State.patternSeen_keeps (by rw [hsee.hunters]; exact hk), hsee.hunters]
  have hhu : u.hunter f 0 = (s.hunter f 0).seen (s.patternAt f 0 x.window) := by rw [hset, State.hunter_setHunter_same]
  have hin : (u.hunter f 0).state = .inFrame := by rw [hhu]; exact State.inFrame_of_rxDelivers hd h6
  have hslots : SameSlots f s u := fun o ho => by
    rw [hset, State.rd_setHunter]
    exact hfr.sameSlots f.isLt o ho
  have hcount : (u.framer f).frameCount = (s.framer f).frameCount := by
    obtain ⟨-, hn, -, -⟩ := Framer.frameView_eq (hfr.framers f)
    rw [hset, State.setHunter, State.framer_setFramer_same]
    exact hn
  rw [State.frameChange, ← hu, if_neg (by rw [hin]; decide)]
  split
  next hlt => exact ⟨hhu, fun hge => absurd hlt (not_lt.2 hge), fun _ => hcount⟩
  next hge =>
    have htake := u.goodFrame_takes f.isLt x
    exact ⟨(State.hunter_congr htake.hunters 0).trans hhu, fun _ => htake.delivers f.isLt hslots hcount _,
      fun hlt => absurd hlt hge⟩

/-- The pattern is there, or the errored run goes on: the framer stays in frame, and a frame that starts after the
declaration is delivered. -/
theorem deliveredFrame_stays (hk : s.patternAt f 0 x.window = true ∨ (s.hunter f 0).errRun + 1 < (s.hunter f 0).lossCount) :
    completes (.deliveredFrame f x) s (fun t => (t.hunter f 0).state = .inFrame ∧
      (t.hunter f 0).errRun = (if s.patternAt f 0 x.window then 0 else (s.hunter f 0).errRun + 1) ∧
      (t.hunter f 0).next = (s.hunter f 0).next + (s.hunter f 0).frameLen ∧
      ((s.hunter f 0).firstAt ≤ (s.hunter f 0).next → State.Delivers f x s t) ∧
      ((s.hunter f 0).next < (s.hunter f 0).firstAt → (t.framer f).frameCount = (s.framer f).frameCount)) := by
  refine completes_of_done (execDeliveredFrame_own x hd h6) ?_
  obtain ⟨hhunt, hdel, hsame⟩ := State.frameChange_stays hd h6 hk
  have hend := (s.frameChange f x).hunter_frameEnd f.isLt x (s.defView f) 0
  have hrec := (s.frameChange f x).frameRecord_frameEnd f.isLt x (s.defView f)
  rw [hhunt] at hend
  generalize (s.frameChange f x).frameEnd f x (s.defView f) = t at hend hrec hdel ⊢
  simp only [Framer.frameRecord, Prod.mk.injEq] at hrec
  obtain ⟨-, -, -, hn, -⟩ := hrec
  have hstate : (t.hunter f 0).state = .inFrame := by rw [hend]; exact State.inFrame_of_rxDelivers hd h6
  have herr : (t.hunter f 0).errRun = (if s.patternAt f 0 x.window then 0 else (s.hunter f 0).errRun + 1) := by rw [hend]; rfl
  have hnext : (t.hunter f 0).next = (s.hunter f 0).next + (s.hunter f 0).frameLen := by rw [hend]; rfl
  exact ⟨hstate, herr, hnext, hdel, fun hlt => hn.trans (hsame hlt)⟩

/-- LOSS_COUNT patterns in a row are errored: HUNT begins at the next bit, and the frame is flagged OOF. -/
theorem deliveredFrame_loses (hp : s.patternAt f 0 x.window = false) (hl : (s.hunter f 0).lossCount ≤ (s.hunter f 0).errRun + 1) :
    completes (.deliveredFrame f x) s (fun t => (t.hunter f 0).state = .hunt ∧ (t.hunter f 0).oof = true ∧
      (t.hunter f 0).start = some ((s.hunter f 0).next + 1) ∧
      t.nat (rxA f 0x150) = (s.nat (rxA f 0x150) + 1) % 2 ^ 32 ∧ State.Flags f s t) := by
  refine completes_of_done (execDeliveredFrame_own x hd h6) ?_
  have hsee := s.trsMeasured_seesAs f x
  obtain ⟨-, hcount, -, -⟩ := Framer.frameView_eq ((s.trsMeasured_frames f x).framers f)
  obtain ⟨v, hv⟩ : ∃ v, v = (s.trsMeasured f x).setHunter f 0 ((s.hunter f 0).seen false) := ⟨_, rfl⟩
  have hvr : ∀ o, o < 0x1000 → o ≠ 0x1B4 → v.rd (rxA f o) = s.rd (rxA f o) := fun o ho h => by
    rw [hv, State.rd_setHunter, hsee.regs o ho h]
  have hvn : (v.framer f).frameCount = (s.framer f).frameCount := by
    rw [hv, State.setHunter, State.framer_setFramer_same]
    exact hcount
  have hu : (s.trsMeasured f x).patternSeen f 0 (s.patternAt f 0 x.window) = v.loseFrame f 0 (s.hunter f 0).next := by
    rw [hp, State.patternSeen_loses (by rw [hsee.hunters]; exact hl), hsee.hunters, hv]
  obtain ⟨hfrom, hoof, hlost, hfmt, hn⟩ := v.loseFrame_hunts f.isLt (s.hunter f 0).next
  have hchange : s.frameChange f x = (v.loseFrame f 0 (s.hunter f 0).next).flyFrame f := by
    rw [State.frameChange, hu, if_pos (by rw [hfrom.state]; decide)]
  generalize v.loseFrame f 0 (s.hunter f 0).next = u at hfrom hoof hlost hfmt hn hchange
  have hfly := u.flyFrame_flags f
  have hkey : lofKey (u.rxFmt f) = 0 := by
    rw [hfmt, State.rxFmt_congr (hvr _ (by omega) (by omega)), lofKey, if_neg h6]
  have hend := (u.flyFrame f).hunter_frameEnd f.isLt x (s.defView f) 0
  rw [hfly.hunter, hkey, if_pos rfl] at hend
  have hflags := hfly.flags f.isLt x (hn.trans hvn) (s.defView f)
  have hnat := (u.flyFrame f).nat_frameEnd f.isLt x (s.defView f) (o := 0x150) (by decide)
  rw [State.nat_congr (hfly.regs _ (not_offRx_rxA f.isLt (by omega))), hlost,
    State.nat_congr (hvr _ (by omega) (by omega))] at hnat
  rw [hchange]
  generalize (u.flyFrame f).frameEnd f x (s.defView f) = t at hend hflags hnat ⊢
  have h1 : (t.hunter f 0).state = .hunt := by rw [hend]; exact hfrom.state
  have h2 : (t.hunter f 0).oof = true := by rw [hend]; exact hoof
  have h3 : (t.hunter f 0).start = some ((s.hunter f 0).next + 1) := by rw [hend]; exact hfrom.start
  exact ⟨h1, h2, h3, hnat, hflags⟩

end

/-! ### A reassembled OTU4 (R48) -/

/-- The framer once new arrivals are measured. -/
def State.skewMeasured (s : State) (f : Nat) (x : FrameIn) : State :=
  if x.arr.isEmpty then s else s.measureSkew f x.arr

theorem State.skewMeasured_frames (s : State) (f : Nat) (x : FrameIn) : s.Frames (s.skewMeasured f x) :=
  (Frames.refl s).iteElse (((Frames.refl s).setFld (rxA_frameSide (by omega) (by decide)) _ _ _).setFramer rfl)

theorem State.skewRef_skewMeasured (s : State) (f : Nat) (x : FrameIn) :
    ((s.skewMeasured f x).framer f).skewRef = (s.framer f).skewRef := by
  unfold State.skewMeasured
  split
  · rfl
  · rw [State.measureSkew, State.framer_setFramer_same]

section

variable {f : Chan} {s : State} {x : FrameIn} (hd : s.rxDelivers f = true) (h6 : s.rxFmt f = 6)
include hd h6

/-- The deskew holds: the frame is delivered. -/
theorem deliveredFrame_holds (h : x.arr = [] ∨ (skewOk x.arr && skewHeld (s.framer f).skewRef x.arr) = true) :
    completes (.deliveredFrame f x) s (State.Delivers f x s) := by
  have hexec : exec (.deliveredFrame f x) s =
      done s (((s.skewMeasured f x).goodFrame f x).frameEnd f x ((s.skewMeasured f x).defView f)) := by
    rw [exec_deliveredFrame, execDeliveredFrame, if_pos hd, State.rxFrame, if_neg (by simp [hd]), if_pos h6, State.rxFrame6,
      ← State.skewMeasured, if_pos (by rw [s.skewRef_skewMeasured, Bool.or_eq_true, List.isEmpty_iff]; exact h)]
    rfl
  refine completes_of_done hexec ?_
  have hm := s.skewMeasured_frames f x
  obtain ⟨-, hn, -, -⟩ := Framer.frameView_eq (hm.framers f)
  exact ((s.skewMeasured f x).goodFrame_takes f.isLt x).delivers f.isLt (hm.sameSlots f.isLt) hn _

/-- The deskew does not hold: LOL, and the frame is flagged OOF. -/
theorem deliveredFrame_skewed (ha : x.arr ≠ []) (h : (skewOk x.arr && skewHeld (s.framer f).skewRef x.arr) = false) :
    completes (.deliveredFrame f x) s (fun t => t.rawBit f 4 = true ∧ State.Flags f s t) := by
  obtain ⟨u, hu⟩ : ∃ u, u = (s.skewMeasured f x).declareLol f false := ⟨_, rfl⟩
  have hexec : exec (.deliveredFrame f x) s = done s ((u.flyFrame f).frameEnd f x (u.defView f)) := by
    rw [exec_deliveredFrame, execDeliveredFrame, if_pos hd, State.rxFrame, if_neg (by simp [hd]), if_pos h6, State.rxFrame6,
      ← State.skewMeasured, if_neg (by rw [s.skewRef_skewMeasured, h, Bool.or_false, List.isEmpty_iff]; exact ha), hu]
    rfl
  refine completes_of_done hexec ?_
  have hm := s.skewMeasured_frames f x
  obtain ⟨-, hn, -, -⟩ := Framer.frameView_eq (hm.framers f)
  have hm6 : (s.skewMeasured f x).rxFmt f = 6 := (hm.sameSlots f.isLt).rxFmt.trans h6
  have hlol : u.rawBit f 4 = true := by rw [hu]; exact State.rawBit_declareLol_lol _ f.isLt false hm6
  have hdecl := (s.skewMeasured f x).declareLol_hunting f.isLt false
  rw [← hu] at hdecl
  have hun : (u.framer f).frameCount = ((s.skewMeasured f x).framer f).frameCount :=
    Framer.frameCount_of_lessHunt (hdecl.framers f)
  have hfly := u.flyFrame_flags f
  have hreg : ∀ o, o < 0x1000 → (u.flyFrame f).rd (rxA f o) = u.rd (rxA f o) := fun o ho =>
    hfly.regs _ (not_offRx_rxA f.isLt ho)
  have h0 : (u.flyFrame f).rxFmt f ≠ 0 := by
    rw [State.rxFmt_congr (hreg _ (by omega)), hdecl.rxFmt f.isLt, hm6]
    decide
  have hraw := (u.flyFrame f).rawBit_frameEnd f.isLt x (u.defView f) h0 (b := 4) (by decide)
  rw [State.rawBit_congr (hreg _ (by omega)), hlol] at hraw
  exact ⟨hraw, hfly.flags f.isLt x (hun.trans hn) _⟩

end

/-! ### A flywheel frame (R38, R39) -/

theorem flywheelFrame_flies {f : Chan} {s : State} (h : s.rxFlies f = true) : completes (.flywheelFrame f) s (fun t =>
    (t.framer f).hist = [] ∧ (t.framer f).mark = (true, false) ∧ (t.framer f).frameCount = (s.framer f).frameCount ∧
      (t.framer f).captures = (s.framer f).captures ∧ (t.hunter f (lofKey (s.rxFmt f))).flyDue = false) := by
  refine completes_of_done ((exec_flywheelFrame f s).trans (congrArg (done s) (if_pos h))) ?_
  have hfly := s.flyFrame_flags f
  have h1 := Framer.frameRecord_of_lessSeconds ((s.flyFrame f).framer_defectsFrom f.isLt (s.defView f) f)
  have h2 := congrArg Framer.frameRecord ((State.oduFrame_sparesRx ((s.flyFrame f).defectsFrom f (s.defView f)) f).framers f)
  have hr := h2.trans h1
  generalize hT : (s.withDefects f (fun s => s.flyFrame f)).oduFrame f = t
  have hr' : (t.framer f).frameRecord = ((s.flyFrame f).framer f).frameRecord := by rw [← hT]; exact hr
  simp only [Framer.frameRecord, Prod.mk.injEq] at hr'
  obtain ⟨hhunt, hhist, hmark, hcount, hcap, -, -⟩ := hr'
  have hkey : (t.hunter f (lofKey (s.rxFmt f))).flyDue = false := by
    rw [State.hunter_congr hhunt, hfly.hunter, if_pos rfl]
  exact ⟨hhist.trans hfly.hist, hmark.trans hfly.mark, hcount.trans hfly.count, hcap.trans hfly.captures, hkey⟩

end Sys2Proof.Machine
end

section
/-! O45: frames and losses. -/

namespace Sys2Proof.Machine

open Sys2Proof.Cert

/-- Settles O45: one lemma per event, each of which says first to which state the event leads and then what the host
and the next frame find in it; a frame's defects, fingerprint and carriers leave the record of the frame alone. -/
theorem framesAndLosses : Obligations.FramesAndLosses := by
  unfold Obligations.FramesAndLosses
  intro f s g h
  refine ⟨fun x hd => ⟨fun h6 => ?frame, fun h6 => ?otu4⟩, flywheelFrame_flies, fun p => lof_declares,
    fun p => lofClear_clears, fun p => lofClear_lane, fun p => loflane_declares,
    fun hl => ⟨lom_declares hl, lom_clears hl⟩, otlReassembly_measures, fun pos => eavSpacingTimeout_ends, ?los,
    fun v => ⟨pdef_framer v, fun r k => pdef_trib v⟩, ?degrade, oneSecondLatch_takes⟩
  case frame => exact ⟨deliveredFrame_stays hd h6, deliveredFrame_loses hd h6⟩
  case otu4 => exact ⟨deliveredFrame_holds hd h6, deliveredFrame_skewed hd h6⟩
  case los =>
    intro since lasts hr h0
    exact ⟨fun hraw hl => los_declares hr h0 hraw (State.losLasted_of hl),
      fun hraw hl => losClear_clears hr h0 hraw (State.losLasted_of hl)⟩
  case degrade =>
    intro i sf k ended
    refine ⟨fun hr h0 => ?_, fun r j hi hr ht => ?_⟩
    · simpa only [State.degDue_eq] using degradeWindowEnd_framer i sf hr h0
    · simpa only [State.degDue_eq] using degradeWindowEnd_trib sf hi hr ht

end Sys2Proof.Machine
end

section
/-! SUPPORT. What a command of Sundial moves: registers within an area, and parts of the state, with the clocks as they
were. -/

namespace Sys2Proof.Machine

open Sys2Proof.Cert
open State (Within)

/-! ### Records of Sundial -/

@[simp] theorem State.ref_setRef_same (s : State) (r : Nat) (x : Ref) : (s.setRef r x).ref r = x := by
  simp [State.ref]

theorem State.ref_setRef_ne (s : State) {r q : Nat} (x : Ref) (h : q ≠ r) : (s.setRef r x).ref q = s.ref q := by
  simp [State.ref, Tab.get_set_ne _ _ _ _ h]

@[simp] theorem State.dial_setDial_same (s : State) (n : Nat) (x : Dial) : (s.setDial n x).dial n = x := by
  simp [State.dial]

theorem State.dial_setDial_ne (s : State) {n m : Nat} (x : Dial) (h : m ≠ n) : (s.setDial n x).dial m = s.dial m := by
  simp [State.dial, Tab.get_set_ne _ _ _ _ h]

@[simp] theorem State.gen_setGen_same (s : State) (g : Nat) (x : Gen) : (s.setGen g x).gen g = x := by
  simp [State.gen]

@[simp] theorem State.ttc_setTtc_same (s : State) (n : Nat) (x : Ttc) : (s.setTtc n x).ttc n = x := by
  simp [State.ttc]

theorem State.ref_congr {s t : State} (h : t.refs = s.refs) (r : Nat) : t.ref r = s.ref r := by rw [State.ref, State.ref, h]

theorem State.dial_congr {s t : State} (h : t.dials = s.dials) (n : Nat) : t.dial n = s.dial n := by
  rw [State.dial, State.dial, h]

theorem State.gen_congr {s t : State} (h : t.gens = s.gens) (g : Nat) : t.gen g = s.gen g := by rw [State.gen, State.gen, h]

theorem State.ttc_congr {s t : State} (h : t.ttcs = s.ttcs) (n : Nat) : t.ttc n = s.ttc n := by rw [State.ttc, State.ttc, h]

theorem State.pol_congr {s t : State} (h : t.policy = s.policy) (a : Nat) : t.pol a = s.pol a := by rw [State.pol, State.pol, h]

theorem State.polFld_congr {s t : State} (h : t.policy = s.policy) (a hi lo : Nat) : t.polFld a hi lo = s.polFld a hi lo := by
  rw [State.polFld, State.polFld, State.pol_congr h]

theorem State.setRef_sameBut (s : State) (r : Nat) (x : Ref) : sameBut [.refs] s (s.setRef r x) := fun p hp => by
  cases p with
  | refs => simp at hp
  | _ => rfl

theorem State.setDial_sameBut (s : State) (n : Nat) (x : Dial) : sameBut [.dials] s (s.setDial n x) := fun p hp => by
  cases p with
  | dials => simp at hp
  | _ => rfl

theorem State.setGen_sameBut (s : State) (g : Nat) (x : Gen) : sameBut [.gens] s (s.setGen g x) := fun p hp => by
  cases p with
  | gens => simp at hp
  | _ => rfl

theorem State.setTtc_sameBut (s : State) (n : Nat) (x : Ttc) : sameBut [.ttcs] s (s.setTtc n x) := fun p hp => by
  cases p with
  | ttcs => simp at hp
  | _ => rfl

theorem State.setTwn_sameBut (s : State) (x : Twn) : sameBut [.twn] s (s.setTwn x) := fun p hp => by
  cases p with
  | twn => simp at hp
  | _ => rfl

theorem State.setFur_sameBut (s : State) (F : Nat) (x : Furrow) : sameBut [.furs] s (s.setFur F x) := fun p hp => by
  cases p with
  | furs => simp at hp
  | _ => rfl

theorem State.setTop_sameBut (s : State) (x : Top) : sameBut [.top] s (s.setTop x) := fun p hp => by
  cases p with
  | top => simp at hp
  | _ => rfl

theorem State.wrN_sameBut (s : State) (a n : Nat) : sameBut [] s (s.wrN a n) := fun p _ => by cases p <;> rfl

theorem sameBut_trans {ps : List Part} {s t u : State} (h : sameBut ps s t) (k : sameBut ps t u) : sameBut ps s u :=
  fun p hp => Part.same_trans (h p hp) (k p hp)

theorem sameBut_mono {ps qs : List Part} {s t : State} (h : sameBut ps s t) (hq : ∀ p ∈ ps, p ∈ qs) : sameBut qs s t :=
  fun p hp => h p fun e => hp (hq p e)

/-! ### What moves -/

/-- No register outside the area reads otherwise, no part of the state but those listed, the balls of TOP, the counts and
the reports, and the clocks run as they did. -/
structure State.Moves (A : Area) (ps : List Part) (s t : State) : Prop where
  regs : regsBut A.has s t
  parts : keeps (.top :: ps) s t
  boot : t.top.boot = s.top.boot
  failed : t.top.failed = s.top.failed

namespace State.Moves

variable {A B : Area} {ps qs : List Part} {s t u : State} {a : Nat}

theorem refl (A : Area) (ps : List Part) (s : State) : s.Moves A ps s :=
  ⟨fun _ _ => rfl, fun p _ => by cases p <;> rfl, rfl, rfl⟩

theorem trans (h : s.Moves A ps t) (k : t.Moves A ps u) : s.Moves A ps u :=
  ⟨fun a ha => (k.regs a ha).trans (h.regs a ha), keeps_trans h.parts k.parts, k.boot.trans h.boot, k.failed.trans h.failed⟩

/-- A wider area, and more parts. -/
theorem mono (h : s.Moves A ps t) (hA : ∀ a, A.has a → B.has a) (hp : ∀ p ∈ ps, p ∈ qs) : s.Moves B qs t :=
  ⟨fun a ha => h.regs a fun e => ha (hA a e), sameBut_mono h.parts (by simp only [List.mem_cons]; tauto), h.boot, h.failed⟩

/-- What a part is left out of the list for. -/
theorem part (h : s.Moves A ps t) {p : Part} (hp : p ∉ Part.cur :: .inv :: .top :: ps) : p.same s t := h.parts p hp

theorem quiet (h : s.Moves A ps t) (hq : t.Quiet u) (hr : regsBut A.has t u) : s.Moves A ps u :=
  h.trans ⟨hr, hq.keeps _, by rw [hq.top], by rw [hq.top]⟩

/-- A part of the list may change. -/
theorem same {p : Part} (h : s.Moves A ps t) (hp : p ∈ ps) (hk : sameBut [p] t u) (hr : u.regs = t.regs) (ht : u.top = t.top) :
    s.Moves A ps u :=
  h.trans ⟨fun a _ => State.rd_congr hr a, sameBut_mono hk (by simp [hp]), by rw [ht], by rw [ht]⟩

theorem wr (h : s.Moves A ps t) (ha : A.has a) (v : Word) : s.Moves A ps (t.wr a v) :=
  h.quiet (t.wr_quiet a v) ((Within.refl A t).wr ha v).regs

theorem wrN (h : s.Moves A ps t) (ha : A.has a) (n : Nat) : s.Moves A ps (t.wrN a n) := h.wr ha _
theorem wrI (h : s.Moves A ps t) (ha : A.has a) (i : Int) : s.Moves A ps (t.wrI a i) := h.wrN ha _
theorem setFld (h : s.Moves A ps t) (ha : A.has a) (hi lo v : Nat) : s.Moves A ps (t.setFld a hi lo v) := h.wrN ha _
theorem setBit (h : s.Moves A ps t) (ha : A.has a) (n : Nat) (b : Bool) : s.Moves A ps (t.setBit a n b) := h.setFld ha _ _ _
theorem inc (h : s.Moves A ps t) (ha : A.has a) : s.Moves A ps (t.inc a) := h.wrN ha _

theorem putTs (h : s.Moves A ps t) (ha : A.has a) (h4 : A.has (a + 4)) (h8 : A.has (a + 8)) (sub : Nat) :
    s.Moves A ps (t.putTs a sub) := ((h.wrN ha _).wrN h4 _).wrN h8 _

theorem event (h : s.Moves A ps t) (ha : A.has a) (b : Nat) : s.Moves A ps (t.event a b) :=
  h.quiet (t.event_quiet a b) ((Within.refl A t).event ha b).regs

theorem raise {src : Nat} (h : s.Moves A ps t) (hs : src < 1024) (kind : Nat) (clear : Bool) (detail : Nat) :
    s.Moves A ps (t.raise src kind clear detail) :=
  h.quiet (t.raiseAs_quiet _ _ _ _ _) ((Within.refl A t).raise (fun _ => A.report hs) kind clear detail).regs

theorem raiseLim {src : Nat} (h : s.Moves A ps t) (hs : src < 1024) (n sub kind : Nat) (clear : Bool) (detail : Nat) :
    s.Moves A ps (t.raiseLim n sub src kind clear detail) :=
  h.quiet (t.raiseLim_quiet _ _ _ _ _ _) ((Within.refl A t).raiseLim hs n sub kind clear detail).regs

theorem tally (h : s.Moves A ps t) {base k : Nat} (hb : base + k ≤ 344) (ev n : Nat) (sel : Option (Nat × Nat)) :
    s.Moves A ps (t.tally base k ev n sel) :=
  h.quiet (t.tally_quiet _ _ _ _ _) ((Within.refl A t).tally hb ev n sel).regs

theorem tallySdl (h : s.Moves A ps t) (unit ev n : Nat) : s.Moves A ps (t.tallySdl unit ev n) := h.tally (by omega) _ _ _

theorem foldl {β : Type} {f : State → β → State} {l : List β} (h : s.Moves A ps t)
    (hf : ∀ u : State, ∀ b ∈ l, u.Moves A ps (f u b)) : s.Moves A ps (l.foldl f t) :=
  foldl_keeps (fun u => s.Moves A ps u) f l (fun u b hb hu => hu.trans (hf u b hb)) t h

/-- An update that is made, or not. -/
theorem iteThen {c : Prop} [Decidable c] (h : s.Moves A ps t) (hu : t.Moves A ps u) : s.Moves A ps (if c then u else t) := by
  split
  · exact h.trans hu
  · exact h

theorem iteElse {c : Prop} [Decidable c] (h : s.Moves A ps t) (hu : t.Moves A ps u) : s.Moves A ps (if c then t else u) := by
  split
  · exact h
  · exact h.trans hu

theorem setRef (h : s.Moves A ps t) (hp : .refs ∈ ps) (r : Nat) (x : Ref) : s.Moves A ps (t.setRef r x) :=
  h.same hp (t.setRef_sameBut r x) rfl rfl

theorem setDial (h : s.Moves A ps t) (hp : .dials ∈ ps) (n : Nat) (x : Dial) : s.Moves A ps (t.setDial n x) :=
  h.same hp (t.setDial_sameBut n x) rfl rfl

theorem setGen (h : s.Moves A ps t) (hp : .gens ∈ ps) (g : Nat) (x : Gen) : s.Moves A ps (t.setGen g x) :=
  h.same hp (t.setGen_sameBut g x) rfl rfl

theorem setTtc (h : s.Moves A ps t) (hp : .ttcs ∈ ps) (n : Nat) (x : Ttc) : s.Moves A ps (t.setTtc n x) :=
  h.same hp (t.setTtc_sameBut n x) rfl rfl

theorem setTwn (h : s.Moves A ps t) (hp : .twn ∈ ps) (x : Twn) : s.Moves A ps (t.setTwn x) :=
  h.same hp (t.setTwn_sameBut x) rfl rfl

theorem setFur (h : s.Moves A ps t) (hp : .furs ∈ ps) (F : Nat) (x : Furrow) : s.Moves A ps (t.setFur F x) :=
  h.same hp (t.setFur_sameBut F x) rfl rfl

/-- The balls of TOP. -/
theorem setTout (h : s.Moves A ps t) (x : Tab Bool) : s.Moves A ps (t.setTop { t.top with tout := x }) :=
  h.trans ⟨fun _ _ => rfl, sameBut_mono (t.setTop_sameBut _) (by simp), rfl, rfl⟩

/-! What follows for Sundial's own time and its policy. -/

theorem sundialRuns (h : s.Moves A ps t) (hA : ¬ A.has (topA 0x334)) : t.sundialRuns = s.sundialRuns := by
  rw [State.sundialRuns, State.sundialRuns, h.boot, h.failed, State.bit_congr (h.regs _ hA)]

theorem sdlNow (h : s.Moves A ps t) (hA : ¬ A.has (topA 0x334)) (hp : ∀ p ∈ [.now, .sdlNs, .sdlFrom], p ∉ ps) :
    t.sdlNow = s.sdlNow := by
  have hnow : t.now = s.now := h.part (p := .now) (by have := hp .now (by simp); simp [this])
  have hns : t.sdlNs = s.sdlNs := h.part (p := .sdlNs) (by have := hp .sdlNs (by simp); simp [this])
  have hfrom : t.sdlFrom = s.sdlFrom := h.part (p := .sdlFrom) (by have := hp .sdlFrom (by simp); simp [this])
  rw [State.sdlNow, State.sdlNow, h.sundialRuns hA, hnow, hns, hfrom]

end State.Moves

/-- The end of a command leaves Sundial's time as the command left it, when the command left the part's clock alone. -/
theorem State.sdlNow_done {s t : State} (h : t.now = s.now) :
    (((t.setNow s.now).setPending s.pending).setSumCycle []).sdlNow = t.sdlNow := by
  rw [State.sdlNow, State.sdlNow, ← h]
  rfl

/-- A command completes in the state `u`, seen as any state `t` that is `u`. -/
theorem completes_of_state {i : Instr} {s u : State} {P : State → Prop} (h : exec i s = done s u)
    (hp : ∀ t, t = u → P (((t.setNow s.now).setPending s.pending).setSumCycle [])) : completes i s P :=
  completes_of_done h (hp u rfl)

theorem countReg_counting {a : Nat} (h : countReg a) : counting a := by
  unfold countReg reportReg at h
  unfold counting
  tauto

end Sys2Proof.Machine
end

section
/-! SUPPORT. What loops, dial states and generators move (R142 to R147, R169 to R173, R181 to R184): registers of dials and
generators, and never HOLDOFF unless hold-off starts or ends. -/

namespace Sys2Proof.Machine

open Sys2Proof.Cert
open State (Moves)

/-! ### Areas of dial registers -/

theorem blockOf_sdl {a : Nat} (h : 0x80000 ≤ a ∧ a < 0x100000) : blockOf a = some (.sdl, 0, sdlA 0) := by
  rw [blockOf, regions]
  simp only [regionIn]
  repeat rw [if_neg (by omega)]
  rw [if_pos (by omega)]
  simp only [sdlA, Option.some.injEq, Prod.mk.injEq, true_and]
  omega

/-- Curator, Inventory, Sundial's own registers, the generators, and of each dial the registers at the offsets `P`. -/
def dialRegs (P : Nat → Prop) : Area where
  has a := 0x20000 ≤ a ∧ a < 0x40000 ∨ 0x80000 ≤ a ∧ a < 0x90000 ∨ 0xA0000 ≤ a ∧ a < 0xB0000 ∧ P (a % 0x200) ∨
    0xB0000 ≤ a ∧ a < 0xC0000
  low a h k := .inl ⟨h, k⟩
  summary {a n base k} h hb := by
    by_cases hs : 0x80000 ≤ a ∧ a < 0x100000
    · rw [blockOf_sdl hs] at hb
      cases hb
      exact .inr (.inl (by decide))
    · have ha : 0x20000 ≤ a ∧ a < 0x40000 := by omega
      obtain ⟨e, he, ⟨h1, h2⟩, h3, h4⟩ := blockOf_same hb
      fin_cases he <;> dsimp only at * <;> omega

/-- Where a dial shows its loop, its build-out, its model and its time steps. -/
abbrev loopOff (o : Nat) : Prop := 0x90 ≤ o ∧ o ≠ 0xC0

/-- Everything but DIAL_STATE. -/
abbrev besideState (o : Nat) : Prop := o ≠ 0x10

abbrev loopRegs : Area := dialRegs loopOff
abbrev selectRegs : Area := dialRegs besideState
abbrev allDialRegs : Area := dialRegs fun _ => True

theorem dialRegs_mono {P Q : Nat → Prop} (h : ∀ o, P o → Q o) (a : Nat) (ha : (dialRegs P).has a) : (dialRegs Q).has a :=
  ha.imp id (.imp id (.imp (fun ⟨h1, h2, h3⟩ => ⟨h1, h2, h _ h3⟩) id))

theorem dialRegs_dialA {P : Nat → Prop} {n o : Nat} (hn : n < 16) (ho : o < 0x200) (hP : P o) : (dialRegs P).has (dialA n o) := by
  have e : dialA n o % 0x200 = o := by unfold dialA; omega
  exact .inr (.inr (.inl ⟨by unfold dialA; omega, by unfold dialA; omega, e.symm ▸ hP⟩))

theorem not_dialRegs_dialA {P : Nat → Prop} {n o : Nat} (hn : n < 16) (ho : o < 0x200) (hP : ¬ P o) :
    ¬ (dialRegs P).has (dialA n o) := by
  have e : dialA n o % 0x200 = o := by unfold dialA; omega
  have hr : 0xA0000 ≤ dialA n o ∧ dialA n o < 0xB0000 := by unfold dialA; omega
  rintro (h | h | ⟨_, _, h⟩ | h)
  · omega
  · omega
  · exact hP (e ▸ h)
  · omega

theorem dialRegs_genA {P : Nat → Prop} {g o : Nat} (hg : g < 96) (ho : o < 0x40) : (dialRegs P).has (genA g o) :=
  .inr (.inr (.inr (by unfold genA; omega)))

theorem not_dialRegs_low {P : Nat → Prop} {a : Nat} (h : a < 0x20000) : ¬ (dialRegs P).has a := by
  rintro (h' | h' | ⟨h', _⟩ | h') <;> omega

theorem not_dialRegs_refA {P : Nat → Prop} {r o : Nat} (hr : r < 84) (ho : o < 0x80) : ¬ (dialRegs P).has (refA r o) := by
  unfold refA
  rintro (h' | h' | ⟨h', _⟩ | h') <;> omega

theorem State.genDial_lt (s : State) (g : Nat) : s.genDial g < 16 := bitsOf_lt (s.pol (genA g 0)).toNat 11 8

/-! ### What only shows -/

section

variable (s : State) {n : Nat} (hn : n < 16)
include hn

theorem State.showDial_moves : s.Moves loopRegs [] (s.showDial n) := by
  have hd : ∀ {o}, o < 0x200 → loopOff o → loopRegs.has (dialA n o) := dialRegs_dialA hn
  exact ((((((Moves.refl _ _ s).wrI (hd (by omega) (by omega)) _).wrI (hd (by omega) (by omega)) _).setFld
    (hd (by omega) (by omega)) _ _ _).setFld (hd (by omega) (by omega)) _ _ _).wrN (hd (by omega) (by omega)) _).wrN
    (hd (by omega) (by omega)) _

theorem State.setLimited_moves (on : Bool) : s.Moves loopRegs [] (s.setLimited n on) := by
  have hd : ∀ {o}, o < 0x200 → loopOff o → loopRegs.has (dialA n o) := dialRegs_dialA hn
  exact (Moves.refl _ _ s).iteElse ((((Moves.refl _ _ s).setBit (hd (by omega) (by omega)) _ _).event
    (hd (by omega) (by omega)) _).raise (by omega) _ _ _)

theorem State.showEntries_moves : s.Moves selectRegs [] (s.showEntries n) :=
  (Moves.refl _ _ s).foldl fun u x hx => by
    obtain ⟨e, he, rfl⟩ := List.mem_map.1 hx
    have ha : selectRegs.has (entryA n e) := by
      have := List.mem_range.1 he
      exact dialRegs_dialA hn (by omega) (by unfold besideState; omega)
    exact (((Moves.refl _ _ u).setBit ha _ _).setBit ha _ _).setFld ha _ _ _

end

section

variable (s : State) {g : Nat} (hg : g < 96)
include hg

theorem State.showNext_moves : s.Moves loopRegs [] (s.showNext g) :=
  (Moves.refl _ _ s).putTs (dialRegs_genA hg (by omega)) (dialRegs_genA (o := 0x30) hg (by omega))
    (dialRegs_genA (o := 0x34) hg (by omega)) _

omit hg in
theorem State.drive_moves (A : Area) (ps : List Part) (g : Nat) : s.Moves A ps (s.drive g) :=
  (Moves.refl _ _ s).iteElse ((Moves.refl _ _ s).setTout _)

theorem State.genFollow_moves (fresh : Bool) (delay : Nat) : s.Moves loopRegs [.gens] (s.genFollow g fresh delay) := by
  have hG : ∀ {o}, o < 0x40 → loopRegs.has (genA g o) := dialRegs_genA hg
  have hsrc : 128 + s.genDial g < 1024 := by have := s.genDial_lt g; omega
  unfold State.genFollow
  extract_lets was runs short s1 s2 x s3
  have h1 : s.Moves loopRegs [.gens] s1 := (Moves.refl _ _ s).iteThen ((Moves.refl _ _ s).raise hsrc _ _ _)
  have h2 : s.Moves loopRegs [.gens] s2 := (h1.setBit (hG (by omega)) _ _).setBit (hG (by omega)) _ _
  have h3 : s.Moves loopRegs [.gens] s3 := by
    unfold s3
    split
    · exact (h2.setGen (by simp) g _).trans ((State.showNext_moves _ hg).mono (fun _ => id) (by simp))
    · exact h2.iteThen ((Moves.refl _ _ s2).setGen (by simp) g _)
  exact h3.trans (s3.drive_moves _ _ g)

end

/-! ### Loops (R169 to R173) -/

/-- The raw errors since the last update of the loop, and whether the first is still to come (R168, R170). -/
def Dial.raws (d : Dial) : Int × Nat × Bool := (d.rawSum, d.rawN, d.firstError)

/-- What a dial's frequency, time and outputs move: no register of selection, and no raw error. -/
structure State.Steers (s t : State) : Prop where
  moves : s.Moves loopRegs [.dials, .gens, .twn] t
  raws : ∀ m, (t.dial m).raws = (s.dial m).raws

namespace State.Steers

variable {s t u : State}

theorem refl (s : State) : s.Steers s := ⟨Moves.refl _ _ s, fun _ => rfl⟩

theorem trans (h : s.Steers t) (k : t.Steers u) : s.Steers u :=
  ⟨h.moves.trans k.moves, fun m => (k.raws m).trans (h.raws m)⟩

/-- What moves no dial. -/
theorem moved {ps : List Part} (h : s.Steers t) (k : t.Moves loopRegs ps u) (hp : ∀ p ∈ ps, p = .gens ∨ p = .twn) : s.Steers u := by
  have hd : u.dials = t.dials := k.part (p := .dials) (by simpa using fun e => by simpa using hp _ e)
  exact h.trans ⟨k.mono (fun _ => id) fun p e => by rcases hp p e with rfl | rfl <;> simp, fun m => by rw [State.dial_congr hd]⟩

theorem setDial (h : s.Steers t) {n : Nat} {x : Dial} (hx : x.raws = (t.dial n).raws) : s.Steers (t.setDial n x) := by
  refine h.trans ⟨(Moves.refl _ _ t).setDial (by simp) n x, fun m => ?_⟩
  by_cases e : m = n
  · rw [e, State.dial_setDial_same, hx]
  · rw [State.dial_setDial_ne t x e]

theorem foldl {β : Type} {f : State → β → State} {l : List β} (h : s.Steers t) (hf : ∀ u : State, ∀ b ∈ l, u.Steers (f u b)) :
    s.Steers (l.foldl f t) :=
  foldl_keeps (fun u => s.Steers u) f l (fun u b hb hu => hu.trans (hf u b hb)) t h

end State.Steers

open State (Steers)

section

variable (s : State) {n : Nat}

theorem State.rebase_steers (n : Nat) : s.Steers (s.rebase n) := (Steers.refl s).setDial rfl

theorem State.setY_steers (n : Nat) (y : Int) : s.Steers (s.setY n y) := (s.rebase_steers n).setDial rfl

variable (hn : n < 16)
include hn

theorem State.steerY_steers (y : Int) : s.Steers (s.steerY n y) :=
  ((s.setY_steers n _).moved (State.setLimited_moves _ hn _) (by simp)).moved (State.showDial_moves _ hn) (by simp)

theorem State.acquire_moves (fresh : Bool) : s.Moves loopRegs [.dials, .gens, .twn] (s.acquire n fresh) := by
  unfold State.acquire
  extract_lets s1 d
  have h1 : s.Moves loopRegs [.dials, .gens, .twn] s1 := (Moves.refl _ _ s).iteElse (s.steerY_steers hn _).moves
  exact h1.setDial (by simp) n _

end

/-! ### Selection (R142 to R147) -/

/-- What a selection moves; where `held`, HOLDOFF stands as it did. -/
structure State.Selects (held : Bool) (s t : State) : Prop where
  moves : s.Moves allDialRegs [.dials, .gens, .twn] t
  holdoff : held = true → ∀ m, m < 16 → t.bit (dialA m 0x10) 3 = s.bit (dialA m 0x10) 3

namespace State.Selects

variable {held : Bool} {s t u : State}

theorem refl (s : State) : s.Selects held s := ⟨Moves.refl _ _ s, fun _ _ _ => rfl⟩

theorem trans (h : s.Selects held t) (k : t.Selects held u) : s.Selects held u :=
  ⟨h.moves.trans k.moves, fun e m hm => (k.holdoff e m hm).trans (h.holdoff e m hm)⟩

/-- What leaves DIAL_STATE alone. -/
theorem moved {P : Nat → Prop} {ps : List Part} (h : s.Selects held t) (k : t.Moves (dialRegs P) ps u) (hP : ∀ o, P o → o ≠ 0x10)
    (hp : ∀ p ∈ ps, p ∈ [.dials, .gens, .twn]) : s.Selects held u :=
  h.trans ⟨k.mono (dialRegs_mono fun _ _ => trivial) hp,
    fun _ _ hm => State.bit_congr (k.regs _ (not_dialRegs_dialA hm (by omega) fun e => hP _ e rfl)) 3⟩

theorem steered (h : s.Selects held t) (k : t.Steers u) : s.Selects held u :=
  h.moved k.moves (fun _ e => by omega) (by simp)

theorem setDial (h : s.Selects held t) (n : Nat) (x : Dial) : s.Selects held (t.setDial n x) :=
  h.moved (P := besideState) (ps := [.dials]) ((Moves.refl _ _ t).setDial (by simp) n x) (fun _ => id) (by simp)

theorem beside (h : s.Selects held t) (k : t.Moves selectRegs [] u) : s.Selects held u :=
  h.moved k (fun _ => id) (by simp)

/-- A field of DIAL_STATE other than HOLDOFF. -/
theorem setState {n hi lo : Nat} (h : s.Selects held t) (hn : n < 16) (hl : lo ≤ hi + 1) (h32 : hi < 32) (h3 : hi < 3 ∨ 3 < lo)
    (v : Nat) : s.Selects held (t.setFld (dialA n 0x10) hi lo v) := by
  refine h.trans ⟨(Moves.refl _ _ t).setFld (dialRegs_dialA hn (by omega) trivial) _ _ _, fun _ m _ => ?_⟩
  by_cases e : m = n
  · subst e
    rw [State.bit, State.bit]
    rcases h3 with h3 | h3
    · rw [State.fld_setFld_above t v hl h32 h3]
    · rw [State.fld_setFld_below t v hl h32 h3]
  · rw [State.bit, State.bit, State.fld_setFld_ne]
    unfold dialA
    omega

theorem iteThen {c : Prop} [Decidable c] (h : s.Selects held t) (hu : t.Selects held u) :
    s.Selects held (if c then u else t) := by
  split
  · exact h.trans hu
  · exact h

theorem iteElse {c : Prop} [Decidable c] (h : s.Selects held t) (hu : t.Selects held u) :
    s.Selects held (if c then t else u) := by
  split
  · exact h
  · exact h.trans hu

theorem foldl {β : Type} {f : State → β → State} {l : List β} (h : s.Selects held t)
    (hf : ∀ u : State, ∀ b ∈ l, u.Selects held (f u b)) : s.Selects held (l.foldl f t) :=
  foldl_keeps (fun u => s.Selects held u) f l (fun u b hb hu => hu.trans (hf u b hb)) t h

end State.Selects

open State (Selects)

/-- An event on a register of Sundial other than SUMMARY sets its bit. -/
theorem State.bit_event_sdl (s : State) {a b : Nat} (ha : 0x80000 ≤ a ∧ a < 0x100000) (h8 : a ≠ sdlA 8) (hb : b < 24) :
    (s.event a b).bit a b = true :=
  (s.bit_event_same hb fun k m base e => by
    rw [blockOf_sdl ha] at e
    cases e
    exact h8).1

theorem dialA_sdl {n o : Nat} (hn : n < 16) (ho : o < 0x200) : 0x80000 ≤ dialA n o ∧ dialA n o < 0x100000 := by
  unfold dialA; omega

theorem not_reportReg_sdl {src a : Nat} (hs : src < 1024) (ha : 0x80000 ≤ a) : ¬ reportReg src a := by
  simp only [reportReg, srcA, curA]
  omega

theorem State.dialState_congr {s t : State} {n : Nat} (h : t.rd (dialA n 0x10) = s.rd (dialA n 0x10)) :
    t.dialState n = s.dialState n := State.fld_congr h 2 0

/-- A dial has come to a state: what its loop and its outputs then do is to come. -/
structure State.Enters (n q : Nat) (s u : State) : Prop where
  selects : ∀ held, s.Selects held u
  raws : ∀ m, (u.dial m).raws = (s.dial m).raws
  state : u.dialState n = q
  locked : q = 2 → u.bit (dialA n 0x10) 4 = true
  event : u.bit (dialA n 0x18) 0 = true

section

variable (s : State) {n : Nat} (hn : n < 16)
include hn

/-- A change of STATE: the entry, and what the loop and the generators make of it (R147, R173, R182). -/
theorem State.setState_enters {q : Nat} (hq : q < 8) (h : q ≠ s.dialState n) :
    ∃ u, State.Enters n q s u ∧ u.Steers (s.setState n q) := by
  unfold State.setState
  extract_lets old s1 d locked d2 s2 s3 s4 s5 s6 s7
  rw [if_neg (show ¬ q = old from h)]
  have h2 : s.Steers s2 := (s.rebase_steers n).setDial rfl
  have h3 : ∀ held, s.Selects held s3 := fun held =>
    ((Selects.refl s).steered h2).setState hn (by omega) (by omega) (by omega) q
  have h34 : ∀ held, s3.Selects held s4 ∧ s4.dials = s3.dials ∧ s4.fld (dialA n 0x10) 2 0 = s3.fld (dialA n 0x10) 2 0 := by
    have hbit : ∀ held b, s3.Selects held (s3.setBit (dialA n 0x10) 4 b) ∧ (s3.setBit (dialA n 0x10) 4 b).dials = s3.dials ∧
        (s3.setBit (dialA n 0x10) 4 b).fld (dialA n 0x10) 2 0 = s3.fld (dialA n 0x10) 2 0 := fun held b =>
      ⟨(Selects.refl s3).setState hn (by omega) (by omega) (by omega) _, rfl,
        State.fld_setFld_below s3 _ (by omega) (by omega) (by omega)⟩
    intro held
    unfold s4
    split
    · exact hbit held true
    · split
      · exact hbit held false
      · exact ⟨.refl s3, rfl, rfl⟩
  have hd : ∀ {o}, o < 0x200 → besideState o → selectRegs.has (dialA n o) := dialRegs_dialA hn
  have h46 : s4.Moves selectRegs [] s6 := (((Moves.refl _ _ s4).wrN (hd (by omega) (by omega)) _).event
    (hd (by omega) (by omega)) 0).raise (by omega) _ _ _
  have hrd : s6.rd (dialA n 0x10) = s4.rd (dialA n 0x10) := h46.regs _ (not_dialRegs_dialA hn (by omega) (by simp))
  have hdials : s6.dials = s2.dials := (h46.part (p := .dials) (by simp)).trans ((h34 true).2.1)
  refine ⟨s6, ⟨fun held => ((h3 held).trans (h34 held).1).moved h46 (fun _ => id) (by simp), fun m => ?_, ?_, fun e => ?_, ?_⟩, ?_⟩
  · rw [State.dial_congr hdials]
    exact h2.raws m
  · rw [State.dialState_congr hrd, State.dialState, (h34 true).2.2, State.fld_setFld_same s2 q (by omega) (by omega)]
    exact Nat.mod_eq_of_lt hq
  · rw [State.bit_congr hrd]
    unfold s4
    rw [if_pos e]
    exact s3.bit_setBit_same true (by omega)
  · refine (State.bit_congr (((Moves.refl loopRegs [] _).raise (by omega) _ _ _).regs _
      (not_dialRegs_dialA hn (by omega) (by omega))) 0).trans ?_
    exact State.bit_event_sdl _ (dialA_sdl hn (by omega)) (by unfold dialA sdlA; omega) (by omega)
  · have h7 : s6.Steers s7 := by
      unfold s7
      split
      · exact s6.steerY_steers hn _
      · split
        · exact s6.steerY_steers hn _
        · exact (Steers.refl s6).moved (s6.showDial_moves hn) (by simp)
    exact h7.foldl fun u g hg =>
      (Steers.refl u).moved (u.genFollow_moves (List.mem_range.1 (List.mem_of_mem_filter hg)) _ _) (by simp)

theorem State.setState_selects {q : Nat} (hq : q < 8) (held : Bool) : s.Selects held (s.setState n q) := by
  by_cases h : q = s.dialState n
  · rw [State.setState, if_pos h]
    exact .refl s
  · obtain ⟨u, he, hs⟩ := s.setState_enters hn hq h
    exact (he.selects held).steered hs

theorem State.announce_selects (e r cause : Nat) (held : Bool) : s.Selects held (s.announce n e r cause) := by
  have hd : ∀ {o}, o < 0x200 → besideState o → selectRegs.has (dialA n o) := dialRegs_dialA hn
  have h : s.Selects held ((s.setFld (dialA n 0x10) 12 8 e).setFld (dialA n 0x10) 22 16 r) :=
    ((Selects.refl s).setState hn (by omega) (by omega) (by omega) _).setState hn (by omega) (by omega) (by omega) _
  exact h.beside (((((Moves.refl _ _ _).inc (hd (by omega) (by omega))).tallySdl _ _ _).event
    (hd (by omega) (by omega)) _).raise (by omega) _ _ _)

theorem State.setDispute_selects (pair : Option (Nat × Nat)) (chosen : Nat) (held : Bool) :
    s.Selects held (s.setDispute n pair chosen) := by
  have hd : ∀ {o}, o < 0x200 → besideState o → selectRegs.has (dialA n o) := dialRegs_dialA hn
  unfold State.setDispute
  extract_lets on d s1 s2
  have h1 : s.Selects held s1 := by
    unfold s1
    split
    · exact (Selects.refl s).setDial n _
    · exact .refl s
  have h2 : s1.Selects held s2 :=
    (Selects.refl s1).iteThen ((Selects.refl s1).beside ((Moves.refl _ _ _).inc (hd (by omega) (by omega))))
  refine h1.iteElse ?_
  split
  exact (h2.setState hn (by omega) (by omega) (by omega) _).beside
    (((Moves.refl _ _ _).event (hd (by omega) (by omega)) _).raise (by omega) _ _ _)

theorem State.pickNow_selects (av : List (Nat × Nat × Nat × Bool)) (held : Bool) : s.Selects held (s.pickNow n av).2 := by
  unfold State.pickNow
  split
  · exact s.setDispute_selects hn none 127 held
  · exact s.setDispute_selects hn _ _ held

theorem State.selected_selects (e r cause : Nat) (held : Bool) : s.Selects held (s.selected n e r cause) := by
  unfold State.selected
  extract_lets s1 d s2 again s3
  have h2 : s.Selects held s2 := (s.announce_selects hn e r cause held).setDial n _
  have h3 : s.Selects held s3 := (h2.moved (s2.acquire_moves hn true) (fun _ e => by omega) (by simp)).trans
    (State.setState_selects _ hn (by omega) held)
  split
  · refine h2.iteThen ?_
    split
    · split
      · exact s2.setState_selects hn (by omega) held
      · exact s2.setState_selects hn (by omega) held
    · exact s2.setState_selects hn (by omega) held
  · exact h3.iteThen ((Selects.refl s3).moved (s3.showDial_moves hn) (fun _ e => by omega) (by simp))

/-! Hold-off starts and ends: where HOLDOFF is not held. -/

theorem State.startHoldoff_selects : s.Selects false (s.startHoldoff n) := by
  have h : s.Steers ((s.onModel n).setDial n { (s.onModel n).dial n with holdoffAt := (s.onModel n).sdlNow }) :=
    (s.steerY_steers hn _).setDial rfl
  exact ⟨(((h.moves.mono (dialRegs_mono fun _ _ => trivial) fun _ => id).setBit
    (dialRegs_dialA hn (by omega) trivial) _ _).raise (by omega) _ _ _), fun e => nomatch e⟩

theorem State.endHoldoff_selects : s.Selects false (s.endHoldoff n) := by
  have h : s.Steers ((s.rebase n).setDial n { (s.rebase n).dial n with ySum := 0, ySumFrom := (s.rebase n).sdlNow }) :=
    (s.rebase_steers n).setDial rfl
  exact (Selects.refl s).iteThen ⟨(((h.moves.mono (dialRegs_mono fun _ _ => trivial) fun _ => id).setBit
    (dialRegs_dialA hn (by omega) trivial) _ _).raise (by omega) _ _ _), fun e => nomatch e⟩

/-- A selection begins a hold-off only where it does not follow one (R146). -/
theorem State.selectFree_selects (c : SelectCause) {held : Bool} (hc : held = true → c.after = true) :
    s.Selects held (s.selectFree n c) := by
  have hshow : ∀ {u : State}, s.Selects held u → s.Selects held (u.showEntries n) := fun h =>
    h.beside (State.showEntries_moves _ hn)
  have hset : ∀ (u : State) {b : Nat} (v : Bool), 4 ≤ b → b < 32 → u.Selects held (u.setBit (dialA n 0x10) b v) :=
    fun u b v h4 hb => (Selects.refl u).setState hn (by omega) hb (by omega) _
  unfold State.selectFree
  extract_lets es fe fh cur s1 s2 lost s3 av inG curAv
  split
  · have h1 : s.Selects held s1 := (s.setDispute_selects hn none 127 held).trans (hset _ _ (by omega) (by omega))
    have h2 : s.Selects held s2 := h1.iteElse (s1.announce_selects hn 31 127 4 held)
    exact hshow (h2.trans (s2.setState_selects hn (by omega) held))
  · have h3 : s.Selects held s3 := hset s _ (by omega) (by omega)
    have h4 : s.Selects held (s3.pickNow n av).2 := h3.trans (s3.pickNow_selects hn av held)
    split
    next cand u hp =>
    rw [hp] at h4
    extract_lets sel d run u1 cause
    split
    · exact hshow (h4.iteThen ((Selects.refl u).setDial n _))
    · split
      next hl =>
        have hf : held = false := by
          cases held with
          | false => rfl
          | true => simp [hc rfl] at hl
        subst hf
        exact hshow ((h4.setDial n _).trans (State.startHoldoff_selects _ hn))
      · split
        · split
          · exact hshow h4
          · exact hshow ((h4.setDial n _).iteElse (u1.selected_selects hn _ _ _ held))
        · exact hshow (h4.trans (u.selected_selects hn _ _ _ held))

theorem State.bit_endHoldoff (hb : s.bit (dialA n 0x10) 3 = true) : (s.endHoldoff n).bit (dialA n 0x10) 3 = false := by
  unfold State.endHoldoff
  rw [if_pos hb]
  extract_lets s1
  rw [State.raise, State.bit_congr (State.rd_raiseAs_ne _ _ _ _ _ (not_reportReg_sdl (by omega) (dialA_sdl hn (by omega)).1)),
    State.bit_setBit_same _ _ (by omega)]

/-- HOLDOFF is clear once a hold-off has run its time (R146). -/
theorem State.holdoffOver_ends (c : SelectCause) : s.Selects false (s.holdoffOver n c) ∧
    (s.bit (dialA n 0x10) 3 = true → (s.holdoffOver n c).bit (dialA n 0x10) 3 = false) := by
  unfold State.holdoffOver
  extract_lets cur s1 fe held usable
  have h1 : s.Selects false s1 := (s.endHoldoff_selects hn).setDial n _
  have hoff : s.bit (dialA n 0x10) 3 = true → s1.bit (dialA n 0x10) 3 = false := fun hb =>
    (State.bit_congr (State.rd_setDial _ n _ _) 3).trans (s.bit_endHoldoff hn hb)
  have hrest : ∀ {t : State}, (∀ held, s1.Selects held t) →
      s.Selects false t ∧ (s.bit (dialA n 0x10) 3 = true → t.bit (dialA n 0x10) 3 = false) := fun h =>
    ⟨h1.trans (h false), fun hb => ((h true).holdoff rfl n hn).trans (hoff hb)⟩
  split
  · exact hrest fun held => (((Selects.refl s1).moved (s1.acquire_moves hn false) (fun _ e => by omega) (by simp)).moved
      (State.showDial_moves _ hn) (fun _ e => by omega) (by simp)).beside (State.showEntries_moves _ hn)
  · exact hrest fun held => s1.selectFree_selects hn _ fun _ => rfl

theorem State.selectDial_selects (c : SelectCause) : s.Selects false (s.selectDial n c) := by
  unfold State.selectDial
  extract_lets s1
  split
  · exact s.selectFree_selects hn c fun e => nomatch e
  · split
    · exact (s.endHoldoff_selects hn).trans (State.selectFree_selects _ hn _ fun e => nomatch e)
    · split
      · exact (s.holdoffOver_ends hn c).1
      · have h : s.Selects false s1 := (Selects.refl s).setState hn (by omega) (by omega) (by omega) _
        exact ((h.trans (s1.pickNow_selects hn _ false)).setDial n _).beside (State.showEntries_moves _ hn)

end

theorem State.dialsSelect_selects (s : State) (r : Nat) : s.Selects false (s.dialsSelect r) :=
  (Selects.refl s).foldl fun u _ hn => (Selects.refl u).iteThen (u.selectDial_selects (List.mem_range.1 hn) _)

end Sys2Proof.Machine
end

section
/-! SUPPORT. What a change of QSTATE moves, and what it leaves of its reference (R133, R136, R138, R143). -/

namespace Sys2Proof.Machine

open Sys2Proof.Cert
open State (Moves Selects)

/-! ### Areas of reference registers -/

/-- Curator, Inventory, SUMMARY and the window count of Sundial, and of each reference the registers at the offsets `P`. -/
def refRegs (P : Nat → Prop) : Area where
  has a := 0x20000 ≤ a ∧ a < 0x40000 ∨ a = sdlA 8 ∨ a = sdlA 0x104 ∨ 0x90000 ≤ a ∧ a < 0x92A00 ∧ P (a % 0x80)
  low a h k := .inl ⟨h, k⟩
  summary {a n base k} h hb := by
    by_cases hs : 0x80000 ≤ a ∧ a < 0x100000
    · rw [blockOf_sdl hs] at hb
      cases hb
      exact .inr (.inl rfl)
    · have ha : 0x20000 ≤ a ∧ a < 0x40000 := by
        unfold sdlA at h
        omega
      obtain ⟨e, he, ⟨h1, h2⟩, h3, h4⟩ := blockOf_same hb
      fin_cases he <;> dsimp only at * <;> omega

/-- What a reference shows of its measurements, beside REF_STATUS and with it. -/
abbrev measOff (o : Nat) : Prop := 0x1C ≤ o ∧ o ≤ 0x30
abbrev statusOff (o : Nat) : Prop := 0x18 ≤ o ∧ o ≤ 0x30

abbrev measRegs : Area := refRegs measOff
abbrev statusRegs : Area := refRegs statusOff

theorem measRegs_statusRegs (a : Nat) (h : measRegs.has a) : statusRegs.has a :=
  h.imp id (.imp id (.imp id fun ⟨h1, h2, h3, h4⟩ => ⟨h1, h2, by omega, h4⟩))

theorem refRegs_refA {P : Nat → Prop} {r o : Nat} (hr : r < 84) (ho : o < 0x80) (hP : P o) : (refRegs P).has (refA r o) := by
  have e : refA r o % 0x80 = o := by unfold refA; omega
  exact .inr (.inr (.inr ⟨by unfold refA; omega, by unfold refA; omega, e.symm ▸ hP⟩))

theorem not_refRegs_refA {P : Nat → Prop} {r o : Nat} (hr : r < 84) (ho : o < 0x80) (hP : ¬ P o) :
    ¬ (refRegs P).has (refA r o) := by
  have e : refA r o % 0x80 = o := by unfold refA; omega
  have hlo : 0x90000 ≤ refA r o := by unfold refA; omega
  unfold refRegs sdlA
  rintro (h | h | h | ⟨_, _, h⟩)
  · omega
  · omega
  · omega
  · exact hP (e ▸ h)

theorem not_refRegs_low {P : Nat → Prop} {a : Nat} (h : a < 0x20000) : ¬ (refRegs P).has a := by
  unfold refRegs sdlA
  rintro (h' | h' | h' | ⟨h', _⟩) <;> omega

theorem refA_sdl {r o : Nat} (hr : r < 84) (ho : o < 0x80) : 0x80000 ≤ refA r o ∧ refA r o < 0x100000 := by
  unfold refA; omega

/-! ### REF_STATUS -/

theorem State.qstate_congr {s t : State} {r : Nat} (h : t.rd (refA r 0x18) = s.rd (refA r 0x18)) : t.qstate r = s.qstate r :=
  State.fld_congr h 2 0

theorem State.qstate_setFld (s : State) (r : Nat) {hi lo : Nat} (v : Nat) (hl : lo ≤ hi + 1) (h : hi < 32) (h2 : 2 < lo) :
    (s.setFld (refA r 0x18) hi lo v).qstate r = s.qstate r := s.fld_setFld_below v hl h h2

/-- Entries follow a reference: dials alone change. -/
theorem State.entriesFollow_moves (s : State) (A : Area) (r old q : Nat) : s.Moves A [.dials] (s.entriesFollow r old q) :=
  (Moves.refl _ _ s).foldl fun u n _ => (Moves.refl _ _ u).iteElse ((Moves.refl _ _ u).setDial (by simp) n _)

theorem State.entriesFollow_regs (s : State) (r old q : Nat) : (s.entriesFollow r old q).regs = s.regs :=
  foldl_keeps (fun u => u.regs = s.regs) _ _ (fun u n _ hu => by
    dsimp only
    split
    · exact hu
    · exact hu) s rfl

section

variable (s : State) {r : Nat} (hr : r < 84)
include hr

/-- The report of a reference's event. -/
theorem State.refReport_moves (b kind : Nat) (clear : Bool) (detail : Nat) :
    s.Moves measRegs [] ((s.event (refA r 0x30) b).raise (144 + r) kind clear detail) :=
  ((Moves.refl _ _ s).event (refRegs_refA hr (by omega) (by omega)) b).raise (by omega) _ _ _

/-- And with its count. -/
theorem State.refCounted_moves (a b kind : Nat) (ha : measOff a) (clear : Bool) (detail : Nat) :
    s.Moves measRegs [] (((s.inc (refA r a)).event (refA r 0x30) b).raise (144 + r) kind clear detail) :=
  ((Moves.refl _ _ s).inc (refRegs_refA hr (by omega) ha)).trans (State.refReport_moves _ hr b kind clear detail)

theorem State.Moves.qstate {s t : State} {ps : List Part} (h : s.Moves measRegs ps t) : t.qstate r = s.qstate r :=
  State.qstate_congr (h.regs _ (not_refRegs_refA hr (by omega) (by omega)))

theorem State.setWarning_moves (on : Bool) : s.Moves statusRegs [] (s.setWarning r on) :=
  (Moves.refl _ _ s).iteElse (((Moves.refl _ _ s).setBit (refRegs_refA hr (by omega) (by omega)) 3 on).trans
    ((State.refReport_moves _ hr _ _ _ _).mono measRegs_statusRegs (by simp)))

theorem State.qstate_setWarning (on : Bool) : (s.setWarning r on).qstate r = s.qstate r := by
  unfold State.setWarning
  split
  · rfl
  · exact ((State.refReport_moves _ hr _ _ _ _).qstate hr).trans (s.qstate_setFld r _ (by omega) (by omega) (by omega))

theorem State.restartMeas_moves : s.Moves statusRegs [.refs] (s.restartMeas r) :=
  ((Moves.refl _ _ s).setFld (refRegs_refA hr (by omega) (by omega)) _ _ _).setRef (by simp) r _

end

/-- The reference's QSTATE has become `q`; into LOSS it forgets its edges and measurements, else its record is as it was. -/
structure State.Requalifies (r q : Nat) (s t : State) : Prop where
  moves : s.Moves statusRegs [.refs, .dials] t
  qstate : t.qstate r = q
  refs : q ≠ 1 → t.refs = s.refs
  loss : q = 1 → (t.ref r).lastEdge = none ∧ (t.ref r).freqs = [] ∧ t.fld (refA r 0x18) 15 8 = 0

section

variable (s : State) {r : Nat} (hr : r < 84)
include hr

/-- What leaves the new QSTATE ends in: runs, counts, events and reports of the state that is entered (R138, R149). -/
theorem State.setQ_requalifies {q : Nat} (hq : q < 8) (h : q ≠ s.qstate r) : State.Requalifies r q s (s.setQ r q) := by
  have hst : statusRegs.has (refA r 0x18) := refRegs_refA hr (by omega) (by omega)
  have hup : ∀ {u v : State} {ps : List Part}, u.Moves measRegs [] v → u.Moves statusRegs ps v := fun h =>
    h.mono measRegs_statusRegs (by simp)
  unfold State.setQ
  extract_lets old ppb s1 s2 s3 m x m1 s4 s5
  rw [if_neg (show ¬ q = old from h)]
  have h1 : s.Moves statusRegs [] s1 ∧ s1.qstate r = q :=
    ⟨(Moves.refl _ _ s).setFld hst 2 0 q, (s.fld_setFld_same q (by omega) (by omega)).trans (Nat.mod_eq_of_lt hq)⟩
  have h2 : s.Moves statusRegs [] s2 ∧ s2.qstate r = q := by
    unfold s2
    split
    · exact ⟨h1.1.trans (hup (s1.refReport_moves hr _ _ _ _)), ((s1.refReport_moves hr _ _ _ _).qstate hr).trans h1.2⟩
    · exact h1
  have h3 : s.Moves statusRegs [] s3 ∧ s3.qstate r = q := by
    unfold s3
    split
    · have hw := s2.refReport_moves hr 3 0x41 true q
      exact ⟨(h2.1.trans (hup hw)).trans (State.setWarning_moves _ hr false),
        (State.qstate_setWarning _ hr false).trans ((hw.qstate hr).trans h2.2)⟩
    · exact h2
  have hrefs : s3.refs = s.refs := h3.1.part (p := .refs) (by simp)
  have hset : ∀ {hi lo : Nat} (v : Nat), lo ≤ hi + 1 → hi < 32 → 2 < lo →
      s.Moves statusRegs [] (s3.setFld (refA r 0x18) hi lo v) ∧ (s3.setFld (refA r 0x18) hi lo v).qstate r = q :=
    fun v hl h32 h2 => ⟨h3.1.setFld hst _ _ v, (s3.qstate_setFld r v hl h32 h2).trans h3.2⟩
  have hm : m1.Moves measRegs [] ((m1.event (refA r 0x30) 0).raise (144 + r) 0x40 false 0) := m1.refReport_moves hr 0 0x40 false 0
  have h4 : s.Moves statusRegs [.refs] s4 ∧ s4.qstate r = q ∧ (q ≠ 1 → s4.refs = s.refs) ∧
      (q = 1 → (s4.ref r).lastEdge = none ∧ (s4.ref r).freqs = [] ∧ s4.fld (refA r 0x18) 15 8 = 0) := by
    have hcase : ∀ {u : State}, s.Moves statusRegs [] u → u.qstate r = q → q ≠ 1 →
        s.Moves statusRegs [.refs] u ∧ u.qstate r = q ∧ (q ≠ 1 → u.refs = s.refs) ∧
        (q = 1 → (u.ref r).lastEdge = none ∧ (u.ref r).freqs = [] ∧ u.fld (refA r 0x18) 15 8 = 0) := fun hu hv h1 =>
      ⟨hu.mono (fun _ => id) (by simp), hv, fun _ => hu.part (p := .refs) (by simp), fun e => absurd e h1⟩
    unfold s4
    split
    · have hrd : ((m1.event (refA r 0x30) 0).raise (144 + r) 0x40 false 0).rd (refA r 0x18) = m1.rd (refA r 0x18) :=
        hm.regs _ (not_refRegs_refA hr (by omega) (by omega))
      have href : ((m1.event (refA r 0x30) 0).raise (144 + r) 0x40 false 0).ref r = { x with qualBefore := old == 3, lastEdge := none } :=
        (State.ref_congr (hm.part (p := .refs) (by simp)) r).trans (m.ref_setRef_same r _)
      refine ⟨(((h3.1.mono (fun _ => id) (by simp)).trans (s3.restartMeas_moves hr)).setRef (by simp) r _).trans
        (hup hm), (State.qstate_congr hrd).trans (hset 0 (by omega) (by omega) (by omega)).2, fun e => absurd rfl e, fun _ => ?_⟩
      rw [href, State.fld_congr hrd]
      refine ⟨rfl, ?_, s3.fld_setFld_same 0 (by omega) (by omega)⟩
      exact congrArg Ref.freqs (State.ref_setRef_same _ r _)
    · exact hcase (hset 0 (by omega) (by omega) (by omega)).1 (hset 0 (by omega) (by omega) (by omega)).2 (by omega)
    · obtain ⟨ha, hb⟩ := hset (hi := 31) (lo := 24) (if old = 1 then s3.fld (refA r 0x18) 31 24 else 0) (by omega) (by omega) (by omega)
      exact hcase (ha.trans (hup (State.refReport_moves _ hr _ _ _ _))) (((State.refReport_moves _ hr _ _ _ _).qstate hr).trans hb)
        (by omega)
    · exact hcase (h3.1.trans (hup (s3.refCounted_moves hr 0x2C _ _ (by omega) _ _)))
        (((s3.refCounted_moves hr 0x2C _ _ (by omega) _ _).qstate hr).trans h3.2) (by omega)
    · exact hcase (h3.1.trans (hup (s3.refCounted_moves hr 0x2C _ _ (by omega) _ _)))
        (((s3.refCounted_moves hr 0x2C _ _ (by omega) _ _).qstate hr).trans h3.2) (by omega)
    · next hq1 _ _ _ _ => exact hcase h3.1 h3.2 hq1
  obtain ⟨hmv, hqs, hkeep, hloss⟩ := h4
  have h5 : s4.Moves statusRegs [.dials] s5 := s4.entriesFollow_moves _ r old q
  have hregs : s5.rd (refA r 0x18) = s4.rd (refA r 0x18) := State.rd_congr (s4.entriesFollow_regs r old q) _
  have hrefs5 : s5.refs = s4.refs := h5.part (p := .refs) (by simp)
  refine ⟨((hmv.mono (fun _ => id) (by simp)).trans (h5.mono (fun _ => id) (by simp))).setBit hst _ _,
    (s5.qstate_setFld r _ (by omega) (by omega) (by omega)).trans ((State.qstate_congr hregs).trans hqs),
    fun e => hrefs5.trans (hkeep e), fun e => ?_⟩
  obtain ⟨hedge, hfreqs, hcount⟩ := hloss e
  have hfld : (s5.setBit (refA r 0x18) 4 ((q == 2 || decide (3 ≤ q ∧ q ≤ 5)) && (s5.ref r).lastEdge.isSome)).fld (refA r 0x18) 15 8 = 0 :=
    (s5.fld_setFld_above _ (by omega) (by omega) (by omega)).trans ((State.fld_congr hregs 15 8).trans hcount)
  have href : s5.ref r = s4.ref r := State.ref_congr hrefs5 r
  exact ⟨(congrArg Ref.lastEdge href).trans hedge, (congrArg Ref.freqs href).trans hfreqs, hfld⟩

end

end Sys2Proof.Machine
end

section
/-! References: edges, their loss, and the updates of software references (R132 to R135, R138, R139, R167). -/

namespace Sys2Proof.Machine

open Sys2Proof.Cert
open State (Moves Selects)

theorem exec_referenceEdge (ref : Fin 84) (time low high : Nat) (s : State) :
    exec (.referenceEdge ref time low high) s = execReferenceEdge ref time low high s := rfl
theorem exec_loss (ref : Fin 84) (s : State) : exec (.loss ref) s = execLoss ref s := rfl
theorem exec_swTimeout (k : Fin 4) (s : State) : exec (.swTimeout k) s = execSwTimeout k s := rfl
theorem exec_swUpdate (k : Fin 4) (s : State) : exec (.swUpdate k) s = execSwUpdate k s := rfl

/-! ### QSTATE between boundaries (R138, R142) -/

/-- Selection runs at once, and leaves the reference alone. -/
theorem State.setQNow_requalifies (s : State) {r : Nat} (hr : r < 84) {q : Nat} (hq : q < 8) (h : q ≠ s.qstate r) :
    (s.setQNow r q).qstate r = q ∧ (q ≠ 1 → (s.setQNow r q).refs = s.refs) ∧
      (q = 1 → ((s.setQNow r q).ref r).lastEdge = none ∧ ((s.setQNow r q).ref r).freqs = [] ∧
        (s.setQNow r q).fld (refA r 0x18) 15 8 = 0) ∧ (s.setQNow r q).sdlNow = s.sdlNow := by
  have hq' := s.setQ_requalifies hr hq h
  have hm := ((s.setQ r q).dialsSelect_selects r).moves
  have hrd : ((s.setQ r q).dialsSelect r).rd (refA r 0x18) = (s.setQ r q).rd (refA r 0x18) :=
    hm.regs _ (not_dialRegs_refA hr (by omega))
  have hrefs : ((s.setQ r q).dialsSelect r).refs = (s.setQ r q).refs := hm.part (p := .refs) (by simp)
  rw [State.setQNow, if_neg (Ne.symm h), State.qstate_congr hrd, hrefs, State.ref_congr hrefs, State.fld_congr hrd]
  exact ⟨hq'.qstate, hq'.refs, hq'.loss, (hm.sdlNow (not_dialRegs_low (by decide)) (by simp)).trans
    (hq'.moves.sdlNow (not_refRegs_low (by decide)) (by simp))⟩

theorem State.lossDue_qstate {s : State} {r : Nat} (h : s.lossDue r = true) : 1 ≠ s.qstate r := by
  intro e
  simp [State.lossDue, ← e] at h

theorem loss_loses {r : Fin 84} {s : State} (hs : s.sundialRuns = true) (h : s.lossDue r.val = true) :
    completes (.loss r) s (fun t => t.qstate r.val = 1 ∧ (t.ref r.val).lastEdge = none ∧ (t.ref r.val).freqs = [] ∧
      t.fld (refA r.val 0x18) 15 8 = 0) := by
  refine completes_of_done (exec_loss r s) ?_
  obtain ⟨hq, _, hl, _⟩ := s.setQNow_requalifies r.isLt (by omega) (State.lossDue_qstate h)
  rw [hs, h]
  exact ⟨hq, hl rfl⟩

theorem swTimeout_loses {k : Fin 4} {s : State} (hs : s.sundialRuns = true) (h : s.lossDue (80 + k.val) = true) :
    completes (.swTimeout k) s (fun t => t.qstate (80 + k.val) = 1) := by
  refine completes_of_done (exec_swTimeout k s) ?_
  rw [hs, h]
  exact (s.setQNow_requalifies (by omega) (by omega) (State.lossDue_qstate h)).1

/-! ### A valid edge (R133, R138, R168) -/

/-- QSTATE after a brief LOSS, and after a long one (R138). -/
def State.resumedQ (s : State) (r : Nat) : Nat :=
  if (s.ref r).qualBefore = true ∧ s.sdlNow ≤ (s.ref r).quietSince + s.polFld (refA r 0x14) 15 0 * 1000000 then 3 else 2

theorem State.resumeRef_eq (s : State) (r : Nat) : s.resumeRef r = s.setQNow r (s.resumedQ r) := by
  unfold State.resumeRef State.resumedQ msNs
  extract_lets x brief
  congr 1
  simp only [brief, Bool.and_eq_true, decide_eq_true_eq, x]

theorem State.resumeRef_resumes (s : State) {r : Nat} (hr : r < 84) (h : s.qstate r = 1) :
    (s.resumeRef r).qstate r = s.resumedQ r ∧ (s.resumeRef r).refs = s.refs ∧ (s.resumeRef r).sdlNow = s.sdlNow := by
  have hq : s.resumedQ r = 3 ∨ s.resumedQ r = 2 := by
    unfold State.resumedQ
    split
    · exact .inl rfl
    · exact .inr rfl
  rw [State.resumeRef_eq]
  obtain ⟨h1, h2, _, h4⟩ := s.setQNow_requalifies hr (q := s.resumedQ r) (by omega) (by omega)
  exact ⟨h1, h2 (by omega), h4⟩

/-- What the raw errors of an edge change are dials (R168). -/
theorem State.dialEdge_dials (s : State) (n r te : Nat) (mark : Bool) :
    ∃ d, s.dialEdge n r te mark = s.setDial n d ∨ s.dialEdge n r te mark = s := by
  unfold State.dialEdge
  extract_lets d first
  split
  · exact ⟨d, .inr rfl⟩
  · split
    · exact ⟨d, .inr rfl⟩
    · exact ⟨_, .inl rfl⟩

theorem State.dialEdges_leave (s : State) (r te : Nat) (mark : Bool) (l : List Nat) :
    (l.foldl (fun s n => if s.follows n r then s.dialEdge n r te mark else s) s).regs = s.regs ∧
      (l.foldl (fun s n => if s.follows n r then s.dialEdge n r te mark else s) s).refs = s.refs := by
  refine foldl_keeps (fun u => u.regs = s.regs ∧ u.refs = s.refs) _ l (fun u n _ hu => ?_) s ⟨rfl, rfl⟩
  split
  · obtain ⟨d, e | e⟩ := u.dialEdge_dials n r te mark
    · rw [e]
      exact hu
    · rw [e]
      exact hu
  · exact hu

/-- What an edge at `te` that fits leaves of its reference (R133, R138). -/
structure State.EdgeTaken (r te : Nat) (s t : State) : Prop where
  lastEdge : (t.ref r).lastEdge = some te
  quietSince : (t.ref r).quietSince = s.sdlNow
  active : t.bit (refA r 0x18) 4 = true
  resumed : s.qstate r = 1 → t.qstate r = s.resumedQ r
  train : s.qstate r ≠ 1 → (t.ref r).swNext = (s.ref r).swNext

theorem State.EdgeTaken.done {r te : Nat} {s t : State} (h : State.EdgeTaken r te s t) :
    State.EdgeTaken r te s (((t.setNow s.now).setPending s.pending).setSumCycle []) :=
  ⟨h.lastEdge, h.quietSince, h.active, h.resumed, h.train⟩

theorem State.goodEdge_takes (s : State) {r : Nat} (hr : r < 84) (te : Nat) (mark : Bool) :
    State.EdgeTaken r te s (s.goodEdge r te mark) := by
  unfold State.goodEdge
  extract_lets x s1 s2 y s3
  have hq1 : (s.setRef r { s.ref r with lastEdge := some te }).Quiet s1 := State.tally_quiet _ _ _ _ _ _
  have href1 : s1.ref r = { s.ref r with lastEdge := some te } := (State.ref_congr hq1.refs r).trans (s.ref_setRef_same r _)
  have hm1 : s.Moves measRegs [.refs] s1 := ((Moves.refl _ _ s).setRef (by simp) r _).tallySdl r 2 1
  have hnow1 : s1.sdlNow = s.sdlNow := hm1.sdlNow (not_refRegs_low (by decide)) (by simp)
  have hqs1 : s1.qstate r = s.qstate r := hm1.qstate hr
  have hbrief : s1.resumedQ r = s.resumedQ r := by
    rw [State.resumedQ, State.resumedQ, href1, hnow1, State.polFld_congr (hm1.part (p := .policy) (by simp))]
  have h2 : s2.ref r = s1.ref r ∧ s2.sdlNow = s.sdlNow ∧ (s.qstate r = 1 → s2.qstate r = s.resumedQ r) := by
    unfold s2
    split
    next h1 =>
      obtain ⟨hq, hrefs, hnow⟩ := s1.resumeRef_resumes hr h1
      exact ⟨State.ref_congr hrefs r, hnow.trans hnow1, fun _ => hq.trans hbrief⟩
    next h1 => exact ⟨rfl, hnow1, fun e => absurd (hqs1.trans e) h1⟩
  obtain ⟨href2, hnow2, hres⟩ := h2
  have href3 : s3.ref r = { s2.ref r with quietSince := s2.sdlNow } := s2.ref_setRef_same r _
  obtain ⟨hregs, hrefs⟩ := s3.dialEdges_leave r te mark (List.range 16)
  have href : (List.foldl (fun s n => if s.follows n r then s.dialEdge n r te mark else s) s3 (List.range 16)).ref r =
      { s.ref r with lastEdge := some te, quietSince := s.sdlNow } := by
    rw [State.ref_congr hrefs, href3, href2, href1, hnow2]
  refine ⟨by rw [href], by rw [href], ?_, fun e => ?_, fun _ => by rw [href]⟩
  · rw [State.bit_congr (State.rd_congr hregs _)]
    exact State.bit_setBit_same _ true (by omega)
  · rw [State.qstate_congr (State.rd_congr hregs _)]
    exact (State.qstate_setFld _ r _ (by omega) (by omega) (by omega)).trans (hres e)

/-! ### An edge reaches Sundial (R133) -/

theorem State.refEdge_good {s : State} {r te a b : Nat} {mark : Bool} (h0 : s.qstate r ≠ 0) (h6 : s.qstate r ≠ 6)
    (hp : s.refPeriod r = some (a, b)) (hfit : ∀ l, (s.ref r).lastEdge = some l → edgeFits l te a b = true) :
    s.refEdge r te mark = s.goodEdge r te mark := by
  unfold State.refEdge
  rw [if_neg (by tauto), hp]
  cases hl : (s.ref r).lastEdge with
  | none => rfl
  | some l => exact if_pos (hfit l hl)

theorem State.refEdge_bad {s : State} {r te a b l : Nat} {mark : Bool} (h0 : s.qstate r ≠ 0) (h6 : s.qstate r ≠ 6)
    (hp : s.refPeriod r = some (a, b)) (hl : (s.ref r).lastEdge = some l) (hfit : edgeFits l te a b = false) :
    s.refEdge r te mark = (s.inc (refA r 0x28)).tallySdl r 3 1 := by
  unfold State.refEdge
  rw [if_neg (by tauto), hp, hl]
  exact if_neg (by rw [hfit]; exact Bool.false_ne_true)

/-- A record that QSTATE, policy and the registers do not see. -/
theorem State.EdgeTaken.of_setRef {r te : Nat} {s t : State} {x : Ref} (h : State.EdgeTaken r te (s.setRef r x) t)
    (hx : x.qualBefore = (s.ref r).qualBefore ∧ x.quietSince = (s.ref r).quietSince ∧ x.swNext = (s.ref r).swNext) :
    State.EdgeTaken r te s t := by
  obtain ⟨hqual, hquiet, hnext⟩ := hx
  refine ⟨h.lastEdge, h.quietSince, h.active, fun e => (h.resumed e).trans ?_, fun e => (h.train e).trans ?_⟩
  · unfold State.resumedQ
    rw [State.ref_setRef_same, hqual, hquiet]
    rfl
  · rw [State.ref_setRef_same, hnext]

/-! ### The commands (R132, R134, R135) -/

section

variable {ref : Fin 84} {s : State} {r time low high : Nat}

/-- When the edge comes, in Sundial's time (R134, R135; assumption 85). -/
def State.edgeAt (s : State) (time : Nat) : Nat := min (s.toSdl time) (s.sdlNow * 65536 + 65535)

/-- The pulse filter lets the edge through (R132). -/
def State.passesGlitch (s : State) (r low high : Nat) : Bool :=
  decide (((s.ref r).high = false ∨ s.polFld (refA r 0) 15 8 ≤ low) ∧ s.polFld (refA r 0) 15 8 ≤ high)

theorem State.glitchPass_fst (s : State) (r low high : Nat) : (s.glitchPass r low high).1 = s.passesGlitch r low high := by
  rw [Bool.eq_iff_iff]
  simp [State.glitchPass, State.passesGlitch]

theorem State.glitchPass_snd (s : State) (r low high : Nat) : ∃ v, (s.passesGlitch r low high = true → v = true) ∧
    (s.glitchPass r low high).2 = s.setRef r { s.ref r with high := v } := by
  refine ⟨_, fun h => ?_, rfl⟩
  simp only [State.passesGlitch, decide_eq_true_eq] at h
  simp [h.2]

/-- When a digital edge counts, at the grain of 1/64 cycle less its input latency (R134, R167). -/
def digitalAt (r at_ : Nat) : Nat := at_ / 1280 * 1280 - (Config.fuse (refA r 0)).toNat

theorem State.referenceEdge_digital (hr : 16 ≤ r ∧ r < 64) : ∃ v, (s.passesGlitch r low high = true → v = true) ∧
    s.referenceEdge r time low high = if s.passesGlitch r low high then
        (s.setRef r { s.ref r with high := v }).refEdge r (digitalAt r (s.edgeAt time)) false
      else s.setRef r { s.ref r with high := v } := by
  obtain ⟨v, hv, e⟩ := s.glitchPass_snd r low high
  refine ⟨v, hv, ?_⟩
  have h1 := s.glitchPass_fst r low high
  unfold State.referenceEdge
  extract_lets te
  rw [if_neg (by omega), if_pos hr.2, ← h1, ← e]
  split
  next u hu => rw [hu]; rfl
  next u hu => rw [hu]; rfl

end

section

variable {ref : Fin 84} {s : State} {time low high : Nat} (hs : s.sundialRuns = true)
include hs

theorem execReferenceEdge_runs : exec (.referenceEdge ref time low high) s = done s (s.referenceEdge ref.val time low high) := by
  rw [exec_referenceEdge, execReferenceEdge, if_pos hs]

theorem referenceEdge_analog (hr : ref.val < 16) :
    completes (.referenceEdge ref time low high) s (fun t => t.refs = s.refs ∧ t.dials = s.dials) := by
  refine completes_of_done (execReferenceEdge_runs hs) ?_
  rw [State.referenceEdge, if_pos hr]
  exact ⟨rfl, rfl⟩

variable (h0 : s.qstate ref.val ≠ 0) (h6 : s.qstate ref.val ≠ 6)

theorem referenceEdge_filtered (hr : 16 ≤ ref.val ∧ ref.val < 64) (hg : s.passesGlitch ref low high = false) :
    completes (.referenceEdge ref time low high) s (fun t => (t.ref ref.val).lastEdge = (s.ref ref.val).lastEdge ∧
      keeps [.refs] s t ∧ regsBut (fun _ => False) s t) := by
  obtain ⟨v, -, e⟩ := State.referenceEdge_digital (s := s) (time := time) (low := low) (high := high) hr
  rw [hg, if_neg Bool.false_ne_true] at e
  refine completes_of_state ((execReferenceEdge_runs hs).trans (congrArg (done s) e)) fun t ht => ?_
  have href : (t.ref ref).lastEdge = (s.ref ref).lastEdge := by rw [ht, State.ref_setRef_same]
  have hk : keeps [.refs] s t := ht ▸ keeps_of_sameBut (s.setRef_sameBut _ _)
  have hrd : ∀ a, t.rd a = s.rd a := fun a => ht ▸ s.rd_setRef ref _ a
  exact ⟨href, sameBut_done hk, fun a _ => hrd a⟩

include h0 h6

theorem referenceEdge_digital_taken {a b : Nat} (hr : 16 ≤ ref.val ∧ ref.val < 64) (hg : s.passesGlitch ref low high = true)
    (hp : s.refPeriod ref = some (a, b))
    (hfit : ∀ l, (s.ref ref.val).lastEdge = some l → edgeFits l (digitalAt ref (s.edgeAt time)) a b = true) :
    completes (.referenceEdge ref time low high) s (State.EdgeTaken ref (digitalAt ref (s.edgeAt time)) s) := by
  obtain ⟨v, -, e⟩ := State.referenceEdge_digital (s := s) (time := time) (low := low) (high := high) hr
  refine completes_of_done (execReferenceEdge_runs hs) (State.EdgeTaken.done ?_)
  have href := s.ref_setRef_same ref.val { s.ref ref.val with high := v }
  rw [e, hg, if_pos rfl, State.refEdge_good (s := s.setRef _ _) h0 h6 hp (by rw [href]; exact hfit)]
  exact (State.goodEdge_takes _ ref.isLt _ _).of_setRef ⟨rfl, rfl, rfl⟩

theorem referenceEdge_digital_bad {a b l : Nat} (hr : 16 ≤ ref.val ∧ ref.val < 64) (hg : s.passesGlitch ref low high = true)
    (hp : s.refPeriod ref = some (a, b)) (hl : (s.ref ref.val).lastEdge = some l)
    (hfit : edgeFits l (digitalAt ref (s.edgeAt time)) a b = false) :
    completes (.referenceEdge ref time low high) s (fun t =>
      t.nat (refA ref 0x28) = (s.nat (refA ref 0x28) + 1) % 2 ^ 32 ∧ t.ref ref = { s.ref ref with high := true } ∧
      (∀ k, k ≠ ref.val → t.ref k = s.ref k) ∧ keeps [.refs] s t ∧
      regsBut (fun a => counting a ∨ a = refA ref 0x28) s t) := by
  obtain ⟨v, hv, e⟩ := State.referenceEdge_digital (s := s) (time := time) (low := low) (high := high) hr
  refine completes_of_done (execReferenceEdge_runs hs) ?_
  have href := s.ref_setRef_same ref.val { s.ref ref.val with high := true }
  obtain rfl := hv hg
  rw [e, hg, if_pos rfl, State.refEdge_bad (s := s.setRef _ _) h0 h6 hp (by rw [href]; exact hl) hfit]
  obtain ⟨u, hu⟩ : ∃ u, u = s.setRef ref.val { s.ref ref.val with high := true } := ⟨_, rfl⟩
  rw [← hu] at href ⊢
  have hq : u.Quiet ((u.inc (refA ref 0x28)).tallySdl ref 3 1) := (u.inc_quiet _).trans (State.tally_quiet _ _ _ _ _ _)
  have hrd : ∀ {x : Nat}, ¬ counting x → ((u.inc (refA ref 0x28)).tallySdl ref 3 1).rd x = (u.inc (refA ref 0x28)).rd x :=
    fun hx => State.rd_tally_ne _ _ _ _ (by omega) fun hc => hx (countReg_counting hc)
  have h28 : ¬ counting (refA ref 0x28) := by unfold counting refA invA srcA curA; omega
  refine ⟨(State.nat_congr (hrd h28)).trans ?_, (State.ref_congr hq.refs _).trans href,
    fun k hk => (State.ref_congr hq.refs k).trans ?_, sameBut_done (keeps_trans (keeps_of_sameBut ?_) (hq.keeps _)), fun x hx => ?_⟩
  · rw [State.nat_inc_same, hu]
    rfl
  · rw [hu, State.ref_setRef_ne s _ hk]
  · exact hu ▸ s.setRef_sameBut _ _
  · rw [not_or] at hx
    exact (hrd hx.1).trans ((u.rd_inc_ne hx.2).trans (by rw [hu]; rfl))

/-- A tap's edge, at the grain of a cycle (R134, R167). -/
theorem referenceEdge_tap (hr : 64 ≤ ref.val ∧ ref.val < 80) :
    (s.tapLost ref = true → completes (.referenceEdge ref time low high) s (fun t => t.refs = s.refs ∧ t.dials = s.dials)) ∧
    (s.tapLost ref = false → ∀ a b, s.refPeriod ref = some (a, b) →
      (∀ l, (s.ref ref.val).lastEdge = some l → edgeFits l (s.edgeAt time / 81920 * 81920) a b = true) →
      completes (.referenceEdge ref time low high) s (State.EdgeTaken ref (s.edgeAt time / 81920 * 81920) s)) := by
  have e : s.referenceEdge ref time low high = if s.tapLost ref then s else
      s.refEdge ref (s.edgeAt time / 81920 * 81920) false := by
    unfold State.referenceEdge
    extract_lets te
    rw [if_neg (by omega), if_neg (by omega), if_pos hr.2]
    rfl
  refine ⟨fun hl => ?_, fun hl a b hp hfit => ?_⟩
  · refine completes_of_done (execReferenceEdge_runs hs) ?_
    rw [e, hl, if_pos rfl]
    exact ⟨rfl, rfl⟩
  · refine completes_of_done (execReferenceEdge_runs hs) (State.EdgeTaken.done ?_)
    rw [e, hl, if_neg Bool.false_ne_true, State.refEdge_good h0 h6 hp hfit]
    exact s.goodEdge_takes ref.isLt _ _

/-- A software reference's own edge (R135). -/
theorem referenceEdge_software (hr : 80 ≤ ref.val) (h1 : s.qstate ref ≠ 1)
    (hp : (s.ref ref).swNext.getD (s.edgeAt time) ≤ s.sdlNow * 65536 + 65535) :
    completes (.referenceEdge ref time low high) s (fun t =>
      (t.ref ref).swNext = some ((s.ref ref).swNext.getD (s.edgeAt time) + swPeriod (s.ref ref).swApplied) ∧
      ∀ a b, s.refPeriod ref = some (a, b) →
        (∀ l, (s.ref ref.val).lastEdge = some l → edgeFits l ((s.ref ref).swNext.getD (s.edgeAt time)) a b = true) →
        (t.ref ref).lastEdge = some ((s.ref ref).swNext.getD (s.edgeAt time))) := by
  obtain ⟨p, hpe⟩ : ∃ p, p = (s.ref ref).swNext.getD (s.edgeAt time) := ⟨_, rfl⟩
  rw [← hpe] at hp ⊢
  obtain ⟨u, hu⟩ : ∃ u, u = s.setRef ref { s.ref ref with swNext := some (p + swPeriod (s.ref ref).swApplied) } := ⟨_, rfl⟩
  have href : u.ref ref = { s.ref ref with swNext := some (p + swPeriod (s.ref ref).swApplied) } := hu ▸ s.ref_setRef_same _ _
  have hq : u.qstate ref = s.qstate ref := by rw [hu]; rfl
  have e : s.referenceEdge ref time low high = u.refEdge ref p false := by
    unfold State.referenceEdge
    extract_lets te
    rw [if_neg (by omega), if_neg (by omega), if_neg (by omega)]
    unfold State.swEdge
    extract_lets x q
    have hqp : q = p := hpe.symm
    rw [hqp, if_neg (by omega), hu]
  have hgood : u.qstate ref ≠ 1 → ((u.goodEdge ref p false).ref ref).swNext = (u.ref ref).swNext :=
    (u.goodEdge_takes ref.isLt p false).train
  refine completes_of_done (execReferenceEdge_runs hs) ?_
  rw [e]
  constructor
  · show ((u.refEdge ref p false).ref ref).swNext = _
    have hnext : (u.ref ref).swNext = some (p + swPeriod (s.ref ref).swApplied) := by rw [href]
    rw [← hnext]
    unfold State.refEdge
    split
    · rfl
    · split
      · split
        · exact hgood (by rw [hq]; exact h1)
        · exact congrArg Ref.swNext (State.ref_congr ((u.inc_quiet _).trans (State.tally_quiet _ _ _ _ _ _)).refs _)
      · exact hgood (by rw [hq]; exact h1)
      · rfl
  · intro a b hper hfit
    rw [State.refEdge_good (s := u) (a := a) (b := b) (by rw [hq]; exact h0) (by rw [hq]; exact h6) (by rw [hu]; exact hper)
      (by rw [href]; exact hfit)]
    exact (u.goodEdge_takes ref.isLt p false).lastEdge

end

/-! ### Updates of a software reference (R135, R362) -/

/-- The count of an access touches neither TOP and HIF nor what lies above Inventory. -/
theorem State.rd_counted (s : State) {a : Nat} (ha : a < 0x20000 ∨ 0x40000 ≤ a) : (s.tallyHif 3 1).rd a = s.rd a :=
  s.rd_tallyHif_ne 3 1 fun hc => by
    unfold countReg reportReg invA srcA curA at hc
    omega

/-- What an update writes and what bounds it do not see the access. -/
theorem State.swOperands_counted (s : State) {r o : Nat} (hr : r < 84) :
    (s.tallyHif 3 1).int (refA r o) = s.int (refA r o) := by
  rw [State.int, State.int, State.nat_congr (s.rd_counted (.inr (by unfold refA; omega)))]

/-- The sum of the phase steps that wait for the boundary (R135). -/
def Ref.adjSum (x : Ref) : Int := match x.swPending with
  | some (_, a) => a
  | none => 0

/-- An update within the limit waits, and where the reference had lost its edges they resume. -/
theorem State.swAccept_waits (s : State) {r : Nat} (hr : r < 84) (f a : Int) :
    ((s.swAccept r f a).ref r).swPending = some (f, (s.ref r).adjSum + a) ∧ ((s.swAccept r f a).ref r).swAt = s.sdlNow := by
  have hsum : (match (s.ref r).swPending with
      | some (_, a) => a
      | none => 0) = (s.ref r).adjSum := rfl
  unfold State.swAccept
  extract_lets x sum v
  have hv : (v.ref r).swPending = some (f, (s.ref r).adjSum + a) ∧ (v.ref r).swAt = s.sdlNow := by
    rw [State.ref_setRef_same]
    exact ⟨congrArg (fun b => some (f, b + a)) hsum, rfl⟩
  have hc : ((v.swCatchUp r).ref r).swPending = (v.ref r).swPending ∧ ((v.swCatchUp r).ref r).swAt = (v.ref r).swAt ∧
      (v.swCatchUp r).qstate r = v.qstate r := by
    unfold State.swCatchUp
    extract_lets y
    split
    · exact ⟨rfl, rfl, rfl⟩
    · extract_lets per
      rw [State.ref_setRef_same]
      exact ⟨rfl, rfl, rfl⟩
  obtain ⟨hpend, hat, hq⟩ := hc
  split
  next h1 =>
    rw [State.ref_congr ((v.swCatchUp r).resumeRef_resumes hr (hq.trans h1)).2.1, hpend, hat]
    exact hv
  next => exact hv

section

variable {k : Fin 4} {s : State} (h : hostAt s (refA (80 + k.val) 0x48)) (hf : s.swFed k = false)
include h hf

omit hf in
/-- The access counted, the update is taken or refused. -/
theorem execSwUpdate_acts (hf : s.swFed k = false) : exec (.swUpdate k) s = done s ((s.tallyHif 3 1).swUpdate k) := by
  obtain ⟨hreach, hlow, hin⟩ := h
  have hfed : (s.tallyHif 3 1).swFed k = false := by
    rw [← hf, State.swFed, State.swFed, State.fld_congr (s.rd_counted (by decide))]
    have hx : ∀ n, (s.tallyHif 3 1).rd (twnA (0x200 + 4 * n)) = s.rd (twnA (0x200 + 4 * n)) := fun n =>
      s.rd_counted (.inr (by unfold twnA; omega))
    simp only [State.bit_congr (hx _), State.fld_congr (hx _)]
  rw [exec_swUpdate, execSwUpdate, s.hostTo_acts _ hreach hlow hin, State.swUpdateWrite, hfed]
  rfl

theorem swUpdate_waits (hl : |s.int (refA (80 + k.val) 0x44)| ≤ (s.polFld (refA (80 + k.val) 0x50) 15 0 * 65536 : Nat)) :
    completes (.swUpdate k) s (fun t => (t.ref (80 + k.val)).swPending = some (s.int (refA (80 + k.val) 0x40),
      (s.ref (80 + k.val)).adjSum + s.int (refA (80 + k.val) 0x44)) ∧ (t.ref (80 + k.val)).swAt = s.sdlNow) := by
  refine completes_of_done (execSwUpdate_acts h hf) ?_
  obtain ⟨r, hr, hr84⟩ : ∃ r, r = 80 + k.val ∧ r < 84 := ⟨_, rfl, by omega⟩
  obtain ⟨u, hu⟩ : ∃ u, u = s.tallyHif 3 1 := ⟨_, rfl⟩
  have hq : s.Quiet u := hu ▸ s.tallyHif_quiet 3 1
  have hnow : u.sdlNow = s.sdlNow := hu ▸ ((Moves.refl measRegs [] s).tally (by omega) 3 1 none).sdlNow
    (not_refRegs_low (by decide)) (by simp)
  rw [← hr] at hl ⊢
  rw [← hu]
  have hint : ∀ o, u.int (refA r o) = s.int (refA r o) := fun o => hu ▸ s.swOperands_counted hr84
  have e : u.swUpdate k = u.swAccept r (s.int (refA r 0x40)) (s.int (refA r 0x44)) := by
    unfold State.swUpdate
    extract_lets q adj
    have hqr : q = r := hr.symm
    have hadj : adj = s.int (refA r 0x44) := by rw [← hint, ← hqr]
    rw [hadj, hqr, if_neg (by rw [State.polFld_congr hq.policy]; omega), hint]
  rw [e, ← hnow, ← State.ref_congr hq.refs]
  exact u.swAccept_waits hr84 _ _

theorem swUpdate_refused (hl : (s.polFld (refA (80 + k.val) 0x50) 15 0 * 65536 : Nat) < |s.int (refA (80 + k.val) 0x44)|) :
    completes (.swUpdate k) s (fun t => t.refs = s.refs ∧
      t.nat (refA (80 + k.val) 0x58) = (s.nat (refA (80 + k.val) 0x58) + 1) % 2 ^ 32 ∧
      t.bit (refA (80 + k.val) 0x30) 9 = true ∧ keeps [] s t) := by
  refine completes_of_done (execSwUpdate_acts h hf) ?_
  obtain ⟨r, hr, hr84⟩ : ∃ r, r = 80 + k.val ∧ r < 84 := ⟨_, rfl, by omega⟩
  obtain ⟨u, hu⟩ : ∃ u, u = s.tallyHif 3 1 := ⟨_, rfl⟩
  have hq : s.Quiet u := hu ▸ s.tallyHif_quiet 3 1
  rw [← hr] at hl ⊢
  rw [← hu]
  have e : u.swUpdate k = ((u.inc (refA r 0x58)).event (refA r 0x30) 9).raise (144 + r) 0x45 false (u.nat (refA r 0x44)) := by
    unfold State.swUpdate
    extract_lets q adj
    have hqr : q = r := hr.symm
    have hadj : adj = s.int (refA r 0x44) := by
      show u.int (refA (80 + k.val) 0x44) = _
      rw [← hr, hu, s.swOperands_counted hr84]
    rw [hadj, hqr, if_pos (by rw [State.polFld_congr hq.policy]; exact hl)]
  have hqt : u.Quiet (u.swUpdate k) := e ▸ ((u.inc_quiet _).trans (State.event_quiet _ _ _)).trans (State.raiseAs_quiet _ _ _ _ _ _)
  have hraise : ∀ {a}, 0x80000 ≤ a → (u.swUpdate k).rd a = ((u.inc (refA r 0x58)).event (refA r 0x30) 9).rd a := fun ha => by
    rw [e]
    exact State.rd_raiseAs_ne _ _ _ _ _ (not_reportReg_sdl (by omega) ha)
  have hcnt : ((u.inc (refA r 0x58)).event (refA r 0x30) 9).rd (refA r 0x58) = (u.inc (refA r 0x58)).rd (refA r 0x58) :=
    State.rd_event_ne _ _ (by unfold refA; omega) fun k n base hb => by
      rw [blockOf_sdl (refA_sdl hr84 (by omega))] at hb
      cases hb
      unfold refA sdlA
      omega
  refine ⟨hqt.refs.trans hq.refs, ?_, ?_, sameBut_done ((hq.trans hqt).keeps _)⟩
  · refine (State.nat_congr ((hraise (refA_sdl hr84 (by omega)).1).trans hcnt)).trans ?_
    rw [State.nat_inc_same, hu, State.nat_congr (s.rd_counted (.inr (by unfold refA; omega)))]
  · refine (State.bit_congr (hraise (refA_sdl hr84 (by omega)).1) 9).trans ?_
    exact State.bit_event_sdl _ (refA_sdl hr84 (by omega)) (by unfold refA sdlA; omega) (by omega)

end

/-- Settles O48: each command's lemma says what becomes of the reference, after selection has followed it. -/
theorem sundialReferences : Obligations.SundialReferences := by
  unfold Obligations.SundialReferences
  intro s
  refine ⟨fun ref time low high hs h0 h6 => ⟨referenceEdge_analog hs, fun h16 h64 => ⟨?_, ?_, ?_⟩, fun h64 h80 => ?_, ?_⟩,
    fun r hs hl => loss_loses hs hl, fun k hs hl => swTimeout_loses hs hl, fun k h hf => ⟨swUpdate_waits h hf, swUpdate_refused h hf⟩⟩
  · rintro hg a b ⟨hp, hfit⟩
    exact completes_mono (referenceEdge_digital_taken hs h0 h6 ⟨h16, h64⟩ hg hp hfit) fun t ht =>
      ⟨ht.lastEdge, ht.quietSince, ht.active, ht.resumed⟩
  · intro hg a b l hp hl hfit
    exact referenceEdge_digital_bad hs h0 h6 ⟨h16, h64⟩ hg hp hl hfit
  · exact referenceEdge_filtered hs ⟨h16, h64⟩
  · obtain ⟨hlost, htaken⟩ := referenceEdge_tap (low := low) (high := high) (time := time) hs h0 h6 ⟨h64, h80⟩
    exact ⟨hlost, fun hl a b ⟨hp, hfit⟩ => completes_mono (htaken hl a b hp hfit) fun t ht =>
      ⟨ht.lastEdge, ht.quietSince, ht.active, ht.resumed⟩⟩
  · intro h80 h1 p hp
    exact completes_mono (referenceEdge_software hs h0 h6 h80 h1 hp) fun t ⟨hnext, hedge⟩ =>
      ⟨hnext, fun a b ⟨hper, hfit⟩ => hedge a b hper hfit⟩

end Sys2Proof.Machine
end

section
/-! Time-transfer messages and their loss (R184, R187, R190). -/

namespace Sys2Proof.Machine

open Sys2Proof.Cert
open State (Moves)

theorem exec_ttcMessage (ch : Fin 192) (x : TtcIn) (s : State) : exec (.ttcMessage ch x) s = execTtcMessage ch x s := rfl
theorem exec_ttcLoss (ch : Fin 192) (s : State) : exec (.ttcLoss ch) s = execTtcLoss ch s := rfl

/-! ### An item of the time-transfer furrow (R188, R246) -/

/-- Curator, Inventory and the furrows. -/
def furSide : Area where
  has a := 0x20000 ≤ a ∧ a < 0x40000 ∨ 0x900000 ≤ a ∧ a < 0xA00000
  low a h k := .inl ⟨h, k⟩
  summary {a n base k} h hb := by
    obtain ⟨e, he, ⟨h1, h2⟩, h3, h4⟩ := blockOf_same hb
    fin_cases he <;> dsimp only at * <;> omega

theorem furA_furSide {F o : Nat} (hF : F < 64) (ho : o < 0x40) : furSide.has (furA F o) := .inr (by unfold furA; omega)

theorem furSrc_lt {F : Nat} (hF : F < 64) : furSrc F < 1024 := by
  unfold furSrc
  split
  · omega
  · split
    · omega
    · split <;> omega

section

variable (s : State) {F : Nat} (hF : F < 64)
include hF

theorem State.showFur_moves : s.Moves furSide [.furs] (s.showFur F) := by
  unfold State.showFur
  extract_lets n s1
  have h1 : s.Moves furSide [.furs] s1 := ((Moves.refl _ _ s).setFld (furA_furSide hF (by omega)) _ _ _).setBit
    (furA_furSide hF (by omega)) _ _
  exact h1.iteThen ((Moves.refl _ _ s1).setFld (furA_furSide hF (by omega)) _ _ _)

omit hF in
theorem State.tallyFur_moves (F ev n : Nat) : s.Moves furSide [.furs] (s.tallyFur F ev n) :=
  (Moves.refl _ _ s).iteThen ((Moves.refl _ _ s).tally (by omega) _ _ _)

theorem State.dropItem_moves (prod len : Nat) : s.Moves furSide [.furs] (s.dropItem F prod len) := by
  have hA : ∀ {o}, o < 0x40 → furSide.has (furA F o) := furA_furSide hF
  unfold State.dropItem
  extract_lets f s1 f1
  have h1 : s.Moves furSide [.furs] s1 := ((((Moves.refl _ _ s).inc (hA (by omega))).wrN (hA (by omega)) _).event
    (hA (by omega)) _).trans (State.tallyFur_moves _ _ _ _)
  exact (h1.setFur (by simp) F f1).raiseLim (furSrc_lt hF) _ _ _ _ _

theorem State.publish_moves (prod kind : Nat) (stamped : Bool) (words : List Half) :
    s.Moves furSide [.furs] (s.publish F prod kind stamped words).2 := by
  have hA : ∀ {o}, o < 0x40 → furSide.has (furA F o) := furA_furSide hF
  unfold State.publish
  extract_lets f len fl9 fl8 hdr item before level f1 s1
  have h1 : s.Moves furSide [.furs] s1 := (((((Moves.refl _ _ s).setFur (by simp) F f1).trans (State.showFur_moves _ hF)).inc
    (hA (by omega))).trans (State.tallyFur_moves _ _ _ _)).trans (State.tallyFur_moves _ _ _ _)
  split
  · exact s.dropItem_moves hF prod len
  · exact h1.iteThen ((((Moves.refl _ _ s1).setBit (hA (by omega)) _ _).inc (hA (by omega))).event (hA (by omega)) _ |>.trans
      (State.tallyFur_moves _ _ _ _))

end

/-! ### Registers of a channel -/

theorem ttcA_sdl {n o : Nat} (hn : n < 192) (ho : o < 0x40) : 0x80000 ≤ ttcA n o ∧ ttcA n o < 0x100000 := by
  unfold ttcA; omega

theorem State.ttcEvent_quiet (s : State) (n b : Nat) : s.Quiet (s.ttcEvent n b) := by
  unfold State.ttcEvent
  extract_lets t
  split
  · exact s.event_quiet _ _
  · exact (s.event_quiet _ _).trans (State.summary_quiet _ _ _)

/-- An event of a channel goes to TTC_EVENTS and to two SUMMARY registers (R419). -/
theorem State.rd_ttcEvent (s : State) {n a : Nat} (hn : n < 192) (b : Nat) (ha : 0x80000 ≤ a ∧ a < 0x100000) :
    (s.ttcEvent n b).rd a = (s.event (ttcA n 0x34) b).rd a := by
  unfold State.ttcEvent
  extract_lets t
  split
  · rfl
  · exact State.rd_summary_ne _ _ (by unfold rxA; split <;> omega)

theorem State.rd_ttcEvent_ne (s : State) {n a : Nat} (hn : n < 192) (b : Nat) (ha : 0x80000 ≤ a ∧ a < 0x100000) (h8 : a ≠ sdlA 8)
    (h34 : a ≠ ttcA n 0x34) : (s.ttcEvent n b).rd a = s.rd a :=
  (s.rd_ttcEvent hn b ha).trans (s.rd_event_ne b h34 fun k m base e => by
    rw [blockOf_sdl (ttcA_sdl hn (by omega))] at e
    cases e
    exact h8)

theorem ttcA_ne {n o p : Nat} (h : o ≠ p) : ttcA n o ≠ ttcA n p := by unfold ttcA; omega

theorem ttcA_ne_summary {n o : Nat} : ttcA n o ≠ sdlA 8 := by unfold ttcA sdlA; omega

/-! ### The checks of a message (R187) -/

section

variable {s : State} {n : Nat} {x : TtcIn}

/-- The message is not taken: a frame of it was lost or bad. -/
def State.ttcSpoilt (s : State) (n : Nat) : Bool := (s.ttc n).rxBad || anyBit (s.nat (rxA n 0x208)) [2, 3]

/-- A time of the message, completed by its arrival. -/
def State.ttcFull (s : State) (n : Nat) (w : BitVec 48) : Int := fullTime w.toNat ((s.ttc n).rxMfas0 / 65536 / 1000000000)

/-- Two times are within a second. -/
def withinSecond (a : Int) (b : Nat) : Prop := |a - (b : Int)| ≤ 65536000000000

theorem State.ttcTake_spoilt (h : s.ttcSpoilt n = true) : s.ttcTake n x = s.inc (ttcA n 0x24) := if_pos h

theorem State.ttcTake_garbled (h : s.ttcSpoilt n = false) (hx : crc8 (ttcBytes x) ≠ x.crc ∨ x.version ≠ 1) :
    s.ttcTake n x = s.inc (ttcA n 0x28) := by
  unfold State.ttcTake
  extract_lets c arrive sec one dep arr t1 far off t4 u
  have hsp : ¬ (c.rxBad || anyBit (s.nat (rxA n 0x208)) [2, 3]) = true := fun e => Bool.false_ne_true (h.symm.trans e)
  rw [if_neg hsp, if_pos hx]

theorem State.ttcTake_far (h : s.ttcSpoilt n = false) (hc : crc8 (ttcBytes x) = x.crc) (hv : x.version = 1)
    (hd : ¬ withinSecond (s.ttcFull n x.dep) (s.ttc n).rxMfas0) :
    ∃ d, s.ttcTake n x = ((s.inc (ttcA n 0x2C)).ttcEvent n 2).raiseLim 1 0 (832 + n) 0x61 false d := by
  unfold State.ttcTake
  extract_lets c arrive sec one dep arr t1 far off t4 u
  have hsp : ¬ (c.rxBad || anyBit (s.nat (rxA n 0x208)) [2, 3]) = true := fun e => Bool.false_ne_true (h.symm.trans e)
  have hoff : one < off := lt_max_of_lt_left (not_le.1 hd)
  rw [if_neg hsp, if_neg (by tauto), if_pos hoff]
  exact ⟨_, rfl⟩

/-- A message that is kept: what it answers passes, and what answers nothing known is counted. -/
theorem State.ttcTake_near (h : s.ttcSpoilt n = false) (hc : crc8 (ttcBytes x) = x.crc) (hv : x.version = 1)
    (hd : withinSecond (s.ttcFull n x.dep) (s.ttc n).rxMfas0) :
    (x.echoValid = false → s.ttcTake n x = (s.ttcKeep n x (s.ttc n).rxMfas0).inc (ttcA n 0x30)) ∧
    (∀ t1 t4, x.echoValid = true → keptAt (s.ttc n).deps x.echoSeq.toNat = some t1 →
      withinSecond (s.ttcFull n x.arr) t1.1 → keptAt (s.ttc n).arrs ((x.seq.toNat + 255) % 256) = some t4 →
      s.ttcTake n x = (s.ttcKeep n x (s.ttc n).rxMfas0).ttcPass n x t1 t4 (s.ttcFull n x.arr) (s.ttcFull n x.dep)) := by
  unfold State.ttcTake
  extract_lets c arrive sec one dep arr t1 far off t4 u
  have hsp : ¬ (c.rxBad || anyBit (s.nat (rxA n 0x208)) [2, 3]) = true := fun e => Bool.false_ne_true (h.symm.trans e)
  rw [if_neg hsp, if_neg (by tauto)]
  have hdep : far dep arrive ≤ one := hd
  refine ⟨fun he => ?_, fun p1 p4 he hp1 ha hp4 => ?_⟩
  · have ht : t1 = none := if_neg (by simp [he])
    have hoff : ¬ one < off := by
      unfold off
      rw [ht]
      exact not_lt.2 (max_le hdep (show (0 : Int) ≤ 65536000000000 by decide))
    rw [if_neg hoff, ht]
  · have ht : t1 = some p1 := (if_pos he).trans hp1
    have hoff : ¬ one < off := by
      unfold off
      rw [ht]
      exact not_lt.2 (max_le hdep ha)
    have ht4 : t4 = some p4 := hp4
    rw [if_neg hoff, ht, ht4]
    rfl

end

/-! ### What a message leaves (R187, R188) -/

section

variable (s : State) {n : Nat} (hn : n < 192) (x : TtcIn)

/-- The arrival is kept, with those before it. -/
def State.arrsKept (s : State) (n : Nat) (x : TtcIn) : List (Nat × Nat × Nat) :=
  (x.seq.toNat, (s.ttc n).rxMfas0, (s.ttc n).rxSteps) :: (s.ttc n).arrs.take 15

theorem State.ttcKeep_keeps : ((s.ttcKeep n x (s.ttc n).rxMfas0).ttc n).arrs = s.arrsKept n x ∧
    sameBut [.ttcs] s (s.ttcKeep n x (s.ttc n).rxMfas0) ∧
    ∀ {a}, a ≠ ttcA n 0xC → (s.ttcKeep n x (s.ttc n).rxMfas0).rd a = s.rd a := by
  obtain ⟨c, hc⟩ : ∃ c, c = { s.ttc n with arrs := s.arrsKept n x, echoSeq := some x.seq.toNat } := ⟨_, rfl⟩
  have e : s.ttcKeep n x (s.ttc n).rxMfas0 =
      ((s.setTtc n c).setFld (ttcA n 0xC) 7 4 x.user.toNat).setFld (ttcA n 0xC) 15 8 x.seq.toNat := by rw [hc]; rfl
  have harrs : ((s.setTtc n c).ttc n).arrs = s.arrsKept n x := by rw [State.ttc_setTtc_same, hc]
  rw [e]
  refine ⟨harrs, sameBut_trans (s.setTtc_sameBut n c) fun p _ => by cases p <;> rfl, fun ha => ?_⟩
  rw [State.rd_setFld_ne _ _ _ _ ha, State.rd_setFld_ne _ _ _ _ ha, State.rd_setTtc]

include hn

/-- RX_VALID rises with its event and its clearing report, where it was not set (R187, R190). -/
theorem State.rxValid_rises (u : State) (hu : u = if s.bit (ttcA n 0xC) 0 then s else
      ((s.setBit (ttcA n 0xC) 0 true).ttcEvent n 0).raise (832 + n) 0x60 true 0) :
    s.Quiet u ∧ u.bit (ttcA n 0xC) 0 = true ∧ u.rd (ttcA n 0x20) = s.rd (ttcA n 0x20) := by
  rw [hu]
  split
  next h => exact ⟨.refl s, h, rfl⟩
  next =>
    have hrd : ∀ {o}, o < 0x34 → (((s.setBit (ttcA n 0xC) 0 true).ttcEvent n 0).raise (832 + n) 0x60 true 0).rd (ttcA n o) =
        (s.setBit (ttcA n 0xC) 0 true).rd (ttcA n o) := fun ho =>
      (State.rd_raiseAs_ne _ _ _ _ _ (not_reportReg_sdl (by omega) (ttcA_sdl hn (by omega)).1)).trans
        (State.rd_ttcEvent_ne _ hn 0 (ttcA_sdl hn (by omega)) ttcA_ne_summary (ttcA_ne (by omega)))
    refine ⟨((s.setBit_quiet _ _ _).trans (State.ttcEvent_quiet _ _ _)).trans (State.raiseAs_quiet _ _ _ _ _ _), ?_, ?_⟩
    · rw [State.bit_congr (hrd (by omega)), State.bit_setBit_same _ _ (by omega)]
    · rw [hrd (by omega), State.rd_setBit_ne _ _ _ (ttcA_ne (by omega))]

theorem State.ttcPass_passes (t1 t4 : Nat × Nat) (t2 t3 : Int) : ((s.ttcPass n x t1 t4 t2 t3).ttc n).arrs = (s.ttc n).arrs ∧
    (s.ttcPass n x t1 t4 t2 t3).nat (ttcA n 0x20) = (s.nat (ttcA n 0x20) + 1) % 2 ^ 32 ∧
    (s.ttcPass n x t1 t4 t2 t3).bit (ttcA n 0xC) 0 = true := by
  unfold State.ttcPass
  extract_lets s1 s2 c k due s3 head
  obtain ⟨hq, hbit, hcount⟩ := s1.rxValid_rises hn s2 rfl
  have harrs : (s3.ttc n).arrs = (s.ttc n).arrs := by
    have hc : c.arrs = (s.ttc n).arrs := congrArg Ttc.arrs (State.ttc_congr hq.ttcs n)
    rw [← hc]
    unfold s3
    rw [State.ttc_setTtc_same]
  have hnat : s3.nat (ttcA n 0x20) = (s.nat (ttcA n 0x20) + 1) % 2 ^ 32 :=
    (State.nat_congr hcount).trans (s.nat_inc_same _)
  split
  · have hm := s3.publish_moves (F := 36) (by omega) 112 6 false
      (head ++ tsWords t1.1 ++ tsWords t2.toNat ++ tsWords t3.toNat ++ tsWords t4.1)
    have hrd : ∀ {o}, o < 0x40 → ¬ furSide.has (ttcA n o) := fun ho h => by
      have := ttcA_sdl hn ho
      rcases h with h | h <;> omega
    rw [State.ttc_congr (hm.part (p := .ttcs) (by simp)), State.nat_congr (hm.regs _ (hrd (by omega))),
      State.bit_congr (hm.regs _ (hrd (by omega)))]
    exact ⟨harrs, hnat, hbit⟩
  · exact ⟨harrs, hnat, hbit⟩

end

/-! ### The commands -/

section

variable {ch : Fin 192} {s : State} {x : TtcIn} (hr : s.ttcRuns ch = true)
include hr

theorem execTtcMessage_runs : exec (.ttcMessage ch x) s = done s (s.ttcTake ch x) := by
  rw [exec_ttcMessage, execTtcMessage, if_pos hr]

/-- A message that is not taken is counted at `a`. -/
theorem ttcMessage_counted {a : Nat} (h : s.ttcTake ch x = s.inc (ttcA ch a)) :
    completes (.ttcMessage ch x) s (fun t => t.nat (ttcA ch a) = (s.nat (ttcA ch a) + 1) % 2 ^ 32 ∧ sameBut [] s t) := by
  refine completes_of_done (execTtcMessage_runs hr) ?_
  rw [h]
  exact ⟨s.nat_inc_same _, sameBut_done (s.wrN_sameBut _ _)⟩

variable (hsp : s.ttcSpoilt ch = false) (hc : crc8 (ttcBytes x) = x.crc) (hv : x.version = 1)
include hsp hc hv

theorem ttcMessage_far (hd : ¬ withinSecond (s.ttcFull ch x.dep) (s.ttc ch).rxMfas0) :
    completes (.ttcMessage ch x) s (fun t =>
      t.nat (ttcA ch 0x2C) = (s.nat (ttcA ch 0x2C) + 1) % 2 ^ 32 ∧ t.ttcs = s.ttcs) := by
  obtain ⟨d, e⟩ := State.ttcTake_far hsp hc hv hd
  refine completes_of_state ((execTtcMessage_runs hr).trans (congrArg (done s) e)) fun t ht => ?_
  obtain ⟨u, hu⟩ : ∃ u, u = s.inc (ttcA ch 0x2C) := ⟨_, rfl⟩
  rw [← hu] at ht
  have hq : u.Quiet t := ht ▸ (u.ttcEvent_quiet ch 2).trans (State.raiseLim_quiet _ 1 0 (832 + ch) 0x61 false d)
  have ha := ttcA_sdl ch.isLt (o := 0x2C) (by omega)
  have hrd : t.rd (ttcA ch 0x2C) = u.rd (ttcA ch 0x2C) := ht ▸ (State.rd_raiseLim_ne _ _ _ _ _ _
    (not_reportReg_sdl (by omega) ha.1)).trans (u.rd_ttcEvent_ne ch.isLt 2 ha ttcA_ne_summary (ttcA_ne (by omega)))
  have hnat : t.nat (ttcA ch 0x2C) = (s.nat (ttcA ch 0x2C) + 1) % 2 ^ 32 :=
    (State.nat_congr hrd).trans (hu ▸ s.nat_inc_same (ttcA ch 0x2C))
  exact ⟨hnat, hq.ttcs.trans (hu ▸ rfl)⟩

theorem ttcMessage_unanswered (hd : withinSecond (s.ttcFull ch x.dep) (s.ttc ch).rxMfas0) (he : x.echoValid = false) :
    completes (.ttcMessage ch x) s (fun t => (t.ttc ch).arrs = s.arrsKept ch x ∧
      t.nat (ttcA ch 0x30) = (s.nat (ttcA ch 0x30) + 1) % 2 ^ 32 ∧ sameBut [.ttcs] s t) := by
  refine completes_of_done (execTtcMessage_runs hr) ?_
  rw [(State.ttcTake_near hsp hc hv hd).1 he]
  obtain ⟨harrs, hsame, hrd⟩ := s.ttcKeep_keeps (n := ch) x
  obtain ⟨u, hu⟩ : ∃ u, u = s.ttcKeep ch x (s.ttc ch).rxMfas0 := ⟨_, rfl⟩
  rw [← hu] at harrs hsame hrd ⊢
  refine ⟨harrs, ?_, sameBut_done (sameBut_trans hsame (sameBut_mono (u.wrN_sameBut _ _) (by simp)))⟩
  rw [← State.nat_congr (hrd (ttcA_ne (o := 0x30) (p := 0xC) (by omega)))]
  exact u.nat_inc_same _

theorem ttcMessage_answered (hd : withinSecond (s.ttcFull ch x.dep) (s.ttc ch).rxMfas0) {t1 t4 : Nat × Nat} (he : x.echoValid = true)
    (h1 : keptAt (s.ttc ch).deps x.echoSeq.toNat = some t1) (ha : withinSecond (s.ttcFull ch x.arr) t1.1)
    (h4 : keptAt (s.ttc ch).arrs ((x.seq.toNat + 255) % 256) = some t4) :
    completes (.ttcMessage ch x) s (fun t => (t.ttc ch).arrs = s.arrsKept ch x ∧
      t.nat (ttcA ch 0x20) = (s.nat (ttcA ch 0x20) + 1) % 2 ^ 32 ∧ t.bit (ttcA ch 0xC) 0 = true) := by
  refine completes_of_done (execTtcMessage_runs hr) ?_
  rw [(State.ttcTake_near hsp hc hv hd).2 t1 t4 he h1 ha h4]
  obtain ⟨harrs, _, hrd⟩ := s.ttcKeep_keeps (n := ch) x
  obtain ⟨hp, hnat, hbit⟩ := (s.ttcKeep ch x (s.ttc ch).rxMfas0).ttcPass_passes ch.isLt x t1 t4 (s.ttcFull ch x.arr) (s.ttcFull ch x.dep)
  refine ⟨hp.trans harrs, ?_, hbit⟩
  rw [← State.nat_congr (hrd (ttcA_ne (o := 0x20) (by omega)))]
  exact hnat

end

theorem ttcLoss_loses {ch : Fin 192} {s : State} (hs : s.sundialRuns = true) (hb : s.bit (ttcA ch 0xC) 0 = true)
    (hl : (s.ttc ch).lastPass + s.ttcSpan ch ≤ s.sdlNow) :
    completes (.ttcLoss ch) s (fun t => t.bit (ttcA ch 0xC) 0 = false ∧ t.bit (ttcA ch 0x34) 1 = true ∧ keeps [] s t) := by
  have hc : (s.sundialRuns && s.bit (ttcA ch 0xC) 0 && decide ((s.ttc ch).lastPass + s.ttcSpan ch ≤ s.sdlNow)) = true := by
    rw [hs, hb, decide_eq_true hl]
    rfl
  refine completes_of_state ((exec_ttcLoss ch s).trans (congrArg (done s) (if_pos hc))) fun t ht => ?_
  obtain ⟨u, hu⟩ : ∃ u, u = s.setBit (ttcA ch 0xC) 0 false := ⟨_, rfl⟩
  have ha : ∀ {o}, o < 0x40 → 0x80000 ≤ ttcA ch o ∧ ttcA ch o < 0x100000 := ttcA_sdl ch.isLt
  have ht' : t = (u.ttcEvent ch 1).raise (832 + ch) 0x60 false 0 := hu ▸ ht
  have hq : u.Quiet t := ht' ▸ (u.ttcEvent_quiet ch 1).trans (State.raiseAs_quiet _ (832 + ch) 0x60 false 0 false)
  have hrd : ∀ {o}, o < 0x40 → t.rd (ttcA ch o) = (u.event (ttcA ch 0x34) 1).rd (ttcA ch o) := fun ho =>
    ht' ▸ (State.rd_raiseAs_ne _ _ _ _ _ (not_reportReg_sdl (by omega) (ha ho).1)).trans (u.rd_ttcEvent ch.isLt 1 (ha ho))
  have hevent : t.bit (ttcA ch 0x34) 1 = true := (State.bit_congr (hrd (by omega)) 1).trans
    (u.bit_event_sdl (ha (by omega)) ttcA_ne_summary (by omega))
  have hvalid : t.bit (ttcA ch 0xC) 0 = false := by
    rw [State.bit_congr (hrd (by omega)), ← State.bit_congr (u.rd_ttcEvent ch.isLt 1 (ha (by omega))),
      State.bit_congr (u.rd_ttcEvent_ne ch.isLt 1 (ha (by omega)) ttcA_ne_summary (ttcA_ne (by omega))), hu]
    exact s.bit_setBit_same false (by omega)
  have hsu : s.Quiet u := hu ▸ s.setBit_quiet _ _ _
  exact ⟨hvalid, hevent, sameBut_done ((hsu.trans hq).keeps _)⟩

end Sys2Proof.Machine
end

section
/-! Host commands on dials, and generator edges (R147, R174, R175, R181, R184). -/

namespace Sys2Proof.Machine

open Sys2Proof.Cert
open State (Moves)

theorem exec_restart (n : Fin 16) (s : State) : exec (.restart n) s = execRestart n s := rfl
theorem exec_capture (n : Fin 16) (s : State) : exec (.capture n) s = execCapture n s := rfl
theorem exec_timeSet (n : Fin 16) (s : State) : exec (.timeSet n) s = execTimeSet n s := rfl
theorem exec_timeAdj (n : Fin 16) (s : State) : exec (.timeAdj n) s = execTimeAdj n s := rfl
theorem exec_timeCaptureAll (s : State) : exec .timeCaptureAll s = execTimeCaptureAll s := rfl
theorem exec_generatorEdge (g : Fin 96) (rising : Bool) (s : State) :
    exec (.generatorEdge g rising) s = execGeneratorEdge g rising s := rfl

/-! ### Writes that act -/

/-- A state that differs by the count of one access. -/
structure State.Counted (s u : State) : Prop where
  quiet : s.Quiet u
  counts : regsBut counting s u
  sdlNow : u.sdlNow = s.sdlNow

theorem not_counting_sdl {a : Nat} (h : 0x80000 ≤ a) : ¬ counting a := by
  simp only [counting, invA, srcA, curA]
  omega

theorem State.dialSub_congr {s t : State} (hd : t.dials = s.dials) (hn : t.sdlNow = s.sdlNow) (n : Nat) :
    t.dialSub n = s.dialSub n := by
  rw [State.dialSub, State.dialSub, State.dialUnits, State.dialUnits, State.dial_congr hd, hn]

theorem State.Counted.rd {s u : State} (h : s.Counted u) {n : Nat} (o : Nat) : u.rd (dialA n o) = s.rd (dialA n o) :=
  h.counts _ (not_counting_sdl (by unfold dialA; omega))

/-- A write that the host brings to Sundial acts after it is counted. -/
theorem hostTo_counted {s : State} {a : Nat} (h : hostAt s a) (f : State → State) : ∃ u, s.Counted u ∧ s.hostTo a f = f u := by
  obtain ⟨hreach, hlow, hin⟩ := h
  exact ⟨_, ⟨s.tallyHif_quiet 3 1, fun _ ha => s.rd_tallyHif_ne 3 1 fun hc => ha (countReg_counting hc),
    ((Moves.refl loopRegs [] s).tally (by omega) 3 1 none).sdlNow (not_dialRegs_low (by decide)) (by simp)⟩,
    s.hostTo_acts f hreach hlow hin⟩

theorem restart_asks {n : Fin 16} {s : State} (h : hostAt s (dialA n.val 0)) :
    completes (.restart n) s (fun t =>
      t.dial n.val = { s.dial n.val with restartDue := true } ∧ keeps [.dials] s t ∧ regsBut counting s t) := by
  obtain ⟨u, hu, e⟩ := hostTo_counted h (fun s => s.restartAsk n.val)
  refine completes_of_done (t := u.restartAsk n.val) ((exec_restart n s).trans (congrArg (done s) e)) ?_
  rw [← State.dial_congr hu.quiet.dials]
  exact ⟨u.dial_setDial_same _ _, sameBut_done (keeps_trans (hu.quiet.keeps _) (keeps_of_sameBut (u.setDial_sameBut _ _))), hu.counts⟩

/-- SET and ADJ are armed alike: the record of the dial, and a bit of TIME_CTRL. -/
theorem State.Counted.arms {s u t : State} (hu : s.Counted u) {n b : Nat} {d : Dial} (hb : b < 32)
    (ht : t = (u.setDial n d).setBit (dialA n 0xC0) b true) :
    t.dial n = d ∧ t.bit (dialA n 0xC0) b = true ∧ keeps [.dials] s t ∧ regsBut (fun r => counting r ∨ r = dialA n 0xC0) s t := by
  rw [ht]
  refine ⟨u.dial_setDial_same n d, State.bit_setBit_same _ true hb,
    keeps_trans (keeps_trans (hu.quiet.keeps _) (keeps_of_sameBut (u.setDial_sameBut n d))) ((State.setBit_quiet _ _ _ _).keeps _),
    fun a ha => ?_⟩
  obtain ⟨hc, h0⟩ := not_or.1 ha
  exact (State.rd_setBit_ne _ _ _ h0).trans (hu.counts a hc)

section

variable {n : Fin 16} {s : State} (h : hostAt s (dialA n.val 0xC0))
include h

theorem timeSet_arms :
    completes (.timeSet n) s (fun t => (t.dial n.val).setArmed = some s.sdlNow ∧ t.bit (dialA n.val 0xC0) 8 = true ∧
      keeps [.dials] s t ∧ regsBut (fun r => counting r ∨ r = dialA n.val 0xC0) s t) := by
  obtain ⟨u, hu, e⟩ := hostTo_counted h (fun s => s.timeSetArm n.val)
  refine completes_of_state ((exec_timeSet n s).trans (congrArg (done s) e)) fun t ht => ?_
  obtain ⟨hd, hb, hk, hr⟩ := hu.arms (by omega) ht
  rw [← hu.sdlNow]
  exact ⟨congrArg Dial.setArmed hd, hb, sameBut_done hk, hr⟩

theorem timeAdj_arms :
    completes (.timeAdj n) s (fun t => (t.dial n.val).adjArmed = some s.sdlNow ∧ t.bit (dialA n.val 0xC0) 9 = true ∧
      keeps [.dials] s t ∧ regsBut (fun r => counting r ∨ r = dialA n.val 0xC0) s t) := by
  obtain ⟨u, hu, e⟩ := hostTo_counted h (fun s => s.timeAdjArm n.val)
  refine completes_of_state ((exec_timeAdj n s).trans (congrArg (done s) e)) fun t ht => ?_
  obtain ⟨hd, hb, hk, hr⟩ := hu.arms (by omega) ht
  rw [← hu.sdlNow]
  exact ⟨congrArg Dial.adjArmed hd, hb, sameBut_done hk, hr⟩

end

/-! ### Captures (R174) -/

/-- TS_LO of a stored time. -/
theorem State.nat_putTs (s : State) (a sub : Nat) :
    (s.putTs a sub).nat a = ((tsWords sub).getD 0 0).toNat + ((tsWords sub).getD 1 0).toNat * 65536 := by
  have h0 := ((tsWords sub).getD 0 0).isLt
  have h1 := ((tsWords sub).getD 1 0).isLt
  unfold State.putTs
  extract_lets w
  rw [State.nat_congr (State.rd_wrN_ne _ _ (by omega)), State.nat_congr (State.rd_wrN_ne _ _ (by omega)), State.nat_wrN_same,
    Nat.mod_eq_of_lt (by simp only [w]; omega)]

/-- A capture counts itself in CAP_SEQ, and shows the dial's time. -/
theorem State.captureDial_shows (s : State) (n : Nat) :
    (s.captureDial n).nat (dialA n 0xC4) =
      ((tsWords (s.dialSub n)).getD 0 0).toNat + ((tsWords (s.dialSub n)).getD 1 0).toNat * 65536 ∧
    (s.captureDial n).nat (dialA n 0xD0) = (s.nat (dialA n 0xD0) + 1) % 2 ^ 32 ∧ s.Quiet (s.captureDial n) := by
  refine ⟨?_, ?_, (s.putTs_quiet _ _).trans (State.inc_quiet _ _)⟩
  · rw [State.captureDial, State.nat_congr (State.rd_inc_ne _ (by unfold dialA; omega)), State.nat_putTs]
  · rw [State.captureDial, State.nat_inc_same, State.nat_congr (s.rd_putTs_ne _ (by unfold dialA; omega) (by unfold dialA; omega)
      (by unfold dialA; omega))]

theorem capture_shows {n : Fin 16} {s : State} (h : hostAt s (dialA n.val 0xC0)) :
    completes (.capture n) s (fun t =>
      t.nat (dialA n.val 0xC4) =
        ((tsWords (s.dialSub n.val)).getD 0 0).toNat + ((tsWords (s.dialSub n.val)).getD 1 0).toNat * 65536 ∧
      t.nat (dialA n.val 0xD0) = (s.nat (dialA n.val 0xD0) + 1) % 2 ^ 32 ∧ keeps [] s t) := by
  obtain ⟨u, hu, e⟩ := hostTo_counted h (fun s => s.captureDial n.val)
  obtain ⟨hts, hseq, hq⟩ := u.captureDial_shows n.val
  rw [State.dialSub_congr hu.quiet.dials hu.sdlNow] at hts
  rw [State.nat_congr (hu.rd 0xD0)] at hseq
  refine completes_of_state ((exec_capture n s).trans (congrArg (done s) e)) fun t ht => ?_
  rw [← ht] at hts hseq hq
  exact ⟨hts, hseq, sameBut_done ((hu.quiet.trans hq).keeps _)⟩

/-- A capture of one dial leaves the counts of the others. -/
theorem State.captureDial_other (s : State) {m n : Nat} (h : m ≠ n) :
    (s.captureDial m).nat (dialA n 0xD0) = s.nat (dialA n 0xD0) := by
  rw [State.captureDial, State.nat_congr (State.rd_inc_ne _ (by unfold dialA; omega)),
    State.nat_congr (s.rd_putTs_ne _ (by unfold dialA; omega) (by unfold dialA; omega) (by unfold dialA; omega))]

/-- The captures so far of dial `n`, before and after its own. -/
def State.Captured (n c : Nat) (t : State) : Prop := t.nat (dialA n 0xD0) = c

theorem State.captureAll_counts (s : State) {n : Nat} (hn : n < 16) :
    s.captureAll.Captured n ((s.nat (dialA n 0xD0) + 1) % 2 ^ 32) := by
  refine foldl_once (P := State.Captured n (s.nat (dialA n 0xD0))) (Q := State.Captured n ((s.nat (dialA n 0xD0) + 1) % 2 ^ 32))
    (x := n) (fun t m hm ht => ?_) (fun t ht => ?_) (fun t m hm ht => ?_) List.nodup_range (List.mem_range.2 hn) s rfl
  · exact (t.captureDial_other hm).trans ht
  · obtain ⟨-, hseq, -⟩ := t.captureDial_shows n
    rwa [show t.nat (dialA n 0xD0) = s.nat (dialA n 0xD0) from ht] at hseq
  · exact (t.captureDial_other hm).trans ht

theorem timeCaptureAll_counts {s : State} (h : hostAt s (sdlA 0x120)) :
    completes .timeCaptureAll s (fun t => ∀ n, n < 16 → t.nat (dialA n 0xD0) = (s.nat (dialA n 0xD0) + 1) % 2 ^ 32) := by
  obtain ⟨u, hu, e⟩ := hostTo_counted h (fun s => s.captureAll)
  refine completes_of_state ((exec_timeCaptureAll s).trans (congrArg (done s) e)) fun t ht n hn => ?_
  have hc : t.nat (dialA n 0xD0) = (u.nat (dialA n 0xD0) + 1) % 2 ^ 32 := ht ▸ u.captureAll_counts hn
  rw [State.nat_congr (hu.rd (n := n) 0xD0)] at hc
  exact hc

/-! ### Generator edges (R181, R182, R184) -/

section

variable (s : State) {g : Nat}

/-- A pulse on its ball, and on the second ball of a pair. -/
theorem State.drive_pulse (hs : s.genSlave g = false) (hl : (s.gen g).level = true) :
    Tab.get (s.drive g).top.tout false g = (s.polFld (genA g 0) 2 2 == 0) ∧
    (s.genPair g = true → Tab.get (s.drive g).top.tout false (g + 1) = (s.polFld (genA g 0) 2 2 == 1)) := by
  have hp : s.polFld (genA g 0) 2 2 < 2 := bitsOf_lt (s.pol (genA g 0)).toNat 2 2
  have hnot : (!(s.polFld (genA g 0) 2 2 == 1)) = (s.polFld (genA g 0) 2 2 == 0) := by
    obtain h | h : s.polFld (genA g 0) 2 2 = 0 ∨ s.polFld (genA g 0) 2 2 = 1 := by omega
    · rw [h]; rfl
    · rw [h]; rfl
  unfold State.drive
  extract_lets lvl out
  have hlvl : lvl = (s.polFld (genA g 0) 2 2 == 0) := by
    rw [← hnot]
    simp only [lvl, hl, Bool.or_true, Bool.true_and, Bool.true_bne]
  rw [hs, if_neg Bool.false_ne_true]
  constructor
  · change Tab.get (if s.genPair g then Tab.set out false (g + 1) (!lvl) else out) false g = _
    split
    · rw [Tab.get_set_ne _ _ _ _ (by omega), Tab.get_set_same, hlvl]
    · rw [Tab.get_set_same, hlvl]
  · intro hpair
    show Tab.get (if s.genPair g then Tab.set out false (g + 1) (!lvl) else out) false (g + 1) = _
    rw [if_pos hpair, Tab.get_set_same, hlvl, ← hnot, Bool.not_not]

theorem State.genSlave_congr {s t : State} (h : t.policy = s.policy) : t.genSlave g = s.genSlave g := by
  rw [State.genSlave, State.genSlave, State.polFld_congr h]

theorem State.genPair_congr {s t : State} (h : t.policy = s.policy) : t.genPair g = s.genPair g := by
  rw [State.genPair, State.genPair, State.polFld_congr h]

/-- A generator that runs is not the second of a pair. -/
theorem State.genSlave_of_runs (h : s.genRuns g = true) : s.genSlave g = false := by
  simp only [State.genRuns, Bool.and_eq_true, Bool.not_eq_true'] at h
  exact h.1.2

end

section

variable {g : Fin 96} {s : State}

/-- The pulse that a rising edge at `p` starts. -/
def State.risen (s : State) (g : Nat) (p : Int) : Gen :=
  { s.genEnd g p with k := (s.genEnd g p).k + 1, level := true, lastEdge := some p, moved := false,
                      fallDial := s.genDial g, fall := s.genFall g (s.genEnd g p).k }

section

variable (hr : s.genRuns g = true) {p : Int} (hp : s.placeEdge g (s.genDial g) (s.genTime g (s.gen g).k) = p)
  (hd : p ≤ (s.sdlNow * 65536 + 65535 : Nat))
include hr hp hd

theorem execGeneratorEdge_rises : exec (.generatorEdge g true) s = done s
    (if (s.genEnd g p).soon p then
      (((s.setGen g { s.genEnd g p with k := (s.genEnd g p).k + 1 }).showNext g).inc (genA g 0x28)).tallySdl g 8 1
    else (((s.setGen g (s.risen g p)).showNext g).tallySdl g 7 1).drive g) := by
  have hdue : ¬ (!s.edgeDue p) = true := by
    rw [show s.edgeDue p = true from decide_eq_true hd]
    simp
  rw [exec_generatorEdge, execGeneratorEdge, if_pos rfl, if_pos hr, State.genRise]
  simp only [hp]
  rw [if_neg hdue]
  rfl

/-- The edge is driven on the ball (R181, R182). -/
theorem generatorEdge_rises (hx : (s.genEnd g p).soon p = false) :
    completes (.generatorEdge g true) s (fun t => (t.gen g).level = true ∧
      (t.gen g).lastEdge = some p ∧ (t.gen g).k = (s.genEnd g p).k + 1 ∧
      Tab.get t.top.tout false g = (s.polFld (genA g 0) 2 2 == 0) ∧
      (s.genPair g = true → Tab.get t.top.tout false (g + 1) = (s.polFld (genA g 0) 2 2 == 1))) := by
  obtain ⟨u, hu⟩ : ∃ u, u = ((s.setGen g (s.risen g p)).showNext g).tallySdl g 7 1 := ⟨_, rfl⟩
  have hm : (s.setGen g (s.risen g p)).Moves loopRegs [] u := hu ▸ (State.showNext_moves _ g.isLt).tallySdl _ _ _
  have hpol : u.policy = s.policy := hm.part (p := .policy) (by simp)
  have hgen : u.gen g = s.risen g p := (State.gen_congr (hm.part (p := .gens) (by simp)) g).trans (s.gen_setGen_same g _)
  have hdrive : (u.drive g).gen g = s.risen g p :=
    (State.gen_congr ((u.drive_moves loopRegs [] g).part (p := .gens) (by simp)) g).trans hgen
  obtain ⟨hball, hpair⟩ := u.drive_pulse (g := g) ((State.genSlave_congr hpol).trans (s.genSlave_of_runs hr))
    ((congrArg Gen.level hgen).trans rfl)
  rw [State.polFld_congr hpol] at hball hpair
  rw [State.genPair_congr hpol] at hpair
  refine completes_of_done (t := u.drive g) ?_ ⟨congrArg Gen.level hdrive, congrArg Gen.lastEdge hdrive, congrArg Gen.k hdrive,
    hball, hpair⟩
  rw [execGeneratorEdge_rises hr hp hd, hx, if_neg Bool.false_ne_true, hu]

/-- The edge is skipped, and counted (R184). -/
theorem generatorEdge_skips (hx : (s.genEnd g p).soon p = true) :
    completes (.generatorEdge g true) s (fun t => (t.gen g).level = (s.genEnd g p).level ∧
      (t.gen g).k = (s.genEnd g p).k + 1 ∧ t.nat (genA g 0x28) = (s.nat (genA g 0x28) + 1) % 2 ^ 32) := by
  obtain ⟨x, hxe⟩ : ∃ x, x = { s.genEnd g p with k := (s.genEnd g p).k + 1 } := ⟨_, rfl⟩
  obtain ⟨u, hu⟩ : ∃ u, u = (s.setGen g x).showNext g := ⟨_, rfl⟩
  have hm : (s.setGen g x).Moves loopRegs [] u := hu ▸ State.showNext_moves _ g.isLt
  have hgen : u.gen g = x := (State.gen_congr (hm.part (p := .gens) (by simp)) g).trans (s.gen_setGen_same g _)
  have hq : u.Quiet ((u.inc (genA g 0x28)).tallySdl g 8 1) := (u.inc_quiet _).trans (State.tally_quiet _ _ _ _ _ _)
  have hrd : ((u.inc (genA g 0x28)).tallySdl g 8 1).rd (genA g 0x28) = (u.inc (genA g 0x28)).rd (genA g 0x28) :=
    State.rd_tally_ne _ _ _ _ (by omega) fun hc => not_counting_sdl (by unfold genA; omega) (countReg_counting hc)
  have hnext : u.rd (genA g 0x28) = s.rd (genA g 0x28) := by
    rw [hu]
    exact (State.rd_putTs_ne _ _ (by unfold genA; omega) (by unfold genA; omega) (by unfold genA; omega)).trans
      (s.rd_setGen g x _)
  refine completes_of_done (t := (u.inc (genA g 0x28)).tallySdl g 8 1) ?_ ?_
  · rw [execGeneratorEdge_rises hr hp hd, hx, if_pos rfl, hu, hxe]
  · have hg := (State.gen_congr hq.gens g).trans hgen
    refine ⟨(congrArg Gen.level hg).trans (hxe ▸ rfl), (congrArg Gen.k hg).trans (hxe ▸ rfl), (State.nat_congr hrd).trans ?_⟩
    rw [State.nat_inc_same, State.nat_congr hnext]

end

theorem generatorEdge_falls (hs : s.sundialRuns = true) (hl : (s.gen g).level = true)
    (hd : s.placeEdge g (s.gen g).fallDial (s.gen g).fall ≤ (s.sdlNow * 65536 + 65535 : Nat)) :
    completes (.generatorEdge g false) s (fun t => (t.gen g).level = false ∧
      (t.gen g).lastEdge = some (s.placeEdge g (s.gen g).fallDial (s.gen g).fall)) := by
  obtain ⟨p, hp⟩ : ∃ p, p = s.placeEdge g (s.gen g).fallDial (s.gen g).fall := ⟨_, rfl⟩
  obtain ⟨u, hu⟩ : ∃ u, u = s.setGen g { s.gen g with level := false, lastEdge := some p } := ⟨_, rfl⟩
  have hdrop : s.genDrop g = u.drive g := by
    unfold State.genDrop
    extract_lets x q
    have hdue : (x.level && s.edgeDue q) = true := by
      rw [Bool.and_eq_true]
      exact ⟨hl, decide_eq_true hd⟩
    rw [if_pos hdue, hu, hp]
  refine completes_of_done (t := u.drive g) ?_ ?_
  · rw [exec_generatorEdge, execGeneratorEdge, if_neg Bool.false_ne_true, if_pos hs, hdrop]
  · have hg : (u.drive g).gen g = { s.gen g with level := false, lastEdge := some p } :=
      (State.gen_congr ((u.drive_moves loopRegs [] g).part (p := .gens) (by simp)) g).trans (hu ▸ s.gen_setGen_same g _)
    rw [← hp]
    exact ⟨congrArg Gen.level hg, congrArg Gen.lastEdge hg⟩

end

end Sys2Proof.Machine
end

section
/-! Dials at their instants: hold-off, lock and holdover, the loop, and the second boundary (R142, R146, R147, R168 to R175). -/

namespace Sys2Proof.Machine

open Sys2Proof.Cert
open State (Moves Steers)

theorem exec_holdoffExpiry (n : Fin 16) (s : State) : exec (.holdoffExpiry n) s = execHoldoffExpiry n s := rfl
theorem exec_lock (n : Fin 16) (s : State) : exec (.lock n) s = execLock n s := rfl
theorem exec_holdoverExpired (n : Fin 16) (s : State) : exec (.holdoverExpired n) s = execHoldoverExpired n s := rfl
theorem exec_phaseDetectorUpdate (n : Fin 16) (s : State) :
    exec (.phaseDetectorUpdate n) s = execPhaseDetectorUpdate n s := rfl
theorem exec_holdoverRecord (n : Fin 16) (s : State) : exec (.holdoverRecord n) s = execHoldoverRecord n s := rfl
theorem exec_dialSecondBoundary (n : Fin 16) (s : State) :
    exec (.dialSecondBoundary n) s = execDialSecondBoundary n s := rfl

/-! ### Steps of dial time (R175) -/

/-- What gives the dial its time, and the times at which SET and ADJ were armed. -/
def Dial.timing (d : Dial) : Nat × Nat × Int × Option Nat × Option Nat := (d.timeU, d.since, d.y, d.setArmed, d.adjArmed)

theorem State.Steers.sdlNow {s t : State} (h : s.Steers t) : t.sdlNow = s.sdlNow :=
  h.moves.sdlNow (not_dialRegs_low (by decide)) (by simp)

/-- What steers leaves the registers of selection alone. -/
theorem State.Steers.rd {s t : State} (h : s.Steers t) {n o : Nat} (hn : n < 16) (ho : o < 0x200) (hl : ¬ loopOff o) :
    t.rd (dialA n o) = s.rd (dialA n o) := h.moves.regs _ (not_dialRegs_dialA hn ho hl)

theorem State.Steers.dialState {s t : State} (h : s.Steers t) {n : Nat} (hn : n < 16) : t.dialState n = s.dialState n :=
  State.dialState_congr (h.rd hn (by omega) (by omega))

/-- `u` units moved by `d` steps of 2^-16 ns. -/
theorem units_step (u : Nat) (d : Int) (h : 0 ≤ ((u / unitsPerSub : Nat) : Int) + d) :
    (((if 0 ≤ (u : Int) + d * unitsPerSub then ((u : Int) + d * unitsPerSub).toNat else 0) / unitsPerSub : Nat) : Int) =
      (u / unitsPerSub : Nat) + d := by
  unfold unitsPerSub at *
  rw [if_pos (by omega)]
  omega

/-- The dial's time has stepped by `d`, and what is armed stays armed. -/
structure State.Stepped (n : Nat) (d : Int) (s t : State) : Prop where
  steers : s.Steers t
  time : 0 ≤ (s.dialSub n : Int) + d → (t.dialSub n : Int) = s.dialSub n + d
  setArmed : (t.dial n).setArmed = (s.dial n).setArmed
  adjArmed : (t.dial n).adjArmed = (s.dial n).adjArmed

section

variable (s : State) {n : Nat} (hn : n < 16)
include hn

theorem State.timeStep_stepped (d : Int) : State.Stepped n d s (s.timeStep n d) := by
  have hA : ∀ {o}, o < 0x200 → loopOff o → loopRegs.has (dialA n o) := dialRegs_dialA hn
  unfold State.timeStep
  split
  next h0 => exact ⟨.refl s, fun _ => by rw [h0, add_zero], rfl, rfl⟩
  next h0 =>
    extract_lets u s1 ns s2 d2 s3 d3 s4 w4 s5
    obtain ⟨v, hv⟩ : ∃ v, v = if 0 ≤ u then u.toNat else 0 := ⟨_, rfl⟩
    have h2m : (s.setDialUnits n v).Moves loopRegs [] s2 := by
      unfold s2 s1
      rw [← hv]
      exact (((((Moves.refl _ _ _).tallySdl _ _ _).inc (hA (by omega) (by omega))).wrN (hA (by omega) (by omega)) _).event
        (hA (by omega) (by omega)) _).raise (by omega) _ _ _
    have h2 : s.Steers s2 := ((s.rebase_steers n).setDial (n := n) (x := { (s.rebase n).dial n with timeU := v }) rfl).moved h2m
      (by simp)
    clear_value s2
    have h3 : s.Steers s3 := h2.setDial rfl
    have ht3 : (s3.dial n).timing = (v, s.sdlNow, (s.dial n).y, (s.dial n).setArmed, (s.dial n).adjArmed) := by
      have e2 : s2.dial n = (s.setDialUnits n v).dial n := State.dial_congr (h2m.part (p := .dials) (by simp)) n
      rw [State.dial_setDial_same]
      show (s2.dial n).timing = _
      rw [e2, State.setDialUnits, State.dial_setDial_same, State.rebase, State.dial_setDial_same]
      rfl
    have h4 : s.Steers s4 ∧ (s4.dial n).timing = (s3.dial n).timing := by
      unfold s4
      split
      next h =>
        subst h
        exact ⟨h3.setDial rfl, by rw [State.dial_setDial_same]; rfl⟩
      next => exact ⟨h3, rfl⟩
    have h5 : s4.Moves loopRegs [.twn] s5 := (Moves.refl _ _ s4).setTwn (by simp) _
    suffices h : ∀ t : State, s5.Moves loopRegs [.gens] t → State.Stepped n d s t from
      h _ ((Moves.refl _ _ s5).foldl fun w g hg => by
        extract_lets x w1
        have h1 : w.Moves loopRegs [.gens] w1 := (Moves.refl _ _ w).iteThen ((Moves.refl _ _ w).setGen (by simp) g _)
        exact h1.iteThen (w1.genFollow_moves (List.mem_range.1 hg) _ _))
    intro t hfold
    have hall : s.Steers t := (h4.1.moved h5 (by simp)).moved hfold (by simp)
    have htime := ((congrArg Dial.timing (State.dial_congr ((hfold.part (p := .dials) (by simp)).trans
      (h5.part (p := .dials) (by simp))) n)).trans h4.2).trans ht3
    simp only [Dial.timing, Prod.mk.injEq] at htime
    obtain ⟨hu, hs, hy, hset, hadj⟩ := htime
    refine ⟨hall, fun h => ?_, hset, hadj⟩
    rw [State.dialSub, State.dialUnits, Dial.unitsAt, hall.sdlNow, hu, hs, hy, Nat.sub_self, Nat.zero_mul,
      Nat.add_zero, hv]
    exact units_step (s.dialUnits n) d h

end

/-! ### Lock and holdover (R147) -/

/-- What an event of a dial and its report leave of DIAL_STATE and of the dials, and the event itself. -/
theorem State.dialEvent_sets (s : State) {n b : Nat} (hn : n < 16) (hb : b < 24) (kind : Nat) (clear : Bool) (detail : Nat) :
    ((s.event (dialA n 0x18) b).raise (128 + n) kind clear detail).dialState n = s.dialState n ∧
    ((s.event (dialA n 0x18) b).raise (128 + n) kind clear detail).dials = s.dials ∧
    ((s.event (dialA n 0x18) b).raise (128 + n) kind clear detail).bit (dialA n 0x18) b = true := by
  have hm : s.Moves (dialRegs (Eq 0x18)) [] ((s.event (dialA n 0x18) b).raise (128 + n) kind clear detail) :=
    ((Moves.refl _ _ s).event (dialRegs_dialA (o := 0x18) hn (by omega) rfl) b).raise (by omega) _ _ _
  refine ⟨State.dialState_congr (hm.regs _ (not_dialRegs_dialA (o := 0x10) hn (by omega) (by omega))), hm.part (p := .dials) (by simp), ?_⟩
  exact (State.bit_congr (State.rd_raiseAs_ne _ _ _ _ _ (not_reportReg_sdl (by omega) (dialA_sdl hn (by omega)).1)) b).trans
    (s.bit_event_sdl (dialA_sdl hn (by omega)) (by unfold dialA sdlA; omega) hb)

section

variable {n : Fin 16} {s : State} (hs : s.sundialRuns = true)
include hs

theorem holdoffExpiry_ends (hb : s.bit (dialA n 0x10) 3 = true) (hd : (s.dial n).holdoffAt + s.holdoffNs n ≤ s.sdlNow) :
    (s.returnWaits (s.selRef n) = false → completes (.holdoffExpiry n) s (fun t => t.bit (dialA n 0x10) 3 = false)) ∧
    (s.returnWaits (s.selRef n) = true →
      completes (.holdoffExpiry n) s (fun t => regsBut (fun _ => False) s t ∧ sameBut [] s t)) := by
  have hdone : s.holdoffDone n = true := by rw [State.holdoffDone, hb, decide_eq_true hd]; rfl
  constructor
  · intro hw
    obtain ⟨u, hu⟩ : ∃ u, u = s.holdoffOver n .now := ⟨_, rfl⟩
    refine completes_of_done (t := u) ?_ (hu ▸ (s.holdoffOver_ends n.isLt .now).2 hb)
    rw [exec_holdoffExpiry, execHoldoffExpiry, hs, hdone, hw, hu]
    rfl
  · intro hw
    refine completes_of_done (t := s) ?_ ⟨fun _ _ => rfl, sameBut_done fun p _ => by cases p <;> rfl⟩
    rw [exec_holdoffExpiry, execHoldoffExpiry, hs, hdone, hw]
    rfl

theorem lock_locks (h : s.lockDue n = true) :
    completes (.lock n) s (fun t => t.dialState n = 2 ∧ t.bit (dialA n 0x10) 4 = true ∧ t.bit (dialA n 0x18) 0 = true) := by
  have h1 : s.dialState n = 1 := by
    simp only [State.lockDue, Bool.and_eq_true, beq_iff_eq] at h
    exact h.1.1
  obtain ⟨u, he, hst⟩ := s.setState_enters n.isLt (q := 2) (by omega) (by omega)
  obtain ⟨t, ht⟩ : ∃ t, t = s.setState n 2 := ⟨_, rfl⟩
  rw [← ht] at hst
  refine completes_of_done (t := t) ?_ ⟨(hst.dialState n.isLt).trans he.state,
    (State.bit_congr (hst.rd n.isLt (by omega) (by omega)) 4).trans (he.locked rfl),
    (State.bit_congr (hst.rd n.isLt (by omega) (by omega)) 0).trans he.event⟩
  rw [exec_lock, execLock, hs, h, ht]
  rfl

theorem holdoverExpired_loses (h3 : s.dialState n = 3) (h0 : s.pol (dialA n 0xC) ≠ 0)
    (hd : (s.dial n).stateSince + (s.pol (dialA n 0xC)).toNat * 1000000000 ≤ s.sdlNow) :
    completes (.holdoverExpired n) s (fun t => t.dialState n = 4 ∧ t.bit (dialA n 0x18) 4 = true) := by
  obtain ⟨u, he, hst⟩ := s.setState_enters n.isLt (q := 4) (by omega) (by omega)
  have hlim : (s.pol (dialA n 0xC)).toNat ≠ 0 := fun e => h0 (BitVec.eq_of_toNat_eq (by simpa using e))
  obtain ⟨hq, -, hb⟩ := (s.setState n 4).dialEvent_sets n.isLt (b := 4) (by omega) 0x4B false
    ((s.sdlNow - (s.dial n).stateSince) / secNs)
  obtain ⟨t, ht⟩ : ∃ t, t = ((s.setState n 4).event (dialA n 0x18) 4).raise (128 + n) 0x4B false
    ((s.sdlNow - (s.dial n).stateSince) / secNs) := ⟨_, rfl⟩
  rw [← ht] at hq hb
  refine completes_of_done (t := t) ?_ ⟨hq.trans ((hst.dialState n.isLt).trans he.state), hb⟩
  rw [exec_holdoverExpired, execHoldoverExpired]
  have hc : (s.sundialRuns && s.dialState n == 3 && (s.pol (dialA n 0xC)).toNat != 0 &&
      decide ((s.dial n).stateSince + (s.pol (dialA n 0xC)).toNat * secNs ≤ s.sdlNow)) = true := by
    simp only [Bool.and_eq_true, beq_iff_eq, bne_iff_ne, decide_eq_true_eq]
    exact ⟨⟨⟨hs, h3⟩, hlim⟩, hd⟩
  simp only [hc, if_true, ht]

end

/-! ### The loop (R168, R170, R172) -/

section

variable (s : State) {n : Nat}

theorem State.setB_steers (n : Nat) (b : Int) : s.Steers (s.setB n b) := (Steers.refl s).setDial rfl

theorem State.slewB_steers (n : Nat) : s.Steers (s.slewB n) := (Steers.refl s).setDial rfl

/-- The raw errors once an update has taken them. -/
abbrev noRaws (first : Bool) : Int × Nat × Bool := (0, 0, first)

theorem Dial.raws_firstTaken {d : Dial} (h : d.raws = noRaws true) (l : Option Int) :
    Dial.raws { d with firstError := false, lastRaw := l } = noRaws false := by
  simp only [Dial.raws, noRaws, Prod.mk.injEq] at *
  exact ⟨h.1, h.2.1, trivial⟩

variable (hn : n < 16)
include hn

theorem State.firstErr_raws {r : Nat} {raw : Int} (h : (s.dial n).raws = noRaws true) :
    ((s.firstErr n r raw).dial n).raws = noRaws false ∧ s.Moves loopRegs [.dials, .gens, .twn] (s.firstErr n r raw) := by
  unfold State.firstErr
  extract_lets d long step u e
  split
  · have hu : s.Steers u := (s.timeStep_stepped hn _).steers.trans (State.setB_steers _ n 0)
    rw [State.dial_setDial_same]
    exact ⟨Dial.raws_firstTaken ((hu.raws n).trans h) _, hu.moves.setDial (by simp) n _⟩
  · have hw : (s.setDial n { d with firstError := false }).Steers ((s.setDial n { d with firstError := false }).setB n raw) :=
      State.setB_steers _ n raw
    rw [hw.raws n, State.dial_setDial_same]
    exact ⟨Dial.raws_firstTaken h _, ((Moves.refl _ _ s).setDial (by simp) n _).trans hw.moves⟩

omit hn in
theorem State.acquire_raws (fresh : Bool) : ((s.acquire n fresh).dial n).raws = noRaws true := by
  unfold State.acquire
  extract_lets u d
  rw [State.dial_setDial_same]
  rfl

/-- The judgement of an error leaves the raw errors taken; a dial that loses its lock waits for a first error again. -/
theorem State.judgeLock_raws (e : Int) (h : (s.dial n).raws = noRaws false) :
    ((s.judgeLock n e).dial n).raws = noRaws false ∨
      ((s.judgeLock n e).dial n).raws = noRaws true ∧ s.dialState n = 2 ∧ (s.judgeLock n e).dialState n = 1 := by
  unfold State.judgeLock
  extract_lets lp d u since
  split
  next h2 =>
    split
    · obtain ⟨v, he, hst⟩ := s.setState_enters hn (q := 1) (by omega) (by omega)
      obtain ⟨hq, hdials, -⟩ := u.dialEvent_sets hn (b := 5) (by omega) 0x4C false (unsignedOf 32 (Int.tdiv e 65536))
      have hu : u.dialState n = 1 :=
        (State.dialState_congr (((s.setState n 1).acquire_moves hn false).regs _ (not_dialRegs_dialA hn (by omega) (by omega)))).trans
          ((hst.dialState hn).trans he.state)
      exact .inr ⟨(congrArg Dial.raws (State.dial_congr hdials n)).trans (State.acquire_raws _ false), h2, hq.trans hu⟩
    · exact .inl h
  next =>
    rw [State.dial_setDial_same]
    exact .inl h

theorem State.phaseUpdate_takes : ∃ f, ((s.phaseUpdate n).dial n).raws = noRaws f ∧
    (f = false ∨ s.dialState n = 2 ∧ (s.phaseUpdate n).dialState n = 1) := by
  unfold State.phaseUpdate
  extract_lets r d raw first s1 s2 e s3 bw damp ki kp integ d3 s4
  have h1 : s.Moves loopRegs [.dials, .gens, .twn] s1 ∧ (s1.dial n).raws = noRaws first :=
    ⟨(Moves.refl _ _ s).setDial (by simp) n _, by rw [State.dial_setDial_same]; rfl⟩
  have h2 : s.Moves loopRegs [.dials, .gens, .twn] s2 ∧ (s2.dial n).raws = noRaws false := by
    unfold s2
    split
    next hf =>
      obtain ⟨hr, hm⟩ := s1.firstErr_raws hn (r := r) (raw := raw) (h1.2.trans (by rw [hf]))
      exact ⟨h1.1.trans hm, hr⟩
    next hf =>
      have hw := s1.slewB_steers n
      exact ⟨h1.1.trans hw.moves, (hw.raws n).trans (h1.2.trans (by rw [Bool.eq_false_iff.2 hf]))⟩
  have h3 : s2.Steers s3 := (Steers.refl s2).moved (ps := []) ((Moves.refl _ _ s2).wrI
    (dialRegs_dialA (o := 0x90) hn (by omega) (by omega)) _) (by simp)
  have h4 : s2.Steers s4 := h3.setDial rfl
  have h5 : s2.Steers (s4.steerY n (integ + divNear (kp * e) (2 ^ 32))) := h4.trans (s4.steerY_steers hn _)
  have hstate : (s4.steerY n (integ + divNear (kp * e) (2 ^ 32))).dialState n = s.dialState n :=
    (h5.dialState hn).trans (State.dialState_congr (h2.1.regs _ (not_dialRegs_dialA hn (by omega) (by omega))))
  obtain h | ⟨h, hq, hq'⟩ := State.judgeLock_raws _ hn e ((h5.raws n).trans h2.2)
  · exact ⟨false, h, .inl rfl⟩
  · exact ⟨true, h, .inr ⟨hstate ▸ hq, hq'⟩⟩

end

theorem phaseDetectorUpdate_takes {n : Fin 16} {s : State} (hs : s.sundialRuns = true) (hf : s.follows n (s.selRef n) = true)
    (hu : s.updateDue n (s.selRef n) = true) :
    completes (.phaseDetectorUpdate n) s (fun t => (t.dial n).rawSum = 0 ∧ (t.dial n).rawN = 0 ∧
      ((t.dial n).firstError = false ∨ s.dialState n = 2 ∧ t.dialState n = 1)) := by
  obtain ⟨f, hr, hq⟩ := s.phaseUpdate_takes n.isLt
  obtain ⟨t, ht⟩ : ∃ t, t = s.phaseUpdate n := ⟨_, rfl⟩
  rw [← ht] at hr hq
  simp only [Dial.raws, noRaws, Prod.mk.injEq] at hr
  obtain ⟨hsum, hnum, hfirst⟩ := hr
  refine completes_of_done (t := t) ?_ ⟨hsum, hnum, hq.imp_left hfirst.trans⟩
  rw [exec_phaseDetectorUpdate, execPhaseDetectorUpdate, hs, hf, hu, ht]
  rfl

theorem State.setFld_sameBut (s : State) (a hi lo v : Nat) : sameBut [] s (s.setFld a hi lo v) := s.wrN_sameBut _ _

/-- What a dial shows is registers. -/
theorem State.showDial_sameBut (s : State) (n : Nat) : sameBut [] s (s.showDial n) := by
  unfold State.showDial
  extract_lets d s1 s2 s3 b
  have h1 : sameBut [] s s1 := sameBut_trans (s.wrN_sameBut _ _) (State.wrN_sameBut _ _ _)
  have h3 : sameBut [] s s3 := sameBut_trans (sameBut_trans h1 (s1.setFld_sameBut _ _ _ _)) (s2.setFld_sameBut _ _ _ _)
  exact sameBut_trans (sameBut_trans h3 (s3.wrN_sameBut _ _)) (State.wrN_sameBut _ _ _)

theorem State.hoRecord_records (s : State) (n : Nat) :
    ((s.hoRecord n).dial n).ho.length = min ((s.dial n).ho.length + 1) (300 + s.polFld (dialA n 0x8C) 5 0) ∧
    ((s.hoRecord n).dial n).ySumFrom = s.sdlNow ∧ ((s.hoRecord n).dial n).ySum = 0 ∧ sameBut [.dials] s (s.hoRecord n) := by
  have hreb : sameBut [.dials] s (s.rebase n) := s.setDial_sameBut n _
  have hho : ((s.rebase n).dial n).ho = (s.dial n).ho := by rw [State.rebase, State.dial_setDial_same]
  have hnow : (s.rebase n).sdlNow = s.sdlNow := (s.rebase_steers n).sdlNow
  unfold State.hoRecord
  extract_lets u d m keep v
  have hv : v.dial n = { d with ho := (m :: d.ho).take keep, ySum := 0, ySumFrom := u.sdlNow } := u.dial_setDial_same n _
  have hw : sameBut [] v ((v.wrN (dialA n 0x14) (v.histS n)).showDial n) :=
    sameBut_trans (v.wrN_sameBut _ _) (State.showDial_sameBut _ n)
  have hd : ((v.wrN (dialA n 0x14) (v.histS n)).showDial n).dial n = v.dial n := State.dial_congr (hw .dials (by simp)) n
  rw [hd, hv]
  refine ⟨?_, hnow, rfl, sameBut_trans (sameBut_trans hreb (u.setDial_sameBut n _)) (sameBut_mono hw (by simp))⟩
  show ((m :: d.ho).take keep).length = _
  rw [List.length_take, List.length_cons, show d.ho = (s.dial n).ho from hho, min_comm]
  rfl

theorem holdoverRecord_records {n : Fin 16} {s : State} (hs : s.sundialRuns = true) (h2 : s.dialState n = 2)
    (hb : s.bit (dialA n 0x10) 3 = false) (hd : (s.dial n).ySumFrom + 1000000000 ≤ s.sdlNow) :
    completes (.holdoverRecord n) s (fun t => (t.dial n).ho.length =
      min ((s.dial n).ho.length + 1) (300 + s.polFld (dialA n 0x8C) 5 0) ∧
      (t.dial n).ySumFrom = s.sdlNow ∧ (t.dial n).ySum = 0 ∧ sameBut [.dials] s t) := by
  obtain ⟨hlen, hfrom, hsum, hk⟩ := s.hoRecord_records n
  obtain ⟨t, ht⟩ : ∃ t, t = s.hoRecord n := ⟨_, rfl⟩
  rw [← ht] at hlen hfrom hsum hk
  refine completes_of_done (t := t) ?_ ⟨hlen, hfrom, hsum, sameBut_done hk⟩
  rw [exec_holdoverRecord, execHoldoverRecord]
  have hc : (s.sundialRuns && s.dialState n == 2 && !s.bit (dialA n 0x10) 3 &&
      decide ((s.dial n).ySumFrom + secNs ≤ s.sdlNow)) = true := by
    simp only [Bool.and_eq_true, beq_iff_eq, decide_eq_true_eq, Bool.not_eq_true']
    exact ⟨⟨⟨hs, h2⟩, hb⟩, hd⟩
  rw [if_pos hc, ht]

end Sys2Proof.Machine
end

section
/-! The second boundary of a dial: SET and ADJ (R175). -/

namespace Sys2Proof.Machine

open Sys2Proof.Cert
open State (Moves Steers)

/-! ### What is due at the boundary -/

section

variable (s : State) (n : Nat)

/-- The second that the dial has come to. -/
def State.secNow : Nat := s.dialNs n / secNs

/-- The boundary, on the dial's time in 2^-16 ns. -/
def State.secEdge : Int := (s.secNow n * secSub : Nat)

def State.setDue : Bool := armDue (s.dial n).setArmed (s.instantOf n (s.secEdge n))
def State.adjDue : Bool := armDue (s.dial n).adjArmed (s.instantOf n (s.secEdge n))

/-- What SET and ADJ step the dial by. -/
def State.armedStep : Int := (if s.setDue n then (s.setTime n : Int) - s.secEdge n else 0) +
  (if s.adjDue n then s.int (dialA n 0xE0) * 256 else 0)

/-- A bit that is cleared where `c`. -/
theorem State.bit_clearIf (a b : Nat) (c : Bool) (hb : b < 32) :
    (if c then s.setBit a b false else s).bit a b = (!c && s.bit a b) := by
  cases c with
  | false => rfl
  | true => exact s.bit_setBit_same false hb

theorem State.bit_clearIf_ne {a b m : Nat} (c : Bool) (hb : b < 32) (hm : m ≠ b) :
    (if c then s.setBit a b false else s).bit a m = s.bit a m := by
  cases c with
  | false => rfl
  | true => exact s.bit_setBit_ne false hb hm

theorem State.snapAsk_rd (lead : Nat) {a : Nat} (h : a ≠ invA 0x104) : (s.snapAsk lead).rd a = s.rd a := by
  unfold State.snapAsk
  split
  · rfl
  · exact State.rd_setBit_ne _ _ _ h

theorem State.setInv_sameBut (x : Inv) : sameBut [.inv] s (s.setInv x) := fun p hp => by
  cases p with
  | inv => simp at hp
  | _ => rfl

theorem State.snapAsk_moves (P : Nat → Prop) (lead : Nat) : s.Moves (dialRegs P) [] (s.snapAsk lead) := by
  have hinv : ∀ x, s.Moves (dialRegs P) [] (s.setInv x) := fun x =>
    ⟨fun _ _ => rfl, sameBut_mono (s.setInv_sameBut x) (by simp), rfl, rfl⟩
  exact (Moves.refl _ _ s).iteElse ((hinv _).setBit (.inl (by decide)) _ _)

end

/-! ### What the boundary makes of the dial -/

/-- The dial with what is due taken, before its time steps. -/
structure State.Disarmed (n : Nat) (s t : State) : Prop where
  time : t.dialSub n = s.dialSub n
  setArmed : (t.dial n).setArmed = if s.setDue n then none else (s.dial n).setArmed
  adjArmed : (t.dial n).adjArmed = if s.adjDue n then none else (s.dial n).adjArmed
  setBit : t.bit (dialA n 0xC0) 8 = (!s.setDue n && s.bit (dialA n 0xC0) 8)
  adjBit : t.bit (dialA n 0xC0) 9 = (!s.adjDue n && s.bit (dialA n 0xC0) 9)
  now : t.now = s.now

theorem State.secondBoundary_steps (s : State) {n : Nat} (hn : n < 16) (h : (s.dial n).sec < s.secNow n) :
    ∃ t, State.Disarmed n s t ∧ s.secondBoundary n = t.timeStep n (s.armedStep n) := by
  unfold State.secondBoundary
  extract_lets d sec cur at_ ds da t t' s1 s2 s3 s4
  have hsec : ¬ sec ≤ d.sec := Nat.not_le.2 h
  rw [if_neg hsec]
  have h1 : s1.dial n =
      { d with sec := sec, setArmed := if ds then none else d.setArmed, adjArmed := if da then none else d.adjArmed } :=
    s.dial_setDial_same n _
  have hC0 : (dialRegs (Eq 0xC0)).has (dialA n 0xC0) := dialRegs_dialA hn (by omega) rfl
  have h3m : s1.Moves (dialRegs (Eq 0xC0)) [] s3 := ((Moves.refl _ _ s1).iteThen ((Moves.refl _ _ s1).setBit hC0 _ _)).iteThen
    ((Moves.refl _ _ s2).setBit hC0 _ _)
  have h4m : s1.Moves (dialRegs (Eq 0xC0)) [] s4 := h3m.iteThen (s3.snapAsk_moves _ 0)
  have h34 : s4.rd (dialA n 0xC0) = s3.rd (dialA n 0xC0) := by
    unfold s4
    split
    · exact s3.snapAsk_rd 0 (by unfold dialA invA; omega)
    · rfl
  have hnow : s4.sdlNow = s.sdlNow := h4m.sdlNow (not_dialRegs_low (by decide)) (by simp)
  have hd4 : s4.dial n = s1.dial n := State.dial_congr (h4m.part (p := .dials) (by simp)) n
  refine ⟨s4, ⟨?_, ?_, ?_, ?_, ?_, h4m.part (p := .now) (by simp)⟩, ?_⟩
  · rw [State.dialSub, State.dialUnits, hd4, h1, hnow]
    rfl
  · rw [hd4, h1]
    rfl
  · rw [hd4, h1]
    rfl
  · rw [State.bit_congr h34]
    exact (s2.bit_clearIf_ne da (by omega) (by omega)).trans (s1.bit_clearIf _ 8 ds (by omega))
  · rw [State.bit_congr h34]
    exact (s2.bit_clearIf _ 9 da (by omega)).trans (congrArg _ (s1.bit_clearIf_ne ds (by omega) (by omega)))
  · have hstep : t' - cur = s.armedStep n := by
      rw [State.armedStep, show s.setDue n = ds from rfl, show s.adjDue n = da from rfl, show s.secEdge n = cur from rfl]
      unfold t' t
      cases ds with
      | false => cases da with
        | false => simp
        | true => simp
      | true => cases da with
        | false => simp
        | true => simp; ring
    rw [hstep]

/-- The end of a command leaves the dials' times. -/
theorem State.dialSub_done {s t : State} (h : t.now = s.now) (n : Nat) :
    (((t.setNow s.now).setPending s.pending).setSumCycle []).dialSub n = t.dialSub n := by
  have hd : (((t.setNow s.now).setPending s.pending).setSumCycle []).dials = t.dials := rfl
  exact State.dialSub_congr hd (State.sdlNow_done h) n

theorem dialSecondBoundary_quiet {n : Fin 16} {s : State} (hs : s.sundialRuns = true) (h : s.secNow n ≤ (s.dial n).sec) :
    completes (.dialSecondBoundary n) s (fun t => regsBut (fun _ => False) s t ∧ sameBut [] s t) := by
  refine completes_of_done (t := s) ?_ ⟨fun _ _ => rfl, sameBut_done fun p _ => by cases p <;> rfl⟩
  rw [exec_dialSecondBoundary, execDialSecondBoundary, if_pos hs, State.secondBoundary]
  exact congrArg (done s) (if_pos h)

theorem dialSecondBoundary_steps {n : Fin 16} {s : State} (hs : s.sundialRuns = true) (h : (s.dial n).sec < s.secNow n)
    (h0 : 0 ≤ (s.dialSub n : Int) + s.armedStep n) :
    completes (.dialSecondBoundary n) s (fun t => (t.dialSub n : Int) = s.dialSub n + s.armedStep n ∧
      (t.dial n).setArmed = (if s.setDue n then none else (s.dial n).setArmed) ∧
      (t.dial n).adjArmed = (if s.adjDue n then none else (s.dial n).adjArmed) ∧
      t.bit (dialA n 0xC0) 8 = (!s.setDue n && s.bit (dialA n 0xC0) 8) ∧
      t.bit (dialA n 0xC0) 9 = (!s.adjDue n && s.bit (dialA n 0xC0) 9)) := by
  obtain ⟨u, hu, he⟩ := s.secondBoundary_steps n.isLt h
  have hst := u.timeStep_stepped n.isLt (s.armedStep n)
  obtain ⟨t, ht⟩ : ∃ t, t = u.timeStep n (s.armedStep n) := ⟨_, rfl⟩
  rw [← ht] at hst he
  have hrd : t.rd (dialA n 0xC0) = u.rd (dialA n 0xC0) := hst.steers.rd n.isLt (by omega) (by omega)
  have hnow : t.now = s.now := (hst.steers.moves.part (p := .now) (by simp)).trans hu.now
  refine completes_of_done (t := t) ?_ ⟨?_, hst.setArmed.trans hu.setArmed, hst.adjArmed.trans hu.adjArmed,
    (State.bit_congr hrd 8).trans hu.setBit, (State.bit_congr hrd 9).trans hu.adjBit⟩
  · rw [exec_dialSecondBoundary, execDialSecondBoundary, if_pos hs, he]
  · refine (congrArg Nat.cast (State.dialSub_done hnow n)).trans ?_
    rw [← hu.time]
    exact hst.time (by rw [hu.time]; exact h0)

end Sys2Proof.Machine
end

section
/-! The first step of a window boundary: what it measures and judges is no policy (R136, R138, R139, R141). -/

namespace Sys2Proof.Machine

open Sys2Proof.Cert
open State (Moves Steers Selects)

/-! ### No register in which references show measurements is policy (R141) -/

/-- Places at multiples of 0x80 have the offset of the first, to 0x80. -/
theorem repMatch_mod {d : Nat} {reps : List (Nat × Nat)} (hr : ∀ p ∈ reps, 0x80 ∣ p.2) (h : repMatch d reps = true) : d % 0x80 = 0 := by
  induction reps generalizing d with
  | nil => rw [show d = 0 by simpa [repMatch] using h]
  | cons p rest ih =>
    simp only [repMatch, Bool.and_eq_true] at h
    rw [← Nat.mod_mod_of_dvd d (hr p List.mem_cons_self)]
    exact ih (fun q hq => hr q (List.mem_cons_of_mem _ hq)) h.2

/-- A row below the references, above them, or at an offset that shows no measurement. -/
def FieldRow.clearOfStatus (r : FieldRow) : Prop :=
  r.off < 0x10000 ∧ r.reps = [] ∨ 0x12A00 ≤ r.off ∨ (∀ p ∈ r.reps, 0x80 ∣ p.2) ∧ ¬ statusOff (r.off % 0x80)

theorem FieldRow.not_covers {r : FieldRow} (h : r.clearOfStatus) {o : Nat} (hlo : 0x10000 ≤ o) (hhi : o < 0x12A00)
    (hs : statusOff (o % 0x80)) : r.covers o = false := by
  by_contra hc
  simp only [FieldRow.covers, Bool.and_eq_true, decide_eq_true_eq, Bool.not_eq_false] at hc
  obtain ⟨hle, hrep⟩ := hc
  rcases h with ⟨h, hnil⟩ | h | ⟨hd, hn⟩
  · simp only [hnil, repMatch, beq_iff_eq] at hrep
    omega
  · omega
  · have := repMatch_mod hd hrep
    omega

theorem policyRows_clear : ∀ r ∈ hdrRows ++ sdlRows, r.ty = .rw → r.clearOfStatus := by
  unfold FieldRow.clearOfStatus
  decide

theorem statusRegs_not_policy {a : Nat} (h : statusRegs.has a) : sdlPolicy a = false := by
  rcases h with h | rfl | rfl | ⟨hlo, hhi, hs⟩
  · rw [sdlPolicy, decide_eq_false (by omega)]
    rfl
  · decide
  · decide
  · have hno : (fieldsAt a).any (fun r => r.ty == .rw) = false := by
      rw [List.any_eq_false]
      intro r hr ht
      rw [fieldsAt, blockOf_sdl (by omega)] at hr
      obtain ⟨hm, hc⟩ := List.mem_filter.1 hr
      have hcov := FieldRow.not_covers (policyRows_clear r hm (by simpa using ht)) (o := a - sdlA 0) (by unfold sdlA; omega)
        (by unfold sdlA; omega) (by unfold sdlA; omega)
      rw [hcov] at hc
      exact Bool.false_ne_true hc
    rw [sdlPolicy, hno, Bool.and_false]

/-! ### Measurements (R136, R138, R139) -/

section

variable (s : State) {r : Nat} (hr : r < 84)
include hr

theorem State.setQ_moves {q : Nat} (hq : q < 8) : s.Moves statusRegs [.refs, .dials] (s.setQ r q) := by
  by_cases h : q = s.qstate r
  · rw [State.setQ, if_pos h]
    exact .refl _ _ s
  · exact (s.setQ_requalifies hr hq h).moves

theorem State.judge_moves (f : Int) : s.Moves statusRegs [.refs, .dials] (s.judge r f) := by
  have hto : ∀ (u : State) (q : Nat), q < 8 → u.Moves statusRegs [.refs, .dials] (u.setQ r q) := fun u _ hq => u.setQ_moves hr hq
  have hfld : ∀ (hi lo v : Nat), s.Moves statusRegs [.refs, .dials] (s.setFld (refA r 0x18) hi lo v) := fun hi lo v =>
    (Moves.refl _ _ s).setFld (refRegs_refA hr (by omega) (by omega)) hi lo v
  unfold State.judge
  extract_lets tol a
  split
  · split
    · exact hto s 4 (by omega)
    · split
      · exact (hfld _ _ _).iteThen (hto _ 5 (by omega))
      · exact hfld _ _ _
  · split
    · exact hto s 4 (by omega)
    · split
      · exact (hfld _ _ _).iteThen (hto _ 3 (by omega))
      · exact hfld _ _ _
  · exact (Moves.refl _ _ s).iteThen (hto s 2 (by omega))
  · exact (Moves.refl _ _ s).iteThen (hto s 2 (by omega))
  · exact .refl _ _ s

theorem State.slopeCheck_moves : s.Moves statusRegs [] (s.slopeCheck r) := by
  unfold State.slopeCheck
  extract_lets ps sl s1 f left same
  have h1 : s.Moves statusRegs [] s1 := (Moves.refl _ _ s).wrI (refRegs_refA hr (by omega) (by omega)) _
  split
  · exact .refl _ _ s
  · split
    · exact h1.trans (s1.setWarning_moves hr true)
    · exact h1.iteThen (s1.setWarning_moves hr false)

/-- Step 1 of a boundary for one reference. -/
theorem State.refWindow_moves : s.Moves statusRegs [.refs, .dials] (s.refWindow r) := by
  have hA : ∀ {o}, o < 0x80 → statusOff o → statusRegs.has (refA r o) := refRegs_refA hr
  unfold State.refWindow
  extract_lets m x s1
  have h1 : s.Moves statusRegs [.refs, .dials] s1 := by
    unfold s1
    clear s1
    clear_value m
    cases m with
    | none => exact (Moves.refl _ _ s).setRef (by simp) r _
    | some f =>
      exact (((((Moves.refl _ _ s).setRef (by simp) r _).wrI (hA (by omega) (by omega)) _).wrI (hA (by omega) (by omega)) _).setFld
        (hA (by omega) (by omega)) _ _ _).trans (State.judge_moves _ hr f)
  exact h1.trans ((s1.slopeCheck_moves hr).mono (fun _ => id) (by simp))

end

end Sys2Proof.Machine
end

section
/-! The end of a measurement window: pending policy takes effect together (R141, R142). -/

namespace Sys2Proof.Machine

open Sys2Proof.Cert
open State (Moves Steers Selects)

theorem exec_measurementWindowEnd (s : State) : exec .measurementWindowEnd s = execMeasurementWindowEnd s := rfl

/-! ### What leaves the policy alone -/

/-- The policy in effect and pending, and the start of the window, stand. -/
structure State.HoldsPolicy (s t : State) : Prop where
  policy : t.policy = s.policy
  pending : t.policyPending = s.policyPending
  winStart : t.winStart = s.winStart

namespace State.HoldsPolicy

variable {s t u : State}

theorem refl (s : State) : s.HoldsPolicy s := ⟨rfl, rfl, rfl⟩

theorem trans (h : s.HoldsPolicy t) (k : t.HoldsPolicy u) : s.HoldsPolicy u :=
  ⟨k.policy.trans h.policy, k.pending.trans h.pending, k.winStart.trans h.winStart⟩

theorem iteThen {c : Prop} [Decidable c] (h : s.HoldsPolicy t) (hu : t.HoldsPolicy u) : s.HoldsPolicy (if c then u else t) := by
  split
  · exact h.trans hu
  · exact h

theorem iteElse {c : Prop} [Decidable c] (h : s.HoldsPolicy t) (hu : t.HoldsPolicy u) : s.HoldsPolicy (if c then t else u) := by
  split
  · exact h
  · exact h.trans hu

theorem foldl {β : Type} {f : State → β → State} {l : List β} (h : s.HoldsPolicy t)
    (hf : ∀ u : State, ∀ b ∈ l, u.HoldsPolicy (f u b)) : s.HoldsPolicy (l.foldl f t) :=
  foldl_keeps (fun u => s.HoldsPolicy u) f l (fun u b hb hu => hu.trans (hf u b hb)) t h

end State.HoldsPolicy

open State (HoldsPolicy)

section

variable {s t : State}

theorem State.Quiet.holds (h : s.Quiet t) : s.HoldsPolicy t := ⟨h.policy, h.policyPending, h.winStart⟩

theorem State.Moves.holds {A : Area} {ps : List Part} (h : s.Moves A ps t)
    (hp : ∀ p ∈ [Part.policy, .policyPending, .winStart], p ∉ ps := by simp) : s.HoldsPolicy t :=
  ⟨h.part (p := .policy) (by simpa using hp .policy (by simp)), h.part (p := .policyPending) (by simpa using hp .policyPending (by simp)),
    h.part (p := .winStart) (by simpa using hp .winStart (by simp))⟩

theorem State.Selects.holds {held : Bool} (h : s.Selects held t) : s.HoldsPolicy t := h.moves.holds

theorem State.Steers.holds (h : s.Steers t) : s.HoldsPolicy t := h.moves.holds

end

section

variable (s : State)

theorem State.wrI_holds (a : Nat) (i : Int) : s.HoldsPolicy (s.wrI a i) := ⟨rfl, rfl, rfl⟩
theorem State.setBit_holds (a b : Nat) (v : Bool) : s.HoldsPolicy (s.setBit a b v) := ⟨rfl, rfl, rfl⟩
theorem State.setRef_holds (r : Nat) (x : Ref) : s.HoldsPolicy (s.setRef r x) := ⟨rfl, rfl, rfl⟩
theorem State.setDial_holds (n : Nat) (x : Dial) : s.HoldsPolicy (s.setDial n x) := ⟨rfl, rfl, rfl⟩
theorem State.setSve_holds (i : Nat) (x : Sve) : s.HoldsPolicy (s.setSve i x) := ⟨rfl, rfl, rfl⟩
theorem State.setTwn_holds (x : Twn) : s.HoldsPolicy (s.setTwn x) := ⟨rfl, rfl, rfl⟩

theorem State.sveKind_holds (i : Nat) : s.HoldsPolicy (s.sveKind i) := by
  unfold State.sveKind
  extract_lets k v s1
  have h1 : s.HoldsPolicy s1 := (HoldsPolicy.refl s).iteElse ((s.setSve_holds _ _).trans (State.setBit_holds _ _ _ _))
  exact h1.iteElse (s1.setSve_holds _ _)

theorem State.ttcCheck_holds (n : Nat) (written : Bool) : s.HoldsPolicy (s.ttcCheck n written) := by
  unfold State.ttcCheck
  extract_lets en ok s1
  have h1 : s.HoldsPolicy s1 := (HoldsPolicy.refl s).iteThen ((s.ttcEvent_quiet n 3).trans (State.raiseAs_quiet _ _ _ _ _ _)).holds
  exact h1.trans ⟨rfl, rfl, rfl⟩

theorem State.swCatchUp_holds (r : Nat) : s.HoldsPolicy (s.swCatchUp r) := by
  unfold State.swCatchUp
  extract_lets x
  split
  · exact .refl s
  · exact s.setRef_holds _ _

theorem State.swApply_holds (r : Nat) : s.HoldsPolicy (s.swApply r) := by
  unfold State.swApply
  split
  · exact .refl s
  · exact (s.setRef_holds _ _).trans (State.inc_quiet _ _).holds

theorem State.restoreStep_holds (n : Nat) : s.HoldsPolicy (s.restoreStep n) := s.setDial_holds n _

theorem State.checkEntries_holds (n : Nat) : s.HoldsPolicy (s.checkEntries n) :=
  ((HoldsPolicy.refl s).foldl fun u _ _ => (HoldsPolicy.refl u).iteElse (State.raiseAs_quiet u _ _ _ _ _).holds).trans
    (State.setDial_holds _ n _)

theorem State.setB_holds (n : Nat) (b : Int) : s.HoldsPolicy (s.setB n b) := s.setDial_holds n _

section

variable {r : Nat} (hr : r < 84)
include hr

theorem State.refEval_holds : s.HoldsPolicy (s.refEval r) := by
  have hset : ∀ (u : State) (q : Nat), q < 8 → u.HoldsPolicy (u.setQ r q) := fun u _ hq => (u.setQ_moves hr hq).holds
  unfold State.refEval
  extract_lets q enabled s1 s2 x s3
  split
  · exact hset s 6 (by omega)
  · split
    · exact hset s 0 (by omega)
    · split
      · have h1 : s.HoldsPolicy s1 := (HoldsPolicy.refl s).iteThen
          (((s.event_quiet _ _).trans (State.event_quiet _ _ _)).trans (State.raiseAs_quiet _ _ _ _ _ _)).holds
        exact h1.trans (hset s1 6 (by omega))
      · have h3 : s.HoldsPolicy s3 := (HoldsPolicy.refl s).iteThen
          ((((s.restartMeas_moves hr).holds.trans (State.setRef_holds _ _ _)).trans (State.swCatchUp_holds _ _)).trans
            (hset _ 2 (by omega)))
        exact h3.iteThen (hset s3 1 (by omega))

theorem State.setQNow_holds {q : Nat} (hq : q < 8) : s.HoldsPolicy (s.setQNow r q) :=
  (HoldsPolicy.refl s).iteElse ((s.setQ_moves hr hq).holds.trans (State.dialsSelect_selects _ r).holds)

theorem State.swAccept_holds (f a : Int) : s.HoldsPolicy (s.swAccept r f a) := by
  have h : ∀ u : State, u.HoldsPolicy (u.resumeRef r) := fun u => by
    rw [State.resumeRef_eq]
    refine u.setQNow_holds hr ?_
    unfold State.resumedQ
    split <;> omega
  unfold State.swAccept
  extract_lets x sum s1
  exact (s.setRef_holds _ _ : s.HoldsPolicy s1).iteThen ((s1.swCatchUp_holds r).trans (h _))

end

section

variable {n : Nat} (hn : n < 16)
include hn

theorem State.loopFollow_holds : s.HoldsPolicy (s.loopFollow n) := by
  unfold State.loopFollow
  split
  · exact (s.steerY_steers hn _).holds
  · exact (s.steerY_steers hn _).holds

omit hn in
/-- The reference that a feed names. -/
theorem State.feedRef_lt (s : State) (n : Nat) : 80 + s.fld (exchA n) 9 8 < 84 := by
  have := bitsOf_lt (s.nat (exchA n)) 9 8
  unfold State.fld
  omega

omit hn in
theorem State.feedUpdate_holds (theta : Int) : s.HoldsPolicy (s.feedUpdate n theta) := by
  unfold State.feedUpdate
  extract_lets r f first predicted adj freq s1 mate rem x s2 v s3
  have h1 : s.HoldsPolicy s1 := (s.wrI_holds _ _).trans (State.wrI_holds _ _ _)
  have h2 : s.HoldsPolicy s2 := h1.iteThen (s1.setRef_holds _ _)
  have h3 : s.HoldsPolicy s3 := h2.trans (s2.setTwn_holds _)
  have h4 : s.HoldsPolicy (s3.setBit (exchA n) 12 true) := h3.trans (s3.setBit_holds _ _ _)
  have hr : r < 84 := s.feedRef_lt n
  clear_value r freq adj s3
  exact h4.trans (State.swAccept_holds _ hr freq adj)

omit hn in
theorem State.twinDialWindow_holds : s.HoldsPolicy (s.twinDialWindow n) := by
  unfold State.twinDialWindow
  extract_lets l v s1 mean s2 s3
  have h1 : s.HoldsPolicy s1 := (HoldsPolicy.refl s).iteThen ((s.setBit_holds _ _ _).trans (State.setTwn_holds _ _))
  have h3 : s1.HoldsPolicy s3 := (s1.wrI_holds _ _ : s1.HoldsPolicy s2).iteThen (s2.feedUpdate_holds mean)
  exact h1.iteElse (h3.trans (s3.setTwn_holds _))

omit hn in
theorem State.twinWindow_holds : s.HoldsPolicy s.twinWindow := by
  unfold State.twinWindow
  extract_lets l s1
  have h1 : s.HoldsPolicy s1 := (HoldsPolicy.refl s).iteElse (s.wrI_holds _ _)
  exact (HoldsPolicy.refl s).iteElse ((h1.trans (s1.setTwn_holds _)).foldl fun u n _ => u.twinDialWindow_holds)

theorem State.restartDial_holds : s.HoldsPolicy (s.restartDial n) := by
  unfold State.restartDial
  extract_lets s1 s2 d s3 s4
  have h1 : s.HoldsPolicy s1 := (s.endHoldoff_selects hn).holds
  have h2 : s.HoldsPolicy s2 := h1.iteElse (s1.announce_selects hn 31 127 4 false).holds
  have h3 : s.HoldsPolicy s3 := (h2.trans (s2.setDial_holds _ _)).trans (State.setB_holds _ _ _)
  have h4 : s.HoldsPolicy s4 := (h3.trans (s3.setBit_holds _ _ _)).trans (State.setState_selects _ hn (by omega) false).holds
  exact ((h4.trans (s4.setDial_holds _ _)).trans (State.wrN_quiet _ _ _).holds).trans (State.showDial_moves _ hn).holds

end

end

end Sys2Proof.Machine
end

section
/-! The policy that a window boundary brings into effect, and dials and outputs as a whole (R141, R142). -/

namespace Sys2Proof.Machine

open Sys2Proof.Cert
open State (Moves HoldsPolicy)

/-! ### Pending policy takes effect (R141) -/

/-- Of the registers that are listed, the table holds what they read. -/
theorem get_foldl_read (s : State) (a : Nat) (l : List (Nat × Word)) (t : Tab Word)
    (h : a ∈ l.map Prod.fst ∨ Tab.get t (regReset a) a = s.rd a) :
    Tab.get (l.foldl (fun t p => Tab.set t (regReset p.1) p.1 (s.rd p.1)) t) (regReset a) a = s.rd a := by
  induction l generalizing t with
  | nil => exact h.resolve_left (by simp)
  | cons p rest ih =>
    refine ih _ ?_
    by_cases e : a = p.1
    · exact .inr (by rw [e, Tab.get_set_same])
    · exact h.imp (fun hm => (List.mem_cons.1 hm).resolve_left e) fun ht => by
        rw [← ht]
        exact Tab.get_set_ne t _ _ _ e

/-- The policy in effect is what the registers read; then references, dials, outputs and channels follow it. -/
theorem State.policyEffect_adopts (s : State) : s.policyEffect.policyPending = [] ∧ s.policyEffect.winStart = s.winStart ∧
    ∀ a ∈ s.policyPending, s.policyEffect.pol a = s.rd a := by
  unfold State.policyEffect
  extract_lets s1 ps s2 s3 s4 s5 s6 s7 s8
  have h1 : s.HoldsPolicy s1 ∧ s1.regs = s.regs := by
    refine foldl_keeps (fun u => s.HoldsPolicy u ∧ u.regs = s.regs) _ _ (fun u n _ ⟨hp, hr⟩ => ?_) s ⟨.refl s, rfl⟩
    split
    · exact ⟨hp.trans (u.slewB_steers n).holds, hr⟩
    · exact ⟨hp, hr⟩
  clear_value s1
  have h2 : s2.policyPending = [] ∧ s2.winStart = s.winStart ∧ ∀ a ∈ s.policyPending, s2.pol a = s.rd a := by
    refine ⟨rfl, h1.1.winStart, fun a ha => ?_⟩
    rw [← State.rd_congr h1.2]
    refine get_foldl_read s1 a ps s1.policy (.inl ?_)
    rw [List.map_map]
    simpa [h1.1.pending] using ha
  clear_value s2
  have h4 : s2.HoldsPolicy s4 := (s2.setBit_holds _ _ _ : s2.HoldsPolicy s3).foldl fun u r hr => by
    extract_lets mine v
    have hr := List.mem_range.1 hr
    have hv : u.HoldsPolicy v := (HoldsPolicy.refl u).iteThen (u.restartMeas_moves hr).holds
    exact (HoldsPolicy.refl u).iteElse (hv.trans (v.refEval_holds hr))
  have h5 : s2.HoldsPolicy s5 := h4.foldl fun u i _ => (HoldsPolicy.refl u).iteThen (u.sveKind_holds i)
  have h6 : s2.HoldsPolicy s6 := h5.foldl fun u n hn =>
    (HoldsPolicy.refl u).iteThen (u.loopFollow_holds (List.mem_range.1 hn))
  have h7 : s2.HoldsPolicy s7 := h6.foldl fun u n _ =>
    (HoldsPolicy.refl u).foldl fun v e _ => (HoldsPolicy.refl v).iteThen (v.setDial_holds _ _)
  have h8 : s2.HoldsPolicy s8 := h7.foldl fun u g hg =>
    (HoldsPolicy.refl u).iteThen (u.genFollow_moves (List.mem_range.1 hg) true 2000).holds
  suffices h : ∀ t, s2.HoldsPolicy t → t.policyPending = [] ∧ t.winStart = s.winStart ∧ ∀ a ∈ s.policyPending, t.pol a = s.rd a from
    h _ (h8.foldl fun u n _ => (HoldsPolicy.refl u).iteThen (u.ttcCheck_holds n true))
  obtain ⟨hpend, hwin, hpol⟩ := h2
  exact fun t ht => ⟨ht.pending.trans hpend, ht.winStart.trans hwin, fun a ha => (State.pol_congr ht.policy a).trans (hpol a ha)⟩

/-! ### The boundary (R142) -/

/-- What step 1 leaves: policy, and the registers that are policy. -/
structure State.Measures (s t : State) : Prop where
  pending : t.policyPending = s.policyPending
  winStart : t.winStart = s.winStart + 1000000000
  reads : ∀ a, sdlPolicy a = true → t.rd a = s.rd a

theorem State.exchWindowEnd_adopts (s : State) : s.exchWindowEnd.policyPending = [] ∧
    s.exchWindowEnd.winStart = s.winStart + 1000000000 ∧
    ∀ a ∈ s.policyPending, sdlPolicy a = true → s.exchWindowEnd.pol a = s.rd a := by
  unfold State.exchWindowEnd
  extract_lets s1 s2 s3 touched usable s4 s5 s6
  have h3 : State.Measures s s3 := by
    have h1 : s.Moves statusRegs [] s1 := ((Moves.refl statusRegs _ s).inc (Or.inr (Or.inr (Or.inl rfl)))).tally (by omega) _ _ _
    have h23 : s2.Moves statusRegs [.refs, .dials] s3 := (Moves.refl _ _ s2).foldl fun u r hr =>
      u.refWindow_moves (List.mem_range.1 hr)
    refine ⟨h23.holds.pending.trans h1.holds.pending, h23.holds.winStart.trans ?_, fun a ha => ?_⟩
    · exact congrArg (· + secNs) h1.holds.winStart
    · have hn : ¬ statusRegs.has a := fun e => Bool.false_ne_true ((statusRegs_not_policy e).symm.trans ha)
      exact (h23.regs a hn).trans (h1.regs a hn)
  clear_value s3
  obtain ⟨hpend, hwin, hpol⟩ := s3.policyEffect_adopts
  have h5 : s4.HoldsPolicy s5 := s4.twinWindow_holds.foldl fun u r _ => u.swApply_holds r
  have h6 : s4.HoldsPolicy s6 := h5.foldl fun u n _ => (u.restoreStep_holds n).trans (State.checkEntries_holds _ n)
  suffices h : ∀ t, s4.HoldsPolicy t → t.policyPending = [] ∧ t.winStart = s.winStart + 1000000000 ∧
      ∀ a ∈ s.policyPending, sdlPolicy a = true → t.pol a = s.rd a from
    h _ (h6.foldl fun u n hn => by
      have hn := List.mem_range.1 hn
      split
      · exact (u.restartDial_holds hn).trans (State.showEntries_moves _ hn).holds
      · exact (u.selectDial_selects hn _).holds.trans (State.showDial_moves _ hn).holds)
  refine fun t ht => ⟨ht.pending.trans hpend, ht.winStart.trans (hwin.trans h3.winStart), fun a ha hs => ?_⟩
  rw [State.pol_congr ht.policy, hpol a (h3.pending ▸ ha), h3.reads a hs]

theorem measurementWindowEnd_adopts {s : State} (hs : s.sundialRuns = true) (hw : s.winStart + 1000000000 ≤ s.sdlNow) :
    completes .measurementWindowEnd s (fun t => t.policyPending = [] ∧ t.winStart = s.winStart + 1000000000 ∧
      (∀ a ∈ s.policyPending, sdlPolicy a = true → t.pol a = s.rd a)) := by
  have h := s.exchWindowEnd_adopts
  obtain ⟨t, ht⟩ : ∃ t, t = s.exchWindowEnd := ⟨_, rfl⟩
  rw [← ht] at h
  refine completes_of_done (t := t) ?_ h
  have hd : (s.sundialRuns && decide (s.winStart + secNs ≤ s.sdlNow)) = true := by
    rw [hs, Bool.true_and]
    exact decide_eq_true hw
  rw [exec_measurementWindowEnd, execMeasurementWindowEnd, if_pos hd, ht]

/-- Settles O49: the boundary, each instant of a dial, host commands, generators and time-transfer messages by their own
lemmas. -/
theorem sundialDials : Obligations.SundialDials := by
  unfold Obligations.SundialDials
  intro s
  refine ⟨measurementWindowEnd_adopts, fun n hs => ⟨fun hb hd => holdoffExpiry_ends hs hb hd, lock_locks hs,
    holdoverExpired_loses hs, phaseDetectorUpdate_takes hs, holdoverRecord_records hs, dialSecondBoundary_quiet hs,
    dialSecondBoundary_steps hs⟩, fun n => ⟨restart_asks, fun h => ⟨capture_shows h, timeSet_arms h, timeAdj_arms h⟩⟩,
    timeCaptureAll_counts, fun g => ⟨fun hr hd => ⟨generatorEdge_rises hr rfl hd, generatorEdge_skips hr rfl hd⟩,
    generatorEdge_falls⟩, fun ch x hr => ⟨fun hb => ttcMessage_counted hr (State.ttcTake_spoilt hb),
    fun hb hx => ttcMessage_counted hr (State.ttcTake_garbled hb hx), fun hb hc hv => ⟨ttcMessage_far hr hb hc hv,
    ttcMessage_unanswered hr hb hc hv, fun t1 t4 hd he h1 ha h4 => ttcMessage_answered hr hb hc hv hd he h1 ha h4⟩⟩,
    fun ch => ttcLoss_loses⟩

end Sys2Proof.Machine
end

section
/-! SUPPORT. The record and the registers of a Sieve input, and the reports of its events (R165, R166, R419). -/

namespace Sys2Proof.Machine

open Sys2Proof.Cert
open State (Within)

/-! ### Records -/

@[simp] theorem State.sve_setSve_same (s : State) (i : Nat) (x : Sve) : (s.setSve i x).sve i = x := by
  simp [State.sve, State.setSve]

theorem State.sve_congr {s t : State} (h : t.sves = s.sves) (i : Nat) : t.sve i = s.sve i := by rw [State.sve, State.sve, h]

theorem State.setSve_sameBut (s : State) (i : Nat) (x : Sve) : sameBut [.sves] s (s.setSve i x) := fun p hp => by
  cases p with
  | sves => simp at hp
  | _ => rfl

/-! ### Registers -/

theorem blockOf_sve {a : Nat} (h : 0x100000 ≤ a ∧ a < 0x140000) : blockOf a = some (.sve, 0, 0x100000) := by
  rw [blockOf, regions]
  simp only [regionIn]
  repeat rw [if_neg (by omega)]
  rw [if_pos (by omega)]
  simp only [Option.some.injEq, Prod.mk.injEq, true_and]
  omega

/-- Curator, Inventory, SUMMARY of Sieve, and of each input the registers at the offsets `P`. -/
def sveRegs (P : Nat → Prop) : Area where
  has a := 0x20000 ≤ a ∧ a < 0x40000 ∨ a = 0x100008 ∨ 0x110000 ≤ a ∧ a < 0x120000 ∧ P (a % 0x1000)
  low a h k := .inl ⟨h, k⟩
  summary {a n base k} h hb := by
    by_cases hs : 0x100000 ≤ a ∧ a < 0x140000
    · rw [blockOf_sve hs] at hb
      cases hb
      exact .inr (.inl rfl)
    · have ha : 0x20000 ≤ a ∧ a < 0x40000 := by omega
      obtain ⟨e, he, ⟨h1, h2⟩, h3, h4⟩ := blockOf_same hb
      fin_cases he <;> dsimp only at * <;> omega

/-- Where an event of an input goes: IN_EVENTS, and beyond. -/
abbrev eventRegs : Area := sveRegs (Eq 0x60)

/-- Everything of the inputs but CLIP_COUNT. -/
abbrev besideClips : Area := sveRegs (· ≠ 0x48)

section

variable {P : Nat → Prop} {i o : Nat} (hi : i < 16) (ho : o < 0x1000)
include hi ho

theorem sveA_sve : 0x100000 ≤ sveA i o ∧ sveA i o < 0x140000 := by unfold sveA; omega

theorem sveRegs_sveA (hP : P o) : (sveRegs P).has (sveA i o) := by
  have e : sveA i o % 0x1000 = o := by unfold sveA; omega
  exact .inr (.inr ⟨by unfold sveA; omega, by unfold sveA; omega, e.symm ▸ hP⟩)

theorem besideClips_sveA (h : o ≠ 0x48) : besideClips.has (sveA i o) := sveRegs_sveA hi ho h

theorem not_sveRegs_sveA (hP : ¬ P o) : ¬ (sveRegs P).has (sveA i o) := by
  have e : sveA i o % 0x1000 = o := by unfold sveA; omega
  have hlo : 0x110000 ≤ sveA i o := by unfold sveA; omega
  rintro (h | h | ⟨_, _, h⟩)
  · omega
  · omega
  · exact hP (e ▸ h)

end

theorem sveA_ne {i o p : Nat} (h : o ≠ p) : sveA i o ≠ sveA i p := by unfold sveA; omega

/-! ### Events and their reports -/

/-- The report of an input's event. -/
def State.sveReport (s : State) (i b kind : Nat) (clear : Bool) (detail : Nat) : State :=
  (s.event (sveA i 0x60) b).raise (228 + i) kind clear detail

theorem State.sveReport_quiet (s : State) (i b kind : Nat) (clear : Bool) (detail : Nat) :
    s.Quiet (s.sveReport i b kind clear detail) :=
  (s.event_quiet _ b).trans (State.raiseAs_quiet _ _ _ _ _ _)

section

variable (s : State) {i : Nat} (hi : i < 16)
include hi

/-- An event of an input sets its bit. -/
theorem State.bit_event_sve {b : Nat} (hb : b < 24) : (s.event (sveA i 0x60) b).bit (sveA i 0x60) b = true :=
  (s.bit_event_same hb fun k m base e => by
    rw [blockOf_sve (sveA_sve (o := 0x60) hi (by omega))] at e
    cases e
    unfold sveA
    omega).1

theorem State.sveReport_within (b kind : Nat) (clear : Bool) (detail : Nat) :
    s.Within eventRegs (s.sveReport i b kind clear detail) :=
  ((Within.refl _ s).event (sveRegs_sveA (o := 0x60) hi (by omega) rfl) b).raise
    (fun _ => Area.report (src := 228 + i) _ (by omega)) _ _ _

theorem State.bit_sveReport {b : Nat} (hb : b < 24) (kind : Nat) (clear : Bool) (detail : Nat) :
    (s.sveReport i b kind clear detail).bit (sveA i 0x60) b = true :=
  (State.bit_congr (State.rd_raiseAs_ne _ _ _ _ _ (not_reportReg_sdl (by omega) (by unfold sveA; omega))) b).trans
    (s.bit_event_sve hi hb)

end

end Sys2Proof.Machine
end

section
/-! SUPPORT. What an edge moves when it reaches Sundial: nothing outside Sundial, Curator and Inventory (R133, R138, R168). -/

namespace Sys2Proof.Machine

open Sys2Proof.Cert
open State (Moves)

/-- Curator, Inventory and Sundial. -/
def sdlSide : Area where
  has a := 0x20000 ≤ a ∧ a < 0x40000 ∨ 0x80000 ≤ a ∧ a < 0x100000
  low a h k := .inl ⟨h, k⟩
  summary {a n base k} h hb := by
    obtain ⟨e, he, ⟨h1, h2⟩, h3, h4⟩ := blockOf_same hb
    fin_cases he <;> dsimp only at * <;> omega

theorem dialRegs_sdlSide {P : Nat → Prop} (a : Nat) (h : (dialRegs P).has a) : sdlSide.has a := by
  show 0x20000 ≤ a ∧ a < 0x40000 ∨ 0x80000 ≤ a ∧ a < 0x100000
  rcases h with h | h | ⟨h1, h2, _⟩ | h <;> omega

theorem refRegs_sdlSide {P : Nat → Prop} (a : Nat) (h : (refRegs P).has a) : sdlSide.has a := by
  show 0x20000 ≤ a ∧ a < 0x40000 ∨ 0x80000 ≤ a ∧ a < 0x100000
  unfold refRegs sdlA at h
  rcases h with h | h | h | ⟨h1, h2, _⟩ <;> omega

theorem not_sdlSide_sveA {i o : Nat} : ¬ sdlSide.has (sveA i o) := by
  unfold sdlSide sveA
  dsimp only
  omega

/-- The parts that an edge may change. -/
abbrev edgeParts : List Part := [.refs, .dials, .gens, .twn]

section

variable (s : State) {r : Nat} (hr : r < 84)
include hr

theorem State.setQNow_moves {q : Nat} (hq : q < 8) : s.Moves sdlSide edgeParts (s.setQNow r q) :=
  (Moves.refl _ _ s).iteElse (((s.setQ_moves hr hq).mono refRegs_sdlSide (by simp)).trans
    ((State.dialsSelect_selects _ r).moves.mono dialRegs_sdlSide (by simp)))

theorem State.resumeRef_moves : s.Moves sdlSide edgeParts (s.resumeRef r) := by
  rw [State.resumeRef_eq]
  refine s.setQNow_moves hr ?_
  unfold State.resumedQ
  split <;> omega

theorem State.goodEdge_moves (te : Nat) (mark : Bool) : s.Moves sdlSide edgeParts (s.goodEdge r te mark) := by
  unfold State.goodEdge
  extract_lets x s1 s2 y s3
  have h1 : s.Moves sdlSide edgeParts s1 := ((Moves.refl _ _ s).setRef (by simp) r _).tallySdl _ _ _
  have h2 : s.Moves sdlSide edgeParts s2 := h1.iteThen (s1.resumeRef_moves hr)
  have h3 : s.Moves sdlSide edgeParts s3 := (h2.setRef (by simp) r _).setBit (Or.inr (refA_sdl hr (by omega))) _ _
  refine h3.foldl fun u n _ => (Moves.refl _ _ u).iteThen ?_
  obtain ⟨d, e | e⟩ := u.dialEdge_dials n r te mark
  · exact e ▸ (Moves.refl _ _ u).setDial (by simp) n d
  · exact e.symm ▸ Moves.refl _ _ u

theorem State.refEdge_moves (te : Nat) (mark : Bool) : s.Moves sdlSide edgeParts (s.refEdge r te mark) := by
  have hbad : s.Moves sdlSide edgeParts ((s.inc (refA r 0x28)).tallySdl r 3 1) :=
    ((Moves.refl _ _ s).inc (Or.inr (refA_sdl hr (by omega)))).tallySdl _ _ _
  unfold State.refEdge
  split
  · exact .refl _ _ s
  · split
    · split
      · exact s.goodEdge_moves hr te mark
      · exact hbad
    · exact s.goodEdge_moves hr te mark
    · exact .refl _ _ s

end

end Sys2Proof.Machine
end

section
/-! Samples of a Sieve input: what follows from a code leaves the index of the next sample and CLIP_COUNT (R152 to R164). -/

namespace Sys2Proof.Machine

open Sys2Proof.Cert
open State (Within)

/-! ### What leaves the index and CLIP_COUNT -/

/-- The index of the input's next sample stands, and every CLIP_COUNT. -/
structure State.HoldsSamples (i : Nat) (s t : State) : Prop where
  within : s.Within besideClips t
  idx : (t.sve i).idx = (s.sve i).idx

namespace State.HoldsSamples

variable {i a : Nat} {s t u : State}

theorem refl (i : Nat) (s : State) : s.HoldsSamples i s := ⟨.refl _ s, rfl⟩

theorem trans (h : s.HoldsSamples i t) (k : t.HoldsSamples i u) : s.HoldsSamples i u :=
  ⟨h.within.trans k.within, k.idx.trans h.idx⟩

theorem wrN (h : s.HoldsSamples i t) (ha : besideClips.has a) (n : Nat) : s.HoldsSamples i (t.wrN a n) :=
  h.trans ⟨(Within.refl _ t).wrN ha n, rfl⟩

theorem setBit (h : s.HoldsSamples i t) (ha : besideClips.has a) (n : Nat) (b : Bool) : s.HoldsSamples i (t.setBit a n b) :=
  h.wrN ha _

theorem inc (h : s.HoldsSamples i t) (ha : besideClips.has a) : s.HoldsSamples i (t.inc a) := h.wrN ha _

theorem setSve (h : s.HoldsSamples i t) {x : Sve} (hx : x.idx = (t.sve i).idx) : s.HoldsSamples i (t.setSve i x) :=
  h.trans ⟨(Within.refl _ t).setSve i x, (congrArg Sve.idx (t.sve_setSve_same i x)).trans hx⟩

theorem iteThen {c : Prop} [Decidable c] (h : s.HoldsSamples i t) (hu : t.HoldsSamples i u) :
    s.HoldsSamples i (if c then u else t) := by
  split
  · exact h.trans hu
  · exact h

theorem iteElse {c : Prop} [Decidable c] (h : s.HoldsSamples i t) (hu : t.HoldsSamples i u) :
    s.HoldsSamples i (if c then t else u) := by
  split
  · exact h
  · exact h.trans hu

end State.HoldsSamples

open State (HoldsSamples)

theorem Sve.detect_idx (v : Sve) (k : Nat) (x : Int) : (v.detect k x).idx = v.idx := by
  unfold Sve.detect
  extract_lets v1 v2 v3
  have h1 : v1.idx = v.idx := by unfold v1; split <;> rfl
  have h2 : v2.idx = v1.idx := by unfold v2; split <;> rfl
  have h3 : v3.idx = v2.idx := rfl
  split
  · exact h3.trans (h2.trans h1)
  · exact h3.trans (h2.trans h1)

section

variable (s : State) {i : Nat} (hi : i < 16)
include hi

theorem State.pulse_holds (edge width trail : Int) (mixed inWin : Bool) :
    s.HoldsSamples i (s.pulse i edge width trail mixed inWin) := by
  unfold State.pulse
  extract_lets v sd lo hi' within run v1 broad s1 v2
  have h1 : s.HoldsSamples i s1 := (HoldsSamples.refl i s).iteThen
    ((HoldsSamples.refl i s).setBit (besideClips_sveA hi (by omega) (by omega)) _ _)
  have hv : v2.idx = (s1.sve i).idx := h1.idx.symm
  split
  · split
    · exact (h1.setSve hv).inc (besideClips_sveA hi (by omega) (by omega))
    · split
      · exact h1.setSve hv
      · exact h1.setSve hv
  · exact HoldsSamples.inc (HoldsSamples.setSve (.refl i s) rfl) (besideClips_sveA hi (by omega) (by omega))

theorem State.slicer_holds (b n : Nat) (x : Int) : s.HoldsSamples i (s.slicer i b n x) := by
  unfold State.slicer
  extract_lets v sl s1 v1 s2
  have h1 : s.HoldsSamples i s1 := (HoldsSamples.refl i s).setSve rfl
  have h2 : s.HoldsSamples i s2 := h1.setSve rfl
  split
  · exact h1
  · extract_lets t mixed
    split
    · exact h1.setSve rfl
    · split
      · split
        · exact h1
        · split
          · exact h2.trans (s2.pulse_holds hi _ _ _ _ _)
          · exact h2.trans (s2.pulse_holds hi _ _ _ _ _)
      · exact h1

theorem State.outSample_holds (b n : Nat) (x : Int) : s.HoldsSamples i (s.outSample i b n x) := by
  unfold State.outSample
  extract_lets a d s1 gated v upd v1 s2 s3 ins s4
  have h1 : s.HoldsSamples i s1 := (HoldsSamples.refl i s).iteThen
    ((HoldsSamples.refl i s).setBit (besideClips_sveA hi (by omega) (by omega)) _ _)
  have hv : v1.idx = (s1.sve i).idx := Sve.detect_idx _ _ x
  have h3 : s1.HoldsSamples i s3 := ((HoldsSamples.refl i s1).setSve hv).wrN (besideClips_sveA hi (by omega) (by omega)) _
  have h4 : s3.HoldsSamples i s4 := (HoldsSamples.refl i s3).iteElse ((HoldsSamples.refl i s3).setSve (hv.trans h3.idx.symm))
  exact ((h1.trans h3).trans h4).trans (s4.slicer_holds hi b n x)

/-! ### One code, and a list of them (R152, R153) -/

/-- A clipped code is counted once; its event and its report leave the rest. -/
theorem State.clip_holds : (s.inc (sveA i 0x48)).HoldsSamples i (s.clip i) := by
  unfold State.clip
  extract_lets s1 l
  have hq : (s.inc (sveA i 0x48)).Quiet s1 := State.event_quiet _ _ _
  have h1 : (s.inc (sveA i 0x48)).HoldsSamples i s1 :=
    ⟨(Within.refl _ _).event (besideClips_sveA hi (by omega) (by omega)) _, congrArg Sve.idx (State.sve_congr hq.sves i)⟩
  have h2 : (s.inc (sveA i 0x48)).HoldsSamples i (s1.setSve i { s1.sve i with clips := l }) := h1.setSve rfl
  exact h2.trans ⟨(Within.refl _ _).raiseLim (by omega) _ _ _ _ _,
    congrArg Sve.idx (State.sve_congr (State.raiseLim_quiet _ _ _ _ _ _ _).sves i)⟩

theorem State.adcSample_counts (c : BitVec 12) : ((s.adcSample i c).sve i).idx = (s.sve i).idx + 1 ∧
    (s.adcSample i c).nat (sveA i 0x48) = (s.nat (sveA i 0x48) + if c = 0 ∨ c = 4095 then 1 else 0) % 2 ^ 32 := by
  have hclips : ∀ {u v : State}, u.HoldsSamples i v → v.nat (sveA i 0x48) = u.nat (sveA i 0x48) := fun h =>
    State.nat_congr (h.within.regs _ (not_sveRegs_sveA hi (by omega) (by omega)))
  unfold State.adcSample
  extract_lets s1 v n v1 s2 b
  have h1 : (s1.sve i).idx = (s.sve i).idx ∧
      s1.nat (sveA i 0x48) = (s.nat (sveA i 0x48) + if c = 0 ∨ c = 4095 then 1 else 0) % 2 ^ 32 := by
    unfold s1
    split
    · exact ⟨(s.clip_holds hi).idx, (hclips (s.clip_holds hi)).trans (s.nat_inc_same _)⟩
    · exact ⟨rfl, (Nat.mod_eq_of_lt (s.nat_lt _)).symm⟩
  obtain ⟨hidx, hcount⟩ := h1
  have h2 : (s2.sve i).idx = (s.sve i).idx + 1 ∧ s2.nat (sveA i 0x48) = s1.nat (sveA i 0x48) :=
    ⟨(congrArg Sve.idx (s1.sve_setSve_same i v1)).trans (congrArg (· + 1) hidx), rfl⟩
  suffices h : ∀ t, s2.HoldsSamples i t → (t.sve i).idx = (s.sve i).idx + 1 ∧
      t.nat (sveA i 0x48) = (s.nat (sveA i 0x48) + if c = 0 ∨ c = 4095 then 1 else 0) % 2 ^ 32 by
    split
    · exact h s2 (.refl i s2)
    · split
      exact h _ (((HoldsSamples.refl i s2).iteThen
        ((HoldsSamples.refl i s2).inc (besideClips_sveA hi (by omega) (by omega)))).trans (State.outSample_holds _ hi _ _ _))
  exact fun t ht => ⟨ht.idx.trans h2.1, (hclips ht).trans (h2.2.trans hcount)⟩

theorem State.adcSamples_count (adc : List (BitVec 12)) :
    ((adc.foldl (fun s c => s.adcSample i c) s).sve i).idx = (s.sve i).idx + adc.length ∧
    (adc.foldl (fun s c => s.adcSample i c) s).nat (sveA i 0x48) =
      (s.nat (sveA i 0x48) + (adc.filter (fun c => decide (c = 0 ∨ c = 4095))).length) % 2 ^ 32 := by
  induction adc generalizing s with
  | nil => exact ⟨rfl, (Nat.mod_eq_of_lt (s.nat_lt _)).symm⟩
  | cons c rest ih =>
    obtain ⟨hidx, hcount⟩ := ih (s.adcSample i c)
    obtain ⟨hidx1, hcount1⟩ := s.adcSample_counts hi c
    refine ⟨hidx.trans (by rw [hidx1, List.length_cons]; omega), hcount.trans ?_⟩
    rw [hcount1, Nat.mod_add_mod, add_assoc]
    congr 2
    by_cases h : c = 0 ∨ c = 4095
    · rw [if_pos h, List.filter_cons_of_pos (by simpa using h), List.length_cons, add_comm]
    · rw [if_neg h, List.filter_cons_of_neg (by simpa using h), zero_add]

end

end Sys2Proof.Machine
end

section
/-! Sieve: swaps, edges, windows, blocks and the gate (R153, R156, R157, R159, R161, R162, R164). -/

namespace Sys2Proof.Machine

open Sys2Proof.Cert
open State (Within)

theorem exec_swap (i : Fin 16) (s : State) : exec (.swap i) s = execSwap i s := rfl
theorem exec_swapDone (i : Fin 16) (s : State) : exec (.swapDone i) s = execSwapDone i s := rfl
theorem exec_edgeDelivery (i : Fin 16) (s : State) : exec (.edgeDelivery i) s = execEdgeDelivery i s := rfl
theorem exec_windowIn (i : Fin 16) (s : State) : exec (.windowIn i) s = execWindowIn i s := rfl
theorem exec_windowOut (i : Fin 16) (s : State) : exec (.windowOut i) s = execWindowOut i s := rfl
theorem exec_outputSample (i : Fin 16) (adc : List (BitVec 12)) (s : State) :
    exec (.outputSample i adc) s = execOutputSample i adc s := rfl
theorem exec_peakBlockEnd (i : Fin 16) (s : State) : exec (.peakBlockEnd i) s = execPeakBlockEnd i s := rfl
theorem exec_gateLapse (i : Fin 16) (s : State) : exec (.gateLapse i) s = execGateLapse i s := rfl

section

variable {i : Fin 16} {s : State}

/-! ### Bank swaps (R156 to R158) -/

theorem swap_waits (h : hostAt s (sveA i.val 4)) :
    completes (.swap i) s (fun t => t.bit (sveA i.val 4) 9 = true ∧ keeps [] s t ∧
      regsBut (fun r => counting r ∨ r = sveA i.val 4) s t) := by
  obtain ⟨u, hu, e⟩ := hostTo_counted h (fun s => s.sveSwap i.val)
  have hb : (u.sveSwap i.val).bit (sveA i.val 4) 9 = true := u.bit_setBit_same true (by omega)
  have hq : s.Quiet (u.sveSwap i.val) := hu.quiet.trans (u.setBit_quiet _ _ _)
  have hrd : regsBut (fun r => counting r ∨ r = sveA i.val 4) s (u.sveSwap i.val) := fun a ha => by
    obtain ⟨hc, h4⟩ := not_or.1 ha
    exact (u.rd_setBit_ne _ _ h4).trans (hu.counts a hc)
  refine completes_of_state ((exec_swap i s).trans (congrArg (done s) e)) fun t ht => ?_
  rw [← ht] at hb hq hrd
  exact ⟨hb, sameBut_done (hq.keeps _), hrd⟩

/-- What the swap leaves for the host to see, and from where the new D counts. -/
structure State.Swapped (i b : Nat) (s t : State) : Prop where
  active : t.activeBank i = b
  waits : t.bit (sveA i 4) 9 = false
  gd : t.fld (sveA i 0x20) 23 0 = s.gdTotal i b % 2 ^ 24
  unknown : t.bit (sveA i 0x20) 24 = s.gdUnknown i b
  phase : (t.sve i).phaseFrom = (s.sve i).idx
  count : t.nat (sveA i 0x54) = (s.nat (sveA i 0x54) + 1) % 2 ^ 32
  parts : keeps [.sves] s t

/-- The reports that follow the swap leave all of that. -/
theorem State.Swapped.reported {k b : Nat} {s t u : State} (h : State.Swapped k b s t) (hk : k < 16) (hq : t.Quiet u)
    (hw : t.Within eventRegs u) : State.Swapped k b s u := by
  have hrd : ∀ {o}, o < 0x1000 → o ≠ 0x60 → u.rd (sveA k o) = t.rd (sveA k o) := fun ho h =>
    hw.regs _ (not_sveRegs_sveA hk ho h.symm)
  exact ⟨(State.fld_congr (hrd (by omega) (by omega)) 8 8).trans h.active,
    (State.bit_congr (hrd (by omega) (by omega)) 9).trans h.waits,
    (State.fld_congr (hrd (by omega) (by omega)) 23 0).trans h.gd,
    (State.bit_congr (hrd (by omega) (by omega)) 24).trans h.unknown,
    (congrArg Sve.phaseFrom (State.sve_congr hq.sves k)).trans h.phase,
    (State.nat_congr (hrd (by omega) (by omega))).trans h.count, keeps_trans h.parts (hq.keeps _)⟩

/-- BANK_CTRL and GD_STATUS show the bank `b`. -/
def State.showBank (s : State) (k b gd : Nat) (unknown : Bool) : State :=
  (((s.setFld (sveA k 4) 8 8 b).setBit (sveA k 4) 9 false).setFld (sveA k 0x20) 23 0 gd).setBit (sveA k 0x20) 24 unknown

section

variable (s : State) (k gd : Nat) (unknown : Bool)

theorem State.showBank_quiet (b : Nat) : s.Quiet (s.showBank k b gd unknown) :=
  (((s.setFld_quiet _ _ _ _).trans (State.setBit_quiet _ _ _ _)).trans (State.setFld_quiet _ _ _ _ _)).trans
    (State.setBit_quiet _ _ _ _)

theorem State.rd_showBank_ne (b : Nat) {o : Nat} (h4 : o ≠ 4) (h20 : o ≠ 0x20) :
    (s.showBank k b gd unknown).rd (sveA k o) = s.rd (sveA k o) := by
  rw [State.showBank, State.rd_setBit_ne _ _ _ (sveA_ne h20), State.rd_setFld_ne _ _ _ _ (sveA_ne h20),
    State.rd_setBit_ne _ _ _ (sveA_ne h4), State.rd_setFld_ne _ _ _ _ (sveA_ne h4)]

/-- The bank that is shown as active, with no swap pending. -/
theorem State.showBank_ctrl {b : Nat} (hb : b < 2) : (s.showBank k b gd unknown).activeBank k = b ∧
    (s.showBank k b gd unknown).bit (sveA k 4) 9 = false := by
  have h4 : (s.showBank k b gd unknown).rd (sveA k 4) =
      ((s.setFld (sveA k 4) 8 8 b).setBit (sveA k 4) 9 false).rd (sveA k 4) := by
    rw [State.showBank, State.rd_setBit_ne _ _ _ (sveA_ne (by omega)), State.rd_setFld_ne _ _ _ _ (sveA_ne (by omega))]
  rw [State.activeBank, State.fld_congr h4, State.bit_congr h4, State.bit_setBit_same _ _ (by omega), State.setBit,
    State.fld_setFld_below _ _ (by omega) (by omega) (by omega), State.fld_setFld_same _ _ (by omega) (by omega)]
  exact ⟨Nat.mod_eq_of_lt hb, rfl⟩

/-- Its group delay. -/
theorem State.showBank_gd (b : Nat) : (s.showBank k b gd unknown).fld (sveA k 0x20) 23 0 = gd % 2 ^ 24 ∧
    (s.showBank k b gd unknown).bit (sveA k 0x20) 24 = unknown := by
  rw [State.showBank, State.bit_setBit_same _ _ (by omega), State.setBit,
    State.fld_setFld_below _ _ (by omega) (by omega) (by omega), State.fld_setFld_same _ _ (by omega) (by omega)]
  exact ⟨rfl, rfl⟩

/-- The new D counts from the next sample, and the swap is counted. -/
def State.startBank (s : State) (k : Nat) : State :=
  (s.setSve k { s.sve k with phaseFrom := (s.sve k).idx }).inc (sveA k 0x54)

theorem State.rd_startBank_ne {o : Nat} (h : o ≠ 0x54) : (s.startBank k).rd (sveA k o) = s.rd (sveA k o) :=
  (State.rd_inc_ne _ (sveA_ne h)).trans (s.rd_setSve k _ _)

theorem State.phaseFrom_startBank : ((s.startBank k).sve k).phaseFrom = (s.sve k).idx := by
  rw [State.startBank, State.sve_congr (State.inc_quiet _ _).sves, State.sve_setSve_same]

theorem State.startBank_swapped {b : Nat} (hb : b < 2) :
    State.Swapped k b s ((s.showBank k b (s.gdTotal k b) (s.gdUnknown k b)).startBank k) := by
  have hq := s.showBank_quiet k (s.gdTotal k b) (s.gdUnknown k b) b
  have h54 := s.rd_showBank_ne k (s.gdTotal k b) (s.gdUnknown k b) b (o := 0x54) (by omega) (by omega)
  obtain ⟨hactive, hwaits⟩ := s.showBank_ctrl k (s.gdTotal k b) (s.gdUnknown k b) hb
  obtain ⟨hgd, hunknown⟩ := s.showBank_gd k (s.gdTotal k b) (s.gdUnknown k b) b
  generalize s.showBank k b (s.gdTotal k b) (s.gdUnknown k b) = u at hq h54 hactive hwaits hgd hunknown ⊢
  have hrd : ∀ {o}, o ≠ 0x54 → (u.startBank k).rd (sveA k o) = u.rd (sveA k o) := u.rd_startBank_ne k
  refine ⟨(State.fld_congr (hrd (by omega)) 8 8).trans hactive, (State.bit_congr (hrd (by omega)) 9).trans hwaits,
    (State.fld_congr (hrd (by omega)) 23 0).trans hgd, (State.bit_congr (hrd (by omega)) 24).trans hunknown,
    (u.phaseFrom_startBank k).trans (congrArg Sve.idx (State.sve_congr hq.sves k)), ?_,
    keeps_trans (hq.keeps _) (keeps_trans (keeps_of_sameBut (u.setSve_sameBut k _)) ((State.inc_quiet _ _).keeps _))⟩
  rw [State.startBank, State.nat_inc_same, State.nat_congr (u.rd_setSve k _ _), State.nat_congr h54]

end

/-- The bank is shown and starts, the swap is reported, and then GD_UNKNOWN, set or cleared. -/
theorem State.sveSwapDone_swaps (s : State) {k : Nat} (hk : k < 16) :
    State.Swapped k (1 - s.activeBank k) s (s.sveSwapDone k) := by
  unfold State.sveSwapDone
  extract_lets b was unknown gd s1 s2 v s3 s4
  have h4 : State.Swapped k b s s4 := (s.startBank_swapped k (b := b) (by omega)).reported hk
    (State.sveReport_quiet _ k 3 0x53 false _) (State.sveReport_within _ hk 3 0x53 false _)
  clear_value s4
  split
  · exact h4.reported hk (s4.sveReport_quiet k 4 0x52 false _) (s4.sveReport_within hk 4 0x52 false _)
  · split
    · exact h4.reported hk (s4.raiseAs_quiet _ _ _ _ _) ((Within.refl _ s4).raise (fun _ => Area.report _ (by omega)) _ _ _)
    · exact h4

theorem swapDone_swaps (hr : s.sampleRuns i.val = true) (hp : s.bit (sveA i.val 4) 9 = true)
    (hb : s.sieves i.val = true →
      ((s.sve i.val).idx - (s.sve i.val).phaseFrom) % s.decim i.val (s.activeBank i.val) = 0) :
    completes (.swapDone i) s (State.Swapped i.val (1 - s.activeBank i.val) s) := by
  have hout : s.outBoundary i.val = true := by
    cases hs : s.sieves i.val with
    | false => rw [State.outBoundary, hs]; rfl
    | true => rw [State.outBoundary, hs, hb hs]; rfl
  have h := s.sveSwapDone_swaps i.isLt
  refine completes_of_done (t := s.sveSwapDone i.val) ?_
    ⟨h.active, h.waits, h.gd, h.unknown, h.phase, h.count, sameBut_done h.parts⟩
  rw [exec_swapDone, execSwapDone, hr, hp, hout]
  rfl

/-! ### Edges and samples (R152, R153, R164) -/

theorem edgeDelivery_delivers (hs : s.sieves i.val = true) {tick : Int} {mark : Bool} {rest : List (Int × Bool)}
    (hr : (s.sve i.val).ready = (tick, mark) :: rest) :
    completes (.edgeDelivery i) s (fun t => (t.sve i.val).ready = rest ∧
      t.nat (sveA i.val 0x40) = (s.nat (sveA i.val 0x40) + 1) % 2 ^ 32) := by
  obtain ⟨u, hu⟩ : ∃ u, u = (s.setSve i.val { s.sve i.val with ready := rest }).inc (sveA i.val 0x40) := ⟨_, rfl⟩
  have he : s.edgeOut i.val = u.refEdge i.val (s.tickTime i.val tick) mark := by
    rw [State.edgeOut, hr, hu]
  have hm := u.refEdge_moves (r := i.val) (by omega) (s.tickTime i.val tick) mark
  obtain ⟨t, ht⟩ : ∃ t, t = u.refEdge i.val (s.tickTime i.val tick) mark := ⟨_, rfl⟩
  rw [← ht] at he hm
  refine completes_of_done (t := t) ?_ ⟨?_, ?_⟩
  · rw [exec_edgeDelivery, execEdgeDelivery, if_pos hs, he]
  · refine (congrArg Sve.ready (State.sve_congr (hm.part (p := .sves) (by simp)) i.val)).trans ?_
    rw [hu]
    exact congrArg Sve.ready (s.sve_setSve_same i.val _)
  · refine (State.nat_congr (hm.regs _ not_sdlSide_sveA)).trans ?_
    rw [hu]
    exact State.nat_inc_same _ _

theorem outputSample_counts (hs : s.sieves i.val = true) (adc : List (BitVec 12)) :
    completes (.outputSample i adc) s (fun t => (t.sve i.val).idx = (s.sve i.val).idx + adc.length ∧
      t.nat (sveA i.val 0x48) =
        (s.nat (sveA i.val 0x48) + (adc.filter (fun c => decide (c = 0 ∨ c = 4095))).length) % 2 ^ 32) := by
  have h := s.adcSamples_count i.isLt adc
  obtain ⟨t, ht⟩ : ∃ t, t = adc.foldl (fun s c => s.adcSample i.val c) s := ⟨_, rfl⟩
  rw [← ht] at h
  refine completes_of_done (t := t) ?_ h
  rw [exec_outputSample, execOutputSample, if_pos hs, ht]

/-! ### The amplitude window (R161) -/

/-- IN_WINDOW of the input and of SVE_STATUS, and the event. -/
theorem State.setWindow_shows (s : State) {k : Nat} (hk : k < 16) (on : Bool) :
    (s.setWindow k on).inWindow k = on ∧ (s.setWindow k on).bit 0x100100 k = on ∧
      (s.setWindow k on).bit (sveA k 0x60) (if on then 0 else 1) = true ∧ s.Quiet (s.setWindow k on) := by
  obtain ⟨u, hu⟩ : ∃ u, u = (s.setBit (sveA k 0x30) 0 on).setBit 0x100100 k on := ⟨_, rfl⟩
  have he : s.setWindow k on = u.sveReport k (if on then 0 else 1) 0x50 on (s.ampMv k) := hu ▸ rfl
  have hw := u.sveReport_within hk (if on then 0 else 1) 0x50 on (s.ampMv k)
  have hq : s.Quiet u := hu ▸ (s.setBit_quiet _ _ _).trans (State.setBit_quiet _ _ _ _)
  rw [he]
  refine ⟨?_, ?_, u.bit_sveReport hk (by split <;> omega) _ _ _, hq.trans (u.sveReport_quiet _ _ _ _ _)⟩
  · refine (State.bit_congr (hw.regs _ (not_sveRegs_sveA hk (by omega) (by omega))) 0).trans ?_
    rw [hu, State.bit_congr (State.rd_setBit_ne _ _ _ (by unfold sveA; omega))]
    exact s.bit_setBit_same on (by omega)
  · refine (State.bit_congr (hw.regs _ ?_) k).trans ?_
    · rintro (h | h | ⟨h, _⟩) <;> omega
    · rw [hu]
      exact State.bit_setBit_same _ on (by omega)

/-- A command that enters or leaves the window. -/
theorem completes_of_setWindow {c : Instr} {on : Bool} (he : exec c s = done s (s.setWindow i.val on)) :
    completes c s (fun t => t.inWindow i.val = on ∧ t.bit 0x100100 i.val = on ∧
      t.bit (sveA i.val 0x60) (if on then 0 else 1) = true ∧ keeps [] s t) := by
  obtain ⟨hin, hall, hev, hq⟩ := s.setWindow_shows i.isLt on
  refine completes_of_state he fun t ht => ?_
  rw [← ht] at hin hall hev hq
  exact ⟨hin, hall, hev, sameBut_done (hq.keeps _)⟩

section

variable (hs : s.sieves i.val = true)
include hs

theorem windowIn_enters (hw : s.inWindow i.val = false) (hin : (s.sve i.val).inside = true)
    (ht : (s.sve i.val).insideAt + 1000000 ≤ s.sdlNow) :
    completes (.windowIn i) s (fun t => t.inWindow i.val = true ∧ t.bit 0x100100 i.val = true ∧
      t.bit (sveA i.val 0x60) 0 = true ∧ keeps [] s t) := by
  have hd : decide ((s.sve i.val).insideAt + msNs ≤ s.sdlNow) = true := decide_eq_true ht
  refine completes_of_setWindow ?_
  simp only [exec_windowIn, execWindowIn, hs, hw, hin, hd]
  rfl

theorem windowOut_leaves (hw : s.inWindow i.val = true) (hin : (s.sve i.val).inside = false)
    (ht : (s.sve i.val).insideAt + 100000 ≤ s.sdlNow) :
    completes (.windowOut i) s (fun t => t.inWindow i.val = false ∧ t.bit 0x100100 i.val = false ∧
      t.bit (sveA i.val 0x60) 1 = true ∧ keeps [] s t) := by
  have hd : decide ((s.sve i.val).insideAt + 100 * usNs ≤ s.sdlNow) = true := decide_eq_true ht
  refine completes_of_setWindow ?_
  simp only [exec_windowOut, execWindowOut, hs, hw, hin, hd]
  rfl

end

/-! ### Detector blocks and the back-porch gate (R159, R162) -/

theorem unsignedOf_lt (n : Nat) (x : Int) : unsignedOf n x < 2 ^ n := by
  have h := Int.emod_lt_of_pos x (b := ((2 ^ n : Nat) : Int)) (by positivity)
  have h0 := Int.emod_nonneg x (b := ((2 ^ n : Nat) : Int)) (by positivity)
  unfold unsignedOf
  omega

/-- Two halves written to a register as one word. -/
theorem State.fld_wrN_halves (s : State) (a : Nat) {x y : Nat} (hx : x < 65536) (hy : y < 65536) :
    (s.wrN a (x + y * 65536)).fld a 15 0 = x ∧ (s.wrN a (x + y * 65536)).fld a 31 16 = y := by
  rw [State.fld, State.fld, State.nat_wrN_same]
  unfold bitsOf
  omega

section

variable (hr : s.sampleRuns i.val = true)
include hr

theorem peakBlockEnd_shows {mx mn : Int} {rms : Nat} (hb : (s.sve i.val).block = some (mx, mn, rms)) :
    completes (.peakBlockEnd i) s (fun t => t.sve i.val = { s.sve i.val with block := none } ∧
      t.fld (sveA i.val 0x38) 15 0 = unsignedOf 16 mx ∧ t.fld (sveA i.val 0x38) 31 16 = unsignedOf 16 mn ∧
      t.fld (sveA i.val 0x3C) 15 0 = rms % 65536 ∧ sameBut [.sves] s t) := by
  obtain ⟨u, hu⟩ : ∃ u, u = (s.setSve i.val { s.sve i.val with block := none }).wrN (sveA i.val 0x38)
    (unsignedOf 16 mx + unsignedOf 16 mn * 65536) := ⟨_, rfl⟩
  have h38 : (u.setFld (sveA i.val 0x3C) 15 0 rms).rd (sveA i.val 0x38) = u.rd (sveA i.val 0x38) :=
    State.rd_setFld_ne _ _ _ _ (sveA_ne (by omega))
  have hhalves : u.fld (sveA i.val 0x38) 15 0 = unsignedOf 16 mx ∧ u.fld (sveA i.val 0x38) 31 16 = unsignedOf 16 mn :=
    hu ▸ State.fld_wrN_halves _ _ (unsignedOf_lt 16 mx) (unsignedOf_lt 16 mn)
  have hsve : u.sve i.val = { s.sve i.val with block := none } := hu ▸ s.sve_setSve_same i.val _
  have hparts : sameBut [.sves] s u :=
    hu ▸ sameBut_trans (s.setSve_sameBut i.val _) (sameBut_mono (State.wrN_sameBut _ _ _) (by simp))
  have hrms : (u.setFld (sveA i.val 0x3C) 15 0 rms).fld (sveA i.val 0x3C) 15 0 = rms % 65536 :=
    u.fld_setFld_same rms (by omega) (by omega)
  refine completes_of_done (t := u.setFld (sveA i.val 0x3C) 15 0 rms) ?_ ⟨hsve, (State.fld_congr h38 15 0).trans hhalves.1,
    (State.fld_congr h38 31 16).trans hhalves.2, hrms,
    sameBut_done (sameBut_trans hparts (sameBut_mono (State.wrN_sameBut u _ _) (by simp)))⟩
  simp only [exec_peakBlockEnd, execPeakBlockEnd, hr, hb, hu]
  rfl

theorem gateLapse_lapses (hg : s.bit (sveA i.val 0x30) 1 = true) (ht : (s.sve i.val).lastSync + 2000000 ≤ s.sdlNow) :
    completes (.gateLapse i) s (fun t => t.bit (sveA i.val 0x30) 1 = false ∧
      t.sve i.val = { s.sve i.val with syncRun := 0 } ∧ sameBut [.sves] s t) := by
  obtain ⟨u, hu⟩ : ∃ u, u = s.setSve i.val { s.sve i.val with syncRun := 0 } := ⟨_, rfl⟩
  have hsve : u.sve i.val = { s.sve i.val with syncRun := 0 } := hu ▸ s.sve_setSve_same i.val _
  have hparts : sameBut [.sves] s u := hu ▸ s.setSve_sameBut i.val _
  have hbit : (u.setBit (sveA i.val 0x30) 1 false).bit (sveA i.val 0x30) 1 = false := u.bit_setBit_same false (by omega)
  refine completes_of_done (t := u.setBit (sveA i.val 0x30) 1 false) ?_ ⟨hbit, hsve,
    sameBut_done (sameBut_trans hparts (sameBut_mono (State.wrN_sameBut u _ _) (by simp)))⟩
  have hd : decide ((s.sve i.val).lastSync + 2 * msNs ≤ s.sdlNow) = true := decide_eq_true ht
  simp only [exec_gateLapse, execGateLapse, hr, hg, hd, hu]
  rfl

end

end

/-- Settles O50: each command's lemma, from what a swap, an edge and a sample leave of the input's record and registers. -/
theorem sieveInputs : Obligations.SieveInputs := by
  unfold Obligations.SieveInputs
  intro i s
  refine ⟨swap_waits, fun hr hp hb => ?_, fun hs => ⟨fun _ _ _ hr => edgeDelivery_delivers hs hr, windowIn_enters hs,
    windowOut_leaves hs, outputSample_counts hs⟩, fun hr => ⟨fun _ _ _ => peakBlockEnd_shows hr, gateLapse_lapses hr⟩⟩
  exact completes_mono (swapDone_swaps hr hp hb) fun t ht =>
    ⟨ht.active, ht.waits, ht.gd, ht.unknown, ht.phase, ht.count, ht.parts⟩

end Sys2Proof.Machine
end

section
/-! SUPPORT. QDR, the flash and the contexts are all that the invariant of StepKeepsInvariant speaks of: what a state holds
of them, and how an operation that leaves them alone is recognised. -/

namespace Sys2Proof.Machine

open Sys2Proof.Cert

/-- QDR, the flash and the contexts: all that the invariant speaks of. -/
def State.held (s : State) : List Host.Cell × List Host.Cell × Tab Ctx := (s.qdr, s.flash, s.ctxs)

/-- What the invariant speaks of, of the state that an outcome leads to. -/
def heldAfter (o : Host.Outcome State Fault Refusal) : Option (List Host.Cell × List Host.Cell × Tab Ctx) :=
  match o with
  | .next t => some t.held
  | _ => none

@[simp] theorem heldAfter_next (t : State) : heldAfter (.next t) = some t.held := by rfl

@[simp] theorem heldAfter_done (s t : State) : heldAfter (done s t) = some t.held := by rfl

@[simp] theorem State.held_ite (c : Prop) [Decidable c] (s t : State) :
    (if c then s else t).held = if c then s.held else t.held := apply_ite State.held c s t

@[simp] theorem State.held_snd_ite {α : Type} (c : Prop) [Decidable c] (p q : α × State) :
    (if c then p else q).2.held = if c then p.2.held else q.2.held :=
  apply_ite (fun p : α × State => p.2.held) c p q

@[simp] theorem foldl_held {β : Type} (f : State → β → State) (hf : ∀ s b, (f s b).held = s.held)
    (l : List β) (s : State) : (l.foldl f s).held = s.held := by
  induction l generalizing s with
  | nil => rfl
  | cons b l ih => rw [List.foldl_cons, ih, hf]

/-- What only counts and reports holds what it held. -/
theorem State.Quiet.held {s t : State} (q : s.Quiet t) : t.held = s.held := by
  rw [State.held, State.held, q.qdr, q.flash, q.ctxs]

@[simp] theorem State.raiseLim_held (s : State) (n sub src kind : Nat) (clear : Bool) (detail : Nat) :
    (s.raiseLim n sub src kind clear detail).held = s.held := (s.raiseLim_quiet ..).held

@[simp] theorem State.tally_held (s : State) (base k ev n : Nat) (sel : Option (Nat × Nat)) :
    (s.tally base k ev n sel).held = s.held := (s.tally_quiet ..).held

@[simp] theorem State.countTo_held (s : State) (t : Nat) : (s.countTo t).held = s.held := (s.countTo_quiet t).held

@[simp] theorem State.cntWrap_held (s : State) (c : Nat) : (s.cntWrap c).held = s.held := (s.cntWrap_quiet c).held
@[simp] theorem State.cntWrapNote_held (s : State) (c : Nat) :
    (s.cntWrapNote c).held = s.held := (s.cntWrapNote_quiet c).held
@[simp] theorem State.cntAdd_held (s : State) (c n : Nat) : (s.cntAdd c n).held = s.held := (s.cntAdd_quiet c n).held

@[simp] theorem State.wrAll_held (s : State) (a : Nat) (ws : List Word) : (s.wrAll a ws).held = s.held := by
  induction ws generalizing s a with
  | nil => rfl
  | cons w ws ih => rw [State.wrAll, ih]; rfl

@[simp] theorem State.asRead_held (s : State) (a n : Nat) : (s.asRead a n).2.held = s.held := by
  induction n generalizing s a with
  | zero => rfl
  | succ n ih =>
    have hu : ∀ c : Bool, (if c = true then match s.draw with | (r, s) => ((BitVec.ofNat 8 r : Byte), s)
        else (s.qdrByte a, s)).2.held = s.held := fun c => by cases c <;> rfl
    have h := hu (s.cwBad (codewordOf a) && ((s.cwErrs (codewordOf a)).contains (a % 64) || s.bit (qdmA 0x104)
    (16 + deviceOf (codewordOf a))))
    exact (ih _ (a + 1)).trans h

end Sys2Proof.Machine
end

section
/-! SUPPORT. Every operation and every command that writes neither QDR, nor the flash, nor a context: one lemma each, in
the order of the model. -/

namespace Sys2Proof.Machine

open Sys2Proof.Cert

/-! ### The operations of Machine/Ops -/

@[simp] theorem State.setNow_held (s : State) (x : Nat) : (s.setNow x).held = s.held := by rfl
@[simp] theorem State.setFree_held (s : State) (x : Nat) : (s.setFree x).held = s.held := by rfl
@[simp] theorem State.setRegs_held (s : State) (x : Tab Word) : (s.setRegs x).held = s.held := by rfl
@[simp] theorem State.setTop_held (s : State) (x : Top) : (s.setTop x).held = s.held := by rfl
@[simp] theorem State.setCur_held (s : State) (x : Cur) : (s.setCur x).held = s.held := by rfl
@[simp] theorem State.setMboxes_held (s : State) (x : Tab Mbox) : (s.setMboxes x).held = s.held := by rfl
@[simp] theorem State.setFramers_held (s : State) (x : Tab Framer) : (s.setFramers x).held = s.held := by rfl
@[simp] theorem State.setTxs_held (s : State) (x : Tab Tx) : (s.setTxs x).held = s.held := by rfl
@[simp] theorem State.setActive_held (s : State) (x : Tab Word) : (s.setActive x).held = s.held := by rfl
@[simp] theorem State.setTribs_held (s : State) (x : Tab Trib) : (s.setTribs x).held = s.held := by rfl
@[simp] theorem State.setMapOhTab_held (s : State) (x : Tab OhX) : (s.setMapOhTab x).held = s.held := by rfl
@[simp] theorem State.setSinkHold_held (s : State) (x : Tab Nat) : (s.setSinkHold x).held = s.held := by rfl
@[simp] theorem State.setPairs_held (s : State) (x : Tab Pair) : (s.setPairs x).held = s.held := by rfl
@[simp] theorem State.setGrants_held (s : State) (x : Tab (Nat × Nat)) : (s.setGrants x).held = s.held := by rfl
@[simp] theorem State.setCommitRows_held (s : State) (x : Half) : (s.setCommitRows x).held = s.held := by rfl
@[simp] theorem State.setPolicy_held (s : State) (x : Tab Word) : (s.setPolicy x).held = s.held := by rfl
@[simp] theorem State.setPolicyPending_held (s : State) (x : List Nat) : (s.setPolicyPending x).held = s.held := by rfl
@[simp] theorem State.setWinStart_held (s : State) (x : Nat) : (s.setWinStart x).held = s.held := by rfl
@[simp] theorem State.setSdl_held (s : State) (ns from_ : Nat) : (s.setSdl ns from_).held = s.held := by rfl
@[simp] theorem State.setRefs_held (s : State) (x : Tab Ref) : (s.setRefs x).held = s.held := by rfl
@[simp] theorem State.setDials_held (s : State) (x : Tab Dial) : (s.setDials x).held = s.held := by rfl
@[simp] theorem State.setGens_held (s : State) (x : Tab Gen) : (s.setGens x).held = s.held := by rfl
@[simp] theorem State.setTtcs_held (s : State) (x : Tab Ttc) : (s.setTtcs x).held = s.held := by rfl
@[simp] theorem State.setSves_held (s : State) (x : Tab Sve) : (s.setSves x).held = s.held := by rfl
@[simp] theorem State.setBeds_held (s : State) (x : Tab Bed) : (s.setBeds x).held = s.held := by rfl
@[simp] theorem State.setEngines_held (s : State) (x : Tab Engine) : (s.setEngines x).held = s.held := by rfl
@[simp] theorem State.setCycles_held (s : State) (x : Tab Cycle) : (s.setCycles x).held = s.held := by rfl
@[simp] theorem State.setFurs_held (s : State) (x : Tab Furrow) : (s.setFurs x).held = s.held := by rfl
@[simp] theorem State.setRts_held (s : State) (x : Rts) : (s.setRts x).held = s.held := by rfl
@[simp] theorem State.setTwn_held (s : State) (x : Twn) : (s.setTwn x).held = s.held := by rfl
@[simp] theorem State.setQdm_held (s : State) (x : Qdm) : (s.setQdm x).held = s.held := by rfl
@[simp] theorem State.setInv_held (s : State) (x : Inv) : (s.setInv x).held = s.held := by rfl
@[simp] theorem State.setOutbox_held (s : State) (x : List OutMsg) : (s.setOutbox x).held = s.held := by rfl
@[simp] theorem State.setSumCycle_held (s : State) (x : List Nat) : (s.setSumCycle x).held = s.held := by rfl
@[simp] theorem State.setPending_held (s : State) (x : List Instr) : (s.setPending x).held = s.held := by rfl
@[simp] theorem State.wr_held (s : State) (a : Nat) (v : Word) : (s.wr a v).held = s.held := by simp [State.wr]
@[simp] theorem State.wrN_held (s : State) (a n : Nat) : (s.wrN a n).held = s.held := by simp [State.wrN]
@[simp] theorem State.setFld_held (s : State) (a hi lo v : Nat) : (s.setFld a hi lo v).held = s.held := by
  simp [State.setFld]
@[simp] theorem State.setBit_held (s : State) (a n : Nat) (b : Bool) : (s.setBit a n b).held = s.held := by
  simp [State.setBit]
@[simp] theorem State.addTo_held (s : State) (a n : Nat) : (s.addTo a n).held = s.held := by simp [State.addTo]
@[simp] theorem State.inc_held (s : State) (a : Nat) : (s.inc a).held = s.held := by simp [State.inc]
@[simp] theorem State.addSat_held (s : State) (a n v : Nat) : (s.addSat a n v).held = s.held := by simp [State.addSat]
@[simp] theorem State.wr48_held (s : State) (lo hi v : Nat) : (s.wr48 lo hi v).held = s.held := by simp [State.wr48]
@[simp] theorem State.add48_held (s : State) (lo hi v : Nat) : (s.add48 lo hi v).held = s.held := by simp [State.add48]
@[simp] theorem State.wrI_held (s : State) (a : Nat) (i : ℤ) : (s.wrI a i).held = s.held := by simp [State.wrI]
@[simp] theorem State.clearRegs_held (s : State) (lo hi : Nat) : (s.clearRegs lo hi).held = s.held := by
  simp [State.clearRegs]
@[simp] theorem State.summary_held (s : State) (base mask : Nat) : (s.summary base mask).held = s.held := by
  simp [State.summary]
@[simp] theorem State.event_held (s : State) (a b : Nat) : (s.event a b).held = s.held := by
  unfold State.event
  split <;> simp
@[simp] theorem State.sqWrite_held (s : State) (a : Nat) (v : Word) : (s.sqWrite a v).held = s.held := by
  simp [State.sqWrite]
@[simp] theorem State.draw_held (s : State) : s.draw.2.held = s.held := by simp [State.draw]
@[simp] theorem State.dropReport_held (s : State) (src : Nat) : (s.dropReport src).held = s.held := by
  simp [State.dropReport]
@[simp] theorem State.raiseAs_held (s : State) (src kind : Nat) (clear : Bool) (detail : Nat) (forced : Bool) :
    (s.raiseAs src kind clear detail forced).held = s.held := by simp [State.raiseAs]
@[simp] theorem State.raise_held (s : State) (src kind : Nat) (clear : Bool) (detail : Nat) :
    (s.raise src kind clear detail).held = s.held := by simp [State.raise]
@[simp] theorem State.rate_held (s : State) (key n : Nat) : (s.rate key n).2.held = s.held := by simp [State.rate]
@[simp] theorem State.emit_held (s : State) (m : OutMsg) : (s.emit m).held = s.held := by simp [State.emit]

/-! ### The operations of Machine/InvOps -/

@[simp] theorem State.setCount_held (s : State) (c n : Nat) : (s.setCount c n).held = s.held := by simp [State.setCount]
@[simp] theorem State.tallyBed_held (s : State) (b eng ev n : Nat) : (s.tallyBed b eng ev n).held = s.held := by
  simp [State.tallyBed]
@[simp] theorem State.tallyRow_held (s : State) (r j ev n : Nat) : (s.tallyRow r j ev n).held = s.held := by
  simp [State.tallyRow]
@[simp] theorem State.tallyBus_held (s : State) (r ev n : Nat) : (s.tallyBus r ev n).held = s.held := by
  simp [State.tallyBus]
@[simp] theorem State.tallyPair_held (s : State) (i ev n : Nat) : (s.tallyPair i ev n).held = s.held := by
  simp [State.tallyPair]
@[simp] theorem State.tallyCel_held (s : State) (ev n : Nat) : (s.tallyCel ev n).held = s.held := by
  simp [State.tallyCel]
@[simp] theorem State.tallyQdm_held (s : State) (d ev n : Nat) : (s.tallyQdm d ev n).held = s.held := by
  simp [State.tallyQdm]
@[simp] theorem State.tallySdl_held (s : State) (unit ev n : Nat) : (s.tallySdl unit ev n).held = s.held := by
  simp [State.tallySdl]
@[simp] theorem State.tallyHif_held (s : State) (ev n : Nat) : (s.tallyHif ev n).held = s.held := by
  simp [State.tallyHif]
@[simp] theorem State.tallyMb_held (s : State) (k ev n : Nat) : (s.tallyMb k ev n).held = s.held := by
  simp [State.tallyMb]
@[simp] theorem State.tallyFur_held (s : State) (F ev n : Nat) : (s.tallyFur F ev n).held = s.held := by
  simp [State.tallyFur]
@[simp] theorem State.cntCfgWrite_held (s : State) (c : Nat) (v : Word) : (s.cntCfgWrite c v).held = s.held := by
  simp [State.cntCfgWrite]
@[simp] theorem State.cntClear_held (s : State) (c : Nat) : (s.cntClear c).held = s.held := by simp [State.cntClear]
@[simp] theorem State.cntLoad_held (s : State) (c : Nat) : (s.cntLoad c).held = s.held := by simp [State.cntLoad]
@[simp] theorem State.cntClearAll_held (s : State) : s.cntClearAll.held = s.held := by simp [State.cntClearAll]
@[simp] theorem State.snapAsk_held (s : State) (lead : Nat) : (s.snapAsk lead).held = s.held := by simp [State.snapAsk]
@[simp] theorem State.runAsk_held (s : State) (on : Bool) : (s.runAsk on).held = s.held := by simp [State.runAsk]
@[simp] theorem State.snapDomain_held (s : State) (d : Nat) : (s.snapDomain d).held = s.held := by
  simp [State.snapDomain]
@[simp] theorem State.runDone_held (s : State) : s.runDone.held = s.held := by
  unfold State.runDone
  split <;> simp
@[simp] theorem State.snapFinish_held (s : State) (putTs : State → State) (hputTs : ∀ s, (putTs s).held = s.held) :
    (s.snapFinish putTs).held = s.held := by simp [State.snapFinish, hputTs]
@[simp] theorem State.invReset_held (s : State) : s.invReset.held = s.held := by simp [State.invReset]

/-! ### The operations of Machine/HifOps -/

@[simp] theorem State.msix_held (s : State) (v : Nat) : (s.msix v).held = s.held := by simp [State.msix]
@[simp] theorem State.hifEvent_held (s : State) (b : Nat) : (s.hifEvent b).held = s.held := by simp [State.hifEvent]
@[simp] theorem State.hifReport_held (s : State) (kind detail : Nat) : (s.hifReport kind detail).held = s.held := by
  simp [State.hifReport]
@[simp] theorem State.accessShape_held (s : State) (detail : Nat) : (s.accessShape detail).held = s.held := by
  simp [State.accessShape]
@[simp] theorem State.accessTimeout_held (s : State) (o : Origin) (a : Nat) : (s.accessTimeout o a).held = s.held := by
  simp [State.accessTimeout]
@[simp] theorem State.lockedWrite_held (s : State) (o : Origin) (a : Nat) : (s.lockedWrite o a).held = s.held := by
  simp [State.lockedWrite]

/-! ### The operations of Machine/Access -/

@[simp] theorem State.hostTo_held (s : State) (a : Nat) (f : State → State) (hf : ∀ s, (f s).held = s.held) :
    (s.hostTo a f).held = s.held := by simp [State.hostTo, hf]
@[simp] theorem State.setArm_held (s : State) (base : Nat) (b : Bool) : (s.setArm base b).held = s.held := by
  simp [State.setArm]
@[simp] theorem State.kGate_held (s : State) (o : Origin) (a : Nat) : (s.kGate o a).2.held = s.held := by
  simp [State.kGate]
@[simp] theorem State.store_held (s : State) (a : Nat) (v : Word) (armed : Bool) :
    (s.store a v armed).held = s.held := by
  simp [State.store]

/-! ### The operations of Machine/Furrows -/

@[simp] theorem State.setFur_held (s : State) (F : Nat) (f : Furrow) : (s.setFur F f).held = s.held := by
  simp [State.setFur]
@[simp] theorem State.showFur_held (s : State) (F : Nat) : (s.showFur F).held = s.held := by simp [State.showFur]
@[simp] theorem State.notice_held (s : State) (F : Nat) : (s.notice F).held = s.held := by simp [State.notice]
@[simp] theorem State.unnotice_held (s : State) (F : Nat) : (s.unnotice F).held = s.held := by simp [State.unnotice]
@[simp] theorem State.dropItem_held (s : State) (F prod len : Nat) : (s.dropItem F prod len).held = s.held := by
  simp [State.dropItem]
@[simp] theorem State.publish_held (s : State) (F prod kind : Nat) (stamped : Bool) (words : List Half) :
    (s.publish F prod kind stamped words).2.held = s.held := by simp [State.publish]
@[simp] theorem State.commitFur_held (s : State) (own : Bool) (F : Nat) : (s.commitFur own F).held = s.held := by
  simp [State.commitFur]
@[simp] theorem State.rewindFur_held (s : State) (F : Nat) : (s.rewindFur F).held = s.held := by simp [State.rewindFur]
@[simp] theorem State.setFramer_held (s : State) (f : Nat) (x : Framer) : (s.setFramer f x).held = s.held := by
  simp [State.setFramer]
@[simp] theorem State.setMapOh_held (s : State) (r : Nat) (x : OhX) : (s.setMapOh r x).held = s.held := by
  simp [State.setMapOh]
@[simp] theorem State.forgetOh_held (s : State) (F : Nat) : (s.forgetOh F).held = s.held := by simp [State.forgetOh]
@[simp] theorem State.flushNow_held (s : State) (F mid : Nat) : (s.flushNow F mid).held = s.held := by
  simp [State.flushNow]
@[simp] theorem State.flushAsk_held (s : State) (F : Nat) : (s.flushAsk F).held = s.held := by simp [State.flushAsk]
@[simp] theorem State.hwmClr_held (s : State) (F : Nat) : (s.hwmClr F).held = s.held := by simp [State.hwmClr]
@[simp] theorem State.routeWrite_held (s : State) (r bed pair : Nat) : (s.routeWrite r bed pair).held = s.held := by
  simp [State.routeWrite]
@[simp] theorem State.routeForce_held (s : State) (r bed : Nat) : (s.routeForce r bed).held = s.held := by
  simp [State.routeForce]
@[simp] theorem State.moveFur_held (s : State) (F bed pair : Nat) : (s.moveFur F bed pair).held = s.held := by
  simp [State.moveFur]
@[simp] theorem State.moveUnowned_held (s : State) (F : Nat) : (s.moveUnowned F).held = s.held := by
  unfold State.moveUnowned
  split <;> simp
@[simp] theorem State.routeNow_held (s : State) (r : Nat) : (s.routeNow r).held = s.held := by simp [State.routeNow]
@[simp] theorem State.routeTry_held (s : State) (r : Nat) : (s.routeTry r).held = s.held := by simp [State.routeTry]
@[simp] theorem State.moveEdge_held (s : State) (r : Nat) : (s.moveEdge r).held = s.held :=
  foldl_held _ (fun u e => by split <;> simp) _ s
@[simp] theorem State.routeEdge_held (s : State) (r : Nat) : (s.routeEdge r).held = s.held := by simp [State.routeEdge]

/-! ### The operations of Machine/Qdr -/

@[simp] theorem State.setErrs_held (s : State) (cw : Nat) (es : List Nat) : (s.setErrs cw es).held = s.held := by
  simp [State.setErrs]
@[simp] theorem State.pinRead_held (s : State) (d p : Nat) (errPins : List Nat) (pin : Nat) :
    (s.pinRead d p errPins pin).held = s.held := by simp [State.pinRead]
@[simp] theorem State.cwRead_held (s : State) (cw p : Nat) : (s.cwRead cw p).held = s.held := by simp [State.cwRead]

/-! ### The operations of Machine/Time -/

@[simp] theorem State.setDial_held (s : State) (n : Nat) (d : Dial) : (s.setDial n d).held = s.held := by
  simp [State.setDial]
@[simp] theorem State.rebase_held (s : State) (n : Nat) : (s.rebase n).held = s.held := by simp [State.rebase]
@[simp] theorem State.setDialUnits_held (s : State) (n u : Nat) : (s.setDialUnits n u).held = s.held := by
  simp [State.setDialUnits]
@[simp] theorem State.setY_held (s : State) (n : Nat) (y : ℤ) : (s.setY n y).held = s.held := by simp [State.setY]

/-! ### The operations of Machine/Beds -/

@[simp] theorem State.setBed_held (s : State) (b : Nat) (x : Bed) : (s.setBed b x).held = s.held := by
  simp [State.setBed]
@[simp] theorem State.setEngine_held (s : State) (g : Nat) (x : Engine) : (s.setEngine g x).held = s.held := by
  simp [State.setEngine]
@[simp] theorem State.setCycle_held (s : State) (b : Nat) (x : Cycle) : (s.setCycle b x).held = s.held := by
  simp [State.setCycle]
@[simp] theorem State.setRole_held (s : State) (b r : Nat) : (s.setRole b r).held = s.held := by simp [State.setRole]
@[simp] theorem State.setLbed_held (s : State) (b l : Nat) : (s.setLbed b l).held = s.held := by simp [State.setLbed]
@[simp] theorem State.setHalf_held (s : State) (a w : Nat) (v : Half) : (s.setHalf a w v).held = s.held := by
  simp [State.setHalf]
@[simp] theorem State.setCtxWord_held (s : State) (b c i : Nat) (v : Half) : (s.setCtxWord b c i v).held = s.held := by
  simp [State.setCtxWord]
@[simp] theorem State.copyIn_held (s : State) (q a len : Nat) : (s.copyIn q a len).held = s.held := by
  simp [State.copyIn]
@[simp] theorem State.copyRegs_held (s : State) (src dst n : Nat) : (s.copyRegs src dst n).held = s.held := by
  simp [State.copyRegs]
@[simp] theorem State.loadCode_held (s : State) (b base l : Nat) : (s.loadCode b base l).held = s.held := by
  simp [State.loadCode]
@[simp] theorem State.loadSettings_held (s : State) (b base l back : Nat) :
    (s.loadSettings b base l back).held = s.held := by simp [State.loadSettings]
@[simp] theorem State.loadTables_held (s : State) (b base l : Nat) : (s.loadTables b base l).held = s.held := by
  simp [State.loadTables]
@[simp] theorem State.loadShared_held (s : State) (b base l : Nat) : (s.loadShared b base l).held = s.held := by
  simp [State.loadShared]
@[simp] theorem State.loadContexts_held (s : State) (b w : Nat) : (s.loadContexts b w).held = s.held := by
  simp [State.loadContexts]
@[simp] theorem State.restoreCtx_held (s : State) (b c : Nat) : (s.restoreCtx b c).held = s.held := by
  simp [State.restoreCtx]
@[simp] theorem State.startBed_held (s : State) (b arg : Nat) (mv : Option Move) (area : Nat) :
    (s.startBed b arg mv area).held = s.held := by simp [State.startBed]
@[simp] theorem State.releaseSems_held (s : State) (b key : Nat) : (s.releaseSems b key).held = s.held := by
  simp [State.releaseSems]
@[simp] theorem State.askReset_held (s : State) (kind src : Nat) : (s.askReset kind src).held = s.held := by
  unfold State.askReset
  split <;> simp
@[simp] theorem State.setAct_held (s : State) (v : Nat) : (s.setAct v).held = s.held := by simp [State.setAct]
@[simp] theorem State.abandonMove_held (s : State) (faulted nb : Nat) : (s.abandonMove faulted nb).held = s.held := by
  unfold State.abandonMove
  split <;> simp
@[simp] theorem State.haltFor_held (s : State) (b : Nat) : (s.haltFor b).held = s.held := by
  unfold State.haltFor
  dsimp only
  split <;> (try split) <;> simp
@[simp] theorem State.takeoverImpossible_held (s : State) (b reason : Nat) :
    (s.takeoverImpossible b reason).held = s.held := by simp [State.takeoverImpossible]
@[simp] theorem State.tryTakeover_held (s : State) (b : Nat) : (s.tryTakeover b).held = s.held := by
  unfold State.tryTakeover
  dsimp only
  repeat' split <;> try simp
@[simp] theorem State.redispatch_held (s : State) (b : Nat) (x : Ctx) : (s.redispatch b x).held = s.held := by
  simp [State.redispatch]
@[simp] theorem State.retire_held (s : State) (b e : Nat) : (s.retire b e).held = s.held := by simp [State.retire]
@[simp] theorem State.rewriteBed_held (s : State) (old nb : Nat) : (s.rewriteBed old nb).held = s.held := by
  simp [State.rewriteBed]
@[simp] theorem State.showRunning_held (s : State) (k : Nat) : (s.showRunning k).held = s.held := by
  simp [State.showRunning]
@[simp] theorem State.endFallback_held (s : State) : s.endFallback.held = s.held := by
  unfold State.endFallback
  split <;> simp
@[simp] theorem State.nextMove_held (s : State) : s.nextMove.held = s.held := by
  unfold State.nextMove
  dsimp only
  repeat' split <;> try simp
@[simp] theorem State.freeOld_held (s : State) (old : Nat) : (s.freeOld old).held = s.held := by simp [State.freeOld]
@[simp] theorem State.dropMove_held (s : State) : s.dropMove.held = s.held := by simp [State.dropMove]
@[simp] theorem State.unhandled_held (s : State) (b kind : Nat) : (s.unhandled b kind).held = s.held := by
  simp [State.unhandled]
@[simp] theorem State.enqueue_held (s : State) (b : Nat) (e : Ev) : (s.enqueue b e).held = s.held := by
  simp [State.enqueue]
@[simp] theorem State.timerQueue_held (s : State) (b : Nat) (w2 arg : Half) :
    (s.timerQueue b w2 arg).held = s.held := by
  simp [State.timerQueue]
@[simp] theorem State.timerFire_held (s : State) (b k : Nat) : (s.timerFire b k).held = s.held := by
  unfold State.timerFire
  extract_lets
  split <;> simp [*]
@[simp] theorem State.feedConds_held (s : State) (b : Nat) : (s.feedConds b).held = s.held := by
  unfold State.feedConds
  extract_lets
  split <;> simp [*]

/-! ### The operations of Machine/BedCommands -/

@[simp] theorem execTimerFire_held (bed : Fin 16) (k : Fin 512) (s : State) :
    heldAfter (execTimerFire bed k s) = some s.held := by simp [execTimerFire]
@[simp] theorem execTimerEnqueue_held (bed : Fin 16) (k : Fin 512) (s : State) :
    heldAfter (execTimerEnqueue bed k s) = some s.held := by
  unfold execTimerEnqueue
  extract_lets
  split <;> simp [*]
@[simp] theorem State.revive_held (s : State) (b : Nat) : (s.revive b).held = s.held := by simp [State.revive]
@[simp] theorem State.takeoverLoad_held (s : State) (sp : Nat) (m : Move) : (s.takeoverLoad sp m).held = s.held := by
  simp [State.takeoverLoad]
@[simp] theorem execTakeoverLoad_held (spare : Fin 16) (s : State) :
    heldAfter (execTakeoverLoad spare s) = some s.held := by
  unfold execTakeoverLoad
  extract_lets
  split <;> simp [*]
@[simp] theorem execTakeoverDone_held (spare : Fin 16) (s : State) :
    heldAfter (execTakeoverDone spare s) = some s.held := by
  unfold execTakeoverDone
  dsimp only
  repeat' split <;> try simp
@[simp] theorem execReviveSelftestEnd_held (bed : Fin 16) (pass : Bool) (s : State) :
    heldAfter (execReviveSelftestEnd bed pass s) = some s.held := by simp [execReviveSelftestEnd]
@[simp] theorem execQueueHwmReset_held (bed : Fin 16) (a1 : Word) (s : State) :
    heldAfter (execQueueHwmReset bed a1 s) = some s.held := by simp [execQueueHwmReset]
@[simp] theorem execNoticeAgeExpiry_held (F : Fin 64) (s : State) :
    heldAfter (execNoticeAgeExpiry F s) = some s.held := by
  unfold execNoticeAgeExpiry
  split <;> simp
@[simp] theorem execFlush_held (F : Fin 64) (s : State) : heldAfter (execFlush F s) = some s.held := by simp [execFlush]
@[simp] theorem execFlushExecute_held (F : Fin 64) (midItem : Nat) (s : State) :
    heldAfter (execFlushExecute F midItem s) = some s.held := by simp [execFlushExecute]
@[simp] theorem execHwmClr_held (F : Fin 64) (s : State) : heldAfter (execHwmClr F s) = some s.held := by
  simp [execHwmClr]
@[simp] theorem State.rowRouteWrite_held (s : State) (o : Origin) (r : Nat) (v : Word) :
    (s.rowRouteWrite o r v).held = s.held := by
  have h := s.kGate_held o (routeA r)
  unfold State.rowRouteWrite
  split <;> next e => simpa [e] using h
@[simp] theorem execRowRoute_held (r : Fin 12) (val : Word) (s : State) :
    heldAfter (execRowRoute r val s) = some s.held := by simp [execRowRoute]
@[simp] theorem execRouteChange_held (r : Fin 12) (s : State) : heldAfter (execRouteChange r s) = some s.held := by
  simp [execRouteChange]
@[simp] theorem execUnownedFurrowMove_held (F : Fin 64) (s : State) :
    heldAfter (execUnownedFurrowMove F s) = some s.held := by simp [execUnownedFurrowMove]

/-! ### The operations of Machine/Signals -/

@[simp] theorem State.setTx_held (s : State) (f : Nat) (x : Tx) : (s.setTx f x).held = s.held := by simp [State.setTx]
@[simp] theorem State.setRaw_held (s : State) (f b : Nat) (on : Bool) : (s.setRaw f b on).held = s.held := by
  simp [State.setRaw]
@[simp] theorem State.setTrib_held (s : State) (r t : Nat) (x : Trib) : (s.setTrib r t x).held = s.held := by
  simp [State.setTrib]
@[simp] theorem State.tallyFrame_held (s : State) (f ev : Nat) : (s.tallyFrame f ev).held = s.held := by
  simp [State.tallyFrame]
@[simp] theorem State.setHold_held (s : State) (r sink n : Nat) : (s.setHold r sink n).held = s.held := by
  simp [State.setHold]
@[simp] theorem State.setPair_held (s : State) (i : Nat) (p : Pair) : (s.setPair i p).held = s.held := by
  simp [State.setPair]

/-! ### The operations of Machine/Defects -/

@[simp] theorem State.putTs_held (s : State) (a sub : Nat) : (s.putTs a sub).held = s.held := by simp [State.putTs]
@[simp] theorem State.putStamp_held (s : State) (base sub : Nat) : (s.putStamp base sub).held = s.held := by
  simp [State.putStamp]
@[simp] theorem State.rxPublish_held (s : State) (f kind : Nat) (ts : Option Nat) (words : List Half) :
    (s.rxPublish f kind ts words).2.held = s.held := by simp [State.rxPublish]
@[simp] theorem State.setMap64_held (s : State) (a k : Nat) (b : Bool) : (s.setMap64 a k b).held = s.held := by
  simp [State.setMap64]
@[simp] theorem State.tribPublish_held (s : State) (r t kind : Nat) (stamped : Bool) (words : List Half) :
    (s.tribPublish r t kind stamped words).2.held = s.held := by simp [State.tribPublish]
@[simp] theorem State.tribEvent_held (s : State) (r t b : Nat) : (s.tribEvent r t b).held = s.held := by
  simp [State.tribEvent]
@[simp] theorem State.tribDefects_held (s : State) (r t : Nat) (old : Nat × Nat × Nat) :
    (s.tribDefects r t old).held = s.held := by simp [State.tribDefects]
@[simp] theorem State.withTrib_held (s : State) (r t : Nat) (g : State → State) (hg : ∀ s, (g s).held = s.held) :
    (s.withTrib r t g).held = s.held := by simp [State.withTrib, hg]
@[simp] theorem State.carriedFollow_held (s : State) (f : Nat) : (s.carriedFollow f).held = s.held := by
  simp [State.carriedFollow]
@[simp] theorem State.carriedAlign_held (s : State) (f : Nat) : (s.carriedAlign f).held = s.held := by
  simp [State.carriedAlign]
@[simp] theorem State.allFollow_held (s : State) : s.allFollow.held = s.held := by simp [State.allFollow]

/-! ### The operations of Machine/Inventory -/

@[simp] theorem execCntCfg_held (c : Fin 344) (val : Word) (s : State) :
    heldAfter (execCntCfg c val s) = some s.held := by
  simp [execCntCfg]
@[simp] theorem execClear_held (c : Fin 344) (s : State) : heldAfter (execClear c s) = some s.held := by
  simp [execClear]
@[simp] theorem execLoad_held (c : Fin 344) (s : State) : heldAfter (execLoad c s) = some s.held := by simp [execLoad]
@[simp] theorem State.cntCtrlWrite_held (s : State) (c : Nat) (v : Word) : (s.cntCtrlWrite c v).held = s.held := by
  simp [State.cntCtrlWrite]
@[simp] theorem State.invCtrlWrite_held (s : State) (v : Word) : (s.invCtrlWrite v).held = s.held := by
  simp [State.invCtrlWrite]
@[simp] theorem execClearAll_held (s : State) : heldAfter (execClearAll s) = some s.held := by simp [execClearAll]
@[simp] theorem execSnapGo_held (s : State) : heldAfter (execSnapGo s) = some s.held := by simp [execSnapGo]
@[simp] theorem execRun_held (val : Word) (s : State) : heldAfter (execRun val s) = some s.held := by simp [execRun]
@[simp] theorem execSnapshotCopy_held (dom : Fin 5) (s : State) : heldAfter (execSnapshotCopy dom s) = some s.held := by
  simp [execSnapshotCopy]
@[simp] theorem State.snapStamp_held (s : State) (at_ : Nat) : (s.snapStamp at_).held = s.held := by
  simp [State.snapStamp]
@[simp] theorem execSnapDone_held (s : State) : heldAfter (execSnapDone s) = some s.held := by
  unfold execSnapDone
  dsimp only
  split <;> (try split) <;> simp
@[simp] theorem State.sample_held (s : State) (b : Nat) (tag : Bool) (ws : List Nat) :
    (s.sample b tag ws).held = s.held := by simp [State.sample]
@[simp] theorem State.counterWrap_held (s : State) (c eng ctx pc : Nat) :
    (s.counterWrap c eng ctx pc).held = s.held := by
  simp [State.counterWrap]
@[simp] theorem execCounterWrap_held (c : Fin 344) (eng : Fin 32) (ctx : Fin 4) (pc : BitVec 15) (s : State) :
    heldAfter (execCounterWrap c eng ctx pc s) = some s.held := by simp [execCounterWrap]
@[simp] theorem State.tagRecord_held (s : State) (b : Nat) (x : TagIn) : (s.tagRecord b x).held = s.held := by
  simp [State.tagRecord]
@[simp] theorem execTagRecord_held (bed : Fin 16) (x : TagIn) (s : State) :
    heldAfter (execTagRecord bed x s) = some s.held := by simp [execTagRecord]
@[simp] theorem State.sampleRdWrite_held (s : State) (b : Nat) (tag : Bool) (v : Word) :
    (s.sampleRdWrite b tag v).held = s.held := by simp [State.sampleRdWrite]
@[simp] theorem execSampleRd_held (bed : Fin 16) (tag : Bool) (val : Word) (s : State) :
    heldAfter (execSampleRd bed tag val s) = some s.held := by simp [execSampleRd]

/-! ### The operations of Machine/Checks -/

@[simp] theorem State.chkItem_held (s : State) (u result : Nat) : (s.chkItem u result).held = s.held := by
  simp [State.chkItem]
@[simp] theorem State.chkMismatch_held (s : State) (u result : Nat) : (s.chkMismatch u result).held = s.held := by
  simp [State.chkMismatch]
@[simp] theorem State.chkCompare_held (s : State) (u : Nat) (ok : Bool) (result : Nat) :
    (s.chkCompare u ok result).held = s.held := by simp [State.chkCompare]
@[simp] theorem State.chkInvalid_held (s : State) (u a : Nat) : (s.chkInvalid u a).held = s.held := by
  simp [State.chkInvalid]
@[simp] theorem State.jobGo_held (s : State) (u : Nat) : (s.jobGo u).held = s.held := by simp [State.jobGo]
@[simp] theorem State.jobEnd_held (s : State) (u status : Nat) : (s.jobEnd u status).held = s.held := by
  simp [State.jobEnd]
@[simp] theorem State.jobAbort_held (s : State) (u : Nat) : (s.jobAbort u).held = s.held := by simp [State.jobAbort]
@[simp] theorem State.chkReset_held (s : State) (u : Nat) : (s.chkReset u).held = s.held := by simp [State.chkReset]
@[simp] theorem State.jobDone_held (s : State) (u : Nat) : (s.jobDone u).held = s.held := by
  unfold State.jobDone
  dsimp only
  split <;> simp
@[simp] theorem execCheckJobGo_held (u : Fin 32) (s : State) : heldAfter (execCheckJobGo u s) = some s.held := by
  simp [execCheckJobGo]
@[simp] theorem execCheckJobDone_held (u : Fin 32) (s : State) : heldAfter (execCheckJobDone u s) = some s.held := by
  simp [execCheckJobDone]
@[simp] theorem execCheckJobAbort_held (u : Fin 32) (s : State) : heldAfter (execCheckJobAbort u s) = some s.held := by
  simp [execCheckJobAbort]

/-! ### The operations of Machine/MboxOps -/

@[simp] theorem State.setMbox_held (s : State) (k : Nat) (m : Mbox) : (s.setMbox k m).held = s.held := by
  simp [State.setMbox]
@[simp] theorem State.mbTimer_held (s : State) (k : Nat) : (s.mbTimer k).held = s.held := by
  unfold State.mbTimer
  extract_lets
  split <;> simp [*]
@[simp] theorem State.mbShow_held (s : State) (k : Nat) : (s.mbShow k).held = s.held := by simp [State.mbShow]
@[simp] theorem State.mbSet_held (s : State) (k : Nat) (m : Mbox) : (s.mbSet k m).held = s.held := by simp [State.mbSet]
@[simp] theorem State.mbReady_held (s : State) (k : Nat) (c : Cpl) : (s.mbReady k c).held = s.held := by
  simp [State.mbReady]
@[simp] theorem State.rspEmpty_held (s : State) (k : Nat) : (s.rspEmpty k).held = s.held := by simp [State.rspEmpty]
@[simp] theorem State.rspLoad_held (s : State) (k : Nat) : (s.rspLoad k).held = s.held := by
  unfold State.rspLoad
  extract_lets
  split <;> simp [*]
@[simp] theorem State.mbReset_held (s : State) (k : Nat) (m : Mbox) : (s.mbReset k m).held = s.held := by
  simp [State.mbReset]
@[simp] theorem State.publishCmd_held (s : State) (k : Nat) (ws : List Word) : (s.publishCmd k ws).2.held = s.held := by
  simp [State.publishCmd]
@[simp] theorem State.mbMalformed_held (s : State) (k : Nat) : (s.mbMalformed k).held = s.held := by
  simp [State.mbMalformed]
@[simp] theorem State.mbJoin_held (s : State) (k : Nat) (last : Bool) (ws : List Word) :
    (s.mbJoin k last ws).held = s.held := by
  unfold State.mbJoin
  dsimp only
  split <;> (try split) <;> simp
@[simp] theorem State.mbItem_held (s : State) (k kind : Nat) (words : List Half) :
    (s.mbItem k kind words).held = s.held := by simp [State.mbItem]

/-! ### The operations of Machine/TwnOps -/

@[simp] theorem State.setLinkState_held (s : State) (v : Nat) : (s.setLinkState v).held = s.held := by
  simp [State.setLinkState]
@[simp] theorem State.twnEmit_held (s : State) (type seq : Nat) (rel : Bool) (body : List Word) :
    (s.twnEmit type seq rel body).held = s.held := by simp [State.twnEmit]
@[simp] theorem State.twnUnrel_held (s : State) (type : Nat) (body : List Word) :
    (s.twnUnrel type body).held = s.held := by
  simp [State.twnUnrel]
@[simp] theorem State.twnRel_held (s : State) (type : Nat) (body : List Word) : (s.twnRel type body).held = s.held := by
  simp [State.twnRel]
@[simp] theorem State.twnDrain_held (s : State) (n : Nat) : (s.twnDrain n).held = s.held := by
  induction n generalizing s with
  | zero => rfl
  | succ n ih =>
    rw [State.twnDrain]
    split
    · rfl
    · split
      · rfl
      · rw [ih]; simp
@[simp] theorem State.twnAck_held (s : State) (x : Nat) : (s.twnAck x).held = s.held := by simp [State.twnAck]
@[simp] theorem State.twnResend_held (s : State) (i : Nat) : (s.twnResend i).held = s.held := by simp [State.twnResend]
@[simp] theorem State.twnNak_held (s : State) : s.twnNak.held = s.held := by simp [State.twnNak]
@[simp] theorem State.stopFeeds_held (s : State) : s.stopFeeds.held = s.held := by simp [State.stopFeeds]
@[simp] theorem State.pushBusy_held (s : State) : s.pushBusy.held = s.held := by simp [State.pushBusy]
@[simp] theorem State.leaveUp_held (s : State) : s.leaveUp.held = s.held := by simp [State.leaveUp]
@[simp] theorem State.leaveClash_held (s : State) : s.leaveClash.held = s.held := by simp [State.leaveClash]
@[simp] theorem State.linkDown_held (s : State) : s.linkDown.held = s.held := by simp [State.linkDown]
@[simp] theorem State.linkTrain_held (s : State) : s.linkTrain.held = s.held := by simp [State.linkTrain]
@[simp] theorem State.linkCheck_held (s : State) : s.linkCheck.held = s.held := by simp [State.linkCheck]
@[simp] theorem State.enterUp_held (s : State) : s.enterUp.held = s.held := by simp [State.enterUp]
@[simp] theorem State.twnArrive_held (s : State) (h : TwinHdr) (body : List Word) :
    (s.twnArrive h body).held = s.held := by
  simp [State.twnArrive]
@[simp] theorem State.twnCount_held (s : State) (h : TwinHdr) (lost : Option Nat) :
    (s.twnCount h lost).2.held = s.held := by
  unfold State.twnCount
  dsimp only
  repeat' split <;> try simp
@[simp] theorem State.twnSeq_held (s : State) (h : TwinHdr) : (s.twnSeq h).2.held = s.held := by simp [State.twnSeq]
@[simp] theorem State.twnReliable_held (s : State) (h : TwinHdr) (body : List Word) (f : State → State)
    (hf : ∀ s, (f s).held = s.held) : (s.twnReliable h body f).held = s.held := by
  have hq := (s.twnArrive h body).twnSeq_held h
  unfold State.twnReliable
  split
  · dsimp only
    split
    · simp
    · split <;> next e => simpa [e, hf] using hq
  · rfl
@[simp] theorem State.twnReset_held (s : State) : s.twnReset.held = s.held := by simp [State.twnReset]

/-! ### The operations of Machine/RtsOps -/

@[simp] theorem State.rtsReply_held (s : State) (src : Source) (c : Cpl) : (s.rtsReply src c).held = s.held := by
  unfold State.rtsReply
  split <;> simp
@[simp] theorem State.rtsRefuse_held (s : State) (src : Source) (tag : Half) (status : Nat) :
    (s.rtsRefuse src tag status).held = s.held := by simp [State.rtsRefuse]
@[simp] theorem State.rtsOk_held (s : State) (src : Source) (tag : Half) (body : List Word) :
    (s.rtsOk src tag body).held = s.held := by simp [State.rtsOk]
@[simp] theorem State.rtsDeliver_held (s : State) (src : Source) (ws : List Word) :
    (s.rtsDeliver src ws).held = s.held := by
  unfold State.rtsDeliver
  split <;> simp
theorem State.rtsTake_held {s t : State} {src : Source} {op : Nat} {ws : List Word}
    (h : s.rtsTake src op = some (ws, t)) :
    t.held = s.held := by
  unfold State.rtsTake at h
  split at h
  · split at h
    · cases h; simp
    · cases h
  · cases h
@[simp] theorem State.dropClaim_held (s : State) : s.dropClaim.held = s.held := by simp [State.dropClaim]
@[simp] theorem State.commitFail_held (s : State) (src : Source) (tag : Half) (status : Nat) :
    (s.commitFail src tag status).held = s.held := by simp [State.commitFail]
@[simp] theorem State.rtsCommit_held (s : State) (src : Source) (tag : Half) : (s.rtsCommit src tag).held = s.held := by
  simp [State.rtsCommit]
@[simp] theorem State.fallbackReport_held (s : State) : s.fallbackReport.held = s.held := by simp [State.fallbackReport]

/-! ### The operations of Machine/Mailbox -/

@[simp] theorem State.mbDelivered_held (s : State) (k : Nat) (tag : Half) : (s.mbDelivered k tag).held = s.held := by
  simp [State.mbDelivered]
@[simp] theorem State.mbDeliver_held (s : State) (k : Nat) (ws : List Word) : (s.mbDeliver k ws).held = s.held := by
  have h := s.publishCmd_held k ws
  unfold State.mbDeliver
  split
  · simp
  · split
    · split <;> simp
    · split <;> next e => simpa [e] using h
@[simp] theorem State.mbCheck_held (s : State) (k : Nat) (ws : List Word) (trailer : Word) :
    (s.mbCheck k ws trailer).held = s.held := by
  unfold State.mbCheck
  dsimp only
  split <;> (try split) <;> simp
@[simp] theorem State.mbTimeout_held (s : State) (k : Nat) : (s.mbTimeout k).held = s.held := by simp [State.mbTimeout]
@[simp] theorem State.reqData_held (s : State) (k : Nat) (w : Word) : (s.reqData k w).held = s.held := by
  simp [State.reqData]
@[simp] theorem State.mbAbort_held (s : State) (k : Nat) : (s.mbAbort k).held = s.held := by simp [State.mbAbort]
@[simp] theorem State.mbForget_held (s : State) (k : Nat) : (s.mbForget k).held = s.held := by simp [State.mbForget]
@[simp] theorem execReqData_held (mb : Fin 5) (w : Word) (s : State) :
    heldAfter (execReqData mb w s) = some s.held := by
  simp [execReqData]
@[simp] theorem execMbTimeout_held (mb : Fin 5) (s : State) : heldAfter (execMbTimeout mb s) = some s.held := by
  simp [execMbTimeout]
@[simp] theorem execMbAbort_held (mb : Fin 5) (s : State) : heldAfter (execMbAbort mb s) = some s.held := by
  simp [execMbAbort]
@[simp] theorem execRspAck_held (mb : Fin 5) (s : State) : heldAfter (execRspAck mb s) = some s.held := by
  simp [execRspAck]
@[simp] theorem execForget_held (mb : Fin 5) (s : State) : heldAfter (execForget mb s) = some s.held := by
  simp [execForget]
@[simp] theorem execRspLoad_held (mb : Fin 5) (s : State) : heldAfter (execRspLoad mb s) = some s.held := by
  simp [execRspLoad]
@[simp] theorem State.mbReplyItem_held (s : State) (k : Nat) : (s.mbReplyItem k).held = s.held := by
  unfold State.mbReplyItem
  extract_lets
  split <;> simp [*]
@[simp] theorem execMbReplyItem_held (mb : Fin 5) (s : State) : heldAfter (execMbReplyItem mb s) = some s.held := by
  simp [execMbReplyItem]

/-! ### The operations of Machine/SdlOps -/

@[simp] theorem State.ttcEvent_held (s : State) (n b : Nat) : (s.ttcEvent n b).held = s.held := by simp [State.ttcEvent]
@[simp] theorem State.setRef_held (s : State) (r : Nat) (x : Ref) : (s.setRef r x).held = s.held := by
  simp [State.setRef]
@[simp] theorem State.refInvalid_held (s : State) (r a : Nat) : (s.refInvalid r a).held = s.held := by
  simp [State.refInvalid]
@[simp] theorem State.dialInvalid_held (s : State) (n a : Nat) : (s.dialInvalid n a).held = s.held := by
  simp [State.dialInvalid]
@[simp] theorem State.polPend_held (s : State) (a : Nat) : (s.polPend a).held = s.held := by simp [State.polPend]
@[simp] theorem State.refPresets_held (s : State) (r : Nat) : (s.refPresets r).held = s.held := by
  unfold State.refPresets
  dsimp only
  repeat' split <;> try simp
@[simp] theorem State.kindWritten_held (s : State) (r old : Nat) : (s.kindWritten r old).held = s.held := by
  simp [State.kindWritten]
@[simp] theorem State.polWrite_held (s : State) (a : Nat) (v : Word) : (s.polWrite a v).held = s.held := by
  simp [State.polWrite]
@[simp] theorem State.entriesFollow_held (s : State) (r old q : Nat) : (s.entriesFollow r old q).held = s.held := by
  simp [State.entriesFollow]
@[simp] theorem State.setWarning_held (s : State) (r : Nat) (on : Bool) : (s.setWarning r on).held = s.held := by
  simp [State.setWarning]
@[simp] theorem State.restartMeas_held (s : State) (r : Nat) : (s.restartMeas r).held = s.held := by
  simp [State.restartMeas]
@[simp] theorem State.setQ_held (s : State) (r q : Nat) : (s.setQ r q).held = s.held := by
  unfold State.setQ
  split <;> simp
@[simp] theorem State.swCatchUp_held (s : State) (r : Nat) : (s.swCatchUp r).held = s.held := by
  unfold State.swCatchUp
  extract_lets
  split <;> simp [*]
@[simp] theorem State.refEval_held (s : State) (r : Nat) : (s.refEval r).held = s.held := by simp [State.refEval]
@[simp] theorem State.slewB_held (s : State) (n : Nat) : (s.slewB n).held = s.held := by simp [State.slewB]
@[simp] theorem State.setB_held (s : State) (n : Nat) (b : ℤ) : (s.setB n b).held = s.held := by simp [State.setB]
@[simp] theorem State.showDial_held (s : State) (n : Nat) : (s.showDial n).held = s.held := by simp [State.showDial]
@[simp] theorem State.setLimited_held (s : State) (n : Nat) (on : Bool) : (s.setLimited n on).held = s.held := by
  simp [State.setLimited]
@[simp] theorem State.steerY_held (s : State) (n : Nat) (y : ℤ) : (s.steerY n y).held = s.held := by simp [State.steerY]
@[simp] theorem State.onModel_held (s : State) (n : Nat) : (s.onModel n).held = s.held := by simp [State.onModel]
@[simp] theorem State.acquire_held (s : State) (n : Nat) (fresh : Bool) : (s.acquire n fresh).held = s.held := by
  simp [State.acquire]
@[simp] theorem State.setGen_held (s : State) (g : Nat) (x : Gen) : (s.setGen g x).held = s.held := by
  simp [State.setGen]
@[simp] theorem State.drive_held (s : State) (g : Nat) : (s.drive g).held = s.held := by simp [State.drive]
@[simp] theorem State.showNext_held (s : State) (g : Nat) : (s.showNext g).held = s.held := by simp [State.showNext]
@[simp] theorem State.genFollow_held (s : State) (g : Nat) (fresh : Bool) (delay : Nat) :
    (s.genFollow g fresh delay).held = s.held := by simp [State.genFollow]
@[simp] theorem State.setState_held (s : State) (n q : Nat) : (s.setState n q).held = s.held := by simp [State.setState]
@[simp] theorem State.endHoldoff_held (s : State) (n : Nat) : (s.endHoldoff n).held = s.held := by
  simp [State.endHoldoff]
@[simp] theorem State.announce_held (s : State) (n e r cause : Nat) : (s.announce n e r cause).held = s.held := by
  simp [State.announce]
@[simp] theorem State.setDispute_held (s : State) (n : Nat) (pair : Option (Nat × Nat)) (chosen : Nat) :
    (s.setDispute n pair chosen).held = s.held := by
  unfold State.setDispute
  split <;> simp
@[simp] theorem State.startHoldoff_held (s : State) (n : Nat) : (s.startHoldoff n).held = s.held := by
  simp [State.startHoldoff]
@[simp] theorem State.selected_held (s : State) (n e r cause : Nat) : (s.selected n e r cause).held = s.held := by
  simp [State.selected]
@[simp] theorem State.showEntries_held (s : State) (n : Nat) : (s.showEntries n).held = s.held := by
  simp [State.showEntries]
@[simp] theorem State.pickNow_held (s : State) (n : Nat) (av : List (Nat × Nat × Nat × Bool)) :
    (s.pickNow n av).2.held = s.held := by simp [State.pickNow]
@[simp] theorem State.forgetPick_held (s : State) (n : Nat) : (s.forgetPick n).held = s.held := by
  simp [State.forgetPick]
@[simp] theorem State.selectFree_held (s : State) (n : Nat) (c : SelectCause) : (s.selectFree n c).held = s.held := by
  simp [State.selectFree]
@[simp] theorem State.restoreLeft_held (s : State) (n : Nat) : (s.restoreLeft n).held = s.held := by
  simp [State.restoreLeft]
@[simp] theorem State.holdoffOver_held (s : State) (n : Nat) (c : SelectCause) : (s.holdoffOver n c).held = s.held := by
  simp [State.holdoffOver]
@[simp] theorem State.selectDial_held (s : State) (n : Nat) (c : SelectCause) : (s.selectDial n c).held = s.held := by
  simp [State.selectDial]
@[simp] theorem State.dialsSelect_held (s : State) (r : Nat) : (s.dialsSelect r).held = s.held := by
  simp [State.dialsSelect]
@[simp] theorem State.setQNow_held (s : State) (r q : Nat) : (s.setQNow r q).held = s.held := by simp [State.setQNow]
@[simp] theorem State.tapsFollow_held (s : State) (f : Nat) : (s.tapsFollow f).held = s.held := by
  simp [State.tapsFollow]
@[simp] theorem State.setSve_held (s : State) (i : Nat) (x : Sve) : (s.setSve i x).held = s.held := by
  simp [State.setSve]
@[simp] theorem State.sveBreak_held (s : State) (i : Nat) : (s.sveBreak i).held = s.held := by simp [State.sveBreak]
@[simp] theorem State.sveKind_held (s : State) (i : Nat) : (s.sveKind i).held = s.held := by simp [State.sveKind]
@[simp] theorem State.setTtc_held (s : State) (n : Nat) (c : Ttc) : (s.setTtc n c).held = s.held := by
  simp [State.setTtc]
@[simp] theorem State.ttcCheck_held (s : State) (n : Nat) (written : Bool) : (s.ttcCheck n written).held = s.held := by
  simp [State.ttcCheck]
@[simp] theorem State.formatSeen_held (s : State) (f : Nat) : (s.formatSeen f).held = s.held := by
  simp [State.formatSeen]

/-! ### The operations of Machine/RxOps -/

@[simp] theorem State.setHunter_held (s : State) (f p : Nat) (h : Hunter) : (s.setHunter f p h).held = s.held := by
  simp [State.setHunter]
@[simp] theorem State.defReport_held (s : State) (f kind : Nat) (on : Bool) (detail : Nat) (ev : Option Nat) :
    (s.defReport f kind on detail ev).held = s.held := by
  unfold State.defReport
  split <;> simp
@[simp] theorem State.mapReports_held (s : State) (f kind n old new : Nat) (ev : Option Nat) :
    (s.mapReports f kind n old new ev).held = s.held := by simp [State.mapReports]
@[simp] theorem State.defectsFrom_held (s : State) (f : Nat) (old : DefView) : (s.defectsFrom f old).held = s.held := by
  simp [State.defectsFrom]
@[simp] theorem State.withDefects_held (s : State) (f : Nat) (g : State → State) (hg : ∀ s, (g s).held = s.held) :
    (s.withDefects f g).held = s.held := by simp [State.withDefects, hg]
@[simp] theorem State.setLof_held (s : State) (f : Nat) (on : Bool) : (s.setLof f on).held = s.held := by
  simp [State.setLof]
@[simp] theorem State.showFrame_held (s : State) (f : Nat) : (s.showFrame f).held = s.held := by simp [State.showFrame]
@[simp] theorem State.setLofOf_held (s : State) (f p : Nat) (on : Bool) : (s.setLofOf f p on).held = s.held := by
  simp [State.setLofOf]
@[simp] theorem State.goOof_held (s : State) (f p : Nat) : (s.goOof f p).held = s.held := by simp [State.goOof]
@[simp] theorem State.clearLof_held (s : State) (f p : Nat) : (s.clearLof f p).held = s.held := by simp [State.clearLof]
@[simp] theorem State.endOof_held (s : State) (f p : Nat) : (s.endOof f p).held = s.held := by simp [State.endOof]
@[simp] theorem State.enterHunt_held (s : State) (f p : Nat) (start : Option Nat) :
    (s.enterHunt f p start).held = s.held := by simp [State.enterHunt]
@[simp] theorem State.showLanes_held (s : State) (f : Nat) : (s.showLanes f).held = s.held := by simp [State.showLanes]
@[simp] theorem State.declareLol_held (s : State) (lead : Nat) (fault : Bool) :
    (s.declareLol lead fault).held = s.held := by simp [State.declareLol]
@[simp] theorem State.groupCheck_held (s : State) (f : Nat) : (s.groupCheck f).held = s.held := by
  simp [State.groupCheck]
@[simp] theorem State.mfResume_held (s : State) (f : Nat) (same : Bool) (oofSince : Nat) :
    (s.mfResume f same oofSince).held = s.held := by simp [State.mfResume]
@[simp] theorem State.tallyOof_held (s : State) (f : Nat) : (s.tallyOof f).held = s.held := by simp [State.tallyOof]
@[simp] theorem State.flyCut_held (s : State) (f : Nat) (flew same : Bool) : (s.flyCut f flew same).held = s.held := by
  simp [State.flyCut]
@[simp] theorem State.declareIn_held (s : State) (f p e : Nat) (c : Cand) : (s.declareIn f p e c).held = s.held := by
  simp [State.declareIn]
@[simp] theorem State.unresolved_held (s : State) (f p e : Nat) : (s.unresolved f p e).held = s.held := by
  simp [State.unresolved]
theorem State.tieBreak_held {s t : State} {f p e : Nat} (h : s.tieBreak f p e = some t) : t.held = s.held := by
  unfold State.tieBreak at h
  split at h
  · cases h; simp
  · cases h
@[simp] theorem State.windowJudge_held (s : State) (f p e : Nat) : (s.windowJudge f p e).held = s.held := by
  have hget : ∀ u : State, ((u.tieBreak f p e).getD u).held = u.held := fun u => by
    cases h : u.tieBreak f p e with
    | none => rfl
    | some t => exact State.tieBreak_held h
  unfold State.windowJudge
  dsimp only
  split
  · split <;> simp [hget]
  · split
    · next h => simpa using State.tieBreak_held h
    · split <;> simp
  · rfl
@[simp] theorem State.windowEnd_held (s : State) (f p : Nat) : (s.windowEnd f p).held = s.held := by
  unfold State.windowEnd
  dsimp only
  split <;> simp
@[simp] theorem State.judgeMatch_held (s : State) (f p pos : Nat) (x : MatchIn) :
    (s.judgeMatch f p pos x).held = s.held := by
  unfold State.judgeMatch
  extract_lets
  split <;> simp [*]
@[simp] theorem State.huntMatch_held (s : State) (f p pos : Nat) (x : MatchIn) :
    (s.huntMatch f p pos x).held = s.held := by
  simp [State.huntMatch]
@[simp] theorem State.loseFrame_held (s : State) (f p pos : Nat) : (s.loseFrame f p pos).held = s.held := by
  simp [State.loseFrame]
@[simp] theorem State.patternSeen_held (s : State) (f p : Nat) (ok : Bool) : (s.patternSeen f p ok).held = s.held := by
  simp [State.patternSeen]
@[simp] theorem State.loadPresets_held (s : State) (f fmt : Nat) : (s.loadPresets f fmt).held = s.held := by
  simp [State.loadPresets]
@[simp] theorem State.losOver_held (s : State) (f : Nat) : (s.losOver f).held = s.held := by simp [State.losOver]
@[simp] theorem State.disableRx_held (s : State) (f : Nat) : (s.disableRx f).held = s.held := by simp [State.disableRx]
@[simp] theorem State.startHunt_held (s : State) (f : Nat) : (s.startHunt f).held = s.held := by simp [State.startHunt]
@[simp] theorem State.enableRx_held (s : State) (f fmt : Nat) : (s.enableRx f fmt).held = s.held := by
  simp [State.enableRx]
@[simp] theorem State.formatWrite_held (s : State) (f fmt : Nat) : (s.formatWrite f fmt).held = s.held := by
  simp [State.formatWrite]
@[simp] theorem State.huntAgain_held (s : State) (f : Nat) : (s.huntAgain f).held = s.held := by simp [State.huntAgain]
@[simp] theorem State.rehunt_held (s : State) (f : Nat) : (s.rehunt f).held = s.held := by simp [State.rehunt]
@[simp] theorem State.declareLos_held (s : State) (f : Nat) : (s.declareLos f).held = s.held := by
  simp [State.declareLos]
@[simp] theorem State.clearLos_held (s : State) (f : Nat) : (s.clearLos f).held = s.held := by simp [State.clearLos]

/-! ### The operations of Machine/Detect -/

@[simp] theorem State.pdefTribEdge_held (s : State) (r t : Nat) : (s.pdefTribEdge r t).held = s.held := by
  simp [State.pdefTribEdge]
@[simp] theorem State.tribShowDeg_held (s : State) (r t : Nat) : (s.tribShowDeg r t).held = s.held := by
  simp [State.tribShowDeg]

/-! ### The operations of Machine/RxFrames -/

@[simp] theorem State.lomState_held (s : State) (f : Nat) : (s.lomState f).held = s.held := by simp [State.lomState]
@[simp] theorem State.mfFrame_held (s : State) (f mfas : Nat) (x : FrameIn) : (s.mfFrame f mfas x).held = s.held := by
  unfold State.mfFrame
  split <;> simp
@[simp] theorem State.mfCoast_held (s : State) (f : Nat) : (s.mfCoast f).held = s.held := by simp [State.mfCoast]
@[simp] theorem State.fecFrame_held (s : State) (f : Nat) (x : FrameIn) : (s.fecFrame f x).held = s.held := by
  simp [State.fecFrame]
@[simp] theorem State.rxRun_held (s : State) (f : Nat) (e : Nat × Bool × Nat × Nat) : (s.rxRun f e).held = s.held := by
  simp [State.rxRun]
@[simp] theorem State.auFrame_held (s : State) (f : Nat) (x : FrameIn) (t : Tab Byte) (k : Nat) :
    (s.auFrame f x t k).held = s.held := by
  unfold State.auFrame
  dsimp only
  split <;> (try split) <;> simp
@[simp] theorem State.rxDetect_held (s : State) (f : Nat) (x : FrameIn) (t : Tab Byte) :
    (s.rxDetect f x t).held = s.held := by simp [State.rxDetect]
@[simp] theorem State.parAdd_held (s : State) (par blk n : Nat) (blocks : Bool) :
    (s.parAdd par blk n blocks).held = s.held := by simp [State.parAdd]
@[simp] theorem State.rxDeg_held (s : State) (f i n : Nat) : (s.rxDeg f i n).held = s.held := by simp [State.rxDeg]
@[simp] theorem State.sdhParity_held (s : State) (f : Nat) (t : Tab Byte) (now : Nat) :
    (s.sdhParity f t now).held = s.held := by simp [State.sdhParity]
@[simp] theorem State.otnParity_held (s : State) (f : Nat) (t : Tab Byte) (now : Nat) :
    (s.otnParity f t now).held = s.held := by simp [State.otnParity]
@[simp] theorem State.sdiParity_held (s : State) (f : Nat) (x : FrameIn) (now : Nat) :
    (s.sdiParity f x now).held = s.held := by simp [State.sdiParity]
@[simp] theorem State.rxParity_held (s : State) (f : Nat) (x : FrameIn) (t : Tab Byte) (now : Nat) :
    (s.rxParity f x t now).held = s.held := by
  unfold State.rxParity
  split <;> simp
@[simp] theorem State.keepParity_held (s : State) (f : Nat) (x : FrameIn) (t : Tab Byte) :
    (s.keepParity f x t).held = s.held := by
  unfold State.keepParity
  extract_lets
  split <;> simp [*]
@[simp] theorem State.rxShowDeg_held (s : State) (f : Nat) : (s.rxShowDeg f).held = s.held := by simp [State.rxShowDeg]
@[simp] theorem State.rxCapture_held (s : State) (f : Nat) (x : FrameIn) (t : Tab Byte) (first : Bool) :
    (s.rxCapture f x t first).held = s.held := by simp [State.rxCapture]
@[simp] theorem State.rxBadSlot_held (s : State) (f j : Nat) : (s.rxBadSlot f j).held = s.held := by
  simp [State.rxBadSlot]
@[simp] theorem State.rxItems_held (s : State) (f tag : Nat) (first : Bool) (stamp : Nat) :
    (s.rxItems f tag first stamp).held = s.held := by simp [State.rxItems]
@[simp] theorem State.rxPayloadId_held (s : State) (f : Nat) (x : FrameIn) (first : Bool) :
    (s.rxPayloadId f x first).held = s.held := by
  unfold State.rxPayloadId
  extract_lets
  split <;> simp [*]
@[simp] theorem State.ttcSees_held (s : State) (f bitPs mfas : Nat) (fly : Bool) :
    (s.ttcSees f bitPs mfas fly).held = s.held := by simp [State.ttcSees]
@[simp] theorem State.rxEdge_held (s : State) (f mfas : Nat) (x : FrameIn) : (s.rxEdge f mfas x).held = s.held := by
  simp [State.rxEdge]
@[simp] theorem State.pdefEdge_held (s : State) (f : Nat) : (s.pdefEdge f).held = s.held := by simp [State.pdefEdge]
@[simp] theorem State.flyFrame_held (s : State) (f : Nat) : (s.flyFrame f).held = s.held := by simp [State.flyFrame]
@[simp] theorem State.goodFrame_held (s : State) (f : Nat) (x : FrameIn) : (s.goodFrame f x).held = s.held := by
  simp [State.goodFrame]
@[simp] theorem State.measureSkew_held (s : State) (lead : Nat) (arr : List Nat) :
    (s.measureSkew lead arr).held = s.held := by simp [State.measureSkew]
@[simp] theorem State.rxFrame6_held (s : State) (f : Nat) (x : FrameIn) : (s.rxFrame6 f x).held = s.held := by
  simp [State.rxFrame6]
@[simp] theorem State.trsSeen_held (s : State) (f pos : Nat) : (s.trsSeen f pos).held = s.held := by
  simp [State.trsSeen]
@[simp] theorem State.rxFrame_held (s : State) (f : Nat) (x : FrameIn) : (s.rxFrame f x).held = s.held := by
  simp [State.rxFrame]

/-! ### The operations of Machine/MapOps -/

@[simp] theorem State.showPending_held (s : State) (r : Nat) : (s.showPending r).held = s.held := by
  simp [State.showPending]
@[simp] theorem State.takeStaged_held (s : State) (rows : Nat) : (s.takeStaged rows).held = s.held := by
  simp [State.takeStaged]
@[simp] theorem State.showSizes_held (s : State) (r : Nat) : (s.showSizes r).held = s.held := by simp [State.showSizes]
@[simp] theorem State.sinksTake_held (s : State) (r sig : Nat) (whole : Bool) :
    (s.sinksTake r sig whole).held = s.held := by simp [State.sinksTake]
@[simp] theorem State.sinksLose_held (s : State) (r sig : Nat) : (s.sinksLose r sig).held = s.held := by
  simp [State.sinksLose]
@[simp] theorem State.fitCheck_held (s : State) (r t : Nat) : (s.fitCheck r t).held = s.held := by simp [State.fitCheck]
@[simp] theorem State.formatFollow_held (s : State) (f : Nat) (rx : Bool) : (s.formatFollow f rx).held = s.held := by
  simp [State.formatFollow]

/-! ### The operations of Machine/CelOps -/

@[simp] theorem State.mEvent_held (s : State) (i b : Nat) : (s.mEvent i b).held = s.held := by simp [State.mEvent]
@[simp] theorem State.clearNoMatch_held (s : State) (i : Nat) : (s.clearNoMatch i).held = s.held := by
  simp [State.clearNoMatch]
@[simp] theorem State.mAlign_held (s : State) (i : Nat) (off : ℤ) : (s.mAlign i off).held = s.held := by
  simp [State.mAlign]
@[simp] theorem State.mUnalign_held (s : State) (i : Nat) (counted : Bool) : (s.mUnalign i counted).held = s.held := by
  simp [State.mUnalign]
@[simp] theorem State.mRestart_held (s : State) (i : Nat) : (s.mRestart i).held = s.held := by simp [State.mRestart]
@[simp] theorem State.takeFp_held (s : State) (f : Nat) (x : FrameIn) : (s.takeFp f x).held = s.held := by
  simp [State.takeFp]
@[simp] theorem State.mAcquire_held (s : State) (i frame : Nat) (off : ℤ) : (s.mAcquire i frame off).held = s.held := by
  simp [State.mAcquire]
@[simp] theorem State.mTrack_held (s : State) (i : Nat) (copyB : Bool) (frame : Nat) (own : Fp) (h : List Fp) :
    (s.mTrack i copyB frame own h).held = s.held := by
  unfold State.mTrack
  dsimp only
  split <;> simp
@[simp] theorem State.mLookup_held (s : State) (i : Nat) (copyB : Bool) (own : Fp) (frame : Nat) :
    (s.mLookup i copyB own frame).held = s.held := by
  unfold State.mLookup
  dsimp only
  repeat' split <;> try simp
@[simp] theorem State.mSwitch_held (s : State) (i : Nat) (toB : Bool) : (s.mSwitch i toB).held = s.held := by
  simp [State.mSwitch]
@[simp] theorem State.mDoubleBad_held (s : State) (i : Nat) : (s.mDoubleBad i).held = s.held := by
  simp [State.mDoubleBad]
@[simp] theorem State.mDecide_held (s : State) (i : Nat) (va vb : Bool) : (s.mDecide i va vb).held = s.held := by
  unfold State.mDecide
  dsimp only
  split <;> simp
@[simp] theorem State.celRead_held (s : State) (r : Nat) (c : Nat × Nat) (x : CelIn) :
    (s.celRead r c x).held = s.held := by
  simp [State.celRead]
@[simp] theorem State.tryClaim_held (s : State) (c : Nat × Nat × Nat) : (s.tryClaim c).held = s.held := by
  simp [State.tryClaim]
@[simp] theorem State.showGrants_held (s : State) : s.showGrants.held = s.held := by simp [State.showGrants]
@[simp] theorem State.grantPlots_held (s : State) : s.grantPlots.held = s.held := by simp [State.grantPlots]
@[simp] theorem State.pairsFollow_held (s old : State) : (s.pairsFollow old).held = s.held := by
  simp [State.pairsFollow]
@[simp] theorem State.rxFormatWrite_held (s : State) (f fmt : Nat) : (s.rxFormatWrite f fmt).held = s.held := by
  simp [State.rxFormatWrite]

/-! ### The operations of Machine/MapFrames -/

@[simp] theorem State.tribJcRun_held (s : State) (r t : Nat) (bad : Bool) : (s.tribJcRun r t bad).held = s.held := by
  simp [State.tribJcRun]
@[simp] theorem State.tribJc_held (s : State) (r t : Nat) (x : TribIn) : (s.tribJc r t x).held = s.held := by
  unfold State.tribJc
  dsimp only
  repeat' split <;> try simp
@[simp] theorem State.showInUse_held (s : State) (b : Nat) : (s.showInUse b).held = s.held := by simp [State.showInUse]
@[simp] theorem State.mapperSlip_held (s : State) (r t n : Nat) : (s.mapperSlip r t n).held = s.held := by
  simp [State.mapperSlip]
@[simp] theorem State.tribSlip_held (s : State) (r t n : Nat) : (s.tribSlip r t n).held = s.held := by
  simp [State.tribSlip]
@[simp] theorem State.tribRun_held (s : State) (r t : Nat) (e : Nat × Bool × Nat × Nat) :
    (s.tribRun r t e).held = s.held := by simp [State.tribRun]
@[simp] theorem State.tribParity_held (s : State) (r t err now : Nat) (pm : Byte) :
    (s.tribParity r t err now pm).held = s.held := by simp [State.tribParity]
@[simp] theorem State.mapBadSlot_held (s : State) (r e : Nat) : (s.mapBadSlot r e).held = s.held := by
  simp [State.mapBadSlot]
@[simp] theorem State.tribItems_held (s : State) (r t tag : Nat) (first : Bool) :
    (s.tribItems r t tag first).held = s.held := by simp [State.tribItems]
@[simp] theorem State.setLoa_held (s : State) (r h : Nat) (on : Bool) : (s.setLoa r h on).held = s.held := by
  simp [State.setLoa]
@[simp] theorem State.groupFrame_held (s : State) (r h v : Nat) : (s.groupFrame r h v).held = s.held := by
  simp [State.groupFrame]
@[simp] theorem State.memberPeriod_held (s : State) (r t : Nat) (x : TribIn) :
    (s.memberPeriod r t x).held = s.held := by
  simp [State.memberPeriod]
@[simp] theorem State.tribCapture_held (s : State) (r t : Nat) (b : Tab Byte) :
    (s.tribCapture r t b).held = s.held := by
  simp [State.tribCapture]
@[simp] theorem State.tribGood_held (s : State) (r t now : Nat) (x : TribIn) :
    (s.tribGood r t now x).held = s.held := by
  simp [State.tribGood]
@[simp] theorem State.tribTake_held (s : State) (r t : Nat) (x : TribIn) (good : Bool) :
    (s.tribTake r t x good).held = s.held := by simp [State.tribTake]
@[simp] theorem State.countMfi_held (s : State) (r h t mfi : Nat) : (s.countMfi r h t mfi).held = s.held := by
  simp [State.countMfi]
@[simp] theorem State.tribFrame_held (s : State) (r t : Nat) (x : TribIn) : (s.tribFrame r t x).held = s.held := by
  unfold State.tribFrame
  dsimp only
  split <;> simp

/-! ### The operations of Machine/TxOps -/

@[simp] theorem State.tracePresets_held (s : State) (f fmt : Nat) : (s.tracePresets f fmt).held = s.held := by
  unfold State.tracePresets
  split <;> simp
@[simp] theorem State.txFormatWrite_held (s : State) (f fmt : Nat) : (s.txFormatWrite f fmt).held = s.held := by
  simp [State.txFormatWrite]
@[simp] theorem State.txWrite_held (s : State) (f slot : Nat) (b : Byte) : (s.txWrite f slot b).2.held = s.held := by
  simp [State.txWrite]
@[simp] theorem State.tribWrite_held (s : State) (r t slot : Nat) (b : Byte) :
    (s.tribWrite r t slot b).2.held = s.held := by simp [State.tribWrite]
@[simp] theorem State.timingEdge_held (s : State) (f : Nat) : (s.timingEdge f).held = s.held := by
  simp [State.timingEdge]
@[simp] theorem State.loopMove_held (s : State) (f : Nat) : (s.loopMove f).held = s.held := by simp [State.loopMove]
@[simp] theorem State.reiSat_held (s : State) (f n cap : Nat) : (s.reiSat f n cap).held = s.held := by
  simp [State.reiSat]
@[simp] theorem State.sendSdh_held (s : State) (f : Nat) (ais : Bool) : (s.sendSdh f ais).held = s.held := by
  simp [State.sendSdh]
@[simp] theorem State.sendOtn_held (s : State) (f : Nat) (forced : Bool) : (s.sendOtn f forced).held = s.held := by
  simp [State.sendOtn]
@[simp] theorem State.slip_held (s : State) (f b : Nat) (rep : Bool) : (s.slip f b rep).held = s.held := by
  simp [State.slip]
@[simp] theorem State.slipEdge_held (s : State) (f fill : Nat) (replaced : Bool) :
    (s.slipEdge f fill replaced).held = s.held := by
  unfold State.slipEdge
  split <;> simp
@[simp] theorem State.ttcBegin_held (s : State) (n dep : Nat) : (s.ttcBegin n dep).held = s.held := by
  simp [State.ttcBegin]
@[simp] theorem State.transmit_held (s : State) (f : Nat) (x : TxIn) : (s.transmit f x).held = s.held := by
  unfold State.transmit
  dsimp only
  split <;> simp

/-! ### The operations of Machine/MapSend -/

@[simp] theorem State.takePm_held (s : State) (r t : Nat) : (s.takePm r t).2.held = s.held := by simp [State.takePm]
@[simp] theorem State.makeOdu_held (s : State) (r h m : Nat) (sent : TribSent) :
    (s.makeOdu r h m sent).held = s.held := by
  simp [State.makeOdu]
@[simp] theorem State.makeClient_held (s : State) (r t : Nat) (x : TribOut) : (s.makeClient r t x).held = s.held := by
  simp [State.makeClient]
@[simp] theorem State.makeOdtu_held (s : State) (r t : Nat) (x : TribOut) : (s.makeOdtu r t x).held = s.held := by
  simp [State.makeOdtu]
@[simp] theorem State.makeFrame_held (s : State) (r t : Nat) (x : TribOut) : (s.makeFrame r t x).held = s.held := by
  simp [State.makeFrame]

/-! ### The operations of Machine/MapCommands -/

@[simp] theorem State.trlGo_held (s : State) (v : Nat) : (s.trlGo v).held = s.held := by simp [State.trlGo]
@[simp] theorem execTrlCommit_held (val : Word) (s : State) : heldAfter (execTrlCommit val s) = some s.held := by
  simp [execTrlCommit]
@[simp] theorem State.trlResult_held (s : State) (status index : Nat) : (s.trlResult status index).held = s.held := by
  simp [State.trlResult]
@[simp] theorem State.copyTable_held (s : State) (src dst : Nat) : (s.copyTable src dst).held = s.held := by
  simp [State.copyTable]
@[simp] theorem State.showUsed_held (s : State) : s.showUsed.held = s.held := by simp [State.showUsed]
@[simp] theorem State.restartSinks_held (s t : State) : (s.restartSinks t).held = t.held := by simp [State.restartSinks]
@[simp] theorem State.tribRestart_held (s : State) (r t : Nat) : (s.tribRestart r t).held = s.held := by
  simp [State.tribRestart]
@[simp] theorem State.restartTribs_held (s t : State) (rows : Nat) : (s.restartTribs t rows).held = t.held := by
  simp [State.restartTribs]
@[simp] theorem State.restartPairs_held (s t : State) (rows : Nat) : (s.restartPairs t rows).held = t.held := by
  simp [State.restartPairs]
@[simp] theorem State.showSlips_held (s t : State) : (s.showSlips t).held = t.held := by simp [State.showSlips]
@[simp] theorem State.showAligned_held (s : State) (r : Nat) : (s.showAligned r).held = s.held := by
  simp [State.showAligned]
@[simp] theorem execTributaryFrame_held (r : Fin 12) (t : Fin 80) (x : TribFrame) (s : State) :
    heldAfter (execTributaryFrame r t x s) = some s.held := by
  unfold execTributaryFrame
  split <;> simp
@[simp] theorem execSteeringUpdate_held (r : Fin 12) (t : Fin 80) (s : State) :
    heldAfter (execSteeringUpdate r t s) = some s.held := by simp [execSteeringUpdate]
@[simp] theorem execFingerprintLookup_held (i : Fin 96) (copyB : Bool) (arrival : Nat) (s : State) :
    heldAfter (execFingerprintLookup i copyB arrival s) = some s.held := by
  unfold execFingerprintLookup
  split <;> simp
@[simp] theorem execPerFrameDecision_held (i : Fin 96) (arrival : Nat) (cel : CelIn) (s : State) :
    heldAfter (execPerFrameDecision i arrival cel s) = some s.held := by simp [execPerFrameDecision]
@[simp] theorem execNoMatch_held (i : Fin 96) (s : State) : heldAfter (execNoMatch i s) = some s.held := by
  simp [execNoMatch]

/-! ### The operations of Machine/QdmCommands -/

@[simp] theorem State.retrain_held (s : State) (d p : Nat) : (s.retrain d p).held = s.held := by simp [State.retrain]
@[simp] theorem execQdrRetrain_held (dev : Fin 8) (portB : Bool) (s : State) :
    heldAfter (execQdrRetrain dev portB s) = some s.held := by simp [execQdrRetrain]
@[simp] theorem State.addErrs_held (s : State) (cw : Nat) (es : List (Fin 72)) : (s.addErrs cw es).held = s.held := by
  simp [State.addErrs]
@[simp] theorem State.scrub_held (s : State) (errBytes : List (Fin 72)) : (s.scrub errBytes).held = s.held := by
  simp [State.scrub]
@[simp] theorem execScrubRead_held (errBytes : List (Fin 72)) (s : State) :
    heldAfter (execScrubRead errBytes s) = some s.held := by simp [execScrubRead]
@[simp] theorem State.pinErrClr_held (s : State) (d : Nat) : (s.pinErrClr d).held = s.held := by simp [State.pinErrClr]
@[simp] theorem execPinErrClr_held (dev : Fin 8) (s : State) : heldAfter (execPinErrClr dev s) = some s.held := by
  simp [execPinErrClr]
@[simp] theorem State.badShapeRead_held (s : State) (detail : Nat) : (s.badShapeRead detail).held = s.held := by
  simp [State.badShapeRead]
@[simp] theorem State.bar4ReadNow_held (s : State) (off len : Nat) : (s.bar4ReadNow off len).held = s.held := by
  simp [State.bar4ReadNow]
@[simp] theorem execBar4Read_held (off : BitVec 24) (len : Nat) (s : State) :
    heldAfter (execBar4Read off len s) = some s.held := by simp [execBar4Read]

/-! ### The operations of Machine/RxCommands -/

@[simp] theorem execFormatChange_held (f : Chan) (fmt : BitVec 4) (s : State) :
    heldAfter (execFormatChange f fmt s) = some s.held := by simp [execFormatChange]
@[simp] theorem execRehunt_held (f : Chan) (s : State) : heldAfter (execRehunt f s) = some s.held := by
  simp [execRehunt]
@[simp] theorem State.lineMatch_held (s : State) (f p pos : Nat) (x : MatchIn) :
    (s.lineMatch f p pos x).held = s.held := by
  simp [State.lineMatch]
@[simp] theorem execHuntMatch_held (f : Chan) (phase : Fin 5) (pos : Nat) (x : MatchIn) (s : State) :
    heldAfter (execHuntMatch f phase pos x s) = some s.held := by simp [execHuntMatch]
@[simp] theorem execHuntWindowEnd_held (f : Chan) (phase : Fin 5) (s : State) :
    heldAfter (execHuntWindowEnd f phase s) = some s.held := by simp [execHuntWindowEnd]
@[simp] theorem State.oduFrame_held (s : State) (f : Nat) : (s.oduFrame f).held = s.held := by simp [State.oduFrame]
@[simp] theorem execDeliveredFrame_held (f : Chan) (x : FrameIn) (s : State) :
    heldAfter (execDeliveredFrame f x s) = some s.held := by simp [execDeliveredFrame]
@[simp] theorem execFlywheelFrame_held (f : Chan) (s : State) : heldAfter (execFlywheelFrame f s) = some s.held := by
  simp [execFlywheelFrame]
@[simp] theorem execLof_held (f : Chan) (a1 : Fin 5) (s : State) : heldAfter (execLof f a1 s) = some s.held := by
  simp [execLof]
@[simp] theorem execLofClear_held (f : Chan) (phase : Fin 5) (s : State) :
    heldAfter (execLofClear f phase s) = some s.held := by simp [execLofClear]
@[simp] theorem execLoflane_held (f : Chan) (phase : Fin 5) (s : State) :
    heldAfter (execLoflane f phase s) = some s.held := by simp [execLoflane]
@[simp] theorem execLom_held (f : Chan) (s : State) : heldAfter (execLom f s) = some s.held := by simp [execLom]
@[simp] theorem State.reassemble_held (s : State) (lead : Nat) : (s.reassemble lead).held = s.held := by
  simp [State.reassemble]
@[simp] theorem execOtlReassembly_held (f : Chan) (arr : List Nat) (s : State) :
    heldAfter (execOtlReassembly f arr s) = some s.held := by simp [execOtlReassembly]
@[simp] theorem execEavSpacingTimeout_held (f : Chan) (pos : Nat) (s : State) :
    heldAfter (execEavSpacingTimeout f pos s) = some s.held := by simp [execEavSpacingTimeout]
@[simp] theorem State.restartLos_held (s : State) (f : Nat) : (s.restartLos f).held = s.held := by
  simp [State.restartLos]
@[simp] theorem execLos_held (f : Chan) (since : Nat) (s : State) : heldAfter (execLos f since s) = some s.held := by
  simp [execLos]
@[simp] theorem execLosClear_held (f : Chan) (since : Nat) (s : State) :
    heldAfter (execLosClear f since s) = some s.held := by simp [execLosClear]
@[simp] theorem State.pdefRx_held (s : State) (f v : Nat) : (s.pdefRx f v).held = s.held := by simp [State.pdefRx]
@[simp] theorem State.pdefTrib_held (s : State) (r t v : Nat) : (s.pdefTrib r t v).held = s.held := by
  simp [State.pdefTrib]
@[simp] theorem State.pdefSite_held (s : State) (site : DefectSite) (v : Nat) : (s.pdefSite site v).held = s.held := by
  unfold State.pdefSite
  split <;> simp
@[simp] theorem execPdef_held (site : DefectSite) (val : Byte) (s : State) :
    heldAfter (execPdef site val s) = some s.held := by simp [execPdef]
@[simp] theorem State.rxDegEnd_held (s : State) (f i : Nat) (sf : Bool) : (s.rxDegEnd f i sf).held = s.held := by
  simp [State.rxDegEnd]
@[simp] theorem State.tribDegEnd_held (s : State) (r t : Nat) (sf : Bool) : (s.tribDegEnd r t sf).held = s.held := by
  simp [State.tribDegEnd]
@[simp] theorem execDegradeWindowEnd_held (site : DefectSite) (i : Fin 2) (sf : Bool) (s : State) :
    heldAfter (execDegradeWindowEnd site i sf s) = some s.held := by
  unfold execDegradeWindowEnd
  split <;> simp
@[simp] theorem State.latchRx_held (s : State) (sec : Nat) (step : Bool) (f : Nat) :
    (s.latchRx sec step f).held = s.held := by simp [State.latchRx]
@[simp] theorem State.latchTrib_held (s : State) (sec : Nat) (step : Bool) (r t : Nat) :
    (s.latchTrib sec step r t).held = s.held := by simp [State.latchTrib]
@[simp] theorem State.latchAll_held (s : State) : s.latchAll.held = s.held := by simp [State.latchAll]
@[simp] theorem execOneSecondLatch_held (s : State) : heldAfter (execOneSecondLatch s) = some s.held := by
  simp [execOneSecondLatch]
@[simp] theorem State.rxResetStart_held (s : State) (f : Nat) : (s.rxResetStart f).held = s.held := by
  simp [State.rxResetStart]
@[simp] theorem State.rxResetEnd_held (s : State) (f : Nat) : (s.rxResetEnd f).held = s.held := by
  simp [State.rxResetEnd]

/-! ### The operations of Machine/SdlCommands -/

@[simp] theorem State.timeStep_held (s : State) (n : Nat) (d : ℤ) : (s.timeStep n d).held = s.held := by
  simp [State.timeStep]
@[simp] theorem State.captureDial_held (s : State) (n : Nat) : (s.captureDial n).held = s.held := by
  simp [State.captureDial]
@[simp] theorem execCapture_held (n : Fin 16) (s : State) : heldAfter (execCapture n s) = some s.held := by
  simp [execCapture]
@[simp] theorem State.captureAll_held (s : State) : s.captureAll.held = s.held := by simp [State.captureAll]
@[simp] theorem execTimeCaptureAll_held (s : State) : heldAfter (execTimeCaptureAll s) = some s.held := by
  simp [execTimeCaptureAll]
@[simp] theorem State.timeSetArm_held (s : State) (n : Nat) : (s.timeSetArm n).held = s.held := by
  simp [State.timeSetArm]
@[simp] theorem State.timeAdjArm_held (s : State) (n : Nat) : (s.timeAdjArm n).held = s.held := by
  simp [State.timeAdjArm]
@[simp] theorem execTimeSet_held (n : Fin 16) (s : State) : heldAfter (execTimeSet n s) = some s.held := by
  simp [execTimeSet]
@[simp] theorem execTimeAdj_held (n : Fin 16) (s : State) : heldAfter (execTimeAdj n s) = some s.held := by
  simp [execTimeAdj]
@[simp] theorem State.secondBoundary_held (s : State) (n : Nat) : (s.secondBoundary n).held = s.held := by
  simp [State.secondBoundary]
@[simp] theorem execDialSecondBoundary_held (n : Fin 16) (s : State) :
    heldAfter (execDialSecondBoundary n s) = some s.held := by simp [execDialSecondBoundary]
@[simp] theorem State.dialEdge_held (s : State) (n r te : Nat) (mark : Bool) :
    (s.dialEdge n r te mark).held = s.held := by
  unfold State.dialEdge
  dsimp only
  split <;> (try split) <;> simp
@[simp] theorem State.resumeRef_held (s : State) (r : Nat) : (s.resumeRef r).held = s.held := by simp [State.resumeRef]
@[simp] theorem State.goodEdge_held (s : State) (r te : Nat) (mark : Bool) : (s.goodEdge r te mark).held = s.held := by
  simp [State.goodEdge]
@[simp] theorem State.refEdge_held (s : State) (r te : Nat) (mark : Bool) : (s.refEdge r te mark).held = s.held := by
  unfold State.refEdge
  split
  · rfl
  · split
    · split <;> simp
    · simp
    · rfl
@[simp] theorem State.glitchPass_held (s : State) (r low high : Nat) : (s.glitchPass r low high).2.held = s.held := by
  simp [State.glitchPass]
@[simp] theorem State.swEdge_held (s : State) (r te : Nat) : (s.swEdge r te).held = s.held := by simp [State.swEdge]
@[simp] theorem execLoss_held (ref : Fin 84) (s : State) : heldAfter (execLoss ref s) = some s.held := by
  simp [execLoss]
@[simp] theorem execSwTimeout_held (k : Fin 4) (s : State) : heldAfter (execSwTimeout k s) = some s.held := by
  simp [execSwTimeout]
@[simp] theorem State.swAccept_held (s : State) (r : Nat) (freq adj : ℤ) : (s.swAccept r freq adj).held = s.held := by
  simp [State.swAccept]
@[simp] theorem State.swUpdate_held (s : State) (k : Nat) : (s.swUpdate k).held = s.held := by simp [State.swUpdate]
@[simp] theorem State.swUpdateWrite_held (s : State) (o : Origin) (k : Nat) : (s.swUpdateWrite o k).held = s.held := by
  simp [State.swUpdateWrite]
@[simp] theorem execSwUpdate_held (k : Fin 4) (s : State) : heldAfter (execSwUpdate k s) = some s.held := by
  simp [execSwUpdate]
@[simp] theorem State.swApply_held (s : State) (r : Nat) : (s.swApply r).held = s.held := by
  unfold State.swApply
  split <;> simp
@[simp] theorem State.judge_held (s : State) (r : Nat) (f : ℤ) : (s.judge r f).held = s.held := by
  unfold State.judge
  split <;> simp
@[simp] theorem State.slopeCheck_held (s : State) (r : Nat) : (s.slopeCheck r).held = s.held := by
  simp [State.slopeCheck]
@[simp] theorem State.refWindow_held (s : State) (r : Nat) : (s.refWindow r).held = s.held := by
  unfold State.refWindow
  dsimp only
  split <;> simp
@[simp] theorem State.loopFollow_held (s : State) (n : Nat) : (s.loopFollow n).held = s.held := by
  simp [State.loopFollow]
@[simp] theorem State.policyEffect_held (s : State) : s.policyEffect.held = s.held := by simp [State.policyEffect]
@[simp] theorem State.restoreStep_held (s : State) (n : Nat) : (s.restoreStep n).held = s.held := by
  simp [State.restoreStep]
@[simp] theorem State.checkEntries_held (s : State) (n : Nat) : (s.checkEntries n).held = s.held := by
  simp [State.checkEntries]
@[simp] theorem State.restartDial_held (s : State) (n : Nat) : (s.restartDial n).held = s.held := by
  simp [State.restartDial]
@[simp] theorem execHoldoffExpiry_held (n : Fin 16) (s : State) : heldAfter (execHoldoffExpiry n s) = some s.held := by
  simp [execHoldoffExpiry]
@[simp] theorem execLock_held (n : Fin 16) (s : State) : heldAfter (execLock n s) = some s.held := by simp [execLock]
@[simp] theorem execHoldoverExpired_held (n : Fin 16) (s : State) :
    heldAfter (execHoldoverExpired n s) = some s.held := by
  simp [execHoldoverExpired]
@[simp] theorem State.restartAsk_held (s : State) (n : Nat) : (s.restartAsk n).held = s.held := by
  simp [State.restartAsk]
@[simp] theorem execRestart_held (n : Fin 16) (s : State) : heldAfter (execRestart n s) = some s.held := by
  simp [execRestart]
@[simp] theorem State.firstErr_held (s : State) (n r : Nat) (raw : ℤ) : (s.firstErr n r raw).held = s.held := by
  simp [State.firstErr]
@[simp] theorem State.judgeLock_held (s : State) (n : Nat) (e : ℤ) : (s.judgeLock n e).held = s.held := by
  simp [State.judgeLock]
@[simp] theorem State.phaseUpdate_held (s : State) (n : Nat) : (s.phaseUpdate n).held = s.held := by
  simp [State.phaseUpdate]
@[simp] theorem execPhaseDetectorUpdate_held (n : Fin 16) (s : State) :
    heldAfter (execPhaseDetectorUpdate n s) = some s.held := by simp [execPhaseDetectorUpdate]
@[simp] theorem State.hoRecord_held (s : State) (n : Nat) : (s.hoRecord n).held = s.held := by simp [State.hoRecord]
@[simp] theorem execHoldoverRecord_held (n : Fin 16) (s : State) :
    heldAfter (execHoldoverRecord n s) = some s.held := by
  simp [execHoldoverRecord]
@[simp] theorem State.genRise_held (s : State) (g : Nat) : (s.genRise g).held = s.held := by simp [State.genRise]
@[simp] theorem State.genDrop_held (s : State) (g : Nat) : (s.genDrop g).held = s.held := by simp [State.genDrop]
@[simp] theorem execGeneratorEdge_held (g : Fin 96) (rising : Bool) (s : State) :
    heldAfter (execGeneratorEdge g rising s) = some s.held := by simp [execGeneratorEdge]
@[simp] theorem State.ttcKeep_held (s : State) (n : Nat) (x : TtcIn) (at_ : Nat) :
    (s.ttcKeep n x at_).held = s.held := by
  simp [State.ttcKeep]
@[simp] theorem State.ttcPass_held (s : State) (n : Nat) (x : TtcIn) (t1 t4 : Nat × Nat) (t2 t3 : ℤ) :
    (s.ttcPass n x t1 t4 t2 t3).held = s.held := by simp [State.ttcPass]
@[simp] theorem State.ttcTake_held (s : State) (n : Nat) (x : TtcIn) : (s.ttcTake n x).held = s.held := by
  unfold State.ttcTake
  dsimp only
  repeat' split <;> try simp
@[simp] theorem execTtcMessage_held (ch : Fin 192) (x : TtcIn) (s : State) :
    heldAfter (execTtcMessage ch x s) = some s.held := by simp [execTtcMessage]
@[simp] theorem execTtcLoss_held (ch : Fin 192) (s : State) : heldAfter (execTtcLoss ch s) = some s.held := by
  simp [execTtcLoss]

/-! ### The operations of Machine/Sieve -/

@[simp] theorem State.sveInvalid_held (s : State) (i a : Nat) : (s.sveInvalid i a).held = s.held := by
  simp [State.sveInvalid]
@[simp] theorem State.bankWrite_held (s : State) (i b a : Nat) (v : Word) : (s.bankWrite i b a v).held = s.held := by
  simp [State.bankWrite]
@[simp] theorem State.sveSwap_held (s : State) (i : Nat) : (s.sveSwap i).held = s.held := by simp [State.sveSwap]
@[simp] theorem execSwap_held (i : Fin 16) (s : State) : heldAfter (execSwap i s) = some s.held := by simp [execSwap]
@[simp] theorem State.sveSwapDone_held (s : State) (i : Nat) : (s.sveSwapDone i).held = s.held := by
  simp [State.sveSwapDone]
@[simp] theorem execSwapDone_held (i : Fin 16) (s : State) : heldAfter (execSwapDone i s) = some s.held := by
  simp [execSwapDone]
@[simp] theorem State.clip_held (s : State) (i : Nat) : (s.clip i).held = s.held := by simp [State.clip]
@[simp] theorem execPeakBlockEnd_held (i : Fin 16) (s : State) : heldAfter (execPeakBlockEnd i s) = some s.held := by
  unfold execPeakBlockEnd
  dsimp only
  split <;> (try split) <;> simp
@[simp] theorem State.setWindow_held (s : State) (i : Nat) (on : Bool) : (s.setWindow i on).held = s.held := by
  simp [State.setWindow]
@[simp] theorem execWindowIn_held (i : Fin 16) (s : State) : heldAfter (execWindowIn i s) = some s.held := by
  simp [execWindowIn]
@[simp] theorem execWindowOut_held (i : Fin 16) (s : State) : heldAfter (execWindowOut i s) = some s.held := by
  simp [execWindowOut]
@[simp] theorem State.pulse_held (s : State) (i : Nat) (edge width trail : ℤ) (mixed inWin : Bool) :
    (s.pulse i edge width trail mixed inWin).held = s.held := by simp [State.pulse]
@[simp] theorem State.slicer_held (s : State) (i b n : Nat) (x : ℤ) : (s.slicer i b n x).held = s.held := by
  unfold State.slicer
  dsimp only
  repeat' split <;> try simp
@[simp] theorem State.outSample_held (s : State) (i b n : Nat) (x : ℤ) : (s.outSample i b n x).held = s.held := by
  simp [State.outSample]
@[simp] theorem State.adcSample_held (s : State) (i : Nat) (c : BitVec 12) : (s.adcSample i c).held = s.held := by
  simp [State.adcSample]
@[simp] theorem execOutputSample_held (i : Fin 16) (adc : List (BitVec 12)) (s : State) :
    heldAfter (execOutputSample i adc s) = some s.held := by simp [execOutputSample]
@[simp] theorem State.edgeOut_held (s : State) (i : Nat) : (s.edgeOut i).held = s.held := by
  unfold State.edgeOut
  extract_lets
  split <;> simp [*]
@[simp] theorem execEdgeDelivery_held (i : Fin 16) (s : State) : heldAfter (execEdgeDelivery i s) = some s.held := by
  simp [execEdgeDelivery]
@[simp] theorem execGateLapse_held (i : Fin 16) (s : State) : heldAfter (execGateLapse i s) = some s.held := by
  simp [execGateLapse]

/-! ### The operations of Machine/Twin -/

@[simp] theorem State.boardRoleWrite_held (s : State) (o : Origin) (v : Nat) :
    (s.boardRoleWrite o v).held = s.held := by
  simp [State.boardRoleWrite]
@[simp] theorem execBoardRole_held (val : Word) (s : State) : heldAfter (execBoardRole val s) = some s.held := by
  simp [execBoardRole]
@[simp] theorem execLaneLockChange_held (lane : Fin 4) (locked hiBer : Bool) (s : State) :
    heldAfter (execLaneLockChange lane locked hiBer s) = some s.held := by simp [execLaneLockChange]
@[simp] theorem execAlignmentBlock_held (lanes : List (Byte × Nat)) (s : State) :
    heldAfter (execAlignmentBlock lanes s) = some s.held := by simp [execAlignmentBlock]
@[simp] theorem execHeartbeatTimeout_held (s : State) : heldAfter (execHeartbeatTimeout s) = some s.held := by
  simp [execHeartbeatTimeout]
@[simp] theorem State.heartbeat_held (s : State) (role : Nat) (version : Word) (keeper alive : Bool) :
    (s.heartbeat role version keeper alive).held = s.held := by simp [State.heartbeat]
@[simp] theorem State.frameDrop_held (s : State) (h : TwinHdr) (len : Nat) (body : List Word) (trailer : Word) :
    (s.frameDrop h len body trailer).held = s.held := by simp [State.frameDrop]
@[simp] theorem execCrcDrop_held (h : TwinHdr) (len : Half) (body : List Word) (trailer : Word) (s : State) :
    heldAfter (execCrcDrop h len body trailer s) = some s.held := by simp [execCrcDrop]
@[simp] theorem execHeartbeatSend_held (s : State) : heldAfter (execHeartbeatSend s) = some s.held := by
  simp [execHeartbeatSend]
@[simp] theorem State.mirrorSend_held (s : State) : s.mirrorSend.held = s.held := by simp [State.mirrorSend]
@[simp] theorem execMirrorSend_held (s : State) : heldAfter (execMirrorSend s) = some s.held := by simp [execMirrorSend]
@[simp] theorem State.mirrorTake_held (s : State) (p : MirrorPart) : (s.mirrorTake p).held = s.held := by
  unfold State.mirrorTake
  split <;> simp
@[simp] theorem execMirror_held (h : TwinHdr) (parts : List MirrorPart) (whole : Bool) (s : State) :
    heldAfter (execMirror h parts whole s) = some s.held := by simp [execMirror]
@[simp] theorem State.mateCmd_held (s : State) (ws : List Word) : (s.mateCmd ws).held = s.held := by
  unfold State.mateCmd
  dsimp only
  split <;> (try split) <;> simp
@[simp] theorem execImageCmd_held (h : TwinHdr) (words : List Word) (s : State) :
    heldAfter (execImageCmd h words s) = some s.held := by simp [execImageCmd]
@[simp] theorem execImageRsp_held (h : TwinHdr) (words : List Word) (s : State) :
    heldAfter (execImageRsp h words s) = some s.held := by simp [execImageRsp]

/-! ### The operations of Machine/BlockResets -/

@[simp] theorem State.clearSq_held (s : State) (p : Nat → Bool) : (s.clearSq p).held = s.held := by simp [State.clearSq]
@[simp] theorem State.disarm_held (s : State) (p : Nat → Bool) : (s.disarm p).held = s.held := by simp [State.disarm]
@[simp] theorem State.hifReset_held (s : State) : s.hifReset.held = s.held := by simp [State.hifReset]
@[simp] theorem State.sveReset_held (s : State) (i : Nat) : (s.sveReset i).held = s.held := by simp [State.sveReset]
@[simp] theorem State.qdmReset_held (s : State) : s.qdmReset.held = s.held := by simp [State.qdmReset]
@[simp] theorem State.rowReset_held (s : State) (r : Nat) : (s.rowReset r).held = s.held := by simp [State.rowReset]
@[simp] theorem State.trlReset_held (s : State) : s.trlReset.held = s.held := by simp [State.trlReset]
@[simp] theorem State.celReset_held (s : State) : s.celReset.held = s.held := by
  refine (foldl_held _ (fun u r => foldl_held _ (fun v n => ?_) _ u) _ _).trans (by simp)
  split <;> try split
  all_goals simp
@[simp] theorem State.ttcReset_held (s : State) (n : Nat) : (s.ttcReset n).held = s.held := by simp [State.ttcReset]
@[simp] theorem State.refReset_held (s : State) (r : Nat) : (s.refReset r).held = s.held := by simp [State.refReset]
@[simp] theorem State.resetEnd_held (s : State) (src : Nat) : (s.resetEnd src).held = s.held := by simp [State.resetEnd]
@[simp] theorem State.showShadows_held (s : State) (srcs : List Nat) : (s.showShadows srcs).held = s.held := by
  simp [State.showShadows]
@[simp] theorem State.blockResetEnd_held (s : State) (src : Nat) : (s.blockResetEnd src).held = s.held := by
  unfold State.blockResetEnd
  split <;> simp
@[simp] theorem State.shadowEnd_held (s : State) (src : Nat) : (s.shadowEnd src).held = s.held := by
  unfold State.shadowEnd
  split <;> simp

/-! ### The operations of Machine/Curator -/

@[simp] theorem State.logAppend_held (s : State) (lo hi ns sec : Word) : (s.logAppend lo hi ns sec).held = s.held := by
  simp [State.logAppend]
@[simp] theorem State.ringAdvance_held (s : State) : s.ringAdvance.held = s.held := by simp [State.ringAdvance]
@[simp] theorem State.ringLoss_held (s : State) (countA kind : Nat) (get : Cur → List (Nat × Nat))
    (put : Cur → List (Nat × Nat) → Cur) :
    (s.ringLoss countA kind get put).held = s.held := by simp [State.ringLoss]
@[simp] theorem State.showInt_held (s : State) : s.showInt.held = s.held := by simp [State.showInt]
@[simp] theorem State.takeInt_held (s : State) (v mark : Nat) (was : Bool) : (s.takeInt v mark was).held = s.held := by
  simp [State.takeInt]
@[simp] theorem State.nmiSettle_held (s : State) : s.nmiSettle.held = s.held := by simp [State.nmiSettle]
@[simp] theorem State.takeNmi_held (s : State) : s.takeNmi.held = s.held := by simp [State.takeNmi]
@[simp] theorem State.nmiAckWrite_held (s : State) : s.nmiAckWrite.held = s.held := by simp [State.nmiAckWrite]
@[simp] theorem execNmiAck_held (s : State) : heldAfter (execNmiAck s) = some s.held := by simp [execNmiAck]
@[simp] theorem State.aliveSet_held (s : State) (f : Cur → Cur) : (s.aliveSet f).held = s.held := by
  simp [State.aliveSet]
@[simp] theorem State.aliveStart_held (s : State) : s.aliveStart.held = s.held := by simp [State.aliveStart]
@[simp] theorem execAliveStart_held (s : State) : heldAfter (execAliveStart s) = some s.held := by simp [execAliveStart]
@[simp] theorem State.aliveResumeWrite_held (s : State) (o : Origin) (v : Word) :
    (s.aliveResumeWrite o v).held = s.held := by simp [State.aliveResumeWrite]
@[simp] theorem execAliveResume_held (val : Word) (s : State) : heldAfter (execAliveResume val s) = some s.held := by
  simp [execAliveResume]
@[simp] theorem execAliveToggle_held (s : State) : heldAfter (execAliveToggle s) = some s.held := by
  simp [execAliveToggle]
@[simp] theorem execAliveKickLost_held (s : State) : heldAfter (execAliveKickLost s) = some s.held := by
  simp [execAliveKickLost]
@[simp] theorem State.escalate_held (s : State) (src : Nat) : (s.escalate src).held = s.held := by simp [State.escalate]
@[simp] theorem State.logReport_held (s : State) (r : Report) (rep ovf : Bool) :
    (s.logReport r rep ovf).held = s.held := by
  simp [State.logReport]
@[simp] theorem State.logRdWrite_held (s : State) (v : Word) : (s.logRdWrite v).held = s.held := by
  simp [State.logRdWrite]
@[simp] theorem execLogRd_held (val : Word) (s : State) : heldAfter (execLogRd val s) = some s.held := by
  simp [execLogRd]
@[simp] theorem State.srcForceWrite_held (s : State) (src : Nat) (v : Word) :
    (s.srcForceWrite src v).held = s.held := by
  simp [State.srcForceWrite]
@[simp] theorem execSrcForce_held (src : Fin 1024) (val : Word) (s : State) :
    heldAfter (execSrcForce src val s) = some s.held := by simp [execSrcForce]
@[simp] theorem State.srcResetWrite_held (s : State) (o : Origin) (src : Nat) (v : Word) :
    (s.srcResetWrite o src v).held = s.held := by simp [State.srcResetWrite]
@[simp] theorem execSrcReset_held (src : Fin 1024) (val : Word) (s : State) :
    heldAfter (execSrcReset src val s) = some s.held := by simp [execSrcReset]
@[simp] theorem execBlockResetEnd_held (src : Fin 1024) (s : State) :
    heldAfter (execBlockResetEnd src s) = some s.held := by simp [execBlockResetEnd]
@[simp] theorem execShadowEnd_held (src : Fin 1024) (s : State) : heldAfter (execShadowEnd src s) = some s.held := by
  simp [execShadowEnd]

/-! ### The operations of Machine/Pins -/

@[simp] theorem State.sundialMoved_held (s t : State) : (s.sundialMoved t).held = t.held := by simp [State.sundialMoved]
@[simp] theorem State.hostTimers_held (s : State) : s.hostTimers.held = s.held := by simp [State.hostTimers]
@[simp] theorem State.samplesStop_held (s : State) : s.samplesStop.held = s.held := by simp [State.samplesStop]
@[simp] theorem State.clockGone_held (s : State) (c : Clock) : (s.clockGone c).held = s.held := by
  unfold State.clockGone
  split <;> simp
@[simp] theorem State.clockFails_held (s : State) (c : Clock) : (s.clockFails c).held = s.held := by
  unfold State.clockFails
  dsimp only
  split <;> (try split) <;> simp
@[simp] theorem execClockFailure_held (c : Clock) (s : State) : heldAfter (execClockFailure c s) = some s.held := by
  simp [execClockFailure]
@[simp] theorem State.clockReturns_held (s : State) (c : Clock) : (s.clockReturns c).held = s.held := by
  unfold State.clockReturns
  dsimp only
  repeat' split <;> try simp
@[simp] theorem execClockRestored_held (c : Clock) (s : State) : heldAfter (execClockRestored c s) = some s.held := by
  simp [execClockRestored]
@[simp] theorem State.clkStatusFall_held (s : State) (b : Nat) : (s.clkStatusFall b).held = s.held := by
  simp [State.clkStatusFall]
@[simp] theorem execClkStatusFall_held (bit : Fin 4) (s : State) :
    heldAfter (execClkStatusFall bit s) = some s.held := by
  simp [execClkStatusFall]
@[simp] theorem State.linkLost_held (s : State) : s.linkLost.held = s.held := by simp [State.linkLost]
@[simp] theorem execLinkL0Timeout_held (s : State) : heldAfter (execLinkL0Timeout s) = some s.held := by
  simp [execLinkL0Timeout]
@[simp] theorem State.linkBack_held (s : State) (speed width : Nat) : (s.linkBack speed width).held = s.held := by
  simp [State.linkBack]
@[simp] theorem execReturnToL0_held (speed width : BitVec 3) (s : State) :
    heldAfter (execReturnToL0 speed width s) = some s.held := by simp [execReturnToL0]
@[simp] theorem execMsixPendingSend_held (v : Fin 64) (s : State) :
    heldAfter (execMsixPendingSend v s) = some s.held := by
  simp [execMsixPendingSend]
@[simp] theorem State.cdrLock_held (s : State) (f ps ctle : Nat) : (s.cdrLock f ps ctle).held = s.held := by
  simp [State.cdrLock]
@[simp] theorem execCdrLock_held (f : Chan) (ps : BitVec 20) (ctle : Byte) (s : State) :
    heldAfter (execCdrLock f ps ctle s) = some s.held := by simp [execCdrLock]
@[simp] theorem execPinLatencyMeasure_held (srd : Fin 768) (ps : BitVec 20) (s : State) :
    heldAfter (execPinLatencyMeasure srd ps s) = some s.held := by simp [execPinLatencyMeasure]
@[simp] theorem State.setPrbs_held (s : State) (srd : Nat) (x : Prbs) : (s.setPrbs srd x).held = s.held := by
  simp [State.setPrbs]
@[simp] theorem State.prbsTake_held (s : State) (srd : Nat) (w : BitVec 64) : (s.prbsTake srd w).held = s.held := by
  simp [State.prbsTake]
@[simp] theorem execPrbsLock_held (srd : Fin 768) (words : List (BitVec 64)) (s : State) :
    heldAfter (execPrbsLock srd words s) = some s.held := by simp [execPrbsLock]
@[simp] theorem State.prbsFresh_held (s : State) (srd : Nat) : (s.prbsFresh srd).held = s.held := by
  simp [State.prbsFresh]
@[simp] theorem State.prbsClr_held (s : State) (srd : Nat) : (s.prbsClr srd).held = s.held := by simp [State.prbsClr]
@[simp] theorem execPrbsClr_held (srd : Fin 768) (s : State) : heldAfter (execPrbsClr srd s) = some s.held := by
  simp [execPrbsClr]
@[simp] theorem State.underrun_held (s : State) (f cycles : Nat) : (s.underrun f cycles).held = s.held := by
  simp [State.underrun]
@[simp] theorem execQueueUnderrun_held (f : Chan) (cycles : Nat) (s : State) :
    heldAfter (execQueueUnderrun f cycles s) = some s.held := by simp [execQueueUnderrun]
@[simp] theorem execOverrun_held (f : Chan) (s : State) : heldAfter (execOverrun f s) = some s.held := by
  simp [execOverrun]
@[simp] theorem State.newTemp_held (s : State) (tj : Nat) : (s.newTemp tj).held = s.held := by simp [State.newTemp]
@[simp] theorem execOverTemp_held (tj : Half) (s : State) : heldAfter (execOverTemp tj s) = some s.held := by
  simp [execOverTemp]
@[simp] theorem execGpioLevelChange_held (pin : Fin 16) (level : Bool) (s : State) :
    heldAfter (execGpioLevelChange pin level s) = some s.held := by simp [execGpioLevelChange]
@[simp] theorem execI2cPointerWrite_held (bytes : List Byte) (s : State) :
    heldAfter (execI2cPointerWrite bytes s) = some s.held := by
  unfold execI2cPointerWrite
  split <;> simp

/-! ### The operations of Machine/Rootstock -/

@[simp] theorem execClaimExpired_held (s : State) : heldAfter (execClaimExpired s) = some s.held := by
  simp [execClaimExpired]
@[simp] theorem execMigrationFreeze_held (s : State) : heldAfter (execMigrationFreeze s) = some s.held := by
  unfold execMigrationFreeze
  dsimp only
  split <;> (try split) <;> simp
@[simp] theorem State.migrate_held (s : State) (nb : Nat) (m : Move) : (s.migrate nb m).held = s.held := by
  simp [State.migrate]
@[simp] theorem execFallbackSpareTimeout_held (s : State) : heldAfter (execFallbackSpareTimeout s) = some s.held := by
  simp [execFallbackSpareTimeout]

/-! ### The operations of Machine/Boot -/

@[simp] theorem execRailOutOfTolerance_held (s : State) : heldAfter (execRailOutOfTolerance s) = some s.held := by
  simp [execRailOutOfTolerance]
@[simp] theorem execBootStart_held (gpio : BitVec 3) (s : State) : heldAfter (execBootStart gpio s) = some s.held := by
  simp [execBootStart]
@[simp] theorem State.bootClocks_held (s : State) : s.bootClocks.held = s.held := by simp [State.bootClocks]
@[simp] theorem State.bootLink_held (s : State) (x : BootIn) : (s.bootLink x).held = s.held := by simp [State.bootLink]
@[simp] theorem State.calPort_held (s : State) (p : Nat) : (s.calPort p).held = s.held := by simp [State.calPort]
@[simp] theorem State.bootQdr_held (s : State) (calFail : Nat) : (s.bootQdr calFail).held = s.held := by
  simp [State.bootQdr]
@[simp] theorem State.bootCellar_held (s : State) (x : BootIn) : (s.bootCellar x).held = s.held := by
  simp [State.bootCellar]
@[simp] theorem State.ringChecked_held (s : State) : s.ringChecked.held = s.held := by simp [State.ringChecked]
@[simp] theorem State.dirChecked_held (s : State) : s.dirChecked.held = s.held := by simp [State.dirChecked]
@[simp] theorem State.banksChecked_held (s : State) : s.banksChecked.held = s.held := by simp [State.banksChecked]
@[simp] theorem State.readDir_held (s : State) : s.readDir.held = s.held :=
  foldl_held _ (fun u k => by split <;> simp) _ s
@[simp] theorem State.trialBoot_held (s : State) (k : Nat) : (s.trialBoot k).held = s.held := by simp [State.trialBoot]
@[simp] theorem State.chosen_held (s : State) (k first : Nat) : (s.chosen k first).held = s.held := by
  simp [State.chosen]
@[simp] theorem State.bootBed_held (s : State) (mask l : Nat) : (s.bootBed mask l).held = s.held := by
  simp [State.bootBed]
@[simp] theorem State.bootBeds_held (s : State) : s.bootBeds.held = s.held := by simp [State.bootBeds]

/-! ### The operations of Machine/Ledger -/

@[simp] theorem State.passTo_held (s : State) (t : Nat) : (s.passTo t).held = s.held := by simp [State.passTo]

/-! ### The operations of Machine/Sprig -/

@[simp] theorem State.atIssue_held (s : State) (c : CtxId) (i : Instr) : (s.atIssue c i).held = s.held := by
  unfold State.atIssue
  split <;> simp
@[simp] theorem State.readyAfter_held (s : State) (c : CtxId) (n : Nat) : (s.readyAfter c n).held = s.held := by
  simp [State.readyAfter]
@[simp] theorem State.tookSlot_held (s : State) (c : CtxId) (i : Instr) : (s.tookSlot c i).held = s.held := by
  simp [State.tookSlot]
@[simp] theorem State.bedEv_held (s : State) (c : CtxId) (ev : Nat) : (s.bedEv c ev).held = s.held := by
  simp [State.bedEv]

/-! ### The operations of Machine/Overhead -/

@[simp] theorem State.ohPut_held (s : State) (o : Option OhObj) (slot : Nat) (b : Byte) :
    (s.ohPut o slot b).2.held = s.held := by
  unfold State.ohPut
  split <;> simp
@[simp] theorem State.ohReject_held (s : State) (F kind : Nat) : (s.ohReject F kind).held = s.held := by
  simp [State.ohReject]
@[simp] theorem State.ohPairs_held (s : State) (F : Nat) (o : OhObj) (ps : List Half) :
    (s.ohPairs F o ps).held = s.held := by
  induction ps using List.twoStepInduction generalizing s with
  | nil => rfl
  | singleton => rfl
  | cons_cons slot b rest ih _ => rw [State.ohPairs, ih]; split <;> simp
@[simp] theorem State.ohSet_held (s : State) (r : Nat) : (s.ohSet r).held = s.held := by
  unfold State.ohSet
  dsimp only
  split
  · rfl
  · split
    · split <;> try split
      all_goals simp
    · simp
@[simp] theorem execOhSet_held (r : Fin 12) (s : State) : heldAfter (execOhSet r s) = some s.held := by simp [execOhSet]

/-! ### The operations of Machine/SprigMemory -/

@[simp] theorem State.noteStore_held (s : State) (b a : Nat) (v : Half) : (s.noteStore b a v).held = s.held := by
  simp [State.noteStore]
@[simp] theorem State.noteSemLoad_held (s : State) (b : Nat) : (s.noteSemLoad b).held = s.held := by
  simp [State.noteSemLoad]
@[simp] theorem State.winEv_held (s : State) (c : CtxId) (a odd : Nat) : (s.winEv c a odd).held = s.held := by
  unfold State.winEv
  split <;> simp

/-! ### The operations of Machine/Reads -/

@[simp] theorem State.readReg_held (s : State) (a : Nat) : (s.readReg a).2.held = s.held := by simp [State.readReg]
@[simp] theorem State.wordBytes_held (s : State) (reg : Nat → Option Nat) (o n : Nat) :
    (s.wordBytes reg o n).2.held = s.held := by
  induction n generalizing s o with
  | zero => rfl
  | succ n ih =>
    simp only [State.wordBytes]
    rw [ih]
    split <;> simp
@[simp] theorem State.answerRead_held (s : State) (reg : Nat → Option Nat) (off len : Nat) :
    (s.answerRead reg off len).held = s.held := by simp [State.answerRead]
@[simp] theorem State.hostRead_held (s : State) (a len : Nat) : (s.hostRead a len).held = s.held := by
  simp [State.hostRead]
@[simp] theorem execPairedCounterRead_held (addr : BitVec 26) (len : Nat) (s : State) :
    heldAfter (execPairedCounterRead addr len s) = some s.held := by simp [execPairedCounterRead]
@[simp] theorem State.bar2Read_held (s : State) (off len : Nat) : (s.bar2Read off len).held = s.held := by
  simp [State.bar2Read]
@[simp] theorem execBar2Read_held (off : BitVec 20) (len : Nat) (s : State) :
    heldAfter (execBar2Read off len s) = some s.held := by simp [execBar2Read]
@[simp] theorem State.i2cRead_held (s : State) : s.i2cRead.held = s.held := by simp [State.i2cRead]
@[simp] theorem execI2cRead_held (s : State) : heldAfter (execI2cRead s) = some s.held := by simp [execI2cRead]
@[simp] theorem State.breakPair_held (s : State) (a : Nat) : (s.breakPair a).held = s.held := by simp [State.breakPair]
@[simp] theorem State.badShape_held (s : State) (bar : Nat) (read : Bool) (off : Nat) :
    (s.badShape bar read off).held = s.held := by
  unfold State.badShape
  split <;> simp
@[simp] theorem execAccessShape_held (bar : Fin 3) (read : Bool) (off : BitVec 26) (len : Nat) (partialBe : Bool)
    (s : State) :
    heldAfter (execAccessShape bar read off len partialBe s) = some s.held := by simp [execAccessShape]
@[simp] theorem State.timedOut_held (s : State) (o : Origin) (read : Bool) (a : Nat) :
    (s.timedOut o read a).held = s.held := by
  unfold State.timedOut
  split <;> simp
@[simp] theorem execAccessTimeout_held (o : Origin) (read : Bool) (addr : BitVec 26) (s : State) :
    heldAfter (execAccessTimeout o read addr s) = some s.held := by simp [execAccessTimeout]

/-! ### The operations of Machine/TwinDial -/

@[simp] theorem State.dialSend_held (s : State) : s.dialSend.held = s.held := by simp [State.dialSend]
@[simp] theorem execDialSend_held (s : State) : heldAfter (execDialSend s) = some s.held := by simp [execDialSend]
@[simp] theorem State.dialPart_held (s : State) (echo : Nat) (p : DialPart) : (s.dialPart echo p).held = s.held := by
  unfold State.dialPart
  dsimp only
  split <;> simp
@[simp] theorem State.dialTake_held (s : State) (q echo : Nat) (parts : List DialPart) :
    (s.dialTake q echo parts).held = s.held := by simp [State.dialTake]
@[simp] theorem State.feedUpdate_held (s : State) (n : Nat) (theta : ℤ) : (s.feedUpdate n theta).held = s.held := by
  simp [State.feedUpdate]
@[simp] theorem State.twinDialWindow_held (s : State) (n : Nat) : (s.twinDialWindow n).held = s.held := by
  simp [State.twinDialWindow]
@[simp] theorem State.twinWindow_held (s : State) : s.twinWindow.held = s.held := by simp [State.twinWindow]
@[simp] theorem State.exchWrite_held (s : State) (n : Nat) (v : Word) : (s.exchWrite n v).held = s.held := by
  simp [State.exchWrite]
@[simp] theorem State.exchWindowEnd_held (s : State) : s.exchWindowEnd.held = s.held := by simp [State.exchWindowEnd]
@[simp] theorem execMeasurementWindowEnd_held (s : State) : heldAfter (execMeasurementWindowEnd s) = some s.held := by
  simp [execMeasurementWindowEnd]

/-! ### The operations of Machine/TxCommands -/

@[simp] theorem execTransmitFrame_held (f : Chan) (x : TxIn) (s : State) :
    heldAfter (execTransmitFrame f x s) = some s.held := by simp [execTransmitFrame]
@[simp] theorem execLoopTimingHoldExpiry_held (f : Chan) (s : State) :
    heldAfter (execLoopTimingHoldExpiry f s) = some s.held := by simp [execLoopTimingHoldExpiry]
@[simp] theorem execLoopTiming_held (f : Chan) (s : State) : heldAfter (execLoopTiming f s) = some s.held := by
  simp [execLoopTiming]

/-! ### The operations of Machine/Router -/

@[simp] theorem State.plainWrite_held (s : State) (o : Origin) (a : Nat) (v : Word) :
    (s.plainWrite o a v).held = s.held := by simp [State.plainWrite]
@[simp] theorem State.keyWrite_held (s : State) (a : Nat) (v : Word) : (s.keyWrite a v).held = s.held := by
  simp [State.keyWrite]
@[simp] theorem State.onBit_held (s : State) (v : Word) (n : Nat) (f : State → State) (hf : ∀ s, (f s).held = s.held) :
    (s.onBit v n f).held = s.held := by simp [State.onBit, hf]
@[simp] theorem State.hifWrite_held (s : State) (o : Origin) (a off : Nat) (v : Word) :
    (s.hifWrite o a off v).held = s.held := by simp [State.hifWrite]
@[simp] theorem State.curWrite_held (s : State) (o : Origin) (a off : Nat) (v : Word) :
    (s.curWrite o a off v).held = s.held := by simp [State.curWrite]
@[simp] theorem State.invWrite_held (s : State) (o : Origin) (a off : Nat) (v : Word) :
    (s.invWrite o a off v).held = s.held := by simp [State.invWrite]
@[simp] theorem State.chkWrite_held (s : State) (o : Origin) (a off : Nat) (v : Word) :
    (s.chkWrite o a off v).held = s.held := by simp [State.chkWrite]
@[simp] theorem State.swWrite_held (s : State) (o : Origin) (k a : Nat) (v : Word) :
    (s.swWrite o k a v).held = s.held := by
  simp [State.swWrite]
@[simp] theorem State.timeCtrlWrite_held (s : State) (n : Nat) (v : Word) : (s.timeCtrlWrite n v).held = s.held := by
  simp [State.timeCtrlWrite]
@[simp] theorem State.sdlWrite_held (s : State) (o : Origin) (a : Nat) (v : Word) :
    (s.sdlWrite o a v).held = s.held := by
  simp [State.sdlWrite]
@[simp] theorem State.sveWrite_held (s : State) (o : Origin) (a off : Nat) (v : Word) :
    (s.sveWrite o a off v).held = s.held := by simp [State.sveWrite]
@[simp] theorem State.auModeMoved_held (s : State) (f w : Nat) : (s.auModeMoved f w).held = s.held := by
  simp [State.auModeMoved]
@[simp] theorem State.rxDegMoved_held (s : State) (f : Nat) : (s.rxDegMoved f).held = s.held := by
  simp [State.rxDegMoved]
@[simp] theorem State.tribDegMoved_held (s : State) (r t : Nat) : (s.tribDegMoved r t).held = s.held := by
  simp [State.tribDegMoved]
@[simp] theorem State.rxWrite_held (s : State) (o : Origin) (f a off : Nat) (v : Word) :
    (s.rxWrite o f a off v).held = s.held := by simp [State.rxWrite]
@[simp] theorem State.txRegWrite_held (s : State) (o : Origin) (f a off : Nat) (v : Word) :
    (s.txRegWrite o f a off v).held = s.held := by simp [State.txRegWrite]
@[simp] theorem State.lostWrite_held (s : State) (a : Nat) : (s.lostWrite a).held = s.held := by simp [State.lostWrite]
@[simp] theorem State.stagedWrite_held (s : State) (o : Origin) (r a : Nat) (v : Word) :
    (s.stagedWrite o r a v).held = s.held := by simp [State.stagedWrite]
@[simp] theorem State.mapWrite_held (s : State) (o : Origin) (r a off : Nat) (v : Word) :
    (s.mapWrite o r a off v).held = s.held := by simp [State.mapWrite]
@[simp] theorem State.trlWrite_held (s : State) (o : Origin) (a off : Nat) (v : Word) :
    (s.trlWrite o a off v).held = s.held := by simp [State.trlWrite]
@[simp] theorem State.furWrite_held (s : State) (o : Origin) (a off : Nat) (v : Word) :
    (s.furWrite o a off v).held = s.held := by simp [State.furWrite]
@[simp] theorem State.twnWrite_held (s : State) (o : Origin) (a off : Nat) (v : Word) :
    (s.twnWrite o a off v).held = s.held := by simp [State.twnWrite]
@[simp] theorem State.srdWrite_held (s : State) (o : Origin) (n a off : Nat) (v : Word) :
    (s.srdWrite o n a off v).held = s.held := by simp [State.srdWrite]
@[simp] theorem State.topWrite_held (s : State) (o : Origin) (a off : Nat) (v : Word) :
    (s.topWrite o a off v).held = s.held := by simp [State.topWrite]

/-! ### The operations of Machine/SprigQueue -/

theorem State.takeFur_held {s t : State} {c : CtxId} {f : BitVec 4} {F : Nat} (h : s.takeFur c f = some (F, t)) :
    t.held = s.held := by
  unfold State.takeFur at h
  split at h
  · cases h
  · dsimp only at h
    split at h
    · cases h; rfl
    · split at h
      · cases h; simp
      · cases h
@[simp] theorem State.mailReject_held (s : State) (b kind : Nat) : (s.mailReject b kind).held = s.held := by
  simp [State.mailReject]
@[simp] theorem State.handOver_held (s : State) (b g : Nat) (h : Half) (ws : List Half) :
    (s.handOver b g h ws).2.held = s.held := by
  unfold State.handOver
  dsimp only
  split <;> (try split) <;> simp

/-! ### The operations of Machine/SprigSystem -/

@[simp] theorem State.yieldTo_held (s : State) (c : CtxId) (l : List Nat) : (s.yieldTo c l).held = s.held := by
  simp [State.yieldTo]
@[simp] theorem State.post_held (s : State) (b lb kind : Nat) (arg : Half) :
    (s.post b lb kind arg).2.held = s.held := by
  unfold State.post
  split <;> simp

end Sys2Proof.Machine
end

section
/-! SUPPORT. The same for operations whose case split is made by hand. -/

namespace Sys2Proof.Machine

open Sys2Proof.Cert

@[simp] theorem State.restartDeskew_held (s t : State) : (s.restartDeskew t).held = t.held := by
  refine foldl_held _ (fun u r => foldl_held _ (fun v n => ?_) _ u) _ t
  split
  · split <;> simp
  · rfl

@[simp] theorem State.acceptCommit_held (s t : State) (rows : Nat) : (s.acceptCommit t rows).held = t.held := by
  simp [State.acceptCommit]

@[simp] theorem State.recovery_held (s : State) : s.recovery.held = s.held := by simp [State.recovery]

@[simp] theorem State.settle_held (first : Nat) (r : Option Nat × State) : (State.settle first r).held = r.2.held := by
  unfold State.settle
  split <;> simp

@[simp] theorem State.commitNow_held (s : State) : s.commitNow.held = s.held := by
  have ht : (s.takeStaged s.commitRows.toNat).held = s.held := by simp
  unfold State.commitNow
  extract_lets
  split
  · simp
  · exact (State.acceptCommit_held ..).trans ht

@[simp] theorem State.referenceEdge_held (s : State) (r time low high : Nat) :
    (s.referenceEdge r time low high).held = s.held := by
  have h := s.glitchPass_held r low high
  unfold State.referenceEdge
  extract_lets
  split
  · rfl
  · split
    · split <;> next e => simpa [e] using h
    · split
      · split <;> simp
      · simp

@[simp] theorem execMbCommandPublish_held (mb : Fin 5) (s : State) :
    heldAfter (execMbCommandPublish mb s) = some s.held := by
  unfold execMbCommandPublish
  rw [heldAfter_done]
  split
  · rfl
  · next ws _ =>
    have h := s.publishCmd_held mb.val ws
    split
    · split
      · next e => simpa [e] using h
      · rfl
    · rfl

@[simp] theorem execCommitEvaluation_held (s : State) : heldAfter (execCommitEvaluation s) = some s.held := by
  simp [execCommitEvaluation]

@[simp] theorem execReferenceEdge_held (ref : Fin 84) (time low high : Nat) (s : State) :
    heldAfter (execReferenceEdge ref time low high s) = some s.held := by
  simp [execReferenceEdge]

@[simp] theorem execStatus_held (src : Source) (s : State) : heldAfter (execStatus src s) = some s.held := by
  unfold execStatus
  rw [heldAfter_done]
  split
  · next e => simpa using State.rtsTake_held e
  · rfl

@[simp] theorem execCommit_held (src : Source) (s : State) : heldAfter (execCommit src s) = some s.held := by
  unfold execCommit
  rw [heldAfter_done]
  split
  · next e => simpa using State.rtsTake_held e
  · rfl

@[simp] theorem execAbort_held (src : Source) (s : State) : heldAfter (execAbort src s) = some s.held := by
  unfold execAbort
  rw [heldAfter_done]
  split
  · next e => simpa using State.rtsTake_held e
  · rfl

@[simp] theorem execMigrationContextCopy_held (s : State) : heldAfter (execMigrationContextCopy s) = some s.held := by
  unfold execMigrationContextCopy
  rw [heldAfter_done]
  split
  · rfl
  · split
    · simp
    · rfl

@[simp] theorem execHeartbeat_held (h : TwinHdr) (role : BitVec 2) (session : Half) (version : Word)
    (keeper alive : Bool) (s : State) : heldAfter
      (execHeartbeat h role session version keeper alive s) = some s.held := by
  have hc := (s.linkTrain.twnArrive h
    (heartbeatBody role.toNat session.toNat version keeper alive)).twnCount_held h (some 0x128)
  unfold execHeartbeat
  rw [heldAfter_done]
  split
  · dsimp only
    split
    · simp
    · split <;> next e => rw [e] at hc; simpa using hc
  · rfl

@[simp] theorem execNak_held (h : TwinHdr) (x : Half) (s : State) : heldAfter (execNak h x s) = some s.held := by
  have hc := (s.twnArrive h [x.setWidth 32]).twnCount_held h none
  unfold execNak
  rw [heldAfter_done]
  split
  · split
    · next e => split <;> simpa [e] using hc
    · next e => simpa [e] using hc
  · rfl

@[simp] theorem execDial_held (h : TwinHdr) (echo : Half) (parts : List DialPart) (s : State) :
    heldAfter (execDial h echo parts s) = some s.held := by
  have hc := (s.twnArrive h (dialBody echo parts)).twnCount_held h (some 0x12C)
  unfold execDial
  rw [heldAfter_done]
  split
  · split <;> next e => simpa [e] using hc
  · rfl

@[simp] theorem execResendTimeout_held (s : State) : heldAfter (execResendTimeout s) = some s.held := by
  unfold execResendTimeout
  rw [heldAfter_done]
  split
  · split
    · rfl
    · split <;> simp
  · rfl

end Sys2Proof.Machine
end

section
/-! SUPPORT. The operations that write QDR, the flash or the contexts keep the invariant (R197, R202, R204, R330, R371). -/

namespace Sys2Proof.Machine

open Sys2Proof.Cert

/-- A binding and open items as the invariant wants them (R202, R232). -/
def CtxFine (b : Option Nat) (o : Tab (Option (Half × List Half))) : Prop :=
  (∀ ch, b = some ch → ch < 64) ∧ ∀ g h ws, Tab.get o none g = some (h, ws) → ws.length ≤ 255

/-- The invariant, of what it speaks of. -/
def HeldOk (h : List Host.Cell × List Host.Cell × Tab Ctx) : Prop :=
  Memory.wf qdrEmpty h.1 = true ∧ Memory.wf flashEmpty h.2.1 = true ∧
    ∀ k, CtxFine (Tab.get h.2.2 Ctx.init k).bound (Tab.get h.2.2 Ctx.init k).opens

theorem stateOk_iff (s : State) : StateOk s ↔ HeldOk s.held :=
  ⟨fun h => ⟨h.qdr, h.flash, h.ctxs⟩, fun ⟨hq, hf, hc⟩ => ⟨hq, hf, hc⟩⟩

/-- An outcome that leads to a state of the invariant, if to any. -/
def OutOk (o : Host.Outcome State Fault Refusal) : Prop := ∀ h, heldAfter o = some h → HeldOk h

@[simp] theorem outOk_next (t : State) : OutOk (.next t) ↔ HeldOk t.held := by simp [OutOk]

theorem outOk_of_held {o : Host.Outcome State Fault Refusal} {s : State} (ho : heldAfter o = some s.held)
    (h : HeldOk s.held) :
    OutOk o := fun _ e => Option.some.inj (ho.symm.trans e) ▸ h

@[simp] theorem heldOk_ite (c : Prop) [Decidable c] (a b : List Host.Cell × List Host.Cell × Tab Ctx) :
    HeldOk (if c then a else b) ↔ (c → HeldOk a) ∧ (¬ c → HeldOk b) := by split <;> simp [*]

theorem foldl_ok {β : Type} {f : State → β → State} (hf : ∀ s b, HeldOk s.held → HeldOk (f s b).held) (l : List β)
    {s : State} (h : HeldOk s.held) : HeldOk (l.foldl f s).held := by
  induction l generalizing s with
  | nil => exact h
  | cons b l ih => exact ih (hf s b h)

/-! ### The three parts -/

@[simp] theorem ctxFine_ctx {s : State} (h : HeldOk s.held) (k : Nat) :
    CtxFine (s.ctx k).bound (s.ctx k).opens := h.2.2 k

@[simp] theorem ctxFine_init : CtxFine none [] := by simp [CtxFine, Tab.get]

@[simp] theorem State.setCtx_ok {s : State} (k : Nat) {x : Ctx} (h : HeldOk s.held) (hx : CtxFine x.bound x.opens) :
    HeldOk (s.setCtx k x).held :=
  (stateOk_iff _).1 (s.setCtx_stateOk k ((stateOk_iff s).2 h) hx.1 hx.2)

@[simp] theorem State.qdrPut_ok {s : State} (a : Nat) (bs : List Byte) (h : HeldOk s.held) :
    HeldOk (s.qdrPut a bs).held :=
  (stateOk_iff _).1 (State.qdrPut_stateOk a bs ((stateOk_iff s).2 h))

@[simp] theorem State.flashPut_ok {s : State} (a : Nat) (bs : List Byte) (h : HeldOk s.held) :
    HeldOk (s.flashPut a bs).held :=
  (stateOk_iff _).1 (State.flashPut_stateOk a bs ((stateOk_iff s).2 h))

@[simp] theorem State.qdrSet_ok {s : State} (a : Nat) (v : Byte) (h : HeldOk s.held) : HeldOk (s.qdrSet a v).held :=
  ⟨Memory.wf_write qdrEmpty s.qdr _ v h.1, h.2⟩

@[simp] theorem State.filterFlash_ok {s : State} (p : Host.Cell → Bool) (h : HeldOk s.held) :
    HeldOk (s.setFlash (s.flash.filter p)).held := ⟨h.1, Memory.wf_filter flashEmpty s.flash p h.2.1, h.2.2⟩

@[simp] theorem State.filterQdr_ok {s : State} (p : Host.Cell → Bool) (h : HeldOk s.held) :
    HeldOk (s.setQdr (s.qdr.filter p)).held := ⟨Memory.wf_filter qdrEmpty s.qdr p h.1, h.2⟩

@[simp] theorem State.clearCtxs_ok {s : State} (h : HeldOk s.held) :
    HeldOk (s.setCtxs []).held := ⟨h.1, h.2.1, fun _ => ctxFine_init⟩

@[simp] theorem State.intoReset_ok {s : State} (kind src : Nat) (h : HeldOk s.held) :
    HeldOk (s.intoReset kind src).held := by
  refine ⟨?_, h.2.1, fun k => ctxFine_init⟩
  simp only [State.intoReset, State.held]
  split
  · rfl
  · exact h.1

/-! ### Flash and QDR -/

@[simp] theorem State.writeDir_ok {s : State} (h : HeldOk s.held) :
    HeldOk s.writeDir.held := by simp [State.writeDir, h]

@[simp] theorem State.setSlot_ok {s : State} (k st : Nat) (h : HeldOk s.held) :
    HeldOk (s.setSlot k st).held := by simp [State.setSlot, h]

@[simp] theorem State.activated_ok {s : State} (k : Nat) (h : HeldOk s.held) :
    HeldOk (s.activated k).held := by simp [State.activated, h]

@[simp] theorem State.cwWriteWhole_ok {s : State} (cw : Nat) (bs : List Byte) (h : HeldOk s.held) :
    HeldOk (s.cwWriteWhole cw bs).held := by simp [State.cwWriteWhole, h]

@[simp] theorem State.cwWrite_ok {s : State} (p a : Nat) (bs : List Byte) (h : HeldOk s.held) :
    HeldOk (s.cwWrite p a bs).held := by
  simp [State.cwWrite, h]

@[simp] theorem State.qdrStore_ok {s : State} (p a : Nat) (bs : List Byte) (fuel : Nat) (h : HeldOk s.held) :
    HeldOk (s.qdrStore p a bs fuel).held := by
  induction fuel generalizing s a bs with
  | zero => exact h
  | succ fuel ih =>
    rw [State.qdrStore]
    split
    · exact h
    · exact ih _ _ (by simp [h])

@[simp] theorem State.rtsStore_ok {s : State} (a : Nat) (bs : List Byte) (h : HeldOk s.held) :
    HeldOk (s.rtsStore a bs).held := by
  simp [State.rtsStore, h]

@[simp] theorem State.qdrZero_ok {s : State} (a n : Nat) (h : HeldOk s.held) : HeldOk (s.qdrZero a n).held := by
  simp [State.qdrZero, h]

@[simp] theorem State.repair_ok {s : State} (h : HeldOk s.held) : HeldOk s.repair.held := by simp [State.repair, h]

@[simp] theorem State.settingsCommit_ok {s : State} (h : HeldOk s.held) : HeldOk s.settingsCommit.held := by
  simp [State.settingsCommit, h]

@[simp] theorem State.filterSettings_ok {s : State} (keep : Nat → Bool) (h : HeldOk s.held) :
    HeldOk (s.filterSettings keep).held := by
  simp [State.filterSettings, h]

@[simp] theorem State.programSlot_ok {s : State} (k n stop : Nat) (h : HeldOk s.held) :
    HeldOk (s.programSlot k n stop).held := by
  simp only [State.programSlot]
  exact State.flashPut_ok _ _ (State.filterFlash_ok _ (foldl_ok (fun s cw h => by simpa using h) _ h))

@[simp] theorem State.bar4WriteNow_ok {s : State} (off : Nat) (data : List Byte) (h : HeldOk s.held) :
    HeldOk (s.bar4WriteNow off data).held := by simp [State.bar4WriteNow, h]

/-! ### The operations of Machine/Contexts -/

@[simp] theorem State.idleCtx_ok {s : State} (key : Nat) (h : HeldOk s.held) : HeldOk (s.idleCtx key).held := by
  unfold State.idleCtx
  dsimp only
  refine State.setCtx_ok _ ?_ ctxFine_init
  split <;> simpa using h

@[simp] theorem State.dropHandler_ok {s : State} (key : Nat) (h : HeldOk s.held) : HeldOk (s.dropHandler key).held := by
  unfold State.dropHandler
  dsimp only
  refine State.idleCtx_ok _ ?_
  split
  · simp [h]
  · split <;> simp [h]

theorem State.dropAll_ok {s : State} (f : State → Nat → State) (hf : ∀ s k, (f s k).held = s.held) (l : List Nat)
    (h : HeldOk s.held) :
    HeldOk (l.foldl (fun s k => f (s.dropHandler k) k) s).held :=
  foldl_ok (fun s k h => by rw [hf]; exact State.dropHandler_ok k h) l h

@[simp] theorem State.bedFault_ok {s : State} (b cause : Nat) (h : HeldOk s.held) :
    HeldOk (s.bedFault b cause).held := by
  have hd := State.dropAll_ok (s := s.setRole b 4) (fun s _ => s.inc (bedA b 0x144)) (by simp)
    ((s.setRole b 4).activeKeys b) (by simpa using h)
  unfold State.bedFault
  dsimp only
  split
  · simpa using h
  · split
    · exact h
    · split
      · split
        · simpa using hd
        · split <;> simpa using hd
      · split <;> simpa using hd

/-- An abort drops the handler; what follows is reports, the event queued again and the engine retired, or the fault of
the bed. -/
@[simp] theorem State.abortCtx_ok {s : State} (key cause : Nat) (h : HeldOk s.held) :
    HeldOk (s.abortCtx key cause).held := by
  unfold State.abortCtx
  extract_lets b e x dropped s₁ s₂ s₃ s₄ y ts again s₅ s₆
  have h₁ : HeldOk s₁.held := State.dropHandler_ok key h
  have h₄ : s₄.held = s₁.held := by
    have h₃ : s₃.held = s₁.held := by simp [s₃, s₂]
    simp only [s₄]
    split
    · exact h₃
    · split
      · split <;> simp [h₃]
      · simp [h₃]
  have h₆ : HeldOk s₆.held := by simp [s₆, s₅, h₄, h₁]
  split
  · exact State.bedFault_ok _ _ h₆
  · split
    · exact State.bedFault_ok _ _ h₆
    · exact h₆

@[simp] theorem State.giveUpMove_ok {s : State} (h : HeldOk s.held) : HeldOk s.giveUpMove.held := by
  unfold State.giveUpMove
  split
  · exact h
  · next nb _ => simpa using State.dropAll_ok (fun s _ => s) (fun _ _ => rfl) (s.activeKeys nb) h

@[simp] theorem State.issued_ok {s : State} (c : CtxId) (i : Instr) (h : HeldOk s.held) :
    HeldOk (s.issued c i).held := by
  unfold State.issued
  extract_lets t
  have ht : HeldOk t.held := by simpa [t] using h
  exact State.setCtx_ok _ ht (ctxFine_ctx ht (keyOf c))

/-- A handler is bound to one of the 64 channel contexts of its bed, or to none (R202). -/
theorem State.bindOf_lt (s : State) (b : Nat) (ev : Ev) (prod : Option Nat) (ch : Nat)
    (h : (s.bindOf b ev prod).1 = some ch) :
    ch < 64 := by
  have hf (a hi lo : Nat) (hw : hi + 1 - lo = 6) : s.fld a hi lo < 64 := by
    have := bitsOf_lt (s.nat a) hi lo
    rwa [hw] at this
  have hv (n : Nat) (hn : n < 64) (e : (if s.bit (bedA b (0x1400 + 4 * n)) 31 = true then (some n, false) else
    (none, true)).1 = some ch) :
      ch < 64 := by
    split at e
    · cases e; exact hn
    · cases e
  unfold State.bindOf at h
  dsimp only at h
  split at h
  · cases h
  · exact hv _ (hf _ _ _ (by omega)) h
  · exact hv _ (Nat.mod_lt _ (by omega)) h
  · split at h
    · cases h
    · split at h
      · exact hv _ (hf _ _ _ (by omega)) h
      · cases h

@[simp] theorem State.startHandler_ok {s : State} (b key : Nat) (p : Pick) (h : HeldOk s.held) :
    HeldOk (s.startHandler b key p).held := by
  have hb := s.bindOf_lt b p.ev p.prod
  have hx : CtxFine (s.bindOf b p.ev p.prod).1 [] := ⟨hb, ctxFine_init.2⟩
  unfold State.startHandler
  generalize s.bindOf b p.ev p.prod = r at hx ⊢
  obtain ⟨bound, bad⟩ := r
  have hc (t : State) (ht : HeldOk t.held) : HeldOk (match bound with
      | some c => t.setBit (bedA b (0x1600 + 4 * c)) 0 true | none => t).held := by split <;> simpa using ht
  have hf (t : State) (ht : HeldOk t.held) : HeldOk (match p.fur with
      | some F => (t.setFur F { t.fur F with owner := key + 1, rel := 0, rpItem := 0, rpOff := 0 }).showFur F
      | none => t).held := by split <;> simpa using ht
  dsimp -zeta only
  extract_lets w3 w2 lim w x₀ x s₁ s₂ e s₃ s₄ s₅ s₆ s₇
  have h₂ : HeldOk s₂.held := State.setCtx_ok key (by simpa [s₁] using h) hx
  have h₄ : HeldOk s₄.held := by simpa [s₄, s₃] using h₂
  have h₆ : HeldOk s₆.held := hf _ (hc _ h₄)
  simp [s₇, h₆]

/-! ### The update of the image and of the settings -/

@[simp] theorem State.fallback_ok {s : State} (k cause : Nat) (h : HeldOk s.held) :
    HeldOk (s.fallback k cause).held := by
  unfold State.fallback
  extract_lets s₁ s₂ f s₃ x s₄ s₅ y s₆
  have h₂ : HeldOk s₂.held := State.setSlot_ok _ _ (by simpa [s₁] using h)
  have h₃ : HeldOk s₃.held := by simp [s₃, h₂]
  have h₄ : HeldOk s₄.held := by simpa [s₄] using h₃
  have h₅ : HeldOk s₅.held := by simp [s₅, h₄]
  have h₆ : HeldOk s₆.held := by simpa [s₆] using h₅
  clear_value s₄ s₆
  split
  · simpa using h₄
  · split <;> simpa using h₆

@[simp] theorem State.rollback_ok {s : State} (h : HeldOk s.held) : HeldOk s.rollback.held := by
  unfold State.rollback
  split <;> simp [h]

@[simp] theorem State.kcTake_ok {s : State} (a : Nat) (v : Word) (h : HeldOk s.held) : HeldOk (s.kcTake a v).held := by
  simp [State.kcTake, h]

@[simp] theorem State.confirmSlot_ok {s : State} (k : Nat) (h : HeldOk s.held) : HeldOk (s.confirmSlot k).held := by
  unfold State.confirmSlot
  extract_lets other s₁ s₂ lvl s₃ f s₄ s₅ x s₆
  have h₃ : HeldOk s₃.held := by simp [s₃, s₂, s₁, h]
  have h₄ : HeldOk s₄.held := State.filterSettings_ok _ h₃
  have h₆ : HeldOk s₆.held := by simpa [s₆, s₅] using h₄
  clear_value s₆
  simpa using h₆

@[simp] theorem State.confirm_ok {s : State} (v : Nat) (h : HeldOk s.held) : HeldOk (s.confirm v).held := by
  unfold State.confirm
  extract_lets run x t
  have ht : HeldOk t.held := by simp [t, h]
  split <;> simp [h, ht]

@[simp] theorem State.hold350_ok {s : State} (h : HeldOk s.held) : HeldOk s.hold350.held := by
  simp only [State.hold350, State.setMboxes_held, State.setTwn_held, State.setInv_held, State.setFurs_held,
    State.setCycles_held, State.setEngines_held]
  exact State.clearCtxs_ok (by simpa using h)

@[simp] theorem State.settingsWritten_ok {s : State} (h : HeldOk s.held) : HeldOk s.settingsWritten.held := by
  simp [State.settingsWritten, h]

@[simp] theorem State.rtsBegin_ok {s : State} (src : Source) (tag : Half) (body : List Word) (h : HeldOk s.held) :
    HeldOk (s.rtsBegin src tag body).held := by simp [State.rtsBegin, h]

@[simp] theorem State.rtsBlock_ok {s : State} (src : Source) (tag : Half) (body : List Word) (h : HeldOk s.held) :
    HeldOk (s.rtsBlock src tag body).held := by simp [State.rtsBlock, h]

@[simp] theorem State.rtsActivate_ok {s : State} (tag : Half) (v mode : Nat) (h : HeldOk s.held) :
    HeldOk (s.rtsActivate tag v mode).held := by
  unfold State.rtsActivate
  split
  · simpa using h
  · split <;> simp [h]

@[simp] theorem State.readBack_ok {s : State} (src : Source) (tag : Half) (k n failAddr : Nat) (h : HeldOk s.held) :
    HeldOk (s.readBack src tag k n failAddr).held := by simp [State.readBack, h]

@[simp] theorem State.imageCopied_ok {s : State} (k sp : Nat) (h : HeldOk s.held) :
    HeldOk (s.imageCopied k sp).held := by
  simp [State.imageCopied, h]

/-! ### Writes of registers -/

@[simp] theorem State.rtsWrite_ok {s : State} (o : Origin) (a off : Nat) (v : Word) (h : HeldOk s.held) :
    HeldOk (s.rtsWrite o a off v).held := by simp [State.rtsWrite, State.onBit, h]

@[simp] theorem State.bedCtrlWrite_ok {s : State} (o : Origin) (b : Nat) (v : Word) (h : HeldOk s.held) :
    HeldOk (s.bedCtrlWrite o b v).held := by simp [State.bedCtrlWrite, h]

@[simp] theorem State.bedWrite_ok {s : State} (o : Origin) (b a off : Nat) (v : Word) (h : HeldOk s.held) :
    HeldOk (s.bedWrite o b a off v).held := by simp [State.bedWrite, h]

@[simp] theorem State.qdmWrite_ok {s : State} (o : Origin) (a off : Nat) (v : Word) (h : HeldOk s.held) :
    HeldOk (s.qdmWrite o a off v).held := by simp [State.qdmWrite, State.onBit, h]

@[simp] theorem State.blockWrite_ok {s : State} (o : Origin) (b : Blk) (inst a off : Nat) (v : Word)
    (h : HeldOk s.held) :
    HeldOk (s.blockWrite o b inst a off v).held := by cases b <;> simp [State.blockWrite, h]

@[simp] theorem State.applyWrite_ok {s : State} (o : Origin) (a : Nat) (v : Word) (h : HeldOk s.held) :
    HeldOk (s.applyWrite o a v).held := by
  unfold State.applyWrite
  split
  · exact h
  · extract_lets fs
    split
    · exact h
    · split
      · simpa using h
      · split
        · simpa using h
        · split <;> simp [h]

@[simp] theorem State.topHostWrite_ok {s : State} (a : Nat) (v : Word) (h : HeldOk s.held) :
    HeldOk (s.topHostWrite a v).held := by
  unfold State.topHostWrite
  split <;> simp [h]

@[simp] theorem State.hostWrite_ok {s : State} (a : Nat) (v : Word) (h : HeldOk s.held) :
    HeldOk (s.hostWrite a v).held := by
  simp [State.hostWrite, h]

@[simp] theorem State.progWrite_ok {s : State} (b : Fin 16) (a : Nat) (v : Word) (h : HeldOk s.held) :
    HeldOk (s.progWrite b a v).held := by simp [State.progWrite, h]

@[simp] theorem State.anyWrite_ok {s : State} (o : Origin) (a : Nat) (v : Word) (h : HeldOk s.held) :
    HeldOk (s.anyWrite o a v).held := by cases o <;> simp [State.anyWrite, h]

@[simp] theorem State.hostPut_ok {s : State} (a : Nat) (val : Word) (upper : Option Word) (h : HeldOk s.held) :
    HeldOk (s.hostPut a val upper).held := by cases upper <;> simp [State.hostPut, h]

@[simp] theorem State.pairWrite_ok {s : State} (a : Nat) (h : HeldOk s.held) : HeldOk (s.pairWrite a).held := by
  simp [State.pairWrite, h]

@[simp] theorem State.put_ok {s : State} (o : Origin) (a : Nat) (val : Word) (upper : Option Word) (h : HeldOk s.held) :
    HeldOk (s.put o a val upper).held := by cases o <;> simp [State.put, h]

/-! ### Reports, resets and the boot -/

@[simp] theorem State.resetStart_ok {s : State} (src : Nat) (h : HeldOk s.held) : HeldOk (s.resetStart src).held := by
  have hf : ∀ t : State, HeldOk t.held → HeldOk ((furrowsOf src).foldl State.flushAsk t).held :=
    fun t ht => foldl_ok (fun u F hu => by simpa using hu) _ ht
  simp [State.resetStart, h]

@[simp] theorem State.blockReset_ok {s : State} (src : Nat) (h : HeldOk s.held) : HeldOk (s.blockReset src).held := by
  simp [State.blockReset, h]

@[simp] theorem State.react_ok {s : State} (src : Nat) (x : Reacts) (mark : Nat) (was : Bool) (h : HeldOk s.held) :
    HeldOk (s.react src x mark was).held := by
  simp [State.react, h]

@[simp] theorem State.takeReport_ok {s : State} (r : Report) (h : HeldOk s.held) : HeldOk (s.takeReport r).held := by
  simp [State.takeReport, h]

@[simp] theorem State.intakeNext_ok {s : State} (h : HeldOk s.held) : HeldOk s.intakeNext.held := by
  unfold State.intakeNext
  split
  · exact h
  · split
    · exact h
    · simp [h]

@[simp] theorem State.hifResetNow_ok {s : State} (h : HeldOk s.held) : HeldOk s.hifResetNow.held := by
  simp [State.hifResetNow, h]

@[simp] theorem State.ringHeader_ok {s : State} (h : HeldOk s.held) : HeldOk s.ringHeader.held := by
  simp [State.ringHeader, h]

@[simp] theorem State.ringCopy_ok {s : State} (h : HeldOk s.held) : HeldOk s.ringCopy.held := by
  simp [State.ringCopy, h]

@[simp] theorem State.ringFlush_ok {s : State} (h : HeldOk s.held) : HeldOk s.ringFlush.held :=
  State.ringHeader_ok (foldl_ok (fun _ _ h => State.ringCopy_ok h) _ h)

@[simp] theorem State.chipReset_ok {s : State} (h : HeldOk s.held) : HeldOk s.chipReset.held := by
  unfold State.chipReset
  split <;> simp [h]

@[simp] theorem State.ringOpen_ok {s : State} (n : Nat) (fresh : Bool) (h : HeldOk s.held) :
    HeldOk (s.ringOpen n fresh).held := by
  simp [State.ringOpen, h]

@[simp] theorem State.bootRing_ok {s : State} (h : HeldOk s.held) : HeldOk s.bootRing.held := by
  simp [State.bootRing, h]

@[simp] theorem State.loadMirror_ok {s : State} (h : HeldOk s.held) : HeldOk s.loadMirror.held := by
  unfold State.loadMirror
  split <;> simp [h]

@[simp] theorem State.trialLost_ok {s : State} (k : Nat) (h : HeldOk s.held) : HeldOk (s.trialLost k).held := by
  simp [State.trialLost, h]

@[simp] theorem State.dropTrial_ok {s : State} (h : HeldOk s.held) : HeldOk s.dropTrial.held := by
  unfold State.dropTrial
  split <;> simp [h]

@[simp] theorem State.trySlot_ok {s : State} (x : BootIn) (k : Nat) (h : HeldOk s.held) :
    HeldOk (s.trySlot x k).2.held := by
  simp [State.trySlot, h]

@[simp] theorem State.tryAll_ok {s : State} (x : BootIn) (ks : List Nat) (h : HeldOk s.held) :
    HeldOk (s.tryAll x ks).2.held := by
  induction ks generalizing s with
  | nil => exact h
  | cons k rest ih =>
    have ht := State.trySlot_ok x k h
    rw [State.tryAll]
    split
    · next e => simpa [e] using ht
    · next e => exact ih (by simpa [e] using ht)

@[simp] theorem State.bootSlot_ok {s : State} (x : BootIn) (h : HeldOk s.held) : HeldOk (s.bootSlot x).held := by
  have ht : HeldOk s.dirChecked.readDir.banksChecked.loadMirror.held := by simp [h]
  simp [State.bootSlot, ht]

@[simp] theorem State.bootNext_ok {s : State} (x : BootIn) (h : HeldOk s.held) : HeldOk (s.bootNext x).held := by
  unfold State.bootNext
  split <;> simp [h]

/-! ### The end of a handler -/

@[simp] theorem State.writeLines_ok {s : State} (b c mask : Nat) (h : HeldOk s.held) :
    HeldOk (s.writeLines b c mask).held :=
  foldl_ok (fun s ln h => by simp [h]) _ h

@[simp] theorem State.writeAllContexts_ok {s : State} (b : Nat) (h : HeldOk s.held) :
    HeldOk (s.writeAllContexts b).held :=
  foldl_ok (fun _ _ h => State.writeLines_ok _ _ _ h) _ h

@[simp] theorem State.finishMove_ok {s : State} (nb old : Nat) (h : HeldOk s.held) :
    HeldOk (s.finishMove nb old).held := by
  simp [State.finishMove, h]

@[simp] theorem State.initEnded_ok {s : State} (b : Nat) (h : HeldOk s.held) : HeldOk (s.initEnded b).held := by
  unfold State.initEnded
  split <;> simp [h]

@[simp] theorem State.finishHandler_ok {s : State} (key : Nat) (h : HeldOk s.held) :
    HeldOk (s.finishHandler key).held := by
  unfold State.finishHandler
  extract_lets b x s₁ s₂
  have h₂ : HeldOk s₂.held := State.idleCtx_ok key (by simpa [s₁] using h)
  split
  · exact State.initEnded_ok b h₂
  · exact h₂

@[simp] theorem State.writeBack_ok {s : State} (key : Nat) (h : HeldOk s.held) : HeldOk (s.writeBack key).held := by
  unfold State.writeBack
  split <;> simp [h]

end Sys2Proof.Machine
end

section
/-! SUPPORT. The commands that write QDR, the flash or the contexts keep the invariant (R195 to R241). -/

namespace Sys2Proof.Machine

open Sys2Proof.Cert

/-! ### Sprig instructions -/

/-- An instruction keeps the invariant if its effect at issue does. -/
theorem sprig_ok {c : CtxId} {i : Instr} {s : State} {f : State → State} (h : HeldOk s.held)
    (hf : ∀ t, HeldOk t.held → HeldOk (f t).held) : OutOk (sprig c i s f) := by
  unfold sprig
  split
  · simpa using hf _ (State.issued_ok c i (by simpa using h))
  · simpa using h

theorem ordered_ok {c : CtxId} {i : Instr} {s : State} {f : State → State} (h : HeldOk s.held)
    (hf : ∀ t, HeldOk t.held → HeldOk (f t).held) : OutOk (ordered c i s f) := by
  unfold ordered
  split
  · exact sprig_ok h hf
  · simpa using h

/-- What works on its context alone, and not on the binding or the open items, keeps the invariant. -/
theorem onCtx_ok {c : CtxId} {i : Instr} {s : State} {n : Nat} {f : Ctx → Ctx} (h : HeldOk s.held)
    (hb : ∀ x, (f x).bound = x.bound) (ho : ∀ x, (f x).opens = x.opens) :
    OutOk (onCtx c i s n f) :=
  sprig_ok h fun t ht => State.setCtx_ok _ ht (by simpa [Ctx.next, hb, ho] using ctxFine_ctx ht (keyOf c))

@[simp] theorem State.jumpTo_ok {s : State} (c : CtxId) (t : BitVec 15) (h : HeldOk s.held) :
    HeldOk (s.jumpTo c t).held := by
  simp [State.jumpTo, Ctx.jump, h]

@[simp] theorem State.call_ok {s : State} (c : CtxId) (n : Nat) (t : BitVec 15) (h : HeldOk s.held) :
    HeldOk (s.call c n t).held := by simp [State.call, h]

theorem branch_ok {c : CtxId} {i : Instr} {cond : Nat} {disp : Byte} {s : State} (h : HeldOk s.held) :
    OutOk (branch c i cond disp s) :=
  sprig_ok h fun t ht => by simp [Ctx.next, ht]

theorem execSpRet_ok {c : CtxId} {s : State} (h : HeldOk s.held) : OutOk (execSpRet c s) :=
  sprig_ok h fun t ht => by dsimp only; split <;> simp [ht]

theorem reading_ok {c : CtxId} {i : Instr} {f : BitVec 4} {s : State} {g : Ctx → Ctx}
    {d : Nat → Furrow → Ctx → Furrow × Ctx}
    (h : HeldOk s.held) (hgb : ∀ x, (g x).bound = x.bound) (hgo : ∀ x, (g x).opens = x.opens)
    (hdb : ∀ F fu x, (d F fu x).2.bound = x.bound) (hdo : ∀ F fu x, (d F fu x).2.opens = x.opens) :
    OutOk (reading c i f s g d) := by
  refine sprig_ok h fun t ht => ?_
  split
  · exact State.setCtx_ok _ ht (by simpa [Ctx.next, Ctx.flagC, hgb, hgo] using ctxFine_ctx ht (keyOf c))
  · next F u e =>
    have hu : HeldOk u.held := (State.takeFur_held e).symm ▸ ht
    exact State.setCtx_ok _ (by simpa using hu) (by simpa [Ctx.next, hdb, hdo] using ctxFine_ctx hu (keyOf c))

theorem execSpQhead_ok {c : CtxId} {rd f : BitVec 4} {s : State} (h : HeldOk s.held) : OutOk (execSpQhead c rd f s) :=
  reading_ok h (fun _ => rfl) (fun _ => rfl) (fun _ _ _ => by split <;> rfl) (fun _ _ _ => by split <;> rfl)

theorem execSpQword_ok {c : CtxId} {rd f : BitVec 4} {s : State} (h : HeldOk s.held) : OutOk (execSpQword c rd f s) :=
  reading_ok h (fun _ => rfl) (fun _ => rfl) (fun _ _ _ => by split <;> rfl) (fun _ _ _ => by split <;> rfl)

theorem execSpQmark_ok {c : CtxId} {f : BitVec 4} {s : State} (h : HeldOk s.held) : OutOk (execSpQmark c f s) :=
  reading_ok h (fun _ => rfl) (fun _ => rfl) (fun _ _ _ => rfl) (fun _ _ _ => rfl)

theorem execSpQrew_ok {c : CtxId} {f : BitVec 4} {s : State} (h : HeldOk s.held) : OutOk (execSpQrew c f s) :=
  reading_ok h (fun _ => rfl) (fun _ => rfl) (fun _ _ _ => by dsimp only; split <;> rfl) (fun _ _ _ =>
    by dsimp only; split <;> rfl)

theorem execSpQrel_ok {c : CtxId} {f : BitVec 4} {s : State} (h : HeldOk s.held) : OutOk (execSpQrel c f s) :=
  reading_ok h (fun _ => rfl) (fun _ => rfl) (fun _ _ _ => rfl) (fun _ _ _ => rfl)

/-- An item opened, with one word more, or closed. -/
theorem CtxFine.setOpen {b : Option Nat} {o : Tab (Option (Half × List Half))} (h : CtxFine b o) (g : Nat)
    (v : Option (Half × List Half)) (hv : ∀ u ws, v = some (u, ws) → ws.length ≤ 255) :
    CtxFine b (Tab.set o none g v) := by
  refine ⟨h.1, fun j u ws e => ?_⟩
  rw [Tab.get_set] at e
  split at e
  · exact hv u ws e
  · exact h.2 j u ws e

theorem execSpQpushh_ok {c : CtxId} {rd g : BitVec 4} {s : State} (h : HeldOk s.held) :
    OutOk (execSpQpushh c rd g s) := by
  refine sprig_ok h fun t ht => ?_
  have ho := (ctxFine_ctx ht (keyOf c)).setOpen g.toNat (some ((t.ctx (keyOf c)).reg rd &&& 0xF400, []))
    (by rintro _ _ ⟨⟩; simp)
  dsimp only
  split
  · exact State.setCtx_ok _ ht ho
  · exact State.setCtx_ok _ ht (ctxFine_ctx ht (keyOf c))

/-- One word more is appended to an open item that has room for it (R232). -/
theorem CtxFine.addWord {b : Option Nat} {o : Tab (Option (Half × List Half))} (h : CtxFine b o) (g : Nat) (u v : Half)
    {ws : List Half} (hw : ws.length < 255) : CtxFine b (Tab.set o none g (some (u, ws ++ [v]))) :=
  h.setOpen g _ (by rintro _ _ ⟨⟩; rw [List.length_append, List.length_singleton]; omega)

theorem execSpQpushw_ok {c : CtxId} {rd g : BitVec 4} {s : State} (h : HeldOk s.held) :
    OutOk (execSpQpushw c rd g s) := by
  refine sprig_ok h fun t ht => State.setCtx_ok _ ht ?_
  have hx := ctxFine_ctx ht (keyOf c)
  split
  · exact hx
  · next u ws e =>
    split
    · exact hx
    · next hn => exact hx.addWord g.toNat u ((t.ctx (keyOf c)).reg rd) (by omega)

theorem execSpQend_ok {c : CtxId} {g : BitVec 4} {s : State} (h : HeldOk s.held) : OutOk (execSpQend c g s) := by
  refine ordered_ok h fun t ht => ?_
  have hx := ctxFine_ctx ht (keyOf c)
  have ho := hx.setOpen g.toNat none (by rintro _ _ ⟨⟩)
  dsimp only
  split
  · exact State.setCtx_ok _ ht hx
  · exact State.setCtx_ok _ (by simpa using ht) ho

theorem execSpEnd_ok {c : CtxId} {s : State} (h : HeldOk s.held) : OutOk (execSpEnd c s) := by
  refine sprig_ok h fun t ht => ?_
  dsimp only
  split
  · exact State.finishHandler_ok _ ht
  · have hw : HeldOk (t.setCtx (keyOf c) { (t.ctx (keyOf c)).next 1 with wait := .commit, commitAt := t.now }).held :=
      State.setCtx_ok _ ht (ctxFine_ctx ht (keyOf c))
    split
    · split <;> simpa using hw
    · exact hw

theorem execSpFence_ok {c : CtxId} {s : State} (h : HeldOk s.held) : OutOk (execSpFence c s) :=
  sprig_ok h fun _ ht => State.setCtx_ok _ ht (ctxFine_ctx ht (keyOf c))

theorem execSpYield_ok {c : CtxId} {s : State} (h : HeldOk s.held) : OutOk (execSpYield c s) :=
  sprig_ok h fun t ht => by simp [Ctx.next, ht]

theorem execSpWait_ok {c : CtxId} {ra : BitVec 4} {s : State} (h : HeldOk s.held) : OutOk (execSpWait c ra s) :=
  sprig_ok h fun _ ht => State.setCtx_ok _ ht (ctxFine_ctx ht (keyOf c))

theorem execSpPost_ok {c : CtxId} {ra rb : BitVec 4} {s : State} (h : HeldOk s.held) : OutOk (execSpPost c ra rb s) :=
  ordered_ok h fun t ht => by simp [Ctx.next, Ctx.flagC, ht]

theorem State.cond_ok {s : State} (c : CtxId) (ra rb : BitVec 4) (clear : Bool) (h : HeldOk s.held) :
    HeldOk (s.cond c ra rb clear).held := by simp [State.cond, Ctx.next, Ctx.flagC, h]

@[simp] theorem Ctx.setRegs_bound (x : Ctx) (rd : BitVec 4) (vs : List Half) : (x.setRegs rd vs).bound = x.bound := by
  induction vs generalizing x rd with
  | nil => rfl
  | cons v vs ih => exact ih _ _

@[simp] theorem Ctx.setRegs_opens (x : Ctx) (rd : BitVec 4) (vs : List Half) : (x.setRegs rd vs).opens = x.opens := by
  induction vs generalizing x rd with
  | nil => rfl
  | cons v vs ih => exact ih _ _

theorem execSpTsrd_ok {c : CtxId} {rd n : BitVec 4} {s : State} (h : HeldOk s.held) : OutOk (execSpTsrd c rd n s) :=
  sprig_ok h fun t ht => by simp [Ctx.next, ht]

theorem State.ohRead_ok {s : State} (c : CtxId) (rd ra : BitVec 4) (o : Option OhObj) (h : HeldOk s.held) :
    HeldOk (s.ohRead c rd ra o).held := State.setCtx_ok _ h (ctxFine_ctx h (keyOf c))

theorem State.ohWrite_ok {s : State} (c : CtxId) (rd ra : BitVec 4) (o : Option OhObj) (h : HeldOk s.held) :
    HeldOk (s.ohWrite c rd ra o).held := State.setCtx_ok _ (by simpa using h) (ctxFine_ctx h (keyOf c))

theorem execSpLdl_ok {c : CtxId} {rd ra disp : BitVec 4} {s : State} (h : HeldOk s.held) :
    OutOk (execSpLdl c rd ra disp s) :=
  sprig_ok h fun t ht => by simp [Ctx.next, Ctx.setReg, ht]

theorem execSpStl_ok {c : CtxId} {rd ra disp : BitVec 4} {s : State} (h : HeldOk s.held) :
    OutOk (execSpStl c rd ra disp s) :=
  sprig_ok h fun t ht => by simp [Ctx.next, ht]

theorem execSpLdc_ok {c : CtxId} {rd ra : BitVec 4} {disp : BitVec 3} {s : State} (h : HeldOk s.held) :
    OutOk (execSpLdc c rd ra disp s) :=
  sprig_ok h fun t ht => by dsimp only; split <;> simp [Ctx.next, Ctx.setReg, ht]

theorem execSpStc_ok {c : CtxId} {rd ra : BitVec 4} {disp : BitVec 3} {s : State} (h : HeldOk s.held) :
    OutOk (execSpStc c rd ra disp s) :=
  sprig_ok h fun t ht => by dsimp only; split <;> simp [Ctx.next, ht]

@[simp] theorem State.bedLoad_ok {s : State} (c : CtxId) (rd : BitVec 4) (a : Nat) (h : HeldOk s.held) :
    HeldOk (s.bedLoad c rd a).held := by
  unfold State.bedLoad
  dsimp only
  split <;> simp [Ctx.setReg, h]

theorem execSpLdb_ok {c : CtxId} {rd ra page : BitVec 4} {disp : BitVec 12} {s : State} (h : HeldOk s.held) :
    OutOk (execSpLdb c rd ra page disp s) := by
  refine sprig_ok h fun t ht => ?_
  dsimp only
  split
  · simp [ht]
  · exact State.bedLoad_ok _ _ _ (State.setCtx_ok _ (by simpa using ht) (ctxFine_ctx ht (keyOf c)))

@[simp] theorem State.bedStore_ok {s : State} (c : CtxId) (v : Half) (a : Nat) (h : HeldOk s.held) :
    HeldOk (s.bedStore c v a).held := by
  have hx := ctxFine_ctx h (keyOf c)
  have hfin (t : State) (ht : HeldOk t.held) : HeldOk (t.setCtx (keyOf c) ((t.ctx (keyOf c)).next 2)).held :=
    State.setCtx_ok _ ht (ctxFine_ctx ht (keyOf c))
  unfold State.bedStore
  dsimp only
  split
  · exact hfin _ (by simpa using h)
  · exact hfin _ (State.setCtx_ok _ h hx)
  · exact hfin _ h
  · exact hfin _ (by simpa using h)
  · exact hfin _ (by simpa using h)
  · split
    · exact hfin _ (State.setCtx_ok _ h hx)
    · split
      · simp [h]
      · split
        · simp [h]
        · exact hfin _ (State.setCtx_ok _ h hx)
  · exact State.abortCtx_ok _ _ h

theorem execSpStb_ok {c : CtxId} {rd ra page : BitVec 4} {disp : BitVec 12} {s : State} (h : HeldOk s.held) :
    OutOk (execSpStb c rd ra page disp s) :=
  sprig_ok h fun t ht => by simp [ht]

theorem execSpLdf_ok {c : CtxId} {rd ra : BitVec 4} {disp : Half} {s : State} (h : HeldOk s.held) :
    OutOk (execSpLdf c rd ra disp s) :=
  sprig_ok h fun t ht => by simp [ht]

theorem execSpStf_ok {c : CtxId} {rd ra : BitVec 4} {disp : Half} {s : State} (h : HeldOk s.held) :
    OutOk (execSpStf c rd ra disp s) :=
  ordered_ok h fun t ht => by simp [Ctx.next, ht]

theorem execUndefinedEncoding_ok {c : CtxId} {s : State} (h : HeldOk s.held) : OutOk (execUndefinedEncoding c s) := by
  unfold execUndefinedEncoding
  dsimp only
  split
  · simp [h]
  · simpa using h

/-! ### What completes later -/

theorem execHandlerStart_ok {bed : Fin 16} {s : State} (h : HeldOk s.held) : OutOk (execHandlerStart bed s) := by
  unfold execHandlerStart
  dsimp only
  rw [done_eq, outOk_next]
  split
  · split
    · split
      · simpa using h
      · split
        · simp [h]
        · split <;> split <;> simp [h]
    · simpa using h
  · simpa using h

theorem execFarAccessComplete_ok {c : CtxId} {s : State} (h : HeldOk s.held) : OutOk (execFarAccessComplete c s) := by
  unfold execFarAccessComplete
  dsimp only
  rw [done_eq, outOk_next]
  split <;> simp [Ctx.next, Ctx.setReg, h]

theorem State.winWrite_ok {s : State} (b : Fin 16) (key a : Nat) (v : Word) (rest : List (Nat × Word))
    (h : HeldOk s.held) :
    HeldOk (s.winWrite b key a v rest).held := State.progWrite_ok _ _ _ (State.setCtx_ok _ h (ctxFine_ctx h key))

theorem State.winReadDone_ok {s : State} (b : Fin 16) (key a rd : Nat) (h : HeldOk s.held) :
    HeldOk (s.winReadDone b key a rd).held := by
  have hr : HeldOk (if s.inReset a then ((0 : Word), s.accessTimeout (.program b) a) else s.readReg a).2.held :=
    by simp [h]
  unfold State.winReadDone
  generalize (if s.inReset a then ((0 : Word), s.accessTimeout (.program b) a) else s.readReg a) = r at hr ⊢
  obtain ⟨v, t⟩ := r
  exact State.setCtx_ok _ hr (ctxFine_ctx hr key)

theorem execRegisterWindowComplete_ok {c : CtxId} {s : State} (h : HeldOk s.held) :
    OutOk (execRegisterWindowComplete c s) := by
  unfold execRegisterWindowComplete
  dsimp only
  rw [done_eq, outOk_next]
  split
  · split
    · simpa using State.winWrite_ok _ _ _ _ _ h
    · simpa using State.winReadDone_ok _ _ _ _ h
    · simpa using h
  · simpa using h

theorem execOverheadReadComplete_ok {c : CtxId} {s : State} (h : HeldOk s.held) :
    OutOk (execOverheadReadComplete c s) := by
  unfold execOverheadReadComplete
  dsimp only
  rw [done_eq, outOk_next]
  split <;> simp [Ctx.setReg, h]

theorem execWaitExpiry_ok {c : CtxId} {s : State} (h : HeldOk s.held) : OutOk (execWaitExpiry c s) := by
  unfold execWaitExpiry
  dsimp only
  rw [done_eq, outOk_next]
  split <;> simp [h]

theorem execBackingFail_ok {c : CtxId} {s : State} (h : HeldOk s.held) : OutOk (execBackingFail c s) := by
  unfold execBackingFail
  dsimp only
  rw [done_eq, outOk_next]
  split
  · split <;> simp [h]
  · simpa using h

theorem execConfirmWindowExpiry_ok {s : State} (h : HeldOk s.held) : OutOk (execConfirmWindowExpiry s) := by
  unfold execConfirmWindowExpiry
  rw [done_eq, outOk_next]
  split <;> simp [h]

theorem execActivationImageCopied_ok {s : State} (h : HeldOk s.held) : OutOk (execActivationImageCopied s) := by
  unfold execActivationImageCopied
  rw [done_eq, outOk_next]
  split <;> simp [h]

/-- Taking a command off the queue of Rootstock keeps the invariant. -/
theorem State.rtsTake_ok {s t : State} {src : Source} {op : Nat} {ws : List Word} (e : s.rtsTake src op = some (ws, t))
    (h : HeldOk s.held) : HeldOk t.held := (State.rtsTake_held e).symm ▸ h

theorem execBeginImg_ok {src : Source} {s : State} (h : HeldOk s.held) : OutOk (execBeginImg src s) := by
  unfold execBeginImg
  rw [done_eq, outOk_next]
  split
  · next e => simp [State.rtsTake_ok e h]
  · simpa using h

theorem execBlock_ok {src : Source} {s : State} (h : HeldOk s.held) : OutOk (execBlock src s) := by
  unfold execBlock
  rw [done_eq, outOk_next]
  split
  · next e => simp [State.rtsTake_ok e h]
  · simpa using h

theorem execActivate_ok {src : Source} {s : State} (h : HeldOk s.held) : OutOk (execActivate src s) := by
  unfold execActivate
  rw [done_eq, outOk_next]
  split
  · next e => simp [State.rtsTake_ok e h]
  · simpa using h

theorem execImageCommitDone_ok {fail : Option (BitVec 32)} {wrong : List (BitVec 22 × Byte)} {s : State}
    (h : HeldOk s.held) :
    OutOk (execImageCommitDone fail wrong s) := by
  unfold execImageCommitDone
  rw [done_eq, outOk_next]
  split
  · simpa using h
  · dsimp only
    split
    · simpa using h
    · split
      · simp [h]
      · simpa using State.readBack_ok _ _ _ _ _ (foldl_ok (fun _ _ ht => State.flashPut_ok _ _ ht) _
        (State.programSlot_ok _ _ _ h))

theorem State.hostTo_ok {s : State} {a : Nat} {f : State → State} (h : HeldOk s.held)
    (hf : ∀ t, HeldOk t.held → HeldOk (f t).held) :
    HeldOk (s.hostTo a f).held := by
  simp [State.hostTo, h, hf]

theorem execRegisterWrite_ok {o : Origin} {addr : BitVec 26} {val : Word} {upper : Option Word} {s : State}
    (h : HeldOk s.held) : OutOk (execRegisterWrite o addr val upper s) := by
  simp [execRegisterWrite, h]

theorem execKey_ok {addr : BitVec 26} {val : Word} {s : State} (h : HeldOk s.held) : OutOk (execKey addr val s) := by
  simp [execKey, h]

theorem execComplementPairWrite_ok {addr : BitVec 26} {val : Word} {s : State} (h : HeldOk s.held) :
    OutOk (execComplementPairWrite addr val s) := by
  simp [execComplementPairWrite, h]

theorem execSequenceClear_ok {o : Origin} {addr : BitVec 26} {val : Word} {s : State} (h : HeldOk s.held) :
    OutOk (execSequenceClear o addr val s) := by
  simp [execSequenceClear, h]

theorem execWriteOnce_ok {addr : BitVec 26} {val : Word} {s : State} (h : HeldOk s.held) :
    OutOk (execWriteOnce addr val s) := by
  simp [execWriteOnce, h]

theorem execBar4Write_ok {off : BitVec 24} {data : List Byte} {s : State} (h : HeldOk s.held) :
    OutOk (execBar4Write off data s) := by
  simp [execBar4Write, h]

theorem execLinkDown_ok {s : State} (h : HeldOk s.held) : OutOk (execLinkDown s) := by
  simp [execLinkDown, h]

theorem execFunctionLevelReset_ok {s : State} (h : HeldOk s.held) : OutOk (execFunctionLevelReset s) := by
  simp [execFunctionLevelReset, h]

theorem execReportIntake_ok {s : State} (h : HeldOk s.held) : OutOk (execReportIntake s) := by
  simp [execReportIntake, h]

theorem execRingCopy_ok {s : State} (h : HeldOk s.held) : OutOk (execRingCopy s) := by
  simp [execRingCopy, h]

theorem execRingHeaderWrite_ok {s : State} (h : HeldOk s.held) : OutOk (execRingHeaderWrite s) := by
  simp [execRingHeaderWrite, h]

theorem execChipResetExecute_ok {s : State} (h : HeldOk s.held) : OutOk (execChipResetExecute s) := by
  simp [execChipResetExecute, h]

theorem execWatchdogExpiry_ok {c : CtxId} {s : State} (h : HeldOk s.held) : OutOk (execWatchdogExpiry c s) := by
  simp [execWatchdogExpiry, h]

theorem execCommitWriteBack_ok {c : CtxId} {s : State} (h : HeldOk s.held) : OutOk (execCommitWriteBack c s) := by
  simp [execCommitWriteBack, h]

theorem execBedFault_ok {bed : Fin 16} {cause : Fin 4} {s : State} (h : HeldOk s.held) :
    OutOk (execBedFault bed cause s) := by
  simp [execBedFault, h]

theorem execRollbackNow_ok {s : State} (h : HeldOk s.held) : OutOk (execRollbackNow s) := by
  simp [execRollbackNow, h]

theorem execSettingsStatus_ok {o : Origin} {val : Word} {s : State} (h : HeldOk s.held) :
    OutOk (execSettingsStatus o val s) := by
  simp [execSettingsStatus, h]

theorem execBootStage_ok {x : BootIn} {s : State} (h : HeldOk s.held) : OutOk (execBootStage x s) := by
  simp [execBootStage, h]

theorem execSoftReset_ok {s : State} (h : HeldOk s.held) : OutOk (execSoftReset s) := by
  simp [execSoftReset, h]

theorem execPowerOn_ok {s : State} (h : HeldOk s.held) : OutOk (execPowerOn s) := by
  simp [execPowerOn, h]

theorem execPinReset_ok {s : State} (h : HeldOk s.held) : OutOk (execPinReset s) := by
  simp [execPinReset, h]

theorem execFail_ok {bed : Fin 16} {val : Word} {s : State} (h : HeldOk s.held) : OutOk (execFail bed val s) := by
  simpa [execFail] using State.hostTo_ok h fun _ ht => State.bedCtrlWrite_ok _ _ _ ht

theorem execRevive_ok {bed : Fin 16} {s : State} (h : HeldOk s.held) : OutOk (execRevive bed s) := by
  simpa [execRevive] using State.hostTo_ok h fun _ ht => State.bedCtrlWrite_ok _ _ _ ht

theorem execConfirm_ok {val : Word} {s : State} (h : HeldOk s.held) : OutOk (execConfirm val s) := by
  simpa [execConfirm] using State.hostTo_ok h fun _ ht => State.confirm_ok _ ht

theorem execSettingsCommit_ok {s : State} (h : HeldOk s.held) : OutOk (execSettingsCommit s) := by
  simpa [execSettingsCommit] using State.hostTo_ok h fun _ ht => State.settingsCommit_ok ht

theorem execRepair_ok {s : State} (h : HeldOk s.held) : OutOk (execRepair s) := by
  simpa [execRepair] using State.hostTo_ok h fun _ ht => by simp [ht]

end Sys2Proof.Machine
end

section
/-! PROOF. Every command, and so every step, keeps the invariant: O60. -/

namespace Sys2Proof.Machine

open Sys2Proof.Cert

/-- Every command keeps the invariant.  The commands that touch neither QDR, nor the flash, nor a context do so as the
lemmas of what they hold say. -/
theorem exec_ok (i : Instr) {s : State} (h : HeldOk s.held) : OutOk (exec i s) := by
  cases i <;> dsimp only [exec]
  case spMov | spAdd | spAdc | spSub | spSbc | spCmp | spAnd | spOr | spXor | spNot | spShl | spShr | spAsr | spRol |
      spNeg | spTst | spAddi | spMovi | spMovhi | spCmpi | spBset | spBclr | spBtst | spBsetr | spBclrr | spBtstr |
      spExt |
      spIns | spCrc16b | spCrc32b | spCrc32cb | spCrc64b | spCrc16w | spCrc32w | spCrc32cw | spCrc64w | spBip8 | spPar |
      spSinc | spSadd | spPopc | spNop | spLi16 | spAddl | spAdcl | spSubl | spSbcl | spCmpl | spAndl | spOrl | spXorl |
      spNotl | spShll | spShrl | spAsrl | spRoll | spNegl | spTstl | spMul =>
    exact onCtx_ok h (fun _ => rfl) (fun _ => rfl)
  case spBr | spBz | spBnz | spBcy | spBncy | spBugt | spBule | spBsge | spBslt | spBsgt | spBsle | spBneg | spBpos |
  spBov |
      spBnov => exact branch_ok h
  case spJmp | spJmpl | spJmpr => exact sprig_ok h fun _ ht => State.jumpTo_ok _ _ ht
  case spCall | spCalll | spCallr => exact sprig_ok h fun _ ht => State.call_ok _ _ _ ht
  case spOhr | spOhrx => exact sprig_ok h fun _ ht => State.ohRead_ok _ _ _ _ ht
  case spOhw | spOhwx => exact ordered_ok h fun _ ht => State.ohWrite_ok _ _ _ _ ht
  case spCond | spCondc => exact sprig_ok h fun _ ht => State.cond_ok _ _ _ _ ht
  case spLdl => exact execSpLdl_ok h
  case spStl => exact execSpStl_ok h
  case spLdc => exact execSpLdc_ok h
  case spStc => exact execSpStc_ok h
  case spQhead => exact execSpQhead_ok h
  case spQword => exact execSpQword_ok h
  case spQmark => exact execSpQmark_ok h
  case spQrew => exact execSpQrew_ok h
  case spQrel => exact execSpQrel_ok h
  case spQpushh => exact execSpQpushh_ok h
  case spQpushw => exact execSpQpushw_ok h
  case spQend => exact execSpQend_ok h
  case spEnd => exact execSpEnd_ok h
  case spRet => exact execSpRet_ok h
  case spFence => exact execSpFence_ok h
  case spYield => exact execSpYield_ok h
  case spWait => exact execSpWait_ok h
  case spPost => exact execSpPost_ok h
  case spTsrd => exact execSpTsrd_ok h
  case spLdb => exact execSpLdb_ok h
  case spStb => exact execSpStb_ok h
  case spLdf => exact execSpLdf_ok h
  case spStf => exact execSpStf_ok h
  case handlerStart => exact execHandlerStart_ok h
  case undefinedEncoding => exact execUndefinedEncoding_ok h
  case farAccessComplete => exact execFarAccessComplete_ok h
  case registerWindowComplete => exact execRegisterWindowComplete_ok h
  case overheadReadComplete => exact execOverheadReadComplete_ok h
  case waitExpiry => exact execWaitExpiry_ok h
  case backingFail => exact execBackingFail_ok h
  case confirmWindowExpiry => exact execConfirmWindowExpiry_ok h
  case activationImageCopied => exact execActivationImageCopied_ok h
  case beginImg => exact execBeginImg_ok h
  case block => exact execBlock_ok h
  case activate => exact execActivate_ok h
  case imageCommitDone => exact execImageCommitDone_ok h
  case registerWrite => exact execRegisterWrite_ok h
  case key => exact execKey_ok h
  case complementPairWrite => exact execComplementPairWrite_ok h
  case sequenceClear => exact execSequenceClear_ok h
  case writeOnce => exact execWriteOnce_ok h
  case bar4Write => exact execBar4Write_ok h
  case linkDown => exact execLinkDown_ok h
  case functionLevelReset => exact execFunctionLevelReset_ok h
  case reportIntake => exact execReportIntake_ok h
  case ringCopy => exact execRingCopy_ok h
  case ringHeaderWrite => exact execRingHeaderWrite_ok h
  case chipResetExecute => exact execChipResetExecute_ok h
  case watchdogExpiry => exact execWatchdogExpiry_ok h
  case commitWriteBack => exact execCommitWriteBack_ok h
  case bedFault => exact execBedFault_ok h
  case rollbackNow => exact execRollbackNow_ok h
  case settingsStatus => exact execSettingsStatus_ok h
  case bootStage => exact execBootStage_ok h
  case softReset => exact execSoftReset_ok h
  case powerOn => exact execPowerOn_ok h
  case pinReset => exact execPinReset_ok h
  case fail => exact execFail_ok h
  case revive => exact execRevive_ok h
  case confirm => exact execConfirm_ok h
  case settingsCommit => exact execSettingsCommit_ok h
  case repair => exact execRepair_ok h
  all_goals exact outOk_of_held (s := s) (by simp) h

/-- Settles O60: QDR, the flash and the contexts are all that the invariant speaks of; with no command waiting, time
alone passes, and every command keeps it. -/
theorem stepKeepsInvariant : Obligations.StepKeepsInvariant := by
  unfold Obligations.StepKeepsInvariant
  intro s t h e
  rw [stateOk_iff] at h ⊢
  unfold step at e
  split at e
  · cases e
    simpa using h
  · next i rest _ => exact exec_ok i (s := { s with pending := rest }) h t.held (by rw [e]; rfl)

end Sys2Proof.Machine
end

section
/-! SUPPORT. What is read of an updated context, bed, furrow or cycle; what an operation alters; how an instruction's counts and its
effect are put together (R195, R319). -/

namespace Sys2Proof.Machine

open Sys2Proof.Cert

/-! ### What is read of an updated context, bed, furrow or cycle -/

@[simp] theorem State.nat_setCtx (s : State) (k : Nat) (x : Ctx) (a : Nat) : (s.setCtx k x).nat a = s.nat a := by rfl
@[simp] theorem State.fld_setCtx (s : State) (k : Nat) (x : Ctx) (a hi lo : Nat) :
    (s.setCtx k x).fld a hi lo = s.fld a hi lo := by rfl
@[simp] theorem State.bit_setCtx (s : State) (k : Nat) (x : Ctx) (a n : Nat) :
    (s.setCtx k x).bit a n = s.bit a n := by rfl
@[simp] theorem State.half_setCtx (s : State) (k : Nat) (x : Ctx) (a w : Nat) :
    (s.setCtx k x).half a w = s.half a w := by rfl
@[simp] theorem State.role_setCtx (s : State) (k : Nat) (x : Ctx) (q : Nat) : (s.setCtx k x).role q = s.role q := by rfl
@[simp] theorem State.lbed_setCtx (s : State) (k : Nat) (x : Ctx) (q : Nat) : (s.setCtx k x).lbed q = s.lbed q := by rfl
@[simp] theorem State.bed_setCtx (s : State) (k : Nat) (x : Ctx) (j : Nat) : (s.setCtx k x).bed j = s.bed j := by rfl
@[simp] theorem State.fur_setCtx (s : State) (k : Nat) (x : Ctx) (j : Nat) : (s.setCtx k x).fur j = s.fur j := by rfl
@[simp] theorem State.cycle_setCtx (s : State) (k : Nat) (x : Ctx) (j : Nat) :
    (s.setCtx k x).cycle j = s.cycle j := by rfl
@[simp] theorem State.engines_setCtx (s : State) (k : Nat) (x : Ctx) : (s.setCtx k x).engines = s.engines := by rfl
@[simp] theorem State.nat_setBed (s : State) (b : Nat) (x : Bed) (a : Nat) : (s.setBed b x).nat a = s.nat a := by rfl
@[simp] theorem State.fld_setBed (s : State) (b : Nat) (x : Bed) (a hi lo : Nat) :
    (s.setBed b x).fld a hi lo = s.fld a hi lo := by rfl
@[simp] theorem State.bit_setBed (s : State) (b : Nat) (x : Bed) (a n : Nat) :
    (s.setBed b x).bit a n = s.bit a n := by rfl
@[simp] theorem State.half_setBed (s : State) (b : Nat) (x : Bed) (a w : Nat) :
    (s.setBed b x).half a w = s.half a w := by rfl
@[simp] theorem State.role_setBed (s : State) (b : Nat) (x : Bed) (q : Nat) : (s.setBed b x).role q = s.role q := by rfl
@[simp] theorem State.lbed_setBed (s : State) (b : Nat) (x : Bed) (q : Nat) : (s.setBed b x).lbed q = s.lbed q := by rfl
@[simp] theorem State.ctx_setBed (s : State) (b : Nat) (x : Bed) (j : Nat) : (s.setBed b x).ctx j = s.ctx j := by rfl
@[simp] theorem State.fur_setBed (s : State) (b : Nat) (x : Bed) (j : Nat) : (s.setBed b x).fur j = s.fur j := by rfl
@[simp] theorem State.cycle_setBed (s : State) (b : Nat) (x : Bed) (j : Nat) :
    (s.setBed b x).cycle j = s.cycle j := by rfl
@[simp] theorem State.engines_setBed (s : State) (b : Nat) (x : Bed) : (s.setBed b x).engines = s.engines := by rfl
@[simp] theorem State.nat_setFur (s : State) (F : Nat) (x : Furrow) (a : Nat) : (s.setFur F x).nat a = s.nat a := by rfl
@[simp] theorem State.fld_setFur (s : State) (F : Nat) (x : Furrow) (a hi lo : Nat) :
    (s.setFur F x).fld a hi lo = s.fld a hi lo := by rfl
@[simp] theorem State.bit_setFur (s : State) (F : Nat) (x : Furrow) (a n : Nat) :
    (s.setFur F x).bit a n = s.bit a n := by rfl
@[simp] theorem State.half_setFur (s : State) (F : Nat) (x : Furrow) (a w : Nat) :
    (s.setFur F x).half a w = s.half a w := by rfl
@[simp] theorem State.role_setFur (s : State) (F : Nat) (x : Furrow) (q : Nat) :
    (s.setFur F x).role q = s.role q := by rfl
@[simp] theorem State.lbed_setFur (s : State) (F : Nat) (x : Furrow) (q : Nat) :
    (s.setFur F x).lbed q = s.lbed q := by rfl
@[simp] theorem State.bed_setFur (s : State) (F : Nat) (x : Furrow) (j : Nat) : (s.setFur F x).bed j = s.bed j := by rfl
@[simp] theorem State.ctx_setFur (s : State) (F : Nat) (x : Furrow) (j : Nat) : (s.setFur F x).ctx j = s.ctx j := by rfl
@[simp] theorem State.cycle_setFur (s : State) (F : Nat) (x : Furrow) (j : Nat) :
    (s.setFur F x).cycle j = s.cycle j := by rfl
@[simp] theorem State.engines_setFur (s : State) (F : Nat) (x : Furrow) : (s.setFur F x).engines = s.engines := by rfl
@[simp] theorem State.nat_setCycle (s : State) (b : Nat) (x : Cycle) (a : Nat) :
    (s.setCycle b x).nat a = s.nat a := by rfl
@[simp] theorem State.fld_setCycle (s : State) (b : Nat) (x : Cycle) (a hi lo : Nat) :
    (s.setCycle b x).fld a hi lo = s.fld a hi lo := by rfl
@[simp] theorem State.bit_setCycle (s : State) (b : Nat) (x : Cycle) (a n : Nat) :
    (s.setCycle b x).bit a n = s.bit a n := by rfl
@[simp] theorem State.half_setCycle (s : State) (b : Nat) (x : Cycle) (a w : Nat) :
    (s.setCycle b x).half a w = s.half a w := by rfl
@[simp] theorem State.role_setCycle (s : State) (b : Nat) (x : Cycle) (q : Nat) :
    (s.setCycle b x).role q = s.role q := by rfl
@[simp] theorem State.lbed_setCycle (s : State) (b : Nat) (x : Cycle) (q : Nat) :
    (s.setCycle b x).lbed q = s.lbed q := by rfl
@[simp] theorem State.bed_setCycle (s : State) (b : Nat) (x : Cycle) (j : Nat) :
    (s.setCycle b x).bed j = s.bed j := by rfl
@[simp] theorem State.ctx_setCycle (s : State) (b : Nat) (x : Cycle) (j : Nat) :
    (s.setCycle b x).ctx j = s.ctx j := by rfl
@[simp] theorem State.fur_setCycle (s : State) (b : Nat) (x : Cycle) (j : Nat) :
    (s.setCycle b x).fur j = s.fur j := by rfl
@[simp] theorem State.engines_setCycle (s : State) (b : Nat) (x : Cycle) :
    (s.setCycle b x).engines = s.engines := by rfl
@[simp] theorem State.ctxWord_setCtx (s : State) (k : Nat) (x : Ctx) (b w : Nat) :
    (s.setCtx k x).ctxWord b w = s.ctxWord b w := by rfl
@[simp] theorem State.sharedWord_setCtx (s : State) (k : Nat) (x : Ctx) (b w : Nat) :
    (s.setCtx k x).sharedWord b w = s.sharedWord b w := by rfl

/-! ### Registers and parts that may change -/

/-- No register but those of `P` reads otherwise, and no part of the state but those listed, the counts and the reports
has changed. -/
structure State.Alters (P : Nat → Prop) (ps : List Part) (s t : State) : Prop where
  regs : regsBut P s t
  parts : keeps ps s t

namespace State.Alters

variable {P Q : Nat → Prop} {ps qs : List Part} {s t u : State} {a : Nat}

theorem refl (P : Nat → Prop) (ps : List Part) (s : State) : s.Alters P ps s :=
  ⟨fun _ _ => rfl, fun p _ => by cases p <;> rfl⟩

theorem trans (h : s.Alters P ps t) (k : t.Alters P ps u) : s.Alters P ps u :=
  ⟨fun a ha => (k.regs a ha).trans (h.regs a ha), keeps_trans h.parts k.parts⟩

theorem mono (h : s.Alters P ps t) (hP : ∀ a, P a → Q a) (hp : ∀ p ∈ ps, p ∈ qs) : s.Alters Q qs t :=
  ⟨fun a ha => h.regs a fun e => ha (hP a e), sameBut_mono h.parts (by simp only [List.mem_cons]; tauto)⟩

/-- A part that is not listed is the same. -/
theorem part (h : s.Alters P ps t) {p : Part} (hp : p ∉ Part.cur :: .inv :: ps) : p.same s t := h.parts p hp

theorem quiet (h : s.Alters P ps t) (hq : t.Quiet u) (hr : regsBut P t u) : s.Alters P ps u := h.trans ⟨hr, hq.keeps _⟩

/-- A part of the list may change. -/
theorem same {p : Part} (h : s.Alters P ps t) (hp : p ∈ ps) (hk : sameBut [p] t u) (hr : u.regs = t.regs) :
    s.Alters P ps u :=
  h.trans ⟨fun _ _ => State.rd_congr hr _, sameBut_mono hk (by simp [hp])⟩

theorem wr (h : s.Alters P ps t) (ha : P a) (v : Word) : s.Alters P ps (t.wr a v) :=
  h.quiet (t.wr_quiet a v) fun _ hb => t.rd_wr_ne v fun e => hb (e ▸ ha)

theorem wrN (h : s.Alters P ps t) (ha : P a) (n : Nat) : s.Alters P ps (t.wrN a n) := h.wr ha _
theorem setFld (h : s.Alters P ps t) (ha : P a) (hi lo v : Nat) : s.Alters P ps (t.setFld a hi lo v) := h.wrN ha _
theorem setBit (h : s.Alters P ps t) (ha : P a) (n : Nat) (b : Bool) : s.Alters P ps (t.setBit a n b) :=
    h.setFld ha _ _ _
theorem addTo (h : s.Alters P ps t) (ha : P a) (n : Nat) : s.Alters P ps (t.addTo a n) := h.wrN ha _
theorem inc (h : s.Alters P ps t) (ha : P a) : s.Alters P ps (t.inc a) := h.addTo ha 1

/-- An event sets a bit of its register and of the SUMMARY of its block. -/
theorem event (h : s.Alters P ps t) (ha : P a) (hs : ∀ k n base, blockOf a = some (k, n, base) → P (base + 8))
    (b : Nat) :
    s.Alters P ps (t.event a b) :=
  h.quiet (t.event_quiet a b) fun _ hc =>
    t.rd_event_ne b (fun e => hc (e ▸ ha)) fun k n base hb e => hc (e ▸ hs k n base hb)

theorem raise {src : Nat} (h : s.Alters P ps t) (hs : ∀ a, reportReg src a → P a) (kind : Nat) (clear : Bool)
    (detail : Nat) :
    s.Alters P ps (t.raise src kind clear detail) :=
  h.quiet (t.raiseAs_quiet _ _ _ _ _) fun b hb => t.rd_raiseAs_ne _ _ _ _ fun e => hb (hs b e)

theorem raiseLim {src : Nat} (h : s.Alters P ps t) (hs : ∀ a, reportReg src a → P a) (n sub kind : Nat) (clear : Bool)
    (detail : Nat) : s.Alters P ps (t.raiseLim n sub src kind clear detail) :=
  h.quiet (t.raiseLim_quiet _ _ _ _ _ _) fun b hb => t.rd_raiseLim_ne _ _ _ _ _ fun e => hb (hs b e)

theorem tallyBed (h : s.Alters P ps t) (hP : ∀ a, counting a → P a) {b : Nat} (hb : b < 16) (e ev n : Nat) :
    s.Alters P ps (t.tallyBed b e ev n) :=
  h.quiet (t.tallyBed_quiet _ _ _ _) fun _ ha => t.rd_tallyBed_ne e ev n hb fun e => ha (hP _ (countReg_counting e))

theorem bedEv (h : s.Alters P ps t) (hP : ∀ a, counting a → P a) (c : CtxId) (ev : Nat) :
    s.Alters P ps (t.bedEv c ev) :=
  h.tallyBed hP c.bed.isLt _ _ _

theorem setCtx (h : s.Alters P ps t) (hp : .ctxs ∈ ps) (k : Nat) (x : Ctx) : s.Alters P ps (t.setCtx k x) :=
  h.same hp (fun p hm => by cases p with | ctxs => simp at hm | _ => rfl) rfl

theorem setBed (h : s.Alters P ps t) (hp : .beds ∈ ps) (b : Nat) (x : Bed) : s.Alters P ps (t.setBed b x) :=
  h.same hp (fun p hm => by cases p with | beds => simp at hm | _ => rfl) rfl

theorem setBeds (h : s.Alters P ps t) (hp : .beds ∈ ps) (x : Tab Bed) : s.Alters P ps (t.setBeds x) :=
  h.same hp (fun p hm => by cases p with | beds => simp at hm | _ => rfl) rfl

theorem setCycle (h : s.Alters P ps t) (hp : .cycles ∈ ps) (b : Nat) (x : Cycle) : s.Alters P ps (t.setCycle b x) :=
  h.same hp (fun p hm => by cases p with | cycles => simp at hm | _ => rfl) rfl

theorem setFur (h : s.Alters P ps t) (hp : .furs ∈ ps) (F : Nat) (x : Furrow) : s.Alters P ps (t.setFur F x) :=
  h.same hp (t.setFur_sameBut F x) rfl

theorem setNow (h : s.Alters P ps t) (hp : .now ∈ ps) (n : Nat) : s.Alters P ps (t.setNow n) :=
  h.same hp (fun p hm => by cases p with | now => simp at hm | _ => rfl) rfl

theorem setQdr (h : s.Alters P ps t) (hp : .qdr ∈ ps) (x : List Host.Cell) : s.Alters P ps (t.setQdr x) :=
  h.same hp (fun p hm => by cases p with | qdr => simp at hm | _ => rfl) rfl

theorem setQdm (h : s.Alters P ps t) (hp : .qdm ∈ ps) (x : Qdm) : s.Alters P ps (t.setQdm x) :=
  h.same hp (fun p hm => by cases p with | qdm => simp at hm | _ => rfl) rfl

/-- The end of a command puts the clock and the queue back. -/
theorem doneWith (h : s.Alters P ps t) : s.Alters P ps (((t.setNow s.now).setPending s.pending).setSumCycle []) :=
  ⟨h.regs, sameBut_done h.parts⟩

theorem foldl {β : Type} {f : State → β → State} {l : List β} (h : s.Alters P ps t)
    (hf : ∀ u : State, ∀ b ∈ l, u.Alters P ps (f u b)) : s.Alters P ps (l.foldl f t) :=
  foldl_keeps (fun u => s.Alters P ps u) f l (fun u b hb hu => hu.trans (hf u b hb)) t h

theorem iteThen {c : Prop} [Decidable c] (h : s.Alters P ps t) (hu : t.Alters P ps u) :
    s.Alters P ps (if c then u else t) := by
  split
  · exact h.trans hu
  · exact h

theorem iteElse {c : Prop} [Decidable c] (h : s.Alters P ps t) (hu : t.Alters P ps u) :
    s.Alters P ps (if c then t else u) := by
  split
  · exact h
  · exact h.trans hu

theorem nat (h : s.Alters P ps t) (ha : ¬ P a) : t.nat a = s.nat a := State.nat_congr (h.regs a ha)
theorem fld (h : s.Alters P ps t) (ha : ¬ P a) (hi lo : Nat) : t.fld a hi lo = s.fld a hi lo := by
  rw [State.fld, State.fld, h.nat ha]
theorem bit (h : s.Alters P ps t) (ha : ¬ P a) (n : Nat) : t.bit a n = s.bit a n := by
  rw [State.bit, State.bit, h.fld ha]

theorem bed (h : s.Alters P ps t) (hp : .beds ∉ ps) (b : Nat) : t.bed b = s.bed b :=
  State.bed_congr (h.part (p := .beds) (by simpa using hp)) b

theorem ctx (h : s.Alters P ps t) (hp : .ctxs ∉ ps) (k : Nat) : t.ctx k = s.ctx k :=
  State.ctx_congr (h.part (p := .ctxs) (by simpa using hp)) k

end State.Alters

/-! ### The state in which an instruction has its effect, and the one that it leaves -/

/-- A context with one more instruction of its handler counted (R319). -/
def Ctx.counted (x : Ctx) : Ctx := { x with issued := x.issued + 1 }

@[simp] theorem Ctx.counted_reg (x : Ctx) (i : BitVec 4) : x.counted.reg i = x.reg i := by rfl
@[simp] theorem Ctx.counted_bound (x : Ctx) : x.counted.bound = x.bound := by rfl
@[simp] theorem Ctx.counted_active (x : Ctx) : x.counted.active = x.active := by rfl
@[simp] theorem Ctx.counted_stack (x : Ctx) : x.counted.stack = x.stack := by rfl
@[simp] theorem Ctx.counted_page (x : Ctx) : x.counted.page = x.page := by rfl
@[simp] theorem Ctx.counted_pc (x : Ctx) : x.counted.pc = x.pc := by rfl
@[simp] theorem Ctx.counted_ev (x : Ctx) : x.counted.ev = x.ev := by rfl
@[simp] theorem Ctx.counted_evFur (x : Ctx) : x.counted.evFur = x.evFur := by rfl
@[simp] theorem Ctx.counted_winWrites (x : Ctx) : x.counted.winWrites = x.winWrites := by rfl
@[simp] theorem Ctx.counted_plainAddr (x : Ctx) (ra : BitVec 4) (d : Nat) :
    x.counted.plainAddr ra d = x.plainAddr ra d := by rfl
@[simp] theorem Ctx.counted_bedAddr (x : Ctx) (ra page : BitVec 4) (d : BitVec 12) :
    x.counted.bedAddr ra page d = x.bedAddr ra page d := by rfl
@[simp] theorem Ctx.counted_farAddr (x : Ctx) (ra : BitVec 4) (d : Half) :
    x.counted.farAddr ra d = x.farAddr ra d := by rfl

/-- After the counts of the issue, before the instruction's own effect. -/
def State.begun (s : State) (c : CtxId) (i : Instr) : State := (s.atIssue c i).issued c i

/-- After an effect that has led to `u`: the clock of the issue, the queue and the SUMMARY cycle of a command's end. -/
def State.ended (s : State) (c : CtxId) (i : Instr) (u : State) : State :=
  ((u.setNow (s.atIssue c i).now).setPending (s.atIssue c i).pending).setSumCycle []

@[simp] theorem State.ended_regs (s : State) (c : CtxId) (i : Instr) (u : State) :
    (s.ended c i u).regs = u.regs := by rfl
@[simp] theorem State.ended_beds (s : State) (c : CtxId) (i : Instr) (u : State) :
    (s.ended c i u).beds = u.beds := by rfl
@[simp] theorem State.ended_qdr (s : State) (c : CtxId) (i : Instr) (u : State) : (s.ended c i u).qdr = u.qdr := by rfl
@[simp] theorem State.ended_flash (s : State) (c : CtxId) (i : Instr) (u : State) :
    (s.ended c i u).flash = u.flash := by rfl
@[simp] theorem State.ended_rd (s : State) (c : CtxId) (i : Instr) (u : State) (a : Nat) :
    (s.ended c i u).rd a = u.rd a := by rfl
@[simp] theorem State.ended_nat (s : State) (c : CtxId) (i : Instr) (u : State) (a : Nat) :
    (s.ended c i u).nat a = u.nat a := by rfl
@[simp] theorem State.ended_fld (s : State) (c : CtxId) (i : Instr) (u : State) (a hi lo : Nat) :
    (s.ended c i u).fld a hi lo = u.fld a hi lo := by rfl
@[simp] theorem State.ended_bit (s : State) (c : CtxId) (i : Instr) (u : State) (a n : Nat) :
    (s.ended c i u).bit a n = u.bit a n := by rfl
@[simp] theorem State.ended_ctxWord (s : State) (c : CtxId) (i : Instr) (u : State) (b w : Nat) :
    (s.ended c i u).ctxWord b w = u.ctxWord b w := by rfl
@[simp] theorem State.ended_sharedWord (s : State) (c : CtxId) (i : Instr) (u : State) (b w : Nat) :
    (s.ended c i u).sharedWord b w = u.sharedWord b w := by rfl
@[simp] theorem State.ended_half (s : State) (c : CtxId) (i : Instr) (u : State) (a w : Nat) :
    (s.ended c i u).half a w = u.half a w := by rfl
@[simp] theorem State.ended_ctx (s : State) (c : CtxId) (i : Instr) (u : State) (k : Nat) :
    (s.ended c i u).ctx k = u.ctx k := by rfl
@[simp] theorem State.ended_bed (s : State) (c : CtxId) (i : Instr) (u : State) (b : Nat) :
    (s.ended c i u).bed b = u.bed b := by rfl
@[simp] theorem State.ended_fur (s : State) (c : CtxId) (i : Instr) (u : State) (F : Nat) :
    (s.ended c i u).fur F = u.fur F := by rfl

section
variable {c : CtxId} {i : Instr} {s : State}

/-- An instruction that its context can issue leads to the end of its effect. -/
theorem sprig_next (f : State → State) (h : s.issues c i = true) :
    sprig c i s f = .next (s.ended c i (f (s.begun c i))) :=
  sprig_acts f h

theorem ordered_next (f : State → State) (hw : (s.ctx (keyOf c)).winWrites = []) (h : s.issues c i = true) :
    ordered c i s f = .next (s.ended c i (f (s.begun c i))) := by
  rw [ordered, if_pos (by simp [hw]), sprig_next f h]

theorem State.begun_ctx (h : s.issues c i = true) : (s.begun c i).ctx (keyOf c) = (s.ctx (keyOf c)).counted :=
    State.issued_ctx h

theorem State.begun_alters (h : s.issues c i = true) :
    s.Alters counting [.now, .engines, .cycles, .ctxs] (s.begun c i) := by
  obtain ⟨q, n, E, C, hq, hr, _, _, _, _, _, e⟩ := State.issued_eq h
  refine ⟨fun a ha => ?_, fun p hp => ?_⟩
  · rw [State.begun, e]
    exact hr a fun hc => ha (countReg_counting hc)
  · rw [State.begun, e]
    simp only [List.mem_cons, not_or] at hp
    obtain ⟨h1, h2, h3, h4, h5, h6, -⟩ := hp
    have := hq.part h1 h2
    cases p <;> first | contradiction | exact this

theorem State.begun_ctx_ne (h : s.issues c i = true) {k : Nat} (hk : k ≠ keyOf c) : (s.begun c i).ctx k = s.ctx k := by
  obtain ⟨q, n, E, C, hq, _, _, _, _, _, _, e⟩ := State.issued_eq h
  rw [State.begun, e, State.ctx_setCtx_ne _ _ hk]
  exact State.ctx_congr hq.ctxs k

theorem State.begun_bed (h : s.issues c i = true) (b : Nat) : (s.begun c i).bed b = s.bed b :=
    (begun_alters h).bed (by simp) b

theorem State.begun_slot (h : s.issues c i = true) : SlotTaken i c s (s.begun c i) := by
  obtain ⟨q, n, E, C, hq, _, _, hn, h1, h2, h3, e⟩ := State.issued_eq h
  rw [State.begun, e]
  exact ⟨hn, h1, h2, h3⟩

theorem State.atIssue_now_eq (h : s.issues c i = true) : (s.atIssue c i).now = (s.begun c i).now := by
  obtain ⟨n, hn⟩ := State.issues_cycle h
  obtain ⟨q, hq, -, -, e⟩ := State.atIssue_eq hn
  have := (begun_slot h).clock
  rw [hn] at this
  rw [e, ← Option.some.inj this]
  rfl

theorem State.atIssue_pending (h : s.issues c i = true) : (s.atIssue c i).pending = s.pending := by
  obtain ⟨n, hn⟩ := State.issues_cycle h
  obtain ⟨q, hq, -, -, e⟩ := State.atIssue_eq hn
  rw [e]
  exact hq.pending

/-- An effect that leaves the engines, and the cycles of the other beds, leaves the slot as the issue took it. -/
theorem ended_slot {u : State} (h : s.issues c i = true) (he : u.engines = (s.begun c i).engines)
    (hc : ∀ b, b ≠ c.bed.val → u.cycle b = (s.begun c i).cycle b) : SlotTaken i c s (s.ended c i u) := by
  have hs := State.begun_slot h
  have hg (g : Nat) : (s.ended c i u).engine g = (s.begun c i).engine g := by
    rw [State.engine, State.engine]; exact congrArg (Tab.get · Engine.init g) he
  exact ⟨by rw [hs.clock, ← State.atIssue_now_eq h]; rfl, by rw [hg]; exact hs.turn,
    fun g h => by rw [hg]; exact hs.engines g h,
    fun b h => (hc b h).trans (hs.cycles b h)⟩

/-- What an instruction alters is what its issue alters, and its effect. -/
theorem ended_alters {P : Nat → Prop} {ps : List Part} {u : State} (h : s.issues c i = true)
    (hP : ∀ a, counting a → P a)
    (hu : (s.begun c i).Alters P (.now :: .engines :: .cycles :: .ctxs :: ps) u) :
    s.Alters P (.now :: .engines :: .cycles :: .ctxs :: ps) (s.ended c i u) := by
  have hb := ((State.begun_alters h).mono (Q := P) (qs := .now :: .engines :: .cycles :: .ctxs :: ps) hP
    (by simp)).trans hu
  refine ⟨hb.regs, fun p hp => ?_⟩
  have := hb.parts p hp
  cases p with
  | now => simp at hp
  | pending => exact State.atIssue_pending h
  | _ => exact this

theorem ended_issueKeeps {P : Nat → Prop} {ps : List Part} {u : State} (h : s.issues c i = true)
    (hP : ∀ a, counting a → P a)
    (hu : (s.begun c i).Alters P (.now :: .engines :: .cycles :: .ctxs :: ps) u)
      (he : u.engines = (s.begun c i).engines)
    (hc : ∀ b, b ≠ c.bed.val → u.cycle b = (s.begun c i).cycle b) : issueKeeps i c (.ctxs :: ps) s (s.ended c i u) :=
  ⟨ended_slot h he hc, (ended_alters h hP hu).parts⟩

/-- `s` with the clock, the slots and the contexts of `t`. -/
def State.timedAs (s t : State) : State := (((s.setNow t.now).setEngines t.engines).setCycles t.cycles).setCtxs t.ctxs

theorem State.timedAs_undo {q s : State} (h : s.Quiet q) (n : Nat) (E : Tab Engine) (C : Tab Cycle) (k : Nat)
    (x : Ctx) :
    ((((q.setNow n).setEngines E).setCycles C).setCtx k x).timedAs s = q := by
  rw [State.timedAs, ← h.now, ← h.engines, ← h.cycles, ← h.ctxs]
  simp only [State.setNow, State.setEngines, State.setCycles, State.setCtx, State.setCtxs]

theorem State.Quiet.timedAs {t u : State} (h : t.Quiet u) (s : State) : (t.timedAs s).Quiet (u.timedAs s) :=
  ⟨rfl, h.free, h.qdr, h.flash, h.top, h.mboxes, h.framers, h.txs, h.active, h.tribs, h.mapOh, h.sinkHold, h.pairs,
    h.grants,
    h.commitRows, h.policy, h.policyPending, h.winStart, h.sdlNs, h.sdlFrom, h.refs, h.dials, h.gens, h.ttcs, h.sves,
      h.beds,
    rfl, rfl, rfl, h.furs, h.rts, h.twn, h.qdm, h.outbox, h.pending, h.resets⟩

/-- An instruction whose effect is counts, a new context and a note in the cycle of its own bed. -/
theorem sprig_leads_noting {f : State → State} {u : State} {x y : Ctx} {C' : Tab Cycle}
    (he : exec i s = sprig c i s f) (h : s.issues c i = true)
    (hf : f (s.begun c i) = (u.setCycles C').setCtx (keyOf c) x) (hq : (s.begun c i).Quiet u)
    (hC : ∀ b, b ≠ c.bed.val → Tab.get C' Cycle.init b = (s.begun c i).cycle b)
    (hr : ∀ a, ¬ countReg a → u.rd a = (s.begun c i).rd a) (hu : (∀ n, (s.begun c i).cntOn n = false) → u = s.begun c i)
    (hy : sameCtx x y) (ha : y.active = true) : leads i c s y := by
  obtain ⟨q, n, E, C, hs, hqr, hqu, hn, h1, h2, h3, e⟩ := State.issued_eq h
  have hx : x.active = true := by rw [sameCtx_active hy, ha]
  have hb : s.begun c i = (((q.setNow n).setEngines E).setCycles C).setCtx (keyOf c)
      { s.ctx (keyOf c) with issued := (s.ctx (keyOf c)).issued + 1 } := e
  have hbq : (s.begun c i).timedAs s = q := by rw [hb, State.timedAs_undo hs]
  have hp : s.Quiet (u.timedAs s) := hs.trans (hbq ▸ hq.timedAs s)
  have hpu : (∀ k, s.cntOn k = false) → u.timedAs s = s := fun hz => by
    have hqs := hqu hz
    have hz' : ∀ k, (s.begun c i).cntOn k = false := fun k => by
      rw [hb, hqs]; exact hz k
    rw [hu hz', hbq, hqs]
  have h3' : ∀ b, b ≠ c.bed.val → Tab.get C' Cycle.init b = s.cycle b := fun b hne =>
    (hC b hne).trans (by rw [hb]; exact h3 b hne)
  have hend : s.ended c i ((u.setCycles C').setCtx (keyOf c) x) =
      (((((((u.timedAs s).setNow n).setEngines E).setCycles C').setCtx (keyOf c) x).setNow n).setPending
        s.pending).setSumCycle [] := by
    have hnow : (s.atIssue c i).now = n := by rw [State.atIssue_now_eq h, hb]; rfl
    have hE : u.engines = E := hq.engines.trans (by rw [hb]; rfl)
    have hX : Tab.set u.ctxs Ctx.init (keyOf c) x = Tab.set s.ctxs Ctx.init (keyOf c) x := by
      have ha₀ : ({ s.ctx (keyOf c) with issued := (s.ctx (keyOf c)).issued + 1 } : Ctx).active = true :=
        State.issues_active h
      rw [hq.ctxs, hb]
      exact (Tab.set_set q.ctxs Ctx.init (keyOf c) x (Ctx.ne_init ha₀) (Ctx.ne_init hx)).trans
        (congrArg (Tab.set · Ctx.init (keyOf c) x) hs.ctxs)
    rw [State.ended, hnow, State.atIssue_pending h, State.setCtx, State.setCtx, ← hE]
    simp only [State.setCycles]
    rw [hX]
    rfl
  refine ⟨_, he.trans (sprig_next f h), ?_⟩
  rw [hf]
  refine ⟨by simpa using hy, ?_⟩
  rw [hend]
  exact onlyIssue_of x hp (fun a hc => (hr a hc).trans (by rw [hb]; exact hqr a hc)) hpu hn h1 h2 h3'

/-- An instruction whose effect is counts and a new context. -/
theorem sprig_leads {f : State → State} {u : State} {x y : Ctx} (he : exec i s = sprig c i s f)
    (h : s.issues c i = true)
    (hf : f (s.begun c i) = u.setCtx (keyOf c) x) (hq : (s.begun c i).Quiet u)
    (hr : ∀ a, ¬ countReg a → u.rd a = (s.begun c i).rd a) (hu : (∀ n, (s.begun c i).cntOn n = false) → u = s.begun c i)
    (hy : sameCtx x y) (ha : y.active = true) : leads i c s y :=
  sprig_leads_noting (C' := u.cycles) he h hf hq (fun b _ => by rw [hq.cycles]; rfl) hr hu hy ha

/-- An instruction whose effect is a new context and nothing else. -/
theorem sprig_leads_ctx {f : State → State} {x y : Ctx} (he : exec i s = sprig c i s f) (h : s.issues c i = true)
    (hf : f (s.begun c i) = (s.begun c i).setCtx (keyOf c) x) (hy : sameCtx x y) (ha : y.active = true) :
      leads i c s y :=
  sprig_leads he h hf (State.Quiet.refl _) (fun _ _ => rfl) (fun _ => rfl) hy ha

end

end Sys2Proof.Machine
end

section
/-! PROOF. Local scratch (R197, R228): O9. -/

namespace Sys2Proof.Machine

open Sys2Proof.Cert

theorem exec_spStl (c : CtxId) (rd ra d : BitVec 4) (s : State) : exec (.spStl c rd ra d) s = execSpStl c rd ra d s :=
    rfl
theorem exec_spLdl (c : CtxId) (rd ra d : BitVec 4) (s : State) : exec (.spLdl c rd ra d) s = execSpLdl c rd ra d s :=
    rfl
theorem exec_spLdc (c : CtxId) (rd ra : BitVec 4) (d : BitVec 3) (s : State) :
    exec (.spLdc c rd ra d) s = execSpLdc c rd ra d s := rfl
theorem exec_spStc (c : CtxId) (rd ra : BitVec 4) (d : BitVec 3) (s : State) :
    exec (.spStc c rd ra d) s = execSpStc c rd ra d s := rfl

/-- A word that the handler has stored is what a load of local scratch answers. -/
theorem Ctx.local_stored {x : Ctx} {a : Nat} {u : Half} (h : Tab.get x.scratch none a = some u) : x.local a = u := by
  rw [Ctx.local, h]

/-- Settles O9: a store and a load of a word within range, from what each does to the context. -/
theorem sprigLocalScratch : Obligations.SprigLocalScratch := by
  unfold Obligations.SprigLocalScratch
  intro c rd ra d s x a ha
  refine ⟨fun h => ?_, fun h => ⟨x.local a, fun u hu => Ctx.local_stored hu, ?_⟩⟩
  · refine sprig_leads_ctx (exec_spStl c rd ra d s) h ?_ ⟨fun _ => rfl, rfl⟩ (State.issues_active h)
    simp only [State.begun_ctx h]
    exact if_neg (Nat.not_lt.mpr ha)
  · refine sprig_leads_ctx (exec_spLdl c rd ra d s) h ?_ ⟨fun _ => rfl, rfl⟩ (State.issues_active h)
    simp only [State.begun_ctx h]
    exact if_neg (Nat.not_lt.mpr ha)

end Sys2Proof.Machine
end

section
/-! PROOF. The words of a bed's memories and the context window (R197, R204, R228): O10. -/

namespace Sys2Proof.Machine

open Sys2Proof.Cert

/-! ### The words of a bed's memories (R197, R198) -/

theorem bedA_not_counting (b o : Nat) : ¬ counting (bedA b o) := by
  unfold counting bedA invA srcA curA; omega

theorem State.half_congr {s t : State} {a w : Nat} (h : t.rd (a + w / 2 * 4) = s.rd (a + w / 2 * 4)) :
    t.half a w = s.half a w := by
  rw [State.half, State.half, State.fld_congr h, State.fld_congr h]

theorem State.rd_setHalf_ne (s : State) {a w q : Nat} (v : Half) (h : q ≠ a + w / 2 * 4) :
    (s.setHalf a w v).rd q = s.rd q := by
  unfold State.setHalf
  split <;> exact s.rd_setFld_ne _ _ _ h

theorem State.half_setHalf_same (s : State) (a w : Nat) (v : Half) : (s.setHalf a w v).half a w = v := by
  have hv : BitVec.ofNat 16 (v.toNat % 2 ^ 16) = v :=
    by rw [Nat.mod_eq_of_lt v.isLt, BitVec.ofNat_toNat, BitVec.setWidth_eq]
  rw [State.half, State.setHalf]
  split
  · rw [State.fld_setFld_same _ _ (by omega) (by omega)]
    exact hv
  · rw [State.fld_setFld_same _ _ (by omega) (by omega)]
    exact hv

/-- The other words stay, also the other half of the register. -/
theorem State.half_setHalf_ne (s : State) {a w j : Nat} (v : Half) (h : j ≠ w) :
    (s.setHalf a w v).half a j = s.half a j := by
  by_cases hr : j / 2 = w / 2
  · rw [State.half, State.half, State.setHalf, hr]
    by_cases hw : w % 2 = 0
    · have hj : j % 2 ≠ 0 := by omega
      simp only [hw, hj, if_true, if_false]
      rw [State.fld_setFld_above _ _ (by omega) (by omega) (by omega)]
    · have hj : j % 2 = 0 := by omega
      simp only [hw, hj, if_true, if_false]
      rw [State.fld_setFld_below _ _ (by omega) (by omega) (by omega)]
  · exact State.half_congr (s.rd_setHalf_ne v (by omega))

theorem State.Alters.setHalf {P : Nat → Prop} {ps : List Part} {s t : State} {a w : Nat} (h : s.Alters P ps t)
    (ha : P (a + w / 2 * 4)) (v : Half) : s.Alters P ps (t.setHalf a w v) := by
  unfold State.setHalf
  split <;> exact h.setFld ha _ _ _

theorem State.Alters.noteStore {P : Nat → Prop} {ps : List Part} {s t : State} (h : s.Alters P ps t) (hp : .cycles ∈ ps)
    (b a : Nat) (v : Half) : s.Alters P ps (t.noteStore b a v) := h.setCycle hp _ _

@[simp] theorem State.bed_noteStore (s : State) (b a : Nat) (v : Half) (j : Nat) :
    (s.noteStore b a v).bed j = s.bed j := by rfl
@[simp] theorem State.ctx_noteStore (s : State) (b a : Nat) (v : Half) (j : Nat) :
    (s.noteStore b a v).ctx j = s.ctx j := by rfl
@[simp] theorem State.half_noteStore (s : State) (b a : Nat) (v : Half) (q w : Nat) :
    (s.noteStore b a v).half q w = s.half q w := by rfl
@[simp] theorem State.engines_noteStore (s : State) (b a : Nat) (v : Half) :
    (s.noteStore b a v).engines = s.engines := by rfl

/-- A store is noted in its own bed. -/
theorem State.noteStore_cycle_ne (s : State) {b a j : Nat} (v : Half) (h : j ≠ b) :
    (s.noteStore b a v).cycle j = s.cycle j :=
  Tab.get_set_ne _ _ _ _ h

theorem State.begun_half {c : CtxId} {i : Instr} {s : State} (h : s.issues c i = true) (b o w : Nat) :
    (s.begun c i).half (bedA b o) w = s.half (bedA b o) w :=
  State.half_congr ((State.begun_alters h).regs _ (by unfold bedA counting invA srcA curA; omega))

theorem State.setHalf_quiet (s : State) (a w : Nat) (v : Half) : s.Quiet (s.setHalf a w v) := by
  unfold State.setHalf
  split <;> exact s.setFld_quiet _ _ _ _

/-! ### A word of the context window stored (R204, R228) -/

section
variable (s : State) (b c : Nat) {i : Nat} (v : Half)

/-- The registers of `setCtxWord`: the word's, and the state of the context. -/
theorem State.setCtxWord_regs : (s.setCtxWord b c i v).regs =
    ((s.setHalf (bedA b 0x80000) (512 * c + i) v).setBit (bedA b (0x1600 + 4 * c)) 1 true).regs := by rfl

theorem State.half_of_regs {s t : State} (h : t.regs = s.regs) (a w : Nat) : t.half a w = s.half a w :=
  State.half_congr (State.rd_congr h _)

theorem State.half_setBit_ne {a w q : Nat} (n : Nat) (y : Bool) (h : a + w / 2 * 4 ≠ q) :
    (s.setBit q n y).half a w = s.half a w := State.half_congr (s.rd_setBit_ne n y h)

theorem State.setCtxWord_word (hc : c < 64) : (s.setCtxWord b c i v).ctxWord b (512 * c + i) = v := by
  rw [State.ctxWord, State.half_of_regs (s.setCtxWord_regs b c v), State.half_setBit_ne, State.half_setHalf_same]
  unfold bedA; omega

theorem State.setCtxWord_word_ne (hc : c < 64) {j : Nat} (h : j ≠ 512 * c + i) :
    (s.setCtxWord b c i v).ctxWord b j = s.ctxWord b j := by
  rw [State.ctxWord, State.half_of_regs (s.setCtxWord_regs b c v), State.half_setBit_ne, State.half_setHalf_ne _ _ h,
    State.ctxWord]
  unfold bedA; omega

theorem State.bit_of_regs {s t : State} (h : t.regs = s.regs) (a n : Nat) : t.bit a n = s.bit a n :=
  State.bit_congr (State.rd_congr h a) n

theorem State.setCtxWord_dirtyBit : (s.setCtxWord b c i v).bit (bedA b (0x1600 + 4 * c)) 1 = true := by
  rw [State.bit_of_regs (s.setCtxWord_regs b c v), State.bit_setBit_same _ _ (by omega)]

/-- Besides its line in the table of the bed, the word and the bit of CTX_STATE alone change. -/
theorem State.setCtxWord_quiet :
    s.Quiet ((s.setHalf (bedA b 0x80000) (512 * c + i) v).setBit (bedA b (0x1600 + 4 * c)) 1 true) :=
  (s.setHalf_quiet _ _ _).trans (State.setBit_quiet _ _ _ _)

theorem State.setCtxWord_engines : (s.setCtxWord b c i v).engines = s.engines := (s.setCtxWord_quiet b c v).engines
theorem State.setCtxWord_cycles : (s.setCtxWord b c i v).cycles = s.cycles := (s.setCtxWord_quiet b c v).cycles

theorem State.setCtxWord_bed : (s.setCtxWord b c i v).bed b =
    { s.bed b with dirty := Tab.set (s.bed b).dirty 0 c (Nat.lor (Tab.get (s.bed b).dirty 0 c) (2 ^ (i / 32))) } := by
  rw [State.setCtxWord, State.bed_setBed_same]
  rw [State.bed_congr (s.setCtxWord_quiet b c (i := i) v).beds]

theorem State.setCtxWord_bed_ne {j : Nat} (h : j ≠ b) : (s.setCtxWord b c i v).bed j = s.bed j := by
  rw [State.setCtxWord, State.bed_setBed_ne _ _ h]
  exact State.bed_congr (s.setCtxWord_quiet b c v).beds j

end

theorem State.Alters.setCtxWord {P : Nat → Prop} {ps : List Part} {s t : State} (h : s.Alters P ps t) (hp : .beds ∈ ps)
    {b c i : Nat} (hw : P (bedA b 0x80000 + (512 * c + i) / 2 * 4)) (hs : P (bedA b (0x1600 + 4 * c))) (v : Half) :
    s.Alters P ps (t.setCtxWord b c i v) := ((h.setHalf hw v).setBit hs _ _).setBed hp _ _

section
variable {c : CtxId} {rd ra : BitVec 4} {d : BitVec 3} {s : State} {x : Ctx} {k a : Nat}

/-- A load from the context window (R228). -/
theorem spLdc_leads (h : s.issues c (.spLdc c rd ra d) = true) (hx : s.ctx (keyOf c) = x) (hk : x.bound = some k)
    (hx' : x.plainAddr ra d.toNat = a) (ha : a ≤ 511) :
    leads (.spLdc c rd ra d) c s (past (x.setReg rd (s.ctxWord c.bed.val (512 * k + a))) 1) := by
  subst hx
  refine sprig_leads_ctx (exec_spLdc c rd ra d s) h ?_ ⟨fun _ => rfl, rfl⟩ (State.issues_active h)
  simp only [State.begun_ctx h, Ctx.counted_bound, hk, Ctx.counted_plainAddr, hx', if_neg (Nat.not_lt.mpr ha),
    State.ctxWord,
    State.begun_half h]
  rfl

/-- A store to the context window (R228, R242): the word before it is noted, the word stored, its line dirty,
PC past. -/
theorem exec_spStc_next (h : s.issues c (.spStc c rd ra d) = true) (hx : s.ctx (keyOf c) = x) (hk : x.bound = some k)
    (hx' : x.plainAddr ra d.toNat = a) (ha : a ≤ 511) :
    let u := s.begun c (.spStc c rd ra d)
    exec (.spStc c rd ra d) s = .next (s.ended c (.spStc c rd ra d)
      (((u.noteStore c.bed.val (0x10000 + 512 * k + a) (u.ctxWord c.bed.val (512 * k + a))).setCtxWord c.bed.val k a
        (x.reg rd)).setCtx (keyOf c) (x.counted.next 1))) := by
  subst hx
  refine (exec_spStc c rd ra d s).trans ((sprig_next _ h).trans ?_)
  simp only [State.begun_ctx h, Ctx.counted_bound, hk, Ctx.counted_plainAddr, Ctx.counted_reg, hx',
    if_neg (Nat.not_lt.mpr ha)]

end

/-- A line mask holds the line that is added to it. -/
theorem testBit_lor_self (x m : Nat) : (Nat.lor x (2 ^ m)).testBit m = true := by
  show (x ||| 2 ^ m).testBit m = true
  simp

theorem State.setCtxWord_ctx {s : State} {b c i : Nat} (v : Half) (k : Nat) : (s.setCtxWord b c i v).ctx k = s.ctx k :=
  State.ctx_congr (s.setCtxWord_quiet b c v).ctxs k

theorem State.setCtxWord_cycle {s : State} {b c i : Nat} (v : Half) (j : Nat) :
    (s.setCtxWord b c i v).cycle j = s.cycle j := by
  rw [State.cycle, State.cycle, State.setCtxWord_cycles]

/-- Settles O10: the effect of STC is put together from its updates. -/
theorem sprigContextWindow : Obligations.SprigContextWindow := by
  unfold Obligations.SprigContextWindow
  intro c rd ra d s k x b a w hk hk64 ha
  have hx : s.ctx (keyOf c) = x := rfl
  have hx' : x.plainAddr ra d.toNat = a := rfl
  have hw : w = 512 * k + a := rfl
  clear_value w a x
  subst hw
  refine ⟨fun h => spLdc_leads h hx hk hx' ha, fun h => ⟨_, exec_spStc_next h hx hk hx' ha, ?_⟩⟩
  let P := fun r => counting r ∨ r = bedA b (0x80000 + (512 * k + a) / 2 * 4) ∨ r = bedA b (0x1600 + 4 * k)
  have hP : ∀ r, counting r → P r := fun _ => .inl
  have hz := (((State.Alters.refl P [.now, .engines, .cycles, .ctxs, .beds] (s.begun c (.spStc c rd ra d))).noteStore
    (by simp) b
    (0x10000 + 512 * k + a) ((s.begun c (.spStc c rd ra d)).ctxWord b (512 * k + a))).setCtxWord (by simp) (b := b)
      (c := k) (i := a)
    (.inr (.inl (by unfold bedA; omega))) (.inr (.inr rfl)) (x.reg rd)).setCtx (by simp) (keyOf c) (x.counted.next 1)
  simp only [State.ended_ctx, State.ended_bed, State.ended_bit, State.bed_setCtx, State.bit_setCtx,
    State.ended_ctxWord, State.ctxWord_setCtx, State.ctx_setCtx_same]
  refine ⟨⟨fun _ => rfl, rfl⟩, State.setCtxWord_word _ b k _ hk64, ?_, State.setCtxWord_dirtyBit _ b k _, ?_, ?_,
    (ended_alters h hP hz).regs, ?_, ?_, ?_⟩
  · intro v _ hv
    rw [State.setCtxWord_word_ne _ b k _ hk64 hv]
    simp only [State.ctxWord, State.half_noteStore, State.begun_half h]
  · rw [State.setCtxWord_bed, Tab.get_set_same, testBit_lor_self]
  · intro j hj
    rw [State.setCtxWord_bed, Tab.get_set_ne _ _ _ _ hj, State.bed_noteStore, State.begun_bed h]
  · refine ended_issueKeeps h hP hz (State.setCtxWord_engines _ b k _) fun j hj => ?_
    rw [State.cycle_setCtx, State.setCtxWord_cycle, State.noteStore_cycle_ne _ _ hj]
  · intro j hj
    rw [State.ctx_setCtx_ne _ _ hj, State.setCtxWord_ctx, State.ctx_noteStore, State.begun_ctx_ne h hj]
  · intro j hj
    rw [State.setCtxWord_bed_ne _ b k _ hj, State.bed_noteStore, State.begun_bed h]

end Sys2Proof.Machine
end

section
/-! PROOF. Loads from the bed address space (R198, R240, R242): O11. -/

namespace Sys2Proof.Machine

open Sys2Proof.Cert

theorem exec_spLdb (c : CtxId) (rd ra page : BitVec 4) (disp : BitVec 12) (s : State) :
    exec (.spLdb c rd ra page disp) s = execSpLdb c rd ra page disp s := rfl
theorem exec_spStb (c : CtxId) (rd ra page : BitVec 4) (disp : BitVec 12) (s : State) :
    exec (.spStb c rd ra page disp) s = execSpStb c rd ra page disp s := rfl

/-! ### What a load from the bed address space sees (R198, R242) -/

theorem State.begun_now {c : CtxId} {i : Instr} {s : State} {n : Nat} (h : s.issues c i = true)
    (hn : s.issueCycle c i = some n) :
    (s.begun c i).now = n := Option.some.inj ((State.begun_slot h).clock.symm.trans hn)

/-- The cycle of a bed once a slot of it is taken: what it held before its stores stays from an instruction of the
same cycle. -/
theorem State.tookSlot_cycle (r : State) (c : CtxId) (i : Instr) :
    ((r.tookSlot c i).cycle c.bed.val).upTo = r.now + 1 ∧ ((r.tookSlot c i).cycle c.bed.val).before =
      if (r.cycle c.bed.val).upTo = r.now + 1 then (r.cycle c.bed.val).before else [] := by
  have hc : (r.tookSlot c i).cycle c.bed.val = Tab.get (r.tookSlot c i).cycles Cycle.init c.bed.val := rfl
  rw [hc, State.tookSlot]
  simp only [State.setCycle, State.setCycles, Tab.get_set_same]
  split <;> simp [*, Cycle.init]

/-- In the cycle of its issue a load sees what a word held before the stores of that cycle (R242). -/
theorem State.begun_seen {c : CtxId} {i : Instr} {s : State} {n : Nat} (h : s.issues c i = true)
    (hn : s.issueCycle c i = some n)
    (a : Nat) (v : Half) : (s.begun c i).seen c.bed.val a v =
      if (s.cycle c.bed.val).upTo = n + 1 then (Tab.get (s.cycle c.bed.val).before none a).getD v else v := by
  obtain ⟨q, hq, -, -, e⟩ := State.atIssue_eq hn
  let r := ((s.atIssue c i).bedEv c 2).bedEv c (if yieldsSlot i then 4 else 3)
  have hr : (q.setNow n).Quiet r := e ▸ (State.bedEv_quiet _ c 2).trans (State.bedEv_quiet _ c _)
  have hrn : r.now = n := hr.now
  have hrc : r.cycle c.bed.val = s.cycle c.bed.val := by
    rw [State.cycle, State.cycle, hr.cycles]
    exact congrArg (Tab.get · Cycle.init c.bed.val) hq.cycles
  obtain ⟨hu, hb⟩ := r.tookSlot_cycle c i
  rw [hrn] at hu
  rw [hrn, hrc] at hb
  have hcyc : (s.begun c i).cycle c.bed.val = (r.tookSlot c i).cycle c.bed.val := rfl
  rw [State.seen, hcyc, State.begun_now h hn, if_pos hu, hb]
  split <;> rfl


/-! ### The regions of the bed address space (R198) -/

theorem bedPlace_shared {a : Nat} (h : a < 0x10000) : bedPlace a = .shared a := if_pos h

theorem bedPlace_context {a : Nat} (h : 0x10000 ≤ a) (h' : a < 0x18000) : bedPlace a = .context (a - 0x10000) := by
  rw [bedPlace, if_neg (by omega), if_pos h']

theorem bedPlace_program {a : Nat} (h : 0x20000 ≤ a) (h' : a < 0x28000) : bedPlace a = .program (a - 0x20000) := by
  rw [bedPlace, if_neg (by omega), if_neg (by omega), if_pos ⟨h, h'⟩]

theorem bedPlace_sem {k : Nat} (h : k < 64) : bedPlace (0x30040 + k) = .sem k := by
  simp only [bedPlace]
  repeat rw [if_neg (by omega)]
  rw [if_pos (by omega), Nat.add_sub_cancel_left]

theorem bedPlace_timer {a : Nat} (h : 0x30800 ≤ a) (h' : a < 0x31000) :
    bedPlace a = .timer ((a - 0x30800) / 4) ((a - 0x30800) % 4) := by
  simp only [bedPlace]
  repeat rw [if_neg (by omega)]
  rw [if_pos ⟨h, h'⟩]

theorem bedPlace_window {a : Nat} (h : 0x40000 ≤ a) (h' : a < 0x40800) : bedPlace a = .window (a - 0x40000) := by
  simp only [bedPlace]
  repeat rw [if_neg (by omega)]
  rw [if_pos ⟨h, h'⟩]

theorem bedPlace_unassigned {a : Nat} (h : 0x40800 ≤ a ∨ 0x18000 ≤ a ∧ a < 0x20000 ∨ 0x28000 ≤ a ∧ a < 0x30000) :
    bedPlace a = .unassigned := by
  simp only [bedPlace]
  repeat rw [if_neg (by omega)]

/-! ### A register-window access counted (R319) -/

theorem State.winEv_quiet (s : State) (c : CtxId) (a odd : Nat) : s.Quiet (s.winEv c a odd) := by
  unfold State.winEv
  split
  · split
    · exact s.bedEv_quiet c 11
    · exact .refl s
  · exact .refl s

theorem State.rd_winEv_ne (s : State) (c : CtxId) (a odd : Nat) {q : Nat} (h : ¬ countReg q) :
    (s.winEv c a odd).rd q = s.rd q := by
  unfold State.winEv
  split
  · split
    · exact s.rd_bedEv_ne c 11 h
    · rfl
  · rfl

theorem State.winEv_uncounted (s : State) (c : CtxId) (a odd : Nat) (h : ∀ n, s.cntOn n = false) :
    s.winEv c a odd = s := by
  unfold State.winEv
  split
  · split
    · exact s.bedEv_uncounted c 11 h
    · rfl
  · rfl

section
variable {c : CtxId} {rd ra page : BitVec 4} {disp : BitVec 12} {s : State} {x y y' : Ctx} {a n : Nat}

/-- The state in which a load from the bed address space has its effect. -/
def ldbBase (s : State) (c : CtxId) (i : Instr) (a : Nat) (x : Ctx) : State :=
  ((s.begun c i).winEv c a 0).setCtx (keyOf c) (x.counted.next 2)

/-- A load that REG_WIN does not refuse, and whose effect is a new context. -/
theorem spLdb_leads (h : s.issues c (.spLdb c rd ra page disp) = true) (hx : s.ctx (keyOf c) = x)
    (ha : x.bedAddr ra page disp = a)
    (hp : ((s.begun c (.spLdb c rd ra page disp)).winEv c a 0).winRefusesLoad c a = false)
    (hl : (ldbBase s c (.spLdb c rd ra page disp) a x).bedLoad c rd a =
      (ldbBase s c (.spLdb c rd ra page disp) a x).setCtx (keyOf c) y')
    (hy : sameCtx y' y) (hact : y.active = true) : leads (.spLdb c rd ra page disp) c s y := by
  have hxa : x.active = true := hx ▸ State.issues_active h
  refine sprig_leads (u := (s.begun c (.spLdb c rd ra page disp)).winEv c a 0) (exec_spLdb c rd ra page disp s) h ?_
    (State.winEv_quiet _ _ _ _) (fun _ => State.rd_winEv_ne _ _ _ _) (State.winEv_uncounted _ _ _ _) hy hact
  simp only [State.begun_ctx h, hx, Ctx.counted_bedAddr, ha, hp]
  refine hl.trans ?_
  rw [ldbBase, State.setCtx_setCtx _ _ (show (x.counted.next 2).active = true from hxa)
    (by rw [sameCtx_active hy, hact])]

/-- A load that writes rd with `v`. -/
theorem spLdb_gives {v : Half} (h : s.issues c (.spLdb c rd ra page disp) = true) (hx : s.ctx (keyOf c) = x)
    (ha : x.bedAddr ra page disp = a)
    (hp : ((s.begun c (.spLdb c rd ra page disp)).winEv c a 0).winRefusesLoad c a = false)
    (hl : (ldbBase s c (.spLdb c rd ra page disp) a x).bedLoad c rd a =
      (ldbBase s c (.spLdb c rd ra page disp) a x).setCtx (keyOf c)
      (((ldbBase s c (.spLdb c rd ra page disp) a x).ctx (keyOf c)).setReg rd v)) :
    leads (.spLdb c rd ra page disp) c s (past (x.setReg rd v) 2) := by
  refine spLdb_leads h hx ha hp hl ?_ (hx ▸ State.issues_active h)
  rw [ldbBase, State.ctx_setCtx_same]
  exact ⟨fun _ => rfl, rfl⟩

/-! What that state holds. -/

section
variable {i : Instr}

@[simp] theorem ldbBase_ctx : (ldbBase s c i a x).ctx (keyOf c) = x.counted.next 2 := State.ctx_setCtx_same _ _ _

theorem ldbBase_bed (h : s.issues c i = true) (b : Nat) : (ldbBase s c i a x).bed b = s.bed b := by
  rw [ldbBase, State.bed_setCtx, State.bed_congr (State.winEv_quiet _ c a 0).beds, State.begun_bed h]

theorem ldbBase_rd (h : s.issues c i = true) (b o : Nat) : (ldbBase s c i a x).rd (bedA b o) = s.rd (bedA b o) := by
  rw [ldbBase, State.rd_setCtx, State.rd_winEv_ne _ _ _ _ fun e => bedA_not_counting b o (countReg_counting e)]
  exact (State.begun_alters h).regs _ (bedA_not_counting b o)

theorem ldbBase_half (h : s.issues c i = true) (b o w : Nat) :
    (ldbBase s c i a x).half (bedA b o) w = s.half (bedA b o) w := by
  have hr := ldbBase_rd (x := x) (a := a) h b (o + w / 2 * 4)
  rw [show bedA b (o + w / 2 * 4) = bedA b o + w / 2 * 4 by unfold bedA; omega] at hr
  exact State.half_congr hr

theorem ldbBase_seen (h : s.issues c i = true) (hn : s.issueCycle c i = some n) (q : Nat) (v : Half) :
    (ldbBase s c i a x).seen c.bed.val q v =
      if (s.cycle c.bed.val).upTo = n + 1 then (Tab.get (s.cycle c.bed.val).before none q).getD v else v := by
  have hq := (s.begun c i).winEv_quiet c a 0
  rw [← State.begun_seen h hn, State.seen, State.seen, ldbBase, State.cycle_setCtx, State.cycle, hq.cycles, State.cycle]
  exact congrArg (fun m => if _ = m + 1 then _ else v) hq.now

end

end

/-! ### A load by its region -/

/-- Only the addresses from 0x40000 to 0x407FF lie in the register window. -/
theorem bedPlace_not_window {a : Nat} (h : a < 0x40000 ∨ 0x40800 ≤ a) (w : Nat) : bedPlace a ≠ .window w := by
  unfold bedPlace
  repeat' split
  all_goals first | omega | nofun

section
variable (t : State) (c : CtxId) (rd : BitVec 4) {a : Nat}

/-- A load that writes rd with `v` and does nothing else. -/
def State.gives (v : Half) : State := t.setCtx (keyOf c) ((t.ctx (keyOf c)).setReg rd v)

theorem bedLoad_shared (h : a < 0x10000) :
    t.bedLoad c rd a = t.gives c rd (t.seen c.bed.val a (t.sharedWord c.bed.val a)) := by
  rw [State.bedLoad, bedPlace_shared h]; rfl

theorem bedLoad_context (h : 0x10000 ≤ a) (h' : a < 0x18000) :
    t.bedLoad c rd a = t.gives c rd (t.seen c.bed.val a (t.ctxWord c.bed.val (a - 0x10000))) := by
  rw [State.bedLoad, bedPlace_context h h']; rfl

theorem bedLoad_program (h : 0x20000 ≤ a) (h' : a < 0x28000) :
    t.bedLoad c rd a = t.gives c rd (t.progWord c.bed.val (a - 0x20000)) := by
  rw [State.bedLoad, bedPlace_program h h']; rfl

theorem bedLoad_usecLo : t.bedLoad c rd 0x30000 = t.setCtx (keyOf c)
    ({ t.ctx (keyOf c) with usecLatch := BitVec.ofNat 16 (t.bedUsec c.bed.val / 65536) }.setReg rd
      (BitVec.ofNat 16 (t.bedUsec c.bed.val))) := by
  rw [State.bedLoad, show bedPlace 0x30000 = .usecLo from rfl]

theorem bedLoad_usecHi : t.bedLoad c rd 0x30001 = t.gives c rd (t.ctx (keyOf c)).usecLatch := by
  rw [State.bedLoad, show bedPlace 0x30001 = .usecHi from rfl, State.gives]

theorem bedLoad_ident : t.bedLoad c rd 0x30002 =
    t.gives c rd (BitVec.ofNat 16 (t.lbed c.bed.val + 16 * c.eng.val + 4096 * c.ctx.val)) := by
  rw [State.bedLoad, show bedPlace 0x30002 = .ident from rfl, State.gives, Nat.mul_comm 16, Nat.mul_comm 4096]

theorem bedLoad_pageLo : t.bedLoad c rd 0x30010 = t.gives c rd (BitVec.ofNat 16 (t.ctx (keyOf c)).page.toNat) := by
  rw [State.bedLoad, show bedPlace 0x30010 = .pageLo from rfl, State.gives, BitVec.ofNat_toNat]

theorem bedLoad_timer (h : 0x30800 ≤ a) (h' : a < 0x31000) : t.bedLoad c rd a =
    t.gives c rd (t.seen c.bed.val a (((t.bed c.bed.val).timer ((a - 0x30800) / 4)).word ((a - 0x30800) % 4))) := by
  rw [State.bedLoad, bedPlace_timer h h']; rfl

theorem bedLoad_window_odd (h : 0x40000 ≤ a) (h' : a < 0x40800) (ho : a % 2 = 1) :
    t.bedLoad c rd a = t.gives c rd (t.ctx (keyOf c)).winLatch := by
  rw [State.bedLoad, bedPlace_window h h']
  exact if_pos (by omega)

theorem bedLoad_window_even (h : 0x40000 ≤ a) (h' : a < 0x40800) (he : a % 2 = 0) : t.bedLoad c rd a =
    t.setCtx (keyOf c)
      { t.ctx (keyOf c) with wait := .winRead (winAddr (t.ctx (keyOf c)).page (a - 0x40000)) rd.toNat } := by
  rw [State.bedLoad, bedPlace_window h h']
  exact if_neg (by omega)

theorem bedLoad_unassigned (h : 0x40800 ≤ a ∨ 0x18000 ≤ a ∧ a < 0x20000 ∨ 0x28000 ≤ a ∧ a < 0x30000) :
    t.bedLoad c rd a = t.gives c rd 0 := by
  rw [State.bedLoad, bedPlace_unassigned h]; rfl

/-- REG_WIN refuses no load outside the window. -/
theorem winRefusesLoad_outside (h : a < 0x40000 ∨ 0x40800 ≤ a) : t.winRefusesLoad c a = false := by
  unfold State.winRefusesLoad
  split
  · exact absurd ‹_› (bedPlace_not_window h _)
  · rfl

theorem winRefusesLoad_odd (h : 0x40000 ≤ a) (h' : a < 0x40800) (ho : a % 2 = 1) : t.winRefusesLoad c a = false := by
  simp only [State.winRefusesLoad, bedPlace_window h h', show (a - 0x40000) % 2 = 1 by omega]
  rfl

theorem winRefusesLoad_even (h : 0x40000 ≤ a) (h' : a < 0x40800)
    (hp : t.winPermits c.bed.val (winAddr (t.ctx (keyOf c)).page (a - 0x40000)) = true) :
      t.winRefusesLoad c a = false := by
  simp only [State.winRefusesLoad, bedPlace_window h h', hp, Bool.not_true, Bool.and_false]

end

section
variable {c : CtxId} {rd ra page : BitVec 4} {disp : BitVec 12} {s : State} {x : Ctx} {a n : Nat}

theorem ldbBase_bedUsec {i : Instr} (h : s.issues c i = true) (hn : s.issueCycle c i = some n) (b : Nat) :
    (ldbBase s c i a x).bedUsec b = (n - (s.bed b).startedAt) / 1000 := by
  rw [State.bedUsec, ldbBase_bed h]
  exact congrArg (fun m => (m - _) / 1000) (((s.begun c i).winEv_quiet c a 0).now.trans (State.begun_now h hn))

theorem ldbBase_lbed {i : Instr} (h : s.issues c i = true) (b : Nat) : (ldbBase s c i a x).lbed b = s.lbed b :=
  State.fld_congr (ldbBase_rd h b _) _ _

theorem winEv_winPermits {i : Instr} (h : s.issues c i = true) (b q : Nat) :
    ((s.begun c i).winEv c a 0).winPermits b q = s.winPermits b q :=
  State.bit_congr (((s.begun c i).rd_winEv_ne c a 0 fun e => bedA_not_counting b _ (countReg_counting e)).trans
    ((State.begun_alters h).regs _ (bedA_not_counting b _))) _

theorem winEv_ctx {i : Instr} (h : s.issues c i = true) :
    ((s.begun c i).winEv c a 0).ctx (keyOf c) = (s.ctx (keyOf c)).counted := by
  rw [State.ctx_congr ((s.begun c i).winEv_quiet c a 0).ctxs, State.begun_ctx h]

/-- A load outside the window that writes rd with `v`. -/
theorem spLdb_outside {v : Half} (h : s.issues c (.spLdb c rd ra page disp) = true) (hx : s.ctx (keyOf c) = x)
    (ha : x.bedAddr ra page disp = a) (hw : a < 0x40000 ∨ 0x40800 ≤ a)
    (hl : (ldbBase s c (.spLdb c rd ra page disp) a x).bedLoad c rd a =
      (ldbBase s c (.spLdb c rd ra page disp) a x).gives c rd v) :
    leads (.spLdb c rd ra page disp) c s (past (x.setReg rd v) 2) :=
  spLdb_gives h hx ha (winRefusesLoad_outside _ _ hw) hl

end

/-- Settles O11: by the region of the address. -/
theorem sprigBedLoads : Obligations.SprigBedLoads := by
  unfold Obligations.SprigBedLoads
  intro c rd ra page disp s x b i a gives n h hn seen usec
  have hx : s.ctx (keyOf c) = x := rfl
  have ha : x.bedAddr ra page disp = a := rfl
  have hact : x.active = true := hx ▸ State.issues_active h
  have hs : ∀ v, (ldbBase s c i a x).seen b a v = seen v := ldbBase_seen h hn a
  have hu : (ldbBase s c i a x).bedUsec b = usec := ldbBase_bedUsec h hn b
  clear_value x a seen usec
  refine ⟨fun h1 => ?shared, fun h1 h2 => ?context, fun h1 h2 => ?program, fun h1 => ?usecLo, fun h1 => ?usecHi,
    fun h1 => ?ident,
    fun h1 => ?page, fun h1 h2 h3 => ?timer, fun h1 h2 h3 => ?odd, fun h1 h2 h3 h4 => ?even, fun h1 => ?unassigned⟩
  case shared =>
    refine spLdb_outside h hx ha (by omega) ((bedLoad_shared _ c rd h1).trans (congrArg _ ?_))
    rw [hs, State.sharedWord, ldbBase_half h, State.sharedWord]
  case context =>
    refine spLdb_outside h hx ha (by omega) ((bedLoad_context _ c rd h1 h2).trans (congrArg _ ?_))
    rw [hs, State.ctxWord, ldbBase_half h, State.ctxWord]
  case program =>
    refine spLdb_outside h hx ha (by omega) ((bedLoad_program _ c rd h1 h2).trans (congrArg _ ?_))
    rw [State.progWord, ldbBase_half h, State.progWord]
  case usecLo =>
    subst h1
    refine spLdb_leads h hx ha (winRefusesLoad_outside _ _ (by omega)) (bedLoad_usecLo _ c rd) ?_ hact
    rw [hu, ldbBase_ctx]
    exact ⟨fun _ => rfl, rfl⟩
  case usecHi =>
    subst h1
    refine spLdb_outside h hx ha (by omega) ((bedLoad_usecHi _ c rd).trans (congrArg _ ?_))
    rw [ldbBase_ctx]
    rfl
  case ident =>
    subst h1
    refine spLdb_outside h hx ha (by omega) ((bedLoad_ident _ c rd).trans (congrArg _ ?_))
    rw [ldbBase_lbed h]
  case page =>
    subst h1
    refine spLdb_outside h hx ha (by omega) ((bedLoad_pageLo _ c rd).trans (congrArg _ ?_))
    rw [ldbBase_ctx]
    rfl
  case timer =>
    refine spLdb_outside h hx ha (by omega) ((bedLoad_timer _ c rd h1 h2).trans (congrArg _ ?_))
    rw [hs, ldbBase_bed h, h3]
    rfl
  case odd =>
    refine spLdb_gives h hx ha (winRefusesLoad_odd _ c h1 h2 h3)
      ((bedLoad_window_odd _ c rd h1 h2 h3).trans (congrArg (State.gives _ c rd) ?_))
    rw [ldbBase_ctx]
    rfl
  case even =>
    refine spLdb_leads h hx ha (winRefusesLoad_even _ c h1 h2 ?_) (bedLoad_window_even _ c rd h1 h2 h3) ?_ hact
    · rw [winEv_winPermits h, winEv_ctx h, hx]
      exact h4
    · rw [ldbBase_ctx]
      exact ⟨fun _ => rfl, rfl⟩
  case unassigned => exact spLdb_outside h hx ha (by omega) (bedLoad_unassigned _ c rd h1)

end Sys2Proof.Machine
end

section
/-! PROOF. Stores to the bed address space (R198, R201, R210, R240): O13. -/

namespace Sys2Proof.Machine

open Sys2Proof.Cert

/-! ### A store by its region -/

section
variable (t : State) (c : CtxId) (v : Half) {a : Nat}

/-- PC past a store. -/
def State.stepped : State := t.setCtx (keyOf c) ((t.ctx (keyOf c)).next 2)

theorem bedStore_shared (h : a < 0x10000) : t.bedStore c v a =
    ((t.noteStore c.bed.val a (t.sharedWord c.bed.val a)).setHalf (bedA c.bed.val 0x60000) a v).stepped c := by
  rw [State.bedStore, bedPlace_shared h]; rfl

theorem bedStore_pageLo : t.bedStore c v 0x30010 =
    (t.setCtx (keyOf c) { t.ctx (keyOf c) with page := v.setWidth 14 }).stepped c := by
  rw [State.bedStore, show bedPlace 0x30010 = .pageLo from rfl]; rfl

theorem bedStore_pageHi : t.bedStore c v 0x30011 = t.stepped c := by
  rw [State.bedStore, show bedPlace 0x30011 = .pageHi from rfl]; rfl

theorem bedStore_sem {k : Nat} (h : k < 64) : t.bedStore c v (0x30040 + k) =
    (t.setBed c.bed.val { t.bed c.bed.val with sems := Tab.set (t.bed c.bed.val).sems 0 k 0 }).stepped c := by
  rw [State.bedStore, bedPlace_sem h]; rfl

/-- A timer whose armed deadline has not come does not fire (R210). -/
theorem timerFire_early {b k : Nat}
    (h : ∀ e, (Tab.get (t.bed b).timers Timer.init k).armed = some e → t.timerDue b e.1 = false) :
      t.timerFire b k = t := by
  unfold State.timerFire
  dsimp only
  split
  · rfl
  · next dl w2 arg he => rw [if_neg (by simp [h _ he])]

/-- A bed with word `i` of timer `k` stored. -/
def Bed.storeTimer (y : Bed) (k i : Nat) (v : Half) : Bed :=
  { y with timers := Tab.set y.timers Timer.init k ((y.timer k).store i v) }

/-- A store to a timer that is not due. -/
theorem bedStore_timer (h : 0x30800 ≤ a) (h' : a < 0x31000) {k : Nat} (hk : (a - 0x30800) / 4 = k)
    (hd : ∀ e, (Tab.get (t.bed c.bed.val).timers Timer.init k).armed = some e → t.timerDue c.bed.val e.1 = false) :
    t.bedStore c v a = ((t.noteStore c.bed.val a (((t.bed c.bed.val).timer k).word ((a - 0x30800) % 4))).setBed
      c.bed.val
      ((t.bed c.bed.val).storeTimer k ((a - 0x30800) % 4) v)).stepped c := by
  subst hk
  rw [State.bedStore, bedPlace_timer h h']
  dsimp only
  rw [timerFire_early]
  · rfl
  · exact hd

theorem bedStore_window_even (h : 0x40000 ≤ a) (h' : a < 0x40800) (he : a % 2 = 0) : t.bedStore c v a =
    (t.setCtx (keyOf c) { t.ctx (keyOf c) with winBuf := v }).stepped c := by
  rw [State.bedStore, bedPlace_window h h']
  exact if_pos (by omega)

theorem bedStore_window_odd {r : Nat} (h : 0x40000 ≤ a) (h' : a < 0x40800) (ho : a % 2 = 1)
    (hr : winAddr (t.ctx (keyOf c)).page (a - 0x40000) = r) (hp : t.winPermits c.bed.val r = true)
      (hg : guarded r = false) :
    t.bedStore c v a = (t.setCtx (keyOf c) { t.ctx (keyOf c) with
      winWrites := (t.ctx (keyOf c)).winWrites ++ [(r, v ++ (t.ctx (keyOf c)).winBuf)] }).stepped c := by
  rw [State.bedStore, bedPlace_window h h']
  refine (if_neg (by omega)).trans ?_
  rw [hr, hp, hg]
  rfl

end

/-- Word 2 of a timer keeps bits 15 and 7 to 0 (R210). -/
theorem word2_stored (v : Half) : v &&& 0x80FF = BitVec.ofNat 16 (v.toNat % 256 + v.toNat / 32768 * 32768) := by
  have he : v.toNat % 256 + v.toNat / 32768 * 32768 = (v.toNat >>> 15) <<< 15 ||| v.toNat % 2 ^ 8 := by
    rw [← Nat.shiftLeft_add_eq_or_of_lt (by omega), Nat.shiftLeft_eq, Nat.shiftRight_eq_div_pow]
    omega
  have hm : ∀ i < 16, (0x80FF : Half).getLsbD i = (decide (15 ≤ i) || decide (i < 8)) := by decide
  refine BitVec.eq_of_getLsbD_eq fun i hi => ?_
  rw [he, BitVec.getLsbD_and, BitVec.getLsbD_ofNat, hm i hi, Nat.testBit_or, Nat.testBit_shiftLeft,
    Nat.testBit_shiftRight, Nat.testBit_mod_two_pow, BitVec.getLsbD]
  by_cases h : 15 ≤ i
  · obtain rfl : i = 15 := by omega
    simp
  · simp [h, hi, Bool.and_comm]

theorem append_eq_ofNat (v w : Half) : v ++ w = BitVec.ofNat 32 (v.toNat * 65536 + w.toNat) := by
  refine BitVec.eq_of_toNat_eq ?_
  have := v.isLt
  have := w.isLt
  rw [BitVec.toNat_append, BitVec.toNat_ofNat, ← Nat.shiftLeft_add_eq_or_of_lt (by omega), Nat.shiftLeft_eq]
  omega

section
variable {c : CtxId} {rd ra page : BitVec 4} {disp : BitVec 12} {i : Instr} {s : State} {x y : Ctx} {a n : Nat}

/-- The state in which a store to the bed address space has its effect. -/
def stbBase (s : State) (c : CtxId) (i : Instr) (a : Nat) : State := (s.begun c i).winEv c a 1

theorem stbBase_quiet : (s.begun c i).Quiet (stbBase s c i a) := State.winEv_quiet _ c a 1

theorem stbBase_alters (ps : List Part) : (s.begun c i).Alters counting ps (stbBase s c i a) :=
  (State.Alters.refl _ _ _).quiet stbBase_quiet fun _ hq => State.rd_winEv_ne _ c a 1 fun e => hq (countReg_counting e)

theorem stbBase_ctx (h : s.issues c i = true) (hx : s.ctx (keyOf c) = x) :
    (stbBase s c i a).ctx (keyOf c) = x.counted := by
  rw [State.ctx_congr stbBase_quiet.ctxs, State.begun_ctx h, hx]

theorem stbBase_bed (h : s.issues c i = true) (b : Nat) : (stbBase s c i a).bed b = s.bed b := by
  rw [State.bed_congr stbBase_quiet.beds, State.begun_bed h]

theorem stbBase_rd (h : s.issues c i = true) (b o : Nat) : (stbBase s c i a).rd (bedA b o) = s.rd (bedA b o) :=
  ((stbBase_alters []).regs _ (bedA_not_counting b o)).trans ((State.begun_alters h).regs _ (bedA_not_counting b o))

theorem stbBase_half (h : s.issues c i = true) (b o w : Nat) :
    (stbBase s c i a).half (bedA b o) w = s.half (bedA b o) w := by
  have hr := stbBase_rd (a := a) h b (o + w / 2 * 4)
  rw [show bedA b (o + w / 2 * 4) = bedA b o + w / 2 * 4 by unfold bedA; omega] at hr
  exact State.half_congr hr

theorem stbBase_now (h : s.issues c i = true) (hn : s.issueCycle c i = some n) : (stbBase s c i a).now = n :=
  stbBase_quiet.now.trans (State.begun_now h hn)

theorem stbBase_engines : (stbBase s c i a).engines = (s.begun c i).engines := stbBase_quiet.engines
theorem stbBase_cycle (j : Nat) : (stbBase s c i a).cycle j = (s.begun c i).cycle j := by
  rw [State.cycle, State.cycle, stbBase_quiet.cycles]

/-- A store to the bed address space issues and has its effect. -/
theorem exec_spStb_next (h : s.issues c (.spStb c rd ra page disp) = true) (hx : s.ctx (keyOf c) = x)
    (ha : x.bedAddr ra page disp = a) : exec (.spStb c rd ra page disp) s =
      .next (s.ended c (.spStb c rd ra page disp)
        ((stbBase s c (.spStb c rd ra page disp) a).bedStore c (x.reg rd) a)) := by
  rw [exec_spStb, execSpStb, sprig_next _ h]
  dsimp only
  rw [State.begun_ctx h, hx, Ctx.counted_bedAddr, Ctx.counted_reg, ha, stbBase]

/-- A store whose effect is a new context. -/
theorem spStb_leads {y' : Ctx} (h : s.issues c (.spStb c rd ra page disp) = true) (hx : s.ctx (keyOf c) = x)
    (ha : x.bedAddr ra page disp = a)
    (hs : (stbBase s c (.spStb c rd ra page disp) a).bedStore c (x.reg rd) a =
      (stbBase s c (.spStb c rd ra page disp) a).setCtx (keyOf c) y')
    (hy : sameCtx y' y) (hact : y.active = true) : leads (.spStb c rd ra page disp) c s y := by
  refine sprig_leads (u := stbBase s c (.spStb c rd ra page disp) a) (exec_spStb c rd ra page disp s) h ?_ stbBase_quiet
    (fun _ => State.rd_winEv_ne _ _ _ _) (State.winEv_uncounted _ _ _ _) hy hact
  rw [← hs]
  dsimp only
  rw [State.begun_ctx h, hx, Ctx.counted_bedAddr, Ctx.counted_reg, ha, stbBase]

theorem State.setCtx_stepped (t : State) (c : CtxId) {z : Ctx} (hz : z.active = true) :
    (t.setCtx (keyOf c) z).stepped c = t.setCtx (keyOf c) (z.next 2) := by
  rw [State.stepped, State.ctx_setCtx_same, State.setCtx_setCtx _ _ hz (by exact hz)]

end

/-- Settles O13: by the region of the address. -/
theorem sprigBedStores : Obligations.SprigBedStores := by
  unfold Obligations.SprigBedStores
  intro c rd ra page disp s x b v i a r n h hn
  have hx : s.ctx (keyOf c) = x := rfl
  have ha : x.bedAddr ra page disp = a := rfl
  have hact : x.counted.active = true := hx ▸ State.issues_active h
  have hr : winAddr x.page (a - 0x40000) = r := rfl
  have hv : v = x.reg rd := rfl
  have hc := stbBase_ctx (a := a) h hx
  clear_value x a r v
  subst hv
  refine ⟨fun h1 => ⟨_, exec_spStb_next h hx ha, ?shared⟩, fun h1 => ?page, fun h1 => ?pageHi,
    fun h1 h2 h3 => ⟨_, exec_spStb_next h hx ha, ?timer⟩, fun h1 h2 h3 => ?even, fun h1 h2 h3 h4 h5 => ?odd⟩
  case page =>
    subst h1
    refine spStb_leads h hx ha ?_ (y' := { x.counted with page := (x.reg rd).setWidth 14 }.next 2) ?_ hact
    · rw [bedStore_pageLo, hc, State.setCtx_stepped _ _ (by exact hact)]
    · rw [BitVec.ofNat_toNat]
      exact ⟨fun _ => rfl, rfl⟩
  case pageHi =>
    subst h1
    refine spStb_leads h hx ha ?_ (y' := x.counted.next 2) ⟨fun _ => rfl, rfl⟩ hact
    rw [bedStore_pageHi, State.stepped, hc]
  case even =>
    refine spStb_leads h hx ha ?_ (y' := { x.counted with winBuf := x.reg rd }.next 2) ⟨fun _ => rfl, rfl⟩ hact
    rw [bedStore_window_even _ _ _ h1 h2 h3, hc, State.setCtx_stepped _ _ (by exact hact)]
  case odd =>
    refine spStb_leads h hx ha ?_
      (y' := { x.counted with winWrites := x.winWrites ++ [(r, x.reg rd ++ x.winBuf)] }.next 2) ?_ hact
    · rw [bedStore_window_odd (r := r) _ _ _ h1 h2 h3 (by rw [hc]; exact hr) ?_ h5, hc,
        State.setCtx_stepped _ _ (by exact hact)]
      · rfl
      · rw [State.winPermits, State.bit_congr (stbBase_rd h b _)]
        exact h4
    · rw [append_eq_ofNat]
      exact ⟨fun _ => rfl, rfl⟩
  case shared =>
    rw [bedStore_shared _ c _ h1]
    let P := fun q => counting q ∨ q = bedA b (0x60000 + a / 2 * 4)
    let u := stbBase s c i a
    have hu : (s.begun c i).Alters P [.now, .engines, .cycles, .ctxs] u :=
      (stbBase_alters _).mono (fun _ => .inl) fun _ => id
    have hz := ((hu.noteStore (by simp) b a (u.sharedWord b a)).setHalf (a := bedA b 0x60000) (w := a)
      (.inr (by unfold bedA; omega)) (x.reg rd)).setCtx (by simp) (keyOf c) (x.counted.next 2)
    have hq := ((u.noteStore b a (u.sharedWord b a)).setHalf_quiet (bedA b 0x60000) a (x.reg rd))
    rw [State.stepped, State.ctx_congr hq.ctxs, State.ctx_noteStore, hc]
    refine ⟨?_, ?_, fun w hw hne => ?_, (ended_alters h (fun _ => .inl) hz).regs,
      ended_issueKeeps h (fun _ => .inl) hz ?_ ?_⟩
    · rw [State.ended_ctx, State.ctx_setCtx_same]
      exact ⟨fun _ => rfl, rfl⟩
    · exact State.half_setHalf_same _ _ _ _
    · rw [State.ended_sharedWord, State.sharedWord_setCtx, State.sharedWord, State.half_setHalf_ne _ _ hne,
        State.half_noteStore,
        stbBase_half h, State.sharedWord]
    · exact hq.engines.trans stbBase_engines
    · intro j hj
      rw [State.cycle_setCtx, State.cycle, hq.cycles]
      exact (State.noteStore_cycle_ne _ _ hj).trans (stbBase_cycle j)
  case timer =>
    let k := (a - 0x30800) / 4
    have hd : ∀ e, (Tab.get ((stbBase s c i a).bed b).timers Timer.init k).armed = some e →
        (stbBase s c i a).timerDue b e.1 = false := fun e he => by
      rw [stbBase_bed h] at he
      have := h3 e he
      rw [State.timerDue, State.bedUsec] at this ⊢
      rw [stbBase_bed h, stbBase_now h hn]
      exact this
    rw [bedStore_timer _ c _ h1 h2 rfl hd, stbBase_bed h, State.stepped, State.ctx_setBed, State.ctx_noteStore, hc]
    have hu : (s.begun c i).Alters counting [.now, .engines, .cycles, .ctxs, .beds] (stbBase s c i a) :=
      stbBase_alters _
    have hz := ((hu.noteStore (by simp) b a
      (((s.bed b).timer k).word ((a - 0x30800) % 4))).setBed (by simp) b
      ((s.bed b).storeTimer k ((a - 0x30800) % 4) (x.reg rd))).setCtx (by simp) (keyOf c) (x.counted.next 2)
    have hi : (a - 0x30800) % 4 = a % 4 := by omega
    have hb : c.bed.val = b := rfl
    refine ⟨?_, ?_, ?_, ?_, ?_, fun j hj => ?_, (ended_alters h (fun _ => id) hz).regs,
      ended_issueKeeps h (fun _ => id) hz ?_ fun j hj => ?_⟩
    · rw [State.ended_ctx, State.ctx_setCtx_same]
      exact ⟨fun _ => rfl, rfl⟩
    case refine_7 => rw [State.engines_setCtx, State.engines_setBed, State.engines_noteStore, stbBase_engines]
    case refine_8 => rw [State.cycle_setCtx, State.cycle_setBed, State.noteStore_cycle_ne _ _ hj, stbBase_cycle]
    all_goals simp only [hb, State.ended_bed, State.bed_setCtx, State.bed_setBed_same, Bed.storeTimer, hi]
    case refine_6 => exact Tab.get_set_ne _ _ _ _ hj
    all_goals
      intro h4
      rw [Tab.get_set_same, h4]
    case refine_4 => rw [← word2_stored]; rfl
    all_goals rfl

end Sys2Proof.Machine
end

section
/-! PROOF. POST (R209): O18. -/

namespace Sys2Proof.Machine

open Sys2Proof.Cert

theorem exec_spPost (c : CtxId) (ra rb : BitVec 4) (s : State) : exec (.spPost c ra rb) s = execSpPost c ra rb s := rfl

/-! ### Registers of a bed, its events and its reports -/

theorem blockOf_bed {b o : Nat} (hb : b < 16) (ho : o < 0x100000) : blockOf (bedA b o) = some (.bed, b, bedA b 0) := by
  rw [blockOf, regions]
  simp only [regionIn]
  unfold bedA
  repeat rw [if_neg (by omega)]
  rw [if_pos (by omega)]
  simp only [Option.some.injEq, Prod.mk.injEq, true_and]
  omega

theorem bedA_not_report (src b o : Nat) (hs : src < 1024) : ¬ reportReg src (bedA b o) := by
  unfold reportReg bedA srcA curA; omega

/-- An event of a bed sets a bit of BED_EVENTS and of SUMMARY. -/
theorem State.Alters.bedEvent {P : Nat → Prop} {ps : List Part} {s t : State} {b o : Nat} (h : s.Alters P ps t)
    (hb : b < 16)
    (ho : o < 0x100000) (he : P (bedA b o)) (hs : P (bedA b 8)) (n : Nat) : s.Alters P ps (t.event (bedA b o) n) :=
  h.event he (fun k i base e => by
    rw [blockOf_bed hb ho] at e
    obtain ⟨-, -, rfl⟩ := e
    exact hs) n

theorem State.Alters.enqueue {P : Nat → Prop} {ps : List Part} {s t : State} {b : Nat} (h : s.Alters P ps t)
    (hp : .beds ∈ ps)
    (hq : P (bedA b 0x15C)) (e : Ev) : s.Alters P ps (t.enqueue b e) := by
  unfold State.enqueue
  exact (h.setBed hp b _).iteThen ((State.Alters.refl P ps _).setFld hq _ _ _)

/-- An event joins the end of its bed's queue; QUEUE_HWM alone may follow. -/
theorem State.enqueue_bed (t : State) (b j : Nat) (e : Ev) :
    (t.enqueue b e).bed j = (t.setBed b { t.bed b with evq := (t.bed b).evq ++ [e] }).bed j := by
  unfold State.enqueue
  dsimp only
  split
  · exact State.bed_congr (State.setFld_quiet _ _ _ _ _).beds j
  · rfl

/-- The queue, besides the bed's table and QUEUE_HWM, leaves everything. -/
theorem State.enqueue_other (t : State) (b : Nat) (e : Ev) :
    (t.enqueue b e).engines = t.engines ∧ (t.enqueue b e).cycles = t.cycles ∧ (t.enqueue b e).ctxs = t.ctxs := by
  unfold State.enqueue
  dsimp only
  split
  · have := State.setFld_quiet (t.setBed b { t.bed b with evq := (t.bed b).evq ++ [e] }) (bedA b 0x15C) 10 0
      ((t.bed b).evq.length + 1)
    exact ⟨this.engines, this.cycles, this.ctxs⟩
  · exact ⟨rfl, rfl, rfl⟩

/-- What the registers of the beds say of roles and logical numbers decides which bed runs under a number. -/
theorem State.byLbed_congr {t u : State} (h : ∀ b, u.rd (bedA b 0x104) = t.rd (bedA b 0x104)) (l : Nat) :
    u.byLbed l = t.byLbed l := by
  have hr : ∀ b, u.role b = t.role b := fun b => State.fld_congr (h b) _ _
  have hl : ∀ b, u.lbed b = t.lbed b := fun b => State.fld_congr (h b) _ _
  simp only [State.byLbed, hr, hl]

/-! ### POST delivered and refused -/

/-- A POST refused is counted, an event of the sender's bed, and reported (R209). -/
def State.refusePost (t : State) (b detail : Nat) : State :=
  ((t.inc (bedA b 0x148)).event (bedA b 0x108) 5).raiseLim 1 0 (640 + b) 0x28 false detail

section
variable {t : State} {b lb kind : Nat} {arg : Half}

theorem State.post_delivers {tb : Nat} (h : t.byLbed lb = some tb) (hr : (t.bed tb).evq.length < 1024) :
    t.post b lb kind arg =
      (true, t.enqueue tb { Ev.init with kind := kind, arg := arg, sender := BitVec.ofNat 16 (t.lbed b) }) := by
  rw [State.post, h]
  exact if_neg (by rw [State.queueFull, decide_eq_true_iff]; omega)

theorem State.post_refused (h : ∀ tb, t.byLbed lb = some tb → 1024 ≤ (t.bed tb).evq.length) :
    t.post b lb kind arg = (false, t.refusePost b (kind + lb * 256)) := by
  rw [State.post]
  split
  · rfl
  · next tb e => exact if_pos (by rw [State.queueFull, decide_eq_true_iff]; exact h tb e)

theorem State.refusePost_quiet (b n : Nat) : t.Quiet (t.refusePost b n) :=
  ((t.inc_quiet _).trans (State.event_quiet _ _ _)).trans (State.raiseLim_quiet _ _ _ _ _ _ _)

/-- The count of refused POSTs is one more. -/
theorem State.refusePost_count (hb : b < 16) (n : Nat) :
    (t.refusePost b n).nat (bedA b 0x148) = (t.nat (bedA b 0x148) + 1) % 2 ^ 32 := by
  rw [State.refusePost, State.nat_congr (State.rd_raiseLim_ne _ _ _ _ _ _ (bedA_not_report (640 + b) b _ (by omega))),
    State.nat_congr (State.rd_event_ne _ _ (by unfold bedA; omega) ?_), State.nat_inc_same]
  intro k i base e
  rw [blockOf_bed hb (by omega)] at e
  obtain ⟨-, -, rfl⟩ := e
  unfold bedA; omega

end

section
variable {c : CtxId} {ra rb : BitVec 4} {s v : State} {x : Ctx} {ok : Bool}

/-- A POST of a kind from 0x40 with no window write outstanding. -/
theorem exec_spPost_next (h : s.issues c (.spPost c ra rb) = true) (hx : s.ctx (keyOf c) = x) (hw : x.winWrites = [])
    (hk : 0x40 ≤ (x.reg rb).toNat % 256)
    (hp : ((s.begun c (.spPost c ra rb)).bedEv c 12).post c.bed.val ((x.reg rb).toNat / 256 % 16)
      ((x.reg rb).toNat % 256)
      (x.reg ra) = (ok, v)) :
    exec (.spPost c ra rb) s = .next (s.ended c (.spPost c ra rb)
      (v.setCtx (keyOf c) ((x.counted.flagC (!ok)).next 1))) := by
  rw [exec_spPost, execSpPost, ordered_next _ (hx ▸ hw) h]
  simp only [State.begun_ctx h, hx, Ctx.counted_reg, if_neg (Nat.not_lt.mpr hk), hp]

end

/-- Settles O18: the queue of the bed that runs under the number has room, or not. -/
theorem sprigPost : Obligations.SprigPost := by
  unfold Obligations.SprigPost
  intro c ra rb s x kind lb ev h hw hk
  have hx : s.ctx (keyOf c) = x := rfl
  let u := (s.begun c (.spPost c ra rb)).bedEv c 12
  have hq : (s.begun c (.spPost c ra rb)).Quiet u := State.bedEv_quiet _ c 12
  have hu (ps : List Part) : (s.begun c (.spPost c ra rb)).Alters counting ps u :=
    (State.Alters.refl _ _ _).bedEv (fun _ => id) c 12
  have hrd : ∀ b o, u.rd (bedA b o) = s.rd (bedA b o) := fun b o =>
    ((hu []).regs _ (bedA_not_counting b o)).trans ((State.begun_alters h).regs _ (bedA_not_counting b o))
  have hbed : ∀ j, u.bed j = s.bed j := fun j => ((hu []).bed (by simp) j).trans (State.begun_bed h j)
  have hlb : u.byLbed lb = s.byLbed lb := State.byLbed_congr (fun b => hrd b _) lb
  have hev : { Ev.init with kind := kind, arg := x.reg ra, sender := BitVec.ofNat 16 (u.lbed c.bed.val) } = ev := by
    rw [show u.lbed c.bed.val = s.lbed c.bed.val from State.fld_congr (hrd _ _) _ _]
    rfl
  clear_value x
  refine ⟨fun tb htb hroom => ?_, fun hfull => ?_⟩
  · have hp := State.post_delivers (t := u) (b := c.bed.val) (kind := kind) (arg := x.reg ra) (hlb.trans htb)
      (by rwa [hbed])
    rw [hev] at hp
    refine ⟨_, exec_spPost_next h hx hw hk hp, ?_⟩
    have hz := (((hu [.now, .engines, .cycles, .ctxs, .beds]).mono (Q := fun r => counting r ∨ r = bedA tb 0x15C)
      (fun _ => .inl) (fun _ => id)).enqueue (by simp) (.inr rfl) ev).setCtx (by simp) (keyOf c)
        ((x.counted.flagC false).next 1)
    obtain ⟨he, hc, -⟩ := u.enqueue_other tb ev
    refine ⟨?_, ?_, fun j hj => ?_, (ended_alters h (fun _ => .inl) hz).regs,
      ended_issueKeeps h (fun _ => .inl) hz ?_ fun j _ => ?_⟩
    · rw [State.ended_ctx, State.ctx_setCtx_same]
      exact ⟨fun _ => rfl, rfl⟩
    · rw [State.ended_bed, State.bed_setCtx, State.enqueue_bed, State.bed_setBed_same, hbed]
    · rw [State.ended_bed, State.bed_setCtx, State.enqueue_bed, State.bed_setBed_ne _ _ hj, hbed]
    · rw [State.engines_setCtx, he, hq.engines]
    · rw [State.cycle_setCtx, State.cycle, hc, hq.cycles, State.cycle]
  · have hp := State.post_refused (t := u) (b := c.bed.val) (kind := kind) (arg := x.reg ra) (lb := lb) fun tb htb => by
      rw [hbed]
      exact hfull tb (hlb ▸ htb)
    refine ⟨_, exec_spPost_next h hx hw hk hp, ?_⟩
    have hr := u.refusePost_quiet c.bed.val (kind + lb * 256)
    have hz := (((State.Alters.refl (fun _ => True) [.now, .engines, .cycles, .ctxs]
      (s.begun c (.spPost c ra rb))).quiet hq
      fun _ hn => absurd trivial hn).quiet hr fun _ hn => absurd trivial hn).setCtx (by simp) (keyOf c)
      ((x.counted.flagC true).next 1)
    refine ⟨?_, ?_, ended_issueKeeps h (fun _ _ => trivial) hz ?_ fun j _ => ?_⟩
    · rw [State.ended_ctx, State.ctx_setCtx_same]
      exact ⟨fun _ => rfl, rfl⟩
    · rw [State.ended_nat, State.nat_setCtx, State.refusePost_count c.bed.isLt, State.nat_congr (hrd _ _)]
    · rw [State.engines_setCtx, hr.engines, hq.engines]
    · rw [State.cycle_setCtx, State.cycle, hr.cycles, hq.cycles, State.cycle]

end Sys2Proof.Machine
end

section
/-! PROOF. Far memory (R197, R240, R371): O22. -/

namespace Sys2Proof.Machine

open Sys2Proof.Cert

theorem exec_spLdf (c : CtxId) (rd ra : BitVec 4) (d : Half) (s : State) :
    exec (.spLdf c rd ra d) s = execSpLdf c rd ra d s := rfl
theorem exec_spStf (c : CtxId) (rd ra : BitVec 4) (d : Half) (s : State) :
    exec (.spStf c rd ra d) s = execSpStf c rd ra d s := rfl
theorem exec_farAccessComplete (c : CtxId) (s : State) :
    exec (.farAccessComplete c) s = execFarAccessComplete c s := rfl

/-! ### The state that a command leaves -/

/-- The effect `u` of a command, with the clock and the queue as they were. -/
def State.closed (s u : State) : State := ((u.setNow s.now).setPending s.pending).setSumCycle []

section
variable (s u : State)

@[simp] theorem State.closed_regs : (s.closed u).regs = u.regs := by rfl
@[simp] theorem State.closed_rd (a : Nat) : (s.closed u).rd a = u.rd a := by rfl
@[simp] theorem State.closed_nat (a : Nat) : (s.closed u).nat a = u.nat a := by rfl
@[simp] theorem State.closed_fld (a hi lo : Nat) : (s.closed u).fld a hi lo = u.fld a hi lo := by rfl
@[simp] theorem State.closed_bit (a n : Nat) : (s.closed u).bit a n = u.bit a n := by rfl
@[simp] theorem State.closed_role (b : Nat) : (s.closed u).role b = u.role b := by rfl
@[simp] theorem State.closed_lbed (b : Nat) : (s.closed u).lbed b = u.lbed b := by rfl
@[simp] theorem State.closed_ctx (k : Nat) : (s.closed u).ctx k = u.ctx k := by rfl
@[simp] theorem State.closed_bed (b : Nat) : (s.closed u).bed b = u.bed b := by rfl
@[simp] theorem State.closed_fur (F : Nat) : (s.closed u).fur F = u.fur F := by rfl
@[simp] theorem State.closed_qdr : (s.closed u).qdr = u.qdr := by rfl
@[simp] theorem State.closed_flash : (s.closed u).flash = u.flash := by rfl

end

theorem completes_closed {i : Instr} {s u : State} {P : State → Prop} (h : exec i s = done s u) (hp : P (s.closed u)) :
    completes i s P := completes_of_done h hp

/-! ### What an access to QDR alters besides the bytes it writes (R375, R376, R379) -/

/-- The registers of the controller of QDR, with what counting and reporting alter. -/
def qdrReg (a : Nat) : Prop := reporting a ∨ 0x3000000 ≤ a ∧ a < 0x3100000

theorem qdrReg_counting (a : Nat) (h : counting a) : qdrReg a := .inl (.inl h)

theorem qdrReg_report {d : Nat} (hd : d < 8) (a : Nat) (h : reportReg (656 + d) a) : qdrReg a :=
  .inl (reportReg_reporting (by omega) h)

theorem qdrReg_qdm {o : Nat} (h : o < 0x100000) : qdrReg (qdmA o) := .inr (by unfold qdmA; omega)

theorem blockOf_qdm {o : Nat} (h : o < 0x100000) : blockOf (qdmA o) = some (.qdm, 0, qdmA 0) := by
  rw [blockOf, regions]
  simp only [regionIn]
  unfold qdmA
  repeat rw [if_neg (by omega)]
  rw [if_pos (by omega)]
  simp only [Option.some.injEq, Prod.mk.injEq, true_and]
  omega

namespace State.Alters

variable {ps : List Part} {s t : State}

theorem qdmEvent (h : s.Alters qdrReg ps t) {o : Nat} (ho : o < 0x100000) (n : Nat) :
    s.Alters qdrReg ps (t.event (qdmA o) n) :=
  h.event (qdrReg_qdm ho) (fun k i base e => by
    rw [blockOf_qdm ho] at e
    obtain ⟨-, -, rfl⟩ := e
    exact qdrReg_qdm (o := 8) (by omega)) n

theorem tallyQdm (h : s.Alters qdrReg ps t) (d ev n : Nat) : s.Alters qdrReg ps (t.tallyQdm d ev n) :=
  h.quiet (t.tally_quiet _ _ _ _ _) fun _ ha =>
    t.rd_tally_ne _ _ _ (by omega) fun e => ha (qdrReg_counting _ (countReg_counting e))

theorem pinRead (h : s.Alters qdrReg ps t) (hp : .qdm ∈ ps) {d p pin : Nat} (hd : d < 8) (hpp : p ≤ 1) (hpin : pin < 36)
    (l : List Nat) : s.Alters qdrReg ps (t.pinRead d p l pin) := by
  have hr := qdrReg_report hd
  have he : qdrReg (devA d (0x08 + 8 * p + pin / 32 * 4)) := qdrReg_qdm (by omega)
  have hdd : qdrReg (devA d (0x18 + 8 * p + pin / 32 * 4)) := qdrReg_qdm (by omega)
  unfold State.pinRead
  dsimp only
  split
  · have h1 := fun x => (h.setBit he (pin % 32) true).setQdm hp x
    split
    · exact (((h1 _).setBit hdd _ _).qdmEvent (by omega) _).raise hr _ _ _
    · exact h1 _
  · have h1 := fun x => h.setQdm hp x
    split
    · split
      · exact (((h1 _).setQdm hp _).setBit hdd _ _).raise hr _ _ _
      · exact (h1 _).setQdm hp _
    · exact h1 _

theorem cwRead (h : s.Alters qdrReg ps t) (hp : .qdm ∈ ps) (cw : Nat) {p : Nat} (hpp : p ≤ 1) :
    s.Alters qdrReg ps (t.cwRead cw p) := by
  have hd : deviceOf cw < 8 := Nat.mod_lt _ (by omega)
  have hr := qdrReg_report hd
  have hdev : ∀ o, o < 0x100 → qdrReg (devA (deviceOf cw) o) := fun o ho => qdrReg_qdm (by omega)
  have hq : t.portOf (deviceOf cw) p ≤ 1 := by unfold State.portOf; split <;> omega
  unfold State.cwRead
  dsimp only
  have h1 := h.tallyQdm (deviceOf cw) 2 1
  split
  · exact ((((h1.tallyQdm _ 5 1).inc (hdev _ (by omega))).wrN (qdrReg_qdm (by omega)) _).qdmEvent (by omega)
      _).raiseLim hr
      _ _ _ _ _
  · have h2 := h1.trans (foldl (f := fun s pin => s.pinRead (deviceOf cw) (t.portOf (deviceOf cw) p)
      ((t.cwErrs cw).map (· / 2)) pin)
      (l := List.range 36) (refl qdrReg ps _) fun u pin hm => (refl qdrReg ps u).pinRead hp hd hq
        (List.mem_range.mp hm) _)
    split
    · exact h2
    · exact ((((h2.inc (hdev _ (by omega))).qdmEvent (by omega) _).tallyQdm _ _ _).setQdm hp _).raiseLim hr _ _ _ _ _

theorem cwWrite (h : s.Alters qdrReg ps t) (hp : .qdm ∈ ps) (hq : .qdr ∈ ps) {p : Nat} (hpp : p ≤ 1) (a : Nat)
    (bs : List Byte) :
    s.Alters qdrReg ps (t.cwWrite p a bs) := by
  unfold State.cwWrite
  dsimp only
  have h1 := h.cwRead hp (codewordOf a) hpp
  split
  · exact h1
  · exact ((h1.setQdm hp _).setQdr hq _).tallyQdm _ _ _

end State.Alters

theorem cwRead_alters (t : State) (cw : Nat) : t.Alters qdrReg [.qdm] (t.cwRead cw 0) :=
  (State.Alters.refl _ _ t).cwRead (by simp) cw (by omega)

/-- A partial write of a codeword that can be corrected writes its bytes and no others (R371, R375). -/
theorem State.cwWrite_qdr (t : State) {a : Nat} (bs : List Byte) (h : t.cwBad (codewordOf a) = false) :
    (t.cwWrite 0 a bs).qdr = Memory.writeAll qdrEmpty t.qdr a bs := by
  unfold State.cwWrite
  dsimp only
  have hq : (t.cwRead (codewordOf a) 0).qdr = t.qdr := (cwRead_alters t _).part (p := .qdr) (by simp)
  rw [if_neg (by simp [h]), State.tallyQdm, (State.tally_quiet _ _ _ _ _ _).qdr, State.qdrPut_qdr, State.setErrs_qdr,
    hq]

theorem State.cwBad_congr {t u : State} (hq : u.qdm = t.qdm) (hr : u.rd (qdmA 0x104) = t.rd (qdmA 0x104)) (cw : Nat) :
    u.cwBad cw = t.cwBad cw := by
  rw [State.cwBad, State.cwBad, State.cwErrs, State.cwErrs, hq, State.bit_congr hr]

theorem State.qdrUp_congr {t u : State} (ht : u.top = t.top) (hr : u.rd (qdmA 0x104) = t.rd (qdmA 0x104)) :
    u.qdrUp = t.qdrUp := by
  rw [State.qdrUp, State.qdrUp, ht, State.bit_congr hr]

theorem qdmA_not_counting (o : Nat) : ¬ counting (qdmA o) := by
  unfold counting qdmA invA srcA curA; omega

/-! ### Far memory (R197, R240) -/

section
variable {c : CtxId} {rd ra : BitVec 4} {d : Half} {s : State} {x : Ctx} {a : Nat}

/-- The state in which a far access has its effect: one more is counted. -/
def farBase (s : State) (c : CtxId) (i : Instr) : State := (s.begun c i).bedEv c 10

theorem farBase_alters (i : Instr) (ps : List Part) : (s.begun c i).Alters counting ps (farBase s c i) :=
  (State.Alters.refl _ _ _).bedEv (fun _ => id) c 10

theorem farBase_quiet (i : Instr) : (s.begun c i).Quiet (farBase s c i) := State.bedEv_quiet _ c 10

theorem farBase_rd {i : Instr} (h : s.issues c i = true) {q : Nat} (hq : ¬ counting q) :
    (farBase s c i).rd q = s.rd q :=
  ((farBase_alters i []).regs q hq).trans ((State.begun_alters h).regs q hq)

theorem farBase_part {i : Instr} (h : s.issues c i = true) {p : Part}
    (hp : p ∉ [.cur, .inv, .now, .engines, .cycles, .ctxs]) :
    p.same s (farBase s c i) := by
  have h1 := (State.begun_alters h).trans (farBase_alters i [.now, .engines, .cycles, .ctxs])
  exact h1.part (by simpa using hp)

theorem farBase_ctx {i : Instr} (h : s.issues c i = true) (hx : s.ctx (keyOf c) = x) :
    (farBase s c i).ctx (keyOf c) = x.counted := by
  rw [State.ctx_congr (farBase_quiet i).ctxs, State.begun_ctx h, hx]

/-- A far load waits at its instruction. -/
theorem spLdf_leads (h : s.issues c (.spLdf c rd ra d) = true) (hx : s.ctx (keyOf c) = x) (ha : x.farAddr ra d = a) :
    leads (.spLdf c rd ra d) c s { x with wait := .far a rd.toNat, issued := x.issued + 1 } := by
  refine sprig_leads (u := farBase s c (.spLdf c rd ra d)) (x := { x.counted with wait := .far a rd.toNat })
    (exec_spLdf c rd ra d s) h ?_ (farBase_quiet _) (fun _ => State.rd_bedEv_ne _ c 10) (State.bedEv_uncounted _ c 10)
    ⟨fun _ => rfl, rfl⟩ (hx ▸ State.issues_active h)
  have hc := farBase_ctx h hx
  rw [farBase] at hc
  dsimp only
  rw [hc, Ctx.counted_farAddr, ha, farBase]

/-- A far store inside the window, with QDR up, writes its codeword. -/
theorem exec_spStf_next (h : s.issues c (.spStf c rd ra d) = true) (hx : s.ctx (keyOf c) = x) (hw : x.winWrites = [])
    (ha : x.farAddr ra d = a) (hlo : s.fld (bedA c.bed.val 0x118) 25 0 ≤ a)
      (hhi : a ≤ s.fld (bedA c.bed.val 0x11C) 25 0)
    (hu : s.qdrUp = true) : exec (.spStf c rd ra d) s = .next (s.ended c (.spStf c rd ra d)
      (((farBase s c (.spStf c rd ra d)).cwWrite 0 (2 * a) (halfBytes (x.reg rd))).setCtx (keyOf c)
        (x.counted.next 2))) := by
  have hc := farBase_ctx h hx
  have h1 := State.fld_congr (farBase_rd h (bedA_not_counting c.bed.val 0x118)) 25 0
  have h2 := State.fld_congr (farBase_rd h (bedA_not_counting c.bed.val 0x11C)) 25 0
  have h3 := State.qdrUp_congr (farBase_part h (p := .top) (by simp)) (farBase_rd h (qdmA_not_counting 0x104))
  rw [farBase] at hc h1 h2 h3
  rw [exec_spStf, execSpStf, ordered_next _ (hx ▸ hw) h]
  dsimp only
  rw [hc, Ctx.counted_farAddr, ha, h1, h2, h3, if_pos ⟨hlo, hhi, hu⟩, Ctx.counted_reg, farBase]

end

theorem halfBytes_low (h : Half) : ((halfBytes h)[0]'(by simp [halfBytes])).toNat = h.toNat % 256 := by
  simp [halfBytes]

theorem halfBytes_high (h : Half) : ((halfBytes h)[1]'(by simp [halfBytes])).toNat = h.toNat / 256 := by
  have := h.isLt
  simp [halfBytes, Nat.shiftRight_eq_div_pow]
  omega

theorem farAddr_lt (x : Ctx) (ra : BitVec 4) (d : Half) : x.farAddr ra d < 2 ^ 26 := by
  have h0 := Int.emod_nonneg ((((x.reg ra).toNat % 1024 * 65536 + (x.reg (ra + 1)).toNat : Nat) : Int) + d.toInt)
    (show (2 ^ 26 : Int) ≠ 0 by norm_num)
  have h1 := Int.emod_lt_of_pos ((((x.reg ra).toNat % 1024 * 65536 + (x.reg (ra + 1)).toNat : Nat) : Int) + d.toInt)
    (show (0 : Int) < 2 ^ 26 by norm_num)
  rw [Ctx.farAddr]
  change (Int.toNat (_ % 2 ^ 26)) < _
  omega

theorem State.qdrByte_eq (t : State) {q : Nat} (h : q < 2 ^ 27) : t.qdrByte q = Memory.read qdrEmpty t.qdr q := by
  rw [State.qdrByte, qdrSize, Nat.mod_eq_of_lt h]

/-- The two bytes of a far word, written: these two read so, and every other as before (R371). -/
theorem qdrByte_farWrite {t s : State} {a : Nat} {v : Half} (ha : a < 2 ^ 26)
    (h : t.qdr = Memory.writeAll qdrEmpty s.qdr (2 * a) (halfBytes v)) :
    (t.qdrByte (2 * a)).toNat = v.toNat % 256 ∧ (t.qdrByte (2 * a + 1)).toNat = v.toNat / 256 ∧
      ∀ q, q < 2 ^ 27 → q ≠ 2 * a → q ≠ 2 * a + 1 → t.qdrByte q = s.qdrByte q := by
  refine ⟨?_, ?_, fun q hq h0 h1 => ?_⟩
  · rw [State.qdrByte_eq _ (by omega), h, ← halfBytes_low v]
    exact congrArg _ (Memory.read_writeAll_in qdrEmpty _ _ (2 * a) 0 (by simp [halfBytes]))
  · rw [State.qdrByte_eq _ (by omega), h, ← halfBytes_high v]
    exact congrArg _ (Memory.read_writeAll_in qdrEmpty _ _ (2 * a) 1 (by simp [halfBytes]))
  · rw [State.qdrByte_eq _ hq, State.qdrByte_eq _ hq, h, Memory.read_writeAll_out]
    rw [show (halfBytes v).length = 2 from rfl]
    omega

/-- Settles O22: what the counts of the issue leave of QDR, and the codeword written or read. -/
theorem sprigFarMemory : Obligations.SprigFarMemory := by
  unfold Obligations.SprigFarMemory
  intro c rd ra disp s x b a
  have hx : s.ctx (keyOf c) = x := rfl
  have ha : x.farAddr ra disp = a := rfl
  have hlt : a < 2 ^ 26 := ha ▸ farAddr_lt x ra disp
  clear_value x a
  refine ⟨fun h => spLdf_leads h hx ha, fun h hw hlo hhi hup hbad =>
    ⟨_, exec_spStf_next h hx hw ha hlo hhi hup, ?store⟩,
    fun w r hwait hrun hup hbad => ?load⟩
  case store =>
    let u := farBase s c (.spStf c rd ra disp)
    have hu : (s.begun c (.spStf c rd ra disp)).Alters qdrReg [.now, .engines, .cycles, .ctxs, .qdr, .qdm] u :=
      (farBase_alters _ _).mono qdrReg_counting fun _ => id
    have hw' := hu.cwWrite (p := 0) (by simp) (by simp) (by omega) (2 * a) (halfBytes (x.reg rd))
    have hz := hw'.setCtx (by simp) (keyOf c) (x.counted.next 2)
    have hbad' : u.cwBad (codewordOf (2 * a)) = false :=
      (State.cwBad_congr (farBase_part h (p := .qdm) (by simp)) (farBase_rd h (qdmA_not_counting 0x104)) _).trans hbad
    have hqdr := (u.cwWrite_qdr (halfBytes (x.reg rd)) hbad').trans
      (congrArg (Memory.writeAll qdrEmpty · (2 * a) _) (farBase_part h (p := .qdr) (by simp)))
    have hk : u.Alters qdrReg [.qdr, .qdm] (u.cwWrite 0 (2 * a) (halfBytes (x.reg rd))) :=
      (State.Alters.refl _ _ u).cwWrite (by simp) (by simp) (by omega) _ _
    obtain ⟨hb0, hb1, hb2⟩ := qdrByte_farWrite (t := s.ended c (.spStf c rd ra disp)
      ((u.cwWrite 0 (2 * a) (halfBytes (x.reg rd))).setCtx (keyOf c) (x.counted.next 2))) (s := s) (v := x.reg rd) hlt
      (by rw [State.ended_qdr, State.setCtx_qdr, hqdr])
    refine ⟨?_, hb0, hb1, hb2, (ended_alters h qdrReg_counting hz).regs,
      ended_issueKeeps h qdrReg_counting hz ?_ fun j _ => ?_⟩
    · rw [State.ended_ctx, State.ctx_setCtx_same]
      exact ⟨fun _ => rfl, rfl⟩
    · rw [State.engines_setCtx]
      exact (hk.part (p := .engines) (by simp)).trans (farBase_quiet _).engines
    · rw [State.cycle_setCtx, State.cycle]
      exact congrArg (Tab.get · Cycle.init j) ((hk.part (p := .cycles) (by simp)).trans (farBase_quiet _).cycles)
  case load =>
    have he : exec (.farAccessComplete c) s = done s ((s.cwRead (codewordOf (2 * w)) 0).setCtx (keyOf c)
        (({ x with wait := .none }.setReg (BitVec.ofNat 4 r) (s.farWord w)).next 2)) := by
      rw [exec_farAccessComplete, execFarAccessComplete]
      simp only [hx, hwait, hrun, hup, Bool.not_true, Bool.false_eq_true, if_false, if_true]
      rw [if_neg (by simp only [codewordOf, hbad]; simp)]
    have hz := (((State.Alters.refl qdrReg [.ctxs, .qdm] s).cwRead (by simp) (codewordOf (2 * w)) (p := 0)
      (by omega)).setCtx
      (by simp) (keyOf c) (({ x with wait := .none }.setReg (BitVec.ofNat 4 r) (s.farWord w)).next 2)).doneWith
    refine completes_closed he ⟨?_, hz.regs, hz.parts⟩
    rw [State.closed_ctx, State.ctx_setCtx_same]
    exact ⟨fun _ => rfl, rfl⟩

end Sys2Proof.Machine
end

section
/-! PROOF. Writes of plain registers, and what HIF reports (R201, R263 to R269, R282): O26. -/

namespace Sys2Proof.Machine

open Sys2Proof.Cert

theorem exec_registerWrite (o : Origin) (a : BitVec 26) (v : Word) (u : Option Word) (s : State) :
    exec (.registerWrite o a v u) s = execRegisterWrite o a v u s := rfl

/-! ### Plain registers -/

/-- The region found is one of the list, and begins at or below the address. -/
theorem regionIn_listed {a inst base : Nat} {k : Blk} {l : List (Blk × Nat × Nat × Nat)}
    (h : regionIn a l = some (k, inst, base)) :
    ∃ e ∈ l, e.1 = k ∧ e.2.1 ≤ a := by
  induction l with
  | nil => cases h
  | cons e rest ih =>
    rw [regionIn] at h
    split at h
    · next hc =>
      simp only [Option.some.injEq, Prod.mk.injEq] at h
      exact ⟨e, by simp, h.1, hc.1⟩
    · obtain ⟨e', he, hk⟩ := ih h
      exact ⟨e', by simp [he], hk⟩

/-- An address of a block above Inventory lies above Inventory. -/
theorem above_of_blockOf {a inst base : Nat} {k : Blk} (h : blockOf a = some (k, inst, base))
    (hk : k ≠ .top ∧ k ≠ .hif ∧ k ≠ .cur ∧ k ≠ .inv) : 0x40000 ≤ a := by
  obtain ⟨e, he, rfl, hle⟩ := regionIn_listed h
  have : ∀ e ∈ regions, e.1 ≠ .top ∧ e.1 ≠ .hif ∧ e.1 ≠ .cur ∧ e.1 ≠ .inv → 0x40000 ≤ e.2.1 := by decide
  exact le_trans (this e he hk) hle

theorem not_counting_above {a : Nat} (h : 0x40000 ≤ a) : ¬ counting a := by
  unfold counting invA srcA curA; omega

/-- A plain register lies above Inventory, and a write of its block stores its fields and does no more. -/
theorem plainBlock_writes {a : Nat} (h : plainBlock a) : 0x40000 ≤ a ∧ ∃ k inst base, blockOf a = some (k, inst, base) ∧
    ∀ (s : State) (o : Origin) (v : Word), s.blockWrite o k inst a (a - base) v = s.plainWrite o a v := by
  obtain ⟨inst, base, hc | ⟨hc | hc, hne⟩ | ⟨hc, hlt, hne⟩ | ⟨hc, h1, h2⟩⟩ := h
  · exact ⟨above_of_blockOf hc (by simp), _, _, _, hc, fun _ _ _ => rfl⟩
  · exact ⟨above_of_blockOf hc (by simp), _, _, _, hc, fun s o v => if_neg hne⟩
  · exact ⟨above_of_blockOf hc (by simp), _, _, _, hc, fun s o v => if_neg hne⟩
  · refine ⟨above_of_blockOf hc (by simp), _, _, _, hc, fun s o v => ?_⟩
    rw [State.blockWrite, State.qdmWrite, if_neg hne, if_neg (by omega)]
  · refine ⟨above_of_blockOf hc (by simp), _, _, _, hc, fun s o v => ?_⟩
    rw [State.blockWrite, State.bedWrite, if_neg h1, if_neg h2]

/-- A register of one RW field, outside the staged ones, of a plain block: a write stores the field. -/
structure Plain (a : Nat) (f : FieldRow) : Prop where
  block : plainBlock a
  fields : fieldsAt a = [f]
  rw : f.ty = .rw
  unstaged : stagedRow a = none

/-- The word that a register holds once `v` is written to its field `f` (R269). -/
def FieldRow.into (f : FieldRow) (v : Word) (old : Nat) : Nat :=
    putBits old f.hi f.lo (f.brought (bitsOf v.toNat f.hi f.lo))

theorem applyWrite_plain {a : Nat} {f : FieldRow} (h : Plain a f) (s : State) (o : Origin) (v : Word) :
    s.applyWrite o a v = s.wrN a (f.into v (s.nat a)) := by
  obtain ⟨-, k, inst, base, hb, hw⟩ := plainBlock_writes h.block
  have hk : holdsK a = false := by rw [holdsK, h.fields]; simp [h.rw]
  rw [State.applyWrite, hb]
  simp only [h.fields, h.unstaged, List.any_cons, List.any_nil, h.rw, List.isEmpty_cons]
  rw [if_neg (by decide), if_neg (by decide), if_neg (by decide), hw, State.plainWrite, hk, h.fields]
  simp only [writeFieldsOf, h.rw, FType.stores, Bool.true_or, if_true, FieldRow.into]
  rfl

/-- A register without fields ignores a write (R267). -/
theorem applyWrite_reserved {a : Nat} (h : fieldsAt a = []) (s : State) (o : Origin) (v : Word) :
    s.applyWrite o a v = s := by
  rw [State.applyWrite]
  split
  · rfl
  · simp [h]

/-! ### Faults that HIF reports (R282, R283) -/

/-- The registers of HIF, with what counting and reporting alter. -/
def hifReg (a : Nat) : Prop := reporting a ∨ 0x10000 ≤ a ∧ a < 0x20000

theorem hifReg_counting (a : Nat) (h : counting a) : hifReg a := .inl (.inl h)
theorem hifReg_hif {o : Nat} (h : o < 0x10000) : hifReg (hifA o) := .inr (by unfold hifA; omega)
theorem hifReg_report (a : Nat) (h : reportReg 64 a) : hifReg a := .inl (reportReg_reporting (by omega) h)

theorem hifA_not_counting {o : Nat} (h : o < 0x10000) : ¬ counting (hifA o) := by
  unfold counting hifA invA srcA curA; omega

theorem blockOf_hif {o : Nat} (h : o < 0x10000) : blockOf (hifA o) = some (.hif, 0, hifA 0) := by
  rw [blockOf, regions]
  simp only [regionIn]
  unfold hifA
  rw [if_neg (by omega), if_pos (by omega)]
  simp only [Option.some.injEq, Prod.mk.injEq, true_and]
  omega

theorem State.Alters.emit {P : Nat → Prop} {ps : List Part} {s t : State} (h : s.Alters P ps t) (hp : .outbox ∈ ps)
    (m : OutMsg) :
    s.Alters P ps (t.emit m) :=
  h.same hp (fun p hm => by cases p with | outbox => simp at hm | _ => rfl) rfl

theorem State.Alters.tallyHif {P : Nat → Prop} {ps : List Part} {s t : State} (h : s.Alters P ps t)
    (hP : ∀ a, counting a → P a)
    (ev n : Nat) : s.Alters P ps (t.tallyHif ev n) :=
  h.quiet (t.tallyHif_quiet _ _) fun _ ha => t.rd_tallyHif_ne _ _ fun e => ha (hP _ (countReg_counting e))

/-- Of the registers, vector 10 may set a pending bit. -/
theorem State.Alters.msix10 {P : Nat → Prop} {ps : List Part} {s t : State} (h : s.Alters P ps t) (hp : .outbox ∈ ps)
    (hP : ∀ a, counting a → P a) (hv : P (hifA 0x9000)) : s.Alters P ps (t.msix 10) := by
  unfold State.msix
  split
  · exact h
  · split
    · exact h.setBit hv _ _
    · exact (h.emit hp _).tallyHif hP _ _

theorem State.Alters.hifEvent {P : Nat → Prop} {ps : List Part} {s t : State} (h : s.Alters P ps t) (hp : .outbox ∈ ps)
    (hP : ∀ a, counting a → P a) (hv : P (hifA 0x9000)) (he : P (hifA 0x104)) (hs : P (hifA 8)) (b : Nat) :
    s.Alters P ps (t.hifEvent b) := by
  have h1 : s.Alters P ps (t.event (hifA 0x104) b) := h.event he (fun k i base e => by
    rw [blockOf_hif (by omega)] at e
    obtain ⟨-, -, rfl⟩ := e
    exact hs) b
  unfold State.hifEvent
  split
  · exact h1
  · exact h1.msix10 hp hP hv

/-- The event's bit of HIF_EVENTS is set. -/
theorem State.hifEvent_bit (t : State) {b : Nat} (hb : b < 24) : (t.hifEvent b).bit (hifA 0x104) b = true := by
  have h1 : (t.event (hifA 0x104) b).bit (hifA 0x104) b = true := (t.bit_event_same hb fun k i base e => by
    rw [blockOf_hif (by omega)] at e
    obtain ⟨-, -, rfl⟩ := e
    decide).1
  have h2 := (State.Alters.refl (· ≠ hifA 0x104) [.outbox] (t.event (hifA 0x104) b)).msix10 (by simp)
    (fun a ha e => hifA_not_counting (by omega) (e ▸ ha)) (by decide)
  unfold State.hifEvent
  split
  · exact h1
  · rw [h2.bit (by simp), h1]

theorem State.hifReport_alters (t : State) {k : Nat} (hk : k < 5) (d : Nat) :
    t.Alters hifReg [.outbox] (t.hifReport (0x80 + k) d) := by
  unfold State.hifReport
  dsimp only
  rw [Nat.add_sub_cancel_left]
  exact ((((((State.Alters.refl _ _ t).hifEvent (by simp) hifReg_counting (hifReg_hif (by omega))
    (hifReg_hif (by omega))
    (hifReg_hif (by omega)) k).inc (hifReg_hif (by omega))).wrN (hifReg_hif (by omega)) d).tallyHif hifReg_counting _
      _).raiseLim
    hifReg_report _ _ _ _ _)

/-- A report sets its event, adds to its count, and shows its detail in LAST_FAULT. -/
theorem State.hifReport_reported (t : State) {k d : Nat} (hk : k < 5) (hd : d < 2 ^ 32) :
    hifReported k d t (t.hifReport (0x80 + k) d) := by
  let w := ((t.hifEvent k).inc (hifA (0x10C + 4 * k))).wrN (hifA 0x120) d
  have hw : ∀ o, o < 0x10000 → (t.hifReport (0x80 + k) d).rd (hifA o) = w.rd (hifA o) := fun o ho => by
    have hc : ¬ countReg (hifA o) := fun e => hifA_not_counting ho (countReg_counting e)
    have hr : ¬ reportReg 64 (hifA o) := by unfold reportReg hifA srcA curA; omega
    rw [State.hifReport, Nat.add_sub_cancel_left, State.rd_raiseLim_ne _ _ _ _ _ _ hr, State.rd_tallyHif_ne _ _ _ hc]
  have he : (t.hifEvent k).rd (hifA (0x10C + 4 * k)) = t.rd (hifA (0x10C + 4 * k)) :=
    ((State.Alters.refl (· ≠ hifA (0x10C + 4 * k)) [.outbox] t).hifEvent (by simp)
      (fun a ha e => hifA_not_counting (by omega) (e ▸ ha)) (by unfold hifA; omega) (by unfold hifA; omega)
      (by unfold hifA; omega) k).regs _ (by simp)
  refine ⟨?_, ?_, ?_⟩
  · rw [State.bit_congr (hw _ (by omega)), State.bit_congr (State.rd_wrN_ne _ _ (by unfold hifA; omega)),
      State.bit_congr (State.rd_inc_ne _ (by unfold hifA; omega)), t.hifEvent_bit (by omega)]
  · rw [State.nat_congr (hw _ (by omega)), State.nat_congr (State.rd_wrN_ne _ _ (by unfold hifA; omega)),
      State.nat_inc_same, State.nat_congr he]
  · rw [State.nat_congr (hw _ (by omega)), State.nat_wrN_same, Nat.mod_eq_of_lt hd]

/-- The same of the state before an access was counted, and of the state that the command leaves. -/
theorem hifReported_counted {s u t s' : State} {k d : Nat} (hk : k < 5) (hu : regsBut counting s u)
    (h : hifReported k d u t) :
    hifReported k d s (s'.closed t) := by
  obtain ⟨h1, h2, h3⟩ := h
  refine ⟨h1, ?_, h3⟩
  rw [State.closed_nat, h2, State.nat_congr (hu _ (hifA_not_counting (by omega)))]

/-! ### Host writes (R263, R266, R267) -/

theorem State.hostReaches_congr {s t : State} (h : s.Quiet t) (hr : t.rd (hifA 0x100) = s.rd (hifA 0x100)) :
    t.hostReaches = s.hostReaches := by
  rw [State.hostReaches, State.hostReaches, State.hifLive, State.hifLive, State.linkCarries, State.linkCarries,
    h.inReset, h.top,
    State.bit_congr hr]

/-- The state in which a host access acts: it is counted. -/
theorem tallyHif_alters (s : State) : s.Alters counting [] (s.tallyHif 3 1) :=
  (State.Alters.refl _ _ s).tallyHif (fun _ => id) 3 1

theorem tallyHif_rd (s : State) {a : Nat} (h : ¬ counting a) : (s.tallyHif 3 1).rd a = s.rd a :=
    (tallyHif_alters s).regs a h

theorem hostWrite_acts {s : State} {a : Nat} (h : hostAt s a) (v : Word) :
    s.hostWrite a v = (s.tallyHif 3 1).applyWrite .host a v := by
  obtain ⟨hr, hlo, hin⟩ := h
  rw [State.hostWrite, hr]
  dsimp only
  rw [if_neg (by simp), if_neg (by omega), (s.tallyHif_quiet 3 1).inReset, if_neg (by simp [hin])]

theorem hostWrite_unreached {s : State} (h : s.hostReaches = false) (a : Nat) (v : Word) : s.hostWrite a v = s := by
  rw [State.hostWrite, h]
  rfl

/-- A write that reaches the register at `a` acts once it is counted, or at once where a program makes it. -/
theorem put_reaches {o : Origin} {s : State} {a : Nat} (h : reaches o s a) (h4 : a % 4 = 0) (v : Word) :
    ∃ u, s.Quiet u ∧ regsBut counting s u ∧ s.put o a v none = u.applyWrite o a v := by
  cases o with
  | host =>
    refine ⟨s.tallyHif 3 1, s.tallyHif_quiet 3 1, (tallyHif_alters s).regs, ?_⟩
    rw [State.put, State.hostPut, ← hostWrite_acts h]
    exact if_pos h4
  | program b =>
    obtain ⟨hrun, hwin, hg, hin, -⟩ := h
    refine ⟨s, .refl s, fun _ _ => rfl, ?_⟩
    rw [State.put, show a / 4 * 4 = a by omega, State.anyWrite, hrun, hwin, hg]
    simp [State.progWrite, hin]

/-- No pending complement pair is broken where none is pending, or the access lies outside TOP. -/
theorem breakPair_none {t : State} {a : Nat} (h : t.top.kc = none ∨ 0x10000 ≤ a) : t.breakPair a = t := by
  rw [State.breakPair, if_neg]
  obtain h | h := h
  · simp [h]
  · simp [show ¬ a < 0x10000 by omega]

theorem shapeReport_alters (t : State) (d : Nat) : t.Alters hifReg [.outbox] (t.hifReport 0x80 d) :=
  t.hifReport_alters (k := 0) (by omega) d

theorem badShape_write (s : State) (a : Nat) :
    s.badShape 0 false a = ((s.tallyHif 3 1).hifReport 0x80 a).breakPair a := by
  unfold State.badShape
  simp only [Bool.false_eq_true, if_false, if_true]
  rfl

/-- A misaligned write is reported as ACCESS_SHAPE and does nothing else (R266). -/
theorem badShape_eq {s : State} {a : Nat} (hk : s.top.kc = none ∨ 0x10000 ≤ a) :
    s.badShape 0 false a = (s.tallyHif 3 1).hifReport 0x80 a := by
  have ht : ((s.tallyHif 3 1).hifReport 0x80 a).top = s.top :=
    ((shapeReport_alters _ a).part (p := .top) (by simp)).trans (s.tallyHif_quiet 3 1).top
  rw [badShape_write, breakPair_none (by rwa [ht])]

theorem put_misaligned {s : State} {a : Nat} {v u : Word} {w : Option Word} (hr : s.hostReaches = true)
    (hw : w = none ∧ a % 4 ≠ 0 ∨ w = some u ∧ a % 8 ≠ 0) : s.put .host a v w = s.badShape 0 false a := by
  obtain ⟨rfl, h⟩ | ⟨rfl, h⟩ := hw
  · rw [State.put, State.hostPut, if_neg h, if_pos hr]
  · rw [State.put, State.hostPut, if_neg h, if_pos hr]

theorem put_unreached {s : State} (hr : s.hostReaches = false) (a : Nat) (v : Word) (w : Option Word) :
    s.put .host a v w = s := by
  cases w with
  | none => rw [State.put, State.hostPut, hostWrite_unreached hr]; simp [hr]
  | some u => rw [State.put, State.hostPut, hostWrite_unreached hr, hostWrite_unreached hr]; simp [hr]

theorem plain_not_counting {a : Nat} {f : FieldRow} (h : Plain a f) : ¬ counting a :=
  not_counting_above (plainBlock_writes h.block).1

/-- Both words of an 8-byte write of plain registers are stored, the lower first (R266). -/
theorem hostPut_pair {s : State} {a : Nat} {f g : FieldRow} (hf : Plain a f) (hg : Plain (a + 4) g) (h8 : a % 8 = 0)
    (h0 : hostAt s a) (h4 : hostAt s (a + 4)) (v u : Word) : ∃ t, s.put .host a v (some u) = t ∧
      s.Alters (fun r => counting r ∨ r = a ∨ r = a + 4) [] t ∧ t.nat a = f.into v (s.nat a) % 2 ^ 32 ∧
      t.nat (a + 4) = g.into u (s.nat (a + 4)) % 2 ^ 32 := by
  have hca := plain_not_counting hf
  have hcb := plain_not_counting hg
  have h4a : 0x40000 ≤ a := (plainBlock_writes hf.block).1
  let t := (s.tallyHif 3 1).wrN a (f.into v (s.nat a))
  have ht : s.hostWrite a v = t := by rw [hostWrite_acts h0, applyWrite_plain hf, State.nat_congr (tallyHif_rd s hca)]
  have hq : s.Quiet t := (s.tallyHif_quiet 3 1).trans (State.wrN_quiet _ _ _)
  have hrd : ∀ r, ¬ counting r → r ≠ a → t.rd r = s.rd r :=
    fun r hr hne => (State.rd_wrN_ne _ _ hne).trans (tallyHif_rd s hr)
  have hat : hostAt t (a + 4) := by
    obtain ⟨hreach, hlo, hin⟩ := h4
    refine ⟨?_, hlo, by rwa [hq.inReset]⟩
    rwa [State.hostReaches_congr hq (hrd _ (hifA_not_counting (by omega)) (by unfold hifA; omega))]
  refine ⟨(t.tallyHif 3 1).wrN (a + 4) (g.into u (t.nat (a + 4))), ?_, ?_, ?_, ?_⟩
  · rw [State.put, State.hostPut, ht, hostWrite_acts hat, applyWrite_plain hg, State.nat_congr (tallyHif_rd t hcb)]
    exact if_pos h8
  · exact ((((State.Alters.refl _ [] s).tallyHif (fun _ => .inl) 3 1).wrN (.inr (.inl rfl)) _).tallyHif
      (fun _ => .inl) 3 1).wrN
      (.inr (.inr rfl)) _
  · rw [State.nat_congr (State.rd_wrN_ne _ _ (by omega)), State.nat_congr (tallyHif_rd t hca), State.nat_wrN_same]
  · rw [State.nat_wrN_same, State.nat_congr (hrd _ hcb (by omega))]

/-- Settles O26: by the shape of the access and by what its address names. -/
theorem registerWriteStoresField : Obligations.RegisterWriteStoresField := by
  unfold Obligations.RegisterWriteStoresField
  intro o a v u s plain stored
  have he : ∀ o w, exec (.registerWrite o a v w) s = done s (s.put o a.toNat v w) := fun _ _ => rfl
  refine ⟨fun f h4 hr ⟨hb, hf, hrw, hs⟩ => ?word, fun f g h8 h0 h4 ⟨hb, hf, hrw, hs⟩ ⟨hb', hf', hrw', hs'⟩ => ?pair,
    fun w hr hw hk => ?misaligned,
    fun h4 hr hf => ?reserved, fun w hr => ?unreached⟩
  case word =>
    have hp : Plain a.toNat f := ⟨hb, hf, hrw, hs⟩
    obtain ⟨u, hq, hu, e⟩ := put_reaches hr h4 v
    rw [applyWrite_plain hp, State.nat_congr (hu _ (plain_not_counting hp))] at e
    have hz := (((State.Alters.refl (fun r => counting r ∨ r = a.toNat) [] s).quiet hq fun r hn => hu r fun hc => hn
      (.inl hc)).wrN
      (.inr rfl) (f.into v (s.nat a.toNat))).doneWith
    refine completes_closed ((he o none).trans (congrArg (done s) e)) ⟨?_, hz.regs, hz.parts⟩
    exact State.nat_wrN_same _ _ _
  case pair =>
    have hp : Plain a.toNat f := ⟨hb, hf, hrw, hs⟩
    have hp' : Plain (a.toNat + 4) g := ⟨hb', hf', hrw', hs'⟩
    obtain ⟨t, e, hz, h1, h2⟩ := hostPut_pair hp hp' h8 h0 h4 v u
    exact completes_closed ((he .host (some u)).trans (congrArg (done s) e))
      ⟨h1, h2, hz.doneWith.regs, hz.doneWith.parts⟩
  case misaligned =>
    have ha : a.toNat < 2 ^ 32 := lt_trans a.isLt (by norm_num)
    have e := (put_misaligned (v := v) hr hw).trans (badShape_eq hk)
    have hz := ((((tallyHif_alters s).mono hifReg_counting fun _ h => absurd h (by simp)).trans
      (shapeReport_alters (s.tallyHif 3 1) a.toNat))).doneWith
    exact completes_closed ((he .host w).trans (congrArg (done s) e))
      ⟨hifReported_counted (by omega) (tallyHif_alters s).regs
      (State.hifReport_reported _ (k := 0) (by omega) ha), hz.regs, hz.parts⟩
  case reserved =>
    obtain ⟨u, hq, hu, e⟩ := put_reaches hr h4 v
    rw [applyWrite_reserved hf] at e
    have hz := ((State.Alters.refl counting [] s).quiet hq hu).doneWith
    exact completes_closed ((he o none).trans (congrArg (done s) e)) ⟨hz.regs, hz.parts⟩
  case unreached =>
    have hz : sameBut [] s s := fun p _ => by cases p <;> rfl
    exact completes_closed ((he .host w).trans (congrArg (done s) (put_unreached hr _ v w)))
      ⟨(State.Alters.refl _ [] s).doneWith.regs, sameBut_done hz⟩

end Sys2Proof.Machine
end

section
/-! PROOF. The register window (R201): O35. -/

namespace Sys2Proof.Machine

open Sys2Proof.Cert

theorem exec_registerWindowComplete (c : CtxId) (s : State) :
    exec (.registerWindowComplete c) s = execRegisterWindowComplete c s := rfl

/-! ### The register window (R201) -/

section
variable {c : CtxId} {s : State} {a : Nat}

/-- With writes outstanding the oldest is performed. -/
theorem windowComplete_write {v : Word} {rest : List (Nat × Word)} (hrun : s.enginesRun = true)
    (hw : (s.ctx (keyOf c)).winWrites = (a, v) :: rest) :
    exec (.registerWindowComplete c) s = done s (s.winWrite c.bed (keyOf c) a v rest) := by
  rw [exec_registerWindowComplete, execRegisterWindowComplete, hrun]
  simp only [hw, if_true]

/-- With none outstanding the read that the context waits for returns. -/
theorem windowComplete_read {rd : Nat} (hrun : s.enginesRun = true) (hw : (s.ctx (keyOf c)).winWrites = [])
    (hwait : (s.ctx (keyOf c)).wait = .winRead a rd) :
    exec (.registerWindowComplete c) s = done s (s.winReadDone c.bed (keyOf c) a rd) := by
  rw [exec_registerWindowComplete, execRegisterWindowComplete, hrun]
  simp only [hw, hwait, if_true]

theorem progWrite_plain {f : FieldRow} (h : Plain a f) (hin : s.inReset a = false) (b : Fin 16) (v : Word) :
    s.progWrite b a v = s.wrN a (f.into v (s.nat a)) := by
  rw [State.progWrite, if_neg (by simp [hin]), applyWrite_plain h]

theorem State.inReset_setCtx (s : State) (k : Nat) (x : Ctx) (a : Nat) : (s.setCtx k x).inReset a = s.inReset a :=
  State.inReset_congr rfl rfl rfl a

theorem State.setCtx_sameBut (s : State) (k : Nat) (x : Ctx) : sameBut [.ctxs] s (s.setCtx k x) := fun p hm => by
  cases p with
  | ctxs => simp at hm
  | _ => rfl

theorem hifReported_setCtx {t : State} {k d : Nat} (h : hifReported k d s t) (j : Nat) (y : Ctx) :
    hifReported k d s (t.setCtx j y) := by
  obtain ⟨h1, h2, h3⟩ := h
  exact ⟨h1, h2, h3⟩

/-- A read returned to its context: rd takes the low half, the latch the high half. -/
def Ctx.windowRead (x : Ctx) (rd : Nat) (v : Word) : Ctx :=
  { x with wait := .none, winLatch := (v >>> 16).setWidth 16 }.setReg (BitVec.ofNat 4 rd) (v.setWidth 16)

theorem Ctx.windowRead_eq (x : Ctx) (rd : Nat) (v : Word) : x.windowRead rd v =
    { x with wait := .none, winLatch := BitVec.ofNat 16 (v.toNat / 65536) }.setReg (BitVec.ofNat 4 rd)
      (BitVec.ofNat 16 v.toNat) := by
  have h1 : (v >>> 16).setWidth 16 = BitVec.ofNat 16 (v.toNat / 65536) := by
    refine BitVec.eq_of_toNat_eq ?_
    rw [BitVec.toNat_setWidth, BitVec.toNat_ushiftRight, BitVec.toNat_ofNat, Nat.shiftRight_eq_div_pow]
  rw [Ctx.windowRead, h1, BitVec.ofNat_toNat]

theorem winReadDone_live {rd : Nat} (hin : s.inReset a = false) (hl : pairedLow a = false)
    (hh : 4 ≤ a → pairedLow (a - 4) = false) (b : Fin 16) (k : Nat) :
    s.winReadDone b k a rd = s.setCtx k ((s.ctx k).windowRead rd (s.liveRead a)) := by
  have hr : s.readReg a = (s.liveRead a, s) := by
    rw [State.readReg, if_neg (by simp [hl]), if_neg (by simpa using hh)]
  rw [State.winReadDone, hin, hr]
  rfl

theorem winReadDone_reset {rd : Nat} (hin : s.inReset a = true) (b : Fin 16) (k : Nat) :
    s.winReadDone b k a rd = (s.accessTimeout (.program b) a).setCtx k
      (((s.accessTimeout (.program b) a).ctx k).windowRead rd 0) := by
  rw [State.winReadDone, hin]
  rfl

theorem accessDetail_lt (o : Origin) (a : Nat) : accessDetail o a < 2 ^ 32 := by
  cases o with
  | host => exact lt_trans (Nat.mod_lt a (by norm_num)) (by norm_num)
  | program b =>
    have := b.isLt
    have := Nat.mod_lt a (show 2 ^ 26 > 0 by norm_num)
    rw [accessDetail]
    omega

theorem accessTimeout_alters (s : State) (o : Origin) (a : Nat) : s.Alters hifReg [.outbox] (s.accessTimeout o a) :=
  s.hifReport_alters (k := 1) (by omega) _

theorem accessTimeout_reported (s : State) (o : Origin) (a : Nat) :
    hifReported 1 (accessDetail o a) s (s.accessTimeout o a) :=
  s.hifReport_reported (k := 1) (by omega) (accessDetail_lt o a)

end

/-- Settles O35: the oldest write, then a read by whether its block is in reset. -/
theorem registerWindowAccesses : Obligations.RegisterWindowAccesses := by
  unfold Obligations.RegisterWindowAccesses
  intro c s x hrun
  have hx : s.ctx (keyOf c) = x := rfl
  clear_value x
  refine ⟨fun a v rest f hw hin hb hf hrw hs => ?write, fun a rd hw hwait hin hp hp' => ?read,
    fun a rd hw hwait hin => ?reset⟩
  case write =>
    have hp : Plain a f := ⟨hb, hf, hrw, hs⟩
    have e := windowComplete_write hrun (hx ▸ hw)
    rw [State.winWrite, hx] at e
    rw [progWrite_plain hp (by rw [State.inReset_setCtx, hin]), State.nat_setCtx] at e
    have hz := (((State.Alters.refl (fun r => r = a) [.ctxs] s).setCtx (by simp) (keyOf c) { x with
      winWrites := rest, wait := if rest.isEmpty && x.wait == .fence then .none else x.wait, commitAt := s.now }).wrN
      rfl (f.into v (s.nat a))).doneWith
    have hk : ∀ j (t : State) n, (t.wrN a n).ctx j = t.ctx j := fun j t n => State.ctx_congr (t.wrN_quiet a n).ctxs j
    refine completes_closed e ⟨?_, State.nat_wrN_same _ _ _, hz.regs, hz.parts, fun j hj => ?_⟩
    · rw [State.closed_ctx, hk, State.ctx_setCtx_same]
      simp [sameCtx]
    · rw [State.closed_ctx, hk, State.ctx_setCtx_ne _ _ hj]
  case read =>
    have e := windowComplete_read hrun (hx ▸ hw) (hx ▸ hwait)
    rw [winReadDone_live hin hp hp', hx] at e
    generalize s.liveRead a = v at e ⊢
    refine completes_closed e ⟨?_, sameBut_done (s.setCtx_sameBut _ _), ?_, fun j hj => ?_⟩
    · rw [State.closed_ctx, State.ctx_setCtx_same, Ctx.windowRead_eq]
      exact ⟨fun _ => rfl, rfl⟩
    · rw [State.closed_regs, State.setCtx_regs]
    · rw [State.closed_ctx, State.ctx_setCtx_ne _ _ hj]
  case reset =>
    have e := windowComplete_read hrun (hx ▸ hw) (hx ▸ hwait)
    rw [winReadDone_reset hin, (accessTimeout_alters _ _ _).ctx (by simp), hx] at e
    refine completes_closed e ⟨?_, fun _ => hifReported_counted (by omega) (fun _ _ => rfl) ?_⟩
    · rw [State.closed_ctx, State.ctx_setCtx_same]
      exact ⟨fun _ => rfl, rfl⟩
    · exact hifReported_setCtx (accessTimeout_reported s (.program c.bed) a) _ _

end Sys2Proof.Machine
end

section
/-! PROOF. An abort that clears a bit of its own FAULT_INFO (R205, R212): O24 refuted. -/

namespace Sys2Proof.Machine

open Sys2Proof.Cert

/-! ### An abort that clears a bit of its own FAULT_INFO

An aborted handler that was dispatched for the second time clears NOTICED of the furrow that its event names
(R205). The model keeps that furrow's number as any natural number, and the invariant says nothing of it: in a
state where it is no furrow of the part (0 to 63), the bit that clears can lie in any register. Here it is bit 11
of FAULT_INFO of the engine. -/

/-- The number of the furrow whose FUR_STATUS would lie at FAULT_INFO of engine 0 of bed 2. -/
def strayFurrow : Nat := (bedA 2 0x2008 - furA 0 8) / 0x40

/-- A handler of a queue event, dispatched again, that is past its limit at address 0x800. -/
def lateCtx : Ctx :=
  { Ctx.init with
      active := true, pc := 0x800, ev := { Ev.init with kind := 0x40, again := true }, evFur := some strayFurrow }

/-- Context 0 of engine 0 of bed 2 is that handler. -/
def lateState : State := (State.reset.setTop { State.reset.top with boot := 8 }).setCtx 256 lateCtx

theorem lateState_ctx (k : Nat) : lateState.ctx k = lateCtx ∨ lateState.ctx k = Ctx.init := by
  by_cases h : k = 256
  · exact .inl (h ▸ State.ctx_setCtx_same _ _ _)
  · exact .inr (State.ctx_setCtx_ne _ _ h)

theorem lateState_contexts : ContextsOk lateState := fun k => by
  obtain h | h := lateState_ctx k <;> rw [h] <;> exact ⟨nofun, nofun⟩

/-- FAULT_INFO shows the cause with address 0 in place of 0x800. -/
theorem lateState_faultInfo : (match exec (.watchdogExpiry ⟨2, 0, 0⟩) lateState with
    | .next t => t.nat (bedA 2 0x2008)
    | _ => 0) = 65536 := by decide +kernel

/-- Refutes O24: with an event whose furrow's number is none of the part's 64, the abort clears bit 11 of FAULT_INFO, so
that a handler stopped at address 0x800 is shown stopped at 0. -/
theorem not_handlerFaults : ¬ Obligations.HandlerFaults := by
  unfold Obligations.HandlerFaults
  intro h
  obtain ⟨-, hwatchdog, -⟩ := h ⟨2, 0, 0⟩ lateState lateState_contexts
  obtain ⟨t, he, -, hinfo⟩ := hwatchdog (by decide) (by decide) (by decide) (by decide)
  have hshown := lateState_faultInfo
  rw [he] at hshown
  have hpc : (lateState.ctx (keyOf ⟨2, 0, 0⟩)).pc.toNat = 0x800 := by decide
  rw [hpc] at hinfo
  exact absurd (hinfo.symm.trans hshown) (by decide)

end Sys2Proof.Machine
end

section
/-! SUPPORT. The end of a handler: its furrows, its semaphores, its hardware context (R200, R204, R220). -/

namespace Sys2Proof.Machine

open Sys2Proof.Cert

/-! ### Work on furrows (R204, R205, R252) -/

/-- The registers of the 64 furrows. -/
def furReg (a : Nat) : Prop := 0x910000 ≤ a ∧ a < 0x911000

theorem furReg_furA {F o : Nat} (hF : F < 64) (ho : o < 0x40) : furReg (furA F o) := by
  unfold furReg furA; omega

/-- A bed, what aborted kinds it has to dispatch again left out. -/
def Bed.calm (x : Bed) : Bed := { x with redo := [] }

/-- What work on furrows alters: the furrows, their registers, and of a bed the kinds that it dispatches again. -/
structure State.FurWork (s t : State) : Prop where
  alters : s.Alters furReg [.furs, .beds] t
  beds : ∀ j, (t.bed j).calm = (s.bed j).calm

theorem State.FurWork.refl (s : State) : s.FurWork s := ⟨.refl _ _ s, fun _ => rfl⟩

theorem State.FurWork.trans {s t u : State} (h : s.FurWork t) (k : t.FurWork u) : s.FurWork u :=
  ⟨h.alters.trans k.alters, fun j => (k.beds j).trans (h.beds j)⟩

theorem State.fur_congr {s t : State} (h : s.furs = t.furs) (F : Nat) : s.fur F = t.fur F := by
  rw [State.fur, State.fur, h]

section
variable {s t : State} {F : Nat}

theorem State.showFur_quiet (s : State) (F : Nat) : s.Quiet (s.showFur F) := by
  unfold State.showFur
  have h := (s.setFld_quiet (furA F 0x08) 10 0 (occupancy (s.fur F).items)).trans
    (State.setBit_quiet _ (furA F 0x08) 12 ((s.fur F).owner != 0))
  dsimp only
  split
  · exact h.trans (State.setFld_quiet _ _ _ _ _)
  · exact h

theorem State.showFur_alters (hF : F < 64) (ps : List Part) : s.Alters furReg ps (s.showFur F) := by
  have h8 : furReg (furA F 0x08) := furReg_furA hF (by omega)
  have hC : furReg (furA F 0x0C) := furReg_furA hF (by omega)
  have h := ((State.Alters.refl furReg ps s).setFld h8 10 0 (occupancy (s.fur F).items)).setBit h8 12
    ((s.fur F).owner != 0)
  exact h.iteThen ((State.Alters.refl _ _ _).setFld hC _ _ _)

/-- NOTICED clears, and with it what the bed has to dispatch again of the furrow's kind. -/
theorem State.unnotice_eq (s : State) (F : Nat) : s.unnotice F = (s.setBit (furA F 0x08) 11 false).setBed (s.fur F).bed
    { s.bed (s.fur F).bed with redo := (s.bed (s.fur F).bed).redo.filter (· ≠ furKind (s.fur F) F) } := by rfl

theorem State.unnotice_beds (s : State) (F j : Nat) : ((s.unnotice F).bed j).calm = (s.bed j).calm := by
  rw [State.unnotice_eq]
  by_cases h : j = (s.fur F).bed
  · rw [h, State.bed_setBed_same]
    rfl
  · rw [State.bed_setBed_ne _ _ h, State.bed_congr (State.setBit_quiet _ _ _ _).beds]

theorem State.unnotice_fur (s : State) (F G : Nat) : (s.unnotice F).fur G = s.fur G := by
  rw [State.unnotice_eq, State.fur_setBed]
  exact State.fur_congr (s.setBit_quiet _ _ _).furs G

theorem State.unnotice_work (hF : F < 64) : s.FurWork (s.unnotice F) := by
  refine ⟨?_, s.unnotice_beds F⟩
  rw [State.unnotice_eq]
  exact ((State.Alters.refl _ _ s).setBit (furReg_furA hF (by omega)) _ _).setBed (by simp) _ _

/-- A furrow rewritten and shown. -/
theorem State.setFur_work (hF : F < 64) (f : Furrow) : s.FurWork ((s.setFur F f).showFur F) :=
  ⟨((State.Alters.refl _ _ s).setFur (by simp) F f).trans (State.showFur_alters hF _), fun j => by
    rw [State.bed_congr (State.showFur_quiet _ F).beds, State.bed_setFur]⟩

theorem State.setFur_showFur (s : State) (F G : Nat) (f : Furrow) :
    ((s.setFur F f).showFur F).fur G = if G = F then f else s.fur G := by
  rw [show ((s.setFur F f).showFur F).fur G = (s.setFur F f).fur G from
    State.fur_congr (State.showFur_quiet _ F).furs G]
  by_cases h : G = F
  · rw [if_pos h, h, State.fur, State.setFur, State.setFurs, Tab.get_set_same]
  · rw [if_neg h]
    exact Tab.get_set_ne _ _ _ _ h

/-- A furrow whose owner has committed its releases (R204). -/
def Furrow.committed (f : Furrow) : Furrow :=
    { f with items := f.items.drop f.rel, rel := 0, rpItem := 0, rpOff := 0, owner := 0 }

theorem State.commitFur_work (hF : F < 64) (own : Bool) : s.FurWork (s.commitFur own F) := by
  have h := State.setFur_work (s := s) hF (s.fur F).committed
  unfold State.commitFur
  dsimp only
  split
  · exact h.trans (State.unnotice_work hF)
  · exact h

theorem State.commitFur_fur (s : State) (own : Bool) (F G : Nat) :
    (s.commitFur own F).fur G = if G = F then (s.fur F).committed else s.fur G := by
  have h := s.setFur_showFur F G (s.fur F).committed
  unfold State.commitFur
  dsimp only
  split
  · exact (State.unnotice_fur _ F G).trans h
  · exact h

theorem State.rewindFur_work (hF : F < 64) : s.FurWork (s.rewindFur F) := State.setFur_work hF _

theorem State.foldl_work {f : State → Nat → State} {l : List Nat} (hf : ∀ u : State, ∀ F ∈ l, u.FurWork (f u F))
    (s : State) :
    s.FurWork (l.foldl f s) :=
  foldl_keeps (fun u => s.FurWork u) f l (fun u F hF hu => hu.trans (hf u F hF)) s (.refl s)

/-- The furrows that a context owns are furrows of the part. -/
theorem State.mem_owned {s : State} {key F : Nat} : F ∈ s.owned key ↔ F < 64 ∧ (s.fur F).owner = key + 1 := by
  simp [State.owned]

/-- A change made to each furrow of a list once. -/
theorem foldl_fur {f : State → Nat → State} {g : Furrow → Furrow}
    (hf : ∀ (u : State) (F G : Nat), (f u F).fur G = if G = F then g (u.fur F) else u.fur G) (l : List Nat)
      (hl : l.Nodup)
    (s : State) (G : Nat) : (l.foldl f s).fur G = if G ∈ l then g (s.fur G) else s.fur G := by
  induction l generalizing s with
  | nil => simp
  | cons F rest ih =>
    obtain ⟨hF, hrest⟩ := List.nodup_cons.mp hl
    rw [List.foldl_cons, ih hrest, hf]
    by_cases h : G = F
    · subst h
      simp [hF]
    · simp [h]

end

/-! ### Semaphores released (R200) -/

/-- Of a table of semaphores without those of `me` none is held by `me`, and what others hold stays. -/
theorem sems_released (l : Tab Nat) {me : Nat} (hme : 0 ≠ me) (j : Nat) :
    Tab.get (l.filter (fun e => e.2 != me)) 0 j ≠ me ∧
      (Tab.get l 0 j ≠ me → Tab.get (l.filter (fun e => e.2 != me)) 0 j = Tab.get l 0 j) := by
  induction l with
  | nil => exact ⟨hme, fun _ => rfl⟩
  | cons e rest ih =>
    obtain ⟨k, v⟩ := e
    obtain ⟨ih1, ih2⟩ := ih
    by_cases hv : v = me
    · rw [List.filter_cons_of_neg (by simp [hv])]
      refine ⟨ih1, fun h => ?_⟩
      by_cases hk : k = j
      · exact absurd (by simp [Tab.get, hk, hv]) h
      · rw [ih2 (by simpa [Tab.get, hk] using h)]
        simp [Tab.get, hk]
    · rw [List.filter_cons_of_pos (by simp [hv])]
      by_cases hk : k = j
      · simp [Tab.get, hk, hv]
      · simpa [Tab.get, hk] using ⟨ih1, ih2⟩

section
variable {s : State} {b key : Nat}

/-- The semaphores that a context does not hold. -/
def Bed.semsBut (x : Bed) (key : Nat) : Bed := { x with sems := x.sems.filter (fun e => e.2 != key + 1) }

/-- The number of entries of the table of semaphores that name a context. -/
def Bed.semCount (x : Bed) (key : Nat) : Nat := (x.sems.filter (fun e => e.2 == key + 1)).length

theorem State.releaseSems_eq (s : State) (b key : Nat) :
    s.releaseSems b key = (s.setBed b ((s.bed b).semsBut key)).addTo (bedA b 0x154) ((s.bed b).semCount key) := by rfl

theorem State.releaseSems_alters (s : State) (b key : Nat) :
    s.Alters (· = bedA b 0x154) [.beds] (s.releaseSems b key) := by
  rw [State.releaseSems_eq]
  exact ((State.Alters.refl (· = bedA b 0x154) [.beds] s).setBed (by simp) _ _).addTo rfl _

theorem State.releaseSems_bed (s : State) (b key : Nat) : (s.releaseSems b key).bed b = (s.bed b).semsBut key := by
  rw [State.releaseSems_eq, State.bed_congr (State.addTo_quiet _ _ _).beds, State.bed_setBed_same]

theorem State.releaseSems_bed_ne (s : State) (key : Nat) {j : Nat} (h : j ≠ b) :
    (s.releaseSems b key).bed j = s.bed j := by
  rw [State.releaseSems_eq, State.bed_congr (State.addTo_quiet _ _ _).beds, State.bed_setBed_ne _ _ h]

theorem State.releaseSems_leak (s : State) (b key : Nat) : (s.releaseSems b key).nat (bedA b 0x154) =
    (s.nat (bedA b 0x154) + (s.bed b).semCount key) % 2 ^ 32 := by
  rw [State.releaseSems_eq, State.addTo, State.nat_wrN_same, State.nat_setBed]

/-! ### The context idle again (R204 step 4) -/

/-- The registers of an idle context: the state of the channel context that it had bound, and STATUS of its engine. -/
def idleReg (b : Nat) (o : Option Nat) (a : Nat) : Prop :=
  (∃ ch, o = some ch ∧ a = bedA b (0x1600 + 4 * ch)) ∨ ∃ e < 32, a = bedA b (0x2000 + 0x20 * e)

theorem State.idleCtx_alters (s : State) (key : Nat) :
    s.Alters (idleReg (keyBed key) (s.ctx key).bound) [.ctxs] (s.idleCtx key) := by
  have he : idleReg (keyBed key) (s.ctx key).bound (bedA (keyBed key) (0x2000 + 0x20 * keyEng key)) :=
    .inr ⟨keyEng key, Nat.mod_lt _ (by omega), rfl⟩
  unfold State.idleCtx
  dsimp only
  split
  · next ch hch =>
    have hc : idleReg (keyBed key) (s.ctx key).bound (bedA (keyBed key) (0x1600 + 4 * ch)) := .inl ⟨ch, hch, rfl⟩
    exact ((((State.Alters.refl _ _ s).setBit hc 0 false).setBit hc 2 false).setBit he (key % 4) false).setCtx
      (by simp) _ _
  · exact ((State.Alters.refl _ _ s).setBit he (key % 4) false).setCtx (by simp) _ _

/-- What an idle context keeps: its count of handlers, and the window writes that are still on their way. -/
def Ctx.idle (x : Ctx) : Ctx := { Ctx.init with epoch := x.epoch, winWrites := x.winWrites }

theorem State.idleCtx_ctx (s : State) (key k : Nat) :
    (s.idleCtx key).ctx k = if k = key then (s.ctx key).idle else s.ctx k := by
  have h : ∀ t : State, s.Quiet t → (t.setCtx key (s.ctx key).idle).ctx k = if k = key then (s.ctx key).idle else
    s.ctx k :=
    fun t ht => by
      by_cases hk : k = key
      · rw [if_pos hk, hk, State.ctx_setCtx_same]
      · rw [if_neg hk, State.ctx_setCtx_ne _ _ hk, State.ctx_congr ht.ctxs]
  unfold State.idleCtx
  dsimp only
  split
  · exact h _ (((s.setBit_quiet _ _ _).trans (State.setBit_quiet _ _ _ _)).trans (State.setBit_quiet _ _ _ _))
  · exact h _ (s.setBit_quiet _ _ _)

end

/-! ### The end of a handler (R204 steps 3 and 4) -/

/-- Releases committed, semaphores free, the context idle. -/
def State.handlerEnd (s : State) (key : Nat) : State :=
  (((s.owned key).foldl (fun u F => u.commitFur ((s.ctx key).evFur == some F) F) s).releaseSems (keyBed key)
    key).idleCtx key

section
variable {s : State} {key : Nat}

/-- The work on the furrows that a handler's end begins with. -/
theorem State.commits_work (s : State) (key : Nat) :
    s.FurWork ((s.owned key).foldl (fun u F => u.commitFur ((s.ctx key).evFur == some F) F) s) :=
  State.foldl_work (fun _ _ hF => State.commitFur_work (State.mem_owned.mp hF).1 _) s

theorem State.handlerEnd_calm (s : State) (key : Nat) :
    ((s.handlerEnd key).bed (keyBed key)).calm = ((s.bed (keyBed key)).semsBut key).calm := by
  have hb := (s.commits_work key).beds (keyBed key)
  rw [State.handlerEnd, (State.idleCtx_alters _ key).bed (by simp), State.releaseSems_bed]
  exact congrArg (Bed.semsBut · key) hb

theorem State.handlerEnd_calm_ne (s : State) (key : Nat) {j : Nat} (h : j ≠ keyBed key) :
    ((s.handlerEnd key).bed j).calm = (s.bed j).calm := by
  rw [State.handlerEnd, (State.idleCtx_alters _ key).bed (by simp), State.releaseSems_bed_ne _ _ h]
  exact (s.commits_work key).beds j

theorem State.handlerEnd_ctx (s : State) (key k : Nat) :
    (s.handlerEnd key).ctx k = if k = key then (s.ctx key).idle else s.ctx k := by
  have h : ∀ j, (((s.owned key).foldl (fun u F => u.commitFur ((s.ctx key).evFur == some F) F) s).releaseSems
      (keyBed key) key).ctx j = s.ctx j := fun j =>
    ((State.releaseSems_alters _ _ key).ctx (by simp) j).trans ((s.commits_work key).alters.ctx (by simp) j)
  rw [State.handlerEnd, State.idleCtx_ctx, h, h]

/-- The words released on each owned furrow return to its producers; other furrows stay. -/
theorem State.handlerEnd_fur (s : State) (key F : Nat) : (s.handlerEnd key).fur F =
    if F < 64 ∧ (s.fur F).owner = key + 1 then (s.fur F).committed else s.fur F := by
  have hl : (s.owned key).Nodup := List.nodup_range.filter _
  rw [State.handlerEnd, State.fur_congr ((State.idleCtx_alters _ key).part (p := .furs) (by simp)),
    State.fur_congr ((State.releaseSems_alters _ _ key).part (p := .furs) (by simp)),
    foldl_fur (g := Furrow.committed) (fun u F G => u.commitFur_fur _ F G) _ hl]
  simp only [State.mem_owned]

/-- The registers that the end of a handler alters. -/
def handlerReg (b : Nat) (o : Option Nat) (a : Nat) : Prop := furReg a ∨ a = bedA b 0x154 ∨ idleReg b o a

theorem State.handlerEnd_alters (s : State) (key : Nat) :
    s.Alters (handlerReg (keyBed key) (s.ctx key).bound) [.furs, .beds, .ctxs] (s.handlerEnd key) := by
  let t := (s.owned key).foldl (fun u F => u.commitFur ((s.ctx key).evFur == some F) F) s
  have h1 : s.Alters (handlerReg (keyBed key) (s.ctx key).bound) [.furs, .beds, .ctxs] t :=
    (s.commits_work key).alters.mono (fun _ => .inl) (by simp)
  have h2 : t.Alters (handlerReg (keyBed key) (s.ctx key).bound) [.furs, .beds, .ctxs]
    (t.releaseSems (keyBed key) key) :=
    (State.releaseSems_alters t _ key).mono (fun _ e => .inr (.inl e)) (by simp)
  have hc : (t.releaseSems (keyBed key) key).ctx key = s.ctx key :=
    ((State.releaseSems_alters t _ key).ctx (by simp) key).trans ((s.commits_work key).alters.ctx (by simp) key)
  have h3 := (State.idleCtx_alters (t.releaseSems (keyBed key) key) key).mono (qs := [.furs, .beds, .ctxs])
    (Q := handlerReg (keyBed key) (s.ctx key).bound) (fun _ e => .inr (.inr (hc ▸ e))) (by simp)
  exact (h1.trans h2).trans h3

theorem not_idleReg {b o : Nat} (h : o < 0x1600) (ch : Option Nat) : ¬ idleReg b ch (bedA b o) := by
  rintro (⟨c, -, e⟩ | ⟨e, -, h'⟩) <;> unfold bedA at * <;> omega

/-- The semaphores freed are counted. -/
theorem State.handlerEnd_leak (s : State) (key : Nat) : (s.handlerEnd key).nat (bedA (keyBed key) 0x154) =
    (s.nat (bedA (keyBed key) 0x154) + (s.bed (keyBed key)).semCount key) % 2 ^ 32 := by
  have hw := s.commits_work key
  have hn := hw.alters.nat (a := bedA (keyBed key) 0x154) (by unfold furReg bedA; omega)
  have hs := congrArg Bed.sems (hw.beds (keyBed key))
  rw [State.handlerEnd, (State.idleCtx_alters _ key).nat (not_idleReg (by omega) _), State.releaseSems_leak, hn]
  exact congrArg (fun l : Tab Nat => (_ + (l.filter (fun e => e.2 == key + 1)).length) % 2 ^ 32) hs

/-- INIT's end with a move has more to do; every other end of a handler is this. -/
theorem State.finishHandler_eq (h : (s.ctx key).ev.kind ≠ 0 ∨ (s.bed (keyBed key)).move = none) :
    s.finishHandler key = s.handlerEnd key := by
  unfold State.finishHandler
  dsimp only
  split
  · next hk =>
    have hm : ((s.handlerEnd key).bed (keyBed key)).move = none :=
      (congrArg Bed.move (s.handlerEnd_calm key)).trans (h.resolve_left fun hn => hn hk)
    show (s.handlerEnd key).initEnded (keyBed key) = _
    rw [State.initEnded, hm]
  · rfl

end

end Sys2Proof.Machine
end

section
/-! PROOF. END and the commit (R204, R220): O23. -/

namespace Sys2Proof.Machine

open Sys2Proof.Cert

theorem exec_spEnd (c : CtxId) (s : State) : exec (.spEnd c) s = execSpEnd c s := rfl
theorem exec_commitWriteBack (c : CtxId) (s : State) : exec (.commitWriteBack c) s = execCommitWriteBack c s := rfl
theorem exec_backingFail (c : CtxId) (s : State) : exec (.backingFail c) s = execBackingFail c s := rfl

/-! ### The write-back of a commit (R204 step 2) -/

/-- The registers that a write-back alters: of the context that is bound, and what counting and reporting alter. -/
def backReg (b : Nat) (o : Option Nat) (a : Nat) : Prop := reporting a ∨ ∃ ch,
    o = some ch ∧ a = bedA b (0x1600 + 4 * ch)

theorem State.cwWriteWhole_alters (s : State) (cw : Nat) (bs : List Byte) :
    s.Alters counting [.qdr, .qdm] (s.cwWriteWhole cw bs) := by
  rw [State.cwWriteWhole, State.tallyQdm]
  exact (((State.Alters.refl counting [.qdr, .qdm] s).setQdm (by simp) _).setQdr (by simp) _).quiet
    (State.tally_quiet _ _ _ _ _ _) fun _ ha => State.rd_tally_ne _ _ _ _ (by omega) fun e => ha (countReg_counting e)

theorem State.writeLines_alters (s : State) (b ch mask : Nat) :
    s.Alters counting [.qdr, .qdm] (s.writeLines b ch mask) := by
  unfold State.writeLines
  refine (State.Alters.refl _ _ s).foldl fun u ln _ => ?_
  split
  · exact u.cwWriteWhole_alters _ _
  · exact .refl _ _ u

/-- A bed whose lines of context `ch` are written back. -/
def Bed.cleaned (x : Bed) (ch : Nat) : Bed := { x with dirty := Tab.set x.dirty 0 ch 0 }

section
variable {s : State} {key : Nat}

theorem State.writeBack_alters (hb : keyBed key < 16) :
    s.Alters (backReg (keyBed key) (s.ctx key).bound) [.qdr, .qdm, .beds] (s.writeBack key) := by
  unfold State.writeBack
  dsimp only
  split
  · exact .refl _ _ s
  · next ch hch =>
    rw [hch]
    have hc : backReg (keyBed key) (some ch) (bedA (keyBed key) (0x1600 + 4 * ch)) := .inr ⟨ch, rfl, rfl⟩
    have hl := ((s.writeLines_alters (keyBed key) ch (Tab.get (s.bed (keyBed key)).dirty 0 ch)).mono
      (Q := backReg (keyBed key) (some ch)) (qs := [.qdr, .qdm, .beds]) (fun _ h => .inl (.inl h)) (by simp)).setBed
        (by simp)
      (keyBed key) ((s.bed (keyBed key)).cleaned ch)
    have h := (((hl.setBit hc 1 false).setBit hc 2 false).setBit hc 3 false).setBit hc 4 false
    exact h.iteThen ((State.Alters.refl _ _ _).raise (fun _ e => .inl (reportReg_reporting (by omega) e)) _ _ _)

theorem State.writeBack_bed {ch : Nat} (h : (s.ctx key).bound = some ch) :
    (s.writeBack key).bed (keyBed key) = (s.bed (keyBed key)).cleaned ch := by
  unfold State.writeBack
  simp only [h]
  have hq (t : State) : (((((t.setBed (keyBed key) ((s.bed (keyBed key)).cleaned ch)).setBit
    (bedA (keyBed key) (0x1600 + 4 * ch)) 1
      false).setBit (bedA (keyBed key) (0x1600 + 4 * ch)) 2 false).setBit (bedA (keyBed key) (0x1600 + 4 * ch)) 3
        false).setBit
      (bedA (keyBed key) (0x1600 + 4 * ch)) 4 false).bed (keyBed key) = (s.bed (keyBed key)).cleaned ch := by
    rw [State.bed_congr ((((State.setBit_quiet _ _ _ _).trans (State.setBit_quiet _ _ _ _)).trans
      (State.setBit_quiet _ _ _ _)).trans (State.setBit_quiet _ _ _ _)).beds, State.bed_setBed_same]
  split
  · rw [State.raise, State.bed_congr (State.raiseAs_quiet _ _ _ _ _ _).beds]
    exact hq _
  · exact hq _

theorem State.writeBack_unbound (h : (s.ctx key).bound = none) : s.writeBack key = s := by
  unfold State.writeBack
  simp only [h]

/-- A write-back leaves the semaphores. -/
theorem State.writeBack_sems : ((s.writeBack key).bed (keyBed key)).sems = (s.bed (keyBed key)).sems ∧
    ((s.writeBack key).bed (keyBed key)).move = (s.bed (keyBed key)).move := by
  cases h : (s.ctx key).bound with
  | none => rw [State.writeBack_unbound h]; exact ⟨rfl, rfl⟩
  | some ch => rw [State.writeBack_bed h]; exact ⟨rfl, rfl⟩

end

/-! ### The context released -/

/-- The bits of CTX_STATE that an idle context clears, and the others (R203, R204). -/
theorem State.idleCtx_bit {s : State} {key ch : Nat} (h : (s.ctx key).bound = some ch) (hch : ch < 64) {n : Nat} :
    (s.idleCtx key).bit (bedA (keyBed key) (0x1600 + 4 * ch)) n =
      if n = 0 ∨ n = 2 then false else s.bit (bedA (keyBed key) (0x1600 + 4 * ch)) n := by
  have he : keyEng key < 32 := Nat.mod_lt _ (by omega)
  have hne : bedA (keyBed key) (0x1600 + 4 * ch) ≠ bedA (keyBed key) (0x2000 + 0x20 * keyEng key) :=
    by unfold bedA; omega
  unfold State.idleCtx
  simp only [h]
  rw [State.bit_setCtx, State.bit_congr (State.rd_setBit_ne _ _ _ hne)]
  by_cases h2 : n = 2
  · rw [h2, State.bit_setBit_same _ _ (by omega)]
    simp
  · rw [State.bit_setBit_ne _ _ (by omega) h2]
    by_cases h0 : n = 0
    · rw [h0, State.bit_setBit_same _ _ (by omega)]
      simp
    · rw [State.bit_setBit_ne _ _ (by omega) h0]
      simp [h0, h2]

section
variable {s : State} {c : CtxId} {i : Instr}

theorem State.handlerEnd_bit {key ch : Nat} (h : (s.ctx key).bound = some ch) (hch : ch < 64) (n : Nat) :
    (s.handlerEnd key).bit (bedA (keyBed key) (0x1600 + 4 * ch)) n =
      if n = 0 ∨ n = 2 then false else s.bit (bedA (keyBed key) (0x1600 + 4 * ch)) n := by
  have hw := (s.commits_work key).alters
  have hr := State.releaseSems_alters ((s.owned key).foldl (fun u F => u.commitFur ((s.ctx key).evFur == some F) F) s)
    (keyBed key) key
  rw [State.handlerEnd, State.idleCtx_bit (by rw [hr.ctx (by simp), hw.ctx (by simp), h]) hch,
    hr.bit (by unfold bedA; omega), hw.bit (by unfold furReg bedA; omega)]

/-- After the end of a handler its context is idle, and it owns and holds nothing. -/
theorem handlerEnd_released (s : State) (c : CtxId) : Released c (s.handlerEnd (keyOf c)) := by
  refine ⟨?_, fun F hF => ?_, fun k => ?_⟩
  · rw [State.handlerEnd_ctx, if_pos rfl]
    rfl
  · rw [State.handlerEnd_fur]
    split
    · exact (Nat.succ_ne_zero _).symm
    · next h => exact fun e => h ⟨hF, e⟩
  · have := congrArg Bed.sems (s.handlerEnd_calm (keyOf c))
    rw [← keyOf_bed, show (((s.handlerEnd (keyOf c)).bed (keyBed (keyOf c))).sems) = _ from this]
    exact (sems_released _ (Nat.succ_ne_zero _).symm k).1

theorem released_ended {t : State} (h : Released c t) : Released c (s.ended c i t) := by
  obtain ⟨h1, h2, h3⟩ := h
  exact ⟨h1, h2, h3⟩

theorem released_closed {t : State} (h : Released c t) : Released c (s.closed t) := by
  obtain ⟨h1, h2, h3⟩ := h
  exact ⟨h1, h2, h3⟩

/-! ### END, COMMIT_WRITE_BACK and BACKING_FAIL -/

theorem begun_dirtyLines (h : s.issues c i = true) : (s.begun c i).dirtyLines (keyOf c) = s.dirtyLines (keyOf c) := by
  rw [State.dirtyLines, State.dirtyLines, State.begun_ctx h, Ctx.counted_bound, State.begun_bed h]

theorem begun_fur (h : s.issues c i = true) (F : Nat) : (s.begun c i).fur F = s.fur F :=
  State.fur_congr ((State.begun_alters h).part (p := .furs) (by simp)) F

/-- END with nothing outstanding commits at once. -/
theorem exec_spEnd_next (h : s.issues c (.spEnd c) = true) (hw : (s.ctx (keyOf c)).winWrites = [])
    (hd : s.dirtyLines (keyOf c) = false) (hm : (s.ctx (keyOf c)).ev.kind ≠ 0 ∨ (s.bed c.bed.val).move = none) :
    exec (.spEnd c) s = .next (s.ended c (.spEnd c) ((s.begun c (.spEnd c)).handlerEnd (keyOf c))) := by
  have hm' : ((s.begun c (.spEnd c)).ctx (keyOf c)).ev.kind ≠ 0 ∨
      ((s.begun c (.spEnd c)).bed (keyBed (keyOf c))).move = none := by
    rw [State.begun_ctx h, Ctx.counted_ev, keyOf_bed, State.begun_bed h]
    exact hm
  have hgo : (((s.begun c (.spEnd c)).ctx (keyOf c)).winWrites.isEmpty && !(s.begun c (.spEnd c)).dirtyLines
    (keyOf c)) = true := by
    rw [State.begun_ctx h, Ctx.counted_winWrites, hw, begun_dirtyLines h, hd]
    rfl
  rw [exec_spEnd, execSpEnd, sprig_next _ h]
  dsimp only
  rw [if_pos hgo, State.finishHandler_eq hm']

/-- A commit whose write-back completes. -/
theorem exec_commitWriteBack_done (hrun : s.enginesRun = true) (hact : (s.ctx (keyOf c)).active = true)
    (hwait : (s.ctx (keyOf c)).wait = .commit) (hw : (s.ctx (keyOf c)).winWrites = []) (hup : s.qdrUp = true)
    (hm : (s.ctx (keyOf c)).ev.kind ≠ 0 ∨ (s.bed c.bed.val).move = none) :
    exec (.commitWriteBack c) s = done s ((s.writeBack (keyOf c)).handlerEnd (keyOf c)) := by
  have hb : keyBed (keyOf c) < 16 := keyOf_bed c ▸ c.bed.isLt
  have hm' : ((s.writeBack (keyOf c)).ctx (keyOf c)).ev.kind ≠ 0 ∨
      ((s.writeBack (keyOf c)).bed (keyBed (keyOf c))).move = none := by
    rw [(State.writeBack_alters hb).ctx (by simp), State.writeBack_sems.2, keyOf_bed]
    exact hm
  rw [exec_commitWriteBack, execCommitWriteBack]
  rw [if_pos (by simp [hrun, hact, hwait, hw, hup]), State.finishHandler_eq hm']

/-- What BACKING_FAIL shows of the context and of the bed before the handler ends (R204, R220). -/
def State.unbacked (s : State) (b ch : Nat) : State :=
  (((s.setBit (bedA b (0x1600 + 4 * ch)) 3 true).inc (bedA b 0x150)).event (bedA b 0x108) 7).raise (640 + b) 0x2A
    false ch

theorem State.unbacked_quiet (s : State) (b ch : Nat) : s.Quiet (s.unbacked b ch) :=
  (((s.setBit_quiet _ _ _).trans (State.inc_quiet _ _)).trans (State.event_quiet _ _ _)).trans
    (State.raiseAs_quiet _ _ _ _ _ _)

/-- The event of BACKING_FAIL and its report leave the other registers of the bed. -/
theorem State.unbacked_rd (s : State) {b : Nat} (hb : b < 16) (ch : Nat) {o : Nat} (h8 : o ≠ 8) (h108 : o ≠ 0x108) :
    (s.unbacked b ch).rd (bedA b o) =
      ((s.setBit (bedA b (0x1600 + 4 * ch)) 3 true).inc (bedA b 0x150)).rd (bedA b o) := by
  rw [State.unbacked, State.raise, State.rd_raiseAs_ne _ _ _ _ _ (bedA_not_report (640 + b) b o (by omega)),
    State.rd_event_ne _ _ (by unfold bedA; omega)]
  intro k i base e
  rw [blockOf_bed hb (by omega)] at e
  obtain ⟨-, -, rfl⟩ := e
  unfold bedA; omega

theorem State.unbacked_bit (s : State) {b : Nat} (hb : b < 16) {ch : Nat} (hch : ch < 64) :
    (s.unbacked b ch).bit (bedA b (0x1600 + 4 * ch)) 3 = true := by
  rw [State.bit_congr (s.unbacked_rd hb ch (by omega) (by omega)),
    State.bit_congr (State.rd_inc_ne _ (by unfold bedA; omega)), State.bit_setBit_same _ _ (by omega)]

theorem State.unbacked_count (s : State) {b : Nat} (hb : b < 16) (ch : Nat) :
    (s.unbacked b ch).nat (bedA b 0x150) = (s.nat (bedA b 0x150) + 1) % 2 ^ 32 := by
  rw [State.nat_congr (s.unbacked_rd hb ch (by omega) (by omega)), State.nat_inc_same,
    State.nat_congr (State.rd_setBit_ne _ _ _ (by unfold bedA; omega))]

theorem not_handlerReg {b o : Nat} (h : o < 0x1600) (ho : o ≠ 0x154) (ch : Option Nat) :
    ¬ handlerReg b ch (bedA b o) := by
  rintro (h' | h' | h')
  · unfold furReg bedA at h'; omega
  · unfold bedA at h'; omega
  · exact not_idleReg h ch h'

theorem exec_backingFail_done {ch : Nat} (hrun : s.enginesRun = true) (hact : (s.ctx (keyOf c)).active = true)
    (hwait : (s.ctx (keyOf c)).wait = .commit) (hw : (s.ctx (keyOf c)).winWrites = [])
    (hch : (s.ctx (keyOf c)).bound = some ch) (hd : s.dirtyLines (keyOf c) = true)
    (ht : (s.ctx (keyOf c)).commitAt + 50000 ≤ s.now) (hk : (s.ctx (keyOf c)).ev.kind ≠ 0) :
    exec (.backingFail c) s = done s ((s.unbacked c.bed.val ch).handlerEnd (keyOf c)) := by
  have hk' : ((s.unbacked c.bed.val ch).ctx (keyOf c)).ev.kind ≠ 0 := by
    rwa [State.ctx_congr (s.unbacked_quiet _ _).ctxs]
  rw [← State.finishHandler_eq (.inl hk'), exec_backingFail, execBackingFail]
  dsimp only
  rw [if_pos (by simp [hrun, hact, hwait, hw, hd, usNs, ht]), hch]
  rfl

/-- END with window writes outstanding or lines to write back: the context waits for the commit. -/
theorem spEnd_waits {x : Ctx} (h : s.issues c (.spEnd c) = true) (hx : s.ctx (keyOf c) = x)
    (hw : x.winWrites ≠ [] ∨ s.dirtyLines (keyOf c) = true) : completes (.spEnd c) s fun t =>
      sameCtx (t.ctx (keyOf c)) { past x 1 with wait := .commit, commitAt := t.now } ∧ SlotTaken (.spEnd c) c s t := by
  have hno : (((s.begun c (.spEnd c)).ctx (keyOf c)).winWrites.isEmpty &&
      !(s.begun c (.spEnd c)).dirtyLines (keyOf c)) = false := by
    rw [State.begun_ctx h, Ctx.counted_winWrites, begun_dirtyLines h, hx]
    obtain hw | hw := hw
    · rw [List.isEmpty_eq_false_iff.mpr hw, Bool.false_and]
    · rw [hw, Bool.not_true, Bool.and_false]
  obtain ⟨u, hq, he⟩ : ∃ u, ((s.begun c (.spEnd c)).setCtx (keyOf c)
      { x.counted.next 1 with wait := .commit, commitAt := (s.begun c (.spEnd c)).now }).Quiet u ∧
      exec (.spEnd c) s = .next (s.ended c (.spEnd c) u) := by
    rw [exec_spEnd, execSpEnd, sprig_next _ h]
    dsimp only
    rw [if_neg (by simp [hno]), State.begun_ctx h, hx]
    split
    · split
      · exact ⟨_, State.setBit_quiet _ _ _ _, rfl⟩
      · exact ⟨_, .refl _, rfl⟩
    · exact ⟨_, .refl _, rfl⟩
  refine ⟨_, he, ?_, ended_slot h (hq.engines.trans (State.engines_setCtx _ _ _)) fun b _ => ?_⟩
  · rw [State.ended_ctx, State.ctx_congr hq.ctxs, State.ctx_setCtx_same, ← State.atIssue_now_eq h]
    exact ⟨fun _ => rfl, rfl⟩
  · rw [State.cycle, hq.cycles, State.cycle]
    rfl

end

/-- Settles O23: each way to the end of the handler, from what that end releases. -/
theorem sprigCommit : Obligations.SprigCommit := by
  unfold Obligations.SprigCommit
  intro c s x b k hok hk
  have hx : s.ctx (keyOf c) = x := rfl
  have hkb : keyBed (keyOf c) = b := keyOf_bed c
  have hb16 : keyBed (keyOf c) < 16 := hkb ▸ c.bed.isLt
  have hbound : ∀ ch, (s.ctx (keyOf c)).bound = some ch → ch < 64 := (hok (keyOf c)).1
  refine ⟨fun h hw hd => ⟨_, exec_spEnd_next h hw hd (.inl hk), ?now⟩, fun h hw => spEnd_waits h hx hw,
    fun hrun hact hwait hw => ⟨fun hup => ?back, fun ch hch hd ht => ?fail⟩⟩
  case now =>
    have hp : ∀ p, p ∉ [.cur, .inv, .now, .engines, .cycles, .ctxs, .furs, .beds] →
        Part.same p s ((s.begun c (.spEnd c)).handlerEnd k) := fun p hp =>
      keeps_trans ((State.begun_alters h).mono (qs := [.now, .engines, .cycles, .ctxs, .furs, .beds]) (fun _ => id)
        (by simp)).parts
        (((s.begun c (.spEnd c)).handlerEnd_alters k).mono (fun _ => id) (by simp)).parts p hp
    refine ⟨released_ended (handlerEnd_released _ c), ⟨?_, ?_⟩, fun F hF ho => ?_, fun F hF ho => ?_⟩
    · rw [State.ended_qdr]
      exact hp .qdr (by simp)
    · rw [State.ended_flash]
      exact hp .flash (by simp)
    · rw [State.ended_fur, State.handlerEnd_fur, begun_fur h, if_pos ⟨hF, ho⟩]
      rfl
    · rw [State.ended_fur, State.handlerEnd_fur, begun_fur h, if_neg fun e => ho e.2]
  case back =>
    have hwb := State.writeBack_alters (s := s) hb16
    have hfur : ∀ F, (s.writeBack k).fur F = s.fur F := State.fur_congr (hwb.part (p := .furs) (by simp))
    refine completes_closed (exec_commitWriteBack_done hrun hact hwait hw hup (.inl hk))
      ⟨released_closed (handlerEnd_released _ c), fun F hF ho => ?_, fun ch hch => ⟨?_, ?_⟩⟩
    · rw [State.closed_fur, State.handlerEnd_fur, hfur, if_pos ⟨hF, ho⟩]
      rfl
    · have := congrArg Bed.dirty ((s.writeBack k).handlerEnd_calm k)
      rw [State.closed_bed, ← hkb, show ((State.handlerEnd _ _).bed _).dirty = _ from this, State.writeBack_bed hch]
      exact Tab.get_set_same (s.bed (keyBed k)).dirty 0 ch 0
    · rw [State.closed_bit, ← hkb, State.handlerEnd_bit (by rw [hwb.ctx (by simp)]; exact hch) (hbound ch hch)]
      simp
  case fail =>
    have hch' : ((s.unbacked b ch).ctx k).bound = some ch :=
      by rw [State.ctx_congr (s.unbacked_quiet _ _).ctxs]; exact hch
    refine completes_closed (exec_backingFail_done hrun hact hwait hw hch hd ht hk)
      ⟨released_closed (handlerEnd_released _ c), ?_, ?_⟩
    · rw [State.closed_bit, ← hkb, State.handlerEnd_bit (by exact hch') (hbound ch hch), hkb]
      simpa using s.unbacked_bit c.bed.isLt (hbound ch hch)
    · rw [State.closed_nat, ← hkb, (State.handlerEnd_alters _ k).nat (not_handlerReg (by omega) (by omega) _), hkb]
      exact s.unbacked_count c.bed.isLt ch

end Sys2Proof.Machine
end

section
/-! SUPPORT. A handler dropped: what an abort does to its context (R205). -/

namespace Sys2Proof.Machine

open Sys2Proof.Cert

/-! ### A handler dropped (R205) -/

/-- The registers that dropping a handler of bed `b` alters. -/
def dropReg (b a : Nat) : Prop := counting a ∨ furReg a ∨ a = bedA b 0x154 ∨ bedA b 0x1600 ≤ a

theorem idleReg_dropReg {b a : Nat} {o : Option Nat} (h : idleReg b o a) : dropReg b a := by
  obtain ⟨ch, -, h⟩ | ⟨e, -, h⟩ := h
  · exact .inr (.inr (.inr (by unfold bedA at *; omega)))
  · exact .inr (.inr (.inr (by unfold bedA at *; omega)))

/-- Of the registers below the contexts', it alters SEM_LEAK alone. -/
theorem not_dropReg {b o : Nat} (h : o < 0x1600) (ho : o ≠ 0x154) : ¬ dropReg b (bedA b o) := by
  rintro (h' | h' | h' | h')
  · exact bedA_not_counting b o h'
  · unfold furReg bedA at h'; omega
  · unfold bedA at h'; omega
  · unfold bedA at h'; omega

theorem State.copyIn_alters {P : Nat → Prop} (s : State) (q a len : Nat) (h : ∀ k, P (a + 4 * k)) (ps : List Part) :
    s.Alters P ps (s.copyIn q a len) :=
  (State.Alters.refl P ps s).foldl fun u k _ => (State.Alters.refl P ps u).wrN (h k) _

section
variable {s : State} {key : Nat}

/-- The furrows of the handler rewound, counts aside. -/
def State.rewound (s : State) (key : Nat) : State :=
  let t := (s.tallyBed (keyBed key) (keyEng key) 8 1).tallyBed (keyBed key) (keyEng key) 9 (s.ctx key).issued
  (t.owned key).foldl State.rewindFur t

theorem State.rewound_alters (hb : keyBed key < 16) :
    s.Alters (fun a => counting a ∨ furReg a) [.furs, .beds] (s.rewound key) := by
  have h := ((State.Alters.refl (fun a => counting a ∨ furReg a) [.furs, .beds] s).tallyBed (fun _ => .inl) hb
    (keyEng key) 8 1).tallyBed (fun _ => .inl) hb (keyEng key) 9 (s.ctx key).issued
  exact h.trans ((State.foldl_work (fun _ _ hF => State.rewindFur_work (State.mem_owned.mp hF).1) _).alters.mono
    (fun _ => .inr) (by simp))

theorem State.rewound_calm (j : Nat) : ((s.rewound key).bed j).calm = (s.bed j).calm := by
  let t := (s.tallyBed (keyBed key) (keyEng key) 8 1).tallyBed (keyBed key) (keyEng key) 9 (s.ctx key).issued
  have h : t.FurWork (s.rewound key) :=
    State.foldl_work (fun _ _ hF => State.rewindFur_work (State.mem_owned.mp hF).1) t
  refine (h.beds j).trans ?_
  rw [State.bed_congr (State.tallyBed_quiet _ _ _ _ _).beds, State.bed_congr (State.tallyBed_quiet _ _ _ _ _).beds]

/-- The bound channel context restored from its backing copy, or marked TORN where that copy is not valid. -/
def State.unbound (s : State) (b : Nat) (o : Option Nat) : State :=
  match o with
  | none => s
  | some c =>
    if s.bit (bedA b (0x1600 + 4 * c)) 3 then s.setBit (bedA b (0x1600 + 4 * c)) 4 true
    else ((s.restoreCtx b c).setBed b ((s.bed b).cleaned c)).setBit (bedA b (0x1600 + 4 * c)) 1 false

theorem State.unbound_alters (b : Nat) (o : Option Nat) : s.Alters (bedA b 0x1600 ≤ ·) [.beds] (s.unbound b o) := by
  unfold State.unbound
  split
  · exact .refl _ _ s
  · next c =>
    have hc : bedA b 0x1600 ≤ bedA b (0x1600 + 4 * c) := by unfold bedA; omega
    split
    · exact (State.Alters.refl _ _ s).setBit hc _ _
    · exact ((s.copyIn_alters _ _ _ (fun k => by unfold bedA; omega) _).setBed (by simp) _ _).setBit hc _ _

/-- Of a bed it changes the lines to write back alone. -/
theorem State.unbound_bed (b : Nat) (o : Option Nat) : ((s.unbound b o).bed b).sems = (s.bed b).sems := by
  unfold State.unbound
  split
  · rfl
  · split
    · rw [State.bed_congr (State.setBit_quiet _ _ _ _).beds]
    · rw [State.bed_congr (State.setBit_quiet _ _ _ _).beds, State.bed_setBed_same]
      rfl

theorem State.unbound_bed_ne (b : Nat) (o : Option Nat) {j : Nat} (h : j ≠ b) : (s.unbound b o).bed j = s.bed j := by
  unfold State.unbound
  split
  · rfl
  · next c =>
    split
    · rw [State.bed_congr (State.setBit_quiet _ _ _ _).beds]
    · rw [State.bed_congr (State.setBit_quiet _ _ _ _).beds, State.bed_setBed_ne _ _ h, State.restoreCtx]
      exact (s.copyIn_alters (P := fun _ => True) _ _ _ (fun _ => trivial) []).bed (by simp) j

theorem State.dropHandler_eq (s : State) (key : Nat) : s.dropHandler key =
    (((s.rewound key).releaseSems (keyBed key) key).unbound (keyBed key) (s.ctx key).bound).idleCtx key := by
  unfold State.dropHandler State.unbound
  delta State.rewound Bed.cleaned
  cases h : (s.ctx key).bound <;> simp only [h]

theorem State.dropHandler_alters (hb : keyBed key < 16) :
    s.Alters (dropReg (keyBed key)) [.furs, .beds, .ctxs] (s.dropHandler key) := by
  rw [State.dropHandler_eq]
  have h1 := (s.rewound_alters hb).mono (Q := dropReg (keyBed key)) (qs := [.furs, .beds, .ctxs])
    (fun _ h => h.imp id .inl) (by simp)
  have h2 := h1.trans ((State.releaseSems_alters _ _ key).mono (fun _ h => .inr (.inr (.inl h))) (by simp))
  have h3 := h2.trans ((State.unbound_alters (keyBed key) (s.ctx key).bound).mono (fun _ h => .inr (.inr (.inr h)))
    (by simp))
  exact h3.trans ((State.idleCtx_alters _ key).mono (fun _ => idleReg_dropReg) (by simp))

theorem State.dropHandler_sems :
    ((s.dropHandler key).bed (keyBed key)).sems = ((s.bed (keyBed key)).semsBut key).sems := by
  rw [State.dropHandler_eq, (State.idleCtx_alters _ key).bed (by simp), State.unbound_bed, State.releaseSems_bed]
  exact congrArg (fun l : Tab Nat => l.filter _) (congrArg Bed.sems (s.rewound_calm (keyBed key)) :)

theorem State.dropHandler_calm_ne {j : Nat} (h : j ≠ keyBed key) :
    ((s.dropHandler key).bed j).calm = (s.bed j).calm := by
  rw [State.dropHandler_eq, (State.idleCtx_alters _ key).bed (by simp), State.unbound_bed_ne _ _ h,
    State.releaseSems_bed_ne _ _ h, State.rewound_calm]

/-- The semaphores that the handler held are counted in SEM_LEAK. -/
theorem State.dropHandler_leak (hb : keyBed key < 16) :
    (s.dropHandler key).nat (bedA (keyBed key) 0x154) =
      (s.nat (bedA (keyBed key) 0x154) + (s.bed (keyBed key)).semCount key) % 2 ^ 32 := by
  rw [State.dropHandler_eq, (State.idleCtx_alters _ key).nat (not_idleReg (by omega) _),
    (State.unbound_alters _ _).nat (by unfold bedA; omega), State.releaseSems_leak, (s.rewound_alters hb).nat ?_]
  · exact congrArg (fun l : Tab Nat => (_ + (l.filter (fun e => e.2 == key + 1)).length) % 2 ^ 32)
      (congrArg Bed.sems (s.rewound_calm (keyBed key)) :)
  · rintro (h | h)
    · exact bedA_not_counting _ _ h
    · unfold furReg bedA at h; omega

end

end Sys2Proof.Machine
end

section
/-! SUPPORT. What an abort reports, and the engine that it may retire (R205, R212, R213). -/

namespace Sys2Proof.Machine

open Sys2Proof.Cert

/-! ### What an abort reports (R205, R212, R213) -/

/-- The registers that the abort's report and the event dispatched again leave: SEM_LEAK, the count of retired engines
and its limit. -/
def spared (b a : Nat) : Prop := a = bedA b 0x104 ∨ a = bedA b 0x110 ∨ a = bedA b 0x154

/-- A step of an abort of bed `b` that leaves the semaphores and those registers. -/
structure State.SemsStay (b : Nat) (s t : State) : Prop where
  alters : s.Alters (fun a => ¬ spared b a) [.beds] t
  sems : (t.bed b).sems = (s.bed b).sems

theorem State.SemsStay.trans {b : Nat} {s t u : State} (h : s.SemsStay b t) (k : t.SemsStay b u) : s.SemsStay b u :=
  ⟨h.alters.trans k.alters, k.sems.trans h.sems⟩

theorem State.SemsStay.fld {b o : Nat} {s t : State} (h : s.SemsStay b t) (ho : spared b (bedA b o)) (hi lo : Nat) :
    t.fld (bedA b o) hi lo = s.fld (bedA b o) hi lo := h.alters.fld (not_not_intro ho) hi lo

theorem State.SemsStay.nat {b o : Nat} {s t : State} (h : s.SemsStay b t) (ho : spared b (bedA b o)) :
    t.nat (bedA b o) = s.nat (bedA b o) := h.alters.nat (not_not_intro ho)

section
variable {s : State} {b e : Nat}

/-- The counts of the abort, FAULT_INFO and the report of the handler's fault. -/
def State.faultReported (s : State) (b e info detail : Nat) : State :=
  ((((s.inc (bedA b (0x2004 + 0x20 * e))).inc (bedA b 0x144)).wrN (bedA b (0x2008 + 0x20 * e)) info).event
    (bedA b 0x108) 0).raiseLim 1 e (640 + b) 0x23 false detail

theorem not_spared {b o : Nat} (h : o < 0x104 ∨ 0x104 < o ∧ o < 0x110 ∨ 0x110 < o ∧ o < 0x154 ∨ 0x154 < o) :
    ¬ spared b (bedA b o) := by
  unfold spared bedA; omega

theorem spared_not_report {a : Nat} (h : spared b a) (hb : b < 16) : ¬ reportReg (640 + b) a := by
  obtain rfl | rfl | rfl := h <;> exact bedA_not_report _ _ _ (by omega)

theorem State.faultReported_semsStay (hb : b < 16) (info detail : Nat) :
    s.SemsStay b (s.faultReported b e info detail) := by
  have h := (((((State.Alters.refl (fun a => ¬ spared b a) [] s).inc
    (not_spared (o := 0x2004 + 0x20 * e) (by omega))).inc (not_spared (o := 0x144) (by omega))).wrN
    (not_spared (o := 0x2008 + 0x20 * e) (by omega)) info).bedEvent hb (by omega) (not_spared (o := 0x108) (by omega))
    (not_spared (o := 8) (by omega)) 0).raiseLim (fun a ha hs => spared_not_report hs hb ha) 1 e 0x23 false detail
  exact ⟨h.mono (fun _ => id) (by simp), congrArg Bed.sems (h.bed (by simp) b)⟩

/-- NOTICED of any furrow lies in none of them. -/
theorem State.unnotice_semsStay (F : Nat) : s.SemsStay b (s.unnotice F) := by
  refine ⟨?_, (congrArg Bed.sems (s.unnotice_beds F b) :)⟩
  rw [State.unnotice_eq]
  exact ((State.Alters.refl _ _ s).setBit (by unfold spared bedA furA; omega) _ _).setBed (by simp) _ _

theorem State.setBed_semsStay {x : Bed} (h : x.sems = (s.bed b).sems) : s.SemsStay b (s.setBed b x) :=
  ⟨(State.Alters.refl _ _ s).setBed (by simp) _ _, by rw [State.bed_setBed_same, h]⟩

theorem State.redispatch_semsStay (x : Ctx) : s.SemsStay b (s.redispatch b x) := by
  unfold State.redispatch
  dsimp only
  split
  · exact State.setBed_semsStay rfl
  · split <;> exact State.setBed_semsStay rfl

/-- The event of the handler dispatched again, or given up. -/
def State.eventBack (s : State) (b : Nat) (x : Ctx) : State :=
  if x.ev.kind = 0 then s
  else if x.ev.again then
    match x.evFur with | some F => s.unnotice F | none => s
  else s.redispatch b x

theorem State.eventBack_semsStay (x : Ctx) : s.SemsStay b (s.eventBack b x) := by
  have hs : s.SemsStay b s := ⟨.refl _ _ s, rfl⟩
  unfold State.eventBack
  split
  · exact hs
  · split
    · split
      · exact State.unnotice_semsStay _
      · exact hs
    · exact State.redispatch_semsStay x

/-- One engine more may be retired; SEM_LEAK and the limit stay. -/
theorem State.retire_limit (hb : b < 16) : (s.retire b e).bed b = s.bed b ∧
    (s.retire b e).nat (bedA b 0x154) = s.nat (bedA b 0x154) ∧
    (s.retire b e).fld (bedA b 0x110) 13 8 = s.fld (bedA b 0x110) 13 8 ∧
    (s.retire b e).fld (bedA b 0x104) 13 8 ≤ s.fld (bedA b 0x104) 13 8 + 1 := by
  unfold State.retire
  split
  · exact ⟨rfl, rfl, rfl, Nat.le_succ _⟩
  · dsimp only
    have h1 := (State.Alters.refl (fun a => ¬ spared b a) [] s).setBit
      (not_spared (o := 0x2000 + 0x20 * e) (by omega)) 8 true
    have h2 (t : State) := ((State.Alters.refl (fun a => ¬ spared b a) [] t).bedEvent hb (by omega)
      (not_spared (o := 0x108) (by omega)) (not_spared (o := 8) (by omega)) 1).raise
        (fun a ha hs => spared_not_report hs hb ha) 0x24 false e
    have hn : ∀ o hi lo v, o ≠ 0x104 → ∀ t : State, (t.setFld (bedA b 0x104) hi lo v).rd (bedA b o) = t.rd (bedA b o) :=
      fun o hi lo v ho t => State.rd_setFld_ne _ _ _ _ (by unfold bedA; omega)
    refine ⟨?_, ?_, ?_, ?_⟩
    · rw [(h2 _).bed (by simp), State.bed_congr (State.setFld_quiet _ _ _ _ _).beds, h1.bed (by simp)]
    · rw [(h2 _).nat (not_not_intro (.inr (.inr rfl))), State.nat_congr (hn _ _ _ _ (by omega) _),
        h1.nat (not_not_intro (.inr (.inr rfl)))]
    · rw [(h2 _).fld (not_not_intro (.inr (.inl rfl))), State.fld_congr (hn _ _ _ _ (by omega) _),
        h1.fld (not_not_intro (.inr (.inl rfl)))]
    · rw [(h2 _).fld (not_not_intro (.inl rfl)), State.fld_setFld_same _ _ (by omega) (by omega)]
      exact Nat.mod_le _ _

/-- The state of an abort once its event is back. -/
def State.abortReported (s : State) (key cause : Nat) : State :=
  ((s.dropHandler key).faultReported (keyBed key) (keyEng key) ((s.ctx key).pc.toNat + cause * 65536)
    ((s.ctx key).pc.toNat + cause * 2 ^ 16 + keyEng key * 2 ^ 20 +
      ((s.ctx key).ev.again && (s.ctx key).ev.kind != 0).toNat * 2 ^ 25)).eventBack (keyBed key) (s.ctx key)

/-- The times of the engine's aborts in the last second, this one first. -/
def State.abortsNow (s : State) (b e : Nat) : List Nat :=
  s.now :: (Tab.get (s.bed b).abortTimes [] e).filter (fun u => decide (s.now < u + secNs))

/-- The abort's time noted. -/
def State.abortNoted (s : State) (key cause : Nat) : State :=
  s.setBed (keyBed key) { s.bed (keyBed key) with
    abortTimes := Tab.set (s.bed (keyBed key)).abortTimes [] (keyEng key) (s.abortsNow (keyBed key) (keyEng key))
    parity := if cause = 10 then key :: (s.bed (keyBed key)).parity else (s.bed (keyBed key)).parity }

/-- An abort after which the engine is retired where it aborted too often. -/
def State.abortRetired (s : State) (key cause : Nat) : State :=
  if decide (max 1 ((s.abortNoted key cause).fld (bedA (keyBed key) 0x110) 7 0) ≤
      (s.abortsNow (keyBed key) (keyEng key)).length) ||
      (cause == 10 && (s.bed (keyBed key)).parity.contains key) then
    (s.abortNoted key cause).retire (keyBed key) (keyEng key)
  else s.abortNoted key cause

/-- An abort: the bed faults where INIT aborted, or where too many engines are retired. -/
theorem State.abortCtx_eq (s : State) (key cause : Nat) : s.abortCtx key cause =
    let t := (s.abortReported key cause).abortRetired key cause
    if (s.ctx key).ev.kind = 0 then t.bedFault (keyBed key) 4
    else if max 1 (t.fld (bedA (keyBed key) 0x110) 13 8) < t.fld (bedA (keyBed key) 0x104) 13 8 then
      t.bedFault (keyBed key) 1 else t := by
  rfl

theorem State.abortReported_semsStay {key : Nat} (hb : keyBed key < 16) (cause : Nat) :
    (s.dropHandler key).SemsStay (keyBed key) (s.abortReported key cause) :=
  (State.faultReported_semsStay hb _ _).trans (State.eventBack_semsStay _)

/-- An abort that retires one engine more at most. -/
theorem State.abortRetired_limit {key : Nat} (hb : keyBed key < 16) (cause : Nat) :
    ((s.abortRetired key cause).bed (keyBed key)).sems = (s.bed (keyBed key)).sems ∧
    (s.abortRetired key cause).nat (bedA (keyBed key) 0x154) = s.nat (bedA (keyBed key) 0x154) ∧
    (s.abortRetired key cause).fld (bedA (keyBed key) 0x110) 13 8 = s.fld (bedA (keyBed key) 0x110) 13 8 ∧
    (s.abortRetired key cause).fld (bedA (keyBed key) 0x104) 13 8 ≤ s.fld (bedA (keyBed key) 0x104) 13 8 + 1 := by
  have hn : s.SemsStay (keyBed key) (s.abortNoted key cause) := State.setBed_semsStay rfl
  have h154 := hn.nat (.inr (.inr rfl))
  have h110 := hn.fld (.inr (.inl rfl)) 13 8
  have h104 := hn.fld (.inl rfl) 13 8
  unfold State.abortRetired
  split
  · obtain ⟨hbed, h154', h110', h104'⟩ := State.retire_limit (s := s.abortNoted key cause) (e := keyEng key) hb
    exact ⟨hbed ▸ hn.sems, h154'.trans h154, h110'.trans h110, h104 ▸ h104'⟩
  · exact ⟨hn.sems, h154, h110, h104.le.trans (Nat.le_succ _)⟩

/-- An abort with which the bed does not fault frees the semaphores of the handler and counts them (R200). -/
theorem State.abortCtx_frees {key : Nat} (hb : keyBed key < 16) (cause : Nat) (hk : (s.ctx key).ev.kind ≠ 0)
    (hl : s.fld (bedA (keyBed key) 0x104) 13 8 < max 1 (s.fld (bedA (keyBed key) 0x110) 13 8)) :
    ((s.abortCtx key cause).bed (keyBed key)).sems = ((s.bed (keyBed key)).semsBut key).sems ∧
    (s.abortCtx key cause).nat (bedA (keyBed key) 0x154) =
      (s.nat (bedA (keyBed key) 0x154) + (s.bed (keyBed key)).semCount key) % 2 ^ 32 := by
  have hd := State.dropHandler_alters (s := s) hb
  have hr := State.abortReported_semsStay (s := s) hb cause
  obtain ⟨hsems, h154, h110, h104⟩ := State.abortRetired_limit (s := s.abortReported key cause) hb cause
  rw [hr.fld (.inr (.inl rfl)), hd.fld (not_dropReg (by omega) (by omega))] at h110
  rw [hr.fld (.inl rfl), hd.fld (not_dropReg (by omega) (by omega))] at h104
  rw [State.abortCtx_eq]
  dsimp only
  rw [if_neg hk, if_neg (by omega), hsems, hr.sems, State.dropHandler_sems, h154, hr.nat (.inr (.inr rfl)),
    State.dropHandler_leak hb]
  exact ⟨rfl, rfl⟩

end

end Sys2Proof.Machine
end

section
/-! PROOF. Semaphores (R200): O12. -/

namespace Sys2Proof.Machine

open Sys2Proof.Cert

theorem exec_watchdogExpiry (c : CtxId) (s : State) : exec (.watchdogExpiry c) s = execWatchdogExpiry c s := rfl

section
variable {t : State} {c : CtxId} {rd : BitVec 4} {k : Nat}

theorem bedLoad_sem_held (hk : k < 64) (h : Tab.get (t.bed c.bed.val).sems 0 k ≠ 0) :
    t.bedLoad c rd (0x30040 + k) = ((t.noteSemLoad c.bed.val).bedEv c 14).gives c rd 0 := by
  rw [State.bedLoad, bedPlace_sem hk]
  exact if_neg h

/-- A bed whose semaphore `k` is taken by the context of key `key`. -/
def Bed.taken (x : Bed) (k key : Nat) : Bed := { x with sems := Tab.set x.sems 0 k (key + 1) }

theorem bedLoad_sem_free (hk : k < 64) (h : Tab.get (t.bed c.bed.val).sems 0 k = 0) :
    t.bedLoad c rd (0x30040 + k) = ((t.noteSemLoad c.bed.val).setBed c.bed.val
      ((t.bed c.bed.val).taken k (keyOf c))).gives c rd 1 := by
  rw [State.bedLoad, bedPlace_sem hk]
  exact if_pos h

end

section
variable {c : CtxId} {rd ra page : BitVec 4} {disp : BitVec 12} {s : State} {x : Ctx} {k : Nat}

/-- Every semaphore of the context is free, every other one as it was, and those freed are counted. -/
def SemsFreed (c : CtxId) (s t : State) : Prop :=
  (∀ j, Tab.get (t.bed c.bed.val).sems 0 j ≠ keyOf c + 1 ∧
    (Tab.get (s.bed c.bed.val).sems 0 j ≠ keyOf c + 1 →
      Tab.get (t.bed c.bed.val).sems 0 j = Tab.get (s.bed c.bed.val).sems 0 j)) ∧
  t.nat (bedA c.bed.val 0x154) = (s.nat (bedA c.bed.val 0x154) + (s.bed c.bed.val).semCount (keyOf c)) % 2 ^ 32

theorem semsFreed_of {t : State} (hs : (t.bed (keyBed (keyOf c))).sems =
    ((s.bed (keyBed (keyOf c))).semsBut (keyOf c)).sems)
    (hn : t.nat (bedA (keyBed (keyOf c)) 0x154) =
      (s.nat (bedA (keyBed (keyOf c)) 0x154) + (s.bed (keyBed (keyOf c))).semCount (keyOf c)) % 2 ^ 32) :
    SemsFreed c s t := by
  rw [keyOf_bed] at hs hn
  refine ⟨fun j => ?_, hn⟩
  rw [hs]
  exact sems_released _ (Nat.succ_ne_zero _).symm j

theorem semsFreed_ended {i : Instr} {t : State} (h : SemsFreed c s t) : SemsFreed c s (s.ended c i t) := by
  unfold SemsFreed at h ⊢
  rwa [State.ended_bed, State.ended_nat]

theorem semsFreed_closed {t : State} (h : SemsFreed c s t) : SemsFreed c s (s.closed t) := by
  unfold SemsFreed at h ⊢
  rwa [State.closed_bed, State.closed_nat]

theorem State.handlerEnd_sems (u : State) (key : Nat) :
    ((u.handlerEnd key).bed (keyBed key)).sems = ((u.bed (keyBed key)).semsBut key).sems :=
  (congrArg Bed.sems (u.handlerEnd_calm key) :)

theorem semsFreed_handlerEnd {u : State} (hs : (u.bed c.bed.val).sems = (s.bed c.bed.val).sems)
    (hn : u.nat (bedA c.bed.val 0x154) = s.nat (bedA c.bed.val 0x154)) : SemsFreed c s (u.handlerEnd (keyOf c)) := by
  refine semsFreed_of ?_ ?_
  · rw [State.handlerEnd_sems, keyOf_bed]
    exact congrArg (List.filter _) hs
  · rw [State.handlerEnd_leak, keyOf_bed, hn, Bed.semCount, hs, Bed.semCount]

/-- A state is the one with another's clock, slots and contexts, its own cycles and contexts put back. -/
theorem State.timedAs_back {w t : State} (hn : w.now = t.now) (he : w.engines = t.engines) :
    ((w.timedAs t).setCycles w.cycles).setCtxs w.ctxs = w := by
  rw [State.timedAs, ← hn, ← he]
  simp only [State.setNow, State.setEngines, State.setCycles, State.setCtxs]

theorem State.timedAs_self (t : State) : t.timedAs t = t := by
  simp only [State.timedAs, State.setNow, State.setEngines, State.setCycles, State.setCtxs]

theorem State.timedAs_noteSemLoad (r t : State) (k b : Nat) (y : Ctx) :
    ((r.setCtx k y).noteSemLoad b).timedAs t = r.timedAs t := by
  simp only [State.timedAs, State.noteSemLoad, State.setCtx, State.setCycle, State.setNow, State.setEngines,
    State.setCycles, State.setCtxs]

section
variable {t r w : State} {b j : Nat} {y : Ctx} (hr : t.Quiet r) (hw : ((r.setCtx k y).noteSemLoad b).Quiet w)
include hr hw

/-- A state that counts, a new context and the note of a load lead to: without the last two it is quiet. -/
theorem State.noted_quiet : t.Quiet (w.timedAs t) := by
  have h1 := hr.timedAs t
  have h2 := hw.timedAs t
  rw [State.timedAs_self] at h1
  rw [State.timedAs_noteSemLoad] at h2
  exact h1.trans h2

/-- With them it is the state. -/
theorem State.noted_eq : ((w.timedAs t).setCycles w.cycles).setCtx k y = w := by
  have hback := State.timedAs_back (w := w) (t := t) (hw.now.trans hr.now) (hw.engines.trans hr.engines)
  have hctxs : w.ctxs = Tab.set t.ctxs Ctx.init k y := by
    rw [hw.ctxs, ← hr.ctxs]
    rfl
  rwa [hctxs] at hback

theorem State.noted_cycle (hj : j ≠ b) : Tab.get w.cycles Cycle.init j = t.cycle j := by
  rw [hw.cycles, State.cycle, ← hr.cycles]
  exact Tab.get_set_ne _ _ _ _ hj

end

/-- A load of a semaphore that is held answers 0. -/
theorem spLdb_sem_held (h : s.issues c (.spLdb c rd ra page disp) = true) (hx : s.ctx (keyOf c) = x) (hk : k < 64)
    (ha : x.bedAddr ra page disp = 0x30040 + k) (hheld : Tab.get (s.bed c.bed.val).sems 0 k ≠ 0) :
    leads (.spLdb c rd ra page disp) c s (past (x.setReg rd 0) 2) := by
  obtain ⟨t, ht⟩ : ∃ t, t = s.begun c (.spLdb c rd ra page disp) := ⟨_, rfl⟩
  obtain ⟨r, hrt⟩ : ∃ r, r = t.winEv c (0x30040 + k) 0 := ⟨_, rfl⟩
  obtain ⟨v, hv⟩ : ∃ v, v = (r.setCtx (keyOf c) (x.counted.next 2)).noteSemLoad c.bed.val := ⟨_, rfl⟩
  have hact : x.active = true := hx ▸ State.issues_active h
  have hr : t.Quiet r := hrt ▸ State.winEv_quiet _ _ _ _
  have hw : v.Quiet (v.bedEv c 14) := State.bedEv_quiet _ _ _
  obtain ⟨w, hwv⟩ : ∃ w, w = v.bedEv c 14 := ⟨_, rfl⟩
  rw [← hwv] at hw
  have hw' := hv ▸ hw
  refine sprig_leads_noting (u := w.timedAs t) (C' := w.cycles) (x := (x.counted.next 2).setReg rd 0)
    (exec_spLdb c rd ra page disp s) h ?_ (ht ▸ State.noted_quiet hr hw')
    (fun b hb => ht ▸ State.noted_cycle hr hw' hb) (fun a hc => ?_) (fun hu => ?_) ⟨fun _ => rfl, rfl⟩ hact
  · have hp := winRefusesLoad_outside r c (a := 0x30040 + k) (by omega)
    have hwk : w.ctx (keyOf c) = x.counted.next 2 := by
      rw [State.ctx_congr hw.ctxs, hv]
      exact State.ctx_setCtx_same _ _ _
    have hheld' : Tab.get ((r.setCtx (keyOf c) (x.counted.next 2)).bed c.bed.val).sems 0 k ≠ 0 := by
      rw [State.bed_setCtx, State.bed_congr hr.beds, ht, State.begun_bed h]
      exact hheld
    simp only [State.begun_ctx h, hx, Ctx.counted_bedAddr, ha]
    rw [← ht, ← hrt, hp, if_neg (by simp), bedLoad_sem_held hk hheld', ← hv, ← hwv, State.gives, hwk]
    refine (congrArg (State.setCtx · (keyOf c) _) (State.noted_eq hr hw').symm).trans ?_
    exact State.setCtx_setCtx _ _ hact hact
  · refine (show (w.timedAs t).rd a = w.rd a from rfl).trans ?_
    rw [hwv, State.rd_bedEv_ne _ _ _ hc, hv, ← ht, ← State.rd_winEv_ne t c (0x30040 + k) 0 hc, hrt]
    rfl
  · rw [← ht] at hu ⊢
    have hr1 : r = t := hrt.trans (State.winEv_uncounted _ _ _ _ hu)
    have hw1 : w = v := hwv.trans (State.bedEv_uncounted _ _ _ fun n => by rw [hv, hr1]; exact hu n)
    rw [hw1, hv, State.timedAs_noteSemLoad, hr1, State.timedAs_self]

/-- A load outside the window issues and has its effect. -/
theorem exec_spLdb_next {a : Nat} (h : s.issues c (.spLdb c rd ra page disp) = true) (hx : s.ctx (keyOf c) = x)
    (ha : x.bedAddr ra page disp = a) (hw : a < 0x40000 ∨ 0x40800 ≤ a) : exec (.spLdb c rd ra page disp) s =
      .next (s.ended c (.spLdb c rd ra page disp)
        ((ldbBase s c (.spLdb c rd ra page disp) a x).bedLoad c rd a)) := by
  have hp := winRefusesLoad_outside ((s.begun c (.spLdb c rd ra page disp)).winEv c a 0) c hw
  rw [exec_spLdb, execSpLdb, sprig_next _ h]
  simp only [State.begun_ctx h, hx, Ctx.counted_bedAddr, ha, hp]
  rfl

theorem ldbBase_alters (i : Instr) (a : Nat) : (s.begun c i).Alters counting [.ctxs] (ldbBase s c i a x) :=
  ((State.Alters.refl counting [.ctxs] _).quiet (State.winEv_quiet _ c a 0) fun _ hq =>
    State.rd_winEv_ne _ c a 0 fun e => hq (countReg_counting e)).setCtx (by simp) _ _

theorem begun_beds {i : Instr} (h : s.issues c i = true) : (s.begun c i).beds = s.beds :=
  (State.begun_alters h).part (p := .beds) (by simp)

theorem ldbBase_beds {i : Instr} {a : Nat} (h : s.issues c i = true) : (ldbBase s c i a x).beds = s.beds :=
  ((ldbBase_alters i a).part (p := .beds) (by simp)).trans (begun_beds h)

/-- An instruction whose effect is one semaphore of its bed and its context. -/
theorem sem_effect {i : Instr} {u : State} {y : Bed} {z x' : Ctx} (h : s.issues c i = true)
    (hu : (s.begun c i).Alters counting [.cycles, .ctxs, .beds] u)
    (hc : ∀ j, j ≠ c.bed.val → u.cycle j = (s.begun c i).cycle j)
    (hb : u.beds = Tab.set s.beds Bed.init c.bed.val y) (hz : u.ctx (keyOf c) = z) (hsame : sameCtx z x') :
    sameCtx ((s.ended c i u).ctx (keyOf c)) x' ∧ (s.ended c i u).bed c.bed.val = y ∧
      (∀ j, j ≠ c.bed.val → (s.ended c i u).bed j = s.bed j) ∧ regsBut counting s (s.ended c i u) ∧
        issueKeeps i c [.ctxs, .beds] s (s.ended c i u) := by
  have hu' := hu.mono (Q := counting) (qs := [.now, .engines, .cycles, .ctxs, .beds]) (fun _ => id) (by simp)
  have he : u.engines = (s.begun c i).engines := hu.part (p := .engines) (by simp)
  refine ⟨?_, ?_, fun j hj => ?_, (ended_alters h (fun _ => id) hu').regs, ended_issueKeeps h (fun _ => id) hu' he hc⟩
  · rwa [State.ended_ctx, hz]
  · rw [State.ended_bed, State.bed, hb, Tab.get_set_same]
  · rw [State.ended_bed, State.bed, hb]
    exact Tab.get_set_ne _ _ _ _ hj

theorem exec_watchdogExpiry_done (hrun : s.enginesRun = true) (hact : (s.ctx (keyOf c)).active = true)
    (hwait : (s.ctx (keyOf c)).wait ≠ .commit) (ht : (s.ctx (keyOf c)).started + (s.ctx (keyOf c)).limitNs ≤ s.now) :
    exec (.watchdogExpiry c) s = done s (s.abortCtx (keyOf c) 1) := by
  rw [exec_watchdogExpiry, execWatchdogExpiry, if_pos (by simp [hrun, hact, hwait, ht])]

end

/-- Settles O12: a load, a store, and the three ways in which a handler ends with semaphores held. -/
theorem sprigSemaphores : Obligations.SprigSemaphores := by
  unfold Obligations.SprigSemaphores
  intro c rd ra page disp s k x b sems hk ha
  let i := Instr.spLdb c rd ra page disp
  let j := Instr.spStb c rd ra page disp
  have hx : s.ctx (keyOf c) = x := rfl
  have hkb : keyBed (keyOf c) = b := keyOf_bed c
  have ha : x.bedAddr ra page disp = 0x30040 + k := ha
  refine ⟨fun h hheld => spLdb_sem_held h hx hk ha hheld, fun h hfree => ?free, fun h => ?store, fun hok =>
    ⟨fun h hw hd hm => ?fin, fun hrun hact hwait hw hup hm => ?back, fun hrun hact hwait ht hkind hl => ?dog⟩⟩
  case free =>
    refine ⟨_, exec_spLdb_next h hx ha (by omega), ?_⟩
    have hbed : (ldbBase s c i (0x30040 + k) x).bed b = s.bed b := ldbBase_bed h b
    rw [bedLoad_sem_free hk (by rw [hbed]; exact hfree)]
    have hz := (((ldbBase_alters (c := c) (s := s) (x := x) i (0x30040 + k)).mono (Q := counting)
      (qs := [.cycles, .ctxs, .beds]) (fun _ => id) (by simp)).setCycle (by simp) b
      { (ldbBase s c i (0x30040 + k) x).cycle b with semLoad := true }).setBed (by simp) b
      (((ldbBase s c i (0x30040 + k) x).bed b).taken k (keyOf c))
    refine sem_effect h (hz.setCtx (by simp) (keyOf c) _) (fun j hj => ?_) ?_ (State.ctx_setCtx_same _ _ _) ?_
    · rw [State.gives, State.cycle_setCtx, State.cycle_setBed, State.noteSemLoad]
      refine (Tab.get_set_ne _ _ _ _ hj).trans ?_
      rw [ldbBase, ← State.cycle, State.cycle_setCtx, State.cycle, (State.winEv_quiet _ _ _ _).cycles, State.cycle]
    · refine (show _ = Tab.set (ldbBase s c i (0x30040 + k) x).beds Bed.init b _ from rfl).trans ?_
      rw [ldbBase_beds h, hbed]
      rfl
    · rw [State.ctx_setBed, State.noteSemLoad, State.ctx_setCycle, ldbBase_ctx]
      exact ⟨fun _ => rfl, rfl⟩
  case store =>
    refine ⟨_, exec_spStb_next h hx ha, ?_⟩
    rw [bedStore_sem _ _ _ hk]
    have hz := ((stbBase_alters (c := c) (s := s) (i := j) (a := 0x30040 + k) [.cycles, .ctxs, .beds]).setBed
      (by simp) b
      { (stbBase s c j (0x30040 + k)).bed b with
        sems := Tab.set ((stbBase s c j (0x30040 + k)).bed b).sems 0 k 0 })
    refine sem_effect h (hz.setCtx (by simp) (keyOf c) _) (fun j hj => ?_) ?_ (State.ctx_setCtx_same _ _ _) ?_
    · rw [State.stepped, State.cycle_setCtx, State.cycle_setBed, stbBase_cycle]
    · refine (show _ = Tab.set (stbBase s c j (0x30040 + k)).beds Bed.init b _ from rfl).trans ?_
      rw [stbBase_quiet.beds, begun_beds h, stbBase_bed h]
    · rw [State.ctx_setBed, stbBase_ctx h hx]
      exact ⟨fun _ => rfl, rfl⟩
  case fin =>
    refine ⟨_, exec_spEnd_next h hw hd hm, semsFreed_ended (semsFreed_handlerEnd ?_ ?_)⟩
    · rw [State.begun_bed h]
    · exact (State.begun_alters h).nat (bedA_not_counting _ _)
  case back =>
    have hb : keyBed (keyOf c) < 16 := keyOf_bed c ▸ c.bed.isLt
    refine completes_closed (exec_commitWriteBack_done hrun hact hwait hw hup hm)
      (semsFreed_closed (semsFreed_handlerEnd ?_ ?_))
    · rw [← keyOf_bed]
      exact State.writeBack_sems.1
    · rw [← keyOf_bed]
      refine (State.writeBack_alters hb).nat ?_
      rintro (h' | ⟨ch, -, h'⟩)
      · obtain h' | h' := h'
        · exact bedA_not_counting _ _ h'
        · unfold bedA at h'; omega
      · unfold bedA at h'; omega
  case dog =>
    have hb : keyBed (keyOf c) < 16 := keyOf_bed c ▸ c.bed.isLt
    rw [← hkb] at hl
    obtain ⟨hs, hn⟩ := State.abortCtx_frees hb 1 hkind hl
    exact completes_closed (exec_watchdogExpiry_done hrun hact hwait ht) (semsFreed_closed (semsFreed_of hs hn))

end Sys2Proof.Machine
end

section
/-! PROOF. The dispatcher (R196, R202, R208): O25. -/

namespace Sys2Proof.Machine

open Sys2Proof.Cert

theorem exec_handlerStart (bed : Fin 16) (s : State) : exec (.handlerStart bed) s = execHandlerStart bed s := rfl

theorem State.Alters.setEngine {P : Nat → Prop} {ps : List Part} {s t : State} (h : s.Alters P ps t)
    (hp : .engines ∈ ps) (g : Nat) (e : Engine) : s.Alters P ps (t.setEngine g e) :=
  h.same hp (fun q hq => by cases q <;> first | rfl | simp at hq) rfl

section
variable {s : State} {b key : Nat} {p : Pick}

/-- The context of a handler that starts (R196, R202, R211). -/
def State.startCtx (s : State) (b key : Nat) (p : Pick) : Ctx :=
  { Ctx.init with
    active := true
    w := Tab.set (Tab.set (Tab.set (Tab.set [] 0 0 p.ev.arg) 0 1 (BitVec.ofNat 16 p.ev.kind)) 0 2 p.ev.sender) 0 3
      (match (s.bindOf b p.ev p.prod).1 with | some ch => BitVec.ofNat 16 ch | none => 0xFFFF)
    pc := BitVec.ofNat 15 (s.fld (htabA b p.ev.kind) 14 0)
    ev := p.ev
    evFur := p.fur
    bound := (s.bindOf b p.ev p.prod).1
    started := s.now
    limitNs := max 1 (if p.ev.kind = 0 then s.fld (bedA b 0x10C) 29 16 else s.fld (bedA b 0x10C) 9 0) * usNs
    epoch := s.free
    winWrites := (s.ctx key).winWrites }

/-- The furrow of an event read by the handler that starts for it (R231). -/
def State.readBy (s : State) (key : Nat) (o : Option Nat) : State :=
  match o with
  | some F => (s.setFur F { s.fur F with owner := key + 1, rel := 0, rpItem := 0, rpOff := 0 }).showFur F
  | none => s

theorem State.readBy_owner (key F : Nat) : ((s.readBy key (some F)).fur F).owner = key + 1 := by
  rw [State.readBy, State.setFur_showFur, if_pos rfl]

theorem State.readBy_alters (key : Nat) (o : Option Nat) :
    s.Alters (fun _ => True) [.furs] (s.readBy key o) := by
  unfold State.readBy
  split
  · exact ((State.Alters.refl _ _ s).setFur (by simp) _ _).quiet (State.showFur_quiet _ _) fun _ h => absurd trivial h
  · exact .refl _ _ s

/-- The slots of a context free for a new handler. -/
def Engine.fresh (e : Engine) (n : Nat) : Engine :=
  { e with readyAt := Tab.set e.readyAt 0 n 0, yields := Tab.set e.yields ([], 0) n ([], 0) }

/-- The channel context that a handler binds shown as bound. -/
def State.showBound (s : State) (b : Nat) (o : Option Nat) : State :=
  match o with
  | some ch => s.setBit (bedA b (0x1600 + 4 * ch)) 0 true
  | none => s

/-- A handler placed on its context, before its event's furrow is its own. -/
def State.placeHandler (s : State) (b key : Nat) (p : Pick) : State :=
  let t := (s.setFree (s.free + 1)).setCtx key (s.startCtx b key p)
  ((t.setEngine (key / 4) ((t.engine (key / 4)).fresh (key % 4))).setBit (bedA b (0x2000 + 0x20 * keyEng key)) (key % 4)
    true).showBound b (s.bindOf b p.ev p.prod).1

theorem State.startHandler_eq (s : State) (b key : Nat) (p : Pick) : s.startHandler b key p =
    let t := (s.placeHandler b key p).readBy key p.fur
    ((if (s.bindOf b p.ev p.prod).2 then t.unhandled b p.ev.kind else t).inc (bedA b 0x140)).tallyBed b (keyEng key) 7
      1 := by
  rfl

theorem State.placeHandler_alters :
    ((s.setFree (s.free + 1)).setCtx key (s.startCtx b key p)).Alters (fun _ => True) [.engines]
      (s.placeHandler b key p) := by
  have h := ((State.Alters.refl (fun _ => True) [.engines] ((s.setFree (s.free + 1)).setCtx key
    (s.startCtx b key p))).setEngine (by simp) (key / 4) ((((s.setFree (s.free + 1)).setCtx key
    (s.startCtx b key p)).engine (key / 4)).fresh (key % 4))).setBit (a := bedA b (0x2000 + 0x20 * keyEng key)) trivial
    (key % 4) true
  unfold State.placeHandler State.showBound
  dsimp only
  split
  · exact h.setBit trivial _ _
  · exact h

/-- What follows alters registers alone. -/
theorem State.startHandler_alters (hb : b < 16) :
    ((s.placeHandler b key p).readBy key p.fur).Alters (fun _ => True) [] (s.startHandler b key p) := by
  have h (t : State) := State.Alters.refl (fun _ => True) [] t
  rw [State.startHandler_eq]
  exact (((h _).iteThen (((h _).event trivial (fun _ _ _ _ => trivial) _).raiseLim (fun _ _ => trivial) _ _ _ _ _)).inc
    trivial).tallyBed (fun _ _ => trivial) hb _ _ _

theorem State.startHandler_ctx (hb : b < 16) (k : Nat) :
    (s.startHandler b key p).ctx k = if k = key then s.startCtx b key p else s.ctx k := by
  rw [(State.startHandler_alters hb).ctx (by simp), (State.readBy_alters _ _).ctx (by simp),
    State.placeHandler_alters.ctx (by simp)]
  split
  · next h => rw [h, State.ctx_setCtx_same]
  · next h =>
    rw [State.ctx_setCtx_ne _ _ h]
    rfl

theorem State.startHandler_owner (hb : b < 16) {F : Nat} (h : p.fur = some F) :
    ((s.startHandler b key p).fur F).owner = key + 1 := by
  rw [State.fur_congr ((State.startHandler_alters hb).part (p := .furs) (by simp)), h, State.readBy_owner]

theorem State.startHandler_memory (hb : b < 16) :
    (s.startHandler b key p).qdr = s.qdr ∧ (s.startHandler b key p).flash = s.flash := by
  have h1 := State.startHandler_alters (s := s) (key := key) (p := p) hb
  have h2 := State.readBy_alters (s := s.placeHandler b key p) key p.fur
  have h3 := State.placeHandler_alters (s := s) (b := b) (key := key) (p := p)
  exact ⟨(h1.part (p := .qdr) (by simp)).trans ((h2.part (p := .qdr) (by simp)).trans (h3.part (p := .qdr) (by simp))),
    (h1.part (p := .flash) (by simp)).trans ((h2.part (p := .flash) (by simp)).trans
      (h3.part (p := .flash) (by simp)))⟩

/-- The dispatcher starts the event chosen where the handler table enables it. -/
theorem exec_handlerStart_done {bed : Fin 16} {q : Bool} (hrun : s.enginesRun = true)
    (hrole : s.role bed.val = 2 ∨ s.role bed.val = 3 ∧ p.ev.kind = 0) (hpick : s.pick bed.val = some (p, q))
    (hplace : s.idlePlace bed.val = some key) (hen : s.bit (htabA bed.val p.ev.kind) 16 = true) :
    exec (.handlerStart bed) s =
      done s ((s.setBed bed.val { p.bed with fromQueue := q }).startHandler bed.val key p) := by
  have hr : (s.role bed.val == 2 || s.role bed.val == 3) = true := by
    obtain h | ⟨h, -⟩ := hrole <;> simp [h]
  have hk : (s.role bed.val == 3 && p.ev.kind != 0) = false := by
    obtain h | ⟨-, h⟩ := hrole <;> simp [h]
  rw [exec_handlerStart, execHandlerStart]
  simp only [hrun, hr, hpick, hplace, hk, State.bit_setBed, hen]
  rfl

end

theorem startCtx_reg (s : State) (b key : Nat) (p : Pick) : (s.startCtx b key p).reg 0 = p.ev.arg ∧
    (s.startCtx b key p).reg 1 = BitVec.ofNat 16 p.ev.kind ∧ (s.startCtx b key p).reg 2 = p.ev.sender ∧
    (s.startCtx b key p).reg 3 =
      match (s.startCtx b key p).bound with | some ch => BitVec.ofNat 16 ch | none => 0xFFFF := by
  simp [Ctx.reg, State.startCtx, Tab.get_set]

theorem startCtx_pc (s : State) (b key : Nat) (p : Pick) :
    (s.startCtx b key p).pc.toNat = s.fld (htabA b p.ev.kind) 14 0 := by
  rw [State.startCtx, BitVec.toNat_ofNat]
  exact Nat.mod_eq_of_lt (bitsOf_lt _ 14 0)

/-- Settles O25: the start is placed on the idle context, then its furrow is taken; what follows alters registers. -/
theorem handlerStarts : Obligations.HandlerStarts := by
  unfold Obligations.HandlerStarts
  intro bed s p q key b hrun hrole hpick hplace hen
  obtain ⟨r, hr⟩ : ∃ r, r = s.setBed b { p.bed with fromQueue := q } := ⟨_, rfl⟩
  have hb : b < 16 := bed.isLt
  refine completes_closed (exec_handlerStart_done hrun hrole hpick hplace hen) ?_
  rw [← hr]
  obtain ⟨h0, h1, h2, h3⟩ := startCtx_reg r b key p
  have hctx : ((s.closed (r.startHandler b key p)).ctx key) = r.startCtx b key p := by
    rw [State.closed_ctx, State.startHandler_ctx hb, if_pos rfl]
  dsimp only
  rw [hctx]
  refine ⟨rfl, ?_, h0, h1, h2, rfl, rfl, ?_, fun hn => ?_, fun ch hch => ?_, fun F hF => ?_, fun k hk => ?_, ?_⟩
  · rw [startCtx_pc, hr, State.fld_setBed]
  · rw [hr]; rfl
  · rw [h3, hn]
  · rw [h3, hch]
  · rw [State.closed_fur, State.startHandler_owner hb hF]
  · rw [State.closed_ctx, State.startHandler_ctx hb, if_neg hk, hr, State.ctx_setBed]
  · rw [State.closed_qdr, State.closed_flash]
    obtain ⟨hq, hf⟩ := State.startHandler_memory (s := r) (key := key) (p := p) hb
    rw [hq, hf, hr]
    exact ⟨rfl, rfl⟩

end Sys2Proof.Machine
end

section
/-! SUPPORT. A bed fault (R214). -/

namespace Sys2Proof.Machine

open Sys2Proof.Cert

/-! ### A bed fault (R214) -/

/-- KEY, BED_CTRL and BED_STATUS of a bed. -/
def ctlReg (b a : Nat) : Prop := a = bedA b 0xFC ∨ a = bedA b 0x100 ∨ a = bedA b 0x104

theorem not_ctlReg {b o : Nat} (h : o < 0xFC ∨ 0x104 < o) : ¬ ctlReg b (bedA b o) := by
  unfold ctlReg bedA; omega

theorem not_ctlReg_mod {b a : Nat} (h : a % 0x20 ≠ 0x1C ∧ a % 0x20 ≠ 0 ∧ a % 0x20 ≠ 4) : ¬ ctlReg b a := by
  unfold ctlReg bedA; omega

theorem not_ctlReg_bed {b c o : Nat} (hc : c ≠ b) (ho : o < 0x100000) : ¬ ctlReg b (bedA c o) := by
  unfold ctlReg bedA; omega

theorem not_ctlReg_low {b a : Nat} (h : a < 0x1000000) : ¬ ctlReg b a := by
  unfold ctlReg bedA; omega

/-- No register of a source or of Curator's is one of them, whatever the source's number. -/
theorem not_ctlReg_report {b src a : Nat} (h : reportReg src a) : ¬ ctlReg b a := by
  unfold reportReg srcA curA at h
  unfold ctlReg bedA
  omega

theorem ctlReg_not_drop {b a : Nat} (h : ctlReg b a) : ¬ dropReg b a := by
  obtain rfl | rfl | rfl := h <;> exact not_dropReg (by omega) (by omega)

/-- A step of a fault of bed `b` that leaves those registers, and the bed's queue empty where it was. -/
structure State.Faulting (b : Nat) (s t : State) : Prop where
  alters : s.Alters (fun a => ¬ ctlReg b a) [.furs, .beds, .ctxs] t
  evq : (s.bed b).evq = [] → (t.bed b).evq = []

section
variable {s t u : State} {b : Nat}

theorem State.Faulting.refl (s : State) : s.Faulting b s := ⟨.refl _ _ s, id⟩

theorem State.Faulting.trans (h : s.Faulting b t) (k : t.Faulting b u) : s.Faulting b u :=
  ⟨h.alters.trans k.alters, fun e => k.evq (h.evq e)⟩

theorem State.Faulting.of_regs (h : s.Alters (fun a => ¬ ctlReg b a) [] t) : s.Faulting b t :=
  ⟨h.mono (fun _ => id) (by simp), fun e => by rw [h.bed (by simp)]; exact e⟩

theorem State.Faulting.setBed {c : Nat} {x : Bed} (h : s.Faulting b t)
    (hx : c = b → x.evq = (t.bed b).evq ∨ x.evq = []) :
    s.Faulting b (t.setBed c x) := by
  refine ⟨h.alters.setBed (by simp) _ _, fun e => ?_⟩
  by_cases hc : c = b
  · subst hc
    rw [State.bed_setBed_same]
    obtain h' | h' := hx rfl
    · exact h'.trans (h.evq e)
    · exact h'
  · rw [State.bed_setBed_ne _ _ (Ne.symm hc)]
    exact h.evq e

theorem State.Faulting.role (h : s.Faulting b t) : t.role b = s.role b :=
    h.alters.fld (not_not_intro (.inr (.inr rfl))) _ _

theorem State.Faulting.setRole (h : s.Faulting b t) {c : Nat} (hc : c ≠ b) (r : Nat) : s.Faulting b (t.setRole c r) :=
  h.trans (.of_regs ((State.Alters.refl _ _ t).setFld (not_ctlReg_bed hc (by omega)) _ _ _))

theorem State.Faulting.iteThen {p : Prop} [Decidable p] (h : s.Faulting b t) (hu : p → t.Faulting b u) :
    s.Faulting b (if p then u else t) := by
  split
  · exact h.trans (hu ‹p›)
  · exact h

theorem State.Faulting.iteElse {p : Prop} [Decidable p] (h : s.Faulting b t) (hu : ¬ p → t.Faulting b u) :
    s.Faulting b (if p then t else u) := by
  split
  · exact h
  · exact h.trans (hu ‹¬ p›)

/-- An event and a report, of any register and source. -/
theorem State.Faulting.reported (h : s.Faulting b t) {a src : Nat} (ha : a % 0x20 = 8 ∨ a < 0x1000000) (n kind : Nat)
    (clear : Bool)
    (detail : Nat) : s.Faulting b ((t.event a n).raise src kind clear detail) := by
  have ha' : ¬ ctlReg b a := by
    obtain ha | ha := ha
    · exact not_ctlReg_mod (by omega)
    · exact not_ctlReg_low ha
  exact h.trans (.of_regs (((State.Alters.refl _ _ t).event ha' (fun k i base e => not_ctlReg_mod (by
    have := blockOf_aligned e
    omega)) n).raise (fun _ => not_ctlReg_report) kind clear detail))

theorem State.takeoverImpossible_faulting (c reason : Nat) : s.Faulting b (s.takeoverImpossible c reason) :=
  (State.Faulting.refl s).reported (.inl (by unfold bedA; omega)) _ _ _ _

theorem State.abandonMove_faulting (nb : Nat) : s.Faulting b (s.abandonMove b nb) := by
  unfold State.abandonMove
  split
  · exact .refl s
  · next m hm =>
    have h1 := (State.Faulting.refl (b := b) s).setBed (c := nb)
      (x := { s.bed nb with move := none, initPending := none })
      (fun e => .inl (by rw [e]))
    exact (h1.iteElse fun hne => (State.Faulting.refl _).setRole hne 1).iteThen fun hold =>
      (State.Faulting.refl _).setRole hold.2.1 2

theorem State.haltFor_faulting : s.Faulting b (s.haltFor b) := by
  have hr {t : State} (h : s.Faulting b t) (n : Nat) : s.Faulting b (((t.setAct 5).event (rtsA 0x104) 5).raise 65 0xBB
      false n) :=
    (h.trans (.of_regs ((State.Alters.refl _ _ t).setFld (a := rtsA 0x100) (not_ctlReg_low (by decide)) _ _
      _))).reported
      (.inr (by decide)) _ _ _ _
  unfold State.haltFor
  refine State.Faulting.iteThen (.refl s) fun _ => ?_
  dsimp only
  refine hr ?_ _
  split
  · exact (State.Faulting.refl s).iteThen fun _ => State.abandonMove_faulting _
  · exact .refl s

theorem State.askReset_alters (P : Nat → Prop) (ps : List Part) (t : State) (kind src : Nat) :
    t.Alters P ps (t.askReset kind src) := by
  unfold State.askReset
  split
  · exact .refl _ _ _
  · exact (State.Alters.refl _ _ _).quiet (State.setCur_quiet _ _ rfl) fun _ _ => rfl

theorem State.tryTakeover_faulting (h : s.role b = 4) : s.Faulting b (s.tryTakeover b) := by
  unfold State.tryTakeover
  split
  · exact (State.takeoverImpossible_faulting b 3).trans (.of_regs (State.askReset_alters _ _ _ _ _))
  · split
    · exact State.takeoverImpossible_faulting _ _
    · split
      · exact State.takeoverImpossible_faulting _ _
      · next sp hsp =>
        have hne : sp ≠ b := fun e => by
          have := List.find?_some hsp
          rw [e, h] at this
          exact absurd this (by decide)
        have h1 := (State.Faulting.of_regs (((State.Alters.refl _ _ s).setFld (not_ctlReg_bed hne (o := 0x104)
          (by omega)) 2 0 3).setFld (not_ctlReg_bed hne (o := 0x104) (by omega)) 7 4 (s.lbed b))).setBed (c := sp)
            (x := { Bed.init with move := some { old := b, stage := 1, why := 0, at_ := s.now, edge := false } })
            (fun e => absurd e hne)
        refine h1.trans (.of_regs ?_)
        exact (State.Alters.refl _ _ _).iteThen ((State.Alters.refl _ _ _).setBit (not_ctlReg_mod
          (by unfold furA; omega)) 13 true)

/-- The handlers of the bed dropped and counted. -/
theorem State.dropAll_alters (hb : b < 16) :
    s.Alters (fun a => ¬ ctlReg b a) [.furs, .beds, .ctxs]
      ((s.activeKeys b).foldl (fun u k => (u.dropHandler k).inc (bedA b 0x144)) s) := by
  refine (State.Alters.refl _ _ s).foldl fun u k hk => ?_
  have hkb : keyBed k = b := by
    obtain ⟨hk, -⟩ := List.mem_filter.mp hk
    obtain ⟨n, hn, rfl⟩ := List.mem_map.mp hk
    have := List.mem_range.mp hn
    unfold keyBed; omega
  have hd := State.dropHandler_alters (s := u) (key := k) (hkb ▸ hb)
  rw [hkb] at hd
  exact (hd.mono (fun a ha hc => ctlReg_not_drop hc ha) (by simp)).inc (not_ctlReg (by omega))

/-- What a bed loses with a fault. -/
def Bed.emptied (x : Bed) : Bed :=
  { x with evq := [], timers := [], initPending := none, notice := none, redo := [] }

/-- The state in which a fault of bed `b` is reported: FAULTED, its handlers dropped, its queue empty. -/
def State.faultBegun (s : State) (b cause : Nat) : State :=
  let t := ((s.setRole b 4).activeKeys b).foldl (fun u k => (u.dropHandler k).inc (bedA b 0x144)) (s.setRole b 4)
  ((t.setBed b (t.bed b).emptied).event (bedA b 0x108) 2).raise (640 + b) 0x25 false cause

/-- Only KEY, BED_CTRL and BED_STATUS are sure to stay of the registers; the queue is empty. -/
theorem State.faultBegun_alters (hb : b < 16) (cause : Nat) :
    (s.setRole b 4).Alters (fun a => ¬ ctlReg b a) [.furs, .beds, .ctxs] (s.faultBegun b cause) ∧
    ((s.faultBegun b cause).bed b).evq = [] := by
  have h (t : State) := (State.Faulting.refl (b := b) t).reported (a := bedA b 0x108) (src := 640 + b)
    (.inl (by unfold bedA; omega)) 2 0x25 false cause
  refine ⟨((State.dropAll_alters hb).setBed (by simp) _ _).trans (h _).alters, (h _).evq ?_⟩
  rw [State.bed_setBed_same]
  rfl

/-- A faulted bed taken over where it held a program: one that was LOADING for a takeover has no spare left. -/
def State.faultFollowed (s : State) (b old : Nat) (mv : Option Move) : State :=
  match old, mv with
  | 3, some m =>
    let t := s.setBed b { s.bed b with move := none }
    if m.why = 0 then t.takeoverImpossible m.old 1
    else if t.actState = 4 then t.tryTakeover b else t
  | _, _ => if old = 2 ∨ old = 5 then s.tryTakeover b else s

theorem State.faultFollowed_faulting (h : s.role b = 4) (old : Nat) (mv : Option Move) :
    s.Faulting b (s.faultFollowed b old mv) := by
  unfold State.faultFollowed
  split
  · have h1 := (State.Faulting.refl (b := b) s).setBed (c := b) (x := { s.bed b with move := none }) fun _ => .inl rfl
    dsimp only
    split
    · exact h1.trans (State.takeoverImpossible_faulting _ _)
    · exact h1.iteThen fun _ => State.tryTakeover_faulting ((State.role_setBed _ _ _ _).trans h)
  · exact (State.Faulting.refl s).iteThen fun _ => State.tryTakeover_faulting h

/-- A fault of a bed that is not FAULTED: it begins, it halts a live activation, and a spare may take over. -/
theorem State.bedFault_eq {cause : Nat} (hc : cause ≠ 0) (h : s.role b ≠ 4) : s.bedFault b cause =
    ((s.faultBegun b cause).haltFor b).faultFollowed b (s.role b) (s.bed b).move := by
  unfold State.bedFault
  rw [if_neg hc, if_neg h]
  rfl

/-- After a bed fault the bed is FAULTED, with its queue empty; KEY, BED_CTRL and the rest of BED_STATUS stay. -/
theorem State.bedFault_faults (hb : b < 16) {cause : Nat} (hc : cause ≠ 0) (h : s.role b ≠ 4) :
    (s.setRole b 4).Alters (fun a => ¬ ctlReg b a) [.furs, .beds, .ctxs] (s.bedFault b cause) ∧
    ((s.bedFault b cause).bed b).evq = [] ∧ (s.bedFault b cause).role b = 4 := by
  obtain ⟨hbegun, hevq⟩ := State.faultBegun_alters (s := s) hb cause
  have hrole : (s.setRole b 4).role b = 4 := by
    rw [State.role, State.setRole, State.fld_setFld_same _ _ (by omega) (by omega)]
    rfl
  have hhalt := State.haltFor_faulting (s := s.faultBegun b cause) (b := b)
  have hrole' : ((s.faultBegun b cause).haltFor b).role b = 4 :=
    hhalt.role.trans ((hbegun.fld (not_not_intro (.inr (.inr rfl))) 2 0).trans hrole)
  have hend := hhalt.trans (State.faultFollowed_faulting hrole' (s.role b) (s.bed b).move)
  rw [State.bedFault_eq hc h]
  exact ⟨hbegun.trans hend.alters, hend.evq hevq, (State.faultFollowed_faulting hrole' _ _).role.trans hrole'⟩

/-- What a bed fault leaves of the bed's registers, whatever its role. -/
theorem State.bedFault_rd (hb : b < 16) {cause : Nat} (hc : cause ≠ 0) {o : Nat} (ho : o = 0xFC ∨ o = 0x100) :
    (s.bedFault b cause).rd (bedA b o) = s.rd (bedA b o) := by
  by_cases h : s.role b = 4
  · unfold State.bedFault
    rw [if_neg hc, if_pos h]
  · have hk : ctlReg b (bedA b o) := by
      obtain rfl | rfl := ho
      · exact .inl rfl
      · exact .inr (.inl rfl)
    rw [(State.bedFault_faults hb hc h).1.regs _ (not_not_intro hk), State.setRole,
      State.rd_setFld_ne _ _ _ _ (by unfold bedA; omega)]

theorem State.bedFault_role (hb : b < 16) {cause : Nat} (hc : cause ≠ 0) : (s.bedFault b cause).role b = 4 := by
  by_cases h : s.role b = 4
  · unfold State.bedFault
    rw [if_neg hc, if_pos h, h]
  · exact (State.bedFault_faults hb hc h).2.2

end

end Sys2Proof.Machine
end

section
/-! PROOF. Timers, bed faults, takeover and revival (R210, R214 to R216, R221, R271): O51. -/

namespace Sys2Proof.Machine

open Sys2Proof.Cert

theorem exec_timerFire (bed : Fin 16) (k : Fin 512) (s : State) :
    exec (.timerFire bed k) s = done s (s.timerFire bed.val k.val) := rfl
theorem exec_timerEnqueue (bed : Fin 16) (k : Fin 512) (s : State) :
    exec (.timerEnqueue bed k) s = execTimerEnqueue bed k s := rfl
theorem exec_queueHwmReset (bed : Fin 16) (v : Word) (s : State) :
    exec (.queueHwmReset bed v) s = execQueueHwmReset bed v s := rfl

/-! ### Timers (R210) -/

/-- A bed with timer `k` set. -/
def Bed.withTimer (x : Bed) (k : Nat) (tm : Timer) : Bed := { x with timers := Tab.set x.timers Timer.init k tm }

/-- A bed with an event at the end of its queue. -/
def Bed.withEvent (x : Bed) (e : Ev) : Bed := { x with evq := x.evq ++ [e] }

theorem Bed.withTimer_get (x : Bed) (k : Nat) (tm : Timer) : Tab.get (x.withTimer k tm).timers Timer.init k = tm :=
  Tab.get_set_same _ _ _ _

section
variable {s t : State} {b k dl : Nat} {w2 arg : Half}

theorem State.timerQueue_low (h : w2.toNat % 256 < 64) : t.timerQueue b w2 arg = t := if_pos h

theorem State.timerQueue_bed (h : 64 ≤ w2.toNat % 256) :
    (t.timerQueue b w2 arg).bed b = (t.bed b).withEvent (timerEvent w2 arg) := by
  rw [State.timerQueue, if_neg (by omega), State.enqueue_bed, State.bed_setBed_same]
  rfl

theorem State.timerQueue_alters : t.Alters (fun _ => True) [.beds] (t.timerQueue b w2 arg) := by
  unfold State.timerQueue
  exact (State.Alters.refl _ _ t).iteElse ((State.Alters.refl _ _ t).enqueue (by simp) trivial _)

/-- The event of a timer at the end of the queue leaves the timers. -/
theorem State.timerQueue_timers : ((t.timerQueue b w2 arg).bed b).timers = (t.bed b).timers := by
  by_cases h : w2.toNat % 256 < 64
  · rw [State.timerQueue_low h]
  · rw [State.timerQueue_bed (by omega)]
    rfl

/-- A timer that is due finds the queue full, and its firing waits. -/
theorem State.timerFire_full (ha : ((s.bed b).timer k).armed = some (dl, w2, arg)) (hrun : s.enginesRun = true)
    (hd : s.timerDue b dl = true) (hq : 1024 ≤ (s.bed b).evq.length) : s.timerFire b k = s.setBed b
      ((s.bed b).withTimer k { (s.bed b).timer k with armed := none, fired := some (w2, arg) }) := by
  have hf : s.queueFull b = true := decide_eq_true hq
  rw [Bed.timer] at ha
  unfold State.timerFire
  simp only [ha, hrun, hd, hf]
  rfl

/-- A timer that is due finds room in the queue. -/
theorem State.timerFire_room (ha : ((s.bed b).timer k).armed = some (dl, w2, arg)) (hrun : s.enginesRun = true)
    (hd : s.timerDue b dl = true) (hq : (s.bed b).evq.length < 1024) : s.timerFire b k = (s.setBed b
      ((s.bed b).withTimer k { (s.bed b).timer k with armed := none })).timerQueue b w2 arg := by
  have hf : s.queueFull b = false := decide_eq_false (by omega)
  rw [Bed.timer] at ha
  unfold State.timerFire
  simp only [ha, hrun, hd, hf]
  rfl

theorem exec_timerEnqueue_room {bed : Fin 16} {k : Fin 512} (hf : ((s.bed bed.val).timer k.val).fired = some (w2, arg))
    (hq : (s.bed bed.val).evq.length < 1024) : exec (.timerEnqueue bed k) s = done s ((s.setBed bed.val
      ((s.bed bed.val).withTimer k.val { (s.bed bed.val).timer k.val with fired := none })).timerQueue bed.val w2 arg)
        := by
  have hfull : s.queueFull bed.val = false := decide_eq_false (by omega)
  rw [Bed.timer] at hf
  rw [exec_timerEnqueue, execTimerEnqueue]
  simp only [hf, hfull]
  rfl

/-- A timer set, and its event put in the queue. -/
theorem timerQueue_entered (bed : Fin 16) (k : Nat) (tm : Timer) : let b := bed.val
    let t := s.closed ((s.setBed b ((s.bed b).withTimer k tm)).timerQueue b w2 arg)
    Tab.get (t.bed b).timers Timer.init k = tm ∧
    (64 ≤ w2.toNat % 256 → (t.bed b).evq = (s.bed b).evq ++ [timerEvent w2 arg]) ∧ keeps [.beds] s t := by
  have hz := (((State.Alters.refl (fun _ => True) [.beds] s).setBed (by simp) bed.val
    ((s.bed bed.val).withTimer k tm)).trans (State.timerQueue_alters (b := bed.val) (w2 := w2) (arg := arg))).doneWith
  refine ⟨?_, fun h => ?_, hz.parts⟩
  · rw [State.closed_bed, State.timerQueue_timers, State.bed_setBed_same, Bed.withTimer_get]
  · rw [State.closed_bed, State.timerQueue_bed h, State.bed_setBed_same]
    rfl

end

/-! ### The keyed write of BED_CTRL (R221, R271) -/

section
variable {s t : State} {b : Nat}

theorem exec_bedFault (bed : Fin 16) (c : Fin 4) (s : State) : exec (.bedFault bed c) s = execBedFault bed c s := rfl
theorem exec_fail (bed : Fin 16) (v : Word) (s : State) : exec (.fail bed v) s = execFail bed v s := rfl
theorem exec_revive (bed : Fin 16) (s : State) : exec (.revive bed) s = execRevive bed s := rfl

theorem baseOf_bed {o : Nat} (hb : b < 16) (ho : o < 0x100000) : baseOf (bedA b o) = bedA b 0 := by
  rw [baseOf, blockOf_bed hb ho]

theorem State.revive_alters : t.Alters (fun _ => False) [.beds] (t.revive b) := by
  unfold State.revive
  exact (State.Alters.refl _ _ t).iteThen ((State.Alters.refl _ _ t).setBed (by simp) _ _)

theorem State.revive_bed (h : t.role b = 4) : ((t.revive b).bed b).reviving = true := by
  rw [State.revive, if_pos h, State.bed_setBed_same]

theorem exec_fail_acts {bed : Fin 16} (h : hostAt s (bedA bed.val 0x100)) (v : Word) :
    exec (.fail bed v) s = done s ((s.tallyHif 3 1).bedCtrlWrite .host bed.val v) := by
  obtain ⟨hr, hlo, hin⟩ := h
  rw [exec_fail, execFail, State.hostTo_acts s _ hr hlo hin]

theorem exec_revive_acts {bed : Fin 16} (h : hostAt s (bedA bed.val 0x100)) :
    exec (.revive bed) s = done s ((s.tallyHif 3 1).bedCtrlWrite .host bed.val
      (BitVec.ofNat 32 (2 + (s.tallyHif 3 1).fld (bedA bed.val 0x100) 4 4 * 16))) := by
  obtain ⟨hr, hlo, hin⟩ := h
  rw [exec_revive, execRevive, State.hostTo_acts s _ hr hlo hin]

theorem exec_queueHwmReset_acts {bed : Fin 16} (h : hostAt s (bedA bed.val 0x15C)) (v : Word) :
    exec (.queueHwmReset bed v) s = done s ((s.tallyHif 3 1).setFld (bedA bed.val 0x15C) 10 0
      ((s.tallyHif 3 1).bed bed.val).evq.length) := by
  obtain ⟨hr, hlo, hin⟩ := h
  rw [exec_queueHwmReset, execQueueHwmReset, State.hostTo_acts s _ hr hlo hin]

/-- A write that sees the key. -/
theorem State.bedCtrlWrite_armed (hb : b < 16) (h : s.armed (bedA b 0) = true) (v : Word) :
    s.bedCtrlWrite .host b v =
      let t := (s.setArm (bedA b 0) false).setBit (bedA b 0x100) 4 (v.getLsbD 4)
      let u := if v.getLsbD 1 then t.revive b else t
      if v.getLsbD 0 then u.bedFault b 5 else u := by
  rw [State.bedCtrlWrite, State.kGate, baseOf_bed hb (by omega), h]
  rfl

/-- A write that meets the lock. -/
theorem State.bedCtrlWrite_locked (hb : b < 16) (h : s.armed (bedA b 0) = false) (v : Word) :
    s.bedCtrlWrite .host b v =
      let t := s.hifReport (0x80 + 2) (bedA b 0x100)
      if v.getLsbD 1 then t.revive b else t := by
  have hd : accessDetail .host (bedA b 0x100) = bedA b 0x100 := Nat.mod_eq_of_lt (by unfold bedA; omega)
  rw [State.bedCtrlWrite, State.kGate, baseOf_bed hb (by omega), h, State.lockedWrite, hd]
  rfl

/-- The access is counted: the bed's registers read as before. -/
theorem armed_counted (s : State) (b : Nat) : (s.tallyHif 3 1).armed (bedA b 0) = s.armed (bedA b 0) :=
  State.bit_congr (tallyHif_rd s (bedA_not_counting b 0xFC)) 0

theorem bedA_not_hifReg (b o : Nat) : ¬ hifReg (bedA b o) := by
  rintro ((h | h) | h)
  · exact bedA_not_counting b o h
  all_goals unfold bedA at h; omega

/-- FAIL under the key: the bed faults, TAKEOVER_EN is stored, and the key is used up. -/
theorem State.bedCtrlWrite_fails (hb : b < 16) (h : s.armed (bedA b 0) = true) {v : Word} (hv : v.getLsbD 0 = true) :
    (s.bedCtrlWrite .host b v).role b = 4 ∧
    (s.bedCtrlWrite .host b v).bit (bedA b 0x100) 4 = v.getLsbD 4 ∧
    (s.bedCtrlWrite .host b v).armed (bedA b 0) = false := by
  rw [State.bedCtrlWrite_armed hb h]
  dsimp only
  rw [if_pos hv]
  obtain ⟨t, ht⟩ : ∃ t, t = (s.setArm (bedA b 0) false).setBit (bedA b 0x100) 4 (v.getLsbD 4) := ⟨_, rfl⟩
  rw [← ht]
  have hu : t.Alters (fun _ => False) [.beds] (if v.getLsbD 1 = true then t.revive b else t) :=
    (State.Alters.refl _ _ t).iteThen State.revive_alters
  refine ⟨State.bedFault_role hb (by omega), ?_, ?_⟩
  · rw [State.bit_congr (State.bedFault_rd hb (by omega) (.inr rfl)), hu.bit id, ht,
      State.bit_setBit_same _ _ (by omega)]
  · rw [State.armed, show bedA b 0 + 0xFC = bedA b 0xFC from rfl,
      State.bit_congr (State.bedFault_rd hb (by omega) (.inl rfl)), hu.bit id, ht,
      State.bit_congr (State.rd_setBit_ne _ _ _ (by unfold bedA; omega))]
    exact State.bit_setBit_same _ _ (by omega)

/-- A write that meets the lock is reported, and changes neither BED_CTRL nor ROLE. -/
theorem State.bedCtrlWrite_lockedWrite (hb : b < 16) (h : s.armed (bedA b 0) = false) (v : Word) :
    (s.bedCtrlWrite .host b v).rd (bedA b 0x104) = s.rd (bedA b 0x104) ∧
    (s.bedCtrlWrite .host b v).rd (bedA b 0x100) = s.rd (bedA b 0x100) ∧
    hifReported 2 (bedA b 0x100) s (s.bedCtrlWrite .host b v) := by
  rw [State.bedCtrlWrite_locked hb h]
  dsimp only
  obtain ⟨t, ht⟩ : ∃ t, t = s.hifReport (0x80 + 2) (bedA b 0x100) := ⟨_, rfl⟩
  have hz : s.Alters hifReg [.outbox] t := ht ▸ s.hifReport_alters (by omega) _
  have hu : t.Alters (fun _ => False) [.beds] (if v.getLsbD 1 = true then t.revive b else t) :=
    (State.Alters.refl _ _ t).iteThen State.revive_alters
  have hrep : hifReported 2 (bedA b 0x100) s t := ht ▸ s.hifReport_reported (by omega) (by unfold bedA; omega)
  obtain ⟨h1, h2, h3⟩ := hrep
  rw [← ht]
  refine ⟨?_, ?_, ?_, ?_, ?_⟩
  · rw [hu.regs _ id, hz.regs _ (bedA_not_hifReg _ _)]
  · rw [hu.regs _ id, hz.regs _ (bedA_not_hifReg _ _)]
  · rw [hu.bit id, h1]
  · rw [hu.nat id, h2]
  · rw [hu.nat id, h3]

/-- REVIVE written to a FAULTED bed starts its self-test, with the key or without. -/
theorem State.bedCtrlWrite_revives (hb : b < 16) (h4 : s.role b = 4) {v : Word} (h0 : v.getLsbD 0 = false)
    (h1 : v.getLsbD 1 = true) : ((s.bedCtrlWrite .host b v).bed b).reviving = true ∧
      (s.bedCtrlWrite .host b v).role b = 4 := by
  obtain ⟨t, he, hrole⟩ : ∃ t : State, s.bedCtrlWrite .host b v = t.revive b ∧ t.role b = 4 := by
    cases h : s.armed (bedA b 0) with
    | true =>
      refine ⟨(s.setArm (bedA b 0) false).setBit (bedA b 0x100) 4 (v.getLsbD 4),
        (State.bedCtrlWrite_armed hb h v).trans ?_, ?_⟩
      · dsimp only
        rw [h0, h1]
        rfl
      · rw [State.role, State.fld_congr (State.rd_setBit_ne _ _ _ (by unfold bedA; omega)), State.setArm,
          State.fld_congr (State.rd_setBit_ne _ _ _ (by unfold bedA; omega))]
        exact h4
    | false =>
      refine ⟨s.hifReport (0x80 + 2) (bedA b 0x100), (State.bedCtrlWrite_locked hb h v).trans ?_, ?_⟩
      · dsimp only
        rw [h1]
        rfl
      · rw [State.role, (s.hifReport_alters (by omega) _).fld (bedA_not_hifReg _ _)]
        exact h4
  rw [he]
  exact ⟨State.revive_bed hrole, by rw [State.role, State.revive_alters.fld id]; exact hrole⟩

/-- REVIVE alone: bit 1 of what is written. -/
theorem reviveWord_bits {f : Nat} (h : f < 2) : (BitVec.ofNat 32 (2 + f * 16)).getLsbD 0 = false ∧
    (BitVec.ofNat 32 (2 + f * 16)).getLsbD 1 = true := by
  obtain rfl | rfl : f = 0 ∨ f = 1 := by omega
  · decide
  · decide

/-- An uncorrectable word of shared memory is an event and a report, and ROLE stays. -/
theorem State.bedFault_shared (hb : b < 16) : s.Alters (· ≠ bedA b 0x104) [] (s.bedFault b 0) ∧
    (s.bedFault b 0).bit (bedA b 0x108) 2 = true := by
  have h := ((State.Alters.refl (· ≠ bedA b 0x104) [] s).bedEvent (o := 0x108) hb (by omega) (by unfold bedA; omega)
    (by unfold bedA; omega) 2).raise (src := 640 + b) (fun a ha e => bedA_not_report _ _ _ (by omega) (e ▸ ha)) 0x25
      false 0
  have h0 : s.bedFault b 0 = (s.event (bedA b 0x108) 2).raise (640 + b) 0x25 false 0 := by
    rw [State.bedFault, if_pos rfl]
  have he := (s.bit_event_same (a := bedA b 0x108) (b := 2) (by omega) fun k i base e => by
    rw [blockOf_bed hb (by omega)] at e
    obtain ⟨-, -, rfl⟩ := e
    unfold bedA; omega).1
  rw [h0]
  refine ⟨h, ?_⟩
  rw [State.raise, State.bit_congr (State.rd_raiseAs_ne _ _ _ _ _ (bedA_not_report (640 + b) b 0x108 (by omega))), he]

theorem exec_bedFault_done {bed : Fin 16} {c : Fin 4} (hrun : s.enginesRun = true)
    (hc : c.val ≠ 1 ∨ max 1 (s.fld (bedA bed.val 0x110) 13 8) < s.fld (bedA bed.val 0x104) 13 8) :
    exec (.bedFault bed c) s = done s (s.bedFault bed.val c.val) := by
  rw [exec_bedFault, execBedFault, if_pos (by simpa [hrun] using hc)]

end

/-! ### Takeover and revival (R215, R216) -/

theorem exec_takeoverLoad (b : Fin 16) (s : State) : exec (.takeoverLoad b) s = execTakeoverLoad b s := rfl
theorem exec_takeoverDone (b : Fin 16) (s : State) : exec (.takeoverDone b) s = execTakeoverDone b s := rfl
theorem exec_reviveSelftestEnd (b : Fin 16) (p : Bool) (s : State) :
    exec (.reviveSelftestEnd b p) s = execReviveSelftestEnd b p s := rfl

theorem State.Alters.clearRegs {P : Nat → Prop} {ps : List Part} {s t : State} {lo hi : Nat} (h : s.Alters P ps t)
    (hP : ∀ a, lo ≤ a → a < hi → P a) : s.Alters P ps (t.clearRegs lo hi) := by
  refine h.trans ⟨fun a ha => ?_, fun p _ => by cases p <;> rfl⟩
  refine Tab.get_filter_key _ _ _ fun v => decide_eq_true ?_
  by_contra hc
  exact ha (hP a (by omega) (by omega))

theorem State.Alters.copyRegs {P : Nat → Prop} {ps : List Part} {s t : State} {src dst n : Nat} (h : s.Alters P ps t)
    (hP : ∀ k < n, P (dst + 4 * k)) : s.Alters P ps (t.copyRegs src dst n) :=
  h.foldl fun u k hk => (State.Alters.refl P ps u).wr (hP k (List.mem_range.mp hk)) _

section
variable {s : State} {b : Nat} {m : Move}

/-- The spare with the program of the faulted bed's image and the rest from that bed, before it starts (R215). -/
def State.takeoverCopied (s : State) (sp : Nat) (m : Move) : State :=
  let old := m.old
  let s := s.loadCode sp (imageArea (s.bed old).area) (s.lbed sp)
  let s := s.copyRegs (bedA old 0x10C) (bedA sp 0x10C) 2
  let s := s.setBit (bedA sp 0x100) 4 (s.bit (bedA old 0x100) 4)
  let s := s.copyRegs (bedA old 0x114) (bedA sp 0x114) 7
  let s := s.copyRegs (bedA old 0x1400) (bedA sp 0x1400) 64
  let s := s.copyRegs (bedA old 0x1800) (bedA sp 0x1800) 256
  let s := s.loadContexts sp (s.fld (bedA sp 0x114) 25 0)
  let s := (List.range 64).foldl (fun s c =>
    s.wrN (bedA sp (0x1600 + 4 * c)) (s.fld (bedA old (0x1600 + 4 * c)) 4 3 * 8)) s
  s.clearRegs (bedA sp 0x60000) (bedA sp 0x80000)

theorem State.takeoverLoad_eq (s : State) (sp : Nat) (m : Move) : s.takeoverLoad sp m =
    (s.takeoverCopied sp m).startBed sp 1 (some { m with stage := 2 }) (s.bed m.old).area := by
  rfl

theorem State.loadCode_alters (s : State) (b base l : Nat) :
    s.Alters (· ≠ bedA b 0x104) [] (s.loadCode b base l) := by
  have h := ((State.Alters.refl (· ≠ bedA b 0x104) [] s).clearRegs (lo := bedA b 0x40000) (hi := bedA b 0x50000)
    (by unfold bedA; omega)).clearRegs (lo := bedA b 0x1000) (hi := bedA b 0x1400) (by unfold bedA; omega)
  exact (h.trans (State.copyIn_alters _ _ _ _ (by unfold bedA; omega) [])).trans
    (State.copyIn_alters _ _ _ _ (by unfold bedA; omega) [])

/-- BED_STATUS of the spare stays. -/
theorem State.takeoverCopied_alters (s : State) (b : Nat) (m : Move) :
    s.Alters (· ≠ bedA b 0x104) [] (s.takeoverCopied b m) := by
  have hk {o n : Nat} (ho : 0x104 < o) : ∀ k < n, bedA b o + 4 * k ≠ bedA b 0x104 := by unfold bedA; omega
  unfold State.takeoverCopied
  refine State.Alters.clearRegs (State.Alters.foldl (State.Alters.trans ?_ (State.copyIn_alters _ _ _ _
    (by unfold bedA; omega) [])) fun u k _ => (State.Alters.refl _ _ u).wrN (by unfold bedA; omega) _)
    (by unfold bedA; omega)
  refine State.Alters.copyRegs (State.Alters.copyRegs (State.Alters.copyRegs ?_ (hk (by omega))) (hk (by omega)))
    (hk (by omega))
  exact ((s.loadCode_alters b _ _).copyRegs (hk (by omega))).setBit (by unfold bedA; omega) 4 _

/-- A bed that starts anew waits for INIT, with its role and its logical number as they were. -/
theorem State.startBed_starts (s : State) (b arg : Nat) (mv : Option Move) (area : Nat) :
    ((s.startBed b arg mv area).bed b).initPending = some (BitVec.ofNat 16 arg) ∧
    ((s.startBed b arg mv area).bed b).move = mv ∧ ((s.startBed b arg mv area).bed b).startedAt = s.now ∧
    (s.startBed b arg mv area).role b = s.role b ∧ (s.startBed b arg mv area).lbed b = s.lbed b := by
  have hc := (State.Alters.refl (· ≠ bedA b 0x104) [] s).clearRegs (lo := bedA b 0x2000) (hi := bedA b 0x2400)
    (by unfold bedA; omega)
  unfold State.startBed
  dsimp only
  refine ⟨?_, ?_, ?_, ?_, ?_⟩
  · rw [State.bed_setBed_same]
  · rw [State.bed_setBed_same]
  · rw [State.bed_setBed_same]
    rfl
  · rw [State.role_setBed, State.role, State.fld_setFld_below _ _ (by omega) (by omega) (by omega), hc.fld (by simp),
      State.role]
  · rw [State.lbed_setBed, State.lbed, State.fld_setFld_below _ _ (by omega) (by omega) (by omega), hc.fld (by simp),
      State.lbed]

/-- The spare runs in the place of the faulted bed, which shows its successor. -/
def State.takenOver (s : State) (b : Nat) (m : Move) : State :=
  ((((s.setRole b 2).setBed b { s.bed b with move := none }).setFld (bedA m.old 0x104) 19 16 b).clearRegs
    (bedA m.old 0x40000) (bedA m.old 0x50000)).event (bedA m.old 0x108) 3 |>.raise (640 + m.old) 0x26 false b

/-- BED_FAULT_NOTICE to the bed that runs under number 0 (R215 step 6). -/
def State.faultNoticed (s : State) (b : Nat) : State :=
  match s.byLbed 0 with
  | none => s
  | some k => s.setBed k { s.bed k with notice := some (BitVec.ofNat 16 (s.lbed b)) }

theorem State.faultNoticed_alters : s.Alters (fun _ => False) [.beds] (s.faultNoticed b) := by
  unfold State.faultNoticed
  split
  · exact .refl _ _ s
  · exact (State.Alters.refl _ _ s).setBed (by simp) _ _

theorem State.faultNoticed_move (j : Nat) : ((s.faultNoticed b).bed j).move = (s.bed j).move := by
  unfold State.faultNoticed
  split
  · rfl
  · next k _ =>
    by_cases h : j = k
    · rw [h, State.bed_setBed_same]
    · rw [State.bed_setBed_ne _ _ h]

theorem State.takenOver_runs (hb : b < 16) (hold : m.old < 16) (hne : m.old ≠ b) :
    (s.takenOver b m).role b = 2 ∧ ((s.takenOver b m).bed b).move = none ∧
    (s.takenOver b m).fld (bedA m.old 0x104) 19 16 = b ∧ (s.takenOver b m).bit (bedA m.old 0x108) 3 = true := by
  obtain ⟨t, ht⟩ : ∃ t, t = ((s.setRole b 2).setBed b { s.bed b with move := none }).setFld (bedA m.old 0x104) 19 16 b
    :=
    ⟨_, rfl⟩
  have hc := (State.Alters.refl (fun a => a ≠ bedA b 0x104 ∧ a ≠ bedA m.old 0x104) [] t).clearRegs
    (lo := bedA m.old 0x40000) (hi := bedA m.old 0x50000) (by unfold bedA; omega)
  have hz := (hc.bedEvent (o := 0x108) hold (by omega) (by unfold bedA; omega) (by unfold bedA; omega) 3).raise
    (src := 640 + m.old) (fun a ha => ⟨fun e => bedA_not_report _ _ _ (by omega) (e ▸ ha),
      fun e => bedA_not_report _ _ _ (by omega) (e ▸ ha)⟩) 0x26 false b
  have he : s.takenOver b m = ((t.clearRegs (bedA m.old 0x40000) (bedA m.old 0x50000)).event (bedA m.old 0x108) 3).raise
      (640 + m.old) 0x26 false b := by
    rw [State.takenOver, ht]
  rw [he]
  refine ⟨?_, ?_, ?_, ?_⟩
  · rw [State.role, hz.fld (by simp), ht, State.fld_setFld_ne _ _ _ _ _ _ (by unfold bedA; omega), State.fld_setBed,
      State.setRole, State.fld_setFld_same _ _ (by omega) (by omega)]
    rfl
  · rw [hz.bed (by simp), ht, State.bed_congr (State.setFld_quiet _ _ _ _ _).beds, State.bed_setBed_same]
  · rw [hz.fld (by simp), ht, State.fld_setFld_same _ _ (by omega) (by omega)]
    exact Nat.mod_eq_of_lt hb
  · have hbit := (State.bit_event_same (t.clearRegs (bedA m.old 0x40000) (bedA m.old 0x50000)) (a := bedA m.old 0x108)
      (b := 3) (by omega) fun k i base e => by
        rw [blockOf_bed hold (by omega)] at e
        obtain ⟨-, -, rfl⟩ := e
        unfold bedA; omega).1
    rw [State.raise, State.bit_congr (State.rd_raiseAs_ne _ _ _ _ _ (bedA_not_report _ _ _ (by omega))), hbit]

theorem exec_takeoverLoad_done {bed : Fin 16} (hm : (s.bed bed.val).move = some m) (hrun : s.enginesRun = true)
    (h3 : s.role bed.val = 3) (hwhy : m.why = 0) (hst : m.stage = 1) :
    exec (.takeoverLoad bed) s = done s (s.takeoverLoad bed.val m) := by
  rw [exec_takeoverLoad, execTakeoverLoad]
  simp only [hm, hrun, h3, hwhy, hst]
  rfl

theorem exec_takeoverDone_done {bed : Fin 16} (hm : (s.bed bed.val).move = some m) (h3 : s.role bed.val = 3)
    (hwhy : m.why = 0) (hst : m.stage = 3)
    (hfree : ∀ r, r < 12 → s.fld (routeA r) 3 0 = bed.val → s.bit (routeA r) 8 = false) :
    exec (.takeoverDone bed) s = done s ((s.takenOver bed.val m).faultNoticed bed.val) := by
  have hany : (List.range 12).any (fun r => s.fld (routeA r) 3 0 == bed.val && s.bit (routeA r) 8) = false := by
    simpa using hfree
  rw [exec_takeoverDone, execTakeoverDone]
  simp only [hm, h3, hwhy, hst, hany]
  rfl

/-- The self-test over. -/
def State.selfTested (s : State) (b : Nat) : State := s.setBed b { s.bed b with reviving := false }

theorem exec_reviveSelftestEnd_failed {bed : Fin 16} (hrev : (s.bed bed.val).reviving = true) :
    exec (.reviveSelftestEnd bed false) s = done s (s.selfTested bed.val) := by
  rw [exec_reviveSelftestEnd, execReviveSelftestEnd, if_pos hrev]
  rfl

/-- Without a fallback that waits for a spare, nothing follows. -/
theorem exec_reviveSelftestEnd_passed {bed : Fin 16} (hrev : (s.bed bed.val).reviving = true)
    (h4 : s.role bed.val = 4) (hact : s.actState ≠ 4) :
    exec (.reviveSelftestEnd bed true) s = done s ((s.selfTested bed.val).setRole bed.val 1) := by
  have hact' : ((s.selfTested bed.val).setRole bed.val 1).actState = s.actState := by
    rw [State.actState, State.setRole, State.fld_setFld_ne _ _ _ _ _ _ (by unfold bedA rtsA; omega), State.selfTested,
      State.fld_setBed, State.actState]
  have hrole : (s.selfTested bed.val).role bed.val = 4 := (State.role_setBed _ _ _ _).trans h4
  rw [State.selfTested] at hact' hrole
  rw [exec_reviveSelftestEnd, execReviveSelftestEnd, if_pos hrev]
  simp only [hrole, hact', hact]
  rfl

end

/-- Settles O51: clause by clause, each from what its command does to the bed. -/
theorem bedCommands : Obligations.BedCommands := by
  unfold Obligations.BedCommands
  intro bed s b y
  have hb : b < 16 := bed.isLt
  refine ⟨fun k dl w2 arg ha hrun hd => ?fires, fun k w2 arg hf hq => ?enters, fun hh => ⟨fun v harm hv => ?fail,
    fun v harm => ?locked, fun h4 => ?revive⟩, fun hrun => ⟨?cause0, fun c hc => ?fault⟩,
    fun m hm hwhy hold hne h3 => ⟨fun hrun hst => ?load, fun hst hfree => ?done⟩,
    fun hrev h4 => ⟨?failed, fun hact => ?passed⟩, fun v hh => ?hwm⟩
  case fires =>
    by_cases hq : 1024 ≤ y.evq.length
    · refine completes_closed ((exec_timerFire bed k s).trans
        (congrArg (done s) (State.timerFire_full ha hrun hd hq))) ?_
      have hz := ((State.Alters.refl (fun _ => True) [.beds] s).setBed (by simp) b (y.withTimer k.val
        { y.timer k.val with armed := none, fired := some (w2, arg) })).doneWith
      rw [State.closed_bed, State.bed_setBed_same, Bed.withTimer_get]
      exact ⟨rfl, fun _ => ⟨rfl, rfl⟩, fun h => absurd hq (by omega), hz.parts⟩
    · refine completes_closed ((exec_timerFire bed k s).trans (congrArg (done s)
        (State.timerFire_room ha hrun hd (Nat.lt_of_not_le hq)))) ?_
      obtain ⟨h1, h2, h3⟩ := timerQueue_entered (s := s) (w2 := w2) (arg := arg) bed k.val
        { y.timer k.val with armed := none }
      exact ⟨congrArg Timer.armed h1, fun h => absurd h hq, fun _ => h2, h3⟩
  case enters =>
    obtain ⟨h1, h2, h3⟩ := timerQueue_entered (s := s) (w2 := w2) (arg := arg) bed k.val
      { y.timer k.val with fired := none }
    exact completes_closed (exec_timerEnqueue_room hf hq) ⟨congrArg Timer.fired h1, h2, h3⟩
  case hwm =>
    refine completes_closed (exec_queueHwmReset_acts hh v) ?_
    have hz := (((tallyHif_alters s).mono (Q := fun r => counting r ∨ r = bedA b 0x15C) (qs := []) (fun _ => .inl)
      (by simp)).setFld (.inr rfl) 10 0 ((s.tallyHif 3 1).bed b).evq.length).doneWith
    refine ⟨?_, hz.parts, hz.regs⟩
    rw [State.closed_fld, State.fld_setFld_same _ _ (by omega) (by omega), (tallyHif_alters s).bed (by simp)]
    rfl
  case fail =>
    refine completes_closed (exec_fail_acts hh v) ?_
    rw [State.closed_role, State.closed_bit, State.armed, State.closed_bit]
    exact State.bedCtrlWrite_fails hb ((armed_counted s b).trans harm) hv
  case locked =>
    obtain ⟨h1, h2, h3⟩ := State.bedCtrlWrite_lockedWrite hb ((armed_counted s b).trans harm) v
    refine completes_closed (exec_fail_acts hh v) ?_
    rw [State.closed_role, State.closed_rd]
    exact ⟨State.fld_congr (h1.trans (tallyHif_rd s (bedA_not_counting _ _))) 2 0,
      h2.trans (tallyHif_rd s (bedA_not_counting _ _)), hifReported_counted (by omega) (tallyHif_alters s).regs h3⟩
  case revive =>
    have hf : (s.tallyHif 3 1).fld (bedA b 0x100) 4 4 < 2 := bitsOf_lt _ 4 4
    obtain ⟨h0, h1⟩ := reviveWord_bits hf
    refine completes_closed (exec_revive_acts hh) ?_
    rw [State.closed_bed, State.closed_role]
    exact State.bedCtrlWrite_revives hb ((State.fld_congr (tallyHif_rd s (bedA_not_counting _ _)) 2 0).trans h4) h0 h1
  case cause0 =>
    obtain ⟨hz, hbit⟩ := State.bedFault_shared (s := s) hb
    have he : exec (.bedFault bed 0) s = done s (s.bedFault b 0) := exec_bedFault_done hrun (.inl (by decide))
    refine completes_closed he ?_
    rw [State.closed_role, State.closed_bit]
    exact ⟨hz.fld (by simp) 2 0, hbit, hz.doneWith.parts⟩
  case fault =>
    have hc0 : c.val ≠ 0 := by
      obtain rfl | rfl | ⟨rfl, -⟩ := hc <;> decide
    have hcause : c.val ≠ 1 ∨ max 1 (s.fld (bedA b 0x110) 13 8) < s.fld (bedA b 0x104) 13 8 := by
      obtain rfl | rfl | ⟨-, h⟩ := hc
      · exact .inl (by decide)
      · exact .inl (by decide)
      · exact .inr h
    refine completes_closed (exec_bedFault_done hrun hcause) ?_
    rw [State.closed_role, State.closed_bed]
    exact ⟨State.bedFault_role hb hc0, fun h => (State.bedFault_faults hb hc0 h).2.1⟩
  case load =>
    have hz := s.takeoverCopied_alters b m
    obtain ⟨hinit, hmove, hstart, hrole, hlbed⟩ :=
      (s.takeoverCopied b m).startBed_starts b 1 (some { m with stage := 2 }) (s.bed m.old).area
    have hnow : (s.takeoverCopied b m).now = s.now := hz.part (p := .now) (by simp)
    refine completes_closed (exec_takeoverLoad_done hm hrun h3 hwhy hst) ?_
    rw [State.closed_bed, State.closed_role, State.closed_lbed, State.takeoverLoad_eq, hinit, hmove, hstart, hrole,
      hlbed, hnow]
    exact ⟨rfl, rfl, rfl, (hz.fld (by simp) 2 0).trans h3, hz.fld (by simp) 7 4⟩
  case done =>
    obtain ⟨h1, h2, h3', h4⟩ := State.takenOver_runs (s := s) hb hold hne
    have hz := State.faultNoticed_alters (s := s.takenOver b m) (b := b)
    refine completes_closed (exec_takeoverDone_done hm h3 hwhy hst hfree) ?_
    rw [State.closed_role, State.closed_bed, State.closed_fld, State.closed_bit]
    exact ⟨(hz.fld id 2 0).trans h1, (State.faultNoticed_move b).trans h2, (hz.fld id 19 16).trans h3',
      (hz.bit id 3).trans h4⟩
  case failed =>
    refine completes_closed (exec_reviveSelftestEnd_failed hrev) ?_
    rw [State.closed_role, State.closed_bed, State.selfTested, State.role_setBed, State.bed_setBed_same]
    exact ⟨h4, rfl⟩
  case passed =>
    refine completes_closed (exec_reviveSelftestEnd_passed hrev h4 hact) ?_
    rw [State.closed_role, State.closed_bed, State.role, State.setRole, State.fld_setFld_same _ _ (by omega) (by omega),
      State.bed_congr (State.setFld_quiet _ _ _ _ _).beds, State.selfTested, State.bed_setBed_same]
    exact ⟨rfl, rfl⟩

end Sys2Proof.Machine
end
